-- ==== Sys2Proof/Word.lean ====
section
/-! DEFINITION. Word types of the WR-1M: bytes, 32-bit registers, command words, flit data, and the sparse table. -/

namespace Sys2Proof

/-- A byte of TM, CM, AM or HBM. -/
abbrev Byte := BitVec 8

/-- A register, and a node ID (R100, R334). -/
abbrev Word := BitVec 32

/-- LAYER, OPER and TAG are 16 bits wide (R330). -/
abbrev Half := BitVec 16

/-- A command word of CM (R151). -/
abbrev CmdWord := BitVec 128

/-- The data of one flit (R325). -/
abbrev FlitBits := BitVec 256

/-- Sparse data by key: an unlisted key reads as the default that its accessor names. -/
abbrev Tab (α : Type) := List (Nat × α)

end Sys2Proof
end

