-- ==== Sys2Proof/Syntax.lean ====
section
/-! DEFINITION. The commands of the block: one constructor of Instr per row of spec/opcode_table.json, and the operand types. -/

namespace Sys2Proof

/-- A register page (R89 to R94, Table 3.6): tile pages by tile index y*128 + x, MEM pages by column and edge
(0 north, 1 south), OSW and TKP by die (0 IOW, 1 IOE), LLK, ETH and GLZ by global instance number. -/
inductive Page where
  | til (t : Nat) | seq (t : Nat) | cmp (t : Nat) | mov (t : Nat) | cmb (t : Nat) | rtr (t : Nat) | dbg (t : Nat)
  | mem (x e : Nat) | osw (d : Nat) | llk (n : Nat) | eth (n : Nat) | glz (n : Nat) | tkp (d : Nat)
  | mgt | scr | hif | dbgp
  deriving DecidableEq, Repr

/-- Who makes a register access: a requester of the page arbiter (R115). A fabric requester is its source node ID. -/
inductive Src where
  | host | mgt | fabric (node : Word)
  deriving DecidableEq, Repr

/-- A place that injects into the fabric or holds endpoints: a tile, a memory edge port, an I/O die (R315). -/
inductive Place where
  | tile (t : Nat) | mem (x e : Nat) | io (d : Nat)
  deriving DecidableEq, Repr

/-- A place of gate lists (Table 12.1). -/
inductive GPlace where
  | mov (t : Nat) | llk (n : Nat) | eth (n : Nat)
  deriving DecidableEq, Repr

/-- An edge with a synchronising bridge (Table 2.4). -/
inductive SyncEdge where
  | llk (n : Nat) | eth (n : Nat) | mem (x e : Nat) | pcie
  deriving DecidableEq, Repr

/-- A hardware update of bits [hi:lo] of the accessed register that collides with a software access (R116):
a new value, or an increment of a counter. -/
structure HwUpd where
  hi : Nat
  lo : Nat
  val : Nat
  inc : Bool
  deriving DecidableEq, Repr

/-- A physical memory error that appears in the 32-byte unit holding a byte key: correctable, or uncorrectable
(for good, or for one read only, R703); or, with `par`, a command/address parity error of the access at a memory edge,
for good or passing at its retry (Table 14.1). -/
structure UFault where
  key : Nat
  ue : Bool
  once : Bool
  par : Bool := false
  deriving DecidableEq, Repr

/-- A data flit: 256 data bits and the POI mark of its sideband (R325). -/
structure Flit where
  bits : FlitBits
  poi : Bool
  deriving DecidableEq, Repr

/-- A packet: the fields of the header flit (Table 8.2), its data flits, and END of the last of them (Table 8.1). -/
structure Packet where
  dst : Word := 0
  src : Word := 0
  opc : BitVec 8 := 0
  len : BitVec 7 := 0
  dirx : Bool := false
  diry : Bool := false
  mc : Bool := false
  mcg : BitVec 12 := 0
  tag : Half := 0
  layer : Half := 0
  oper : Half := 0
  tent : Bool := false
  color : BitVec 2 := 0
  tc : BitVec 3 := 0
  addr : BitVec 48 := 0
  aux : Word := 0
  spart : BitVec 4 := 0
  rsv : BitVec 8 := 0
  hcrc : Half := 0
  data : List Flit := []
  endb : Nat := 31
  /-- byte enables of a host write on its way to a page (R102): the header has no field for them -/
  be : BitVec 4 := 0xF
  /-- PSEL of the source, sampled when the packet was injected (R351): no field of the header either -/
  psel : Nat := 0
  deriving DecidableEq, Repr

/-- The frame header of a Llynnil link (Table 13.1), with the CRC-32 received. -/
structure LFrame where
  ftype : BitVec 4
  vc : BitVec 2
  seq : BitVec 12
  len : BitVec 7
  endb : BitVec 5
  poi : Bool
  ackseq : BitVec 12
  ackv : Bool
  rpl : Bool
  cvc : BitVec 2
  ccnt : BitVec 10
  crc : Word
  deriving DecidableEq, Repr

/-- An LF-128 block on its way to a link (R551, R552): the shares of the lanes as the partner sent them, by lane number;
the wrong bits, each a lane and a bit of its share. -/
structure LfBlock where
  shares : List (List Byte)
  errs : List (Nat × Nat)
  deriving DecidableEq, Repr

/-- The contents of a SYNC message (Table 11.2). -/
structure SyncMsg where
  t1 : Nat
  era : Nat
  epoch : Nat
  hops : Nat
  trace : Bool
  lanesel : Bool
  deriving DecidableEq, Repr

/-- What MGT finds in an image slot (R783): the header words and the two results of its digest and signature checks. -/
structure Image where
  magic : Word
  length : Nat
  svn : Word
  zeros : Bool
  keyOk : Bool
  sigOk : Bool
  deriving DecidableEq, Repr

/-- A configuration request (R613): a read, or a write of Bus Master Enable or of the MSI-X function mask. -/
inductive CfgOp where
  | read | setBme (b : Bool) | setFmask (b : Bool)
  deriving DecidableEq, Repr

/-- A difference that Fuller finds in a replicated record (Table 17.5). -/
inductive CopyDiff where
  /-- bit of the route record of the router of tile t -/
  | route (t bit : Nat)
  /-- bit of a half of the dead-target map of the router of tile t -/
  | dead (t bit : Nat)
  /-- bit of a word of an entry of a gate list pair, an entry past the table's end standing for base, cycle and length;
  whether the per-entry checks of the oper and admin copies pass -/
  | gate (g : GPlace) (entry word bit : Nat) (operOk admOk : Bool)
  /-- bit of the calibration record of tile t -/
  | calib (t bit : Nat)
  deriving DecidableEq, Repr

/-- A requester whose answers are timed (R700). -/
inductive Requester where
  | mov (t : Nat) (tag : Half) | cmb (t q : Nat) (tag : Half) | til (t i : Nat)
  deriving DecidableEq, Repr

/-- The commands, one constructor per row of spec/opcode_table.json, in the table's order. Each docstring names the row's rule. -/
inductive Instr where
  /-- EDGE_ABSENT_REQUEST (R49). A request addressed to a memory edge of an unpopulated site reaches the column end junction, which answers NAK(OFF) without an edge step, or discards it silently if it is a TRACE packet. -/
  | edgeAbsentRequest (x e : Nat)
  /-- IOE_ABSENT_REQUEST (R53). On an L1 assembly, a request addressed to an IOE edge node reaches the row end junction, which answers NAK(OFF) without an edge step. -/
  | ioeAbsentRequest (y : Nat)
  /-- SYNC_WORD_FAILURE (R86). A synchroniser resolution failure corrupts one bridge word; the edge check detects it and counts it as a transient error of that resource. -/
  | syncWordFailure (g : SyncEdge)
  /-- REGISTER_WRITE (R141). A host, fabric or MGT write to a register that has no row of its own is applied, or discarded under the RANGE, LOCKED, HWOWN and PARTIAL rules and logged. -/
  | registerWrite (src : Src) (p : Page) (off : Nat) (v : Word) (be : BitVec 4) (hw : Option HwUpd)
  /-- RC_READ (R119). A read of a read-clear field samples the field and clears it at one instant within its grant. -/
  | rcRead (src : Src) (p : Page) (off : Nat) (before after : Option HwUpd)
  /-- REGISTER_PAIR_READ (R104). A read of the lower register of a register pair latches the upper half, which the next read of the upper register returns. -/
  | registerPairRead (src : Src) (p : Page) (off : Nat)
  /-- HIF_SYNC_READ (R133). A host read of HIF_SYNC completes only after every earlier host write to BAR0, BAR2 and BAR4 has been applied. -/
  | hifSyncRead
  /-- PG_LOCK (R122). Writing 1 to PG_LOCK.LK locks the page's RWL fields, and the WO fields of MGT_RST on the MGT page, until a reset whose scope covers the page. -/
  | pgLock (src : Src) (p : Page)
  /-- PG_IFR (R127). Writing 1 to a bit of PG_IFR sets the matching PG_ISR bit. -/
  | pgIfr (src : Src) (p : Page) (v : Word)
  /-- SRST (R793). Writing PG_CTL.SRST resets the block's registers and state as Table 19.5 gives; the write is discarded on CMP, MOV and CMB while a SEQ context of the tile is active. -/
  | srst (src : Src) (p : Page)
  /-- EVR_CLR (R111). Writing PG_EVR_CTL.CLR empties the page's sillage ring and zeroes PG_EVR_PTR. -/
  | evrClr (src : Src) (p : Page)
  /-- PERF_CLR (R751). Writing PG_PERF_CTL.CLR zeroes the engine's main time counters and its part of the TENT set in one grant. -/
  | perfClr (src : Src) (p : Page)
  /-- SEQ_ISSUE_SLOT (R147). In each issue slot SEQ takes the next command from the lowest-numbered context able to issue, and places an engine command in its engine queue. -/
  | seqIssueSlot (t : Nat) (flt : List UFault)
  /-- NOP (R154). SEQ issues a NOP, which has no action. -/
  | nop (t : Nat)
  /-- END (R209). END places the context in DRAIN. -/
  | endList (t : Nat)
  /-- JMP (R172). An unconditional branch to TARGET, with one delay slot that A annuls. -/
  | jmp (t : Nat)
  /-- BR (R177). A conditional branch issues, is predicted unless its outcome is final at issue or LOCKSTEP = 1, and has one delay slot. -/
  | br (t : Nat)
  /-- BRANCH_RESOLVE (R190). A branch's condition becomes final; SEQ updates the predictor and commits or squashes the younger commands of its context. -/
  | branchResolve (t lc k : Nat)
  /-- LDLC (R178). Loads a loop counter of the context with VAL. -/
  | ldlc (t : Nat)
  /-- SEM_SET (R157). A SEM command with OP SET writes VAL to a semaphore. -/
  | semSet (t : Nat)
  /-- SEM_ADD (R158). A SEM command with OP ADD adds VAL to a semaphore, saturating and setting SEMSAT. -/
  | semAdd (t : Nat)
  /-- SEM_SUB (R158). A SEM command with OP SUB subtracts VAL from a semaphore, saturating at 0 and setting SEMSAT. -/
  | semSub (t : Nat)
  /-- SIG (R198). SIG is placed in the MOV queue and sent as one SIGNAL packet, completing when the packet is injected. -/
  | sig (t : Nat)
  /-- WAIT (R161). WAIT holds its context until the relation between a semaphore and IMM holds. -/
  | wait (t : Nat)
  /-- WAIT_RELEASE (R161). The awaited semaphore relation comes to hold; the context continues and, with DEC = 1, IMM is subtracted atomically. -/
  | waitRelease (t lc : Nat)
  /-- WAITSEL (R163). WAITSEL holds its context until a receive queue marked in MASK is non-empty. -/
  | waitsel (t : Nat)
  /-- WAITSEL_SELECT (R163). A queue marked in MASK becomes non-empty; WAITSEL selects it by PRIO or ROT and writes its index to DSEM. -/
  | waitselSelect (t lc : Nat)
  /-- WAIT_TIMEOUT (R168). The timeout of a WAIT or WAITSEL expires before its condition holds, and the context faults with WAITTO. -/
  | waitTimeout (t lc : Nat)
  /-- FENCE (R169). FENCE holds its context until the context's earlier commands in the marked engines have completed. -/
  | fence (t : Nat)
  /-- FENCE_COMPLETE (R170). The awaited commands have completed; FENCE completes with OK or FAIL, writing FENCEF and clearing MOV FAIL. -/
  | fenceComplete (t lc : Nat)
  /-- HDR (R155). An HDR word issued anywhere but at the list base faults the context with BADCMD. -/
  | hdr (t : Nat)
  /-- CONTEXT_DRAINED (R209). Every command of a context in DRAIN has completed; SEQ returns its resources, sets it IDLE and sets DONEn unless it was aborted. -/
  | contextDrained (t lc : Nat)
  /-- LOAD (R200). Writing SEQ_LCn_CTL.LOAD requests the start of the list at SEQ_LCn_BASE. -/
  | load (src : Src) (t lc : Nat)
  /-- LOAD_DECISION (R202). SEQ checks the header against free resources in grant order and admits the list or refuses it. -/
  | loadDecision (t lc : Nat)
  /-- ABORT (R211). Writing SEQ_LCn_CTL.ABORT stops issue on the context, squashes its tentative commands and drains it without DONEn. -/
  | abort (src : Src) (t lc : Nat)
  /-- PREDCLR (R185). Writing SEQ_CTL.PREDCLR invalidates every prediction-table entry. -/
  | predclr (src : Src) (t : Nat)
  /-- TDESC (R253). TDESC checks and loads a tensor descriptor of the context, or marks it invalid and reports BADTD. -/
  | tdesc (t : Nat)
  /-- MM (R256). CMP computes D = A·B. -/
  | mm (t : Nat) (flt : List UFault)
  /-- MMA (R256). CMP computes D = D + A·B. -/
  | mma (t : Nat) (flt : List UFault)
  /-- MMT (R256). CMP computes D = A·B transposed. -/
  | mmt (t : Nat) (flt : List UFault)
  /-- ADD (R256). CMP computes the elementwise sum of A and B into D. -/
  | add (t : Nat) (flt : List UFault)
  /-- SUB (R256). CMP computes the elementwise difference of A and B into D. -/
  | sub (t : Nat) (flt : List UFault)
  /-- MUL (R256). CMP computes the elementwise product of A and B into D. -/
  | mul (t : Nat) (flt : List UFault)
  /-- MAX (R256). CMP computes the elementwise maximum of A and B into D. -/
  | max (t : Nat) (flt : List UFault)
  /-- MIN (R256). CMP computes the elementwise minimum of A and B into D. -/
  | min (t : Nat) (flt : List UFault)
  /-- FMA (R256). CMP computes D = A·B + D elementwise. -/
  | fma (t : Nat) (flt : List UFault)
  /-- SCALE (R256). CMP computes D = A·IMM0. -/
  | scale (t : Nat) (flt : List UFault)
  /-- ABS (R256). CMP computes D = |A|. -/
  | abs (t : Nat) (flt : List UFault)
  /-- NEG (R256). CMP computes D = −A. -/
  | neg (t : Nat) (flt : List UFault)
  /-- LUT (R258). CMP evaluates a 257-entry piecewise-linear table per element. -/
  | lut (t : Nat) (flt : List UFault)
  /-- RSUM (R256). CMP writes the sum of each row of A to D. -/
  | rsum (t : Nat) (flt : List UFault)
  /-- RMAX (R256). CMP writes the maximum of each row of A to D. -/
  | rmax (t : Nat) (flt : List UFault)
  /-- RMIN (R256). CMP writes the minimum of each row of A to D. -/
  | rmin (t : Nat) (flt : List UFault)
  /-- RSSQ (R256). CMP writes the sum of squares of each row of A to D. -/
  | rssq (t : Nat) (flt : List UFault)
  /-- TRANS (R256). CMP writes the transpose of A to D. -/
  | trans (t : Nat) (flt : List UFault)
  /-- CPY (R256). CMP copies A to D. -/
  | cpy (t : Nat) (flt : List UFault)
  /-- CVT (R260). CMP converts A to D's type, rounded by RND. -/
  | cvt (t : Nat) (flt : List UFault)
  /-- FILL (R256). CMP sets every element of D to IMM0. -/
  | fill (t : Nat) (flt : List UFault)
  /-- CMP_COMPLETE (R262). A CMP command's duration ends; it completes, applies CSE and reports completion to SEQ. -/
  | cmpComplete (t : Nat)
  /-- MADDR (R265). MOV sets SPACE, AINC and ADDR of an address descriptor. -/
  | maddr (t : Nat)
  /-- MNODE (R265). MOV sets NODE and RECT of an address descriptor. -/
  | mnode (t : Nat)
  /-- COPY (R266). MOV starts a COPY: it checks pair, address and window, then splits the transfer into RD, WR, WRA, REGRD or REGWR packets, or multicast WR. -/
  | copy (t : Nat) (flt : List UFault)
  /-- MOV_MSG (R270). MOV starts a MSG command, sending one message to an RQ or a multicast rectangle, or one RESV when tentative. -/
  | movMsg (t : Nat) (flt : List UFault)
  /-- MOV_CONTRIB (R269). MOV starts a CONTRIB command, sending CONTRIB packets to a CQ, or one RESV when tentative. -/
  | movContrib (t : Nat) (flt : List UFault)
  /-- MOV_COMPLETE (R278). Every packet of a MOV command has been answered; the command completes and applies CSE unless it failed. -/
  | movComplete (t : Nat)
  /-- MOV_RESEND (R289). A retry interval expires after a NAK FULL, HOLD or POLICED, and MOV resends the packet with the same TAG. -/
  | movResend (t : Nat) (tag : Half)
  /-- PEL_CLR (R284). Writing MOV_PEL_CTL.CLR empties the posted-error log and clears OVF. -/
  | pelClr (src : Src) (t : Nat)
  /-- INJECT_PACKET (R293). An injection queue whose gate is open is served in rotation, and its head packet is injected at the L port. -/
  | injectPacket (p : Place)
  /-- WRACK_TIMER (R279). 500 ns pass after the oldest unacknowledged posted packet from a source, and the endpoint sends a WRACK. -/
  | wrackTimer (p : Place) (me src : Word)
  /-- RD (R336). An RD request reaches TM or a memory edge, is checked, and is answered with RDRSP, NAK or DEAD. -/
  | rd (p : Place) (flt : List UFault)
  /-- WR (R336). A posted WR reaches TM or a memory edge, is checked, and is applied in 32-byte units or answered with WFN or NAK. -/
  | wr (p : Place) (flt : List UFault)
  /-- WRA (R336). A WRA reaches TM or a memory edge, is applied, and is answered with WRACK of count 1, WFN or NAK. -/
  | wra (p : Place) (flt : List UFault)
  /-- MSG (R403). A MSG reaches an RQ and is written to its ring, stalled under BP, or refused. -/
  | msg (t : Nat)
  /-- CONTRIB (R435). A CONTRIB reaches a CQ; accepted values are added into the accumulators and group counts, or the packet is refused. -/
  | contrib (p : Place) (flt : List UFault)
  /-- CRES (R404). A CRES result packet reaches TM or an RQ and is written or refused. -/
  | cres (t : Nat)
  /-- RESV (R229). A RESV reaches an RQ or CQ and is granted with RSVACK or refused with NAK(TENT_REFUSED). -/
  | resv (t : Nat)
  /-- CONF (R234). A CONF confirms a held reservation at the receiving CMB, or is ignored. -/
  | conf (t : Nat)
  /-- WDRW (R234). A WDRW withdraws a held reservation and restores its amount, or is ignored. -/
  | wdrw (t : Nat)
  /-- REGRD (R106). A REGRD reaches a register endpoint and is answered with REGRSP carrying the register value, or with NAK. -/
  | regrd (p : Place)
  /-- REGWR (R106). A REGWR reaches a register endpoint, is applied, and is answered with REGRSP carrying a status. -/
  | regwr (p : Place)
  /-- SIGNAL (R159). A SIGNAL reaches the SEM endpoint and adds its value to the named semaphore. -/
  | signal (t : Nat)
  /-- TRACE (R766). A TRACE packet reaches a memory edge and is written as a posted write, or discarded silently. -/
  | trace (x e : Nat)
  /-- RDRSP (R224). A read response arrives; its data is written to TM, held in the TRB, or sunk. -/
  | rdrsp (p : Place)
  /-- WRACK (R337). A WRACK arrives and answers the COUNT oldest unanswered posted packets. -/
  | wrack (p : Place)
  /-- WFN (R283). A WFN arrives and fails one posted packet at its requester. -/
  | wfn (p : Place)
  /-- NAK (R288). A NAK arrives; the request is scheduled for retry or fails. -/
  | nak (p : Place)
  /-- DEAD (R283). A DEAD answer arrives and fails the request at once. -/
  | dead (p : Place)
  /-- RSVACK (R233). An RSVACK arrives and moves the source reservation to GRANTED, or is sunk. -/
  | rsvack (p : Place)
  /-- REGRSP (R106). A REGRSP arrives at its requester, for example completing a host access or a lease request. -/
  | regrsp (p : Place)
  /-- RESV_HELD_EXPIRY (R234). 1 ms passes after a RESV with neither CONF nor WDRW; the reservation is freed and the expiry is counted. -/
  | resvHeldExpiry (t : Nat) (who ep : Word) (tag : Half)
  /-- CONF_TIMEOUT (R234). CONFTO ms pass after a CONF with no payload; the confirmed reservation is freed and the expiry is counted. -/
  | confTimeout (t : Nat) (who ep : Word) (tag : Half)
  /-- LEASE_REQUEST (R302). TIL_LEASEi.REQ goes from 0 to 1; STATE becomes PENDING and TIL reads the lender's TIL_LEND. -/
  | leaseRequest (src : Src) (t i lreg lx : Nat)
  /-- LEASE_END (R303). TIL_LEASEi.REQ goes to 0 and the lease becomes OFF. -/
  | leaseEnd (src : Src) (t i : Nat)
  /-- LEASE_DELIVERY (R307). TIL_LCFG.RT ns pass after a lease RD, and MOV delivers the held response header. -/
  | leaseDelivery (t : Nat) (tag : Half)
  /-- ROUTER_PACKET (R333). A packet arrives at a router; it is checked, routed, delivered to the L port, or answered for an isolated tile. -/
  | routerPacket (t port vc : Nat) (hdrErr : Bool) (parErr : List Nat)
  /-- FORK_ACCEPT (R375). The fork buffer gains room for a whole waiting multicast packet, and the fork router accepts it. -/
  | forkAccept (t port vc : Nat)
  /-- FORK_BRANCH_START (R376). A multicast branch's output VC is granted and the branch starts forwarding. -/
  | forkBranchStart (t slot bi : Nat)
  /-- CREDIT_RETURN (R323). A flit consumed downstream returns one credit for its VC. -/
  | creditReturn (t port vc : Nat)
  /-- KEEPALIVE_SEND (R392). Once per µs of NT, each router-to-router link sends a keep-alive transition. -/
  | keepaliveSend (t port : Nat)
  /-- KEEPALIVE_TIMEOUT (R392). A port sees no keep-alive for 100 µs and reports its neighbour failed, raising FABFAIL. -/
  | keepaliveTimeout (t port : Nat)
  /-- TIL_ISO_OFF (R383). Writing TIL_ISO.OFF = 1 powers down the engines and isolates the tile. -/
  | tilIsoOff (src : Src) (t : Nat)
  /-- WATCHDOG_EXPIRY (R390). The head request for a tile is neither consumed nor answered for TIL_WDOG.TO µs, and the tile is isolated. -/
  | watchdogExpiry (t : Nat)
  /-- VCORE_POWER_LOSS (R383). A tile's VCORE domain loses power; the bridge clamps and the tile is isolated. -/
  | vcorePowerLoss (t : Nat)
  /-- DEQ (R417). DEQ copies the head entry of an RQ to TM and removes it, releasing a stalled BP message that now fits. -/
  | deq (t : Nat) (flt : List UFault)
  /-- DROP (R419). DROP removes the head entry of an RQ. -/
  | drop (t : Nat)
  /-- CQARM (R430). CQARM checks and arms a combining queue, loading K and zeroing its accumulators. -/
  | cqarm (t : Nat)
  /-- CQ_ARMED (R431). AM zeroing ends; the CQ enters ARMED and the CQARM completes. -/
  | cqArmed (t n : Nat)
  /-- CQRST (R453). CQRST returns a CQ to IDLE, discarding its accumulators and releasing its reservations. -/
  | cqrst (t : Nat)
  /-- BP_HOLD_EXPIRY (R408). A stalled BP message reaches BP_HOLD and is refused with NAK(HOLD). -/
  | bpHoldExpiry (t n : Nat)
  /-- REFUSAL_ENTRY_EXPIRY (R414). A refusal-table entry reaches CMB_CHCFG.REFTO µs and clears. -/
  | refusalEntryExpiry (t n : Nat)
  /-- CMB_RQ_EN (R408). Writing CMB_RQn_CFG.EN enables an RQ, or disables it, emptying the ring and refusing a stalled message with NAK(OFF). -/
  | cmbRqEn (src : Src) (t n : Nat) (en : Bool)
  /-- CQ_EN (R453). Writing CMB_CQn_CFG.EN moves a CQ between OFF and IDLE. -/
  | cqEn (src : Src) (t n : Nat) (en : Bool)
  /-- CMB_RESEND (R451). A retry interval expires and CMB resends a refused result packet. -/
  | cmbResend (t n : Nat) (tag : Half)
  /-- TIME_WAVE (R472). NT[19:0] reaches 0; TKP0 emits a time wave that tiles calibrate against and that applies any pending step. -/
  | timeWave (bad : List Nat)
  /-- NT_WRAP (R462). NT passes 2^64 − 1; it continues from 0 and ERA increases, or ERAOVF is set. -/
  | ntWrap
  /-- TKP_SRC (R467). A write of TKP_CTL that changes SRC restarts the package time state at FREE and then ACQUIRE or FWST. -/
  | tkpSrc (src : Src) (v : Word)
  /-- FWST (R467). Writing TKP_CTL.FWST with SRC = PTP sets the package time state. -/
  | fwst (src : Src) (v : Word)
  /-- PPS_IN_EDGE (R496). A rising edge of PPS_IN is captured in TKP_PPSCAP and drives the PPS_IN acquisition and lock. -/
  | ppsInEdge
  /-- PPS_LOSS (R467). No PPS_IN edge arrives for 2 s while LOCKED, and the package enters HOLDOVER. -/
  | ppsLoss
  /-- HOLDOVER_EXPIRY (R467). TKP_HOLD seconds pass in HOLDOVER, and the package returns to FREE. -/
  | holdoverExpiry
  /-- TKP_PHASE (R468). Writing TKP_PHASE sets a signed phase correction that is slewed out. -/
  | tkpPhase (src : Src) (v : Word)
  /-- TKP_STEP (R468). Writing TKP_STEP_LO and TKP_STEP_HI schedules a signed step for the next time wave, or is refused. -/
  | tkpStep (src : Src) (lo hi : Word)
  /-- RTC_SET (R493). Writing RTC_SET_LO and RTC_SET_HI loads the RTC seconds, zeroes the fraction and clears VLOST. -/
  | rtcSet (src : Src) (lo hi : Word)
  /-- RTCSYNC (R493). Writing TKP_CTL.RTCSYNC requests a load of the RTC from NT. -/
  | rtcsync (src : Src)
  /-- RTC_LOAD_FROM_NT (R493). The next whole TAI second of T arrives after RTCSYNC, and the RTC is loaded from NT. -/
  | rtcLoadFromNt
  /-- RTC_FRAC_READ (R494). Reading RTC_FRAC latches RTC_SEC_LO and RTC_SEC_HI. -/
  | rtcFracRead (src : Src)
  /-- SYNC (R477). An Accord master sends SYNC once per ms, and the slave records t2 and answers with DREQ. -/
  | sync (n : Nat) (m : SyncMsg) (crcOk : Bool) (turn : Nat)
  /-- DREQ (R477). A DREQ reaches the master, which records t4 and answers with DRSP. -/
  | dreq (n : Nat) (sn : Half) (lanesel crcOk : Bool)
  /-- DRSP (R479). A DRSP completes an exchange; the slave computes offset and delay and advances its port state. -/
  | drsp (n : Nat) (t4 : Nat) (sn : Half) (crcOk : Bool)
  /-- ACCORD_EXCHANGE_MISS (R481). An expected Accord exchange is missing; four in succession move a LOCKED port to HOLDOVER. -/
  | accordExchangeMiss (n : Nat)
  /-- ACCORD_HOLDOVER_TIMEOUT (R481). 1 s passes in HOLDOVER without a complete exchange, and the port returns to ACQUIRE. -/
  | accordHoldoverTimeout (n : Nat)
  /-- ACCORD_ACQUIRE_TIMEOUT (R481). 2 s pass since CALIB without reaching LOCKED, and the port enters FAULT. -/
  | accordAcquireTimeout (n : Nat)
  /-- ACC_ROLE (R481). Writing ACC_CTLj.ROLE sets the port's role, disabling it or leaving FAULT. -/
  | accRole (src : Src) (n role : Nat)
  /-- VBAT_LOW (R489). VBAT falls below 2.0 V while the VSTBY rails are absent, and VLOST is set. -/
  | vbatLow
  /-- RTC_OSC_STOP (R489). The crystal shows no oscillation for 1 ms, and OSCF is set. -/
  | rtcOscStop
  /-- RTC_OSC_RESUME (R489). Crystal oscillation resumes, and OSCF clears. -/
  | rtcOscResume
  /-- PPS_OUT_RISE (R495). T reaches a whole second with OEN = 1, and PPS_OUT rises at the ball. -/
  | ppsOutRise
  /-- PPS_OUT_FALL (R495). WIDTH µs pass after the rising edge, and PPS_OUT falls. -/
  | ppsOutFall
  /-- CHG (R514). Writing GCL_CTL.CHG checks the admin list and computes the change time CT, or is refused with BADGCL. -/
  | chg (src : Src) (g : GPlace)
  /-- CANCEL (R515). Writing GCL_CTL.CANCEL withdraws a pending change, or is logged GCLNOP. -/
  | cancel (src : Src) (g : GPlace)
  /-- HALT (R515). Writing GCL_CTL.HALT stops the list, sets the gates to IDLE and discards a pending change. -/
  | halt (src : Src) (g : GPlace)
  /-- GCL_SWITCH (R515). NT reaches CT; the admin list is copied to oper and entry 0 starts. -/
  | gclSwitch (g : GPlace)
  /-- GATE_ENTRY_START (R504). A gate list entry's start instant arrives, and its GATES take effect. -/
  | gateEntryStart (g : GPlace)
  /-- EGRESS_START (R528). At LLK or ETH egress the eligible class is chosen by priority and virtual finish time, and its packet or frame starts. -/
  | egressStart (g : GPlace)
  /-- TBL_READ (R546). A TBL_CMD write with WR = 0 loads TBL_D0 to TBL_D3 from a gate or meter table entry. -/
  | tblRead (src : Src) (g : GPlace) (tbl idx : Nat)
  /-- TBL_WRITE (R546). A TBL_CMD write with WR = 1 stores TBL_D0 to TBL_D3 into an admin list entry, meter entry or meter counters. -/
  | tblWrite (src : Src) (g : GPlace) (tbl idx : Nat)
  /-- SHP_ENABLE (R525). SHP_CTLt.EN goes from 0 to 1 and the shaper credit is set to CBS. -/
  | shpEnable (src : Src) (g : GPlace) (k cir : Nat)
  /-- SHAPER_RATE_WRITE (R527). A write to CIR or CBS applies at once and clips the credit to the new CBS. -/
  | shaperRateWrite (src : Src) (g : GPlace) (k : Nat) (cbs : Bool) (v : Word)
  /-- LF128_BLOCK (R552). An LF-128 block is received and corrected, or delivers nothing; lane errors are counted.
  `lost` are the lanes out of alignment, `far` those that the partner has retired (R568). -/
  | lf128Block (n : Nat) (b : LfBlock) (lost far : List Nat)
  /-- DATA_FRAME (R560). A DATA frame is received, checked, metered and passed to OSW, or discarded with a replay request. -/
  | dataFrame (n : Nat) (f : LFrame) (p : Packet)
  /-- CTRL_FRAME (R564). A CTRL frame delivers acknowledgement, credits and replay requests. -/
  | ctrlFrame (n : Nat) (f : LFrame)
  /-- ACK_TIMER (R561). 200 ns pass with unacknowledged in-order frames, and the receiver acknowledges them. -/
  | ackTimer (n : Nat)
  /-- REPLAY_TIMEOUT (R563). LLK_ACKTO ns pass with no advance of ACKSEQ; the sender resends and may retire the link at LLK_RPLMAX. -/
  | replayTimeout (n : Nat)
  /-- WAVE_CODE (R575). A STOP, RESUME, FREEZE or UNFREEZE wave code arrives in the sideband and is acted on and forwarded. -/
  | waveCode (n : Nat) (code : BitVec 7)
  /-- TRAIN (R566). Writing LLK_CTL.TRAIN starts link training from DOWN, RETIRED or FAULT. -/
  | train (src : Src) (n : Nat)
  /-- LLK_DOWN (R566). Writing LLK_CTL.DOWN takes the link to DOWN. -/
  | llkDown (src : Src) (n : Nat)
  /-- TRAIN_DETECT (R566). Signal is detected on at least MINW lanes, and the link enters EQUAL. -/
  | trainDetect (n : Nat) (lanes : BitVec 8)
  /-- TRAIN_EQUAL (R566). Equalisation completes on the detected lanes, and the link enters DESKEW. -/
  | trainEqual (n : Nat)
  /-- TRAIN_DESKEW (R566). Block boundaries are aligned and skewed lanes excluded; the link enters IDENT or FAULT. -/
  | trainDeskew (n : Nat) (skewed : BitVec 8)
  /-- TRAIN_IDENT (R567). Identities are exchanged and checked; the link becomes ACTIVE or faults with MISWIRE. -/
  | trainIdent (n pkg plane link : Nat)
  /-- TRAIN_TIMEOUT (R566). LLK_TRAIN_TO ms pass since TRAIN, and the link enters FAULT. -/
  | trainTimeout (n : Nat)
  /-- NARROW_DESKEW (R566). Deskew on the remaining lanes completes; the link returns to ACTIVE and resends unacknowledged frames. -/
  | narrowDeskew (n : Nat)
  /-- OSW_PACKET (R579). OSW routes a packet to another package in dimension order, or hands it to the fabric at the destination. -/
  | oswPacket (d : Nat)
  /-- SCRUB_VISIT (R600). Patrol scrub reads a unit and rewrites it if corrected, or counts it as uncorrectable. -/
  | scrubVisit (x e : Nat) (flt : List UFault)
  /-- REFRESH (R601). The MEM controller issues refresh to its pseudo-channel. -/
  | refresh (x e : Nat)
  /-- STACK_TEMPERATURE (R602). A stack temperature readout crossing 85 °C doubles or restores the refresh rate and sets HOT. -/
  | stackTemperature (site celsius : Nat)
  /-- HOST_READ (R618). A host read of BAR0, BAR2 or BAR4 is turned into fabric requests and completed per Table 14.4. -/
  | hostRead (bar addr len : Nat)
  /-- HOST_WRITE (R615). A host write of BAR0, BAR2 or BAR4 is turned into fabric write requests. -/
  | hostWrite (bar addr : Nat) (bytes : List Byte) (be : List Bool)
  /-- HIF_RESEND (R618). HIF_IVL ns pass after a refusal, and the HIF resends the request. -/
  | hifResend (tag : Half)
  /-- HIF_CTO (R618). No answer arrives within HIF_CTL.CTO µs, and the host access completes with Completer Abort. -/
  | hifCto (tag : Half)
  /-- CONFIG_REQUEST (R613). A PCIe configuration request receives no completion, Retry Status, or Successful Completion according to boot state. -/
  | configRequest (op : CfgOp)
  /-- FLR (R614). A Function Level Reset resets the configuration space, the MSI-X table and the HIF page. -/
  | flr
  /-- MSIX_UNMASK (R623). A vector or the function is unmasked with Bus Master Enable, and pending messages are sent. -/
  | msixUnmask (vec : Option Nat)
  /-- MSIX_WINDOW_END (R624). A coalescing window ends, and one message is sent for the requests deferred in it. -/
  | msixWindowEnd (vec : Nat)
  /-- SMB_ADDR (R626). An SMBus ADDR Block Write sets the register address. -/
  | smbAddr (a : Word) (pecOk : Bool)
  /-- SMB_DATA (R626). An SMBus DATA Block Read or Write accesses the register at ADDR through MGT. -/
  | smbData (w : Option Word) (pecOk : Bool)
  /-- SMB_STATUS (R626). An SMBus STATUS Read Byte returns RDY, ERR and BUSY. -/
  | smbStatus
  /-- RX_FRAME (R645). A received Ethernet frame is filtered, steered, written to claimed buffers, and committed or rewound at end of frame. -/
  | rxFrame (n : Nat) (bytes : List Byte) (fcsOk : Bool) (backlog : List Nat)
  /-- PFC_FRAME (R649). A received PFC frame pauses the named traffic classes for its time. -/
  | pfcFrame (n : Nat) (quanta : List (Option Nat))
  /-- PFC_REPEAT (R649). QUANTA/2 passes while above half of XOFF, and the port repeats its PFC frame. -/
  | pfcRepeat (n prio : Nat)
  /-- ETH_RING_TAIL (R638). Writing a ring TAIL hands descriptors to the port, or is discarded. -/
  | ethRingTail (src : Src) (n ring : Nat) (tx : Bool) (v : Word)
  /-- ETH_RING_EN (R641). Writing a ring's EN enables it, or disables it, resetting HEAD and TAIL and rewinding or abandoning frames. -/
  | ethRingEn (src : Src) (n ring : Nat) (tx : Bool) (v : Word)
  /-- TX_FRAME_FETCH (R651). Every descriptor of a transmit frame lies before TAIL, and the port reads the frame into its transmit buffer. -/
  | txFrameFetch (n ring : Nat)
  /-- TX_FRAME_DONE (R652). A transmit frame is sent or fails; its descriptors are written back with STATUS and HEAD advances. -/
  | txFrameDone (n ring : Nat)
  /-- ETH_LINK_CHANGE (R657). The Ethernet link comes up or goes down, and LINK is raised. -/
  | ethLinkChange (n : Nat) (up an : Bool)
  /-- GLZ_RING_TAIL (R659). Writing GLZ_RING_TAIL hands command records to the Glazier. -/
  | glzRingTail (src : Src) (n : Nat) (v : Word)
  /-- GLZ_RING_FETCH (R659). The Glazier queue has room, and records are fetched from the command ring. -/
  | glzRingFetch (n : Nat)
  /-- GLZ_QUEUE_MSG (R660). A MSG reaches a Glazier command-queue endpoint and its records are queued, or it is refused. -/
  | glzQueueMsg (n : Nat)
  /-- TARGET (R663). TARGET sets the render target and clears every colour group to OFF. -/
  | target (n : Nat)
  /-- REGION (R666). REGION sets the region of the target that is rasterised. -/
  | region (n : Nat)
  /-- CGROUP (R665). CGROUP configures a colour group. -/
  | cgroup (n : Nat)
  /-- DSTATE (R663). DSTATE sets the depth and stencil tests. -/
  | dstate (n : Nat)
  /-- PROG (R678). PROG loads pixel-program words. -/
  | prog (n : Nat)
  /-- LOPER (R662). LOPER sets the LAYER and OPER of later Glazier packets. -/
  | loper (n : Nat)
  /-- DRAW (R669). DRAW reads and rasterises COUNT triangles with depth and stencil tests. -/
  | draw (n : Nat) (flt : List UFault)
  /-- SPLAT (R673). SPLAT reads and rasterises COUNT splats. -/
  | splat (n : Nat) (flt : List UFault)
  /-- CLEAR (R663). CLEAR sets depth and stencil of the region. -/
  | clear (n : Nat)
  /-- DRESOLVE (R670). DRESOLVE writes per-block minimum and maximum depth to TM. -/
  | dresolve (n : Nat)
  /-- BVH (R663). BVH sets the hierarchy root and triangle base. -/
  | bvh (n : Nat)
  /-- RAYQ (R687). RAYQ traces COUNT rays and writes their hits. -/
  | rayq (n : Nat) (flt : List UFault)
  /-- GLZ_FENCE (R674). The Glazier FENCE waits for earlier records and answers, then sends a SIGNAL with VAL or FAILVAL. -/
  | glzFence (n : Nat)
  /-- FRAGMENT_RETIRE (R675). Every earlier fragment of a sample has retired, and a fragment's colour update or program is applied. -/
  | fragmentRetire (n : Nat) (flt : List UFault)
  /-- GLZ_PAUSED (R683). Every started fragment has retired in PAUSING; the Glazier enters PAUSED, or resumes if RESUME is held. -/
  | glzPaused (n : Nat)
  /-- GLZ_RESUME (R685). Writing GLZ_RESUME resumes a paused Glazier, or is held while PAUSING. -/
  | glzResume (src : Src) (n : Nat)
  /-- PP_END (R677). Pixel-program END commits the staged stores. -/
  | ppEnd (n : Nat)
  /-- PP_MOV (R677). Pixel-program MOV copies register A to D. -/
  | ppMov (n : Nat)
  /-- PP_ADD (R677). Pixel-program ADD adds A and B into D. -/
  | ppAdd (n : Nat)
  /-- PP_SUB (R677). Pixel-program SUB subtracts B from A into D. -/
  | ppSub (n : Nat)
  /-- PP_MUL (R677). Pixel-program MUL multiplies A and B into D. -/
  | ppMul (n : Nat)
  /-- PP_FMA (R677). Pixel-program FMA computes A·B + D, rounded once. -/
  | ppFma (n : Nat)
  /-- PP_MIN (R677). Pixel-program MIN writes the minimum of A and B to D. -/
  | ppMin (n : Nat)
  /-- PP_MAX (R677). Pixel-program MAX writes the maximum of A and B to D. -/
  | ppMax (n : Nat)
  /-- PP_RCP (R678). Pixel-program RCP writes 1/A to D. -/
  | ppRcp (n : Nat)
  /-- PP_RSQ (R678). Pixel-program RSQ writes 1/√A to D. -/
  | ppRsq (n : Nat)
  /-- PP_EX2 (R678). Pixel-program EX2 writes 2^A to D. -/
  | ppEx2 (n : Nat)
  /-- PP_LG2 (R678). Pixel-program LG2 writes log2 A to D. -/
  | ppLg2 (n : Nat)
  /-- PP_LDI (R677). Pixel-program LDI loads IMM as BF16 into D. -/
  | ppLdi (n : Nat)
  /-- PP_LDF (R677). Pixel-program LDF loads an attribute, α or z into D. -/
  | ppLdf (n : Nat)
  /-- PP_LDP (R677). Pixel-program LDP loads a channel of the sample into D. -/
  | ppLdp (n : Nat)
  /-- PP_STP (R678). Pixel-program STP stages A for a channel store. -/
  | ppStp (n : Nat)
  /-- PP_KILL (R677). Pixel-program KILL ends the program and discards the stores when A < 0. -/
  | ppKill (n : Nat)
  /-- BUCKET_LEAK (R693). A leak instant of an error bucket arrives, and its level falls by 1. -/
  | bucketLeak (kind inst : Nat)
  /-- RESPONSE_TIMEOUT (R700). A request is not answered within SCR_RTO.TO µs, and its requester fails it. -/
  | responseTimeout (r : Requester)
  /-- TAG_RELEASE (R702). A further TO µs pass after a timeout, and the TAG may be reused. -/
  | tagRelease (t : Nat) (tag : Half)
  /-- SCR_RETIRE (R707). Writing SCR_RETIRE retires the named resource, with cause SOFTWARE. -/
  | scrRetire (src : Src) (v : Word)
  /-- RLOG_POP (R721). Writing SCR_RLOG_POP removes the oldest retirement log entry. -/
  | rlogPop (src : Src)
  /-- BUCKET_THR_WRITE (R698). A write to SCR_BKTk_THR or SCR_BKTk_WIN applies to every bucket of the kind and may retire resources. -/
  | bucketThrWrite (src : Src) (kind : Nat) (win : Bool) (v : Word)
  /-- FULLER_PASS (R712). Each PERIOD ms, Fuller compares every copy of every replicated record and repairs, counts or escalates differences. -/
  | fullerPass (diffs : List CopyDiff)
  /-- STOP (R725). Writing DBG_PKG_CTL.STOP triggers the stop wave. -/
  | stop (src : Src)
  /-- STOP_IN_EDGE (R726). A falling edge on STOP_IN_N with PINEN triggers the stop wave. -/
  | stopInEdge
  /-- BLOCK_HALT (R728). A block with STOPP = 1 reaches its next halt boundary, halts and sets STOPPED. -/
  | blockHalt (p : Page)
  /-- RESUME (R733). Writing DBG_PKG_CTL.RESUME releases every stopped block. -/
  | resume (src : Src)
  /-- FREEZE (R736). Writing DBG_PKG_CTL.FREEZE freezes the counters of pages with FRZP = 1. -/
  | freeze (src : Src)
  /-- UNFREEZE (R736). Writing DBG_PKG_CTL.UNFREEZE releases the freeze. -/
  | unfreeze (src : Src)
  /-- SCAN_READ (R740). A read of the debug scan window returns a stopped tile's state over the scan network, or 0 and NOTSTOP. -/
  | scanRead (addr : Nat)
  /-- SCANWIN (R745). A JTAG access to the SCANWIN instrument reaches the same view as the scan window. -/
  | scanwin (addr : BitVec 25) (sel : Byte)
  /-- SILLAGE_W0_READ (R753). Reading W0 of a sillage slot latches W1 to W3. -/
  | sillageW0Read (src : Src) (p : Page) (slot : Nat)
  /-- SAMPLE_RECORD (R768). Every DBG_SMP.PERIOD µs the tile sends a sample record of its engines' states. -/
  | sampleRecord (t : Nat)
  /-- VSTBY_VALID (R789). Both VSTBY rails come within tolerance, starting a cold reset and the boot flow. -/
  | vstbyValid
  /-- BOOT (R781). MGT performs the boot steps from ROM through calibration to DONE or FAILED. -/
  | boot (slotA slotB : Image) (railsOk : Bool) (failed : List Nat) (untrained : List Nat)
  /-- RAIL_TIMEOUT (R780). A rail is not within tolerance 5 ms after MGT enables it; every rail goes down and boot fails with RAIL. -/
  | railTimeout
  /-- VSTBY_LOSS (R778). VSTBY_0V8 falls out of tolerance, and the regulators of groups 2 to 5 discharge. -/
  | vstbyLoss
  /-- PERST_N (R789). PERST_N is asserted, starting a warm reset. -/
  | perstN
  /-- COLD (R789). Writing MGT_RST.COLD starts a cold reset. -/
  | cold (src : Src)
  /-- FABRIC (R792). Writing MGT_RST.FABRIC starts a fabric reset. -/
  | fabric (src : Src) (failed : List Nat)
  /-- TILE (R791). Writing MGT_RST.TILE starts a reset of the tile named by TIDX. -/
  | tile (src : Src) (tidx : Nat)
  /-- RESET_COMPLETE (R796). A fabric or tile reset completes, setting RSTDONE and updating MGT_RST_STAT. -/
  | resetComplete
  /-- THERMTRIP (R816). A die sensor reaches 115 °C; THERMTRIP_N goes low and MGT takes the rails down. -/
  | thermtrip
  /-- TEMP_REPORT (R813). Every 100 µs each die reports its hottest sensor to MGT. -/
  | tempReport (cd : List Nat) (iow ioe : Nat)
  /-- THROTTLE_REVIEW (R814). Once per ms MGT reviews each compute die and steps its effective VCORE down or up. -/
  | throttleReview
  /-- MGT_VSET (R815). A write to MGT_VSET changes VCORE setpoints, lowering at once or raising through throttle steps, or is refused. -/
  | mgtVset (src : Src) (v : Word)
  /-- PERST_N_DEASSERT (R613). PERST_N deasserts; the PCIe link trains, and from then configuration requests draw no completion, then Retry Status from 80 ms and success by 700 ms. -/
  | perstNDeassert
  /-- PFC_PAUSE_EXPIRY (R649). The pause time that a received PFC frame set for priority p runs out; ETH_PFC_STAT.PAUSED bit p clears and TC p may start frames again. -/
  | pfcPauseExpiry (n prio : Nat)
  deriving DecidableEq, Repr

end Sys2Proof
end

