-- ==== Sys2Proof/Config.lean ====
section
/-! DEFINITION. What the spec leaves open: free values with no body, and the facts of an assembly. -/

namespace Sys2Proof

/-- Free value: the contents of a depth or stencil sample that nothing has defined since TARGET or REGION (R667), by the
number of the free value and the sample. -/
opaque Config.undefDepth : Nat → Nat → Word

/-- Free value: the order in which a CMP sum adds its terms, which depends only on the shape (R259): two numbers a step,
the places of the partial sums added. Arguments: opcode, rows, columns and depth of the op, row and column of the
element. -/
opaque Config.sumOrder : Nat → Nat → Nat → Nat → Nat → Nat → List Nat

/-- Free value: the rounding mode of an FP32 step inside a sum or a LUT evaluation (R258, R259 state only the last
rounding), modulo 4. -/
opaque Config.accMode : Nat

/-- Free value: the maximum or minimum (opcode) of two values of a type when one is NaN, as a bit pattern of the type, and
which of two zeros of different sign it is (Table 6.3 states neither). -/
opaque Config.maxMin : Nat → Nat → Nat → Nat → Nat

/-- Free value: which of the values within 1 ulp of 1/A, 1/√A, 2^A or log2 A (opcode) the pixel program returns (R678). -/
opaque Config.ulpPick : Nat → Word → Nat

/-- Free value: 1/A, 1/√A or log2 A (opcode) of a zero, which has no exact value (R678, log 9). -/
opaque Config.ppZero : Nat → Word → Word

/-- Free value: the D24 depth of an FP32 depth (the spec states no conversion into the depth store). -/
opaque Config.depth24 : Word → Word

/-- Free value: what a NaN becomes in UNORM8 (R678 states no clamp of it). -/
opaque Config.unormNan : Nat

/-- Free value: an attribute of a triangle interpolated at a sample (R672: the spec fixes no order of the FP32 steps).
Arguments: x, y, rw and attribute of the three vertices, and the sample position in 1/256 pixel. -/
opaque Config.attrAt : List Word → Nat → Nat → Word

/-- Free value: the depth of a triangle at a sample (the spec states no formula). -/
opaque Config.depthAt : List Word → Nat → Nat → Word

/-- Free value: α of a splat before the clamp at 0.99 (R673), from opacity, A, B, C and the offset (dx, dy). -/
opaque Config.splatAlpha : List Word → Word → Word → Word

/-- Free value: the entry distance of a ray into a box, none for a miss (R688: a slab test in FP32, the roundings of
which are not stated). -/
opaque Config.boxEntry : List Word → List Word → Option Word

/-- Free value: t, u, v of the intersection of a ray and a triangle, none for a miss (R688). -/
opaque Config.triHit : List Word → List Word → Option (Word × Word × Word)

/-- Free value: the error code under which the TIL page captures an uncorrectable TM, CM or AM error (R708 and
Table 17.6 have it captured; no code is given, log 10). -/
opaque Config.tileUeCode : Byte

/-- Free value: whether the quotient of a number of ticks that does not divide evenly is rounded up (R479 and R480 state
no rounding). -/
opaque Config.tickUp : Int → Int → Bool

/-- Free value: the round trip in ticks of the time-wave tree that a tile measures (R473), by the number of the
measurement and the tile. -/
opaque Config.treeTrip : Nat → Nat → Nat

/-- Free value: the 8-bit check of the serial word of a time wave (R472 gives no formula), by NT and ERA. -/
opaque Config.waveCheck : Nat → Nat → Byte

/-- Free value: whether an engine (1 CMP, 2 MOV, 3 CMB) of a tile waits on a TM bank at a time at which another requester
uses the TM (R249, R251: the spec places no access of an engine within its duration). -/
opaque Config.bankWait : Nat → Nat → Nat → Bool

/-- Free value: the populated HBM sites of another package of the pod, by PKG, site i at bit i (R58, R353). -/
opaque Config.podSites : Nat → Nat

/-- Free value: byte i that an LF-128 block delivers when more is wrong in it than its code detects (R552), by the number
of the free value; byte 128 is the sideband byte. -/
opaque Config.lfByte : Nat → Nat → Byte

/-- Free value: byte i of a reorder bin entry in the extension (R686 gives the entry no layout), by the number of the free
value. -/
opaque Config.binByte : Nat → Nat → Byte

/-- Free value: a number the manual does not state, by the count of the free values taken. -/
opaque Config.freeNat : Nat → Nat

end Sys2Proof
end

