-- ==== Sys2Proof/Machine/State.lean ====
section
/-! DEFINITION. The state of the package as plain data: fuses, network time, registers, memories, and the hidden
state of every block; the machine right after reset. -/

namespace Sys2Proof.Machine

/-- No command of this block ends in a fault: every row of the table has an effect in the spec, and an event whose
condition does not hold does not occur and changes nothing (log 1). Safe. -/
inductive Fault where
  deriving DecidableEq, Repr

/-- Why a command has no meaning. -/
inductive Refusal where
  /-- Raised by exec for a row that has no meaning yet; safe: the run stops. -/
  | notModelled (mnemonic : String)
  deriving DecidableEq, Repr

/-- Assembly variant (R4). -/
inductive Assembly where
  | h4l1 | h6l1 | h6l2 | h8l2
  deriving DecidableEq, Repr

/-- What the fuses and the test of the routers fix (R6, R43, R394, R783). DESIGN CHOICE (log 3). -/
structure Fuses where
  asm : Assembly := .h8l2
  step : Nat := 0xB0
  minSvn : Nat := 0
  ppsComp : Half := 0
  tsRx : Half := 0
  tsTx : Half := 0
  /-- asymmetry of the tree in ticks, per tile, fused at test (R473) -/
  treeAsym : Tab Int := []
  deriving DecidableEq, Repr

/-- An error that a 32-byte unit of memory holds (R597, R598, R708): correctable, or uncorrectable. -/
structure UnitErr where
  ue : Bool
  once : Bool
  deriving DecidableEq, Repr

/-- A command in an engine queue (R195): its word, its context, its issue number in the context, and whether it is the
delay slot of a branch with A = 0 (R186). -/
structure QCmd where
  word : CmdWord
  lc : Nat
  sn : Nat
  ds : Bool := false
  deriving DecidableEq, Repr

/-- A branch that has issued and is not yet counted (R188, R190). `res` is none while it is unresolved, then whether it
was mispredicted. -/
structure Branch where
  idx : Nat
  sn : Nat
  target : Nat
  a : Bool
  cond : Nat
  sel : Nat
  rel : Nat
  imm : Word
  /-- predicted outcome -/
  pred : Bool
  /-- whether it read the prediction table (P = 0, R181) -/
  tabled : Bool
  layer : Half
  oper : Half
  res : Option Bool := none
  deriving DecidableEq, Repr

/-- What holds a context in state WAIT (R161, R163, R169), with the time at which it faults. -/
inductive WaitOn where
  | sem (idx rel : Nat) (imm : Word) (dec : Bool)
  | sel (mask : BitVec 16) (rot : Bool) (dsem : Nat)
  | fence (cmp mov cmb : Bool)
  deriving DecidableEq, Repr

/-- The wait of a context: what it awaits, its expiry in ticks, and the tag of the waiting command. -/
structure Waiting where
  what : WaitOn
  due : Option Nat := none
  layer : Half := 0
  oper : Half := 0
  deriving DecidableEq, Repr

/-- A fault found on a tentative path and raised only if the path commits (R823). -/
structure HeldFault where
  code : Nat
  /-- issue number of the command at fault, and whether it is the executing delay slot of its branch -/
  sn : Nat
  ds : Bool
  layer : Half
  oper : Half
  deriving DecidableEq, Repr

/-- A list context (R146): the list it runs and what SEQ holds for it beside the registers of the SEQ page. -/
structure Ctx where
  base : Nat := 0
  len : Nat := 0
  /-- CM index of the next command; one past the list's end before RUNOFF (R210) -/
  pc : Nat := 0
  /-- next issue number -/
  sn : Nat := 0
  /-- the next command is a delay slot: where issue goes after it, and whether its branch has A = 0 -/
  slot : Option (Nat × Bool) := none
  /-- issue slots still to pass after a misprediction (R192) -/
  penalty : Nat := 0
  brs : List Branch := []
  held : Option HeldFault := none
  wait : Option Waiting := none
  aborting : Bool := false
  tmb : Nat := 0
  ncq : Nat := 0
  nsem : Nat := 0
  nlease : Nat := 0
  nrq : Nat := 0
  /-- LAYER and OPER of the command last issued (R768) -/
  layer : Half := 0
  oper : Half := 0
  deriving DecidableEq, Repr

/-- An entry of the prediction table (R182). -/
structure PredEntry where
  tag : Nat
  ctr : Nat
  deriving DecidableEq, Repr

/-- The CMP command being executed (R262): its error code (0 none), its duration in compute steps, the flags its
results set, and its attar fields. -/
structure CmpRun where
  cmd : QCmd
  err : Nat
  steps : Nat
  inv : Bool := false
  ovf : Bool := false
  sat : Bool := false
  /-- the TM extent and type of D for the attar: base, type, rows, cols, pitch -/
  dbase : Nat := 0
  dty : Nat := 0
  drows : Nat := 0
  dcols : Nat := 0
  dpitch : Nat := 0
  deriving DecidableEq, Repr

/-- What a MOV packet is (R278, R364); a note (CONF, WDRW) is answered by nothing. -/
inductive ReqKind where
  | posted | wra | rd | regrd | regwr | resv | note
  deriving DecidableEq, Repr

/-- A request of MOV that has not been answered (R277, R364): its TAG and command, the packet for a resend (R290), its
injection queue, where a response lands, how many answers it expects (R378), how often it was resent, when it was
injected, when it timed out, and whether its response is to be sunk (R226). -/
structure MovReq where
  tag : Half
  cmd : Nat
  lc : Nat
  kind : ReqKind
  pkt : Packet
  iq : Nat
  land : Nat := 0
  bytes : Nat := 0
  /-- answers expected: 1, or one from each selected tile of a multicast (R378) -/
  want : Nat := 1
  /-- tiles of a multicast that have answered -/
  answered : List Nat := []
  tries : Nat := 0
  inj : Option Nat := none
  /-- when it times out, from SCR_RTO at its injection (R130, R700) -/
  till : Option Nat := none
  /-- refused and waiting for a resend (R289): the time of the resend -/
  due : Option Nat := none
  dead : Option Nat := none
  sink : Bool := false
  lease : Bool := false
  stage : Bool := false
  /-- of a lease read: when its round trip is over, from TIL_LCFG.RT at its injection (R130, R307) -/
  hold : Nat := 0
  deriving DecidableEq, Repr

/-- How a started MOV command moves its data (Table 6.7). -/
inductive MovKind where
  | write | wra | multicast | read | staged | regRead | regWrite | msg | contrib | signal
  deriving DecidableEq, Repr

/-- A started MOV command (R268, R278): what it is, its source and destination, the bytes (elements for CONTRIB) not
yet cut into packets, its failure, and whether it still waits to commit. -/
structure MovCmd where
  id : Nat
  cmd : QCmd
  kind : MovKind
  src : Nat := 0
  dst : Nat := 0
  node : Word := 0
  rect : Word := 0
  /-- the remote side lies in MEM: node then names the package only -/
  mem : Bool := false
  /-- a multicast MSG -/
  mc : Bool := false
  /-- reads through a lease window (R306) -/
  lease : Bool := false
  /-- of a staged command: how and to which NODE it sends what it has fetched, whether that lies in MEM, whether it
  fetches a register, and what it has fetched of a transfer that leaves whole (log 68) -/
  fin : MovKind := .multicast
  dnode : Word := 0
  dmem : Bool := false
  reg : Bool := false
  buf : List (Nat × List Byte) := []
  total : Nat := 0
  cut : Nat := 0
  /-- every request is made -/
  sent : Bool := false
  failed : Bool := false
  /-- not yet committed (R217) -/
  tent : Bool := false
  /-- a refusal under R271 held until commit (R823); 0 none -/
  refusal : Nat := 0
  /-- descriptors whose ADDR advances at commit (R218, R276) -/
  inc : List Nat := []
  deriving DecidableEq, Repr

/-- State of a reservation at its source (Table 5.2). -/
inductive SrcResvSt where
  | pending | granted | refused | done
  deriving DecidableEq, Repr

/-- A reservation at its source (R233). -/
structure SrcResv where
  tag : Half
  cmd : Nat
  lc : Nat
  st : SrcResvSt
  noted : Bool := false
  dst : Word
  iq : Nat
  /-- when the RESV was injected -/
  inj : Option Nat
  till : Option Nat := none
  /-- committed and acted on; the entry holds its TAG until the payload is made -/
  spent : Bool := false
  deriving DecidableEq, Repr

/-- A tentative response held in the TRB (R221, R225). -/
structure TrbEntry where
  tag : Half
  lc : Nat
  pkt : Packet
  deriving DecidableEq, Repr

/-- A response to a lease read that is held back until its round trip is over (R307). -/
structure HeldRsp where
  tag : Half
  pkt : Packet
  deriving DecidableEq, Repr

/-- Posted packets of one source endpoint not yet acknowledged by one of this place's endpoints (R279). -/
structure Ack where
  me : Word
  src : Word
  n : Nat
  tag : Half
  layer : Half
  oper : Half
  tc : BitVec 3
  since : Nat
  deriving DecidableEq, Repr

/-- A reservation at the receiving CMB (Table 5.3). -/
structure Resv where
  src : Word
  ep : Nat
  tag : Half
  amount : Nat
  confirmed : Bool
  /-- when it expires (Table 5.3) -/
  due : Nat
  layer : Half := 0
  oper : Half := 0
  deriving DecidableEq, Repr

/-- An entry of the refusal table (R412). -/
structure Refusal16 where
  src : Word
  rq : Nat
  tag : Half
  /-- when it clears; none for never (R414) -/
  due : Option Nat
  deriving DecidableEq, Repr

/-- A result packet of a combining queue that awaits injection or an answer (R450, R451). -/
structure ResPkt where
  tag : Half
  pkt : Packet
  want : Nat
  answered : List Nat := []
  /-- a tile has answered FULL, HOLD or POLICED: the packet is resent when all have answered (R451, log 73) -/
  again : Bool := false
  tries : Nat := 0
  /-- the packet is in its injection queue, or has left it -/
  queued : Bool := false
  inj : Option Nat := none
  till : Option Nat := none
  due : Option Nat := none
  deriving DecidableEq, Repr

/-- What a combining queue holds beside its registers (R429, R450 to R453): group counts, result packets awaiting
answers, whether its SIGNAL is due, whether a CQRST waits for RESULT to end, and the CQARM being completed. -/
structure Cq where
  counts : List Nat := []
  res : List ResPkt := []
  sigDue : Bool := false
  /-- a result packet has failed since the CQARM (R451, R452) -/
  failed : Bool := false
  rst : Bool := false
  arm : Option QCmd := none
  /-- LAYER and OPER of the last CQARM, and the TAG of the next result packet (log 12) -/
  layer : Half := 0
  oper : Half := 0
  nextTag : Nat := 0
  rstCmd : Option QCmd := none
  deriving DecidableEq, Repr

/-- Where a packet at a router goes once its header is granted (R322): nowhere, its flits being absorbed; the fork
buffer; an output VC of a ring port; an output that ends at the tile or at an end junction. -/
inductive WormOut where
  | absorb | fork
  | link (port vc : Nat)
  | sink (port vc : Nat)
  deriving DecidableEq, Repr

/-- The packet of an input VC (R320, R322): its header, the data flits that the VC holds, whether the header is among them,
whether the tail has arrived, what the block at the port has still to send, the output granted, and how many data flits
have left. A VC holds 8 flits at most, of one packet. -/
structure Worm where
  pkt : Packet
  hd : Bool := true
  tl : Bool := true
  rest : List Flit := []
  out : Option WormOut := none
  seen : Nat := 0
  deriving DecidableEq, Repr

/-- A branch of a forked multicast packet (R376): the output, whether its output VC is granted, the copy's header, the data
flits sent, and whether the tail has left. -/
structure ForkBr where
  port : Nat
  vc : Nat
  started : Bool
  pkt : Packet
  sent : Nat := 0
  fin : Bool := false
  deriving DecidableEq, Repr

/-- A packet held in the fork buffer with the data flits that have entered it (R374 to R376), the input VC they come from,
and whether the tail is among them. -/
structure ForkEntry where
  pkt : Packet
  brs : List ForkBr
  src : Nat := 0
  tl : Bool := true
  deriving DecidableEq, Repr

/-- An output VC of a router (R322 to R324): credits, whether a packet holds it, and the input whose packet held it
last. -/
structure OutVc where
  credits : Nat := 8
  held : Bool := false
  last : Nat := 0
  deriving DecidableEq, Repr

/-- A gate list entry (Table 12.2): DUR in 1/16 ns, GATES. -/
structure GEntry where
  dur : Nat := 0
  gates : Byte := 0
  deriving DecidableEq, Repr

/-- The gate list pair of a place (R499, R515): admin and oper entries, whether the pair is in step (R711), when each
queue last started a packet (R512). -/
structure Gcl where
  adm : Tab GEntry := []
  oper : Tab GEntry := []
  inStep : Bool := false
  last : Tab Nat := []
  /-- CT of the last switch (R520) -/
  runCt : Nat := 0
  /-- a step took NT below it (R520) -/
  below : Bool := false
  /-- when the gates were last placed anew, and for gates open since then, when they opened (R512) -/
  markAt : Nat := 0
  openAt : Tab Nat := []
  deriving DecidableEq, Repr

/-- State of an engine for the time counters and the sampler (R746). -/
inductive EngSt where
  | idle | busy | stall (r : Nat)
  deriving DecidableEq, Repr

/-- What a tile holds beside its registers and its memories. -/
structure Tile where
  ctx : List Ctx := [{}, {}, {}, {}]
  /-- contexts with a LOAD not yet decided, in grant order (R200, R206) -/
  loads : List Nat := []
  pred : Tab PredEntry := []
  cmpQ : List QCmd := []
  movQ : List QCmd := []
  cmbQ : List QCmd := []
  cmpRun : Option CmpRun := none
  movCur : Option MovCmd := none
  movOut : List MovCmd := []
  movReqs : List MovReq := []
  /-- packets made and not yet in an injection queue: multicasts of the staging buffer (Table 6.7), CONF, WDRW and
  payloads after a commit (R231, R242) -/
  stageQ : List MovReq := []
  nextCmd : Nat := 0
  nextTag : Nat := 0
  srcResvs : List SrcResv := []
  trb : List TrbEntry := []
  leaseHeld : List HeldRsp := []
  iq : List (List Packet) := [[], [], [], []]
  /-- the injection queue to be served next (R293) -/
  iqNext : Nat := 0
  lreq : List Packet := []
  lrsp : List Packet := []
  out : List Packet := []
  acks : List Ack := []
  resvs : List Resv := []
  refusals : List Refusal16 := []
  /-- receive queue at which the head message is stalled, and when BP_HOLD ends (R408) -/
  stalled : Option (Nat × Nat) := none
  cqs : List Cq := [{}, {}, {}, {}, {}, {}, {}, {}]
  rqRetired : List Nat := []
  /-- by lease: TAG of the REGRD sent and, once injected, when it times out (R302, R700) -/
  leaseReq : Tab (Half × Option Nat) := []
  fork : List ForkEntry := []
  /-- input VCs and output VCs of the router by vcKey, the packets that its L port and the end junctions past it are
  receiving, and by port the VC last granted (R320 to R324) -/
  rin : Tab Worm := []
  rout : Tab OutVc := []
  asm : Tab Packet := []
  rrVc : Tab Nat := []
  gcl : Gcl := {}
  powered : Bool := true
  obsTok : Nat := 20000
  /-- PRB0 has matched since EN of PRB1 was last written 1 (R763) -/
  prbHit : Bool := false
  /-- matches of each probe, for the sampling of trace records (R764) -/
  prbN : List Nat := [0, 0]
  /-- LAYER and OPER of the command that SEQ last issued (R768) -/
  seqTag : Half × Half := (0, 0)
  /-- sequence number of sample records -/
  smpSeq : Nat := 0
  /-- when the request at the head of the L port came there, and TIL_WDOG.TO as it did (R130, R390) -/
  reqAt : Nat := 0
  wdog : Nat := 0
  /-- by port of the router: T of the last keep-alive sent, and when one was last seen (R392) -/
  kaSent : Tab Int := []
  kaSeen : Tab Nat := []
  /-- the tile's NT less that of TKP0: not 0 from a wave that the tile found wrong to the next valid one (R474, R475) -/
  ntOff : Int := 0
  /-- by endpoint · 2^16 + TAG: until when the TAG of a timed-out request of CMB or TIL is withheld (R702) -/
  late : Tab Nat := []
  /-- T of the last sample record (R768) -/
  smpAt : Option Int := none
  deriving DecidableEq, Repr

/-- A memory edge port (R595, R607). -/
structure Edge where
  req : List Packet := []
  rsp : List Packet := []
  out : List Packet := []
  acks : List Ack := []
  refreshes : Nat := 0
  deriving DecidableEq, Repr

/-- A packet in OSW: the link it came from with its link VC (none: the fabric), and whether it still fills that link's
ingress buffer (R559, R582). -/
structure Transit where
  pkt : Packet
  from_ : Option (Nat × Nat) := none
  held : Bool := false
  deriving DecidableEq, Repr

/-- An I/O die: packets for OSW, register requests, responses to its
blocks, packets waiting for injection (R54, R579, R585). -/
structure Die where
  osw : List Transit := []
  req : List Packet := []
  rsp : List Packet := []
  out : List Packet := []
  acks : List Ack := []
  deriving DecidableEq, Repr

/-- The credit of a shaper in thousandths of 1/1024 byte, and when it was last brought up to date (R522). -/
structure Shaper where
  cred : Int := 0
  at_ : Nat := 0
  deriving DecidableEq, Repr

/-- A meter entry with its buckets in thousandths of 1/1024 byte and its counters (R535, R536, R543). -/
structure Meter where
  d0 : Word := 0
  d1 : Word := 0
  d2 : Word := 0
  d3 : Word := 0
  cTok : Nat := 0
  eTok : Nat := 0
  at_ : Nat := 0
  green : Nat := 0
  yellow : Nat := 0
  red : Nat := 0
  deriving DecidableEq, Repr

/-- A DATA frame in the replay buffer, with the credits that its header returns (R562). -/
structure TxFrame where
  seq : Nat
  vc : Nat
  pkt : Packet
  cvc : Nat := 0
  ccnt : Nat := 0
  deriving DecidableEq, Repr

/-- The selection among classes at an egress (R530): the finish time of the previous packet of each class, that of its
head packet once computed, and that of the last packet started. -/
structure Sched where
  ft : Tab Rat := []
  fh : Tab Rat := []
  v : Rat := 0
  deriving DecidableEq, Repr

/-- A Llynnil link (R548 to R577) beside the registers of its page. -/
structure Link where
  trainAt : Nat := 0
  narrowAt : Nat := 0
  /-- lanes on which training has found a signal -/
  det : Nat := 0
  /-- packets waiting to be framed, by traffic class -/
  eg : Tab (List Transit) := []
  gcl : Gcl := {}
  shp : Tab Shaper := []
  sched : Sched := {}
  mtr : Tab Meter := []
  credits : List Nat := [512, 512, 512, 512]
  /-- flits of each VC taken out of ingress buffers and not yet returned as credits (R559) -/
  owed : List Nat := [0, 0, 0, 0]
  txSeq : Nat := 0
  rxSeq : Nat := 0
  unacked : List TxFrame := []
  rpl : Nat := 0
  /-- discarding until the expected frame is resent (R560) -/
  disc : Bool := false
  /-- in-order frames not yet acknowledged (R561) -/
  toAck : Nat := 0
  /-- when the oldest of them arrived -/
  ackSince : Nat := 0
  progressAt : Nat := 0
  /-- a resend that waits for the link to run again (Table 18.2) -/
  resend : Bool := false
  lanesel : Bool := false
  /-- a DATA frame has been received in order, so that ACKSEQ is valid (Table 13.1) -/
  rxAny : Bool := false
  /-- LLK_TRAIN_TO, LLK_ACKTO and LLK_RPLMAX as sampled when their timers or counts started (R130) -/
  trainTo : Nat := 0
  ackTo : Nat := 0
  rplMax : Nat := 0
  /-- bytes of frames that wait for blocks, and sideband units and wave codes that do (R551, R556, R574, R575) -/
  txs : List Byte := []
  sbq : List Byte := []
  /-- what the last block delivered: its sideband byte and its frame-stream bytes; none when it delivered none (R552) -/
  blk : Option (Byte × List Byte) := none
  deriving DecidableEq, Repr

/-- A frame read into the transmit buffer of a port (R651): its ring, its descriptors, its bytes, its STATUS and the
timestamp requests. -/
structure TxFrm where
  ring : Nat
  descs : Nat
  bytes : List Byte
  status : Nat
  tsreq : Bool
  onestep : Bool
  tsoff : Nat
  ckoff : Nat
  /-- the ring halts after the writebacks (R652) -/
  halt : Bool := false
  started : Bool := false
  ts : Nat := 0
  deriving DecidableEq, Repr

/-- An Ethernet port (R631 to R657) beside the registers of its page. -/
structure Eth where
  tx : List TxFrm := []
  gcl : Gcl := {}
  shp : Tab Shaper := []
  sched : Sched := {}
  mtr : Tab Meter := []
  /-- when the pause of each priority ends (R649) -/
  pauseTill : Tab Nat := []
  /-- priorities for which this port last sent a nonzero pause: when, and its quanta (R649) -/
  pausing : Tab (Nat × Nat) := []
  deriving DecidableEq, Repr

/-- A colour group of a Glazier (Table 16.1). -/
structure CGroup where
  mode : Nat := 0
  fmt : Nat := 0
  ch : Nat := 1
  blend : Nat := 0
  aidx : Nat := 15
  pstart : Nat := 0
  tnode : Word := 0
  addr : Nat := 0
  pitch : Nat := 0
  deriving DecidableEq, Repr

/-- A fragment that has passed rasterisation and waits to retire (R675): its pixel and sample, its attributes, α and z,
the state sampled by its record, and the colour groups still to be updated. -/
structure Frag where
  x : Nat
  y : Nat
  smp : Nat
  spp : Nat
  attrs : List Word
  alpha : Word
  z : Word
  groups : List CGroup
  next : Nat := 0
  layer : Half := 0
  oper : Half := 0
  /-- the reorder bin entry that it waits in; none for the oldest of its sample (R682) -/
  bin : Option Nat := none
  deriving DecidableEq, Repr

/-- A pixel program being executed for the fragment that retires (R677). -/
structure PPRun where
  pc : Nat
  regs : List Word
  staged : Tab Word
  /-- a pixel read failed: the sample stays unchanged (R680) -/
  bad : Bool := false
  deriving DecidableEq, Repr

/-- A Glazier (R658 to R690) beside the registers of its page. -/
structure Glz where
  q : List (List Byte) := []
  tw : Nat := 0
  th : Nat := 0
  spp : Nat := 1
  dfmt : Nat := 0
  rx : Nat := 0
  ry : Nat := 0
  rw : Nat := 0
  rh : Nat := 0
  groups : List CGroup := [{}, {}, {}, {}]
  dfunc : Nat := 7
  dwrite : Bool := false
  sfunc : Nat := 7
  sref : Nat := 0
  smask : Nat := 0
  spass : Nat := 0
  sfail : Nat := 0
  sdfail : Nat := 0
  /-- depth and stencil of the samples of the region; an unlisted sample holds what CLEAR set, or is undefined -/
  depth : Tab Word := []
  sten : Tab Byte := []
  clr : Option (Word × Byte) := none
  /-- numbers the undefined contents since TARGET or REGION (R667) -/
  undef : Nat := 0
  layer : Half := 0
  oper : Half := 0
  bnode : Word := 0
  broot : Nat := 0
  btri : Nat := 0
  frags : List Frag := []
  pp : Option PPRun := none
  /-- primitives of the head record already started -/
  done : Nat := 0
  /-- a failure under R680 since the previous FENCE -/
  bad : Bool := false
  deriving DecidableEq, Repr

/-- An Accord port (R477 to R482), by link. -/
structure Acc where
  t1 : Int := 0
  t2 : Int := 0
  t3 : Int := 0
  seq : Nat := 0
  /-- a SYNC was received and its exchange is not complete -/
  open_ : Bool := false
  n : Nat := 0
  sum0 : Int := 0
  sum1 : Int := 0
  good : Nat := 0
  miss : Nat := 0
  /-- CALIB was entered by a narrowing, and the port has not been LOCKED since (R550) -/
  narrowed : Bool := false
  since : Nat := 0
  lastDone : Nat := 0
  trace : Bool := false
  mhops : Nat := 0
  mera : Nat := 0
  mepoch : Nat := 0
  deriving DecidableEq, Repr

/-- The timekeeper (R461 to R496) beside the registers of its page. -/
structure Tkp where
  epoch : Nat := 0
  /-- T less the ticks passed: what starts, steps, slews and the rate have made of it -/
  off : Int := 0
  /-- the sum of the NT steps applied since NT was last started (R693) -/
  steps : Int := 0
  /-- the forward ones of them: credit and tokens are taken from NT (R522, R536) -/
  ups : Nat := 0
  /-- ticks since the last whole 1,024 of them, for the slew of TKP_PHASE (R468) -/
  raw : Nat := 0
  /-- what RATE has gained and not yet been a whole tick, in 2^-40 ticks (R466) -/
  rateAcc : Int := 0
  /-- the part of the phase correction that does not fit TKP_PHASE (R137, R471) -/
  slewMore : Int := 0
  /-- T of the last time wave (R472) -/
  lastWave : Option Int := none
  /-- step that the next wave applies (R468), with the ERA and EPOCH that an Accord servo copies in it (R471) -/
  step : Option Int := none
  copy : Option (Nat × Nat) := none
  stepLo : Word := 0
  locked : Bool := false
  fromFree : Bool := false
  stepped : Bool := false
  edges : Nat := 0
  lastEdge : Option Nat := none
  holdAt : Nat := 0
  /-- a load of the RTC was requested, and T at the request (R493) -/
  rtcsync : Bool := false
  rtcReq : Int := 0
  /-- PPS_OUT is high, when it falls, and the whole second of T of its last rise (R495) -/
  ppsOut : Bool := false
  ppsAt : Nat := 0
  lastPps : Option Int := none
  acc : Tab Acc := []
  deriving DecidableEq, Repr

/-- The calendar clock (R488, R489): seconds and fraction (2^-15 s) as they stood at the time `at_`. -/
structure Rtc where
  sec : Nat := 0
  frac : Nat := 0
  at_ : Nat := 0
  deriving DecidableEq, Repr

/-- Status of a host completion (Table 14.4). -/
inductive Cpl where
  | sc | poisoned | ur | ca | crs | noCpl
  deriving DecidableEq, Repr

/-- A fabric request of a host access that is not answered yet (R615 to R618): its host access, how often it was
resent, when it is resent if it was refused, and when it times out. -/
structure HostAcc where
  tag : Half
  id : Nat
  write : Bool
  bar : Nat
  pkt : Packet
  tries : Nat := 0
  due : Option Nat := none
  till : Nat := 0
  /-- HIF_CTL.RTY and HIF_IVL when the access started (R130) -/
  rty : Nat := 0
  ivl : Nat := 0
  deriving DecidableEq, Repr

/-- A part of a host read: the TAG of its request (none: it awaits earlier writes, R133), and once answered its status
and bytes. -/
structure HostPart where
  tag : Option Half := none
  res : Option (Cpl × List Byte) := none
  deriving DecidableEq, Repr

/-- A host read whose completion is being put together, by parts in address order (R618). -/
structure HostRd where
  id : Nat
  parts : List HostPart
  deriving DecidableEq, Repr

/-- A vector of the MSI-X table (R621). -/
structure MsixVec where
  addr : Nat := 0
  data : Word := 0
  masked : Bool := true
  pend : Bool := false
  /-- when the last message left, and HIF_ICOAL.WIN in ns as its window started (R130, R624) -/
  lastAt : Option Nat := none
  win : Nat := 0
  deferred : Bool := false
  deriving DecidableEq, Repr

/-- The host interface (R611 to R630) beside the registers of its page. -/
structure Hif where
  accs : List HostAcc := []
  rds : List HostRd := []
  nextId : Nat := 0
  nextTag : Nat := 0
  vecs : Tab MsixVec := []
  bme : Bool := false
  fmask : Bool := false
  /-- PERST_N is deasserted and the link has trained to the point of Retry Status (R613) -/
  perst : Bool := false
  perstAt : Nat := 0
  smbAddr : Word := 0
  smbErr : Bool := false
  deriving DecidableEq, Repr

/-- The level of an error bucket and the errors counted since its last restore (R692, Table 17.7). -/
structure Bucket where
  level : Nat := 0
  errs : Nat := 0
  retired : Bool := false
  /-- E of its last leak (R693) -/
  leakAt : Option Nat := none
  deriving DecidableEq, Repr

/-- An entry of the retirement log (Table 17.7). -/
structure RlogE where
  w0 : Word
  w1 : Word
  w2 : Word
  deriving DecidableEq, Repr

/-- Reset scopes (Table 19.4). -/
inductive Scope where
  | cold | warm | fabric | tile (t : Nat)
  deriving DecidableEq, Repr

/-- Power, boot and reset state that MGT holds beside its registers (R776 to R796, R813 to R817). -/
structure Mgt where
  /-- the reset that runs: a cold or warm one until boot is DONE or FAILED -/
  running : Option Scope := some .cold
  /-- tile resets waiting for the one that runs (R795) -/
  waiting : List Nat := []
  thermtrip : Bool := false
  vstby : Bool := true
  rails : Bool := true
  throttled : List Nat := []
  /-- effective VCORE of each compute die in mV (R814) -/
  vmv : List Nat := [750, 750, 750, 750]
  failedRtrs : List Nat := []
  /-- when the fabric last left a reset (R392) -/
  fabUp : Nat := 0
  /-- numbers the measurement of the tree delays that stands (R473) -/
  calNo : Nat := 0
  /-- E at the end of the last Fuller pass, and SCR_CTL.PERIOD as it was then (R130, R712) -/
  passAt : Nat := 0
  passMs : Nat := 10
  deriving DecidableEq, Repr

/-- Levels and waves of the debug tree (R725 to R738). -/
structure Dbg where
  /-- the stop wave has passed and no RESUME since (R725) -/
  stopped : Bool := false
  /-- cause of that wave (Table 18.1) -/
  cause : Nat := 0
  frozen : Bool := false
  /-- when the package last resumed (R392) -/
  resumeAt : Nat := 0
  /-- when each stopped page halted, by page base (R730) -/
  haltAt : Tab Nat := []
  deriving DecidableEq, Repr

/-- What leaves the package or a page, in order: the model's own record (log 7). -/
inductive OutMsg where
  | msix (vec addr : Nat) (data : Word)
  | mgtIrq (p : Page)
  | host (id : Nat) (st : Cpl) (bytes : List Byte)
  | cfg (st : Cpl)
  | value (src : Src) (p : Page) (off : Nat) (v : Word)
  | data (n : Nat) (f : LFrame) (p : Packet)
  | ctrl (n : Nat) (f : LFrame)
  | block (n : Nat) (shares : List (List Byte))
  | ident (n pkg plane link : Nat)
  | lanes (n mask : Nat)
  | wave (n : Nat) (code : BitVec 7)
  | sync (n : Nat) (m : SyncMsg)
  | dreq (n : Nat) (sn : Nat) (lanesel : Bool)
  | drsp (n : Nat) (t4 sn : Nat)
  | frame (n : Nat) (bytes : List Byte)
  | pfc (n prio quanta : Nat)
  | ppsOut (level : Bool)
  | stopOut (low : Bool)
  | thermtrip
  | smb (nack : Bool) (v : Option Word)
  | scan (v : Word)
  | keepalive (t port : Nat)
  | timeWave (nt era : Nat) (check : Byte) (step : Int)
  deriving DecidableEq, Repr

/-- The package. -/
structure State where
  fuses : Fuses := {}
  /-- oscillator ticks that have passed; the full time T of R461 is this plus `tkp.off` -/
  time : Nat := 0
  regs : Tab Word := []
  latches : Tab Word := []
  mem : List Host.Cell := []
  ecc : Tab UnitErr := []
  tiles : Tab Tile := []
  edges : Tab Edge := []
  dies : Tab Die := []
  links : Tab Link := []
  eths : Tab Eth := []
  glzs : Tab Glz := []
  tkp : Tkp := {}
  rtc : Rtc := {}
  hif : Hif := {}
  buckets : Tab Bucket := []
  rlog : List RlogE := []
  mgt : Mgt := {}
  dbg : Dbg := {}
  out : List OutMsg := []
  /-- numbers the free values taken so far (log 8) -/
  free : Nat := 0
  pending : List Instr := []
  deriving DecidableEq, Repr

/-- The package right after cold reset: every register at its reset value (the table of Machine/Regs.lean), memories of
zeros (R790; MEM by log 2), every queue empty, network time 0 (log 4), boot at stage ROM. -/
def State.reset : State := {}

end Sys2Proof.Machine
end

