-- ==== Sys2Proof/Machine/Regs.lean ====
section
/-! DEFINITION. The register tables of every page: offset, array dimensions, and for each field its bits, access type,
reset value and collision code; reset values that fuses, the assembly or the instance fix. -/

namespace Sys2Proof.Machine

/-- Access types (Table 3.7). -/
inductive Acc7 where
  | rw | ro | rw1c | rw1s | wo | rc | rwl
  deriving DecidableEq, Repr

/-- Collision codes (Table 3.8). -/
inductive Coll where
  | s | h | sh | n
  deriving DecidableEq, Repr

/-- Reset value of a field: a number, or one that `fixedReset` gives. -/
inductive Rst where
  | num (v : Nat) | fixed
  deriving DecidableEq, Repr

/-- A field: bits, access type, reset value, collision code. -/
structure Fld where
  hi : Nat
  lo : Nat
  acc : Acc7
  rst : Rst
  col : Coll
  deriving DecidableEq, Repr

/-- A register or an array of registers: first offset, dimensions (count, stride), fields. -/
structure RegDef where
  off : Nat
  dims : List (Nat × Nat)
  flds : List Fld
  deriving DecidableEq, Repr

/-- The common header and the sillage window of every page (R111, R752). -/
def headerRegs : List RegDef := [
  ⟨0x000, [], [⟨31, 16, .ro, .fixed, .n⟩, ⟨15, 0, .ro, .fixed, .n⟩]⟩, -- PG_ID
  ⟨0x004, [], [⟨31, 16, .ro, .num 1, .n⟩, ⟨15, 8, .ro, .fixed, .n⟩]⟩, -- PG_VER
  ⟨0x008, [], [⟨31, 0, .ro, .fixed, .n⟩]⟩, -- PG_CAP0
  ⟨0x00C, [], [⟨31, 0, .ro, .fixed, .n⟩]⟩, -- PG_CAP1
  ⟨0x010, [], [⟨0, 0, .rwl, .num 1, .s⟩, ⟨1, 1, .rwl, .num 0, .s⟩, ⟨2, 2, .rwl, .num 0, .s⟩, ⟨3, 3, .rwl, .num 0, .s⟩]⟩, -- PG_CTL
  ⟨0x014, [], [⟨0, 0, .ro, .num 0, .h⟩, ⟨1, 1, .ro, .num 0, .h⟩, ⟨2, 2, .ro, .num 0, .h⟩, ⟨3, 3, .ro, .num 0, .h⟩, ⟨4, 4, .ro, .num 0, .h⟩, ⟨5, 5, .ro, .num 0, .h⟩, ⟨6, 6, .ro, .num 0, .h⟩]⟩, -- PG_STAT
  ⟨0x018, [], [⟨0, 0, .rw1s, .num 0, .s⟩]⟩, -- PG_LOCK
  ⟨0x020, [], [⟨30, 0, .rw1c, .num 0, .h⟩, ⟨31, 31, .rw1c, .num 0, .h⟩]⟩, -- PG_ISR
  ⟨0x024, [], [⟨31, 0, .rw, .num 0, .n⟩]⟩, -- PG_IER
  ⟨0x028, [], [⟨31, 0, .wo, .num 0, .n⟩]⟩, -- PG_IFR: sets PG_ISR bits, holds nothing, reads 0
  ⟨0x02C, [], [⟨10, 0, .rw, .num 0, .n⟩, ⟨16, 16, .rw, .num 0, .n⟩, ⟨17, 17, .rw, .num 0, .n⟩]⟩, -- PG_IMAP
  ⟨0x030, [], [⟨31, 31, .rw1c, .num 0, .h⟩, ⟨30, 30, .ro, .num 0, .h⟩, ⟨23, 16, .ro, .num 0, .h⟩, ⟨15, 0, .ro, .num 0, .h⟩]⟩, -- PG_ELOG0
  ⟨0x034, [], [⟨31, 16, .ro, .num 0, .h⟩, ⟨15, 0, .ro, .num 0, .h⟩]⟩, -- PG_ELOG1
  ⟨0x038, [], [⟨31, 0, .ro, .num 0, .h⟩]⟩, -- PG_ELOG2
  ⟨0x03C, [], [⟨31, 0, .ro, .num 0, .h⟩]⟩, -- PG_ELOG3
  ⟨0x040, [], [⟨15, 0, .rw, .num 0, .sh⟩, ⟨31, 16, .rw, .num 0, .sh⟩]⟩, -- PG_ECNT
  ⟨0x050, [], [⟨0, 0, .rw, .num 0, .n⟩, ⟨1, 1, .rw, .num 1, .n⟩, ⟨2, 2, .wo, .num 0, .s⟩, ⟨3, 3, .rw, .num 0, .n⟩]⟩, -- PG_EVR_CTL
  ⟨0x054, [], [⟨4, 0, .ro, .num 0, .h⟩, ⟨5, 5, .ro, .num 0, .h⟩, ⟨31, 16, .ro, .num 0, .h⟩]⟩, -- PG_EVR_PTR
  ⟨0x060, [], [⟨0, 0, .rw, .num 0, .n⟩, ⟨1, 1, .wo, .num 0, .s⟩, ⟨2, 2, .rw, .num 0, .n⟩]⟩, -- PG_PERF_CTL
  ⟨0x070, [], [⟨31, 0, .rw, .num 0, .n⟩]⟩, -- PG_SCRATCH
  ⟨0xE00, [(32, 0x10)], [⟨31, 0, .ro, .num 0, .h⟩]⟩, -- PG_EVR_SLOT_W0
  ⟨0xE04, [(32, 0x10)], [⟨31, 0, .ro, .num 0, .h⟩]⟩, -- PG_EVR_SLOT_W1
  ⟨0xE08, [(32, 0x10)], [⟨31, 0, .ro, .num 0, .h⟩]⟩, -- PG_EVR_SLOT_W2
  ⟨0xE0C, [(32, 0x10)], [⟨31, 0, .ro, .num 0, .h⟩]⟩ -- PG_EVR_SLOT_W3
]

/-- Registers of the TIL page (R363, Tables 7.1, 8.10, 9.6, 11.6). -/
def tilRegs : List RegDef := [
  ⟨0x080, [], [⟨3, 0, .rwl, .num 0, .n⟩]⟩, -- TIL_PART
  ⟨0x084, [], [⟨0, 0, .rwl, .num 0, .s⟩, ⟨1, 1, .ro, .num 0, .h⟩, ⟨4, 2, .ro, .num 0, .h⟩]⟩, -- TIL_ISO
  ⟨0x088, [], [⟨19, 0, .rw, .num 10000, .n⟩]⟩, -- TIL_WDOG
  ⟨0x0C0, [], [⟨0, 0, .ro, .num 0, .h⟩, ⟨15, 8, .rw, .num 0, .sh⟩]⟩, -- TIL_TIME
  ⟨0x0C4, [], [⟨23, 0, .ro, .num 0, .h⟩]⟩, -- TIL_TDLY
  ⟨0x100, [(3, 0x4)], [⟨0, 0, .rw, .num 0, .s⟩, ⟨2, 1, .ro, .num 0, .h⟩, ⟨9, 8, .rw, .num 0, .n⟩, ⟨22, 16, .rw, .num 0, .n⟩]⟩, -- TIL_LEASE
  ⟨0x110, [], [⟨2, 0, .rw, .num 0, .s⟩, ⟨14, 8, .rw, .num 0, .n⟩, ⟨22, 16, .rw, .num 0, .n⟩, ⟨30, 24, .rw, .num 0, .n⟩]⟩, -- TIL_LEND
  ⟨0x114, [], [⟨7, 0, .rw, .num 17, .n⟩]⟩ -- TIL_LCFG
]

/-- Registers of the SEQ page (R215). -/
def seqRegs : List RegDef := [
  ⟨0x080, [], [⟨0, 0, .rwl, .num 0, .s⟩, ⟨1, 1, .wo, .num 0, .s⟩]⟩, -- SEQ_CTL
  ⟨0x084, [], [⟨31, 31, .rw1c, .num 0, .h⟩, ⟨30, 29, .ro, .num 0, .h⟩, ⟨28, 26, .ro, .num 0, .h⟩, ⟨25, 20, .ro, .num 0, .h⟩, ⟨17, 0, .ro, .num 0, .h⟩]⟩, -- SEQ_ADM_SHORT
  ⟨0x088, [], [⟨17, 0, .rw, .num 0x30000, .n⟩]⟩, -- SEQ_POOL_TM
  ⟨0x08C, [], [⟨17, 0, .ro, .num 0x30000, .h⟩]⟩, -- SEQ_FREE_TM
  ⟨0x090, [], [⟨3, 0, .ro, .num 8, .h⟩, ⟨10, 4, .ro, .num 64, .h⟩, ⟨15, 11, .ro, .num 16, .h⟩, ⟨17, 16, .ro, .num 0, .h⟩]⟩, -- SEQ_FREE_RES
  ⟨0x094, [], [⟨31, 0, .rw, .num 0, .sh⟩]⟩, -- SEQ_BRCNT
  ⟨0x098, [], [⟨31, 0, .rw, .num 0, .sh⟩]⟩, -- SEQ_MISP
  ⟨0x09C, [], [⟨31, 0, .rw, .num 0, .sh⟩]⟩, -- SEQ_SQUASH
  ⟨0x100, [(4, 0x40)], [⟨10, 0, .rw, .num 0, .n⟩]⟩, -- SEQ_LC_BASE
  ⟨0x104, [(4, 0x40)], [⟨0, 0, .rw1s, .num 0, .s⟩, ⟨1, 1, .rw1s, .num 0, .s⟩]⟩, -- SEQ_LC_CTL
  ⟨0x108, [(4, 0x40)], [⟨2, 0, .ro, .num 0, .h⟩, ⟨3, 3, .ro, .num 0, .h⟩, ⟨4, 4, .rw1c, .num 0, .h⟩, ⟨6, 5, .ro, .num 0, .h⟩, ⟨15, 8, .ro, .num 0, .h⟩, ⟨26, 16, .ro, .num 0, .h⟩]⟩, -- SEQ_LC_STAT
  ⟨0x10C, [(4, 0x40)], [⟨3, 0, .ro, .num 0xF, .h⟩]⟩, -- SEQ_LC_WSEL
  ⟨0x110, [(4, 0x40), (8, 0x4)], [⟨31, 0, .rw, .num 0, .s⟩]⟩, -- SEQ_LC_LOOP
  ⟨0x400, [(64, 0x4)], [⟨31, 0, .rw, .num 0, .sh⟩]⟩ -- SEQ_SEM
]

/-- Registers of the CMP page (R294). -/
def cmpRegs : List RegDef := [
  ⟨0x080, [(4, 0x4)], [⟨0, 0, .rw1c, .num 0, .h⟩, ⟨1, 1, .rw1c, .num 0, .h⟩, ⟨2, 2, .rw1c, .num 0, .h⟩, ⟨3, 3, .rw1c, .num 0, .h⟩, ⟨15, 8, .ro, .num 0, .h⟩]⟩, -- CMP_LC_FLAGS
  ⟨0x100, [(4, 0x80), (8, 0x10)], [⟨17, 0, .ro, .num 0, .h⟩, ⟨20, 18, .ro, .num 0, .h⟩, ⟨31, 31, .ro, .num 0, .h⟩]⟩, -- CMP_LC_TD_W0
  ⟨0x104, [(4, 0x80), (8, 0x10)], [⟨11, 0, .ro, .num 0, .h⟩, ⟨27, 16, .ro, .num 0, .h⟩]⟩, -- CMP_LC_TD_W1
  ⟨0x108, [(4, 0x80), (8, 0x10)], [⟨17, 0, .ro, .num 0, .h⟩]⟩ -- CMP_LC_TD_W2
]

/-- Registers of the MOV page (R295, R545). -/
def movRegs : List RegDef := [
  ⟨0x080, [], [⟨7, 0, .rw, .num 8, .n⟩, ⟨27, 8, .rw, .num 1000, .n⟩]⟩, -- MOV_RTY
  ⟨0x084, [], [⟨0, 0, .wo, .num 0, .s⟩]⟩, -- MOV_PEL_CTL
  ⟨0x088, [], [⟨4, 0, .ro, .num 0, .h⟩, ⟨5, 5, .ro, .num 0, .h⟩]⟩, -- MOV_PEL_STAT
  ⟨0x08C, [], [⟨31, 0, .ro, .fixed, .n⟩]⟩, -- MOV_LHOLE_LO
  ⟨0x090, [], [⟨15, 0, .ro, .fixed, .n⟩]⟩, -- MOV_LHOLE_HI
  ⟨0x094, [], [⟨31, 0, .rw, .num 0, .n⟩]⟩, -- MOV_RHOLE_LO
  ⟨0x098, [], [⟨15, 0, .rw, .num 0, .n⟩]⟩, -- MOV_RHOLE_HI
  ⟨0x0A0, [(4, 0x4)], [⟨0, 0, .ro, .num 0, .h⟩, ⟨13, 1, .ro, .num 0, .h⟩]⟩, -- MOV_LC_STAT
  ⟨0x0B0, [], [⟨3, 0, .ro, .num 0, .h⟩, ⟨7, 4, .ro, .num 0, .h⟩, ⟨11, 8, .ro, .num 0, .h⟩, ⟨15, 12, .ro, .num 0, .h⟩]⟩, -- MOV_IQ_STAT
  ⟨0x200, [(16, 0x10)], [⟨15, 0, .ro, .num 0, .h⟩, ⟨23, 22, .ro, .num 0, .h⟩, ⟨31, 24, .ro, .num 0, .h⟩]⟩, -- MOV_PEL_W0
  ⟨0x204, [(16, 0x10)], [⟨31, 16, .ro, .num 0, .h⟩, ⟨15, 0, .ro, .num 0, .h⟩]⟩, -- MOV_PEL_W1
  ⟨0x208, [(16, 0x10)], [⟨31, 0, .ro, .num 0, .h⟩]⟩, -- MOV_PEL_W2
  ⟨0x20C, [(16, 0x10)], [⟨31, 0, .ro, .num 0, .h⟩]⟩, -- MOV_PEL_W3
  ⟨0x400, [(4, 0x100), (8, 0x20)], [⟨1, 0, .ro, .num 0, .h⟩, ⟨2, 2, .ro, .num 0, .h⟩]⟩, -- MOV_LC_MAD_CTL
  ⟨0x404, [(4, 0x100), (8, 0x20)], [⟨31, 0, .ro, .num 0, .h⟩]⟩, -- MOV_LC_MAD_ADDRLO
  ⟨0x408, [(4, 0x100), (8, 0x20)], [⟨15, 0, .ro, .num 0, .h⟩]⟩, -- MOV_LC_MAD_ADDRHI
  ⟨0x40C, [(4, 0x100), (8, 0x20)], [⟨31, 0, .ro, .num 0, .h⟩]⟩, -- MOV_LC_MAD_NODE
  ⟨0x410, [(4, 0x100), (8, 0x20)], [⟨31, 0, .ro, .num 0, .h⟩]⟩, -- MOV_LC_MAD_RECT
  ⟨0x800, [], [⟨0, 0, .wo, .num 0, .s⟩, ⟨1, 1, .wo, .num 0, .s⟩, ⟨2, 2, .wo, .num 0, .s⟩, ⟨3, 3, .rw, .num 1, .n⟩, ⟨11, 8, .rw, .num 0xF, .n⟩]⟩, -- GCL_CTL
  ⟨0x804, [], [⟨1, 0, .ro, .num 0, .h⟩, ⟨2, 2, .rw1c, .num 0, .h⟩, ⟨3, 3, .rw1c, .num 0, .h⟩, ⟨4, 4, .rw1c, .num 0, .h⟩, ⟨15, 8, .ro, .num 0xF, .h⟩, ⟨23, 16, .ro, .num 0, .h⟩]⟩, -- GCL_STAT
  ⟨0x808, [], [⟨31, 0, .rw, .num 0, .n⟩]⟩, -- GCL_ADM_BASE_LO
  ⟨0x80C, [], [⟨31, 0, .rw, .num 0, .n⟩]⟩, -- GCL_ADM_BASE_HI
  ⟨0x810, [], [⟨31, 0, .rw, .num 0, .n⟩]⟩, -- GCL_ADM_CYC_LO
  ⟨0x814, [], [⟨7, 0, .rw, .num 0, .n⟩]⟩, -- GCL_ADM_CYC_HI
  ⟨0x818, [], [⟨8, 0, .rw, .num 1, .n⟩]⟩, -- GCL_ADM_LEN
  ⟨0x820, [], [⟨31, 0, .ro, .num 0, .h⟩]⟩, -- GCL_OPER_BASE_LO
  ⟨0x824, [], [⟨31, 0, .ro, .num 0, .h⟩]⟩, -- GCL_OPER_BASE_HI
  ⟨0x828, [], [⟨31, 0, .ro, .num 0, .h⟩]⟩, -- GCL_OPER_CYC_LO
  ⟨0x82C, [], [⟨7, 0, .ro, .num 0, .h⟩]⟩, -- GCL_OPER_CYC_HI
  ⟨0x830, [], [⟨8, 0, .ro, .num 0, .h⟩]⟩, -- GCL_OPER_LEN
  ⟨0x838, [], [⟨31, 0, .ro, .num 0, .h⟩]⟩, -- GCL_CT_LO
  ⟨0x83C, [], [⟨31, 0, .ro, .num 0, .h⟩]⟩, -- GCL_CT_HI
  ⟨0x880, [], [⟨2, 0, .wo, .num 0, .s⟩, ⟨3, 3, .wo, .num 0, .s⟩, ⟨15, 8, .wo, .num 0, .s⟩]⟩, -- TBL_CMD
  ⟨0x884, [(4, 0x4)], [⟨31, 0, .rw, .num 0, .s⟩]⟩ -- TBL_D
]

/-- Registers of the CMB page (R459). -/
def cmbRegs : List RegDef := [
  ⟨0x080, [], [⟨0, 0, .rwl, .num 0, .n⟩]⟩, -- CMB_CTL
  ⟨0x084, [], [⟨19, 0, .rw, .num 2000, .n⟩, ⟨31, 20, .rw, .num 100, .n⟩]⟩, -- CMB_CHCFG
  ⟨0x088, [], [⟨4, 0, .ro, .num 0, .h⟩]⟩, -- CMB_REFTAB
  ⟨0x08C, [], [⟨15, 0, .rw, .num 0, .sh⟩]⟩, -- CMB_ECNT
  ⟨0x090, [], [⟨5, 0, .ro, .num 0, .h⟩]⟩, -- CMB_RSV
  ⟨0x0A0, [(2, 0x8)], [⟨17, 0, .rw, .num 0, .n⟩]⟩, -- CMB_DARK_BASE
  ⟨0x0A4, [(2, 0x8)], [⟨17, 0, .rw, .num 0, .n⟩]⟩, -- CMB_DARK_SIZE
  ⟨0x100, [(16, 0x20)], [⟨0, 0, .rw, .num 0, .s⟩, ⟨1, 1, .rw, .num 0, .n⟩, ⟨2, 2, .rw, .num 0, .n⟩, ⟨27, 8, .rw, .num 20, .n⟩]⟩, -- CMB_RQ_CFG
  ⟨0x104, [(16, 0x20)], [⟨17, 0, .rw, .num 0, .n⟩]⟩, -- CMB_RQ_BASE
  ⟨0x108, [(16, 0x20)], [⟨17, 0, .rw, .num 0, .n⟩]⟩, -- CMB_RQ_SIZE
  ⟨0x10C, [(16, 0x20)], [⟨17, 0, .ro, .num 0, .h⟩]⟩, -- CMB_RQ_HEAD
  ⟨0x110, [(16, 0x20)], [⟨17, 0, .ro, .num 0, .h⟩]⟩, -- CMB_RQ_TAIL
  ⟨0x114, [(16, 0x20)], [⟨0, 0, .ro, .num 0, .h⟩, ⟨1, 1, .ro, .num 0, .h⟩, ⟨19, 2, .ro, .num 0, .h⟩]⟩, -- CMB_RQ_STAT
  ⟨0x300, [(8, 0x40)], [⟨0, 0, .rw, .num 0, .s⟩, ⟨3, 1, .rw, .num 0, .n⟩, ⟨6, 4, .rw, .num 0, .n⟩, ⟨9, 7, .rw, .num 0, .n⟩, ⟨10, 10, .rw, .num 0, .n⟩, ⟨11, 11, .rw, .num 0, .n⟩, ⟨12, 12, .rw, .num 0, .n⟩, ⟨18, 13, .rw, .num 0, .n⟩, ⟨20, 19, .rw, .num 0, .n⟩]⟩, -- CMB_CQ_CFG
  ⟨0x304, [(8, 0x40)], [⟨16, 0, .rw, .num 0, .n⟩, ⟨29, 17, .rw, .num 1, .n⟩]⟩, -- CMB_CQ_AM
  ⟨0x308, [(8, 0x40)], [⟨31, 0, .rw, .num 0, .n⟩]⟩, -- CMB_CQ_DNODE
  ⟨0x30C, [(8, 0x40)], [⟨31, 0, .rw, .num 0, .n⟩]⟩, -- CMB_CQ_DRECT
  ⟨0x310, [(8, 0x40)], [⟨17, 0, .rw, .num 0, .n⟩]⟩, -- CMB_CQ_DADDR
  ⟨0x314, [(8, 0x40)], [⟨31, 0, .ro, .num 0, .h⟩]⟩, -- CMB_CQ_K
  ⟨0x318, [(8, 0x40)], [⟨2, 0, .ro, .num 0, .h⟩, ⟨8, 8, .rw1c, .num 0, .h⟩, ⟨9, 9, .rw1c, .num 0, .h⟩, ⟨10, 10, .rw1c, .num 0, .h⟩, ⟨11, 11, .rw1c, .num 0, .h⟩, ⟨12, 12, .rw1c, .num 0, .h⟩, ⟨21, 16, .ro, .num 0, .h⟩]⟩, -- CMB_CQ_STAT
  ⟨0x31C, [(8, 0x40)], [⟨31, 0, .ro, .num 0, .h⟩]⟩, -- CMB_CQ_RMIN
  ⟨0x320, [(8, 0x40)], [⟨31, 0, .ro, .num 0, .h⟩]⟩ -- CMB_CQ_RMAX
]

/-- Registers of the RTR page (R363). -/
def rtrRegs : List RegDef := [
  ⟨0x080, [], [⟨1, 0, .rwl, .num 0, .n⟩]⟩, -- RTR_CTL
  ⟨0x084, [], [⟨15, 0, .rwl, .num 0xFFFF, .n⟩]⟩, -- RTR_ALLOW
  ⟨0x088, [], [⟨2, 0, .rw, .num 0, .n⟩, ⟨6, 4, .rw, .num 1, .n⟩, ⟨10, 8, .rw, .num 2, .n⟩, ⟨14, 12, .rw, .num 3, .n⟩]⟩, -- RTR_TCMAP
  ⟨0x08C, [], [⟨7, 0, .ro, .fixed, .n⟩, ⟨15, 8, .ro, .fixed, .n⟩]⟩, -- RTR_GRID
  ⟨0x0C0, [], [⟨15, 0, .rw, .num 0, .sh⟩, ⟨31, 16, .rw, .num 0, .sh⟩]⟩, -- RTR_ECNT0
  ⟨0x0C4, [], [⟨15, 0, .rw, .num 0, .sh⟩, ⟨31, 16, .rw, .num 0, .sh⟩]⟩, -- RTR_ECNT1
  ⟨0x100, [(5, 0x4)], [⟨31, 0, .rw, .num 0, .sh⟩]⟩, -- RTR_FLITS
  ⟨0x200, [(8, 0x4)], [⟨31, 0, .ro, .num 0, .h⟩]⟩ -- RTR_HCAP
]

/-- Registers of the DBG page (R773). -/
def dbgRegs : List RegDef := [
  ⟨0x080, [], [⟨0, 0, .rw, .num 0, .n⟩, ⟨1, 1, .rw, .num 0, .n⟩]⟩, -- DBG_TRC_CTL
  ⟨0x084, [], [⟨31, 0, .rw, .num 0, .n⟩]⟩, -- DBG_TRC_BASE_LO
  ⟨0x088, [], [⟨15, 0, .rw, .num 0, .n⟩]⟩, -- DBG_TRC_BASE_HI
  ⟨0x08C, [], [⟨15, 0, .rw, .num 0, .n⟩]⟩, -- DBG_TRC_SIZE
  ⟨0x090, [], [⟨19, 0, .ro, .num 0, .h⟩, ⟨31, 31, .rw1c, .num 0, .h⟩]⟩, -- DBG_TRC_WR
  ⟨0x094, [], [⟨31, 0, .rw, .num 0, .sh⟩]⟩, -- DBG_TRC_DROP
  ⟨0x098, [], [⟨4, 0, .rw, .num 20, .n⟩, ⟨11, 8, .rw, .num 4, .n⟩]⟩, -- DBG_BUDGET
  ⟨0x0A0, [], [⟨19, 0, .rw, .num 0, .n⟩]⟩, -- DBG_SMP
  ⟨0x0C0, [], [⟨0, 0, .rw, .num 0, .n⟩, ⟨1, 1, .rw, .num 0, .n⟩, ⟨2, 2, .rw, .num 0, .n⟩, ⟨3, 3, .rw, .num 0, .n⟩]⟩, -- DBG_TRIG
  ⟨0x0C4, [], [⟨7, 0, .rw, .num 0, .n⟩, ⟨15, 8, .rw, .num 0, .n⟩, ⟨21, 16, .rw, .num 0, .n⟩]⟩, -- DBG_SIL_MATCH
  ⟨0x0C8, [], [⟨31, 16, .rw, .num 0, .n⟩, ⟨15, 0, .rw, .num 0, .n⟩]⟩, -- DBG_SIL_VAL
  ⟨0x0CC, [], [⟨31, 16, .rw, .num 0, .n⟩, ⟨15, 0, .rw, .num 0, .n⟩]⟩, -- DBG_SIL_MASK
  ⟨0x100, [(2, 0x40)], [⟨0, 0, .rw, .num 0, .s⟩, ⟨1, 1, .rw, .num 0, .s⟩, ⟨2, 2, .rw, .num 0, .s⟩, ⟨3, 3, .rw, .num 0, .s⟩, ⟨4, 4, .rw, .num 0, .s⟩, ⟨9, 5, .rw, .num 0, .s⟩, ⟨19, 12, .rw, .num 0, .s⟩, ⟨31, 31, .ro, .num 0, .h⟩]⟩, -- DBG_PRB_CTL
  ⟨0x104, [(2, 0x40)], [⟨31, 0, .rw, .num 0, .n⟩]⟩, -- DBG_PRB_MATCH_DST
  ⟨0x108, [(2, 0x40)], [⟨31, 0, .rw, .num 0, .n⟩]⟩, -- DBG_PRB_MASK_DST
  ⟨0x10C, [(2, 0x40)], [⟨31, 0, .rw, .num 0, .n⟩]⟩, -- DBG_PRB_MATCH_SRC
  ⟨0x110, [(2, 0x40)], [⟨31, 0, .rw, .num 0, .n⟩]⟩, -- DBG_PRB_MASK_SRC
  ⟨0x114, [(2, 0x40)], [⟨7, 0, .rw, .num 0, .n⟩, ⟨10, 8, .rw, .num 0, .n⟩, ⟨23, 16, .rw, .num 0, .n⟩, ⟨26, 24, .rw, .num 0, .n⟩]⟩, -- DBG_PRB_OPC
  ⟨0x118, [(2, 0x40)], [⟨31, 16, .rw, .num 0, .n⟩, ⟨15, 0, .rw, .num 0, .n⟩]⟩, -- DBG_PRB_MATCH_TAG
  ⟨0x11C, [(2, 0x40)], [⟨31, 16, .rw, .num 0, .n⟩, ⟨15, 0, .rw, .num 0, .n⟩]⟩, -- DBG_PRB_MASK_TAG
  ⟨0x120, [(2, 0x40)], [⟨31, 0, .rw, .num 0, .sh⟩]⟩, -- DBG_PRB_COUNT
  ⟨0x124, [(2, 0x40)], [⟨15, 0, .ro, .num 0, .h⟩]⟩, -- DBG_PRB_SEQ
  ⟨0x200, [(4, 0x20)], [⟨31, 0, .rw, .num 0, .sh⟩]⟩, -- DBG_T_BUSY_LO
  ⟨0x204, [(4, 0x20)], [⟨15, 0, .rw, .num 0, .sh⟩]⟩, -- DBG_T_BUSY_HI
  ⟨0x208, [(4, 0x20)], [⟨31, 0, .rw, .num 0, .sh⟩]⟩, -- DBG_T_IDLE_LO
  ⟨0x20C, [(4, 0x20)], [⟨15, 0, .rw, .num 0, .sh⟩]⟩, -- DBG_T_IDLE_HI
  ⟨0x400, [(4, 0x80), (13, 0x8)], [⟨31, 0, .rw, .num 0, .sh⟩]⟩, -- DBG_T_STALL_LO
  ⟨0x404, [(4, 0x80), (13, 0x8)], [⟨15, 0, .rw, .num 0, .sh⟩]⟩, -- DBG_T_STALL_HI
  ⟨0x600, [], [⟨31, 0, .rw, .num 0, .sh⟩]⟩, -- SEQ_TBUSY_LO
  ⟨0x604, [], [⟨15, 0, .rw, .num 0, .sh⟩]⟩, -- SEQ_TBUSY_HI
  ⟨0x608, [], [⟨31, 0, .rw, .num 0, .sh⟩]⟩, -- MOV_TBUSY_LO
  ⟨0x60C, [], [⟨15, 0, .rw, .num 0, .sh⟩]⟩, -- MOV_TBUSY_HI
  ⟨0x610, [], [⟨31, 0, .rw, .num 0, .sh⟩]⟩, -- MOV_TRD
  ⟨0x614, [], [⟨31, 0, .rw, .num 0, .sh⟩]⟩, -- MOV_TRESV
  ⟨0x618, [], [⟨31, 0, .rw, .num 0, .sh⟩]⟩, -- MOV_TWDRW
  ⟨0x61C, [], [⟨31, 0, .rw, .num 0, .sh⟩]⟩, -- MOV_TRBYTES
  ⟨0x700, [(4, 0x40)], [⟨31, 0, .ro, .num 0, .h⟩]⟩, -- DBG_ATT_CRC
  ⟨0x704, [(4, 0x40)], [⟨31, 0, .ro, .num 0, .h⟩]⟩, -- DBG_ATT_COUNT
  ⟨0x708, [(4, 0x40)], [⟨31, 0, .ro, .num 0, .h⟩]⟩, -- DBG_ATT_MIN
  ⟨0x70C, [(4, 0x40)], [⟨31, 0, .ro, .num 0, .h⟩]⟩, -- DBG_ATT_MAX
  ⟨0x710, [(4, 0x40)], [⟨31, 0, .ro, .num 0, .h⟩]⟩, -- DBG_ATT_SUM_LO
  ⟨0x714, [(4, 0x40)], [⟨31, 0, .ro, .num 0, .h⟩]⟩, -- DBG_ATT_SUM_HI
  ⟨0x718, [(4, 0x40)], [⟨31, 0, .ro, .num 0, .h⟩]⟩, -- DBG_ATT_NAN
  ⟨0x71C, [(4, 0x40)], [⟨31, 0, .ro, .num 0, .h⟩]⟩, -- DBG_ATT_INF
  ⟨0x720, [(4, 0x40)], [⟨0, 0, .ro, .num 0, .h⟩, ⟨1, 1, .rw1c, .num 0, .h⟩, ⟨2, 2, .ro, .num 0, .h⟩]⟩, -- DBG_ATT_STAT
  ⟨0x724, [(4, 0x40)], [⟨31, 16, .ro, .num 0, .h⟩, ⟨15, 0, .ro, .num 0, .h⟩]⟩, -- DBG_ATT_TAG
  ⟨0x728, [(4, 0x40)], [⟨31, 0, .rw, .num 0, .n⟩]⟩, -- DBG_ATT_EXP_CRC
  ⟨0x72C, [(4, 0x40)], [⟨31, 0, .rw, .num 0, .n⟩]⟩, -- DBG_ATT_EXP_COUNT
  ⟨0x730, [(4, 0x40)], [⟨31, 0, .rw, .num 0, .n⟩]⟩, -- DBG_ATT_EXP_SUM_LO
  ⟨0x734, [(4, 0x40)], [⟨31, 0, .rw, .num 0, .n⟩]⟩, -- DBG_ATT_EXP_SUM_HI
  ⟨0x738, [(4, 0x40)], [⟨0, 0, .rw, .num 0, .n⟩, ⟨1, 1, .rw, .num 0, .n⟩, ⟨2, 2, .rw, .num 0, .n⟩]⟩ -- DBG_ATT_CMPEN
]

/-- Registers of the MEM page (R628). -/
def memRegs : List RegDef := [
  ⟨0x080, [], [⟨7, 0, .rw, .num 24, .n⟩]⟩, -- MEM_CTL
  ⟨0x084, [], [⟨0, 0, .ro, .num 0, .h⟩, ⟨1, 1, .ro, .num 0, .h⟩, ⟨15, 8, .ro, .num 0, .h⟩]⟩, -- MEM_STAT
  ⟨0x088, [], [⟨15, 0, .rwl, .num 0xFFFF, .n⟩]⟩, -- MEM_ALLOW
  ⟨0x08C, [], [⟨31, 0, .ro, .num 0, .h⟩]⟩, -- MEM_UEADDR_LO
  ⟨0x090, [], [⟨15, 0, .ro, .num 0, .h⟩]⟩, -- MEM_UEADDR_HI
  ⟨0x094, [], [⟨25, 0, .ro, .num 0, .h⟩]⟩ -- MEM_SCRUBPTR
]

/-- Registers of the OSW page (R594). -/
def oswRegs : List RegDef := [
  ⟨0x080, [], [⟨9, 0, .rwl, .num 0, .n⟩]⟩, -- OSW_SELF
  ⟨0x084, [], [⟨4, 0, .rwl, .num 1, .n⟩, ⟨11, 8, .rwl, .num 1, .n⟩, ⟨19, 16, .rwl, .num 1, .n⟩]⟩, -- OSW_POD
  ⟨0x088, [], [⟨0, 0, .rw, .num 0, .n⟩]⟩, -- OSW_CTL
  ⟨0x08C, [], [⟨15, 0, .rw, .num 0, .sh⟩, ⟨31, 16, .rw, .num 0, .sh⟩]⟩, -- OSW_ECNT
  ⟨0x090, [], [⟨11, 0, .ro, .num 0, .h⟩]⟩ -- OSW_LINKS
]

/-- Registers of the LLK page (R593, R545). -/
def llkRegs : List RegDef := [
  ⟨0x080, [], [⟨0, 0, .rw1s, .num 0, .s⟩, ⟨1, 1, .wo, .num 0, .s⟩, ⟨2, 2, .rw, .num 0, .n⟩, ⟨11, 4, .rwl, .num 0xFF, .n⟩, ⟨15, 12, .rwl, .num 4, .n⟩]⟩, -- LLK_CTL
  ⟨0x084, [], [⟨3, 0, .ro, .num 0, .h⟩, ⟨7, 4, .ro, .num 0, .h⟩, ⟨15, 8, .ro, .num 0, .h⟩]⟩, -- LLK_STAT
  ⟨0x088, [], [⟨9, 0, .ro, .num 0, .h⟩, ⟨10, 10, .ro, .num 0, .h⟩, ⟨14, 11, .ro, .num 0, .h⟩, ⟨31, 31, .ro, .num 0, .h⟩]⟩, -- LLK_PEER
  ⟨0x08C, [], [⟨15, 0, .rw, .num 2000, .n⟩]⟩, -- LLK_ACKTO
  ⟨0x090, [], [⟨3, 0, .rw, .num 8, .n⟩]⟩, -- LLK_RPLMAX
  ⟨0x094, [], [⟨15, 0, .rw, .num 100, .n⟩]⟩, -- LLK_TRAIN_TO
  ⟨0x0A0, [], [⟨15, 0, .rw, .num 0, .sh⟩, ⟨31, 16, .rw, .num 0, .sh⟩]⟩, -- LLK_FEC
  ⟨0x0A4, [], [⟨15, 0, .rw, .num 0, .sh⟩, ⟨31, 16, .rw, .num 0, .sh⟩]⟩, -- LLK_CRC
  ⟨0x0A8, [], [⟨15, 0, .rw, .num 0, .sh⟩]⟩, -- LLK_SBERR
  ⟨0x0C0, [(8, 0x4)], [⟨15, 0, .rw, .num 0, .sh⟩, ⟨16, 16, .ro, .num 0, .h⟩]⟩, -- LLK_LANE
  ⟨0xC00, [], [⟨0, 0, .wo, .num 0, .s⟩, ⟨1, 1, .wo, .num 0, .s⟩, ⟨2, 2, .wo, .num 0, .s⟩, ⟨3, 3, .rw, .num 1, .n⟩, ⟨15, 8, .rw, .num 0xFF, .n⟩]⟩, -- GCL_CTL
  ⟨0xC04, [], [⟨1, 0, .ro, .num 0, .h⟩, ⟨2, 2, .rw1c, .num 0, .h⟩, ⟨3, 3, .rw1c, .num 0, .h⟩, ⟨4, 4, .rw1c, .num 0, .h⟩, ⟨15, 8, .ro, .num 0xFF, .h⟩, ⟨23, 16, .ro, .num 0, .h⟩]⟩, -- GCL_STAT
  ⟨0xC08, [], [⟨31, 0, .rw, .num 0, .n⟩]⟩, -- GCL_ADM_BASE_LO
  ⟨0xC0C, [], [⟨31, 0, .rw, .num 0, .n⟩]⟩, -- GCL_ADM_BASE_HI
  ⟨0xC10, [], [⟨31, 0, .rw, .num 0, .n⟩]⟩, -- GCL_ADM_CYC_LO
  ⟨0xC14, [], [⟨7, 0, .rw, .num 0, .n⟩]⟩, -- GCL_ADM_CYC_HI
  ⟨0xC18, [], [⟨8, 0, .rw, .num 1, .n⟩]⟩, -- GCL_ADM_LEN
  ⟨0xC20, [], [⟨31, 0, .ro, .num 0, .h⟩]⟩, -- GCL_OPER_BASE_LO
  ⟨0xC24, [], [⟨31, 0, .ro, .num 0, .h⟩]⟩, -- GCL_OPER_BASE_HI
  ⟨0xC28, [], [⟨31, 0, .ro, .num 0, .h⟩]⟩, -- GCL_OPER_CYC_LO
  ⟨0xC2C, [], [⟨7, 0, .ro, .num 0, .h⟩]⟩, -- GCL_OPER_CYC_HI
  ⟨0xC30, [], [⟨8, 0, .ro, .num 0, .h⟩]⟩, -- GCL_OPER_LEN
  ⟨0xC38, [], [⟨31, 0, .ro, .num 0, .h⟩]⟩, -- GCL_CT_LO
  ⟨0xC3C, [], [⟨31, 0, .ro, .num 0, .h⟩]⟩, -- GCL_CT_HI
  ⟨0xC80, [], [⟨2, 0, .wo, .num 0, .s⟩, ⟨3, 3, .wo, .num 0, .s⟩, ⟨15, 8, .wo, .num 0, .s⟩]⟩, -- TBL_CMD
  ⟨0xC84, [(4, 0x4)], [⟨31, 0, .rw, .num 0, .s⟩]⟩, -- TBL_D
  ⟨0xD00, [(8, 0x10)], [⟨19, 0, .rw, .num 0, .n⟩, ⟨31, 31, .rw, .num 0, .n⟩]⟩, -- SHP_CTL
  ⟨0xD04, [(8, 0x10)], [⟨23, 0, .rw, .num 0, .n⟩]⟩, -- SHP_CBS
  ⟨0xD08, [(8, 0x10)], [⟨7, 0, .rw, .num 1, .n⟩, ⟨8, 8, .rw, .num 0, .n⟩]⟩, -- SHP_SCH
  ⟨0xD0C, [(8, 0x10)], [⟨31, 0, .ro, .num 0, .h⟩]⟩, -- SHP_CRED
  ⟨0xD80, [], [⟨5, 0, .rw, .num 12, .n⟩]⟩, -- SHP_OVH
  ⟨0xD84, [], [⟨1, 0, .rw, .num 0, .n⟩]⟩ -- MTR_CTL
]

/-- Registers of the ETH page (R657, R545). -/
def ethRegs : List RegDef := [
  ⟨0x080, [], [⟨0, 0, .rw, .num 0, .n⟩, ⟨1, 1, .rw, .num 0, .n⟩, ⟨2, 2, .rw, .num 0, .n⟩, ⟨3, 3, .rw, .num 0, .n⟩, ⟨6, 4, .rw, .num 0, .n⟩, ⟨7, 7, .rw, .num 0, .n⟩, ⟨11, 8, .rwl, .num 0, .n⟩, ⟨12, 12, .rw, .num 0, .n⟩, ⟨13, 13, .rw, .num 0, .n⟩]⟩, -- ETH_CTL
  ⟨0x084, [], [⟨13, 0, .rw, .num 1522, .n⟩]⟩, -- ETH_MAXF
  ⟨0x088, [], [⟨5, 0, .rw, .num 0, .n⟩, ⟨13, 8, .rw, .num 0, .n⟩, ⟨21, 16, .rw, .num 0, .n⟩, ⟨29, 24, .rw, .num 0, .n⟩]⟩, -- ETH_RXMAP0
  ⟨0x08C, [], [⟨5, 0, .rw, .num 0, .n⟩, ⟨13, 8, .rw, .num 0, .n⟩, ⟨21, 16, .rw, .num 0, .n⟩, ⟨29, 24, .rw, .num 0, .n⟩]⟩, -- ETH_RXMAP1
  ⟨0x090, [], [⟨5, 0, .rw, .num 0, .n⟩, ⟨8, 8, .rw, .num 0, .n⟩, ⟨9, 9, .rw, .num 0, .n⟩]⟩, -- ETH_PTP
  ⟨0x094, [], [⟨15, 0, .ro, .fixed, .n⟩, ⟨31, 16, .ro, .fixed, .n⟩]⟩, -- ETH_TSCOMP
  ⟨0x098, [], [⟨7, 0, .rw, .num 0, .n⟩, ⟨15, 8, .rw, .num 64, .n⟩, ⟨31, 16, .rw, .num 0xFFFF, .n⟩]⟩, -- ETH_PFC_CTL
  ⟨0x09C, [], [⟨7, 0, .ro, .num 0, .h⟩]⟩, -- ETH_PFC_STAT
  ⟨0x0A0, [], [⟨0, 0, .ro, .num 0, .h⟩, ⟨1, 1, .ro, .num 0, .h⟩]⟩, -- ETH_LINK
  ⟨0x0A4, [], [⟨31, 0, .rw, .num 0, .n⟩]⟩, -- ETH_MAC_LO
  ⟨0x0A8, [], [⟨15, 0, .rw, .num 0, .n⟩]⟩, -- ETH_MAC_HI
  ⟨0x0B0, [], [⟨31, 0, .rw, .num 0, .sh⟩]⟩, -- ETH_RXFRAMES
  ⟨0x0B4, [], [⟨31, 0, .rw, .num 0, .sh⟩]⟩, -- ETH_TXFRAMES
  ⟨0x0B8, [], [⟨15, 0, .rw, .num 0, .sh⟩, ⟨31, 16, .rw, .num 0, .sh⟩]⟩, -- ETH_ERRCNT0
  ⟨0x0BC, [], [⟨15, 0, .rw, .num 0, .sh⟩, ⟨31, 16, .rw, .num 0, .sh⟩]⟩, -- ETH_ERRCNT1
  ⟨0x0C0, [], [⟨15, 0, .rw, .num 0, .sh⟩, ⟨31, 16, .rw, .num 0, .sh⟩]⟩, -- ETH_ERRCNT2
  ⟨0x0C8, [(2, 0x4)], [⟨31, 0, .rw1c, .num 0, .h⟩]⟩, -- ETH_NOBUF
  ⟨0x0D0, [(2, 0x4)], [⟨31, 0, .rw1c, .num 0, .h⟩]⟩, -- ETH_RXDONE
  ⟨0x0D8, [(2, 0x4)], [⟨31, 0, .rw1c, .num 0, .h⟩]⟩, -- ETH_TXDONE
  ⟨0x400, [(64, 0x10)], [⟨31, 0, .rw, .num 0, .n⟩]⟩, -- ETH_RX_BASELO
  ⟨0x404, [(64, 0x10)], [⟨15, 0, .rw, .num 0, .s⟩, ⟨16, 16, .rw, .num 0, .s⟩, ⟨17, 17, .rw, .num 0, .s⟩, ⟨18, 18, .ro, .num 0, .h⟩]⟩, -- ETH_RX_CFG
  ⟨0x408, [(64, 0x10)], [⟨15, 0, .ro, .num 0, .h⟩, ⟨31, 16, .rw, .num 0, .n⟩]⟩, -- ETH_RX_PTR
  ⟨0x40C, [(64, 0x10)], [⟨15, 0, .rw, .num 0, .n⟩, ⟨31, 16, .rw, .num 0, .sh⟩]⟩, -- ETH_RX_TAIL
  ⟨0x800, [(64, 0x10)], [⟨31, 0, .rw, .num 0, .n⟩]⟩, -- ETH_TX_BASELO
  ⟨0x804, [(64, 0x10)], [⟨15, 0, .rw, .num 0, .s⟩, ⟨16, 16, .rw, .num 0, .s⟩, ⟨17, 17, .rw, .num 0, .s⟩, ⟨18, 18, .ro, .num 0, .h⟩, ⟨22, 20, .rw, .num 0, .s⟩]⟩, -- ETH_TX_CFG
  ⟨0x808, [(64, 0x10)], [⟨15, 0, .ro, .num 0, .h⟩, ⟨31, 16, .rw, .num 0, .n⟩]⟩, -- ETH_TX_PTR
  ⟨0x80C, [(64, 0x10)], [⟨15, 0, .rw, .num 0, .n⟩]⟩, -- ETH_TX_TAIL
  ⟨0xC00, [], [⟨0, 0, .wo, .num 0, .s⟩, ⟨1, 1, .wo, .num 0, .s⟩, ⟨2, 2, .wo, .num 0, .s⟩, ⟨3, 3, .rw, .num 1, .n⟩, ⟨15, 8, .rw, .num 0xFF, .n⟩]⟩, -- GCL_CTL
  ⟨0xC04, [], [⟨1, 0, .ro, .num 0, .h⟩, ⟨2, 2, .rw1c, .num 0, .h⟩, ⟨3, 3, .rw1c, .num 0, .h⟩, ⟨4, 4, .rw1c, .num 0, .h⟩, ⟨15, 8, .ro, .num 0xFF, .h⟩, ⟨23, 16, .ro, .num 0, .h⟩]⟩, -- GCL_STAT
  ⟨0xC08, [], [⟨31, 0, .rw, .num 0, .n⟩]⟩, -- GCL_ADM_BASE_LO
  ⟨0xC0C, [], [⟨31, 0, .rw, .num 0, .n⟩]⟩, -- GCL_ADM_BASE_HI
  ⟨0xC10, [], [⟨31, 0, .rw, .num 0, .n⟩]⟩, -- GCL_ADM_CYC_LO
  ⟨0xC14, [], [⟨7, 0, .rw, .num 0, .n⟩]⟩, -- GCL_ADM_CYC_HI
  ⟨0xC18, [], [⟨8, 0, .rw, .num 1, .n⟩]⟩, -- GCL_ADM_LEN
  ⟨0xC20, [], [⟨31, 0, .ro, .num 0, .h⟩]⟩, -- GCL_OPER_BASE_LO
  ⟨0xC24, [], [⟨31, 0, .ro, .num 0, .h⟩]⟩, -- GCL_OPER_BASE_HI
  ⟨0xC28, [], [⟨31, 0, .ro, .num 0, .h⟩]⟩, -- GCL_OPER_CYC_LO
  ⟨0xC2C, [], [⟨7, 0, .ro, .num 0, .h⟩]⟩, -- GCL_OPER_CYC_HI
  ⟨0xC30, [], [⟨8, 0, .ro, .num 0, .h⟩]⟩, -- GCL_OPER_LEN
  ⟨0xC38, [], [⟨31, 0, .ro, .num 0, .h⟩]⟩, -- GCL_CT_LO
  ⟨0xC3C, [], [⟨31, 0, .ro, .num 0, .h⟩]⟩, -- GCL_CT_HI
  ⟨0xC80, [], [⟨2, 0, .wo, .num 0, .s⟩, ⟨3, 3, .wo, .num 0, .s⟩, ⟨15, 8, .wo, .num 0, .s⟩]⟩, -- TBL_CMD
  ⟨0xC84, [(4, 0x4)], [⟨31, 0, .rw, .num 0, .s⟩]⟩, -- TBL_D
  ⟨0xD00, [(8, 0x10)], [⟨19, 0, .rw, .num 0, .n⟩, ⟨31, 31, .rw, .num 0, .n⟩]⟩, -- SHP_CTL
  ⟨0xD04, [(8, 0x10)], [⟨23, 0, .rw, .num 0, .n⟩]⟩, -- SHP_CBS
  ⟨0xD08, [(8, 0x10)], [⟨7, 0, .rw, .num 1, .n⟩, ⟨8, 8, .rw, .num 0, .n⟩]⟩, -- SHP_SCH
  ⟨0xD0C, [(8, 0x10)], [⟨31, 0, .ro, .num 0, .h⟩]⟩, -- SHP_CRED
  ⟨0xD80, [], [⟨5, 0, .rw, .num 20, .n⟩]⟩, -- SHP_OVH
  ⟨0xD84, [], [⟨1, 0, .rw, .num 0, .n⟩]⟩, -- MTR_CTL
  ⟨0xD88, [], [⟨31, 0, .rw, .num 0x44444444, .n⟩]⟩ -- MTR_COLMAP
]

/-- Registers of the GLZ page (R691). -/
def glzRegs : List RegDef := [
  ⟨0x080, [], [⟨3, 0, .rwl, .num 0, .n⟩, ⟨6, 4, .rw, .num 0, .n⟩]⟩, -- GLZ_CTL
  ⟨0x084, [], [⟨1, 0, .ro, .num 0, .h⟩, ⟨12, 2, .ro, .num 0, .h⟩, ⟨13, 13, .ro, .num 0, .h⟩]⟩, -- GLZ_STAT
  ⟨0x088, [], [⟨15, 0, .rwl, .num 0xFFFF, .n⟩]⟩, -- GLZ_ALLOW
  ⟨0x08C, [], [⟨31, 0, .rw, .num 0, .n⟩]⟩, -- GLZ_RING_TNODE
  ⟨0x090, [], [⟨31, 0, .rw, .num 0, .n⟩]⟩, -- GLZ_RING_ADDR_LO
  ⟨0x094, [], [⟨15, 0, .rw, .num 0, .n⟩]⟩, -- GLZ_RING_ADDR_HI
  ⟨0x098, [], [⟨15, 0, .rw, .num 0, .n⟩]⟩, -- GLZ_RING_SIZE
  ⟨0x09C, [], [⟨15, 0, .ro, .num 0, .h⟩]⟩, -- GLZ_RING_HEAD
  ⟨0x0A0, [], [⟨15, 0, .rw, .num 0, .n⟩]⟩, -- GLZ_RING_TAIL
  ⟨0x0A4, [], [⟨31, 0, .rw, .num 0, .n⟩]⟩, -- GLZ_BINX_BASE_LO
  ⟨0x0A8, [], [⟨15, 0, .rw, .num 0, .n⟩]⟩, -- GLZ_BINX_BASE_HI
  ⟨0x0AC, [], [⟨12, 0, .rw, .num 0, .n⟩]⟩, -- GLZ_BINX_SIZE
  ⟨0x0B0, [], [⟨11, 0, .rw, .num 256, .n⟩]⟩, -- GLZ_BIN_RSV
  ⟨0x0B4, [], [⟨0, 0, .wo, .num 0, .s⟩]⟩, -- GLZ_RESUME
  ⟨0x0B8, [], [⟨22, 0, .rc, .num 0, .h⟩]⟩, -- GLZ_BINPEAK
  ⟨0x0C0, [], [⟨31, 0, .rw, .num 0, .sh⟩]⟩, -- GLZ_PRIMS
  ⟨0x0C4, [], [⟨31, 0, .rw, .num 0, .sh⟩]⟩, -- GLZ_SAMPLES
  ⟨0x0C8, [], [⟨31, 0, .rw, .num 0, .sh⟩]⟩, -- GLZ_RAYS
  ⟨0x0CC, [], [⟨15, 0, .rw, .num 0, .sh⟩, ⟨31, 16, .rw, .num 0, .sh⟩]⟩, -- GLZ_ERRCNT
  ⟨0x200, [(64, 0x4)], [⟨31, 0, .ro, .num 0, .h⟩]⟩ -- GLZ_PROG
]

/-- Registers of the TKP page (R498). -/
def tkpRegs : List RegDef := [
  ⟨0x080, [], [⟨1, 0, .rwl, .num 0, .s⟩, ⟨9, 4, .rwl, .num 0, .s⟩, ⟨13, 12, .rw, .num 0, .s⟩, ⟨16, 16, .wo, .num 0, .s⟩]⟩, -- TKP_CTL
  ⟨0x084, [], [⟨1, 0, .ro, .num 0, .h⟩, ⟨4, 4, .ro, .num 0, .h⟩, ⟨5, 5, .ro, .num 0, .h⟩, ⟨6, 6, .rw1c, .num 0, .h⟩, ⟨7, 7, .ro, .num 0, .h⟩, ⟨12, 8, .ro, .num 0, .h⟩]⟩, -- TKP_STAT
  ⟨0x088, [], [⟨31, 0, .ro, .fixed, .h⟩]⟩, -- TKP_NT_LO
  ⟨0x08C, [], [⟨31, 0, .ro, .fixed, .h⟩]⟩, -- TKP_NT_HI
  ⟨0x090, [], [⟨15, 0, .ro, .num 0, .h⟩]⟩, -- TKP_ERA
  ⟨0x094, [], [⟨31, 0, .ro, .fixed, .h⟩]⟩, -- TKP_EPOCH_LO
  ⟨0x098, [], [⟨15, 0, .ro, .fixed, .h⟩]⟩, -- TKP_EPOCH_HI
  ⟨0x09C, [], [⟨31, 0, .ro, .num 0, .h⟩]⟩, -- TKP_RATE
  ⟨0x0A0, [], [⟨31, 0, .rw, .num 0, .n⟩]⟩, -- TKP_ADJ
  ⟨0x0A4, [], [⟨31, 0, .rw, .num 0, .s⟩]⟩, -- TKP_PHASE
  ⟨0x0A8, [], [⟨31, 0, .wo, .num 0, .s⟩]⟩, -- TKP_STEP_LO
  ⟨0x0AC, [], [⟨31, 0, .wo, .num 0, .s⟩]⟩, -- TKP_STEP_HI
  ⟨0x0B0, [], [⟨15, 0, .rw, .num 60, .n⟩]⟩, -- TKP_HOLD
  ⟨0x0C0, [], [⟨0, 0, .rw, .num 0, .n⟩, ⟨15, 8, .rw, .num 100, .n⟩, ⟨31, 16, .rw, .fixed, .n⟩]⟩, -- TKP_PPS_CTL
  ⟨0x0C4, [], [⟨31, 0, .ro, .num 0, .h⟩]⟩, -- TKP_PPSCAP_LO
  ⟨0x0C8, [], [⟨31, 0, .ro, .num 0, .h⟩]⟩, -- TKP_PPSCAP_HI
  ⟨0x0CC, [], [⟨0, 0, .rw1c, .num 0, .h⟩, ⟨1, 1, .rw1c, .num 0, .h⟩]⟩, -- TKP_PPSCAP
  ⟨0x0E0, [], [⟨31, 0, .ro, .fixed, .h⟩]⟩, -- RTC_SEC_LO
  ⟨0x0E4, [], [⟨15, 0, .ro, .fixed, .h⟩]⟩, -- RTC_SEC_HI
  ⟨0x0E8, [], [⟨14, 0, .ro, .fixed, .h⟩]⟩, -- RTC_FRAC
  ⟨0x0F0, [], [⟨31, 0, .rwl, .num 0, .s⟩]⟩, -- RTC_SET_LO
  ⟨0x0F4, [], [⟨15, 0, .rwl, .num 0, .s⟩]⟩, -- RTC_SET_HI
  ⟨0x0F8, [], [⟨0, 0, .rw1c, .fixed, .h⟩, ⟨1, 1, .ro, .fixed, .h⟩]⟩, -- RTC_STAT
  ⟨0x200, [(12, 0x20)], [⟨1, 0, .rwl, .num 0, .s⟩]⟩, -- ACC_CTL
  ⟨0x204, [(12, 0x20)], [⟨2, 0, .ro, .num 0, .h⟩, ⟨12, 8, .ro, .num 0, .h⟩]⟩, -- ACC_STAT
  ⟨0x208, [(12, 0x20)], [⟨31, 0, .ro, .num 0, .h⟩]⟩, -- ACC_OFFS
  ⟨0x20C, [(12, 0x20)], [⟨31, 0, .ro, .num 0, .h⟩]⟩, -- ACC_DELAY
  ⟨0x210, [(12, 0x20)], [⟨31, 0, .ro, .num 0, .h⟩]⟩ -- ACC_ASYM
]

/-- Registers of the MGT page (R796, R7, R399, R813 to R815). -/
def mgtRegs : List RegDef := [
  ⟨0x080, [], [⟨23, 16, .ro, .fixed, .n⟩, ⟨15, 8, .ro, .fixed, .n⟩, ⟨5, 4, .ro, .fixed, .n⟩, ⟨3, 0, .ro, .fixed, .n⟩]⟩, -- MGT_ASSY
  ⟨0x084, [], [⟨0, 0, .ro, .fixed, .n⟩, ⟨1, 1, .ro, .fixed, .n⟩, ⟨2, 2, .ro, .fixed, .n⟩, ⟨14, 8, .ro, .num 63, .n⟩, ⟨22, 16, .ro, .num 63, .n⟩, ⟨31, 24, .ro, .fixed, .n⟩]⟩, -- MGT_DEGR
  ⟨0x088, [], [⟨0, 0, .wo, .num 0, .s⟩, ⟨1, 1, .wo, .num 0, .s⟩, ⟨2, 2, .wo, .num 0, .s⟩, ⟨29, 16, .wo, .num 0, .s⟩]⟩, -- MGT_RST
  ⟨0x08C, [], [⟨0, 0, .ro, .num 0, .h⟩, ⟨3, 1, .ro, .num 0, .h⟩, ⟨31, 16, .rw, .num 0, .sh⟩]⟩, -- MGT_RST_STAT
  ⟨0x090, [], [⟨3, 0, .ro, .num 0, .h⟩, ⟨4, 4, .ro, .num 0, .h⟩, ⟨5, 5, .ro, .num 0, .h⟩, ⟨15, 8, .ro, .num 0, .h⟩, ⟨23, 16, .ro, .num 0, .h⟩]⟩, -- MGT_BOOT
  ⟨0x0A0, [], [⟨7, 0, .ro, .num 0, .h⟩, ⟨15, 8, .ro, .num 0, .h⟩, ⟨23, 16, .ro, .num 0, .h⟩, ⟨31, 24, .ro, .num 0, .h⟩]⟩, -- MGT_TEMP
  ⟨0x0A4, [], [⟨7, 0, .ro, .num 0, .h⟩, ⟨15, 8, .ro, .num 0, .h⟩, ⟨23, 16, .ro, .num 0, .h⟩]⟩, -- MGT_TEMP_IO
  ⟨0x0A8, [], [⟨7, 0, .rw, .num 100, .n⟩, ⟨15, 8, .rw, .num 5, .n⟩, ⟨23, 16, .rw, .num 10, .n⟩, ⟨24, 24, .rw, .num 1, .n⟩]⟩, -- MGT_THROT
  ⟨0x0AC, [], [⟨7, 0, .rw, .num 50, .s⟩, ⟨15, 8, .rw, .num 50, .s⟩, ⟨23, 16, .rw, .num 50, .s⟩, ⟨31, 24, .rw, .num 50, .s⟩]⟩, -- MGT_VSET
  ⟨0x0B0, [], [⟨7, 0, .ro, .num 50, .h⟩, ⟨15, 8, .ro, .num 50, .h⟩, ⟨23, 16, .ro, .num 50, .h⟩, ⟨31, 24, .ro, .num 50, .h⟩]⟩ -- MGT_VEFF
]

/-- Registers of the SCR page (R720). -/
def scrRegs : List RegDef := [
  ⟨0x080, [], [⟨0, 0, .rw, .num 1, .n⟩, ⟨15, 8, .rw, .num 10, .n⟩]⟩, -- SCR_CTL
  ⟨0x084, [], [⟨19, 0, .rw, .num 50000, .n⟩]⟩, -- SCR_RTO
  ⟨0x088, [], [⟨15, 0, .rw, .num 0, .sh⟩, ⟨23, 16, .rw, .num 0, .sh⟩, ⟨31, 24, .rw, .num 0, .sh⟩]⟩, -- SCR_ECNT
  ⟨0x08C, [], [⟨31, 0, .ro, .num 0, .h⟩]⟩, -- SCR_PASS
  ⟨0x090, [], [⟨3, 0, .rw, .num 0, .n⟩]⟩, -- SCR_ALERT
  ⟨0x094, [], [⟨2, 0, .wo, .num 0, .s⟩, ⟨31, 8, .wo, .num 0, .s⟩]⟩, -- SCR_RETIRE
  ⟨0x0A0, [], [⟨5, 0, .ro, .num 0, .h⟩, ⟨6, 6, .rw1c, .num 0, .h⟩]⟩, -- SCR_RLOG_STAT
  ⟨0x0A4, [], [⟨0, 0, .wo, .num 0, .s⟩]⟩, -- SCR_RLOG_POP
  ⟨0x0A8, [], [⟨2, 0, .ro, .num 0, .h⟩, ⟨4, 3, .ro, .num 0, .h⟩, ⟨31, 8, .ro, .num 0, .h⟩]⟩, -- SCR_RLOG_W0
  ⟨0x0AC, [], [⟨31, 0, .ro, .num 0, .h⟩]⟩, -- SCR_RLOG_W1
  ⟨0x0B0, [], [⟨15, 0, .ro, .num 0, .h⟩]⟩, -- SCR_RLOG_W2
  ⟨0x100, [(8, 0x8)], [⟨15, 0, .rw, .fixed, .s⟩]⟩, -- SCR_BKT_THR
  ⟨0x104, [(8, 0x8)], [⟨31, 0, .rw, .fixed, .s⟩]⟩ -- SCR_BKT_WIN
]

/-- Registers of the HIF page (R629). -/
def hifRegs : List RegDef := [
  ⟨0x080, [], [⟨3, 0, .rwl, .num 0, .n⟩, ⟨11, 4, .rw, .num 8, .n⟩, ⟨31, 12, .rw, .num 1000, .n⟩]⟩, -- HIF_CTL
  ⟨0x084, [], [⟨19, 0, .rw, .num 1000, .n⟩]⟩, -- HIF_IVL
  ⟨0x088, [], [⟨11, 0, .rw, .num 0, .s⟩, ⟨25, 16, .rw, .fixed, .s⟩]⟩, -- HIF_W4BASE
  ⟨0x08C, [], [⟨31, 0, .ro, .num 0, .n⟩]⟩, -- HIF_SYNC
  ⟨0x090, [], [⟨19, 0, .rw, .num 0, .n⟩]⟩, -- HIF_ICOAL
  ⟨0x094, [], [⟨15, 0, .rw, .num 0, .sh⟩, ⟨31, 16, .rw, .num 0, .sh⟩]⟩, -- HIF_ECNT
  ⟨0x098, [], [⟨3, 0, .ro, .num 0, .h⟩, ⟨8, 4, .ro, .num 0, .h⟩, ⟨9, 9, .ro, .num 0, .h⟩]⟩ -- HIF_LINK
]

/-- Registers of the DBGP page (R775). -/
def dbgpRegs : List RegDef := [
  ⟨0x080, [], [⟨0, 0, .wo, .num 0, .s⟩, ⟨1, 1, .wo, .num 0, .s⟩, ⟨2, 2, .wo, .num 0, .s⟩, ⟨3, 3, .wo, .num 0, .s⟩, ⟨8, 8, .rw, .num 0, .n⟩, ⟨9, 9, .rw, .num 0, .n⟩, ⟨10, 10, .rw, .num 0, .n⟩, ⟨15, 12, .rw, .num 0, .n⟩]⟩, -- DBG_PKG_CTL
  ⟨0x084, [], [⟨0, 0, .ro, .num 0, .h⟩, ⟨1, 1, .ro, .num 0, .h⟩, ⟨2, 2, .rw1c, .num 0, .h⟩, ⟨7, 4, .ro, .num 0, .h⟩]⟩, -- DBG_PKG_STAT
  ⟨0x088, [], [⟨31, 0, .ro, .num 0, .h⟩]⟩, -- DBG_CAUSE_SRC
  ⟨0x08C, [], [⟨31, 0, .ro, .num 0, .h⟩]⟩, -- DBG_CAUSE_NT_LO
  ⟨0x090, [], [⟨31, 0, .ro, .num 0, .h⟩]⟩, -- DBG_CAUSE_NT_HI
  ⟨0x094, [], [⟨7, 1, .rw1c, .num 0, .h⟩]⟩, -- DBG_CAUSE_PEND
  ⟨0x0A0, [], [⟨7, 0, .rw, .num 0, .n⟩]⟩, -- DBG_SCAN_SEL
  ⟨0x0A4, [], [⟨0, 0, .rw1c, .num 0, .h⟩, ⟨1, 1, .rw1c, .num 0, .h⟩]⟩ -- DBG_SCAN_STAT
]

/-- The block's own registers of a page (R90). -/
def pageRegs : Page → List RegDef
  | .til _ => tilRegs
  | .seq _ => seqRegs
  | .cmp _ => cmpRegs
  | .mov _ => movRegs
  | .cmb _ => cmbRegs
  | .rtr _ => rtrRegs
  | .dbg _ => dbgRegs
  | .mem _ _ => memRegs
  | .osw _ => oswRegs
  | .llk _ => llkRegs
  | .eth _ => ethRegs
  | .glz _ => glzRegs
  | .tkp _ => tkpRegs
  | .mgt => mgtRegs
  | .scr => scrRegs
  | .hif => hifRegs
  | .dbgp => dbgpRegs

/-- Whether the offset d lies on an array with these dimensions (count, stride). -/
def onArray : List (Nat × Nat) → Nat → Bool
  | [], d => d == 0
  | (c, st) :: r, d => decide (d / st < c) && onArray r (d % st)

/-- The register or array that occupies an offset. -/
def findReg : List RegDef → Nat → Option RegDef
  | [], _ => none
  | r :: rs, off => if r.off ≤ off ∧ onArray r.dims (off - r.off) = true then some r else findReg rs off

/-- The register at an offset of a page: the common header, then the block's own (R90, R752). -/
def regDef (p : Page) (off : Nat) : Option RegDef :=
  if off < 0x80 ∨ 0xE00 ≤ off then findReg headerRegs off else findReg (pageRegs p) off

/-- Base of a page in one address space: BAR0 offsets (R91), and 2^29 + BAR2 offsets (R92, R94). -/
def pageBase : Page → Nat
  | .til t => t * 0x8000
  | .seq t => t * 0x8000 + 0x1000
  | .cmp t => t * 0x8000 + 0x2000
  | .mov t => t * 0x8000 + 0x3000
  | .cmb t => t * 0x8000 + 0x4000
  | .rtr t => t * 0x8000 + 0x5000
  | .dbg t => t * 0x8000 + 0x6000
  | .mem x e => 0x20000000 + (e * 128 + x) * 0x1000
  | .osw d => 0x20000000 + 0x100000 * (1 + d)
  | .llk n => 0x20000000 + 0x100000 * (1 + n / 12) + (0x10 + n % 12) * 0x1000
  | .eth n => 0x20000000 + 0x100000 * (1 + n / 2) + (0x20 + n % 2) * 0x1000
  | .glz n => 0x20000000 + 0x100000 * (1 + n / 4) + (0x30 + n % 4) * 0x1000
  | .tkp d => 0x20000000 + 0x100000 * (1 + d) + 0x40 * 0x1000
  | .mgt => 0x20300000
  | .scr => 0x20301000
  | .hif => 0x20302000
  | .dbgp => 0x20303000

/-- Block type and instance (Table 3.6): the reset value of PG_ID. -/
def pageId : Page → Nat
  | .til t => 0x00010000 + t
  | .seq t => 0x00020000 + t
  | .cmp t => 0x00030000 + t
  | .mov t => 0x00040000 + t
  | .cmb t => 0x00050000 + t
  | .rtr t => 0x00060000 + t
  | .dbg t => 0x00070000 + t
  | .mem x e => 0x00100000 + e * 128 + x
  | .osw d => 0x00110000 + d
  | .llk n => 0x00120000 + n
  | .eth n => 0x00130000 + n
  | .glz n => 0x00140000 + n
  | .tkp d => 0x00150000 + d
  | .mgt => 0x00160000
  | .scr => 0x00170000
  | .hif => 0x00180000
  | .dbgp => 0x00074000

/-- PG_CAP0 and PG_CAP1 as the owning chapters give them; a bit no chapter defines reads 0 (R111). -/
def pageCaps : Page → Nat × Nat
  | .til _ => (0x0, 0x0)
  | .seq _ => (0x401004, 0x840)
  | .cmp _ => (0x408, 0x7F)
  | .mov _ => (0x100848, 0x81000)
  | .cmb _ => (0x200810, 0x21080)
  | .rtr _ => (0x80405, 0x4)
  | .dbg _ => (0x2002, 0x1E)
  | .mem _ _ => (0x480, 0x0)
  | .osw _ => (0xC, 0x0)
  | .llk _ => (0x400048, 0x200)
  | .eth _ => (0x404040, 0x100)
  | .glz _ => (0x400440, 0x8000010)
  | .tkp d => if d = 0 then (0xC, 0x1) else (0xC, 0x0)
  | .mgt => (0x0, 0x0)
  | .scr => (0x2008, 0x4)
  | .hif => (0x0, 0x0)
  | .dbgp => (0x0, 0x0)

/-- Number of I/O dies of an assembly (R4). -/
def Assembly.ioDies : Assembly → Nat
  | .h4l1 | .h6l1 => 1
  | .h6l2 | .h8l2 => 2

/-- Populated HBM sites as bits N0 to N3, S0 to S3 (R4, R7). -/
def Assembly.sites : Assembly → Nat
  | .h4l1 => 0x66
  | .h6l1 | .h6l2 => 0xE7
  | .h8l2 => 0xFF

/-- Number of populated stacks. -/
def Assembly.stacks : Assembly → Nat
  | .h4l1 => 4
  | .h6l1 | .h6l2 => 6
  | .h8l2 => 8

/-- First address of the decode hole (Table 1.3). -/
def Assembly.hole : Assembly → Nat
  | .h4l1 => 0x002400000000
  | .h6l1 | .h6l2 => 0x003600000000
  | .h8l2 => 0x004800000000

/-- Default THR and WIN of a bucket kind (Table 17.1), WIN in µs. -/
def bucketDefault : Nat → Nat × Nat
  | 0 => (16, 1000)
  | 1 => (256, 1000000)
  | 2 => (3, 1000000)
  | 3 => (16, 1000000)
  | 4 => (4, 1000000)
  | 5 => (1024, 1000000)
  | 6 => (8, 3600000000)
  | _ => (16, 1000000)

/-- Reset values that are constants of the instance, fuses or the assembly, as the whole register (R7, R111, R295,
R363, R399, R498, R545, R629, R657, R699). Fields whose value at reset is that of another state (NT, RTC) are
derived when read. -/
def fixedReset (f : Fuses) (p : Page) (off : Nat) : Nat :=
  if off = 0x000 then pageId p
  else if off = 0x004 then f.step * 256
  else if off = 0x008 then (pageCaps p).1
  else if off = 0x00C then (pageCaps p).2
  else match p with
    | .mov _ => if off = 0x08C then f.asm.hole % 2 ^ 32 else if off = 0x090 then f.asm.hole / 2 ^ 32 else 0
    | .rtr _ => if off = 0x08C then 128 + 128 * 256 else 0
    | .eth _ => if off = 0x094 then f.tsRx.toNat + f.tsTx.toNat * 2 ^ 16 else 0
    | .tkp _ => if off = 0x0C0 then f.ppsComp.toNat * 2 ^ 16 else if off = 0x0F8 then 1 else 0
    | .mgt =>
      if off = 0x080 then f.asm.sites * 2 ^ 16 + f.step * 256 + f.asm.ioDies * 16 + f.asm.stacks else 0
    | .scr =>
      if 0x100 ≤ off ∧ off < 0x140 then
        (if off % 8 = 0 then (bucketDefault ((off - 0x100) / 8)).1 else (bucketDefault ((off - 0x100) / 8)).2)
      else 0
    | _ => 0

/-- The reset value of a field, at its place. -/
def fieldReset (f : Fuses) (p : Page) (off : Nat) (d : Fld) : Nat :=
  match d.rst with
  | .num v => v * 2 ^ d.lo
  | .fixed => (fixedReset f p off / 2 ^ d.lo % 2 ^ (d.hi - d.lo + 1)) * 2 ^ d.lo

/-- The reset value of the register at an offset: 0 where no register lies (R110), and PG_CTL.EN is 0 on the DBG
pages (Table 3.5). -/
def regDefault (f : Fuses) (p : Page) (off : Nat) : Word :=
  match regDef p off with
  | none => 0
  | some r =>
    match p, off with
    | .dbg _, 0x010 => 0
    | .dbgp, 0x010 => 0
    | _, _ => BitVec.ofNat 32 ((r.flds.map (fieldReset f p off)).sum)

end Sys2Proof.Machine
end

