-- ==== Sys2Proof/Machine/Ops.lean ====
section
/-! DEFINITION. Named operations over the sparse tables, the registers, the memories, packets, node IDs and checks. -/

namespace Sys2Proof.Machine

/-! ## Sparse tables -/

/-- The value at a key, or the default. -/
def tabGet {α : Type} (d : α) : Tab α → Nat → α
  | [], _ => d
  | (k', v) :: r, k => if k = k' then v else tabGet d r k

/-- The value at a key becomes v. -/
def tabPut {α : Type} : Tab α → Nat → α → Tab α
  | [], k, v => [(k, v)]
  | (k', v') :: r, k, v =>
    if k < k' then (k, v) :: (k', v') :: r
    else if k = k' then (k, v) :: r
    else (k', v') :: tabPut r k v

/-- The key is no longer listed. -/
def tabDel {α : Type} (t : Tab α) (k : Nat) : Tab α := t.filter (fun e => e.1 != k)

/-- The keys in [lo, hi) are no longer listed. -/
def tabClear {α : Type} (t : Tab α) (lo hi : Nat) : Tab α := t.filter (fun e => e.1 < lo || hi ≤ e.1)

/-- A list with its element n replaced. -/
def listMod {α : Type} (l : List α) (n : Nat) (f : α → α) : List α := l.modify n f

/-! ## Numbers, bits and bytes -/

/-- Bits [hi:lo] of a number. -/
def bitsOf (n hi lo : Nat) : Nat := n / 2 ^ lo % 2 ^ (hi + 1 - lo)

/-- Bits [hi:lo] of a register value. -/
def fld (v : Word) (hi lo : Nat) : Nat := bitsOf v.toNat hi lo

/-- A register value with bits [hi:lo] replaced by the low bits of x. -/
def setFld (v : Word) (hi lo x : Nat) : Word :=
  BitVec.ofNat 32 (v.toNat - fld v hi lo * 2 ^ lo + x % 2 ^ (hi + 1 - lo) * 2 ^ lo)

/-- Two's-complement value of the low w bits of n. -/
def sgn (w n : Nat) : Int := if n % 2 ^ w < 2 ^ (w - 1) then (n % 2 ^ w : Nat) else ((n % 2 ^ w : Nat) : Int) - (2 ^ w : Nat)

/-- The low w bits of an integer. -/
def unsgn (w : Nat) (i : Int) : Nat := (i % (2 ^ w : Nat)).toNat

/-- Little-endian value of bytes (R24). -/
def leNat : List Byte → Nat
  | [] => 0
  | b :: r => b.toNat + 256 * leNat r

/-- The n low bytes of a number, little-endian (R24). -/
def leBytes : Nat → Nat → List Byte
  | 0, _ => []
  | n + 1, v => BitVec.ofNat 8 v :: leBytes n (v / 256)

/-- An integer as a signed 32-bit field: no field wraps or truncates silently (R137). -/
def satWord (i : Int) : Word := BitVec.ofNat 32 (unsgn 32 (max (-2147483648) (min i 2147483647)))

/-- Sum of a counter field and n, saturating at all-ones of w bits (R138). -/
def satAdd (w a n : Nat) : Nat := min (a + n) (2 ^ w - 1)

/-! ## Memories -/

/-- One byte of memory; an unlisted byte reads 0 (R790, log 2). -/
def getByte (m : List Host.Cell) (k : Nat) : Byte := tabGet 0 m k

/-- One byte written, in the canonical form: strictly rising keys, no entry equal to 0. -/
def putByte : List Host.Cell → Nat → Byte → List Host.Cell
  | [], k, v => if v = 0 then [] else [(k, v)]
  | (k', v') :: r, k, v =>
    if k < k' then (if v = 0 then (k', v') :: r else (k, v) :: (k', v') :: r)
    else if k = k' then (if v = 0 then r else (k, v) :: r)
    else (k', v') :: putByte r k v

/-- Bytes written from key k upwards. -/
def putBytes : List Host.Cell → Nat → List Byte → List Host.Cell
  | m, _, [] => m
  | m, k, b :: bs => putBytes (putByte m k b) (k + 1) bs

/-- n bytes from key k upwards. -/
def getBytes (m : List Host.Cell) (k : Nat) : Nat → List Byte
  | 0 => []
  | n + 1 => getByte m k :: getBytes m (k + 1) n

/-- The bytes of keys in [lo, hi) become 0. -/
def zeroRange (m : List Host.Cell) (lo hi : Nat) : List Host.Cell := tabClear m lo hi

/-- The canonical form of memory. -/
def Memory.wf : List Host.Cell → Bool
  | [] => true
  | [(_, v)] => v != 0
  | (k, v) :: (k', v') :: r => v != 0 && decide (k < k') && Memory.wf ((k', v') :: r)

/-- Key of byte off of the local window of a tile (R272): TM from 0, CM from 0x80000. -/
def tmKey (t off : Nat) : Nat := 2 ^ 48 + t * 2 ^ 20 + off

/-- Key of byte off of the AM of a tile, which no window reaches (R427). -/
def amKey (t off : Nat) : Nat := tmKey t (0xC0000 + off)

/-- Key of byte off of the CM of a tile (R143, R272). -/
def cmKey (t off : Nat) : Nat := tmKey t (0x80000 + off)

/-- n bytes of memory from key k. -/
def readMem (s : State) (k n : Nat) : List Byte := getBytes s.mem k n
def readNat (s : State) (k n : Nat) : Nat := leNat (getBytes s.mem k n)
def writeMem (s : State) (k : Nat) (bs : List Byte) : State := { s with mem := putBytes s.mem k bs }

/-- The 32-byte unit of a key (R250, R596). -/
def unitOf (k : Nat) : Nat := k / 32

/-- The units that n bytes from key k touch. -/
def unitsOf (k n : Nat) : List Nat :=
  if n = 0 then [] else (List.range (unitOf (k + n - 1) - unitOf k + 1)).map (unitOf k + ·)

/-- What error a unit holds. -/
def unitErr (s : State) (u : Nat) : Option UnitErr := (s.ecc.find? (fun e => e.1 == u)).map (·.2)

/-- The unit no longer holds an error (R599). -/
def clearUnit (s : State) (u : Nat) : State := { s with ecc := tabDel s.ecc u }

/-- Physical errors appear. -/
def addFaults (s : State) (fl : List UFault) : State :=
  { s with ecc := fl.foldl (fun e f => if f.par then e else tabPut e (unitOf f.key) ⟨f.ue, f.once⟩) s.ecc }

/-- Whether a unit is one that n bytes from key k touch. -/
def inUnits (k n u : Nat) : Bool := n != 0 && decide (unitOf k ≤ u) && decide (u ≤ unitOf (k + n - 1))

/-- Whether some unit of n bytes from key k holds an uncorrectable error. -/
def anyUE (s : State) (k n : Nat) : Bool := s.ecc.any (fun e => inUnits k n e.1 && e.2.ue)

/-- How many units of n bytes from key k hold a correctable error. -/
def countCE (s : State) (k n : Nat) : Nat := (s.ecc.filter (fun e => inUnits k n e.1 && !e.2.ue)).length

/-! ## Parts of the state -/

def getTile (s : State) (t : Nat) : Tile := tabGet {} s.tiles t
def setTile (s : State) (t : Nat) (x : Tile) : State := { s with tiles := tabPut s.tiles t x }
def modTile (s : State) (t : Nat) (f : Tile → Tile) : State := setTile s t (f (getTile s t))
def edgeKey (x e : Nat) : Nat := e * 128 + x
def getEdge (s : State) (x e : Nat) : Edge := tabGet {} s.edges (edgeKey x e)
def modEdge (s : State) (x e : Nat) (f : Edge → Edge) : State :=
  { s with edges := tabPut s.edges (edgeKey x e) (f (getEdge s x e)) }
def getDie (s : State) (d : Nat) : Die := tabGet {} s.dies d
def modDie (s : State) (d : Nat) (f : Die → Die) : State := { s with dies := tabPut s.dies d (f (getDie s d)) }
def getLink (s : State) (n : Nat) : Link := tabGet {} s.links n
def modLink (s : State) (n : Nat) (f : Link → Link) : State := { s with links := tabPut s.links n (f (getLink s n)) }
def getEth (s : State) (n : Nat) : Eth := tabGet {} s.eths n
def modEth (s : State) (n : Nat) (f : Eth → Eth) : State := { s with eths := tabPut s.eths n (f (getEth s n)) }
def getGlz (s : State) (n : Nat) : Glz := tabGet {} s.glzs n
def modGlz (s : State) (n : Nat) (f : Glz → Glz) : State := { s with glzs := tabPut s.glzs n (f (getGlz s n)) }
def getAcc (s : State) (n : Nat) : Acc := tabGet {} s.tkp.acc n
def modAcc (s : State) (n : Nat) (f : Acc → Acc) : State :=
  { s with tkp := { s.tkp with acc := tabPut s.tkp.acc n (f (getAcc s n)) } }
def getCtx (s : State) (t lc : Nat) : Ctx := ((getTile s t).ctx[lc]?).getD {}
def modCtx (s : State) (t lc : Nat) (f : Ctx → Ctx) : State :=
  modTile s t (fun x => { x with ctx := listMod x.ctx lc f })
def getCq (s : State) (t n : Nat) : Cq := ((getTile s t).cqs[n]?).getD {}
def modCq (s : State) (t n : Nat) (f : Cq → Cq) : State :=
  modTile s t (fun x => { x with cqs := listMod x.cqs n f })

/-- What leaves the package (log 7). -/
def emit (s : State) (o : OutMsg) : State := { s with out := s.out ++ [o] }

/-! ## Registers -/

/-- Key of the register at an offset of a page. -/
def regKey (p : Page) (off : Nat) : Nat := pageBase p + off

/-- The stored value of a register: its reset value until something writes it. -/
def rawReg (s : State) (p : Page) (off : Nat) : Word :=
  match s.regs.find? (fun e => e.1 == regKey p off) with
  | some e => e.2
  | none => regDefault s.fuses p off

def putReg (s : State) (p : Page) (off : Nat) (v : Word) : State :=
  { s with regs := tabPut s.regs (regKey p off) v }

/-- Bits [hi:lo] of a stored register. -/
def rfld (s : State) (p : Page) (off hi lo : Nat) : Nat := fld (rawReg s p off) hi lo

/-- One bit of a stored register. -/
def rbit (s : State) (p : Page) (off b : Nat) : Bool := rfld s p off b b == 1

/-- Bits [hi:lo] of a stored register become x. -/
def putFld (s : State) (p : Page) (off hi lo x : Nat) : State :=
  putReg s p off (setFld (rawReg s p off) hi lo x)

def putBit (s : State) (p : Page) (off b : Nat) (v : Bool) : State := putFld s p off b b (if v then 1 else 0)

/-- A counter field gains n, saturating at all-ones (R138). -/
def addFld (s : State) (p : Page) (off hi lo n : Nat) : State :=
  putFld s p off hi lo (satAdd (hi + 1 - lo) (rfld s p off hi lo) n)

/-- The registers of a page in [lo, hi) return to their reset values. -/
def resetRegs (s : State) (p : Page) (lo hi : Nat) : State :=
  { s with regs := tabClear s.regs (pageBase p + lo) (pageBase p + hi) }

/-- The value of two registers that hold one number, low half at off. -/
def pairNat (s : State) (p : Page) (off : Nat) : Nat :=
  (rawReg s p off).toNat + 2 ^ 32 * (rawReg s p (off + 4)).toNat

/-- The own package number (R578: OSW_SELF.PKG of IOW). -/
def ownPkg (s : State) : Nat := rfld s (.osw 0) 0x080 9 0

/-- Whether an I/O die is fitted (R4). -/
def dieFitted (s : State) (d : Nat) : Bool := d < s.fuses.asm.ioDies

/-- Whether site i (0 to 3 N0 to N3, 4 to 7 S0 to S3) is populated (R4, R7). -/
def sitePop (s : State) (i : Nat) : Bool := s.fuses.asm.sites / 2 ^ i % 2 == 1

/-- Whether a memory edge is served by a populated site (Table 1.2). -/
def edgePop (s : State) (x e : Nat) : Bool := sitePop s (e * 4 + x / 32)

/-- Ring sizes: 127 on a degraded axis (R318, R395). -/
def gridX (s : State) : Nat := if rbit s .mgt 0x084 0 then 127 else 128
def gridY (s : State) : Nat := if rbit s .mgt 0x084 1 then 127 else 128

/-- The package came up FAILED (R396, R785, R786), or its rails are down (R779, R817). -/
def pkgFailed (s : State) : Bool := rbit s .mgt 0x084 2 || rfld s .mgt 0x090 3 0 == 8 || !s.mgt.rails

def tileX (t : Nat) : Nat := t % 128
def tileY (t : Nat) : Nat := t / 128

/-- Whether a page exists on this assembly and grid (R108, R398, R605, R608). -/
def pagePresent (s : State) (p : Page) : Bool :=
  match p with
  | .til t | .seq t | .cmp t | .mov t | .cmb t | .rtr t | .dbg t =>
    t < 16384 && tileX t < gridX s && tileY t < gridY s
  | .mem x e => x < gridX s && edgePop s x e
  | .osw d | .tkp d => dieFitted s d
  | .llk n => dieFitted s (n / 12)
  | .eth n => dieFitted s (n / 2)
  | .glz n => dieFitted s (n / 4)
  | .mgt | .scr | .hif | .dbgp => true

/-- PG_STAT.STOPPED (R728). -/
def stopped (s : State) (p : Page) : Bool := rbit s p 0x014 2

/-- PG_CTL.EN (R824). -/
def enabled (s : State) (p : Page) : Bool := rbit s p 0x010 0

/-- PG_STAT.FROZEN: the freeze wave is on and the page follows it (R736, R737). -/
def frozen (s : State) (p : Page) : Bool := s.dbg.frozen && rbit s p 0x010 2

/-- A counter of work gains n unless the page is frozen (R737). -/
def workCount (s : State) (p : Page) (off hi lo n : Nat) : State :=
  if frozen s p then s else addFld s p off hi lo n

/-- TIL_ISO.ISO (R383). -/
def isoBit (s : State) (t : Nat) : Bool := rbit s (.til t) 0x084 1

/-- The tile is isolated, or answers as an isolated one because its reset runs (R383, R791). -/
def isolated (s : State) (t : Nat) : Bool := isoBit s t || s.mgt.running == some (.tile t)

/-- Pages that answer in a failed package (R396). -/
def failedPage (p : Page) : Bool := p == .mgt || p == .hif

/-! ## Router buffers -/

/-- Key of a VC of a port of a router (ports 0 E, 1 W, 2 N, 3 S, 4 L; R322, Table 18.4). -/
def vcKey (port vc : Nat) : Nat := port * 4 + vc

/-- The packet in an input VC of the router of tile t. -/
def getRin (s : State) (t port vc : Nat) : Option Worm :=
  ((getTile s t).rin.find? (fun e => e.1 == vcKey port vc)).map (·.2)
def setRin (s : State) (t port vc : Nat) (w : Option Worm) : State :=
  modTile s t (fun x => { x with rin := match w with
    | some w => tabPut x.rin (vcKey port vc) w
    | none => tabDel x.rin (vcKey port vc) })

/-! ## Network time -/

/-- The full time T (R461). -/
def fullT (s : State) : Int := s.time + s.tkp.off

/-- The elapsed time E in ticks: the full time less every NT step since NT was last started (R693). Every duration and
every deadline is judged in it (R77). -/
def eTime (s : State) : Nat := (fullT s - s.tkp.steps).toNat

/-- The clock of credits and tokens, which grow with NT (R522, R536): a step forward counts in it, one back takes nothing
(log 57). -/
def gTime (s : State) : Nat := eTime s + s.tkp.ups

/-- NT: the low 64 bits of the full time (R461). -/
def ntOf (s : State) : Nat := (fullT s % 2 ^ 64).toNat

/-- The tile of a page of a tile. -/
def pageTile : Page → Option Nat
  | .til t | .seq t | .cmp t | .mov t | .cmb t | .rtr t | .dbg t => some t
  | _ => none

/-- NT as the block of a page holds it: a tile has a copy of its own (R474). -/
def ntAt (s : State) (p : Page) : Nat :=
  match pageTile p with
  | some t => ((ntOf s + (getTile s t).ntOff) % 2 ^ 64).toNat
  | none => ntOf s

/-- ERA, which stays at 0xFFFF (R462). -/
def eraOf (s : State) : Nat := min 0xFFFF (fullT s / 2 ^ 64).toNat

/-- NT bits [41:10]: ns modulo 2^32 (Table 3.5). -/
def nsOf (s : State) : Nat := ntOf s / 1024 % 2 ^ 32

/-- The same of the copy of a page's block. -/
def nsAt (s : State) (p : Page) : Nat := ntAt s p / 1024 % 2 ^ 32

/-- ns as ticks of 2^-10 ns (R463). -/
def ticks (ns : Nat) : Nat := ns * 1024

/-- µs as ticks. -/
def usTicks (us : Nat) : Nat := us * 1024000

/-! ## Node IDs (Table 8.3) -/

def nodePkg (n : Word) : Nat := fld n 31 22
def nodeY (n : Word) : Nat := fld n 21 15
def nodeX (n : Word) : Nat := fld n 14 8
def nodeKind (n : Word) : Nat := fld n 7 6
def nodeEp (n : Word) : Nat := fld n 5 0
def mkNode (pkg y x kind ep : Nat) : Word :=
  BitVec.ofNat 32 (pkg * 2 ^ 22 + y * 2 ^ 15 + x * 2 ^ 8 + kind * 64 + ep)
def tileNode (s : State) (t ep : Nat) : Word := mkNode (ownPkg s) (tileY t) (tileX t) 0 ep
def memNode (s : State) (x e ep : Nat) : Word := mkNode (ownPkg s) e x 1 ep
def ioNode (s : State) (row d ep : Nat) : Word := mkNode (ownPkg s) row d 2 ep
def nodeTile (n : Word) : Nat := nodeY n * 128 + nodeX n

/-- A node ID that Table 8.3 forbids (R335), or one off the degraded grid (R398). -/
def nodeBad (s : State) (n : Word) : Bool :=
  match nodeKind n with
  | 0 => gridX s ≤ nodeX n || gridY s ≤ nodeY n
  | 1 => 2 ≤ nodeY n || gridX s ≤ nodeX n
  | 2 => 2 ≤ nodeX n || gridY s ≤ nodeY n
  | _ => true

/-- What Table 8.3 forbids in a node ID of any package: KIND 0b11, or bits that must be 0 (R335). -/
def nodeForm (n : Word) : Bool :=
  match nodeKind n with
  | 0 => false
  | 1 => 2 ≤ nodeY n
  | 2 => 2 ≤ nodeX n
  | _ => true

/-! ## Packets -/

/-- Opcodes of Table 8.5. -/
def opRD : BitVec 8 := 0x01
def opWR : BitVec 8 := 0x02
def opWRA : BitVec 8 := 0x03
def opMSG : BitVec 8 := 0x04
def opCONTRIB : BitVec 8 := 0x05
def opRESV : BitVec 8 := 0x06
def opWDRW : BitVec 8 := 0x07
def opCONF : BitVec 8 := 0x08
def opREGRD : BitVec 8 := 0x09
def opREGWR : BitVec 8 := 0x0A
def opTRACE : BitVec 8 := 0x0B
def opSIGNAL : BitVec 8 := 0x0C
def opCRES : BitVec 8 := 0x0D
def opRDRSP : BitVec 8 := 0x81
def opWRACK : BitVec 8 := 0x82
def opWFN : BitVec 8 := 0x83
def opNAK : BitVec 8 := 0x84
def opDEAD : BitVec 8 := 0x86
def opRSVACK : BitVec 8 := 0x87
def opREGRSP : BitVec 8 := 0x89

/-- Bit 191 of the header marks a response (Table 8.2). -/
def isRsp (p : Packet) : Bool := p.opc.toNat ≥ 128

/-- Posted requests (R358). -/
def isPosted (p : Packet) : Bool :=
  p.opc == opWR || p.opc == opMSG || p.opc == opCONTRIB || p.opc == opSIGNAL || p.opc == opCRES

/-- Header bits [255:16] (Table 8.2). -/
def hdrTop (p : Packet) : Nat :=
  let f (acc : Nat) (w x : Nat) : Nat := acc * 2 ^ w + x
  let b (x : Bool) : Nat := if x then 1 else 0
  f (f (f (f (f (f (f (f (f (f (f (f (f (f (f (f (f (f p.dst.toNat 32 p.src.toNat) 8 p.opc.toNat) 7 p.len.toNat)
    1 (b p.dirx)) 1 (b p.diry)) 1 (b p.mc)) 12 p.mcg.toNat) 16 p.tag.toNat) 16 p.layer.toNat) 16 p.oper.toNat)
    1 (b p.tent)) 2 p.color.toNat) 3 p.tc.toNat) 48 p.addr.toNat) 32 p.aux.toNat) 4 p.spart.toNat) 8 p.rsv.toNat) 0 0

/-- CRC-16, polynomial 0x1021, over the n low bits of x, most significant first, from c (R332). -/
def crc16 (x : Nat) : Nat → Nat → Nat
  | 0, c => c
  | n + 1, c =>
    let top := (c / 32768 + x / 2 ^ n) % 2
    crc16 x n (if top = 1 then (c * 2 % 65536) ^^^ 0x1021 else c * 2 % 65536)

/-- HCRC of a header (R332). -/
def hcrcOf (p : Packet) : Half := BitVec.ofNat 16 (crc16 (hdrTop p) 240 0xFFFF)

/-- The whole header flit. -/
def hdrNat (p : Packet) : Nat := hdrTop p * 65536 + p.hcrc.toNat

/-- First data byte within its unit (R326). -/
def firstByte (p : Packet) : Nat :=
  if p.opc = opWR ∨ p.opc = opWRA ∨ p.opc = opRD ∨ p.opc = opRDRSP ∨ p.opc = opCRES then p.addr.toNat % 32 else 0

/-- Bytes cut into 32-byte flits; the last is padded with 0. -/
def flitsOfBytes : Nat → List Byte → List Flit
  | 0, _ => []
  | n + 1, bs => ⟨BitVec.ofNat 256 (leNat (bs.take 32)), false⟩ :: flitsOfBytes n (bs.drop 32)

/-- Data flits that carry bytes from byte s0 of the first unit (R326). -/
def mkFlits (s0 : Nat) (bs : List Byte) : List Flit :=
  flitsOfBytes ((s0 + bs.length + 31) / 32) (List.replicate s0 0 ++ bs)

/-- END of the last flit for n bytes from byte s0 (Table 8.1). -/
def mkEnd (s0 n : Nat) : Nat := if n = 0 then 31 else (s0 + n - 1) % 32

/-- The payload of a packet (R327). -/
def payload (p : Packet) : List Byte :=
  let all := p.data.flatMap (fun f => leBytes 32 f.bits.toNat)
  ((all.take (32 * p.data.length - (31 - p.endb))).drop (firstByte p))

/-- Whether some data flit carries POI. -/
def poisoned (p : Packet) : Bool := p.data.any (·.poi)

/-- A packet with payload bytes: LEN, flits and END follow (R326, R327). -/
def withPayload (p : Packet) (bs : List Byte) : Packet :=
  let s0 := firstByte p
  let fl := mkFlits s0 bs
  { p with data := fl, len := BitVec.ofNat 7 fl.length, endb := mkEnd s0 bs.length }

/-- LEN 65 to 127, or a flit count other than LEN (R381, R382). -/
def lenBad (p : Packet) : Bool := 64 < p.len.toNat || p.data.length != p.len.toNat

/-- A response from the endpoint me; one to a tentative RD carries TENT (R223, R330, R331). -/
def response (me : Word) (q : Packet) (op : BitVec 8) : Packet :=
  { dst := q.src, src := me, opc := op, tag := q.tag, layer := q.layer, oper := q.oper, tc := q.tc,
    tent := q.tent && q.opc == opRD }

def nakPkt (me : Word) (q : Packet) (reason : Nat) : Packet :=
  { response me q opNAK with aux := BitVec.ofNat 32 reason }
def wfnPkt (me : Word) (q : Packet) (reason : Nat) : Packet :=
  { response me q opWFN with aux := BitVec.ofNat 32 reason, addr := q.addr }
def deadPkt (me : Word) (q : Packet) : Packet := response me q opDEAD

/-- NAK, or WFN for a posted request. -/
def refusePkt (me : Word) (q : Packet) (reason : Nat) : Packet :=
  if isPosted q then wfnPkt me q reason else nakPkt me q reason

/-- NAK reasons (Table 8.6) and the further WFN reasons. -/
def nkFULL : Nat := 0x01
def nkEXCESS : Nat := 0x02
def nkPOLICED : Nat := 0x03
def nkPART : Nat := 0x04
def nkMALFORMED : Nat := 0x05
def nkHOLD : Nat := 0x06
def nkRETIRED : Nat := 0x07
def nkHOLE : Nat := 0x08
def nkWINDOW : Nat := 0x09
def nkTENT : Nat := 0x0A
def nkOFF : Nat := 0x0B
def rsDEAD : Nat := 0x10
def rsPOISON : Nat := 0x11
def rsTIMEOUT : Nat := 0x14

/-! ## The memory interleave (R353) -/

/-- Populated sites of a mask in the order N0 to N3, S0 to S3. -/
def sitesOf (mask : Nat) : List Nat := (List.range 8).filter (fun i => mask / 2 ^ i % 2 == 1)
def popSites (a : Assembly) : List Nat := sitesOf a.sites

/-- Column, edge and pseudo-channel address of a fabric address of a package with these sites (R353). -/
def chanAt (sites : List Nat) (a : Nat) : Nat × Nat × Nat :=
  let ns := sites.length
  let p := 32 * ns
  let g := a / 2048
  let q := g / p
  let h := (q ^^^ (q / 128) ^^^ (q / 16384)) % 128
  let c := (g % p + h) % p
  let site := (sites[c % ns]?).getD 0
  (32 * (site % 4) + c / ns, site / 4, q * 2048 + a % 2048)

/-- The same for an assembly. -/
def chanOf (asm : Assembly) (a : Nat) : Nat × Nat × Nat := chanAt (popSites asm) a

/-- Populated sites of a package: packages of a pod may differ in them (R58). -/
def pkgSites (s : State) (pkg : Nat) : List Nat :=
  if pkg = ownPkg s then popSites s.fuses.asm else sitesOf (Config.podSites pkg)

/-- The node ID of the memory edge that holds a fabric address of a package (R354). -/
def memNodeOf (s : State) (pkg a : Nat) : Word :=
  let (x, e, _) := chanAt (pkgSites s pkg) a
  mkNode pkg e x 1 0

/-! ## Checks -/

/-- One step of a reflected CRC over a byte. -/
def crcBits (poly : Nat) : Nat → Nat → Nat
  | 0, c => c
  | n + 1, c => crcBits poly n (if c % 2 = 1 then (c / 2) ^^^ poly else c / 2)

/-- A reflected CRC over bytes with initial value and final inversion of 32 bits. -/
def crcRefl (poly : Nat) (bs : List Byte) : Nat :=
  (bs.foldl (fun c b => crcBits poly 8 (c ^^^ b.toNat)) 0xFFFFFFFF) ^^^ 0xFFFFFFFF

/-- CRC-32C (polynomial 0x1EDC6F41, reflected; R757). -/
def crc32c (bs : List Byte) : Nat := crcRefl 0x82F63B78 bs

/-- The IEEE 802.3 CRC-32 (polynomial 0x04C11DB7, reflected). -/
def crc32 (bs : List Byte) : Nat := crcRefl 0xEDB88320 bs

/-- The multicast rectangle (Table 8.7): X0, X1, Y0, Y1, column stride, row stride. -/
structure Rect where
  x0 : Nat
  x1 : Nat
  y0 : Nat
  y1 : Nat
  xs : Nat
  ys : Nat
  deriving DecidableEq, Repr

def rectOf (w : Word) : Rect :=
  ⟨fld w 31 25, fld w 24 18, fld w 17 11, fld w 10 4, 2 ^ fld w 3 2, 2 ^ fld w 1 0⟩

/-- Whether the rectangle selects a column, a row, a tile (R340). -/
def Rect.hasX (r : Rect) (x : Nat) : Bool := r.x0 ≤ x && x ≤ r.x1 && (x - r.x0) % r.xs == 0
def Rect.hasY (r : Rect) (y : Nat) : Bool := r.y0 ≤ y && y ≤ r.y1 && (y - r.y0) % r.ys == 0
def Rect.has (r : Rect) (x y : Nat) : Bool := r.hasX x && r.hasY y

/-- Number of tiles selected (R340, R378). -/
def Rect.count (r : Rect) : Nat := ((r.x1 - r.x0) / r.xs + 1) * ((r.y1 - r.y0) / r.ys + 1)

/-- An integer square root by fuel. -/
def isqrtGo : Nat → Nat → Nat → Nat
  | 0, _, r => r
  | n + 1, x, r => isqrtGo n x (if (r + 2 ^ n) * (r + 2 ^ n) ≤ x then r + 2 ^ n else r)

/-- The elements of a list except the first that satisfies the test. -/
def dropFirst {α : Type} (f : α → Bool) : List α → List α
  | [] => []
  | a :: r => if f a then r else a :: dropFirst f r

/-- The first element that satisfies the test is changed. -/
def modFirst {α : Type} (f : α → Bool) (g : α → α) : List α → List α
  | [] => []
  | a :: r => if f a then g a :: r else a :: modFirst f g r

/-- n applications of f. -/
def iter {α : Type} (f : α → α) : Nat → α → α
  | 0, a => a
  | n + 1, a => iter f n (f a)

/-! ## TAGs of CMB and TIL (R702) -/

/-- The TAG of a request of an endpoint that timed out is still withheld. -/
def tagHeld (s : State) (t ep tag : Nat) : Bool := eTime s < tabGet 0 (getTile s t).late (ep * 65536 + tag)

/-- The first TAG from n on, modulo m, that is not withheld; f bounds the search. -/
def freshTagFrom (s : State) (t ep m : Nat) : Nat → Nat → Nat
  | 0, n => n % m
  | f + 1, n => if tagHeld s t ep (n % m) then freshTagFrom s t ep m f (n + 1) else n % m

def freshTag (s : State) (t ep m n : Nat) : Nat := freshTagFrom s t ep m (getTile s t).late.length n

/-- The next k such TAGs. -/
def freshTags (s : State) (t ep m : Nat) : Nat → Nat → List Nat
  | 0, _ => []
  | k + 1, n =>
    let a := freshTag s t ep m n
    a :: freshTags s t ep m k (a + 1)

/-- The next free value of the model (log 8). -/
def takeFree (s : State) : Nat × State := (Config.freeNat s.free, { s with free := s.free + 1 })

end Sys2Proof.Machine
end

