-- ==== Sys2Proof/Machine/Floats.lean ====
section
/-! DEFINITION. The number formats of Table 6.1: decoding, exact arithmetic, rounding once, saturation. -/

namespace Sys2Proof.Machine

/-- A float value: NaN, an infinity, or (−1)^neg · m · 2^e. -/
inductive Fv where
  | nan
  | inf (neg : Bool)
  | fin (neg : Bool) (m : Nat) (e : Int)
  deriving DecidableEq, Repr

/-- A float format: exponent and fraction bits, bias, whether it has infinities. -/
structure Fmt where
  eb : Nat
  mb : Nat
  bias : Int
  hasInf : Bool
  deriving DecidableEq, Repr

def fp32 : Fmt := ⟨8, 23, 127, true⟩
def fp64 : Fmt := ⟨11, 52, 1023, true⟩

/-- The float types of Table 6.1; none for the integer types. -/
def fmtOf (ty : Nat) : Option Fmt :=
  match ty with
  | 0 => some fp32
  | 1 => some ⟨8, 7, 127, true⟩
  | 2 => some ⟨5, 10, 15, true⟩
  | 3 => some ⟨4, 3, 7, false⟩
  | 4 => some ⟨5, 2, 15, true⟩
  | _ => none

def isF (ty : Nat) : Bool := (fmtOf ty).isSome

/-- Width of an integer type of Table 6.1 in bits. -/
def intW (ty : Nat) : Nat := if ty = 5 then 8 else 32

def Fmt.signBit (f : Fmt) : Nat := 2 ^ (f.eb + f.mb)

/-- The canonical quiet NaN (R260). -/
def Fmt.nanBits (f : Fmt) : Nat :=
  if f.hasInf then (2 ^ f.eb - 1) * 2 ^ f.mb + 2 ^ (f.mb - 1) else 2 ^ (f.eb + f.mb) - 1

/-- The largest finite magnitude, as a bit pattern. -/
def Fmt.maxBits (f : Fmt) : Nat :=
  if f.hasInf then (2 ^ f.eb - 1) * 2 ^ f.mb - 1 else 2 ^ (f.eb + f.mb) - 2

/-- The value of a bit pattern. -/
def Fmt.decode (f : Fmt) (b : Nat) : Fv :=
  let neg := b / f.signBit % 2 == 1
  let e := b / 2 ^ f.mb % 2 ^ f.eb
  let m := b % 2 ^ f.mb
  if e = 2 ^ f.eb - 1 ∧ f.hasInf then (if m = 0 then .inf neg else .nan)
  else if f.hasInf = false ∧ e = 2 ^ f.eb - 1 ∧ m = 2 ^ f.mb - 1 then .nan
  else if e = 0 then .fin neg m (1 - f.bias - f.mb)
  else .fin neg (2 ^ f.mb + m) ((e : Int) - f.bias - f.mb)

/-- Flags that results set (Table 6.11). -/
structure Fl where
  inv : Bool := false
  ovf : Bool := false
  sat : Bool := false
  deriving DecidableEq, Repr

def Fl.or (a b : Fl) : Fl := ⟨a.inv || b.inv, a.ovf || b.ovf, a.sat || b.sat⟩

/-- Whether a magnitude with remainder r of d and integer part q is rounded up (0 RNE, 1 RTZ, 2 RUP, 3 RDN). -/
def roundsUp (rnd : Nat) (neg : Bool) (q r d : Nat) : Bool :=
  match rnd with
  | 0 => d < 2 * r || (d == 2 * r && q % 2 == 1)
  | 1 => false
  | 2 => r != 0 && !neg
  | _ => r != 0 && neg

/-- What an overflow gives (R260). -/
def Fmt.overflow (f : Fmt) (rnd : Nat) (sat neg : Bool) : Nat :=
  let s := if neg then f.signBit else 0
  if sat || rnd == 1 || (rnd == 2 && neg) || (rnd == 3 && !neg) then s + f.maxBits
  else if f.hasInf then s + (2 ^ f.eb - 1) * 2 ^ f.mb
  else f.nanBits

/-- m·2^e, rounded once to the format, as a magnitude pattern; a pattern above maxBits is an overflow. -/
def Fmt.roundMag (f : Fmt) (rnd : Nat) (neg : Bool) (m : Nat) (e : Int) : Nat :=
  let emin : Int := 1 - f.bias
  let top : Int := (Nat.log2 m : Int) + e
  let qe : Int := max top emin - f.mb
  let q := if qe ≤ e then m * 2 ^ (e - qe).toNat
    else
      let d := 2 ^ (qe - e).toNat
      m / d + (if roundsUp rnd neg (m / d) (m % d) d then 1 else 0)
  -- q·2^qe: the fraction field carries into the exponent by itself
  if q < 2 ^ f.mb then q else (qe + f.mb + f.bias - 1).toNat * 2 ^ f.mb + q

/-- The bit pattern of a value rounded once (R259, R260). -/
def Fmt.encode (f : Fmt) (rnd : Nat) (sat : Bool) (v : Fv) : Nat × Fl :=
  match v with
  | .nan => (f.nanBits, {})
  | .inf neg =>
    if f.hasInf then ((if neg then f.signBit else 0) + (2 ^ f.eb - 1) * 2 ^ f.mb, {})
    else (f.overflow rnd sat neg, { ovf := true })
  | .fin neg m e =>
    let s := if neg then f.signBit else 0
    if m = 0 then (s, {})
    else
      let r := f.roundMag rnd neg m e
      if f.maxBits < r then (f.overflow rnd sat neg, { ovf := true }) else (s + r, {})

/-- A value rounded once to a format. -/
def Fmt.round (f : Fmt) (rnd : Nat) (sat : Bool) (v : Fv) : Fv × Fl :=
  let (b, fl) := f.encode rnd sat v
  (f.decode b, fl)

def Fv.isNan : Fv → Bool
  | .nan => true
  | _ => false

def Fv.isZero : Fv → Bool
  | .fin _ 0 _ => true
  | _ => false

def Fv.neg : Fv → Fv
  | .nan => .nan
  | .inf n => .inf (!n)
  | .fin n m e => .fin (!n) m e

def Fv.abs : Fv → Fv
  | .nan => .nan
  | .inf _ => .inf false
  | .fin _ m e => .fin false m e

/-- Signed mantissa of a finite value at exponent e0, not above its own. -/
def scaled (neg : Bool) (m : Nat) (e e0 : Int) : Int :=
  let x : Int := (m * 2 ^ (e - e0).toNat : Nat)
  if neg then -x else x

/-- A finite value from a signed mantissa; an exact zero has the sign z. -/
def ofScaled (i : Int) (e : Int) (z : Bool) : Fv :=
  if i = 0 then .fin z 0 e else .fin (decide (i < 0)) i.natAbs e

/-- Exact sum, with the sign of an exact zero by rounding mode; whether a NaN came from non-NaN inputs. -/
def Fv.add (rnd : Nat) (a b : Fv) : Fv × Bool :=
  match a, b with
  | .nan, _ => (.nan, false)
  | _, .nan => (.nan, false)
  | .inf x, .inf y => if x = y then (.inf x, false) else (.nan, true)
  | .inf x, _ => (.inf x, false)
  | _, .inf y => (.inf y, false)
  | .fin nx mx ex, .fin ny my ey =>
    if mx = 0 ∧ my = 0 then (.fin (if nx = ny then nx else rnd == 3) 0 0, false)
    else
      let e0 := min ex ey
      (ofScaled (scaled nx mx ex e0 + scaled ny my ey e0) e0 (rnd == 3), false)

def Fv.sub (rnd : Nat) (a b : Fv) : Fv × Bool := Fv.add rnd a b.neg

/-- Exact product (R259). -/
def Fv.mul (a b : Fv) : Fv × Bool :=
  match a, b with
  | .nan, _ => (.nan, false)
  | _, .nan => (.nan, false)
  | .inf x, .inf y => (.inf (x != y), false)
  | .inf x, .fin y m _ => if m = 0 then (.nan, true) else (.inf (x != y), false)
  | .fin x m _, .inf y => if m = 0 then (.nan, true) else (.inf (x != y), false)
  | .fin nx mx ex, .fin ny my ey => (.fin (nx != ny) (mx * my) (ex + ey), false)

/-- Strict order of non-NaN values; −0 equals +0. -/
def Fv.lt (a b : Fv) : Bool :=
  match a, b with
  | .nan, _ => false
  | _, .nan => false
  | .inf x, .inf y => x && !y
  | .inf x, _ => x
  | _, .inf y => !y
  | .fin nx mx ex, .fin ny my ey =>
    let e0 := min ex ey
    decide (scaled nx mx ex e0 < scaled ny my ey e0)

def Fv.le (a b : Fv) : Bool := !a.isNan && !b.isNan && !Fv.lt b a

/-- An integer as a float value. -/
def Fv.ofInt (i : Int) : Fv := .fin (decide (i < 0)) i.natAbs 0

/-- An integer saturated to w bits (R260). -/
def satInt (w : Nat) (i : Int) : Int × Bool :=
  let hi : Int := (2 ^ (w - 1) : Nat) - 1
  let lo : Int := -(2 ^ (w - 1) : Nat)
  if hi < i then (hi, true) else if i < lo then (lo, true) else (i, false)

/-- A finite value rounded to an integer. -/
def roundInt (rnd : Nat) (neg : Bool) (m : Nat) (e : Int) : Int :=
  let a := if 0 ≤ e then m * 2 ^ e.toNat
    else
      let d := 2 ^ (-e).toNat
      m / d + (if roundsUp rnd neg (m / d) (m % d) d then 1 else 0)
  if neg then -(a : Int) else a

/-- A value converted to an integer of w bits (R260). -/
def Fv.toInt (w rnd : Nat) : Fv → Int × Fl
  | .nan => (0, { inv := true })
  | .inf neg => (if neg then -(2 ^ (w - 1) : Nat) else (2 ^ (w - 1) : Nat) - 1, { sat := true })
  | .fin neg m e =>
    let (i, s) := satInt w (roundInt rnd neg m e)
    (i, { sat := s })

/-! ## FP32 operations, rounded once to nearest even -/

def f32 (w : Word) : Fv := fp32.decode w.toNat
def toF32 (v : Fv) : Word := BitVec.ofNat 32 (fp32.encode 0 false v).1
def fAdd (a b : Word) : Word := toF32 (Fv.add 0 (f32 a) (f32 b)).1
def fSub (a b : Word) : Word := toF32 (Fv.sub 0 (f32 a) (f32 b)).1
def fMul (a b : Word) : Word := toF32 (Fv.mul (f32 a) (f32 b)).1
def fFma (a b c : Word) : Word := toF32 (Fv.add 0 (Fv.mul (f32 a) (f32 b)).1 (f32 c)).1

end Sys2Proof.Machine
end

