-- ==== Sys2Proof/Machine/BlockOps.lean ====
section
/-! DEFINITION. LF-128 blocks and their sideband: the shares of the lanes, what the code of a block corrects and detects,
the units of Accord messages and wave codes, and the stream of bytes that waits to be sent. -/

namespace Sys2Proof.Machine

/-! ## The shares of a block (R551) -/

/-- Lanes of a mask, lowest first. -/
def lanesOf (m : Nat) : List Nat := (List.range 8).filter (fun k => m / 2 ^ k % 2 == 1)

/-- The frame-stream bytes dealt to the j-th of n active lanes (R551). -/
def lfDealt (n j : Nat) (bs : List Byte) : List Byte :=
  ((List.range bs.length).filter (fun i => i % n == j)).map (fun i => (bs[i]?).getD 0)

/-- The share of the j-th active lane, k, before the check bits: on the sideband lane the sideband byte stands first. -/
def lfShare (lanes : List Nat) (sb : Nat) (side : Byte) (bs : List Byte) (j k : Nat) : List Byte :=
  (if k = sb then [side] else []) ++ lfDealt lanes.length j bs

/-- The shares of a block, by lane number 0 to 7; a lane that is not active carries none. -/
def lfShares (lanes : List Nat) (sb : Nat) (side : Byte) (bs : List Byte) : List (List Byte) :=
  (List.range 8).map (fun k => match lanes.findIdx? (· == k) with
    | some j => lfShare lanes sb side bs j k
    | none => [])

/-- The sideband byte and the 128 frame-stream bytes that shares hold. -/
def lfBytes (lanes : List Nat) (sb : Nat) (shares : List (List Byte)) : Byte × List Byte :=
  let share (k : Nat) : List Byte := (shares[k]?).getD []
  let body (k : Nat) : List Byte := if k = sb then (share k).drop 1 else share k
  ((share sb).headD 0, (List.range 128).map (fun i =>
    ((body ((lanes[i % lanes.length]?).getD 0))[i / lanes.length]?).getD 0))

/-! ## Correction and detection (R552) -/

/-- What the code makes of a block: no error; one burst of up to 16 bits in one lane's share, corrected; two such bursts,
detected; more, of which the spec says nothing. -/
inductive Fec where
  | clean
  | fixed (lane bits : Nat)
  | bad
  | beyond
  deriving DecidableEq, Repr

/-- Wrong bits outside the burst of 16 bits that starts at the first of them, each a lane and a bit of its share. -/
def burstRest (e : Nat × Nat) (es : List (Nat × Nat)) : List (Nat × Nat) :=
  es.filter (fun x => x.1 != e.1 || x.2 < e.2 || e.2 + 16 ≤ x.2)

/-- The first wrong bit: lowest lane, then lowest bit. -/
def firstErr : List (Nat × Nat) → Option (Nat × Nat)
  | [] => none
  | e :: r => match firstErr r with
    | some b => if b.1 < e.1 ∨ (b.1 = e.1 ∧ b.2 < e.2) then some b else some e
    | none => some e

/-- R552. -/
def fecOf (es : List (Nat × Nat)) : Fec :=
  let es := es.dedup
  match firstErr es with
  | none => .clean
  | some e =>
    let r := burstRest e es
    match firstErr r with
    | none => .fixed e.1 es.length
    | some f => if burstRest f r = [] then .bad else .beyond

/-! ## The sideband (R573, R574, Table 13.3) -/

/-- The 7-bit units of a field of w bits, most significant first, padded with zeros at the end. -/
def sbUnits (w v : Nat) : List Nat :=
  let k := (w + 6) / 7
  let x := v % 2 ^ w * 2 ^ (7 * k - w)
  (List.range k).map (fun i => x / 2 ^ (7 * (k - 1 - i)) % 128)

/-- CRC-7 with x^7 + x^3 + 1 and initial value 0 over units. -/
def crc7 (us : List Nat) : Nat :=
  let bit (c : Nat) : Nat := if c / 64 % 2 = 1 then (c * 2 % 128) ^^^ 9 else c * 2 % 128
  us.foldl (fun c u => iter bit 7 (c ^^^ u)) 0

/-- The units of an Accord message: a start unit, its fields, the CRC. -/
def sbMessage (start w v : Nat) : List Byte :=
  let us := sbUnits w v
  (start :: us ++ [crc7 us]).map (BitVec.ofNat 8)

/-- SYNC, DREQ and DRSP as units (Table 13.3). -/
def sbSync (m : SyncMsg) : List Byte :=
  sbMessage 0x51 135 (m.t1 % 2 ^ 64 * 2 ^ 71 + m.era % 2 ^ 16 * 2 ^ 55 + m.epoch % 2 ^ 48 * 2 ^ 7 + m.hops % 32 * 4
    + (if m.trace then 2 else 0) + (if m.lanesel then 1 else 0))
def sbDreq (sn : Nat) (lanesel : Bool) : List Byte := sbMessage 0x52 17 (sn % 2 ^ 16 * 2 + (if lanesel then 1 else 0))
def sbDrsp (t4 sn : Nat) : List Byte := sbMessage 0x53 80 (t4 % 2 ^ 64 * 2 ^ 16 + sn % 2 ^ 16)

/-- An Accord message waits for the blocks of a link. -/
def sbPush (s : State) (n : Nat) (us : List Byte) : State := modLink s n (fun l => { l with sbq := l.sbq ++ us })

/-- A wave code waits for three consecutive blocks, between two units of a message (R574, R575). -/
def sbWave (s : State) (n : Nat) (code : BitVec 7) : State :=
  modLink s n (fun l => { l with
    sbq := l.sbq.takeWhile (fun b => 128 ≤ b.toNat) ++ List.replicate 3 (BitVec.ofNat 8 (128 + code.toNat))
      ++ l.sbq.dropWhile (fun b => 128 ≤ b.toNat) })

/-- The next 128 frame-stream bytes of a link: frames back to back, then one-byte IDLEs of 0x00 (R556). -/
def nextStream (l : Link) : List Byte := l.txs.take 128 ++ List.replicate (128 - l.txs.length) 0

end Sys2Proof.Machine
end

