-- ==== Sys2Proof/Machine/Flags.lean ====
section
/-! DEFINITION. Status, interrupts, error capture, sillage rings, stop triggers: what an event of a block leaves behind
beside its effect. -/

namespace Sys2Proof.Machine

/-! ## Interrupt messages (R127, R621 to R624) -/

def getVec (s : State) (v : Nat) : MsixVec := tabGet {} s.hif.vecs v
def setVec (s : State) (v : Nat) (x : MsixVec) : State :=
  { s with hif := { s.hif with vecs := tabPut s.hif.vecs v x } }

/-- Whether messages of a vector may leave: vector and function unmasked, Bus Master Enable set (R623). -/
def vecOpen (s : State) (v : Nat) : Bool := s.hif.bme && !s.hif.fmask && !(getVec s v).masked

/-- The message of a vector leaves now. -/
def msixSend (s : State) (v : Nat) : State :=
  let x := getVec s v
  emit (setVec s v { x with pend := false, deferred := false, lastAt := some (eTime s), win := rfld s .hif 0x090 19 0 })
    (.msix v x.addr x.data)

/-- A vector is requested: pending while masked (R623), deferred within the coalescing window (R624), else sent. -/
def msixRequest (s : State) (v : Nat) : State :=
  let x := getVec s v
  if vecOpen s v = false then setVec s v { x with pend := true }
  else
    match x.lastAt with
    | some a => if eTime s < a + ticks x.win then setVec s v { x with deferred := true } else msixSend s v
    | none => msixSend s v

/-- The interrupt line of a page (R127). -/
def irqLine (s : State) (p : Page) : Bool := (rawReg s p 0x020 &&& rawReg s p 0x024) != 0

/-- One message to each destination that PG_IMAP enables (R127, R622). -/
def irqMessage (s : State) (p : Page) : State :=
  let s1 := if rbit s p 0x02C 16 then msixRequest s (rfld s p 0x02C 10 0) else s
  if rbit s p 0x02C 17 then emit s1 (.mgtIrq p) else s1

/-! ## Sillage rings (R752) -/

/-- An entry is written to the ring of a page when PG_EVR_CTL lets it (Table 3.5, Table 18.6, R755). -/
def record (s : State) (p : Page) (code : Nat) (tent : Bool) (layer oper : Half) (detail : Word) : State :=
  if rbit s p 0x050 0 = false ∨ (rbit s p 0x050 1 ∧ stopped s p) ∨ (rbit s p 0x050 3 ∧ tent) then s
  else
    let slot := rfld s p 0x054 4 0
    let total := satAdd 16 (rfld s p 0x054 31 16) 1
    let full := rbit s p 0x054 5 || slot == 31
    let at_ := 0xE00 + 16 * slot
    let s1 := putReg s p at_ (BitVec.ofNat 32 (ntAt s p))
    let s2 := putReg s1 p (at_ + 4)
      (BitVec.ofNat 32 (bitsOf (ntAt s p) 39 32 + code * 256 + (if tent then 65536 else 0) + 2 ^ 31))
    let s3 := putReg s2 p (at_ + 8) (BitVec.ofNat 32 (layer.toNat * 65536 + oper.toNat))
    let s4 := putReg s3 p (at_ + 12) detail
    putReg s4 p 0x054 (BitVec.ofNat 32 ((slot + 1) % 32 + (if full then 32 else 0) + total * 65536))

/-- PG_ISR bits are set; when the line rises the page sends its messages and records code 0x07 (R127, Table 18.7), with
LAYER and OPER of what caused it (R772). -/
def isrCore (s : State) (p : Page) (mask : Word) (lo : Half × Half := (0, 0)) : State :=
  let s1 := putReg s p 0x020 (rawReg s p 0x020 ||| mask)
  if irqLine s p = false ∧ irqLine s1 p then
    record (irqMessage s1 p) p 0x07 false lo.1 lo.2 (rawReg s1 p 0x020) else s1

/-! ## The stop wave (R725 to R727) -/

/-- A link is trained: ACTIVE or NARROW (Table 13.2). -/
def linkUp (s : State) (n : Nat) : Bool := rfld s (.llk n) 0x084 3 0 == 5 || rfld s (.llk n) 0x084 3 0 == 6

/-- A wave code goes out on every trained link with WFWD = 1 but the one it came from (R575). -/
def sendWave (s : State) (from_ : Option Nat) (code : BitVec 7) : State :=
  (List.range 24).foldl (fun s n =>
    if linkUp s n && rbit s (.llk n) 0x080 2 && (some n != from_) then emit (sbWave s n code) (.wave n code) else s) s

/-- A stop trigger: pending bit, capture, and the wave when the package is not stopped yet (R725, R727, R732). -/
def stopTrigger (s : State) (cause : Nat) (src : Word) (from_ : Option Nat) : State :=
  let s1 := putBit s .dbgp 0x094 cause true
  let s2 := if rbit s1 .dbgp 0x084 2 then s1
    else
      let a := putFld (putBit s1 .dbgp 0x084 2 true) .dbgp 0x084 7 4 cause
      let b := putReg a .dbgp 0x088 src
      putReg (putReg b .dbgp 0x08C (BitVec.ofNat 32 (ntOf s))) .dbgp 0x090 (BitVec.ofNat 32 (ntOf s / 2 ^ 32))
  if s2.dbg.stopped then s2
  else
    let s3 := { s2 with dbg := { s2.dbg with stopped := true, cause := cause } }
    let s4 := if rbit s3 .dbgp 0x080 10 then emit s3 (.stopOut true) else s3
    isrCore (sendWave s4 from_ 1) .dbgp 1

/-! ## Sillage match (R756) -/

/-- Tile and UNITS bit of a page whose entries the DBG page matches. -/
def silUnit : Page → Option (Nat × Nat)
  | .til t => some (t, 0)
  | .seq t => some (t, 1)
  | .cmp t => some (t, 2)
  | .mov t => some (t, 3)
  | .cmb t => some (t, 4)
  | .rtr t => some (t, 5)
  | _ => none

/-- Two values agree in every bit of a mask. -/
def agree (a b m : Nat) : Bool := (a ^^^ b) &&& m == 0

/-- An entry is matched by the tile's DBG page (R724, R756, Table 18.1 cause 5). -/
def silMatch (s : State) (p : Page) (code : Nat) (layer oper : Half) : State :=
  match silUnit p with
  | none => s
  | some (t, u) =>
    if enabled s (.dbg t) && rbit s (.dbg t) 0x0C4 (16 + u)
      && agree code (rfld s (.dbg t) 0x0C4 7 0) (rfld s (.dbg t) 0x0C4 15 8)
      && agree layer.toNat (rfld s (.dbg t) 0x0C8 31 16) (rfld s (.dbg t) 0x0CC 31 16)
      && agree oper.toNat (rfld s (.dbg t) 0x0C8 15 0) (rfld s (.dbg t) 0x0CC 15 0) then
      let s1 := isrCore s (.dbg t) 8
      if rbit s1 (.dbg t) 0x0C0 3 && rbit s1 .dbgp 0x080 9 then stopTrigger s1 5 (tileNode s1 t 0) none else s1
    else s

/-- Whether the ring of a page takes an entry now. -/
def recording (s : State) (p : Page) (tent : Bool) : Bool :=
  rbit s p 0x050 0 && !(rbit s p 0x050 1 && stopped s p) && !(rbit s p 0x050 3 && tent)

/-- An event of a unit: a ring entry and its match (R752, R756). -/
def sillage (s : State) (p : Page) (code : Nat) (tent : Bool) (layer oper : Half) (detail : Word) : State :=
  if recording s p tent then silMatch (record s p code tent layer oper detail) p code layer oper else s

/-- PG_ISR bits are set, with the match of the entry for a rising line. -/
def isrSet (s : State) (p : Page) (mask : Word) (lo : Half × Half := (0, 0)) : State :=
  let s1 := isrCore s p mask lo
  if irqLine s p = false ∧ irqLine s1 p ∧ recording s p false then silMatch s1 p 0x07 lo.1 lo.2 else s1

/-- PG_ISR bit n is set. -/
def isrBit (s : State) (p : Page) (n : Nat) (lo : Half × Half := (0, 0)) : State :=
  isrSet s p (BitVec.ofNat 32 (2 ^ n)) lo

/-! ## Error capture (R126) -/

/-- Error classes that ERRCLS names (Table 18.1): Uncorrected, Request failure, Retirement, Fatal. -/
def errStop (s : State) (p : Page) (cls : Option Nat) : State :=
  match cls with
  | some c => if rbit s .dbgp 0x080 (12 + c) then stopTrigger s 6 (rawReg s p 0x000) none else s
  | none => s

/-- PG_ISR bit n. -/
def isrMask (n : Nat) : Word := BitVec.ofNat 32 (2 ^ n)

/-- An error reaches PG_ELOG0 to PG_ELOG3 while V = 0; while V = 1 it sets OVF (R126). With quiet the error leaves no
ring entry (R422). `bits` are the PG_ISR bits that the same event sets; its ring entry comes before that of the
interrupt line (R754). -/
def captureCore (quiet : Bool) (s : State) (p : Page) (code : Nat) (tag layer oper : Half) (detail : Word)
    (cls : Option Nat) (bits : Word) : State :=
  if rbit s p 0x030 31 then
    let s1 := putBit s p 0x030 30 true
    if bits = 0 then s1 else isrSet s1 p bits (layer, oper)
  else
    let s1 := putReg s p 0x030 (BitVec.ofNat 32 (2 ^ 31 + code * 65536 + tag.toNat))
    let s2 := putReg s1 p 0x034 (BitVec.ofNat 32 (layer.toNat * 65536 + oper.toNat))
    let s3 := putReg s2 p 0x038 (BitVec.ofNat 32 (nsAt s p))
    let s4 := putReg s3 p 0x03C detail
    let s5 := if quiet then s4 else sillage s4 p 0x01 false layer oper (BitVec.ofNat 32 code)
    errStop (isrSet s5 p (isrMask 31 ||| bits) (layer, oper)) p cls

/-- A captured error with its ring entry. -/
def capture (s : State) (p : Page) (code : Nat) (tag layer oper : Half) (detail : Word) (cls : Option Nat)
    (bits : Word) : State :=
  captureCore false s p code tag layer oper detail cls bits

/-- A captured error of a code for which the spec gives no DETAIL: PG_ELOG3 holds a free value (log 8). -/
def captureOpen (quiet : Bool) (s : State) (p : Page) (code : Nat) (tag layer oper : Half) (cls : Option Nat)
    (bits : Word) : State :=
  let (n, s1) := takeFree s
  captureCore quiet s1 p code tag layer oper (BitVec.ofNat 32 n) cls bits

/-- A corrected error is counted (Table 17.6). -/
def corrected (s : State) (p : Page) (n : Nat) : State := if n = 0 then s else addFld s p 0x040 15 0 n

/-- An uncorrected error is counted and captured (Table 17.6); quiet as for captureCore. -/
def uncorrected (s : State) (p : Page) (code : Nat) (tag layer oper : Half) (bits : Word) (quiet : Bool := false) :
    State :=
  captureOpen quiet (addFld s p 0x040 31 16 1) p code tag layer oper (some 0) bits

end Sys2Proof.Machine
end

