-- ==== Sys2Proof/Machine/TimeOps.lean ====
section
/-! DEFINITION. The states of the timekeeper and of the Accord ports, and what moves one when the other moves. -/

namespace Sys2Proof.Machine

/-- Page and register offset of the Accord port of link n (R498). -/
def accPage (n : Nat) : Page := .tkp (n / 12)
def accOff (n : Nat) : Nat := 0x200 + 0x20 * (n % 12)

/-- STATE of an Accord port (Table 11.3): 0 DISABLED, 1 CALIB, 2 ACQUIRE, 3 LOCKED, 4 HOLDOVER, 5 FAULT. -/
def accState (s : State) (n : Nat) : Nat := rfld s (accPage n) (accOff n + 4) 2 0
def accRole (s : State) (n : Nat) : Nat := rfld s (accPage n) (accOff n) 1 0

/-- TKP_STAT.STATE (Table 11.1): 0 FREE, 1 ACQUIRE, 2 LOCKED, 3 HOLDOVER. -/
def tkpState (s : State) : Nat := rfld s (.tkp 0) 0x084 1 0
def tkpSrc (s : State) : Nat := rfld s (.tkp 0) 0x080 1 0
def tkpPort (s : State) : Nat := rfld s (.tkp 0) 0x080 9 4

/-- TKP_STAT.STATE takes a value: RATE in FREE, EPV and the first lock in LOCKED, the interrupt on a change
(Table 11.1, R492, R498). -/
def tkpEnter (s : State) (st : Nat) : State :=
  let old := tkpState s
  let s1 := putFld s (.tkp 0) 0x084 1 0 st
  let s2 := if st = 0 then putReg s1 (.tkp 0) 0x09C (rawReg s1 (.tkp 0) 0x0A0) else s1
  let s3 := if st = 2 then { putBit s2 (.tkp 0) 0x084 4 true with tkp := { s2.tkp with locked := true } } else s2
  let s4 := if st = 3 ∧ old ≠ 3 then { s3 with tkp := { s3.tkp with holdAt := eTime s } } else s3
  let s5 := if st = 1 ∧ old ≠ 1 then
      { s4 with tkp := { s4.tkp with fromFree := old == 0, stepped := false, edges := 0 } } else s4
  if st = old then s5 else isrBit s5 (.tkp 0) 0

/-- TKP_STAT.STATE takes a value; with TKP_HOLD = 0 HOLDOVER becomes FREE at once (Table 11.6). -/
def tkpSet (s : State) (st : Nat) : State :=
  let s1 := tkpEnter s st
  if st = 3 ∧ (tkpSrc s = 1 ∨ tkpSrc s = 3) ∧ rfld s (.tkp 0) 0x0B0 15 0 = 0 then tkpEnter s1 0 else s1

/-- What the package state does when the SRCPORT port changes state (Table 11.1, SRC = ACCORD, R467). After a narrowing
HOLDOVER lasts until the port is LOCKED (R550). -/
def tkpFollow (s : State) (n : Nat) : State :=
  if tkpSrc s ≠ 3 ∨ tkpPort s ≠ n then s
  else
    let a := accState s n
    match tkpState s with
    | 2 => if a = 3 then s else tkpSet s 3
    | 1 => if a = 3 then tkpSet s 2 else s
    | st =>
      if a = 3 then tkpSet (tkpSet s 1) 2
      else if a = 2 ∧ (st = 3 ∧ (getAcc s n).narrowed) = false then tkpSet s 1 else s

/-- An Accord port enters a state (Table 11.3). -/
def accSet (s : State) (n st : Nat) : State :=
  let old := accState s n
  let s1 := putFld s (accPage n) (accOff n + 4) 2 0 st
  let s2 := modAcc s1 n (fun a => { a with
    n := 0, good := 0, miss := 0, open_ := false,
    narrowed := a.narrowed && (st == 1 || st == 2),
    since := if st = 1 then eTime s else a.since,
    sum0 := if st = 1 then 0 else a.sum0, sum1 := if st = 1 then 0 else a.sum1 })
  let s3 := if st = old then s2
    else if st = 5 then captureOpen false s2 (accPage n) 0x10 0 0 0 none (isrMask (12 + n % 12))
    else isrBit s2 (accPage n) (12 + n % 12)
  tkpFollow s3 n

/-- The Accord port of a link falls to DISABLED (Table 11.3, R571). -/
def accDown (s : State) (n : Nat) : State := if accState s n = 0 then s else accSet s n 0

/-- A slave port whose link is trained enters CALIB (Table 11.3). -/
def accStart (s : State) (n : Nat) : State :=
  if accState s n = 0 ∧ accRole s n = 2 ∧ linkUp s n then accSet s n 1 else s

/-- TKP_STAT.TRACE (R484): the grandmaster, or LOCKED with TRACE of the last SYNC of SRCPORT. -/
def tkpTrace (s : State) : Bool :=
  if tkpSrc s = 3 then tkpState s == 2 && (getAcc s (tkpPort s)).trace else true

/-- TKP_STAT.HOPS: 0 for the grandmaster, else the master's HOPS plus 1 (R481). -/
def tkpHops (s : State) : Nat := if tkpSrc s = 3 then rfld s (accPage (tkpPort s)) (accOff (tkpPort s) + 4) 12 8 else 0

end Sys2Proof.Machine
end

