-- ==== Sys2Proof/Machine/GateList.lean ====
section
/-! DEFINITION. Gate lists: their places, the position of a list, the gates in force, when a gate opened and when it
closes, the guard, and the changes of a list. -/

namespace Sys2Proof.Machine

/-! ## Places (Table 12.1, R545, R547) -/

/-- Page of a place of gate lists and the offset G of its gate registers (R545). -/
def gPage : GPlace → Page
  | .mov t => .mov t
  | .llk n => .llk n
  | .eth n => .eth n

def gBase : GPlace → Nat
  | .mov _ => 0x800
  | _ => 0xC00

/-- PG_ISR bit of GCLSW; GCLERR is the next one (R547). -/
def gIsr : GPlace → Nat
  | .mov _ => 2
  | _ => 16

/-- Number of queues of a place: 4 injection queues, 8 traffic classes (Table 12.1). -/
def gQueues : GPlace → Nat
  | .mov _ => 4
  | _ => 8

def getGcl (s : State) : GPlace → Gcl
  | .mov t => (getTile s t).gcl
  | .llk n => (getLink s n).gcl
  | .eth n => (getEth s n).gcl

def modGcl (s : State) (g : GPlace) (f : Gcl → Gcl) : State :=
  match g with
  | .mov t => modTile s t (fun x => { x with gcl := f x.gcl })
  | .llk n => modLink s n (fun x => { x with gcl := f x.gcl })
  | .eth n => modEth s n (fun x => { x with gcl := f x.gcl })

/-- GCL_STAT.STATE: 0 OFF, 1 PEND, 2 RUN, 3 RUNPEND. -/
def gclState (s : State) (g : GPlace) : Nat := rfld s (gPage g) (gBase g + 4) 1 0
def gclIdle (s : State) (g : GPlace) : Nat := rfld s (gPage g) (gBase g) (7 + gQueues g) 8
def gclSetState (s : State) (g : GPlace) (st : Nat) : State := putFld s (gPage g) (gBase g + 4) 1 0 st

/-! ## Gate lists (R503 to R520) -/

def gReg (s : State) (g : GPlace) (off hi lo : Nat) : Nat := rfld s (gPage g) (gBase g + off) hi lo
def gPair (s : State) (g : GPlace) (off : Nat) : Nat := pairNat s (gPage g) (gBase g + off)
def gPutPair (s : State) (g : GPlace) (off v : Nat) : State :=
  putReg (putReg s (gPage g) (gBase g + off) (BitVec.ofNat 32 v)) (gPage g) (gBase g + off + 4)
    (BitVec.ofNat 32 (v / 2 ^ 32))

/-- The first n entries of a list. -/
def gEntries (l : Tab GEntry) (n : Nat) : List GEntry := (List.range n).map (tabGet {} l)

/-- The first entry with a nonzero duration, which R504 calls entry 0. -/
def gFirst (es : List GEntry) : Nat × Nat :=
  match es.findIdx? (fun e => e.dur != 0) with
  | some i => (i, ((es[i]?).getD {}).gates.toNat)
  | none => (0, 0)

/-- The entry that holds an offset of the cycle, from entry i on; the last nonzero entry lasts to the end (R505). -/
def gFind : List GEntry → Nat → Nat → Nat × Nat → Nat × Nat
  | [], _, _, last => last
  | e :: r, i, off, last =>
    if e.dur = 0 then gFind r (i + 1) off last
    else if off < e.dur * 64 then (i, e.gates.toNat)
    else gFind r (i + 1) (off - e.dur * 64) (i, e.gates.toNat)

def gOper (s : State) (g : GPlace) : List GEntry := gEntries (getGcl s g).oper (gReg s g 0x30 8 0)
def gAdm (s : State) (g : GPlace) : List GEntry := gEntries (getGcl s g).adm (gReg s g 0x18 8 0)

/-- GCL_CT: CT of the pending or last change. -/
def gCt (s : State) (g : GPlace) : Nat := gPair s g 0x38

/-- NT of a place: that of its tile, or of its I/O die (Table 12.1). -/
def gNt (s : State) (g : GPlace) : Nat := ntAt s (gPage g)

/-- Cycle of the oper list in ticks. -/
def gCycle (s : State) (g : GPlace) : Nat := gPair s g 0x28 * 64

/-- CT of the last switch: the running list counts from it (R504, R520). -/
def gRunCt (s : State) (g : GPlace) : Nat := (getGcl s g).runCt

/-- Where in its cycle the running list is (R504, R520). -/
def gPhase (s : State) (g : GPlace) : Nat :=
  if gCycle s g = 0 then 0 else (gNt s g + 2 ^ 64 - gRunCt s g) % 2 ^ 64 % gCycle s g

/-- A step took NT below the switch of the running list and NT has not come back to it (R520). -/
def gHeld (s : State) (g : GPlace) : Bool := (getGcl s g).below && gNt s g < gRunCt s g

/-- NT has reached CT of a pending change, whose switch is due (R517). -/
def gReached (s : State) (g : GPlace) : Bool := (gclState s g == 1 || gclState s g == 3) && gCt s g ≤ gNt s g

/-- The oper entry and the gates in force (R504, R505, R516, R520). -/
def gPos (s : State) (g : GPlace) : Nat × Nat :=
  if gclState s g ≤ 1 then (0, gclIdle s g)
  else if gHeld s g then gFirst (gOper s g)
  else gFind (gOper s g) 0 (gPhase s g) (gFirst (gOper s g))

def gateOpen (s : State) (g : GPlace) (q : Nat) : Bool := (gPos s g).2 / 2 ^ q % 2 == 1

/-- Lengths and gates of the nonzero entries of a list with a cycle, the last to the end of the cycle (R505). -/
def gSegsOf (es : List GEntry) (cycle : Nat) : List (Nat × Nat) :=
  let l := (es.filter (fun e => e.dur != 0)).map (fun e => (e.dur * 64, e.gates.toNat))
  let slack := cycle - (l.map (·.1)).sum
  match l.reverse with
  | (d, x) :: r => ((d + slack, x) :: r).reverse
  | [] => []

def gSegs (s : State) (g : GPlace) : List (Nat × Nat) := gSegsOf (gOper s g) (gCycle s g)

/-- The segments from an offset on: what is left of the current one, those after it, and what has passed. -/
def gRotate : List (Nat × Nat) → Nat → List (Nat × Nat) → Nat × List (Nat × Nat) × Nat × List (Nat × Nat)
  | [], _, seen => (0, seen.reverse, 0, seen)
  | (d, x) :: r, off, seen =>
    if off < d then (d - off, r ++ seen.reverse, off, seen ++ r.reverse) else gRotate r (off - d) ((d, x) :: seen)

/-- How long a run of segments with queue q open is; none when every segment has it open. -/
def gRun (q : Nat) : List (Nat × Nat) → Nat → Option Nat
  | [], _ => none
  | (d, x) :: r, acc => if x / 2 ^ q % 2 = 1 then gRun q r (acc + d) else some acc

/-- How long a list keeps queue q open from an offset of its cycle on, after acc ticks already counted. -/
def gOpenFor (l : List (Nat × Nat)) (off q acc : Nat) : Option Nat :=
  let (left, next, _, _) := gRotate l off []
  gRun q next (acc + left)

/-- Ticks until the gate of queue q, open now, closes under the list in force; none for never. Below CT the first entry
holds until NT reaches CT, where it starts (R520). -/
def gOwnClose (s : State) (g : GPlace) (q : Nat) : Option Nat :=
  if gclState s g ≤ 1 then none
  else if gHeld s g then gOpenFor (gSegs s g) 0 q (gRunCt s g - gNt s g)
  else gOpenFor (gSegs s g) (gPhase s g) q 0

/-- Ticks until the gate of queue q, open now, closes; none for never (R511). A pending CT cuts the list in force: it
closes the queues that the first entry of the pending list leaves closed, and the others as the pending list does. -/
def gCloseIn (s : State) (g : GPlace) (q : Nat) : Option Nat :=
  let own := gOwnClose s g q
  if gclState s g = 1 ∨ gclState s g = 3 then
    let cut := gCt s g - gNt s g
    if own.any (fun a => decide (a < cut)) then own
    else if (gFirst (gAdm s g)).2 / 2 ^ q % 2 = 0 then some cut
    else gOpenFor (gSegsOf (gAdm s g) (gPair s g 0x10 * 64)) 0 q cut
  else own

/-- Ticks since the gate of queue q, open now, opened; none when the list never closes it. -/
def gOpenAgo (s : State) (g : GPlace) (q : Nat) : Option Nat :=
  if gclState s g ≤ 1 ∨ gHeld s g then none
  else
    let (_, _, gone, prev) := gRotate (gSegs s g) (gPhase s g) []
    gRun q prev gone

/-- When the gate of queue q, open now, opened: by the list in force if it did so after the gates were last placed anew,
else as noted then (R512). -/
def gOpenTime (s : State) (g : GPlace) (q : Nat) : Nat :=
  let x := getGcl s g
  match gOpenAgo s g q with
  | some d => if x.markAt + d < eTime s then eTime s - d else tabGet 0 x.openAt q
  | none => tabGet 0 x.openAt q

/-- The gates were placed anew between two states (a switch, a HALT, a step of NT, a write of IDLE): a gate that was open
before and is now stays open since its opening, one that was closed opens now. -/
def gMark (s0 s : State) (g : GPlace) : State :=
  let note (t : Tab Nat) (q : Nat) : Tab Nat :=
    if gateOpen s g q = false then t else tabPut t q (if gateOpen s0 g q then gOpenTime s0 g q else eTime s)
  modGcl s g (fun x => { x with markAt := eTime s, openAt := (List.range (gQueues g)).foldl note x.openAt })

/-- The queue has started no packet since its gate opened (R512). -/
def gFresh (s : State) (g : GPlace) (q : Nat) : Bool :=
  match ((getGcl s g).last.find? (fun e => e.1 == q)).map (·.2) with
  | none => true
  | some a => a < gOpenTime s g q

/-- A transmission time, in thousandths of a tick, ends after the gate's closing time. -/
def gOverruns (s : State) (g : GPlace) (q tx : Nat) : Bool :=
  match gCloseIn s g q with
  | some d => d * 1000 < tx
  | none => false

/-- Gate and guard let a packet of queue q start (R510 to R512). -/
def gatePass (s : State) (g : GPlace) (q tx : Nat) : Bool :=
  gateOpen s g q && (gReg s g 0 3 3 == 0 || gFresh s g q || !gOverruns s g q tx)

/-- A packet of queue q starts: OVRN when it overruns (R512). -/
def gateStart (s : State) (g : GPlace) (q tx : Nat) : State :=
  let s1 := if gOverruns s g q tx then putBit s (gPage g) (gBase g + 4) 4 true else s
  modGcl s1 g (fun x => { x with last := tabPut x.last q (eTime s) })

/-- Transmission time of a MOV packet (Table 12.4). -/
def movTx (p : Packet) : Nat := (p.len.toNat + 1) * 769 * 1024

/-- Limit of list entries (Table 12.1). -/
def gLimit : GPlace → Nat
  | .mov _ => 16
  | _ => 256

/-- The reason a change is refused (R507, Table 12.11); 0 for none. -/
def gclBad (s : State) (g : GPlace) : Nat :=
  let n := gReg s g 0x18 8 0
  let es := gAdm s g
  let cyc := gPair s g 0x10
  let sum := (es.map (·.dur)).sum
  if gclState s g = 1 ∨ gclState s g = 3 then 6
  else if n = 0 ∨ gLimit g < n then 1
  else if cyc = 0 then 2
  else if cyc < sum then 3
  else if sum = 0 then 4
  else if (List.range (gQueues g)).any (fun q => !es.any (fun e => e.dur != 0 && e.gates.toNat / 2 ^ q % 2 == 1)) then 5
  else 0

/-- The change time CT, and whether the base time was too early (R514). -/
def gclTime (s : State) (g : GPlace) : Nat × Bool :=
  let base := gPair s g 0x08
  let least := gNt s g + 1024000
  let cyc := gPair s g 0x10 * 64
  if least ≤ base then (base, false) else (base + (least - base + cyc - 1) / cyc * cyc, true)

/-- A gate error: GCLERR and its capture (R547). -/
def gclErr (s : State) (g : GPlace) (code detail : Nat) : State :=
  capture s (gPage g) code 0 0 0 (BitVec.ofNat 32 detail) none (isrMask (gIsr g + 1))

/-- CHG (Table 12.5). -/
def gclChg (s : State) (g : GPlace) : State :=
  let bad := gclBad s g
  if bad ≠ 0 then gclErr s g 0x20 bad
  else
    let (ct, late) := gclTime s g
    let s1 := gPutPair (gclSetState s g (if gclState s g = 2 then 3 else 1)) g 0x38 ct
    if late then putBit s1 (gPage g) (gBase g + 4) 2 true else s1

/-- CANCEL (Table 12.5). -/
def gclCancel (s : State) (g : GPlace) : State :=
  match gclState s g with
  | 1 => gclSetState s g 0
  | 3 => gclSetState s g 2
  | _ => gclErr s g 0x21 0

/-- HALT: the list goes OFF and the gates take IDLE; a pending change is discarded (Table 12.5). -/
def gclHalt (s : State) (g : GPlace) : State :=
  let s1 := putFld (gclSetState s g 0) (gPage g) (gBase g + 4) 23 8 (gclIdle s g)
  gMark s (modGcl s1 g (fun x => { x with inStep := false, below := false })) g

/-- The switch at CT (Table 12.5, R519). -/
def gclSwitch (s : State) (g : GPlace) : State :=
  let ct := gCt s g
  let s1 := gPutPair (gPutPair s g 0x20 (gPair s g 0x08)) g 0x28 (gPair s g 0x10)
  let s2 := putReg s1 (gPage g) (gBase g + 0x30) (rawReg s (gPage g) (gBase g + 0x18))
  let s3 := gclSetState (modGcl s2 g (fun x => { x with
    oper := x.adm, inStep := true, runCt := ct, below := decide (gNt s g < ct) })) g 2
  isrBit (gMark s s3 g) (gPage g) (gIsr g)

/-- A due switch comes before what acts on the list (R517). -/
def gDue (s : State) (g : GPlace) : State := if gReached s g then gclSwitch s g else s

/-- What an NT step from the state s0 does to the list of a place (R520): a pending change whose CT it passes, or had
reached before, takes effect; NT below CT of the running list holds its first entry. -/
def gclStep (s0 s : State) (g : GPlace) : State :=
  if gclState s g = 0 then s
  else
    let s1 := putBit s (gPage g) (gBase g + 4) 3 true
    let s2 := if gReached s1 g ∨ gReached s0 g then gclSwitch s1 g else s1
    let s3 := modGcl s2 g (fun x => { x with
      below := decide (2 ≤ gclState s2 g) && decide (gNt s2 g < x.runCt) && (x.below || decide (x.runCt ≤ gNt s0 g)) })
    gMark s0 s3 g

/-- Ticks until the next entry of a running list starts (R504). -/
def gNext (s : State) (g : GPlace) : Nat :=
  if gclState s g ≤ 1 then 0
  else if gHeld s g then gRunCt s g - gNt s g
  else (gRotate (gSegs s g) (gPhase s g) []).1

end Sys2Proof.Machine
end

