-- ==== Sys2Proof/Machine/Faults.lean ====
section
/-! DEFINITION. Retirement: link states, isolation of a tile, error buckets and their effects. -/

namespace Sys2Proof.Machine

/-! ## Link states (Table 13.2) -/

def llkState (s : State) (n : Nat) : Nat := rfld s (.llk n) 0x084 3 0
def llkLanes (s : State) (n : Nat) : Nat := rfld s (.llk n) 0x084 15 8

/-- Number of ones among the low 8 bits. -/
def popCount8 (x : Nat) : Nat := ((List.range 8).filter (fun i => x / 2 ^ i % 2 == 1)).length

/-- A link enters a state: STATE, WIDTH and LANES, the interrupts UP, DOWN and NARROW, the sillage entry (R593). -/
def llkSet (s : State) (n st lanes : Nat) : State :=
  let old := llkState s n
  let w := if st = 5 ∨ st = 6 then popCount8 lanes else 0
  let s1 := putFld (putFld (putFld s (.llk n) 0x084 3 0 st) (.llk n) 0x084 7 4 w) (.llk n) 0x084 15 8
    (if st = 5 ∨ st = 6 then lanes else 0)
  let s2 := if st = 5 ∨ st = 7 ∨ st = 8 then putBit s1 (.llk n) 0x080 0 false else s1
  let s3 := if st = 5 ∧ old ≠ 5 then isrBit s2 (.llk n) 0 else s2
  let s4 := if old = 5 ∧ st ≠ 5 then isrBit s3 (.llk n) 1 else s3
  let s5 := if st = 6 then isrBit s4 (.llk n) 2 else s4
  sillage s5 (.llk n) 0x60 false 0 0 (BitVec.ofNat 32 st)

/-- The link no longer carries frames: its replay buffer is discarded (R587), and packets not yet framed go back to
OSW (R588). -/
def llkDrop (s : State) (n : Nat) : State :=
  let l := getLink s n
  let waiting := l.eg.flatMap (fun e => e.2)
  let s1 := modLink s n (fun l => { l with
    eg := [], unacked := [], rpl := 0, disc := false, toAck := 0, resend := false, rxAny := false, txs := [], sbq := [],
    txSeq := 0, rxSeq := 0, credits := [512, 512, 512, 512], owed := [0, 0, 0, 0], sched := {} })
  let mine (x : Transit) : Bool := x.from_.any (fun f => f.1 == n)
  modDie s1 (n / 12) (fun d => { d with
    osw := (d.osw ++ waiting).map (fun x => if mine x then { x with held := false } else x) })

/-- A link goes to RETIRED (R563, R572). -/
def llkRetire (s : State) (n : Nat) : State :=
  let s1 := isrBit (putBit s (.llk n) 0x014 6 true) (.llk n) 3
  accDown (llkDrop (llkSet s1 n 7 0) n) n

/-! ## Isolation of a tile (R383 to R386) -/

/-- A tile is isolated; the first cause is held. Its engines stop and lose their queues. -/
def isolate (s : State) (t cause : Nat) : State :=
  if isoBit s t then s
  else
    let s1 := putFld (putBit s (.til t) 0x084 1 true) (.til t) 0x084 4 2 cause
    let s2 := modTile s1 t (fun x => { x with
      cmpQ := [], movQ := [], cmbQ := [], cmpRun := none, movCur := none,
      movOut := [], movReqs := [], srcResvs := [], trb := [], leaseHeld := [], iq := [[], [], [], []], out := [],
      acks := [], stalled := none })
    isrBit s2 (.til t) 3

/-! ## Retirement log (R704, R721) -/

/-- W0 of a retirement log entry (Table 17.7). -/
def rlogW0 (kind cause inst : Nat) : Word := BitVec.ofNat 32 (kind + cause * 8 + inst * 256)

/-- A retirement enters the log, or finds it full. -/
def rlogAdd (s : State) (kind inst cause errs : Nat) : State :=
  let s1 := if s.rlog.length < 32 then
      { s with rlog := s.rlog ++ [⟨rlogW0 kind cause inst, BitVec.ofNat 32 (nsOf s), BitVec.ofNat 32 errs⟩] }
    else isrBit (putBit s .scr 0x0A0 6 true) .scr 3
  isrBit s1 .scr 0

/-- The holder that a COPY instance names (Table 17.7): the page that retires with it. -/
def copyHolder (inst : Nat) : Page :=
  match bitsOf inst 23 22 with
  | 0 => .rtr (inst % 16384)
  | 1 => .til (inst % 16384)
  | 2 => .mov (inst % 16384)
  | _ => if inst % 32 < 24 then .llk (inst % 32) else .eth (inst % 32 - 24)

/-- The page that owns a resource (Table 17.1). -/
def ownerPage (kind inst : Nat) : Page :=
  match kind with
  | 0 => .llk (inst / 8)
  | 1 => .llk inst
  | 2 => .mem (inst % 128) (inst / 128)
  | 3 => .cmb (inst / 16)
  | 4 => .til inst
  | 5 => .eth inst
  | 6 => copyHolder inst
  | _ => .til inst

/-- A router is reported failed (R392, R716): MGT raises FABFAIL, a fatal error. -/
def fabFail (s : State) (t : Nat) : State :=
  let s1 := { s with mgt := { s.mgt with failedRtrs := if t ∈ s.mgt.failedRtrs then s.mgt.failedRtrs
    else s.mgt.failedRtrs ++ [t] } }
  errStop (isrBit s1 .mgt 0) .mgt (some 3)

/-- The first link is retired for want of lanes: narrowing below MINW (Table 13.2). -/
def minWidth (s : State) (n : Nat) : Nat := max 4 (rfld s (.llk n) 0x080 15 12)

/-- Lowest and highest lane of a mask. -/
def edgeLanes (m : Nat) : List Nat :=
  let l := (List.range 8).filter (fun i => m / 2 ^ i % 2 == 1)
  l.head?.toList ++ l.getLast?.toList

/-! ## Error buckets (R692 to R698) -/

def bktKey (kind inst : Nat) : Nat := kind * 2 ^ 24 + inst
def getBkt (s : State) (kind inst : Nat) : Bucket := tabGet {} s.buckets (bktKey kind inst)
def setBkt (s : State) (kind inst : Nat) (b : Bucket) : State :=
  { s with buckets := tabPut s.buckets (bktKey kind inst) b }
def bktThr (s : State) (kind : Nat) : Nat := rfld s .scr (0x100 + 8 * kind) 15 0
def bktWin (s : State) (kind : Nat) : Nat := (rawReg s .scr (0x104 + 8 * kind)).toNat

/-! ## What a retirement does -/

/-- A lane is retired: the link narrows and tells its partner (R568), or is retired below MINW (R570, R571, Table 13.2);
a narrowing that takes a sideband lane holds the package in HOLDOVER until the port is LOCKED (R550). Entries of the link's page are
in ascending order of their codes (R754). -/
def laneRetire (s : State) (n k : Nat) : State :=
  let lane (s : State) : State := sillage s (.llk n) 0x61 false 0 0 (BitVec.ofNat 32 k)
  let s0 := modLink s n (fun l => { l with det := l.det - (l.det &&& 2 ^ k) })
  let s1 := putBit s0 (.llk n) (0x0C0 + 4 * k) 16 true
  let m := llkLanes s n
  if linkUp s n = false ∨ m / 2 ^ k % 2 = 0 then
    (if llkState s n = 4 ∧ popCount8 (getLink s0 n).det < minWidth s n then llkSet (lane s1) n 8 0 else lane s1)
  else
    let m' := m - 2 ^ k
    if popCount8 m' < minWidth s n then
      let b := getBkt s1 1 n
      let s2 := rlogAdd (setBkt s1 1 n { b with level := bktThr s1 1, retired := true }) 1 n 3 b.errs
      lane (llkRetire (sillage s2 (.llk n) 0x06 false 0 0 (rlogW0 1 3 n)) n)
    else
      let s2 := emit (llkSet (modLink s1 n (fun l => { l with narrowAt := eTime s })) n 6 m') (.lanes n m')
      lane (if k ∈ edgeLanes m then modAcc (accDown s2 n) n (fun a => { a with narrowed := true }) else s2)

/-- The effect of a retirement (Table 17.3, R716). Bit 0 of TIL_TIME is stored as 1 where calibration is lost; CAL is
derived when it is read. -/
def retireEffect (s : State) (kind inst : Nat) : State :=
  match kind with
  | 0 => laneRetire s (inst / 8) (inst % 8)
  | 1 => llkRetire s inst
  | 2 => isrBit (putBit s (.mem (inst % 128) (inst / 128)) 0x014 6 true) (.mem (inst % 128) (inst / 128)) 1
  | 3 => modTile s (inst / 16) (fun x => { x with rqRetired := (inst % 16) :: x.rqRetired.filter (· != inst % 16) })
  | 4 => isolate s inst 4
  | 5 =>
    let s1 := putBit s (.eth inst) 0x014 6 true
    let s2 := modEth s1 inst (fun e => { e with tx := e.tx.filter (·.started) })
    if rbit s2 (.eth inst) 0x0A0 0 then isrBit (putBit s2 (.eth inst) 0x0A0 0 false) (.eth inst) 3 else s2
  | 6 => match copyHolder inst with
    | .rtr t => fabFail s t
    | .til t => putBit s (.til t) 0x0C0 0 true
    | .mov t => gclHalt s (.mov t)
    | .llk n => gclHalt s (.llk n)
    | .eth n => gclHalt s (.eth n)
    | _ => s
  | _ => putBit s (.til inst) 0x0C0 0 true

/-! ## Retirement by a bucket (R693 to R704) -/

/-- A resource is retired: level held at THR, log, sillage, effect, trigger of class Retirement (R696, R704, R707). -/
def retire (s : State) (kind inst cause : Nat) : State :=
  let b := getBkt s kind inst
  let s1 := setBkt s kind inst { b with level := bktThr s kind, retired := true }
  let s2 := rlogAdd s1 kind inst cause b.errs
  let s3 := sillage s2 (ownerPage kind inst) 0x06 false 0 0 (rlogW0 kind cause inst)
  errStop (retireEffect s3 kind inst) (ownerPage kind inst) (some 2)

/-- One error is counted in a bucket; at THR the resource is retired (R693, R696, R697). -/
def bucketErr (s : State) (kind inst : Nat) : State :=
  let b := getBkt s kind inst
  let thr := bktThr s kind
  let b1 := { b with errs := satAdd 16 b.errs 1 }
  if thr = 0 then setBkt s kind inst b1
  else
    let lv := min thr (b.level + 1)
    let s1 := setBkt s kind inst { b1 with level := lv }
    if thr ≤ lv ∧ b.retired = false then retire s1 kind inst 0 else s1

/-- Restoring a resource sets its level to 0 (R696). -/
def bucketRestore (s : State) (kind inst : Nat) : State := setBkt s kind inst {}

/-! ## Memory errors of a tile (R708) -/

/-- Corrected errors of TM, CM or AM count in the TIL page. -/
def tileCE (s : State) (t n : Nat) : State := corrected s (.til t) n

/-- An uncorrectable error of TM, CM or AM: counted, captured with LAYER and OPER of its cause (R772), counted in the TILE
bucket; a dark cause is quiet (R422). -/
def tileUE (s : State) (t : Nat) (lo : Half × Half := (0, 0)) (dark : Bool := false) : State :=
  bucketErr (uncorrected s (.til t) Config.tileUeCode.toNat 0 lo.1 lo.2 0 dark) 4 t

/-- A read of n bytes at key k of a tile's memories for a command or packet of LAYER and OPER lo: whether it finds an
uncorrectable unit, and what that leaves. -/
def tileRead (s : State) (t k n : Nat) (lo : Half × Half := (0, 0)) (dark : Bool := false) : Bool × State :=
  let s1 := if countCE s k n = 0 then s else tileCE s t (countCE s k n)
  if anyUE s k n then (true, tileUE s1 t lo dark) else (false, s1)

/-- Bytes written at key k: whole units lose their error state. -/
def memStore (s : State) (k : Nat) (bs : List Byte) : State :=
  let whole := (unitsOf k bs.length).filter (fun u => k ≤ u * 32 && u * 32 + 32 ≤ k + bs.length)
  whole.foldl clearUnit (writeMem s k bs)

end Sys2Proof.Machine
end

