-- ==== Sys2Proof/Machine/GateOps.lean ====
section
/-! DEFINITION. Shapers, meters and the choice among classes at an egress. -/

namespace Sys2Proof.Machine

/-! ## Counted length and shapers (R521 to R527) -/

def shpOvh (s : State) (g : GPlace) : Nat := gReg s g 0x180 5 0

/-- Counted length of a packet at a link (R521, Table 12.7). -/
def llkLen (s : State) (n : Nat) (p : Packet) : Nat := 32 * (p.len.toNat + 1) + shpOvh s (.llk n)

/-- Transmission time of a counted length, in thousandths of a tick (Table 12.4). -/
def egTx (g : GPlace) (len : Nat) : Nat :=
  match g with
  | .eth _ => len * 20 * 1024
  | _ => len * 10 * 1024

def getShp (s : State) (g : GPlace) (k : Nat) : Shaper :=
  match g with
  | .llk n => tabGet {} (getLink s n).shp k
  | .eth n => tabGet {} (getEth s n).shp k
  | .mov _ => {}

def setShp (s : State) (g : GPlace) (k : Nat) (x : Shaper) : State :=
  match g with
  | .llk n => modLink s n (fun l => { l with shp := tabPut l.shp k x })
  | .eth n => modEth s n (fun l => { l with shp := tabPut l.shp k x })
  | .mov _ => s

/-- Offsets of the registers of a shaper. -/
def shpOff (k : Nat) : Nat := 0x100 + 0x10 * k
def shpEn (s : State) (g : GPlace) (k : Nat) : Bool := gReg s g (shpOff k) 31 31 == 1
def shpCir (s : State) (g : GPlace) (k : Nat) : Nat := gReg s g (shpOff k) 19 0
def shpCbs (s : State) (g : GPlace) (k : Nat) : Nat := gReg s g (shpOff k + 4) 23 0

/-- Credit units per byte: thousandths of 1/1024 byte. CIR in MB/s adds CIR units a tick. -/
def credUnit : Nat := 1024000

/-- The credit now: it grows at CIR up to CBS (R522). -/
def shpCred (s : State) (g : GPlace) (k : Nat) : Int :=
  let x := getShp s g k
  min (x.cred + ((shpCir s g k * (gTime s - x.at_) : Nat) : Int)) ((shpCbs s g k * credUnit : Nat) : Int)

def shpSet (s : State) (g : GPlace) (k : Nat) (c : Int) : State := setShp s g k ⟨c, gTime s⟩

/-- C as SHP_CREDt shows it: whole bytes, rounded towards −∞. -/
def shpShown (s : State) (g : GPlace) (k : Nat) : Int := shpCred s g k / (credUnit : Int)

/-! ## Choosing among classes (R528 to R532) -/

def getSched (s : State) : GPlace → Sched
  | .llk n => (getLink s n).sched
  | .eth n => (getEth s n).sched
  | .mov _ => {}

def modSched (s : State) (g : GPlace) (f : Sched → Sched) : State :=
  match g with
  | .llk n => modLink s n (fun l => { l with sched := f l.sched })
  | .eth n => modEth s n (fun l => { l with sched := f l.sched })
  | .mov _ => s

def schSp (s : State) (g : GPlace) (k : Nat) : Bool := gReg s g (shpOff k + 8) 8 8 == 1
def schWt (s : State) (g : GPlace) (k : Nat) : Nat := gReg s g (shpOff k + 8) 7 0

/-- F of the head packet of class k, from its counted length when it is not yet fixed (R530). -/
def schFin (s : State) (g : GPlace) (k len : Nat) : Rat :=
  let c := getSched s g
  match c.fh.find? (fun e => e.1 == k) with
  | some e => e.2
  | none => max c.v (tabGet 0 c.ft k) + (len : Rat) / ((schWt s g k : Nat) : Rat)

/-- F of every head is fixed as it becomes the head, and kept while it is (R530, R531); with no class of SP = 0 that holds
a packet V and every Ft return to 0 (R531). -/
def schFix (s : State) (g : GPlace) (heads : List (Nat × Nat)) : State :=
  let hs := heads.filter (fun h => !schSp s g h.1)
  if hs.isEmpty then modSched s g (fun _ => {})
  else modSched s g (fun c => { c with fh := hs.foldl (fun t h => tabPut t h.1 (schFin s g h.1 h.2)) [] })

/-- A class is eligible with a head packet of counted length len (R528). -/
def eligible (s : State) (g : GPlace) (k len : Nat) : Bool :=
  gatePass s g k (egTx g len) && (!shpEn s g k || 0 ≤ shpCred s g k)

/-- The smallest F among classes with SP = 0, ties to the lower class (R530). -/
def schLeast (s : State) (g : GPlace) : List (Nat × Nat) → Option (Nat × Nat) → Option (Nat × Nat)
  | [], b => b
  | h :: r, none => schLeast s g r (some h)
  | h :: r, some b => schLeast s g r (if schFin s g h.1 h.2 < schFin s g b.1 b.2 then some h else some b)

/-- The class whose packet starts next, among the waiting heads in rising class order (R529, R530). -/
def egPick (s : State) (g : GPlace) (heads : List (Nat × Nat)) : Option (Nat × Nat) :=
  let el := heads.filter (fun h => eligible s g h.1 h.2)
  match (el.filter (fun h => schSp s g h.1)).getLast? with
  | some h => some h
  | none => schLeast s g el none

/-- A packet of class k starts: gate, credit, finish times (R512, R523, R530). -/
def egStart (s : State) (g : GPlace) (k len : Nat) : State :=
  let s1 := gateStart s g k (egTx g len)
  let s2 := if shpEn s g k then shpSet s1 g k (shpCred s g k - ((len * credUnit : Nat) : Int)) else s1
  if schSp s g k then s2
  else
    let f := schFin s g k len
    modSched s2 g (fun c => { ft := tabPut c.ft k f, fh := tabDel c.fh k, v := f })

/-! ## Meters (R534 to R544) -/

def getMtr (s : State) (g : GPlace) (i : Nat) : Meter :=
  match g with
  | .llk n => tabGet {} (getLink s n).mtr i
  | .eth n => tabGet {} (getEth s n).mtr i
  | .mov _ => {}

def setMtr (s : State) (g : GPlace) (i : Nat) (m : Meter) : State :=
  match g with
  | .llk n => modLink s n (fun l => { l with mtr := tabPut l.mtr i m })
  | .eth n => modEth s n (fun l => { l with mtr := tabPut l.mtr i m })
  | .mov _ => s

def Meter.mode (m : Meter) : Nat := fld m.d0 1 0
def Meter.aware (m : Meter) : Bool := fld m.d0 2 2 == 1
def Meter.cir (m : Meter) : Nat := fld m.d0 31 12
def Meter.cbs (m : Meter) : Nat := fld m.d1 23 0 * credUnit
def Meter.pir (m : Meter) : Nat := fld m.d2 19 0
def Meter.ebs (m : Meter) : Nat := fld m.d3 23 0 * credUnit

/-- Buckets refilled up to now: RFC 2697 fills C and then E at CIR; RFC 2698 fills C at CIR and P at PIR (R536). -/
def Meter.refill (m : Meter) (now : Nat) : Meter :=
  let dt := now - m.at_
  let got := m.cir * dt
  let c := min m.cbs (m.cTok + got)
  if m.mode = 1 then { m with cTok := c, eTok := min m.ebs (m.eTok + (got - (c - m.cTok))), at_ := now }
  else { m with cTok := c, eTok := min m.ebs (m.eTok + m.pir * dt), at_ := now }

/-- The colour of a counted length: 0 green, 1 yellow, 2 red, with the buckets after it (RFC 2697, RFC 2698, R536). -/
def Meter.mark (m : Meter) (b : Nat) (inCol : Nat) : Nat × Meter :=
  let need := b * credUnit
  let col := if m.aware then inCol else 0
  if m.mode = 1 then
    if col = 0 ∧ need ≤ m.cTok then (0, { m with cTok := m.cTok - need })
    else if col ≤ 1 ∧ need ≤ m.eTok then (1, { m with eTok := m.eTok - need })
    else (2, m)
  else if 2 ≤ col ∨ m.eTok < need then (2, m)
  else if col = 1 ∨ m.cTok < need then (1, { m with eTok := m.eTok - need })
  else (0, { m with cTok := m.cTok - need, eTok := m.eTok - need })

/-- A meter counts a packet of a colour (R543). -/
def Meter.count (m : Meter) (col : Nat) : Meter :=
  match col with
  | 0 => { m with green := satAdd 32 m.green 1 }
  | 1 => { m with yellow := satAdd 32 m.yellow 1 }
  | _ => { m with red := satAdd 32 m.red 1 }

/-- A counted length passes meter i: its colour. Dark packets are not counted, a frozen page counts nothing (R538,
R543, R737). -/
def meterPass (s : State) (g : GPlace) (i len inCol : Nat) (dark : Bool) : Nat × State :=
  let m := getMtr s g i
  if m.mode = 0 then (inCol, s)
  else
    let (c, m1) := (m.refill (gTime s)).mark len inCol
    (c, setMtr s g i (if dark || frozen s (gPage g) then m1 else m1.count c))

/-- A meter entry that Table 12.9 leaves undefined (R535). -/
def meterBad (d0 d2 : Word) : Bool := fld d0 1 0 == 3 || (fld d0 1 0 == 2 && fld d2 19 0 < fld d0 31 12)

end Sys2Proof.Machine
end

