-- ==== Sys2Proof/Machine/Operands.lean ====
section
/-! DEFINITION. The command word and every operand layout of it; the descriptors of CMP and MOV; the checks at issue. -/

namespace Sys2Proof.Machine

/-! ## The command word (Table 4.2) -/

def cwBits (w : CmdWord) (hi lo : Nat) : Nat := bitsOf w.toNat hi lo
def cwBit (w : CmdWord) (b : Nat) : Bool := cwBits w b b == 1
def cwOpc (w : CmdWord) : Nat := cwBits w 127 120
def cwEng (w : CmdWord) : Nat := cwBits w 119 118
def cwA (w : CmdWord) : Bool := cwBit w 117
def cwP (w : CmdWord) : Bool := cwBit w 116
def cwT (w : CmdWord) : Bool := cwBit w 115
def cwDig (w : CmdWord) : Bool := cwBit w 114
def cwLayer (w : CmdWord) : Half := BitVec.ofNat 16 (cwBits w 111 96)
def cwOper (w : CmdWord) : Half := BitVec.ofNat 16 (cwBits w 95 80)

/-- Command word i of CM (R143). -/
def cmWord (s : State) (t i : Nat) : CmdWord := BitVec.ofNat 128 (readNat s (cmKey t (16 * i)) 16)

/-- Bits [hi:lo] set. -/
def maskOf (hi lo : Nat) : Nat := (2 ^ (hi + 1 - lo) - 1) * 2 ^ lo

/-- The operand bits that the layout of an opcode names (Tables 4.3, 6.1, 6.2, 6.6, 10.3); none where the opcode is
undefined for its engine. -/
def namedBits (eng opc : Nat) : Option Nat :=
  match eng, opc with
  | 0, 0x00 => some 0
  | 0, 0x01 => some 0
  | 0, 0x02 => some (maskOf 79 69)
  | 0, 0x03 => some (maskOf 79 57 + maskOf 31 0)
  | 0, 0x04 => some (maskOf 79 77 + maskOf 31 0)
  | 0, 0x05 => some (maskOf 79 72 + maskOf 31 0)
  | 0, 0x06 => some (maskOf 79 42 + maskOf 31 0)
  | 0, 0x07 => some (maskOf 79 50 + maskOf 31 0)
  | 0, 0x08 => some (maskOf 79 37)
  | 0, 0x09 => some (maskOf 79 77)
  | 0, _ => none
  | 1, 0x01 => some (maskOf 79 32 + maskOf 17 0)
  | 1, _ =>
    if opc = 0x10 ∨ opc = 0x11 ∨ opc = 0x12 ∨ (0x20 ≤ opc ∧ opc ≤ 0x28) ∨ opc = 0x30
        ∨ (0x38 ≤ opc ∧ opc ≤ 0x3B) ∨ (0x40 ≤ opc ∧ opc ≤ 0x43) then some (maskOf 79 61 + maskOf 39 0)
    else none
  | 2, 0x01 => some (maskOf 79 74 + maskOf 47 0)
  | 2, 0x02 => some (maskOf 79 77 + maskOf 63 0)
  | 2, 0x10 => some (maskOf 79 62 + maskOf 31 0)
  | 2, 0x11 => some (maskOf 79 72 + maskOf 70 62 + maskOf 11 0)
  | 2, 0x12 => some (maskOf 79 72 + maskOf 70 62 + maskOf 15 0)
  | 2, _ => none
  | 3, 0x01 => some (maskOf 79 51)
  | 3, 0x02 => some (maskOf 79 76)
  | 3, 0x10 => some (maskOf 79 77 + maskOf 31 0)
  | 3, 0x11 => some (maskOf 79 77)
  | _, _ => none

/-- Codes that Table 4.3 to Table 4.5 leave undefined in a SEQ command (R152, R156, R157, R162, R167, Table 4.8). -/
def seqCodesBad (w : CmdWord) : Bool :=
  match cwOpc w with
  | 0x03 =>
    let cond := cwBits w 68 66
    let src := cwBits w 65 60
    4 < cond || 3 < cwBits w 59 57 || (cond == 1 && 7 < src) || (cond == 2 && 15 < src) || (cond == 3 && 7 < src)
      || (cond == 4 && src != 0)
  | 0x05 => cwBits w 73 72 == 3
  | 0x07 => 3 < cwBits w 73 71 || (cwBit w 70 && cwBits w 73 71 != 3)
  | 0x08 => cwBits w 79 64 == 0
  | _ => false

/-- What R152 and R155 fault with BADCMD at issue. -/
def cwBad (w : CmdWord) : Bool :=
  cwBits w 113 112 != 0
    || ((cwA w || cwP w) && !(cwEng w == 0 && (cwOpc w == 2 || cwOpc w == 3)))
    || (cwDig w && cwEng w != 1)
    || (match namedBits (cwEng w) (cwOpc w) with
        | none => true
        | some m => (w.toNat % 2 ^ 80) &&& (2 ^ 80 - 1 - m) != 0)
    || (cwEng w == 0 && seqCodesBad w)

/-- The relations of R156, unsigned on 32 bits. -/
def relHolds (rel : Nat) (a b : Word) : Bool :=
  match rel with
  | 0 => a == b
  | 1 => a != b
  | 2 => a.toNat < b.toNat
  | _ => b.toNat ≤ a.toNat

/-! ## CMP operands (Table 6.2) -/

def cmpDtd (w : CmdWord) : Nat := cwBits w 79 77
def cmpAtd (w : CmdWord) : Nat := cwBits w 76 74
def cmpBtd (w : CmdWord) : Nat := cwBits w 73 71
def cmpRnd (w : CmdWord) : Nat := cwBits w 70 69
def cmpSat (w : CmdWord) : Bool := cwBit w 68
def cmpCse (w : CmdWord) : Bool := cwBit w 67
def cmpCsem (w : CmdWord) : Nat := cwBits w 66 61
def cmpImm1 (w : CmdWord) : Nat := cwBits w 39 32
def cmpImm0 (w : CmdWord) : Nat := cwBits w 31 0

/-- A tensor descriptor (Table 6.1). -/
structure Td where
  base : Nat
  ty : Nat
  rows : Nat
  cols : Nat
  pitch : Nat
  deriving DecidableEq, Repr

def tdOff (lc k : Nat) : Nat := 0x100 + lc * 0x80 + k * 0x10

/-- Descriptor k of a context, none while invalid (R252). -/
def getTd (s : State) (t lc k : Nat) : Option Td :=
  let o := tdOff lc k
  if rbit s (.cmp t) o 31 then
    some ⟨rfld s (.cmp t) o 17 0, rfld s (.cmp t) o 20 18, rfld s (.cmp t) (o + 4) 11 0,
      rfld s (.cmp t) (o + 4) 27 16, rfld s (.cmp t) (o + 8) 17 0⟩
  else none

/-- Bytes of an element (Table 6.1). -/
def tySize (ty : Nat) : Nat :=
  match ty with
  | 0 => 4
  | 1 => 2
  | 2 => 2
  | 6 => 4
  | _ => 1

/-- End of the TM extent of a descriptor (R253). -/
def Td.stop (d : Td) : Nat := d.base + (d.rows - 1) * d.pitch + d.cols * tySize d.ty

/-! ## MOV operands (Table 6.6) -/

/-- An address descriptor (Table 6.5). -/
structure Mad where
  space : Nat
  ainc : Bool
  addr : Nat
  node : Word
  rect : Word
  deriving DecidableEq, Repr

def madOff (lc k : Nat) : Nat := 0x400 + lc * 0x100 + k * 0x20

def getMad (s : State) (t lc k : Nat) : Mad :=
  let o := madOff lc k
  ⟨rfld s (.mov t) o 1 0, rbit s (.mov t) o 2, pairNat s (.mov t) (o + 4), rawReg s (.mov t) (o + 0xC),
    rawReg s (.mov t) (o + 0x10)⟩

def putMadAddr (s : State) (t lc k a : Nat) : State :=
  let o := madOff lc k
  putReg (putReg s (.mov t) (o + 4) (BitVec.ofNat 32 a)) (.mov t) (o + 8) (BitVec.ofNat 32 (a / 2 ^ 32 % 65536))

def movSmad (w : CmdWord) : Nat := cwBits w 79 77
def movDmad (w : CmdWord) : Nat := cwBits w 76 74
def movIq (w : CmdWord) : Nat := cwBits w 73 72
def movAck (w : CmdWord) : Bool := cwBit w 71
def movRty (w : CmdWord) : Nat := cwBits w 70 69
def movCse (w : CmdWord) : Bool := cwBit w 68
def movCsem (w : CmdWord) : Nat := cwBits w 67 62

/-- Bytes that a COPY, MSG or CONTRIB moves (Table 6.6). -/
def movLen (w : CmdWord) : Nat :=
  match cwOpc w with
  | 0x10 => cwBits w 31 0
  | 0x11 => cwBits w 11 0
  | _ => cwBits w 12 0 * tySize (cwBits w 15 13)

/-- A SIG that SEQ placed in the MOV queue (R198). -/
def isSig (w : CmdWord) : Bool := cwEng w == 0

/-- A request that the injecting router refuses with NAK(MALFORMED) (R335, R341, R398). -/
def injectBad (s : State) (p : Packet) : Bool :=
  !isRsp p &&
    (nodeForm p.dst || (nodeBad s p.dst && nodePkg p.dst == ownPkg s)
      || (p.mc &&
          (let r := rectOf p.aux
           (p.opc != opWR && p.opc != opMSG && p.opc != opCRES) || r.x1 < r.x0 || r.y1 < r.y0
             || nodePkg p.dst != ownPkg s || gridX s ≤ r.x0 || gridX s ≤ r.x1 || gridY s ≤ r.y0 || gridY s ≤ r.y1)))

/-! ## CMB operands (Table 10.3) -/

def cmbRq (w : CmdWord) : Nat := cwBits w 79 76
def cmbDst (w : CmdWord) : Nat := cwBits w 75 58
def cmbCse (w : CmdWord) : Bool := cwBit w 57
def cmbCsem (w : CmdWord) : Nat := cwBits w 56 51
def cmbCq (w : CmdWord) : Nat := cwBits w 79 77
def cmbK (w : CmdWord) : Nat := cwBits w 31 0

end Sys2Proof.Machine
end

