-- ==== Sys2Proof/Machine/MovOps.lean ====
section
/-! DEFINITION. What MOV does with a command: regions, checks, packets, injection queues, the posted-error log,
answers, tentative reads and reservations, commit and squash. -/

namespace Sys2Proof.Machine

/-! ## Semaphores (R157 to R160) -/

def semOff (i : Nat) : Nat := 0x400 + 4 * i
def getSem (s : State) (t i : Nat) : Word := rawReg s (.seq t) (semOff i)
def lcStat (lc : Nat) : Nat := 0x108 + 0x40 * lc

/-- A semaphore operation: 0 SET, 1 ADD, 2 SUB, saturating with SEMSAT of context lc (R157, R158). -/
def semOp (s : State) (t lc i op : Nat) (v : Word) : State :=
  let a := (getSem s t i).toNat
  let sat := (op == 1 && 2 ^ 32 ≤ a + v.toNat) || (op == 2 && a < v.toNat)
  let r := match op with
    | 0 => v.toNat
    | 1 => min (a + v.toNat) (2 ^ 32 - 1)
    | _ => a - v.toNat
  let s1 := putReg s (.seq t) (semOff i) (BitVec.ofNat 32 r)
  if sat then putBit s1 (.seq t) (lcStat lc) 4 true else s1

/-! ## Counters of the TENT set (R749) -/

/-- A DBG counter of a tile that an engine page's PG_PERF_CTL.TENT runs (R724, R749). -/
def tentCount (s : State) (t off n : Nat) : State :=
  if rbit s (.mov t) 0x060 2 && enabled s (.dbg t) then workCount s (.dbg t) off 31 0 n else s

/-! ## The posted-error log (R283, R284) -/

/-- A failure of a command of context lc: FAIL, and an entry or OVF; dark commands leave no sillage entry (R422). -/
def pelAdd (s : State) (t lc : Nat) (tag layer oper : Half) (reason : Nat) (node : Word) (dark : Bool) : State :=
  let p := Page.mov t
  let s1 := putBit s p (0x0A0 + 4 * lc) 0 true
  let n := rfld s1 p 0x088 4 0
  let note (s : State) (bits : Word) : State :=
    captureCore dark s p 0x10 tag layer oper (BitVec.ofNat 32 reason) (some 1) bits
  if 16 ≤ n then note (putBit s1 p 0x088 5 true) (isrMask 1)
  else
      let o := 0x200 + 0x10 * n
      let a := putReg s1 p o (BitVec.ofNat 32 (tag.toNat % 16384 + lc * 2 ^ 14 + lc * 2 ^ 22 + reason * 2 ^ 24))
      let a := putFld a p o 15 0 tag.toNat
      let b := putReg a p (o + 4) (BitVec.ofNat 32 (layer.toNat * 65536 + oper.toNat))
      let c := putReg (putReg b p (o + 8) node) p (o + 12) (BitVec.ofNat 32 (nsAt s p))
      let d := note (putFld c p 0x088 4 0 (n + 1)) (isrMask 0)
      if dark then d else sillage d p 0x32 false layer oper (BitVec.ofNat 32 reason)

/-! ## Regions (Table 6.8) -/

/-- Leases of the TIL page (Table 7.2). -/
def leaseState (s : State) (t i : Nat) : Nat := rfld s (.til t) (0x100 + 4 * i) 2 1
def leaseNode (s : State) (t i : Nat) : Word :=
  mkNode (ownPkg s) (tileY t) (rfld s (.til t) (0x100 + 4 * i) 22 16) 0 0
def leaseBase (s : State) (t i : Nat) : Nat := rfld s (.til t) (0x100 + 4 * i) 9 8 * 0x10000

/-- Where an offset of the local window lies: the own memories, or the TM of a lender (R272, R306). -/
inductive LocalAt where
  | own (stop : Nat)
  | leased (node : Word) (addr stop : Nat)
  deriving DecidableEq, Repr

def localAt (s : State) (t a : Nat) : Option LocalAt :=
  if a < 0x30000 then some (.own 0x30000)
  else if a < 0x60000 then
    let i := (a - 0x30000) / 0x10000
    let o := (a - 0x30000) % 0x10000
    if leaseState s t i = 2 then some (.leased (leaseNode s t i) (leaseBase s t i + o) (leaseBase s t i + 0x10000))
    else none
  else if 0x80000 ≤ a ∧ a < 0x88000 then some (.own 0x88000)
  else none

/-- A side of a transfer as MOV sees it after R306: what kind, its address and the end of its region. -/
inductive Side where
  | loc (a stop : Nat)
  | lease (node : Word) (a stop : Nat)
  | tm (node : Word) (a stop : Nat)
  | reg (node : Word) (a : Nat)
  | mem (pkg a stop : Nat)
  | mcast (node rect : Word) (a stop : Nat)
  | queue (node rect : Word) (mc : Bool) (a : Nat)
  | hole (space : Nat)
  | bad
  deriving DecidableEq, Repr

/-- End of the MEM region of a package (Table 6.8). -/
def memStop (s : State) (t pkg : Nat) : Nat :=
  if pkg = ownPkg s then pairNat s (.mov t) 0x08C
  else pairNat s (.mov t) 0x094

/-- A descriptor as a side of a COPY (Tables 6.5, 6.7, 6.8). -/
def sideOf (s : State) (t : Nat) (m : Mad) : Side :=
  match m.space with
  | 0 => match localAt s t m.addr with
    | some (.own e) => .loc m.addr e
    | some (.leased n a e) => .lease n a e
    | none => .hole 0
  | 1 =>
    if nodeEp m.node = 0 ∧ nodeKind m.node = 0 then (if m.addr < 0x30000 then .tm m.node m.addr 0x30000 else .hole 1)
    else if nodeEp m.node = 1 then .reg m.node m.addr
    else .bad
  | 2 =>
    let e := memStop s t (nodePkg m.node)
    if m.addr < e then .mem (nodePkg m.node) m.addr e else .hole 2
  | _ =>
    if nodeEp m.node = 0 then (if m.addr < 0x30000 then .mcast m.node m.rect m.addr 0x30000 else .hole 3) else .bad

/-- The destination of a MSG or a CONTRIB (Table 6.7). -/
def queueSide (m : Mad) (lo hi : Nat) (mcOk : Bool) : Side :=
  let ep := nodeEp m.node
  if lo ≤ ep ∧ ep ≤ hi ∧ (m.space = 1 ∨ (m.space = 3 ∧ mcOk)) then .queue m.node m.rect (m.space == 3) m.addr else .bad

def Side.isHole : Side → Bool
  | .hole _ => true
  | _ => false

/-- The space that a hole was named in, or that a side lies in: 0 own memories, 1 TM of a tile, 2 REG, 3 MEM, 4 MCAST,
5 queue, 6 none. -/
def Side.space : Side → Nat
  | .loc _ _ => 0
  | .lease _ _ _ => 1
  | .tm _ _ _ => 1
  | .reg _ _ => 2
  | .mem _ _ _ => 3
  | .mcast _ _ _ _ => 4
  | .queue _ _ _ _ => 5
  | .hole 0 => 0
  | .hole 1 => 1
  | .hole 2 => 3
  | .hole _ => 4
  | .bad => 6

/-- A side reached through a lease window (R306). -/
def Side.isLease : Side → Bool
  | .lease _ _ _ => true
  | _ => false

/-- The space of a side in the pairs of Table 6.7: a lease window is part of LOCAL. -/
def Side.pairSpace (d : Side) : Nat := if d.isLease then 0 else d.space

/-- How a COPY moves its data, by the spaces of its two sides (Table 6.7). -/
def copyKind (a b : Nat) (ack : Bool) : Option MovKind :=
  match a, b with
  | 0, 0 => some .write
  | 0, 1 => some (if ack then .wra else .write)
  | 0, 2 => some .regWrite
  | 0, 3 => some (if ack then .wra else .write)
  | 0, 4 => if ack then none else some .multicast
  | 1, 0 => some .read
  | 2, 0 => some .regRead
  | 3, 0 => some .read
  | 3, 4 => if ack then none else some .staged
  | _, _ => none

/-- End of a side's region, none where it has none. -/
def Side.stop : Side → Option Nat
  | .loc _ e => some e
  | .lease _ _ e => some e
  | .tm _ _ e => some e
  | .mem _ _ e => some e
  | .mcast _ _ _ e => some e
  | _ => none

def Side.addr : Side → Nat
  | .loc a _ => a
  | .lease _ a _ => a
  | .tm _ a _ => a
  | .reg _ a => a
  | .mem _ a _ => a
  | .mcast _ _ a _ => a
  | .queue _ _ _ a => a
  | _ => 0

def Side.node : Side → Word
  | .lease n _ _ => n
  | .tm n _ _ => n
  | .reg n _ => n
  | .mem pkg _ _ => BitVec.ofNat 32 (pkg * 2 ^ 22)
  | .mcast n _ _ _ => n
  | .queue n _ _ _ => n
  | _ => 0

def Side.rect : Side → Word
  | .mcast _ r _ _ => r
  | .queue _ r _ _ => r
  | _ => 0

/-- A transfer of n bytes from the side stays inside its region. -/
def Side.fits (d : Side) (n : Nat) : Bool :=
  match d.stop with
  | some e => d.addr + n ≤ e
  | none => true

/-- What a pair of Table 6.7 becomes where a side lies in a lease window, whose accesses are accesses to the lender's TM
(R306): the kind, and what a staged command sends with the data it fetches. A read into the window goes on to the lender
as a write; data that leaves the window for anywhere but the own memories is fetched first (log 68). -/
def viaLease (src dst : Side) (k : MovKind) (ack : Bool) (n : Nat) : MovKind × MovKind :=
  let out : MovKind := if dst.isLease then (if ack && src.pairSpace == 0 then .wra else .write) else k
  if n = 0 then (k, k)
  else if src.isLease then (if dst.space = 0 then (.read, k) else (.staged, out))
  else if dst.isLease then (if src.space = 0 then (out, out) else (.staged, .write))
  else (k, .multicast)

/-- A refusal under R271, or the sides and kind of an accepted command. -/
inductive MovPlan where
  | refuse (reason : Nat)
  | go (kind : MovKind) (src dst : Side)
  deriving DecidableEq, Repr

def rsBADMAD : Nat := 0x12
def rsBADOPND : Nat := 0x13

/-- Bytes by which started tentative commands of a context will advance a descriptor when they commit (R218, R276). -/
def heldInc (x : Tile) (lc k : Nat) : Nat :=
  (((x.movOut ++ x.movCur.toList).filter (fun c => c.tent && c.cmd.lc == lc && c.inc.contains k)).map
    (fun c => movLen c.cmd.word)).sum

/-- A descriptor as a command samples it when it starts (R268). -/
def madNow (s : State) (t lc k : Nat) : Mad :=
  let m := getMad s t lc k
  { m with addr := (m.addr + heldInc (getTile s t) lc k) % 2 ^ 48 }

/-- The source of a COPY, MSG or CONTRIB, its destination, and its kind by Table 6.7 (none: no accepted pair). -/
def movPair (s : State) (t lc : Nat) (w : CmdWord) : Side × Side × Option MovKind :=
  let src := sideOf s t (madNow s t lc (movSmad w))
  let dm := madNow s t lc (movDmad w)
  let queue (d : Side) (k : MovKind) : Side × Side × Option MovKind :=
    (src, d, if src.pairSpace = 0 ∧ d.space = 5 then some k else none)
  match cwOpc w with
  | 0x10 => (src, sideOf s t dm, copyKind src.pairSpace (sideOf s t dm).pairSpace (movAck w))
  | 0x11 => queue (queueSide dm 0x10 0x1F true) .msg
  | _ => queue (queueSide dm 0x08 0x0F false) .contrib

/-- The checks of R271 in their order, for a COPY, MSG or CONTRIB of a context (R266, R267, R271 to R273, R287). -/
def movPlan (s : State) (t lc : Nat) (w : CmdWord) : MovPlan :=
  let n := movLen w
  let (src, dst, kind) := movPair s t lc w
  match kind with
  | none => .refuse rsBADMAD
  | some k =>
    if movRty w = 3 ∨ (cwOpc w = 0x12 ∧ cwBits w 15 13 = 7) then .refuse rsBADOPND
    else if src.isHole ∨ dst.isHole then .refuse nkHOLE
    else if (k = .regRead ∧ (n ≠ 4 ∨ src.addr % 4 ≠ 0)) ∨ (k = .regWrite ∧ (n ≠ 4 ∨ dst.addr % 4 ≠ 0)) then .refuse nkWINDOW
    else if cwOpc w = 0x11 ∧ 2048 < n then .refuse nkWINDOW
    else if cwOpc w = 0x12 ∧ (4096 < cwBits w 12 0 ∨ 4096 < dst.addr + cwBits w 12 0) then .refuse nkWINDOW
    else if src.fits n = false ∨ dst.fits n = false then .refuse nkWINDOW
    else .go (viaLease src dst k (movAck w) n).1 src dst

/-- Table 5.1: whether a tentative command may act before it commits, by the kind it has at the head of the queue (R219,
R826): a read into the own TM, a unicast MSG, a CONTRIB. -/
def tentMayAct (s : State) (t lc : Nat) (w : CmdWord) : Bool :=
  let (_, dst, kind) := movPair s t lc w
  match kind with
  | some .read => dst.space == 0 && dst.stop == some 0x30000
  | some .write => (movPair s t lc w).1.isLease && dst.space == 0 && dst.stop == some 0x30000
  | some .msg => !(match dst with | .queue _ _ mc _ => mc | _ => true)
  | some .contrib => true
  | _ => false

/-! ## Tags and requests -/

/-- TAGs in use by a tile: outstanding, timed out, or held by a reservation (R227, R277, R702). -/
def tagUsed (x : Tile) (tag : Half) : Bool :=
  x.movReqs.any (fun r => r.tag == tag) || x.srcResvs.any (fun r => r.tag == tag) || x.stageQ.any (fun r => r.tag == tag)

/-- The first free TAG of a context from a start (R277). -/
def freeTagFrom (x : Tile) (lc : Nat) : Nat → Nat → Nat
  | 0, n => n
  | f + 1, n => if tagUsed x (BitVec.ofNat 16 (lc * 16384 + n % 16384)) then freeTagFrom x lc f (n + 1) else n

/-- TAGs of a context that are in use or promised: 2 for a staged read, whose data may leave in two packets, 8 for a
reservation, whose payload has at most 8 packets (log 68). -/
def tagLoad (x : Tile) (lc : Nat) : Nat :=
  let mine (tag : Half) : Bool := tag.toNat / 16384 == lc
  ((x.movReqs.filter (fun r => mine r.tag)).map (fun r => if r.stage then 2 else 1)).sum
    + (x.stageQ.filter (fun r => mine r.tag)).length + 8 * (x.srcResvs.filter (fun r => mine r.tag)).length

/-- A context has n TAGs to spare, so that none is reused before its packet is answered (R277). -/
def tagSpare (x : Tile) (lc n : Nat) : Bool := tagLoad x lc + n ≤ 16384

/-- A TAG for a new packet of a context, with bits [15:14] the context (R277). -/
def newTag (s : State) (t lc : Nat) : Half × State :=
  let x := getTile s t
  let n := freeTagFrom x lc (x.movReqs.length + x.srcResvs.length + x.stageQ.length) x.nextTag
  (BitVec.ofNat 16 (lc * 16384 + n % 16384), modTile s t (fun x => { x with nextTag := (n + 1) % 16384 }))

/-- TC of packets of an injection queue (R331). -/
def iqTc (s : State) (t q : Nat) : BitVec 3 := BitVec.ofNat 3 (rfld s (.rtr t) 0x088 (4 * q + 2) (4 * q))

def iqOf (x : Tile) (q : Nat) : List Packet := (x.iq[q]?).getD []
def iqRoom (s : State) (t q : Nat) : Bool := (iqOf (getTile s t) q).length < 8

/-- A packet enters an injection queue (R291, R292). -/
def iqPush (s : State) (t q : Nat) (p : Packet) : State :=
  modTile s t (fun x => { x with iq := listMod x.iq q (· ++ [p]) })

/-- Bytes that the TRB holds or has reserved (R221, R226). -/
def trbUsed (x : Tile) : Nat :=
  let tentCmd (id : Nat) : Bool :=
    x.movOut.any (fun c => c.id == id && c.tent) || x.movCur.any (fun c => c.id == id && c.tent)
  ((x.movReqs.filter (fun r => r.kind == .rd && r.pkt.tent && (r.sink || tentCmd r.cmd))).map (·.bytes)).sum

/-- Bytes of the staging buffer in use: reads outstanding and multicasts not yet queued (Table 6.7). -/
def stageUsed (x : Tile) : Nat :=
  ((x.movReqs.filter (fun r => r.stage && r.kind == .rd)).map (·.bytes)).sum
    + (x.stageQ.map (·.bytes)).sum
    + ((x.movCur.toList ++ x.movOut).map (fun c => (c.buf.map (·.2.length)).sum)).sum

/-! ## Cutting a command into packets (R275, R432, R438) -/

/-- Flits read from memory key k, with POI on those that carry an uncorrectable unit (Table 17.4). -/
def poiFlits (s : State) (k s0 n : Nat) (fl : List Flit) : List Flit :=
  fl.mapIdx (fun i f =>
    let lo := if i = 0 then k else k - s0 + 32 * i
    let hi := min (k + n) (k - s0 + 32 * (i + 1))
    { f with poi := f.poi || anyUE s lo (hi - lo) })

/-- A packet whose payload is n bytes at key k of the tile's memories. -/
def loadPayload (s : State) (p : Packet) (k n : Nat) : Packet :=
  let q := withPayload p (readMem s k n)
  { q with data := poiFlits s k (firstByte p) n q.data }

/-- The part of a started command that comes next: bytes (elements for CONTRIB) of the next packet. -/
def nextChunk (c : MovCmd) : Nat :=
  match c.kind with
  | .contrib => min (c.total - c.cut) (2048 / tySize (cwBits c.cmd.word 15 13))
  | .msg => c.total
  | .regRead | .regWrite => 4
  | .signal => 0
  | .read | .staged => if c.reg then 4 else min (c.total - c.cut) (2048 - (c.src + c.cut) % 2048)
  | _ => min (c.total - c.cut) (2048 - (c.dst + c.cut) % 2048)

/-- The destination node of the packet at an offset: the memory edge of the address for MEM (R354). -/
def chunkNode (s : State) (c : MovCmd) (a : Nat) : Word :=
  if c.mem then memNodeOf s (nodePkg c.node) a else c.node

/-- The header fields that every packet of a command shares (R331). -/
def cmdHdr (s : State) (t q : Nat) (w : CmdWord) (tag : Half) : Packet :=
  { src := tileNode s t 0, tag := tag, layer := cwLayer w, oper := cwOper w, tc := iqTc s t q }

/-- What a command sends, and to which NODE: of a staged one, what it sends once it has fetched its data. -/
def MovCmd.sends (c : MovCmd) : MovKind := if c.kind = .staged then c.fin else c.kind
def MovCmd.toNode (c : MovCmd) : Word := if c.kind = .staged then c.dnode else c.node

/-- The destination node of a packet to an address: the memory edge for MEM (R354). -/
def sendNode (s : State) (c : MovCmd) (a : Nat) : Word :=
  if c.dmem then memNodeOf s (nodePkg c.toNode) a else c.toNode

/-- DST of a multicast: X0, Y0 and KIND 0b00 of the rectangle, PKG and ENDPOINT of the descriptor's NODE (R340). -/
def mcNode (node : Word) (r : Rect) : Word := mkNode (nodePkg node) r.y0 r.x0 0 (nodeEp node)

/-- Header of the packet that carries n bytes from byte o of what a command sends (Tables 6.7, 8.5, 10.5). -/
def sendHdr (s : State) (h : Packet) (c : MovCmd) (o n : Nat) : Packet :=
  let a := c.dst + o
  match c.sends with
  | .wra => { h with opc := opWRA, dst := sendNode s c a, addr := BitVec.ofNat 48 a }
  | .multicast => { h with opc := opWR, dst := mcNode c.toNode (rectOf c.rect), mc := true, aux := c.rect, addr := BitVec.ofNat 48 a }
  | .regWrite => { h with opc := opREGWR, dst := c.toNode, addr := BitVec.ofNat 48 c.dst }
  | .msg => if c.mc then { h with opc := opMSG, dst := mcNode c.toNode (rectOf c.rect), mc := true, aux := c.rect }
    else { h with opc := opMSG, dst := c.toNode, aux := BitVec.ofNat 32 n }
  | .contrib =>
    let ty := cwBits c.cmd.word 15 13
    { h with opc := opCONTRIB, dst := c.toNode, aux := BitVec.ofNat 32 ((c.dst + o / tySize ty) % 4096 + ty * 4096 + n / tySize ty * 65536) }
  | _ => { h with opc := opWR, dst := sendNode s c a, addr := BitVec.ofNat 48 a }

/-- How a packet that a command sends is answered, and by how many tiles (R278, R378). -/
def sendKind (c : MovCmd) : ReqKind :=
  match c.sends with
  | .wra => .wra
  | .regWrite => .regwr
  | _ => .posted
def sendWant (c : MovCmd) : Nat :=
  match c.sends with
  | .multicast => (rectOf c.rect).count
  | .msg => if c.mc then (rectOf c.rect).count else 1
  | _ => 1

/-- The request for the next part of a command (Tables 6.7, 8.5, 10.5). -/
def mkReq (s : State) (t : Nat) (c : MovCmd) (tag : Half) : MovReq :=
  let w := c.cmd.word
  let q := if c.kind = .signal then 0 else movIq w
  let h := cmdHdr s t q w tag
  let n := nextChunk c
  let base : MovReq := { tag := tag, cmd := c.id, lc := c.cmd.lc, kind := .posted, pkt := h, iq := q, lease := c.lease }
  match c.kind with
  | .read => { base with kind := .rd, land := c.dst + c.cut, bytes := n, pkt := { h with opc := opRD, tent := c.tent, dst := chunkNode s c (c.src + c.cut), addr := BitVec.ofNat 48 (c.src + c.cut), aux := BitVec.ofNat 32 n } }
  | .staged =>
    if c.reg then { base with kind := .regrd, stage := true, land := 0, bytes := 4, pkt := { h with opc := opREGRD, dst := c.node, addr := BitVec.ofNat 48 c.src } }
    else { base with kind := .rd, stage := true, land := c.cut, bytes := n, pkt := { h with opc := opRD, dst := chunkNode s c (c.src + c.cut), addr := BitVec.ofNat 48 (c.src + c.cut), aux := BitVec.ofNat 32 n } }
  | .regRead => { base with kind := .regrd, land := c.dst, bytes := 4, pkt := { h with opc := opREGRD, dst := c.node, addr := BitVec.ofNat 48 c.src } }
  | .regWrite => { base with kind := .regwr, pkt := loadPayload s (sendHdr s h c 0 4) (tmKey t c.src) 4 }
  | .msg => { base with want := sendWant c, pkt := if n = 0 then sendHdr s h c 0 0 else loadPayload s (sendHdr s h c 0 n) (tmKey t c.src) n }
  | .contrib =>
    let z := tySize (cwBits w 15 13)
    { base with pkt := loadPayload s (sendHdr s h c (c.cut * z) (n * z)) (tmKey t (c.src + c.cut * z)) (n * z) }
  | .signal => { base with pkt := { h with opc := opSIGNAL, dst := BitVec.ofNat 32 (cwBits w 79 48), addr := BitVec.ofNat 48 (cwBits w 47 42), aux := BitVec.ofNat 32 (cwBits w 31 0) } }
  | _ => { base with kind := sendKind c, want := sendWant c, pkt := loadPayload s (sendHdr s h c c.cut n) (tmKey t (c.src + c.cut)) n }

/-- The bytes of TM that the next packet of a command takes: their offset and number. -/
def sourceOf (c : MovCmd) : Option (Nat × Nat) :=
  match c.kind with
  | .write | .wra | .multicast => some (c.src + c.cut, nextChunk c)
  | .msg => some (c.src, c.total)
  | .contrib =>
    let z := tySize (cwBits c.cmd.word 15 13)
    some (c.src + c.cut * z, nextChunk c * z)
  | .regWrite => some (c.src, 4)
  | _ => none

/-- Dark commands leave no sillage entry (R422). -/
def movDark (w : CmdWord) : Bool := cwEng w == 2 && cwOpc w == 0x11

/-- The uncorrectable and corrected errors that reading the source of a request finds (R708, R772). -/
def readSource (s : State) (t : Nat) (c : MovCmd) : State :=
  match sourceOf c with
  | some (a, n) => (tileRead s t (tmKey t a) n (cwLayer c.cmd.word, cwOper c.cmd.word) (movDark c.cmd.word)).2
  | none => s

/-! ## Making and queueing requests -/

/-- A made request goes into its injection queue and is tracked, except a note. -/
def reqEnter (s : State) (t : Nat) (r : MovReq) : State :=
  let s1 := iqPush s t r.iq r.pkt
  if r.kind = .note then s1 else modTile s1 t (fun x => { x with movReqs := x.movReqs ++ [r] })

/-- Waiting requests enter their injection queues in order while there is room (R292). -/
def stagePump (s : State) (t : Nat) : State :=
  let q := (getTile s t).stageQ
  q.foldl (fun s r =>
    if iqRoom s t r.iq then reqEnter s t r
    else modTile s t (fun x => { x with stageQ := x.stageQ ++ [r] })) (modTile s t (fun x => { x with stageQ := [] }))

/-- The next request of a command is made: its TAG, its source read, the command advanced. -/
def cutReq (s : State) (t : Nat) (c : MovCmd) : MovReq × MovCmd × State :=
  let (tag, s1) := newTag s t c.cmd.lc
  let r := mkReq s1 t c tag
  let n := nextChunk c
  (r, { c with cut := c.cut + n, sent := c.total ≤ c.cut + n }, readSource s1 t c)

/-- Whether the command being cut may make a request now: a TAG, room in its queue, in the TRB for a tentative read
(R222), in the staging buffer. -/
def canCut (s : State) (t : Nat) (c : MovCmd) : Bool :=
  let x := getTile s t
  !c.sent && tagSpare x c.cmd.lc (if c.kind = .staged then 2 else 1) && iqRoom s t (if c.kind = .signal then 0 else movIq c.cmd.word)
    && (!(c.kind == .read && c.tent) || trbUsed x + nextChunk c ≤ 8192)
    && (!(c.kind == .staged) || stageUsed x + nextChunk c ≤ 16384)

/-- The current command has made its last request, multicasts of the staging buffer included (R268). -/
def cutDone (x : Tile) (c : MovCmd) : Bool :=
  c.sent && (c.kind != .staged || (!x.movReqs.any (fun r => r.stage && r.cmd == c.id && (r.kind == .rd || r.kind == .regrd))
    && !x.stageQ.any (fun r => r.cmd == c.id)))

/-- One step of MOV's packet maker. -/
def cutStep (s : State) (t : Nat) : State :=
  match (getTile s t).movCur with
  | none => s
  | some c =>
    if cutDone (getTile s t) c then modTile s t (fun x => { x with movCur := none, movOut := x.movOut ++ [c] })
    else if canCut s t c then
      let (r, c', s1) := cutReq s t c
      let s2 := if r.kind = .rd ∧ r.pkt.tent then tentCount (tentCount s1 t 0x610 1) t 0x61C r.bytes else s1
      reqEnter (modTile s2 t (fun x => { x with movCur := some c' })) t r
    else s

/-- The command before has injected its last request, a RESV among them (R268). -/
def movIdle (x : Tile) : Bool :=
  x.movCur.isNone && x.stageQ.isEmpty && !x.movReqs.any (fun r => r.inj.isNone && r.tries == 0 && r.due.isNone)
    && !x.srcResvs.any (fun v => v.inj.isNone)

/-- MOV may start a command: enabled, running, the previous one injected, no SRST of its page under way (R268, R386,
R728, R793, R824). -/
def movMayStart (s : State) (t : Nat) : Bool :=
  enabled s (.mov t) && !stopped s (.mov t) && !isolated s t && !rbit s (.mov t) 0x010 1 && movIdle (getTile s t)

/-- A SIG at the head of the queue becomes one SIGNAL through IQ0 (R198, R291). -/
def sigStart (s : State) (t : Nat) : State :=
  match (getTile s t).movQ with
  | q :: rest =>
    if isSig q.word ∧ movMayStart s t then
      modTile s t (fun x => { x with movQ := rest, nextCmd := x.nextCmd + 1,
                                     movCur := some { id := x.nextCmd, cmd := q, kind := .signal } })
    else s
  | [] => s

/-- MOV has requests that are neither answered nor timed out, or still makes some (Table 19.5). -/
def movOwes (x : Tile) : Bool :=
  x.movReqs.any (fun r => r.dead.isNone) || !x.srcResvs.isEmpty || !x.stageQ.isEmpty || x.movCur.isSome

/-- SRST of a MOV page ends: registers at their reset values, the posted-error log empty, the lock kept (Table 19.5). -/
def movSrstEnd (s : State) (t : Nat) : State :=
  let lk := rawReg s (.mov t) 0x018
  let st := rawReg s (.mov t) 0x014
  let s1 := putReg (putReg (resetRegs s (.mov t) 0 0x1000) (.mov t) 0x018 lk) (.mov t) 0x014 st
  modTile s1 t (fun x => { x with movQ := [], gcl := {}, iqNext := 0 })

/-- SRST of a MOV page ends once every outstanding request is answered or timed out (Table 19.5). -/
def movSrst (s : State) (t : Nat) : State :=
  if rbit s (.mov t) 0x010 1 ∧ movOwes (getTile s t) = false then movSrstEnd s t else s

/-- MOV makes what it can make. -/
def movPump (s : State) (t : Nat) : State :=
  movSrst (iter (fun s => cutStep s t) 12 (sigStart (iter (fun s => cutStep s t) 12 (stagePump s t)) t)) t

/-! ## Tentative state of a command (R186) -/

/-- Whether a command of a context is tentative: an older branch is unresolved; the delay slot of a branch with A = 0
is not tentative on account of that branch. -/
def isTent (c : Ctx) (sn : Nat) (ds : Bool) : Bool :=
  c.brs.any (fun b => b.res.isNone && b.sn < sn && !(ds && sn == b.sn + 1))

/-! ## Commit and squash (R224 to R226, Table 5.2) -/

/-- The command of a request fails (R283, R286). -/
def cmdFail (s : State) (t id : Nat) : State :=
  modTile s t (fun x => { x with
    movOut := x.movOut.map (fun c => if c.id = id then { c with failed := true } else c),
    movCur := x.movCur.map (fun c => if c.id = id then { c with failed := true } else c) })

def reqDrop (s : State) (t : Nat) (tag : Half) : State :=
  modTile s t (fun x => { x with movReqs := dropFirst (fun r => r.tag == tag) x.movReqs })

/-- Whether the request is a dark MSG (R420). -/
def reqDark (r : MovReq) : Bool := r.pkt.opc == opMSG

/-- A request fails: the posted-error log, and the command (R283). -/
def reqFail (s : State) (t : Nat) (r : MovReq) (reason : Nat) : State :=
  cmdFail (pelAdd s t r.lc r.tag r.pkt.layer r.pkt.oper reason r.pkt.dst (reqDark r)) t r.cmd

/-- One copy of a multicast fails at a tile (R378). -/
def copyFail (s : State) (t : Nat) (r : MovReq) (reason : Nat) (node : Word) : State :=
  cmdFail (pelAdd s t r.lc r.tag r.pkt.layer r.pkt.oper reason node (reqDark r)) t r.cmd

/-- A packet that a staged command sends with fetched bytes, from byte o of what it sends; with a TAG, that of its
RESV. -/
def stageOne (s : State) (t : Nat) (c : MovCmd) (tag : Option Half) (o : Nat) (bs : List Byte) : State :=
  if bs = [] then s
  else
    let (g, s1) := match tag with
      | some g => (g, s)
      | none => newTag s t c.cmd.lc
    let h := cmdHdr s1 t (movIq c.cmd.word) c.cmd.word g
    let q : MovReq := { tag := g, cmd := c.id, lc := c.cmd.lc, kind := sendKind c, iq := movIq c.cmd.word,
                        pkt := withPayload (sendHdr s1 h c o bs.length) bs, want := sendWant c, bytes := bs.length,
                        stage := true }
    modTile s1 t (fun x => { x with stageQ := x.stageQ ++ [q] })

/-- Packets that carry fetched bytes from byte o, split at the 2 KiB boundaries of the destination (R275). -/
def stageReqs (s : State) (t : Nat) (c : MovCmd) (bs : List Byte) (o : Nat) : State :=
  let n1 := min bs.length (2048 - (c.dst + o) % 2048)
  stageOne (stageOne s t c none o (bs.take n1)) t c none (o + n1) (bs.drop n1)

/-- The bytes of a buffer from offset n on, piece by piece. -/
def gather (buf : List (Nat × List Byte)) (n : Nat) : Nat → List Byte
  | 0 => []
  | f + 1 => match buf.find? (fun e => e.1 == n) with
    | some e => e.2 ++ gather buf (n + e.2.length) f
    | none => []

/-- The packets of a MSG, CONTRIB or REGWR whose data has been fetched: pieces of 2 KiB, the first with the TAG of its
RESV where it had one (R437). -/
def wholeReqs (s : State) (t : Nat) (c : MovCmd) (tag : Option Half) (bs : List Byte) (o : Nat) : Nat → State
  | 0 => s
  | f + 1 => if bs = [] then s
    else wholeReqs (stageOne s t c tag o (bs.take 2048)) t c none (bs.drop 2048) (o + 2048) f

/-- What a staged command sends leaves piece by piece as it is fetched; other transfers wait for the whole. -/
def MovCmd.bulk (c : MovCmd) : Bool := c.fin == .write || c.fin == .wra || c.fin == .multicast

/-- Fetched bytes of a staged command, from byte o of its transfer. -/
def stageIn (s : State) (t : Nat) (c : MovCmd) (bs : List Byte) (o : Nat) : State :=
  if c.bulk then stageReqs s t c bs o
  else
    let buf := c.buf ++ [(o, bs)]
    let put (s : State) (b : List (Nat × List Byte)) : State := modTile s t (fun x => { x with
      movOut := x.movOut.map (fun d => if d.id = c.id then { d with buf := b } else d)
      movCur := x.movCur.map (fun d => if d.id = c.id then { d with buf := b } else d) })
    if (buf.map (·.2.length)).sum < c.total then put s buf
    else
      let tag := ((getTile s t).srcResvs.find? (fun v => v.cmd == c.id && v.spent)).map (·.tag)
      let s1 := modTile (put s []) t (fun x => { x with srcResvs := x.srcResvs.filter (fun v => !(v.cmd == c.id && v.spent)) })
      wholeReqs s1 t c tag (gather buf 0 buf.length) 0 16

/-- The command of an id, current or out. -/
def findCmd (x : Tile) (id : Nat) : Option MovCmd :=
  (x.movCur.toList ++ x.movOut).find? (fun c => c.id == id)

/-- A committed read response is delivered: its bytes land in TM, or go to the staging buffer, or the packet fails with
POISON and writes nothing (R224, R281, R282). -/
def readLand (s : State) (t : Nat) (r : MovReq) (p : Packet) : State :=
  let s1 := reqDrop s t r.tag
  if poisoned p then reqFail s1 t r rsPOISON
  else if r.stage then
    match findCmd (getTile s t) r.cmd with
    | some c => stageIn s1 t c (payload p) r.land
    | none => s1
  else memStore s1 (tmKey t r.land) ((payload p).take r.bytes)

/-- Interval before resend number n under FIXED or DOUBLE, in ns (R289). -/
def retryIvl (s : State) (t rty n : Nat) : Nat :=
  let ivl := rfld s (.mov t) 0x080 27 8
  if rty = 2 then min (ivl * 2 ^ n) 1048575 else ivl

/-- A NAK of a committed request: a resend under R287 to R290, or a failure. Multicasts are not resent (R378). -/
def reqNak (s : State) (t : Nat) (r : MovReq) (reason : Nat) : State :=
  let rty := match findCmd (getTile s t) r.cmd with
    | some c => if isSig c.cmd.word then 0 else movRty c.cmd.word
    | none => 0
  if (reason = nkFULL ∨ reason = nkHOLD ∨ reason = nkPOLICED) ∧ rty ≠ 0 ∧ r.tries < rfld s (.mov t) 0x080 7 0
      ∧ r.pkt.mc = false then
    modTile s t (fun x => { x with movReqs := modFirst (fun q => q.tag == r.tag) (fun q => { q with due := some (eTime s + ticks (retryIvl s t rty r.tries)) }) x.movReqs })
  else reqFail (reqDrop s t r.tag) t r reason

/-- The answer that a tentative read held is acted on as a committed read would act on it (R225); the TAG of one that timed
out stays in use for its further time (R702). -/
def heldAct (s : State) (t : Nat) (r : MovReq) (p : Packet) : State :=
  if r.dead.isSome then reqFail s t r rsTIMEOUT
  else if p.opc = opRDRSP then readLand s t r p
  else if p.opc = opDEAD then reqFail (reqDrop s t r.tag) t r rsDEAD
  else reqNak s t r (fld p.aux 7 0)

/-- A packet that MOV sends of its own accord for a reservation (R231). -/
def notePkt (s : State) (t : Nat) (v : SrcResv) (w : CmdWord) (op : BitVec 8) : State :=
  let h := cmdHdr s t v.iq w v.tag
  let p : Packet := { h with opc := op, dst := v.dst, tent := op == opWDRW }
  modTile s t (fun x => { x with stageQ := x.stageQ ++
    [{ tag := v.tag, cmd := v.cmd, lc := v.lc, kind := .note, pkt := p, iq := v.iq }] })

/-- The payload packets of a committed MSG or CONTRIB, the first with the TAG of its RESV (R437). -/
def payloadReqs (s : State) (t : Nat) (c : MovCmd) (tag : Option Half) : Nat → State
  | 0 => s
  | f + 1 =>
    if c.sent then s
    else
      let (r, c', s1) := cutReq s t c
      let r' := match tag with
        | some g => { r with tag := g, pkt := { r.pkt with tag := g } }
        | none => r
      payloadReqs (modTile s1 t (fun x => { x with stageQ := x.stageQ ++ [r'] })) t c' none f

def outMod (s : State) (t id : Nat) (f : MovCmd → MovCmd) : State :=
  modTile s t (fun x => { x with
    movOut := x.movOut.map (fun c => if c.id = id then f c else c),
    movCur := x.movCur.map (fun c => if c.id = id then f c else c) })

/-- The source side of a reservation ends and the payload goes (Table 5.2, R242), after its data has been fetched where
it lies in a lease window. -/
def resvSend (s : State) (t : Nat) (c : MovCmd) (v : SrcResv) : State :=
  let s1 := if v.st = .granted then notePkt s t v c.cmd.word opCONF else s
  let s2 := if c.kind = .staged then
      payloadReqs (modTile s1 t (fun x => { x with
        srcResvs := x.srcResvs.map (fun u => if u.tag = v.tag then { u with spent := true } else u) })) t c none 16
    else payloadReqs (modTile s1 t (fun x => { x with srcResvs := x.srcResvs.filter (fun u => u.tag != v.tag) })) t c (some v.tag) 16
  outMod s2 t c.id (fun c => { c with sent := true, cut := c.total })

/-- The descriptors of a command that have AINC, each once (R276; log 28). -/
def incOf (s : State) (t lc : Nat) (w : CmdWord) : List Nat :=
  ([movSmad w, movDmad w].dedup).filter (fun k => (getMad s t lc k).ainc)

/-- ADDR of descriptors advances by the bytes of a transfer (R276). -/
def aincAll (s : State) (t lc n : Nat) (ks : List Nat) : State :=
  ks.foldl (fun s k => putMadAddr s t lc k (((getMad s t lc k).addr + n) % 2 ^ 48)) s

/-- A tentative command of MOV commits (R218, R224, R225, Table 5.2, R823); requests not yet sent go out with
TENT = 0. -/
def movCommit (s0 : State) (t : Nat) (c : MovCmd) : State :=
  let s := aincAll s0 t c.cmd.lc (movLen c.cmd.word) c.inc
  let s1 := outMod s t c.id (fun c => { c with tent := false, inc := [] })
  let c1 := { c with tent := false, inc := [] }
  if c.refusal ≠ 0 then
    cmdFail (pelAdd s1 t c.cmd.lc 0 (cwLayer c.cmd.word) (cwOper c.cmd.word) c.refusal 0 (movDark c.cmd.word)) t c.id
  else match c.kind with
  | .read =>
    let x := getTile s1 t
    let mine := x.movReqs.filter (fun r => r.cmd == c.id)
    let held := mine.filterMap (fun r => (x.trb.find? (fun e => e.tag == r.tag)).map (fun e => (r, e.pkt)))
    let unsent (p : Packet) : Bool := p.opc == opRD && nodeEp p.src == 0 && mine.any (fun r => r.tag == p.tag && r.inj.isNone)
    let s2 := modTile s1 t (fun x => { x with
      trb := x.trb.filter (fun e => !mine.any (fun r => r.tag == e.tag))
      iq := x.iq.map (fun l => l.map (fun p => if unsent p then { p with tent := false } else p))
      movReqs := x.movReqs.map (fun r => if r.cmd = c.id ∧ r.inj.isNone then { r with pkt := { r.pkt with tent := false } } else r) })
    held.foldl (fun s h => heldAct s t h.1 h.2) s2
  | _ =>
    match (getTile s1 t).srcResvs.find? (fun v => v.cmd == c.id) with
    | none => s1
    | some v =>
      if v.st = .pending then modTile s1 t (fun x => { x with srcResvs := x.srcResvs.map (fun u => if u.tag = v.tag then { u with noted := true } else u) })
      else resvSend s1 t c1 v

/-- A packet of MOV with a TAG: result packets of CMB and requests of TIL number theirs apart. -/
def ofMov (tag : Half) (p : Packet) : Bool := p.tag == tag && nodeEp p.src == 0 && !isRsp p

/-- An un-injected packet of a TAG of MOV leaves its injection queue, or the place in which it waits for one (R240). -/
def iqRemove (s : State) (t q : Nat) (tag : Half) : State :=
  modTile s t (fun x => { x with
    iq := listMod x.iq q (·.filter (fun p => !ofMov tag p)), stageQ := x.stageQ.filter (fun r => r.tag != tag) })

/-- The packet of a TAG of MOV has not been injected. -/
def inIq (x : Tile) (q : Nat) (tag : Half) : Bool := (iqOf x q).any (ofMov tag) || x.stageQ.any (fun r => r.tag == tag)

/-- A started tentative command is squashed (R226, R240, Table 5.2). -/
def movSquash (s : State) (t : Nat) (c : MovCmd) : State :=
  let s1 := modTile s t (fun x => { x with
    movCur := x.movCur.filter (fun d => d.id != c.id), movOut := x.movOut.filter (fun d => d.id != c.id) })
  match c.kind with
  | .read =>
    let mine := (getTile s t).movReqs.filter (fun r => r.cmd == c.id)
    mine.foldl (fun s r =>
      if r.inj.isNone then iqRemove (reqDrop s t r.tag) t r.iq r.tag
      else if (getTile s t).trb.any (fun e => e.tag == r.tag) ∧ r.dead.isNone then
        modTile (reqDrop s t r.tag) t (fun x => { x with trb := x.trb.filter (fun e => e.tag != r.tag) })
      else modTile s t (fun x => { x with
        trb := x.trb.filter (fun e => e.tag != r.tag)
        movReqs := modFirst (fun q => q.tag == r.tag) (fun q => { q with sink := true }) x.movReqs })) s1
  | _ =>
    match (getTile s t).srcResvs.find? (fun v => v.cmd == c.id) with
    | none => s1
    | some v =>
      let drop (s : State) : State :=
        modTile s t (fun x => { x with srcResvs := x.srcResvs.filter (fun u => u.tag != v.tag) })
      if inIq (getTile s1 t) v.iq v.tag then drop (iqRemove s1 t v.iq v.tag)
      else if v.st = .refused then drop s1
      else
        let s2 := tentCount (notePkt s1 t v c.cmd.word opWDRW) t 0x618 1
        let s3 := if nodeEp v.dst ≥ 0x10 then s2
          else sillage s2 (.mov t) 0x35 true (cwLayer c.cmd.word) (cwOper c.cmd.word) (BitVec.ofNat 32 v.tag.toNat)
        if v.st = .granted then drop s3
        else modTile s3 t (fun x => { x with srcResvs := x.srcResvs.map (fun u => if u.tag = v.tag then { u with st := .done } else u) })

/-- Every started command of a context that is no longer tentative commits, oldest first. -/
def movSettle (s : State) (t lc : Nat) : State :=
  let x := getTile s t
  let cs := (x.movOut ++ x.movCur.toList).filter
    (fun c => c.tent && c.cmd.lc == lc && !isTent (getCtx s t lc) c.cmd.sn c.cmd.ds)
  movPump (cs.foldl (fun s c => movCommit s t c) s) t

/-! ## Starting a command (R266 to R271, R826) -/

/-- The command at the head of the queue, when MOV may start it and it has the engine opcode. -/
def movHead (s : State) (t opc : Nat) : Option QCmd :=
  match (getTile s t).movQ with
  | q :: _ => if movMayStart s t ∧ cwEng q.word = 2 ∧ cwOpc q.word = opc then some q else none
  | [] => none

def popMov (s : State) (t : Nat) : State := modTile s t (fun x => { x with movQ := x.movQ.tail })

/-- A sillage entry of a MOV command, except for MSG (Table 18.7, R422). -/
def movNote (s : State) (t code : Nat) (w : CmdWord) (tent : Bool) : State :=
  if movDark w then s else sillage s (.mov t) code tent (cwLayer w) (cwOper w) (BitVec.ofNat 32 (cwOpc w))

/-- One RESV for a tentative MSG or CONTRIB (R228). -/
def resvStart (s : State) (t : Nat) (c : MovCmd) : State :=
  let (tag, s1) := newTag s t c.cmd.lc
  let amount := if c.sends = .msg then 32 + (c.total + 31) / 32 * 32 else 1
  let q := movIq c.cmd.word
  let h := cmdHdr s1 t q c.cmd.word tag
  let p : Packet := { h with opc := opRESV, tent := true, dst := c.toNode, aux := BitVec.ofNat 32 amount }
  let s2 := modTile s1 t (fun x => { x with
    srcResvs := x.srcResvs ++ [{ tag := tag, cmd := c.id, lc := c.cmd.lc, st := .pending, dst := c.toNode, iq := q, inj := none }],
    movOut := x.movOut ++ [c],
    stageQ := x.stageQ ++ [{ tag := tag, cmd := c.id, lc := c.cmd.lc, kind := .note, pkt := p, iq := q }] })
  tentCount s2 t 0x614 1

/-- A COPY within the tile: bytes move at once, or the copy fails with POISON (Table 17.4). -/
def localCopy (s : State) (t : Nat) (c : MovCmd) : State :=
  let (ue, s1) := tileRead s t (tmKey t c.src) c.total (cwLayer c.cmd.word, cwOper c.cmd.word)
  if ue then
    let s2 := pelAdd s1 t c.cmd.lc 0 (cwLayer c.cmd.word) (cwOper c.cmd.word) rsPOISON 0 false
    modTile s2 t (fun x => { x with movOut := x.movOut ++ [{ c with sent := true, failed := true }] })
  else modTile (memStore s1 (tmKey t c.dst) (readMem s1 (tmKey t c.src) c.total)) t
    (fun x => { x with movOut := x.movOut ++ [{ c with sent := true, cut := c.total }] })

/-- The elements of a CONTRIB, the bytes of anything else. -/
def movTotal (w : CmdWord) : Nat := if cwOpc w = 0x12 then cwBits w 12 0 else movLen w

/-- An accepted command starts with its sides; what it fetches is counted in bytes. -/
def movGo (s : State) (t : Nat) (q : QCmd) (tent : Bool) (k : MovKind) (src dst : Side) : State :=
  let lc := q.lc
  let w := q.word
  let remote := if k = .read ∨ k = .regRead ∨ k = .staged then src else dst
  let pair := (movPair s t lc w).2.2.getD .write
  let fin := (viaLease src dst pair (movAck w) (movLen w)).2
  let s2 := if tent then s else aincAll s t lc (movLen w) (incOf s t lc w)
  let id := (getTile s t).nextCmd
  let c : MovCmd := { id := id, cmd := q, kind := k, src := src.addr, dst := dst.addr,
                      node := remote.node, rect := dst.rect, mem := remote.space == 3,
                      fin := fin, dnode := dst.node, dmem := dst.space == 3, reg := k == .staged && src.space == 2,
                      mc := (match dst with | .queue _ _ m _ => m | _ => false),
                      lease := src.isLease,
                      total := if k = .staged then movLen w else movTotal w, tent := tent, inc := if tent then incOf s t lc w else [] }
  let s3 := modTile s2 t (fun x => { x with nextCmd := x.nextCmd + 1 })
  if k = .write ∧ dst.space = 0 then localCopy s3 t c
  else if tent ∧ (c.sends = .msg ∨ c.sends = .contrib) then resvStart s3 t c
  else modTile s3 t (fun x => { x with movCur := some c })

/-- A COPY, MSG or CONTRIB starts: nothing at LEN 0 of COPY and CONTRIB, a refusal, or its packets (R269 to R271). A
tentative one of a kind that may not act before it commits stays at the head (R219); a pair outside Table 6.7 is of no
kind that may. -/
def movBegin (s : State) (t : Nat) (q : QCmd) : State :=
  let w := q.word
  let tent := isTent (getCtx s t q.lc) q.sn q.ds
  let leave (s : State) (c : MovCmd) : State :=
    modTile s t (fun x => { x with nextCmd := x.nextCmd + 1, movOut := x.movOut ++ [{ c with id := x.nextCmd }] })
  if tent ∧ (tentMayAct s t q.lc w = false ∨ tagSpare (getTile s t) q.lc 8 = false) then s
  else if movTotal w = 0 ∧ cwOpc w ≠ 0x11 then
    leave (movNote (popMov s t) t 0x30 w tent) { id := 0, cmd := q, kind := .write, sent := true, tent := tent }
  else match movPlan s t q.lc w with
  | .refuse r =>
    let s1 := movNote (popMov s t) t 0x30 w tent
    if tent then leave s1 { id := 0, cmd := q, kind := .write, sent := true, tent := true, refusal := r }
    else leave (pelAdd s1 t q.lc 0 (cwLayer w) (cwOper w) r 0 (movDark w))
      { id := 0, cmd := q, kind := .write, sent := true, failed := true }
  | .go k src dst => movPump (movGo (movNote (popMov s t) t 0x30 w tent) t q tent k src dst) t

/-! ## Completion (R278, R286) -/

/-- Nothing of the command is outstanding. -/
def cmdOver (x : Tile) (c : MovCmd) : Bool :=
  c.sent && !c.tent && !x.srcResvs.any (fun v => v.cmd == c.id && v.st != .done && !v.spent)
    && !x.stageQ.any (fun r => r.cmd == c.id)
    && (if c.kind = .signal then !x.movReqs.any (fun r => r.cmd == c.id && r.inj.isNone && r.tries == 0)
        else !x.movReqs.any (fun r => r.cmd == c.id && r.dead.isNone))

/-- The oldest command with nothing outstanding completes and applies CSE unless it failed. -/
def movFinish (s : State) (t : Nat) : State :=
  let x := getTile s t
  match x.movOut.find? (cmdOver x) with
  | none => s
  | some c =>
    let s1 := modTile s t (fun x => { x with
      movOut := x.movOut.filter (fun d => d.id != c.id), srcResvs := x.srcResvs.filter (fun v => !(v.cmd == c.id && v.spent)) })
    let w := c.cmd.word
    let s2 := if !isSig w ∧ movCse w ∧ !c.failed then semOp s1 t c.cmd.lc (movCsem w) 1 1 else s1
    if isSig w then s2 else movNote s2 t 0x31 w false

end Sys2Proof.Machine
end

