-- ==== Sys2Proof/Machine/SeqOps.lean ====
section
/-! DEFINITION. Chandler: contexts, admission, issue, branches and their prediction, waits, faults and squash. -/

namespace Sys2Proof.Machine

/-! ## Contexts -/

/-- SEQ_LCn_STAT.STATE (Table 4.1): 0 IDLE, 1 RUN, 2 WAIT, 3 DRAIN, 4 FAULT. -/
def lcState (s : State) (t lc : Nat) : Nat := rfld s (.seq t) (lcStat lc) 2 0
def lcSetState (s : State) (t lc st : Nat) : State := putFld s (.seq t) (lcStat lc) 2 0 st

/-- The next command to issue, shown in STAT.PC. The field has 11 bits: behind the command at index 2,047 it reads 0 where
no RUNOFF is raised (DESIGN CHOICE, log 52: R210 gives PC for RUNOFF alone). -/
def lcSetPc (s : State) (t lc pc : Nat) : State :=
  putFld (modCtx s t lc (fun c => { c with pc := pc })) (.seq t) (lcStat lc) 26 16 pc

def ctxSum (s : State) (t : Nat) (f : Ctx → Nat) : Nat := ((getTile s t).ctx.map f).sum

/-- SEQ_FREE_TM and SEQ_FREE_RES (R203, R204, R208). -/
def freeTm (s : State) (t : Nat) : Nat := rfld s (.seq t) 0x088 17 0 - ctxSum s t (·.tmb)
def freeCq (s : State) (t : Nat) : Nat := 8 - ctxSum s t (·.ncq)
def freeSem (s : State) (t : Nat) : Nat := 64 - ctxSum s t (·.nsem)
def freeRq (s : State) (t : Nat) : Nat := 16 - ctxSum s t (·.nrq)
def validLeases (s : State) (t : Nat) : Nat := ((List.range 3).filter (fun i => leaseState s t i == 2)).length
def freeLease (s : State) (t : Nat) : Nat := validLeases s t - ctxSum s t (·.nlease)

/-- Some SEQ context of the tile is RUN, WAIT or DRAIN (R793). -/
def seqActive (s : State) (t : Nat) : Bool :=
  (List.range 4).any (fun lc => lcState s t lc == 1 || lcState s t lc == 2 || lcState s t lc == 3)

/-- SEQ runs: enabled, not halted, not isolated (R386, R728, R824). With PG_CTL.EN = 0 the contexts keep their state: no
wait ends, no branch resolves and no drain finishes until EN returns (DESIGN CHOICE, log 67: R824 also has operations
already started run to their end). -/
def seqRuns (s : State) (t : Nat) : Bool := enabled s (.seq t) && !stopped s (.seq t) && !isolated s t && !pkgFailed s

/-- Commands of a context in each engine that have not completed (R169). -/
def inCmp (x : Tile) (lc : Nat) : Bool := x.cmpQ.any (fun q => q.lc == lc) || x.cmpRun.any (fun r => r.cmd.lc == lc)
def inMov (x : Tile) (lc : Nat) : Bool :=
  x.movQ.any (fun q => q.lc == lc) || x.movCur.any (fun c => c.cmd.lc == lc) || x.movOut.any (fun c => c.cmd.lc == lc)
def inCmb (x : Tile) (lc : Nat) : Bool :=
  x.cmbQ.any (fun q => q.lc == lc) || x.cqs.any (fun c => c.arm.any (fun q => q.lc == lc) || c.rstCmd.any (fun q => q.lc == lc))

/-- Every command of a context older than issue number sn that an engine still holds, by word. -/
def ctxWords (x : Tile) (lc sn : Nat) : List CmdWord :=
  let qs := x.cmpQ ++ (x.cmpRun.map (·.cmd)).toList ++ x.movQ ++ (x.movCur.map (·.cmd)).toList ++ x.movOut.map (·.cmd)
    ++ x.cmbQ ++ x.cqs.flatMap (fun c => c.arm.toList ++ c.rstCmd.toList)
  (qs.filter (fun q => q.lc == lc && q.sn < sn)).map (·.word)

/-- The semaphore that a command operates on at its completion (Tables 6.2, 6.6, 10.3). -/
def semAtEnd (w : CmdWord) : Option Nat :=
  match cwEng w with
  | 1 => if cwOpc w ≠ 1 ∧ cmpCse w then some (cmpCsem w) else none
  | 2 => if 0x10 ≤ cwOpc w ∧ movCse w then some (movCsem w) else none
  | 3 => if cwOpc w = 1 ∧ cmbCse w then some (cmbCsem w) else none
  | _ => none

/-- The combining queue that a CMB command names. -/
def cqNamed (w : CmdWord) : Option Nat := if cwEng w = 3 ∧ 0x10 ≤ cwOpc w then some (cmbCq w) else none

def rqNonEmpty (s : State) (t n : Nat) : Bool := rbit s (.cmb t) (0x114 + 0x20 * n) 0
def cqState (s : State) (t n : Nat) : Nat := rfld s (.cmb t) (0x318 + 0x40 * n) 2 0

/-! ## Branch conditions (Table 4.5) -/

/-- The condition of the branch with issue number sn is final now. -/
def condFinal (s : State) (t lc sn cond sel : Nat) : Bool :=
  match cond with
  | 0 => !(ctxWords (getTile s t) lc sn).any (fun w => semAtEnd w == some sel)
  | 3 => !(ctxWords (getTile s t) lc sn).any (fun w => cqNamed w == some sel)
  | _ => true

/-- The value of a condition; a loop counter has been decremented already. -/
def condTaken (s : State) (t lc cond sel rel : Nat) (imm : Word) : Bool :=
  match cond with
  | 0 => relHolds rel (getSem s t sel) imm
  | 1 => rawReg s (.seq t) (0x110 + 0x40 * lc + 4 * sel) != 0
  | 2 => rqNonEmpty s t sel
  | 3 => cqState s t sel == 5
  | _ => rbit s (.seq t) (lcStat lc) 3

/-- A loop counter decremented, staying at 0 (R178). -/
def loopDec (s : State) (t lc k : Nat) : State :=
  let o := 0x110 + 0x40 * lc + 4 * k
  let v := rawReg s (.seq t) o
  putReg s (.seq t) o (BitVec.ofNat 32 (v.toNat - 1))

/-! ## Prediction (R181 to R184) -/

def predGet (s : State) (t idx : Nat) : Option PredEntry :=
  ((getTile s t).pred.find? (fun e => e.1 == idx % 64)).map (·.2)

/-- The counter that predicts the branch at an index, and the table after a replacement (R182, R183). -/
def predict (s : State) (t idx target : Nat) : Bool × State :=
  match predGet s t idx with
  | some e =>
    if e.tag = idx / 64 then (2 ≤ e.ctr, s)
    else (target ≤ idx, modTile s t (fun x => { x with pred := tabPut x.pred (idx % 64) ⟨idx / 64, if target ≤ idx then 2 else 1⟩ }))
  | none =>
    (target ≤ idx, modTile s t (fun x => { x with pred := tabPut x.pred (idx % 64) ⟨idx / 64, if target ≤ idx then 2 else 1⟩ }))

/-- The counter moves at resolution while the entry still holds the branch's tag (R184). -/
def predUpdate (s : State) (t idx : Nat) (taken : Bool) : State :=
  match predGet s t idx with
  | some e =>
    if e.tag = idx / 64 then
      modTile s t (fun x => { x with
        pred := tabPut x.pred (idx % 64) ⟨e.tag, if taken then min 3 (e.ctr + 1) else e.ctr - 1⟩ })
    else s
  | none => s

/-! ## Squash and faults (R190, R213, R214, R823) -/

/-- The next command is an executing delay slot of a branch with A = 0. -/
def nextDs (c : Ctx) : Bool := match c.slot with
  | some (_, d) => d
  | none => false

def lockstep (s : State) (t : Nat) : Bool := rbit s (.seq t) 0x080 0

/-- SEQ counters run while PG_PERF_CTL.EN = 1 (Table 4.9). -/
def seqCount (s : State) (t off n : Nat) : State :=
  if rbit s (.seq t) 0x060 0 ∧ n ≠ 0 then workCount s (.seq t) off 31 0 n else s

/-- The commands of a context issued after a branch, its executing delay slot excepted, are squashed. -/
def squashAfter (s : State) (t lc : Nat) (b : Branch) : State :=
  let c := getCtx s t lc
  let hit (q : QCmd) : Bool := q.lc == lc && b.sn < q.sn && !(q.ds && q.sn == b.sn + 1)
  let n := c.sn - (b.sn + 1) - (if b.a = false ∧ b.sn + 1 < c.sn then 1 else 0)
  let s1 := modTile s t (fun x => { x with movQ := x.movQ.filter (fun q => !hit q) })
  let x := getTile s1 t
  let started := (x.movOut ++ x.movCur.toList).filter (fun m => m.tent && hit m.cmd)
  let s2 := started.foldl (fun s m => movSquash s t m) s1
  let s3 := modCtx s2 t lc (fun c => { c with
    brs := c.brs.filter (fun d => d.sn ≤ b.sn)
    held := c.held.filter (fun h => h.sn ≤ b.sn || (h.ds && h.sn == b.sn + 1)) })
  let s4 := seqCount s3 t 0x09C n
  movPump (if n = 0 then s4 else sillage s4 (.seq t) 0x15 false b.layer b.oper (BitVec.ofNat 32 n)) t

/-- The issue number that follows a branch once what it made tentative is squashed: an executing delay slot stays. -/
def snAfter (b : Branch) (sn : Nat) : Nat := if b.a = false ∧ b.sn + 1 < sn then b.sn + 2 else b.sn + 1

/-- Every tentative command of a context is squashed (R211, R213). The oldest unresolved branch, issued and not
tentative, stays and resolves as the context's other issued commands complete. -/
def squashTent (s : State) (t lc : Nat) : State :=
  match (getCtx s t lc).brs.find? (fun b => b.res.isNone) with
  | some b => modCtx (squashAfter s t lc b) t lc (fun c => { c with sn := snAfter b c.sn })
  | none => s

/-- A context faults (R213, R214). -/
def seqFault (s : State) (t lc code : Nat) (layer oper : Half) : State :=
  let s1 := squashTent s t lc
  let s2 := modCtx s1 t lc (fun c => { c with held := none, wait := none, slot := none, penalty := 0 })
  let s3 := putFld (lcSetState s2 t lc 4) (.seq t) (lcStat lc) 15 8 code
  let c := getCtx s t lc
  let s4 := if code = 0x16 then putFld s3 (.seq t) (lcStat lc) 26 16 (c.base + c.len) else s3
  let s5 := captureOpen false s4 (.seq t) code 0 layer oper none (isrMask (4 + lc))
  movSettle (sillage s5 (.seq t) 0x13 false layer oper (BitVec.ofNat 32 code)) t lc

/-- A fault at issue: raised at once, or held while the path is tentative (R823). -/
def faultAtIssue (s : State) (t lc code : Nat) (tent : Bool) (layer oper : Half) : State :=
  if tent then modCtx s t lc (fun c => { c with held := some ⟨code, c.sn, nextDs c, layer, oper⟩ })
  else seqFault s t lc code layer oper

/-! ## Waits (R161 to R171) -/

/-- What a wait writes when its condition holds now (R161, R163 to R165); none while it does not hold. -/
def waitTry (s : State) (t lc : Nat) (w : WaitOn) : Option State :=
  match w with
  | .sem i rel imm dec =>
    if relHolds rel (getSem s t i) imm then some (if dec then semOp s t lc i 2 imm else s) else none
  | .sel mask rot dsem =>
    let start := if rot then (rfld s (.seq t) (0x10C + 0x40 * lc) 3 0 + 1) % 16 else 0
    let order := (List.range 16).map (fun i => (start + i) % 16)
    match order.find? (fun n => mask.toNat / 2 ^ n % 2 == 1 && rqNonEmpty s t n) with
    | none => none
    | some n =>
      let s1 := semOp s t lc dsem 0 (BitVec.ofNat 32 n)
      some (if rot then putFld s1 (.seq t) (0x10C + 0x40 * lc) 3 0 n else s1)
  | .fence a b c =>
    let x := getTile s t
    if (a && inCmp x lc) || (b && inMov x lc) || (c && inCmb x lc) then none
    else if b then
      let fail := rbit s (.mov t) (0x0A0 + 4 * lc) 0
      let s1 := putBit (putBit s (.mov t) (0x0A0 + 4 * lc) 0 false) (.seq t) (lcStat lc) 3 fail
      let c := getCtx s t lc
      some (if fail then sillage s1 (.seq t) 0x18 false c.layer c.oper (BitVec.ofNat 32 lc) else s1)
    else some s

/-- A context leaves WAIT. -/
def waitLeave (s : State) (t lc : Nat) : State :=
  let c := getCtx s t lc
  let s1 := lcSetState (modCtx s t lc (fun c => { c with wait := none })) t lc 1
  sillage s1 (.seq t) 0x17 false c.layer c.oper (BitVec.ofNat 32 lc)

/-- A WAIT, WAITSEL or FENCE issues: it goes on at once when its condition holds, or holds its context. -/
def waitIssue (s : State) (t lc : Nat) (w : WaitOn) (toUs : Nat) (layer oper : Half) : State :=
  match waitTry s t lc w with
  | some s1 => s1
  | none =>
    let due := if toUs = 0 then none else some (eTime s + usTicks toUs)
    let s1 := lcSetState (modCtx s t lc (fun c => { c with wait := some ⟨w, due, layer, oper⟩ })) t lc 2
    sillage s1 (.seq t) 0x16 false layer oper (BitVec.ofNat 32 lc)

/-- A wait of the kind that a row names ends when its condition holds (WAIT_RELEASE, WAITSEL_SELECT, FENCE_COMPLETE). -/
def waitEnd (s : State) (t lc : Nat) (kind : WaitOn → Bool) : State :=
  if lcState s t lc ≠ 2 ∨ seqRuns s t = false then s
  else match (getCtx s t lc).wait with
    | none => s
    | some w =>
      if kind w.what then
        match waitTry s t lc w.what with
        | some s1 => waitLeave s1 t lc
        | none => s
      else s

/-! ## Branch resolution (R184, R190 to R192, R224) -/

/-- Resolved branches older than every unresolved one are counted and leave (Table 4.9). -/
def countBrs (s : State) (t lc : Nat) : Nat → State
  | 0 => s
  | f + 1 =>
    match (getCtx s t lc).brs with
    | b :: rest =>
      match b.res with
      | some mis =>
        let s1 := modCtx s t lc (fun c => { c with brs := rest })
        let s2 := seqCount s1 t 0x094 1
        countBrs (if mis then seqCount s2 t 0x098 1 else s2) t lc f
      | none => s
    | [] => s

/-- What commits when a branch resolves: counts, a held fault of the path, MOV commands (R224, R823). -/
def settle (s : State) (t lc : Nat) : State :=
  let s1 := countBrs s t lc (getCtx s t lc).brs.length
  let c := getCtx s1 t lc
  match c.held with
  | some h => if isTent c h.sn h.ds then movSettle s1 t lc else seqFault s1 t lc h.code h.layer h.oper
  | none => movSettle s1 t lc

/-- The path after a misprediction: where issue goes on, with the delay slot's rule (Table 4.4, R192). -/
def redirect (s : State) (t lc : Nat) (b : Branch) (taken : Bool) : State :=
  let slotIssued := b.sn + 1 < (getCtx s t lc).sn
  let goal := if taken then b.target else b.idx + 2
  let s1 := modCtx s t lc (fun c => { c with penalty := 5 })
  if b.a = false then
    if slotIssued then lcSetPc (modCtx s1 t lc (fun c => { c with slot := none })) t lc goal
    else lcSetPc (modCtx s1 t lc (fun c => { c with slot := some (goal, true) })) t lc (b.idx + 1)
  else if taken then lcSetPc (modCtx s1 t lc (fun c => { c with slot := some (goal, false) })) t lc (b.idx + 1)
  else lcSetPc (modCtx s1 t lc (fun c => { c with slot := none })) t lc goal

/-- A branch resolves with its final outcome; in DRAIN and FAULT the context issues nothing on the corrected path. -/
def resolveBranch (s : State) (t lc : Nat) (b : Branch) (taken : Bool) : State :=
  let mis := b.pred != taken
  let s1 := if b.tabled then predUpdate s t b.idx taken else s
  let s2 := modCtx s1 t lc (fun c => { c with
    brs := c.brs.map (fun d => if d.sn = b.sn then { d with res := some mis } else d) })
  if mis then
    let s3 := sillage s2 (.seq t) 0x14 false b.layer b.oper (BitVec.ofNat 32 b.idx)
    let s4 := squashAfter s3 t lc b
    let s5 := if lcState s t lc = 1 ∨ lcState s t lc = 2 then redirect s4 t lc b taken else s4
    settle (modCtx s5 t lc (fun c => { c with sn := snAfter b c.sn })) t lc
  else settle s2 t lc

/-! ## Issue (R147, R148, R152, R172 to R193) -/

/-- A JMP or BR (R172). -/
def isBranchWord (w : CmdWord) : Bool := cwEng w == 0 && (cwOpc w == 2 || cwOpc w == 3)
def cwTarget (w : CmdWord) : Nat := cwBits w 79 69

/-- The fault of the next command, by its word and place: RUNOFF, BADCMD, BADSLOT, BADTGT; 0 for none. A word that meets
several is taken in this order (DESIGN CHOICE, log 52: R152, R175 and R176 give none). -/
def issueFault (s : State) (t lc : Nat) : Nat :=
  let c := getCtx s t lc
  if c.base + c.len < c.pc then 0x16
  else
    let w := cmWord s t c.pc
    if anyUE s (cmKey t (16 * c.pc)) 16 ∨ cwBad w then 0x10
    else if isBranchWord w ∧ c.slot.isSome then 0x11
    else if isBranchWord w ∧ (cwTarget w < c.base + 1 ∨ c.base + c.len < cwTarget w) then 0x12
    else 0

/-- Commands that may issue tentatively, by opcode (R187, R217, R826). -/
def tentKind (w : CmdWord) : Bool :=
  match cwEng w with
  | 0 => cwOpc w == 0 || cwOpc w == 2 || (cwOpc w == 3 && cwBits w 68 66 != 1)
  | 2 => cwOpc w == 0x10 || cwOpc w == 0x11 || cwOpc w == 0x12
  | _ => false

/-- The queue that a command goes to has a free entry (R195, R197, R198). -/
def queueFree (x : Tile) (w : CmdWord) : Bool :=
  match cwEng w with
  | 0 => cwOpc w != 6 || x.movQ.length < 16
  | 1 => x.cmpQ.length < 16
  | 2 => x.movQ.length < 16
  | 3 => x.cmbQ.length < 16
  | _ => true

/-- A context is able to issue (R148, R179, R186 to R189, R192, R193, R823). A command that will fault waits as any other
does; beyond the end of the list (RUNOFF) there is no command to wait with. LOCKSTEP holds what issues once it is 1, behind
a branch that was issued before too (DESIGN CHOICE, log 52: R193 against R194). -/
def canIssue (s : State) (t lc : Nat) : Bool :=
  let c := getCtx s t lc
  let w := cmWord s t c.pc
  let unres := c.brs.filter (fun b => b.res.isNone)
  let tent := isTent c c.sn (nextDs c)
  lcState s t lc == 1 && c.penalty == 0 && c.held.isNone
    && (issueFault s t lc == 0x16
      || (queueFree (getTile s t) w
        && (match unres with
            | b :: _ => c.sn ≤ b.sn + 8
            | [] => true)
        && (!tent || (cwT w && tentKind w && !lockstep s t))
        && (!(cwEng w == 0 && cwOpc w == 3)
          || (let cond := cwBits w 68 66
              let fin := condFinal s t lc c.sn cond (cwBits w 65 60)
              (cond != 1 || unres.isEmpty) && (fin || (!lockstep s t && unres.length < 2))))))

/-- The context that issues in the next slot (R147). -/
def issuer (s : State) (t : Nat) : Option Nat :=
  if seqRuns s t then (List.range 4).find? (canIssue s t) else none

/-- Issue passes the command: the next index, the delay slot over, the number of the command. -/
def passCmd (s : State) (t lc : Nat) : State :=
  let c := getCtx s t lc
  let next := match c.slot with
    | some (n, _) => n
    | none => c.pc + 1
  lcSetPc (modCtx s t lc (fun c => { c with slot := none, sn := c.sn + 1 })) t lc next

/-- Issue of a branch with a direction (Table 4.4). -/
def passBranch (s : State) (t lc : Nat) (w : CmdWord) (taken : Bool) : State :=
  let c := getCtx s t lc
  let jmp := cwOpc w == 2
  let s1 := modCtx s t lc (fun c => { c with sn := c.sn + 1 })
  if taken then
    if jmp ∧ cwA w then lcSetPc s1 t lc (cwTarget w)
    else lcSetPc (modCtx s1 t lc (fun c => { c with slot := some (cwTarget w, jmp || !cwA w) })) t lc (c.pc + 1)
  else if cwA w then lcSetPc s1 t lc (c.pc + 2)
  else lcSetPc (modCtx s1 t lc (fun c => { c with slot := some (c.pc + 2, true) })) t lc (c.pc + 1)

/-- A BR issues: final at issue, or predicted (R177 to R183, R193). -/
def issueBr (s : State) (t lc : Nat) (w : CmdWord) : State :=
  let c := getCtx s t lc
  let cond := cwBits w 68 66
  let sel := cwBits w 65 60
  let rel := cwBits w 59 57
  let imm := BitVec.ofNat 32 (cwBits w 31 0)
  let base : Branch := {
    idx := c.pc, sn := c.sn, target := cwTarget w, a := cwA w, cond := cond, sel := sel, rel := rel,
    imm := imm, pred := true, tabled := false, layer := cwLayer w, oper := cwOper w }
  if condFinal s t lc c.sn cond sel then
    let s0 := if cond = 1 then loopDec s t lc sel else s
    let taken := condTaken s0 t lc cond sel rel imm
    let s1 := passBranch s0 t lc w taken
    countBrs (modCtx s1 t lc (fun c => { c with brs := c.brs ++ [{ base with pred := taken, res := some false }] })) t lc
      (c.brs.length + 1)
  else
    let (p, s1) := if cwP w then (decide (cwTarget w ≤ c.pc), s) else predict s t c.pc (cwTarget w)
    modCtx (passBranch s1 t lc w p) t lc (fun c => { c with brs := c.brs ++ [{ base with pred := p, tabled := !cwP w }] })

/-- An engine command enters its queue (R195). -/
def issueEngine (s : State) (t lc : Nat) (w : CmdWord) : State :=
  let c := getCtx s t lc
  let q : QCmd := ⟨w, lc, c.sn, nextDs c⟩
  let s1 := passCmd s t lc
  match cwEng w with
  | 1 => modTile s1 t (fun x => { x with cmpQ := x.cmpQ ++ [q] })
  | 3 => modTile s1 t (fun x => { x with cmbQ := x.cmbQ ++ [q] })
  | _ => movPump (modTile s1 t (fun x => { x with movQ := x.movQ ++ [q] })) t

/-- A SEQ command issues (Table 4.3). -/
def issueSeq (s : State) (t lc : Nat) (w : CmdWord) : State :=
  let v := BitVec.ofNat 32 (cwBits w 31 0)
  let s1 := passCmd s t lc
  match cwOpc w with
  | 0x01 => lcSetState s1 t lc 3
  | 0x02 => passBranch s t lc w true
  | 0x03 => issueBr s t lc w
  | 0x04 => putReg s1 (.seq t) (0x110 + 0x40 * lc + 4 * cwBits w 79 77) v
  | 0x05 => semOp s1 t lc (cwBits w 79 74) (cwBits w 73 72) v
  | 0x06 => issueEngine s t lc w
  | 0x07 => waitIssue s1 t lc (.sem (cwBits w 79 74) (cwBits w 73 71) v (cwBit w 70)) (cwBits w 69 50) (cwLayer w) (cwOper w)
  | 0x08 => waitIssue s1 t lc (.sel (BitVec.ofNat 16 (cwBits w 79 64)) (cwBit w 63) (cwBits w 62 57)) (cwBits w 56 37) (cwLayer w) (cwOper w)
  | 0x09 => waitIssue s1 t lc (.fence (cwBit w 79) (cwBit w 78) (cwBit w 77)) 0 (cwLayer w) (cwOper w)
  | _ => s1

/-- A context issues its next command, or its fault (R147). RUNOFF has no command at fault: it carries the tags of the
command last issued (DESIGN CHOICE, log 52). -/
def issueOne (s : State) (t lc : Nat) : State :=
  let c := getCtx s t lc
  let w := cmWord s t c.pc
  let tent := isTent c c.sn (nextDs c)
  let f := issueFault s t lc
  let fetched := (tileRead s t (cmKey t (16 * c.pc)) 16 (cwLayer w, cwOper w)).2
  if f = 0x16 then faultAtIssue s t lc f tent c.layer c.oper
  else if f ≠ 0 then faultAtIssue fetched t lc f tent (cwLayer w) (cwOper w)
  else
    let s1 := modTile (modCtx fetched t lc (fun c => { c with layer := cwLayer w, oper := cwOper w })) t (fun x => { x with
      seqTag := (cwLayer w, cwOper w) })
    if cwEng w = 0 then issueSeq s1 t lc w else issueEngine s1 t lc w

/-- A slot passes for the contexts that pay a misprediction (R192). -/
def payPenalty (s : State) (t : Nat) : State :=
  modTile s t (fun x => { x with ctx := x.ctx.map (fun c => { c with penalty := c.penalty - 1 }) })

/-- One issue slot. -/
def issueSlot (s : State) (t : Nat) : State :=
  match issuer s t with
  | some lc => payPenalty (issueOne s t lc) t
  | none => if seqRuns s t then payPenalty s t else s

/-- One issue slot, when the command that issues in it is a SEQ command with the opcode (and test) that a row names. -/
def issueRow (s : State) (t : Nat) (f : CmdWord → Bool) : State :=
  match issuer s t with
  | some lc =>
    let c := getCtx s t lc
    if c.pc ≤ c.base + c.len ∧ cwEng (cmWord s t c.pc) = 0 ∧ f (cmWord s t c.pc) then issueSlot s t else s
  | none => s

/-! ## Admission and ending (R199 to R211) -/

/-- An undefined field value of a header (Table 4.7). -/
def hdrBad (w : CmdWord) : Bool :=
  cwOpc w != 0xF0 || cwEng w != 0 || cwBits w 119 112 != 0 || cwBits w 79 68 == 0 || 2047 < cwBits w 79 68
    || 196608 < cwBits w 67 50 || 8 < cwBits w 49 46 || 64 < cwBits w 45 39 || 16 < cwBits w 36 32 || cwBits w 31 0 != 0

/-- Shortfalls of a header in the order TM, CQ, SEM, RQ, LEASE, CM (R202, R203). -/
def shortfalls (s : State) (t base : Nat) (w : CmdWord) : List Nat :=
  [cwBits w 67 50 - freeTm s t, cwBits w 49 46 - freeCq s t, cwBits w 45 39 - freeSem s t, cwBits w 36 32 - freeRq s t,
    cwBits w 38 37 - freeLease s t, base + cwBits w 79 68 - 2047]

/-- The MASK field: bit n for a shortfall of resource n. -/
def shortMask : List Nat → Nat
  | [] => 0
  | n :: r => (if n = 0 then 0 else 1) + 2 * shortMask r

/-- Descriptors of a context return to their reset values at admission (R254, R265). -/
def clearDescriptors (s : State) (t lc : Nat) : State :=
  resetRegs (resetRegs s (.cmp t) (tdOff lc 0) (tdOff lc 0 + 0x80)) (.mov t) (madOff lc 0) (madOff lc 0 + 0x100)

/-- A list is admitted (R204). -/
def admitList (s : State) (t lc base : Nat) (w : CmdWord) : State :=
  let c : Ctx := {
    base := base, len := cwBits w 79 68, pc := base + 1, tmb := cwBits w 67 50, ncq := cwBits w 49 46,
    nsem := cwBits w 45 39, nlease := cwBits w 38 37, nrq := cwBits w 36 32, layer := cwLayer w, oper := cwOper w }
  let s1 := clearDescriptors (modCtx s t lc (fun _ => c)) t lc
  let s2 := lcSetPc (putFld (lcSetState s1 t lc 1) (.seq t) (lcStat lc) 15 8 0) t lc (base + 1)
  sillage s2 (.seq t) 0x10 false (cwLayer w) (cwOper w) (BitVec.ofNat 32 lc)

/-- A list is refused (R205). -/
def admitRefuse (s : State) (t lc : Nat) (w : CmdWord) (sh : List Nat) : State :=
  let res := (sh.findIdx? (· != 0)).getD 0
  let v := BitVec.ofNat 32 (2 ^ 31 + lc * 2 ^ 29 + res * 2 ^ 26 + shortMask sh * 2 ^ 20 + ((sh[res]?).getD 0) % 2 ^ 18)
  let s1 := if rbit s (.seq t) 0x084 31 then s else putReg s (.seq t) 0x084 v
  let s2 := captureOpen false s1 (.seq t) 0x14 0 (cwLayer w) (cwOper w) none (isrMask 8)
  sillage s2 (.seq t) 0x11 false (cwLayer w) (cwOper w) (rawReg s2 (.seq t) 0x084)

/-- The decision on a LOAD (R201 to R206). -/
def loadDecide (s : State) (t lc : Nat) : State :=
  let s0 := putBit (modTile s t (fun x => { x with loads := x.loads.tail })) (.seq t) (0x104 + 0x40 * lc) 0 false
  let base := rfld s (.seq t) (0x100 + 0x40 * lc) 10 0
  let w := cmWord s t base
  if lcState s t lc ≠ 0 then captureOpen false s0 (.seq t) 0x15 0 0 0 none 0
  else
    let s1 := putFld s0 (.seq t) (lcStat lc) 15 8 0
    let (ue, s2) := tileRead s1 t (cmKey t (16 * base)) 16 (cwLayer w, cwOper w)
    if ue ∨ hdrBad w then captureOpen false s2 (.seq t) 0x10 0 (cwLayer w) (cwOper w) none 0
    else
      let sh := shortfalls s t base w
      if shortMask sh = 0 then admitList s2 t lc base w else admitRefuse s2 t lc w sh

/-- ABORT of a context (R211): squash, then DRAIN; an IDLE context clears the bit at once. -/
def abortCtx (s : State) (t lc : Nat) : State :=
  if lcState s t lc = 0 then putBit s (.seq t) (0x104 + 0x40 * lc) 1 false
  else
    let s1 := putBit (squashTent s t lc) (.seq t) (0x104 + 0x40 * lc) 1 true
    let s2 := modCtx s1 t lc (fun c => { c with aborting := true, wait := none, held := none, slot := none, penalty := 0 })
    movSettle (lcSetState s2 t lc 3) t lc

/-- SRST of a SEQ page ends: registers and prediction table at their reset values, the lock kept (Table 19.5). -/
def seqSrstEnd (s : State) (t : Nat) : State :=
  let lk := rawReg s (.seq t) 0x018
  let st := rawReg s (.seq t) 0x014
  let s1 := putReg (putReg (resetRegs s (.seq t) 0 0x1000) (.seq t) 0x018 lk) (.seq t) 0x014 st
  modTile s1 t (fun x => { x with ctx := [{}, {}, {}, {}], loads := [], pred := [] })

/-- A context in DRAIN has no command left: its resources return and it is IDLE (R209). -/
def drained (s : State) (t lc : Nat) : State :=
  let c := getCtx s t lc
  let s1 := modCtx s t lc (fun c => { ({} : Ctx) with layer := c.layer, oper := c.oper })
  let s2 := putBit (lcSetState s1 t lc 0) (.seq t) (0x104 + 0x40 * lc) 1 false
  if c.aborting then (if rbit s2 (.seq t) 0x010 1 && !seqActive s2 t then seqSrstEnd s2 t else s2)
  else sillage (isrBit s2 (.seq t) lc) (.seq t) 0x12 false c.layer c.oper (BitVec.ofNat 32 lc)

end Sys2Proof.Machine
end

