-- ==== Sys2Proof/Machine/TimeTick.lean ====
section
/-! DEFINITION. Network time moves: slewing, the states of the engines and their time counters, deadlines. -/

namespace Sys2Proof.Machine

/-! ## Engine states (R746 to R748, Table 18.5) -/

/-- What keeps a running context from issuing (Table 18.5). -/
def ctxStall (s : State) (t lc : Nat) : Nat :=
  let c := getCtx s t lc
  match lcState s t lc with
  | 2 => match c.wait.map (·.what) with
    | some (WaitOn.fence _ _ _) => 2
    | _ => 1
  | 3 => 5
  | _ =>
    if c.penalty ≠ 0 then 4
    else if issueFault s t lc = 0 ∧ queueFree (getTile s t) (cmWord s t c.pc) = false then 0
    else 3

def engSeq (s : State) (t : Nat) : EngSt :=
  match (List.range 4).find? (fun lc => lcState s t lc == 1 || lcState s t lc == 2 || lcState s t lc == 3) with
  | none => .idle
  | some lc =>
    if stopped s (.seq t) then .stall 12
    else if (issuer s t).isSome then .busy
    else .stall (ctxStall s t lc)

def engCmp (s : State) (t : Nat) : EngSt :=
  let x := getTile s t
  if x.cmpRun.isNone ∧ x.cmpQ = [] then .idle
  else if stopped s (.cmp t) then .stall 12
  else .busy

/-- Injection queues of a tile that hold a packet. -/
def iqWaiting (x : Tile) : List Nat := (List.range 4).filter (fun q => !(iqOf x q).isEmpty)

/-- The gate and the guard let the head of an injection queue go (R510, R511). -/
def iqPass (s : State) (t q : Nat) : Bool :=
  match iqOf (getTile s t) q with
  | p :: _ => gatePass s (.mov t) q (movTx p)
  | [] => false

/-- Posted packets injected and unanswered (R280). -/
def postedOut (x : Tile) : Nat := (x.movReqs.filter (fun r => r.kind == .posted && r.inj.isSome && r.dead.isNone)).length

/-- The head of an injection queue may be tracked (R280); CMB tracks its own result packets (R450). -/
def trackFree (x : Tile) (q : Nat) : Bool :=
  match iqOf x q with
  | p :: _ => !isPosted p || nodeEp p.src != 0 || postedOut x < 4096
  | [] => false

/-- The L port takes a packet of the VC: the one before it has left the VC (R322, R323). -/
def portFree (s : State) (t vc : Nat) : Bool := (getRin s t 4 vc).isNone

/-- The head of the MOV queue is a tentative read that may not act (R219). -/
def headHeld (s : State) (t : Nat) : Bool :=
  match (getTile s t).movQ with
  | q :: _ =>
    cwEng q.word == 2 && isTent (getCtx s t q.lc) q.sn q.ds && !tentMayAct s t q.lc q.word
  | [] => false

def engMov (s : State) (t : Nat) : EngSt :=
  let x := getTile s t
  let w := iqWaiting x
  if x.movQ = [] ∧ x.movCur.isNone ∧ w = [] ∧ x.stageQ = [] then .idle
  else if stopped s (.mov t) then .stall 12
  else if w.any (fun q => iqPass s t q && trackFree x q && portFree s t 0) then .busy
  else if w.any (fun q => iqPass s t q && portFree s t 0 == false) then .stall 7
  else if w ≠ [] ∧ w.all (fun q => !gateOpen s (.mov t) q) then .stall 8
  else if w.any (fun q => iqPass s t q && !trackFree x q) then .stall 9
  else match x.movCur with
    | some c =>
      if c.kind = .read ∧ c.tent ∧ c.sent = false ∧ 8192 < trbUsed x + nextChunk c then .stall 10 else .busy
    | none => if headHeld s t then .stall 11 else .busy

def engCmb (s : State) (t : Nat) : EngSt :=
  let x := getTile s t
  let res := x.cqs.flatMap (fun c => c.res.filter (fun r => r.inj.isNone && r.due.isNone))
  if x.cmbQ = [] ∧ res = [] ∧ !x.cqs.any (fun c => c.arm.isSome) then .idle
  else if stopped s (.cmb t) then .stall 12
  else if x.cmbQ = [] ∧ res ≠ [] ∧ portFree s t 0 = false then .stall 7
  else .busy

/-- The state of an engine but for bank conflicts. -/
def engBase (s : State) (t e : Nat) : EngSt :=
  match e with
  | 0 => engSeq s t
  | 1 => engCmp s t
  | 2 => engMov s t
  | _ => engCmb s t

/-- Another requester uses the TM of the tile: an engine, or a request at the L port (R249). -/
def tmShared (s : State) (t e : Nat) : Bool :=
  [1, 2, 3].any (fun d => d != e && engBase s t d == .busy) || !(getTile s t).lreq.isEmpty

/-- The state of an engine (R746 to R748); whether one that works waits on a bank is a free value (R251, log 41). -/
def engState (s : State) (t e : Nat) : EngSt :=
  if e ≠ 0 ∧ engBase s t e = .busy ∧ tmShared s t e ∧ Config.bankWait t e s.time then .stall 6 else engBase s t e

/-- The page of engine e (Table 18.10). -/
def engPage (t e : Nat) : Page :=
  match e with
  | 0 => .seq t
  | 1 => .cmp t
  | 2 => .mov t
  | _ => .cmb t

/-! ## Time counters (R749 to R751) -/

/-- A 48-bit counter pair of a page gains n, saturating. -/
def pairCount (s : State) (p : Page) (off n : Nat) : State :=
  if frozen s p then s
  else
    let v := satAdd 48 (pairNat s p off % 2 ^ 48) n
    putReg (putReg s p off (BitVec.ofNat 32 v)) p (off + 4) (BitVec.ofNat 32 (v / 2 ^ 32))

/-- The counter of an engine's state (Table 18.10). -/
def engOff (e : Nat) : EngSt → Nat
  | .busy => 0x200 + 0x20 * e
  | .idle => 0x208 + 0x20 * e
  | .stall r => 0x400 + 0x80 * e + 8 * r

/-- The head of an injection queue is a packet with TENT = 1. -/
def headTent (x : Tile) (q : Nat) : Bool := (iqOf x q).head?.any (·.tent)

/-- The engine works, and its work is tentative: SEQ issues a tentative command, MOV injects packets with TENT = 1 alone
or moves data for a tentative command (R238, R749). -/
def tentBusy (s : State) (t e : Nat) : Bool :=
  match e with
  | 0 => match issuer s t with
    | some lc => isTent (getCtx s t lc) (getCtx s t lc).sn (nextDs (getCtx s t lc))
    | none => false
  | 2 =>
    let x := getTile s t
    let act := (iqWaiting x).filter (fun q => iqPass s t q && trackFree x q && portFree s t 0)
    engState s t 2 == .busy && (if act = [] then x.movCur.any (·.tent) else act.all (headTent x))
  | _ => false

/-- n ns pass for the engines of a tile; tentative work counts in the TENT set alone (R238). -/
def accrueTile (s : State) (n t : Nat) : State :=
  let one (s : State) (e : Nat) : State :=
    if rbit s (engPage t e) 0x060 0 && !tentBusy s t e then pairCount s (.dbg t) (engOff e (engState s t e)) n else s
  let tent (s : State) (e : Nat) : State :=
    if rbit s (engPage t e) 0x060 2 && tentBusy s t e then pairCount s (.dbg t) (0x600 + 4 * e) n else s
  if enabled s (.dbg t) then [0, 2].foldl tent ([0, 1, 2, 3].foldl one s) else s

/-- Tiles whose DBG page has been enabled: the only ones that count (R724). -/
def countingTiles (s : State) : List Nat :=
  s.regs.filterMap (fun e => if e.1 < 2 ^ 29 ∧ e.1 % 0x8000 = 0x6010 ∧ fld e.2 0 0 = 1 then some (e.1 / 0x8000) else none)

/-- n ns pass for every engine. -/
def accrue (s : State) (n : Nat) : State := if n = 0 then s else (countingTiles s).foldl (fun s t => accrueTile s n t) s

/-! ## Time moves (R461 to R468) -/

/-- The phase correction still to be slewed out, and it put back: TKP_PHASE shows what of it fits the register (R137,
R468). -/
def phaseOf (s : State) : Int := sgn 32 (rawReg s (.tkp 0) 0x0A4).toNat + s.tkp.slewMore
def setPhase (s : State) (p : Int) : State :=
  let v := satWord p
  putReg { s with tkp := { s.tkp with slewMore := p - sgn 32 v.toNat } } (.tkp 0) 0x0A4 v

/-- TKP_RATE as a signed number of 2^-40. -/
def rateOf (s : State) : Int := sgn 32 (rawReg s (.tkp 0) 0x09C).toNat

/-- When NT wraps with ERA at 0xFFFF, ERA stays there, NT goes on, and ERAOVF is set (R462); E is not moved by it
(R693). -/
def eraCheck (s : State) : State :=
  if 2 ^ 80 ≤ fullT s then
    let d : Int := (fullT s / 2 ^ 64 - 0xFFFF) * 2 ^ 64
    putBit { s with tkp := { s.tkp with off := s.tkp.off - d, steps := s.tkp.steps - d } } (.tkp 0) 0x084 7 true
  else s

/-- dt ticks pass while T moves by dT: counters accrue the whole ns passed. -/
def pass (s : State) (dt : Nat) (dT : Int) : State :=
  let s1 := accrue s (((eTime s + dT) / 1024 - eTime s / 1024).toNat)
  eraCheck { s1 with time := s.time + dt, tkp := { s1.tkp with off := s1.tkp.off + dT - dt } }

/-- What dt ticks of TREF and the correction slewed out in them make of T beside dt: the gain of RATE, in 2^-40 ticks
(R466), and the slew, one tick in 1,024 while a phase correction remains (R468). -/
def rateGain (s : State) (dt : Nat) : Int := s.tkp.rateAcc + dt * rateOf s
def slewOf (s : State) (dt : Nat) : Int :=
  let p := phaseOf s
  let k : Int := min p.natAbs ((s.tkp.raw + dt) / 1024)
  if 0 ≤ p then k else -k
def gainOf (s : State) (dt : Nat) : Int := dt + rateGain s dt / 2 ^ 40 + slewOf s dt

/-- dt ticks pass in which T gains d, c of them slewed out; what RATE has gained beside stays for later. -/
def moveT (s : State) (dt : Nat) (c d : Int) : State :=
  let all := s.tkp.raw + dt
  let s1 := { s with tkp := { s.tkp with
    raw := if phaseOf s = 0 then all % 1024 else all - 1024 * c.natAbs,
    rateAcc := rateGain s dt - (d - dt - c) * 2 ^ 40 } }
  pass (if c = 0 then s1 else setPhase s1 (phaseOf s - c)) dt d

/-- dt ticks pass. T gains them scaled by RATE, and the slew (R466, R468); a slew that would take T back waits (R465). -/
def advance (s : State) (dt : Nat) : State :=
  if gainOf s dt < 0 then moveT s dt 0 (max 0 (gainOf s dt - slewOf s dt))
  else moveT s dt (slewOf s dt) (gainOf s dt)

/-- Ticks of TREF in which T gains d: each round comes nearer. -/
def ticksFor (s : State) (d : Nat) : Nat → Nat → Nat
  | 0, dt => dt
  | n + 1, dt => ticksFor s d n (dt + (d - gainOf s dt)).toNat

/-- T is at least an instant: an event that network time starts brings T there. -/
def atT (s : State) (due : Int) : State :=
  let d := (due - fullT s).toNat
  if d = 0 then s
  else
    let dt := ticksFor s d 8 d
    moveT s dt (slewOf s dt) d

/-- The elapsed time is at least a deadline: an event that a timer starts brings time there. -/
def atLeast (s : State) (due : Nat) : State := atT s (due + s.tkp.steps)

/-- One tick: what a step does when no command waits (DESIGN CHOICE, log 5). -/
def tick (s : State) : State := advance s 1

/-! ## The calendar clock (R488 to R493) -/

/-- Seconds and fraction of the RTC now; the count stands while the crystal is stopped (R489). -/
def rtcNow (s : State) : Nat × Nat :=
  let n := if rbit s (.tkp 0) 0x0F8 1 then 0 else (s.time - s.rtc.at_) / 31250000
  let f := s.rtc.frac + n
  ((s.rtc.sec + f / 32768) % 2 ^ 48, f % 32768)

/-- The RTC is set to a count from now on. -/
def rtcPut (s : State) (sec frac : Nat) : State :=
  { s with rtc := { s.rtc with sec := sec, frac := frac, at_ := s.time } }

end Sys2Proof.Machine
end

