-- ==== Sys2Proof/Machine/CmpOps.lean ====
section
/-! DEFINITION. The arithmetic of CMP: operands, checks, element functions, sums, attars. -/

namespace Sys2Proof.Machine

/-! ## Operands -/

/-- Key of element (r, c) of a descriptor. -/
def tdKey (t : Nat) (d : Td) (r c : Nat) : Nat := tmKey t (d.base + r * d.pitch + c * tySize d.ty)

/-- Bit pattern of element (r, c). -/
def tdElem (s : State) (t : Nat) (d : Td) (r c : Nat) : Nat := readNat s (tdKey t d r c) (tySize d.ty)

/-- Reading a whole operand: an uncorrectable unit, and what the errors leave (R708, R772, Table 17.4). -/
def tdScan (s : State) (t : Nat) (d : Td) (lo : Half × Half) : Bool × State :=
  (List.range d.rows).foldl (fun a r =>
    let (ue, s1) := tileRead a.2 t (tdKey t d r 0) (d.cols * tySize d.ty) lo
    (a.1 || ue, s1)) (false, s)

/-- TM extents overlap. -/
def tdOverlap (a b : Td) : Bool := a.base < b.stop && b.base < a.stop

/-- An element of a type as a float value. -/
def valF (ty b : Nat) : Fv :=
  match fmtOf ty with
  | some f => f.decode b
  | none => Fv.ofInt (sgn (intW ty) b)

/-- An element of an integer type. -/
def valI (ty b : Nat) : Int := sgn (intW ty) b

/-- A float value rounded once to a type (R259, R260). -/
def putF (ty rnd : Nat) (sat : Bool) (v : Fv) : Nat × Fl :=
  match fmtOf ty with
  | some f => f.encode rnd sat v
  | none =>
    let (i, fl) := v.toInt (intW ty) rnd
    (unsgn (intW ty) i, fl)

/-- An integer saturated to a type (R260). -/
def putI (ty : Nat) (i : Int) : Nat × Fl :=
  let (j, st) := satInt (intW ty) i
  (unsgn (intW ty) j, { sat := st })

/-! ## Sums (R259) -/

/-- Partial sums are added two at a time, at the places that the order names, until one is left. -/
def sumGo {α : Type} (add : α → α → α × Fl) : Nat → List Nat → List α → Fl → Option (α × Fl)
  | 0, _, l, fl => l.head?.map (fun x => (x, fl))
  | n + 1, ord, l, fl =>
    match l with
    | [] => none
    | [x] => some (x, fl)
    | _ =>
      let i := (ord[0]?).getD 0 % l.length
      match l[i]? with
      | none => none
      | some a =>
        let l1 := l.eraseIdx i
        let j := (ord[1]?).getD 0 % l1.length
        match l1[j]? with
        | none => none
        | some b =>
          let (c, f) := add a b
          sumGo add n (ord.drop 2) (c :: l1.eraseIdx j) (fl.or f)

/-- A value of an FP32 step inside a command: rounded in the free mode Config.accMode (log 11), an overflow as RND and SAT
have it (R260). -/
def stepRound (rnd : Nat) (sat : Bool) (x : Fv) : Fv × Fl :=
  let (y, fl) := fp32.round (Config.accMode % 4) sat x
  match fl.ovf, x with
  | true, .fin neg _ _ => (fp32.decode (fp32.overflow rnd sat neg), fl)
  | _, _ => (y, fl)

/-- One FP32 accumulation step. -/
def accAdd (rnd : Nat) (sat : Bool) (a b : Fv) : Fv × Fl :=
  let (x, inv) := Fv.add (Config.accMode % 4) a b
  let (y, fl) := stepRound rnd sat x
  (y, fl.or { inv := inv })

/-- One INT32 accumulation step: a partial sum that leaves the range saturates there (DESIGN CHOICE, log 75: R259 and R260
state only what a result does). -/
def accAddI (a b : Int) : Int × Fl :=
  let (x, st) := satInt 32 (a + b)
  (x, { sat := st })

/-- A float sum, its terms exact. -/
def sumF (ord : List Nat) (rnd : Nat) (sat : Bool) (l : List Fv) : Fv × Fl :=
  (sumGo (accAdd rnd sat) l.length ord l {}).getD (.fin false 0 0, {})

def sumI (ord : List Nat) (l : List Int) : Int × Fl := (sumGo accAddI l.length ord l {}).getD (0, {})

/-- Exact products of two lists, and INVALID. -/
def prods (a b : List Fv) : List Fv × Fl :=
  let l := List.zipWith Fv.mul a b
  (l.map (·.1), { inv := l.any (·.2) })

/-! ## Element functions (Table 6.3) -/

/-- MAX (0x23, 0x39) or MIN of two patterns of a type; a NaN result is the canonical one (R260), and of two zeros the
result is one of them. -/
def maxMin (op ty a b : Nat) : Nat :=
  let big := op == 0x23 || op == 0x39
  match fmtOf ty with
  | none =>
    let x := valI ty a
    let y := valI ty b
    if (if big then y ≤ x else x ≤ y) then a else b
  | some f =>
    let x := f.decode a
    let y := f.decode b
    if x.isNan ∨ y.isNan then
      let r := Config.maxMin op ty a b % 2 ^ (f.eb + f.mb + 1)
      if (f.decode r).isNan then f.nanBits else r
    else if x.isZero ∧ y.isZero then (if Config.maxMin op ty a b % 2 = 0 then a else b)
    else if (if big then Fv.le y x else Fv.le x y) then a else b

/-- ADD, SUB, MUL of two patterns. -/
def arith (op ty rnd : Nat) (sat : Bool) (a b : Nat) : Nat × Fl :=
  match fmtOf ty with
  | none =>
    let x := valI ty a
    let y := valI ty b
    putI ty (match op with
      | 0x20 => x + y
      | 0x21 => x - y
      | _ => x * y)
  | some f =>
    let x := f.decode a
    let y := f.decode b
    let (v, inv) := match op with
      | 0x20 => Fv.add rnd x y
      | 0x21 => Fv.sub rnd x y
      | _ => Fv.mul x y
    let (r, fl) := f.encode rnd sat v
    (r, fl.or { inv := inv })

/-- A·B + C, rounded once; ∞ · 0 sets INVALID whatever C is (DESIGN CHOICE, log 76: R260 has a NaN from inputs that are no
NaN set it, and does not say what holds when another operand is a NaN). -/
def fmaElem (ty rnd : Nat) (sat : Bool) (a b c : Nat) : Nat × Fl :=
  let (p, i1) := Fv.mul (valF ty a) (valF ty b)
  let (v, i2) := Fv.add rnd p (valF ty c)
  let (r, fl) := putF ty rnd sat v
  (r, fl.or { inv := i1 || i2 })

/-- A·IMM0. -/
def scaleElem (ty rnd : Nat) (sat : Bool) (imm a : Nat) : Nat × Fl :=
  let (p, inv) := Fv.mul (valF ty a) (fp32.decode imm)
  let (r, fl) := putF ty rnd sat p
  (r, fl.or { inv := inv })

/-- ABS (0x27), NEG (0x28). -/
def unaryElem (op ty rnd : Nat) (sat : Bool) (a : Nat) : Nat × Fl :=
  match fmtOf ty with
  | none => putI ty (if op = 0x27 then (valI ty a).natAbs else -(valI ty a))
  | some f => f.encode rnd sat (if op = 0x27 then (f.decode a).abs else (f.decode a).neg)

/-- CVT (R260). -/
def cvtElem (sty dty rnd : Nat) (sat : Bool) (a : Nat) : Nat × Fl :=
  if isF sty then putF dty rnd sat (valF sty a)
  else if isF dty then putF dty rnd sat (Fv.ofInt (valI sty a))
  else putI dty (valI sty a)

/-- One FP32 step of a LUT evaluation (log 11). -/
def lutStep (rnd : Nat) (sat : Bool) (r : Fv × Bool) : Fv × Fl :=
  let (x, fl) := stepRound rnd sat r.1
  (x, fl.or { inv := r.2 })

/-- t of R258, clamped: floor(t) at most 255, and t − i as a value. -/
def lutPlace (d : Fv) (imm1 : Nat) : Nat × Fv :=
  match d with
  | .nan => (0, .nan)
  | .inf true => (0, .fin false 0 0)
  | .inf false => (255, .fin false 1 0)
  | .fin neg m e =>
    let e1 := e + 8 - sgn 8 imm1
    if neg ∨ m = 0 then (0, .fin false 0 0)
    else if 0 ≤ e1 then
      let n := m * 2 ^ e1.toNat
      if 256 ≤ n then (255, .fin false 1 0) else (n, .fin false 0 0)
    else
      let k := (-e1).toNat
      if 256 ≤ m / 2 ^ k then (255, .fin false 1 0) else (m / 2 ^ k, .fin false (m % 2 ^ k) e1)

/-- LUT of one element with the table row b (R258). -/
def lutElem (sty dty rnd : Nat) (sat : Bool) (imm0 imm1 : Nat) (b : Nat → Nat) (a : Nat) : Nat × Fl :=
  let x := valF sty a
  if x.isNan then putF dty rnd sat .nan
  else
    let (d, inv) := Fv.sub 0 x (fp32.decode imm0)
    let (i, fr) := lutPlace d imm1
    let y0 := fp32.decode (b i)
    let (f0, l0) := lutStep rnd sat (fr, false)
    let (dl, l1) := lutStep rnd sat (Fv.sub (Config.accMode % 4) (fp32.decode (b (i + 1))) y0)
    let (pr, l2) := lutStep rnd sat (Fv.mul f0 dl)
    let (sm, l3) := lutStep rnd sat (Fv.add (Config.accMode % 4) y0 pr)
    let (r, l4) := putF dty rnd sat sm
    (r, ((((l0.or l1).or l2).or l3).or l4).or { inv := inv && !(fp32.decode imm0).isNan })

/-! ## Checks (R256, R257) -/

/-- Which operands an op samples: A, B. -/
def usesA (op : Nat) : Bool := op != 0x43
def usesB (op : Nat) : Bool :=
  op == 0x10 || op == 0x11 || op == 0x12 || (0x20 ≤ op && op ≤ 0x25) || op == 0x30

/-- An elementwise op that may work in place (R257). -/
def inPlaceOp (op : Nat) : Bool := (0x20 ≤ op && op ≤ 0x28) || op == 0x42

/-- Whether the shapes fit Table 6.3. -/
def shapeOk (op : Nat) (d a b : Td) : Bool :=
  if op = 0x10 ∨ op = 0x11 then a.cols == b.rows && d.rows == a.rows && d.cols == b.cols
  else if op = 0x12 then a.cols == b.cols && d.rows == a.rows && d.cols == b.rows
  else if op = 0x43 then true
  else if op = 0x40 then d.rows == a.cols && d.cols == a.rows
  else if 0x38 ≤ op ∧ op ≤ 0x3B then d.rows == a.rows && d.cols == 1
  else
    d.rows == a.rows && d.cols == a.cols
      && (!(0x20 ≤ op && op ≤ 0x25) || (b.cols == a.cols && (b.rows == a.rows || b.rows == 1)))
      && (op != 0x30 || (b.rows == 1 && b.cols == 257))

/-- Whether the types fit Table 6.3. -/
def typeOk (op : Nat) (d a b : Td) : Bool :=
  let fp8 (x : Nat) : Bool := x == 3 || x == 4
  if op = 0x10 ∨ op = 0x11 ∨ op = 0x12 then
    (a.ty == b.ty || (fp8 a.ty && fp8 b.ty))
      && ((isF a.ty && (d.ty == 0 || (op != 0x11 && (d.ty == 1 || d.ty == 2)))) || (a.ty == 5 && d.ty == 6))
  else if 0x20 ≤ op ∧ op ≤ 0x24 then a.ty == d.ty && b.ty == d.ty
  else if op = 0x25 then a.ty == d.ty && b.ty == d.ty && isF d.ty
  else if op = 0x26 then a.ty == d.ty && isF d.ty
  else if op = 0x30 then isF a.ty && isF d.ty && b.ty == 0
  else if 0x38 ≤ op ∧ op ≤ 0x3B then (isF a.ty && d.ty == 0) || (!isF a.ty && d.ty == 6)
  else if op = 0x42 ∨ op = 0x43 then true
  else a.ty == d.ty

/-- The error code of the checks, in the order of R257; 0 for none. -/
def cmpCheck (op : Nat) (d : Td) (a b : Option Td) : Nat :=
  let a' := a.getD d
  let b' := b.getD d
  if shapeOk op d a' b' = false then 0x11
  else if typeOk op d a' b' = false then 0x12
  else if a.any (fun a => tdOverlap d a && !(inPlaceOp op && a == d)) || b.any (tdOverlap d) then 0x13
  else 0

/-! ## Durations (R262, R758) -/

def ceilDiv (a b : Nat) : Nat := (a + b - 1) / b

/-- MACs or elements a step (Table 6.4). -/
def cmpRate (op ty : Nat) : Nat :=
  if op = 0x10 ∨ op = 0x11 ∨ op = 0x12 then
    (match ty with
     | 0 => 128
     | 1 => 512
     | 2 => 512
     | _ => 1024)
  else 512

def tdBytes (d : Td) : Nat := d.rows * d.cols * tySize d.ty

def cmpSteps (op : Nat) (d : Td) (a b : Option Td) (dig : Bool) : Nat :=
  let a' := a.getD d
  let w := if op = 0x10 ∨ op = 0x11 ∨ op = 0x12 then d.rows * d.cols * a'.cols else a'.rows * a'.cols
  let bytes := (a.map tdBytes).getD 0 + (b.map tdBytes).getD 0 + tdBytes d * (if op = 0x11 ∨ op = 0x25 then 2 else 1)
  8 + max (ceilDiv w (cmpRate op a'.ty)) (ceilDiv bytes 512) + (if dig then 4 else 0)

/-! ## Results -/

/-- Element (i, j) of D. CPY and TRANS copy bit patterns, those of a NaN too (DESIGN CHOICE, log 76: whether R260 makes a
copied NaN canonical is not said). -/
def cmpElem (s : State) (t op : Nat) (w : CmdWord) (d a b : Td) (i j : Nat) : Nat × Fl :=
  let rnd := cmpRnd w
  let sat := cmpSat w
  let rowA := (List.range a.cols).map (tdElem s t a i)
  let brow := if b.rows = 1 then 0 else i
  if op = 0x10 ∨ op = 0x11 ∨ op = 0x12 then
    let colB := (List.range a.cols).map (fun k => if op = 0x12 then tdElem s t b j k else tdElem s t b k j)
    let ord := Config.sumOrder op a.rows a.cols d.cols i j
    if isF a.ty then
      let (ps, f0) := prods (rowA.map (valF a.ty)) (colB.map (valF b.ty))
      let (v, f1) := sumF ord rnd sat (if op = 0x11 then valF d.ty (tdElem s t d i j) :: ps else ps)
      let (r, f2) := putF d.ty rnd sat v
      (r, (f0.or f1).or f2)
    else
      let ps := List.zipWith (· * ·) (rowA.map (valI a.ty)) (colB.map (valI b.ty))
      let (v, f1) := sumI ord (if op = 0x11 then valI d.ty (tdElem s t d i j) :: ps else ps)
      let (r, f2) := putI d.ty v
      (r, f1.or f2)
  else if op = 0x20 ∨ op = 0x21 ∨ op = 0x22 then arith op d.ty rnd sat (tdElem s t a i j) (tdElem s t b brow j)
  else if op = 0x23 ∨ op = 0x24 then (maxMin op d.ty (tdElem s t a i j) (tdElem s t b brow j), {})
  else if op = 0x25 then fmaElem d.ty rnd sat (tdElem s t a i j) (tdElem s t b brow j) (tdElem s t d i j)
  else if op = 0x26 then scaleElem d.ty rnd sat (cmpImm0 w) (tdElem s t a i j)
  else if op = 0x27 ∨ op = 0x28 then unaryElem op d.ty rnd sat (tdElem s t a i j)
  else if op = 0x30 then lutElem a.ty d.ty rnd sat (cmpImm0 w) (cmpImm1 w) (fun k => tdElem s t b 0 k) (tdElem s t a i j)
  else if op = 0x38 ∨ op = 0x3B then
    let ord := Config.sumOrder op a.rows a.cols 1 i j
    if isF a.ty then
      let xs := rowA.map (valF a.ty)
      let (ps, f0) := if op = 0x3B then prods xs xs else (xs, {})
      let (v, f1) := sumF ord rnd sat ps
      let (r, f2) := putF d.ty rnd sat v
      (r, (f0.or f1).or f2)
    else
      let xs := rowA.map (valI a.ty)
      let (v, f1) := sumI ord (if op = 0x3B then xs.map (fun x => x * x) else xs)
      let (r, f2) := putI d.ty v
      (r, f1.or f2)
  else if op = 0x39 ∨ op = 0x3A then
    cvtElem a.ty d.ty rnd sat (match rowA with
      | x :: r => r.foldl (maxMin op a.ty) x
      | [] => 0)
  else if op = 0x40 then (tdElem s t a j i, {})
  else if op = 0x41 then (tdElem s t a i j, {})
  else if op = 0x42 then cvtElem a.ty d.ty rnd sat (tdElem s t a i j)
  else (cmpImm0 w % 2 ^ (8 * tySize d.ty), {})

/-- Every element of D, row by row. -/
def cmpAll (s : State) (t op : Nat) (w : CmdWord) (d a b : Td) : List (List (Nat × Fl)) :=
  (List.range d.rows).map (fun i => (List.range d.cols).map (fun j => cmpElem s t op w d a b i j))

/-- D is written row by row. -/
def cmpWrite (s : State) (t : Nat) (d : Td) (rows : List (List (Nat × Fl))) : State :=
  (rows.zipIdx).foldl (fun s r =>
    memStore s (tdKey t d r.2 0) (r.1.flatMap (fun e => leBytes (tySize d.ty) e.1))) s

def flagsOf (rows : List (List (Nat × Fl))) : Fl := rows.foldl (fun f r => r.foldl (fun f e => f.or e.2) f) {}

/-- CMP may start the command at the head of its queue: enabled, running, idle (R386, R728, R824). -/
def cmpHead (s : State) (t : Nat) : Option QCmd :=
  if enabled s (.cmp t) && !stopped s (.cmp t) && !isolated s t && (getTile s t).cmpRun.isNone then
    (getTile s t).cmpQ.head?
  else none

/-- The head leaves the queue and starts. -/
def cmpTake (s : State) (t : Nat) (q : QCmd) : State :=
  sillage (modTile s t (fun x => { x with cmpQ := x.cmpQ.tail })) (.cmp t) 0x20 false (cwLayer q.word) (cwOper q.word)
    (BitVec.ofNat 32 (cwOpc q.word))

def cmpSetRun (s : State) (t : Nat) (r : CmpRun) : State := modTile s t (fun x => { x with cmpRun := some r })

/-- A CMP op starts: descriptors sampled, checks, the result formed and written (R255 to R263, R822). -/
def cmpStart (s : State) (t op : Nat) (flt : List UFault) : State :=
  match cmpHead s t with
  | none => s
  | some q =>
    if cwEng q.word ≠ 1 ∨ cwOpc q.word ≠ op then s
    else
      let w := q.word
      let s1 := cmpTake (addFaults s flt) t q
      let fail (s : State) (c steps : Nat) : State := cmpSetRun s t { cmd := q, err := c, steps := steps }
      match getTd s1 t q.lc (cmpDtd w) with
      | none => fail s1 0x10 8
      | some d =>
        let a := if usesA op then getTd s1 t q.lc (cmpAtd w) else some d
        let b := if usesB op then getTd s1 t q.lc (cmpBtd w) else some d
        match a, b with
        | some a, some b =>
          let a' := if usesA op then some a else none
          let b' := if usesB op then some b else none
          let e := cmpCheck op d a' b'
          if e ≠ 0 then fail s1 e 8
          else
            let steps := cmpSteps op d a' b' (cwDig w)
            let lo := (cwLayer w, cwOper w)
            let (u1, s2) := if usesA op then tdScan s1 t a lo else (false, s1)
            let (u2, s3) := if usesB op then tdScan s2 t b lo else (false, s2)
            let (u3, s4) := if op = 0x11 ∨ op = 0x25 then tdScan s3 t d lo else (false, s3)
            if u1 || u2 || u3 then fail s4 0x15 steps
            else
              let rows := cmpAll s4 t op w d a b
              let fl := flagsOf rows
              cmpSetRun (cmpWrite s4 t d rows) t { cmd := q, err := 0, steps := steps,
                                                   inv := fl.inv, ovf := fl.ovf, sat := fl.sat, dbase := d.base,
                                                   dty := d.ty, drows := d.rows, dcols := d.cols, dpitch := d.pitch }
        | _, _ => fail s1 0x10 8

/-! ## Accumulator classes (R427, R428, R439 to R444, Table 10.4) -/

/-- Class of a type: bytes of an element, value bits, weight of the least bit as a power of 2. -/
structure AccClass where
  bytes : Nat
  vbits : Nat
  lsb : Int
  deriving DecidableEq, Repr

def accClass (ty : Nat) : AccClass :=
  match ty with
  | 0 | 1 => ⟨40, 316, -149⟩
  | 2 | 4 => ⟨12, 92, -24⟩
  | 3 => ⟨8, 60, -9⟩
  | 5 => ⟨8, 60, 0⟩
  | _ => ⟨12, 92, 0⟩

/-- An accumulator: V, and the flags N, P, M, Z. -/
structure AccVal where
  v : Int := 0
  n : Bool := false
  p : Bool := false
  m : Bool := false
  z : Bool := true
  deriving DecidableEq, Repr

def AccVal.ofBits (c : AccClass) (x : Nat) : AccVal :=
  let top := 8 * c.bytes
  let bit (i : Nat) : Bool := x / 2 ^ (top - i) % 2 == 1
  { v := sgn c.vbits x, n := bit 1, p := bit 2, m := bit 3, z := bit 4 }

def AccVal.toBits (c : AccClass) (a : AccVal) : Nat :=
  let top := 8 * c.bytes
  let b (f : Bool) (i : Nat) : Nat := if f then 2 ^ (top - i) else 0
  unsgn c.vbits a.v + b a.n 1 + b a.p 2 + b a.m 3 + b a.z 4

/-- V after an addition, with N when it leaves its range (R442); whether it did. -/
def AccVal.addV (c : AccClass) (a : AccVal) (x : Int) : AccVal × Bool :=
  let v := a.v + x
  if v < -(2 ^ (c.vbits - 1) : Nat) ∨ (2 ^ (c.vbits - 1) : Nat) ≤ v then ({ a with n := true }, true)
  else ({ a with v := v }, false)

/-- A raw value is added (R439). -/
def AccVal.addRaw (c : AccClass) (a : AccVal) (ty bits : Nat) : AccVal × Bool :=
  match fmtOf ty with
  | none => AccVal.addV c { a with z := false } (valI ty bits)
  | some f => match f.decode bits with
    | .nan => ({ a with n := true, z := false }, false)
    | .inf true => ({ a with m := true, z := false }, false)
    | .inf false => ({ a with p := true, z := false }, false)
    | .fin neg m e =>
      AccVal.addV c { a with z := a.z && neg && m == 0 } (scaled neg m e c.lsb)

/-- An EXACT partial is added (R440). -/
def AccVal.addPart (c : AccClass) (a b : AccVal) : AccVal × Bool :=
  AccVal.addV c { a with n := a.n || b.n, p := a.p || b.p, m := a.m || b.m, z := a.z && b.z } b.v

/-- The rounded float result in a format (R443). -/
def AccVal.toF (c : AccClass) (a : AccVal) (f : Fmt) (rnd : Nat) (sat : Bool) : Nat × Fl :=
  if a.n || (a.p && a.m) then (f.nanBits, { inv := a.p && a.m && !a.n })
  else if a.p || a.m then
    (if f.hasInf then f.encode rnd sat (.inf a.m)
     else ((if sat then (if a.m then f.signBit else 0) + f.maxBits else f.nanBits), { ovf := true }))
  else if a.v = 0 then ((if a.z || rnd == 3 then f.signBit else 0), {})
  else f.encode rnd sat (ofScaled a.v c.lsb false)

/-! ## Attars (R757 to R760, Table 18.8) -/

/-- A value as FP32 bits, exact for every float type of Table 6.1. -/
def asF32 (v : Fv) : Nat := (fp32.encode 0 false v).1

/-- First least (or greatest) non-NaN element. -/
def pickF (less : Fv → Fv → Bool) : List Fv → Option Fv → Option Fv
  | [], b => b
  | x :: r, none => pickF less r (if x.isNan then none else some x)
  | x :: r, some b => pickF less r (if less x b then some x else some b)

def pickI (less : Int → Int → Bool) : List Int → Option Int → Option Int
  | [], b => b
  | x :: r, none => pickI less r (some x)
  | x :: r, some b => pickI less r (if less x b then some x else some b)

/-- The fields of an attar over elements of a type: CRC, COUNT, MIN, MAX, SUM, NAN, INF, SUMSAT. -/
structure Attar where
  crc : Nat
  count : Nat
  lo : Nat
  hi : Nat
  sum : Nat
  nans : Nat
  infs : Nat
  sat : Bool
  deriving DecidableEq, Repr

def attarOf (ty : Nat) (es : List Nat) : Attar :=
  let bytes := es.flatMap (leBytes (tySize ty))
  match fmtOf ty with
  | some f =>
    let vs := es.map f.decode
    let c := accClass ty
    let a := es.foldl (fun a e => (AccVal.addRaw c a ty e).1) {}
    { crc := crc32c bytes, count := es.length,
      lo := ((pickF Fv.lt vs none).map asF32).getD fp32.nanBits,
      hi := ((pickF (fun x y => Fv.lt y x) vs none).map asF32).getD fp32.nanBits,
      sum := (AccVal.toF c a fp64 0 false).1,
      nans := (vs.filter Fv.isNan).length,
      infs := (vs.filter (fun v => match v with
        | .inf _ => true
        | _ => false)).length,
      sat := false }
  | none =>
    let vs := es.map (valI ty)
    let (t, st) := satInt 64 vs.sum
    { crc := crc32c bytes, count := es.length,
      lo := unsgn 32 ((pickI (fun x y => x < y) vs none).getD 0),
      hi := unsgn 32 ((pickI (fun x y => y < x) vs none).getD 0),
      sum := unsgn 64 t, nans := 0, infs := 0, sat := st }

def attOff (lc : Nat) : Nat := 0x700 + 0x40 * lc

/-- An attar is written to DBG_ATTn and compared (R757, R760). -/
def attarPut (s : State) (t lc : Nat) (layer oper : Half) (a : Attar) : State :=
  let p := Page.dbg t
  let o := attOff lc
  let w (s : State) (k v : Nat) : State := putReg s p (o + k) (BitVec.ofNat 32 v)
  let s1 := [(0x00, a.crc), (0x04, a.count), (0x08, a.lo), (0x0C, a.hi), (0x10, a.sum), (0x14, a.sum / 2 ^ 32),
    (0x18, a.nans), (0x1C, a.infs), (0x24, layer.toNat * 65536 + oper.toNat)].foldl (fun s e => w s e.1 e.2) s
  let s2 := putBit (putBit s1 p (o + 0x20) 0 true) p (o + 0x20) 2 a.sat
  let en (b : Nat) : Bool := rbit s2 p (o + 0x38) b
  let exp (k : Nat) : Nat := (rawReg s2 p (o + k)).toNat
  if (en 0 && exp 0x28 != a.crc) || (en 1 && exp 0x2C != a.count % 2 ^ 32) || (en 2 && pairNat s2 p (o + 0x30) != a.sum)
  then
    let s3 := isrBit (putBit s2 p (o + 0x20) 1 true) p 2
    if rbit s3 p 0x0C0 2 && rbit s3 .dbgp 0x080 9 then stopTrigger s3 4 (tileNode s3 t 0) none else s3
  else s2

/-- A command ends (R257, R260, R263, R757). -/
def cmpEnd (s : State) (t : Nat) (r : CmpRun) : State :=
  let lc := r.cmd.lc
  let w := r.cmd.word
  let p := Page.cmp t
  let o := 0x080 + 4 * lc
  let s1 := modTile s t (fun x => { x with cmpRun := none })
  if r.err ≠ 0 then
    let s2 := putFld (putBit s1 p o 3 true) p o 15 8 r.err
    let s3 := captureOpen false s2 p r.err 0 (cwLayer w) (cwOper w) none (isrMask lc)
    sillage s3 p 0x22 false (cwLayer w) (cwOper w) (BitVec.ofNat 32 r.err)
  else
    let s2 := if r.inv then putBit s1 p o 0 true else s1
    let s3 := if r.ovf then putBit s2 p o 1 true else s2
    let s4 := if r.sat then putBit s3 p o 2 true else s3
    let s5 := if cmpCse w then semOp s4 t lc (cmpCsem w) 1 1 else s4
    let s6 := sillage s5 p 0x21 false (cwLayer w) (cwOper w) (BitVec.ofNat 32 r.steps)
    if cwDig w ∧ enabled s6 (.dbg t) then
      let d : Td := ⟨r.dbase, r.dty, r.drows, r.dcols, r.dpitch⟩
      attarPut s6 t lc (cwLayer w) (cwOper w)
        (attarOf d.ty ((List.range d.rows).flatMap (fun i => (List.range d.cols).map (tdElem s6 t d i))))
    else s6

/-- Fields of a TDESC (Table 6.1), and the checks of R253. -/
def tdescOf (w : CmdWord) : Td := ⟨cwBits w 73 56, cwBits w 76 74, cwBits w 55 44, cwBits w 43 32, cwBits w 17 0⟩

def tdescOk (d : Td) : Bool :=
  d.ty != 7 && d.base % 32 == 0 && d.rows != 0 && d.cols != 0 && d.pitch % 32 == 0
    && d.cols * tySize d.ty ≤ d.pitch && d.stop ≤ 196608

/-- A descriptor takes its fields, or is marked invalid (R253). -/
def putTd (s : State) (t lc k : Nat) (d : Option Td) : State :=
  let o := tdOff lc k
  match d with
  | some d =>
    let a := putReg s (.cmp t) o (BitVec.ofNat 32 (2 ^ 31 + d.ty * 2 ^ 18 + d.base))
    putReg (putReg a (.cmp t) (o + 4) (BitVec.ofNat 32 (d.cols * 65536 + d.rows))) (.cmp t) (o + 8) (BitVec.ofNat 32 d.pitch)
  | none => putReg (putReg (putReg s (.cmp t) o 0) (.cmp t) (o + 4) 0) (.cmp t) (o + 8) 0

/-- A TDESC executes (R253, R255). -/
def tdescRun (s : State) (t : Nat) (q : QCmd) : State :=
  let d := tdescOf q.word
  let k := cwBits q.word 79 77
  let s1 := cmpTake s t q
  let r : CmpRun := { cmd := q, err := if tdescOk d then 0 else 0x10, steps := 8 }
  let s2 := putTd s1 t q.lc k (if tdescOk d then some d else none)
  if tdescOk d then sillage s2 (.cmp t) 0x21 false (cwLayer q.word) (cwOper q.word) 8 else cmpEnd s2 t r

end Sys2Proof.Machine
end

