-- ==== Sys2Proof/Machine/Requests.lean ====
section
/-! DEFINITION. Requests at an endpoint: the endpoints, the form of each opcode, the checks that every endpoint shares, and
batched acknowledgement. -/

namespace Sys2Proof.Machine

/-- The endpoints of Table 8.4; `none` is a reserved one. -/
inductive EpKind where
  | tm | reg | sem | cq | rq | mem | glz | none
  deriving DecidableEq, Repr

def epKind (n : Word) : EpKind :=
  let e := nodeEp n
  match nodeKind n with
  | 0 => if e = 0 then .tm else if e = 1 then .reg else if e = 2 then .sem
    else if 8 ≤ e ∧ e ≤ 15 then .cq else if 16 ≤ e ∧ e ≤ 31 then .rq else .none
  | 1 => if e = 0 then .mem else if e = 1 then .reg else .none
  | 2 => if e = 1 then .reg else if 8 ≤ e ∧ e ≤ 11 then .glz else .none
  | _ => .none

/-- Bytes that a request reads or writes. -/
def reqBytes (q : Packet) : Nat := if q.opc = opRD then fld q.aux 11 0 else (payload q).length

/-- A request agrees with its row of Table 8.5 and its chapter's layout of ADDR and AUX (R105, R228, R231, R336, R403,
R404, R432, R660, R765). A multicast packet holds its rectangle in AUX (R340). -/
def rowOk (q : Packet) : Bool :=
  let k := epKind q.dst
  let a := q.addr.toNat
  let x := q.aux.toNat
  let n := q.len.toNat
  let ep (l : List EpKind) : Bool := k == .none || l.contains k
  match q.opc.toNat with
  | 0x01 => ep [.tm, .mem] && n == 0 && x < 4096 && 1 ≤ x && a % 2048 + x ≤ 2048
  | 0x02 => ep [.tm, .mem] && 1 ≤ n && (x == 0 || q.mc)
  | 0x03 => ep [.tm, .mem] && 1 ≤ n && x == 0
  | 0x04 => ep [.rq, .glz] && a == 0 && (q.mc || x == (payload q).length)
  | 0x05 => ep [.cq] && 1 ≤ n && a == 0 && x < 2 ^ 29
  | 0x06 => ep [.rq, .cq] && n == 0 && a == 0 && x != 0 && (k != .cq || x == 1)
  | 0x07 => ep [.rq, .cq] && n == 0 && a == 0 && x == 0
  | 0x08 => ep [.rq, .cq] && n == 0 && a == 0 && x == 0
  | 0x09 => ep [.reg] && n == 0 && a % 4 == 0 && x == 0
  | 0x0A => ep [.reg] && n == 1 && a % 4 == 0 && x == 0
  | 0x0B => ep [.mem] && n == 4 && x == 0
  | 0x0C => ep [.sem] && n == 0 && a < 64
  | 0x0D => ep [.tm, .rq] && 1 ≤ n && (k != .rq || a == 0) && (q.mc || x < 2 ^ 29)
  | _ => false

/-- The form check of R825. -/
def formBad (q : Packet) : Bool := lenBad q || q.mcg != 0 || q.rsv != 0 || !rowOk q

/-- A request with TENT = 1 that an endpoint may serve (R220). -/
def tentOk (q : Packet) : Bool :=
  let k := epKind q.dst
  !q.tent || (q.opc == opRD && (k == .tm || k == .mem))
    || ((q.opc == opRESV || q.opc == opWDRW) && (k == .rq || k == .cq))

/-- Requests that draw no answer (Table 8.5, R766). -/
def unanswered (q : Packet) : Bool := q.opc == opCONF || q.opc == opWDRW || q.opc == opTRACE

/-- The answer at the first check of R825 that fails after the partition check, and of R220. -/
def reqCheck (me : Word) (q : Packet) : Option Packet :=
  if formBad q then some (nakPkt me q nkMALFORMED)
  else if epKind q.dst = .none then some (nakPkt me q nkHOLE)
  else if poisoned q then some (if isPosted q then wfnPkt me q rsPOISON else nakPkt me q nkMALFORMED)
  else if tentOk q then none
  else some (nakPkt me q nkTENT)

/-- The Glazier of an I/O die that an endpoint names. -/
def dieGlz (d : Nat) (q : Packet) : Nat := 4 * d + (nodeEp q.dst - 8)

/-- The partition check of a place off the tiles (R603, R661). -/
def edgeAllows (s : State) (p : Place) (q : Packet) : Bool :=
  match p with
  | .mem x e => rbit s (.mem x e) 0x088 q.spart.toNat
  | .io d => epKind q.dst != .glz || rbit s (.glz (dieGlz d q)) 0x088 q.spart.toNat
  | .tile _ => true

/-- A response of Table 8.5; any other is discarded at its destination (R338). -/
def rspKnown (q : Packet) : Bool :=
  [opRDRSP, opWRACK, opWFN, opNAK, opDEAD, opRSVACK, opREGRSP].contains q.opc

/-- Requests that some row of a place takes from its port. -/
def rowAt (q : Packet) : Bool :=
  let o := q.opc.toNat
  match nodeKind q.dst with
  | 0 => 1 ≤ o && o ≤ 13 && o != 11
  | 1 => o == 1 || o == 2 || o == 3 || o == 5 || o == 9 || o == 10 || o == 11
  | _ => o == 1 || o == 2 || o == 3 || o == 5 || o == 9 || o == 10 || (o == 4 && epKind q.dst == .glz)

/-- The answer to a request that no row of its place takes: a reserved endpoint or opcode (R335, R336; log 13). -/
def strayAnswer (q : Packet) : List Packet :=
  if unanswered q then []
  else if formBad q = false ∧ epKind q.dst = .none then [nakPkt q.dst q nkHOLE]
  else [nakPkt q.dst q nkMALFORMED]

/-- The same off the tiles, where the place makes the partition check, the first of R825. -/
def strayAt (s : State) (p : Place) (q : Packet) : List Packet :=
  if edgeAllows s p q then strayAnswer q else if unanswered q then [] else [refusePkt q.dst q nkPART]

/-! ## Batched acknowledgement (R279, R337) -/

def ackPkt (a : Ack) : Packet :=
  { dst := a.src, src := a.me, opc := opWRACK, tag := a.tag, layer := a.layer, oper := a.oper, tc := a.tc,
    aux := BitVec.ofNat 32 a.n }

/-- A posted packet is accepted at an endpoint: it joins the batch of its source, which goes at 64. -/
def ackNote (me : Word) (q : Packet) (now : Nat) (l : List Ack) : List Ack × List Packet :=
  let mine (a : Ack) : Bool := a.me == me && a.src == q.src
  let old := l.find? mine
  let a : Ack := ⟨me, q.src, (old.map (·.n)).getD 0 + 1, q.tag, q.layer, q.oper, q.tc, (old.map (·.since)).getD now⟩
  let rest := l.filter (fun a => !mine a)
  if a.n = 64 then (rest, [ackPkt a]) else (rest ++ [a], [])

/-! ## The ports of a place -/

/-- An answer leaves at a place. -/
def answerAt (s : State) (p : Place) (a : Packet) : State :=
  match p with
  | .tile t => modTile s t (fun x => { x with out := x.out ++ [a] })
  | .mem x e => modEdge s x e (fun g => { g with out := g.out ++ [a] })
  | .io d => modDie s d (fun x => { x with out := x.out ++ [a] })

/-- The first request at a place. -/
def reqAt (s : State) (p : Place) : Option Packet :=
  match p with
  | .tile t => (getTile s t).lreq.head?
  | .mem x e => (getEdge s x e).req.head?
  | .io d => (getDie s d).req.head?

/-- The first request at a place, when it has an opcode. -/
def reqHead (s : State) (p : Place) (op : BitVec 8) : Option Packet := (reqAt s p).filter (fun q => q.opc == op)

/-- A request comes to the head of the L port of a tile: the watchdog starts (R130, R390). -/
def headNow (s : State) (t : Nat) : State :=
  modTile s t (fun x => { x with reqAt := eTime s, wdog := rfld s (.til t) 0x088 19 0 })

def popReq (s : State) (p : Place) : State :=
  match p with
  | .tile t => headNow (modTile s t (fun x => { x with lreq := x.lreq.tail })) t
  | .mem x e => modEdge s x e (fun g => { g with req := g.req.tail })
  | .io d => modDie s d (fun x => { x with req := x.req.tail })

/-- The node that answers at a place: for a multicast copy the tile that it reached. -/
def meAt (s : State) (p : Place) (q : Packet) : Word :=
  match p with
  | .tile t => tileNode s t (nodeEp q.dst)
  | _ => q.dst

/-- A posted packet is acknowledged at a place. -/
def ackAt (s : State) (p : Place) (q : Packet) : State :=
  let me := meAt s p q
  match p with
  | .tile t =>
    let r := ackNote me q (eTime s) (getTile s t).acks
    modTile s t (fun x => { x with acks := r.1, out := x.out ++ r.2 })
  | .mem x e =>
    let r := ackNote me q (eTime s) (getEdge s x e).acks
    modEdge s x e (fun g => { g with acks := r.1, out := g.out ++ r.2 })
  | .io d =>
    let r := ackNote me q (eTime s) (getDie s d).acks
    modDie s d (fun g => { g with acks := r.1, out := g.out ++ r.2 })

/-- The batches of a place, and one of them sent. -/
def acksAt (s : State) (p : Place) : List Ack :=
  match p with
  | .tile t => (getTile s t).acks
  | .mem x e => (getEdge s x e).acks
  | .io d => (getDie s d).acks

def ackSend (s : State) (p : Place) (a : Ack) : State :=
  let out := [ackPkt a]
  match p with
  | .tile t => modTile s t (fun x => { x with acks := x.acks.filter (· != a), out := x.out ++ out })
  | .mem x e => modEdge s x e (fun g => { g with acks := g.acks.filter (· != a), out := g.out ++ out })
  | .io d => modDie s d (fun g => { g with acks := g.acks.filter (· != a), out := g.out ++ out })

end Sys2Proof.Machine
end

