-- ==== Sys2Proof/Machine/RouterOps.lean ====
section
/-! DEFINITION. The fabric: routes, virtual channels, forks, deliveries, junctions, probes and trace records. -/

namespace Sys2Proof.Machine

/-! ## Packets as Tinker sees them -/

/-- A dark packet (R420). -/
def isDark (p : Packet) : Bool :=
  (p.opc == opMSG || p.opc == opCRES || p.opc == opRESV || p.opc == opCONF || p.opc == opWDRW)
    && 0x10 ≤ nodeEp p.dst && nodeEp p.dst ≤ 0x1F

/-! ## Trace records (R765 to R770) -/

/-- The observation bucket after the flit times that have passed since it was last used: their number is a free value
(log 6), the gain RATE/1,000 a flit time, the ceiling 5·BURST (R769). -/
def obsFill (s : State) (t : Nat) : State :=
  let (n, s1) := takeFree s
  let cap := 5000 * rfld s (.dbg t) 0x098 11 8
  modTile s1 t (fun x => { x with obsTok := min cap (x.obsTok + rfld s (.dbg t) 0x098 4 0 * n) })

/-- The TRACE packet that carries a record (R765). -/
def tracePkt (s : State) (t : Nat) (layer oper : Half) (bytes : List Byte) : Packet :=
  let a := pairNat s (.dbg t) 0x084 % 2 ^ 48 + 128 * rfld s (.dbg t) 0x090 19 0
  let p : Packet := {
    dst := memNodeOf s (ownPkg s) a, src := tileNode s t 0, opc := opTRACE, tc := 7, layer := layer, oper := oper,
    addr := BitVec.ofNat 48 a, len := 4, data := flitsOfBytes 4 bytes, endb := 31 }
  p

/-- Tracing runs: enabled, and under MODE 1 the buffer is not yet full (R767). -/
def tracing (s : State) (t : Nat) : Bool :=
  rbit s (.dbg t) 0x080 0
    && !(rbit s (.dbg t) 0x080 1 && rfld s (.dbg t) 0x090 19 0 == rfld s (.dbg t) 0x08C 15 0 * 16)

/-- A record is sent, or dropped for want of budget (R767, R769, R770); an isolated tile sends none (R386). -/
def traceSend (s : State) (t : Nat) (layer oper : Half) (bytes : List Byte) : State :=
  if tracing s t = false ∨ isolated s t then s
  else
    let p := Page.dbg t
    let s1 := obsFill s t
    if rfld s p 0x098 4 0 = 0 ∨ (getTile s1 t).obsTok < 5000 then workCount s1 p 0x094 31 0 1
    else
      let s2 := modTile s1 t (fun x => { x with obsTok := x.obsTok - 5000, out := x.out ++ [tracePkt s1 t layer oper bytes] })
      let idx := rfld s2 p 0x090 19 0 + 1
      let s3 := putFld s2 p 0x090 19 0 idx
      if idx = rfld s2 p 0x08C 15 0 * 16 then
        (if rbit s2 p 0x080 1 then isrBit s3 p 4 else putBit (putFld s3 p 0x090 19 0 0) p 0x090 31 true)
      else s3

/-- Flit 0 of a record (Table 18.9). -/
def recHead (s : State) (t seq kind port : Nat) (poi : Bool) : List Byte :=
  leBytes 8 (ntAt s (.dbg t)) ++ leBytes 2 seq ++ leBytes 1 kind ++ leBytes 1 port ++ leBytes 4 (tileNode s t 0).toNat
    ++ leBytes 16 (if poi then 1 else 0)

/-! ## Probes (R761 to R764) -/

def prbOff (k : Nat) : Nat := 0x100 + 0x40 * k

/-- A packet that leaves on a port matches probe k (R761 to R763). -/
def prbMatch (s : State) (t k port : Nat) (p : Packet) : Bool :=
  let g := Page.dbg t
  let o := prbOff k
  let w (x : Nat) : Nat := (rawReg s g (o + x)).toNat
  enabled s g && rbit s g o 0 && rbit s g o (5 + port) && !isDark p && p.opc != opTRACE
    && agree p.dst.toNat (w 0x04) (w 0x08) && agree p.src.toNat (w 0x0C) (w 0x10)
    && agree p.opc.toNat (rfld s g (o + 0x14) 7 0) (rfld s g (o + 0x14) 23 16)
    && agree p.tc.toNat (rfld s g (o + 0x14) 10 8) (rfld s g (o + 0x14) 26 24)
    && agree p.layer.toNat (rfld s g (o + 0x18) 31 16) (rfld s g (o + 0x1C) 31 16)
    && agree p.oper.toNat (rfld s g (o + 0x18) 15 0) (rfld s g (o + 0x1C) 15 0)
    && (k == 0 || !rbit s g o 4 || (getTile s t).prbHit)

/-- A matching probe acts (R764). -/
def prbAct (s : State) (t k port : Nat) (p : Packet) : State :=
  let g := Page.dbg t
  let o := prbOff k
  let s1 := if k = 0 then modTile s t (fun x => { x with prbHit := true }) else s
  let s2 := if rbit s g o 1 then workCount s1 g (o + 0x20) 31 0 1 else s1
  let n := (((getTile s2 t).prbN[k]?).getD 0) + 1
  let s3 := modTile s2 t (fun x => { x with prbN := listMod x.prbN k (fun _ => n) })
  let s4 := if rbit s g o 2 && n % (rfld s g o 19 12 + 1) == 0 then
      let seq := rfld s3 g (o + 0x24) 15 0
      let first := (p.data.head?).getD ⟨0, false⟩
      let s' := putFld s3 g (o + 0x24) 15 0 ((seq + 1) % 65536)
      traceSend s' t p.layer p.oper
        (recHead s t seq k port first.poi ++ leBytes 32 (hdrNat p) ++ leBytes 32 first.bits.toNat ++ leBytes 32 0)
    else s3
  let s5 := if rbit s g o 3 && rbit s g 0x0C0 k && rbit s .dbgp 0x080 9 then stopTrigger s4 3 (tileNode s t 0) none else s4
  sillage (isrBit s5 g k) (.rtr t) 0x53 false p.layer p.oper (BitVec.ofNat 32 k)

/-- A flit of a packet leaves a router on a port: the flit counters (R363, R421), and the probes, which act once a packet,
at its first data flit, or at its header where it has none (R761, Table 18.9). -/
def flitOut (s : State) (t port : Nat) (p : Packet) (fs : List Flit) (probe : Bool) : State :=
  let s1 := if rbit s (.rtr t) 0x060 0 && !p.tent && !isDark p then workCount s (.rtr t) (0x100 + 4 * port) 31 0 1 else s
  let q := { p with data := fs }
  let s2 := if probe && prbMatch s1 t 0 port q then prbAct s1 t 0 port q else s1
  if probe && prbMatch s2 t 1 port q then prbAct s2 t 1 port q else s2

/-! ## Directions (R343, R344) -/

/-- Direction of a leg between two positions of a ring of w: 0 increasing, 1 decreasing. -/
def ringDir (w a b : Nat) : Bool := decide ((a + w - b) % w < (b + w - a) % w)

/-- Direction of a leg that ends at a junction, from a position. -/
def endDir (a : Nat) : Bool := a ≤ 63

/-- Whether the destination is an I/O edge or another package: the row leg ends at a junction (R346, R347). -/
def toDie (s : State) (p : Packet) : Bool := nodeKind p.dst == 2 || nodePkg p.dst != ownPkg s

/-- DIRX and DIRY of a packet that starts at a position, by R342 to R347. -/
def fillDirs (s : State) (x y : Nat) (p : Packet) : Packet :=
  let tx := nodeX p.dst
  let ty := nodeY p.dst
  let dx := if toDie s p then endDir x else ringDir (gridX s) x tx
  let dy := if isRsp p then ringDir (gridY s) y ty
    else if nodeKind p.dst = 1 then endDir y
    else ringDir (gridY s) y ty
  { p with dirx := dx, diry := dy }

/-- The approach of R370 to a span from a position outside it: the direction towards its nearer end. -/
def spanDir (w a lo hi : Nat) : Bool :=
  let d (q : Nat) : Nat := min ((a + w - q) % w) ((q + w - a) % w)
  if d hi < d lo then ringDir w a hi else ringDir w a lo

/-! ## Routes (R321, R342 to R348, R370 to R372) -/

/-- Where a packet goes next: a port and the VC of the buffer it enters, or an end junction of the row or the column. -/
inductive Hop where
  | port (n vc : Nat) (p : Packet)
  | rowEnd (p : Packet)
  | colEnd (p : Packet)
  deriving DecidableEq, Repr

/-- Class base of the VCs. -/
def vcBase (p : Packet) : Nat := if isRsp p then 2 else 0

/-- VC after a link: the leg's VC, or the one past the dateline (R321). -/
def vcNext (p : Packet) (newLeg wrap : Bool) (vc : Nat) : Nat :=
  if wrap then vcBase p + 1 else if newLeg then vcBase p else vc

/-- One step along the row ring. -/
def rowHop (s : State) (x inPort vc : Nat) (p : Packet) : Hop :=
  let newLeg := inPort != 0 && inPort != 1
  let wrap := if p.dirx then x == 0 else x + 1 == gridX s
  .port (if p.dirx then 1 else 0) (vcNext p newLeg wrap vc) p

/-- One step along the column ring. -/
def colHop (s : State) (y inPort vc : Nat) (p : Packet) : Hop :=
  let newLeg := inPort != 2 && inPort != 3
  let wrap := if p.diry then y == 0 else y + 1 == gridY s
  .port (if p.diry then 2 else 3) (vcNext p newLeg wrap vc) p

def toL (p : Packet) : Hop := .port 4 (vcBase p) p

/-- The row leg of a packet bound for an I/O die. -/
def rowOut (s : State) (x inPort vc : Nat) (p : Packet) : Hop :=
  if (p.dirx ∧ x = 0) ∨ (p.dirx = false ∧ x + 1 = gridX s) then .rowEnd p else rowHop s x inPort vc p

/-- The next hop of a unicast packet at router (x, y) from an input port (R342, R345 to R347). -/
def uniHop (s : State) (x y inPort vc : Nat) (p : Packet) : Hop :=
  let tx := nodeX p.dst
  let ty := nodeY p.dst
  let inCol := inPort == 2 || inPort == 3
  let inRow := inPort == 0 || inPort == 1
  if isRsp p then
    if !inRow && y != ty then colHop s y inPort vc p
    else if toDie s p then rowOut s x inPort vc p
    else if x = tx then toL p
    else rowHop s x inPort vc p
  else if toDie s p then rowOut s x inPort vc p
  else if !inCol && x != tx then rowHop s x inPort vc p
  else if nodeKind p.dst = 1 then
    (if (p.diry ∧ y = 0) ∨ (p.diry = false ∧ y + 1 = gridY s) then .colEnd p else colHop s y inPort vc p)
  else if y = ty then toL p
  else colHop s y inPort vc p

/-- The column part of a multicast at its selected column (R371). -/
def mcColumn (s : State) (r : Rect) (y inPort vc : Nat) (p : Packet) : List Hop :=
  let start := inPort != 2 && inPort != 3
  let up : Packet := { p with diry := true }
  let down : Packet := { p with diry := false }
  let here := if r.hasY y then [toL p] else []
  if start then
    if r.y0 ≤ y ∧ y ≤ r.y1 then
      here ++ (if r.y0 < y then [colHop s y inPort vc up] else []) ++ (if y < r.y1 then [colHop s y inPort vc down] else [])
    else [colHop s y inPort vc (if spanDir (gridY s) y r.y0 r.y1 then up else down)]
  else
    here ++ (if r.y0 ≤ y ∧ y ≤ r.y1 ∧ y = (if p.diry then r.y0 else r.y1) then [] else [colHop s y inPort vc p])

/-- Every hop of a multicast packet at router (x, y) from an input port (R370 to R373). -/
def mcHops (s : State) (x y inPort vc : Nat) (p : Packet) : List Hop :=
  let r := rectOf p.aux
  let east : Packet := { p with dirx := false }
  let west : Packet := { p with dirx := true }
  let inSpan := r.x0 ≤ x && x ≤ r.x1
  if inPort = 2 ∨ inPort = 3 then mcColumn s r y inPort vc p
  else
    let col := if r.hasX x then mcColumn s r y inPort vc p else []
    let row :=
      if inPort = 4 then
        if inSpan then
          (if x < r.x1 then [rowHop s x inPort vc east] else []) ++ (if r.x0 < x then [rowHop s x inPort vc west] else [])
        else [rowHop s x inPort vc (if spanDir (gridX s) x r.x0 r.x1 then west else east)]
      else if inSpan && x == (if p.dirx then r.x0 else r.x1) then []
      else [rowHop s x inPort vc p]
    row ++ col

/-- The hops of a packet at a router. -/
def hopsOf (s : State) (t inPort vc : Nat) (p : Packet) : List Hop :=
  if p.mc && !isRsp p then mcHops s (tileX t) (tileY t) inPort vc p
  else [uniHop s (tileX t) (tileY t) inPort vc p]

/-- HCRC follows a change of the header. -/
def reHcrc (p : Packet) : Packet := { p with hcrc := hcrcOf p }

/-! ## Links between routers (R313, R314, R322, R323) -/

/-- The router past a ring port, and the port at which it receives. -/
def neighbour (s : State) (t port : Nat) : Nat × Nat :=
  let x := tileX t
  let y := tileY t
  match port with
  | 0 => (y * 128 + (x + 1) % gridX s, 1)
  | 1 => (y * 128 + (x + gridX s - 1) % gridX s, 0)
  | 2 => ((y + gridY s - 1) % gridY s * 128 + x, 3)
  | _ => ((y + 1) % gridY s * 128 + x, 2)

def getOut (s : State) (t port vc : Nat) : OutVc := tabGet {} (getTile s t).rout (vcKey port vc)
def setOut (s : State) (t port vc : Nat) (o : OutVc) : State :=
  modTile s t (fun x => { x with rout := tabPut x.rout (vcKey port vc) o })

/-- Flits that an input VC holds. -/
def Worm.flits (w : Worm) : Nat := (if w.hd then 1 else 0) + w.pkt.data.length

/-- The block at the port sends what the VC has room for: a VC buffers 8 flits (R320, R323). -/
def Worm.fill (w : Worm) : Worm :=
  { w with pkt := { w.pkt with data := w.pkt.data ++ w.rest.take (8 - w.flits) }, rest := w.rest.drop (8 - w.flits) }

/-- A packet that a block starts to send into an input VC. -/
def wormOf (p : Packet) : Worm := Worm.fill { pkt := { p with data := [] }, rest := p.data }

/-- Every flit of the packet has left. -/
def Worm.over (w : Worm) : Bool := !w.hd && w.tl && w.pkt.data.isEmpty && w.rest.isEmpty

/-- The VC past a ring port can be granted to a packet: none holds it, and its buffer holds nothing of the packet before
(R322, R323). -/
def outFree (s : State) (t port vc : Nat) : Bool :=
  let (u, q) := neighbour s t port
  let o := getOut s t port vc
  !o.held && o.credits == 8 && (getRin s u q vc).isNone

/-! ## Delivery at a tile (R356 to R359, R365, R373, Table 9.4) -/

/-- The node ID that answers for an endpoint of a tile. -/
def answerer (s : State) (t : Nat) (p : Packet) : Word := tileNode s t (nodeEp p.dst)

/-- An answer leaves at a tile. -/
def tileAnswer (s : State) (t : Nat) (p : Packet) : State := modTile s t (fun x => { x with out := x.out ++ [p] })

/-- The partition check of a tile lets a request pass (R357). -/
def partOk (s : State) (t : Nat) (p : Packet) : Bool := rfld s (.rtr t) 0x084 15 0 / 2 ^ p.spart.toNat % 2 == 1

/-- RTR_HCAP takes the header when the next capture will take the error (R333, Table 8.12). -/
def hcap (s : State) (t : Nat) (p : Packet) : State :=
  if rbit s (.rtr t) 0x030 31 then s
  else (List.range 8).foldl (fun s k => putReg s (.rtr t) (0x200 + 4 * k) (BitVec.ofNat 32 (hdrNat p / 2 ^ (32 * k)))) s

/-- A router event: its counter, its interrupt bit, its capture with the header, its ring entry (R328, R333, R358,
R379, R421, R422). -/
def rtrEvent (s : State) (t off hi lo isr code sil : Nat) (p : Packet) : State :=
  let s1 := hcap (addFld s (.rtr t) off hi lo 1) t p
  let s2 := if code = 0x12 then captureCore (isDark p) s1 (.rtr t) code p.tag p.layer p.oper p.src none (isrMask isr)
    else captureOpen (isDark p) s1 (.rtr t) code p.tag p.layer p.oper none (isrMask isr)
  if isDark p ∨ sil = 0 then s2 else sillage s2 (.rtr t) sil p.tent p.layer p.oper p.src

/-- A refusal under R357 is counted and logged, unless the packet is dark (R358). -/
def partRefuse (s : State) (t : Nat) (p : Packet) : State :=
  let s1 := if isDark p then s else rtrEvent s t 0x0C4 15 0 2 0x12 0x52 p
  if unanswered p then s1 else tileAnswer s1 t (refusePkt (answerer s t p) p nkPART)

/-- What the router of an isolated tile answers (Table 9.4); none: the request is served. -/
def isoAnswer (s : State) (t : Nat) (p : Packet) : Option (List Packet) :=
  let me := answerer s t p
  if unanswered p then some []
  else if isPosted p then some [wfnPkt me p rsDEAD]
  else if p.opc = opREGRD ∨ p.opc = opREGWR then
    let a := p.addr.toNat
    if 0x1000 ≤ a ∧ a < 0x5000 ∨ 0x6000 ≤ a ∧ a < 0x7000 then some [deadPkt me p] else none
  else some [deadPkt me p]

/-- The tile takes a request now: the request before it has been consumed. -/
def lFree (s : State) (t : Nat) (p : Packet) : Bool := isRsp p || (getTile s t).lreq.isEmpty

/-- What becomes of a packet at the L port that does not go on it (R338, R357, R365, Table 9.4); none: it does. -/
def tileRefuse (s : State) (t : Nat) (p : Packet) : Option State :=
  if isRsp p then (if isolated s t || !rspKnown p then some s else none)
  else if partOk s t p = false then some (partRefuse s t p)
  else if isolated s t then (isoAnswer s t p).map (fun l => l.foldl (fun s a => tileAnswer s t a) s)
  else none

/-- A whole packet has crossed the L port of its tile. -/
def toTile (s : State) (t : Nat) (p : Packet) : State :=
  match tileRefuse s t p with
  | some s1 => s1
  | none =>
    if isRsp p then modTile s t (fun x => { x with lrsp := x.lrsp ++ [p] })
    else if rowAt p = false ∧ isolated s t = false then (strayAnswer p).foldl (fun s a => tileAnswer s t a) s
    else
      let s1 := if (getTile s t).lreq = [] then headNow s t else s
      modTile s1 t (fun x => { x with lreq := x.lreq ++ [p] })

/-! ## Junctions (R49, R53, R316, R346, R347, R585) -/

/-- The I/O die that a row junction passes a packet to (R346, R347, Table 8.12), by the PSEL of its injecting router at
its injection (R351); what a memory edge sends takes PSEL 0 (log 70). -/
def rowDie (s : State) (p : Packet) : Nat :=
  if nodePkg p.dst = ownPkg s then nodeX p.dst % 2
  else if dieFitted s 1 = false then 0
  else
    match p.psel with
    | 0 => if p.dirx then 0 else 1
    | 1 => 0
    | _ => 1

/-- A packet reaches an I/O die. A request for an absent die waits for the junction's answer (R53). -/
def toDieIn (s : State) (d : Nat) (p : Packet) : State :=
  if isRsp p ∧ nodePkg p.dst = ownPkg s then
    (if dieFitted s d && rspKnown p then modDie s d (fun x => { x with rsp := x.rsp ++ [p] }) else s)
  else if nodePkg p.dst = ownPkg s then
    (if dieFitted s d && !rowAt p then modDie s d (fun x => { x with out := x.out ++ strayAt s (.io d) p })
     else modDie s d (fun x => { x with req := x.req ++ [p] }))
  else modDie s d (fun x => { x with osw := x.osw ++ [{ pkt := p }] })

/-- A packet reaches a memory edge, or its absent place (R49). -/
def toEdge (s : State) (p : Packet) : State :=
  let x := nodeX p.dst
  let e := nodeY p.dst
  if isRsp p then (if rspKnown p then modEdge s x e (fun g => { g with rsp := g.rsp ++ [p] }) else s)
  else if edgePop s x e && !rowAt p then modEdge s x e (fun g => { g with out := g.out ++ strayAt s (.mem x e) p })
  else modEdge s x e (fun g => { g with req := g.req ++ [p] })

/-- A memory edge holds 64 requests (R607). -/
def edgeRoom (s : State) (x e : Nat) : Bool := (getEdge s x e).req.length < 64

/-! ## A flit moves at a router (R322 to R324, R333, R374 to R377, R379, log 29) -/

/-- Where the header of a packet asks to go from an input VC, with the directions of the copy. -/
def hopOut : Hop → WormOut × Packet
  | .port 4 vc p => (.sink 4 vc, p)
  | .port n vc p => (.link n vc, p)
  | .rowEnd p => (.sink (if p.dirx then 1 else 0) (vcBase p), p)
  | .colEnd p => (.sink (if p.diry then 2 else 3) (vcBase p), p)

def headTo (s : State) (t port vc : Nat) (p : Packet) : WormOut × Packet :=
  match hopsOf s t port vc p with
  | [] => (.absorb, p)
  | [h] => hopOut h
  | _ => (.fork, p)

/-- A packet of the same source waits in the fork buffer for the output, in a slot before n (R349, R352). -/
def forkAhead (s : State) (t n port : Nat) (p : Packet) : Bool :=
  ((getTile s t).fork.take n).any (fun f => f.pkt.src == p.src && f.brs.any (fun b => b.port == port && !b.started))

/-- An output VC can be granted to a header (R322, R323). -/
def headReady (s : State) (t : Nat) (o : WormOut) (p : Packet) : Bool :=
  match o with
  | .link n vc => outFree s t n vc
  | .sink 4 vc => (tileRefuse s t p).isSome || (!(getOut s t 4 vc).held && lFree s t p)
  | .sink n vc => !(getOut s t n vc).held && (n < 2 || isRsp p || edgeRoom s (nodeX p.dst) (nodeY p.dst))
  | _ => true

/-- A data flit can go to an output that its packet holds (R323): the tile and the junctions take every flit. -/
def bodyReady (s : State) (t : Nat) (o : WormOut) : Bool :=
  match o with
  | .link n vc => (getOut s t n vc).credits != 0
  | _ => true

def WormOut.at : WormOut → Option (Nat × Nat)
  | .link n vc => some (n, vc)
  | .sink n vc => some (n, vc)
  | _ => none

/-- The output of a fork branch. -/
def ForkBr.out (b : ForkBr) : WormOut := if b.port = 4 then .sink 4 b.vc else .link b.port b.vc

/-- Number of a fork branch among the inputs of a router, behind its 20 input VCs. -/
def forkIn (slot bi : Nat) : Nat := 20 + 8 * slot + bi

/-- The input VC that asks for an output with a flit that could go now. -/
def wormAsks (s : State) (t : Nat) (e : Nat × Worm) : Option (Nat × Nat × Nat) :=
  let w := e.2
  if w.hd then
    let h := headTo s t (e.1 / 4) (e.1 % 4) w.pkt
    if headReady s t h.1 h.2 && !forkAhead s t 2 ((h.1.at.map (·.1)).getD 5) h.2 then h.1.at.map (fun o => (e.1, o)) else none
  else if w.pkt.data.isEmpty then none
  else (w.out.filter (bodyReady s t)).bind (fun o => o.at.map (fun o => (e.1, o)))

/-- The fork branch that does. -/
def branchAsks (s : State) (t slot bi : Nat) (f : ForkEntry) (b : ForkBr) : Option (Nat × Nat × Nat) :=
  if b.fin then none
  else if b.started = false then
    (if headReady s t b.out b.pkt && !forkAhead s t slot b.port b.pkt then some (forkIn slot bi, b.port, b.vc) else none)
  else if b.sent < f.pkt.data.length ∧ bodyReady s t b.out then some (forkIn slot bi, b.port, b.vc)
  else none

/-- Every input that asks for an output now, with the port and VC it asks for. -/
def asks (s : State) (t : Nat) : List (Nat × Nat × Nat) :=
  let x := getTile s t
  x.rin.filterMap (wormAsks s t)
    ++ (x.fork.mapIdx (fun i f => (f.brs.mapIdx (fun j b => branchAsks s t i j f b)).filterMap id)).flatten

/-- The output port grants its next flit to an input: it rotates over the VCs that ask for it, and within a VC over the
inputs (R324). -/
def turn (s : State) (t src port vc : Nat) : Bool :=
  let l := (asks s t).filter (fun a => a.2.1 == port)
  let v0 := tabGet 3 (getTile s t).rrVc port
  let vs := ((List.range 4).map (fun i => (v0 + 1 + i) % 4)).find? (fun v => l.any (fun a => a.2.2 == v))
  let ins := (l.filter (fun a => a.2.2 == vc)).map (·.1)
  let last := (getOut s t port vc).last
  let best := match ins.filter (last < ·) with
    | [] => ins.min?
    | r => r.min?
  vs == some vc && best == some src

/-- An output VC has been granted a flit: a header takes the VC, the tail gives it up. -/
def granted (s : State) (t src port vc : Nat) (head last spend : Bool) : State :=
  let o := getOut s t port vc
  let s1 := setOut s t port vc { credits := if spend then o.credits - 1 else o.credits, held := !last, last := if head then src else o.last }
  modTile s1 t (fun x => { x with rrVc := tabPut x.rrVc port vc })

/-- A whole packet has reached the tile or an end junction. -/
def arrive (s : State) (t port : Nat) (p : Packet) : State :=
  match port with
  | 4 => toTile s t p
  | 0 | 1 => toDieIn s (rowDie s p) p
  | _ => toEdge s p

/-- A header goes to its output; `last` where the packet has no data flit. -/
def headGo (s : State) (t src : Nat) (o : WormOut) (p : Packet) (last : Bool) : State :=
  match o with
  | .link n vc =>
    let (u, q) := neighbour s t n
    let s1 := granted (flitOut s t n p [] last) t src n vc true last true
    setRin s1 u q vc (some { pkt := { reHcrc p with data := [] }, tl := last })
  | .sink n vc =>
    let s1 := granted (flitOut s t n p [] last) t src n vc true last false
    if last then arrive s1 t n { p with data := [] }
    else modTile s1 t (fun x => { x with asm := tabPut x.asm (vcKey n vc) { p with data := [] } })
  | _ => s

/-- A data flit goes to the output that its packet holds; `first` and `last` of the packet. -/
def bodyGo (s : State) (t src : Nat) (o : WormOut) (p : Packet) (f : Flit) (first last : Bool) : State :=
  match o with
  | .link n vc =>
    let (u, q) := neighbour s t n
    let s1 := granted (flitOut s t n p [f] first) t src n vc false last true
    match getRin s1 u q vc with
    | some w => setRin s1 u q vc (some { w with pkt := { w.pkt with data := w.pkt.data ++ [f] }, tl := last })
    | none => s1
  | .sink n vc =>
    let s1 := granted (flitOut s t n p [f] first) t src n vc false last false
    let k := vcKey n vc
    let q := tabGet p (getTile s1 t).asm k
    let q1 := { q with data := q.data ++ [f] }
    if last then arrive (modTile s1 t (fun x => { x with asm := tabDel x.asm k })) t n q1
    else modTile s1 t (fun x => { x with asm := tabPut x.asm k q1 })
  | _ => s

/-- Bytes of data flits that the packets of a fork buffer take, by their LEN (R374, R375). -/
def forkSize (p : Packet) : Nat := 32 * min 64 p.len.toNat
def forkBytes (x : Tile) : Nat := (x.fork.map (fun f => forkSize f.pkt)).sum

/-- The fork buffer takes a whole packet (R375). -/
def forkRoom (x : Tile) (p : Packet) : Bool := x.fork.length < 2 && forkBytes x + forkSize p ≤ 4096

def hopBr (h : Hop) : ForkBr :=
  match h with
  | .port n vc p => ⟨n, vc, false, { p with data := [] }, 0, false⟩
  | .rowEnd p => ⟨4, 0, false, { p with data := [] }, 0, false⟩
  | .colEnd p => ⟨4, 0, false, { p with data := [] }, 0, false⟩

/-- The header of a multicast packet enters the fork buffer with its branches. -/
def forkTake (s : State) (t key : Nat) (p : Packet) (last : Bool) (hs : List Hop) : State :=
  modTile s t (fun x => { x with fork := x.fork ++ [{ pkt := { p with data := [] }, brs := hs.map hopBr, src := key, tl := last }] })

/-- Whether the router of a tile runs: not halted, package up (R396, R728). -/
def rtrRuns (s : State) (t : Nat) : Bool := !stopped s (.rtr t) && !pkgFailed s && !(t ∈ s.mgt.failedRtrs)

/-- The packet of an input VC goes on without its header, or has gone. -/
def headLeft (s : State) (t port vc : Nat) (w : Worm) (o : WormOut) : State :=
  let w1 := Worm.fill { w with hd := false, out := some o }
  setRin s t port vc (if w1.over then none else some w1)

/-- The header at the head of an input VC: absorbed with its packet on a failed check, refused at its tile, forked, or
granted its output in turn (R322, R333, R373, R375, R379). A LEN of 65 to 127 is counted when the header goes. -/
def headStep (s : State) (t port vc : Nat) (w : Worm) (hdrErr : Bool) : State :=
  let p := w.pkt
  let key := vcKey port vc
  let last := w.tl && p.data.isEmpty && w.rest.isEmpty
  let malf (s : State) : State := if 64 < p.len.toNat then rtrEvent s t 0x0C4 31 16 3 0x13 0x51 p else s
  if hdrErr || p.hcrc != hcrcOf p then headLeft (rtrEvent s t 0x0C0 15 0 0 0x10 0x50 p) t port vc w .absorb
  else
    let h := headTo s t port vc p
    match h.1 with
    | .absorb => headLeft (malf s) t port vc w .absorb
    | .fork =>
      if forkRoom (getTile s t) p then headLeft (forkTake (malf s) t key p last (hopsOf s t port vc p)) t port vc w .fork
      else s
    | .sink n v =>
      match if n = 4 then tileRefuse (malf s) t h.2 else none with
      | some s1 => headLeft s1 t port vc w .absorb
      | none =>
        if headReady s t h.1 h.2 && turn s t key n v then headLeft (headGo (malf s) t key h.1 h.2 last) t port vc w h.1 else s
    | .link n v =>
      if headReady s t h.1 h.2 && turn s t key n v then headLeft (headGo (malf s) t key h.1 h.2 last) t port vc w h.1 else s

/-- A flit enters the fork buffer behind its header (R375). -/
def forkFeed (s : State) (t key : Nat) (f : Flit) (last : Bool) : State :=
  let add (e : ForkEntry) : ForkEntry := { e with pkt := { e.pkt with data := e.pkt.data ++ [f] }, tl := last }
  modTile s t (fun x => { x with fork := modFirst (fun e => e.src == key && !e.tl) add x.fork })

/-- The data flit at the head of an input VC: it carries POI from here on where its parity fails, or LEN is 65 to 127; of
such a packet 64 go on and the others are absorbed (R328, R379, R380). -/
def bodyStep (s : State) (t port vc : Nat) (w : Worm) (par : List Nat) : State :=
  match w.pkt.data with
  | [] => s
  | f :: fs =>
    let key := vcKey port vc
    let hit := w.seen ∈ par
    let cut := 64 < w.pkt.len.toNat
    let gone := w.tl && fs.isEmpty && w.rest.isEmpty
    let last := gone || (cut && w.seen == 63)
    let g : Flit := { f with poi := f.poi || hit || cut }
    let w1 := Worm.fill { w with pkt := { w.pkt with data := fs }, seen := w.seen + 1 }
    let leave (s : State) : State := setRin s t port vc (if gone then none else some w1)
    let s1 := if hit then rtrEvent s t 0x0C0 31 16 1 0x11 0 w.pkt else s
    let o := w.out.getD .absorb
    if cut && 64 ≤ w.seen then leave s1
    else match o with
      | .absorb => leave s1
      | .fork => leave (forkFeed s1 t key g last)
      | .link n v => if bodyReady s t o && turn s t key n v then leave (bodyGo s1 t key o w.pkt g (w.seen == 0) last) else s
      | .sink n v => if turn s t key n v then leave (bodyGo s1 t key o w.pkt g (w.seen == 0) last) else s

/-- The next flit of an input VC moves, if it can (R322 to R324, R377). -/
def routePacket (s : State) (t port vc : Nat) (hdrErr : Bool) (par : List Nat) : State :=
  if rtrRuns s t = false then s
  else match getRin s t port vc with
    | none => s
    | some w => if w.hd then headStep s t port vc w hdrErr else bodyStep s t port vc w par

/-- A branch of a fork slot has moved; the slot is freed when every branch has sent the tail (R376). -/
def branchPut (s : State) (t slot bi : Nat) (f : ForkEntry) (b : ForkBr) : State :=
  let brs := listMod f.brs bi (fun _ => b)
  if brs.all (·.fin) then modTile s t (fun x => { x with fork := x.fork.eraseIdx slot })
  else modTile s t (fun x => { x with fork := listMod x.fork slot (fun f => { f with brs := brs }) })

/-- A branch of a fork slot starts when its output VC is granted, and sends its flits as they come (R373, R376). -/
def forkStart (s : State) (t slot bi : Nat) : State :=
  match (getTile s t).fork[slot]? with
  | none => s
  | some f =>
    match f.brs[bi]? with
    | none => s
    | some b =>
      let src := forkIn slot bi
      if b.fin then s
      else if b.started then
        match f.pkt.data[b.sent]? with
        | none => s
        | some g =>
          let last := f.tl && b.sent + 1 == f.pkt.data.length
          if bodyReady s t b.out && turn s t src b.port b.vc then
            branchPut (bodyGo s t src b.out b.pkt g (b.sent == 0) last) t slot bi f { b with sent := b.sent + 1, fin := last }
          else s
      else
        let last := f.tl && f.pkt.data.isEmpty
        match if b.port = 4 then tileRefuse s t b.pkt else none with
        | some s1 => branchPut s1 t slot bi f { b with started := true, fin := true }
        | none =>
          if headReady s t b.out b.pkt && !forkAhead s t slot b.port b.pkt && turn s t src b.port b.vc then
            branchPut (headGo s t src b.out b.pkt last) t slot bi f { b with started := true, fin := last }
          else s

/-! ## Injection (R293, R331, R335, R341, R398, R616) -/

/-- The node that the injecting router answers for. -/
def injectNak (p : Packet) : Packet := nakPkt p.dst p nkMALFORMED

/-- A packet of a tile enters its router at the L port, or comes back refused. It is sent to the plane that PSEL selects
now (R351). -/
def injectTile (s : State) (t : Nat) (p : Packet) : State :=
  let q := { fillDirs s (tileX t) (tileY t) p with
    spart := BitVec.ofNat 4 (rfld s (.til t) 0x080 3 0), psel := rfld s (.rtr t) 0x080 1 0 }
  if injectBad s q then modTile s t (fun x => { x with lrsp := x.lrsp ++ [injectNak q] })
  else setRin s t 4 (vcBase p) (some (wormOf (reHcrc q)))

/-- The first packet that may enter of each class in a list of packets. -/
def firstOf (l : List Packet) (ok : Packet → Bool) : Option Packet :=
  match l.find? isRsp with
  | some p => if ok p then some p else (l.find? (fun p => !isRsp p)).filter ok
  | none => (l.find? (fun p => !isRsp p)).filter ok

/-- A packet is taken out of a list, once. -/
def takeOut (l : List Packet) (p : Packet) : List Packet := dropFirst (· == p) l

/-- The deadline of a response to a request injected now (R700); none with TO = 0. -/
def rspTill (s : State) : Option Nat :=
  let to_ := rfld s .scr 0x084 19 0
  if to_ = 0 then none else some (eTime s + usTicks to_)

/-- MOV notes the injection of a packet of its own: requests stand in the order they were injected. -/
def noteInjected (s : State) (t : Nat) (p : Packet) : State :=
  if p.opc = opCONF ∨ p.opc = opWDRW ∨ nodeEp p.src ≠ 0 then s
  else if p.opc = opRESV then
    modTile s t (fun x => { x with
      srcResvs := modFirst (fun v => v.tag == p.tag) (fun v => { v with inj := some (eTime s), till := rspTill s }) x.srcResvs })
  else
    modTile s t (fun x => { x with
      movReqs := match x.movReqs.find? (fun r => r.tag == p.tag && r.inj.isNone && r.due.isNone) with
        | some r => x.movReqs.filter (· != r) ++ [{ r with
            inj := some (eTime s), till := rspTill s, hold := eTime s + ticks (rfld s (.til t) 0x114 7 0) }]
        | none => x.movReqs })

/-- TIL notes the injection of the request of a lease (R302, R700). -/
def noteLease (s : State) (t : Nat) (p : Packet) : State :=
  if isRsp p ∨ nodeEp p.src ≠ 1 then s
  else modTile s t (fun x => { x with
    leaseReq := x.leaseReq.map (fun e => if e.2.1 = p.tag then (e.1, (e.2.1, rspTill s)) else e) })

/-- A combining queue leaves RESULT for DONE (Table 10.7). -/
def cqFinish (s : State) (t n : Nat) : State :=
  let c := getCq s t n
  let s1 := isrBit (putFld s (.cmb t) (0x318 + 0x40 * n) 2 0 5) (.cmb t) (8 + n)
  sillage s1 (.cmb t) 0x42 false c.layer c.oper (BitVec.ofNat 32 n)

/-- CMB notes the injection of a packet of its own; a SIGNAL of R452 awaits no answer, and the last one of a queue ends
RESULT (Table 10.7). -/
def noteResult (s : State) (t : Nat) (p : Packet) : State :=
  if isRsp p ∨ nodeKind p.src ≠ 0 ∨ nodeEp p.src < 8 ∨ 0xF < nodeEp p.src then s
  else
  let n := nodeEp p.src - 8
  let s1 := modCq s t n (fun c => { c with
    res := match c.res.find? (fun r => r.tag == p.tag && r.inj.isNone) with
      | some r => c.res.filter (· != r) ++ (if r.want = 0 then [] else [{ r with inj := some (eTime s), till := rspTill s }])
      | none => c.res })
  if p.opc = opSIGNAL ∧ cqState s1 t n = 4 ∧ (getCq s1 t n).res = [] ∧ (getCq s1 t n).rst = false then cqFinish s1 t n else s1

/-- CMB runs: not halted, not isolated (R386, R728). -/
def cmbLive (s : State) (t : Nat) : Bool := !stopped s (.cmb t) && !isolated s t

/-- Result packets enter the injection queue of their CQ while there is room (R450). -/
def cmbPump (s : State) (t : Nat) : State :=
  if cmbLive s t = false then s
  else (List.range 8).foldl (fun s n =>
    (getCq s t n).res.foldl (fun s r =>
      let q := rfld s (.cmb t) (0x300 + 0x40 * n) 20 19
      if !r.queued && r.due.isNone && iqRoom s t q then
        iqPush (modCq s t n (fun c => { c with
          res := modFirst (fun u => u.tag == r.tag) (fun u => { u with queued := true }) c.res })) t q r.pkt
      else s) s) s

/-- MOV runs: not halted, not isolated; EN = 0 stops only the start of commands (R386, R728, R824). -/
def movRuns (s : State) (t : Nat) : Bool := !stopped s (.mov t) && !isolated s t && !pkgFailed s

/-- The tiles that a request names, as a rectangle. -/
def reqRect (p : Packet) : Rect := if p.mc then rectOf p.aux else ⟨nodeX p.dst, nodeX p.dst, nodeY p.dst, nodeY p.dst, 1, 1⟩

/-- Two packets of one source endpoint that may reach one endpoint by different ways: a multicast and another packet
(R352). -/
def mayPass (e p : Packet) : Bool :=
  let a := reqRect e
  let b := reqRect p
  (e.mc || p.mc) && !(e.mc == p.mc && e.aux == p.aux) && e.src == p.src && !isRsp e && nodeEp e.dst == nodeEp p.dst
    && nodeKind e.dst == nodeKind p.dst && a.x0 ≤ b.x1 && b.x0 ≤ a.x1 && a.y0 ≤ b.y1 && b.y0 ≤ a.y1

/-- Packets in the routers of the fabric. -/
def inFabric (s : State) : List Packet :=
  s.tiles.flatMap (fun e => e.2.rin.map (·.2.pkt) ++ e.2.fork.map (·.pkt) ++ e.2.asm.map (·.2))

/-- The packet waits at injection so that it does not pass an earlier one on its way (R352, log 29). -/
def orderWait (s : State) (p : Packet) : Bool := (inFabric s).any (fun e => mayPass e p)

/-- The injection queue that is served next (R280, R291 to R293). -/
def iqServed (s : State) (t : Nat) : Option Nat :=
  let x := getTile s t
  if movRuns s t && portFree s t 0 then
    ((List.range 4).map (fun i => (x.iqNext + i) % 4)).find? (fun q => iqPass s t q && trackFree x q && !(iqOf x q).head?.any (orderWait s))
  else none

/-- One packet enters at the L port of a tile: an answer or a trace record, responses before requests, else the head of an
injection queue (DESIGN CHOICE, log 71: R65 leaves the order among them open). -/
def injectL (s0 : State) (t : Nat) : State :=
  let s := gDue s0 (.mov t)
  match firstOf (getTile s t).out (fun p => portFree s t (vcBase p)) with
  | some p =>
    injectTile (noteLease (modTile s t (fun x => { x with out := takeOut x.out p })) t p) t p
  | none =>
    match iqServed s t with
    | none => s
    | some q =>
      match iqOf (getTile s t) q with
      | [] => s
      | p :: rest =>
        let s1 := gateStart s (.mov t) q (movTx p)
        let s2 := modTile s1 t (fun x => { x with iq := listMod x.iq q (fun _ => rest), iqNext := (q + 1) % 4 })
        movPump (cmbPump (injectTile (noteResult (noteInjected s2 t p) t p) t p) t) t

/-- The row at which an I/O die injects a packet (R585, R616). -/
def dieRow (p : Packet) : Nat := if nodeKind p.dst = 1 then nodeX p.dst else nodeY p.dst

/-- A packet leaves an I/O die: to its own switch, to its own blocks, across the junction, or into a row (R346, R585). -/
def injectDie (s : State) (d : Nat) (p : Packet) : Option State :=
  let gone := modDie s d (fun x => { x with out := takeOut x.out p })
  if nodePkg p.dst ≠ ownPkg s then some (modDie gone d (fun x => { x with osw := x.osw ++ [{ pkt := p }] }))
  else if injectBad s p then some (modDie gone d (fun x =>
    if nodePkg p.src = ownPkg s then { x with rsp := x.rsp ++ [injectNak p] }
    else { x with osw := x.osw ++ [{ pkt := injectNak p }] }))
  else if nodeKind p.dst = 2 then some (toDieIn gone (nodeX p.dst % 2) p)
  else
    let x := nodeX p.dst
    let west := endDir x
    let t := dieRow p * 128 + (if west then 0 else gridX s - 1)
    let port := if west then 1 else 0
    let q : Packet := { p with dirx := !west, diry := nodeKind p.dst == 1 && endDir (dieRow p) }
    if (getRin s t port (vcBase p)).isNone then some (setRin gone t port (vcBase p) (some (wormOf (reHcrc q)))) else none

/-- A response leaves a memory edge into its column (R345, R347). -/
def injectEdge (s : State) (x e : Nat) (p : Packet) : Option State :=
  let north := endDir (nodeY p.dst)
  let y := if north then 0 else gridY s - 1
  let t := y * 128 + x
  let port := if north then 2 else 3
  let q : Packet := { p with diry := !north, dirx := if toDie s p then endDir x else ringDir (gridX s) x (nodeX p.dst) }
  if (getRin s t port (vcBase p)).isNone then
    some (setRin (modEdge s x e (fun g => { g with out := takeOut g.out p })) t port (vcBase p) (some (wormOf (reHcrc q))))
  else none

/-- The first packet of a list that enters. -/
def firstIn (f : Packet → Option State) : List Packet → Option State
  | [] => none
  | p :: r => match f p with
    | some s => some s
    | none => firstIn f r

/-- Only the first packet of each class competes. -/
def heads (l : List Packet) : List Packet := (l.find? isRsp).toList ++ (l.find? (fun p => !isRsp p)).toList

/-- One packet enters the fabric at a place. -/
def injectAt (s : State) (p : Place) : State :=
  match p with
  | .tile t => injectL s t
  | .mem x e => (firstIn (injectEdge s x e) (heads (getEdge s x e).out)).getD s
  | .io d => (firstIn (injectDie s d) (heads (getDie s d).out)).getD s

end Sys2Proof.Machine
end

