-- ==== Sys2Proof/Machine/CmbOps.lean ====
section
/-! DEFINITION. Cooper: receive queues, the refusal table, reservations, combining queues and their results, the CMB
commands; and the TM and SEM endpoints of a tile. -/

namespace Sys2Proof.Machine

/-! ## Receive queues (R400 to R407, Table 10.9) -/

def rqOff (n : Nat) : Nat := 0x100 + 0x20 * n
def rqEn (s : State) (t n : Nat) : Bool := rbit s (.cmb t) (rqOff n) 0
def rqBase (s : State) (t n : Nat) : Nat := rfld s (.cmb t) (rqOff n + 4) 17 0
def rqSize (s : State) (t n : Nat) : Nat := rfld s (.cmb t) (rqOff n + 8) 17 0
def rqPtr (s : State) (t n : Nat) : Nat := rfld s (.cmb t) (rqOff n + 0xC) 17 0
def rqTail (s : State) (t n : Nat) : Nat := rfld s (.cmb t) (rqOff n + 0x10) 17 0

/-- Bytes that entries occupy. -/
def rqUsed (s : State) (t n : Nat) : Nat :=
  if rqNonEmpty s t n = false then 0
  else if rqPtr s t n < rqTail s t n then rqTail s t n - rqPtr s t n
  else rqSize s t n + rqTail s t n - rqPtr s t n

/-- Reservations held at an endpoint of the tile, and their sum. -/
def heldAt (s : State) (t ep : Nat) : List Resv := (getTile s t).resvs.filter (fun r => r.ep == ep)
def heldSum (s : State) (t ep : Nat) : Nat := ((heldAt s t ep).map (·.amount)).sum

/-- Bytes of an entry with L payload bytes (R401). -/
def entrySize (l : Nat) : Nat := 32 + (l + 31) / 32 * 32

/-- A message fits beside what is occupied and reserved (R405). -/
def rqFits (s : State) (t n size : Nat) : Bool := rqUsed s t n + heldSum s t (0x10 + n) + size ≤ rqSize s t n

/-- Bytes put into a ring from an offset, past its end to its base (R402). -/
def ringPut (s : State) (base size off : Nat) (bs : List Byte) : State :=
  memStore (memStore s (base + off) (bs.take (size - off))) base (bs.drop (size - off))

/-- n bytes of a ring from an offset. -/
def ringGet (s : State) (base size off n : Nat) : List Byte :=
  readMem s (base + off) (min n (size - off)) ++ readMem s base (n - min n (size - off))

/-- The entry of a message (Table 10.1). -/
def entryBytes (s : State) (t : Nat) (q : Packet) : List Byte :=
  let l := (payload q).length
  leBytes 4 q.src.toNat ++ leBytes 2 l ++ leBytes 2 q.tag.toNat ++ leBytes 2 q.layer.toNat ++ leBytes 2 q.oper.toNat
    ++ leBytes 1 q.opc.toNat ++ leBytes 1 (if q.mc then 1 else 0) ++ leBytes 2 0 ++ leBytes 8 (ntAt s (.cmb t)) ++ leBytes 8 0
    ++ payload q ++ List.replicate (entrySize l - 32 - l) 0

/-- A message is written whole, TAIL advances, and its refusal entry clears (R406, R413). -/
def rqAccept (s : State) (t n : Nat) (q : Packet) : State :=
  let e := entryBytes s t q
  let s1 := ringPut s (tmKey t (rqBase s t n)) (rqSize s t n) (rqTail s t n) e
  let s2 := putFld s1 (.cmb t) (rqOff n + 0x10) 17 0 ((rqTail s t n + e.length) % rqSize s t n)
  let s3 := putBit s2 (.cmb t) (rqOff n + 0x14) 0 true
  let s4 := modTile s3 t (fun x => { x with
    refusals := x.refusals.filter (fun r => !(r.src == q.src && r.rq == n && r.tag == q.tag)) })
  ackAt s4 (.tile t) q

/-- A refusal of a message with an entry of the refusal table, unless its channel has one (R412, R414). -/
def rqRefuse (s : State) (t n : Nat) (q : Packet) (reason : Nat) : State :=
  let x := getTile s t
  let to_ := rfld s (.cmb t) 0x084 19 0
  let s1 := if x.refusals.any (fun r => r.src == q.src && r.rq == n) then s
    else if 16 ≤ x.refusals.length then isrBit s (.cmb t) 3
    else modTile s t (fun x => { x with refusals := x.refusals ++
      [⟨q.src, n, q.tag, if to_ = 0 then none else some (eTime s + usTicks to_)⟩] })
  answerAt s1 (.tile t) (nakPkt (meAt s (.tile t) q) q reason)

/-- A message at a receive queue (R405 to R415, Table 10.2, Table 17.3). It is still at the head of the L port; its own
CONFIRMED reservation ends as it arrives (Table 5.3), and with it the message always fits (R405). -/
def rqMessage (s : State) (t : Nat) (q : Packet) : State :=
  let n := nodeEp q.dst - 0x10
  let x := getTile s t
  let nak (s : State) (r : Nat) : State := answerAt (popReq s (.tile t)) (.tile t) (nakPkt (meAt s (.tile t) q) q r)
  let own (r : Resv) : Bool := r.confirmed && r.src == q.src && r.ep == 0x10 + n && r.tag == q.tag
  let s0 := modTile s t (fun x => { x with resvs := dropFirst own x.resvs })
  if n ∈ x.rqRetired then answerAt (popReq s0 (.tile t)) (.tile t) (refusePkt (meAt s (.tile t) q) q nkRETIRED)
  else if rqEn s t n = false then nak s0 nkOFF
  else
    let size := entrySize (payload q).length
    let fits := x.resvs.any own || rqFits s0 t n size
    let entry := x.refusals.find? (fun r => r.src == q.src && r.rq == n)
    if 16 ≤ x.refusals.length ∧ (entry = none ∨ fits = false) then nak (isrBit s0 (.cmb t) 3) nkFULL
    else if entry.any (fun r => r.tag != q.tag) then nak s0 nkFULL
    else if fits then rqAccept (popReq s0 (.tile t)) t n q
    else if rbit s (.cmb t) (rqOff n) 1 = false then rqRefuse (popReq s0 (.tile t)) t n q nkFULL
    else if rfld s (.cmb t) (rqOff n) 27 8 = 0 then rqRefuse (popReq s0 (.tile t)) t n q nkHOLD
    else modTile s0 t (fun x => { x with stalled := some (n, eTime s + usTicks (rfld s (.cmb t) (rqOff n) 27 8)) })

/-- Space was freed: a stalled message that now fits is written (Table 10.2, R409). -/
def rqUnstall (s : State) (t : Nat) : State :=
  match (getTile s t).stalled, (getTile s t).lreq with
  | some (n, _), q :: _ =>
    if rqFits s t n (entrySize (payload q).length) then
      rqAccept (popReq (modTile s t (fun x => { x with stalled := none })) (.tile t)) t n q
    else s
  | _, _ => s

/-- A stalled message is refused and leaves the port. -/
def stallEnd (s : State) (t : Nat) (f : State → Packet → State) : State :=
  match (getTile s t).lreq with
  | q :: _ => f (popReq (modTile s t (fun x => { x with stalled := none })) (.tile t)) q
  | [] => modTile s t (fun x => { x with stalled := none })

/-- HOLD of a stalled message ends (R408, R409): a message that fits is written, any other is refused. -/
def stallOver (s : State) (t : Nat) : State :=
  match (getTile s t).stalled with
  | some (n, due) =>
    if cmbLive s t then
      let s1 := rqUnstall (atLeast s due) t
      if (getTile s1 t).stalled.isNone then s1 else stallEnd s1 t (fun s q => rqRefuse s t n q nkHOLD)
    else s
  | none => s

/-- EN of a receive queue goes to 0: the ring empties, a stalled message is answered, a retired queue is restored
(Table 10.2, Table 10.9, Table 17.3). -/
def rqDisable (s : State) (t n : Nat) : State :=
  let p := Page.cmb t
  let s1 := putBit (putFld (putFld s p (rqOff n + 0xC) 17 0 0) p (rqOff n + 0x10) 17 0 0) p (rqOff n + 0x14) 0 false
  let s2 := match (getTile s1 t).stalled with
    | some (m, _) => if m = n then stallEnd s1 t (fun s q => answerAt s (.tile t) (nakPkt (meAt s (.tile t) q) q nkOFF)) else s1
    | none => s1
  if n ∈ (getTile s2 t).rqRetired then
    bucketRestore (modTile s2 t (fun x => { x with rqRetired := x.rqRetired.filter (· != n) })) 3 (t * 16 + n)
  else s2

/-! ## Reservations (R228 to R235, Table 5.3, R437, R460) -/

def cqOff (n : Nat) : Nat := 0x300 + 0x40 * n
def cqEn (s : State) (t n : Nat) : Bool := rbit s (.cmb t) (cqOff n) 0
def cqK (s : State) (t n : Nat) : Nat := (rawReg s (.cmb t) (cqOff n + 0x14)).toNat
def cqMax (s : State) (t n : Nat) : Nat := (getCq s t n).counts.foldl max 0
def cqSetState (s : State) (t n st : Nat) : State := putFld s (.cmb t) (cqOff n + 0x18) 2 0 st

/-- A RESV would be granted (R229, R437). -/
def resvRoom (s : State) (t ep amount : Nat) : Bool :=
  (getTile s t).resvs.length < 32 &&
    (if ep < 0x10 then cqState s t (ep - 8) == 3 && cqMax s t (ep - 8) + heldSum s t ep < cqK s t (ep - 8)
     else rqEn s t (ep - 0x10) && rqFits s t (ep - 0x10) amount)

/-- A RESV (R229, R230). -/
def resvTake (s : State) (t : Nat) (q : Packet) : State :=
  let ep := nodeEp q.dst
  let me := meAt s (.tile t) q
  let s0 := popReq s (.tile t)
  if 0x10 ≤ ep ∧ ep - 0x10 ∈ (getTile s t).rqRetired then answerAt s0 (.tile t) (nakPkt me q nkRETIRED)
  else if resvRoom s t ep q.aux.toNat then
    let s1 := modTile s0 t (fun x => { x with resvs := x.resvs ++
      [{ src := q.src, ep := ep, tag := q.tag, amount := q.aux.toNat, confirmed := false, due := eTime s + usTicks 1000,
         layer := q.layer, oper := q.oper }] })
    answerAt s1 (.tile t) (response me q opRSVACK)
  else answerAt s0 (.tile t) (nakPkt me q nkTENT)

/-- The reservation that a CONF or WDRW names while it is HELD. -/
def resvMatch (q : Packet) (r : Resv) : Bool := r.src == q.src && r.ep == nodeEp q.dst && r.tag == q.tag && !r.confirmed

/-- A CONF (Table 5.3). -/
def resvConf (s : State) (t : Nat) (q : Packet) : State :=
  let due := eTime s + usTicks (1000 * rfld s (.cmb t) 0x084 31 20)
  modTile (popReq s (.tile t)) t (fun x => { x with
    resvs := modFirst (resvMatch q) (fun r => { r with confirmed := true, due := due }) x.resvs })

/-- A WDRW (Table 5.3). -/
def resvWdrw (s : State) (t : Nat) (q : Packet) : State :=
  rqUnstall (modTile (popReq s (.tile t)) t (fun x => { x with resvs := dropFirst (resvMatch q) x.resvs })) t

/-- A reservation expires (R460); dark ones leave no name in the ring (Table 18.7). -/
def resvExpire (s : State) (t : Nat) (r : Resv) : State :=
  let s1 := modTile s t (fun x => { x with resvs := dropFirst (· == r) x.resvs })
  let s2 := isrBit (addFld s1 (.cmb t) 0x08C 15 0 1) (.cmb t) 1
  let s3 := if r.ep < 0x10 then sillage s2 (.cmb t) 0x43 false r.layer r.oper (BitVec.ofNat 32 (r.ep - 8))
    else sillage s2 (.cmb t) 0x43 false 0 0 0xFF
  rqUnstall s3 t

/-! ## Combining queues (R427 to R438) -/

def cqTy (s : State) (t n : Nat) : Nat := rfld s (.cmb t) (cqOff n) 3 1
def cqRty (s : State) (t n : Nat) : Nat := rfld s (.cmb t) (cqOff n) 6 4
def cqForm (s : State) (t n : Nat) : Nat := rfld s (.cmb t) (cqOff n) 9 7
def cqW (s : State) (t n : Nat) : Nat := rfld s (.cmb t) (cqOff n + 4) 29 17
def cqAmb (s : State) (t n : Nat) : Nat := rfld s (.cmb t) (cqOff n + 4) 16 0
def cqDst (s : State) (t n : Nat) : Word := rawReg s (.cmb t) (cqOff n + 8)
def cqDaddr (s : State) (t n : Nat) : Nat := rfld s (.cmb t) (cqOff n + 0x10) 17 0
def cqMc (s : State) (t n : Nat) : Bool := rbit s (.cmb t) (cqOff n) 11

/-- Result bytes per element (Table 10.6). -/
def cqRb (s : State) (t n : Nat) : Nat :=
  if cqForm s t n = 4 then (accClass (cqTy s t n)).bytes else tySize (cqRty s t n)

/-- Extent of a queue in AM. -/
def cqAmEnd (s : State) (t n : Nat) : Nat := cqAmb s t n + cqW s t n * (accClass (cqTy s t n)).bytes

/-- What R430 refuses with BADCFG. -/
def cqCfgBad (s : State) (t n : Nat) : Bool :=
  let d := cqDst s t n
  let ep := nodeEp d
  let w := cqW s t n
  let r := rectOf (rawReg s (.cmb t) (cqOff n + 0xC))
  131072 < cqAmEnd s t n
    || (List.range 8).any (fun m => m != n && 2 ≤ cqState s t m && cqState s t m ≤ 4
        && cqAmb s t n < cqAmEnd s t m && cqAmb s t m < cqAmEnd s t n)
    || (cqForm s t n != 4 && (if isF (cqTy s t n) then !isF (cqRty s t n) else cqRty s t n != 5 && cqRty s t n != 6))
    || nodeKind d != 0
    || !(ep == 0 || (8 ≤ ep && ep ≤ 0x1F))
    || (ep == 0 && (cqDaddr s t n % 32 != 0 || 196608 < cqDaddr s t n + w * cqRb s t n))
    || (8 ≤ ep && ep ≤ 15 && (cqDaddr s t n % 16 != 0 || 4096 < cqDaddr s t n + w))
    || (cqMc s t n && ((8 ≤ ep && ep ≤ 15) || nodePkg d != ownPkg s || r.x1 < r.x0 || r.y1 < r.y0))
    || (rbit s (.cmb t) (cqOff n) 12 && ep != 0)

/-- Key of the accumulator of an element. -/
def cqKey (s : State) (t n i : Nat) : Nat := amKey t (cqAmb s t n + i * (accClass (cqTy s t n)).bytes)

/-- The image of an accumulator: integer classes hold no flags (R428, R444). -/
def accImage (ty : Nat) (a : AccVal) : Nat :=
  let c := accClass ty
  if isF ty then AccVal.toBits c a else unsgn c.vbits a.v

def accOf (ty b : Nat) : AccVal :=
  let c := accClass ty
  if isF ty then AccVal.ofBits c b else { v := sgn c.vbits b, z := false }

/-- The accumulator of an element as it is used: an uncorrectable error sets N, and in an integer class, which has no N,
leaves V open (Table 17.4, log 14). -/
def accRead (s : State) (t n i : Nat) : AccVal × State :=
  let ty := cqTy s t n
  let c := accClass ty
  let a := accOf ty (readNat s (cqKey s t n i) c.bytes)
  if anyUE s (cqKey s t n i) c.bytes then
    if isF ty then ({ a with n := true }, s)
    else
      let (v, s1) := takeFree s
      ({ a with v := sgn c.vbits v }, s1)
  else (a, s)

/-- One value added to an element (R439, R440, R442); V past its range is open (log 14). -/
def cqAddOne (s : State) (t n i : Nat) (x : Bool) (ty bits : Nat) : List Byte × State :=
  let cty := cqTy s t n
  let c := accClass cty
  let (a, s1) := accRead s t n i
  let (b, out) := if x then AccVal.addPart c a (accOf cty bits) else AccVal.addRaw c a ty bits
  if out then
    let (v, s2) := takeFree s1
    (leBytes c.bytes (accImage cty { b with v := sgn c.vbits v }), putBit s2 (.cmb t) (cqOff n + 0x18) 11 true)
  else (leBytes c.bytes (accImage cty b), s1)

/-- The values of a contribution added from element i on: the new images and the state. -/
def cqAddAll (t n : Nat) (x : Bool) (ty eb : Nat) : Nat → Nat → List Byte → State → List Byte × State
  | 0, _, _, s => ([], s)
  | k + 1, i, bs, s =>
    let (o, s1) := cqAddOne s t n i x ty (leNat (bs.take eb))
    let (r, s2) := cqAddAll t n x ty eb k (i + 1) (bs.drop eb) s1
    (o ++ r, s2)

/-- Types that a class accepts (Table 10.4). -/
def cqTakes (cty ty : Nat) : Bool :=
  match cty with
  | 0 | 1 => ty ≤ 4
  | 2 | 4 => ty == 2 || ty == 3 || ty == 4
  | 3 => ty == 3
  | 5 => ty == 5
  | _ => ty == 5 || ty == 6

/-- Fields of AUX (Table 10.5). -/
def auxOff (q : Packet) : Nat := fld q.aux 11 0
def auxTy (q : Packet) : Nat := fld q.aux 14 12
def auxX (q : Packet) : Bool := fld q.aux 15 15 == 1
def auxCount (q : Packet) : Nat := fld q.aux 28 16

/-- What R433 answers with MALFORMED. -/
def contribBad (s : State) (t n : Nat) (q : Packet) : Bool :=
  let cty := cqTy s t n
  let w := cqW s t n
  let eb := if auxX q then (accClass cty).bytes else tySize (auxTy q)
  auxCount q * eb != (payload q).length
    || (!auxX q && !cqTakes cty (auxTy q))
    || (auxX q && (auxTy q == 7 || accClass (auxTy q) != accClass cty))
    || auxOff q % 16 != 0
    || (auxCount q % 16 != 0 && auxOff q + auxCount q != w)
    || w < auxOff q + auxCount q

/-- Groups that a contribution covers (R429). -/
def contribGroups (q : Packet) : List Nat :=
  (List.range ((auxCount q + 15) / 16)).map (auxOff q / 16 + ·)

/-! ## Results (R443 to R453) -/

/-- The reasons and the state after a result element is formed: its bytes and flags (R443, R444, R447). -/
def cqElem (s : State) (t n i : Nat) : List Byte × Fl × State :=
  let ty := cqTy s t n
  let c := accClass ty
  let (a, s1) := accRead s t n i
  let rnd := cqForm s t n
  if rnd = 4 then (leBytes c.bytes (accImage ty a), {}, s1)
  else match fmtOf (cqRty s t n) with
    | some f =>
      let (b, fl) := AccVal.toF c a f rnd (rbit s (.cmb t) (cqOff n) 10)
      (leBytes (cqRb s t n) b, fl, s1)
    | none =>
      let (v, sat) := satInt (intW (cqRty s t n)) a.v
      (leBytes (cqRb s t n) (unsgn (intW (cqRty s t n)) v), { sat := sat }, s1)

def cqElems (t n : Nat) : Nat → Nat → State → List Byte × Fl × State
  | 0, _, s => ([], {}, s)
  | k + 1, i, s =>
    let (b, f, s1) := cqElem s t n i
    let (r, g, s2) := cqElems t n k (i + 1) s1
    (b ++ r, f.or g, s2)

/-- Elements per result packet (R448). -/
def cqPer (s : State) (t n : Nat) : Nat := 2048 / cqRb s t n / 16 * 16

/-- The header that result packets of a queue share (R331, R340, R449, R450). -/
def cqHdr (s : State) (t n : Nat) (tag : Nat) : Packet :=
  let d := cqDst s t n
  let w := rawReg s (.cmb t) (cqOff n + 0xC)
  let r := rectOf w
  let h : Packet := { src := tileNode s t (8 + n), tag := BitVec.ofNat 16 tag, layer := (getCq s t n).layer,
                      oper := (getCq s t n).oper, tc := iqTc s t (rfld s (.cmb t) (cqOff n) 20 19) }
  if cqMc s t n then { h with dst := mkNode (nodePkg d) r.y0 r.x0 0 (nodeEp d), mc := true, aux := w }
  else { h with dst := d }

/-- A result packet of elements from first on (Table 10.6). -/
def cqPkt (s : State) (t n tag first count : Nat) (bs : List Byte) : Packet :=
  let h := cqHdr s t n tag
  let ep := nodeEp h.dst
  let exact := cqForm s t n = 4
  let off := if 8 ≤ ep ∧ ep ≤ 15 then cqDaddr s t n + first else first
  let aux := BitVec.ofNat 32 (off % 4096 + (if exact then cqTy s t n + 8 else cqRty s t n) * 4096 + count * 65536)
  let p : Packet := { h with
    opc := if 8 ≤ ep ∧ ep ≤ 15 then opCONTRIB else opCRES,
    addr := BitVec.ofNat 48 (if ep = 0 then cqDaddr s t n + first * cqRb s t n else 0),
    aux := if h.mc then h.aux else aux }
  withPayload p bs

/-- Result packets from element i on. -/
def cqForms (t n : Nat) : Nat → Nat → State → State
  | 0, _, s => s
  | f + 1, i, s =>
    let w := cqW s t n
    if w ≤ i then s
    else
      let k := min (cqPer s t n) (w - i)
      let (bs, fl, s1) := cqElems t n k i s
      let o := cqOff n + 0x18
      let s2 := if fl.inv then putBit s1 (.cmb t) o 8 true else s1
      let s3 := if fl.ovf then putBit s2 (.cmb t) o 9 true else s2
      let s4 := if fl.sat then putBit s3 (.cmb t) o 10 true else s3
      let tag := freshTag s4 t (8 + n) 65536 (getCq s4 t n).nextTag
      let p := cqPkt s4 t n tag i k bs
      let r : ResPkt := { tag := p.tag, pkt := p, want := if p.mc then (rectOf p.aux).count else 1 }
      cqForms t n f (i + k) (modCq s4 t n (fun c => { c with res := c.res ++ [r], nextTag := (tag + 1) % 65536 }))

/-- Every group has reached K: results are formed (Table 10.7). -/
def cqResult (s : State) (t n : Nat) : State :=
  let s1 := modTile (cqSetState s t n 4) t (fun x => { x with
    resvs := x.resvs.filter (fun r => r.confirmed || r.ep != 8 + n) })
  let c := getCq s1 t n
  let s2 := sillage s1 (.cmb t) 0x41 false c.layer c.oper (BitVec.ofNat 32 n)
  let s3 := (tileRead s2 t (cqKey s2 t n 0) (cqW s2 t n * (accClass (cqTy s2 t n)).bytes)
    (c.layer, c.oper)).2
  let s4 := modCq s3 t n (fun c => { c with sigDue := rbit s3 (.cmb t) (cqOff n) 12 })
  cmbPump (cqForms t n 256 0 s4) t

/-- A CONTRIB at a combining queue (R433 to R437). -/
def cqContrib (s : State) (t : Nat) (q : Packet) : State :=
  let n := nodeEp q.dst - 8
  let me := meAt s (.tile t) q
  let own (r : Resv) : Bool := r.confirmed && r.src == q.src && r.ep == 8 + n && r.tag == q.tag
  let reserved := (getTile s t).resvs.any own
  let s0 := modTile (popReq s (.tile t)) t (fun x => { x with resvs := dropFirst own x.resvs })
  let nak (r : Nat) : State := answerAt s0 (.tile t) (nakPkt me q r)
  if cqEn s t n = false then nak nkOFF
  else if cqState s t n ≠ 3 then nak nkFULL
  else if contribBad s t n q then nak nkMALFORMED
  else
    let gs := contribGroups q
    let counts := (getCq s t n).counts
    if reserved = false ∧ gs.any (fun g => cqK s t n ≤ (counts[g]?).getD 0 + (heldAt s t (8 + n)).length) then nak nkEXCESS
    else
      let cls := accClass (cqTy s t n)
      let eb := if auxX q then cls.bytes else tySize (auxTy q)
      let s1 := (tileRead s0 t (cqKey s0 t n (auxOff q)) (auxCount q * cls.bytes) (q.layer, q.oper) (isDark q)).2
      let (bs, s2) := cqAddAll t n (auxX q) (auxTy q) eb (auxCount q) (auxOff q) (payload q) s1
      let s3 := memStore s2 (cqKey s t n (auxOff q)) bs
      let s4 := modCq s3 t n (fun c => { c with counts := c.counts.mapIdx (fun i k => if i ∈ gs then k + 1 else k) })
      let s5 := ackAt s4 (.tile t) q
      if (getCq s5 t n).counts.all (fun k => cqK s t n ≤ k) then cqResult s5 t n else s5

/-- A combining queue returns to IDLE and the CQRST that waited completes (Table 10.7). -/
def cqIdle (s : State) (t n : Nat) : State :=
  let s1 := modTile (cqSetState s t n 1) t (fun x => { x with resvs := x.resvs.filter (fun r => r.ep != 8 + n) })
  modCq s1 t n (fun c => { c with counts := [], res := [], sigDue := false, failed := false, rst := false, rstCmd := none, arm := none })

/-- Destination tiles of a result. -/
def cqTargets (s : State) (t n : Nat) : List Word :=
  let d := cqDst s t n
  if cqMc s t n then
    let r := rectOf (rawReg s (.cmb t) (cqOff n + 0xC))
    (List.range 128).flatMap (fun y => if r.hasY y then
      (List.range 128).filterMap (fun x => if r.hasX x then some (mkNode (nodePkg d) y x 0 2) else none) else [])
  else [mkNode (nodePkg d) (nodeY d) (nodeX d) 0 2]

/-- A queue in RESULT whose packets are all answered: SIGNALs, then DONE; or IDLE under CQRST (R452, Table 10.7). -/
def cqAdvance (s : State) (t n : Nat) : State :=
  let c := getCq s t n
  if cqState s t n ≠ 4 ∨ c.res ≠ [] then s
  else if c.rst then cqIdle s t n
  else if c.sigDue ∧ c.failed = false then
    let h := cqHdr s t n 0
    let dsts := cqTargets s t n
    let tags := freshTags s t (8 + n) 65536 dsts.length c.nextTag
    let sems := dsts.mapIdx (fun i d =>
      let tag := BitVec.ofNat 16 ((tags[i]?).getD 0)
      let p : Packet := { h with dst := d, mc := false, opc := opSIGNAL, tag := tag, aux := 1,
                                 addr := BitVec.ofNat 48 (rfld s (.cmb t) (cqOff n) 18 13) }
      ({ tag := tag, pkt := p, want := 0 } : ResPkt))
    cmbPump (modCq s t n (fun c => { c with res := sems, sigDue := false, nextTag := (tags.getLast?.getD c.nextTag + 1) % 65536 })) t
  else cqFinish s t n

/-- A result packet fails for good (R451); a dark one leaves no ring entry (R422). -/
def cqFail (s : State) (t n : Nat) (tag : Half) (reason : Nat) : State :=
  let c := getCq s t n
  let dark := (c.res.find? (fun r => r.tag == tag)).any (fun r => isDark r.pkt)
  let s1 := modCq (putBit s (.cmb t) (cqOff n + 0x18) 12 true) t n (fun c => { c with failed := true })
  captureCore dark s1 (.cmb t) 0x16 tag c.layer c.oper (BitVec.ofNat 32 reason) (some 1) (isrMask 2)

/-! ## CMB commands (R416 to R419, R430, R453) -/

/-- The command at the head of the CMB queue, when CMB may start it and it has the opcode. -/
def cmbHead (s : State) (t opc : Nat) : Option QCmd :=
  let x := getTile s t
  match x.cmbQ with
  | q :: _ =>
    if enabled s (.cmb t) && cmbLive s t && !x.cqs.any (fun c => c.arm.isSome || c.rstCmd.isSome) && cwOpc q.word == opc
    then some q else none
  | [] => none

def popCmb (s : State) (t : Nat) : State := modTile s t (fun x => { x with cmbQ := x.cmbQ.tail })

/-- A CMB command fails (R418); DEQ and DROP leave no ring entry (R422). -/
def cmbFail (s : State) (t : Nat) (q : QCmd) (code : Nat) : State :=
  let quiet := cwOpc q.word < 0x10
  captureOpen quiet (popCmb s t) (.cmb t) code 0 (cwLayer q.word) (cwOper q.word) none (isrMask 0)

/-- Size of the head entry of a receive queue. -/
def headSize (s : State) (t n : Nat) : Nat :=
  entrySize (leNat (ringGet s (tmKey t (rqBase s t n)) (rqSize s t n) (rqPtr s t n) 32 |>.drop 4 |>.take 2))

/-- The head entry is removed (R419). -/
def rqPop (s : State) (t n size : Nat) : State :=
  let h := (rqPtr s t n + size) % rqSize s t n
  let s1 := putFld s (.cmb t) (rqOff n + 0xC) 17 0 h
  rqUnstall (if h = rqTail s t n then putBit s1 (.cmb t) (rqOff n + 0x14) 0 false else s1) t

/-- DEQ and DROP share their first checks (R417); 0 for none. -/
def deqBad (s : State) (t n : Nat) : Nat := if rqEn s t n = false then 0x10 else if rqNonEmpty s t n = false then 0x11 else 0

/-- DEQ (R417 to R419, Table 17.4). -/
def deqRun (s : State) (t : Nat) (q : QCmd) : State :=
  let n := cmbRq q.word
  let dst := cmbDst q.word
  if deqBad s t n ≠ 0 then cmbFail s t q (deqBad s t n)
  else
    let size := headSize s t n
    if dst % 32 ≠ 0 ∨ 196608 < dst + size then cmbFail s t q 0x15
    else
      let base := tmKey t (rqBase s t n)
      let one := min size (rqSize s t n - rqPtr s t n)
      let lo := (cwLayer q.word, cwOper q.word)
      let (u1, s1) := tileRead s t (base + rqPtr s t n) one lo true
      let (u2, s2) := tileRead s1 t base (size - one) lo true
      if u1 || u2 then cmbFail s2 t q 0x17
      else
        let s3 := memStore s2 (tmKey t dst) (ringGet s2 base (rqSize s t n) (rqPtr s t n) size)
        let s4 := rqPop (popCmb s3 t) t n size
        if cmbCse q.word then semOp s4 t q.lc (cmbCsem q.word) 1 1 else s4

/-- DROP (R417, R419). -/
def dropRun (s : State) (t : Nat) (q : QCmd) : State :=
  let n := cmbRq q.word
  if deqBad s t n ≠ 0 then cmbFail s t q (deqBad s t n) else rqPop (popCmb s t) t n (headSize s t n)

/-- The check of a CQARM (R430); 0 for none. -/
def armBad (s : State) (t : Nat) (w : CmdWord) : Nat :=
  let n := cmbCq w
  if cqEn s t n = false then 0x10
  else if cqState s t n ≠ 1 ∧ cqState s t n ≠ 5 then 0x13
  else if cmbK w = 0 then 0x12
  else if cqCfgBad s t n then 0x14
  else 0

/-- CQARM (R430, R431). -/
def armRun (s : State) (t : Nat) (q : QCmd) : State :=
  let w := q.word
  let n := cmbCq w
  if armBad s t w ≠ 0 then cmbFail s t q (armBad s t w)
  else
    let ty := cqTy s t n
    let zero := leBytes (accClass ty).bytes (accImage ty {})
    let s1 := putReg (cqSetState (popCmb s t) t n 2) (.cmb t) (cqOff n + 0x14) (BitVec.ofNat 32 (cmbK w))
    let s2 := putFld s1 (.cmb t) (cqOff n + 0x18) 12 8 0
    let s3 := memStore s2 (cqKey s2 t n 0) ((List.replicate (cqW s t n) zero).flatten)
    let s4 := modCq s3 t n (fun c => { ({} : Cq) with
      counts := List.replicate ((cqW s t n + 15) / 16) 0, arm := some q, layer := cwLayer w, oper := cwOper w,
      nextTag := c.nextTag })
    sillage s4 (.cmb t) 0x40 false (cwLayer w) (cwOper w) (BitVec.ofNat 32 n)

/-- The packets of a queue that have not been injected, or wait for a resend, are not sent (Table 10.7). -/
def cqCut (s : State) (t n : Nat) : State :=
  let q := rfld s (.cmb t) (cqOff n) 20 19
  let mine (p : Packet) : Bool := !isRsp p && p.src == tileNode s t (8 + n)
  let s1 := modTile s t (fun x => { x with iq := listMod x.iq q (fun l => l.filter (fun p => !mine p)) })
  modCq s1 t n (fun c => { c with res := c.res.filter (fun r => r.inj.isSome && r.due.isNone), sigDue := false })

/-- CQRST (R453, R455). -/
def cqrstRun (s : State) (t : Nat) (q : QCmd) : State :=
  let n := cmbCq q.word
  match cqState s t n with
  | 0 => cmbFail s t q 0x10
  | 4 =>
    let s1 := modCq (cqCut (popCmb s t) t n) t n (fun c => { c with rst := true, rstCmd := some q })
    cqAdvance s1 t n
  | _ => cqIdle (popCmb s t) t n

/-- EN of a combining queue is written (Table 10.7). -/
def cqEnWrite (s : State) (t n : Nat) (en : Bool) : State :=
  match cqState s t n with
  | 0 => if en then cqSetState s t n 1 else s
  | 1 | 5 => if en then s else cqSetState s t n 0
  | _ => s

/-! ## The TM and SEM endpoints -/

/-- TM bytes that are channel memory (R424). -/
def channelMem (s : State) (t a n : Nat) : Bool :=
  let hit (b l : Nat) : Bool := l != 0 && n != 0 && a < b + l && b < a + n
  (List.range 16).any (fun k => rqEn s t k && hit (rqBase s t k) (rqSize s t k))
    || (List.range 2).any (fun k => hit (rfld s (.cmb t) (0x0A0 + 8 * k) 17 0) (rfld s (.cmb t) (0x0A4 + 8 * k) 17 0))

/-- A request from another partition that XONLY keeps out (R426). -/
def foreign (s : State) (t : Nat) (q : Packet) : Bool :=
  rbit s (.cmb t) 0x080 0 && q.spart.toNat != rfld s (.til t) 0x080 3 0
    && !(epKind q.dst == .rq && rbit s (.cmb t) (rqOff (nodeEp q.dst - 0x10)) 2)

/-- The answer to a request that a tile refuses before it acts: shared checks, R426, R425 and the bounds of TM. -/
def tileCheck (s : State) (t : Nat) (q : Packet) : Option Packet :=
  let me := meAt s (.tile t) q
  match reqCheck me q with
  | some a => some a
  | none =>
    let a := q.addr.toNat
    let n := reqBytes q
    if foreign s t q then some (refusePkt me q nkPART)
    else if epKind q.dst = .tm then
      if q.opc ≠ opCRES ∧ channelMem s t a n then some (refusePkt me q nkPART)
      else if 0x30000 ≤ a then some (refusePkt me q nkHOLE)
      else if 0x30000 < a + n then some (refusePkt me q nkWINDOW)
      else none
    else none

/-- A message that R329 or R381 keeps from being applied counts against its queue (Table 17.1). -/
def rqCount (s : State) (t : Nat) (q : Packet) : State :=
  if (q.opc = opMSG ∨ q.opc = opCRES) ∧ epKind q.dst = .rq ∧ (formBad q ∨ poisoned q) then
    bucketErr s 3 (t * 16 + (nodeEp q.dst - 0x10))
  else s

/-- A request at the head of a tile is handled: answered for the isolated tile, refused, or served (R825, Table 9.4). -/
def serveTile (s : State) (t : Nat) (q : Packet) (act : State → State) : State :=
  let s0 := popReq s (.tile t)
  match (if isolated s t then isoAnswer s t q else none) with
  | some as => as.foldl (fun s a => answerAt s (.tile t) a) s0
  | none =>
    match tileCheck s t q with
    | some a => if unanswered q then s0 else answerAt (rqCount s0 t q) (.tile t) a
    | none => act s

/-- An RD of TM. -/
def tmRead (s : State) (t : Nat) (q : Packet) : State :=
  let k := tmKey t q.addr.toNat
  let n := reqBytes q
  let s1 := (tileRead (popReq s (.tile t)) t k n (q.layer, q.oper) (isDark q)).2
  answerAt s1 (.tile t) (loadPayload s { response (meAt s (.tile t) q) q opRDRSP with addr := q.addr } k n)

/-- A write of TM: WR, WRA or CRES. -/
def tmWrite (s : State) (t : Nat) (q : Packet) : State :=
  let s1 := memStore (popReq s (.tile t)) (tmKey t q.addr.toNat) (payload q)
  if q.opc = opWRA then answerAt s1 (.tile t) { response (meAt s (.tile t) q) q opWRACK with aux := 1 }
  else ackAt s1 (.tile t) q

/-- A SIGNAL (R158, R159). -/
def semSignal (s : State) (t : Nat) (q : Packet) : State :=
  ackAt (semOp (popReq s (.tile t)) t 0 (q.addr.toNat % 64) 1 q.aux) (.tile t) q

end Sys2Proof.Machine
end

