-- ==== Sys2Proof/Machine/AnswerOps.lean ====
section
/-! DEFINITION. Answers that reach a tile: MOV's requests, tentative reads and reservations, CMB's results, TIL's leases. -/

namespace Sys2Proof.Machine

/-- The first response at a place. -/
def rspAt (s : State) (p : Place) : Option Packet :=
  match p with
  | .tile t => (getTile s t).lrsp.head?
  | .mem x e => (getEdge s x e).rsp.head?
  | .io d => (getDie s d).rsp.head?

def rspHead (s : State) (p : Place) (op : BitVec 8) : Option Packet := (rspAt s p).filter (fun q => q.opc == op)

def popRsp (s : State) (p : Place) : State :=
  match p with
  | .tile t => modTile s t (fun x => { x with lrsp := x.lrsp.tail })
  | .mem x e => modEdge s x e (fun g => { g with rsp := g.rsp.tail })
  | .io d => modDie s d (fun x => { x with rsp := x.rsp.tail })

/-- A node is the destination of a packet, or one of those of a multicast (R337, R378). -/
def answersTo (p : Packet) (node : Word) : Bool :=
  if p.mc then
    nodeKind node == 0 && nodePkg node == nodePkg p.dst && nodeEp node == nodeEp p.dst
      && (rectOf p.aux).has (nodeX node) (nodeY node)
  else p.dst == node

/-! ## MOV -/

/-- A request that may still be answered. -/
def MovReq.live (r : MovReq) : Bool := r.inj.isSome && r.due.isNone && r.dead.isNone && r.kind != .note

def reqOf (x : Tile) (tag : Half) : Option MovReq := x.movReqs.find? (fun r => r.tag == tag && r.live)

/-- One answer of a request from a node: a multicast is answered when every selected tile has answered (R378). -/
def reqAnswered (s : State) (t : Nat) (r : MovReq) (node : Word) : State :=
  if r.want ≤ r.answered.length + 1 then reqDrop s t r.tag
  else modTile s t (fun x => { x with
    movReqs := modFirst (fun q => q.tag == r.tag) (fun q => { q with answered := node.toNat :: q.answered }) x.movReqs })

/-- The posted packets that a WRACK of a count answers (R337). -/
def wrackReqs (x : Tile) (q : Packet) : List MovReq :=
  (x.movReqs.filter (fun r => r.live && r.kind == .posted && answersTo r.pkt q.src
    && !(q.src.toNat ∈ r.answered))).take (fld q.aux 6 0)

/-- A WRACK at MOV: of a WRA by its TAG, else of a batch (R278, R279, R337). -/
def movWrack (s : State) (t : Nat) (q : Packet) : State :=
  let x := getTile s t
  match x.movReqs.find? (fun r => r.live && r.kind == .wra && r.tag == q.tag && r.pkt.dst == q.src) with
  | some r => reqDrop s t r.tag
  | none => (wrackReqs x q).foldl (fun s r => reqAnswered s t r q.src) s

/-- The injecting router routed nothing of the multicast that an answer is for (R335, R341, R398): it holds of the
packet itself. -/
def notRouted (s : State) (p q : Packet) : Bool := q.opc == opNAK && fld q.aux 7 0 == nkMALFORMED && injectBad s p

/-- The command of a request is tentative still. -/
def cmdTent (x : Tile) (r : MovReq) : Bool := (findCmd x r.cmd).any (·.tent)

/-- A refusal of a request: held while tentative, entered for a copy of a multicast, else retried or failed (R225, R283,
R288, R378). -/
def movRefused (s : State) (t : Nat) (r : MovReq) (q : Packet) : State :=
  if r.sink then reqDrop s t r.tag
  else if r.kind = .rd ∧ cmdTent (getTile s t) r then
    modTile s t (fun x => { x with trb := x.trb ++ [⟨r.tag, r.lc, q⟩] })
  else
    let reason := if q.opc = opDEAD then rsDEAD else fld q.aux 7 0
    if r.pkt.mc ∧ notRouted s r.pkt q = false then reqAnswered (copyFail s t r reason q.src) t r q.src
    else if q.opc = opNAK then reqNak s t r reason
    else reqFail (reqDrop s t r.tag) t r reason

/-- A read response: sunk, held in the TRB, or delivered (R224, R226, R338). -/
def movRdrsp (s : State) (t : Nat) (r : MovReq) (q : Packet) : State :=
  if r.kind ≠ .rd ∨ q.addr ≠ r.pkt.addr ∨ (payload q).length ≠ r.bytes then s
  else if r.sink then reqDrop s t r.tag
  else if cmdTent (getTile s t) r then modTile s t (fun x => { x with trb := x.trb ++ [⟨r.tag, r.lc, q⟩] })
  else readLand s t r q

/-- A register response (R106). -/
def movRegrsp (s : State) (t : Nat) (r : MovReq) (q : Packet) : State :=
  if r.kind = .regrd ∧ q.len = 1 then
    (if poisoned q then reqFail (reqDrop s t r.tag) t r rsPOISON
     else if r.stage then
       match findCmd (getTile s t) r.cmd with
       | some c => stageIn (reqDrop s t r.tag) t c ((payload q).take 4) 0
       | none => reqDrop s t r.tag
     else memStore (reqDrop s t r.tag) (tmKey t r.land) ((payload q).take 4))
  else if r.kind = .regwr ∧ q.len = 0 then reqDrop s t r.tag
  else s

/-- A response to a request, delivered. -/
def movDeliver (s : State) (t : Nat) (r : MovReq) (q : Packet) : State :=
  let s1 := if q.opc = opRDRSP then movRdrsp s t r q
    else if q.opc = opREGRSP then movRegrsp s t r q
    else if q.opc = opNAK ∨ q.opc = opDEAD ∨ (q.opc = opWFN ∧ (r.kind = .posted ∨ r.kind = .wra)) then movRefused s t r q
    else s
  movPump s1 t

/-- A response to a lease read is held until its round trip is over (R307). -/
def leaseEarly (s : State) (r : MovReq) : Option Nat := if r.lease ∧ eTime s < r.hold then some r.hold else none

/-- The answer to a RESV (Table 5.2). -/
def resvAnswer (s : State) (t : Nat) (v : SrcResv) (ok : Bool) : State :=
  let put (s : State) (st : SrcResvSt) : State := modTile s t (fun x => { x with
    srcResvs := x.srcResvs.map (fun u => if u.tag = v.tag then { u with st := st } else u) })
  if v.st = .done then modTile s t (fun x => { x with srcResvs := x.srcResvs.filter (fun u => u.tag != v.tag) })
  else if v.st ≠ .pending then s
  else
    let st : SrcResvSt := if ok then .granted else .refused
    let s1 := put s st
    let s2 := match findCmd (getTile s t) v.cmd with
      | some c =>
        let w := c.cmd.word
        let a := if !ok && nodeEp v.dst < 0x10 then
          sillage s1 (.mov t) 0x34 true (cwLayer w) (cwOper w) (BitVec.ofNat 32 v.tag.toNat) else s1
        if v.noted then resvSend a t c { v with st := st } else a
      | none => s1
    movPump s2 t

/-- Whether a response at MOV answers a reservation. -/
def resvOf (x : Tile) (q : Packet) : Option SrcResv :=
  if q.opc = opRSVACK ∨ q.opc = opNAK ∨ q.opc = opDEAD then
    x.srcResvs.find? (fun v => v.tag == q.tag && v.inj.isSome && v.dst == q.src)
  else none

/-- A response at MOV; one that matches nothing is discarded (R338, R365, R382). -/
def movAnswer (s : State) (t : Nat) (q : Packet) : State :=
  let x := getTile s t
  if q.opc = opWRACK then movPump (movWrack s t q) t
  else match resvOf x q with
    | some v => resvAnswer s t v (q.opc == opRSVACK)
    | none =>
      match (reqOf x q.tag).filter (fun r => answersTo r.pkt q.src || q.opc == opNAK) with
      | none => s
      | some r =>
        if (leaseEarly s r).isSome then modTile s t (fun x => { x with leaseHeld := x.leaseHeld ++ [⟨q.tag, q⟩] })
        else movDeliver s t r q

/-! ## CMB results (R450 to R452) -/

def ResPkt.live (r : ResPkt) : Bool := r.inj.isSome && r.due.isNone

def resPut (s : State) (t n : Nat) (tag : Half) (r : Option ResPkt) : State :=
  modCq s t n (fun c => { c with res := c.res.flatMap (fun u => if u.tag = tag then r.toList else [u]) })

/-- Every tile has answered a result packet: it is resent where one refused it for now and retries remain, else it is
over; no packet is resent under CQRST (R451, Table 10.7). -/
def resEnd (s : State) (t n : Nat) (r : ResPkt) : State :=
  if r.again = false ∨ (getCq s t n).rst then resPut s t n r.tag none
  else if r.tries < rfld s (.mov t) 0x080 7 0 then
    resPut s t n r.tag (some { r with
      due := some (eTime s + ticks (rfld s (.mov t) 0x080 27 8)), answered := [], again := false })
  else resPut (cqFail s t n r.tag nkFULL) t n r.tag none

/-- One answer of a result packet, from a node. -/
def resAnswered (s : State) (t n : Nat) (r : ResPkt) (node : Word) : State :=
  if r.want ≤ r.answered.length + 1 then resEnd s t n r
  else resPut s t n r.tag (some { r with answered := node.toNat :: r.answered })

/-- A response at a combining queue. -/
def cmbAnswer (s : State) (t n : Nat) (q : Packet) : State :=
  let c := getCq s t n
  if q.opc = opWRACK then
    let rs := (c.res.filter (fun r => r.live && answersTo r.pkt q.src && !(q.src.toNat ∈ r.answered))).take (fld q.aux 6 0)
    cqAdvance (rs.foldl (fun s r => resAnswered s t n r q.src) s) t n
  else if q.opc = opNAK ∨ q.opc = opDEAD ∨ q.opc = opWFN then
    match c.res.find? (fun r => r.tag == q.tag && r.live) with
    | none => s
    | some r =>
      let reason := if q.opc = opDEAD then rsDEAD else fld q.aux 7 0
      let later := q.opc = opNAK ∧ (reason = nkFULL ∨ reason = nkHOLD ∨ reason = nkPOLICED) ∧ r.tries < rfld s (.mov t) 0x080 7 0
      let r1 : ResPkt := if later then { r with again := true } else r
      let s1 := if later then s else cqFail s t n r.tag reason
      cqAdvance (if notRouted s r.pkt q then resPut s1 t n r.tag none else resAnswered s1 t n r1 q.src) t n
  else s

/-! ## TIL leases (R302, R303) -/

/-- Lease i takes a state; a refusal raises LREFi. -/
def leaseSet (s : State) (t i st : Nat) : State :=
  let s1 := putFld s (.til t) (0x100 + 4 * i) 2 1 st
  let s2 := modTile s1 t (fun x => { x with leaseReq := tabDel x.leaseReq i })
  if st = 3 then isrBit s2 (.til t) i else s2

/-- The answer to the REGRD of a lease. -/
def leaseAnswer (s : State) (t : Nat) (q : Packet) : State :=
  match (getTile s t).leaseReq.find? (fun e => e.2.1 == q.tag) with
  | none => s
  | some (i, _) =>
    if leaseState s t i ≠ 1 ∨ nodeTile q.src ≠ nodeTile (leaseNode s t i) then s
    else if q.opc = opREGRSP ∧ q.len = 1 ∧ poisoned q = false then
      let v := BitVec.ofNat 32 (leNat ((payload q).take 4))
      let k := rfld s (.til t) (0x100 + 4 * i) 9 8
      leaseSet s t i (if fld v k k = 1 ∧ fld v (14 + 8 * k) (8 + 8 * k) = tileX t then 2 else 3)
    else if q.opc = opNAK ∨ q.opc = opDEAD ∨ q.opc = opREGRSP then leaseSet s t i 3
    else s

/-- A response at a tile goes to the endpoint that sent its request; one of a wrong length is discarded (R382). -/
def tileRsp (s : State) (t : Nat) (q : Packet) : State :=
  let ep := nodeEp q.dst
  if lenBad q ∨ isolated s t then s
  else if ep = 0 then movAnswer s t q
  else if ep = 1 then leaseAnswer s t q
  else if 8 ≤ ep ∧ ep ≤ 15 then cmbAnswer s t (ep - 8) q
  else s

end Sys2Proof.Machine
end

