-- ==== Sys2Proof/Machine/Pages.lean ====
section
/-! DEFINITION. Which page an address names: BAR0 and BAR2 offsets of the host, and the addresses of REGRD and REGWR. -/

namespace Sys2Proof.Machine

/-- Page p of tile t (Table 3.1). -/
def tilePage (t p : Nat) : Option Page :=
  match p with
  | 0 => some (.til t)
  | 1 => some (.seq t)
  | 2 => some (.cmp t)
  | 3 => some (.mov t)
  | 4 => some (.cmb t)
  | 5 => some (.rtr t)
  | 6 => some (.dbg t)
  | _ => none

/-- Page i of an I/O die (Table 3.3). -/
def diePage (d i : Nat) : Option Page :=
  if i = 0 then some (.osw d)
  else if 0x10 ≤ i ∧ i ≤ 0x1B then some (.llk (12 * d + (i - 0x10)))
  else if 0x20 ≤ i ∧ i ≤ 0x21 then some (.eth (2 * d + (i - 0x20)))
  else if 0x30 ≤ i ∧ i ≤ 0x33 then some (.glz (4 * d + (i - 0x30)))
  else if i = 0x40 then some (.tkp d)
  else none

/-- Package pages (Table 3.2). -/
def pkgPage (i : Nat) : Option Page :=
  match i with
  | 0 => some .mgt
  | 1 => some .scr
  | 2 => some .hif
  | 3 => some .dbgp
  | _ => none

/-- A page that is present on this package; none reads as 0 (R108). -/
def ifPresent (s : State) (p : Option Page) : Option Page := p.filter (pagePresent s)

/-- The page at a BAR0 offset (R91). -/
def bar0Page (s : State) (off : Nat) : Option Page := ifPresent s (tilePage (off / 0x8000) (off / 0x1000 % 8))

/-- The page at a BAR2 offset (R92, R94). -/
def bar2Page (s : State) (off : Nat) : Option Page :=
  if off < 0x100000 then ifPresent s (some (.mem (off / 0x1000 % 128) (off / 0x80000)))
  else if off < 0x300000 then ifPresent s (diePage (off / 0x100000 - 1) (off % 0x100000 / 0x1000))
  else if off < 0x304000 then pkgPage ((off - 0x300000) / 0x1000)
  else none

/-- Whether an address of a REGRD or REGWR lies in the ranges of its node (R96 to R99). -/
def regAddrOk (n : Word) (a : Nat) : Bool :=
  match nodeKind n with
  | 0 => a < 0x8000
  | 1 => a < 0x1000
  | 2 =>
    let d := nodeX n % 2
    (0x100000 * (1 + d) ≤ a && a < 0x100000 * (2 + d)) || (d == 0 && 0x300000 ≤ a && a < 0x304000)
  | _ => false

/-- The page that a REGRD or REGWR reaches. -/
def regPage (s : State) (n : Word) (a : Nat) : Option Page :=
  match nodeKind n with
  | 0 => ifPresent s (tilePage (nodeTile n) (a / 0x1000))
  | 1 => ifPresent s (some (.mem (nodeX n) (nodeY n)))
  | _ => bar2Page s a

/-- The node whose REG endpoint reaches a page of its own package, and the address there (R96 to R98); an I/O die is
reached at row 0. -/
def pageNode (s : State) (p : Page) (off : Nat) : Word × Nat :=
  let k := ownPkg s
  let tile (t i : Nat) : Word × Nat := (mkNode k (tileY t) (tileX t) 0 1, i * 0x1000 + off)
  let die (d : Nat) : Word × Nat := (mkNode k 0 d 2 1, pageBase p - 0x20000000 + off)
  match p with
  | .til t => tile t 0
  | .seq t => tile t 1
  | .cmp t => tile t 2
  | .mov t => tile t 3
  | .cmb t => tile t 4
  | .rtr t => tile t 5
  | .dbg t => tile t 6
  | .mem x e => (mkNode k e x 1 1, off)
  | .osw d | .tkp d => die d
  | .llk n => die (n / 12)
  | .eth n => die (n / 2)
  | .glz n => die (n / 4)
  | .mgt | .scr | .hif | .dbgp => die 0

end Sys2Proof.Machine
end

