-- ==== Sys2Proof/Machine/HifOps.lean ====
section
/-! DEFINITION. The host interface: host accesses as fabric requests, their completion, and the MSI-X table. -/

namespace Sys2Proof.Machine

def modHif (s : State) (f : Hif → Hif) : State := { s with hif := f s.hif }

/-! ## Completion of reads (R618, Table 14.4) -/

/-- Every part of a read is answered: the first failure stands for the whole, else the bytes in address order. -/
def rdResult (r : HostRd) : Option (Cpl × List Byte) :=
  if r.parts.any (fun p => p.res.isNone) then none
  else
    let rs := r.parts.filterMap (·.res)
    match rs.find? (fun x => x.1 != .sc && x.1 != .poisoned) with
    | some x => some (x.1, [])
    | none => some (if rs.any (fun x => x.1 == .poisoned) then .poisoned else .sc, rs.flatMap (·.2))

/-- Reads that are whole are completed. -/
def rdPump (s : State) : State :=
  s.hif.rds.foldl (fun s r => match rdResult r with
    | some (c, bs) => emit (modHif s (fun h => { h with rds := h.rds.filter (· != r) })) (.host r.id c bs)
    | none => s) s

/-- A part of a read has its result. -/
def rdPart (s : State) (id : Nat) (tag : Half) (c : Cpl) (bs : List Byte) : State :=
  let set (l : List HostPart) : List HostPart :=
    modFirst (fun p => p.tag == some tag && p.res.isNone) (fun p => { p with res := some (c, bs) }) l
  rdPump (modHif s (fun h => { h with
    rds := h.rds.map (fun r => if r.id = id then { r with parts := set r.parts } else r) }))

/-- HIF_SYNC parts whose earlier writes have all been applied read 0 (R133). -/
def syncPump (s : State) : State :=
  let set (l : List HostPart) : List HostPart :=
    l.map (fun p => if p.tag = none ∧ p.res = none then { p with res := some (.sc, [0, 0, 0, 0]) } else p)
  let open_ (h : Hif) (r : HostRd) : Bool := h.accs.any (fun a => a.write && a.id < r.id)
  rdPump (modHif s (fun h => { h with
    rds := h.rds.map (fun r => if open_ h r then r else { r with parts := set r.parts }) }))

/-! ## Requests (R615 to R617) -/

/-- The source node of a request (R616). -/
def hifSrc (s : State) (dst : Word) (op : BitVec 8) : Word :=
  ioNode s (dieRow { dst := dst, opc := op }) 0 0

/-- A request leaves the HIF. -/
def hifSend (s : State) (p : Packet) : State := modDie s 0 (fun d => { d with out := d.out ++ [p] })

/-- A request of access id is made and sent. -/
def hifRequest (s : State) (id : Nat) (bar : Nat) (write : Bool) (dst : Word) (op : BitVec 8) (addr aux : Nat)
    (bs : List Byte) (be : BitVec 4 := 0xF) : Half × State :=
  let tag : Half := BitVec.ofNat 16 s.hif.nextTag
  let p0 : Packet := { dst := dst, src := hifSrc s dst op, opc := op, tag := tag, addr := BitVec.ofNat 48 addr,
                       aux := BitVec.ofNat 32 aux, spart := BitVec.ofNat 4 (rfld s .hif 0x080 3 0),
                       be := be }
  let p := if bs = [] then p0 else withPayload p0 bs
  let a : HostAcc := { tag := tag, id := id, write := write, bar := bar, pkt := p,
                       till := eTime s + usTicks (rfld s .hif 0x080 31 12),
                       rty := rfld s .hif 0x080 11 4, ivl := ticks (rfld s .hif 0x084 19 0) }
  (tag, hifSend (modHif s (fun h => { h with accs := h.accs ++ [a], nextTag := (h.nextTag + 1) % 65536 })) p)

/-- Parts of a BAR4 access: fabric addresses and lengths, broken at 2 KiB (R617). -/
def spans : Nat → Nat → Nat → List (Nat × Nat)
  | 0, _, _ => []
  | f + 1, a, n => if n = 0 then [] else
    let k := min n (2048 - a % 2048)
    (a, k) :: spans f (a + k) (n - k)

def spansOf (a n : Nat) : List (Nat × Nat) := spans (n / 2048 + 2) a n

/-- Fabric address of a BAR4 offset, and its package (R95). -/
def bar4Addr (s : State) (off : Nat) : Nat := rfld s .hif 0x088 11 0 * 2 ^ 36 + off
def bar4Pkg (s : State) : Nat := rfld s .hif 0x088 25 16

/-! ## The MSI-X table (R621 to R624) -/

/-- Words of a vector: message address, data, control. -/
def vecWord (x : MsixVec) (w : Nat) : Word :=
  match w with
  | 0 => BitVec.ofNat 32 x.addr
  | 1 => BitVec.ofNat 32 (x.addr / 2 ^ 32)
  | 2 => x.data
  | _ => if x.masked then 1 else 0

def vecPut (x : MsixVec) (w : Nat) (v : Word) : MsixVec :=
  match w with
  | 0 => { x with addr := x.addr / 2 ^ 32 * 2 ^ 32 + v.toNat }
  | 1 => { x with addr := x.addr % 2 ^ 32 + v.toNat * 2 ^ 32 }
  | 2 => { x with data := v }
  | _ => { x with masked := fld v 0 0 == 1 }

/-- Pending messages of vectors that may now leave are sent (R623). -/
def msixFlush (s : State) : State :=
  s.hif.vecs.foldl (fun s e => if (getVec s e.1).pend && vecOpen s e.1 then msixSend s e.1 else s) s

/-- A word of the Pending Bit Array. -/
def pbaWord (s : State) (w : Nat) : Word :=
  BitVec.ofNat 32 (((List.range 32).map (fun i => if (getVec s (32 * w + i)).pend then 2 ^ i else 0)).sum)

/-- Bytes of a register under byte enables. -/
def mergeBytes (old v : Word) (be : BitVec 4) : Word :=
  BitVec.ofNat 32 (leNat ((List.range 4).map (fun i =>
    if be.toNat / 2 ^ i % 2 = 1 then BitVec.ofNat 8 (v.toNat / 256 ^ i) else BitVec.ofNat 8 (old.toNat / 256 ^ i))))

/-- A write of a word of the table, under byte enables. -/
def msixWrite (s : State) (off : Nat) (v : Word) (be : BitVec 4) : State :=
  let i := off / 16
  let w := off % 16 / 4
  let x := getVec s i
  msixFlush (setVec s i (vecPut x w (mergeBytes (vecWord x w) v be)))

/-! ## Answers (R618, R619, Table 14.4) -/

/-- A posted host write fails (R618). -/
def hifWfail (s : State) (tag : Half) : State :=
  captureOpen false (addFld s .hif 0x094 31 16 1) .hif 0x11 tag 0 0 (some 1) (isrMask 1)

/-- A request ends. -/
def accDrop (s : State) (a : HostAcc) : State := modHif s (fun h => { h with accs := h.accs.filter (· != a) })

/-- A request is answered with success. -/
def accOk (s : State) (a : HostAcc) (c : Cpl) (bs : List Byte) : State :=
  let s1 := accDrop s a
  syncPump (if a.write then s1 else rdPart s1 a.id a.tag c bs)

/-- A request fails with a completion status. -/
def accFail (s : State) (a : HostAcc) (c : Cpl) : State :=
  let s1 := accDrop s a
  syncPump (if a.write then hifWfail s1 a.tag else rdPart s1 a.id a.tag c [])

/-- Completion of a refusal reason. -/
def nakCpl (reason : Nat) : Cpl :=
  if reason = nkHOLE ∨ reason = nkOFF ∨ reason = nkMALFORMED ∨ reason = nkWINDOW then .ur else .ca

/-- A request changes. -/
def accMod (s : State) (a : HostAcc) (f : HostAcc → HostAcc) : State :=
  modHif s (fun h => { h with accs := modFirst (· == a) f h.accs })

/-- A response at the HIF. -/
def hifAnswer (s : State) (q : Packet) : State :=
  let live (a : HostAcc) : Bool := a.due.isNone && a.pkt.src == q.dst
  if lenBad q then s
  else if q.opc = opWRACK then
    ((s.hif.accs.filter (fun a => live a && a.pkt.opc == opWR && a.pkt.dst == q.src)).take (fld q.aux 6 0)).foldl
      (fun s a => accOk s a .sc []) s
  else match s.hif.accs.find? (fun a => live a && a.tag == q.tag) with
    | none => s
    | some a =>
      let op := a.pkt.opc
      if q.opc = opRDRSP then
        (if op = opRD ∧ q.addr = a.pkt.addr ∧ (payload q).length = fld a.pkt.aux 11 0 then
          accOk s a (if poisoned q then .poisoned else .sc) (payload q) else s)
      else if q.opc = opREGRSP then
        (if op = opREGRD ∧ q.len = 1 then accOk s a .sc ((payload q).take 4)
         else if op = opREGWR ∧ q.len = 0 then accOk s a .sc [] else s)
      else if q.opc = opNAK then
        let r := fld q.aux 7 0
        if (r = nkFULL ∨ r = nkHOLD ∨ r = nkPOLICED) ∧ a.tries < a.rty then
          accMod s a (fun a => { a with due := some (eTime s + a.ivl) })
        else accFail s a (nakCpl r)
      else if q.opc = opDEAD then
        (if a.bar = 4 then accFail s a .ca else accOk s a .sc [0, 0, 0, 0])
      else if q.opc = opWFN ∧ op = opWR then accFail s a .ca
      else s

/-- No answer within CTO (R618, R619): a read completes with Completer Abort and counts; a write fails. -/
def hifTimeout (s : State) (a : HostAcc) : State :=
  if a.write then accFail s a .ca
  else accFail (captureOpen false (addFld s .hif 0x094 15 0 1) .hif 0x10 a.tag 0 0 (some 1) (isrMask 0)) a .ca

/-- A refused request is sent again with the same TAG; it is then the youngest that was sent (R337). -/
def hifResend (s : State) (a : HostAcc) : State :=
  let till := eTime s + usTicks (rfld s .hif 0x080 31 12)
  let b := { a with due := none, tries := a.tries + 1, till := till }
  hifSend (modHif s (fun h => { h with accs := h.accs.filter (· != a) ++ [b] })) a.pkt

end Sys2Proof.Machine
end

