-- ==== Sys2Proof/Machine/Answers.lean ====
section
/-! DEFINITION. Answers reach the endpoint that made the request: MOV, TIL or CMB of a tile, or the host interface. -/

namespace Sys2Proof.Machine

/-- The block of a tile that a response is for takes none while it is halted (R728). -/
def rspWaits (s : State) (t : Nat) (q : Packet) : Bool :=
  (nodeEp q.dst == 0 && stopped s (.mov t)) || (8 ≤ nodeEp q.dst && nodeEp q.dst ≤ 15 && stopped s (.cmb t))

/-- The first response at a place, of an opcode, is taken; one that no request awaits is discarded (R338, R382). -/
def takeRsp (s : State) (p : Place) (op : BitVec 8) : State :=
  match rspHead s p op with
  | none => s
  | some q =>
    match p with
    | .tile t => if rspWaits s t q then s else tileRsp (popRsp s p) t q
    | .io d => if d = 0 ∧ nodeEp q.dst = 0 then hifAnswer (popRsp s p) q else popRsp s p
    | .mem _ _ => popRsp s p

/-- R224, R226, R338, R618. -/
def execRdrsp (p : Place) (s : State) : Host.Outcome State Fault Refusal := .next (takeRsp s p opRDRSP)

/-- R278, R279, R337. -/
def execWrack (p : Place) (s : State) : Host.Outcome State Fault Refusal := .next (takeRsp s p opWRACK)

/-- R283. -/
def execWfn (p : Place) (s : State) : Host.Outcome State Fault Refusal := .next (takeRsp s p opWFN)

/-- R283, R288, R618. -/
def execNak (p : Place) (s : State) : Host.Outcome State Fault Refusal := .next (takeRsp s p opNAK)

/-- R283, R387. -/
def execDead (p : Place) (s : State) : Host.Outcome State Fault Refusal := .next (takeRsp s p opDEAD)

/-- R233. -/
def execRsvack (p : Place) (s : State) : Host.Outcome State Fault Refusal := .next (takeRsp s p opRSVACK)

/-- R106, R302, R618. -/
def execRegrsp (p : Place) (s : State) : Host.Outcome State Fault Refusal := .next (takeRsp s p opREGRSP)

end Sys2Proof.Machine
end

