-- ==== Sys2Proof/Machine/NtOps.lean ====
section
/-! DEFINITION. Network time: time waves and steps, the source of time, PPS_IN, Accord exchanges, the calendar clock. -/

namespace Sys2Proof.Machine

/-- Ticks in a second. -/
def secTicks : Nat := 1024000000000

/-- The next instant of T that is a multiple of n. -/
def nextT (s : State) (n : Nat) : Int := (fullT s / n + 1) * n

/-- The first instant from now on that is a multiple of n and not the last one that was served. -/
def dueT (t : Int) (last : Option Int) (n : Nat) : Int :=
  if t % n = 0 ∧ last ≠ some t then t else (t / n + 1) * n

/-- T of the next time wave: every instant where NT[19:0] = 0 (R472). -/
def waveDue (s : State) : Int := dueT (fullT s) s.tkp.lastWave (2 ^ 20)

/-! ## Time waves and steps (R468 to R472, R475, R520) -/

/-- Places whose gate list is not OFF. -/
def gPlacesOn (s : State) : List GPlace :=
  s.regs.filterMap (fun e => if e.1 < 2 ^ 29 ∧ e.1 % 0x8000 = 0x3804 ∧ fld e.2 1 0 ≠ 0 then some (.mov (e.1 / 0x8000)) else none)
    ++ ((List.range 24).map GPlace.llk ++ (List.range 4).map GPlace.eth).filter (fun g => gclState s g != 0)

/-- T moves to t1 at once, and every gate list treats the step (R470, R520). -/
def applyStep (s : State) (t1 : Int) : State :=
  let d := t1 - fullT s
  let s1 := eraCheck { s with tkp := { s.tkp with
    off := t1 - s.time, steps := s.tkp.steps + d, ups := s.tkp.ups + d.toNat } }
  let s2 := isrBit (putBit s1 (.tkp 0) 0x084 6 true) (.tkp 0) 2
  (gPlacesOn s2).foldl (fun a g => gclStep s a g) s2

/-- A pending step is applied; one that would take T below 0 is not (R469), nor one that would take NT back once LOCKED
has been reached (R465). -/
def stepNow (s : State) : State :=
  match s.tkp.step with
  | none => s
  | some d =>
    let s1 := { s with tkp := { s.tkp with step := none, copy := none } }
    if s.tkp.locked ∧ d < 0 then s1
    else match s.tkp.copy with
    | some (era, epoch) =>
      applyStep { s1 with tkp := { s1.tkp with epoch := epoch } } ((era : Int) * 2 ^ 64 + (fullT s + d) % 2 ^ 64)
    | none => if fullT s + d < 0 then s1 else applyStep s1 (fullT s + d)

/-- A tile disagrees with a wave, or finds a check error (R475): WERR, and an error of its WAVE bucket (Table 17.1). Its
NT differs by a free value until it loads the next valid wave (log 56). -/
def waveErr (s : State) (t : Nat) : State :=
  let (n, s1) := takeFree s
  bucketErr (addFld (modTile s1 t (fun x => { x with ntOff := sgn 64 n })) (.til t) 0x0C0 15 8 1) 7 t

/-- The branch of the wave to TKP1 fails its check, which TKP1 captures as WAVECHK (R475, R498; log 65). -/
def waveChk (s : State) : State := captureOpen false s (.tkp 1) 0x11 0 0 0 none 0

/-- What a wave carries: NT and ERA of its instant, their check, any pending step (R472). -/
def waveWord (s : State) : OutMsg :=
  .timeWave (ntOf s) (eraOf s) (Config.waveCheck (ntOf s) (eraOf s)) (s.tkp.step.getD 0)

/-- Tiles that a wave finds right load it (R474, R475). -/
def waveLoad (s : State) (bad : List Nat) : State :=
  { s with tiles := s.tiles.map (fun e => if bad.contains e.1 then e else (e.1, { e.2 with ntOff := 0 })) }

/-- A time wave goes out, with any pending step (R472); `bad` names the tiles that find it wrong, and 16,384 the branch to
TKP1. -/
def timeWave (s : State) (bad : List Nat) : State :=
  let s0 := atT s (waveDue s)
  let s1 := { s0 with tkp := { s0.tkp with lastWave := some (fullT s0) } }
  let s2 := waveLoad (emit s1 (waveWord s1)) bad
  let s3 := (bad.filter (fun t => pagePresent s (.til t))).foldl waveErr s2
  stepNow (if bad.contains 16384 && dieFitted s 1 then waveChk s3 else s3)

/-- Whether the sum of a step and the pending one is discarded (R469), or would take NT back after LOCKED (R465). -/
def stepBad (s : State) (d : Int) : Bool :=
  let sum := s.tkp.step.getD 0 + d
  sum < 0 && (tkpState s == 2 || tkpState s == 3 || s.tkp.locked || fullT s + sum < 0)

/-- A step joins the pending one (R468). -/
def stepAdd (s : State) (d : Int) : State :=
  { s with tkp := { s.tkp with step := some (s.tkp.step.getD 0 + d) } }

/-- A step as two registers hold it. -/
def stepOf (lo hi : Word) : Int := sgn 64 (lo.toNat + 2 ^ 32 * hi.toNat)

/-! ## The source (R467, R471, Table 11.1) -/

/-- The servo sets RATE to a value of its own, which the spec does not give (log 8). -/
def servoRate (s : State) : State :=
  let (n, s1) := takeFree s
  putReg s1 (.tkp 0) 0x09C (BitVec.ofNat 32 n)

/-- The servo corrects an offset of T: one step from a first ACQUIRE, which joins a step that is pending, else by slew of
the whole offset; RATE once LOCKED (R468, R471). -/
def servo (s : State) (o : Int) (copy : Option (Nat × Nat)) : State :=
  if tkpState s = 2 then servoRate s
  else if tkpState s ≠ 1 then s
  else if s.tkp.fromFree ∧ s.tkp.locked = false then
    (if s.tkp.stepped = false then 
      { s with tkp := { s.tkp with step := some (s.tkp.step.getD 0 - o), copy := copy, stepped := true } }
     else if s.tkp.step.isSome then s
     else setPhase s (-o))
  else setPhase s (-o)

/-- TKP_CTL has been written: the state restarts when SRC changed, firmware sets it under PTP (Table 11.1). -/
def tkpCtlWritten (s : State) (old : Word) : State :=
  let v := rawReg s (.tkp 0) 0x080
  let fwst := fld v 13 12
  let s1 := if fld v 1 0 ≠ fld old 1 0 then
      let a := tkpSet s 0
      match fld v 1 0 with
      | 0 => a
      | 2 => tkpSet a fwst
      | 3 =>
        let b := tkpSet a 1
        if accState b (tkpPort b) = 3 then tkpSet b 2 else b
      | _ => tkpSet a 1
    else if fld v 1 0 = 2 then tkpSet s fwst
    else s
  s1

/-- TKP_ADJ sets RATE in FREE and under PTP (Table 11.6). -/
def adjWritten (s : State) : State :=
  if tkpState s = 0 ∨ tkpSrc s = 2 then putReg s (.tkp 0) 0x09C (rawReg s (.tkp 0) 0x0A0) else s

/-- Distance of T from the nearest whole second. -/
def secOffset (s : State) : Int :=
  let m := fullT s % secTicks
  if m ≤ secTicks / 2 then m else m - secTicks

/-- An edge of PPS_IN drives the source PPS_IN (Table 11.1, R471). -/
def ppsSource (s : State) : State :=
  let s1 := if tkpState s = 0 ∨ tkpState s = 3 then tkpSet s 1 else s
  let o := secOffset s1
  let n := if o.natAbs ≤ 1024 then s1.tkp.edges + 1 else 0
  let s2 := servo { s1 with tkp := { s1.tkp with edges := n, lastEdge := some (eTime s1) } } o none
  if tkpState s2 = 1 ∧ 8 ≤ n then servoRate (tkpSet s2 2) else s2

/-- A rising edge of PPS_IN (R496). -/
def ppsIn (s : State) : State :=
  let p := Page.tkp 0
  let s1 := if rbit s p 0x0CC 0 then putBit s p 0x0CC 1 true else s
  let s2 := putReg (putReg s1 p 0x0C4 (BitVec.ofNat 32 (ntOf s))) p 0x0C8 (BitVec.ofNat 32 (ntOf s / 2 ^ 32))
  let s3 := isrBit (putBit s2 p 0x0CC 0 true) p 1
  if tkpSrc s3 = 1 then ppsSource s3 else s3

/-! ## Accord (R477 to R482) -/

/-- A quotient in whole ticks; one that is not whole is rounded either way. -/
def tickQuot (n d : Int) : Int := if n % d = 0 then n / d else if Config.tickUp n d then n / d + 1 else n / d

/-- The Accord port of a link runs as a slave on a trained link. -/
def accSlave (s : State) (n : Nat) : Bool := linkUp s n && accRole s n == 2 && accState s n != 0 && accState s n != 5

/-- A slave port of a trained link sends a DREQ after each SYNC, in FAULT too (R477). -/
def accHears (s : State) (n : Nat) : Bool := linkUp s n && accRole s n == 2 && accState s n != 0

/-- LANESEL that the slave uses: 1 for the second half of CALIB (R480). -/
def accLane (s : State) (n : Nat) : Bool := accState s n == 1 && 16 ≤ (getAcc s n).n

/-- A master port sends SYNC (R477, R484). -/
def syncSend (s : State) (n : Nat) : State :=
  let s1 := atLeast s ((getAcc s n).since + ticks 1000000)
  let s2 := modAcc s1 n (fun a => { a with since := eTime s1 })
  let m : SyncMsg := ⟨ntOf s2, eraOf s2, s2.tkp.epoch, tkpHops s2, tkpTrace s2, (getLink s2 n).lanesel⟩
  emit (sbPush s2 n (sbSync m)) (.sync n m)

/-- A slave port receives SYNC and answers with DREQ after turn ticks (R477, R478); a HOPS above 31 takes it to FAULT
(R481). -/
def syncTake (s : State) (n : Nat) (m : SyncMsg) (turn : Nat) : State :=
  let s0 := putFld s (accPage n) (accOff n + 4) 12 8 (min 31 (m.hops + 1))
  let s0 := if 31 < m.hops + 1 then accSet s0 n 5 else s0
  let t2 : Int := ntOf s
  let sn := ((getAcc s n).seq + 1) % 65536
  let s1 := atLeast s0 (eTime s + turn)
  let s2 := modAcc s1 n (fun a => { a with
    t1 := m.t1, t2 := t2, t3 := ntOf s1, seq := sn, open_ := true, trace := m.trace, mhops := m.hops,
    mera := m.era, mepoch := m.epoch })
  emit (sbPush s2 n (sbDreq sn (accLane s2 n))) (.dreq n sn (accLane s2 n))

/-- Signed difference of two values of NT. -/
def ntDiff (a b : Int) : Int := sgn 64 ((a - b) % 2 ^ 64).toNat

/-- An exchange counts towards the state of the port (Table 11.3). -/
def accJudge (s : State) (n : Nat) (o : Int) : State :=
  let near := o.natAbs * 1000 < 20 * 1024
  let g := if near then (getAcc s n).good + 1 else 0
  let s1 := modAcc s n (fun a => { a with good := g })
  match accState s n with
  | 2 => if 16 ≤ g then accSet s1 n 3 else s1
  | 3 => if 200 * 1024 < o.natAbs * 1000 then accSet s1 n 4 else s1
  | 4 => if 16 ≤ g then accSet s1 n 3 else s1
  | _ => s1

/-- An exchange of CALIB (R480). -/
def accCalib (s : State) (n : Nat) (raw : Int) : State :=
  let a := getAcc s n
  let b := if a.n < 16 then { a with sum0 := a.sum0 + raw, n := a.n + 1 } else { a with sum1 := a.sum1 + raw, n := a.n + 1 }
  let s1 := modAcc s n (fun _ => b)
  if b.n < 32 then s1
  else accSet (putReg s1 (accPage n) (accOff n + 0x10) (satWord (tickQuot (b.sum0 - b.sum1) 32))) n 2

/-- DRSP completes an exchange (R479); a register holds the nearest number that fits it (R137). -/
def drspTake (s : State) (n : Nat) (t4 : Nat) : State :=
  let a := getAcc s n
  let p := accPage n
  let o := accOff n
  let x := ntDiff a.t2 a.t1
  let y := ntDiff t4 a.t3
  let raw := tickQuot (x - y) 2
  let off := raw - sgn 32 (rawReg s p (o + 0x10)).toNat
  let s1 := modAcc s n (fun a => { a with open_ := false, miss := 0, lastDone := eTime s })
  let s2 := putReg (putReg s1 p (o + 8) (satWord off)) p (o + 0xC) (satWord (tickQuot (x + y) 2))
  if accState s n = 1 then accCalib s2 n raw
  else
    let s3 := accJudge s2 n off
    if tkpSrc s3 = 3 ∧ tkpPort s3 = n then servo s3 off (some (a.mera, a.mepoch)) else s3

/-- An expected exchange is missing (Table 11.3). -/
def accMiss (s : State) (n : Nat) : State :=
  let m := (getAcc s n).miss + 1
  let s1 := modAcc s n (fun a => { a with miss := m, good := 0, open_ := false })
  if accState s n = 3 ∧ 4 ≤ m then accSet s1 n 4 else s1

/-- An Accord message with a failed CRC-7 is discarded and counted; at a slave it is a missing exchange (R574). -/
def sbErr (s : State) (n : Nat) : State :=
  let s1 := addFld s (.llk n) 0x0A8 15 0 1
  if accSlave s n then accMiss s1 n else s1

/-- ACC_CTLj.ROLE has been written (Table 11.3). -/
def roleWritten (s : State) (n : Nat) : State :=
  let s1 := if accState s n = 5 ∨ accRole s n ≠ 2 then accDown s n else s
  accStart s1 n

/-! ## The calendar clock (R488 to R493) -/

/-- RTC_SET_HI has been written: the seconds of both registers, VLOST clear, EPV set (R492, R493). -/
def rtcSetWritten (s : State) : State :=
  let s1 := rtcPut s (pairNat s (.tkp 0) 0x0F0 % 2 ^ 48) 0
  putBit (putBit s1 (.tkp 0) 0x0F8 0 false) (.tkp 0) 0x084 4 true

/-- T of the load of the RTC: the next whole TAI second after the request (R493). -/
def rtcDue (s : State) : Int := (s.tkp.rtcReq / secTicks + 1) * secTicks

/-- The RTC is loaded from T (R493), at the whole second unless T has passed it. -/
def rtcLoad (s : State) : State :=
  let s0 := atT s (rtcDue s)
  let s1 := rtcPut s0 ((s0.tkp.epoch + (fullT s0 / secTicks).toNat) % 2 ^ 48) (fullT s0 % secTicks / 31250000).toNat
  let s2 := if rbit s1 (.tkp 0) 0x084 4 then putBit s1 (.tkp 0) 0x0F8 0 false else s1
  { s2 with tkp := { s2.tkp with rtcsync := false } }

/-- TKP_PPS_CTL.COMP as a signed number, and the whole second of T for which PPS_OUT rises next: the output stage emits
the edge COMP ticks before it (R495). -/
def ppsComp (s : State) : Int := sgn 16 (rfld s (.tkp 0) 0x0C0 31 16)
def ppsDue (s : State) : Int := dueT (fullT s + ppsComp s) s.tkp.lastPps secTicks

/-- PPS_OUT rises, for WIDTH µs (R495). -/
def ppsRise (s : State) : State :=
  let m := ppsDue s
  let s1 := atT s (m - ppsComp s)
  let fall := eTime s1 + usTicks (rfld s1 (.tkp 0) 0x0C0 15 8)
  emit { s1 with tkp := { s1.tkp with ppsOut := true, ppsAt := fall, lastPps := some m } } (.ppsOut true)

/-- NT starts from the RTC at a cold or warm reset (R471, R491, R492). -/
def ntStart (s : State) : State :=
  let (sec, frac) := rtcNow s
  let s1 := { s with tkp := { ({} : Tkp) with epoch := sec, off := (frac * 31250000 : Nat) - (s.time : Int) } }
  putBit s1 (.tkp 0) 0x084 4 (rfld s (.tkp 0) 0x0F8 1 0 == 0)

end Sys2Proof.Machine
end

