-- ==== Sys2Proof/Machine/LinkOps.lean ====
section
/-! DEFINITION. Llynnil links and the Ostler crossbar: training, frames, acknowledgement, credits, replay, metering at
ingress, egress, and the route of a packet through the pod. -/

namespace Sys2Proof.Machine

/-! ## Training (R566 to R571) -/

/-- TRAIN has been written: training starts from DOWN, RETIRED or FAULT, and the lanes and the link are restored
(Table 13.2, Table 17.3). -/
def linkTrain (s : State) (n : Nat) : State :=
  if llkState s n = 0 ∨ llkState s n = 7 ∨ llkState s n = 8 then
    let lane (s : State) (k : Nat) : State := bucketRestore (putBit s (.llk n) (0x0C0 + 4 * k) 16 false) 0 (n * 8 + k)
    let s1 := (List.range 8).foldl lane s
    let s2 := bucketRestore (putBit s1 (.llk n) 0x014 6 false) 1 n
    llkSet (modLink s2 n (fun l => { l with trainAt := eTime s, trainTo := rfld s (.llk n) 0x094 15 0, det := 0 })) n 1 0
  else s

/-- DOWN has been written (Table 13.2). -/
def linkDown (s : State) (n : Nat) : State := if llkState s n = 0 then s else llkDrop (llkSet s n 0 0) n

/-- Signal on lanes (Table 13.2). -/
def trainDetect (s : State) (n lanes : Nat) : State :=
  let m := lanes &&& rfld s (.llk n) 0x080 11 4
  if llkState s n = 1 ∧ minWidth s n ≤ popCount8 m then llkSet (modLink s n (fun l => { l with det := m })) n 2 0 else s

def trainEqual (s : State) (n : Nat) : State := if llkState s n = 2 then llkSet s n 3 0 else s

/-- Lanes with too much skew are excluded (Table 13.2); in IDENT this end sends its PKG, plane and link index (R567) and
its lanes (R568). -/
def trainDeskew (s : State) (n skewed : Nat) : State :=
  if llkState s n ≠ 3 then s
  else
    let m := (getLink s n).det - ((getLink s n).det &&& skewed)
    let s1 := modLink s n (fun l => { l with det := m })
    if popCount8 m < minWidth s n then llkSet s1 n 8 0
    else emit (emit (llkSet s1 n 4 0) (.ident n (ownPkg s) (n / 12) (n % 12))) (.lanes n m)

/-- The pod sizes SA, SB, SC and the coordinates of a package (R577). -/
def podSize (s : State) (dim : Nat) : Nat :=
  match dim with
  | 0 => rfld s (.osw 0) 0x084 4 0
  | 1 => rfld s (.osw 0) 0x084 11 8
  | _ => rfld s (.osw 0) 0x084 19 16

def coord (pkg dim : Nat) : Nat :=
  match dim with
  | 0 => bitsOf pkg 3 0
  | 1 => bitsOf pkg 6 4
  | _ => bitsOf pkg 9 7

/-- Dimension of local link l, and whether it faces the decreasing direction (R578). -/
def linkDim (l : Nat) : Nat := l / 4
def linkMinus (l : Nat) : Bool := l / 2 % 2 == 1

/-- The package next to the own one past local link l. -/
def torusNext (s : State) (l : Nat) : Nat :=
  let d := linkDim l
  let sz := podSize s d
  let c := coord (ownPkg s) d
  let c' := if linkMinus l then (c + sz - 1) % sz else (c + 1) % sz
  match d with
  | 0 => ownPkg s - c + c'
  | 1 => ownPkg s - c * 16 + c' * 16
  | _ => ownPkg s - c * 128 + c' * 128

/-- Identities are exchanged: the link becomes ACTIVE, or faults with MISWIRE (R567). -/
def trainIdent (s : State) (n pkg plane link : Nat) : State :=
  if llkState s n ≠ 4 then s
  else
    let l := n % 12
    let s1 := putReg s (.llk n) 0x088 (BitVec.ofNat 32 (pkg % 1024 + plane % 2 * 1024 + link % 16 * 2048 + 2 ^ 31))
    if plane = n / 12 ∧ link = l ^^^ 2 ∧ pkg = torusNext s l then
      let s2 := llkSet s1 n 5 (getLink s n).det
      accStart s2 n
    else llkSet (captureOpen false s1 (.llk n) 0x13 0 0 0 none (isrMask 4)) n 8 0

/-- LLK_TRAIN_TO as of TRAIN passes (R130, Table 13.2). -/
def trainTimeout (s : State) (n : Nat) : State :=
  let to_ := (getLink s n).trainTo
  if 1 ≤ llkState s n ∧ llkState s n ≤ 4 ∧ to_ ≠ 0 then
    let s1 := atLeast s ((getLink s n).trainAt + usTicks (1000 * to_))
    llkSet (captureOpen false s1 (.llk n) 0x14 0 0 0 none 0) n 8 0
  else s

/-! ## Errors of a link (R565, R569, R692 to R696) -/

/-- A transient error of the link counts in its bucket; the one that makes the fault permanent is captured with its
code (Table 17.6). -/
def linkErr (s : State) (n code : Nat) : State :=
  let s1 := bucketErr s 1 n
  if llkState s1 n = 7 ∧ llkState s n ≠ 7 then captureOpen false s1 (.llk n) code 0 0 0 none 0 else s1

/-- A lane error (R569). -/
def laneErr (n : Nat) (s : State) (k : Nat) : State := bucketErr (addFld s (.llk n) (0x0C0 + 4 * k) 15 0 1) 0 (n * 8 + k)

/-- Lanes in use: those of LLK_STAT, in IDENT those that training has found. -/
def laneMask (s : State) (n : Nat) : Nat := if llkState s n = 4 then (getLink s n).det else llkLanes s n

/-- The lane that carries the sideband towards the partner (out) or from it (R555). A port that is off sends in the
direction of a master (log 47). -/
def sbLane (s : State) (n : Nat) (out : Bool) : Nat :=
  let slave := accRole s n == 2
  let sel := if slave then accLane s n else (getLink s n).lanesel
  let toSlave := out != slave
  let l := edgeLanes (laneMask s n)
  (if toSlave != sel then l.head? else l.getLast?).getD 0

/-- What a block counts: blocks corrected and not correctable, and the errors of the lane corrected (R552, R569). -/
def blockCount (s : State) (n : Nat) (f : Fec) : State :=
  match f with
  | .fixed k b =>
    let s1 := addFld s (.llk n) 0x0A0 15 0 1
    if 8 < b then laneErr n s1 k else corrected s1 (.llk n) 1
  | .bad => linkErr (addFld s (.llk n) 0x0A0 31 16 1) n 0x10
  | _ => s

/-- What a block delivers (R552): its sideband byte and its frame-stream bytes; bytes that a miscorrection makes are free
values. -/
def blockGive (s : State) (n : Nat) (f : Fec) (shares : List (List Byte)) (v : Nat) : Option (Byte × List Byte) :=
  match f with
  | .bad => none
  | .beyond => some (Config.lfByte v 128, (List.range 128).map (Config.lfByte v))
  | _ => some (lfBytes (lanesOf (laneMask s n)) (sbLane s n false) shares)

/-- An LF-128 block arrives with its wrong bits; `lost` are the lanes that have lost alignment, `far` those that the partner
has retired (R552, R568, R569). Beyond two bursts the spec states no outcome: a free value says whether the block is found
uncorrectable or delivers wrong bytes (log 74). -/
def blockTake (s : State) (n : Nat) (b : LfBlock) (lost far : List Nat) : State :=
  if llkState s n < 4 ∨ 6 < llkState s n then s
  else
    let act := lanesOf (laneMask s n)
    let f0 := fecOf (b.errs.filter (fun e => act.contains e.1))
    let (v, s0) := if f0 = .beyond then takeFree s else (0, s)
    let f := if f0 = .beyond ∧ v % 2 = 0 then .bad else f0
    let s1 := modLink s0 n (fun l => { l with blk := blockGive s n f b.shares (v / 2) })
    let s2 := (act.filter lost.contains).foldl (laneErr n) (blockCount s1 n f)
    (act.filter far.contains).foldl (fun s k => if (getBkt s 0 (n * 8 + k)).retired then s else retire s 0 (n * 8 + k) 0) s2

/-- A block of the link leaves (R551): the next sideband unit and the next bytes of the frame stream, dealt over the
lanes. -/
def blockSend (s : State) (n : Nat) : State :=
  if llkState s n < 4 ∨ 6 < llkState s n then s
  else
    let l := getLink s n
    let shares := lfShares (lanesOf (laneMask s n)) (sbLane s n true) (l.sbq.headD 0) (nextStream l)
    emit (modLink s n (fun l => { l with txs := l.txs.drop 128, sbq := l.sbq.tail })) (.block n shares)

/-! ## Frames (R556 to R558, Table 13.1) -/

/-- CRC-32 with polynomial 0x04C11DB7, most significant bit first (R556, R557). -/
def crc32Msb (bs : List Byte) : Nat :=
  let bit (c : Nat) : Nat := if c / 2 ^ 31 % 2 = 1 then (c * 2 % 2 ^ 32) ^^^ 0x04C11DB7 else c * 2 % 2 ^ 32
  (bs.foldl (fun c b => iter bit 8 (c ^^^ (b.toNat * 2 ^ 24))) 0xFFFFFFFF) ^^^ 0xFFFFFFFF

/-- Bytes of a number, most significant first. -/
def beBytes (n v : Nat) : List Byte := (leBytes n v).reverse

/-- The frame header as a 64-bit number. -/
def frameNat (f : LFrame) : Nat :=
  let b (x : Bool) : Nat := if x then 1 else 0
  f.ftype.toNat * 2 ^ 60 + f.vc.toNat * 2 ^ 58 + f.seq.toNat * 2 ^ 46 + f.len.toNat * 2 ^ 39 + f.endb.toNat * 2 ^ 34
    + b f.poi * 2 ^ 33 + f.ackseq.toNat * 2 ^ 20 + b f.ackv * 2 ^ 19 + b f.rpl * 2 ^ 18 + f.cvc.toNat * 2 ^ 16
    + f.ccnt.toNat * 2 ^ 6

/-- The bytes that the CRC of a frame covers. -/
def frameBytes (f : LFrame) (p : Option Packet) : List Byte :=
  beBytes 8 (frameNat f) ++ (match p with
    | some p => beBytes 32 (hdrNat p) ++ p.data.flatMap (fun x => beBytes 32 x.bits.toNat)
    | none => [])

/-- The CRC passes and the type of frame is defined. -/
def frameOk (f : LFrame) (p : Option Packet) : Bool :=
  f.crc.toNat == crc32Msb (frameBytes f p) && (match p with
    | some p => f.ftype.toNat == 1 && p.data.length == f.len.toNat
    | none => f.ftype.toNat == 2)

/-! ## Acknowledgement and credits (R559 to R561) -/

/-- Credits that the next header returns: a VC, a count, and the link without them. -/
def takeOwed (l : Link) : Nat × Nat × Link :=
  match (List.range 4).find? (fun v => (l.owed[v]?).getD 0 != 0) with
  | some v =>
    let c := min 1023 ((l.owed[v]?).getD 0)
    (v, c, { l with owed := listMod l.owed v (· - c) })
  | none => (0, 0, l)

/-- ACKSEQ: the last DATA frame received in order. -/
def ackSeq (l : Link) : Nat := (l.rxSeq + 4095) % 4096

/-- A frame with its CRC. -/
def withCrc (f : LFrame) (p : Option Packet) : LFrame := { f with crc := BitVec.ofNat 32 (crc32Msb (frameBytes f p)) }

/-- The bytes of a frame on the link. -/
def frameWire (f : LFrame) (p : Option Packet) : List Byte := frameBytes f p ++ beBytes 4 f.crc.toNat

/-- The CTRL frame that a link sends with returned credits (Table 13.1). -/
def ctrlOf (l : Link) (rpl : Bool) (cvc ccnt : Nat) : LFrame :=
  withCrc { ftype := 2, vc := 0, seq := 0, len := 0, endb := 0, poi := false, ackseq := BitVec.ofNat 12 (ackSeq l),
            ackv := l.rxAny, rpl := rpl, cvc := BitVec.ofNat 2 cvc, ccnt := BitVec.ofNat 10 ccnt, crc := 0 } none

/-- The DATA frame of a packet (Table 13.1). -/
def dataOf (l : Link) (x : TxFrame) : LFrame :=
  withCrc { ftype := 1, vc := BitVec.ofNat 2 x.vc, seq := BitVec.ofNat 12 x.seq, len := x.pkt.len,
            endb := BitVec.ofNat 5 x.pkt.endb, poi := poisoned x.pkt, ackseq := BitVec.ofNat 12 (ackSeq l),
            ackv := l.rxAny, rpl := false, cvc := BitVec.ofNat 2 x.cvc, ccnt := BitVec.ofNat 10 x.ccnt, crc := 0 }
    (some x.pkt)

/-- A frame joins the frame stream of its link (R556). -/
def streamPush (s : State) (n : Nat) (bs : List Byte) : State := modLink s n (fun l => { l with txs := l.txs ++ bs })

/-- A CTRL frame is sent (R560, R561). -/
def sendCtrl (s : State) (n : Nat) (rpl : Bool) : State :=
  let (v, c, l) := takeOwed (getLink s n)
  let f := ctrlOf l rpl v c
  emit (streamPush (modLink s n (fun _ => { l with toAck := 0 })) n (frameWire f none)) (.ctrl n f)

/-- The replay timer starts, and with it LLK_ACKTO is sampled (R130, R563). -/
def progress (s : State) (n : Nat) : State :=
  modLink s n (fun l => { l with progressAt := eTime s, ackTo := rfld s (.llk n) 0x08C 15 0 })

/-- Flits of a VC have left the ingress buffer of a link (R559). -/
def owe (s : State) (n vc flits : Nat) : State :=
  modLink s n (fun l => { l with owed := listMod l.owed vc (· + flits) })

/-- A header acknowledges frames and returns credits. -/
def headTake (s : State) (n : Nat) (f : LFrame) : State :=
  let s1 := modLink s n (fun l => { l with credits := listMod l.credits f.cvc.toNat (fun c => min 512 (c + f.ccnt.toNat)) })
  let held := (getLink s1 n).unacked
  match held.findIdx? (fun x => x.seq == f.ackseq.toNat) with
  | some i =>
    if f.ackv then progress (modLink s1 n (fun l => { l with unacked := l.unacked.drop (i + 1), rpl := 0 })) n
    else s1
  | none => s1

/-- A frame that is not accepted: the receiver discards what follows and asks once for a resend (R560). -/
def frameRefuse (s : State) (n : Nat) : State :=
  if (getLink s n).disc then s else sendCtrl (modLink s n (fun l => { l with disc := true })) n true

/-- A frame with a failed CRC or an undefined type (R560, R565). -/
def frameBad (s : State) (n : Nat) : State :=
  let s1 := linkErr (addFld s (.llk n) 0x0A4 15 0 1) n 0x11
  if llkState s1 n = 5 then frameRefuse s1 n else s1

/-! ## Replay (R562, R563) -/

/-- Every unacknowledged frame is sent again, oldest first; a halted link sends no DATA frame (Table 18.2). -/
def resendAll (s : State) (n : Nat) : State :=
  if stopped s (.llk n) then modLink s n (fun l => { l with resend := true })
  else
    let l := getLink s n
    let one (s : State) (x : TxFrame) : State :=
      emit (streamPush s n (frameWire (dataOf l x) (some x.pkt))) (.data n (dataOf l x) x.pkt)
    l.unacked.foldl one (progress (modLink s n (fun l => { l with resend := false, toAck := 0 })) n)

/-- A replay attempt: at LLK_RPLMAX, as it read at the first attempt since ACKSEQ advanced (R130), the link is retired
(R563, R565). -/
def replay (s : State) (n : Nat) : State :=
  let l := getLink s n
  let most := if l.rpl = 0 then rfld s (.llk n) 0x090 3 0 else l.rplMax
  match l.unacked with
  | [] => s
  | x :: _ =>
    let s1 := addFld (modLink s n (fun l => { l with rpl := l.rpl + 1, rplMax := most })) (.llk n) 0x0A4 31 16 1
    let s2 := sillage s1 (.llk n) 0x62 false 0 0 (BitVec.ofNat 32 ((x.seq + 4095) % 4096))
    let s3 := bucketErr s2 1 n
    if llkState s3 n ≠ 5 then s3
    else if most ≤ l.rpl + 1 then captureOpen false (retire s3 1 n 1) (.llk n) 0x12 0 0 0 none 0
    else resendAll s3 n

/-! ## Ingress (R534 to R541, R560) -/

/-- The meter that a request selects (Table 12.8). -/
def llkMeter (s : State) (n : Nat) (p : Packet) : Nat :=
  match gReg s (.llk n) 0x184 1 0 with
  | 0 => p.tc.toNat
  | 1 => p.spart.toNat * 8 + p.tc.toNat
  | 2 => nodePkg p.src % 256
  | _ => p.layer.toNat % 256

/-- Whether a packet passes the meters of a link (R539). -/
def metered (p : Packet) : Bool := !isRsp p && p.opc != opCONF && p.opc != opWDRW

/-- A packet has come in order over a link: metered, then passed to OSW or answered NAK(POLICED). -/
def linkIn (s : State) (n vc : Nat) (p : Packet) : State :=
  let pass (s : State) (q : Packet) : State :=
    modDie s (n / 12) (fun d => { d with osw := d.osw ++ [{ pkt := q, from_ := some (n, vc), held := true }] })
  if metered p = false then pass s p
  else
    let i := llkMeter s n p
    let (col, s1) := meterPass s (.llk n) i (llkLen s n p) (min 2 p.color.toNat) (isDark p)
    if (getMtr s (.llk n) i).mode = 0 then pass s p
    else if col = 2 then
      modDie (owe s1 n vc (p.data.length + 1)) (n / 12) (fun d => { d with
        out := d.out ++ [{ nakPkt p.dst p nkPOLICED with tent := p.tent }] })
    else pass s1 (reHcrc { p with color := BitVec.ofNat 2 col })

/-- A DATA frame arrives (R560); a request for a resend in its header is applied after its acknowledgement (R563,
R564). -/
def dataFrame (s : State) (n : Nat) (f : LFrame) (p : Packet) : State :=
  if llkState s n ≠ 5 then s
  else if frameOk f (some p) = false then frameBad s n
  else if f.seq.toNat ≠ (getLink s n).rxSeq then frameRefuse s n
  else
    let q : Packet := { p with data := p.data.map (fun x => { x with poi := f.poi }), endb := f.endb.toNat }
    let s1 := headTake s n f
    let s2 := modLink s1 n (fun l => { l with
      rxSeq := (l.rxSeq + 1) % 4096, rxAny := true, disc := false, toAck := l.toAck + 1,
      ackSince := if l.toAck = 0 then eTime s else l.ackSince })
    let s3 := linkIn s2 n f.vc.toNat q
    let s4 := if f.rpl then replay s3 n else s3
    if 16 ≤ (getLink s4 n).toAck then sendCtrl s4 n false else s4

/-- A CTRL frame arrives: the acknowledgement is applied before the request for a resend (R564). -/
def ctrlFrame (s : State) (n : Nat) (f : LFrame) : State :=
  if llkState s n ≠ 5 then s
  else if frameOk f none = false then frameBad s n
  else
    let s1 := headTake s n f
    if f.rpl then replay s1 n else s1

/-! ## Ostler (R579 to R585) -/

/-- The direction in which a packet leaves, in dimension order; none at its package (R579). -/
def podDir (s : State) (pkg : Nat) : Option Nat :=
  ((List.range 3).filterMap (fun d =>
    let sz := podSize s d
    let k := (coord pkg d + sz - coord (ownPkg s) d) % sz
    if k = 0 then none else some (2 * d + (if k ≤ sz - k then 0 else 1)))).head?

/-- The member link of a direction that a packet takes on plane d: the other one when one is down (R580). -/
def podLink (s : State) (d dir : Nat) (p : Packet) : Option Nat :=
  let m := (nodeX p.src + nodeY p.src + nodeX p.dst + nodeY p.dst) % 2
  [m, 1 - m].map (fun m => 12 * d + 2 * dir + m) |>.find? (linkUp s)

/-- The link VC of a packet on an egress link (R582). -/
def podVc (s : State) (n : Nat) (x : Transit) : Nat :=
  let l := n % 12
  let c := coord (ownPkg s) (linkDim l)
  let date := if linkMinus l then c == 0 else c + 1 == podSize s (linkDim l)
  let kept := x.from_.any (fun f => linkDim (f.1 % 12) == linkDim l && f.2 % 2 == 1)
  vcBase x.pkt + (if date || kept then 1 else 0)

/-- Whether a package lies outside the pod (R581). -/
def offPod (s : State) (pkg : Nat) : Bool := (List.range 3).any (fun d => podSize s d ≤ coord pkg d)

/-- The waiting heads of the classes of a link. -/
def egHeads (s : State) (n : Nat) : List (Nat × Transit) :=
  (List.range 8).filterMap (fun k => (tabGet [] (getLink s n).eg k).head?.map (fun x => (k, x)))

/-- Their counted lengths. -/
def egLens (s : State) (n : Nat) (hs : List (Nat × Transit)) : List (Nat × Nat) :=
  hs.map (fun h => (h.1, llkLen s n h.2.pkt))

/-- F of the heads of a link follows what its classes hold (R530, R531). -/
def llkFix (s : State) (n : Nat) : State := schFix s (.llk n) (egLens s n (egHeads s n))

/-- OSW refuses a request, or discards a response (R581). -/
def oswRefuse (s : State) (d : Nat) (p : Packet) (reason : Nat) : State :=
  if isRsp p then addFld s (.osw d) 0x08C 31 16 1
  else
    let s1 := captureOpen (isDark p) (addFld s (.osw d) 0x08C 15 0 1) (.osw d) 0x10 p.tag p.layer p.oper none 0
    if unanswered p then s1 else modDie s1 d (fun x => { x with out := x.out ++ [nakPkt p.dst p reason] })

/-- Whether OSW turns away what is addressed to this package: a fabric reset runs (R792). -/
def fabricBusy (s : State) : Bool := s.mgt.running == some .fabric

/-- OSW handles a packet (R579 to R585, R792). -/
def oswRoute (s : State) (d : Nat) (x : Transit) : State :=
  let p := x.pkt
  if nodePkg p.dst = ownPkg s then
    (if fabricBusy s then
      (if isRsp p ∨ unanswered p then s
       else modDie s d (fun g => { g with osw := g.osw ++ [{ pkt := nakPkt p.dst p nkOFF }] }))
     else modDie s d (fun g => { g with out := g.out ++ [p] }))
  else if rbit s (.osw 0) 0x088 0 = false ∨ offPod s (nodePkg p.dst) then oswRefuse s d p nkOFF
  else match podDir s (nodePkg p.dst) with
    | none => oswRefuse s d p nkOFF
    | some dir =>
      match podLink s d dir p with
      | none => oswRefuse s d p nkRETIRED
      | some n =>
        let k := p.tc.toNat
        llkFix (modLink s n (fun l => { l with eg := tabPut l.eg k (tabGet [] l.eg k ++ [{ x with held := false }]) })) n

/-- The oldest packet in OSW is handled; its place in an ingress buffer becomes free. -/
def oswPacket (s : State) (d : Nat) : State :=
  match (getDie s d).osw with
  | [] => s
  | x :: rest =>
    if stopped s (.osw d) ∨ dieFitted s d = false then s
    else
      let s1 := modDie s d (fun g => { g with osw := rest })
      let s2 := match x.from_ with
        | some f => if x.held then owe s1 f.1 f.2 (x.pkt.data.length + 1) else s1
        | none => s1
      oswRoute s2 d x

/-! ## Egress (R528 to R531, R559, R562) -/

/-- Bytes of a DATA frame in the replay buffer. -/
def frameSize (p : Packet) : Nat := 32 * (p.data.length + 1) + 12

/-- Credits and the replay buffer let a packet be framed. -/
def framable (s : State) (n : Nat) (x : Transit) : Bool :=
  let l := getLink s n
  (x.pkt.data.length + 1 ≤ (l.credits[podVc s n x]?).getD 0) && l.unacked.length < 2047
    && (l.unacked.map (fun u => frameSize u.pkt)).sum + frameSize x.pkt ≤ 65536

/-- A packet is framed and sent. -/
def frameSend (s : State) (n k : Nat) (x : Transit) : State :=
  let l0 := getLink s n
  let vc := podVc s n x
  let (cv, cc, l) := takeOwed l0
  let u : TxFrame := ⟨l.txSeq, vc, x.pkt, cv, cc⟩
  let s1 := modLink s n (fun _ => { l with
    eg := tabPut l.eg k (tabGet [] l.eg k).tail,
    credits := listMod l.credits vc (· - (x.pkt.data.length + 1)),
    unacked := l.unacked ++ [u],
    txSeq := (l.txSeq + 1) % 4096, toAck := 0 })
  let s2 := if l.unacked = [] then progress s1 n else s1
  emit (streamPush s2 n (frameWire (dataOf l u) (some x.pkt))) (.data n (dataOf l u) x.pkt)

/-- At a link egress the chosen class starts its packet. -/
def llkStart (s : State) (n : Nat) : State :=
  if llkState s n ≠ 5 ∨ stopped s (.llk n) then s
  else
    let s1 := gDue s (.llk n)
    let hs := egHeads s1 n
    match egPick s1 (.llk n) (egLens s1 n (hs.filter (fun h => framable s1 n h.2))) with
    | none => s1
    | some (k, b) =>
      match hs.find? (fun h => h.1 == k) with
      | some h => llkFix (frameSend (egStart s1 (.llk n) k b) n k h.2) n
      | none => s1

end Sys2Proof.Machine
end

