-- ==== Sys2Proof/Machine/ScrOps.lean ====
section
/-! DEFINITION. The Scrutton page: leaks of buckets, retirement by software, the retirement log, Fuller passes, response
timeouts. -/

namespace Sys2Proof.Machine

/-! ## Buckets (R693 to R698) -/

/-- Leak interval of a kind in ns: floor(WIN · 1,000 / THR), and 0 while the bucket is off. -/
def leakNs (thr win : Nat) : Nat := if thr = 0 then 0 else win * 1000 / thr

/-- The next leak instant of a bucket: the first E from now on that is a whole multiple of the interval and not that of its
last leak. -/
def nextLeak (s : State) (b : Bucket) (ns : Nat) : Nat :=
  if eTime s % ticks ns = 0 ∧ b.leakAt ≠ some (eTime s) then eTime s else (eTime s / ticks ns + 1) * ticks ns

/-- A leak (R693): the level of a resource that is not retired falls by 1. -/
def bucketLeak (s : State) (kind inst : Nat) : State :=
  let ns := leakNs (bktThr s kind) (bktWin s kind)
  if ns = 0 then s
  else
    let s1 := atLeast s (nextLeak s (getBkt s kind inst) ns)
    let b := getBkt s1 kind inst
    if b.retired ∨ b.level = 0 then s1
    else setBkt s1 kind inst { b with level := b.level - 1, leakAt := some (eTime s1) }

/-- Instances of the buckets of a kind that hold a level. -/
def bktInsts (s : State) (kind : Nat) : List Nat :=
  s.buckets.filterMap (fun e => if e.1 / 2 ^ 24 = kind then some (e.1 % 2 ^ 24) else none)

/-- SCR_BKTk_THR or SCR_BKTk_WIN has been written (R698). -/
def bucketsWritten (s : State) (kind : Nat) : State :=
  let thr := bktThr s kind
  if thr = 0 then s
  else (bktInsts s kind).foldl (fun s i =>
    let b := getBkt s kind i
    if b.level < thr then s
    else if b.retired then setBkt s kind i { b with level := thr }
    else retire s kind i 0) s

/-- A value of SCR_BKTk_THR or SCR_BKTk_WIN that Table 17.7 leaves undefined. -/
def bucketWriteBad (s : State) (kind : Nat) (win : Bool) (v : Word) : Bool :=
  if win then v == 0 || (bktThr s kind != 0 && leakNs (bktThr s kind) v.toNat == 0)
  else fld v 15 0 != 0 && leakNs (fld v 15 0) (bktWin s kind) == 0

/-! ## Retirement (R704, R707, R719 to R722) -/

/-- INST of a COPY holder has its unused bits 0 (Table 17.7). -/
def copyInstOk (inst : Nat) : Bool :=
  if bitsOf inst 23 22 = 3 then bitsOf inst 21 5 == 0 && inst % 32 < 28 else bitsOf inst 21 14 == 0

/-- A resource exists (Table 17.1, Table 17.7). -/
def resourceExists (s : State) (kind inst : Nat) : Bool :=
  match kind with
  | 0 => inst < 192 && dieFitted s (inst / 96)
  | 1 => inst < 24 && dieFitted s (inst / 12)
  | 2 => inst < 256 && pagePresent s (.mem (inst % 128) (inst / 128))
  | 3 => inst < 262144 && pagePresent s (.cmb (inst / 16))
  | 4 => inst < 16384 && pagePresent s (.til inst)
  | 5 => inst < 4 && dieFitted s (inst / 2)
  | 6 => copyInstOk inst && pagePresent s (copyHolder inst)
  | _ => inst < 16384 && pagePresent s (.til inst)

/-- SCR_RETIRE has been written: a resource that is not retired already is retired with CAUSE SOFTWARE (R707). -/
def scrRetire (s : State) (kind inst : Nat) : State :=
  if (getBkt s kind inst).retired then s else retire s kind inst 2

/-- SCR_RLOG_POP has been written (R721). -/
def rlogPop (s : State) : State := { s with rlog := s.rlog.tail }

/-- The oldest entry of the retirement log. -/
def rlogHead (s : State) : RlogE := (s.rlog.head?).getD ⟨0, 0, 0⟩

/-- ALERT_N is driven low (R719, R785). -/
def alertLow (s : State) : Bool :=
  (rawReg s .scr 0x020 &&& rawReg s .scr 0x090 &&& 0xF) != 0 || (rfld s .mgt 0x090 3 0 == 8 && rfld s .mgt 0x090 15 8 == 1)

/-! ## Fuller (R710 to R717) -/

/-- INST of the holder of a gate list pair (Table 17.7). -/
def gateInst : GPlace → Nat
  | .mov t => 2 * 2 ^ 22 + t
  | .llk n => 3 * 2 ^ 22 + n
  | .eth n => 3 * 2 ^ 22 + 24 + n

/-- INST of the holder of a differing record. -/
def diffInst : CopyDiff → Nat
  | .route t _ => t
  | .dead t _ => t
  | .gate g _ _ _ _ _ => gateInst g
  | .calib t _ => 2 ^ 22 + t

/-- The record is compared now: its holder exists, and a gate list pair runs in step (R711). -/
def diffSeen (s : State) (d : CopyDiff) : Bool :=
  pagePresent s (copyHolder (diffInst d)) && (match d with
    | .gate g _ _ _ _ _ => gclState s g == 2 && (getGcl s g).inStep
    | _ => true)

/-- The difference lies in unused bits (Table 17.5). -/
def diffUnused (s : State) (d : CopyDiff) : Bool :=
  match d with
  | .route _ b => 56 ≤ b
  | .dead _ b => 132 ≤ b % 136
  | .gate g e w b _ _ =>
    e < gLimit g && (gReg s g 0x30 8 0 ≤ e || 2 ≤ w || (w == 1 && gQueues g == 4 && 4 ≤ b))
  | .calib _ b => 40 ≤ b

/-- A difference that no copy can mend: both per-entry checks pass, or neither (R715). -/
def diffUnrep (d : CopyDiff) : Bool :=
  match d with
  | .gate _ _ _ _ a b => a == b
  | _ => false

/-- A difference is repaired, counted or escalated (R713 to R715). Repair leaves every copy as the reference, which is
what the state holds. -/
def fullerOne (s : State) (d : CopyDiff) : State :=
  let inst := diffInst d
  if diffSeen s d = false then s
  else if diffUnused s d then addFld s .scr 0x088 15 0 1
  else if diffUnrep d then
    let s1 := match d with
      | .gate g _ _ _ _ _ => gclHalt s g
      | _ => s
    captureOpen false (addFld s1 .scr 0x088 31 24 1) .scr 0x11 0 0 0 none (isrMask 2)
  else
    let s1 := addFld s .scr 0x088 23 16 1
    bucketErr (capture s1 .scr 0x10 0 0 0 (BitVec.ofNat 32 inst) none (isrMask 1)) 6 inst

/-- A pass: one in every PERIOD ms (R712). -/
def fullerPass (s : State) (ds : List CopyDiff) : State :=
  if rbit s .scr 0x080 0 = false then s
  else
    let s1 := atLeast s (s.mgt.passAt + usTicks (1000 * s.mgt.passMs))
    let s2 := { s1 with mgt := { s1.mgt with passAt := eTime s1, passMs := rfld s1 .scr 0x080 15 8 } }
    addFld (ds.foldl fullerOne s2) .scr 0x08C 31 0 1

/-! ## Response timeouts (R700 to R702) -/

def rtoUs (s : State) : Nat := rfld s .scr 0x084 19 0

/-- A MOV request or reservation times out; a tentative read holds the failure until its path commits (R225, R701). A
response that TIL_LCFG.RT holds back has arrived. A RESV whose answer never comes ends REFUSED and enters nothing in the
log (DESIGN CHOICE, log 69: Table 5.2 has no such event). -/
def movTimeout (s : State) (t : Nat) (tag : Half) : State :=
  let x := getTile s t
  match x.movReqs.find? (fun r => r.tag == tag && r.live) with
  | some r =>
    match r.till with
    | none => s
    | some d =>
      let s1 := atLeast s d
      let free := eTime s1 + usTicks (rtoUs s)
      let dead := modTile s1 t (fun x => { x with
        movReqs := modFirst (fun q => q.tag == tag && q.live) (fun q => { q with dead := some free }) x.movReqs })
      if x.trb.any (fun e => e.tag == tag) ∨ x.leaseHeld.any (fun e => e.tag == tag) then s
      else if r.sink then movPump dead t
      else if r.kind = .rd ∧ cmdTent x r then
        modTile dead t (fun x => { x with trb := x.trb ++ [⟨tag, r.lc, nakPkt r.pkt.dst r.pkt rsTIMEOUT⟩] })
      else movPump (reqFail dead t r rsTIMEOUT) t
  | none =>
    match x.srcResvs.find? (fun v => v.tag == tag && v.inj.isSome && (v.st == .pending || v.st == .done)) with
    | some v => match v.till with
      | some d => resvAnswer (atLeast s d) t v false
      | none => s
    | none => s

/-- The TAG of a request of an endpoint that has timed out is withheld for a further TO (R702). -/
def tagLate (s : State) (t ep : Nat) (tag : Half) : State :=
  modTile s t (fun x => { x with late := tabPut x.late (ep * 65536 + tag.toNat) (eTime s + usTicks (rtoUs s)) })

/-- A result packet of a combining queue times out (R451). -/
def cmbTimeout (s : State) (t n : Nat) (tag : Half) : State :=
  match (getCq s t n).res.find? (fun r => r.tag == tag && r.live && r.till.isSome) with
  | some r =>
    let s1 := atLeast s (r.till.getD 0)
    cqAdvance (resPut (cqFail (tagLate s1 t (8 + n) tag) t n tag rsTIMEOUT) t n tag none) t n
  | none => s

/-- The request of a lease times out: REFUSED (R302). -/
def tilTimeout (s : State) (t i : Nat) : State :=
  match (getTile s t).leaseReq.find? (fun e => e.1 == i) with
  | some (_, (tag, some d)) => if leaseState s t i = 1 then leaseSet (tagLate (atLeast s d) t 1 tag) t i 3 else s
  | _ => s

/-- A response timeout: not while the requester's page is stopped (R700). -/
def respTimeout (s : State) (r : Requester) : State :=
  match r with
  | .mov t tag => if stopped s (.mov t) then s else movTimeout s t tag
  | .cmb t q tag => if stopped s (.cmb t) then s else cmbTimeout s t q tag
  | .til t i => if stopped s (.til t) then s else tilTimeout s t i

/-- The TAG of a timed-out request becomes free (R702), unless its failure is still held for a tentative read (R225). -/
def tagFree (s : State) (t : Nat) (tag : Half) : State :=
  match (getTile s t).movReqs.find? (fun r => r.tag == tag && r.dead.isSome && !(getTile s t).trb.any (fun e => e.tag == tag)) with
  | some r =>
    modTile (atLeast s (r.dead.getD 0)) t (fun x => { x with
      movReqs := dropFirst (fun q => q.tag == tag && q.dead.isSome) x.movReqs })
  | none => s

/-! ## The tile watchdog (R390) -/

/-- The request at the head of the L port has waited for TIL_WDOG.TO µs, as that read when it came there (R130): the tile is isolated with cause WDOG, and the error captured. -/
def watchdog (s : State) (t : Nat) : State :=
  let x := getTile s t
  let to_ := x.wdog
  if to_ = 0 ∨ x.lreq = [] ∨ x.stalled.isSome ∨ stopped s (.til t) ∨ isolated s t then s
  else
    let s1 := atLeast s (x.reqAt + usTicks to_)
    isolate (captureOpen false s1 (.til t) 0x10 0 0 0 none (if isolated s1 t then 0 else isrMask 3)) t 2

end Sys2Proof.Machine
end

