-- ==== Sys2Proof/Machine/DebugOps.lean ====
section
/-! DEFINITION. The debug tree: stop, resume, freeze and unfreeze waves, halts and releases of blocks, sample records. -/

namespace Sys2Proof.Machine

/-! ## Pages by base -/

/-- The page with a base in the one address space of pages. -/
def pageAt (b : Nat) : Option Page :=
  if b < 0x20000000 then tilePage (b / 0x8000) (b / 0x1000 % 8)
  else
    let off := b - 0x20000000
    if off < 0x100000 then some (.mem (off / 0x1000 % 128) (off / 0x80000))
    else if off < 0x300000 then diePage (off / 0x100000 - 1) (off % 0x100000 / 0x1000)
    else pkgPage ((off - 0x300000) / 0x1000)

/-- Pages whose PG_CTL has bit b set (0 at reset, Table 3.5). -/
def ctlPages (s : State) (b : Nat) : List Page :=
  s.regs.filterMap (fun e => if e.1 % 0x1000 = 0x010 ∧ fld e.2 b b = 1 then pageAt (e.1 - 0x010) else none)

/-! ## The stop wave (R725 to R735) -/

/-- A block reaches its halt boundary (R728). -/
def blockHalt (s : State) (p : Page) : State :=
  if s.dbg.stopped ∧ rbit s p 0x010 3 ∧ stopped s p = false ∧ pagePresent s p then
    let s1 := sillage s p 0x02 false 0 0 (BitVec.ofNat 32 s.dbg.cause)
    putBit { s1 with dbg := { s1.dbg with haltAt := tabPut s1.dbg.haltAt (pageBase p) (eTime s) } } p 0x014 2 true
  else s

/-- Timers of a block that count towards a failure, moved by the time it was halted (R730). -/
def shiftTimers (s : State) (p : Page) (d : Nat) : State :=
  let o (x : Option Nat) : Option Nat := x.map (· + d)
  match p with
  | .seq t => modTile s t (fun x => { x with
      ctx := x.ctx.map (fun c => { c with wait := c.wait.map (fun w => { w with due := o w.due }) }) })
  | .mov t => modTile s t (fun x => { x with
      movReqs := x.movReqs.map (fun r => { r with till := o r.till }),
      srcResvs := x.srcResvs.map (fun r => { r with till := o r.till }) })
  | .cmb t => modTile s t (fun x => { x with
      stalled := x.stalled.map (fun e => (e.1, e.2 + d)),
      resvs := x.resvs.map (fun r => { r with due := r.due + d }),
      cqs := x.cqs.map (fun c => { c with res := c.res.map (fun r => { r with till := o r.till }) }) })
  | .til t => modTile s t (fun x => { x with
      reqAt := x.reqAt + min d (eTime s - x.reqAt),
      leaseReq := x.leaseReq.map (fun e => (e.1, (e.2.1, o e.2.2))) })
  | .llk n => modLink s n (fun l => { l with progressAt := l.progressAt + min d (eTime s - l.progressAt) })
  | .hif => { s with hif := { s.hif with accs := s.hif.accs.map (fun a => { a with till := a.till + d }) } }
  | _ => s

/-- What a released block does at once: packets go on, a held replay starts (R733). -/
def blockGo (s : State) (p : Page) : State :=
  match p with
  | .mov t => movPump s t
  | .cmb t => cmbPump s t
  | .llk n => if (getLink s n).resend then resendAll s n else s
  | _ => s

/-- A block is released (R733). -/
def blockRelease (s : State) (e : Nat × Nat) : State :=
  match pageAt e.1 with
  | none => s
  | some p =>
    let s1 := putBit (shiftTimers s p (eTime s - e.2)) p 0x014 2 false
    blockGo (sillage s1 p 0x03 false 0 0 (BitVec.ofNat 32 s.dbg.cause)) p

/-- RESUME, by a write or from a link (R733, R734). -/
def dbgResume (s : State) (from_ : Option Nat) : State :=
  if s.dbg.stopped = false then s
  else
    let s1 := { s with dbg := { s.dbg with stopped := false, haltAt := [], resumeAt := eTime s } }
    let s2 := s.dbg.haltAt.foldl blockRelease s1
    let s3 := if rbit s2 .dbgp 0x080 10 then emit s2 (.stopOut false) else s2
    isrBit (sendWave s3 from_ 2) .dbgp 1

/-! ## The freeze wave (R736 to R738) -/

/-- A ring entry on every page that follows the freeze wave. -/
def freezeNote (s : State) (code : Nat) : State :=
  (ctlPages s 2).foldl (fun s p => sillage s p code false 0 0 0) s

def dbgFreeze (s : State) (from_ : Option Nat) : State :=
  if s.dbg.frozen then s
  else isrBit (sendWave (freezeNote { s with dbg := { s.dbg with frozen := true } } 0x04) from_ 3) .dbgp 2

def dbgUnfreeze (s : State) (from_ : Option Nat) : State :=
  if s.dbg.frozen then sendWave (freezeNote { s with dbg := { s.dbg with frozen := false } } 0x05) from_ 4 else s

/-- A wave code arrives on a trained link with WFWD = 1 (R575, R573). -/
def waveTake (s : State) (n : Nat) (code : Nat) : State :=
  if linkUp s n && rbit s (.llk n) 0x080 2 then
    (match code with
     | 1 => stopTrigger s 7 (rawReg s (.llk n) 0x000) (some n)
     | 2 => dbgResume s (some n)
     | 3 => dbgFreeze s (some n)
     | 4 => dbgUnfreeze s (some n)
     | _ => s)
  else s

/-- DBG_PKG_CTL has been written with these bits: RESUME, STOP, FREEZE, UNFREEZE (R734, R738). -/
def pkgCtlWritten (s : State) (v : Word) : State :=
  let s1 := if fld v 1 1 = 1 then dbgResume s none else s
  let s2 := if fld v 0 0 = 1 then stopTrigger s1 1 0 none else s1
  let s3 := if fld v 2 2 = 1 then dbgFreeze s2 none else s2
  if fld v 3 3 = 1 then dbgUnfreeze s3 none else s3

/-! ## The sampler (R768) -/

/-- LAYER and OPER of the command that an engine executes. -/
def engTag (s : State) (t e : Nat) : Half × Half :=
  let x := getTile s t
  let of (q : Option QCmd) : Half × Half := (q.map (fun q => (cwLayer q.word, cwOper q.word))).getD (0, 0)
  if engState s t e = .idle then (0, 0)
  else match e with
    | 0 => x.seqTag
    | 1 => of ((x.cmpRun.map (·.cmd)).orElse (fun _ => x.cmpQ.head?))
    | 2 => of ((x.movCur.map (·.cmd)).orElse (fun _ => x.movOut.getLast?.map (·.cmd)))
    | _ => of ((x.cqs.findSome? (·.arm)).orElse (fun _ => x.cmbQ.head?))

/-- The eight bytes of an engine in a sample record (log 18). -/
def engBytes (s : State) (t e : Nat) : List Byte :=
  let g := engTag s t e
  let st : Nat × Nat := match engState s t e with
    | .idle => (0, 0)
    | .busy => (1, 0)
    | .stall r => (2, r)
  leBytes 2 st.1 ++ leBytes 2 st.2 ++ leBytes 2 g.1.toNat ++ leBytes 2 g.2.toNat

/-- A sample record is sent (R768). -/
def sampleSend (s : State) (t : Nat) : State :=
  let per := rfld s (.dbg t) 0x0A0 19 0
  if per = 0 ∨ enabled s (.dbg t) = false then s
  else
    let due := dueT (fullT s) (getTile s t).smpAt (usTicks per)
    let s1 := atT s due
    let seq := (getTile s1 t).smpSeq
    let s2 := modTile s1 t (fun x => { x with smpSeq := (seq + 1) % 65536, smpAt := some due })
    traceSend s2 t 0 0 (recHead s1 t seq 2 0 false ++ [0, 1, 2, 3].flatMap (engBytes s1 t) ++ leBytes 64 0)

end Sys2Proof.Machine
end

