-- ==== Sys2Proof/Machine/EdgeOps.lean ====
section
/-! DEFINITION. Requests at a memory edge and at an I/O die: partition, shared checks, and the reads and writes of HBM. -/

namespace Sys2Proof.Machine

/-- The answer at the first shared check of R825 that fails off the tiles. -/
def edgeCheck (s : State) (p : Place) (q : Packet) : Option Packet :=
  if edgeAllows s p q then reqCheck q.dst q else some (refusePkt q.dst q nkPART)

/-- A request off the tiles is refused, or served after it has left its port. -/
def serveEdge (s : State) (p : Place) (q : Packet) (act : State → State) : State :=
  match edgeCheck s p q with
  | some a => if unanswered q then popReq s p else answerAt (popReq s p) p a
  | none => act (popReq s p)

/-- Why a memory edge refuses a memory-data request of its own (R603, R355); 0 for none. -/
def memBad (s : State) (x e : Nat) (q : Packet) : Nat :=
  let a := q.addr.toNat
  let c := chanOf s.fuses.asm a
  if s.fuses.asm.hole ≤ a then nkHOLE
  else if c.1 ≠ x ∨ c.2.1 ≠ e ∨ 2048 < a % 2048 + reqBytes q then nkMALFORMED
  else if rbit s (.mem x e) 0x014 6 then nkRETIRED
  else if enabled s (.mem x e) = false then nkOFF
  else 0

/-- A memory-data request at an edge, after the shared checks. -/
def memServe (s : State) (x e : Nat) (q : Packet) (act : State → State) : State :=
  serveEdge s (.mem x e) q (fun s0 =>
    let bad := memBad s x e q
    let answer (s : State) (a : Packet) : State := if unanswered q then s else answerAt s (.mem x e) a
    if bad = 0 then act s0
    else if bad = nkMALFORMED then
      answer (captureOpen false s0 (.mem x e) 0x12 q.tag q.layer q.oper none 0) (nakPkt q.dst q nkMALFORMED)
    else answer s0 (refusePkt q.dst q bad))

/-- An uncorrectable unit on a read or a scrub: counted, captured with its fabric address, counted in the PC bucket
(R598, R703). -/
def memUE (s : State) (x e u : Nat) (tag layer oper : Half) : State :=
  let p := Page.mem x e
  let a := u * 32
  let s1 := if rbit s p 0x030 31 then s
    else putReg (putReg s p 0x08C (BitVec.ofNat 32 a)) p 0x090 (BitVec.ofNat 32 (a / 2 ^ 32))
  bucketErr (uncorrected s1 p 0x10 tag layer oper (isrMask 0)) 2 (edgeKey x e)

/-- One unit is read: corrected errors are counted; an error that the second read passes counts as one corrected error
(R597, R703). -/
def memReadUnit (x e : Nat) (q : Packet) (s : State) (u : Nat) : State :=
  match unitErr s u with
  | none => s
  | some f =>
    if f.ue = false then corrected s (.mem x e) 1
    else if f.once then corrected (clearUnit s u) (.mem x e) 1
    else memUE s x e u q.tag q.layer q.oper

/-- A command/address parity error persists after its retry (Table 14.1). -/
def parHit (flt : List UFault) : Bool := flt.any (fun f => f.par && !f.once)

/-- What it counts and captures: an uncorrected error with code CAPAR, in the PC bucket (Tables 14.1, 17.1, R628). -/
def memPar (s : State) (x e : Nat) (tag layer oper : Half) : State :=
  bucketErr (uncorrected s (.mem x e) 0x11 tag layer oper (isrMask 0)) 2 (edgeKey x e)

/-- An RD of HBM (R596 to R598, R703); after a parity error that persists every flit of the answer is poisoned (log 26). -/
def memRead (s : State) (x e : Nat) (q : Packet) (par : Bool) : State :=
  let a := q.addr.toNat
  let n := reqBytes q
  if par then
    let p := loadPayload s { response q.dst q opRDRSP with addr := q.addr } a n
    answerAt (memPar s x e q.tag q.layer q.oper) (.mem x e) { p with data := p.data.map (fun f => { f with poi := true }) }
  else
    let s1 := (unitsOf a n).foldl (memReadUnit x e q) s
    answerAt s1 (.mem x e) (loadPayload s1 { response q.dst q opRDRSP with addr := q.addr } a n)

/-- The part of n bytes from key a that lies in unit u: key and bytes. -/
def unitPart (a : Nat) (bs : List Byte) (u : Nat) : Nat × List Byte :=
  let lo := max a (u * 32)
  let hi := min (a + bs.length) (u * 32 + 32)
  (lo, (bs.drop (lo - a)).take (hi - lo))

/-- Bytes written to HBM unit by unit: a part of an uncorrectable unit is not written; whether that happened (R599). -/
def memWrite (s : State) (a : Nat) (bs : List Byte) : Bool × State :=
  (unitsOf a bs.length).foldl (fun r u =>
    let w := unitPart a bs u
    if w.2.length < 32 ∧ (unitErr r.2 u).any (·.ue) then (true, r.2) else (r.1, memStore r.2 w.1 w.2)) (false, s)

/-- A WR, WRA or TRACE at HBM (R599, R766); after a parity error that persists nothing is written (log 26). -/
def memWriteReq (s : State) (x e : Nat) (q : Packet) (par : Bool) : State :=
  let (bad, s1) := if par then (true, memPar s x e q.tag q.layer q.oper) else memWrite s q.addr.toNat (payload q)
  if unanswered q then s1
  else if bad then answerAt s1 (.mem x e) (wfnPkt q.dst q rsPOISON)
  else if q.opc = opWRA then answerAt s1 (.mem x e) { response q.dst q opWRACK with aux := 1 }
  else ackAt s1 (.mem x e) q

/-- The first memory-data request of an opcode at an edge that runs (R728). -/
def memReq (s : State) (x e : Nat) (op : BitVec 8) : Option Packet :=
  (reqHead s (.mem x e) op).filter (fun q => edgePop s x e && (epKind q.dst == .reg || !stopped s (.mem x e)))

end Sys2Proof.Machine
end

