-- ==== Sys2Proof/Machine/DmaOps.lean ====
section
/-! DEFINITION. The memory accesses of Ethernet ports and Glaziers: the packets they are cut into, the checks that each
target makes, and their data. An access takes place within the command that makes it (log 15). -/

namespace Sys2Proof.Machine

/-- A TNODE that names a tile TM of the own package (R635). -/
def tnodeTile (s : State) (n : Word) : Bool :=
  nodeKind n == 0 && nodeEp n == 0 && nodePkg n == ownPkg s && !nodeBad s n

/-- A TNODE that R635 allows: 0 for HBM, or a tile TM. -/
def tnodeOk (s : State) (n : Word) : Bool := n == 0 || tnodeTile s n

/-- Whether n bytes from an address lie in the region of a TNODE (Table 6.8). -/
def inRegion (s : State) (tn : Word) (a n : Nat) : Bool :=
  if tn = 0 then a + n ≤ s.fuses.asm.hole else a + n ≤ 0x30000

/-- Who makes an access: I/O die, SPART, TC, LAYER and OPER of its packets (R636, R662). -/
structure DmaBy where
  die : Nat
  spart : Nat
  tc : Nat := 0
  layer : Half := 0
  oper : Half := 0
  deriving DecidableEq, Repr

/-- The request for one part of an access; its SRC is the I/O edge node at which R616 has it injected (R636, R662). -/
def dmaReq (s : State) (by_ : DmaBy) (tn : Word) (op : BitVec 8) (a n : Nat) (bs : List Byte) : Packet :=
  let q : Packet := { dst := if tn = 0 then memNodeOf s (ownPkg s) a else tn, opc := op, addr := BitVec.ofNat 48 a,
                      aux := BitVec.ofNat 32 (if op = opRD then n else 0), spart := BitVec.ofNat 4 by_.spart,
                      tc := BitVec.ofNat 3 by_.tc, layer := by_.layer, oper := by_.oper }
  let q := { q with src := ioNode s (dieRow q) by_.die 0 }
  reHcrc (if bs = [] then q else withPayload q bs)

/-- An access reaches its target: the router of a tile counts and logs a request that its partition refuses (R358), and
a stalled message at the L port ends first (R411). -/
def dmaPort (s : State) (q : Packet) : State :=
  let t := nodeTile q.dst
  if nodeKind q.dst ≠ 0 then s
  else if partOk s t q = false then rtrEvent s t 0x0C4 15 0 2 0x12 0x52 q
  else if isolated s t then s
  else stallOver s t

/-- The REASON under which the target refuses a request; 0 for none (R333, R357, R383, R603, R825). -/
def dmaBad (s : State) (q : Packet) : Nat :=
  let why (a : Option Packet) : Nat := (a.map (fun a => fld a.aux 7 0)).getD 0
  if nodeKind q.dst = 0 then
    let t := nodeTile q.dst
    if partOk s t q = false then nkPART
    else if isolated s t then rsDEAD
    else why (tileCheck s t q)
  else
    let x := nodeX q.dst
    let e := nodeY q.dst
    let r := why (edgeCheck s (.mem x e) q)
    if r ≠ 0 then r else memBad s x e q

/-- One read: REASON (0 none), bytes, state. -/
def dmaReadOne (s0 : State) (q : Packet) : Nat × List Byte × State :=
  let s := dmaPort s0 q
  let a := q.addr.toNat
  let n := reqBytes q
  let bad := dmaBad s q
  if bad ≠ 0 then (bad, [], s)
  else if nodeKind q.dst = 0 then
    let k := tmKey (nodeTile q.dst) a
    let (ue, s1) := tileRead s (nodeTile q.dst) k n (q.layer, q.oper)
    (if ue then rsPOISON else 0, readMem s k n, s1)
  else
    let s1 := (unitsOf a n).foldl (memReadUnit (nodeX q.dst) (nodeY q.dst) q) s
    (if anyUE s1 a n then rsPOISON else 0, readMem s a n, s1)

/-- One write: REASON (0 none), state. -/
def dmaWriteOne (s0 : State) (q : Packet) : Nat × State :=
  let s := dmaPort s0 q
  let a := q.addr.toNat
  let bad := dmaBad s q
  if bad ≠ 0 then (bad, s)
  else if nodeKind q.dst = 0 then (0, memStore s (tmKey (nodeTile q.dst) a) (payload q))
  else
    let (ue, s1) := memWrite s a (payload q)
    (if ue then rsPOISON else 0, s1)

/-- n bytes read at an address of a TNODE: the first REASON met, the bytes, the state. -/
def dmaRead (s : State) (by_ : DmaBy) (tn : Word) (a n : Nat) : Nat × List Byte × State :=
  (spansOf a n).foldl (fun r x =>
    let y := dmaReadOne r.2.2 (dmaReq r.2.2 by_ tn opRD x.1 x.2 [])
    (if r.1 = 0 then y.1 else r.1, r.2.1 ++ y.2.1, y.2.2)) (0, [], s)

/-- Bytes written at an address of a TNODE: the first REASON met, the state. -/
def dmaWrite (s : State) (by_ : DmaBy) (tn : Word) (a : Nat) (bs : List Byte) : Nat × State :=
  (spansOf a bs.length).foldl (fun r x =>
    let y := dmaWriteOne r.2 (dmaReq r.2 by_ tn opWR x.1 x.2 ((bs.drop (x.1 - a)).take x.2))
    (if r.1 = 0 then y.1 else r.1, y.2)) (0, s)

/-- A little-endian field of a record. -/
def byteField (r : List Byte) (o n : Nat) : Nat := leNat ((r.drop o).take n)
def wordAt (r : List Byte) (o : Nat) : Word := BitVec.ofNat 32 (byteField r o 4)

end Sys2Proof.Machine
end

