-- ==== Sys2Proof/Machine/EthOps.lean ====
section
/-! DEFINITION. Ethernet ports: descriptor rings, received frames, transmit frames, priority flow control, timestamps. -/

namespace Sys2Proof.Machine

/-! ## Rings (R634 to R641) -/

/-- Offset of the registers of ring r. -/
def ringOff (tx : Bool) (r : Nat) : Nat := (if tx then 0x800 else 0x400) + 0x10 * r
def ringBase (s : State) (n : Nat) (tx : Bool) (r : Nat) : Nat :=
  (rawReg s (.eth n) (ringOff tx r)).toNat + rfld s (.eth n) (ringOff tx r + 4) 15 0 * 2 ^ 32
def ringEn (s : State) (n : Nat) (tx : Bool) (r : Nat) : Bool := rbit s (.eth n) (ringOff tx r + 4) 16
def ringIrq (s : State) (n : Nat) (tx : Bool) (r : Nat) : Bool := rbit s (.eth n) (ringOff tx r + 4) 17
def ringHalt (s : State) (n : Nat) (tx : Bool) (r : Nat) : Bool := rbit s (.eth n) (ringOff tx r + 4) 18
def ringHead (s : State) (n : Nat) (tx : Bool) (r : Nat) : Nat := rfld s (.eth n) (ringOff tx r + 8) 15 0
def ringSize (s : State) (n : Nat) (tx : Bool) (r : Nat) : Nat := rfld s (.eth n) (ringOff tx r + 8) 31 16
def ringTail (s : State) (n : Nat) (tx : Bool) (r : Nat) : Nat := rfld s (.eth n) (ringOff tx r + 0xC) 15 0

/-- Descriptors from index i up to TAIL. -/
def ringLeft (size i tail : Nat) : Nat := (tail + size - i) % size

/-- A new TAIL is accepted (R638): it takes no more descriptors than software owns. -/
def tailOk (size head old new : Nat) : Bool :=
  new < size && ringLeft size old new ≤ size - 1 - ringLeft size head old

/-- The port of a page runs: fitted, enabled, not halted, not retired, its link up (R728, R824, Table 17.3). -/
def ethLive (s : State) (n : Nat) : Bool :=
  dieFitted s (n / 2) && !stopped s (.eth n) && rbit s (.eth n) 0x0A0 0

/-- The packets of a port (R636). -/
def ethBy (s : State) (n : Nat) : DmaBy := { die := n / 2, spart := rfld s (.eth n) 0x080 11 8 }

/-- Descriptor i of a ring: REASON (0 none), its bytes, state. -/
def descRead (s : State) (n : Nat) (tx : Bool) (r i : Nat) : Nat × List Byte × State :=
  dmaRead s (ethBy s n) 0 (ringBase s n tx r + 32 * i) 32

/-- Bytes of descriptor i written back. -/
def descWrite (s : State) (n : Nat) (tx : Bool) (r i o : Nat) (bs : List Byte) : Nat × State :=
  dmaWrite s (ethBy s n) 0 (ringBase s n tx r + 32 * i + o) bs

/-- Fields common to both descriptors: ADDR, TNODE, BLEN. -/
def descAddr (d : List Byte) : Nat := byteField d 0 6
def descNode (d : List Byte) : Word := wordAt d 8
def descLen (d : List Byte) : Nat := byteField d 12 2

/-- An error of a ring: its interrupt bit, and its capture with the ring number (R657). -/
def ethErr (s : State) (n isr code r : Nat) (cls : Option Nat) : State :=
  capture s (.eth n) code 0 0 0 (BitVec.ofNat 32 r) cls (isrMask isr)

/-- HALT of a ring is set. -/
def ringStop (s : State) (n : Nat) (tx : Bool) (r : Nat) : State := putBit s (.eth n) (ringOff tx r + 4) 18 true

/-- Bit r of a pair of done registers is set, with the interrupt when it goes from 0 to 1 (R657). -/
def doneSet (s : State) (n off isr r : Nat) : State :=
  let o := off + 4 * (r / 32)
  if rbit s (.eth n) o (r % 32) then s else isrBit (putBit s (.eth n) o (r % 32) true) (.eth n) isr

/-! ## Timestamps (R486, R653 to R655) -/

/-- Seconds and nanoseconds of an instant of T (R486). -/
def ptpOf (s : State) (t : Int) : Nat × Nat :=
  (s.tkp.epoch + (t / 1024000000000).toNat, ((t % 1024000000000) / 1024).toNat)

/-- The instant of a frame at the balls: T with the fused correction (R653). -/
def stampT (s : State) (n : Nat) (tx : Bool) : Int :=
  let c := if tx then rfld s (.eth n) 0x094 31 16 else rfld s (.eth n) 0x094 15 0
  fullT s + sgn 16 c

/-- The TS field (R654). -/
def stampField (s : State) (n : Nat) (t : Int) : Nat :=
  if rbit s (.eth n) 0x080 7 then (t % 2 ^ 64).toNat
  else
    let (sec, ns) := ptpOf s t
    sec % 2 ^ 34 * 2 ^ 30 + ns

/-! ## Frames (Table 15.1, Table 15.2, R485, R633) -/

/-- A big-endian field of a frame. -/
def netField (f : List Byte) (o n : Nat) : Nat := leNat ((f.drop o).take n).reverse

/-- Whether a frame carries a C-tag, its TCI, and where its EtherType lies. -/
def tagged (f : List Byte) : Bool := netField f 12 2 == 0x8100
def tciOf (f : List Byte) : Nat := netField f 14 2
def typeAt (f : List Byte) : Nat := if tagged f then 16 else 12

/-- Destination address as a number, its first byte least significant (log 16). -/
def dstMac (f : List Byte) : Nat := byteField f 0 6

/-- The frame is accepted (R633). -/
def macOk (s : State) (n : Nat) (f : List Byte) : Bool :=
  rbit s (.eth n) 0x080 12 || dstMac f == (rawReg s (.eth n) 0x0A4).toNat + rfld s (.eth n) 0x0A8 15 0 * 2 ^ 32
    || dstMac f == 2 ^ 48 - 1 || (rbit s (.eth n) 0x080 13 && dstMac f % 2 == 1)

/-- A PTP event message (R485): EtherType 0x88F7 with an event type, or UDP port 319 on IPv4 or IPv6. -/
def ptpEvent (f : List Byte) : Bool :=
  let o := typeAt f
  let ty := netField f o 2
  let ip := o + 2
  if ty = 0x88F7 then netField f ip 1 % 16 < 4
  else if ty = 0x0800 then netField f (ip + 9) 1 == 17 && netField f (ip + 4 * (netField f ip 1 % 16) + 2) 2 == 319
  else if ty = 0x86DD then netField f (ip + 6) 1 == 17 && netField f (ip + 42) 2 == 319
  else false

/-- PCP of a frame, or the default priority. -/
def pcpOf (s : State) (n : Nat) (f : List Byte) : Nat := if tagged f then tciOf f / 8192 else rfld s (.eth n) 0x080 6 4

/-- The receive ring of a frame (Table 15.2). -/
def steer (s : State) (n : Nat) (f : List Byte) : Nat :=
  let p := pcpOf s n f
  if rbit s (.eth n) 0x090 8 && ptpEvent f then rfld s (.eth n) 0x090 5 0
  else if rbit s (.eth n) 0x080 3 then (if tagged f then tciOf f % 64 else 0)
  else rfld s (.eth n) (0x088 + 4 * (p / 4)) (8 * (p % 4) + 5) (8 * (p % 4))

/-- The meter of a frame (Table 12.8). -/
def ethMeter (s : State) (n : Nat) (f : List Byte) (ring : Nat) : Nat :=
  match gReg s (.eth n) 0x184 1 0 with
  | 0 => pcpOf s n f
  | 1 => if tagged f then tciOf f % 256 else 0
  | _ => ring

/-- The input colour of a frame (R537). -/
def ethColor (s : State) (n : Nat) (f : List Byte) : Nat :=
  let i := pcpOf s n f * 2 + (if tagged f then tciOf f / 4096 % 2 else 0)
  rfld s (.eth n) 0xD88 (2 * i + 1) (2 * i)

/-! ## Receive (R642 to R648, Table 15.3) -/

/-- Why a claim rewinds. -/
inductive RxBad where
  | noBuf | dma | desc
  deriving DecidableEq, Repr

/-- A receive descriptor error (R650). -/
def rxDescBad (s : State) (d : List Byte) : Bool :=
  descLen d == 0 || !tnodeOk s (descNode d) || byteField d 6 2 != 0 || byteField d 14 2 != 0

/-- Descriptor i is claimed and its buffer written with the bytes that fit: the failure, BLEN, the state. -/
def rxClaim (s : State) (n r : Nat) (bs : List Byte) (i : Nat) : Option RxBad × Nat × State :=
  if ringLeft (ringSize s n false r) i (ringTail s n false r) = 0 then (some .noBuf, 0, s)
  else
    let x := descRead s n false r i
    if x.1 ≠ 0 then (some .dma, 0, x.2.2)
    else if rxDescBad x.2.2 x.2.1 then (some .desc, 0, x.2.2)
    else
      let len := descLen x.2.1
      let y := dmaWrite x.2.2 (ethBy s n) (descNode x.2.1) (descAddr x.2.1) (bs.take len)
      (if y.1 ≠ 0 then some .dma else none, len, y.2)

/-- The buffers of a frame are claimed and written: the failure, the bytes in each claimed buffer, the state. -/
def rxFill (n r : Nat) : Nat → State → List Byte → Nat → Option RxBad × List Nat × State
  | 0, s, bs, _ => (if bs = [] then none else some .noBuf, [], s)
  | k + 1, s, bs, i =>
    if bs = [] then (none, [], s)
    else
      let x := rxClaim s n r bs i
      if x.1.isSome then (x.1, [], x.2.2)
      else
        let y := rxFill n r k x.2.2 (bs.drop x.2.1) ((i + 1) % ringSize s n false r)
        (y.1, min x.2.1 bs.length :: y.2.1, y.2.2)

/-- What a received frame leaves in its last descriptor. -/
structure RxMeta where
  color : Nat
  tci : Option Nat
  flen : Nat
  ts : Option Nat
  deriving DecidableEq, Repr

/-- The claimed descriptors are written back (Table 15.4): the first REASON met and the state. -/
def rxBack (s : State) (n r : Nat) (m : RxMeta) (lens : List Nat) : Nat × State :=
  let last := lens.length - 1
  let size := ringSize s n false r
  let head := ringHead s n false r
  let one (a : Nat × State) (x : Nat × Nat) : Nat × State :=
    let (i, len) := x
    let at_ := (head + i) % size
    let eof := i == last
    let flags := 1 + (if i = 0 then 2 else 0) + m.color * 32 +
      (if eof then 4 + (if m.tci.isSome then 8 else 0) + (if m.ts.isSome then 16 else 0) else 0)
    let w (a : Nat × State) (o : Nat) (bs : List Byte) : Nat × State :=
      let b := descWrite a.2 n false r at_ o bs
      (if a.1 = 0 then b.1 else a.1, b.2)
    let a1 := w a 16 (leBytes 2 len ++ leBytes 1 flags ++ [0])
    if eof then
      let a2 := (m.tci.map (fun t => w a1 20 (leBytes 2 t))).getD a1
      let a3 := w a2 22 (leBytes 2 m.flen)
      (m.ts.map (fun t => w a3 24 (leBytes 8 t))).getD a3
    else a1
  (lens.mapIdx (fun i l => (i, l))).foldl one (0, s)

/-- A claim rewinds (Table 15.3). -/
def rxRewind (s : State) (n r : Nat) (b : RxBad) : State :=
  match b with
  | .noBuf =>
    let s1 := addFld s (.eth n) (ringOff false r + 0xC) 31 16 1
    isrBit (putBit s1 (.eth n) (0x0C8 + 4 * (r / 32)) (r % 32) true) (.eth n) 0
  | .dma => ethErr s n 1 0x12 r (some 1)
  | .desc => ethErr (ringStop s n false r) n 1 0x10 r none

/-- A frame commits (R645). -/
def rxCommit (s : State) (n r : Nat) (m : RxMeta) (lens : List Nat) : State :=
  let (e, s1) := rxBack s n r m lens
  if e ≠ 0 then rxRewind s1 n r .dma
  else
    let head := (ringHead s1 n false r + lens.length) % ringSize s1 n false r
    let s2 := workCount (putFld s1 (.eth n) (ringOff false r + 8) 15 0 head) (.eth n) 0x0B0 31 0 1
    if ringIrq s2 n false r then doneSet s2 n 0x0D0 4 r else s2

/-- Whether an error count of ETH_ERRCNT0, ETH_ERRCNT1 or ETH_ERRCNT2 gains one: low or high half. -/
def ethCount (s : State) (n off : Nat) (high : Bool) : State :=
  if high then addFld s (.eth n) off 31 16 1 else addFld s (.eth n) off 15 0 1

/-- A frame that has reached its ring: claims, end of frame, commit or rewind. -/
def rxRing (s : State) (n r : Nat) (f : List Byte) (fcsOk : Bool) (room : Bool) : State :=
  if ringEn s n false r = false ∨ ringHalt s n false r then ethCount s n 0x0BC true
  else if room = false then isrBit (ethCount s n 0x0BC false) (.eth n) 1
  else
    let maxf := rfld s (.eth n) 0x084 13 0
    let long := maxf < f.length + 4
    let strip := rbit s (.eth n) 0x080 2 && tagged f
    let kept := f.take maxf
    let bs := if strip then kept.take 12 ++ kept.drop 16 else kept
    let (bad, lens, s1) := rxFill n r (ringSize s n false r) s bs (ringHead s n false r)
    match bad with
    | some b => rxRewind s1 n r b
    | none =>
      if long then ethCount s1 n 0x0B8 true
      else if fcsOk = false then ethCount s1 n 0x0B8 false
      else
        let len := f.length + 4 + shpOvh s (.eth n)
        let i := ethMeter s n f r
        let (col, s2) := meterPass s1 (.eth n) i len (ethColor s n f) false
        if col = 2 ∧ (getMtr s1 (.eth n) i).mode ≠ 0 then s2
        else
          let stamp := ptpEvent f || rbit s (.eth n) 0x090 9
          let m : RxMeta := {
            color := col, tci := if strip then some (tciOf f) else none, flen := bs.length,
            ts := if stamp then some (stampField s n (stampT s n false)) else none }
          rxCommit s2 n r m lens

/-- The port's own PFC frames follow the bytes of each priority in the FIFO (R649). -/
def pfcWatch (s : State) (n : Nat) (backlog : List Nat) : State :=
  let xoff := rfld s (.eth n) 0x098 15 8 * 1024
  (List.range 8).foldl (fun s p =>
    let b := (backlog[p]?).getD 0
    let on := (getEth s n).pausing.any (fun e => e.1 == p)
    if !on && rbit s (.eth n) 0x098 p && decide (xoff < b) then
      emit (modEth s n (fun e => { e with pausing := tabPut e.pausing p (eTime s, rfld s (.eth n) 0x098 31 16) }))
        (.pfc n p (rfld s (.eth n) 0x098 31 16))
    else if on && decide (b < xoff / 2) then
      emit (modEth s n (fun e => { e with pausing := tabDel e.pausing p })) (.pfc n p 0)
    else s) s

/-! ## Priority flow control (R649) -/

/-- Ticks of a pause time: quanta of 512 bit times at 400 Gb/s, rounded up. -/
def quantaTicks (q : Nat) : Nat := (q * 131072 + 99) / 100

/-- A PFC frame arrives. -/
def pfcTake (s : State) (n : Nat) (quanta : List (Option Nat)) : State :=
  if ethLive s n = false ∨ rbit s (.eth n) 0x080 0 = false then s
  else (List.range 8).foldl (fun s p =>
    match (quanta[p]?).getD none with
    | none => s
    | some q =>
      let s1 := modEth s n (fun e => { e with pauseTill := tabPut e.pauseTill p (eTime s + quantaTicks q) })
      putBit s1 (.eth n) 0x09C p (q != 0)) s

/-- The pause times of a received PFC frame (IEEE 802.1Qbb): opcode 0x0101, the priorities whose time counts, eight times
in quanta. -/
def pfcTimes (f : List Byte) : List (Option Nat) :=
  (List.range 8).map (fun p => if netField f 16 2 / 2 ^ p % 2 = 1 then some (netField f (18 + 2 * p) 2) else none)

/-- A frame arrives (R632, R633, R642). Bytes run from the destination address to the last before the FCS. -/
def ethRx (s : State) (n : Nat) (f : List Byte) (fcsOk : Bool) (backlog : List Nat) : State :=
  if rbit s (.eth n) 0x080 0 = false ∨ dieFitted s (n / 2) = false ∨ stopped s (.eth n) then s
  else if enabled s (.eth n) = false ∨ rbit s (.eth n) 0x014 6 then ethCount s n 0x0BC true
  else if ethLive s n = false then s
  else
    let s1 := pfcWatch s n backlog
    if netField f 12 2 = 0x8808 ∧ netField f 14 2 = 1 then ethCount s1 n 0x0C0 false
    else if netField f 12 2 = 0x8808 ∧ netField f 14 2 = 0x0101 then (if fcsOk then pfcTake s1 n (pfcTimes f) else s1)
    else if macOk s1 n f = false then ethCount s1 n 0x0C0 false
    else rxRing s1 n (steer s1 n f) f fcsOk (backlog.sum + f.length ≤ 262144)

/-! ## Pauses (R649) -/

/-- The port repeats its PFC frame (R649). -/
def pfcRepeat (s : State) (n p : Nat) : State :=
  match (getEth s n).pausing.find? (fun e => e.1 == p) with
  | none => s
  | some e =>
    let q := rfld s (.eth n) 0x098 31 16
    let s1 := atLeast s (e.2.1 + quantaTicks e.2.2 / 2)
    emit (modEth s1 n (fun x => { x with pausing := tabPut x.pausing p (eTime s1, q) })) (.pfc n p q)

/-- A pause runs out (R649). -/
def pauseEnd (s : State) (n p : Nat) : State :=
  if rbit s (.eth n) 0x09C p then putBit (atLeast s (tabGet 0 (getEth s n).pauseTill p)) (.eth n) 0x09C p false else s

/-! ## Transmit (R651, R652, Table 15.5, Table 15.6) -/

/-- A transmit descriptor error (R650). -/
def txDescBad (s : State) (d : List Byte) : Bool :=
  descLen d == 0 || !tnodeOk s (descNode d) || byteField d 14 1 / 16 != 0

/-- The descriptors of the next frame, up to the one with EOF: none when it does not lie before TAIL; with the first
REASON met in reading them. -/
def txDescs (n r : Nat) : Nat → State → Nat → Option (Nat × List (List Byte) × State)
  | 0, _, _ => none
  | k + 1, s, i =>
    if ringLeft (ringSize s n true r) i (ringTail s n true r) = 0 then none
    else
      let x := descRead s n true r i
      if byteField x.2.1 14 1 % 2 = 1 ∨ x.1 ≠ 0 then some (x.1, [x.2.1], x.2.2)
      else (txDescs n r k x.2.2 ((i + 1) % ringSize s n true r)).map (fun y => (y.1, x.2.1 :: y.2.1, y.2.2))

/-- The buffers of a frame: the first REASON met, the bytes, the state. -/
def txGather (s : State) (n : Nat) (ds : List (List Byte)) : Nat × List Byte × State :=
  ds.foldl (fun a d =>
    let x := dmaRead a.2.2 (ethBy s n) (descNode d) (descAddr d) (descLen d)
    (if a.1 = 0 then x.1 else a.1, a.2.1 ++ x.2.1, x.2.2)) (0, [], s)

/-- Bytes of a frame padded to 60. -/
def padFrame (f : List Byte) : List Byte := f ++ List.replicate (60 - f.length) 0

/-- The frame that a ring's descriptors describe, with its STATUS; per-frame fields come from its first descriptor. -/
def txBuild (s : State) (n r : Nat) (e : Nat) (ds : List (List Byte)) : TxFrm × State :=
  let d := (ds.head?).getD []
  let fl := byteField d 14 1
  let vins := fl / 2 % 2 == 1
  let one := fl / 8 % 2 == 1
  let tsoff := byteField d 18 2
  let ckoff := byteField d 20 2
  let base : TxFrm := { ring := r, descs := ds.length, bytes := [], status := 0, tsreq := fl / 4 % 2 == 1,
                        onestep := one, tsoff := tsoff, ckoff := ckoff }
  let total := (ds.map descLen).sum + (if vins then 4 else 0)
  if e ≠ 0 then ({ base with status := 2 }, s)
  else if ds.any (txDescBad s) then ({ base with status := 1, halt := true }, s)
  else if rfld s (.eth n) 0x084 13 0 < max 60 total + 4 then ({ base with status := 3 }, s)
  else
    let (bad, bs, s1) := txGather s n ds
    let tag : List Byte := [0x81, 0x00, BitVec.ofNat 8 (byteField d 17 1), BitVec.ofNat 8 (byteField d 16 1)]
    let f := padFrame (if vins then bs.take 12 ++ tag ++ bs.drop 12 else bs)
    if bad ≠ 0 then ({ base with status := if bad = rsPOISON then 4 else 2 }, s1)
    else if one && (f.length < tsoff + 10 || (ckoff != 0 && f.length < ckoff + 2)) then ({ base with status := 1 }, s1)
    else ({ base with bytes := f }, s1)

/-- Frames of a ring in the transmit buffer. -/
def txOf (s : State) (n r : Nat) : List TxFrm := (getEth s n).tx.filter (fun f => f.ring == r)

/-- The head of each class that holds a frame: its class and frame. -/
def ethWaiting (s : State) (n : Nat) : List (Nat × TxFrm) :=
  (List.range 8).filterMap (fun k => ((getEth s n).tx.find? (fun f =>
    !f.started && f.status == 0 && rfld s (.eth n) (ringOff true f.ring + 4) 22 20 == k)).map (fun f => (k, f)))

/-- The heads that no pause holds (R649). -/
def ethHeads (s : State) (n : Nat) : List (Nat × TxFrm) :=
  (ethWaiting s n).filter (fun h => !rbit s (.eth n) 0x09C h.1)

/-- Counted length of a transmit frame (Table 12.7). -/
def ethLen (s : State) (n : Nat) (f : TxFrm) : Nat := f.bytes.length + 4 + shpOvh s (.eth n)
def ethLens (s : State) (n : Nat) (hs : List (Nat × TxFrm)) : List (Nat × Nat) := hs.map (fun h => (h.1, ethLen s n h.2))

/-- F of the heads of a port follows what its classes hold (R530, R531). -/
def ethFix (s : State) (n : Nat) : State := schFix s (.eth n) (ethLens s n (ethWaiting s n))

/-- The same for a place. -/
def egFix (s : State) : GPlace → State
  | .llk n => llkFix s n
  | .eth n => ethFix s n
  | .mov _ => s

/-- The next frame of a ring is read into the transmit buffer (R651). -/
def txFetch (s : State) (n r : Nat) : State :=
  if dieFitted s (n / 2) = false ∨ stopped s (.eth n) ∨ enabled s (.eth n) = false ∨ rbit s (.eth n) 0x014 6
      ∨ rbit s (.eth n) 0x080 1 = false ∨ ringEn s n true r = false ∨ ringHalt s n true r
      ∨ (txOf s n r).any (·.halt) then s
  else
    let i := (ringHead s n true r + ((txOf s n r).map (·.descs)).sum) % ringSize s n true r
    match txDescs n r (ringSize s n true r) s i with
    | none => s
    | some (e, ds, s1) =>
      let (f, s2) := txBuild s1 n r e ds
      if 65536 < ((getEth s n).tx.map (fun f => f.bytes.length)).sum + f.bytes.length then s
      else ethFix (modEth s2 n (fun x => { x with tx := x.tx ++ [f] })) n

/-- Sum of 16-bit ones' complement words that bytes at an offset contribute, by the parity of their place. -/
def onesSum (odd : Bool) (bs : List Byte) : Nat :=
  (bs.mapIdx (fun i b => if (i % 2 == 0) != odd then b.toNat * 256 else b.toNat)).sum

/-- A checksum corrected for a change of bytes. -/
def fixSum (old : Nat) (odd : Bool) (was now : List Byte) : Nat :=
  let n := (65535 - old) + (65535 * (was.length + 1) - onesSum odd was) + onesSum odd now
  65535 - n % 65535

/-- Bytes put into a frame at an offset. -/
def putAt (f : List Byte) (o : Nat) (bs : List Byte) : List Byte := f.take o ++ bs ++ f.drop (o + bs.length)

/-- One-step insertion (R656). -/
def oneStep (s : State) (f : TxFrm) (t : Int) : List Byte :=
  let (sec, ns) := ptpOf s t
  let ts := beBytes 6 sec ++ beBytes 4 ns
  let was := (f.bytes.drop f.tsoff).take 10
  let b := putAt f.bytes f.tsoff ts
  if f.ckoff = 0 then b
  else putAt b f.ckoff (beBytes 2 (fixSum (netField f.bytes f.ckoff 2) ((f.tsoff + f.ckoff) % 2 == 1) was ts))

/-- At a port the chosen class starts its frame. -/
def ethStart (s : State) (n : Nat) : State :=
  if ethLive s n = false ∨ enabled s (.eth n) = false ∨ rbit s (.eth n) 0x080 1 = false then s
  else
    let s1 := gDue s (.eth n)
    let hs := ethHeads s1 n
    match egPick s1 (.eth n) (ethLens s1 n hs) with
    | none => s1
    | some (k, len) =>
      match hs.find? (fun h => h.1 == k) with
      | none => s1
      | some (_, f) =>
        let s2 := egStart s1 (.eth n) k len
        let t := stampT s2 n true
        let b := if f.onestep then oneStep s2 f t else f.bytes
        let g : TxFrm := { f with started := true, bytes := b, ts := stampField s2 n t }
        let s3 := modEth s2 n (fun x => { x with tx := modFirst (· == f) (fun _ => g) x.tx })
        emit (ethFix s3 n) (.frame n (b ++ leBytes 4 (crc32 b)))

/-- The descriptors of a frame are written back (Table 15.5). -/
def txBack (s : State) (n r : Nat) (f : TxFrm) : Nat × State :=
  let size := ringSize s n true r
  let head := ringHead s n true r
  let flags := 1 + (if f.status = 0 then 0 else 128)
  (List.range f.descs).foldl (fun a i =>
    let at_ := (head + i) % size
    let b := descWrite a.2 n true r at_ 22 (leBytes 1 flags ++ leBytes 1 f.status)
    let e := if a.1 = 0 then b.1 else a.1
    if i + 1 = f.descs ∧ f.tsreq ∧ f.started then
      let c := descWrite b.2 n true r at_ 24 (leBytes 8 f.ts)
      (if e = 0 then c.1 else e, c.2)
    else (e, b.2)) (0, s)

/-- How a failed frame is reported (Table 15.6). -/
def txReport (s : State) (n r status : Nat) : State :=
  match status with
  | 0 => s
  | 1 => ethErr s n 2 0x11 r none
  | 2 => ethErr s n 2 0x12 r (some 1)
  | _ => isrBit s (.eth n) 2

/-- The oldest frame of a ring ends: writebacks, HEAD, counts (R652). -/
def txDone (s : State) (n r : Nat) : State :=
  match txOf s n r with
  | [] => s
  | f :: _ =>
    if stopped s (.eth n) ∨ (f.status = 0 ∧ f.started = false) then s
    else
      let s1 := modEth s n (fun x => { x with tx := dropFirst (· == f) x.tx })
      let (e, s2) := txBack s1 n r f
      if e ≠ 0 then ringStop (ethErr s2 n 2 0x12 r (some 1)) n true r
      else
        let head := (ringHead s2 n true r + f.descs) % ringSize s2 n true r
        let s3 := putFld s2 (.eth n) (ringOff true r + 8) 15 0 head
        let s4 := if f.status = 0 then workCount s3 (.eth n) 0x0B4 31 0 1 else txReport s3 n r f.status
        let s5 := if f.halt then ringStop s4 n true r else s4
        if ringIrq s5 n true r ∧ f.descs ≠ 0 then doneSet s5 n 0x0D8 5 r else s5

/-! ## Ring registers and the link (R638 to R641, R657) -/

/-- EN of a ring has been written 0 (R641): a frame that has started finishes, and has no descriptor of the ring any
more (log 46). -/
def ringOffNow (s : State) (n : Nat) (tx : Bool) (r : Nat) : State :=
  let o := ringOff tx r
  let s1 := putFld (putFld s (.eth n) (o + 8) 15 0 0) (.eth n) (o + 0xC) 15 0 0
  let s2 := putBit s1 (.eth n) (o + 4) 18 false
  if tx then
    ethFix (modEth s2 n (fun x => { x with
      tx := (x.tx.filter (fun f => f.ring != r || f.started)).map (fun f => if f.ring = r then { f with descs := 0 } else f) })) n
  else s2

/-- A ring may be enabled (R640). -/
def ringOk (s : State) (base size : Nat) : Bool := 2 ≤ size && base % 32 == 0 && base + 32 * size ≤ s.fuses.asm.hole

/-- The link comes up or goes down (R657); a retired port's is held down (Table 17.3). -/
def ethLink (s : State) (n : Nat) (up an : Bool) : State :=
  if dieFitted s (n / 2) = false then s
  else
    let up := up && !rbit s (.eth n) 0x014 6
    let s1 := putBit (putBit s (.eth n) 0x0A0 0 up) (.eth n) 0x0A0 1 an
    if rbit s (.eth n) 0x0A0 0 = up then s1 else isrBit s1 (.eth n) 3

end Sys2Proof.Machine
end

