-- ==== Sys2Proof/Machine/GlzOps.lean ====
section
/-! DEFINITION. Glaziers: submission, command records, the state they set, depth and stencil, fences and pauses. -/

namespace Sys2Proof.Machine

/-! ## The page (Table 16.5, R691) -/

def glzState (s : State) (n : Nat) : Nat := rfld s (.glz n) 0x084 1 0
def glzPut (s : State) (n st : Nat) : State := putFld s (.glz n) 0x084 1 0 st
/-- The packets of a Glazier (R662). -/
def glzBy (s : State) (n : Nat) : DmaBy := { die := n / 4, spart := rfld s (.glz n) 0x080 3 0, tc := rfld s (.glz n) 0x080 6 4,
                                             layer := (getGlz s n).layer, oper := (getGlz s n).oper }

/-- The Glazier is fitted and not halted (R728). -/
def glzLive (s : State) (n : Nat) : Bool := dieFitted s (n / 4) && !stopped s (.glz n)

/-- The Glazier may start a record (R658, R683, R824). -/
def glzRuns (s : State) (n : Nat) : Bool := glzLive s n && enabled s (.glz n) && glzState s n == 1

/-- A counter of work gains n while PG_PERF_CTL.EN = 1 (R691). -/
def glzCount (s : State) (n off k : Nat) : State :=
  if rbit s (.glz n) 0x060 0 then workCount s (.glz n) off 31 0 k else s

/-- RUN becomes IDLE with an empty queue and nothing unanswered (Table 16.5). -/
def glzIdle (s : State) (n : Nat) : State :=
  if glzState s n = 1 ∧ (getGlz s n).q = [] ∧ (getGlz s n).frags = [] then glzPut s n 0 else s

/-- Records enter the queue. -/
def glzEnter (s : State) (n : Nat) (rs : List (List Byte)) : State :=
  if rs = [] then s
  else
    let s1 := modGlz s n (fun g => { g with q := g.q ++ rs })
    if glzState s1 n = 0 then glzPut s1 n 1 else s1

/-- A captured error of a record (R664, R665, R670, R678, R691). -/
def glzErr (s : State) (n code : Nat) (bits : Word) : State :=
  captureOpen false s (.glz n) code 0 (getGlz s n).layer (getGlz s n).oper none bits

/-- BADCMD (R664). -/
def glzBadCmd (s : State) (n : Nat) : State := glzErr s n 0x10 (isrMask 0)

/-- A failure under R680, captured with a code. -/
def glzFailAs (s : State) (n code reason : Nat) : State :=
  let s1 := addFld s (.glz n) 0x0CC 31 16 1
  let s2 := modGlz s1 n (fun g => { g with bad := true })
  capture s2 (.glz n) code 0 (getGlz s n).layer (getGlz s n).oper (BitVec.ofNat 32 reason) (some 1) (isrMask 2)

/-- MEMFAIL with its REASON (R680). -/
def glzFail (s : State) (n reason : Nat) : State := glzFailAs s n 0x15 reason

/-- A read of the Glazier: whether it succeeded, its bytes, the state. -/
def glzRead (s : State) (n : Nat) (tn : Word) (a len : Nat) : Bool × List Byte × State :=
  let (e, bs, s1) := dmaRead s (glzBy s n) tn a len
  if e = 0 then (true, bs, s1) else (false, [], glzFail s1 n e)

/-- A write of the Glazier; one that is refused is lost (R680). -/
def glzWrite (s : State) (n : Nat) (tn : Word) (a : Nat) (bs : List Byte) : State :=
  let (e, s1) := dmaWrite s (glzBy s n) tn a bs
  if e = 0 then s1 else glzFail s1 n e

/-! ## Submission (R659, R660) -/

/-- Records cut from bytes. -/
def records : Nat → List Byte → List (List Byte)
  | 0, _ => []
  | k + 1, bs => bs.take 32 :: records k (bs.drop 32)

/-- The command ring: size, head, tail, address. -/
def glzSize (s : State) (n : Nat) : Nat := rfld s (.glz n) 0x098 15 0
def glzHead (s : State) (n : Nat) : Nat := rfld s (.glz n) 0x09C 15 0
def glzTail (s : State) (n : Nat) : Nat := rfld s (.glz n) 0x0A0 15 0
def glzAddr (s : State) (n : Nat) : Nat := pairNat s (.glz n) 0x090 % 2 ^ 48

/-- One record is fetched from the ring; one that cannot be read is lost as a failure (log 17). -/
def glzFetchOne (n : Nat) (s : State) : State :=
  let size := glzSize s n
  let head := glzHead s n
  let (ok, bs, s1) := glzRead s n (rawReg s (.glz n) 0x08C) (glzAddr s n + 32 * head) 32
  let s2 := putFld s1 (.glz n) 0x09C 15 0 ((head + 1) % size)
  if ok then glzEnter s2 n [bs] else s2

/-- The queue is filled from the ring while it has room (R659). -/
def glzFetch (s : State) (n : Nat) : State :=
  let size := glzSize s n
  if glzLive s n = false ∨ size < 2 ∨ tnodeOk s (rawReg s (.glz n) 0x08C) = false then s
  else
    let left := (glzTail s n + size - glzHead s n) % size
    iter (glzFetchOne n) (min left (1024 - (getGlz s n).q.length)) s

/-- A MSG at a command-queue endpoint (R660, R661, R825). -/
def glzMsg (s : State) (n : Nat) : State :=
  let d := n / 4
  match reqHead s (.io d) opMSG with
  | none => s
  | some q =>
    if dieFitted s d = false ∨ epKind q.dst ≠ .glz ∨ dieGlz d q ≠ n ∨ stopped s (.glz n) then s
    else serveEdge s (.io d) q (fun s0 =>
      let bs := payload q
      let k := bs.length / 32
      if q.len = 0 ∨ bs.length % 32 ≠ 0 then answerAt s0 (.io d) (nakPkt q.dst q nkMALFORMED)
      else if enabled s0 (.glz n) = false then answerAt s0 (.io d) (nakPkt q.dst q nkOFF)
      else if 1024 < (getGlz s0 n).q.length + k then answerAt s0 (.io d) (nakPkt q.dst q nkFULL)
      else ackAt (glzEnter s0 n (records k bs)) (.io d) q)

/-- GLZ_RESUME has been written (R685). -/
def glzResume (s : State) (n : Nat) : State :=
  match glzState s n with
  | 3 => glzPut s n 1
  | 2 => putBit s (.glz n) 0x084 13 true
  | _ => s

/-- Every started fragment has retired in PAUSING (Table 16.5, R685). -/
def glzPaused (s : State) (n : Nat) : State :=
  if glzState s n = 2 ∧ (getGlz s n).frags = [] ∧ glzLive s n then
    (if rbit s (.glz n) 0x084 13 then glzPut (putBit s (.glz n) 0x084 13 false) n 1 else glzPut s n 3)
  else s

/-! ## Records (Table 16.1) -/

def recOpc (r : List Byte) : Nat := byteField r 0 1

/-- The bytes that the operands of an opcode name, as (first, one past the last); none where the opcode is undefined. -/
def recNamed (opc : Nat) : Option (List (Nat × Nat)) :=
  match opc with
  | 0x01 => some [(4, 10)]
  | 0x02 => some [(4, 12)]
  | 0x03 => some [(4, 11), (12, 22), (24, 28)]
  | 0x04 => some [(4, 12)]
  | 0x05 => some [(4, 6), (8, 32)]
  | 0x06 => some [(4, 8)]
  | 0x10 => some [(4, 5), (8, 18), (20, 24)]
  | 0x11 => some [(8, 18), (20, 24)]
  | 0x20 => some [(4, 9)]
  | 0x21 => some [(8, 18)]
  | 0x30 => some [(8, 18), (20, 26)]
  | 0x31 => some [(4, 5), (8, 28)]
  | 0x40 => some [(4, 9), (12, 20)]
  | _ => none

/-- Bytes that a record does not name are 0 (R663). -/
def recClean (named : List (Nat × Nat)) (r : List Byte) : Bool :=
  (List.range 31).all (fun i => named.any (fun x => x.1 ≤ i + 1 && i + 1 < x.2) || byteField r (i + 1) 1 == 0)

/-- The fields of a record lie in their ranges (Table 16.1). -/
def recRange (s : State) (r : List Byte) : Bool :=
  let b (i : Nat) : Nat := byteField r i 1
  let h (i : Nat) : Nat := byteField r i 2
  match recOpc r with
  | 0x01 => 1 ≤ h 4 && h 4 ≤ 16384 && 1 ≤ h 6 && h 6 ≤ 16384 && (b 8 == 1 || b 8 == 4) && b 9 ≤ 1
  | 0x03 => b 4 ≤ 3 && b 5 ≤ 2 && b 6 ≤ 3 && 1 ≤ b 7 && b 7 ≤ 4 && b 8 ≤ 5 && (b 9 ≤ 7 || b 9 == 15) && b 10 ≤ 63
  | 0x04 => b 4 ≤ 7 && b 6 ≤ 7 && b 5 ≤ 1 && b 9 ≤ 5 && b 10 ≤ 5 && b 11 ≤ 5
  | 0x05 => b 4 ≤ 63 && 1 ≤ b 5 && b 5 ≤ 6 && b 4 + b 5 ≤ 64
  | 0x10 => b 4 ≤ 8 && tnodeOk s (wordAt r 8)
  | 0x11 => tnodeOk s (wordAt r 8)
  | 0x30 => tnodeOk s (wordAt r 8)
  | 0x31 => b 4 ≤ 1 && tnodeOk s (wordAt r 8)
  | 0x40 => b 8 ≤ 63
  | _ => true

/-- Whether a record is well formed (R664). -/
def recOk (s : State) (r : List Byte) : Bool :=
  match recNamed (recOpc r) with
  | some l => recClean l r && recRange s r
  | none => false

/-- The record at the head leaves the queue. -/
def glzPop (s : State) (n : Nat) : State := glzIdle (modGlz s n (fun g => { g with q := g.q.tail, done := 0 })) n

/-- Records at the head that have no defined opcode are skipped (R664). -/
def glzSkip : Nat → State → Nat → State
  | 0, s, _ => s
  | k + 1, s, n =>
    match (getGlz s n).q with
    | r :: _ => if (recNamed (recOpc r)).isNone then glzSkip k (glzPop (glzBadCmd s n) n) n else s
    | [] => s

/-- The record at the head, when it has an opcode and may start: skipped when ill formed, else carried out by act. -/
def glzRecord (s : State) (n opc : Nat) (act : State → List Byte → State) : State :=
  if glzRuns s n = false then s
  else
    let s0 := glzSkip 1024 s n
    match (getGlz s0 n).q with
    | r :: _ =>
      if recOpc r ≠ opc then s0
      else if recOk s0 r = false then glzPop (glzBadCmd s0 n) n
      else act s0 r
    | [] => s0

/-- A record that is done as soon as it has changed the state. -/
def glzSimple (s : State) (n opc : Nat) (f : State → List Byte → State) : State :=
  glzRecord s n opc (fun s r => glzPop (f s r) n)

/-- Depth and stencil become undefined (R667). -/
def depthLost (s : State) (n : Nat) : State :=
  let (k, s1) := takeFree s
  modGlz s1 n (fun g => { g with depth := [], sten := [], clr := none, undef := k })

/-- TARGET (R663, R665, R667). -/
def glzTarget (s : State) (n : Nat) (r : List Byte) : State :=
  modGlz (depthLost s n) n (fun g => { g with
    tw := byteField r 4 2, th := byteField r 6 2, spp := byteField r 8 1, dfmt := byteField r 9 1,
    groups := [{}, {}, {}, {}] })

/-- REGION (R666, R667). -/
def glzRegion (s : State) (n : Nat) (r : List Byte) : State :=
  let g := getGlz s n
  let x := byteField r 4 2
  let y := byteField r 6 2
  let w := byteField r 8 2
  let h := byteField r 10 2
  if x + w ≤ g.tw ∧ y + h ≤ g.th ∧ 1 ≤ w ∧ 1 ≤ h ∧ w * h * g.spp ≤ 4194304 then
    modGlz (depthLost s n) n (fun g => { g with rx := x, ry := y, rw := w, rh := h })
  else glzErr s n 0x11 0

/-- Bytes of a channel (Table 16.1 FMT). -/
def chanSize (fmt : Nat) : Nat :=
  match fmt with
  | 0 => 4
  | 3 => 1
  | _ => 2

/-- A word of the pixel program; past the last word lies END (log 17). -/
def progWord (s : State) (n i : Nat) : Word := if i < 64 then rawReg s (.glz n) (0x200 + 4 * i) else 0
def ppOpc (w : Word) : Nat := fld w 31 27

/-- An END lies within 32 words from a start (R665). -/
def progEnds (s : State) (n start : Nat) : Bool :=
  (List.range 32).any (fun i => start + i < 64 && ppOpc (progWord s n (start + i)) == 0)

/-- CGROUP (R665). -/
def glzCgroup (s : State) (n : Nat) (r : List Byte) : State :=
  let b (i : Nat) : Nat := byteField r i 1
  let g := getGlz s n
  let c : CGroup := {
    mode := b 5, fmt := b 6, ch := b 7, blend := b 8, aidx := b 9, pstart := b 10, tnode := wordAt r 12,
    addr := byteField r 16 6, pitch := byteField r 24 4 }
  if c.pitch % 32 ≠ 0 ∨ c.pitch < g.tw * g.spp * c.ch * chanSize c.fmt ∨ tnodeOk s c.tnode = false
      ∨ inRegion s c.tnode c.addr (g.th * c.pitch) = false ∨ (c.mode = 2 ∧ progEnds s n c.pstart = false)
      ∨ (c.blend = 3 ∧ c.ch ≠ 4) then glzErr s n 0x11 0
  else modGlz s n (fun g => { g with groups := listMod g.groups (b 4) (fun _ => c) })

/-- DSTATE (R663). -/
def glzDstate (s : State) (n : Nat) (r : List Byte) : State :=
  let b (i : Nat) : Nat := byteField r i 1
  modGlz s n (fun g => { g with
    dfunc := b 4, dwrite := b 5 == 1, sfunc := b 6, sref := b 7, smask := b 8, spass := b 9, sfail := b 10,
    sdfail := b 11 })

/-- A program word that PROG may not load (R678). -/
def progBad (w : Word) : Bool := 0x10 < ppOpc w || fld w 17 16 != 0

/-- A started fragment still runs a program: PROG waits, so that the program is the one its record sampled (R658). -/
def progBusy (s : State) (n : Nat) : Bool := (getGlz s n).frags.any (fun f => f.groups.any (fun c => c.mode == 2))

/-- PROG (R663, R678). -/
def glzProg (s : State) (n : Nat) (r : List Byte) : State :=
  let start := byteField r 4 1
  let ws := (List.range (byteField r 5 1)).map (fun i => wordAt r (8 + 4 * i))
  if ws.any progBad then glzErr s n 0x13 0
  else (ws.mapIdx (fun i w => (i, w))).foldl (fun s x => putReg s (.glz n) (0x200 + 4 * (start + x.1)) x.2) s

/-- LOPER (R662). -/
def glzLoper (s : State) (n : Nat) (r : List Byte) : State :=
  modGlz s n (fun g => { g with
    layer := BitVec.ofNat 16 (byteField r 4 2), oper := BitVec.ofNat 16 (byteField r 6 2) })

/-- CLEAR (R663). -/
def glzClear (s : State) (n : Nat) (r : List Byte) : State :=
  modGlz s n (fun g => { g with depth := [], sten := [], clr := some (wordAt r 4, BitVec.ofNat 8 (byteField r 8 1)) })

/-- BVH (R663). -/
def glzBvh (s : State) (n : Nat) (r : List Byte) : State :=
  modGlz s n (fun g => { g with bnode := wordAt r 8, broot := byteField r 12 6, btri := byteField r 20 6 })

/-- FENCE (R674): the SIGNAL goes to the SEM endpoint of a tile. -/
def glzFence (s : State) (n : Nat) (r : List Byte) : State :=
  let g := getGlz s n
  let node := wordAt r 4
  if node ≠ 0 ∧ (nodeKind node ≠ 0 ∨ nodeEp node ≠ 2) then glzErr s n 0x12 0
  else
    let p : Packet := {
      dst := node, opc := opSIGNAL, tc := BitVec.ofNat 3 (rfld s (.glz n) 0x080 6 4), layer := g.layer, oper := g.oper,
      addr := BitVec.ofNat 48 (byteField r 8 1), aux := wordAt r (if g.bad then 16 else 12),
      spart := BitVec.ofNat 4 (glzBy s n).spart }
    let q : Packet := { p with src := ioNode s (dieRow p) (n / 4) (8 + n % 4) }
    let s1 := if node = 0 then s else modDie s (n / 4) (fun d => { d with out := d.out ++ [q] })
    isrBit (modGlz s1 n (fun g => { g with bad := false })) (.glz n) 3

/-! ## Depth and stencil (R667, R669, R670) -/

/-- Number of a sample of the region. -/
def smpIdx (g : Glz) (x y smp : Nat) : Nat := ((y - g.ry) * g.rw + (x - g.rx)) * g.spp + smp

def depthGet (g : Glz) (i : Nat) : Word :=
  match g.depth.find? (fun e => e.1 == i) with
  | some e => e.2
  | none => (g.clr.map (·.1)).getD (Config.undefDepth g.undef i)

def stenGet (g : Glz) (i : Nat) : Byte :=
  match g.sten.find? (fun e => e.1 == i) with
  | some e => e.2
  | none => (g.clr.map (·.2)).getD ((Config.undefDepth g.undef (i + 2 ^ 40)).setWidth 8)

/-- The eight comparisons of Table 16.1. -/
def cmpFunc (f : Nat) (lt eq gt : Bool) : Bool :=
  match f with
  | 0 => false
  | 1 => lt
  | 2 => eq
  | 3 => lt || eq
  | 4 => gt
  | 5 => !eq
  | 6 => gt || eq
  | _ => true

/-- The depth test of a fragment's depth against the store's. -/
def depthPass (g : Glz) (z old : Word) : Bool :=
  if g.dfmt = 0 then
    let a := f32 z
    let b := f32 old
    cmpFunc g.dfunc (Fv.lt a b) (Fv.le a b && Fv.le b a) (Fv.lt b a)
  else
    let a := z.toNat % 2 ^ 24
    let b := old.toNat % 2 ^ 24
    cmpFunc g.dfunc (decide (a < b)) (a == b) (decide (b < a))

/-- A stencil operation (Table 16.1). -/
def stenOp (op ref : Nat) (old : Byte) : Byte :=
  match op with
  | 1 => 0
  | 2 => BitVec.ofNat 8 ref
  | 3 => BitVec.ofNat 8 (min 255 (old.toNat + 1))
  | 4 => BitVec.ofNat 8 (old.toNat - 1)
  | 5 => ~~~old
  | _ => old

/-- Depth and stencil tests of sample i and their updates: whether both pass, and the Glazier after them. -/
def zTest (g : Glz) (i : Nat) (z : Word) : Bool × Glz :=
  let zs := if g.dfmt = 0 then z else Config.depth24 z
  let old := stenGet g i
  let a := g.sref &&& g.smask
  let b := old.toNat &&& g.smask
  let sp := g.dfmt == 0 || cmpFunc g.sfunc (decide (a < b)) (a == b) (decide (b < a))
  let dp := depthPass g zs (depthGet g i)
  let op := if !sp then g.sfail else if dp then g.spass else g.sdfail
  let g1 := if g.dfmt = 0 then g else { g with sten := tabPut g.sten i (stenOp op g.sref old) }
  let g2 := if sp && dp && g.dwrite then { g1 with depth := tabPut g1.depth i zs } else g1
  (sp && dp, g2)

/-- A depth of the store as FP32 (R670). -/
def depthF32 (g : Glz) (d : Word) : Word :=
  if g.dfmt = 0 then d
  else
    let n := d.toNat % 2 ^ 24 * 2 ^ 60
    let k := n / 16777215 * 2 + (if n % 16777215 = 0 then 0 else 1)
    toF32 (.fin false k (-61))

/-- Minimum or maximum of two FP32 values. -/
def fMin (a b : Word) : Word := BitVec.ofNat 32 (maxMin 0x24 0 a.toNat b.toNat)
def fMax (a b : Word) : Word := BitVec.ofNat 32 (maxMin 0x23 0 a.toNat b.toNat)

/-- The depths of an 8×8 block of the region. -/
def blockDepths (g : Glz) (bx by_ : Nat) : List Word :=
  (List.range 8).flatMap (fun j => (List.range 8).flatMap (fun i =>
    let x := g.rx + 8 * bx + i
    let y := g.ry + 8 * by_ + j
    if x < g.rx + g.rw ∧ y < g.ry + g.rh then
      (List.range g.spp).map (fun k => depthF32 g (depthGet g (smpIdx g x y k)))
    else []))

/-- Minimum and maximum of a block, as bytes. -/
def blockBytes (l : List Word) : List Byte :=
  match l with
  | [] => []
  | a :: r => leBytes 4 (r.foldl fMin a).toNat ++ leBytes 4 (r.foldl fMax a).toNat

/-- DRESOLVE (R670). -/
def glzDresolve (s : State) (n : Nat) (r : List Byte) : State :=
  let g := getGlz s n
  let tn := wordAt r 8
  let a := byteField r 12 6
  let bw := (g.rw + 7) / 8
  let bh := (g.rh + 7) / 8
  if tn = 0 ∨ tnodeTile s tn = false ∨ a % 8 ≠ 0 ∨ 196608 < a + 8 * bw * bh then glzErr s n 0x12 0
  else
    let bs := (List.range bh).flatMap (fun j => (List.range bw).flatMap (fun i => blockBytes (blockDepths g i j)))
    if bs = [] then s else glzWrite s n tn a bs

end Sys2Proof.Machine
end

