-- ==== Sys2Proof/Machine/MgtOps.lean ====
section
/-! DEFINITION. Power, boot and resets: image and rails, spares and the degraded grid, the scopes of Table 19.4, engine
resets, temperatures and throttling. -/

namespace Sys2Proof.Machine

def modMgt (s : State) (f : Mgt → Mgt) : State := { s with mgt := f s.mgt }

/-- MGT_BOOT.STAGE (Table 19.2): 7 DONE, 8 FAILED. -/
def bootStage (s : State) : Nat := rfld s .mgt 0x090 3 0

/-! ## Spares (R394 to R399) -/

/-- What the test of the routers leaves: the column and the row of each die that its field spare replaces (a place
of 64 is the spare itself), the logical slots removed from the package, and whether it comes up FAILED. -/
structure Spares where
  cols : List (Nat × Nat) := []
  rows : List (Nat × Nat) := []
  dx : Option Nat := none
  dy : Option Nat := none
  failed : Bool := false
  deriving DecidableEq, Repr

/-- The logical position in a die of a physical column or row: the spare, 64, stands where what it replaces stood. -/
def spareAt (l : List (Nat × Nat)) (d p : Nat) : Nat :=
  if p < 64 then p else ((l.find? (fun e => e.1 == d)).map (·.2)).getD 64

/-- A column or row of a die is out of use. -/
def spareOut (l : List (Nat × Nat)) (cut : Option Nat) (half d p : Nat) : Bool :=
  l.contains (d, p) || cut == some (64 * half + spareAt l d p)

/-- A failed router is spared, or costs a column or a row of the package (R394 to R396; log 42). A router is numbered by
its physical place: die, row and column of 65 each, 64 being the field spare. -/
def spareOne (r : Spares) (k : Nat) : Spares :=
  let d := k / 4225 % 4
  let x := k % 65
  let y := k / 65 % 65
  if spareOut r.cols r.dx (d % 2) d x || spareOut r.rows r.dy (d / 2) d y then r
  else if r.cols.all (fun c => c.1 != d) then { r with cols := r.cols ++ [(d, x)] }
  else if r.rows.all (fun c => c.1 != d) then { r with rows := r.rows ++ [(d, y)] }
  else if r.dx.isNone then { r with dx := some (64 * (d % 2) + spareAt r.cols d x) }
  else if r.dy.isNone then { r with dy := some (64 * (d / 2) + spareAt r.rows d y) }
  else { r with failed := true }

/-- MGT_DEGR (Table 9.6). -/
def degrWord (r : Spares) : Word :=
  let cut (o : Option Nat) : Nat := match o with
    | some p => if p < 64 then 62 else 63
    | none => 63
  let b (o : Option Nat) : Nat := if o.isSome then 1 else 0
  let inUse (l : List (Nat × Nat)) : List (Nat × Nat) := l.filter (fun c => c.2 != 64)
  let used : Nat :=
    ((inUse r.cols).map (fun c => 2 ^ (2 * c.1))).sum + ((inUse r.rows).map (fun c => 2 ^ (2 * c.1 + 1))).sum
  BitVec.ofNat 32 (b r.dx + 2 * b r.dy + (if r.failed then 4 else 0) + cut r.dx * 256 + cut r.dy * 65536 + used * 2 ^ 24)

/-- The routers are tested and MGT_DEGR written (R394, R399): `failed` are those that fail the test. -/
def bist (s : State) (failed : List Nat) : State :=
  putReg (modMgt s (fun m => { m with failedRtrs := [] })) .mgt 0x084 (degrWord (failed.foldl spareOne {}))

/-- The tiles measure their tree delays (R473). -/
def measure (s : State) : State := modMgt { s with free := s.free + 1 } (fun m => { m with calNo := s.free })

/-! ## What resets clear (Table 19.4, R790) -/

/-- TM, CM and AM of every tile read 0. -/
def tileMemClear (s : State) : State :=
  { s with mem := zeroRange s.mem (2 ^ 48) (2 ^ 48 + 2 ^ 34), ecc := tabClear s.ecc (2 ^ 43) (2 ^ 43 + 2 ^ 29) }

/-- Buckets of what a fabric reset covers are restored: RQ, TILE, WAVE, and COPY of routers, tiles and MOV. -/
def fabricBuckets (s : State) : State :=
  { s with buckets := s.buckets.filter (fun e =>
      let k := e.1 / 2 ^ 24
      !(k == 3 || k == 4 || k == 7 || (k == 6 && bitsOf e.1 23 22 != 3))) }

/-- At a reset a tile that is OFF or has no power stays isolated, with its cause set again; another leaves isolation
(R388). ISO that stays 1 sets no interrupt (R391). -/
def isoAgain (s : State) (t : Nat) : State :=
  let cause := if rbit s (.til t) 0x084 0 then 1 else if (getTile s t).powered then 0 else 3
  putFld (putBit s (.til t) 0x084 1 (cause != 0)) (.til t) 0x084 4 2 cause

/-- Tiles without power. -/
def unpowered (s : State) : List Nat := s.tiles.filterMap (fun e => if e.2.powered then none else some e.1)

/-- The tiles whose VCORE domain had no power before a reset stay so, and isolated (R388). -/
def keepUnpowered (s0 s : State) : State :=
  (unpowered s0).foldl (fun s t => isoAgain (modTile s t (fun x => { x with powered := false })) t) s

/-- Every tile and router returns to reset; a tile without power stays isolated. -/
def fabricClear (s : State) : State :=
  keepUnpowered s (tileMemClear (fabricBuckets { s with
    tiles := [], regs := tabClear s.regs 0 0x20000000, latches := tabClear s.latches 0 0x20000000 }))

/-- What a cold or warm reset leaves: the clock, the calendar, the model's own records (R488, R790). -/
def baseReset (s : State) (sc : Scope) : State :=
  let s1 : State := { State.reset with
    fuses := s.fuses, time := s.time, rtc := s.rtc, out := s.out, free := s.free, pending := s.pending }
  let s2 : State := { s1 with tkp := { off := -(s.time : Int) } }
  let s3 : State := { s2 with mgt := { running := some sc, thermtrip := s.mgt.thermtrip, vstby := s.mgt.vstby } }
  let s4 : State := { s3 with hif := { perst := s.hif.perst, perstAt := s.hif.perstAt } }
  putReg s4 (.tkp 0) 0x0F8 (rawReg s (.tkp 0) 0x0F8)

/-- Cold reset (Table 19.4): boot starts at ROM. -/
def coldReset (s : State) : State := baseReset s .cold

/-- Warm reset: the verified image, the rails and the VCORE setpoints stay; boot goes on from BIST. -/
def warmReset (s : State) : State :=
  let s1 := baseReset s .warm
  let s2 := putReg (putReg s1 .mgt 0x0AC (rawReg s .mgt 0x0AC)) .mgt 0x0B0 (rawReg s .mgt 0x0B0)
  let s3 := putFld (putReg s2 .mgt 0x090 (rawReg s .mgt 0x090)) .mgt 0x090 3 0 3
  keepUnpowered s (modMgt s3 (fun m => { m with vmv := s.mgt.vmv, rails := s.mgt.rails }))

/-! ## Reset requests (R789 to R796, R817) -/

/-- A request that a running reset of equal or wider scope discards (R794). -/
def rstDrop (s : State) : State := captureOpen false s .mgt 0x10 0 0 0 none 0

/-- A tile reset starts: engines and pages return to reset, the router goes on forwarding and answers as for an isolated
tile until the reset completes (R791, Table 19.4). -/
def tileResetStart (s : State) (t : Nat) : State :=
  let iso := rawReg s (.til t) 0x084
  let time := rawReg s (.til t) 0x0C0
  let x := getTile s t
  let s1 := { s with
    regs := tabClear s.regs (t * 0x8000) (t * 0x8000 + 0x8000),
    latches := tabClear s.latches (t * 0x8000) (t * 0x8000 + 0x8000),
    mem := zeroRange s.mem (tmKey t 0) (tmKey t 0x100000),
    ecc := tabClear s.ecc (unitOf (tmKey t 0)) (unitOf (tmKey t 0x100000)) }
  let s2 := setTile s1 t { ({} : Tile) with
    rin := x.rin, rout := x.rout, asm := x.asm, rrVc := x.rrVc, fork := x.fork, powered := x.powered, lreq := x.lreq, reqAt := x.reqAt, wdog := x.wdog, ntOff := x.ntOff,
    kaSent := x.kaSent, kaSeen := x.kaSeen }
  let s3 := putReg (putReg s2 (.til t) 0x084 iso) (.til t) 0x0C0 time
  let s4 := bucketRestore s3 4 t
  modMgt ((List.range 16).foldl (fun s n => bucketRestore s 3 (t * 16 + n)) s4) (fun m => { m with running := some (.tile t) })

/-- MGT_RST.COLD (Table 19.4). -/
def rstCold (s : State) : State :=
  if s.mgt.thermtrip then s else if s.mgt.running = some .cold then rstDrop s else coldReset s

/-- PERST_N is asserted (Table 19.4). -/
def rstWarm (s : State) : State :=
  let s1 := { s with hif := { s.hif with perst := false } }
  if s.mgt.thermtrip then s1
  else if s.mgt.running = some .cold ∨ s.mgt.running = some .warm then rstDrop s1
  else warmReset s1

/-- MGT_RST.FABRIC, with the routers that the test finds failed (R394, R792). -/
def rstFabric (s : State) (failed : List Nat) : State :=
  if s.mgt.thermtrip then s
  else match s.mgt.running with
    | some .cold | some .warm | some .fabric => rstDrop s
    | _ => modMgt (bist (fabricClear s) failed) (fun m => { m with running := some .fabric, waiting := [] })

/-- MGT_RST.TILE (R791, R794, R795). -/
def rstTile (s : State) (t : Nat) : State :=
  if s.mgt.thermtrip then s
  else match s.mgt.running with
    | none => tileResetStart s t
    | some (.tile u) =>
      if u = t ∨ t ∈ s.mgt.waiting then rstDrop s else modMgt s (fun m => { m with waiting := m.waiting ++ [t] })
    | _ => rstDrop s

/-- MGT_RST has been written (R794). -/
def rstWritten (s : State) (v : Word) (failed : List Nat) : State :=
  let s1 := if fld v 0 0 = 1 then rstCold s else s
  let s2 := if fld v 1 1 = 1 then rstFabric s1 failed else s1
  if fld v 2 2 = 1 then rstTile s2 (fld v 29 16) else s2

/-- RSTDONE and MGT_RST_STAT (Table 19.6). -/
def rstDone (s : State) (last : Nat) : State :=
  let s1 := addFld (putFld s .mgt 0x08C 3 1 last) .mgt 0x08C 31 16 1
  isrBit (modMgt s1 (fun m => { m with running := none })) .mgt 1

/-- A fabric or tile reset completes (R795, R796); the fabric of a package that came up FAILED stays in reset (R396). -/
def rstComplete (s : State) : State :=
  match s.mgt.running with
  | some .fabric => if rbit s .mgt 0x084 2 then s else rstDone (measure (modMgt s (fun m => { m with fabUp := eTime s }))) 3
  | some (.tile t) =>
    let s1 := rstDone (isoAgain s t) 4
    (match s1.mgt.waiting with
     | u :: r => tileResetStart (modMgt s1 (fun m => { m with waiting := r })) u
     | [] => s1)
  | _ => s

/-! ## Boot (R781 to R787) -/

/-- A slot passes (R783). -/
def imageOk (s : State) (i : Image) : Bool :=
  i.magic == 0x57524D46 && 4096 ≤ i.length && i.length ≤ 2097152 && i.length % 4096 == 0 && fld i.svn 31 8 == 0
    && i.zeros && i.keyOk && i.sigOk && s.fuses.minSvn ≤ i.svn.toNat

/-- Boot ends FAILED with a code: BOOTERR, a fatal error (R780, R785, R786, Table 17.6). -/
def bootFail (s : State) (code : Nat) : State :=
  let s1 := putFld (putFld s .mgt 0x090 3 0 8) .mgt 0x090 15 8 code
  let s2 := captureOpen false (modMgt s1 (fun m => { m with running := none })) .mgt 0x11 0 0 0 none (isrMask 2)
  errStop s2 .mgt (some 3)

/-- The populated pseudo-channels are trained; one that fails is retired (R786). -/
def trainHbm (s : State) (untrained : List Nat) : State :=
  (List.range 256).foldl (fun s k =>
    let p := Page.mem (k % 128) (k / 128)
    if pagePresent s p = false then s
    else if untrained.contains k then retire s 2 k 0
    else putBit s p 0x084 0 true) s

/-- Boot from BIST on: spares, zeroed memories, HBM, calibration and the start of NT (Table 19.2). -/
def bootRest (s : State) (failed untrained : List Nat) : State :=
  let last := if s.mgt.running = some .warm then 2 else 1
  let s1 := bist s failed
  if rbit s1 .mgt 0x084 2 then bootFail s1 3
  else
    let s2 := ntStart (measure (trainHbm (tileMemClear s1) untrained))
    let s3 := putFld (putFld s2 .mgt 0x090 3 0 7) .mgt 0x08C 3 1 last
    modMgt s3 (fun m => { m with running := none, fabUp := eTime s3 })

/-- The boot steps (R781). -/
def boot (s : State) (a b : Image) (railsOk : Bool) (failed untrained : List Nat) : State :=
  if s.mgt.thermtrip ∨ s.mgt.vstby = false then s
  else if bootStage s = 3 then bootRest s failed untrained
  else if bootStage s ≠ 0 then s
  else
    let okA := imageOk s a
    let okB := imageOk s b
    let s1 := if okA then s else putBit s .mgt 0x090 5 true
    if okA = false ∧ okB = false then bootFail s1 1
    else
      let s2 := putFld (putBit s1 .mgt 0x090 4 (!okA)) .mgt 0x090 23 16 (if okA then a.svn.toNat else b.svn.toNat)
      if railsOk then bootRest s2 failed untrained
      else bootFail (modMgt s2 (fun m => { m with rails := false })) 2

/-- A rail of groups 2 to 5 is not within tolerance in time (R780). -/
def railTimeout (s : State) : State :=
  if bootStage s ≤ 2 ∧ s.mgt.thermtrip = false ∧ s.mgt.vstby then bootFail (modMgt s (fun m => { m with rails := false })) 2
  else s

/-- The VSTBY rails leave tolerance (R778): nothing but the calendar goes on. -/
def vstbyLoss (s : State) : State := modMgt (coldReset s) (fun m => { m with vstby := false, rails := false })

/-- The VSTBY rails come within tolerance (R789, R817). -/
def vstbyValid (s : State) : State := coldReset (modMgt s (fun m => { m with vstby := true, thermtrip := false }))

/-- A die sensor reaches 115 °C (R816, R817): the rails go down, and what they powered is lost. -/
def thermTrip (s : State) : State :=
  if s.mgt.thermtrip then s
  else emit (modMgt (fabricClear s) (fun m => { m with thermtrip := true, rails := false, running := none, waiting := [] }))
    .thermtrip

/-! ## Temperature and VCORE (R813 to R815) -/

/-- Setpoint of a die in mV. -/
def setMv (s : State) (q : Nat) : Nat := 500 + 5 * rfld s .mgt 0x0AC (8 * q + 7) (8 * q)
def effMv (s : State) (q : Nat) : Nat := (s.mgt.vmv[q]?).getD 0

/-- The effective VCORE of a die, shown in units of 5 mV. -/
def effPut (s : State) (q mv : Nat) : State :=
  putFld (modMgt s (fun m => { m with vmv := listMod m.vmv q (fun _ => mv) })) .mgt 0x0B0 (8 * q + 7) (8 * q) ((mv - 500) / 5)

/-- MGT_VSET has been written (R815). -/
def vsetWritten (s : State) : State :=
  (List.range 4).foldl (fun s q => if setMv s q < effMv s q then effPut s q (setMv s q) else s) s

/-- A temperature report, a reading above the field as all ones (R137); the registers read 0 until stage RAILS ends (R813, Table 20.8). -/
def tempReport (s : State) (cd : List Nat) (iow ioe : Nat) : State :=
  if bootStage s < 3 ∨ s.mgt.rails = false then s
  else
    let s1 := (List.range 4).foldl (fun s q => putFld s .mgt 0x0A0 (8 * q + 7) (8 * q) (min 255 ((cd[q]?).getD 0))) s
    putFld (putFld s1 .mgt 0x0A4 7 0 (min 255 iow)) .mgt 0x0A4 15 8 (if dieFitted s 1 then min 255 ioe else 0)

/-- One die under review (R814). -/
def throttleDie (s : State) (q : Nat) : State :=
  let t := rfld s .mgt 0x0A0 (8 * q + 7) (8 * q)
  let tlim := rfld s .mgt 0x0A8 7 0
  let hyst := rfld s .mgt 0x0A8 15 8
  let step := rfld s .mgt 0x0A8 23 16
  let v := effMv s q
  if tlim ≤ t then
    let v1 := max 620 (v - step)
    if v ≤ v1 then s
    else
      let s1 := effPut s q v1
      if q ∈ s.mgt.throttled then s1
      else isrBit (modMgt s1 (fun m => { m with throttled := q :: m.throttled })) .mgt 3
  else if t + hyst ≤ tlim ∧ v < setMv s q then
    let v1 := min (setMv s q) (v + step)
    let s1 := effPut s q v1
    if v1 = setMv s q then modMgt s1 (fun m => { m with throttled := m.throttled.filter (· != q) }) else s1
  else s

def throttleReview (s : State) : State :=
  if rbit s .mgt 0x0A8 24 then (List.range 4).foldl throttleDie s else s

/-! ## Engine resets (R793, Table 19.5) -/

/-- Registers of a page return to reset values; the lock, STOPPED and RETIRED stay. -/
def pageReset (s : State) (p : Page) : State :=
  let lk := rawReg s p 0x018
  let st := rawReg s p 0x014
  putReg (putReg (resetRegs s p 0 0x1000) p 0x018 lk) p 0x014 st

/-- A register that an engine reset leaves. -/
def keepReg (s0 s : State) (p : Page) (off : Nat) : State := putReg s p off (rawReg s0 p off)

/-- SRST of the CMB page (Table 19.5). -/
def cmbReset (s : State) (t : Nat) : State :=
  let s1 := (List.range 16).foldl (fun s n => rqDisable s t n) s
  modTile (pageReset s1 (.cmb t)) t (fun x => { x with
    cqs := [{}, {}, {}, {}, {}, {}, {}, {}], resvs := [], refusals := [], cmbQ := [] })

/-- SRST of a page. -/
def srst (s : State) (p : Page) : State :=
  match p with
  | .seq t =>
    let s1 := (List.range 4).foldl (fun s lc => if lcState s t lc = 0 then s else abortCtx s t lc) s
    if seqActive s1 t then putBit s1 (.seq t) 0x010 1 true else seqSrstEnd s1 t
  | .cmp t => modTile (pageReset s p) t (fun x => { x with cmpQ := [], cmpRun := none })
  | .mov t =>
    let s1 := modTile s t (fun x => { x with movQ := [] })
    if movOwes (getTile s1 t) then putBit s1 p 0x010 1 true else movSrstEnd s1 t
  | .cmb t => cmbReset s t
  | .rtr t => modTile (pageReset s p) t (fun x => { x with rin := [], rout := [], asm := [], rrVc := [], fork := [] })
  | .til t =>
    modTile (keepReg s (keepReg s (keepReg s (pageReset s p) p 0x084) p 0x0C0) p 0x0C4) t (fun x => { x with leaseReq := [] })
  | .dbg t => modTile (pageReset s p) t (fun x => { x with prbHit := false, prbN := [0, 0], smpSeq := 0, smpAt := none, obsTok := 20000 })
  | .mem _ _ => keepReg s (pageReset s p) p 0x084
  | .osw _ => pageReset s p
  | .llk n =>
    let s1 := linkDown s n
    modLink (pageReset s1 p) n (fun l => { l with gcl := {}, shp := [], mtr := [] })
  | .eth n =>
    let s1 := bucketRestore (keepReg s (pageReset s p) p 0x0A0) 5 n
    modEth (putBit s1 p 0x014 6 false) n (fun _ => {})
  | .glz n => modGlz (pageReset s p) n (fun _ => {})
  | .tkp d =>
    let k := s.tkp
    let s1 := keepReg s (pageReset s p) p 0x0F8
    let acc := k.acc.filter (fun e => e.1 / 12 != d)
    if d = 0 then { s1 with tkp := { ({} : Tkp) with
        epoch := k.epoch, off := k.off, steps := k.steps, ups := k.ups, raw := k.raw, locked := k.locked, acc := acc } }
    else { s1 with tkp := { k with acc := acc } }
  | .mgt =>
    let s1 := [0x084, 0x08C, 0x090, 0x0A0, 0x0A4, 0x0B0].foldl (fun a o => keepReg s a p o) (pageReset s p)
    vsetWritten s1
  | .scr => { pageReset s p with rlog := [], buckets := s.buckets.filter (fun e => e.2.retired) }
  | .hif => keepReg s (pageReset s p) p 0x098
  | .dbgp => pageReset s p

end Sys2Proof.Machine
end

