-- ==== Sys2Proof/Machine/RegView.lean ====
section
/-! DEFINITION. What a read of a register returns: stored fields, fields that follow the state of the block, latched
halves of pairs, fields that a read clears. -/

namespace Sys2Proof.Machine

/-- A bit as a number. -/
def bitNat (b : Bool) : Nat := if b then 1 else 0

/-- Pages of the engines and of Tinker, which an isolated tile does not show (R387). -/
def behindIso : Page → Option Nat
  | .seq t | .cmp t | .mov t | .cmb t | .dbg t => some t
  | _ => none

/-- A register access reaches the page (R108, R387, R396). -/
def pageReached (s : State) (p : Page) : Bool :=
  pagePresent s p && (failedPage p || !pkgFailed s) && (match behindIso p with
    | some t => !isolated s t
    | none => true)

/-- Source, servo and calendar-set registers of TKP1, which read 0 and ignore writes (R467); its RTC_SEC and RTC_FRAC read
0 and stay owned by hardware (R120, Table 11.6). -/
def tkpBare (p : Page) (off : Nat) : Bool :=
  match p with
  | .tkp d => d != 0 && (off == 0x080 || (0x09C ≤ off && off < 0x0C0) || (0x0F0 ≤ off && off < 0x100))
  | _ => false

/-- The register that occupies an offset of a page. -/
def regAt (p : Page) (off : Nat) : Option RegDef := if tkpBare p off then none else regDef p off

/-! ## The common header -/

/-- Bits of PG_ISR.SRC that a page has (R215, R294, R295, R299, R363, R391, R392, R459, R498, R547, R593, R628, R629, R653,
R690, R721, R773, R775, R796, R814); the others are reserved. -/
def isrSources : Page → Nat
  | .til _ | .cmp _ | .mov _ | .rtr _ | .glz _ | .mgt | .scr => 0xF
  | .seq _ => 0x1FF
  | .cmb _ => 0xFF0F
  | .dbg _ => 0x1F
  | .mem _ _ | .dbgp => 0x7
  | .osw _ => 0
  | .llk _ => 0x3001F
  | .eth _ => 0x3003F
  | .tkp _ => 0xFFF007
  | .hif => 0x3

/-- A running reset covers the page (Table 19.4). -/
def inReset (s : State) (p : Page) : Bool :=
  match s.mgt.running with
  | none => false
  | some (.tile t) => pageBase p / 0x8000 == t && pageBase p < 0x20000000
  | some .fabric => pageBase p < 0x20000000
  | some _ => p != .mgt

/-- PG_STAT.RDY: reset is complete and the block works (log 24). -/
def pageRdy (s : State) (p : Page) : Bool :=
  !inReset s p && (match p with
    | .mgt => bootStage s != 0
    | _ => bootStage s == 7)

/-- PG_STAT.BUSY: an operation is in progress (log 24). -/
def pageBusy (s : State) (p : Page) : Bool :=
  match p with
  | .til t => (List.range 3).any (fun i => leaseState s t i == 1)
  | .seq t => seqActive s t
  | .cmp t => (getTile s t).cmpRun.isSome || !(getTile s t).cmpQ.isEmpty
  | .mov t => !movIdle (getTile s t) || !(getTile s t).movQ.isEmpty
  | .cmb t => !(getTile s t).cmbQ.isEmpty || (getTile s t).cqs.any (fun c => c.arm.isSome || !c.res.isEmpty)
  | .rtr t => !(getTile s t).rin.isEmpty || !(getTile s t).fork.isEmpty
  | .mem x e => !(getEdge s x e).req.isEmpty
  | .osw d => !(getDie s d).osw.isEmpty
  | .llk n => 1 ≤ llkState s n && llkState s n ≤ 4
  | .eth n => !(getEth s n).tx.isEmpty
  | .glz n => !(getGlz s n).q.isEmpty || !(getGlz s n).frags.isEmpty
  | .tkp d => d == 0 && s.tkp.step.isSome
  | .mgt => s.mgt.running.isSome
  | .hif => !s.hif.accs.isEmpty
  | .dbg _ | .scr | .dbgp => false

/-- PG_STAT (Table 3.5). -/
def pgStat (s : State) (p : Page) : Word :=
  BitVec.ofNat 32 (bitNat (pageRdy s p) + 2 * bitNat (pageBusy s p) + 4 * bitNat (stopped s p) + 8 * bitNat (frozen s p)
    + 16 * bitNat (rbit s p 0x018 0) + 32 * bitNat (rbit s p 0x030 31) + 64 * bitNat (rbit s p 0x014 6))

/-! ## The pages of a tile -/

/-- The tile is calibrated (R473, R476): TIL_TIME bit 0 is stored as 1 while the calibration is lost. -/
def calibrated (s : State) (t : Nat) : Bool :=
  bootStage s == 7 && s.mgt.running != some .fabric && !rbit s (.til t) 0x0C0 0

/-- The tree delay that a tile measured: half the round trip, corrected by its asymmetry; never 0 (R473, Table 11.5). -/
def treeDelay (s : State) (t : Nat) : Nat :=
  (max 1 (min 0xFFFFFF ((Config.treeTrip s.mgt.calNo t / 2 : Nat) + tabGet 0 s.fuses.treeAsym t))).toNat

/-- A gate list status with GATES and ENTRY (Table 12.12). -/
def gclStatView (s : State) (g : GPlace) (v : Word) : Word :=
  let x := gPos s g
  setFld (setFld v 15 8 (x.2 % 2 ^ gQueues g)) 23 16 x.1

/-- SEQ registers that follow the contexts (Table 4.11). -/
def seqView (s : State) (t off : Nat) (v : Word) : Word :=
  if off = 0x08C then BitVec.ofNat 32 (freeTm s t)
  else if off = 0x090 then
    BitVec.ofNat 32 (freeCq s t + freeSem s t * 16 + freeRq s t * 2048 + freeLease s t * 65536)
  else if 0x100 ≤ off ∧ off < 0x200 ∧ off % 0x40 = 0x08 then
    setFld v 6 5 (((getCtx s t ((off - 0x100) / 0x40)).brs.filter (fun b => b.res.isNone)).length)
  else v

/-- MOV registers that follow the queues (Table 6.14). -/
def movView (s : State) (t off : Nat) (v : Word) : Word :=
  let x := getTile s t
  if 0x0A0 ≤ off ∧ off < 0x0B0 then
    setFld v 13 1 ((x.movReqs.filter (fun r =>
      r.lc == (off - 0x0A0) / 4 && r.kind == .posted && r.inj.isSome && r.dead.isNone)).length)
  else if off = 0x0B0 then
    BitVec.ofNat 32 (((List.range 4).map (fun q => (iqOf x q).length * 16 ^ q)).sum)
  else if off = 0x804 then gclStatView s (.mov t) v
  else v

/-- CMB registers that follow the channels (Table 10.9). -/
def cmbView (s : State) (t off : Nat) (v : Word) : Word :=
  let x := getTile s t
  if off = 0x088 then BitVec.ofNat 32 x.refusals.length
  else if off = 0x090 then BitVec.ofNat 32 x.resvs.length
  else if 0x100 ≤ off ∧ off < 0x300 ∧ off % 0x20 = 0x14 then
    let n := (off - 0x100) / 0x20
    setFld (setFld v 1 1 (bitNat (x.stalled.any (fun e => e.1 == n)))) 19 2 (heldSum s t (0x10 + n))
  else if 0x300 ≤ off ∧ off < 0x500 then
    let n := (off - 0x300) / 0x40
    let c := (getCq s t n).counts
    (match off % 0x40 with
     | 0x18 => setFld v 21 16 (heldAt s t (8 + n)).length
     | 0x1C => BitVec.ofNat 32 ((c.min?).getD 0)
     | 0x20 => BitVec.ofNat 32 (c.foldl max 0)
     | _ => v)
  else v

/-! ## The other pages -/

/-- Link l of die d is ACTIVE or NARROW (Table 13.6). -/
def oswLinks (s : State) (d : Nat) : Nat :=
  ((List.range 12).map (fun l => if linkUp s (12 * d + l) then 2 ^ l else 0)).sum

/-- Gate, shaper registers at G of an LLK or ETH page. -/
def gateView (s : State) (g : GPlace) (o : Nat) (v : Word) : Word :=
  if o = 0x004 then gclStatView s g v
  else if 0x100 ≤ o ∧ o < 0x180 ∧ o % 0x10 = 0xC then BitVec.ofInt 32 (shpShown s g ((o - 0x100) / 0x10))
  else v

/-- Timekeeper registers that follow network time and the calendar (Table 11.6); TKP1 shows the NT and the status of
TKP0. R78 lets a value read differ from the counter by a tick; the model's reads return the counter (DESIGN CHOICE,
log 66). -/
def tkpView (s : State) (d off : Nat) (v : Word) : Word :=
  if off = 0x088 then BitVec.ofNat 32 (ntOf s)
  else if off = 0x08C then BitVec.ofNat 32 (ntOf s / 2 ^ 32)
  else if off = 0x084 then
    let r := rawReg s (.tkp 0) 0x084
    setFld (setFld r 5 5 (bitNat (tkpTrace s))) 12 8 (tkpHops s)
  else if off = 0x090 then BitVec.ofNat 32 (eraOf s)
  else if off = 0x094 then BitVec.ofNat 32 s.tkp.epoch
  else if off = 0x098 then BitVec.ofNat 32 (s.tkp.epoch / 2 ^ 32 % 65536)
  else if d ≠ 0 then v
  else if off = 0x0E0 then BitVec.ofNat 32 (rtcNow s).1
  else if off = 0x0E4 then BitVec.ofNat 32 ((rtcNow s).1 / 2 ^ 32 % 65536)
  else if off = 0x0E8 then BitVec.ofNat 32 (rtcNow s).2
  else v

/-- The hottest MEM_STAT.TEMP (Table 20.8). -/
def hbmTemp (s : State) : Nat :=
  ((List.range 8).map (fun i => rfld s (.mem (32 * (i % 4)) (i / 4)) 0x084 15 8)).foldl max 0

/-- ARMED of a probe: probe 1 with ARMSEQ has seen a match of probe 0 (R763). -/
def prbArmed (s : State) (t off : Nat) (v : Word) : Nat :=
  if off = 0x140 then bitNat (fld v 0 0 == 1 && (fld v 4 4 == 0 || (getTile s t).prbHit)) else fld v 0 0

/-- The value of a register, without the effect of a read. -/
def regView (s : State) (p : Page) (off : Nat) : Word :=
  let v := rawReg s p off
  if pageReached s p = false ∨ regAt p off = none then 0
  else if off = 0x014 then pgStat s p
  else match p with
    | .til t =>
      if off = 0x0C0 then setFld v 0 0 (bitNat (calibrated s t))
      else if off = 0x0C4 then (if calibrated s t then BitVec.ofNat 32 (treeDelay s t) else 0)
      else v
    | .seq t => seqView s t off v
    | .mov t => movView s t off v
    | .cmb t => cmbView s t off v
    | .rtr _ => if off = 0x08C then BitVec.ofNat 32 (gridX s + gridY s * 256) else v
    | .dbg t => if off = 0x100 ∨ off = 0x140 then setFld v 31 31 (prbArmed s t off v) else v
    | .osw d =>
      if off = 0x080 ∨ off = 0x084 then rawReg s (.osw 0) off
      else if off = 0x090 then BitVec.ofNat 32 (oswLinks s d) else v
    | .llk n => if 0xC00 ≤ off ∧ off < 0xE00 then gateView s (.llk n) (off - 0xC00) v else v
    | .eth n => if 0xC00 ≤ off ∧ off < 0xE00 then gateView s (.eth n) (off - 0xC00) v else v
    | .glz n => if off = 0x084 then setFld v 12 2 (getGlz s n).q.length else v
    | .tkp d => tkpView s d off v
    | .mgt =>
      if off = 0x08C then setFld v 0 0 (bitNat (s.mgt.running.isSome))
      else if off = 0x0A4 then setFld v 23 16 (hbmTemp s)
      else v
    | .scr =>
      if off = 0x0A0 then setFld v 5 0 s.rlog.length
      else if off = 0x0A8 then (rlogHead s).w0
      else if off = 0x0AC then (rlogHead s).w1
      else if off = 0x0B0 then (rlogHead s).w2
      else v
    | .dbgp => if off = 0x084 then setFld (setFld v 0 0 (bitNat (!s.dbg.haltAt.isEmpty))) 1 1 (bitNat s.dbg.frozen) else v
    | _ => v

/-! ## Latched halves and fields that a read clears (R104, R119, R494, R753) -/

/-- The registers that a read of this one latches. -/
def latchedBy (p : Page) (off : Nat) : List Nat :=
  let up (l : List Nat) : List Nat := if l.contains off then [off + 4] else []
  if 0xE00 ≤ off then (if off % 16 = 0 then [off + 4, off + 8, off + 12] else [])
  else match p with
    | .tkp d => if off = 0x0E8 ∧ d = 0 then [0x0E0, 0x0E4] else up [0x088, 0x0C4]
    | .mem _ _ => up [0x08C]
    | .mov _ => if 0x400 ≤ off ∧ off < 0x800 ∧ off % 0x20 = 4 then [off + 4] else up [0x08C, 0x820, 0x828, 0x838]
    | .llk _ | .eth _ => up [0xC20, 0xC28, 0xC38]
    | .glz _ => up [0x090]
    | .dbg _ =>
      if off = 0x084 ∨ (0x200 ≤ off ∧ off < 0x610 ∧ off % 8 = 0) then [off + 4] else []
    | .dbgp => up [0x08C]
    | _ => []

/-- A later read of these registers returns what they hold now. -/
def latch (s : State) (p : Page) (offs : List Nat) : State :=
  offs.foldl (fun a o => { a with latches := tabPut a.latches (regKey p o) (regView s p o) }) s

/-- Bits of a register that a read clears. -/
def rcMask (p : Page) (off : Nat) : Nat :=
  match regAt p off with
  | none => 0
  | some d => (d.flds.map (fun f => if f.acc = .rc then maskOf f.hi f.lo else 0)).sum

/-- A read of a register by software: its value, and what the read leaves. -/
def regRead (s : State) (p : Page) (off : Nat) : Word × State :=
  if pageReached s p = false then (0, s)
  else
    let k := regKey p off
    match s.latches.find? (fun e => e.1 == k) with
    | some e => (e.2, { s with latches := tabDel s.latches k })
    | none =>
      let v := regView s p off
      let s1 := latch s p (latchedBy p off)
      (v, if rcMask p off = 0 then s1 else putReg s1 p off (v &&& ~~~(BitVec.ofNat 32 (rcMask p off))))

end Sys2Proof.Machine
end

