-- ==== Sys2Proof/Machine/RegRange.lean ====
section
/-! DEFINITION. Values that a register refuses (R141): undefined encodings, values out of range, and writes that a rule
discards under R141. -/

namespace Sys2Proof.Machine

/-- A write to a register as the range check sees it: the value before, and the value after (fields that the write leaves
alone, a locked one among them, as before). -/
structure RegChg where
  old : Word
  new : Word
  deriving DecidableEq, Repr

/-- The field as the write leaves it. -/
def RegChg.f (c : RegChg) (hi lo : Nat) : Nat := fld c.new hi lo

/-- The write changes the field. -/
def RegChg.chg (c : RegChg) (hi lo : Nat) : Bool := fld c.new hi lo != fld c.old hi lo

/-- The write changes something. -/
def RegChg.any (c : RegChg) : Bool := c.new != c.old

/-- The write changes the field to a value outside [a, b]. -/
def RegChg.out (c : RegChg) (hi lo a b : Nat) : Bool := c.chg hi lo && (c.f hi lo < a || b < c.f hi lo)

/-- Bytes of TM (R4). -/
def tmBytes : Nat := 196608

/-! ## Tiles -/

/-- Distance of two columns on the row ring (R300). -/
def colDist (s : State) (a b : Nat) : Nat :=
  let n := gridX s
  min ((a + n - b) % n) ((b + n - a) % n)

/-- TM regions that a tile lends. -/
def lentCount (w : Word) : Nat := fld w 0 0 + fld w 1 1 + fld w 2 2

/-- TIL_LEASEi (R300, R301, R304). -/
def leaseBad (s : State) (t i : Nat) (c : RegChg) : Bool :=
  let st := leaseState s t i
  let far := gridX s ≤ c.f 22 16 || colDist s (c.f 22 16) (tileX t) == 0 || 4 < colDist s (c.f 22 16) (tileX t)
  (c.chg 9 8 && c.f 9 8 == 3)
    || (c.any && c.f 0 0 == 1 && (c.f 9 8 == 3 || far))
    || ((c.chg 9 8 || c.chg 22 16) && (st == 1 || st == 2))
    || (c.chg 0 0 && c.f 0 0 == 0 && st == 2 && validLeases s t - 1 < ctxSum s t (·.nlease))

def tilBad (s : State) (t off : Nat) (c : RegChg) : Bool :=
  if 0x100 ≤ off ∧ off < 0x10C then leaseBad s t ((off - 0x100) / 4) c
  else off == 0x110 && c.any && tmBytes < rfld s (.seq t) 0x088 17 0 + 65536 * lentCount c.new

def seqBad (s : State) (t off : Nat) (c : RegChg) : Bool :=
  off == 0x088 && c.any && (tmBytes < c.f 17 0 || c.f 17 0 < ctxSum s t (·.tmb)
    || tmBytes < c.f 17 0 + 65536 * lentCount (rawReg s (.til t) 0x110))

/-- A region of TM given by base and size (Table 10.9). -/
def regionBad (base size : Nat) : Bool := base % 32 != 0 || size % 32 != 0 || tmBytes < base + size

/-- CMB_RQn registers. -/
def rqBad (s : State) (t n r : Nat) (c : RegChg) : Bool :=
  match r with
  | 0x00 => c.out 27 8 0 1000000 || (c.chg 0 0 && c.f 0 0 == 1 && rqSize s t n == 0)
  | 0x04 => rqEn s t n || (c.any && regionBad (c.f 17 0) (rqSize s t n))
  | 0x08 => rqEn s t n || (c.any && (regionBad (rqBase s t n) (c.f 17 0) || (c.f 17 0 != 0 && c.f 17 0 < 64)))
  | _ => false

/-- CMB_CQn registers: while the queue runs a result, none takes a write (R454). -/
def cqBad (s : State) (t n r : Nat) (c : RegChg) : Bool :=
  (r != 0x18 && 2 ≤ cqState s t n && cqState s t n ≤ 4) || (match r with
    | 0x00 => (c.chg 3 1 && c.f 3 1 == 7) || c.out 9 7 0 4
    | 0x04 => (c.chg 16 0 && c.f 16 0 % 8 != 0) || c.out 29 17 1 4096
    | _ => false)

def cmbBad (s : State) (t off : Nat) (c : RegChg) : Bool :=
  if off = 0x084 then c.out 31 20 1 4095
  else if off = 0x0A0 ∨ off = 0x0A8 then c.any && regionBad (c.f 17 0) (rfld s (.cmb t) (off + 4) 17 0)
  else if off = 0x0A4 ∨ off = 0x0AC then c.any && regionBad (rfld s (.cmb t) (off - 4) 17 0) (c.f 17 0)
  else if 0x100 ≤ off ∧ off < 0x300 then rqBad s t ((off - 0x100) / 0x20) (off % 0x20) c
  else 0x300 ≤ off && off < 0x500 && cqBad s t ((off - 0x300) / 0x40) (off % 0x40) c

/-- Tinker's tile page (R774, Table 18.10): 0x10 for a write that R774 discards. -/
def dbgBad (s : State) (t off : Nat) (c : RegChg) : Nat :=
  let base := pairNat s (.dbg t) 0x084 % 2 ^ 48
  let size := rfld s (.dbg t) 0x08C 15 0
  let on := rbit s (.dbg t) 0x080 0
  if off = 0x080 then
    (if c.chg 0 0 && c.f 0 0 == 1 && (base % 2048 != 0 || size == 0 || s.fuses.asm.hole < base + 2048 * size) then 0x10 else 0)
  else if off = 0x084 ∨ off = 0x088 ∨ off = 0x08C then
    (if on then 0x10 else if off = 0x08C ∧ c.out 15 0 1 65535 then 4 else 0)
  else if off = 0x098 ∧ (c.out 4 0 0 30 ∨ c.out 11 8 1 15) then 4
  else 0

/-! ## Gate lists, shapers, meters -/

/-- A table operation that is not defined (R535, R546): the limit of IDX, writes to TBL 1, an undefined meter entry. -/
def tblBad (s : State) (g : GPlace) (v : Word) : Bool :=
  let tbl := fld v 2 0
  let wr := fld v 3 3 == 1
  let idx := fld v 15 8
  let mov : Bool := match g with
    | .mov _ => true
    | _ => false
  let d (k : Nat) : Word := rawReg s (gPage g) (gBase g + 0x84 + 4 * k)
  match tbl with
  | 0 => gLimit g ≤ idx || (wr && (gclState s g == 1 || gclState s g == 3))
  | 1 => gLimit g ≤ idx || wr
  | 2 => mov || 256 ≤ idx || (wr && meterBad (d 0) (d 2))
  | 3 => mov || 256 ≤ idx
  | _ => true

/-- Registers at o from G (R513, R518, R526, R532, Table 12.12). -/
def gateBad (s : State) (g : GPlace) (o : Nat) (c : RegChg) (v : Word) : Bool :=
  let eth : Bool := match g with
    | .eth _ => true
    | _ => false
  if o = 0x000 then 1 < fld v 0 0 + fld v 1 1 + fld v 2 2
  else if o < 0x020 ∧ 0x008 ≤ o then gclState s g == 1 || gclState s g == 3
  else if o = 0x080 then tblBad s g v
  else if 0x100 ≤ o ∧ o < 0x180 ∧ o % 0x10 = 0 then c.any && c.f 31 31 == 1 && c.f 19 0 == 0
  else if 0x100 ≤ o ∧ o < 0x180 ∧ o % 0x10 = 8 then c.chg 7 0 && c.f 7 0 == 0
  else if o = 0x184 then eth && c.chg 1 0 && c.f 1 0 == 3
  else o == 0x188 && eth && (List.range 16).any (fun i => c.chg (2 * i + 1) (2 * i) && c.f (2 * i + 1) (2 * i) == 3)

/-! ## I/O dies -/

/-- Coordinates of a package lie in the pod (R577). -/
def inPod (pkg : Nat) (pod : Word) : Bool :=
  coord pkg 0 < fld pod 4 0 && coord pkg 1 < fld pod 11 8 && coord pkg 2 < fld pod 19 16

def oswBad (s : State) (off : Nat) (c : RegChg) : Bool :=
  let pod := rawReg s (.osw 0) 0x084
  let on := rbit s (.osw 0) 0x088 0 || rbit s (.osw 1) 0x088 0
  if off = 0x080 then c.any && on && !inPod (c.f 9 0) pod
  else if off = 0x084 then
    c.out 4 0 1 16 || c.out 11 8 1 8 || c.out 19 16 1 8 || (c.any && on && !inPod (ownPkg s) c.new)
  else off == 0x088 && c.chg 0 0 && c.f 0 0 == 1 && !inPod (ownPkg s) pod

def llkBad (off : Nat) (c : RegChg) : Bool :=
  (off == 0x080 && c.out 15 12 4 8) || (off == 0x090 && c.chg 3 0 && c.f 3 0 == 0)

/-- Ring registers (R638, R640). -/
def ringBad (s : State) (n : Nat) (tx : Bool) (r o : Nat) (c : RegChg) : Bool :=
  let en := ringEn s n tx r
  match o with
  | 0x0 => c.any && en
  | 0x4 =>
    (en && (c.chg 15 0 || c.chg 22 20))
      || (c.chg 16 16 && c.f 16 16 == 1
          && !ringOk s (ringBase s n tx r % 2 ^ 32 + c.f 15 0 * 2 ^ 32) (ringSize s n tx r))
  | 0x8 => c.chg 31 16 && en
  | _ => c.chg 15 0 && !tailOk (ringSize s n tx r) (ringHead s n tx r) (ringTail s n tx r) (c.f 15 0)

def ethBad (s : State) (n off : Nat) (c : RegChg) : Bool :=
  if off = 0x084 then c.out 13 0 64 9216
  else if off = 0x098 then c.chg 15 8 && c.f 15 8 == 0
  else if 0x400 ≤ off ∧ off < 0x800 then ringBad s n false ((off - 0x400) / 0x10) (off % 0x10) c
  else 0x800 ≤ off && off < 0xC00 && ringBad s n true ((off - 0x800) / 0x10) (off % 0x10) c

/-- The bin extension of a Glazier (R684). -/
def binxBad (s : State) (n : Nat) (c : RegChg) (base size rsv : Nat) : Bool :=
  (glzState s n != 0 && glzState s n != 3) || (c.any && (base % 2048 != 0
    || (size != 0 && s.fuses.asm.hole < base + size * 1048576) || 4096 < size || 2048 + 1024 * size < rsv))

def glzBad (s : State) (n off : Nat) (c : RegChg) : Bool :=
  let p := Page.glz n
  let lo := (rawReg s p 0x0A4).toNat
  let hi := rfld s p 0x0A8 15 0
  let size := rfld s p 0x0AC 12 0
  let rsv := rfld s p 0x0B0 11 0
  if off = 0x08C then glzHead s n != glzTail s n
  else if off = 0x090 then c.any && c.new.toNat % 32 != 0
  else if off = 0x098 then c.chg 15 0 && c.f 15 0 == 1
  else if off = 0x0A0 then c.chg 15 0 && !tailOk (glzSize s n) (glzHead s n) (glzTail s n) (c.f 15 0)
  else if off = 0x0A4 then binxBad s n c (c.new.toNat + hi * 2 ^ 32) size rsv
  else if off = 0x0A8 then binxBad s n c (lo + c.f 15 0 * 2 ^ 32) size rsv
  else if off = 0x0AC then binxBad s n c (lo + hi * 2 ^ 32) (c.f 12 0) rsv
  else off == 0x0B0 && c.chg 11 0 && (c.f 11 0 < 64 || 2048 + 1024 * size < c.f 11 0)

/-- SRCPORT judged against SRC of the same value (Table 11.6). -/
def srcPortBad (s : State) (c : RegChg) : Bool :=
  let k := s.fuses.asm.ioDies
  (c.chg 1 0 || c.chg 9 4) && (match c.f 1 0 with
    | 3 => 12 * k ≤ c.f 9 4
    | 2 => 2 * k ≤ c.f 9 4
    | _ => false)

def tkpBad (s : State) (off : Nat) (c : RegChg) (v : Word) : Bool :=
  if off = 0x080 then srcPortBad s c
  else if off = 0x0A0 then c.any && c.new == 0x80000000
  else if off = 0x0AC then stepBad s (stepOf s.tkp.stepLo v)
  else if off = 0x0C0 then c.chg 15 8 && c.f 15 8 == 0
  else 0x200 ≤ off && off < 0x380 && off % 0x20 == 0 && c.chg 1 0 && c.f 1 0 == 3

/-! ## Package pages -/

def mgtBad (s : State) (off : Nat) (c : RegChg) (v : Word) : Bool :=
  if off = 0x088 then
    fld v 2 2 == 1 && (gridX s ≤ tileX (fld v 29 16) || gridY s ≤ tileY (fld v 29 16))
  else if off = 0x0A8 then c.out 7 0 60 110 || c.out 15 8 1 20 || c.out 23 16 5 50
  else off == 0x0AC && (List.range 4).any (fun q => c.out (8 * q + 7) (8 * q) 24 80)

def scrBad (s : State) (off : Nat) (c : RegChg) (v : Word) : Bool :=
  if off = 0x080 then c.chg 15 8 && c.f 15 8 == 0
  else if off = 0x094 then !resourceExists s (fld v 2 0) (fld v 31 8)
  else 0x100 ≤ off && off < 0x140 && c.any && bucketWriteBad s ((off - 0x100) / 8) (off % 8 == 4) c.new

/-- The error code of a write that is discarded whole: 0 for none, 4 RANGE, 0x10 for what R774 discards. -/
def rangeCode (s : State) (p : Page) (off : Nat) (c : RegChg) (v : Word) : Nat :=
  let r (b : Bool) : Nat := if b then 4 else 0
  match p with
  | .til t => r (tilBad s t off c)
  | .seq t => r (seqBad s t off c)
  | .mov t => r (0x800 ≤ off && gateBad s (.mov t) (off - 0x800) c v)
  | .cmb t => r (cmbBad s t off c)
  | .rtr _ => r (off == 0x080 && c.chg 1 0 && c.f 1 0 == 3)
  | .dbg t => dbgBad s t off c
  | .osw _ => r (oswBad s off c)
  | .llk n => r (llkBad off c || (0xC00 ≤ off && off < 0xE00 && gateBad s (.llk n) (off - 0xC00) c v))
  | .eth n => r (ethBad s n off c || (0xC00 ≤ off && off < 0xE00 && gateBad s (.eth n) (off - 0xC00) c v))
  | .glz n => r (glzBad s n off c)
  | .tkp _ => r (tkpBad s off c v)
  | .mgt => r (mgtBad s off c v)
  | .scr => r (scrBad s off c v)
  | .hif => r (off == 0x080 && c.chg 31 12 && c.f 31 12 == 0)
  | .cmp _ | .mem _ _ | .dbgp => 0

end Sys2Proof.Machine
end

