-- ==== Sys2Proof/Machine/RegOps.lean ====
section
/-! DEFINITION. Register writes: byte enables, locks, range, hardware-owned registers, collisions with hardware updates, and
what a write of each register sets going. -/

namespace Sys2Proof.Machine

/-- A register access: who makes it, byte enables of a host write, the hardware update that collides with it, the tags
of the REGWR, and what the environment adds (routers that a test finds failed, R394). -/
structure RegAcc where
  src : Src
  be : BitVec 4 := 0xF
  hw : Option HwUpd := none
  tag : Half := 0
  layer : Half := 0
  oper : Half := 0
  env : List Nat := []
  deriving DecidableEq, Repr

/-- A software-access error (R125, R126); PG_ELOG3 holds the source node of a REGWR. -/
def regErr (s : State) (a : RegAcc) (p : Page) (code : Nat) : State :=
  match a.src with
  | .fabric n => capture s p code a.tag a.layer a.oper n none 0
  | _ => captureOpen false s p code a.tag a.layer a.oper none 0

/-! ## Fields (R113, R122) -/

/-- A field under a write (Table 3.7). -/
def applyFld (v : Word) (lk : Bool) (w : Word) (f : Fld) : Word :=
  match f.acc with
  | .rw => setFld w f.hi f.lo (fld v f.hi f.lo)
  | .rwl => if lk then w else setFld w f.hi f.lo (fld v f.hi f.lo)
  | .rw1c => setFld w f.hi f.lo (fld w f.hi f.lo - (fld w f.hi f.lo &&& fld v f.hi f.lo))
  | .rw1s => setFld w f.hi f.lo (fld w f.hi f.lo ||| fld v f.hi f.lo)
  | .ro | .wo | .rc => w

def applyAll (old v : Word) (lk : Bool) (fs : List Fld) : Word := fs.foldl (applyFld v lk) old

/-- A locked field would have changed (R122). -/
def lockHit (old v : Word) (lk : Bool) (fs : List Fld) : Bool :=
  lk && fs.any (fun f => f.acc == .rwl && fld v f.hi f.lo != fld old f.hi f.lo)

/-- Every field of the register is RO with code H (R120). -/
def hwOwned (fs : List Fld) : Bool := !fs.isEmpty && fs.all (fun f => f.acc == .ro && f.col == .h)

/-! ## Collisions (R116 to R121) -/

/-- A colliding hardware addition: on a semaphore under the saturation rules of R158, as a SIGNAL's (Table 4.9). -/
def hwAdd (s : State) (p : Page) (off : Nat) (f : Fld) (v : Nat) : State :=
  match p with
  | .seq t => if off / 0x100 = 4 then semOp s t 0 (off % 0x100 / 4) 1 (BitVec.ofNat 32 v) else addFld s p off f.hi f.lo v
  | _ => addFld s p off f.hi f.lo v

/-- A hardware update of a field of the accessed register, after the access (Table 3.8). An update of
PG_ELOG0.V stands for a new error with the code `val`, one of PG_ISR for the bits of `val`. -/
def hwApply (s : State) (p : Page) (off : Nat) (d : RegDef) (h : HwUpd) : State :=
  match d.flds.find? (fun f => f.hi == h.hi && f.lo == h.lo) with
  | none => s
  | some f =>
    match f.col with
    | .s | .n => s
    | .sh => hwAdd s p off f h.val
    | .h =>
      if f.acc = .ro then putFld s p off f.hi f.lo h.val
      else if off = 0x020 ∧ f.lo = 0 then putFld s p off f.hi f.lo (rfld s p off f.hi f.lo ||| (h.val &&& isrSources p))
      else if off = 0x030 then captureOpen false s p (h.val % 256) 0 0 0 none 0
      else if f.acc = .rc then
        (if h.inc then addFld s p off f.hi f.lo h.val
         else putFld s p off f.hi f.lo (max (rfld s p off f.hi f.lo) (h.val % 2 ^ (f.hi + 1 - f.lo))))
      else putFld s p off f.hi f.lo (rfld s p off f.hi f.lo ||| h.val)

def hwMaybe (s : State) (p : Page) (off : Nat) (d : RegDef) (h : Option HwUpd) : State :=
  match h with
  | some u => hwApply s p off d u
  | none => s

/-- The interrupt line of a page rises over an access to PG_ISR or PG_IER (R127). -/
def lineRise (s0 s : State) (p : Page) : State :=
  if irqLine s0 p = false ∧ irqLine s p then sillage (irqMessage s p) p 0x07 false 0 0 (rawReg s p 0x020) else s

/-- The hardware update of a write that is itself discarded. -/
def hwAlone (s : State) (p : Page) (off : Nat) (d : RegDef) (h : Option HwUpd) : State :=
  if off = 0x020 then lineRise s (hwMaybe s p off d h) p else hwMaybe s p off d h

/-! ## What writes set going -/

/-- Engine of a page: tile and number (Table 18.10). -/
def pageEngine : Page → Option (Nat × Nat)
  | .seq t => some (t, 0)
  | .cmp t => some (t, 1)
  | .mov t => some (t, 2)
  | .cmb t => some (t, 3)
  | _ => none

/-- PG_PERF_CTL.CLR (R751). -/
def perfClear (s : State) (p : Page) : State :=
  match pageEngine p with
  | none => s
  | some (t, e) =>
    let d := Page.dbg t
    let s1 := resetRegs (resetRegs s d (0x200 + 0x20 * e) (0x210 + 0x20 * e)) d (0x400 + 0x80 * e) (0x468 + 0x80 * e)
    match e with
    | 0 => resetRegs s1 d 0x600 0x608
    | 2 => resetRegs s1 d 0x608 0x620
    | _ => s1

/-- PG_EVR_CTL.CLR: the ring is empty (Table 3.5). -/
def ringClear (s : State) (p : Page) : State := putReg (resetRegs s p 0xE00 0x1000) p 0x054 0

/-- The common header (Table 3.5). PG_CTL.SRST reads 0 unless the block still drains; an engine reset that a running one of
equal or wider scope meets is dropped (R794), as is one while THERMTRIP_N is low (R817). PG_IFR sets no reserved bit of PG_ISR
(R28). -/
def headHook (s0 s : State) (p : Page) (off : Nat) (old v : Word) : State :=
  match off with
  | 0x010 =>
    if fld old 1 1 = 1 then
      let s1 := putBit s p 0x010 1 true
      if fld v 1 1 = 1 ∧ rbit s p 0x018 0 = false then rstDrop s1 else s1
    else if rbit s p 0x010 1 then
      let s1 := putBit s p 0x010 1 false
      if s.mgt.thermtrip then s1 else if s.mgt.running.isSome then rstDrop s1 else srst s1 p
    else s
  | 0x020 | 0x024 => lineRise s0 s p
  | 0x028 => isrSet s p (v &&& BitVec.ofNat 32 (2 ^ 31 + isrSources p))
  | 0x030 => if fld v 31 31 = 1 then putBit s p 0x030 30 false else s
  | 0x050 => if fld v 2 2 = 1 then ringClear s p else s
  | 0x060 => if fld v 1 1 = 1 then perfClear s p else s
  | _ => s

/-- TIL_LEASEi.REQ goes to 1: the request for the lender's TIL_LEND (R302). An isolated tile sends nothing (R386). -/
def leaseStart (s : State) (t i : Nat) : State :=
  let n := freshTag s t 1 16384 (getTile s t).nextTag
  let tag : Half := BitVec.ofNat 16 n
  let lx := rfld s (.til t) (0x100 + 4 * i) 22 16
  let q : Packet := { dst := mkNode (ownPkg s) (tileY t) lx 0 1, src := tileNode s t 1, opc := opREGRD, tag := tag,
                      addr := 0x110, tc := iqTc s t 0 }
  let s1 := putFld s (.til t) (0x100 + 4 * i) 2 1 1
  if isolated s t then s1
  else modTile s1 t (fun x => { x with
    nextTag := (n + 1) % 16384, leaseReq := tabPut x.leaseReq i (tag, none), out := x.out ++ [q] })

def tilHook (s : State) (t off : Nat) (old : Word) : State :=
  if off = 0x084 then (if rbit s (.til t) 0x084 0 && fld old 0 0 == 0 then isolate s t 1 else s)
  else if 0x100 ≤ off ∧ off < 0x10C then
    let i := (off - 0x100) / 4
    let req := rfld s (.til t) off 0 0
    if req = fld old 0 0 then s else if req = 1 then leaseStart s t i else leaseSet s t i 0
  else s

/-- LOAD of a context is requested (R200). -/
def loadAsk (s : State) (t lc : Nat) : State :=
  modTile s t (fun x => if x.loads.contains lc then x else { x with loads := x.loads ++ [lc] })

/-- PREDCLR (R185). -/
def predClear (s : State) (t : Nat) : State := modTile s t (fun x => { x with pred := [] })

def seqHook (s : State) (t off : Nat) (v : Word) : State :=
  if off = 0x080 then (if fld v 1 1 = 1 then predClear s t else s)
  else if 0x100 ≤ off ∧ off < 0x200 ∧ off % 0x40 = 4 then
    let lc := (off - 0x100) / 0x40
    let s1 := if fld v 0 0 = 1 then loadAsk s t lc else s
    if fld v 1 1 = 1 then abortCtx s1 t lc else s1
  else s

/-- MOV_PEL_CTL.CLR (R284). -/
def pelClear (s : State) (t : Nat) : State := resetRegs (putReg s (.mov t) 0x088 0) (.mov t) 0x200 0x300

/-! ### Gates, shapers, meters -/

/-- An entry of a list as the table port shows it (Table 12.2). -/
def tblEntry (s : State) (g : GPlace) (e : GEntry) : State :=
  let p := gPage g
  let o := gBase g + 0x84
  putReg (putReg (putReg (putReg s p o (BitVec.ofNat 32 e.dur)) p (o + 4) (BitVec.ofNat 32 e.gates.toNat)) p (o + 8) 0)
    p (o + 12) 0

/-- Four words into TBL_D0 to TBL_D3. -/
def tblPut (s : State) (g : GPlace) (a b c d : Word) : State :=
  let p := gPage g
  let o := gBase g + 0x84
  putReg (putReg (putReg (putReg s p o a) p (o + 4) b) p (o + 8) c) p (o + 12) d

/-- A read operation of the table port (R546). -/
def tblGet (s : State) (g : GPlace) (tbl idx : Nat) : State :=
  let m := getMtr s g idx
  match tbl with
  | 0 => tblEntry s g (tabGet {} (getGcl s g).adm idx)
  | 1 => tblEntry s g (tabGet {} (getGcl s g).oper idx)
  | 2 => tblPut s g m.d0 m.d1 m.d2 m.d3
  | _ => tblPut s g (BitVec.ofNat 32 m.green) (BitVec.ofNat 32 m.yellow) (BitVec.ofNat 32 m.red) 0

/-- A write operation of the table port (R535, R546, R711). Reserved bits of an entry stay 0 (R503). -/
def tblSet (s : State) (g : GPlace) (tbl idx : Nat) : State :=
  let d (k : Nat) : Word := rawReg s (gPage g) (gBase g + 0x84 + 4 * k)
  match tbl with
  | 0 =>
    let e : GEntry := ⟨(d 0).toNat, BitVec.ofNat 8 ((d 1).toNat % 2 ^ gQueues g)⟩
    modGcl s g (fun x => { x with adm := tabPut x.adm idx e, inStep := false })
  | 2 =>
    let m : Meter := { getMtr s g idx with
      d0 := d 0 &&& 0xFFFFF007, d1 := d 1 &&& 0xFFFFFF, d2 := d 2 &&& 0xFFFFF, d3 := d 3 &&& 0xFFFFFF }
    setMtr s g idx { m with cTok := m.cbs, eTok := m.ebs, at_ := gTime s }
  | 3 => setMtr s g idx { getMtr s g idx with green := (d 0).toNat, yellow := (d 1).toNat, red := (d 2).toNat }
  | _ => s

/-- TBL_CMD has been written (R546). -/
def tblOp (s : State) (g : GPlace) (v : Word) : State :=
  if fld v 3 3 = 1 then tblSet s g (fld v 2 0) (fld v 15 8) else tblGet s g (fld v 2 0) (fld v 15 8)

/-- GCL_CTL has been written (Table 12.5); an accepted CHG restores the bucket of the pair (Table 17.3). -/
def gclWritten (s : State) (g : GPlace) (v : Word) : State :=
  if fld v 0 0 = 1 then
    let s1 := gclChg s g
    if gclBad s g = 0 then bucketRestore s1 6 (gateInst g) else s1
  else if fld v 1 1 = 1 then gclCancel s g
  else if fld v 2 2 = 1 then gclHalt s g
  else s

/-- A shaper is brought up to date under the rates that held so far (R522, R527). -/
def shpKeep (s : State) (g : GPlace) (o : Nat) : State :=
  if 0x100 ≤ o ∧ o < 0x180 ∧ o % 0x10 < 8 then shpSet s g ((o - 0x100) / 0x10) (shpCred s g ((o - 0x100) / 0x10)) else s

/-- SHP_CTLt or SHP_CBSt has been written (R525, R527). -/
def shpWritten (s : State) (g : GPlace) (o : Nat) (old : Word) : State :=
  let k := (o - 0x100) / 0x10
  if o % 0x10 = 0 ∧ shpEn s g k ∧ fld old 31 31 = 0 then shpSet s g k ((shpCbs s g k * credUnit : Nat) : Int)
  else shpSet s g k (shpCred s g k)

/-- GCL_CTL has been written over old: a due switch comes first (R517), then IDLE, then the command. -/
def gctlWritten (s : State) (g : GPlace) (old v : Word) : State :=
  let p := gPage g
  let b := gBase g
  let s1 := if gReached s g then putReg (gclSwitch (putReg s p b old) g) p b (rawReg s p b) else s
  let s2 := if fld old 15 8 = rfld s p b 15 8 then s1 else gMark (putReg s1 p b old) s1 g
  gclWritten s2 g v

/-- Registers at o from G. -/
def gateHook (s : State) (g : GPlace) (o : Nat) (old v : Word) : State :=
  if o = 0x000 then gctlWritten s g old v
  else if 0x008 ≤ o ∧ o < 0x020 then modGcl s g (fun x => { x with inStep := false })
  else if o = 0x080 then tblOp s g v
  else if 0x100 ≤ o ∧ o < 0x180 ∧ o % 0x10 < 8 then shpWritten s g o old
  else if 0x100 ≤ o ∧ o < 0x180 ∧ o % 0x10 = 8 then egFix s g
  else s

/-! ### The other pages -/

def cmbHook (s : State) (t off : Nat) (old : Word) : State :=
  if 0x100 ≤ off ∧ off < 0x300 ∧ off % 0x20 = 0 then
    (if fld old 0 0 = 1 ∧ rbit s (.cmb t) off 0 = false then rqDisable s t ((off - 0x100) / 0x20) else s)
  else if 0x300 ≤ off ∧ off < 0x500 ∧ off % 0x40 = 0 then cqEnWrite s t ((off - 0x300) / 0x40) (rbit s (.cmb t) off 0)
  else s

/-- LLK_CTL has been written: TRAIN, then DOWN (Table 13.2); TRAIN stays 1 while the link trains. -/
def llkWritten (s : State) (n : Nat) (v : Word) : State :=
  let s1 := if fld v 0 0 = 1 then linkTrain s n else s
  let s2 := if fld v 1 1 = 1 then linkDown s1 n else s1
  if 1 ≤ llkState s2 n ∧ llkState s2 n ≤ 4 then s2 else putBit s2 (.llk n) 0x080 0 false

def ethHook (s : State) (n off : Nat) (old : Word) : State :=
  if 0x400 ≤ off ∧ off < 0xC00 ∧ off % 0x10 = 4 ∧ fld old 16 16 = 1 ∧ rbit s (.eth n) off 16 = false then
    ringOffNow s n (0x800 ≤ off) (off % 0x400 / 0x10)
  else s

/-- TKP registers; under a lock ROLE and RTC_SET are not written, so they set nothing going. -/
def tkpHook (s : State) (d off : Nat) (old v : Word) : State :=
  let lk := rbit s (.tkp d) 0x018 0
  if 0x200 ≤ off then (if off % 0x20 = 0 ∧ lk = false then roleWritten s (12 * d + (off - 0x200) / 0x20) else s)
  else if d ≠ 0 then s
  else match off with
    | 0x080 =>
      let s1 := tkpCtlWritten s old
      if fld v 16 16 = 1 then { s1 with tkp := { s1.tkp with rtcsync := true, rtcReq := fullT s1 } } else s1
    | 0x0A0 => adjWritten s
    | 0x0A4 => { s with tkp := { s.tkp with slewMore := 0 } }
    | 0x0A8 => { s with tkp := { s.tkp with stepLo := v } }
    | 0x0AC => stepAdd s (stepOf s.tkp.stepLo v)
    | 0x0F4 => if lk then s else rtcSetWritten s
    | _ => s

def scrHook (s : State) (off : Nat) (v : Word) : State :=
  if off = 0x094 then scrRetire s (fld v 2 0) (fld v 31 8)
  else if off = 0x0A4 then (if fld v 0 0 = 1 then rlogPop s else s)
  else if 0x100 ≤ off ∧ off < 0x140 then bucketsWritten s ((off - 0x100) / 8)
  else s

/-- What a write of a block's own register does beyond its fields. -/
def pageHook (s : State) (a : RegAcc) (p : Page) (off : Nat) (old v : Word) : State :=
  match p with
  | .til t => tilHook s t off old
  | .seq t => seqHook s t off v
  | .mov t =>
    if off = 0x084 then (if fld v 0 0 = 1 then pelClear s t else s)
    else if 0x800 ≤ off ∧ off < 0x900 then gateHook s (.mov t) (off - 0x800) old v
    else s
  | .cmb t => cmbHook s t off old
  | .dbg t =>
    if off = 0x140 ∧ fld v 0 0 = 1 then modTile s t (fun x => { x with prbHit := false }) else s
  | .llk n =>
    if off = 0x080 then llkWritten s n v
    else if 0xC00 ≤ off ∧ off < 0xE00 then gateHook s (.llk n) (off - 0xC00) old v
    else s
  | .eth n =>
    if 0xC00 ≤ off ∧ off < 0xE00 then gateHook s (.eth n) (off - 0xC00) old v else ethHook s n off old
  | .glz n => if off = 0x0B4 ∧ fld v 0 0 = 1 then glzResume s n else s
  | .tkp d => tkpHook s d off old v
  | .mgt => if off = 0x088 then rstWritten s v a.env else if off = 0x0AC then vsetWritten s else s
  | .scr => scrHook s off v
  | .dbgp => if off = 0x080 then pkgCtlWritten s v else s
  | .cmp _ | .rtr _ | .mem _ _ | .osw _ | .hif => s

/-- What must be settled before a write changes a register: credit under the old rates (R522). -/
def preHook (s : State) (p : Page) (off : Nat) : State :=
  match p with
  | .llk n => if 0xC00 ≤ off then shpKeep s (.llk n) (off - 0xC00) else s
  | .eth n => if 0xC00 ≤ off then shpKeep s (.eth n) (off - 0xC00) else s
  | _ => s

/-- A write that is not discarded: its fields, a colliding update, what it sets going. -/
def regEffect (s : State) (a : RegAcc) (p : Page) (off : Nat) (d : RegDef) (old new v : Word) : State :=
  let s0 := preHook s p off
  let s1 := if new = old then s0 else putReg s0 p off new
  let s2 := hwMaybe s1 p off d a.hw
  if off < 0x080 then headHook s0 s2 p off old v else pageHook s2 a p off old v

/-! ## The write (R102, R106, R107, R110, R122, R141) -/

/-- Registers that mirror those of IOW and ignore writes (R467, R577). -/
def mirrored (p : Page) (off : Nat) : Bool :=
  match p with
  | .osw d => d != 0 && (off == 0x080 || off == 0x084)
  | .tkp d => d != 0 && off == 0x084
  | _ => false

/-- SRST of CMP, MOV or CMB while a context is active (R793). -/
def srstBad (s : State) (p : Page) (off : Nat) (c : RegChg) : Bool :=
  off == 0x010 && c.f 1 1 == 1 && (match p with
    | .cmp t | .mov t | .cmb t => seqActive s t
    | _ => false)

/-- The code of a write that is discarded whole; 0 for none. -/
def discardCode (s : State) (p : Page) (off : Nat) (c : RegChg) (v : Word) : Nat :=
  if off < 0x080 then (if srstBad s p off c then 4 else 0) else rangeCode s p off c v

/-- The register that a write reaches; the sillage window holds none (R110, R752; log 27). -/
def writeAt (s : State) (p : Page) (off : Nat) : Option RegDef :=
  if pageReached s p = false ∨ mirrored p off ∨ 0xE00 ≤ off then none else regAt p off

/-- A write of a whole register that reaches it: status of Table 3.4, and the state after it. RANGE takes precedence over
LOCKED, LOCKED over HWOWN (R107). -/
def regWriteAt (s : State) (a : RegAcc) (p : Page) (off : Nat) (v : Word) (d : RegDef) : Nat × State :=
  let lk := rbit s p 0x018 0
  let old := rawReg s p off
  let new := applyAll old v lk d.flds
  let code := discardCode s p off ⟨old, new⟩ v
  if lk ∧ p = .mgt ∧ off = 0x088 then
    (if fld v 2 0 = 0 then (0, hwAlone s p off d a.hw) else (2, regErr s a p 2))
  else if code ≠ 0 then (3, regErr (hwAlone s p off d a.hw) a p code)
  else
    let s1 := regEffect s a p off d old new v
    if lockHit old v lk d.flds then (2, regErr s1 a p 2)
    else if hwOwned d.flds then (1, regErr s1 a p 1)
    else (0, s1)

/-- A register write. -/
def regWrite (s : State) (a : RegAcc) (p : Page) (off : Nat) (v : Word) : Nat × State :=
  match writeAt s p off with
  | none => (0, s)
  | some d =>
    if a.src = .host ∧ a.be = 0 then (0, s)
    else if a.src = .host ∧ a.be ≠ 0xF then (0, regErr (hwAlone s p off d a.hw) a p 3)
    else regWriteAt s a p off v d

/-- A write with every byte enabled that collides with nothing. -/
def regPut (s : State) (src : Src) (p : Page) (off : Nat) (v : Word) : State := (regWrite s { src := src } p off v).2

/-- A read whose value goes to the requester (log 7). -/
def regGet (s : State) (src : Src) (p : Page) (off : Nat) : State :=
  let (v, s1) := regRead s p off
  emit s1 (.value src p off v)

/-- A read of a read-clear field, with hardware updates before and after the instant of sampling (R119). -/
def regGetRc (s : State) (src : Src) (p : Page) (off : Nat) (before after : Option HwUpd) : State :=
  match regAt p off with
  | none => regGet s src p off
  | some d => hwMaybe (regGet (hwMaybe s p off d before) src p off) p off d after

/-! ## REGRD and REGWR (R96 to R99, R105, R106) -/

/-- The answer leaves, unless the write has started a reset that covers the place (Table 19.4): MGT_RST lies on IOW, which
of its three resets the cold one alone covers. -/
def regAnswer (s0 s : State) (pl : Place) (a : Packet) : State :=
  if s.mgt.running ≠ s0.mgt.running ∧ s.mgt.running = some .cold then s else answerAt s pl a

/-- The value that a REGRD or REGWR reads or writes. -/
def regServe (s : State) (pl : Place) (q : Packet) : State :=
  let me := meAt s pl q
  let a := q.addr.toNat
  if regAddrOk q.dst a = false then answerAt s pl (nakPkt me q nkHOLE)
  else
    let off := a % 0x1000
    let rsp := response me q opREGRSP
    match regPage s q.dst a with
    | none => answerAt s pl (if q.opc = opREGRD then withPayload rsp (leBytes 4 0) else rsp)
    | some p =>
      if q.opc = opREGRD then
        let (v, s1) := regRead s p off
        answerAt s1 pl (withPayload rsp (leBytes 4 v.toNat))
      else
        let src : Src := if q.be = 0xF then .fabric q.src else .host
        let acc : RegAcc := { src := src, be := q.be, tag := q.tag, layer := q.layer, oper := q.oper }
        let (st, s1) := regWrite s acc p off (BitVec.ofNat 32 (leNat ((payload q).take 4)))
        regAnswer s s1 pl { rsp with aux := BitVec.ofNat 32 st }

/-- A REGRD or REGWR at the head of a place. -/
def regReq (s : State) (pl : Place) (op : BitVec 8) : State :=
  match reqHead s pl op with
  | none => s
  | some q =>
    match pl with
    | .tile t =>
      if (getTile s t).stalled.isSome then s else serveTile s t q (fun s => regServe (popReq s pl) pl q)
    | .mem x e => if edgePop s x e then serveEdge s pl q (fun s => regServe s pl q) else s
    | .io d => if dieFitted s d then serveEdge s pl q (fun s => regServe s pl q) else s

end Sys2Proof.Machine
end

