-- ==== Sys2Proof/Machine/Bringup.lean ====
section
/-! DEFINITION. Power, boot, resets, temperature and VCORE. -/

namespace Sys2Proof.Machine

/-- R789, R817. -/
def execVstbyValid (s : State) : Host.Outcome State Fault Refusal := .next (vstbyValid s)

/-- R781 to R786, R394, R473, R491. -/
def execBoot (slotA slotB : Image) (railsOk : Bool) (failed untrained : List Nat) (s : State) :
    Host.Outcome State Fault Refusal :=
  .next (boot s slotA slotB railsOk failed untrained)

/-- R780. -/
def execRailTimeout (s : State) : Host.Outcome State Fault Refusal := .next (railTimeout s)

/-- R778. -/
def execVstbyLoss (s : State) : Host.Outcome State Fault Refusal := .next (vstbyLoss s)

/-- R789, R794. -/
def execPerstN (s : State) : Host.Outcome State Fault Refusal := .next (rstWarm s)

/-- R789, R794. -/
def execCold (src : Src) (s : State) : Host.Outcome State Fault Refusal := .next (regPut s src .mgt 0x088 1)

/-- R792, R794. -/
def execFabric (src : Src) (failed : List Nat) (s : State) : Host.Outcome State Fault Refusal :=
  .next (regWrite s { src := src, env := failed } .mgt 0x088 2).2

/-- R791, R794, R795. -/
def execTile (src : Src) (tidx : Nat) (s : State) : Host.Outcome State Fault Refusal :=
  .next (regPut s src .mgt 0x088 (BitVec.ofNat 32 (4 + tidx % 16384 * 65536)))

/-- R795, R796. -/
def execResetComplete (s : State) : Host.Outcome State Fault Refusal := .next (rstComplete s)

/-- R816, R817. -/
def execThermtrip (s : State) : Host.Outcome State Fault Refusal := .next (thermTrip s)

/-- R813. -/
def execTempReport (cd : List Nat) (iow ioe : Nat) (s : State) : Host.Outcome State Fault Refusal :=
  .next (tempReport s cd iow ioe)

/-- R814. -/
def execThrottleReview (s : State) : Host.Outcome State Fault Refusal := .next (throttleReview s)

/-- R815. -/
def execMgtVset (src : Src) (v : Word) (s : State) : Host.Outcome State Fault Refusal := .next (regPut s src .mgt 0x0AC v)

end Sys2Proof.Machine
end

