-- ==== Sys2Proof/Machine/Cmb.lean ====
section
/-! DEFINITION. Cooper: messages, contributions, reservations, and the commands and timers of CMB; the SEM endpoint. -/

namespace Sys2Proof.Machine

/-- A request of an opcode at the head of a tile's port, when the CMB serves it: not halted, nothing stalled (R411, R728). -/
def cmbReq (s : State) (t : Nat) (op : BitVec 8) : Option Packet :=
  (reqHead s (.tile t) op).filter (fun q =>
    (getTile s t).stalled.isNone && !((epKind q.dst == .rq || epKind q.dst == .cq) && stopped s (.cmb t)))

/-- R403 to R415. -/
def execMsg (t : Nat) (s : State) : Host.Outcome State Fault Refusal :=
  match cmbReq s t opMSG with
  | some q => .next (serveTile s t q (fun s => rqMessage s t q))
  | none => .next s

/-- R433 to R437; an edge holds no CQ and refuses the form (R336). -/
def execContrib (p : Place) (flt : List UFault) (s : State) : Host.Outcome State Fault Refusal :=
  match p with
  | .tile t =>
    match cmbReq s t opCONTRIB with
    | some q => .next (serveTile (addFaults s flt) t q (fun s => cqContrib s t q))
    | none => .next s
  | p =>
    match reqHead s p opCONTRIB with
    | some q => .next (serveEdge s p q (fun s => s))
    | none => .next s

/-- R404, R446. -/
def execCres (t : Nat) (s : State) : Host.Outcome State Fault Refusal :=
  match cmbReq s t opCRES with
  | some q => .next (serveTile s t q (fun s => if epKind q.dst = .rq then rqMessage s t q else tmWrite s t q))
  | none => .next s

/-- R229, R230. -/
def execResv (t : Nat) (s : State) : Host.Outcome State Fault Refusal :=
  match cmbReq s t opRESV with
  | some q => .next (serveTile s t q (fun s => resvTake s t q))
  | none => .next s

/-- R234. -/
def execConf (t : Nat) (s : State) : Host.Outcome State Fault Refusal :=
  match cmbReq s t opCONF with
  | some q => .next (serveTile s t q (fun s => resvConf s t q))
  | none => .next s

/-- R234. -/
def execWdrw (t : Nat) (s : State) : Host.Outcome State Fault Refusal :=
  match cmbReq s t opWDRW with
  | some q => .next (serveTile s t q (fun s => resvWdrw s t q))
  | none => .next s

/-- R159. -/
def execSignal (t : Nat) (s : State) : Host.Outcome State Fault Refusal :=
  match cmbReq s t opSIGNAL with
  | some q => .next (serveTile s t q (fun s => semSignal s t q))
  | none => .next s

/-- R417 to R419. -/
def execDeq (t : Nat) (flt : List UFault) (s : State) : Host.Outcome State Fault Refusal :=
  match cmbHead s t 0x01 with
  | some q => .next (deqRun (addFaults s flt) t q)
  | none => .next s

/-- R417, R419. -/
def execDrop (t : Nat) (s : State) : Host.Outcome State Fault Refusal :=
  match cmbHead s t 0x02 with
  | some q => .next (dropRun s t q)
  | none => .next s

/-- R430, R431. -/
def execCqarm (t : Nat) (s : State) : Host.Outcome State Fault Refusal :=
  match cmbHead s t 0x10 with
  | some q => .next (armRun s t q)
  | none => .next s

/-- R431. -/
def execCqArmed (t n : Nat) (s : State) : Host.Outcome State Fault Refusal :=
  if cqState s t n = 2 ∧ (getCq s t n).arm.isSome ∧ cmbLive s t then
    .next (modCq (cqSetState s t n 3) t n (fun c => { c with arm := none }))
  else .next s

/-- R453, R455. -/
def execCqrst (t : Nat) (s : State) : Host.Outcome State Fault Refusal :=
  match cmbHead s t 0x11 with
  | some q => .next (cqrstRun s t q)
  | none => .next s

/-- R408, R409: at the end of HOLD a message that fits is written, any other is refused. -/
def execBpHoldExpiry (t n : Nat) (s : State) : Host.Outcome State Fault Refusal :=
  match (getTile s t).stalled with
  | some (m, _) => .next (if m = n then stallOver s t else s)
  | none => .next s

/-- R414. -/
def execRefusalEntryExpiry (t n : Nat) (s : State) : Host.Outcome State Fault Refusal :=
  match (getTile s t).refusals[n]? with
  | some r =>
    match r.due with
    | some d => .next (modTile (atLeast s d) t (fun x => { x with refusals := x.refusals.eraseIdx n }))
    | none => .next s
  | none => .next s

/-- R234, R460: a reservation left HELD for 1 ms. -/
def execResvHeldExpiry (t : Nat) (who ep : Word) (tag : Half) (s : State) : Host.Outcome State Fault Refusal :=
  match (getTile s t).resvs.find? (fun r => r.src == who && r.ep == ep.toNat && r.tag == tag && !r.confirmed) with
  | some r => if cmbLive s t then .next (resvExpire (atLeast s r.due) t r) else .next s
  | none => .next s

/-- R234, R460: a CONFIRMED reservation whose payload has not arrived within CONFTO. -/
def execConfTimeout (t : Nat) (who ep : Word) (tag : Half) (s : State) : Host.Outcome State Fault Refusal :=
  match (getTile s t).resvs.find? (fun r => r.src == who && r.ep == ep.toNat && r.tag == tag && r.confirmed) with
  | some r => if cmbLive s t then .next (resvExpire (atLeast s r.due) t r) else .next s
  | none => .next s

/-- R451. -/
def execCmbResend (t n : Nat) (tag : Half) (s : State) : Host.Outcome State Fault Refusal :=
  match (getCq s t n).res.find? (fun r => r.tag == tag && r.due.isSome) with
  | some r =>
    if cmbLive s t then
      let s1 := atLeast s (r.due.getD 0)
      .next (cmbPump (resPut s1 t n tag (some { r with due := none, inj := none, queued := false, tries := r.tries + 1 })) t)
    else .next s
  | none => .next s

/-- R279. -/
def execWrackTimer (p : Place) (me src : Word) (s : State) : Host.Outcome State Fault Refusal :=
  match (acksAt s p).find? (fun a => a.me == me && a.src == src) with
  | some a => .next (ackSend (atLeast s (a.since + ticks 500)) p a)
  | none => .next s

/-- R307. -/
def execLeaseDelivery (t : Nat) (tag : Half) (s : State) : Host.Outcome State Fault Refusal :=
  match (getTile s t).leaseHeld.find? (fun h => h.tag == tag), reqOf (getTile s t) tag with
  | some h, some r =>
    if movRuns s t then
      let s1 := atLeast s ((leaseEarly s r).getD 0)
      .next (movDeliver (modTile s1 t (fun x => { x with leaseHeld := x.leaseHeld.filter (· != h) })) t r h.pkt)
    else .next s
  | _, _ => .next s

end Sys2Proof.Machine
end

