-- ==== Sys2Proof/Machine/Cmp.lean ====
section
/-! DEFINITION. CMP: a command of Table 6.3 starts; the running command completes. -/

namespace Sys2Proof.Machine

/-- R253. -/
def execTdesc (t : Nat) (s : State) : Host.Outcome State Fault Refusal :=
  match cmpHead s t with
  | some q => if cwEng q.word = 1 ∧ cwOpc q.word = 0x01 then .next (tdescRun s t q) else .next s
  | none => .next s

/-- R256: opcode 0x10 of Table 6.3. -/
def execMm (t : Nat) (flt : List UFault) (s : State) : Host.Outcome State Fault Refusal := .next (cmpStart s t 0x10 flt)

/-- R256: opcode 0x11 of Table 6.3. -/
def execMma (t : Nat) (flt : List UFault) (s : State) : Host.Outcome State Fault Refusal := .next (cmpStart s t 0x11 flt)

/-- R256: opcode 0x12 of Table 6.3. -/
def execMmt (t : Nat) (flt : List UFault) (s : State) : Host.Outcome State Fault Refusal := .next (cmpStart s t 0x12 flt)

/-- R256: opcode 0x20 of Table 6.3. -/
def execAdd (t : Nat) (flt : List UFault) (s : State) : Host.Outcome State Fault Refusal := .next (cmpStart s t 0x20 flt)

/-- R256: opcode 0x21 of Table 6.3. -/
def execSub (t : Nat) (flt : List UFault) (s : State) : Host.Outcome State Fault Refusal := .next (cmpStart s t 0x21 flt)

/-- R256: opcode 0x22 of Table 6.3. -/
def execMul (t : Nat) (flt : List UFault) (s : State) : Host.Outcome State Fault Refusal := .next (cmpStart s t 0x22 flt)

/-- R256: opcode 0x23 of Table 6.3. -/
def execMax (t : Nat) (flt : List UFault) (s : State) : Host.Outcome State Fault Refusal := .next (cmpStart s t 0x23 flt)

/-- R256: opcode 0x24 of Table 6.3. -/
def execMin (t : Nat) (flt : List UFault) (s : State) : Host.Outcome State Fault Refusal := .next (cmpStart s t 0x24 flt)

/-- R256: opcode 0x25 of Table 6.3. -/
def execFma (t : Nat) (flt : List UFault) (s : State) : Host.Outcome State Fault Refusal := .next (cmpStart s t 0x25 flt)

/-- R256: opcode 0x26 of Table 6.3. -/
def execScale (t : Nat) (flt : List UFault) (s : State) : Host.Outcome State Fault Refusal := .next (cmpStart s t 0x26 flt)

/-- R256: opcode 0x27 of Table 6.3. -/
def execAbs (t : Nat) (flt : List UFault) (s : State) : Host.Outcome State Fault Refusal := .next (cmpStart s t 0x27 flt)

/-- R256: opcode 0x28 of Table 6.3. -/
def execNeg (t : Nat) (flt : List UFault) (s : State) : Host.Outcome State Fault Refusal := .next (cmpStart s t 0x28 flt)

/-- R258: opcode 0x30 of Table 6.3. -/
def execLut (t : Nat) (flt : List UFault) (s : State) : Host.Outcome State Fault Refusal := .next (cmpStart s t 0x30 flt)

/-- R256: opcode 0x38 of Table 6.3. -/
def execRsum (t : Nat) (flt : List UFault) (s : State) : Host.Outcome State Fault Refusal := .next (cmpStart s t 0x38 flt)

/-- R256: opcode 0x39 of Table 6.3. -/
def execRmax (t : Nat) (flt : List UFault) (s : State) : Host.Outcome State Fault Refusal := .next (cmpStart s t 0x39 flt)

/-- R256: opcode 0x3A of Table 6.3. -/
def execRmin (t : Nat) (flt : List UFault) (s : State) : Host.Outcome State Fault Refusal := .next (cmpStart s t 0x3A flt)

/-- R256: opcode 0x3B of Table 6.3. -/
def execRssq (t : Nat) (flt : List UFault) (s : State) : Host.Outcome State Fault Refusal := .next (cmpStart s t 0x3B flt)

/-- R256: opcode 0x40 of Table 6.3. -/
def execTrans (t : Nat) (flt : List UFault) (s : State) : Host.Outcome State Fault Refusal := .next (cmpStart s t 0x40 flt)

/-- R256: opcode 0x41 of Table 6.3. -/
def execCpy (t : Nat) (flt : List UFault) (s : State) : Host.Outcome State Fault Refusal := .next (cmpStart s t 0x41 flt)

/-- R260: opcode 0x42 of Table 6.3. -/
def execCvt (t : Nat) (flt : List UFault) (s : State) : Host.Outcome State Fault Refusal := .next (cmpStart s t 0x42 flt)

/-- R256: opcode 0x43 of Table 6.3. -/
def execFill (t : Nat) (flt : List UFault) (s : State) : Host.Outcome State Fault Refusal := .next (cmpStart s t 0x43 flt)

/-- R262: the duration of the running command ends, unless CMP is halted or isolated. -/
def execCmpComplete (t : Nat) (s : State) : Host.Outcome State Fault Refusal :=
  match (getTile s t).cmpRun with
  | some r => if stopped s (.cmp t) || isolated s t then .next s else .next (cmpEnd s t r)
  | none => .next s

end Sys2Proof.Machine
end

