-- ==== Sys2Proof/Machine/Controls.lean ====
section
/-! DEFINITION. Writes of one control register: lists, tiles, channels, time, links, rings, faults, debug. -/

namespace Sys2Proof.Machine

/-- Offset of a register of context lc. -/
def lcOff (lc : Nat) : Nat := 0x40 * (lc % 4)

/-! ## Lists and engines of a tile -/

/-- R200. -/
def execLoad (src : Src) (t lc : Nat) (s : State) : Host.Outcome State Fault Refusal :=
  .next (regPut s src (.seq t) (0x104 + lcOff lc) 1)

/-- R211. -/
def execAbort (src : Src) (t lc : Nat) (s : State) : Host.Outcome State Fault Refusal :=
  .next (regPut s src (.seq t) (0x104 + lcOff lc) 2)

/-- R185. -/
def execPredclr (src : Src) (t : Nat) (s : State) : Host.Outcome State Fault Refusal :=
  .next (regPut s src (.seq t) 0x080 (rawReg s (.seq t) 0x080 ||| 2))

/-- R284. -/
def execPelClr (src : Src) (t : Nat) (s : State) : Host.Outcome State Fault Refusal := .next (regPut s src (.mov t) 0x084 1)

/-- R300, R301, R302. -/
def execLeaseRequest (src : Src) (t i lreg lx : Nat) (s : State) : Host.Outcome State Fault Refusal :=
  .next (regPut s src (.til t) (0x100 + 4 * (i % 3)) (BitVec.ofNat 32 (1 + lreg % 4 * 256 + lx % 128 * 65536)))

/-- R303, R304. -/
def execLeaseEnd (src : Src) (t i : Nat) (s : State) : Host.Outcome State Fault Refusal :=
  .next (regPut s src (.til t) (0x100 + 4 * (i % 3)) (setFld (rawReg s (.til t) (0x100 + 4 * (i % 3))) 0 0 0))

/-- R383, R386. -/
def execTilIsoOff (src : Src) (t : Nat) (s : State) : Host.Outcome State Fault Refusal := .next (regPut s src (.til t) 0x084 1)

/-- R402, R408, R412. -/
def execCmbRqEn (src : Src) (t n : Nat) (en : Bool) (s : State) : Host.Outcome State Fault Refusal :=
  .next (regPut s src (.cmb t) (rqOff (n % 16)) (setFld (rawReg s (.cmb t) (rqOff (n % 16))) 0 0 (bitNat en)))

/-- R453, R454. -/
def execCqEn (src : Src) (t n : Nat) (en : Bool) (s : State) : Host.Outcome State Fault Refusal :=
  .next (regPut s src (.cmb t) (cqOff (n % 8)) (setFld (rawReg s (.cmb t) (cqOff (n % 8))) 0 0 (bitNat en)))

/-! ## Time -/

/-- R467, Table 11.1. -/
def execTkpSrc (src : Src) (v : Word) (s : State) : Host.Outcome State Fault Refusal := .next (regPut s src (.tkp 0) 0x080 v)

/-- R467, Table 11.1. -/
def execFwst (src : Src) (v : Word) (s : State) : Host.Outcome State Fault Refusal := .next (regPut s src (.tkp 0) 0x080 v)

/-- R468. -/
def execTkpPhase (src : Src) (v : Word) (s : State) : Host.Outcome State Fault Refusal :=
  .next (regPut s src (.tkp 0) 0x0A4 v)

/-- R468, R469. -/
def execTkpStep (src : Src) (lo hi : Word) (s : State) : Host.Outcome State Fault Refusal :=
  .next (regPut (regPut s src (.tkp 0) 0x0A8 lo) src (.tkp 0) 0x0AC hi)

/-- R492, R493. -/
def execRtcSet (src : Src) (lo hi : Word) (s : State) : Host.Outcome State Fault Refusal :=
  .next (regPut (regPut s src (.tkp 0) 0x0F0 lo) src (.tkp 0) 0x0F4 hi)

/-- R493. -/
def execRtcsync (src : Src) (s : State) : Host.Outcome State Fault Refusal :=
  .next (regPut s src (.tkp 0) 0x080 (rawReg s (.tkp 0) 0x080 ||| 0x10000))

/-- R494. -/
def execRtcFracRead (src : Src) (s : State) : Host.Outcome State Fault Refusal := .next (regGet s src (.tkp 0) 0x0E8)

/-- R481, Table 11.3. -/
def execAccRole (src : Src) (n role : Nat) (s : State) : Host.Outcome State Fault Refusal :=
  .next (regPut s src (accPage n) (accOff n) (BitVec.ofNat 32 (role % 4)))

/-! ## Links, rings, the Glazier -/

/-- R566, R569. -/
def execTrain (src : Src) (n : Nat) (s : State) : Host.Outcome State Fault Refusal :=
  .next (regPut s src (.llk n) 0x080 (rawReg s (.llk n) 0x080 ||| 1))

/-- R566, R571. -/
def execLlkDown (src : Src) (n : Nat) (s : State) : Host.Outcome State Fault Refusal :=
  .next (regPut s src (.llk n) 0x080 (setFld (rawReg s (.llk n) 0x080) 1 0 2))

/-- R637, R638. -/
def execEthRingTail (src : Src) (n ring : Nat) (tx : Bool) (v : Word) (s : State) : Host.Outcome State Fault Refusal :=
  .next (regPut s src (.eth n) (ringOff tx (ring % 64) + 0xC) v)

/-- R640, R641. -/
def execEthRingEn (src : Src) (n ring : Nat) (tx : Bool) (v : Word) (s : State) : Host.Outcome State Fault Refusal :=
  .next (regPut s src (.eth n) (ringOff tx (ring % 64) + 4) v)

/-- R659. -/
def execGlzRingTail (src : Src) (n : Nat) (v : Word) (s : State) : Host.Outcome State Fault Refusal :=
  .next (regPut s src (.glz n) 0x0A0 v)

/-- R685. -/
def execGlzResume (src : Src) (n : Nat) (s : State) : Host.Outcome State Fault Refusal := .next (regPut s src (.glz n) 0x0B4 1)

/-! ## Faults -/

/-- R707. -/
def execScrRetire (src : Src) (v : Word) (s : State) : Host.Outcome State Fault Refusal := .next (regPut s src .scr 0x094 v)

/-- R721. -/
def execRlogPop (src : Src) (s : State) : Host.Outcome State Fault Refusal := .next (regPut s src .scr 0x0A4 1)

/-- R698. -/
def execBucketThrWrite (src : Src) (kind : Nat) (win : Bool) (v : Word) (s : State) : Host.Outcome State Fault Refusal :=
  .next (regPut s src .scr (0x100 + 8 * (kind % 8) + (if win then 4 else 0)) v)

/-! ## Stop and freeze -/

/-- A bit of DBG_PKG_CTL is written 1. -/
def pkgBit (s : State) (src : Src) (b : Word) : State := regPut s src .dbgp 0x080 (rawReg s .dbgp 0x080 ||| b)

/-- R725. -/
def execStop (src : Src) (s : State) : Host.Outcome State Fault Refusal := .next (pkgBit s src 1)

/-- R733, R734. -/
def execResume (src : Src) (s : State) : Host.Outcome State Fault Refusal := .next (pkgBit s src 2)

/-- R736, R738. -/
def execFreeze (src : Src) (s : State) : Host.Outcome State Fault Refusal := .next (pkgBit s src 4)

/-- R736, R738. -/
def execUnfreeze (src : Src) (s : State) : Host.Outcome State Fault Refusal := .next (pkgBit s src 8)

end Sys2Proof.Machine
end

