-- ==== Sys2Proof/Machine/Debug.lean ====
section
/-! DEFINITION. Stopping and sampling: the rows that pins, links, blocks and time drive. -/

namespace Sys2Proof.Machine

/-- R726. -/
def execStopInEdge (s : State) : Host.Outcome State Fault Refusal :=
  .next (if rbit s .dbgp 0x080 8 then stopTrigger s 2 0 none else s)

/-- R575, R725, R733, R736. -/
def execWaveCode (n : Nat) (code : BitVec 7) (s : State) : Host.Outcome State Fault Refusal := .next (waveTake s n code.toNat)

/-- R728. -/
def execBlockHalt (p : Page) (s : State) : Host.Outcome State Fault Refusal := .next (blockHalt s p)

/-- R768. -/
def execSampleRecord (t : Nat) (s : State) : Host.Outcome State Fault Refusal := .next (sampleSend s t)

end Sys2Proof.Machine
end

