-- ==== Sys2Proof/Machine/Endpoints.lean ====
section
/-! DEFINITION. Memory-data requests at TM, at a memory edge, and at an I/O die, which holds no memory. -/

namespace Sys2Proof.Machine

/-- A memory-data request of an opcode at a tile: nothing is stalled before it (R411). -/
def tileData (s : State) (t : Nat) (op : BitVec 8) : Option Packet :=
  (reqHead s (.tile t) op).filter (fun _ => (getTile s t).stalled.isNone)

/-- A request of an opcode at a fitted I/O die. -/
def dieReq (s : State) (d : Nat) (op : BitVec 8) : Option Packet :=
  (reqHead s (.io d) op).filter (fun _ => dieFitted s d)

/-- R223, R249, R597, R598. -/
def execRd (p : Place) (flt : List UFault) (s : State) : Host.Outcome State Fault Refusal :=
  match p with
  | .tile t => .next ((tileData s t opRD).elim s (fun q => serveTile (addFaults s flt) t q (fun s => tmRead s t q)))
  | .mem x e => .next ((memReq s x e opRD).elim s (fun q => memServe (addFaults s flt) x e q (fun s => memRead s x e q (parHit flt))))
  | .io d => .next ((dieReq s d opRD).elim s (fun q => serveEdge s (.io d) q (fun s => s)))

/-- R250, R279, R599. -/
def execWr (p : Place) (flt : List UFault) (s : State) : Host.Outcome State Fault Refusal :=
  match p with
  | .tile t => .next ((tileData s t opWR).elim s (fun q => serveTile (addFaults s flt) t q (fun s => tmWrite s t q)))
  | .mem x e =>
    .next ((memReq s x e opWR).elim s (fun q => memServe (addFaults s flt) x e q (fun s => memWriteReq s x e q (parHit flt))))
  | .io d => .next ((dieReq s d opWR).elim s (fun q => serveEdge s (.io d) q (fun s => s)))

/-- R250, R278, R599. -/
def execWra (p : Place) (flt : List UFault) (s : State) : Host.Outcome State Fault Refusal :=
  match p with
  | .tile t => .next ((tileData s t opWRA).elim s (fun q => serveTile (addFaults s flt) t q (fun s => tmWrite s t q)))
  | .mem x e =>
    .next ((memReq s x e opWRA).elim s (fun q => memServe (addFaults s flt) x e q (fun s => memWriteReq s x e q (parHit flt))))
  | .io d => .next ((dieReq s d opWRA).elim s (fun q => serveEdge s (.io d) q (fun s => s)))

/-- R766: a trace record is written as a posted write, and is discarded where a check fails. -/
def execTrace (x e : Nat) (s : State) : Host.Outcome State Fault Refusal :=
  .next ((memReq s x e opTRACE).elim s (fun q => memServe s x e q (fun s => memWriteReq s x e q false)))

end Sys2Proof.Machine
end

