-- ==== Sys2Proof/Machine/Ethernet.lean ====
section
/-! DEFINITION. Ethernet ports, and the choice of what starts next at a link or port egress. -/

namespace Sys2Proof.Machine

/-- R528 to R532; the MOV queues are served by INJECT_PACKET (R533). -/
def execEgressStart (g : GPlace) (s : State) : Host.Outcome State Fault Refusal :=
  match g with
  | .llk n => .next (if dieFitted s (n / 12) then llkStart s n else s)
  | .eth n => .next (ethStart s n)
  | .mov t => .next (injectAt s (.tile t))

/-- R642 to R648. -/
def execRxFrame (n : Nat) (bytes : List Byte) (fcsOk : Bool) (backlog : List Nat) (s : State) :
    Host.Outcome State Fault Refusal := .next (ethRx s n bytes fcsOk backlog)

/-- R649. -/
def execPfcFrame (n : Nat) (quanta : List (Option Nat)) (s : State) : Host.Outcome State Fault Refusal :=
  .next (pfcTake s n quanta)

/-- R649. -/
def execPfcRepeat (n prio : Nat) (s : State) : Host.Outcome State Fault Refusal := .next (pfcRepeat s n prio)

/-- R649. -/
def execPfcPauseExpiry (n prio : Nat) (s : State) : Host.Outcome State Fault Refusal := .next (pauseEnd s n prio)

/-- R651. -/
def execTxFrameFetch (n ring : Nat) (s : State) : Host.Outcome State Fault Refusal := .next (txFetch s n ring)

/-- R652. -/
def execTxFrameDone (n ring : Nat) (s : State) : Host.Outcome State Fault Refusal := .next (txDone s n ring)

/-- R657. -/
def execEthLinkChange (n : Nat) (up an : Bool) (s : State) : Host.Outcome State Fault Refusal := .next (ethLink s n up an)

end Sys2Proof.Machine
end

