-- ==== Sys2Proof/Machine/Fabric.lean ====
section
/-! DEFINITION. The Vethes fabric: injection, routers, forks, credits, keep-alives, absent edges. -/

namespace Sys2Proof.Machine

/-- A keep-alive crosses the link past a port in a µs of NT that has not had one; the port at the far end sees it (R392). -/
def kaSend (s : State) (t port : Nat) : State :=
  let us : Int := usTicks 1
  let last := (tabGet none ((getTile s t).kaSent.map (fun e => (e.1, some e.2))) port)
  let s1 := if last.map (· / us) = some (fullT s / us) then atT s ((fullT s / us + 1) * us) else s
  let (u, q) := neighbour s t port
  let s2 := modTile s1 t (fun x => { x with kaSent := tabPut x.kaSent port (fullT s1) })
  emit (modTile s2 u (fun x => { x with kaSeen := tabPut x.kaSeen q (eTime s2) })) (.keepalive t port)

/-- When a port has seen no keep-alive for 100 µs, counted from the end of a reset of the fabric or of a stop (R392). -/
def kaDue (s : State) (t port : Nat) : Nat :=
  max (tabGet 0 (getTile s t).kaSeen port) (max s.mgt.fabUp s.dbg.resumeAt) + usTicks 100

/-- R49: the junction answers the oldest request for an edge of an unpopulated site. -/
def execEdgeAbsentRequest (x e : Nat) (s : State) : Host.Outcome State Fault Refusal :=
  match (getEdge s x e).req with
  | p :: rest =>
    if edgePop s x e then .next s
    else .next (modEdge s x e (fun g => { g with
      req := rest, out := if p.opc = opTRACE then g.out else g.out ++ [nakPkt p.dst p nkOFF] }))
  | [] => .next s

/-- R53: the junction of row y answers the oldest request for IOE that runs in it, on an assembly without IOE; a TRACE is
discarded (R49). What another package sent for IOE has reached IOW, and its answer goes back that way (log 72). -/
def execIoeAbsentRequest (y : Nat) (s : State) : Host.Outcome State Fault Refusal :=
  let mine (p : Packet) : Bool := nodeY (if nodePkg p.src = ownPkg s then p.src else p.dst) == y
  match (getDie s 1).req.find? mine with
  | some p =>
    if dieFitted s 1 then .next s
    else
      let s1 := modDie s 1 (fun d => { d with req := dropFirst mine d.req })
      let a := nakPkt p.dst p nkOFF
      .next (if p.opc = opTRACE then s1
        else if nodePkg p.src = ownPkg s then modDie s1 1 (fun d => { d with out := d.out ++ [a] })
        else modDie s1 0 (fun d => { d with osw := d.osw ++ [{ pkt := a }] }))
  | none => .next s

/-- R293. -/
def execInjectPacket (p : Place) (s : State) : Host.Outcome State Fault Refusal := .next (injectAt s p)

/-- R333: the next flit of the packet at an input VC of a router. -/
def execRouterPacket (t port vc : Nat) (hdrErr : Bool) (parErr : List Nat) (s : State) : Host.Outcome State Fault Refusal :=
  .next (routePacket s t port vc hdrErr parErr)

/-- R375: the header at an input VC enters the fork buffer when its packet forks and the buffer holds it whole. -/
def execForkAccept (t port vc : Nat) (s : State) : Host.Outcome State Fault Refusal :=
  match getRin s t port vc with
  | some w =>
    if rtrRuns s t ∧ w.hd ∧ w.pkt.hcrc = hcrcOf w.pkt ∧ (headTo s t port vc w.pkt).1 = .fork then
      .next (headStep s t port vc w false)
    else .next s
  | none => .next s

/-- R376: a branch starts, or sends its next flit. -/
def execForkBranchStart (t slot bi : Nat) (s : State) : Host.Outcome State Fault Refusal :=
  if rtrRuns s t then .next (forkStart s t slot bi) else .next s

/-- R323: a flit that crossed the link has been consumed downstream, and returns its credit. -/
def execCreditReturn (t port vc : Nat) (s : State) : Host.Outcome State Fault Refusal :=
  let o := getOut s t port vc
  let (u, q) := neighbour s t port
  let full := ((getRin s u q vc).map (·.flits)).getD 0
  if port < 4 ∧ o.credits + full < 8 then .next (setOut s t port vc { o with credits := o.credits + 1 }) else .next s

/-- R392: once per µs of NT. -/
def execKeepaliveSend (t port : Nat) (s : State) : Host.Outcome State Fault Refusal :=
  if t ∈ s.mgt.failedRtrs then .next s else .next (kaSend s t port)

/-- R392: the neighbour past a port is reported failed, unless either side is stopped. -/
def execKeepaliveTimeout (t port : Nat) (s : State) : Host.Outcome State Fault Refusal :=
  let u := (neighbour s t port).1
  if port < 4 ∧ stopped s (.rtr t) = false ∧ stopped s (.rtr u) = false then .next (fabFail (atLeast s (kaDue s t port)) u)
  else .next s

end Sys2Proof.Machine
end

