-- ==== Sys2Proof/Machine/Gates.lean ====
section
/-! DEFINITION. Gate lists, the table port, shapers: changes of a list, its switch, its entries. -/

namespace Sys2Proof.Machine

/-- A bit of GCL_CTL is written 1. -/
def gclBit (s : State) (src : Src) (g : GPlace) (b : Word) : State :=
  regPut s src (gPage g) (gBase g) (rawReg s (gPage g) (gBase g) ||| b)

/-- A place has shapers and meters. -/
def atEgress : GPlace → Bool
  | .mov _ => false
  | _ => true

/-- R507, R513, R514, R547. -/
def execChg (src : Src) (g : GPlace) (s : State) : Host.Outcome State Fault Refusal := .next (gclBit s src g 1)

/-- R515, Table 12.5. -/
def execCancel (src : Src) (g : GPlace) (s : State) : Host.Outcome State Fault Refusal := .next (gclBit s src g 2)

/-- R515, Table 12.5. -/
def execHalt (src : Src) (g : GPlace) (s : State) : Host.Outcome State Fault Refusal := .next (gclBit s src g 4)

/-- Ticks until NT reaches the change time of a pending list. -/
def ctIn (s : State) (g : GPlace) : Nat := gCt s g - gNt s g

/-- R515, R519: NT reaches CT. -/
def execGclSwitch (g : GPlace) (s : State) : Host.Outcome State Fault Refusal :=
  if pagePresent s (gPage g) ∧ (gclState s g = 1 ∨ gclState s g = 3) then
    .next (gclSwitch (atT s (fullT s + ctIn s g)) g)
  else .next s

/-- R504: time reaches the start of the next entry; a switch that comes first must be its own event. -/
def execGateEntryStart (g : GPlace) (s : State) : Host.Outcome State Fault Refusal :=
  if pagePresent s (gPage g) = false ∨ gclState s g ≤ 1 ∨ (gclState s g = 3 ∧ ctIn s g ≤ gNext s g) then .next s
  else .next (atT s (fullT s + gNext s g))

/-- R546. -/
def execTblRead (src : Src) (g : GPlace) (tbl idx : Nat) (s : State) : Host.Outcome State Fault Refusal :=
  .next (regPut s src (gPage g) (gBase g + 0x80) (BitVec.ofNat 32 (tbl % 8 + idx % 256 * 256)))

/-- R518, R535, R546. -/
def execTblWrite (src : Src) (g : GPlace) (tbl idx : Nat) (s : State) : Host.Outcome State Fault Refusal :=
  .next (regPut s src (gPage g) (gBase g + 0x80) (BitVec.ofNat 32 (tbl % 8 + 8 + idx % 256 * 256)))

/-- R525, R526. -/
def execShpEnable (src : Src) (g : GPlace) (k cir : Nat) (s : State) : Host.Outcome State Fault Refusal :=
  if atEgress g then
    .next (regPut s src (gPage g) (gBase g + shpOff (k % 8)) (BitVec.ofNat 32 (cir % 2 ^ 20 + 2 ^ 31)))
  else .next s

/-- R526, R527. -/
def execShaperRateWrite (src : Src) (g : GPlace) (k : Nat) (cbs : Bool) (v : Word) (s : State) :
    Host.Outcome State Fault Refusal :=
  let o := gBase g + shpOff (k % 8)
  if atEgress g = false then .next s
  else if cbs then .next (regPut s src (gPage g) (o + 4) v)
  else .next (regPut s src (gPage g) o (setFld (rawReg s (gPage g) o) 19 0 v.toNat))

end Sys2Proof.Machine
end

