-- ==== Sys2Proof/Machine/GlzDraw.lean ====
section
/-! DEFINITION. Glaziers: triangles and splats, the fragments that they start, the colour updates of fragments that
retire, and pixel programs. -/

namespace Sys2Proof.Machine

/-! ## Coverage (R668, R669, R671) -/

/-- A sample position within its pixel, in 1/256 pixel (R668). -/
def smpPos (spp k : Nat) : Nat × Nat :=
  if spp = 1 then (128, 128)
  else match k with
    | 0 => (96, 32)
    | 1 => (224, 96)
    | 2 => (32, 160)
    | _ => (160, 224)

/-- An FP32 coordinate rounded to 1/256 pixel; none for a NaN, an infinity, or one above 2^20 (R669, R671). -/
def fixPos (w : Word) : Option Int :=
  match f32 w with
  | .fin neg m e =>
    if Fv.lt (.fin false 1 20) (.fin false m e) then none else some (roundInt 0 neg m (e + 8))
  | _ => none

/-- Twice the signed area that a point spans with an edge. -/
def edgeFn (a b p : Int × Int) : Int := (b.1 - a.1) * (p.2 - a.2) - (b.2 - a.2) * (p.1 - a.1)

/-- A point lies inside an edge of a triangle of positive area, or on a top or left edge (R669). -/
def edgeIn (a b p : Int × Int) : Bool :=
  let e := edgeFn a b p
  let top := b.2 == a.2 && decide (a.1 < b.1)
  let left := decide (b.2 < a.2)
  decide (0 < e) || (e == 0 && (top || left))

/-- A triangle of rounded positions covers a point. -/
def triCovers (a b c p : Int × Int) : Bool :=
  if 0 < edgeFn a b c then edgeIn a b p && edgeIn b c p && edgeIn c a p
  else edgeIn a c p && edgeIn c b p && edgeIn b a p

/-- Pixels of the region within a range of positions in 1/256 pixel, in row order. -/
def pixelsIn (g : Glz) (x0 x1 y0 y1 : Int) : List (Nat × Nat) :=
  let lo (a b : Int) : Nat := (max a (b / 256)).toNat
  let hi (a b : Int) : Nat := (min a (b / 256 + 1)).toNat
  let xa := lo g.rx x0
  let xb := hi (g.rx + g.rw : Nat) x1
  let ya := lo g.ry y0
  let yb := hi (g.ry + g.rh : Nat) y1
  (List.range (yb - ya)).flatMap (fun j => (List.range (xb - xa)).map (fun i => (xa + i, ya + j)))

/-- A primitive ready to be rasterised: the pixels it may touch, and at a sample position its z, α and attributes,
none where it does not cover. -/
structure Shape where
  pixels : List (Nat × Nat)
  at_ : Nat → Nat → Option (Word × Word × List Word)

/-- One sample of a primitive: tests, updates, and the fragment that goes on to the colour groups (R669). -/
def rasterOne (sh : Shape) (x y k : Nat) (a : Glz × List Frag × Nat) : Glz × List Frag × Nat :=
  let (g, fs, c) := a
  let (sx, sy) := smpPos g.spp k
  match sh.at_ (x * 256 + sx) (y * 256 + sy) with
  | none => a
  | some (z, alpha, attrs) =>
    let (ok, g1) := zTest g (smpIdx g x y k) z
    let f : Frag := {
      x := x, y := y, smp := k, spp := g.spp, attrs := attrs, alpha := alpha, z := z, groups := g.groups,
      layer := g.layer, oper := g.oper }
    (g1, if ok && g.groups.any (fun c => c.mode != 0) then f :: fs else fs, c + 1)

/-- Two fragments of one sample. -/
def sameSmp (a b : Frag) : Bool := a.x == b.x && a.y == b.y && a.smp == b.smp

/-- The lowest reorder bin entry that no fragment occupies (log 77). -/
def freeBin (l : List Frag) : Nat :=
  let used := l.filterMap (·.bin)
  ((List.range used.length).find? (fun i => !used.contains i)).getD used.length

/-- A fragment joins those that wait; behind an older one of its sample it takes a bin entry (R682). -/
def fragEnter (l : List Frag) (f : Frag) : List Frag :=
  l ++ [if l.any (sameSmp f) then { f with bin := some (freeBin l) } else f]

/-- A primitive is rasterised: the Glazier with its new fragments, and how many samples it covers. -/
def raster (g : Glz) (sh : Shape) : Glz × Nat :=
  let (g1, fs, c) := sh.pixels.foldl (fun a p => (List.range g.spp).foldl (fun a k => rasterOne sh p.1 p.2 k a) a) (g, [], 0)
  ({ g1 with frags := fs.reverse.foldl fragEnter g1.frags }, c)

def fpOne : Word := 0x3F800000

/-- A triangle from its record (R669, R671, R672); none when it is discarded. -/
def triShape (g : Glz) (nattr : Nat) (bs : List Byte) : Option Shape :=
  let vs := (16 + 4 * nattr + 15) / 16 * 16
  let w (v o : Nat) : Word := wordAt bs (v * vs + o)
  let pos (v : Nat) : Option (Int × Int) := (fixPos (w v 0)).bind (fun x => (fixPos (w v 4)).map (fun y => (x, y)))
  match pos 0, pos 1, pos 2 with
  | some a, some b, some c =>
    if edgeFn a b c = 0 ∨ (f32 (w 0 8)).isNan ∨ (f32 (w 1 8)).isNan ∨ (f32 (w 2 8)).isNan then none
    else
      let base (v : Nat) : List Word := [w v 0, w v 4, w v 12]
      let attr (k px py : Nat) : Word :=
        if k < nattr then
          Config.attrAt (base 0 ++ [w 0 (16 + 4 * k)] ++ base 1 ++ [w 1 (16 + 4 * k)] ++ base 2 ++ [w 2 (16 + 4 * k)]) px py
        else 0
      let zs := [w 0 0, w 0 4, w 0 8, w 0 12, w 1 0, w 1 4, w 1 8, w 1 12, w 2 0, w 2 4, w 2 8, w 2 12]
      some {
        pixels := pixelsIn g (min a.1 (min b.1 c.1)) (max a.1 (max b.1 c.1)) (min a.2 (min b.2 c.2)) (max a.2 (max b.2 c.2))
        at_ := fun px py =>
          if triCovers a b c (px, py) then
            some (Config.depthAt zs px py, fpOne, (List.range 8).map (fun k => attr k px py))
          else none }
  | _, _, _ => none

/-- A position in 1/256 pixel as a value. -/
def posFv (p : Nat) : Fv := .fin false p (-8)

/-- A splat from its record (R671, R673); none when it is discarded. -/
def splatShape (g : Glz) (bs : List Byte) : Option Shape :=
  let w (o : Nat) : Word := wordAt bs o
  let rad := f32 (w 44)
  match fixPos (w 0), fixPos (w 4) with
  | some cx, some cy =>
    if rad.isZero ∨ (f32 (w 8)).isNan then none
    else
      let r : Int := match rad with
        | .fin _ m e => min (2 ^ 31) (roundInt 2 false m (e + 8) + 1)
        | _ => 2 ^ 31
      some {
        pixels := pixelsIn g (cx - r) (cx + r) (cy - r) (cy + r)
        at_ := fun px py =>
          let dx := (Fv.sub 0 (posFv px) (f32 (w 0))).1
          let dy := (Fv.sub 0 (posFv py) (f32 (w 4))).1
          let al := fMin 0x3F7D70A4 (Config.splatAlpha [w 12, w 16, w 20, w 24] (toF32 dx) (toF32 dy))
          if Fv.le dx.abs rad && Fv.le dy.abs rad && Fv.le (.fin false 1 (-8)) (f32 al) then
            some (w 8, al, [w 28, w 32, w 36, w 40, 0, 0, 0, 0])
          else none }
  | _, _ => none

/-! ## Primitives in order (R669, R671, R680, R683) -/

/-- Reorder bin entries in use (R682, log 17). -/
def binUse (g : Glz) : Nat := (g.frags.filterMap (·.bin)).length

/-- The address of bin entry i in the extension; none for one of the 32,768 on chip. -/
def binAddr (s : State) (n i : Nat) : Option Nat :=
  if i < 32768 then none else some (pairNat s (.glz n) 0x0A4 % 2 ^ 48 + 64 * (i - 32768))

/-- The entries of new fragments that lie in the extension are written there, as memory data of the own package (R686);
the spec gives an entry no layout, its bytes are free values (log 77). -/
def binSpill (s : State) (n : Nat) (fs : List Frag) : State :=
  fs.foldl (fun s f =>
    match f.bin.bind (binAddr s n) with
    | none => s
    | some a =>
      let (v, s1) := takeFree s
      glzWrite s1 n 0 a ((List.range 64).map (Config.binByte v))) s

/-- The oldest fragment of a sample has retired: the next one leaves its bin entry, which is read when it lies in the
extension (R682, R686). -/
def binLeave (s : State) (n : Nat) (f : Frag) : State :=
  match (getGlz s n).frags.find? (sameSmp f) with
  | none => s
  | some h =>
    let s1 := modGlz s n (fun g => { g with frags := modFirst (sameSmp f) (fun x => { x with bin := none }) g.frags })
    match h.bin.bind (binAddr s n) with
    | none => s1
    | some a => (glzRead s1 n 0 a 64).2.2

/-- Bin space in bytes. -/
def binCap (s : State) (n : Nat) : Nat := 2097152 + rfld s (.glz n) 0x0AC 12 0 * 1048576

/-- The free bin space lies below GLZ_BIN_RSV (R683). -/
def binLow (s : State) (n : Nat) : Bool :=
  binCap s n - 64 * binUse (getGlz s n) < rfld s (.glz n) 0x0B0 11 0 * 1024

/-- GLZ_BINPEAK follows the use of the bins. -/
def binPeak (s : State) (n : Nat) : State :=
  let k := (64 * binUse (getGlz s n) + 1023) / 1024
  if rfld s (.glz n) 0x0B8 22 0 < k then putFld s (.glz n) 0x0B8 22 0 k else s

/-- The Glazier pauses before a primitive (Table 16.5). -/
def binPause (s : State) (n : Nat) : State := glzErr (glzPut s n 2) n 0x14 (isrMask 1)

/-- One primitive of a record: its bytes are read, and it is skipped, discarded or rasterised. -/
def primOne (s : State) (n : Nat) (tn : Word) (a len : Nat) (shape : Glz → List Byte → Option Shape) : State :=
  let (ok, bs, s1) := glzRead (glzCount s n 0x0C0 1) n tn a len
  if ok = false then s1
  else match shape (getGlz s1 n) bs with
    | none => addFld s1 (.glz n) 0x0CC 15 0 1
    | some sh =>
      let (g, c) := raster (getGlz s1 n) sh
      let s2 := binPeak (glzCount (modGlz s1 n (fun _ => g)) n 0x0C4 c) n
      binSpill s2 n (g.frags.drop (getGlz s1 n).frags.length)

/-- The primitives of a record from the first not yet started, until the last or a pause. -/
def primGo (n count len : Nat) (tn : Word) (a : Nat) (shape : Glz → List Byte → Option Shape) : Nat → State → State
  | 0, s => s
  | k + 1, s =>
    let i := (getGlz s n).done
    if count ≤ i then glzPop s n
    else if binLow s n then binPause s n
    else primGo n count len tn a shape k (modGlz (primOne s n tn (a + i * len) len shape) n (fun g => { g with done := i + 1 }))

/-- DRAW. -/
def glzDraw (s : State) (n : Nat) (r : List Byte) : State :=
  let k := byteField r 4 1
  let count := byteField r 20 4
  let len := 3 * ((16 + 4 * k + 15) / 16 * 16)
  primGo n count len (wordAt r 8) (byteField r 12 6) (fun g bs => triShape g k bs) (count + 1) s

/-- SPLAT. -/
def glzSplat (s : State) (n : Nat) (r : List Byte) : State :=
  let count := byteField r 20 4
  primGo n count 48 (wordAt r 8) (byteField r 12 6) splatShape (count + 1) s

/-! ## Samples in memory (R668, R676, R678) -/

/-- Address of channel c of the sample of a fragment in a group. -/
def chanAddr (f : Frag) (g : CGroup) (c : Nat) : Nat :=
  g.addr + f.y * g.pitch + ((f.x * f.spp + f.smp) * g.ch + c) * chanSize g.fmt

/-- A stored channel as FP32. -/
def chanIn (fmt v : Nat) : Word :=
  match fmt with
  | 0 => BitVec.ofNat 32 v
  | 1 => toF32 (((fmtOf 2).getD fp32).decode v)
  | 2 => toF32 (((fmtOf 1).getD fp32).decode v)
  | _ =>
    let n := v * 2 ^ 40
    toF32 (.fin false (n / 255 * 2 + (if n % 255 = 0 then 0 else 1)) (-41))

/-- An FP32 value as a stored channel, rounded RNE; UNORM8 is clamped and scaled (R678). -/
def chanOut (fmt : Nat) (w : Word) : Nat :=
  match fmt with
  | 0 => (fp32.encode 0 false (f32 w)).1
  | 1 => (((fmtOf 2).getD fp32).encode 0 false (f32 w)).1
  | 2 => (((fmtOf 1).getD fp32).encode 0 false (f32 w)).1
  | _ => match f32 w with
    | .nan => Config.unormNan % 256
    | .inf neg => if neg then 0 else 255
    | .fin neg m e => if neg then 0 else if Fv.le (.fin false 1 0) (.fin neg m e) then 255 else (roundInt 0 false (m * 255) e).toNat

/-- The channels of the sample of a fragment are read; none on a failure. -/
def smpRead (s : State) (n : Nat) (f : Frag) (g : CGroup) : Option (List Word) × State :=
  let k := chanSize g.fmt
  let (ok, bs, s1) := glzRead s n g.tnode (chanAddr f g 0) (g.ch * k)
  (if ok then some ((List.range g.ch).map (fun c => chanIn g.fmt (byteField bs (c * k) k))) else none, s1)

/-- Channels of the sample of a fragment are written. -/
def smpWrite (s : State) (n : Nat) (f : Frag) (g : CGroup) (cs : List (Nat × Word)) : State :=
  cs.foldl (fun s x => glzWrite s n g.tnode (chanAddr f g x.1) (leBytes (chanSize g.fmt) (chanOut g.fmt x.2))) s

/-! ## ORDERED blending (R676, Table 16.3) -/

/-- Coverage α of a fragment in a group. -/
def covAlpha (f : Frag) (g : CGroup) : Word := if g.aidx = 15 then f.alpha else fMul f.alpha ((f.attrs[g.aidx]?).getD 0)

/-- The blended channels. -/
def blended (g : CGroup) (al : Word) (src dst : List Word) : List Word :=
  let s (k : Nat) : Word := (src[k]?).getD 0
  let d (k : Nat) : Word := (dst[k]?).getD 0
  let one := fpOne
  (List.range g.ch).map (fun k =>
    match g.blend with
    | 0 => s k
    | 1 => fAdd (d k) (fMul al (s k))
    | 2 => fAdd (fMul al (s k)) (fMul (fSub one al) (d k))
    | 3 => if k < 3 then fAdd (d k) (fMul (fMul (d 3) al) (s k)) else fMul (d 3) (fSub one al)
    | 4 => fMin (d k) (s k)
    | _ => fMax (d k) (s k))

/-- The update of an ORDERED group. -/
def blendOne (s : State) (n : Nat) (f : Frag) (g : CGroup) : State :=
  let (d, s1) := if g.blend = 0 then (some [], s) else smpRead s n f g
  match d with
  | none => s1
  | some d => smpWrite s1 n f g ((blended g (covAlpha f g) f.attrs d).mapIdx (fun i w => (i, w)))

/-! ## Retirement in order (R675, R677) -/

/-- The fragment whose turn it is: the oldest. -/
def headFrag (s : State) (n : Nat) : Option Frag := (getGlz s n).frags.head?

/-- The fragment that retires changes. -/
def fragMod (s : State) (n : Nat) (f : Frag → Frag) : State :=
  modGlz s n (fun g => { g with frags := match g.frags with
    | a :: r => f a :: r
    | [] => [] })

/-- The fragment has retired. -/
def fragDrop (s : State) (n : Nat) : State :=
  let s1 := modGlz s n (fun g => { g with frags := g.frags.tail, pp := none })
  glzIdle (match headFrag s n with
    | some f => binLeave s1 n f
    | none => s1) n

/-- The groups of the oldest fragment are updated in order, up to one that runs a program (R675). -/
def retireGo (n : Nat) : Nat → State → State
  | 0, s => s
  | k + 1, s =>
    match headFrag s n with
    | none => s
    | some f =>
      match f.groups[f.next]? with
      | none => fragDrop s n
      | some g =>
        if g.mode = 2 then
          modGlz s n (fun x => { x with pp := some { pc := g.pstart, regs := List.replicate 8 0, staged := [] } })
        else
          let s1 := if g.mode = 1 then blendOne s n f g else s
          retireGo n k (fragMod s1 n (fun f => { f with next := f.next + 1 }))

/-- FRAGMENT_RETIRE. -/
def fragRetire (s : State) (n : Nat) : State :=
  if glzLive s n = false ∨ (getGlz s n).pp.isSome then s else retireGo n 5 s

/-- The program of a fragment has ended: the groups after it follow. -/
def ppLeave (s : State) (n : Nat) : State :=
  retireGo n 5 (modGlz (fragMod s n (fun f => { f with next := f.next + 1 })) n (fun g => { g with pp := none }))

/-! ## Pixel programs (R677, R678, Table 16.4) -/

def ppReg (p : PPRun) (i : Nat) : Word := (p.regs[i]?).getD 0

/-- The instruction that a running program executes next, when it has an opcode: run, word, fragment, group. -/
def ppNow (s : State) (n op : Nat) : Option (PPRun × Word × Frag × CGroup) :=
  match (getGlz s n).pp, headFrag s n with
  | some p, some f =>
    let w := progWord s n p.pc
    if glzLive s n && ppOpc w == op then some (p, w, f, (f.groups[f.next]?).getD {}) else none
  | _, _ => none

/-- The run goes on to the next instruction. -/
def ppPut (s : State) (n : Nat) (p : PPRun) : State := modGlz s n (fun g => { g with pp := some { p with pc := p.pc + 1 } })

/-- D takes a value; a NaN result is the canonical NaN (R678). -/
def ppSet (s : State) (n : Nat) (p : PPRun) (w v : Word) : State :=
  let v := if (f32 v).isNan then toF32 .nan else v
  ppPut s n { p with regs := listMod p.regs (fld w 26 24) (fun _ => v) }

/-- An instruction that computes D from D, A and B. -/
def ppAlu (s : State) (n op : Nat) (f : Word → Word → Word → Word) : State :=
  match ppNow s n op with
  | none => s
  | some (p, w, _, _) =>
    ppSet s n p w (f (ppReg p (fld w 26 24)) (ppReg p (fld w 23 21)) (ppReg p (fld w 20 18)))

/-- One of the FP32 values within 1 ulp of an exact positive value: `lo` is the value rounded down, `exact` whether it
is the value itself (R678). -/
def ulpOf (op : Nat) (a : Word) (lo : Nat) (exact : Bool) : Nat :=
  let k := Config.ulpPick op a
  if exact then (if lo = 0 then k % 2 else lo - 1 + k % 3) else lo + k % 2

/-- The FP32 pattern of a magnitude rounded towards 0, and whether it is exact. -/
def truncMag (m : Nat) (e : Int) (rest : Bool) : Nat × Bool :=
  let v : Fv := .fin false (2 * m + (if rest then 1 else 0)) (e - 1)
  let lo := (fp32.encode 1 false v).1
  (lo, (fp32.encode 2 false v).1 == lo)

/-- 1/A within 1 ulp. -/
def ppRecip (a : Word) : Word :=
  match f32 a with
  | .nan => toF32 .nan
  | .inf neg => toF32 (.fin neg 0 0)
  | .fin neg m e =>
    if m = 0 then Config.ppZero 0x08 a
    else
      let (lo, ex) := truncMag (2 ^ 80 / m) (-80 - e) (2 ^ 80 % m != 0)
      BitVec.ofNat 32 ((if neg then 2 ^ 31 else 0) + ulpOf 0x08 a lo ex)

/-- 1/√A within 1 ulp. -/
def ppRsqrt (a : Word) : Word :=
  match f32 a with
  | .nan => toF32 .nan
  | .inf neg => if neg then toF32 .nan else 0
  | .fin neg m e =>
    if m = 0 then Config.ppZero 0x09 a
    else if neg then toF32 .nan
    else
      -- m·2^e with an even exponent; 1/√ = √(2^160/m')·2^(−80−e'/2)
      let odd := e % 2 != 0
      let m' := if odd then 2 * m else m
      let e' := if odd then e - 1 else e
      let q := 2 ^ 160 / m'
      let r := isqrtGo 81 q 0
      let (lo, ex) := truncMag r (-80 - e' / 2) (r * r * m' != 2 ^ 160)
      BitVec.ofNat 32 (ulpOf 0x09 a lo ex)

/-- 2^f for a fraction f of 160 bits, of which the lowest k are still to be multiplied in, with 200 bits after the point.
`c` is the factor of the bit above; its root is that of this bit. -/
def exp2Go : Nat → Nat → Nat → Nat → Nat
  | 0, _, _, r => r
  | k + 1, f, c, r =>
    let c' := isqrtGo 202 (c * 2 ^ 200) 0
    exp2Go k f c' (if f / 2 ^ k % 2 = 1 then r * c' / 2 ^ 200 else r)

/-- 2^A within 1 ulp: 2^A is exact for whole A only. -/
def ppExp2 (a : Word) : Word :=
  match f32 a with
  | .nan => toF32 .nan
  | .inf neg => if neg then 0 else a
  | .fin neg m e =>
    let mag : Int := m * 2 ^ (e + 160).toNat
    let x : Int := if neg then -mag else mag
    let n : Int := max (-200) (min 200 (x / 2 ^ 160))
    let f := (x % 2 ^ 160).toNat
    let (lo, ex) := truncMag (exp2Go 160 f (2 ^ 201) (2 ^ 200)) (n - 200) (f != 0)
    BitVec.ofNat 32 (ulpOf 0x0A a lo ex)

/-- Bits of log2 x after the point, for x in [1, 2) with 384 bits after the point: by squaring. -/
def log2Go : Nat → Nat → Nat → Nat
  | 0, _, acc => acc
  | k + 1, x, acc =>
    let y := x * x / 2 ^ 384
    if 2 ^ 385 ≤ y then log2Go k (y / 2) (2 * acc + 1) else log2Go k y (2 * acc)

/-- log2 A within 1 ulp: log2 A is exact for powers of 2 only. -/
def ppLog2 (a : Word) : Word :=
  match f32 a with
  | .nan => toF32 .nan
  | .inf neg => if neg then toF32 .nan else a
  | .fin neg m e =>
    if m = 0 then Config.ppZero 0x0B a
    else if neg then toF32 .nan
    else
      let k := Nat.log2 m
      let n : Int := e + k
      let s := if n < 0 then 2 ^ 31 else 0
      if m = 2 ^ k then
        let (lo, ex) := truncMag n.natAbs 0 false
        BitVec.ofNat 32 (s + ulpOf 0x0B a lo ex)
      else
        let v : Int := n * 2 ^ 128 + log2Go 128 (m * 2 ^ (384 - k)) 0
        let (lo, ex) := truncMag (if n < 0 then (-v - 1).toNat else v.toNat) (-128) true
        BitVec.ofNat 32 (s + ulpOf 0x0B a lo ex)

/-- LDF (Table 16.4); an index that Table 16.4 does not name gives a free value. -/
def ppField (s : State) (n : Nat) : State :=
  match ppNow s n 0x0D with
  | none => s
  | some (p, w, f, _) =>
    let i := fld w 15 0
    if i < 8 then ppSet s n p w ((f.attrs[i]?).getD 0)
    else if i = 8 then ppSet s n p w f.alpha
    else if i = 9 then ppSet s n p w f.z
    else
      let (v, s1) := takeFree s
      ppSet s1 n p w (BitVec.ofNat 32 v)

/-- LDP; a channel that the group does not have gives a free value. -/
def ppPixel (s : State) (n : Nat) : State :=
  match ppNow s n 0x0E with
  | none => s
  | some (p, w, f, g) =>
    let (d, s1) := smpRead s n f g
    match d with
    | none => ppPut s1 n { p with bad := true }
    | some d =>
      match d[fld w 1 0]? with
      | some v => ppSet s1 n p w v
      | none =>
        let (v, s2) := takeFree s1
        ppSet s2 n p w (BitVec.ofNat 32 v)

/-- STP. -/
def ppStage (s : State) (n : Nat) : State :=
  match ppNow s n 0x0F with
  | none => s
  | some (p, w, _, _) => ppPut s n { p with staged := tabPut p.staged (fld w 1 0) (ppReg p (fld w 23 21)) }

/-- KILL. -/
def ppKillIf (s : State) (n : Nat) : State :=
  match ppNow s n 0x10 with
  | none => s
  | some (p, w, _, _) =>
    if Fv.lt (f32 (ppReg p (fld w 23 21))) (.fin false 0 0) then ppLeave s n else ppPut s n p

/-- END: the staged stores are committed; after a failed pixel read the sample stays unchanged (R680). -/
def ppCommit (s : State) (n : Nat) : State :=
  match ppNow s n 0x00 with
  | none => s
  | some (p, _, f, g) =>
    let st := p.staged.filter (fun x => decide (x.1 < g.ch))
    ppLeave (if p.bad then s else smpWrite s n f g st) n

end Sys2Proof.Machine
end

