-- ==== Sys2Proof/Machine/GlzRay.lean ====
section
/-! DEFINITION. Glaziers: ray traversal of the bounding volume hierarchy (R687 to R690). -/

namespace Sys2Proof.Machine

/-- A hit: t, u, v, triangle index. -/
structure Hit where
  t : Word
  u : Word
  v : Word
  prim : Nat
  deriving DecidableEq, Repr

/-- A traversal under way: the best hit, why it failed (0 not, 1 too deep, 2 invalid, otherwise a read failed), and the
state. -/
structure Trav where
  best : Option Hit := none
  err : Nat := 0
  st : State

/-- What all visits of a traversal share: Glazier, mode ANY, the ray's words. -/
structure RayCtx where
  n : Nat
  any_ : Bool
  ray : List Word
  deriving DecidableEq, Repr

def wordsAt (bs : List Byte) (o k : Nat) : List Word := (List.range k).map (fun i => wordAt bs (o + 4 * i))

/-- The traversal has ended. -/
def Trav.over (c : RayCtx) (t : Trav) : Bool := t.err != 0 || (c.any_ && t.best.isSome)

/-- A hit takes the place of the best one: smaller t, then smaller PRIM (R689). -/
def better (h : Hit) (b : Option Hit) : Bool :=
  match b with
  | none => true
  | some b => Fv.lt (f32 h.t) (f32 b.t) || (!Fv.lt (f32 b.t) (f32 h.t) && decide (h.prim < b.prim))

/-- One triangle of a leaf (R688). -/
def triVisit (c : RayCtx) (i : Nat) (t : Trav) : Trav :=
  if t.over c then t
  else
    let g := getGlz t.st c.n
    let (ok, bs, s1) := glzRead t.st c.n g.bnode (g.btri + 48 * i) 48
    if ok = false then { t with err := 3, st := s1 }
    else match Config.triHit (wordsAt bs 0 9) c.ray with
      | none => { t with st := s1 }
      | some (x, u, v) =>
        let w (k : Nat) : Fv := f32 ((c.ray[k]?).getD 0)
        let h : Hit := ⟨x, u, v, i⟩
        if Fv.le (w 6) (f32 x) && Fv.le (f32 x) (w 7) && better h t.best then { t with best := some h, st := s1 }
        else { t with st := s1 }

/-- Children in ascending order of entry distance, ties to the lower index (R688). -/
def byEntry : List (Word × Word) → List (Word × Word)
  | [] => []
  | a :: r =>
    let ins := byEntry r
    let rec go : List (Word × Word) → List (Word × Word)
      | [] => [a]
      | b :: l => if Fv.lt (f32 b.1) (f32 a.1) then b :: go l else a :: b :: l
    go ins

/-- The non-empty children of a node that the ray enters: entry distance and ref. -/
def children (c : RayCtx) (bs : List Byte) : List (Word × Word) :=
  byEntry ((List.range 4).filterMap (fun k =>
    let ref := wordAt bs (96 + 4 * k)
    if fld ref 31 30 = 0 then none
    else (Config.boxEntry (wordsAt bs (24 * k) 6) c.ray).map (fun e => (e, ref))))

/-- A child ref is visited, at most `fuel` levels deep (R688, R690). -/
def visit (c : RayCtx) : Nat → Word → Trav → Trav
  | 0, _, t => { t with err := 1 }
  | k + 1, ref, t =>
    match fld ref 31 30 with
    | 0 => t
    | 1 =>
      let g := getGlz t.st c.n
      let (ok, bs, s1) := glzRead t.st c.n g.bnode (g.broot + 128 * fld ref 29 0) 128
      if ok = false then { t with err := 3, st := s1 }
      else (children c bs).foldl (fun t x => if t.over c then t else visit c k x.2 t) { t with st := s1 }
    | 2 =>
      let m := fld ref 29 24
      if m = 0 then { t with err := 2 }
      else (List.range m).foldl (fun t i => triVisit c (fld ref 23 0 + i) t) t
    | _ => { t with err := 2 }

/-- A ray that misses everything by R689. -/
def rayDead (ray : List Word) : Bool :=
  let w (k : Nat) : Fv := f32 ((ray[k]?).getD 0)
  ray.any (fun x => (f32 x).isNan) || Fv.lt (w 7) (w 6)

def hitBytes (t u v p : Nat) : List Byte := leBytes 4 t ++ leBytes 4 u ++ leBytes 4 v ++ leBytes 4 p

/-- A hit whose contents the spec does not state after a read that failed. -/
def hitOpen (s : State) : List Byte × State :=
  let (a, s1) := takeFree s
  (leBytes 16 a, s1)

/-- The hit record of a ray (R689, R690). -/
def hitOf (c : RayCtx) (t : Trav) : List Byte × State :=
  match t.err with
  | 0 => match t.best with
    | some h => (hitBytes h.t.toNat h.u.toNat h.v.toNat h.prim, t.st)
    | none => (hitBytes 0x7F800000 0 0 0xFFFFFFFF, t.st)
  | 3 => hitOpen t.st
  | e =>
    let s1 := glzFailAs t.st c.n 0x16 0
    let (u, s2) := takeFree s1
    let (v, s3) := takeFree s2
    (hitBytes 0x7FC00000 u v (if e = 1 then 0xFFFFFFFE else 0xFFFFFFFD), s3)

/-- One ray (R687). -/
def rayOne (n : Nat) (any_ : Bool) (tn : Word) (ra ha i : Nat) (s : State) : State :=
  let (ok, bs, s1) := glzRead (glzCount s n 0x0C8 1) n tn (ra + 32 * i) 32
  let ray := wordsAt bs 0 8
  let c : RayCtx := ⟨n, any_, ray⟩
  let (h, s2) :=
    if ok = false then hitOpen s1
    else if rayDead ray then hitOf c { st := s1 }
    else hitOf c (visit c 65 0x40000000 { st := s1 })
  glzWrite s2 n tn (ha + 16 * i) h

/-- RAYQ (R687). -/
def glzRayq (s : State) (n : Nat) (r : List Byte) : State :=
  let f (s : State) (i : Nat) : State :=
    rayOne n (byteField r 4 1 == 1) (wordAt r 8) (byteField r 12 6) (byteField r 18 6) i s
  (List.range (byteField r 24 4)).foldl f s

end Sys2Proof.Machine
end

