-- ==== Sys2Proof/Machine/Glazier.lean ====
section
/-! DEFINITION. The commands of the Glaziers: submission, records, fragments that retire, pixel-program instructions. -/

namespace Sys2Proof.Machine

/-- R659. -/
def execGlzRingFetch (n : Nat) (s : State) : Host.Outcome State Fault Refusal := .next (glzFetch s n)

/-- R660. -/
def execGlzQueueMsg (n : Nat) (s : State) : Host.Outcome State Fault Refusal := .next (glzMsg s n)

/-- R663, R665. -/
def execTarget (n : Nat) (s : State) : Host.Outcome State Fault Refusal :=
  .next (glzSimple s n 0x01 (fun s r => glzTarget s n r))

/-- R666. -/
def execRegion (n : Nat) (s : State) : Host.Outcome State Fault Refusal :=
  .next (glzSimple s n 0x02 (fun s r => glzRegion s n r))

/-- R665. -/
def execCgroup (n : Nat) (s : State) : Host.Outcome State Fault Refusal :=
  .next (glzSimple s n 0x03 (fun s r => glzCgroup s n r))

/-- R663. -/
def execDstate (n : Nat) (s : State) : Host.Outcome State Fault Refusal :=
  .next (glzSimple s n 0x04 (fun s r => glzDstate s n r))

/-- R678: PROG waits for fragments whose records sampled the program it changes. -/
def execProg (n : Nat) (s : State) : Host.Outcome State Fault Refusal :=
  if progBusy s n then .next s else .next (glzSimple s n 0x05 (fun s r => glzProg s n r))

/-- R662. -/
def execLoper (n : Nat) (s : State) : Host.Outcome State Fault Refusal :=
  .next (glzSimple s n 0x06 (fun s r => glzLoper s n r))

/-- R669, R671, R672, R680, R683. -/
def execDraw (n : Nat) (flt : List UFault) (s : State) : Host.Outcome State Fault Refusal :=
  .next (glzRecord s n 0x10 (fun s r => glzDraw (addFaults s flt) n r))

/-- R671, R673, R680, R683. -/
def execSplat (n : Nat) (flt : List UFault) (s : State) : Host.Outcome State Fault Refusal :=
  .next (glzRecord s n 0x11 (fun s r => glzSplat (addFaults s flt) n r))

/-- R663. -/
def execClear (n : Nat) (s : State) : Host.Outcome State Fault Refusal :=
  .next (glzSimple s n 0x20 (fun s r => glzClear s n r))

/-- R670. -/
def execDresolve (n : Nat) (s : State) : Host.Outcome State Fault Refusal :=
  .next (glzSimple s n 0x21 (fun s r => glzDresolve s n r))

/-- R663. -/
def execBvh (n : Nat) (s : State) : Host.Outcome State Fault Refusal :=
  .next (glzSimple s n 0x30 (fun s r => glzBvh s n r))

/-- R687 to R690. -/
def execRayq (n : Nat) (flt : List UFault) (s : State) : Host.Outcome State Fault Refusal :=
  .next (glzSimple s n 0x31 (fun s r => glzRayq (addFaults s flt) n r))

/-- R674: every earlier record has completed. -/
def execGlzFence (n : Nat) (s : State) : Host.Outcome State Fault Refusal :=
  if (getGlz s n).frags = [] then .next (glzSimple s n 0x40 (fun s r => glzFence s n r)) else .next s

/-- R675 to R677. -/
def execFragmentRetire (n : Nat) (flt : List UFault) (s : State) : Host.Outcome State Fault Refusal :=
  .next (fragRetire (addFaults s flt) n)

/-- R683, R685. -/
def execGlzPaused (n : Nat) (s : State) : Host.Outcome State Fault Refusal := .next (glzPaused s n)

/-- R677, R678. -/
def execPpEnd (n : Nat) (s : State) : Host.Outcome State Fault Refusal := .next (ppCommit s n)

/-- R677. -/
def execPpMov (n : Nat) (s : State) : Host.Outcome State Fault Refusal := .next (ppAlu s n 0x01 (fun _ a _ => a))

/-- R677. -/
def execPpAdd (n : Nat) (s : State) : Host.Outcome State Fault Refusal := .next (ppAlu s n 0x02 (fun _ a b => fAdd a b))

/-- R677. -/
def execPpSub (n : Nat) (s : State) : Host.Outcome State Fault Refusal := .next (ppAlu s n 0x03 (fun _ a b => fSub a b))

/-- R677. -/
def execPpMul (n : Nat) (s : State) : Host.Outcome State Fault Refusal := .next (ppAlu s n 0x04 (fun _ a b => fMul a b))

/-- R677. -/
def execPpFma (n : Nat) (s : State) : Host.Outcome State Fault Refusal := .next (ppAlu s n 0x05 (fun d a b => fFma a b d))

/-- R677. -/
def execPpMin (n : Nat) (s : State) : Host.Outcome State Fault Refusal := .next (ppAlu s n 0x06 (fun _ a b => fMin a b))

/-- R677. -/
def execPpMax (n : Nat) (s : State) : Host.Outcome State Fault Refusal := .next (ppAlu s n 0x07 (fun _ a b => fMax a b))

/-- R678. -/
def execPpRcp (n : Nat) (s : State) : Host.Outcome State Fault Refusal := .next (ppAlu s n 0x08 (fun _ a _ => ppRecip a))

/-- R678. -/
def execPpRsq (n : Nat) (s : State) : Host.Outcome State Fault Refusal := .next (ppAlu s n 0x09 (fun _ a _ => ppRsqrt a))

/-- R678. -/
def execPpEx2 (n : Nat) (s : State) : Host.Outcome State Fault Refusal := .next (ppAlu s n 0x0A (fun _ a _ => ppExp2 a))

/-- R678. -/
def execPpLg2 (n : Nat) (s : State) : Host.Outcome State Fault Refusal := .next (ppAlu s n 0x0B (fun _ a _ => ppLog2 a))

/-- R677: a BF16 is the upper half of an FP32. -/
def execPpLdi (n : Nat) (s : State) : Host.Outcome State Fault Refusal :=
  match ppNow s n 0x0C with
  | none => .next s
  | some (p, w, _, _) => .next (ppSet s n p w (BitVec.ofNat 32 (fld w 15 0 * 65536)))

/-- R677. -/
def execPpLdf (n : Nat) (s : State) : Host.Outcome State Fault Refusal := .next (ppField s n)

/-- R677, R680. -/
def execPpLdp (n : Nat) (s : State) : Host.Outcome State Fault Refusal := .next (ppPixel s n)

/-- R678. -/
def execPpStp (n : Nat) (s : State) : Host.Outcome State Fault Refusal := .next (ppStage s n)

/-- R677. -/
def execPpKill (n : Nat) (s : State) : Host.Outcome State Fault Refusal := .next (ppKillIf s n)

end Sys2Proof.Machine
end

