-- ==== Sys2Proof/Machine/HbmOps.lean ====
section
/-! DEFINITION. Patrol scrub, refresh and temperature of the HBM stacks. -/

namespace Sys2Proof.Machine

/-- Bytes of a pseudo-channel (Table 1.3). -/
def pcBytes (a : Assembly) : Nat := a.hole / (32 * a.stacks)

/-- The fabric address of byte pa of the pseudo-channel at column x, edge e: R353 read backwards. -/
def pcAddr (asm : Assembly) (x e pa : Nat) : Nat :=
  let ns := asm.stacks
  let p := 32 * ns
  let q := pa / 2048
  let h := (q ^^^ (q / 128) ^^^ (q / 16384)) % 128
  let idx := ((popSites asm).findIdx? (· == e * 4 + x / 32)).getD 0
  let c := x % 32 * ns + idx
  (q * p + (c + p - h % p) % p) * 2048 + pa % 2048

/-- The controller of a pseudo-channel works: populated, trained, not retired. -/
def pcLive (s : State) (x e : Nat) : Bool :=
  pagePresent s (.mem x e) && rbit s (.mem x e) 0x084 0 && !rbit s (.mem x e) 0x014 6

/-- A unit is scrubbed: corrected and rewritten, or counted and left (R600). -/
def scrubUnit (s : State) (x e u : Nat) : State :=
  match unitErr s u with
  | none => s
  | some f => if f.ue && !f.once then memUE s x e u 0 0 0 else corrected (clearUnit s u) (.mem x e) 1

/-- Patrol scrub visits its next unit (R600, Table 14.8). -/
def scrubVisit (s : State) (x e : Nat) (flt : List UFault) : State :=
  let p := Page.mem x e
  if pcLive s x e = false ∨ rfld s p 0x080 7 0 = 0 then s
  else
    let i := rfld s p 0x094 25 0
    let s1 := if parHit flt then memPar s x e 0 0 0
      else scrubUnit (addFaults s flt) x e (pcAddr s.fuses.asm x e (32 * i) / 32)
    putFld s1 p 0x094 25 0 ((i + 1) % (pcBytes s.fuses.asm / 32))

/-- A refresh (R601). -/
def refreshOne (s : State) (x e : Nat) : State :=
  if pcLive s x e then modEdge s x e (fun g => { g with refreshes := g.refreshes + 1 }) else s

/-- One page of a stack takes the temperature; HOT and its interrupt above 85 °C (R602). -/
def tempPage (s : State) (x e c : Nat) : State :=
  let p := Page.mem x e
  if pagePresent s p = false then s
  else
    let s1 := putBit (putFld s p 0x084 15 8 c) p 0x084 1 (85 < c)
    if 85 < c ∧ rbit s p 0x084 1 = false then isrBit s1 p 2 else s1

/-- A stack reports its temperature. -/
def stackTemp (s : State) (site c : Nat) : State :=
  (List.range 32).foldl (fun s k => tempPage s (32 * (site % 4) + k) (site / 4) (min c 255)) s

end Sys2Proof.Machine
end

