-- ==== Sys2Proof/Machine/Hbm.lean ====
section
/-! DEFINITION. The memory stacks: scrub, refresh, temperature. -/

namespace Sys2Proof.Machine

/-- R600. -/
def execScrubVisit (x e : Nat) (flt : List UFault) (s : State) : Host.Outcome State Fault Refusal :=
  .next (scrubVisit s x e flt)

/-- R601. -/
def execRefresh (x e : Nat) (s : State) : Host.Outcome State Fault Refusal := .next (refreshOne s x e)

/-- R602. -/
def execStackTemperature (site celsius : Nat) (s : State) : Host.Outcome State Fault Refusal :=
  .next (stackTemp s site celsius)

end Sys2Proof.Machine
end

