-- ==== Sys2Proof/Machine/ScanOps.lean ====
section
/-! DEFINITION. The debug scan window: what a stopped tile shows over the scan network. -/

namespace Sys2Proof.Machine

/-- 32 bits from byte o of a list of bytes; past its end they are 0. -/
def bytesWord (bs : List Byte) (o : Nat) : Word := BitVec.ofNat 32 (leNat ((bs.drop o).take 4))

/-- Even parity of 32 bits (Table 8.1). -/
def parityOf (x : Nat) : Nat := ((List.range 32).map (fun i => x / 2 ^ i % 2)).sum % 2

/-- PAR of 256 data bits (Table 8.1). -/
def parBits (x : Nat) : Nat := ((List.range 8).map (fun k => parityOf (x / 2 ^ (32 * k)) * 2 ^ k)).sum

/-- A flit as a router buffer holds it: 256 data bits and 16 of sideband (Table 8.1). -/
structure FlitView where
  bits : Nat
  side : Nat
  dark : Bool
  deriving DecidableEq, Repr

/-- The flits of a packet that an input VC holds, with their sidebands. -/
def flitViews (w : Worm) : List FlitView :=
  let p := w.pkt
  let n := p.data.length
  let h := hdrNat p
  let whole := w.tl && w.rest.isEmpty
  let head : FlitView := ⟨h, parBits h * 256 + 64 + (if n = 0 ∧ whole then 32 else 0), isDark p⟩
  (if w.hd then [head] else []) ++ (List.range n).map (fun i =>
    let f := (p.data[i]?).getD ⟨0, false⟩
    let last := i + 1 == n && whole
    ⟨f.bits.toNat, parBits f.bits.toNat * 256 + (if f.poi then 128 else 0) + (if last then 32 + p.endb % 32 else 31), isDark p⟩)

/-- The 64 bytes of a buffer slot (Table 18.4); the data of a dark packet reads 0 (R742). -/
def slotBytes (f : Option FlitView) : List Byte :=
  match f with
  | none => List.replicate 64 0
  | some f => leBytes 32 (if f.dark then 0 else f.bits) ++ leBytes 2 f.side ++ [1] ++ List.replicate 29 0

/-- Router input buffers: slot ((p·4 + v)·8 + f), with the oldest flits first. -/
def scanRin (s : State) (t o : Nat) : Word :=
  let k := o / 512
  let fl := ((getRin s t (k / 4) (k % 4)).map flitViews).getD []
  bytesWord (slotBytes (fl[o / 64 % 8]?)) (o % 64)

/-- Fork header slots. -/
def scanFork (s : State) (t o : Nat) : Word :=
  match (getTile s t).fork[o / 64]? with
  | some e => bytesWord (leBytes 32 (if isDark e.pkt then 0 else hdrNat e.pkt) ++ [1]) (o % 64)
  | none => 0

/-- Queued command words of CMP, MOV and CMB, oldest first. -/
def scanQueue (s : State) (t o : Nat) : Word :=
  let x := getTile s t
  let q := match o / 256 with
    | 0 => x.cmpQ
    | 1 => x.movQ
    | _ => x.cmbQ
  match q[o % 256 / 16]? with
  | some c => bytesWord (leBytes 16 c.word.toNat) (o % 16)
  | none => 0

/-- Headers of packets in the injection queues. -/
def scanIq (s : State) (t o : Nat) : Word :=
  match (iqOf (getTile s t) (o / 256))[o % 256 / 32]? with
  | some p => if isDark p then 0 else bytesWord (leBytes 32 (hdrNat p)) (o % 32)
  | none => 0

/-- TM with channel memory as 0 (R742). -/
def scanTm (s : State) (t o : Nat) : Word :=
  BitVec.ofNat 32 (leNat ((List.range 4).map (fun i =>
    if channelMem s t (o + i) 1 then 0 else getByte s.mem (tmKey t (o + i)))))

/-- A value of the model's own for bytes whose layout the spec does not give (log 25). -/
def scanFree (s : State) : Word × State :=
  let (n, s1) := takeFree s
  (BitVec.ofNat 32 n, s1)

/-- A tile that may be read: stopped on every page that R740 names; an isolated tile on its router's (R743). -/
def scanOpen (s : State) (t : Nat) : Bool :=
  pagePresent s (.til t) && stopped s (.rtr t)
    && (isolated s t || (stopped s (.seq t) && stopped s (.cmp t) && stopped s (.mov t) && stopped s (.cmb t)))

/-- 32 bits at an offset of a slot (Table 18.4). -/
def scanAt (s : State) (t o : Nat) : Word × State :=
  if 0x68000 ≤ o ∧ o < 0x70000 then
    ((match tilePage t ((o - 0x68000) / 0x1000) with
      | some p => regView s p (o % 0x1000)
      | none => 0), s)
  else if 0x5C000 ≤ o ∧ o < 0x5E800 then (scanRin s t (o - 0x5C000), s)
  else if 0x60000 ≤ o ∧ o < 0x61000 then 
    (if (getTile s t).fork.all (fun e => isDark e.pkt) then (0, s) else scanFree s)
  else if 0x61000 ≤ o ∧ o < 0x61080 then (scanFork s t (o - 0x61000), s)
  else if isolated s t then (0, s)
  else if o < 0x30000 then (scanTm s t o, s)
  else if o < 0x50000 then (bytesWord (readMem s (amKey t (o - 0x30000)) 4) 0, s)
  else if o < 0x58000 then (bytesWord (readMem s (cmKey t (o - 0x50000)) 4) 0, s)
  else if o < 0x58300 then (scanQueue s t (o - 0x58000), s)
  else if 0x58400 ≤ o ∧ o < 0x58800 then (scanIq s t (o - 0x58400), s)
  else if 0x59000 ≤ o ∧ o < 0x5B000 then (if (getTile s t).trb = [] then (0, s) else scanFree s)
  else (0, s)

/-- A read of the window under a base: 32 bits, or 0 and NOTSTOP (R739, R740, R744). -/
def scanWindow (s : State) (base addr : Nat) : Word × State :=
  let t := 64 * base + addr / 0x80000
  if scanOpen s t then scanAt s t (addr % 0x80000 / 4 * 4) else (0, putBit s .dbgp 0x0A4 0 true)

/-- A read of the window by the host. -/
def scanHost (s : State) (addr : Nat) : Word × State := scanWindow s (rfld s .dbgp 0x0A0 7 0) addr

/-- A write to the window is discarded (R741). -/
def scanWrite (s : State) : State := putBit s .dbgp 0x0A4 1 true

end Sys2Proof.Machine
end

