-- ==== Sys2Proof/Machine/HostOps.lean ====
section
/-! DEFINITION. Host accesses to BAR0, BAR2 and BAR4, configuration requests, function resets, the SMBus target. -/

namespace Sys2Proof.Machine

/-! ## What a host access reaches -/

/-- The HIF takes a host access: the link is up, boot has ended, and the block is not halted (R613, R728). -/
def hostUp (s : State) : Bool := s.hif.perst && (bootStage s == 7 || bootStage s == 8) && !stopped s .hif

/-- A BAR that a fabric reset or a failed package closes (R396, R792). -/
def barShut (s : State) (bar : Nat) : Bool := pkgFailed s || (s.mgt.running == some .fabric && (bar == 0 || bar == 4))

/-- What lies at a register address of BAR0 or BAR2 (Table 3.2). -/
inductive BarAt where
  | page (p : Page) (off : Nat)
  | vec (off : Nat)
  | pba (w : Nat)
  | scan (off : Nat)
  | empty
  /-- what a failed package does not answer for -/
  | shut
  deriving DecidableEq, Repr

def barAt (s : State) (bar a : Nat) : BarAt :=
  let onPage (o : Option Page) : BarAt := match o with
    | some p => .page p (a % 0x1000)
    | none => .empty
  if bar = 0 then onPage (if a < 0x20000000 then bar0Page s a else none)
  else if 0x304000 ≤ a ∧ a < 0x30C000 then .vec (a - 0x304000)
  else if 0x30C000 ≤ a ∧ a < 0x30C100 then .pba ((a - 0x30C000) / 4)
  else if 0x2000000 ≤ a ∧ a < 0x4000000 then .scan (a - 0x2000000)
  else onPage (bar2Page s a)

/-- In a failed package only the MGT page and the HIF page answer (R396). -/
def failedAt (s : State) (b : BarAt) : BarAt :=
  match b with
  | .page p off => if pkgFailed s && !failedPage p then .shut else .page p off
  | b => if pkgFailed s then .shut else b

/-- Register addresses that an access touches, in ascending order (R101, R103). -/
def regSpan (a n : Nat) : List Nat :=
  if n = 0 then [] else (List.range ((a + n - 1) / 4 - a / 4 + 1)).map (fun i => (a / 4 + i) * 4)

/-! ## Reads (R133, R615 to R618) -/

/-- A part that is answered at once. -/
def partNow (c : Cpl) (v : Word) : HostPart := { res := some (c, leBytes 4 v.toNat) }

/-- One register of a host read: what is known at once, or the request that brings it. -/
def readReg (s : State) (id bar a : Nat) : HostPart × State :=
  match failedAt s (barAt s bar a) with
  | .shut => ({ res := some (.ur, []) }, s)
  | .empty => (partNow .sc 0, s)
  | .vec o => (partNow .sc (vecWord (getVec s (o / 16)) (o % 16 / 4)), s)
  | .pba w => (partNow .sc (pbaWord s w), s)
  | .scan o =>
    let r := scanHost s o
    (partNow .sc r.1, r.2)
  | .page p off =>
    if pkgFailed s then
      let r := regRead s p off
      (partNow .sc r.1, r.2)
    else if p = .hif ∧ off = 0x08C then ({}, s)
    else
      let n := pageNode s p off
      let r := hifRequest s id bar false n.1 opREGRD n.2 0 []
      ({ tag := some r.1 }, r.2)

/-- One span of a BAR4 read. -/
def readMemPart (s : State) (id : Nat) (x : Nat × Nat) : HostPart × State :=
  let r := hifRequest s id 4 false (memNodeOf s (bar4Pkg s) x.1) opRD x.1 x.2 []
  ({ tag := some r.1 }, r.2)

/-- The parts of a read, in address order. -/
def readParts (f : State → Nat → HostPart × State) : List Nat → State → List HostPart × State
  | [], s => ([], s)
  | a :: r, s =>
    let x := f s a
    let y := readParts f r x.2
    (x.1 :: y.1, y.2)

/-- A new number for a host access. -/
def hostId (s : State) : Nat × State := (s.hif.nextId, modHif s (fun h => { h with nextId := h.nextId + 1 }))

/-- A read with these parts is entered, and completed when nothing is awaited. -/
def readEnter (s : State) (id : Nat) (parts : List HostPart) : State :=
  syncPump (modHif s (fun h => { h with rds := h.rds ++ [{ id := id, parts := parts }] }))

/-- A host read (R618). -/
def hostReadOp (s : State) (bar a n : Nat) : State :=
  if hostUp s = false then s
  else
    let h := hostId s
    if barShut s bar ∧ (bar = 4 ∨ bar = 0) then emit h.2 (.host h.1 .ur [])
    else if bar = 4 then
      let sp := spansOf (bar4Addr s a) n
      let x := readParts (fun s i => readMemPart s h.1 ((sp[i]?).getD (0, 0))) (List.range sp.length) h.2
      readEnter x.2 h.1 x.1
    else
      let x := readParts (fun s r => readReg s h.1 bar r) (regSpan a n) h.2
      readEnter x.2 h.1 x.1

/-! ## Writes (R102, R615, R617) -/

/-- A host write of one register. A partial one takes the same way to the page, which discards it (R102), so that writes
keep their order (R103, R131). -/
def writeReg (s : State) (id bar a : Nat) (v : Word) (be : BitVec 4) : State :=
  if be = 0 then s
  else match failedAt s (barAt s bar a) with
    | .empty | .pba _ | .shut => s
    | .vec o => msixWrite s o v be
    | .scan _ => scanWrite s
    | .page p off =>
      if pkgFailed s then (regWrite s { src := .host, be := be } p off v).2
      else
        let n := pageNode s p off
        (hifRequest s id bar true n.1 opREGWR n.2 0 (leBytes 4 v.toNat) be).2

/-- Data and byte enables of the register at r of a write of bytes at a. -/
def writeWord (a : Nat) (bytes : List Byte) (be : List Bool) (r : Nat) : Word × BitVec 4 :=
  let at_ (i : Nat) : Option Nat := if a ≤ r + i ∧ r + i < a + bytes.length then some (r + i - a) else none
  let b (i : Nat) : Byte := ((at_ i).bind (fun k => bytes[k]?)).getD 0
  let e (i : Nat) : Bool := ((at_ i).bind (fun k => be[k]?)).getD false
  (BitVec.ofNat 32 (leNat ((List.range 4).map b)), BitVec.ofNat 4 (((List.range 4).map (fun i => bitNat (e i) * 2 ^ i)).sum))

/-- First enabled byte, and how many bytes from it on are enabled without a gap; none where a gap lies between enabled
bytes. -/
def enabledRun (be : List Bool) : Option (Nat × Nat) :=
  let k := (be.takeWhile (fun b => !b)).length
  let r := be.drop k
  let n := (r.takeWhile (fun b => b)).length
  if (r.drop n).any (fun b => b) then none else some (k, n)

/-- A write of BAR4: WR packets, or PARTIAL (R617). -/
def writeMemHost (s : State) (id a : Nat) (bytes : List Byte) (be : List Bool) : State :=
  match enabledRun (be.take bytes.length) with
  | none => captureOpen false s .hif 3 0 0 0 none 0
  | some (k, n) =>
    let a0 := bar4Addr s a + k
    (spansOf a0 n).foldl (fun s x =>
      (hifRequest s id 4 true (memNodeOf s (bar4Pkg s) x.1) opWR x.1 0 ((bytes.drop (k + (x.1 - a0))).take x.2)).2) s

/-- A host write (R615). -/
def hostWriteOp (s : State) (bar a : Nat) (bytes : List Byte) (be : List Bool) : State :=
  if hostUp s = false ∨ (barShut s bar ∧ bar ≠ 2) then s
  else
    let h := hostId s
    if bar = 4 then writeMemHost h.2 h.1 a bytes be
    else (regSpan a bytes.length).foldl (fun s r =>
      let w := writeWord a bytes be r
      writeReg s h.1 bar r w.1 w.2) h.2

/-- A host read of HIF_SYNC (R133). -/
def hifSyncOp (s : State) : State := hostReadOp s 2 0x30208C 4

/-! ## Resends and timeouts (R618, R619) -/

/-- The resend interval of a refused request ends. -/
def hifResendDue (s : State) (tag : Half) : State :=
  match s.hif.accs.find? (fun a => a.tag == tag && a.due.isSome) with
  | some a => if stopped s .hif then s else hifResend (atLeast s (a.due.getD 0)) a
  | none => s

/-- CTO of a request ends. -/
def hifCtoDue (s : State) (tag : Half) : State :=
  match s.hif.accs.find? (fun a => a.tag == tag && a.due.isNone) with
  | some a => if stopped s .hif then s else hifTimeout (atLeast s a.till) a
  | none => s

/-! ## Configuration, resets, the link (R613, R614) -/

/-- Completion of a configuration request; PERST_N deasserted 80 ms ago draws Retry Status until boot has ended, and
Successful Completion from 700 ms at the latest. -/
def cfgStatus (s : State) : Cpl :=
  if s.hif.perst = false ∨ s.time < s.hif.perstAt + ticks 80000000 then .noCpl
  else if bootStage s = 7 ∨ bootStage s = 8 ∨ s.hif.perstAt + ticks 700000000 ≤ s.time then .sc
  else .crs

/-- A configuration request (R613, R623). -/
def configOp (s : State) (op : CfgOp) : State :=
  let s1 := emit s (.cfg (cfgStatus s))
  if cfgStatus s ≠ .sc then s1
  else match op with
    | .read => s1
    | .setBme b => msixFlush (modHif s1 (fun h => { h with bme := b }))
    | .setFmask b => msixFlush (modHif s1 (fun h => { h with fmask := b }))

/-- A Function Level Reset (R614); it does not unlock the page (R123) and the link stays up. -/
def flrOp (s : State) : State :=
  if s.hif.perst = false then s
  else
    let s1 := keepReg s (keepReg s (keepReg s (resetRegs s .hif 0 0x1000) .hif 0x018) .hif 0x014) .hif 0x098
    modHif s1 (fun h => { h with accs := [], rds := [], vecs := [], bme := false, fmask := false })

/-- PERST_N deasserts and the link trains; the rate and width that it reaches are free values (log 8). -/
def perstUp (s : State) : State :=
  if s.hif.perst then s
  else
    let (n, s1) := takeFree s
    let rate := 1 + n % 6
    let flit := if rate = 6 then 1 else n / 30 % 2
    let s2 := putReg s1 .hif 0x098 (BitVec.ofNat 32 (rate + 2 ^ (n / 6 % 5) * 16 + flit * 512))
    modHif s2 (fun h => { h with perst := true, perstAt := s.time })

/-! ## MSI-X (R623, R624) -/

/-- A vector, or the function, is unmasked. -/
def msixOpen (s : State) (vec : Option Nat) : State :=
  match vec with
  | some v => msixFlush (setVec s (v % 2048) { getVec s (v % 2048) with masked := false })
  | none => msixFlush (modHif s (fun h => { h with fmask := false }))

/-- A coalescing window ends. -/
def msixWindow (s : State) (v : Nat) : State :=
  let x := getVec s v
  match x.lastAt, x.deferred with
  | some a, true =>
    let s1 := atLeast s (a + ticks x.win)
    if vecOpen s1 v then msixSend s1 v else setVec s1 v { getVec s1 v with deferred := false, pend := true }
  | _, _ => s

/-! ## SMBus (R626, R627) -/

/-- MGT firmware runs. -/
def smbRdy (s : State) : Bool := bootStage s != 0 && s.mgt.vstby && !s.mgt.thermtrip

/-- The register at an SMBus address: its page and offset. -/
def smbAt (s : State) : Option (Page × Nat) :=
  let a := s.hif.smbAddr.toNat
  let p := if a / 2 ^ 31 = 1 then bar0Page s (a % 2 ^ 29) else bar2Page s (a % 2 ^ 26)
  p.map (fun p => (p, a % 0x1000))

/-- An access that the package does not answer with success (R396, R627, R792). -/
def smbFails (s : State) (p : Page) : Bool :=
  (pkgFailed s && !failedPage p) || (s.mgt.running == some .fabric && pageBase p < 0x20000000)

/-- ADDR. -/
def smbAddrOp (s : State) (a : Word) (pecOk : Bool) : State :=
  if pecOk ∧ s.mgt.vstby then emit (modHif s (fun h => { h with smbAddr := a })) (.smb false none)
  else emit s (.smb true none)

/-- DATA: a read, or a write of a value. -/
def smbDataOp (s : State) (w : Option Word) (pecOk : Bool) : State :=
  if smbRdy s = false ∨ pecOk = false then emit s (.smb true none)
  else match smbAt s with
    | none => emit (modHif s (fun h => { h with smbErr := false })) (.smb false (w.elim (some 0) (fun _ => none)))
    | some (p, off) =>
      let bad := smbFails s p
      let s1 := modHif s (fun h => { h with smbErr := bad })
      if bad then emit s1 (.smb false (w.elim (some 0) (fun _ => none)))
      else match w with
        | some v => emit (regPut s1 .mgt p off v) (.smb false none)
        | none =>
          let r := regRead s1 p off
          emit r.2 (.smb false (some r.1))

/-- STATUS: RDY, ERR, BUSY. Every access completes at once, so BUSY reads 0. -/
def smbStatusOp (s : State) : State :=
  emit s (.smb false (some (BitVec.ofNat 32 (bitNat (smbRdy s) + 2 * bitNat s.hif.smbErr))))

end Sys2Proof.Machine
end

