-- ==== Sys2Proof/Machine/HostIf.lean ====
section
/-! DEFINITION. The host interface: host accesses, configuration, MSI-X, SMBus. -/

namespace Sys2Proof.Machine

/-- R133. -/
def execHifSyncRead (s : State) : Host.Outcome State Fault Refusal := .next (hifSyncOp s)

/-- R101, R103, R108, R615 to R618, R792. -/
def execHostRead (bar addr len : Nat) (s : State) : Host.Outcome State Fault Refusal := .next (hostReadOp s bar addr len)

/-- R102, R103, R131, R615 to R617, R630, R792. -/
def execHostWrite (bar addr : Nat) (bytes : List Byte) (be : List Bool) (s : State) : Host.Outcome State Fault Refusal :=
  .next (hostWriteOp s bar addr bytes be)

/-- R618, Table 14.4. -/
def execHifResend (tag : Half) (s : State) : Host.Outcome State Fault Refusal := .next (hifResendDue s tag)

/-- R618, R619. -/
def execHifCto (tag : Half) (s : State) : Host.Outcome State Fault Refusal := .next (hifCtoDue s tag)

/-- R613. -/
def execConfigRequest (op : CfgOp) (s : State) : Host.Outcome State Fault Refusal := .next (configOp s op)

/-- R614. -/
def execFlr (s : State) : Host.Outcome State Fault Refusal := .next (flrOp s)

/-- R623. -/
def execMsixUnmask (vec : Option Nat) (s : State) : Host.Outcome State Fault Refusal := .next (msixOpen s vec)

/-- R624. -/
def execMsixWindowEnd (vec : Nat) (s : State) : Host.Outcome State Fault Refusal := .next (msixWindow s vec)

/-- R626. -/
def execSmbAddr (a : Word) (pecOk : Bool) (s : State) : Host.Outcome State Fault Refusal := .next (smbAddrOp s a pecOk)

/-- R626, R627. -/
def execSmbData (w : Option Word) (pecOk : Bool) (s : State) : Host.Outcome State Fault Refusal :=
  .next (smbDataOp s w pecOk)

/-- R626. -/
def execSmbStatus (s : State) : Host.Outcome State Fault Refusal := .next (smbStatusOp s)

/-- R613. -/
def execPerstNDeassert (s : State) : Host.Outcome State Fault Refusal := .next (perstUp s)

end Sys2Proof.Machine
end

