-- ==== Sys2Proof/Machine/Links.lean ====
section
/-! DEFINITION. Llynnil links and Ostler: blocks, frames, timers, training, transit packets, and the bridges of the edges. -/

namespace Sys2Proof.Machine

/-- R86, Table 17.1: the word counts in the bucket of the edge; the PCIe data link replays it. -/
def execSyncWordFailure (g : SyncEdge) (s : State) : Host.Outcome State Fault Refusal :=
  match g with
  | .llk n => .next (if dieFitted s (n / 12) then linkErr s n 0x11 else s)
  | .eth n => .next (if dieFitted s (n / 2) then bucketErr s 5 n else s)
  | .mem x e => .next (if edgePop s x e then bucketErr s 2 (edgeKey x e) else s)
  | .pcie => .next s

/-- R551, R552, R555, R568, R569, R573: a block arrives, a wave code in its sideband acts, and in the same time a block
leaves. -/
def execLf128Block (n : Nat) (b : LfBlock) (lost far : List Nat) (s : State) : Host.Outcome State Fault Refusal :=
  let s1 := blockTake s n b lost far
  let s2 := match (getLink s1 n).blk with
    | some (side, _) => if 128 ≤ side.toNat ∧ 4 ≤ llkState s n ∧ llkState s n ≤ 6 then waveTake s1 n (side.toNat % 128) else s1
    | none => s1
  .next (blockSend s2 n)

/-- R560. -/
def execDataFrame (n : Nat) (f : LFrame) (p : Packet) (s : State) : Host.Outcome State Fault Refusal := .next (dataFrame s n f p)

/-- R564. -/
def execCtrlFrame (n : Nat) (f : LFrame) (s : State) : Host.Outcome State Fault Refusal := .next (ctrlFrame s n f)

/-- R561: 200 ns after the oldest frame not acknowledged; credits waiting to be returned go with it. -/
def execAckTimer (n : Nat) (s : State) : Host.Outcome State Fault Refusal :=
  let l := getLink s n
  if llkState s n = 5 ∧ l.toAck ≠ 0 then .next (sendCtrl (atLeast s (l.ackSince + ticks 200)) n false)
  else if llkState s n = 5 ∧ l.owed.any (· != 0) then .next (sendCtrl s n false)
  else .next s

/-- R563: the timer is paused while the link is halted (R730). -/
def execReplayTimeout (n : Nat) (s : State) : Host.Outcome State Fault Refusal :=
  let to_ := (getLink s n).ackTo
  if llkState s n = 5 ∧ stopped s (.llk n) = false ∧ to_ ≠ 0 ∧ (getLink s n).unacked ≠ [] then
    .next (replay (atLeast s ((getLink s n).progressAt + ticks to_)) n)
  else .next s

/-- R566. -/
def execTrainDetect (n : Nat) (lanes : BitVec 8) (s : State) : Host.Outcome State Fault Refusal :=
  .next (trainDetect s n lanes.toNat)

/-- R566. -/
def execTrainEqual (n : Nat) (s : State) : Host.Outcome State Fault Refusal := .next (trainEqual s n)

/-- R566. -/
def execTrainDeskew (n : Nat) (skewed : BitVec 8) (s : State) : Host.Outcome State Fault Refusal :=
  .next (trainDeskew s n skewed.toNat)

/-- R567. -/
def execTrainIdent (n pkg plane link : Nat) (s : State) : Host.Outcome State Fault Refusal :=
  .next (trainIdent s n pkg plane link)

/-- R566. -/
def execTrainTimeout (n : Nat) (s : State) : Host.Outcome State Fault Refusal := .next (trainTimeout s n)

/-- R566, R571: every unacknowledged frame is resent. -/
def execNarrowDeskew (n : Nat) (s : State) : Host.Outcome State Fault Refusal :=
  if llkState s n = 6 then .next (resendAll (accStart (llkSet s n 5 (llkLanes s n)) n) n) else .next s

/-- R579 to R585. -/
def execOswPacket (d : Nat) (s : State) : Host.Outcome State Fault Refusal := .next (oswPacket s d)

end Sys2Proof.Machine
end

