-- ==== Sys2Proof/Machine/Mov.lean ====
section
/-! DEFINITION. MOV: descriptors, commands, completion, resends. -/

namespace Sys2Proof.Machine

/-- R265, R268. -/
def execMaddr (t : Nat) (s : State) : Host.Outcome State Fault Refusal :=
  match movHead s t 0x01 with
  | some q =>
    let w := q.word
    let k := cwBits w 79 77
    let s1 := movNote (popMov s t) t 0x30 w false
    let s2 := putReg s1 (.mov t) (madOff q.lc k) (BitVec.ofNat 32 (cwBits w 76 75 + (if cwBit w 74 then 4 else 0)))
    .next (movPump (movNote (putMadAddr s2 t q.lc k (cwBits w 47 0)) t 0x31 w false) t)
  | none => .next s

/-- R265, R268. -/
def execMnode (t : Nat) (s : State) : Host.Outcome State Fault Refusal :=
  match movHead s t 0x02 with
  | some q =>
    let w := q.word
    let o := madOff q.lc (cwBits w 79 77)
    let s1 := movNote (popMov s t) t 0x30 w false
    let s2 := putReg s1 (.mov t) (o + 0xC) (BitVec.ofNat 32 (cwBits w 63 32))
    .next (movPump (movNote (putReg s2 (.mov t) (o + 0x10) (BitVec.ofNat 32 (cwBits w 31 0))) t 0x31 w false) t)
  | none => .next s

/-- R266. -/
def execCopy (t : Nat) (flt : List UFault) (s : State) : Host.Outcome State Fault Refusal :=
  match movHead s t 0x10 with
  | some q => .next (movBegin (addFaults s flt) t q)
  | none => .next s

/-- R270. -/
def execMovMsg (t : Nat) (flt : List UFault) (s : State) : Host.Outcome State Fault Refusal :=
  match movHead s t 0x11 with
  | some q => .next (movBegin (addFaults s flt) t q)
  | none => .next s

/-- R269. -/
def execMovContrib (t : Nat) (flt : List UFault) (s : State) : Host.Outcome State Fault Refusal :=
  match movHead s t 0x12 with
  | some q => .next (movBegin (addFaults s flt) t q)
  | none => .next s

/-- R278. -/
def execMovComplete (t : Nat) (s : State) : Host.Outcome State Fault Refusal :=
  if movRuns s t then .next (movFinish s t) else .next s

/-- R289, R290: the packet goes again with its TAG through its injection queue. -/
def execMovResend (t : Nat) (tag : Half) (s : State) : Host.Outcome State Fault Refusal :=
  match (getTile s t).movReqs.find? (fun r => r.tag == tag && r.due.isSome) with
  | some r =>
    if movRuns s t ∧ iqRoom s t r.iq then
      let s1 := atLeast s (r.due.getD 0)
      let s2 := modTile s1 t (fun x => { x with
        movReqs := modFirst (fun q => q.tag == tag) (fun q => { q with due := none, inj := none, tries := q.tries + 1, pkt := { q.pkt with tent := false } }) x.movReqs })
      let s3 := if reqDark r then s2
        else sillage s2 (.mov t) 0x33 false r.pkt.layer r.pkt.oper (BitVec.ofNat 32 tag.toNat)
      .next (iqPush s3 t r.iq { r.pkt with tent := false })
    else .next s
  | none => .next s

end Sys2Proof.Machine
end

