-- ==== Sys2Proof/Machine/Registers.lean ====
section
/-! DEFINITION. Register accesses: the common header, and REGRD and REGWR at their endpoint. -/

namespace Sys2Proof.Machine

/-- R100, R102, R107, R110, R113, R117, R120, R122, R129, R141. -/
def execRegisterWrite (src : Src) (p : Page) (off : Nat) (v : Word) (be : BitVec 4) (hw : Option HwUpd) (s : State) :
    Host.Outcome State Fault Refusal :=
  .next (regWrite s { src := src, be := be, hw := hw } p off v).2

/-- R119. -/
def execRcRead (src : Src) (p : Page) (off : Nat) (before after : Option HwUpd) (s : State) :
    Host.Outcome State Fault Refusal :=
  .next (regGetRc s src p off before after)

/-- R104, R118. -/
def execRegisterPairRead (src : Src) (p : Page) (off : Nat) (s : State) : Host.Outcome State Fault Refusal :=
  .next (regGet s src p off)

/-- R122, R123, R124. -/
def execPgLock (src : Src) (p : Page) (s : State) : Host.Outcome State Fault Refusal := .next (regPut s src p 0x018 1)

/-- R127, R128. -/
def execPgIfr (src : Src) (p : Page) (v : Word) (s : State) : Host.Outcome State Fault Refusal :=
  .next (regPut s src p 0x028 v)

/-- R793. -/
def execSrst (src : Src) (p : Page) (s : State) : Host.Outcome State Fault Refusal :=
  .next (regPut s src p 0x010 (rawReg s p 0x010 ||| 2))

/-- R111. -/
def execEvrClr (src : Src) (p : Page) (s : State) : Host.Outcome State Fault Refusal :=
  .next (regPut s src p 0x050 (rawReg s p 0x050 ||| 4))

/-- R751. -/
def execPerfClr (src : Src) (p : Page) (s : State) : Host.Outcome State Fault Refusal :=
  .next (regPut s src p 0x060 (rawReg s p 0x060 ||| 2))

/-- R753. -/
def execSillageW0Read (src : Src) (p : Page) (slot : Nat) (s : State) : Host.Outcome State Fault Refusal :=
  .next (regGet s src p (0xE00 + 16 * (slot % 32)))

/-- R99, R105, R106. -/
def execRegrd (p : Place) (s : State) : Host.Outcome State Fault Refusal := .next (regReq s p opREGRD)

/-- R99, R105, R106, R107, R134. -/
def execRegwr (p : Place) (s : State) : Host.Outcome State Fault Refusal := .next (regReq s p opREGWR)

end Sys2Proof.Machine
end

