-- ==== Sys2Proof/Machine/Scan.lean ====
section
/-! DEFINITION. The debug scan window and the SCANWIN instrument. -/

namespace Sys2Proof.Machine

/-- R739 to R744. -/
def execScanRead (addr : Nat) (s : State) : Host.Outcome State Fault Refusal :=
  let r := scanHost s (addr % 2 ^ 25)
  .next (emit r.2 (.scan r.1))

/-- R745. -/
def execScanwin (addr : BitVec 25) (sel : Byte) (s : State) : Host.Outcome State Fault Refusal :=
  let r := scanWindow s sel.toNat addr.toNat
  .next (emit r.2 (.scan r.1))

end Sys2Proof.Machine
end

