-- ==== Sys2Proof/Machine/Scr.lean ====
section
/-! DEFINITION. Buckets, timeouts, Fuller and isolation: the rows that time and hardware faults drive. -/

namespace Sys2Proof.Machine

/-- R693. -/
def execBucketLeak (kind inst : Nat) (s : State) : Host.Outcome State Fault Refusal :=
  .next (if resourceExists s kind inst then bucketLeak s kind inst else s)

/-- R700, R701. -/
def execResponseTimeout (r : Requester) (s : State) : Host.Outcome State Fault Refusal := .next (respTimeout s r)

/-- R702. -/
def execTagRelease (t : Nat) (tag : Half) (s : State) : Host.Outcome State Fault Refusal := .next (tagFree s t tag)

/-- R712 to R716. -/
def execFullerPass (diffs : List CopyDiff) (s : State) : Host.Outcome State Fault Refusal := .next (fullerPass s diffs)

/-- R390. -/
def execWatchdogExpiry (t : Nat) (s : State) : Host.Outcome State Fault Refusal := .next (watchdog s t)

/-- R383, R83. -/
def execVcorePowerLoss (t : Nat) (s : State) : Host.Outcome State Fault Refusal :=
  .next (isolate (modTile s t (fun x => { x with powered := false })) t 3)

end Sys2Proof.Machine
end

