-- ==== Sys2Proof/Machine/Seq.lean ====
section
/-! DEFINITION. Chandler: the rows that SEQ performs of itself. -/

namespace Sys2Proof.Machine

/-- The next command has the opcode of a SEQ row. -/
def isOpc (o : Nat) (w : CmdWord) : Bool := cwOpc w == o

/-- A SEM command with an operation (R157). -/
def isSem (op : Nat) (w : CmdWord) : Bool := cwOpc w == 5 && cwBits w 73 72 == op

/-- R147: one issue slot, whatever command it takes. -/
def execSeqIssueSlot (t : Nat) (flt : List UFault) (s : State) : Host.Outcome State Fault Refusal :=
  .next (issueSlot (addFaults s flt) t)

/-- R154. -/
def execNop (t : Nat) (s : State) : Host.Outcome State Fault Refusal := .next (issueRow s t (isOpc 0x00))

/-- R209. -/
def execEndList (t : Nat) (s : State) : Host.Outcome State Fault Refusal := .next (issueRow s t (isOpc 0x01))

/-- R172. -/
def execJmp (t : Nat) (s : State) : Host.Outcome State Fault Refusal := .next (issueRow s t (isOpc 0x02))

/-- R177. -/
def execBr (t : Nat) (s : State) : Host.Outcome State Fault Refusal := .next (issueRow s t (isOpc 0x03))

/-- R177, R190: the k-th unresolved branch of a context resolves once its condition is final. -/
def execBranchResolve (t lc k : Nat) (s : State) : Host.Outcome State Fault Refusal :=
  match ((getCtx s t lc).brs.filter (fun b => b.res.isNone))[k]? with
  | some b =>
    if seqRuns s t ∧ condFinal s t lc b.sn b.cond b.sel then
      .next (resolveBranch s t lc b (condTaken s t lc b.cond b.sel b.rel b.imm))
    else .next s
  | none => .next s

/-- R178. -/
def execLdlc (t : Nat) (s : State) : Host.Outcome State Fault Refusal := .next (issueRow s t (isOpc 0x04))

/-- R157. -/
def execSemSet (t : Nat) (s : State) : Host.Outcome State Fault Refusal := .next (issueRow s t (isSem 0))

/-- R158. -/
def execSemAdd (t : Nat) (s : State) : Host.Outcome State Fault Refusal := .next (issueRow s t (isSem 1))

/-- R158. -/
def execSemSub (t : Nat) (s : State) : Host.Outcome State Fault Refusal := .next (issueRow s t (isSem 2))

/-- R198. -/
def execSig (t : Nat) (s : State) : Host.Outcome State Fault Refusal := .next (issueRow s t (isOpc 0x06))

/-- R161. -/
def execWait (t : Nat) (s : State) : Host.Outcome State Fault Refusal := .next (issueRow s t (isOpc 0x07))

/-- R161. -/
def execWaitRelease (t lc : Nat) (s : State) : Host.Outcome State Fault Refusal :=
  .next (waitEnd s t lc (fun w => match w with
    | .sem _ _ _ _ => true
    | _ => false))

/-- R163. -/
def execWaitsel (t : Nat) (s : State) : Host.Outcome State Fault Refusal := .next (issueRow s t (isOpc 0x08))

/-- R163 to R165. -/
def execWaitselSelect (t lc : Nat) (s : State) : Host.Outcome State Fault Refusal :=
  .next (waitEnd s t lc (fun w => match w with
    | .sel _ _ _ => true
    | _ => false))

/-- R168: at the deadline the condition prevails; otherwise the context faults with WAITTO. -/
def execWaitTimeout (t lc : Nat) (s : State) : Host.Outcome State Fault Refusal :=
  match (getCtx s t lc).wait with
  | some w =>
    match w.due with
    | some d =>
      if lcState s t lc = 2 ∧ seqRuns s t then
        let s1 := atLeast s d
        match waitTry s1 t lc w.what with
        | some s2 => .next (waitLeave s2 t lc)
        | none => .next (seqFault s1 t lc 0x13 w.layer w.oper)
      else .next s
    | none => .next s
  | none => .next s

/-- R169. -/
def execFence (t : Nat) (s : State) : Host.Outcome State Fault Refusal := .next (issueRow s t (isOpc 0x09))

/-- R170. -/
def execFenceComplete (t lc : Nat) (s : State) : Host.Outcome State Fault Refusal :=
  .next (waitEnd s t lc (fun w => match w with
    | .fence _ _ _ => true
    | _ => false))

/-- R155: an HDR issued anywhere but at the base is BADCMD. -/
def execHdr (t : Nat) (s : State) : Host.Outcome State Fault Refusal := .next (issueRow s t (isOpc 0xF0))

/-- R209: every command that the context issued has completed, a branch by resolving. -/
def execContextDrained (t lc : Nat) (s : State) : Host.Outcome State Fault Refusal :=
  let x := getTile s t
  if lcState s t lc = 3 ∧ seqRuns s t ∧ inCmp x lc = false ∧ inMov x lc = false ∧ inCmb x lc = false ∧ (getCtx s t lc).brs = [] then
    .next (drained s t lc)
  else .next s

/-- R202, R206, R824: the oldest LOAD is decided, with PG_CTL.EN = 0 as well. -/
def execLoadDecision (t lc : Nat) (s : State) : Host.Outcome State Fault Refusal :=
  if (getTile s t).loads.head? = some lc ∧ stopped s (.seq t) = false ∧ isolated s t = false then
    .next (loadDecide s t lc)
  else .next s

end Sys2Proof.Machine
end

