-- ==== Sys2Proof/Machine/Time.lean ====
section
/-! DEFINITION. Network time, Accord, PPS and the calendar clock: the rows that time and pins drive. -/

namespace Sys2Proof.Machine

/-- R472. -/
def execTimeWave (bad : List Nat) (s : State) : Host.Outcome State Fault Refusal := .next (timeWave s bad)

/-- R462. -/
def execNtWrap (s : State) : Host.Outcome State Fault Refusal := .next (atT s (nextT s (2 ^ 64)))

/-- R496, R467. -/
def execPpsInEdge (s : State) : Host.Outcome State Fault Refusal := .next (ppsIn s)

/-- R467: no edge for 2 s while LOCKED. -/
def execPpsLoss (s : State) : Host.Outcome State Fault Refusal :=
  if tkpSrc s = 1 ∧ tkpState s = 2 then .next (tkpSet (atLeast s (s.tkp.lastEdge.getD 0 + 2 * secTicks)) 3) else .next s

/-- R467: TKP_HOLD seconds in HOLDOVER; 0xFFFF is never. -/
def execHoldoverExpiry (s : State) : Host.Outcome State Fault Refusal :=
  let hold := rfld s (.tkp 0) 0x0B0 15 0
  if (tkpSrc s = 1 ∨ tkpSrc s = 3) ∧ tkpState s = 3 ∧ hold ≠ 0xFFFF then
    .next (tkpSet (atLeast s (s.tkp.holdAt + hold * secTicks)) 0)
  else .next s

/-- R493. -/
def execRtcLoadFromNt (s : State) : Host.Outcome State Fault Refusal := if s.tkp.rtcsync then .next (rtcLoad s) else .next s

/-- R477: a master port sends SYNC, a slave port receives it; one that fails its check is discarded. -/
def execSync (n : Nat) (m : SyncMsg) (crcOk : Bool) (turn : Nat) (s : State) : Host.Outcome State Fault Refusal :=
  if linkUp s n ∧ accRole s n = 1 then .next (syncSend s n)
  else if linkUp s n = false then .next s
  else if crcOk = false then .next (sbErr s n)
  else if accHears s n then .next (syncTake s n m turn)
  else .next s

/-- R477: a master port answers with the time of receipt. -/
def execDreq (n : Nat) (sn : Half) (lanesel crcOk : Bool) (s : State) : Host.Outcome State Fault Refusal :=
  if linkUp s n = false then .next s
  else if crcOk = false then .next (sbErr s n)
  else if accRole s n = 1 then
    .next (emit (sbPush (modLink s n (fun l => { l with lanesel := lanesel })) n (sbDrsp (ntOf s) sn.toNat))
      (.drsp n (ntOf s) sn.toNat))
  else .next (if accRole s n = 0 then modLink s n (fun l => { l with lanesel := lanesel }) else s)

/-- R479. -/
def execDrsp (n t4 : Nat) (sn : Half) (crcOk : Bool) (s : State) : Host.Outcome State Fault Refusal :=
  if linkUp s n = false then .next s
  else if crcOk = false then .next (sbErr s n)
  else if accSlave s n ∧ (getAcc s n).open_ ∧ (getAcc s n).seq = sn.toNat then .next (drspTake s n t4)
  else .next s

/-- R481. -/
def execAccordExchangeMiss (n : Nat) (s : State) : Host.Outcome State Fault Refusal :=
  if accRole s n = 2 ∧ accState s n ≠ 0 ∧ accState s n ≠ 5 then .next (accMiss s n) else .next s

/-- R481: 1 s in HOLDOVER without a complete exchange. -/
def execAccordHoldoverTimeout (n : Nat) (s : State) : Host.Outcome State Fault Refusal :=
  if accState s n = 4 then .next (accSet (atLeast s ((getAcc s n).lastDone + secTicks)) n 2) else .next s

/-- R481, R482: 2 s since CALIB was entered, in CALIB or ACQUIRE. -/
def execAccordAcquireTimeout (n : Nat) (s : State) : Host.Outcome State Fault Refusal :=
  if accState s n = 1 ∨ accState s n = 2 then .next (accSet (atLeast s ((getAcc s n).since + 2 * secTicks)) n 5) else .next s

/-- R489: only while the VSTBY rails are absent. -/
def execVbatLow (s : State) : Host.Outcome State Fault Refusal :=
  if s.mgt.vstby then .next s else .next (putBit s (.tkp 0) 0x0F8 0 true)

/-- R489: the count stands while the crystal is stopped. -/
def execRtcOscStop (s : State) : Host.Outcome State Fault Refusal :=
  .next (putBit (rtcPut s (rtcNow s).1 (rtcNow s).2) (.tkp 0) 0x0F8 1 true)

/-- R489. -/
def execRtcOscResume (s : State) : Host.Outcome State Fault Refusal :=
  .next (putBit (rtcPut s (rtcNow s).1 (rtcNow s).2) (.tkp 0) 0x0F8 1 false)

/-- R495. -/
def execPpsOutRise (s : State) : Host.Outcome State Fault Refusal :=
  if rbit s (.tkp 0) 0x0C0 0 then .next (ppsRise s) else .next s

/-- R495: the pulse ends even when OEN has been cleared. -/
def execPpsOutFall (s : State) : Host.Outcome State Fault Refusal :=
  if s.tkp.ppsOut then
    let s1 := atLeast s s.tkp.ppsAt
    .next (emit { s1 with tkp := { s1.tkp with ppsOut := false } } (.ppsOut false))
  else .next s

end Sys2Proof.Machine
end

