-- ==== Sys2Proof/Machine/Dispatch.lean ====
section
/-! DEFINITION. One arm per command: its meaning. -/

namespace Sys2Proof.Machine

def exec (i : Instr) (s : State) : Host.Outcome State Fault Refusal :=
  match i with
  | .edgeAbsentRequest x e => Sys2Proof.Machine.execEdgeAbsentRequest x e s
  | .ioeAbsentRequest y => Sys2Proof.Machine.execIoeAbsentRequest y s
  | .syncWordFailure g => Sys2Proof.Machine.execSyncWordFailure g s
  | .registerWrite src p off v be hw => Sys2Proof.Machine.execRegisterWrite src p off v be hw s
  | .rcRead src p off before after => Sys2Proof.Machine.execRcRead src p off before after s
  | .registerPairRead src p off => Sys2Proof.Machine.execRegisterPairRead src p off s
  | .hifSyncRead => Sys2Proof.Machine.execHifSyncRead s
  | .pgLock src p => Sys2Proof.Machine.execPgLock src p s
  | .pgIfr src p v => Sys2Proof.Machine.execPgIfr src p v s
  | .srst src p => Sys2Proof.Machine.execSrst src p s
  | .evrClr src p => Sys2Proof.Machine.execEvrClr src p s
  | .perfClr src p => Sys2Proof.Machine.execPerfClr src p s
  | .seqIssueSlot t flt => Sys2Proof.Machine.execSeqIssueSlot t flt s
  | .nop t => Sys2Proof.Machine.execNop t s
  | .endList t => Sys2Proof.Machine.execEndList t s
  | .jmp t => Sys2Proof.Machine.execJmp t s
  | .br t => Sys2Proof.Machine.execBr t s
  | .branchResolve t lc k => Sys2Proof.Machine.execBranchResolve t lc k s
  | .ldlc t => Sys2Proof.Machine.execLdlc t s
  | .semSet t => Sys2Proof.Machine.execSemSet t s
  | .semAdd t => Sys2Proof.Machine.execSemAdd t s
  | .semSub t => Sys2Proof.Machine.execSemSub t s
  | .sig t => Sys2Proof.Machine.execSig t s
  | .wait t => Sys2Proof.Machine.execWait t s
  | .waitRelease t lc => Sys2Proof.Machine.execWaitRelease t lc s
  | .waitsel t => Sys2Proof.Machine.execWaitsel t s
  | .waitselSelect t lc => Sys2Proof.Machine.execWaitselSelect t lc s
  | .waitTimeout t lc => Sys2Proof.Machine.execWaitTimeout t lc s
  | .fence t => Sys2Proof.Machine.execFence t s
  | .fenceComplete t lc => Sys2Proof.Machine.execFenceComplete t lc s
  | .hdr t => Sys2Proof.Machine.execHdr t s
  | .contextDrained t lc => Sys2Proof.Machine.execContextDrained t lc s
  | .load src t lc => Sys2Proof.Machine.execLoad src t lc s
  | .loadDecision t lc => Sys2Proof.Machine.execLoadDecision t lc s
  | .abort src t lc => Sys2Proof.Machine.execAbort src t lc s
  | .predclr src t => Sys2Proof.Machine.execPredclr src t s
  | .tdesc t => Sys2Proof.Machine.execTdesc t s
  | .mm t flt => Sys2Proof.Machine.execMm t flt s
  | .mma t flt => Sys2Proof.Machine.execMma t flt s
  | .mmt t flt => Sys2Proof.Machine.execMmt t flt s
  | .add t flt => Sys2Proof.Machine.execAdd t flt s
  | .sub t flt => Sys2Proof.Machine.execSub t flt s
  | .mul t flt => Sys2Proof.Machine.execMul t flt s
  | .max t flt => Sys2Proof.Machine.execMax t flt s
  | .min t flt => Sys2Proof.Machine.execMin t flt s
  | .fma t flt => Sys2Proof.Machine.execFma t flt s
  | .scale t flt => Sys2Proof.Machine.execScale t flt s
  | .abs t flt => Sys2Proof.Machine.execAbs t flt s
  | .neg t flt => Sys2Proof.Machine.execNeg t flt s
  | .lut t flt => Sys2Proof.Machine.execLut t flt s
  | .rsum t flt => Sys2Proof.Machine.execRsum t flt s
  | .rmax t flt => Sys2Proof.Machine.execRmax t flt s
  | .rmin t flt => Sys2Proof.Machine.execRmin t flt s
  | .rssq t flt => Sys2Proof.Machine.execRssq t flt s
  | .trans t flt => Sys2Proof.Machine.execTrans t flt s
  | .cpy t flt => Sys2Proof.Machine.execCpy t flt s
  | .cvt t flt => Sys2Proof.Machine.execCvt t flt s
  | .fill t flt => Sys2Proof.Machine.execFill t flt s
  | .cmpComplete t => Sys2Proof.Machine.execCmpComplete t s
  | .maddr t => Sys2Proof.Machine.execMaddr t s
  | .mnode t => Sys2Proof.Machine.execMnode t s
  | .copy t flt => Sys2Proof.Machine.execCopy t flt s
  | .movMsg t flt => Sys2Proof.Machine.execMovMsg t flt s
  | .movContrib t flt => Sys2Proof.Machine.execMovContrib t flt s
  | .movComplete t => Sys2Proof.Machine.execMovComplete t s
  | .movResend t tag => Sys2Proof.Machine.execMovResend t tag s
  | .pelClr src t => Sys2Proof.Machine.execPelClr src t s
  | .injectPacket p => Sys2Proof.Machine.execInjectPacket p s
  | .wrackTimer p me src => Sys2Proof.Machine.execWrackTimer p me src s
  | .rd p flt => Sys2Proof.Machine.execRd p flt s
  | .wr p flt => Sys2Proof.Machine.execWr p flt s
  | .wra p flt => Sys2Proof.Machine.execWra p flt s
  | .msg t => Sys2Proof.Machine.execMsg t s
  | .contrib p flt => Sys2Proof.Machine.execContrib p flt s
  | .cres t => Sys2Proof.Machine.execCres t s
  | .resv t => Sys2Proof.Machine.execResv t s
  | .conf t => Sys2Proof.Machine.execConf t s
  | .wdrw t => Sys2Proof.Machine.execWdrw t s
  | .regrd p => Sys2Proof.Machine.execRegrd p s
  | .regwr p => Sys2Proof.Machine.execRegwr p s
  | .signal t => Sys2Proof.Machine.execSignal t s
  | .trace x e => Sys2Proof.Machine.execTrace x e s
  | .rdrsp p => Sys2Proof.Machine.execRdrsp p s
  | .wrack p => Sys2Proof.Machine.execWrack p s
  | .wfn p => Sys2Proof.Machine.execWfn p s
  | .nak p => Sys2Proof.Machine.execNak p s
  | .dead p => Sys2Proof.Machine.execDead p s
  | .rsvack p => Sys2Proof.Machine.execRsvack p s
  | .regrsp p => Sys2Proof.Machine.execRegrsp p s
  | .resvHeldExpiry t who ep tag => Sys2Proof.Machine.execResvHeldExpiry t who ep tag s
  | .confTimeout t who ep tag => Sys2Proof.Machine.execConfTimeout t who ep tag s
  | .leaseRequest src t ix lreg lx => Sys2Proof.Machine.execLeaseRequest src t ix lreg lx s
  | .leaseEnd src t ix => Sys2Proof.Machine.execLeaseEnd src t ix s
  | .leaseDelivery t tag => Sys2Proof.Machine.execLeaseDelivery t tag s
  | .routerPacket t port vc hdrErr parErr => Sys2Proof.Machine.execRouterPacket t port vc hdrErr parErr s
  | .forkAccept t port vc => Sys2Proof.Machine.execForkAccept t port vc s
  | .forkBranchStart t slot bi => Sys2Proof.Machine.execForkBranchStart t slot bi s
  | .creditReturn t port vc => Sys2Proof.Machine.execCreditReturn t port vc s
  | .keepaliveSend t port => Sys2Proof.Machine.execKeepaliveSend t port s
  | .keepaliveTimeout t port => Sys2Proof.Machine.execKeepaliveTimeout t port s
  | .tilIsoOff src t => Sys2Proof.Machine.execTilIsoOff src t s
  | .watchdogExpiry t => Sys2Proof.Machine.execWatchdogExpiry t s
  | .vcorePowerLoss t => Sys2Proof.Machine.execVcorePowerLoss t s
  | .deq t flt => Sys2Proof.Machine.execDeq t flt s
  | .drop t => Sys2Proof.Machine.execDrop t s
  | .cqarm t => Sys2Proof.Machine.execCqarm t s
  | .cqArmed t n => Sys2Proof.Machine.execCqArmed t n s
  | .cqrst t => Sys2Proof.Machine.execCqrst t s
  | .bpHoldExpiry t n => Sys2Proof.Machine.execBpHoldExpiry t n s
  | .refusalEntryExpiry t n => Sys2Proof.Machine.execRefusalEntryExpiry t n s
  | .cmbRqEn src t n en => Sys2Proof.Machine.execCmbRqEn src t n en s
  | .cqEn src t n en => Sys2Proof.Machine.execCqEn src t n en s
  | .cmbResend t n tag => Sys2Proof.Machine.execCmbResend t n tag s
  | .timeWave bad => Sys2Proof.Machine.execTimeWave bad s
  | .ntWrap => Sys2Proof.Machine.execNtWrap s
  | .tkpSrc src v => Sys2Proof.Machine.execTkpSrc src v s
  | .fwst src v => Sys2Proof.Machine.execFwst src v s
  | .ppsInEdge => Sys2Proof.Machine.execPpsInEdge s
  | .ppsLoss => Sys2Proof.Machine.execPpsLoss s
  | .holdoverExpiry => Sys2Proof.Machine.execHoldoverExpiry s
  | .tkpPhase src v => Sys2Proof.Machine.execTkpPhase src v s
  | .tkpStep src lo hi => Sys2Proof.Machine.execTkpStep src lo hi s
  | .rtcSet src lo hi => Sys2Proof.Machine.execRtcSet src lo hi s
  | .rtcsync src => Sys2Proof.Machine.execRtcsync src s
  | .rtcLoadFromNt => Sys2Proof.Machine.execRtcLoadFromNt s
  | .rtcFracRead src => Sys2Proof.Machine.execRtcFracRead src s
  | .sync n m crcOk turn => Sys2Proof.Machine.execSync n m crcOk turn s
  | .dreq n sn lanesel crcOk => Sys2Proof.Machine.execDreq n sn lanesel crcOk s
  | .drsp n t4 sn crcOk => Sys2Proof.Machine.execDrsp n t4 sn crcOk s
  | .accordExchangeMiss n => Sys2Proof.Machine.execAccordExchangeMiss n s
  | .accordHoldoverTimeout n => Sys2Proof.Machine.execAccordHoldoverTimeout n s
  | .accordAcquireTimeout n => Sys2Proof.Machine.execAccordAcquireTimeout n s
  | .accRole src n role => Sys2Proof.Machine.execAccRole src n role s
  | .vbatLow => Sys2Proof.Machine.execVbatLow s
  | .rtcOscStop => Sys2Proof.Machine.execRtcOscStop s
  | .rtcOscResume => Sys2Proof.Machine.execRtcOscResume s
  | .ppsOutRise => Sys2Proof.Machine.execPpsOutRise s
  | .ppsOutFall => Sys2Proof.Machine.execPpsOutFall s
  | .chg src g => Sys2Proof.Machine.execChg src g s
  | .cancel src g => Sys2Proof.Machine.execCancel src g s
  | .halt src g => Sys2Proof.Machine.execHalt src g s
  | .gclSwitch g => Sys2Proof.Machine.execGclSwitch g s
  | .gateEntryStart g => Sys2Proof.Machine.execGateEntryStart g s
  | .egressStart g => Sys2Proof.Machine.execEgressStart g s
  | .tblRead src g tbl idx => Sys2Proof.Machine.execTblRead src g tbl idx s
  | .tblWrite src g tbl idx => Sys2Proof.Machine.execTblWrite src g tbl idx s
  | .shpEnable src g k cir => Sys2Proof.Machine.execShpEnable src g k cir s
  | .shaperRateWrite src g k cbs v => Sys2Proof.Machine.execShaperRateWrite src g k cbs v s
  | .lf128Block n b lost far => Sys2Proof.Machine.execLf128Block n b lost far s
  | .dataFrame n f p => Sys2Proof.Machine.execDataFrame n f p s
  | .ctrlFrame n f => Sys2Proof.Machine.execCtrlFrame n f s
  | .ackTimer n => Sys2Proof.Machine.execAckTimer n s
  | .replayTimeout n => Sys2Proof.Machine.execReplayTimeout n s
  | .waveCode n code => Sys2Proof.Machine.execWaveCode n code s
  | .train src n => Sys2Proof.Machine.execTrain src n s
  | .llkDown src n => Sys2Proof.Machine.execLlkDown src n s
  | .trainDetect n lanes => Sys2Proof.Machine.execTrainDetect n lanes s
  | .trainEqual n => Sys2Proof.Machine.execTrainEqual n s
  | .trainDeskew n skewed => Sys2Proof.Machine.execTrainDeskew n skewed s
  | .trainIdent n pkg plane link => Sys2Proof.Machine.execTrainIdent n pkg plane link s
  | .trainTimeout n => Sys2Proof.Machine.execTrainTimeout n s
  | .narrowDeskew n => Sys2Proof.Machine.execNarrowDeskew n s
  | .oswPacket d => Sys2Proof.Machine.execOswPacket d s
  | .scrubVisit x e flt => Sys2Proof.Machine.execScrubVisit x e flt s
  | .refresh x e => Sys2Proof.Machine.execRefresh x e s
  | .stackTemperature site celsius => Sys2Proof.Machine.execStackTemperature site celsius s
  | .hostRead bar addr len => Sys2Proof.Machine.execHostRead bar addr len s
  | .hostWrite bar addr bytes be => Sys2Proof.Machine.execHostWrite bar addr bytes be s
  | .hifResend tag => Sys2Proof.Machine.execHifResend tag s
  | .hifCto tag => Sys2Proof.Machine.execHifCto tag s
  | .configRequest op => Sys2Proof.Machine.execConfigRequest op s
  | .flr => Sys2Proof.Machine.execFlr s
  | .msixUnmask vec => Sys2Proof.Machine.execMsixUnmask vec s
  | .msixWindowEnd vec => Sys2Proof.Machine.execMsixWindowEnd vec s
  | .smbAddr a pecOk => Sys2Proof.Machine.execSmbAddr a pecOk s
  | .smbData w pecOk => Sys2Proof.Machine.execSmbData w pecOk s
  | .smbStatus => Sys2Proof.Machine.execSmbStatus s
  | .rxFrame n bytes fcsOk backlog => Sys2Proof.Machine.execRxFrame n bytes fcsOk backlog s
  | .pfcFrame n quanta => Sys2Proof.Machine.execPfcFrame n quanta s
  | .pfcRepeat n prio => Sys2Proof.Machine.execPfcRepeat n prio s
  | .ethRingTail src n ring tx v => Sys2Proof.Machine.execEthRingTail src n ring tx v s
  | .ethRingEn src n ring tx v => Sys2Proof.Machine.execEthRingEn src n ring tx v s
  | .txFrameFetch n ring => Sys2Proof.Machine.execTxFrameFetch n ring s
  | .txFrameDone n ring => Sys2Proof.Machine.execTxFrameDone n ring s
  | .ethLinkChange n up an => Sys2Proof.Machine.execEthLinkChange n up an s
  | .glzRingTail src n v => Sys2Proof.Machine.execGlzRingTail src n v s
  | .glzRingFetch n => Sys2Proof.Machine.execGlzRingFetch n s
  | .glzQueueMsg n => Sys2Proof.Machine.execGlzQueueMsg n s
  | .target n => Sys2Proof.Machine.execTarget n s
  | .region n => Sys2Proof.Machine.execRegion n s
  | .cgroup n => Sys2Proof.Machine.execCgroup n s
  | .dstate n => Sys2Proof.Machine.execDstate n s
  | .prog n => Sys2Proof.Machine.execProg n s
  | .loper n => Sys2Proof.Machine.execLoper n s
  | .draw n flt => Sys2Proof.Machine.execDraw n flt s
  | .splat n flt => Sys2Proof.Machine.execSplat n flt s
  | .clear n => Sys2Proof.Machine.execClear n s
  | .dresolve n => Sys2Proof.Machine.execDresolve n s
  | .bvh n => Sys2Proof.Machine.execBvh n s
  | .rayq n flt => Sys2Proof.Machine.execRayq n flt s
  | .glzFence n => Sys2Proof.Machine.execGlzFence n s
  | .fragmentRetire n flt => Sys2Proof.Machine.execFragmentRetire n flt s
  | .glzPaused n => Sys2Proof.Machine.execGlzPaused n s
  | .glzResume src n => Sys2Proof.Machine.execGlzResume src n s
  | .ppEnd n => Sys2Proof.Machine.execPpEnd n s
  | .ppMov n => Sys2Proof.Machine.execPpMov n s
  | .ppAdd n => Sys2Proof.Machine.execPpAdd n s
  | .ppSub n => Sys2Proof.Machine.execPpSub n s
  | .ppMul n => Sys2Proof.Machine.execPpMul n s
  | .ppFma n => Sys2Proof.Machine.execPpFma n s
  | .ppMin n => Sys2Proof.Machine.execPpMin n s
  | .ppMax n => Sys2Proof.Machine.execPpMax n s
  | .ppRcp n => Sys2Proof.Machine.execPpRcp n s
  | .ppRsq n => Sys2Proof.Machine.execPpRsq n s
  | .ppEx2 n => Sys2Proof.Machine.execPpEx2 n s
  | .ppLg2 n => Sys2Proof.Machine.execPpLg2 n s
  | .ppLdi n => Sys2Proof.Machine.execPpLdi n s
  | .ppLdf n => Sys2Proof.Machine.execPpLdf n s
  | .ppLdp n => Sys2Proof.Machine.execPpLdp n s
  | .ppStp n => Sys2Proof.Machine.execPpStp n s
  | .ppKill n => Sys2Proof.Machine.execPpKill n s
  | .bucketLeak kind inst => Sys2Proof.Machine.execBucketLeak kind inst s
  | .responseTimeout r => Sys2Proof.Machine.execResponseTimeout r s
  | .tagRelease t tag => Sys2Proof.Machine.execTagRelease t tag s
  | .scrRetire src v => Sys2Proof.Machine.execScrRetire src v s
  | .rlogPop src => Sys2Proof.Machine.execRlogPop src s
  | .bucketThrWrite src kind win v => Sys2Proof.Machine.execBucketThrWrite src kind win v s
  | .fullerPass diffs => Sys2Proof.Machine.execFullerPass diffs s
  | .stop src => Sys2Proof.Machine.execStop src s
  | .stopInEdge => Sys2Proof.Machine.execStopInEdge s
  | .blockHalt p => Sys2Proof.Machine.execBlockHalt p s
  | .resume src => Sys2Proof.Machine.execResume src s
  | .freeze src => Sys2Proof.Machine.execFreeze src s
  | .unfreeze src => Sys2Proof.Machine.execUnfreeze src s
  | .scanRead addr => Sys2Proof.Machine.execScanRead addr s
  | .scanwin addr sel => Sys2Proof.Machine.execScanwin addr sel s
  | .sillageW0Read src p slot => Sys2Proof.Machine.execSillageW0Read src p slot s
  | .sampleRecord t => Sys2Proof.Machine.execSampleRecord t s
  | .vstbyValid => Sys2Proof.Machine.execVstbyValid s
  | .boot slotA slotB railsOk failed untrained => Sys2Proof.Machine.execBoot slotA slotB railsOk failed untrained s
  | .railTimeout => Sys2Proof.Machine.execRailTimeout s
  | .vstbyLoss => Sys2Proof.Machine.execVstbyLoss s
  | .perstN => Sys2Proof.Machine.execPerstN s
  | .cold src => Sys2Proof.Machine.execCold src s
  | .fabric src failed => Sys2Proof.Machine.execFabric src failed s
  | .tile src tidx => Sys2Proof.Machine.execTile src tidx s
  | .resetComplete => Sys2Proof.Machine.execResetComplete s
  | .thermtrip => Sys2Proof.Machine.execThermtrip s
  | .tempReport cd iow ioe => Sys2Proof.Machine.execTempReport cd iow ioe s
  | .throttleReview => Sys2Proof.Machine.execThrottleReview s
  | .mgtVset src v => Sys2Proof.Machine.execMgtVset src v s
  | .perstNDeassert => Sys2Proof.Machine.execPerstNDeassert s
  | .pfcPauseExpiry n prio => Sys2Proof.Machine.execPfcPauseExpiry n prio s

end Sys2Proof.Machine
end

