-- ==== Sys2Proof/Safety.lean ====
section
/-! DEFINITION. What every step of the package keeps, and the words in which statements say what a command changes. -/

namespace Sys2Proof.Machine

/-- What a step may not change or turn back, from a state a to a later state s: the fuses and the assembly (R4, R6), the
commands that wait, time (R465), the canonical form of memory. -/
structure Keeps (a s : State) : Prop where
  fuses : s.fuses = a.fuses
  pending : s.pending = a.pending
  time : a.time ≤ s.time
  mem : Memory.wf a.mem = true → Memory.wf s.mem = true

/-! ## Frames -/

/-- Every register but those with a listed key reads as before. -/
def RegsBut (s u : State) (ks : List Nat) : Prop := ∀ p o, regKey p o ∉ ks → rawReg u p o = rawReg s p o

/-- Nothing but registers and what one tile holds beside them has changed: every memory, the other tiles, and all that
the state holds beside tiles are as before. -/
def OnlyTile (s u : State) (t : Nat) : Prop :=
  u = { s with regs := u.regs, tiles := u.tiles } ∧ ∀ k, k ≠ t → getTile u k = getTile s k

/-- Nothing but registers has changed. -/
def OnlyRegs (s u : State) : Prop := u = { s with regs := u.regs }

/-- The registers in which events of a block are kept: PG_ISR, the error capture and its counts, the sillage ring and its
pointer (R126, R127, R752), and the package's DBG page, which a stop trigger writes (R725). -/
def EvKey (k : Nat) : Bool :=
  k / 0x1000 == 0x20303 || decide (0xE00 ≤ k % 0x1000)
    || [0x020, 0x030, 0x034, 0x038, 0x03C, 0x040, 0x054].contains (k % 0x1000)

/-- Every register but those listed and those of events reads as before. -/
def RegsEvents (s u : State) (ks : List Nat) : Prop :=
  ∀ p o, regKey p o ∉ ks → EvKey (regKey p o) = false → rawReg u p o = rawReg s p o

/-- The links are as before but for what their sidebands still have to send: wave codes join it (R575). -/
def LinksSb (s u : State) : Prop := ∀ n, getLink u n = { getLink s n with sbq := (getLink u n).sbq }

/-- Beside the listed registers nothing has changed but what events leave: their registers, interrupt messages, what
leaves the package, the stop wave on its tree and in the sidebands of the links, and the count of free values. -/
def Events (s u : State) (ks : List Nat) : Prop :=
  u = { s with regs := u.regs, links := u.links, hif := u.hif, out := u.out, dbg := u.dbg, free := u.free }
    ∧ LinksSb s u ∧ RegsEvents s u ks

/-- The same, where what tile t holds beside its registers may have changed too. -/
def TileEvents (s u : State) (ks : List Nat) (t : Nat) : Prop :=
  u = { s with regs := u.regs, tiles := u.tiles, links := u.links, hif := u.hif, out := u.out, dbg := u.dbg, free := u.free }
    ∧ (∀ k, k ≠ t → getTile u k = getTile s k) ∧ LinksSb s u ∧ RegsEvents s u ks

/-! ## Register writes -/

/-- A write of v with every byte enabled reaches a register of the page and takes effect whole: it is not discarded under
R141, changes no locked field, and the register is not owned by hardware (R107, R120, R122, R141). -/
def writeTaken (s : State) (p : Page) (off : Nat) (v : Word) : Bool :=
  match writeAt s p off with
  | none => false
  | some d =>
    let lk := rbit s p 0x018 0
    let old := rawReg s p off
    !(lk && decide (p = .mgt) && off == 0x088) && discardCode s p off ⟨old, applyAll old v lk d.flds⟩ v == 0
      && !lockHit old v lk d.flds && !hwOwned d.flds

/-- MOV of a tile holds no command and no request that waits to be made. -/
def movEmpty (x : Tile) : Prop := x.movQ = [] ∧ x.movCur = none ∧ x.movOut = [] ∧ x.stageQ = []

/-- The same, and no SRST of its page is under way. -/
def movStill (s : State) (t : Nat) : Prop := movEmpty (getTile s t) ∧ rbit s (.mov t) 0x010 1 = false

/-- Every byte of memory outside [lo, lo + n) reads as before. -/
def MemBut (s u : State) (lo n : Nat) : Prop := ∀ k, k < lo ∨ lo + n ≤ k → getByte u.mem k = getByte s.mem k

/-! ## Tensors -/

/-- No unit of a tensor of tile t holds an error. -/
def tdClean (s : State) (t : Nat) (d : Td) : Bool :=
  (List.range d.rows).all (fun r => !anyUE s (tdKey t d r 0) (d.cols * tySize d.ty)
    && countCE s (tdKey t d r 0) (d.cols * tySize d.ty) == 0)

/-- The rows that start an operation of CMP, with the opcode of each (Table 6.3). -/
def cmpRows (t : Nat) : List (Instr × Nat) :=
  [(.mm t [], 0x10), (.mma t [], 0x11), (.mmt t [], 0x12), (.add t [], 0x20), (.sub t [], 0x21), (.mul t [], 0x22),
    (.max t [], 0x23), (.min t [], 0x24), (.fma t [], 0x25), (.scale t [], 0x26), (.abs t [], 0x27), (.neg t [], 0x28),
    (.lut t [], 0x30), (.rsum t [], 0x38), (.rmax t [], 0x39), (.rmin t [], 0x3A), (.rssq t [], 0x3B), (.trans t [], 0x40),
    (.cpy t [], 0x41), (.cvt t [], 0x42), (.fill t [], 0x43)]

/-- CMP of tile t starts the command q of opcode op with the tensors d, a and b, which pass every check and hold no
error; an operand that the op does not use is d (R255 to R257). -/
def CmpRuns (s : State) (t op : Nat) (q : QCmd) (d a b : Td) : Prop :=
  cmpHead s t = some q ∧ cwEng q.word = 1 ∧ cwOpc q.word = op ∧ getTd s t q.lc (cmpDtd q.word) = some d ∧ tdescOk d
    ∧ (if usesA op then getTd s t q.lc (cmpAtd q.word) = some a ∧ tdClean s t a else a = d)
    ∧ (if usesB op then getTd s t q.lc (cmpBtd q.word) = some b ∧ tdClean s t b else b = d)
    ∧ (op = 0x11 ∨ op = 0x25 → tdClean s t d)
    ∧ cmpCheck op d (if usesA op then some a else none) (if usesB op then some b else none) = 0

/-- A deadline has been reached (R693). -/
def Due (s : State) (d : Nat) : Prop := d ≤ eTime s ∧ s.tkp.steps ≤ fullT s

/-! ## Requests -/

/-- The request q of an opcode is the next that tile t takes, and passes every check before it acts (R825, R411, R728). -/
def TileServes (s : State) (t : Nat) (op : BitVec 8) (q : Packet) : Prop :=
  reqHead s (.tile t) op = some q ∧ (getTile s t).stalled = none ∧ isolated s t = false ∧ tileCheck s t q = none
    ∧ (epKind q.dst = .rq ∨ epKind q.dst = .cq → stopped s (.cmb t) = false)

/-- The same at memory edge e of column x (R603, R825). -/
def EdgeServes (s : State) (x e : Nat) (op : BitVec 8) (q : Packet) : Prop :=
  memReq s x e op = some q ∧ edgeCheck s (.mem x e) q = none ∧ memBad s x e q = 0

/-- No unit of n bytes from key k holds an error. -/
def cleanMem (s : State) (k n : Nat) : Bool := !anyUE s k n && countCE s k n == 0

/-- Beside its registers only one tile, and memory, have changed; no register has. -/
def TileMem (s u : State) (t : Nat) : Prop :=
  RegsBut s u [] ∧ (∀ k, k ≠ t → getTile u k = getTile s k)
    ∧ u = { s with regs := u.regs, tiles := u.tiles, mem := u.mem, ecc := u.ecc }

/-- MOV has no command to start and no packet to make. -/
def movQuiet (x : Tile) : Prop := x.movQ = [] ∧ x.movCur = none ∧ x.stageQ = []

/-- The response q of an opcode is the next that MOV of tile t takes; no SRST of its page is under way. -/
def MovTakes (s : State) (t : Nat) (op : BitVec 8) (q : Packet) : Prop :=
  rspHead s (.tile t) op = some q ∧ nodeEp q.dst = 0 ∧ stopped s (.mov t) = false ∧ lenBad q = false
    ∧ isolated s t = false ∧ movQuiet (getTile s t) ∧ rbit s (.mov t) 0x010 1 = false

/-- The request r of MOV is the one that the response q answers, and is not tentative, sunk, staged or read by lease. -/
def Awaits (s : State) (t : Nat) (q : Packet) (r : MovReq) : Prop :=
  reqOf (getTile s t) q.tag = some r ∧ answersTo r.pkt q.src ∧ resvOf (getTile s t) q = none ∧ r.sink = false
    ∧ r.stage = false ∧ r.lease = false ∧ r.pkt.mc = false ∧ cmdTent (getTile s t) r = false

/-! ## Issue -/

/-- In the next issue slot of tile t the context lc issues the command word w, which raises no fault (R147, R152, R172,
R174, R210); reading the word meets no corrected error. -/
def Issues (s : State) (t lc : Nat) (w : CmdWord) : Prop :=
  issuer s t = some lc ∧ cmWord s t (getCtx s t lc).pc = w ∧ issueFault s t lc = 0
    ∧ countCE s (cmKey t (16 * (getCtx s t lc).pc)) 16 = 0

/-- Where issue goes on after a command that is no branch: past a delay slot to its branch's goal (R175). -/
def nextPc (c : Ctx) : Nat :=
  match c.slot with
  | some (n, _) => n
  | none => c.pc + 1

/-! ## Routers, links, places and Glaziers -/

/-- A header that passes its check waits at an input VC of a running router, of a packet of up to 64 data flits (R333,
R379). -/
def HeadAt (s : State) (t port vc : Nat) (w : Worm) : Prop :=
  rtrRuns s t ∧ getRin s t port vc = some w ∧ w.hd = true ∧ w.pkt.hcrc = hcrcOf w.pkt ∧ w.pkt.len.toNat ≤ 64

/-- The header is the whole packet. -/
def oneFlit (w : Worm) : Bool := w.tl && w.pkt.data.isEmpty && w.rest.isEmpty

/-- What an input VC holds when its header has gone to an output (R322). -/
def headGone (w : Worm) (o : WormOut) : Option Worm :=
  let w1 := Worm.fill { w with hd := false, out := some o }
  if w1.over then none else some w1

/-- A packet that leaves on a port of the router of tile t is neither counted nor matched by a probe. -/
def PlainPort (s : State) (t port : Nat) (p : Packet) : Prop :=
  rbit s (.rtr t) 0x060 0 = false ∧ prbMatch s t 0 port p = false ∧ prbMatch s t 1 port p = false

/-- What waits behind a fragment that leaves: the next one of its sample leaves its bin entry (R682). -/
def fragsAfter (f : Frag) (l : List Frag) : List Frag := modFirst (sameSmp f) (fun x => { x with bin := none }) l

/-- A bin entry lies on chip (R686). -/
def onChip (f : Frag) : Prop := ∀ i, f.bin = some i → i < 32768

/-- The next fragment of the sample of f in a list, if there is one, has no bin entry in the extension (R686). -/
def nextOnChip (f : Frag) (l : List Frag) : Prop := ∀ h, l.find? (sameSmp f) = some h → onChip h

/-- A well-formed record r of an opcode stands at the head of the queue of Glazier n, which may start it. -/
def GlzTakes (s : State) (n opc : Nat) (r : List Byte) : Prop :=
  glzRuns s n = true ∧ (getGlz s n).q.head? = some r ∧ recOpc r = opc ∧ recOk s r = true

/-- Beside GLZ_STAT of Glazier n and what it holds beside its registers nothing has changed. -/
def OnlyGlz (s u : State) (n : Nat) : Prop :=
  u = { s with regs := u.regs, glzs := u.glzs, free := u.free } ∧ (∀ k, k ≠ n → getGlz u k = getGlz s k)
    ∧ RegsBut s u [regKey (.glz n) 0x084]

/-- The instructions of pixel programs that compute D from D, A and B, with the opcode and the value of each
(Table 16.4). -/
def ppRows (n : Nat) : List (Instr × Nat × (Word → Word → Word → Word)) :=
  [(.ppMov n, 0x01, fun _ a _ => a), (.ppAdd n, 0x02, fun _ a b => fAdd a b), (.ppSub n, 0x03, fun _ a b => fSub a b),
    (.ppMul n, 0x04, fun _ a b => fMul a b), (.ppFma n, 0x05, fun d a b => fFma a b d),
    (.ppMin n, 0x06, fun _ a b => fMin a b), (.ppMax n, 0x07, fun _ a b => fMax a b),
    (.ppRcp n, 0x08, fun _ a _ => ppRecip a), (.ppRsq n, 0x09, fun _ a _ => ppRsqrt a),
    (.ppEx2 n, 0x0A, fun _ a _ => ppExp2 a),
    (.ppLg2 n, 0x0B, fun _ a _ => ppLog2 a)]

/-- D takes a value in a pixel program that runs: a NaN as the canonical NaN, and the next instruction follows (R678). -/
def ppNext (p : PPRun) (w v : Word) : PPRun :=
  { p with pc := p.pc + 1, regs := listMod p.regs (fld w 26 24) (fun _ => if (f32 v).isNan then toF32 .nan else v) }

end Sys2Proof.Machine
end

