-- ==== Sys2Proof/Certificates/Slice0/Obligations.lean ====
section
/-! DEFINITION. The statements about the model, by kind of state and family of commands. -/

open Sys2Proof Sys2Proof.Machine

/-- A step takes the command at the front of the queue: it is exec of that command on the state with the queue's rest. On an
empty queue a step answers a state one tick of the oscillators later, with all else as it was (the model's choice, log 5). -/
def Obligations.StepRunsQueue : Prop :=
  (∀ (s : State) (c : Instr) (rest : List Instr), s.pending = c :: rest → step s = exec c { s with pending := rest })
    ∧ ∀ s : State, s.pending = [] → ∃ u, step s = .next u ∧ u.time = s.time + 1 ∧ u.pending = [] ∧ u.fuses = s.fuses
    ∧ u.mem = s.mem ∧ u.tiles = s.tiles ∧ u.out = s.out

/-- What reset leaves, in values the spec states: nothing locked, enabled or captured on any page, tensor descriptors
invalid, no lease, TIL_WDOG at 10,000 µs, memories of zeros (HBM by the model's choice, log 2), and boot not done. -/
def Obligations.ResetValues : Prop :=
  let s := State.reset
  (∀ p, rbit s p 0x018 0 = false ∧ rawReg s p 0x020 = 0 ∧ rbit s p 0x030 31 = false ∧ rbit s p 0x050 0 = false)
    ∧ (∀ t, rfld s (.til t) 0x088 19 0 = 10000 ∧ isolated s t = false ∧ rawReg s (.til t) 0x110 = 0
      ∧ (∀ i, i < 3 → leaseState s t i = 0) ∧ (∀ lc, lc < 4 → lcState s t lc = 0)
      ∧ (∀ i, i < 64 → getSem s t i = 0) ∧ (∀ lc k, lc < 4 → k < 8 → getTd s t lc k = none))
    ∧ (∀ k, getByte s.mem k = 0) ∧ bootStage s = 0 ∧ s.pending = []

/-- The invariant of the machine holds right after reset. -/
def Obligations.ResetCanonical : Prop :=
  Memory.wf State.reset.mem = true ∧ State.reset.pending = []

/-- Every step answers a next state: it takes one command from the queue or none from an empty one, changes no fuse, does
not turn time back, and keeps memory in canonical form. -/
def Obligations.EveryStepKeepsMachine : Prop :=
  ∀ s : State, Memory.wf s.mem = true → ∃ u, step s = .next u ∧ Memory.wf u.mem = true ∧ u.pending = s.pending.tail
    ∧ u.fuses = s.fuses ∧ s.time ≤ u.time

/-- Writes of registers that set nothing going, and writes that are ignored or discarded. -/
def Obligations.RegisterWritesAct : Prop :=
  ∀ (s : State) (src : Src) (p : Page) (off : Nat) (v : Word),
    (writeTaken s p off v → 0x080 ≤ off →
      (∃ t, p = .cmp t ∨ p = .rtr t) ∨ (∃ x e, p = .mem x e) ∨ (∃ d, p = .osw d) ∨ p = .hif →
      ∃ u d, exec (.registerWrite src p off v 0xF none) s = .next u ∧ writeAt s p off = some d
        ∧ rawReg u p off = applyAll (rawReg s p off) v (rbit s p 0x018 0) d.flds ∧ RegsBut s u [regKey p off]
        ∧ OnlyRegs s u)
    ∧ (∀ be hw, writeAt s p off = none → exec (.registerWrite src p off v be hw) s = .next s)
    ∧ (∀ d, writeAt s p off = some d → ¬(p = .mgt ∧ off = 0x088) →
      discardCode s p off ⟨rawReg s p off, applyAll (rawReg s p off) v (rbit s p 0x018 0) d.flds⟩ v ≠ 0 →
      ∃ u, exec (.registerWrite src p off v 0xF none) s = .next u ∧ Events s u [])

/-- Reads: of a field that they clear, of a pair whose upper half they latch, and of HIF_SYNC. -/
def Obligations.RegisterReadsAct : Prop :=
  ∀ (s : State) (src : Src) (p : Page) (off : Nat), s.latches = [] → pageReached s p →
    (∃ u, exec (.rcRead src p off none none) s = .next u ∧ u.out = s.out ++ [.value src p off (regView s p off)]
      ∧ (rcMask p off ≠ 0 → rawReg u p off &&& BitVec.ofNat 32 (rcMask p off) = 0) ∧ RegsBut s u [regKey p off]
      ∧ u = { s with regs := u.regs, latches := u.latches, out := u.out })
    ∧ (rcMask p off = 0 → ∃ u, exec (.registerPairRead src p off) s = .next u
      ∧ u.out = s.out ++ [.value src p off (regView s p off)]
      ∧ (∀ o ∈ latchedBy p off, (regRead u p o).1 = regView s p o)
      ∧ u = { s with latches := u.latches, out := u.out })
    ∧ (hostUp s → pkgFailed s = false → s.hif.rds = [] →
      (∀ a ∈ s.hif.accs, a.write = false) → ∃ u, exec .hifSyncRead s = .next u
        ∧ u.out = s.out ++ [.host s.hif.nextId .sc [0, 0, 0, 0]] ∧ u.hif.rds = [] ∧ u.hif.accs = s.hif.accs
        ∧ RegsBut s u [] ∧ u.mem = s.mem)
    ∧ (∀ a ∈ s.hif.accs, hostUp s → pkgFailed s = false → s.hif.rds = [] → a.write → a.id < s.hif.nextId →
      ∃ u, exec .hifSyncRead s = .next u ∧ u.out = s.out ∧ u.hif.rds.length = 1 ∧ RegsBut s u [] ∧ u.mem = s.mem)

/-- Host writes with some byte enables, or none. -/
def Obligations.PartialHostWrites : Prop :=
  ∀ (s : State) (p : Page) (off : Nat) (v : Word) (be : BitVec 4),
    (∀ hw, exec (.registerWrite .host p off v 0 hw) s = .next s)
    ∧ (∀ d, writeAt s p off = some d → be ≠ 0 → be ≠ 0xF →
      (rbit s p 0x030 31 = false → ∃ u, exec (.registerWrite .host p off v be none) s = .next u
        ∧ rfld u p 0x030 23 16 = 3 ∧ rbit u p 0x030 31 = true ∧ rawReg u p 0x020 = rawReg s p 0x020 ||| 0x80000000
        ∧ Events s u [])
      ∧ (rbit s p 0x030 31 → ∃ u, exec (.registerWrite .host p off v be none) s = .next u ∧ rbit u p 0x030 30 = true
        ∧ RegsBut s u [regKey p 0x030]))

/-- Reads of W0 of a sillage slot and of RTC_FRAC latch the other words: whatever happens between, their next reads return
what was latched. -/
def Obligations.LatchedReadsHold : Prop :=
  ∀ (s : State) (src : Src) (p : Page) (slot : Nat),
    let w0 := 0xE00 + 16 * (slot % 32)
    (pageReached s p → (∀ e ∈ s.latches, e.1 ≠ regKey p w0) → ∃ u, exec (.sillageW0Read src p slot) s = .next u
      ∧ u.out = s.out ++ [.value src p w0 (regView s p w0)] ∧ u = { s with latches := u.latches, out := u.out }
      ∧ ∀ v k, k ∈ [4, 8, 12] → v.latches = u.latches → pageReached v p → (regRead v p (w0 + k)).1 = regView s p (w0 + k))
    ∧ (pageReached s (.tkp 0) → (∀ e ∈ s.latches, e.1 ≠ regKey (.tkp 0) 0x0E8) → ∃ u, exec (.rtcFracRead src) s = .next u
      ∧ u.out = s.out ++ [.value src (.tkp 0) 0x0E8 (BitVec.ofNat 32 (rtcNow s).2)]
      ∧ u = { s with latches := u.latches, out := u.out }
      ∧ ∀ v, v.latches = u.latches → pageReached v (.tkp 0) → (regRead v (.tkp 0) 0x0E0).1 = BitVec.ofNat 32 (rtcNow s).1
        ∧ (regRead v (.tkp 0) 0x0E4).1 = BitVec.ofNat 32 ((rtcNow s).1 / 2 ^ 32 % 2 ^ 16))

/-- The common header: PG_LOCK, PG_IFR, PG_EVR_CTL.CLR, PG_PERF_CTL.CLR, and SRST of a block that does not drain. -/
def Obligations.HeaderWritesAct : Prop :=
  ∀ (s : State) (src : Src) (p : Page) (v : Word),
    (writeTaken s p 0x018 1 → ∃ u, exec (.pgLock src p) s = .next u ∧ rbit u p 0x018 0 = true
      ∧ RegsBut s u [regKey p 0x018] ∧ OnlyRegs s u)
    ∧ (writeTaken s p 0x028 v → ∃ u, exec (.pgIfr src p v) s = .next u ∧ 
      rawReg u p 0x020 = rawReg s p 0x020 ||| (v &&& BitVec.ofNat 32 (2 ^ 31 + isrSources p)) ∧ Events s u [])
    ∧ (writeTaken s p 0x050 (rawReg s p 0x050 ||| 4) → ∃ u, exec (.evrClr src p) s = .next u ∧ rawReg u p 0x054 = 0
      ∧ (∀ i, i < 128 → rawReg u p (0xE00 + 4 * i) = 0) ∧ OnlyRegs s u)
    ∧ (∀ t e, writeTaken s p 0x060 (rawReg s p 0x060 ||| 2) → pageEngine p = some (t, e) →
      ∃ u, exec (.perfClr src p) s = .next u ∧ OnlyRegs s u
        ∧ ∀ k, k < 4 → rawReg u (.dbg t) (0x200 + 0x20 * e + 4 * k) = 0)
    ∧ (writeTaken s p 0x010 (rawReg s p 0x010 ||| 2) → rbit s p 0x010 1 = false →
      (∀ t, p = .seq t → ∀ lc, lc < 4 → lcState s t lc = 0) → s.mgt.running = none → s.mgt.thermtrip = false →
      (∀ t, p = .mov t → movOwes { getTile s t with movQ := [] } = false) →
      ∃ u, exec (.srst src p) s = .next u ∧ rawReg u p 0x070 = 0 ∧ u.mem = s.mem)

/-- Registers of the tile pages whose writes start something, leases among them. -/
def Obligations.TileControlsAct : Prop :=
  (∀ (s : State) (src : Src) (t k : Nat) (en : Bool),
    (k < 4 → writeTaken s (.seq t) (0x104 + lcOff k) 1 → ∃ u, exec (.load src t k) s = .next u ∧ k ∈ (getTile u t).loads
      ∧ OnlyTile s u t)
    ∧ (k < 4 → writeTaken s (.seq t) (0x104 + lcOff k) 2 → movEmpty (getTile s t) → (getCtx s t k).brs = [] →
      ∃ u, exec (.abort src t k) s = .next u ∧ u.mem = s.mem
        ∧ lcState u t k = if lcState s t k = 0 then 0 else 3)
    ∧ (writeTaken s (.seq t) 0x080 (rawReg s (.seq t) 0x080 ||| 2) → ∃ u, exec (.predclr src t) s = .next u
      ∧ (getTile u t).pred = [] ∧ OnlyTile s u t)
    ∧ (writeTaken s (.mov t) 0x084 1 → ∃ u, exec (.pelClr src t) s = .next u ∧ rawReg u (.mov t) 0x088 = 0
      ∧ (∀ i, i < 64 → rawReg u (.mov t) (0x200 + 4 * i) = 0) ∧ OnlyRegs s u)
    ∧ (writeTaken s (.til t) 0x084 1 → isolated s t = false → rbit s (.til t) 0x084 0 = false →
      ∃ u, exec (.tilIsoOff src t) s = .next u ∧ isolated u t = true ∧ rfld u (.til t) 0x084 4 2 = 1
        ∧ (getTile u t).cmpQ = [] ∧ (getTile u t).movQ = [] ∧ (getTile u t).cmbQ = [] ∧ u.mem = s.mem)
    ∧ (writeTaken s (.cmb t) (rqOff (k % 16)) (setFld (rawReg s (.cmb t) (rqOff (k % 16))) 0 0 (bitNat en)) →
      (getTile s t).stalled = none → ∃ u, exec (.cmbRqEn src t k en) s = .next u ∧ rqEn u t (k % 16) = en
        ∧ (rqEn s t (k % 16) = true → en = false → rqPtr u t (k % 16) = 0 ∧ rqTail u t (k % 16) = 0) ∧ u.mem = s.mem)
    ∧ (writeTaken s (.cmb t) (cqOff (k % 8)) (setFld (rawReg s (.cmb t) (cqOff (k % 8))) 0 0 (bitNat en)) →
      ∃ u, exec (.cqEn src t k en) s = .next u ∧ cqEn u t (k % 8) = en ∧ OnlyRegs s u
        ∧ cqState u t (k % 8) = if en then (if cqState s t (k % 8) = 0 then 1 else cqState s t (k % 8))
            else if cqState s t (k % 8) = 1 ∨ cqState s t (k % 8) = 5 then 0 else cqState s t (k % 8)))
    ∧ ∀ (s : State) (src : Src) (t i lreg lx : Nat),
    let o := 0x100 + 4 * (i % 3)
    (writeTaken s (.til t) o (BitVec.ofNat 32 (1 + lreg % 4 * 256 + lx % 128 * 65536)) → rbit s (.til t) o 0 = false → isolated s t = false →
      ∃ u q, exec (.leaseRequest src t i lreg lx) s = .next u ∧ leaseState u t (i % 3) = 1
        ∧ (getTile u t).out = (getTile s t).out ++ [q] ∧ q.opc = opREGRD ∧ q.addr = 0x110
        ∧ q.dst = mkNode (ownPkg s) (tileY t) (lx % 128) 0 1 ∧ OnlyTile s u t)
    ∧ (writeTaken s (.til t) o (setFld (rawReg s (.til t) o) 0 0 0) → rbit s (.til t) o 0 = true →
      ∃ u, exec (.leaseEnd src t i) s = .next u ∧ leaseState u t (i % 3) = 0 ∧ OnlyTile s u t)

/-- Registers of the timekeeper and of the calendar clock. -/
def Obligations.TimeRegistersAct : Prop :=
  ∀ (s : State) (src : Src) (v w : Word) (n role : Nat),
    (writeTaken s (.tkp 0) 0x080 v → fld v 1 0 ≠ tkpSrc s → ∃ u, exec (.tkpSrc src v) s = .next u
      ∧ tkpSrc u = fld v 1 0
      ∧ tkpState u = match fld v 1 0 with
        | 0 => 0
        | 1 => 1
        | 2 => fld v 13 12
        | _ => if accState s (fld v 9 4) = 3 then 2 else 1)
    ∧ (writeTaken s (.tkp 0) 0x080 v → fld v 1 0 = 2 → tkpSrc s = 2 → ∃ u, exec (.fwst src v) s = .next u
      ∧ tkpState u = fld v 13 12)
    ∧ (writeTaken s (.tkp 0) 0x0A4 v → ∃ u, exec (.tkpPhase src v) s = .next u ∧ rawReg u (.tkp 0) 0x0A4 = v
      ∧ RegsBut s u [regKey (.tkp 0) 0x0A4] ∧ u = { s with regs := u.regs, tkp := { s.tkp with slewMore := 0 } })
    ∧ (writeTaken s (.tkp 0) 0x0A8 v → writeTaken (regPut s src (.tkp 0) 0x0A8 v) (.tkp 0) 0x0AC w →
      pageReached s (.tkp 0) → stepBad s (stepOf v w) = false →
      ∃ u, exec (.tkpStep src v w) s = .next u ∧ u.tkp.step = some (s.tkp.step.getD 0 + stepOf v w))
    ∧ (writeTaken s (.tkp 0) 0x0F0 v → writeTaken (regPut s src (.tkp 0) 0x0F0 v) (.tkp 0) 0x0F4 w →
      pageReached s (.tkp 0) → rbit s (.tkp 0) 0x018 0 = false → ∃ u, exec (.rtcSet src v w) s = .next u
        ∧ rtcNow u = (v.toNat + 2 ^ 32 * (w.toNat % 2 ^ 16), 0) ∧ rbit u (.tkp 0) 0x0F8 0 = false ∧ u.time = s.time)
    ∧ (writeTaken s (.tkp 0) 0x080 (rawReg s (.tkp 0) 0x080 ||| 0x10000) → ∃ u, exec (.rtcsync src) s = .next u
      ∧ u.tkp.rtcsync = true)
    ∧ (n < 24 → writeTaken s (accPage n) (accOff n) (BitVec.ofNat 32 (role % 4)) → rbit s (accPage n) 0x018 0 = false →
      ∃ u, exec (.accRole src n role) s = .next u ∧ accRole u n = role % 4
        ∧ (accState s n = 0 → role % 4 = 2 → linkUp s n → accState u n = 1) ∧ (role % 4 ≠ 2 → accState u n = 0))

/-- Registers of links, Ethernet ports and Glaziers whose writes start something. -/
def Obligations.PortRegistersAct : Prop :=
  ∀ (s : State) (src : Src) (n ring : Nat) (tx : Bool) (v : Word),
    (writeTaken s (.llk n) 0x080 (rawReg s (.llk n) 0x080 ||| 1) → llkState s n ∈ [0, 7, 8] →
      fld (rawReg s (.llk n) 0x080) 1 1 = 0 → ∃ u, exec (.train src n) s = .next u ∧ llkState u n = 1
        ∧ rbit u (.llk n) 0x080 0 = true ∧ u.mem = s.mem)
    ∧ (writeTaken s (.llk n) 0x080 (setFld (rawReg s (.llk n) 0x080) 1 0 2) → ∃ u, exec (.llkDown src n) s = .next u
      ∧ llkState u n = 0 ∧ rbit u (.llk n) 0x080 0 = false ∧ u.mem = s.mem)
    ∧ (writeTaken s (.eth n) (ringOff tx (ring % 64) + 0xC) v → ∃ u, exec (.ethRingTail src n ring tx v) s = .next u
      ∧ ringTail u n tx (ring % 64) = fld v 15 0 ∧ OnlyRegs s u)
    ∧ (writeTaken s (.eth n) (ringOff tx (ring % 64) + 4) v → ∃ u, exec (.ethRingEn src n ring tx v) s = .next u
      ∧ ringEn u n tx (ring % 64) = (fld v 16 16 == 1)
      ∧ (ringEn s n tx (ring % 64) = true → fld v 16 16 = 0 →
        ringHead u n tx (ring % 64) = 0 ∧ ringTail u n tx (ring % 64) = 0) ∧ u.mem = s.mem)
    ∧ (writeTaken s (.glz n) 0x0A0 v → ∃ u, exec (.glzRingTail src n v) s = .next u ∧ glzTail u n = fld v 15 0
      ∧ OnlyRegs s u)
    ∧ (writeTaken s (.glz n) 0x0B4 1 → glzState s n = 3 → ∃ u, exec (.glzResume src n) s = .next u ∧ glzState u n = 1
      ∧ OnlyRegs s u)

/-- Issue of NOP, END, LDLC, and of SEM with OP SET, ADD and SUB. -/
def Obligations.SeqCommandsIssue : Prop :=
  (∀ (s : State) (t lc : Nat) (w : CmdWord), Issues s t lc w → cwEng w = 0 →
    (cwOpc w = 0x00 → ∃ u, exec (.nop t) s = .next u ∧ lcState u t lc = 1
      ∧ rfld u (.seq t) (lcStat lc) 26 16 = nextPc (getCtx s t lc) % 2 ^ 11
      ∧ RegsBut s u [regKey (.seq t) (lcStat lc)] ∧ OnlyTile s u t)
    ∧ (cwOpc w = 0x01 → ∃ u, exec (.endList t) s = .next u ∧ lcState u t lc = 3
      ∧ rfld u (.seq t) (lcStat lc) 26 16 = nextPc (getCtx s t lc) % 2 ^ 11
      ∧ RegsBut s u [regKey (.seq t) (lcStat lc)] ∧ OnlyTile s u t)
    ∧ (cwOpc w = 0x04 → ∃ u, exec (.ldlc t) s = .next u ∧ lcState u t lc = 1
      ∧ rawReg u (.seq t) (0x110 + 0x40 * lc + 4 * cwBits w 79 77) = BitVec.ofNat 32 (cwBits w 31 0)
      ∧ rfld u (.seq t) (lcStat lc) 26 16 = nextPc (getCtx s t lc) % 2 ^ 11
      ∧ RegsBut s u [regKey (.seq t) (lcStat lc), regKey (.seq t) (0x110 + 0x40 * lc + 4 * cwBits w 79 77)]
      ∧ OnlyTile s u t))
    ∧ ∀ (s : State) (t lc : Nat) (w : CmdWord), Issues s t lc w → cwEng w = 0 → cwOpc w = 0x05 →
    let i := cwBits w 79 74
    let v := cwBits w 31 0
    let a := (getSem s t i).toNat
    let after (u : State) (r : Nat) (sat : Bool) : Prop :=
      (getSem u t i).toNat = r ∧ rbit u (.seq t) (lcStat lc) 4 = (rbit s (.seq t) (lcStat lc) 4 || sat)
        ∧ lcState u t lc = 1 ∧ rfld u (.seq t) (lcStat lc) 26 16 = nextPc (getCtx s t lc) % 2 ^ 11
        ∧ RegsBut s u [regKey (.seq t) (lcStat lc), regKey (.seq t) (semOff i)] ∧ OnlyTile s u t
    (cwBits w 73 72 = 0 → ∃ u, exec (.semSet t) s = .next u ∧ after u v false)
    ∧ (cwBits w 73 72 = 1 → ∃ u, exec (.semAdd t) s = .next u ∧ after u (Nat.min (a + v) 0xFFFFFFFF) (decide (0xFFFFFFFF < a + v)))
    ∧ (cwBits w 73 72 = 2 → ∃ u, exec (.semSub t) s = .next u ∧ after u (a - v) (decide (a < v)))

/-- Issue of JMP and BR. -/
def Obligations.BranchesSteerIssue : Prop :=
  ∀ (s : State) (t lc : Nat) (w : CmdWord), Issues s t lc w → cwEng w = 0 →
    let pc := (getCtx s t lc).pc
    let cond := cwBits w 68 66
    let sel := cwBits w 65 60
    let shown (u : State) : Nat := rfld u (.seq t) (lcStat lc) 26 16
    let loop := 0x110 + 0x40 * lc + 4 * sel
    (cwOpc w = 2 → ∃ u, exec (.jmp t) s = .next u
      ∧ shown u = (if cwA w then cwTarget w else pc + 1) % 2 ^ 11 ∧ lcState u t lc = 1
      ∧ RegsBut s u [regKey (.seq t) (lcStat lc)] ∧ OnlyTile s u t)
    ∧ (cwOpc w = 3 → condFinal s t lc (getCtx s t lc).sn cond sel →
      let s0 := if cond = 1 then loopDec s t lc sel else s
      let taken := condTaken s0 t lc cond sel (cwBits w 59 57) (BitVec.ofNat 32 (cwBits w 31 0))
      ∃ u, exec (.br t) s = .next u ∧ shown u = (if taken || !cwA w then pc + 1 else pc + 2) % 2 ^ 11
        ∧ (cond = 1 → rawReg u (.seq t) loop = BitVec.ofNat 32 ((rawReg s (.seq t) loop).toNat - 1)) ∧ lcState u t lc = 1
        ∧ RegsBut s u ([0x094, 0x098, lcStat lc].map (regKey (.seq t)) ++ if cond = 1 then [regKey (.seq t) loop] else [])
        ∧ OnlyTile s u t)
    ∧ (cwOpc w = 3 → condFinal s t lc (getCtx s t lc).sn cond sel = false →
      let guess := if cwP w then decide (cwTarget w ≤ pc) else (predict s t pc (cwTarget w)).1
      ∃ u, exec (.br t) s = .next u ∧ shown u = (if guess || !cwA w then pc + 1 else pc + 2) % 2 ^ 11 ∧ lcState u t lc = 1
        ∧ RegsBut s u [regKey (.seq t) (lcStat lc)] ∧ OnlyTile s u t)

/-- A branch resolves, where MOV holds nothing and no fault of its path is held; a context that drains or has faulted is
not redirected. -/
def Obligations.BranchesResolve : Prop :=
  ∀ (s : State) (t lc k : Nat) (b : Branch), lc < (getTile s t).ctx.length →
    ((getCtx s t lc).brs.filter (fun b => b.res.isNone))[k]? = some b → seqRuns s t →
    condFinal s t lc b.sn b.cond b.sel → movStill s t → (getCtx s t lc).held = none →
    let taken := condTaken s t lc b.cond b.sel b.rel b.imm
    let shown (u : State) : Nat := rfld u (.seq t) (lcStat lc) 26 16
    (b.pred = taken → ∃ u, exec (.branchResolve t lc k) s = .next u ∧ shown u = shown s
      ∧ lcState u t lc = lcState s t lc ∧ RegsBut s u ([0x094, 0x098].map (regKey (.seq t))) ∧ OnlyTile s u t)
    ∧ (b.pred ≠ taken → ∃ u, exec (.branchResolve t lc k) s = .next u
      ∧ (lcState s t lc = 1 ∨ lcState s t lc = 2 →
        shown u = (if b.a then (if taken then b.idx + 1 else b.idx + 2)
          else if b.sn + 1 < (getCtx s t lc).sn then (if taken then b.target else b.idx + 2) else b.idx + 1) % 2 ^ 11
        ∧ (getCtx u t lc).penalty = 5)
      ∧ (lcState s t lc = 3 ∨ lcState s t lc = 4 → shown u = shown s) ∧ (∀ d ∈ (getCtx u t lc).brs, d.sn ≤ b.sn) ∧ lcState u t lc = lcState s t lc
      ∧ TileEvents s u ([0x094, 0x098, 0x09C, lcStat lc].map (regKey (.seq t))) t)

/-- WAIT: at issue, while it holds its context, and at its deadline. -/
def Obligations.WaitsOnSemaphores : Prop :=
  ∀ (s : State) (t lc : Nat),
    let keys (l : List Nat) : List Nat := (lcStat lc :: l).map (regKey (.seq t))
    (∀ w, Issues s t lc w → cwEng w = 0 → cwOpc w = 7 →
      let i := cwBits w 79 74
      let v := BitVec.ofNat 32 (cwBits w 31 0)
      let met := relHolds (cwBits w 73 71) (getSem s t i) v
      ∃ u, exec (.wait t) s = .next u ∧ lcState u t lc = (if met then 1 else 2)
        ∧ getSem u t i = (if met && cwBit w 70 then getSem s t i - v else getSem s t i)
        ∧ TileEvents s u (keys [semOff i]) t)
    ∧ ∀ y, lcState s t lc = 2 → seqRuns s t → (getCtx s t lc).wait = some y →
      (∀ i rel v dec, y.what = .sem i rel v dec → (dec → rel = 3) →
        (relHolds rel (getSem s t i) v → ∃ u, exec (.waitRelease t lc) s = .next u ∧ lcState u t lc = 1
          ∧ getSem u t i = (if dec then getSem s t i - v else getSem s t i) ∧ TileEvents s u (keys [semOff i]) t)
        ∧ (relHolds rel (getSem s t i) v = false → exec (.waitRelease t lc) s = .next s))
      ∧ (∀ d, y.due = some d → 0 < d → d ≤ eTime s → waitTry s t lc y.what = none → (getCtx s t lc).brs = [] →
        movStill s t → ∃ u, exec (.waitTimeout t lc) s = .next u ∧ lcState u t lc = 4
          ∧ rfld u (.seq t) (lcStat lc) 15 8 = 0x13 ∧ TileEvents s u (keys []) t)

/-- WAITSEL and FENCE: the context goes on at once or waits, and goes on when it may. -/
def Obligations.SelectionsAndFences : Prop :=
  ∀ (s : State) (t lc : Nat),
    let keys (l : List Nat) : List Nat := (lcStat lc :: l).map (regKey (.seq t))
    let last := rfld s (.seq t) (0x10C + 0x40 * lc) 3 0
    let fail (u : State) : Prop := rbit u (.seq t) (lcStat lc) 3 = rbit s (.mov t) (0x0A0 + 4 * lc) 0
      ∧ rbit u (.mov t) (0x0A0 + 4 * lc) 0 = false
    (∀ w, Issues s t lc w → cwEng w = 0 → cwOpc w = 8 →
      let ready (n : Nat) : Bool := cwBits w 79 64 / 2 ^ n % 2 == 1 && rqNonEmpty s t n
      let from_ := if cwBit w 63 then (last + 1) % 16 else 0
      let d := cwBits w 62 57
      ((∀ n, n < 16 → ready n = false) → ∃ u, exec (.waitsel t) s = .next u ∧ lcState u t lc = 2
        ∧ TileEvents s u (keys []) t)
      ∧ ∀ k, k < 16 → ready ((from_ + k) % 16) → (∀ j, j < k → ready ((from_ + j) % 16) = false) →
        ∃ u, exec (.waitsel t) s = .next u ∧ lcState u t lc = 1 ∧ getSem u t d = BitVec.ofNat 32 ((from_ + k) % 16)
          ∧ rfld u (.seq t) (0x10C + 0x40 * lc) 3 0 = (if cwBit w 63 then (from_ + k) % 16 else last)
          ∧ TileEvents s u (keys [semOff d, 0x10C + 0x40 * lc]) t)
    ∧ (∀ w, Issues s t lc w → cwEng w = 0 → cwOpc w = 9 →
      let x := getTile s t
      let busy := (cwBit w 79 && inCmp x lc) || (cwBit w 78 && inMov x lc) || (cwBit w 77 && inCmb x lc)
      ∃ u, exec (.fence t) s = .next u ∧ lcState u t lc = (if busy then 2 else 1)
        ∧ (busy = false → cwBit w 78 → fail u) ∧ TileEvents s u (regKey (.mov t) (0x0A0 + 4 * lc) :: keys []) t)
    ∧ ∀ y, lcState s t lc = 2 → seqRuns s t → (getCtx s t lc).wait = some y →
      (∀ mask rot d k, y.what = .sel mask rot d → k < 16 →
        let from_ := if rot then (last + 1) % 16 else 0
        let ready (n : Nat) : Bool := mask.toNat / 2 ^ n % 2 == 1 && rqNonEmpty s t n
        ready ((from_ + k) % 16) → (∀ j, j < k → ready ((from_ + j) % 16) = false) →
        ∃ u, exec (.waitselSelect t lc) s = .next u ∧ lcState u t lc = 1 ∧ getSem u t d = BitVec.ofNat 32 ((from_ + k) % 16)
          ∧ rfld u (.seq t) (0x10C + 0x40 * lc) 3 0 = (if rot then (from_ + k) % 16 else last)
          ∧ TileEvents s u (keys [semOff d, 0x10C + 0x40 * lc]) t)
      ∧ (∀ a b c, y.what = .fence a b c →
        (a && inCmp (getTile s t) lc) = false → (b && inMov (getTile s t) lc) = false →
        (c && inCmb (getTile s t) lc) = false → ∃ u, exec (.fenceComplete t lc) s = .next u ∧ lcState u t lc = 1
          ∧ (b → fail u) ∧ TileEvents s u (regKey (.mov t) (0x0A0 + 4 * lc) :: keys []) t)

/-- Issue of commands for the engines, and of SIG. -/
def Obligations.EngineCommandsQueue : Prop :=
  ∀ (s : State) (t lc : Nat) (w : CmdWord), Issues s t lc w → lc < (getTile s t).ctx.length →
    let c := getCtx s t lc
    let q : QCmd := ⟨w, lc, c.sn, nextDs c⟩
    let x := getTile s t
    let after (u : State) : Prop := rfld u (.seq t) (lcStat lc) 26 16 = nextPc c % 2 ^ 11 ∧ lcState u t lc = 1
      ∧ RegsBut s u [regKey (.seq t) (lcStat lc)] ∧ OnlyTile s u t
    (cwEng w = 1 → ∃ u, exec (.seqIssueSlot t []) s = .next u ∧ after u ∧ (getTile u t).cmpQ = x.cmpQ ++ [q]
      ∧ (getTile u t).cmbQ = x.cmbQ ∧ (getTile u t).movQ = x.movQ)
    ∧ (cwEng w = 3 → ∃ u, exec (.seqIssueSlot t []) s = .next u ∧ after u ∧ (getTile u t).cmbQ = x.cmbQ ++ [q]
      ∧ (getTile u t).cmpQ = x.cmpQ ∧ (getTile u t).movQ = x.movQ)
    ∧ (cwEng w = 2 ∨ (cwEng w = 0 ∧ cwOpc w = 6) → movMayStart s t = false → x.movCur = none → x.stageQ = [] →
      rbit s (.mov t) 0x010 1 = false →
      ∃ u, exec (if cwEng w = 2 then .seqIssueSlot t [] else .sig t) s = .next u ∧ after u
        ∧ (getTile u t).movQ = x.movQ ++ [q] ∧ (getTile u t).cmpQ = x.cmpQ ∧ (getTile u t).cmbQ = x.cmbQ)

/-- A HDR that issues, the end of a drain, and the decision on a LOAD. -/
def Obligations.ListsStartAndEnd : Prop :=
  ∀ (s : State) (t lc : Nat), lc < 4 →
    let c := getCtx s t lc
    (issuer s t = some lc → c.pc ≤ c.base + c.len → cwEng (cmWord s t c.pc) = 0 → cwOpc (cmWord s t c.pc) = 0xF0 →
      anyUE s (cmKey t (16 * c.pc)) 16 = false → countCE s (cmKey t (16 * c.pc)) 16 = 0 → c.brs = [] → movStill s t →
      ∃ u, exec (.hdr t) s = .next u ∧ lcState u t lc = 4 ∧ rfld u (.seq t) (lcStat lc) 15 8 = 0x10
        ∧ TileEvents s u [regKey (.seq t) (lcStat lc)] t)
    ∧ (lcState s t lc = 3 → seqRuns s t → inCmp (getTile s t) lc = false → inMov (getTile s t) lc = false →
      inCmb (getTile s t) lc = false → (getCtx s t lc).brs = [] → rbit s (.seq t) 0x010 1 = false → ∃ u, exec (.contextDrained t lc) s = .next u
        ∧ lcState u t lc = 0 ∧ rbit u (.seq t) (0x104 + 0x40 * lc) 1 = false
        ∧ TileEvents s u [regKey (.seq t) (lcStat lc), regKey (.seq t) (0x104 + 0x40 * lc)] t)
    ∧ ((getTile s t).loads.head? = some lc → stopped s (.seq t) = false → isolated s t = false →
      let base := rfld s (.seq t) (0x100 + 0x40 * lc) 10 0
      let w := cmWord s t base
      anyUE s (cmKey t (16 * base)) 16 = false → countCE s (cmKey t (16 * base)) 16 = 0 →
      (lcState s t lc = 0 → hdrBad w = false → shortMask (shortfalls s t base w) = 0 →
        ∃ u, exec (.loadDecision t lc) s = .next u ∧ lcState u t lc = 1
          ∧ rfld u (.seq t) (lcStat lc) 26 16 = (base + 1) % 2 ^ 11 ∧ (∀ k, k < 8 → getTd u t lc k = none)
          ∧ rbit u (.seq t) (0x104 + 0x40 * lc) 0 = false ∧ u.mem = s.mem)
      ∧ (lcState s t lc = 0 → hdrBad w = false → shortMask (shortfalls s t base w) ≠ 0 →
        ∃ u, exec (.loadDecision t lc) s = .next u ∧ lcState u t lc = 0
          ∧ (rbit s (.seq t) 0x084 31 = false → rbit u (.seq t) 0x084 31 = true)
          ∧ TileEvents s u ([lcStat lc, 0x104 + 0x40 * lc, 0x084].map (regKey (.seq t))) t)
      ∧ (lcState s t lc ≠ 0 → ∃ u, exec (.loadDecision t lc) s = .next u ∧ lcState u t lc = lcState s t lc
        ∧ TileEvents s u [regKey (.seq t) (0x104 + 0x40 * lc)] t))

/-- An operation of CMP (Table 6.3) writes its result, and that of TRANS, CPY and FILL by element. -/
def Obligations.CmpWritesResult : Prop :=
  (∀ (s : State) (t op : Nat) (c : Instr),
    (c, op) ∈ cmpRows t →
    ∀ (q : QCmd) (d a b : Td), CmpRuns s t op q d a b → Memory.wf s.mem →
      ∃ u, exec c s = .next u
        ∧ (∀ i j, i < d.rows → j < d.cols →
          tdElem u t d i j = (cmpElem s t op q.word d a b i j).1 % 2 ^ (8 * tySize d.ty))
        ∧ (∀ k, (∀ i, i < d.rows → k < tdKey t d i 0 ∨ tdKey t d i 0 + d.cols * tySize d.ty ≤ k) →
          getByte u.mem k = getByte s.mem k)
        ∧ (∃ r, (getTile u t).cmpRun = some r ∧ r.cmd = q ∧ r.err = 0)
        ∧ (getTile u t).cmpQ = (getTile s t).cmpQ.tail ∧ RegsEvents s u [])
    ∧ ∀ (s : State) (t : Nat) (q : QCmd) (d a : Td), Memory.wf s.mem →
    (CmpRuns s t 0x40 q d a d → ∃ u, exec (.trans t []) s = .next u
      ∧ ∀ i j, i < a.rows → j < a.cols → tdElem u t d j i = tdElem s t a i j)
    ∧ (CmpRuns s t 0x41 q d a d → ∃ u, exec (.cpy t []) s = .next u
      ∧ ∀ i j, i < a.rows → j < a.cols → tdElem u t d i j = tdElem s t a i j)
    ∧ (CmpRuns s t 0x43 q d d d → ∃ u, exec (.fill t []) s = .next u
      ∧ ∀ i j, i < d.rows → j < d.cols → tdElem u t d i j = cmpImm0 q.word % 2 ^ (8 * tySize d.ty))

/-- A CMP command with an invalid descriptor, or one that a check refuses, writes nothing; TDESC; and the end of a command. -/
def Obligations.CmpCommandsEnd : Prop :=
  (∀ (s : State) (t op : Nat) (c : Instr), (c, op) ∈ cmpRows t → ∀ q : QCmd,
    cmpHead s t = some q → cwEng q.word = 1 → cwOpc q.word = op →
    let fails (e : Nat) : Prop := ∃ u r, exec c s = .next u ∧ (getTile u t).cmpRun = some r ∧ r.cmd = q ∧ r.err = e
      ∧ TileEvents s u [] t
    (getTd s t q.lc (cmpDtd q.word) = none → fails 0x10)
    ∧ ∀ d a b, getTd s t q.lc (cmpDtd q.word) = some d → getTd s t q.lc (cmpAtd q.word) = some a →
      getTd s t q.lc (cmpBtd q.word) = some b →
      let e := cmpCheck op d (if usesA op then some a else none) (if usesB op then some b else none)
      e ≠ 0 → fails e)
    ∧ ∀ (s : State) (t : Nat),
    (∀ q, cmpHead s t = some q → cwEng q.word = 1 → cwOpc q.word = 1 → q.lc < 4 →
      let k := cwBits q.word 79 77
      let keys := [tdOff q.lc k, tdOff q.lc k + 4, tdOff q.lc k + 8].map (regKey (.cmp t))
      (tdescOk (tdescOf q.word) → ∃ u, exec (.tdesc t) s = .next u ∧ getTd u t q.lc k = some (tdescOf q.word)
        ∧ (getTile u t).cmpQ = (getTile s t).cmpQ.tail ∧ TileEvents s u keys t)
      ∧ (tdescOk (tdescOf q.word) = false → ∃ u, exec (.tdesc t) s = .next u ∧ getTd u t q.lc k = none
        ∧ rbit u (.cmp t) (0x080 + 4 * q.lc) 3 = true ∧ rfld u (.cmp t) (0x080 + 4 * q.lc) 15 8 = 0x10
        ∧ TileEvents s u (regKey (.cmp t) (0x080 + 4 * q.lc) :: keys) t))
    ∧ ∀ r, (getTile s t).cmpRun = some r → stopped s (.cmp t) = false → isolated s t = false → r.cmd.lc < 4 →
      let w := r.cmd.word
      let o := 0x080 + 4 * r.cmd.lc
      let sem := cmpCsem w
      (r.err = 0 → cwDig w = false → ∃ u, exec (.cmpComplete t) s = .next u ∧ (getTile u t).cmpRun = none
        ∧ (∀ i b, (i, b) ∈ [(0, r.inv), (1, r.ovf), (2, r.sat)] → rbit u (.cmp t) o i = (rbit s (.cmp t) o i || b))
        ∧ (getSem u t sem).toNat = (if cmpCse w then Nat.min ((getSem s t sem).toNat + 1) 0xFFFFFFFF
            else (getSem s t sem).toNat)
        ∧ TileEvents s u [regKey (.cmp t) o, regKey (.seq t) (semOff sem), regKey (.seq t) (lcStat r.cmd.lc)] t)
      ∧ (r.err = 0 → cwDig w → enabled s (.dbg t) →
        let d : Td := ⟨r.dbase, r.dty, r.drows, r.dcols, r.dpitch⟩
        let es := (List.range d.rows).flatMap (fun i => (List.range d.cols).map (tdElem s t d i))
        ∃ u, exec (.cmpComplete t) s = .next u ∧ (getTile u t).cmpRun = none ∧ u.mem = s.mem
          ∧ rawReg u (.dbg t) (attOff r.cmd.lc) = BitVec.ofNat 32 (crc32c (es.flatMap (leBytes (tySize d.ty))))
          ∧ rawReg u (.dbg t) (attOff r.cmd.lc + 4) = BitVec.ofNat 32 (d.rows * d.cols))
      ∧ (r.err ≠ 0 → ∃ u, exec (.cmpComplete t) s = .next u ∧ (getTile u t).cmpRun = none
        ∧ rbit u (.cmp t) o 3 = true ∧ rfld u (.cmp t) o 15 8 = r.err % 256 ∧ getSem u t sem = getSem s t sem
        ∧ TileEvents s u [regKey (.cmp t) o] t)

/-- MADDR and MNODE where MOV has no other command, the completion of a MOV command, and a resend. -/
def Obligations.MovDescriptorsAndEnds : Prop :=
  (∀ (s : State) (t : Nat) (q : QCmd), (getTile s t).movQ = [q] → q.lc < 4 →
    let k := cwBits q.word 79 77
    let o := madOff q.lc k
    let old := getMad s t q.lc k
    (movHead s t 0x01 = some q → ∃ u, exec (.maddr t) s = .next u
      ∧ getMad u t q.lc k = { old with
        space := cwBits q.word 76 75, ainc := cwBit q.word 74, addr := cwBits q.word 47 0 }
      ∧ (getTile u t).movQ = [] ∧ TileEvents s u ([o, o + 4, o + 8].map (regKey (.mov t))) t)
    ∧ (movHead s t 0x02 = some q → ∃ u, exec (.mnode t) s = .next u
      ∧ getMad u t q.lc k = { old with
        node := BitVec.ofNat 32 (cwBits q.word 63 32), rect := BitVec.ofNat 32 (cwBits q.word 31 0) }
      ∧ (getTile u t).movQ = [] ∧ TileEvents s u ([o + 0xC, o + 0x10].map (regKey (.mov t))) t))
    ∧ ∀ (s : State) (t : Nat), movRuns s t →
    (∀ m, (getTile s t).movOut.find? (cmdOver (getTile s t)) = some m → m.cmd.lc < 4 →
      let w := m.cmd.word
      let sem := movCsem w
      ∃ u, exec (.movComplete t) s = .next u ∧ (∀ d ∈ (getTile u t).movOut, d.id ≠ m.id)
        ∧ (getSem u t sem).toNat = (if isSig w = false ∧ movCse w ∧ m.failed = false then
            Nat.min ((getSem s t sem).toNat + 1) 0xFFFFFFFF else (getSem s t sem).toNat)
        ∧ TileEvents s u [regKey (.seq t) (semOff sem), regKey (.seq t) (lcStat m.cmd.lc)] t)
    ∧ ∀ tag r d, (getTile s t).movReqs.find? (fun r => r.tag == tag && r.due.isSome) = some r → r.due = some d →
      0 < d → d ≤ eTime s → iqRoom s t r.iq → r.iq < (getTile s t).iq.length → ∃ u, exec (.movResend t tag) s = .next u
        ∧ iqOf (getTile u t) r.iq = iqOf (getTile s t) r.iq ++ [{ r.pkt with tent := false }] ∧ TileEvents s u [] t

/-- A COPY within the tile, not tentative. -/
def Obligations.LocalCopyMovesBytes : Prop :=
  ∀ (s : State) (t : Nat) (q : QCmd) (src dst : Side), (getTile s t).movQ = [q] → movHead s t 0x10 = some q →
    isTent (getCtx s t q.lc) q.sn q.ds = false → q.lc < 4 → Memory.wf s.mem →
    movPlan s t q.lc q.word = .go .write src dst → dst.space = 0 → movLen q.word ≠ 0 →
    let n := movLen q.word
    anyUE s (tmKey t src.addr) n = false → countCE s (tmKey t src.addr) n = 0 →
    let inc (k : Nat) : Nat :=
      if (getMad s t q.lc k).ainc then ((getMad s t q.lc k).addr + n) % 2 ^ 48 else (getMad s t q.lc k).addr
    ∃ u, exec (.copy t []) s = .next u
      ∧ readMem u (tmKey t dst.addr) n = readMem s (tmKey t src.addr) n ∧ MemBut s u (tmKey t dst.addr) n
      ∧ (getTile u t).movQ = [] ∧ (∃ c ∈ (getTile u t).movOut, c.cmd = q ∧ c.sent = true ∧ c.failed = false)
      ∧ (∀ k, k = movSmad q.word ∨ k = movDmad q.word → (getMad u t q.lc k).addr % 2 ^ 48 = inc k % 2 ^ 48)
      ∧ RegsEvents s u ([movSmad q.word, movDmad q.word].flatMap (fun k =>
        [madOff q.lc k + 4, madOff q.lc k + 8].map (regKey (.mov t))))

/-- COPY to or from elsewhere, MSG and CONTRIB, not tentative: the command is in hand and, with room in its injection
queue, its first packet is made; one that R271 refuses fails and sends nothing. -/
def Obligations.MovCommandsStart : Prop :=
  ∀ (s : State) (t opc : Nat) (c : Instr),
    (c, opc) ∈ [(.copy t [], 0x10), (.movMsg t [], 0x11), (.movContrib t [], 0x12)] →
    ∀ q : QCmd, (getTile s t).movQ = [q] → movHead s t opc = some q → isTent (getCtx s t q.lc) q.sn q.ds = false →
    q.lc < 4 → (opc ≠ 0x11 → movTotal q.word ≠ 0) →
    (∀ k src dst, movPlan s t q.lc q.word = .go k src dst → (k = .write → dst.space ≠ 0) →
      ∃ u, exec c s = .next u ∧ (getTile u t).movQ = [] ∧ u.mem = s.mem
        ∧ (∃ m ∈ (getTile u t).movOut ++ (getTile u t).movCur.toList, m.cmd = q ∧ m.kind = k)
        ∧ ((getTile s t).iq.length = 4 → iqRoom s t (movIq q.word) → tagSpare (getTile s t) q.lc 1 → k ≠ .staged →
          ∃ p ∈ iqOf (getTile u t) (movIq q.word), p.src = tileNode s t 0 ∧ p.layer = cwLayer q.word
            ∧ p.oper = cwOper q.word ∧ (p.dst, p.opc) ∈ (match k with
              | .write => [(p.dst, opWR)]
              | .wra => [(p.dst, opWRA)]
              | .multicast => [(p.dst, opWR)]
              | .regRead => [(src.node, opREGRD)]
              | .regWrite => [(dst.node, opREGWR)]
              | .msg => [((match dst with
                | .queue n r true _ => mcNode n (rectOf r)
                | _ => dst.node), opMSG)]
              | .contrib => [(dst.node, opCONTRIB)]
              | _ => [(p.dst, opRD)])))
    ∧ (∀ r, movPlan s t q.lc q.word = .refuse r → ∃ u, exec c s = .next u ∧ (getTile u t).movQ = []
      ∧ rbit u (.mov t) (0x0A0 + 4 * q.lc) 0 = true ∧ u.mem = s.mem
      ∧ (∃ m ∈ (getTile u t).movOut, m.cmd = q ∧ m.failed = true) ∧ (getTile u t).iq = (getTile s t).iq)

/-- Routers move a header in its turn, and a data flit behind it; injection; the junctions of absent sites and dies. -/
def Obligations.FabricMovesPackets : Prop :=
  (∀ (s : State) (t port vc : Nat) (w : Worm),
    (rtrRuns s t → getRin s t port vc = some w → w.hd = true →
      ∀ he pe, he = true ∨ w.pkt.hcrc ≠ hcrcOf w.pkt → ∃ u, exec (.routerPacket t port vc he pe) s = .next u
        ∧ getRin u t port vc = headGone w .absorb
        ∧ rfld u (.rtr t) 0x0C0 15 0 = Nat.min (rfld s (.rtr t) 0x0C0 15 0 + 1) 0xFFFF
        ∧ TileEvents s u (regKey (.rtr t) 0x0C0 :: (List.range 8).map (fun k => regKey (.rtr t) (0x200 + 4 * k))) t)
    ∧ (∀ pe, HeadAt s t port vc w → hopsOf s t port vc w.pkt = [toL w.pkt] → PlainPort s t 4 w.pkt →
      isRsp w.pkt = false → (getTile s t).lreq = [] → partOk s t w.pkt → isolated s t = false → rowAt w.pkt →
      (getOut s t 4 (vcBase w.pkt)).held = false → turn s t (vcKey port vc) 4 (vcBase w.pkt) →
      ∃ u, exec (.routerPacket t port vc false pe) s = .next u
        ∧ getRin u t port vc = headGone w (.sink 4 (vcBase w.pkt))
        ∧ (getTile u t).lreq = (if oneFlit w then [w.pkt] else [])
        ∧ (getOut u t 4 (vcBase w.pkt)).held = !oneFlit w ∧ OnlyTile s u t ∧ RegsBut s u [])
    ∧ (∀ n v q pe, HeadAt s t port vc w → n < 4 → hopsOf s t port vc w.pkt = [.port n v q] → PlainPort s t n q →
      outFree s t n v → forkAhead s t 2 n q = false → turn s t (vcKey port vc) n v →
      let far := neighbour s t n
      ∃ u, exec (.routerPacket t port vc false pe) s = .next u ∧ getRin u t port vc = headGone w (.link n v)
        ∧ getRin u far.1 far.2 v = some { pkt := { reHcrc q with data := [] }, tl := oneFlit w }
        ∧ getOut u t n v = ⟨(getOut s t n v).credits - 1, !oneFlit w, vcKey port vc⟩ ∧ RegsBut s u [] ∧ u.mem = s.mem)
    ∧ ∀ n v f fs (d : Worm), rtrRuns s t → getRin s t port vc = some w → w.hd = false → n < 4 →
      w.out = some (.link n v) → w.pkt.data = f :: fs → w.pkt.len.toNat ≤ 64 → 0 < w.seen →
      (getOut s t n v).credits ≠ 0 → rbit s (.rtr t) 0x060 0 = false →
      turn s t (vcKey port vc) n v →
      let far := neighbour s t n
      getRin s far.1 far.2 v = some d → ∃ u, exec (.routerPacket t port vc false []) s = .next u
        ∧ getRin u far.1 far.2 v = some { d with
            pkt := { d.pkt with data := d.pkt.data ++ [f] }, tl := w.tl && fs.isEmpty && w.rest.isEmpty }
        ∧ (getOut u t n v).credits + 1 = (getOut s t n v).credits ∧ RegsBut s u [] ∧ u.mem = s.mem)
    ∧ ∀ (s : State) (t : Nat) (p : Packet) (rest : List Packet),
    ((getTile s t).out = [p] → portFree s t (vcBase p) → gReached s (.mov t) = false →
      (isRsp p = true ∨ (nodeKind p.dst = 0 ∧ nodePkg p.dst = ownPkg s ∧ nodeX p.dst < gridX s ∧ nodeY p.dst < gridY s
        ∧ p.mc = false) → ∃ u q, exec (.injectPacket (.tile t)) s = .next u ∧ (getTile u t).out = []
          ∧ getRin u t 4 (vcBase p) = some (wormOf q) ∧ q.hcrc = hcrcOf q
          ∧ q.spart.toNat = rfld s (.til t) 0x080 3 0 ∧ q.psel = rfld s (.rtr t) 0x080 1 0
          ∧ { q with dirx := p.dirx, diry := p.diry, spart := p.spart, hcrc := p.hcrc, psel := p.psel } = p
          ∧ OnlyTile s u t ∧ RegsBut s u [])
      ∧ (isRsp p = false → nodeKind p.dst = 3 → ∃ u a, exec (.injectPacket (.tile t)) s = .next u
        ∧ (getTile u t).out = [] ∧ (getTile u t).lrsp = (getTile s t).lrsp ++ [a] ∧ a.opc = opNAK ∧ a.dst = p.src
        ∧ a.tag = p.tag ∧ a.aux = BitVec.ofNat 32 nkMALFORMED ∧ OnlyTile s u t ∧ RegsBut s u []))
    ∧ (∀ x e, (getEdge s x e).req = p :: rest → edgePop s x e = false → p.opc ≠ opTRACE →
      ∃ u, exec (.edgeAbsentRequest x e) s = .next u ∧ (getEdge u x e).req = rest
        ∧ (getEdge u x e).out = (getEdge s x e).out ++ [nakPkt p.dst p nkOFF] ∧ RegsBut s u [] ∧ u.mem = s.mem)
    ∧ ((getDie s 1).req = p :: rest → dieFitted s 1 = false → nodePkg p.src = ownPkg s →
      ∃ u, exec (.ioeAbsentRequest (nodeY p.src)) s = .next u ∧ (getDie u 1).req = rest
        ∧ (getDie u 1).out = (getDie s 1).out ++ (if p.opc = opTRACE then [] else [nakPkt p.dst p nkOFF])
        ∧ RegsBut s u [] ∧ u.mem = s.mem)
    ∧ ((getDie s 1).req = p :: rest → dieFitted s 1 = false → nodePkg p.src ≠ ownPkg s → p.opc ≠ opTRACE →
      ∃ u, exec (.ioeAbsentRequest (nodeY p.dst)) s = .next u ∧ (getDie u 1).req = rest
        ∧ (getDie u 0).osw = (getDie s 0).osw ++ [{ pkt := nakPkt p.dst p nkOFF }] ∧ RegsBut s u [] ∧ u.mem = s.mem)

/-- The fork buffer, credits, and keep-alives. -/
def Obligations.ForksAndCredits : Prop :=
  ∀ (s : State) (t port vc : Nat),
    let far := neighbour s t port
    let us : Int := usTicks 1
    (∀ w, HeadAt s t port vc w → 1 < (hopsOf s t port vc w.pkt).length → forkRoom (getTile s t) w.pkt →
      ∃ u, exec (.forkAccept t port vc) s = .next u ∧ getRin u t port vc = headGone w .fork
        ∧ (getTile u t).fork = (getTile s t).fork ++ [⟨{ w.pkt with data := [] }, (hopsOf s t port vc w.pkt).map hopBr,
            vcKey port vc, oneFlit w⟩]
        ∧ OnlyTile s u t ∧ RegsBut s u [])
    ∧ (∀ slot bi f b, rtrRuns s t → (getTile s t).fork[slot]? = some f → f.brs[bi]? = some b → b.started = false →
      b.fin = false → b.port < 4 → outFree s t b.port b.vc → PlainPort s t b.port b.pkt →
      forkAhead s t slot b.port b.pkt = false → turn s t (forkIn slot bi) b.port b.vc →
      let last := f.tl && f.pkt.data.isEmpty
      let brs := f.brs.modify bi (fun _ => { b with started := true, fin := last })
      let far2 := neighbour s t b.port
      ∃ u, exec (.forkBranchStart t slot bi) s = .next u
        ∧ getRin u far2.1 far2.2 b.vc = some { pkt := { reHcrc b.pkt with data := [] }, tl := last }
        ∧ (getTile u t).fork = (if brs.all (·.fin) then (getTile s t).fork.eraseIdx slot
            else (getTile s t).fork.modify slot (fun f => { f with brs := brs }))
        ∧ RegsBut s u [] ∧ u.mem = s.mem)
    ∧ (port < 4 → (getOut s t port vc).credits + ((getRin s far.1 far.2 vc).map (·.flits)).getD 0 < 8 →
      ∃ u, exec (.creditReturn t port vc) s = .next u
        ∧ getOut u t port vc = { getOut s t port vc with credits := (getOut s t port vc).credits + 1 }
        ∧ OnlyTile s u t ∧ RegsBut s u [])
    ∧ (t ∉ s.mgt.failedRtrs → (∀ e ∈ (getTile s t).kaSent, e.1 = port → e.2 / us ≠ fullT s / us) →
      ∃ u, exec (.keepaliveSend t port) s = .next u ∧ u.out = s.out ++ [.keepalive t port]
        ∧ tabGet 0 (getTile u far.1).kaSeen far.2 = eTime s
        ∧ u = { s with out := u.out, tiles := u.tiles } ∧ ∀ k, k ≠ t → k ≠ far.1 → getTile u k = getTile s k)
    ∧ (port < 4 → stopped s (.rtr t) = false → stopped s (.rtr far.1) = false → Due s (kaDue s t port) →
      ∃ u, exec (.keepaliveTimeout t port) s = .next u ∧ far.1 ∈ u.mgt.failedRtrs
        ∧ rbit u .mgt 0x020 0 = true ∧ u.tiles = s.tiles ∧ u.mem = s.mem ∧ RegsEvents s u [])

/-- RD, WR, WRA and CRES at TM of a tile. -/
def Obligations.TileMemoryServes : Prop :=
  ∀ (s : State) (t : Nat) (q : Packet), epKind q.dst = .tm → Memory.wf s.mem →
    let k := tmKey t q.addr.toNat
    let next (u : State) : Prop := (getTile u t).lreq = (getTile s t).lreq.tail ∧ TileMem s u t
    let written (u : State) : Prop :=
      readMem u k (payload q).length = payload q ∧ MemBut s u k (payload q).length ∧ next u
    (TileServes s t opRD q → cleanMem s k (reqBytes q) → ∃ u a, exec (.rd (.tile t) []) s = .next u
      ∧ (getTile u t).out = (getTile s t).out ++ [a] ∧ a.opc = opRDRSP ∧ a.dst = q.src ∧ a.tag = q.tag ∧ a.addr = q.addr
      ∧ payload a = readMem s k (reqBytes q) ∧ u.mem = s.mem ∧ next u)
    ∧ (TileServes s t opWRA q → ∃ u a, exec (.wra (.tile t) []) s = .next u ∧ written u
      ∧ (getTile u t).out = (getTile s t).out ++ [a] ∧ a.opc = opWRACK ∧ a.dst = q.src ∧ a.tag = q.tag ∧ a.aux = 1)
    ∧ (TileServes s t opWR q → ∃ u, exec (.wr (.tile t) []) s = .next u ∧ written u
      ∧ ((∃ a ∈ (getTile u t).acks, a.src = q.src) ∨ (getTile u t).out.length = (getTile s t).out.length + 1))
    ∧ (TileServes s t opCRES q → ∃ u, exec (.cres t) s = .next u ∧ written u)

/-- RD, WR, WRA and TRACE at a memory edge; memory data and contributions off the place that holds them are refused. -/
def Obligations.EdgeRequestsServed : Prop :=
  (∀ (s : State) (x e : Nat) (q : Packet), epKind q.dst = .mem → Memory.wf s.mem →
    let k := q.addr.toNat
    let next (u : State) : Prop := (getEdge u x e).req = (getEdge s x e).req.tail ∧ RegsBut s u [] ∧ u.tiles = s.tiles
    let written (u : State) : Prop :=
      readMem u k (payload q).length = payload q ∧ MemBut s u k (payload q).length ∧ next u
    cleanMem s k (reqBytes q) →
    (EdgeServes s x e opRD q → ∃ u a, exec (.rd (.mem x e) []) s = .next u
      ∧ (getEdge u x e).out = (getEdge s x e).out ++ [a] ∧ a.opc = opRDRSP ∧ a.dst = q.src ∧ a.tag = q.tag
      ∧ a.addr = q.addr ∧ payload a = readMem s k (reqBytes q) ∧ u.mem = s.mem ∧ next u)
    ∧ (EdgeServes s x e opWRA q → ∃ u a, exec (.wra (.mem x e) []) s = .next u ∧ written u
      ∧ (getEdge u x e).out = (getEdge s x e).out ++ [a] ∧ a.opc = opWRACK ∧ a.dst = q.src ∧ a.tag = q.tag ∧ a.aux = 1)
    ∧ (EdgeServes s x e opWR q → ∃ u, exec (.wr (.mem x e) []) s = .next u ∧ written u)
    ∧ (EdgeServes s x e opTRACE q → ∃ u, exec (.trace x e) s = .next u ∧ written u
      ∧ (getEdge u x e).out = (getEdge s x e).out ∧ (getEdge u x e).acks = (getEdge s x e).acks))
    ∧ ∀ (s : State) (op : BitVec 8) (p : Place) (q : Packet) (c : Instr),
    (∃ d, p = .io d ∧ dieFitted s d ∧ nodeKind q.dst = 2
      ∧ (c, op) ∈ [(.rd p [], opRD), (.wr p [], opWR), (.wra p [], opWRA), (.contrib p [], opCONTRIB)])
      ∨ (∃ x e, p = .mem x e ∧ nodeKind q.dst = 1 ∧ (c, op) = (.contrib p [], opCONTRIB)) →
    reqHead s p op = some q →
    ∃ a, edgeCheck s p q = some a ∧ a.opc ∈ [opNAK, opWFN] ∧ a.dst = q.src ∧ a.tag = q.tag
      ∧ exec c s = .next (answerAt (popReq s p) p a)

/-- A message at a receive queue, from MSG or CRES, where no reservation and no refusal stands. -/
def Obligations.MessagesEnterQueues : Prop :=
  ∀ (s : State) (t : Nat) (op : BitVec 8) (c : Instr) (q : Packet),
    (c, op) ∈ [(.msg t, opMSG), (.cres t, opCRES)] → TileServes s t op q → epKind q.dst = .rq → Memory.wf s.mem →
    (getTile s t).resvs = [] → (getTile s t).refusals = [] →
    let n := nodeEp q.dst - 0x10
    let size := (entryBytes s t q).length
    let answered (r : Nat) : Prop := ∃ u a, exec c s = .next u ∧ (getTile u t).out = (getTile s t).out ++ [a]
      ∧ a.opc = opNAK ∧ a.dst = q.src ∧ a.aux = BitVec.ofNat 32 r ∧ (getTile u t).lreq = (getTile s t).lreq.tail
      ∧ u.mem = s.mem
    (n ∉ (getTile s t).rqRetired → rqEn s t n → rqFits s t n size → rqTail s t n < rqSize s t n →
      ∃ u, exec c s = .next u
        ∧ ringGet u (tmKey t (rqBase s t n)) (rqSize s t n) (rqTail s t n) size = entryBytes s t q
        ∧ MemBut s u (tmKey t (rqBase s t n)) (rqSize s t n)
        ∧ rqTail u t n = (rqTail s t n + size) % rqSize s t n ∧ rqNonEmpty u t n = true
        ∧ (getTile u t).lreq = (getTile s t).lreq.tail
        ∧ RegsBut s u [regKey (.cmb t) (rqOff n + 0x10), regKey (.cmb t) (rqOff n + 0x14)])
    ∧ (n ∉ (getTile s t).rqRetired → rqEn s t n = false → answered nkOFF)
    ∧ (n ∉ (getTile s t).rqRetired → rqEn s t n → rqFits s t n size = false → rbit s (.cmb t) (rqOff n) 1 = false →
      answered nkFULL)

/-- A contribution of raw values that raises no error and does not complete its queue; and a SIGNAL. -/
def Obligations.ContributionsAccumulate : Prop :=
  ∀ (s : State) (t : Nat) (q : Packet), Memory.wf s.mem →
    let n := nodeEp q.dst - 8
    let ty := cqTy s t n
    let cls := accClass ty
    let eb := tySize (auxTy q)
    let key (j : Nat) : Nat := cqKey s t n (auxOff q + j)
    let old (j : Nat) : AccVal := accOf ty (readNat s (key j) cls.bytes)
    let add (j : Nat) : AccVal × Bool :=
      AccVal.addRaw cls (old j) (auxTy q) (leNat (((payload q).drop (j * eb)).take eb))
    let counts := (getCq s t n).counts
    let counts' := counts.mapIdx (fun i k => if i ∈ contribGroups q then k + 1 else k)
    (TileServes s t opCONTRIB q → epKind q.dst = .cq → (getTile s t).cqs.length = 8 → cqEn s t n → cqState s t n = 3 →
      contribBad s t n q = false → auxX q = false → (getTile s t).resvs = [] →
      (∀ g ∈ contribGroups q, (counts[g]?).getD 0 < cqK s t n) → counts'.all (fun k => cqK s t n ≤ k) = false →
      cleanMem s (key 0) (auxCount q * cls.bytes) → (∀ j, j < auxCount q → (add j).2 = false) →
      ∃ u, exec (.contrib (.tile t) []) s = .next u
        ∧ (∀ j, j < auxCount q → readMem u (key j) cls.bytes = leBytes cls.bytes (accImage ty (add j).1))
        ∧ MemBut s u (key 0) (auxCount q * cls.bytes) ∧ (getCq u t n).counts = counts' ∧ cqState u t n = 3
        ∧ (getTile u t).lreq = (getTile s t).lreq.tail ∧ RegsBut s u [])
    ∧ (TileServes s t opSIGNAL q → ∃ u, exec (.signal t) s = .next u
      ∧ (getSem u t (q.addr.toNat % 64)).toNat
        = Nat.min ((getSem s t (q.addr.toNat % 64)).toNat + q.aux.toNat) 0xFFFFFFFF
      ∧ RegsBut s u [regKey (.seq t) (semOff (q.addr.toNat % 64)), regKey (.seq t) (lcStat 0)] ∧ OnlyTile s u t)

/-- RESV, CONF and WDRW, and the expiry of reservations. -/
def Obligations.ReservationsHeld : Prop :=
  ∀ (s : State) (t : Nat) (q : Packet),
    let ep := nodeEp q.dst
    let resvs (u : State) : List Resv := (getTile u t).resvs
    (TileServes s t opRESV q → (0x10 ≤ ep → ep - 0x10 ∉ (getTile s t).rqRetired) →
      (resvRoom s t ep q.aux.toNat → ∃ u r a, exec (.resv t) s = .next u ∧ resvs u = resvs s ++ [r] ∧ r.src = q.src
        ∧ r.ep = ep ∧ r.tag = q.tag ∧ r.amount = q.aux.toNat ∧ r.confirmed = false ∧ r.due = eTime s + usTicks 1000
        ∧ (getTile u t).out = (getTile s t).out ++ [a] ∧ a.opc = opRSVACK ∧ a.dst = q.src ∧ a.tag = q.tag
        ∧ OnlyTile s u t ∧ RegsBut s u [])
      ∧ (resvRoom s t ep q.aux.toNat = false → ∃ u a, exec (.resv t) s = .next u ∧ resvs u = resvs s
        ∧ (getTile u t).out = (getTile s t).out ++ [a] ∧ a.opc = opNAK ∧ a.aux = BitVec.ofNat 32 nkTENT
        ∧ OnlyTile s u t ∧ RegsBut s u []))
    ∧ (TileServes s t opCONF q → ∀ r, (resvs s).find? (resvMatch q) = some r → ∃ u, exec (.conf t) s = .next u
      ∧ { r with confirmed := true, due := eTime s + usTicks (1000 * rfld s (.cmb t) 0x084 31 20) } ∈ resvs u
      ∧ (resvs u).length = (resvs s).length ∧ (getTile u t).out = (getTile s t).out ∧ OnlyTile s u t ∧ RegsBut s u [])
    ∧ (TileServes s t opWDRW q → ∀ r, (resvs s).find? (resvMatch q) = some r → ∃ u, exec (.wdrw t) s = .next u
      ∧ (resvs u).length + 1 = (resvs s).length ∧ (getTile u t).out = (getTile s t).out ∧ OnlyTile s u t ∧ RegsBut s u [])
    ∧ ∀ (who ep : Word) (tag : Half) (r : Resv), cmbLive s t → (getTile s t).stalled = none → 0 < r.due → r.due ≤ eTime s →
      let mine (r : Resv) (c : Bool) : Bool := r.src == who && r.ep == ep.toNat && r.tag == tag && r.confirmed == c
      let gone (u : State) : Prop := (resvs u).length + 1 = (resvs s).length
        ∧ rfld u (.cmb t) 0x08C 15 0 = Nat.min (rfld s (.cmb t) 0x08C 15 0 + 1) 0xFFFF
        ∧ TileEvents s u [regKey (.cmb t) 0x08C] t
      ((resvs s).find? (fun r => mine r false) = some r →
        ∃ u, exec (.resvHeldExpiry t who ep tag) s = .next u ∧ gone u)
      ∧ ((resvs s).find? (fun r => mine r true) = some r →
        ∃ u, exec (.confTimeout t who ep tag) s = .next u ∧ gone u)

/-- DEQ and DROP, where nothing is stalled. -/
def Obligations.QueuesGiveUpEntries : Prop :=
  ∀ (s : State) (t : Nat) (q : QCmd), (getTile s t).stalled = none → Memory.wf s.mem →
    let n := cmbRq q.word
    let size := headSize s t n
    let base := tmKey t (rqBase s t n)
    let dst := cmbDst q.word
    let sem := cmbCsem q.word
    let head (u : State) : Prop := rqPtr u t n = (rqPtr s t n + size) % rqSize s t n
      ∧ rqNonEmpty u t n = (rqNonEmpty s t n && !decide ((rqPtr s t n + size) % rqSize s t n = rqTail s t n))
      ∧ (getTile u t).cmbQ = (getTile s t).cmbQ.tail
    let keys := [regKey (.cmb t) (rqOff n + 0xC), regKey (.cmb t) (rqOff n + 0x14)]
    (cmbHead s t 0x02 = some q → deqBad s t n = 0 → 0 < rqSize s t n → ∃ u, exec (.drop t) s = .next u ∧ head u
      ∧ RegsBut s u keys ∧ OnlyTile s u t)
    ∧ (cmbHead s t 0x01 = some q → deqBad s t n = 0 → 0 < rqSize s t n → dst % 32 = 0 → dst + size ≤ 196608 →
      rqPtr s t n < rqSize s t n → size ≤ rqSize s t n → cleanMem s base (rqSize s t n) → q.lc < 4 →
      ∃ u, exec (.deq t []) s = .next u ∧ readMem u (tmKey t dst) size = ringGet s base (rqSize s t n) (rqPtr s t n) size
        ∧ MemBut s u (tmKey t dst) size ∧ head u
        ∧ (getSem u t sem).toNat = (if cmbCse q.word then Nat.min ((getSem s t sem).toNat + 1) 0xFFFFFFFF
            else (getSem s t sem).toNat)
        ∧ RegsBut s u (regKey (.seq t) (semOff sem) :: regKey (.seq t) (lcStat q.lc) :: keys))
    ∧ ∀ c opc, (c, opc) ∈ [(.deq t [], 0x01), (.drop t, 0x02)] → cmbHead s t opc = some q → deqBad s t n ≠ 0 →
      ∃ u, exec c s = .next u ∧ (getTile u t).cmbQ = (getTile s t).cmbQ.tail ∧ TileEvents s u [] t

/-- CQARM, its completion, and CQRST. -/
def Obligations.CombiningQueuesArm : Prop :=
  ∀ (s : State) (t : Nat) (q : QCmd), (getTile s t).cqs.length = 8 →
    let n := cmbCq q.word
    let off := cqOff n
    (cmbHead s t 0x10 = some q → armBad s t q.word = 0 → Memory.wf s.mem → ∃ u, exec (.cqarm t) s = .next u
      ∧ cqState u t n = 2 ∧ cqK u t n = cmbK q.word ∧ rfld u (.cmb t) (off + 0x18) 12 8 = 0
      ∧ (∀ i, i < cqW s t n → accOf (cqTy s t n) (readNat u (cqKey s t n i) (accClass (cqTy s t n)).bytes)
        = if isF (cqTy s t n) then {} else { z := false })
      ∧ (∀ k ∈ (getCq u t n).counts, k = 0) ∧ (getCq u t n).arm = some q
      ∧ MemBut s u (cqKey s t n 0) (cqW s t n * (accClass (cqTy s t n)).bytes)
      ∧ RegsEvents s u [regKey (.cmb t) (off + 0x14), regKey (.cmb t) (off + 0x18)])
    ∧ (cmbHead s t 0x10 = some q → armBad s t q.word ≠ 0 → ∃ u, exec (.cqarm t) s = .next u
      ∧ (getTile u t).cmbQ = (getTile s t).cmbQ.tail ∧ TileEvents s u [] t)
    ∧ (∀ k, k < 8 → cqState s t k = 2 → (getCq s t k).arm.isSome → cmbLive s t → ∃ u, exec (.cqArmed t k) s = .next u
      ∧ cqState u t k = 3 ∧ (getCq u t k).arm = none ∧ RegsBut s u [regKey (.cmb t) (cqOff k + 0x18)] ∧ OnlyTile s u t)
    ∧ (cmbHead s t 0x11 = some q → cqState s t n ∉ [0, 4] → ∃ u, exec (.cqrst t) s = .next u ∧ cqState u t n = 1
      ∧ (getCq u t n).counts = [] ∧ (∀ r ∈ (getTile u t).resvs, r.ep ≠ 8 + n)
      ∧ RegsBut s u [regKey (.cmb t) (off + 0x18)] ∧ OnlyTile s u t)

/-- Timers of CMB, of batched acknowledgement, and the release of a lease read; each at or after its deadline. -/
def Obligations.TileTimersAct : Prop :=
  ∀ (s : State) (t : Nat),
    (∀ n d q rest, (getTile s t).stalled = some (n, d) → (getTile s t).lreq = q :: rest → cmbLive s t → 0 < d →
      d ≤ eTime s → rqFits s t n (entrySize (payload q).length) = false → ∃ u a, exec (.bpHoldExpiry t n) s = .next u
        ∧ (getTile u t).stalled = none ∧ (getTile u t).lreq = rest ∧ (getTile u t).out = (getTile s t).out ++ [a]
        ∧ a.opc = opNAK ∧ a.aux = BitVec.ofNat 32 nkHOLD ∧ a.dst = q.src ∧ u.mem = s.mem)
    ∧ (∀ n r d, (getTile s t).refusals[n]? = some r → r.due = some d → 0 < d → d ≤ eTime s →
      ∃ u, exec (.refusalEntryExpiry t n) s = .next u ∧ (getTile u t).refusals = (getTile s t).refusals.eraseIdx n
        ∧ RegsBut s u [] ∧ OnlyTile s u t)
    ∧ (∀ n tag r d, n < 8 → (getTile s t).cqs.length = 8 →
      (getCq s t n).res.find? (fun r => r.tag == tag && r.due.isSome) = some r → r.due = some d → 0 < d → d ≤ eTime s →
      cmbLive s t → ∃ u, exec (.cmbResend t n tag) s = .next u ∧ RegsBut s u [] ∧ OnlyTile s u t
        ∧ ∃ r' ∈ (getCq u t n).res, r'.tag = tag ∧ r'.due = none ∧ r'.tries = r.tries + 1 ∧ r'.pkt = r.pkt)
    ∧ (∀ me src a, (getTile s t).acks.find? (fun a => a.me == me && a.src == src) = some a →
      a.since + ticks 500 ≤ eTime s → ∃ u, exec (.wrackTimer (.tile t) me src) s = .next u
        ∧ (getTile u t).out = (getTile s t).out ++ [ackPkt a] ∧ a ∉ (getTile u t).acks ∧ RegsBut s u [] ∧ OnlyTile s u t)
    ∧ (∀ tag h r, (getTile s t).leaseHeld.find? (fun h => h.tag == tag) = some h → reqOf (getTile s t) tag = some r →
      leaseEarly s r = none → movRuns s t → movQuiet (getTile s t) → r.kind = .rd → r.sink = false → r.stage = false →
      cmdTent (getTile s t) r = false → h.pkt.opc = opRDRSP → h.pkt.addr = r.pkt.addr →
      (payload h.pkt).length = r.bytes → poisoned h.pkt = false → r.tag = tag → Memory.wf s.mem →
      s.tkp.steps ≤ fullT s → ∃ u, exec (.leaseDelivery t tag) s = .next u
        ∧ readMem u (tmKey t r.land) r.bytes = payload h.pkt ∧ MemBut s u (tmKey t r.land) r.bytes
        ∧ h ∉ (getTile u t).leaseHeld)

/-- Answers that reach MOV. -/
def Obligations.AnswersReachMov : Prop :=
  ∀ (s : State) (t : Nat) (q : Packet) (r : MovReq), Memory.wf s.mem → r.lc < 4 →
    let fails (u : State) : Prop := rbit u (.mov t) (0x0A0 + 4 * r.lc) 0 = true
      ∧ (getTile u t).movReqs.length + 1 = (getTile s t).movReqs.length ∧ u.mem = s.mem
      ∧ (getTile u t).lrsp = (getTile s t).lrsp.tail
    let reads (u : State) (n : Nat) : Prop := readMem u (tmKey t r.land) n = payload q
      ∧ MemBut s u (tmKey t r.land) n ∧ (getTile u t).movReqs.length + 1 = (getTile s t).movReqs.length
      ∧ (getTile u t).lrsp = (getTile s t).lrsp.tail ∧ RegsBut s u []
    (MovTakes s t opRDRSP q → Awaits s t q r → r.kind = .rd → q.addr = r.pkt.addr → (payload q).length = r.bytes →
      poisoned q = false → ∃ u, exec (.rdrsp (.tile t)) s = .next u ∧ reads u r.bytes)
    ∧ (MovTakes s t opREGRSP q → Awaits s t q r → r.kind = .regrd → q.len = 1 → (payload q).length = 4 →
      poisoned q = false → ∃ u, exec (.regrsp (.tile t)) s = .next u ∧ reads u 4)
    ∧ (MovTakes s t opWFN q → Awaits s t q r → r.kind = .posted ∨ r.kind = .wra →
      ∃ u, exec (.wfn (.tile t)) s = .next u ∧ fails u)
    ∧ (MovTakes s t opDEAD q → Awaits s t q r → ∃ u, exec (.dead (.tile t)) s = .next u ∧ fails u)
    ∧ (MovTakes s t opNAK q → Awaits s t q r → fld q.aux 7 0 ∉ [nkFULL, nkHOLD, nkPOLICED] →
      ∃ u, exec (.nak (.tile t)) s = .next u ∧ fails u)
    ∧ (MovTakes s t opWRACK q → (getTile s t).movReqs = [r] → r.live → r.kind = .wra → r.tag = q.tag → r.pkt.dst = q.src →
      ∃ u, exec (.wrack (.tile t)) s = .next u ∧ (getTile u t).movReqs = [] ∧ RegsBut s u [] ∧ OnlyTile s u t)
    ∧ ∀ v, MovTakes s t opRSVACK q → resvOf (getTile s t) q = some v → v.st = .pending → v.noted = false →
      ∃ u, exec (.rsvack (.tile t)) s = .next u ∧ (∃ w ∈ (getTile u t).srcResvs, w.tag = v.tag ∧ w.st = .granted)
        ∧ RegsBut s u [] ∧ OnlyTile s u t

/-- REGRD and REGWR at a tile. -/
def Obligations.RegisterRequestsServed : Prop :=
  ∀ (s : State) (t : Nat) (q : Packet) (p : Page), epKind q.dst = .reg → regAddrOk q.dst q.addr.toNat →
    regPage s q.dst q.addr.toNat = some p →
    let off := q.addr.toNat % 0x1000
    let v := BitVec.ofNat 32 (leNat ((payload q).take 4))
    (TileServes s t opREGRD q → ∃ u a, exec (.regrd (.tile t)) s = .next u
      ∧ (getTile u t).out = (getTile s t).out ++ [a] ∧ a.opc = opREGRSP ∧ a.dst = q.src ∧ a.tag = q.tag
      ∧ payload a = leBytes 4 (regRead (popReq s (.tile t)) p off).1.toNat ∧ (getTile u t).lreq = (getTile s t).lreq.tail ∧ u.mem = s.mem)
    ∧ (TileServes s t opREGWR q → q.be = 0xF → writeTaken s p off v → off = 0x070 → ∃ u a, exec (.regwr (.tile t)) s = .next u
      ∧ rawReg u p off = v ∧ (getTile u t).out = (getTile s t).out ++ [a] ∧ a.opc = opREGRSP ∧ a.aux = 0
      ∧ (getTile u t).lreq = (getTile s t).lreq.tail ∧ RegsBut s u [regKey p off] ∧ OnlyTile s u t)

/-- Time waves, wraps of NT, pending steps, the load of the calendar clock, and the edges of PPS_OUT. -/
def Obligations.NetworkTimeMoves : Prop :=
  ∀ (s : State),
    (s.tkp.step = none → waveDue s < 2 ^ 80 → ∃ u, exec (.timeWave []) s = .next u ∧ fullT u = waveDue s
      ∧ u.out = s.out ++ [.timeWave (ntOf u) (eraOf u) (Config.waveCheck (ntOf u) (eraOf u)) 0]
      ∧ (∀ t, (getTile u t).ntOff = 0) ∧ u.tkp.lastWave = some (waveDue s) ∧ u.mem = s.mem)
    ∧ (∀ d, s.tkp.step = some d → s.tkp.copy = none → waveDue s < 2 ^ 80 →
      ((s.tkp.locked = false ∨ 0 ≤ d) → 0 ≤ waveDue s + d → waveDue s + d < 2 ^ 80 →
        ∃ u, exec (.timeWave []) s = .next u ∧ fullT u = waveDue s + d ∧ u.tkp.step = none
          ∧ rbit u (.tkp 0) 0x084 6 = true ∧ u.mem = s.mem)
      ∧ (s.tkp.locked → d < 0 → ∃ u, exec (.timeWave []) s = .next u ∧ fullT u = waveDue s ∧ u.tkp.step = none
        ∧ u.mem = s.mem))
    ∧ (∃ u, exec .ntWrap s = .next u ∧ ntOf u = 0 ∧ (nextT s (2 ^ 64) < 2 ^ 80 → fullT u = nextT s (2 ^ 64))
      ∧ (2 ^ 80 ≤ nextT s (2 ^ 64) → rbit u (.tkp 0) 0x084 7 = true ∧ fullT u = (2 ^ 80 - 2 ^ 64 : Int)) ∧ u.mem = s.mem)
    ∧ (s.tkp.rtcsync → fullT s ≤ rtcDue s → rtcDue s < 2 ^ 80 → ∃ u, exec .rtcLoadFromNt s = .next u
      ∧ fullT u = rtcDue s ∧ rtcNow u = ((s.tkp.epoch + (rtcDue s / secTicks).toNat) % 2 ^ 48, 0)
      ∧ u.tkp.rtcsync = false ∧ u.mem = s.mem)
    ∧ (rbit s (.tkp 0) 0x0C0 0 → ppsDue s - ppsComp s < 2 ^ 80 → ∃ u, exec .ppsOutRise s = .next u
      ∧ fullT u = ppsDue s - ppsComp s ∧ u.out = s.out ++ [.ppsOut true] ∧ u.tkp.ppsOut = true
      ∧ u.tkp.ppsAt = eTime u + usTicks (rfld s (.tkp 0) 0x0C0 15 8) ∧ u.mem = s.mem)
    ∧ (s.tkp.ppsOut → Due s s.tkp.ppsAt → ∃ u, exec .ppsOutFall s = .next u ∧ u.out = s.out ++ [.ppsOut false]
      ∧ u.tkp.ppsOut = false ∧ RegsBut s u [] ∧ u.mem = s.mem)

/-- PPS_IN, its loss, the end of holdover, and the status of the calendar clock's battery and oscillator. -/
def Obligations.TimekeeperStatesChange : Prop :=
  ∀ (s : State),
    (tkpSrc s ≠ 1 → ∃ u, exec .ppsInEdge s = .next u ∧ pairNat u (.tkp 0) 0x0C4 = ntOf s ∧ rbit u (.tkp 0) 0x0CC 0 = true
      ∧ rbit u (.tkp 0) 0x0CC 1 = (rbit s (.tkp 0) 0x0CC 1 || rbit s (.tkp 0) 0x0CC 0)
      ∧ Events s u ([0x0C4, 0x0C8, 0x0CC].map (regKey (.tkp 0))))
    ∧ (tkpSrc s = 1 → tkpState s = 0 → ∃ u, exec .ppsInEdge s = .next u ∧ pairNat u (.tkp 0) 0x0C4 = ntOf s
      ∧ tkpState u = 1 ∧ u.tkp.lastEdge = some (eTime s) ∧ u.mem = s.mem)
    ∧ (tkpSrc s = 1 → tkpState s = 2 → Due s (s.tkp.lastEdge.getD 0 + 2 * secTicks) → ∃ u, exec .ppsLoss s = .next u
      ∧ tkpState u = (if rfld s (.tkp 0) 0x0B0 15 0 = 0 then 0 else 3) ∧ u.time = s.time ∧ u.mem = s.mem)
    ∧ (tkpSrc s = 1 ∨ tkpSrc s = 3 → tkpState s = 3 → rfld s (.tkp 0) 0x0B0 15 0 ≠ 0xFFFF →
      Due s (s.tkp.holdAt + rfld s (.tkp 0) 0x0B0 15 0 * secTicks) → ∃ u, exec .holdoverExpiry s = .next u
        ∧ tkpState u = 0 ∧ rawReg u (.tkp 0) 0x09C = rawReg s (.tkp 0) 0x0A0 ∧ u.time = s.time ∧ u.mem = s.mem)
    ∧ (s.mgt.vstby = false → ∃ u, exec .vbatLow s = .next u ∧ rbit u (.tkp 0) 0x0F8 0 = true
      ∧ RegsBut s u [regKey (.tkp 0) 0x0F8] ∧ OnlyRegs s u)
    ∧ (∃ u, exec .rtcOscStop s = .next u ∧ rbit u (.tkp 0) 0x0F8 1 = true ∧ rtcNow u = rtcNow s
      ∧ RegsBut s u [regKey (.tkp 0) 0x0F8] ∧ u.time = s.time)
    ∧ (∃ u, exec .rtcOscResume s = .next u ∧ rbit u (.tkp 0) 0x0F8 1 = false ∧ rtcNow u = rtcNow s
      ∧ RegsBut s u [regKey (.tkp 0) 0x0F8] ∧ u.time = s.time)

/-- The Accord exchange (R477 to R479, R574), and ports that lose exchanges or time out (Table 11.3). -/
def Obligations.AccordExchanges : Prop :=
  (∀ (s : State) (n : Nat) (m : SyncMsg) (turn : Nat) (sn : Half) (lane : Bool), linkUp s n → n < 24 →
    let a := getAcc s n
    let bad (c : Instr) : Prop := ∃ u, exec c s = .next u
      ∧ rfld u (.llk n) 0x0A8 15 0 = Nat.min (rfld s (.llk n) 0x0A8 15 0 + 1) 0xFFFF ∧ u.time = s.time ∧ u.mem = s.mem
    (accRole s n = 1 → Due s (a.since + ticks 1000000) → ∃ u, exec (.sync n m true turn) s = .next u
      ∧ u.out = s.out ++ [.sync n ⟨ntOf s, eraOf s, s.tkp.epoch, tkpHops s, tkpTrace s, (getLink s n).lanesel⟩]
      ∧ RegsBut s u [] ∧ u.mem = s.mem)
    ∧ (accSlave s n → m.hops + 1 ≤ 31 → ∃ u, exec (.sync n m true turn) s = .next u ∧ (getAcc u n).t1 = m.t1
      ∧ (getAcc u n).t2 = ntOf s ∧ (getAcc u n).seq = (a.seq + 1) % 65536 ∧ (getAcc u n).open_ = true
      ∧ (∃ b, OutMsg.dreq n ((a.seq + 1) % 65536) b ∈ u.out)
      ∧ rfld u (accPage n) (accOff n + 4) 12 8 = m.hops + 1 ∧ u.mem = s.mem)
    ∧ (accRole s n = 1 → ∃ u, exec (.dreq n sn lane true) s = .next u ∧ u.out = s.out ++ [.drsp n (ntOf s) sn.toNat]
      ∧ (getLink u n).lanesel = lane ∧ RegsBut s u [] ∧ u.mem = s.mem)
    ∧ (∀ t4 : Nat, accSlave s n → a.open_ → a.seq = sn.toNat → 
      let off := tickQuot (ntDiff a.t2 a.t1 - ntDiff t4 a.t3) 2 - sgn 32 (rawReg s (accPage n) (accOff n + 0x10)).toNat
      let delay := tickQuot (ntDiff a.t2 a.t1 + ntDiff t4 a.t3) 2
      ∃ u, exec (.drsp n t4 sn true) s = .next u ∧ (getAcc u n).open_ = false
        ∧ rawReg u (accPage n) (accOff n + 8) = satWord off
        ∧ rawReg u (accPage n) (accOff n + 0xC) = satWord delay ∧ u.mem = s.mem)
    ∧ (accRole s n ≠ 1 → bad (.sync n m false turn)) ∧ bad (.dreq n sn lane false) ∧ bad (.drsp n 0 sn false))
    ∧ ∀ (s : State) (n : Nat), n < 24 →
    let a := getAcc s n
    (accRole s n = 2 → accState s n ≠ 0 → accState s n ≠ 5 → ∃ u, exec (.accordExchangeMiss n) s = .next u
      ∧ accState u n = (if accState s n = 3 ∧ 4 ≤ a.miss + 1 then 4 else accState s n) ∧ (getAcc u n).good = 0
      ∧ (getAcc u n).open_ = false ∧ u.time = s.time ∧ u.mem = s.mem)
    ∧ (accState s n = 4 → Due s (a.lastDone + secTicks) → ∃ u, exec (.accordHoldoverTimeout n) s = .next u
      ∧ accState u n = 2 ∧ u.time = s.time ∧ u.mem = s.mem)
    ∧ (accState s n = 5 → accRole s n = 2 → linkUp s n → ∀ m turn, ∃ u b, exec (.sync n m true turn) s = .next u
      ∧ OutMsg.dreq n ((a.seq + 1) % 65536) b ∈ u.out ∧ accState u n = 5 ∧ u.mem = s.mem)
    ∧ (accState s n = 1 ∨ accState s n = 2 → Due s (a.since + 2 * secTicks) → ∃ u, exec (.accordAcquireTimeout n) s = .next u
      ∧ accState u n = 5 ∧ u.time = s.time ∧ u.mem = s.mem)

/-- CHG, CANCEL and HALT of a gate list (Table 12.5), the switch to a pending list, and the start of the next entry. A
command finds a switch that is due done (R517). -/
def Obligations.GateListsFollowCommands : Prop :=
  (∀ (s : State) (src : Src) (g : GPlace),
    let p := gPage g
    let o := gBase g
    let raw := rawReg s p o
    let st := gclState s g
    fld raw 2 0 = 0 →
    (writeTaken s p o (raw ||| 1) → gclBad s g = 0 → ∃ u, exec (.chg src g) s = .next u
      ∧ gclState u g = (if st = 2 then 3 else 1) ∧ gCt u g = (gclTime s g).1 % 2 ^ 64
      ∧ gEntries (getGcl u g).adm (gReg u g 0x18 8 0) = gAdm s g ∧ u.mem = s.mem
      ∧ RegsBut s u [regKey p (o + 4), regKey p (o + 0x38), regKey p (o + 0x3C)])
    ∧ (writeTaken s p o (raw ||| 1) → gclBad s g ≠ 0 → gReached s g = false → ∃ u, exec (.chg src g) s = .next u
      ∧ gclState u g = st ∧ Events s u [])
    ∧ (writeTaken s p o (raw ||| 2) → st = 1 ∨ st = 3 → gReached s g = false → ∃ u, exec (.cancel src g) s = .next u
      ∧ gclState u g = (if st = 1 then 0 else 2) ∧ RegsBut s u [regKey p (o + 4)] ∧ OnlyRegs s u)
    ∧ (writeTaken s p o (raw ||| 2) → gReached s g → ∃ u, exec (.cancel src g) s = .next u ∧ gclState u g = 2
      ∧ (getGcl u g).oper = (getGcl s g).adm ∧ u.mem = s.mem)
    ∧ (writeTaken s p o (raw ||| 4) → ∃ u, exec (.halt src g) s = .next u ∧ gclState u g = 0
      ∧ gateOpen u g 0 = (gclIdle s g % 2 == 1) ∧ (gReached s g = false → RegsBut s u [regKey p (o + 4)])
      ∧ u.mem = s.mem))
    ∧ ∀ (s : State) (g : GPlace), pagePresent s (gPage g) →
    (gclState s g = 1 ∨ gclState s g = 3 → ∃ u, exec (.gclSwitch g) s = .next u ∧ gclState u g = 2
      ∧ (getGcl u g).oper = (getGcl s g).adm ∧ gOper u g = gAdm s g ∧ gPair u g 0x28 = gPair s g 0x10
      ∧ gPair u g 0x20 = gPair s g 0x08 ∧ gRunCt u g = gCt s g
      ∧ (fullT s + ctIn s g < 2 ^ 80 → fullT u = fullT s + ctIn s g) ∧ u.mem = s.mem)
    ∧ (gclState s g = 2 ∨ (gclState s g = 3 ∧ gNext s g < ctIn s g) → ∃ u, exec (.gateEntryStart g) s = .next u
      ∧ (fullT s + gNext s g < 2 ^ 80 → fullT u = fullT s + gNext s g)
      ∧ gclState u g = gclState s g ∧ u.mem = s.mem ∧ u.links = s.links ∧ u.eths = s.eths)

/-- The table port (R546). -/
def Obligations.TablePortActs : Prop :=
  ∀ (s : State) (src : Src) (g : GPlace) (tbl idx : Nat), tbl < 4 → idx < 256 →
    let p := gPage g
    let o := gBase g + 0x84
    let d (s : State) (k : Nat) : Word := rawReg s p (o + 4 * k)
    (writeTaken s p (gBase g + 0x80) (BitVec.ofNat 32 (tbl + idx * 256)) → ∃ u, exec (.tblRead src g tbl idx) s = .next u
      ∧ (∀ e, tbl = 0 ∧ e = tabGet {} (getGcl s g).adm idx ∨ tbl = 1 ∧ e = tabGet {} (getGcl s g).oper idx →
        d u 0 = BitVec.ofNat 32 e.dur ∧ d u 1 = BitVec.ofNat 32 e.gates.toNat)
      ∧ (tbl = 2 → d u 0 = (getMtr s g idx).d0 ∧ d u 1 = (getMtr s g idx).d1 ∧ d u 2 = (getMtr s g idx).d2
        ∧ d u 3 = (getMtr s g idx).d3)
      ∧ (tbl = 3 → d u 0 = BitVec.ofNat 32 (getMtr s g idx).green ∧ d u 1 = BitVec.ofNat 32 (getMtr s g idx).yellow
        ∧ d u 2 = BitVec.ofNat 32 (getMtr s g idx).red)
      ∧ OnlyRegs s u)
    ∧ (writeTaken s p (gBase g + 0x80) (BitVec.ofNat 32 (tbl + 8 + idx * 256)) →
      ∃ u, exec (.tblWrite src g tbl idx) s = .next u
        ∧ (tbl = 0 → tabGet {} (getGcl u g).adm idx = ⟨(d s 0).toNat, BitVec.ofNat 8 ((d s 1).toNat % 2 ^ gQueues g)⟩
          ∧ (getGcl u g).oper = (getGcl s g).oper
          ∧ ∀ k, k ≠ idx → tabGet {} (getGcl u g).adm k = tabGet {} (getGcl s g).adm k)
        ∧ (tbl = 2 → ((getMtr u g idx).cir, (getMtr u g idx).mode) = (fld (d s 0) 31 12, fld (d s 0) 1 0)
          ∧ (getMtr u g idx).cTok = fld (d s 1) 23 0 * credUnit ∧ (getMtr u g idx).eTok = fld (d s 3) 23 0 * credUnit)
        ∧ (tbl = 3 → (getMtr u g idx).green = (d s 0).toNat ∧ (getMtr u g idx).yellow = (d s 1).toNat
          ∧ (getMtr u g idx).red = (d s 2).toNat)
        ∧ u.mem = s.mem)

/-- Shapers (R522, R525 to R527), and the packet that leaves a link's egress. -/
def Obligations.ShapersAndEgressAct : Prop :=
  ∀ (s : State) (src : Src) (g : GPlace) (k cir : Nat) (v : Word), atEgress g →
    let j := k % 8
    let o := gBase g + shpOff j
    let p := gPage g
    (writeTaken s p o (BitVec.ofNat 32 (cir % 2 ^ 20 + 2 ^ 31)) → ∃ u, exec (.shpEnable src g k cir) s = .next u
      ∧ shpEn u g j = true ∧ shpCir u g j = cir % 2 ^ 20
      ∧ (shpEn s g j = false → shpCred u g j = ((shpCbs s g j * credUnit : Nat) : Int)) ∧ RegsBut s u [regKey p o])
    ∧ (writeTaken s p (o + 4) v → ∃ u, exec (.shaperRateWrite src g k true v) s = .next u ∧ shpCbs u g j = fld v 23 0
      ∧ shpCred u g j = min (shpCred s g j) ((shpCbs u g j * credUnit : Nat) : Int) ∧ RegsBut s u [regKey p (o + 4)])
    ∧ (writeTaken s p o (setFld (rawReg s p o) 19 0 v.toNat) → ∃ u, exec (.shaperRateWrite src g k false v) s = .next u
      ∧ shpCir u g j = v.toNat % 2 ^ 20 ∧ shpCred u g j = shpCred s g j ∧ RegsBut s u [regKey p o])
    ∧ ∀ n x rest, g = .llk n → dieFitted s (n / 12) → llkState s n = 5 → stopped s (.llk n) = false →
      (∀ c, c < 8 → tabGet [] (getLink s n).eg c = if c = j then x :: rest else []) → framable s n x →
      gReached s g = false → eligible s g j (llkLen s n x.pkt) → ∃ u f, exec (.egressStart g) s = .next u
        ∧ u.out = s.out ++ [.data n f x.pkt] ∧ f.seq = BitVec.ofNat 12 (getLink s n).txSeq
        ∧ f.vc = BitVec.ofNat 2 (podVc s n x) ∧ f.poi = poisoned x.pkt
        ∧ (getLink u n).txs = (getLink s n).txs ++ frameWire f (some x.pkt) ∧ tabGet [] (getLink u n).eg j = rest ∧ (getLink u n).unacked.length = (getLink s n).unacked.length + 1
        ∧ (getLink u n).txSeq = ((getLink s n).txSeq + 1) % 4096 ∧ u.mem = s.mem

/-- Training of a link (Table 13.2). -/
def Obligations.TrainingAdvances : Prop :=
  ∀ (s : State) (n : Nat), n < 24 →
    let keys := [regKey (.llk n) 0x084, regKey (.llk n) 0x080]
    (∀ lanes : BitVec 8, llkState s n = 1 → minWidth s n ≤ popCount8 (lanes.toNat &&& rfld s (.llk n) 0x080 11 4) →
      ∃ u, exec (.trainDetect n lanes) s = .next u ∧ llkState u n = 2
        ∧ (getLink u n).det = lanes.toNat &&& rfld s (.llk n) 0x080 11 4 ∧ RegsEvents s u keys ∧ u.mem = s.mem)
    ∧ (llkState s n = 2 → ∃ u, exec (.trainEqual n) s = .next u ∧ llkState u n = 3 ∧ Events s u keys)
    ∧ (∀ skewed : BitVec 8, llkState s n = 3 →
      let m := (getLink s n).det - ((getLink s n).det &&& skewed.toNat)
      ∃ u, exec (.trainDeskew n skewed) s = .next u ∧ llkState u n = (if popCount8 m < minWidth s n then 8 else 4)
        ∧ (getLink u n).det = m ∧ RegsEvents s u keys ∧ u.mem = s.mem
        ∧ (minWidth s n ≤ popCount8 m → OutMsg.ident n (ownPkg s) (n / 12) (n % 12) ∈ u.out ∧ OutMsg.lanes n m ∈ u.out))
    ∧ (∀ pkg plane link, llkState s n = 4 → plane < 2 → link < 16 →
      let right := plane = n / 12 ∧ link = (n % 12) ^^^ 2 ∧ pkg = torusNext s (n % 12)
      ∃ u, exec (.trainIdent n pkg plane link) s = .next u ∧ (right → llkState u n = 5 ∧ llkLanes u n = (getLink s n).det % 256)
        ∧ (¬right → llkState u n = 8) ∧ u.mem = s.mem)
    ∧ (1 ≤ llkState s n → llkState s n ≤ 4 → (getLink s n).trainTo ≠ 0 →
      Due s ((getLink s n).trainAt + usTicks (1000 * (getLink s n).trainTo)) →
      ∃ u, exec (.trainTimeout n) s = .next u ∧ llkState u n = 8 ∧ Events s u keys)
    ∧ (llkState s n = 6 → (getLink s n).unacked = [] → ∃ u, exec (.narrowDeskew n) s = .next u ∧ llkState u n = 5
      ∧ llkLanes u n = llkLanes s n ∧ u.mem = s.mem)

/-- Frames that arrive on an active link, and the timers of a link with its resend. -/
def Obligations.LinkFramesAct : Prop :=
  (∀ (s : State) (n : Nat) (f : LFrame) (p : Packet), llkState s n = 5 →
    let l := getLink s n
    (frameOk f (some p) → f.seq.toNat = l.rxSeq → f.rpl = false → (getMtr s (.llk n) (llkMeter s n p)).mode = 0 →
      ∃ u x, exec (.dataFrame n f p) s = .next u ∧ (getLink u n).rxSeq = (l.rxSeq + 1) % 4096 ∧ (getLink u n).disc = false
        ∧ (getDie u (n / 12)).osw = (getDie s (n / 12)).osw ++ [x] ∧ x.from_ = some (n, f.vc.toNat) ∧ x.held = true
        ∧ x.pkt = { p with data := p.data.map (fun y => { y with poi := f.poi }), endb := f.endb.toNat }
        ∧ RegsBut s u [] ∧ u.mem = s.mem)
    ∧ (frameOk f (some p) → f.seq.toNat ≠ l.rxSeq → l.disc = false → ∃ u c, exec (.dataFrame n f p) s = .next u
      ∧ u.out = s.out ++ [.ctrl n c] ∧ c.rpl = true ∧ c.ackseq = BitVec.ofNat 12 (ackSeq l) ∧ (getLink u n).rxSeq = l.rxSeq ∧ (getLink u n).disc = true
      ∧ (getDie u (n / 12)).osw = (getDie s (n / 12)).osw ∧ RegsBut s u [] ∧ u.mem = s.mem)
    ∧ (∀ i, frameOk f none → f.rpl = false → f.ackv → l.unacked.findIdx? (fun x => x.seq == f.ackseq.toNat) = some i →
      ∃ u, exec (.ctrlFrame n f) s = .next u ∧ (getLink u n).unacked = l.unacked.drop (i + 1) ∧ (getLink u n).rpl = 0
        ∧ (getLink u n).progressAt = eTime s ∧ RegsBut s u [] ∧ u.out = s.out ∧ u.mem = s.mem))
    ∧ ∀ (s : State) (n : Nat), llkState s n = 5 → bktThr s 1 = 0 →
    let l := getLink s n
    (l.toAck ≠ 0 → Due s (l.ackSince + ticks 200) → ∃ u c, exec (.ackTimer n) s = .next u
      ∧ u.out = s.out ++ [.ctrl n c] ∧ c.rpl = false ∧ c.ackseq = BitVec.ofNat 12 (ackSeq l) ∧ (getLink u n).toAck = 0 ∧ RegsBut s u [] ∧ u.mem = s.mem)
    ∧ (stopped s (.llk n) = false → l.ackTo ≠ 0 → l.unacked ≠ [] → Due s (l.progressAt + ticks l.ackTo) →
      l.rpl + 1 < (if l.rpl = 0 then rfld s (.llk n) 0x090 3 0 else l.rplMax) →
      ∃ u, exec (.replayTimeout n) s = .next u ∧ (getLink u n).rpl = l.rpl + 1 ∧ (getLink u n).unacked = l.unacked
        ∧ (∀ x ∈ l.unacked, ∃ f, OutMsg.data n f x.pkt ∈ u.out ∧ f.seq = BitVec.ofNat 12 x.seq ∧ f.vc = BitVec.ofNat 2 x.vc)
        ∧ rfld u (.llk n) 0x0A4 31 16 = Nat.min (rfld s (.llk n) 0x0A4 31 16 + 1) 0xFFFF
        ∧ RegsEvents s u [regKey (.llk n) 0x0A4] ∧ u.mem = s.mem)

/-- LF-128 blocks, failed words of a clock crossing, and packets in OSW. -/
def Obligations.LinkErrorsCounted : Prop :=
  ∀ (s : State) (n : Nat),
    (llkState s n = 5 → ∀ b : LfBlock,
      let act := lanesOf (llkLanes s n)
      let fec := fecOf (b.errs.filter (fun e => act.contains e.1))
      let got := lfBytes act (sbLane s n false) b.shares
      let count (u : State) (hi lo : Nat) : Prop :=
        rfld u (.llk n) 0x0A0 hi lo = Nat.min (rfld s (.llk n) 0x0A0 hi lo + 1) 0xFFFF
      (fec = .clean → got.1.toNat < 128 → ∃ u, exec (.lf128Block n b [] []) s = .next u ∧ (getLink u n).blk = some got
        ∧ (getLink u n).txs = (getLink s n).txs.drop 128
        ∧ u.out = s.out ++ [.block n (lfShares act (sbLane s n true) ((getLink s n).sbq.headD 0) (nextStream (getLink s n)))]
        ∧ RegsBut s u [] ∧ u.mem = s.mem)
      ∧ (∀ k c, fec = .fixed k c → c ≤ 8 → got.1.toNat < 128 → ∃ u, exec (.lf128Block n b [] []) s = .next u
        ∧ (getLink u n).blk = some got ∧ count u 15 0 ∧ RegsEvents s u [regKey (.llk n) 0x0A0] ∧ u.mem = s.mem)
      ∧ (fec = .bad → bktThr s 1 = 0 → ∃ u, exec (.lf128Block n b [] []) s = .next u ∧ (getLink u n).blk = none ∧ count u 31 16
        ∧ RegsEvents s u [regKey (.llk n) 0x0A0] ∧ u.mem = s.mem))
    ∧ (∀ g kind inst, (g = .llk inst ∧ kind = 1 ∧ dieFitted s (inst / 12)) ∨ (g = .eth inst ∧ kind = 5 ∧ dieFitted s (inst / 2))
        ∨ (∃ x e, g = .mem x e ∧ kind = 2 ∧ inst = edgeKey x e ∧ edgePop s x e) → bktThr s kind = 0 →
      ∃ u, exec (.syncWordFailure g) s = .next u
        ∧ (getBkt u kind inst).errs = Nat.min ((getBkt s kind inst).errs + 1) 0xFFFF
        ∧ (getBkt u kind inst).level = (getBkt s kind inst).level ∧ RegsBut s u [] ∧ u.mem = s.mem)
    ∧ exec (.syncWordFailure .pcie) s = .next s
    ∧ ∀ d x rest, (getDie s d).osw = x :: rest → stopped s (.osw d) = false → dieFitted s d →
      (nodePkg x.pkt.dst = ownPkg s → fabricBusy s = false → ∃ u, exec (.oswPacket d) s = .next u
        ∧ (getDie u d).osw = rest ∧ (getDie u d).out = (getDie s d).out ++ [x.pkt] ∧ RegsBut s u [] ∧ u.mem = s.mem)
      ∧ (∀ dir m, nodePkg x.pkt.dst ≠ ownPkg s → rbit s (.osw 0) 0x088 0 → offPod s (nodePkg x.pkt.dst) = false →
        podDir s (nodePkg x.pkt.dst) = some dir → podLink s d dir x.pkt = some m → ∃ u, exec (.oswPacket d) s = .next u
          ∧ (getDie u d).osw = rest ∧ (getDie u d).out = (getDie s d).out
          ∧ tabGet [] (getLink u m).eg x.pkt.tc.toNat
            = tabGet [] (getLink s m).eg x.pkt.tc.toNat ++ [{ x with held := false }] ∧ RegsBut s u [] ∧ u.mem = s.mem)

/-- Resets by MGT_RST, by PERST_N and by the rails (Table 19.4). -/
def Obligations.ResetsReturnState : Prop :=
  ∀ (s : State) (src : Src) (failed : List Nat) (idx : Nat),
    let t := idx % 16384
    let fresh (u : State) : Prop := u.mem = [] ∧ u.tiles = [] ∧ u.links = [] ∧ u.rlog = [] ∧ u.time = s.time
      ∧ u.rtc = s.rtc ∧ u.fuses = s.fuses
    let tilesZero (u : State) : Prop := (∀ k, 2 ^ 48 ≤ k → k < 2 ^ 48 + 2 ^ 34 → getByte u.mem k = 0)
      ∧ ∀ k, k < 2 ^ 48 → getByte u.mem k = getByte s.mem k
    (s.mgt.thermtrip = false →
      (writeTaken s .mgt 0x088 1 → s.mgt.running ≠ some .cold → ∃ u, exec (.cold src) s = .next u ∧ fresh u
        ∧ u.mgt.running = some .cold ∧ ∀ p o, regKey p o ≠ regKey (.tkp 0) 0x0F8 → rawReg u p o = regDefault s.fuses p o)
      ∧ (writeTaken s .mgt 0x088 2 → s.mgt.running = none ∨ (∃ k, s.mgt.running = some (.tile k)) →
        (∀ e ∈ s.tiles, e.2.powered) → ∃ u, exec (.fabric src failed) s = .next u ∧ u.mgt.running = some .fabric
          ∧ u.mgt.waiting = [] ∧ u.mgt.failedRtrs = [] ∧ u.tiles = [] ∧ tilesZero u
          ∧ rawReg u .mgt 0x084 = degrWord (failed.foldl spareOne {})
          ∧ u.time = s.time ∧ u.links = s.links)
      ∧ (writeTaken s .mgt 0x088 (BitVec.ofNat 32 (4 + t * 65536)) →
        (s.mgt.running = none → ∃ u, exec (.tile src idx) s = .next u ∧ u.mgt.running = some (.tile t)
          ∧ isolated u t = true ∧ MemBut s u (tmKey t 0) 0x100000
          ∧ (∀ o, o < 0x100000 → getByte u.mem (tmKey t o) = 0) ∧ (getTile u t).ctx = [{}, {}, {}, {}]
          ∧ (∀ k, k ≠ t → getTile u k = getTile s k) ∧ u.time = s.time)
        ∧ (∀ k, s.mgt.running = some (.tile k) → k ≠ t → t ∉ s.mgt.waiting → ∃ u, exec (.tile src idx) s = .next u
          ∧ u.mgt.waiting = s.mgt.waiting ++ [t] ∧ u.tiles = s.tiles ∧ u.mem = s.mem))
      ∧ (s.mgt.running ≠ some .cold → s.mgt.running ≠ some .warm → (∀ e ∈ s.tiles, e.2.powered) → ∃ u, exec .perstN s = .next u ∧ fresh u
        ∧ u.mgt.running = some .warm ∧ bootStage u = 3 ∧ u.hif.perst = false)
      ∧ (∃ u, exec .thermtrip s = .next u ∧ u.mgt.thermtrip = true ∧ u.mgt.rails = false ∧ OutMsg.thermtrip ∈ u.out
        ∧ tilesZero u))
    ∧ (∃ u, exec .vstbyValid s = .next u ∧ fresh u ∧ u.mgt.vstby = true ∧ u.mgt.thermtrip = false
      ∧ u.mgt.running = some .cold)
    ∧ (∃ u, exec .vstbyLoss s = .next u ∧ fresh u ∧ u.mgt.vstby = false ∧ u.mgt.rails = false)
    ∧ (s.mgt.running = some .fabric → rbit s .mgt 0x084 2 = false → ∃ u, exec .resetComplete s = .next u
      ∧ u.mgt.running = none ∧ rfld u .mgt 0x08C 3 1 = 3 ∧ rbit u .mgt 0x020 1 = true ∧ u.tiles = s.tiles ∧ u.mem = s.mem)
    ∧ (s.mgt.running = some .fabric → rbit s .mgt 0x084 2 → exec .resetComplete s = .next s)
    ∧ (∀ k, s.mgt.running = some (.tile k) → s.mgt.waiting = [] → rbit s (.til k) 0x084 0 = false → (getTile s k).powered →
      ∃ u, exec .resetComplete s = .next u ∧ u.mgt.running = none ∧ isolated u k = false ∧ rfld u .mgt 0x08C 3 1 = 4
        ∧ u.tiles = s.tiles ∧ u.mem = s.mem)

/-- Boot, rails, and the release of PERST_N. -/
def Obligations.BootEnds : Prop :=
  ∀ (s : State) (a b : Image), s.mgt.thermtrip = false → s.mgt.vstby →
    (bootStage s = 0 → (imageOk s a || imageOk s b) →
      let img := if imageOk s a then a else b
      ∃ u, exec (.boot a b true [] []) s = .next u ∧ bootStage u = 7 ∧ u.mgt.running = none
        ∧ rfld u .mgt 0x090 23 16 = img.svn.toNat ∧ rbit u .mgt 0x090 4 = !imageOk s a
        ∧ rawReg u .mgt 0x084 = 0x3F3F00 ∧ ∀ k, 2 ^ 48 ≤ k → k < 2 ^ 48 + 2 ^ 34 → getByte u.mem k = 0)
    ∧ (bootStage s = 0 → (imageOk s a || imageOk s b) = false → ∃ u, exec (.boot a b true [] []) s = .next u
      ∧ bootStage u = 8 ∧ rfld u .mgt 0x090 15 8 = 1 ∧ u.mem = s.mem ∧ u.tiles = s.tiles)
    ∧ (bootStage s ≤ 2 → ∃ u, exec .railTimeout s = .next u ∧ bootStage u = 8 ∧ rfld u .mgt 0x090 15 8 = 2
      ∧ u.mgt.rails = false ∧ u.mem = s.mem ∧ u.tiles = s.tiles ∧ RegsEvents s u [regKey .mgt 0x090])
    ∧ (s.hif.perst = false → ∃ u, exec .perstNDeassert s = .next u ∧ u.hif = { s.hif with perst := true, perstAt := s.time }
      ∧ RegsBut s u [regKey .hif 0x098] ∧ u = { s with regs := u.regs, hif := u.hif, free := u.free })

/-- Temperatures, throttling, VCORE, refresh and patrol scrub. -/
def Obligations.TemperatureAndScrub : Prop :=
  ∀ (s : State) (src : Src) (v : Word) (x e : Nat),
    (∀ cd iow ioe, 3 ≤ bootStage s → s.mgt.rails → ∃ u, exec (.tempReport cd iow ioe) s = .next u
      ∧ (∀ q c, q < 4 → cd[q]? = some c → rfld u .mgt 0x0A0 (8 * q + 7) (8 * q) = Nat.min 255 c)
      ∧ rfld u .mgt 0x0A4 7 0 = Nat.min 255 iow ∧ RegsBut s u [regKey .mgt 0x0A0, regKey .mgt 0x0A4] ∧ OnlyRegs s u)
    ∧ (s.mgt.vmv.length = 4 →
      (rbit s .mgt 0x0A8 24 → ∃ u, exec .throttleReview s = .next u
        ∧ (∀ q, q < 4 →
          let t := rfld s .mgt 0x0A0 (8 * q + 7) (8 * q)
          let lim := rfld s .mgt 0x0A8 7 0
          let step := rfld s .mgt 0x0A8 23 16
          effMv u q = if lim ≤ t then Nat.min (effMv s q) (Nat.max 620 (effMv s q - step))
            else if t + rfld s .mgt 0x0A8 15 8 ≤ lim then Nat.max (effMv s q) (Nat.min (setMv s q) (effMv s q + step))
            else effMv s q)
        ∧ RegsEvents s u [regKey .mgt 0x0B0] ∧ u.mem = s.mem ∧ u.tiles = s.tiles)
      ∧ (writeTaken s .mgt 0x0AC v → ∃ u, exec (.mgtVset src v) s = .next u ∧ rawReg u .mgt 0x0AC = v
        ∧ (∀ q, q < 4 → effMv u q = Nat.min (effMv s q) (500 + 5 * fld v (8 * q + 7) (8 * q)))
        ∧ RegsBut s u [regKey .mgt 0x0AC, regKey .mgt 0x0B0] ∧ u.mem = s.mem ∧ u.tiles = s.tiles))
    ∧ (∀ site c k, site < 8 → k < 32 →
      let p := Page.mem (32 * (site % 4) + k) (site / 4)
      pagePresent s p → ∃ u, exec (.stackTemperature site c) s = .next u ∧ rfld u p 0x084 15 8 = Nat.min c 255
        ∧ rbit u p 0x084 1 = decide (85 < c) ∧ u.mem = s.mem ∧ u.tiles = s.tiles)
    ∧ (pcLive s x e → ∃ u, exec (.refresh x e) s = .next u ∧ (getEdge u x e).refreshes = (getEdge s x e).refreshes + 1
      ∧ u = { s with edges := u.edges } ∧ (getEdge u x e).req = (getEdge s x e).req)
    ∧ (pcLive s x e → rfld s (.mem x e) 0x080 7 0 ≠ 0 →
      let i := rfld s (.mem x e) 0x094 25 0
      let unit_ := pcAddr s.fuses.asm x e (32 * i) / 32
      let goesOn (u : State) : Prop := rfld u (.mem x e) 0x094 25 0 = (i + 1) % (pcBytes s.fuses.asm / 32) ∧ u.mem = s.mem
      (unitErr s unit_ = none → ∃ u, exec (.scrubVisit x e []) s = .next u ∧ goesOn u
        ∧ RegsBut s u [regKey (.mem x e) 0x094] ∧ OnlyRegs s u)
      ∧ (∀ f, unitErr s unit_ = some f → f.ue = false → ∃ u, exec (.scrubVisit x e []) s = .next u ∧ goesOn u
        ∧ unitErr u unit_ = none ∧ rfld u (.mem x e) 0x040 15 0 = Nat.min (rfld s (.mem x e) 0x040 15 0 + 1) 0xFFFF
        ∧ RegsBut s u [regKey (.mem x e) 0x094, regKey (.mem x e) 0x040]))

/-- Host reads and writes, their resends and timeouts. -/
def Obligations.HostAccessesServed : Prop :=
  ∀ (s : State) (bar a : Nat), hostUp s →
    let sent (u : State) (q : Packet) : Prop := (getDie u 0).out = (getDie s 0).out ++ [q] ∧ RegsBut s u [] ∧ u.mem = s.mem
      ∧ u.tiles = s.tiles ∧ ∃ r, u.hif.accs = s.hif.accs ++ [r] ∧ r.id = s.hif.nextId ∧ r.pkt = q
    let page (p : Page) (off : Nat) : Prop := pkgFailed s = false ∧ barShut s bar = false ∧ a % 4 = 0 ∧ bar ≠ 4
      ∧ barAt s bar a = .page p off ∧ ¬(p = .hif ∧ off = 0x08C)
    (s.hif.rds = [] →
      (barShut s bar = false → a % 4 = 0 → bar ≠ 4 → barAt s bar a = .empty → ∃ u, exec (.hostRead bar a 4) s = .next u
        ∧ u.out = s.out ++ [.host s.hif.nextId .sc [0, 0, 0, 0]] ∧ u.hif.rds = [] ∧ u.hif.accs = s.hif.accs
        ∧ RegsBut s u [] ∧ u.mem = s.mem)
      ∧ (∀ p off, page p off → ∃ u q, exec (.hostRead bar a 4) s = .next u ∧ sent u q ∧ q.opc = opREGRD
        ∧ q.dst = (pageNode s p off).1 ∧ q.addr = BitVec.ofNat 48 (pageNode s p off).2 ∧ u.out = s.out
        ∧ u.hif.rds.length = 1)
      ∧ (∀ n, barShut s 4 = false → 0 < n → bar4Addr s a % 2048 + n ≤ 2048 → ∃ u q, exec (.hostRead 4 a n) s = .next u
        ∧ sent u q ∧ q.opc = opRD ∧ q.dst = memNodeOf s (bar4Pkg s) (bar4Addr s a)
        ∧ q.addr = BitVec.ofNat 48 (bar4Addr s a) ∧ q.aux = BitVec.ofNat 32 n ∧ u.out = s.out)
      ∧ (barShut s 4 → ∃ u, exec (.hostRead 4 a 4) s = .next u ∧ u.out = s.out ++ [.host s.hif.nextId .ur []]
        ∧ RegsBut s u [] ∧ u.mem = s.mem))
    ∧ (∀ p off bytes, page p off → bytes.length = 4 →
      ∃ u q, exec (.hostWrite bar a bytes [true, true, true, true]) s = .next u ∧ sent u q ∧ q.opc = opREGWR
        ∧ q.dst = (pageNode s p off).1 ∧ q.addr = BitVec.ofNat 48 (pageNode s p off).2 ∧ payload q = bytes ∧ u.out = s.out)
    ∧ (∀ bytes : List Byte, barShut s 4 = false → bytes ≠ [] → bar4Addr s a % 2048 + bytes.length ≤ 2048 →
      ∃ u q, exec (.hostWrite 4 a bytes (List.replicate bytes.length true)) s = .next u ∧ sent u q ∧ q.opc = opWR
        ∧ q.dst = memNodeOf s (bar4Pkg s) (bar4Addr s a) ∧ q.addr = BitVec.ofNat 48 (bar4Addr s a) ∧ u.out = s.out)
    ∧ (∀ r d, s.hif.accs = [r] → r.due = some d → Due s d → ∃ u, exec (.hifResend r.tag) s = .next u
      ∧ (getDie u 0).out = (getDie s 0).out ++ [r.pkt]
      ∧ u.hif.accs = [{ r with due := none, tries := r.tries + 1, till := eTime s + usTicks (rfld s .hif 0x080 31 12) }]
      ∧ RegsBut s u [] ∧ u.mem = s.mem)
    ∧ (∀ r, s.hif.accs = [r] → r.due = none → Due s r.till →
      (r.write = false → s.hif.rds = [⟨r.id, [⟨some r.tag, none⟩]⟩] → ∃ u, exec (.hifCto r.tag) s = .next u
        ∧ u.hif.accs = [] ∧ OutMsg.host r.id .ca [] ∈ u.out
        ∧ rfld u .hif 0x094 15 0 = Nat.min (rfld s .hif 0x094 15 0 + 1) 0xFFFF
        ∧ RegsEvents s u [regKey .hif 0x094] ∧ u.mem = s.mem)
      ∧ (r.write → s.hif.rds = [] → ∃ u, exec (.hifCto r.tag) s = .next u ∧ u.hif.accs = []
        ∧ rfld u .hif 0x094 31 16 = Nat.min (rfld s .hif 0x094 31 16 + 1) 0xFFFF
        ∧ RegsEvents s u [regKey .hif 0x094] ∧ u.mem = s.mem))

/-- Configuration requests, function resets, MSI-X, and the SMBus target. -/
def Obligations.HostControlsAct : Prop :=
  ∀ (s : State) (b : Bool) (v : Nat) (w : Word),
    let only (u : State) : Prop := u = { s with hif := u.hif, out := u.out }
    (∃ u, exec (.configRequest .read) s = .next u ∧ u = { s with out := s.out ++ [.cfg (cfgStatus s)] })
    ∧ (cfgStatus s = .sc → (∃ u, exec (.configRequest (.setBme b)) s = .next u ∧ u.hif.bme = b
        ∧ u.hif.fmask = s.hif.fmask ∧ OutMsg.cfg .sc ∈ u.out ∧ only u)
      ∧ (∃ u, exec (.configRequest (.setFmask b)) s = .next u ∧ u.hif.fmask = b ∧ u.hif.bme = s.hif.bme
        ∧ OutMsg.cfg .sc ∈ u.out ∧ only u))
    ∧ (s.hif.perst → ∃ u, exec .flr s = .next u ∧ u.hif = { s.hif with accs := [], rds := [], vecs := [], bme := false, fmask := false }
      ∧ (∀ o, o < 0x1000 → o ∉ [0x014, 0x018, 0x098] → rawReg u .hif o = regDefault s.fuses .hif o)
      ∧ (∀ o ∈ [0x014, 0x018, 0x098], rawReg u .hif o = rawReg s .hif o)
      ∧ RegsBut s u ((List.range 0x1000).map (fun o => regKey .hif o)) ∧ u = { s with regs := u.regs, hif := u.hif })
    ∧ (s.hif.bme → s.hif.fmask = false → v < 2048 →
      (∃ u, exec (.msixUnmask (some v)) s = .next u ∧ (getVec u v).masked = false ∧ (getVec u v).pend = false
        ∧ ((getVec s v).pend → OutMsg.msix v (getVec s v).addr (getVec s v).data ∈ u.out) ∧ only u)
      ∧ (∀ k, (getVec s v).lastAt = some k → (getVec s v).deferred → (getVec s v).masked = false →
        Due s (k + ticks (getVec s v).win) → ∃ u, exec (.msixWindowEnd v) s = .next u
          ∧ u.out = s.out ++ [.msix v (getVec s v).addr (getVec s v).data] ∧ (getVec u v).deferred = false
          ∧ (getVec u v).lastAt = some (eTime s) ∧ only u))
    ∧ (∃ u, exec (.msixUnmask none) s = .next u ∧ u.hif.fmask = false ∧ only u)
    ∧ (s.mgt.vstby → ∃ u, exec (.smbAddr w true) s = .next u ∧ u.hif = { s.hif with smbAddr := w }
      ∧ u.out = s.out ++ [.smb false none] ∧ only u)
    ∧ exec (.smbAddr w false) s = .next (emit s (.smb true none))
    ∧ (∀ p off, smbRdy s → smbAt s = some (p, off) → smbFails s p = false →
      let s1 := { s with hif := { s.hif with smbErr := false } }
      (∃ u, exec (.smbData none true) s = .next u ∧ u.out = s.out ++ [.smb false (some (regRead s1 p off).1)]
        ∧ u.mem = s.mem ∧ u.tiles = s.tiles)
      ∧ (writeTaken s1 p off w → off = 0x070 → ∃ u, exec (.smbData (some w) true) s = .next u
        ∧ u.out = s.out ++ [.smb false none] ∧ rawReg u p off = w ∧ RegsBut s u [regKey p off] ∧ u.mem = s.mem))
    ∧ (∃ u, exec .smbStatus s = .next u
      ∧ u = { s with out := s.out ++ [.smb false (some (BitVec.ofNat 32 (bitNat (smbRdy s) + 2 * bitNat s.hif.smbErr)))] })

/-- Frames that arrive at a port: filtered, without a ring, with a bad FCS, or received whole without a meter. -/
def Obligations.FramesReceived : Prop :=
  ∀ (s : State) (n : Nat) (f : List Byte),
    rbit s (.eth n) 0x080 0 → dieFitted s (n / 2) → stopped s (.eth n) = false → enabled s (.eth n) →
    rbit s (.eth n) 0x014 6 = false → rbit s (.eth n) 0x0A0 0 → (getEth s n).pausing = [] → netField f 12 2 ≠ 0x8808 →
    f.length ≤ 262144 →
    let r := steer s n f
    let counted (u : State) (off hi lo : Nat) : Prop := rfld u (.eth n) off hi lo = Nat.min (rfld s (.eth n) off hi lo + 1) 0xFFFF
    let only (u : State) (off : Nat) : Prop := RegsBut s u [regKey (.eth n) off] ∧ OnlyRegs s u
    (macOk s n f = false → ∃ u, exec (.rxFrame n f true []) s = .next u ∧ counted u 0x0C0 15 0 ∧ only u 0x0C0)
    ∧ (macOk s n f → ringEn s n false r = false → ∃ u, exec (.rxFrame n f true []) s = .next u ∧ counted u 0x0BC 31 16
      ∧ only u 0x0BC)
    ∧ (macOk s n f → ringEn s n false r → ringHalt s n false r = false → f.length + 4 ≤ rfld s (.eth n) 0x084 13 0 →
      (rbit s (.eth n) 0x080 2 && tagged f) = false →
      let x := rxFill n r (ringSize s n false r) s f (ringHead s n false r)
      x.1 = none →
      (∃ u, exec (.rxFrame n f false []) s = .next u ∧ rfld u (.eth n) 0x0B8 15 0
        = Nat.min (rfld x.2.2 (.eth n) 0x0B8 15 0 + 1) 0xFFFF ∧ ringHead u n false r = ringHead x.2.2 n false r ∧ u.mem = x.2.2.mem)
      ∧ ((getMtr x.2.2 (.eth n) (ethMeter x.2.2 n f r)).mode = 0 →
        let stamp := ptpEvent f || rbit s (.eth n) 0x090 9
        let m : RxMeta := ⟨ethColor x.2.2 n f, none, f.length,
          if stamp then some (stampField x.2.2 n (stampT x.2.2 n false)) else none⟩
        let y := rxBack x.2.2 n r m x.2.1
        y.1 = 0 → 0 < ringSize y.2 n false r → ∃ u, exec (.rxFrame n f true []) s = .next u
          ∧ ringHead u n false r = (ringHead y.2 n false r + x.2.1.length) % ringSize y.2 n false r ∧ u.mem = y.2.mem))

/-- Priority flow control, transmit frames, and the state of a port's link. -/
def Obligations.PortsTransmit : Prop :=
  ∀ (s : State) (n prio : Nat) (quanta : List (Option Nat)) (up an : Bool),
    (ethLive s n → rbit s (.eth n) 0x080 0 → ∀ p q, p < 8 → quanta[p]? = some (some q) →
      ∃ u, exec (.pfcFrame n quanta) s = .next u ∧ rbit u (.eth n) 0x09C p = (q != 0)
        ∧ tabGet 0 (getEth u n).pauseTill p = eTime s + quantaTicks q ∧ RegsBut s u [regKey (.eth n) 0x09C]
        ∧ u = { s with regs := u.regs, eths := u.eths })
    ∧ (∀ e, (getEth s n).pausing.find? (fun e => e.1 == prio) = some e →
      let q := rfld s (.eth n) 0x098 31 16
      Due s (e.2.1 + quantaTicks e.2.2 / 2) → ∃ u, exec (.pfcRepeat n prio) s = .next u ∧ u.out = s.out ++ [.pfc n prio q]
        ∧ tabGet (0, 0) (getEth u n).pausing prio = (eTime s, q) ∧ u = { s with eths := u.eths, out := u.out })
    ∧ (rbit s (.eth n) 0x09C prio → Due s (tabGet 0 (getEth s n).pauseTill prio) →
      ∃ u, exec (.pfcPauseExpiry n prio) s = .next u ∧ rbit u (.eth n) 0x09C prio = false
        ∧ RegsBut s u [regKey (.eth n) 0x09C] ∧ OnlyRegs s u)
    ∧ (∀ r, dieFitted s (n / 2) → stopped s (.eth n) = false → enabled s (.eth n) → rbit s (.eth n) 0x014 6 = false →
      rbit s (.eth n) 0x080 1 → ringEn s n true r → ringHalt s n true r = false → (getEth s n).tx = [] →
      (ringLeft (ringSize s n true r) (ringHead s n true r % ringSize s n true r) (ringTail s n true r) = 0 →
        exec (.txFrameFetch n r) s = .next s)
      ∧ ∀ e ds s1, txDescs n r (ringSize s n true r) s (ringHead s n true r % ringSize s n true r) = some (e, ds, s1) →
        let b := txBuild s1 n r e ds
        b.1.bytes.length ≤ 65536 → ∃ u, exec (.txFrameFetch n r) s = .next u
          ∧ (getEth u n).tx = (getEth b.2 n).tx ++ [b.1] ∧ u.mem = b.2.mem)
    ∧ (∀ r f, (getEth s n).tx = [f] → f.ring = r → stopped s (.eth n) = false → f.status = 0 → f.started → f.descs = 1 →
      f.halt = false →
      let y := txBack (modEth s n (fun x => { x with tx := [] })) n r f
      y.1 = 0 → ringIrq y.2 n true r = false → 0 < ringSize y.2 n true r → ∃ u, exec (.txFrameDone n r) s = .next u
        ∧ ringHead u n true r = (ringHead y.2 n true r + 1) % ringSize y.2 n true r ∧ u.mem = y.2.mem)
    ∧ (dieFitted s (n / 2) → rbit s (.eth n) 0x014 6 = false → ∃ u, exec (.ethLinkChange n up an) s = .next u
      ∧ rbit u (.eth n) 0x0A0 0 = up ∧ rbit u (.eth n) 0x0A0 1 = an
      ∧ (rbit s (.eth n) 0x0A0 0 ≠ up → rbit u (.eth n) 0x020 3 = true) ∧ Events s u [regKey (.eth n) 0x0A0])

/-- Records that set what a Glazier holds, and the end of a pause. -/
def Obligations.GlazierStateSet : Prop :=
  ∀ (s : State) (n : Nat) (r : List Byte),
    let g := getGlz s n
    let b (i : Nat) : Nat := byteField r i 1
    let h (i : Nat) : Nat := byteField r i 2
    let popped (u : State) : Prop := (getGlz u n).q = g.q.tail ∧ OnlyGlz s u n
    (GlzTakes s n 0x01 r → ∃ u, exec (.target n) s = .next u ∧ popped u ∧ (getGlz u n).tw = h 4 ∧ (getGlz u n).th = h 6
      ∧ (getGlz u n).spp = b 8 ∧ (getGlz u n).dfmt = b 9 ∧ (getGlz u n).groups = [{}, {}, {}, {}]
      ∧ (getGlz u n).clr = none)
    ∧ (GlzTakes s n 0x02 r → h 4 + h 8 ≤ g.tw → h 6 + h 10 ≤ g.th → 1 ≤ h 8 → 1 ≤ h 10 → h 8 * h 10 * g.spp ≤ 4194304 →
      ∃ u, exec (.region n) s = .next u ∧ popped u
        ∧ ((getGlz u n).rx, (getGlz u n).ry, (getGlz u n).rw, (getGlz u n).rh) = (h 4, h 6, h 8, h 10))
    ∧ (GlzTakes s n 0x03 r → g.groups.length = 4 → b 5 = 1 → byteField r 24 4 % 32 = 0 →
      g.tw * g.spp * b 7 * chanSize (b 6) ≤ byteField r 24 4 → tnodeOk s (wordAt r 12) →
      inRegion s (wordAt r 12) (byteField r 16 6) (g.th * byteField r 24 4) → (b 8 = 3 → b 7 = 4) →
      ∃ u, exec (.cgroup n) s = .next u ∧ popped u ∧ (getGlz u n).groups[b 4]? = some ⟨b 5, b 6, b 7, b 8, b 9, b 10,
        wordAt r 12, byteField r 16 6, byteField r 24 4⟩)
    ∧ (GlzTakes s n 0x04 r → ∃ u, exec (.dstate n) s = .next u ∧ popped u
      ∧ ((getGlz u n).dfunc, (getGlz u n).dwrite, (getGlz u n).sfunc, (getGlz u n).sref) = (b 4, b 5 == 1, b 6, b 7)
      ∧ ((getGlz u n).smask, (getGlz u n).spass, (getGlz u n).sfail, (getGlz u n).sdfail) = (b 8, b 9, b 10, b 11))
    ∧ (GlzTakes s n 0x05 r → progBusy s n = false → (∀ i, i < b 5 → progBad (wordAt r (8 + 4 * i)) = false) →
      ∃ u, exec (.prog n) s = .next u ∧ (getGlz u n).q = g.q.tail
        ∧ (∀ i, i < b 5 → progWord u n (b 4 + i) = wordAt r (8 + 4 * i))
        ∧ RegsBut s u (regKey (.glz n) 0x084 :: (List.range 64).map (fun i => regKey (.glz n) (0x200 + 4 * i))))
    ∧ (GlzTakes s n 0x06 r → ∃ u, exec (.loper n) s = .next u ∧ popped u ∧ (getGlz u n).layer = BitVec.ofNat 16 (h 4)
      ∧ (getGlz u n).oper = BitVec.ofNat 16 (h 6))
    ∧ (GlzTakes s n 0x20 r → ∃ u, exec (.clear n) s = .next u ∧ popped u
      ∧ ∀ i, depthGet (getGlz u n) i = wordAt r 4 ∧ stenGet (getGlz u n) i = BitVec.ofNat 8 (b 8))
    ∧ (GlzTakes s n 0x30 r → ∃ u, exec (.bvh n) s = .next u ∧ popped u ∧ (getGlz u n).bnode = wordAt r 8
      ∧ (getGlz u n).broot = byteField r 12 6 ∧ (getGlz u n).btri = byteField r 20 6)
    ∧ (glzState s n = 2 → g.frags = [] → glzLive s n → rbit s (.glz n) 0x084 13 = false →
      ∃ u, exec (.glzPaused n) s = .next u ∧ glzState u n = 3 ∧ RegsBut s u [regKey (.glz n) 0x084] ∧ OnlyRegs s u)

/-- Records that read and write memory, fences, and submission. -/
def Obligations.GlazierRecordsRun : Prop :=
  ∀ (s : State) (n : Nat) (r : List Byte),
    let g := getGlz s n
    (GlzTakes s n 0x40 r → g.frags = [] → nodeKind (wordAt r 4) = 0 → nodeEp (wordAt r 4) = 2 → wordAt r 4 ≠ 0 →
      ∃ u p, exec (.glzFence n) s = .next u ∧ (getDie u (n / 4)).out = (getDie s (n / 4)).out ++ [p] ∧ p.opc = opSIGNAL
        ∧ p.dst = wordAt r 4 ∧ p.addr = BitVec.ofNat 48 (byteField r 8 1) ∧ p.aux = wordAt r (if g.bad then 16 else 12)
        ∧ p.layer = g.layer ∧ p.oper = g.oper ∧ (getGlz u n).bad = false ∧ (getGlz u n).q = g.q.tail
        ∧ rbit u (.glz n) 0x020 3 = true ∧ u.mem = s.mem)
    ∧ (GlzTakes s n 0x21 r → tnodeTile s (wordAt r 8) → wordAt r 8 ≠ 0 → byteField r 12 6 % 8 = 0 →
      let bw := (g.rw + 7) / 8
      let bh := (g.rh + 7) / 8
      let bs := (List.range bh).flatMap (fun j => (List.range bw).flatMap (fun i => blockBytes (blockDepths g i j)))
      byteField r 12 6 + 8 * bw * bh ≤ 196608 → bs ≠ [] → ∃ u, exec (.dresolve n) s = .next u
        ∧ u.mem = (glzWrite s n (wordAt r 8) (byteField r 12 6) bs).mem)
    ∧ (∀ opc c, (opc, c) ∈ [(0x10, Instr.draw n []), (0x11, Instr.splat n [])] → GlzTakes s n opc r →
      let k := if opc = 0x10 then byteField r 4 1 else 0
      let len := if opc = 0x10 then 3 * ((16 + 4 * k + 15) / 16 * 16) else 48
      let shape (g : Glz) (bs : List Byte) : Option Shape := if opc = 0x10 then triShape g k bs else splatShape g bs
      (byteField r 20 4 = 0 → ∃ u, exec c s = .next u ∧ (getGlz u n).q = g.q.tail ∧ OnlyGlz s u n)
      ∧ (byteField r 20 4 = 1 → g.done = 0 → binLow s n = false →
        let x := glzRead (glzCount s n 0x0C0 1) n (wordAt r 8) (byteField r 12 6) len
        x.1 = true → ∀ sh, shape (getGlz x.2.2 n) x.2.1 = some sh → ∃ u, exec c s = .next u
          ∧ (getGlz u n).frags = (raster (getGlz x.2.2 n) sh).1.frags
          ∧ (getGlz u n).depth = (raster (getGlz x.2.2 n) sh).1.depth
          ∧ ((∀ f ∈ (raster (getGlz x.2.2 n) sh).1.frags.drop (getGlz x.2.2 n).frags.length, onChip f) →
            u.mem = x.2.2.mem)))
    ∧ (GlzTakes s n 0x31 r → byteField r 24 4 = 1 →
      let x := glzRead (glzCount s n 0x0C8 1) n (wordAt r 8) (byteField r 12 6) 32
      let c : RayCtx := ⟨n, byteField r 4 1 == 1, wordsAt x.2.1 0 8⟩
      let e := hitOf c (if rayDead (wordsAt x.2.1 0 8) then { st := x.2.2 } else visit c 65 0x40000000 { st := x.2.2 })
      x.1 = true → ∃ u, exec (.rayq n []) s = .next u ∧ u.mem = (glzWrite e.2 n (wordAt r 8) (byteField r 18 6) e.1).mem)
    ∧ (glzLive s n → 2 ≤ glzSize s n → tnodeOk s (rawReg s (.glz n) 0x08C) → g.q.length < 1024 →
      let left := (glzTail s n + glzSize s n - glzHead s n) % glzSize s n
      let x := glzRead s n (rawReg s (.glz n) 0x08C) (glzAddr s n + 32 * glzHead s n) 32
      (left = 0 → exec (.glzRingFetch n) s = .next s)
      ∧ (left = 1 → x.1 = true → ∃ u, exec (.glzRingFetch n) s = .next u
        ∧ (getGlz u n).q = (getGlz x.2.2 n).q ++ [x.2.1] ∧ u.mem = x.2.2.mem))
    ∧ (∀ q, reqHead s (.io (n / 4)) opMSG = some q → dieFitted s (n / 4) → epKind q.dst = .glz → dieGlz (n / 4) q = n →
      stopped s (.glz n) = false → edgeCheck s (.io (n / 4)) q = none → q.len ≠ 0 → (payload q).length % 32 = 0 →
      let k := (payload q).length / 32
      let left (u : State) : Prop := (getDie u (n / 4)).req = (getDie s (n / 4)).req.tail ∧ u.mem = s.mem
      (enabled s (.glz n) → g.q.length + k ≤ 1024 → ∃ u, exec (.glzQueueMsg n) s = .next u
        ∧ (getGlz u n).q = g.q ++ records k (payload q) ∧ left u)
      ∧ (enabled s (.glz n) = false → ∃ u, exec (.glzQueueMsg n) s = .next u
        ∧ (getDie u (n / 4)).out = (getDie s (n / 4)).out ++ [nakPkt q.dst q nkOFF] ∧ (getGlz u n).q = g.q ∧ left u)
      ∧ (enabled s (.glz n) → 1024 < g.q.length + k → ∃ u, exec (.glzQueueMsg n) s = .next u
        ∧ (getDie u (n / 4)).out = (getDie s (n / 4)).out ++ [nakPkt q.dst q nkFULL] ∧ (getGlz u n).q = g.q ∧ left u))

/-- Pixel programs (Table 16.4), and the retirement of fragments. -/
def Obligations.PixelProgramsRun : Prop :=
  ∀ (s : State) (n op : Nat) (p : PPRun) (w : Word) (f : Frag) (gr : CGroup), ppNow s n op = some (p, w, f, gr) →
    let only (u : State) : Prop := (getGlz u n).frags = (getGlz s n).frags ∧ u = { s with glzs := u.glzs }
    let reg (i : Nat) : Word := (p.regs[i]?).getD 0
    let a := reg (fld w 23 21)
    let i := fld w 15 0
    let rest := (getGlz s n).frags.tail
    let gone (u : State) : Prop := (getGlz u n).pp = none ∧ (getGlz u n).frags = fragsAfter f rest
      ∧ (nextOnChip f rest → OnlyGlz s u n)
    (∀ c v, (c, op, v) ∈ ppRows n → ∃ u, exec c s = .next u
      ∧ (getGlz u n).pp = some (ppNext p w (v (reg (fld w 26 24)) a (reg (fld w 20 18)))) ∧ only u)
    ∧ (op = 0x0C → ∃ u, exec (.ppLdi n) s = .next u ∧ (getGlz u n).pp = some (ppNext p w (BitVec.ofNat 32 (i * 65536)))
      ∧ only u)
    ∧ (op = 0x0D → i < 10 → ∃ u, exec (.ppLdf n) s = .next u ∧ (getGlz u n).pp = some (ppNext p w
      (if i < 8 then (f.attrs[i]?).getD 0 else if i = 8 then f.alpha else f.z)) ∧ only u)
    ∧ (op = 0x0E → ∀ d v, (smpRead s n f gr).1 = some d → d[fld w 1 0]? = some v → ∃ u, exec (.ppLdp n) s = .next u
      ∧ (getGlz u n).pp = some (ppNext p w v) ∧ (getGlz u n).frags = (getGlz s n).frags
      ∧ u.mem = (smpRead s n f gr).2.mem)
    ∧ (op = 0x0F → ∃ u x, exec (.ppStp n) s = .next u ∧ (getGlz u n).pp = some x ∧ x.pc = p.pc + 1 ∧ x.regs = p.regs
      ∧ tabGet 0 x.staged (fld w 1 0) = a ∧ (∀ k, k ≠ fld w 1 0 → tabGet 0 x.staged k = tabGet 0 p.staged k) ∧ only u)
    ∧ (op = 0x10 → (Fv.lt (f32 a) (.fin false 0 0) = false → ∃ u, exec (.ppKill n) s = .next u
        ∧ (getGlz u n).pp = some { p with pc := p.pc + 1 } ∧ only u)
      ∧ (Fv.lt (f32 a) (.fin false 0 0) → f.groups[f.next + 1]? = none → ∃ u, exec (.ppKill n) s = .next u
        ∧ gone u))
    ∧ (op = 0 → p.bad ∨ p.staged = [] → f.groups[f.next + 1]? = none → ∃ u, exec (.ppEnd n) s = .next u
      ∧ gone u)

/-- The fragment whose turn it is: blended, given to its program, or gone; and a program's stores. -/
def Obligations.FragmentsRetire : Prop :=
  ∀ (s : State) (n : Nat) (f : Frag) (rest : List Frag), glzLive s n → (getGlz s n).frags = f :: rest →
    let gone (u : State) : Prop := (getGlz u n).frags = fragsAfter f rest ∧ (getGlz u n).pp = none
    ((getGlz s n).pp = none →
      (f.groups[f.next]? = none → ∃ u, exec (.fragmentRetire n []) s = .next u ∧ gone u
        ∧ (nextOnChip f rest → OnlyGlz s u n))
      ∧ (∀ g, f.groups[f.next]? = some g → g.mode = 2 → ∃ u, exec (.fragmentRetire n []) s = .next u
        ∧ (getGlz u n).pp = some { pc := g.pstart, regs := List.replicate 8 0, staged := [] }
        ∧ (getGlz u n).frags = f :: rest ∧ OnlyGlz s u n)
      ∧ (∀ g, f.groups[f.next]? = some g → g.mode = 1 → f.groups[f.next + 1]? = none →
        ∃ u, exec (.fragmentRetire n []) s = .next u ∧ gone u
          ∧ (nextOnChip f rest → u.mem = (blendOne s n f g).mem)))
    ∧ (∀ p w g, ppNow s n 0 = some (p, w, f, g) → p.bad = false → f.groups[f.next + 1]? = none →
      ∃ u, exec (.ppEnd n) s = .next u ∧ gone u ∧ (nextOnChip f rest →
        u.mem = (smpWrite s n f g (p.staged.filter (fun x => decide (x.1 < g.ch)))).mem))

/-- Error buckets, retirement, its log, and Fuller passes. -/
def Obligations.BucketsAndRetirement : Prop :=
  ∀ (s : State) (src : Src) (v : Word) (kind inst : Nat),
    (writeTaken s .scr 0x094 v → (getBkt s (fld v 2 0) (fld v 31 8)).retired = false →
      ∃ u, exec (.scrRetire src v) s = .next u ∧ (getBkt u (fld v 2 0) (fld v 31 8)).retired = true
        ∧ (getBkt u (fld v 2 0) (fld v 31 8)).level = bktThr s (fld v 2 0)
        ∧ (s.rlog.length < 32 → ∃ e ∈ u.rlog, e.w0 = rlogW0 (fld v 2 0) 2 (fld v 31 8) ∧ e.w1 = BitVec.ofNat 32 (nsOf s))
        ∧ u.mem = s.mem ∧ u.time = s.time)
    ∧ (writeTaken s .scr 0x0A4 1 → ∃ u, exec (.rlogPop src) s = .next u ∧ u.rlog = s.rlog.tail
      ∧ u = { s with regs := u.regs, rlog := u.rlog } ∧ RegsBut s u [regKey .scr 0x0A4])
    ∧ (∀ win, writeTaken s .scr (0x100 + 8 * (kind % 8) + (if win then 4 else 0)) v → s.buckets = [] →
      ∃ u, exec (.bucketThrWrite src kind win v) s = .next u
        ∧ (if win then bktWin u (kind % 8) = v.toNat else bktThr u (kind % 8) = fld v 15 0)
        ∧ RegsBut s u [regKey .scr (0x100 + 8 * (kind % 8) + (if win then 4 else 0))] ∧ OnlyRegs s u)
    ∧ (∀ b, writeTaken s .scr (0x100 + 8 * (kind % 8)) v → s.buckets = [(bktKey (kind % 8) inst, b)] → inst < 2 ^ 24 →
      fld v 15 0 ≠ 0 → fld v 15 0 ≤ b.level → b.retired = false → ∃ u, exec (.bucketThrWrite src kind false v) s = .next u
        ∧ (getBkt u (kind % 8) inst).retired = true ∧ (getBkt u (kind % 8) inst).level = fld v 15 0 ∧ u.mem = s.mem)
    ∧ (resourceExists s kind inst → leakNs (bktThr s kind) (bktWin s kind) ≠ 0 → (getBkt s kind inst).retired = false →
      ∃ u, exec (.bucketLeak kind inst) s = .next u ∧ (getBkt u kind inst).level = (getBkt s kind inst).level - 1
        ∧ (getBkt u kind inst).errs = (getBkt s kind inst).errs ∧ u.mem = s.mem ∧ u.tiles = s.tiles ∧ u.rlog = s.rlog)
    ∧ (rbit s .scr 0x080 0 → Due s (s.mgt.passAt + usTicks (1000 * s.mgt.passMs)) →
      let passed (u : State) : Prop := u.mgt = { s.mgt with passAt := eTime s, passMs := rfld s .scr 0x080 15 8 }
      (∃ u, exec (.fullerPass []) s = .next u
        ∧ rfld u .scr 0x08C 31 0 = Nat.min (rfld s .scr 0x08C 31 0 + 1) 0xFFFFFFFF ∧ RegsBut s u [regKey .scr 0x08C]
        ∧ passed u ∧ u = { s with regs := u.regs, mgt := u.mgt })
      ∧ (∀ d, diffSeen s d → diffUnused s d → ∃ u, exec (.fullerPass [d]) s = .next u
        ∧ rfld u .scr 0x088 15 0 = Nat.min (rfld s .scr 0x088 15 0 + 1) 0xFFFF
        ∧ RegsBut s u [regKey .scr 0x088, regKey .scr 0x08C] ∧ passed u
        ∧ u = { s with regs := u.regs, mgt := u.mgt })
      ∧ (∀ d, diffSeen s d → diffUnused s d = false → diffUnrep d = false → bktThr s 6 = 0 →
        ∃ u, exec (.fullerPass [d]) s = .next u ∧ rfld u .scr 0x088 23 16 = Nat.min (rfld s .scr 0x088 23 16 + 1) 0xFF
          ∧ (getBkt u 6 (diffInst d)).errs = Nat.min ((getBkt s 6 (diffInst d)).errs + 1) 0xFFFF
          ∧ RegsEvents s u [regKey .scr 0x088, regKey .scr 0x08C] ∧ passed u ∧ u.mem = s.mem
          ∧ u.tiles = s.tiles))

/-- Response timeouts, the release of a TAG, the tile watchdog, and the loss of VCORE; each at or after its deadline. -/
def Obligations.TimeoutsAndIsolation : Prop :=
  ∀ (s : State) (t : Nat),
    (∀ tag r d, stopped s (.mov t) = false → (getTile s t).movReqs = [r] → r.tag = tag → r.live → r.till = some d →
      Due s d → (getTile s t).trb = [] → (getTile s t).leaseHeld = [] → rbit s (.mov t) 0x010 1 = false → r.sink = false → r.kind = .posted ∨ r.kind = .wra → movQuiet (getTile s t) →
      r.lc < 4 → ∃ u, exec (.responseTimeout (.mov t tag)) s = .next u
        ∧ (getTile u t).movReqs = [{ r with dead := some (eTime s + usTicks (rtoUs s)) }]
        ∧ rbit u (.mov t) (0x0A0 + 4 * r.lc) 0 = true ∧ u.mem = s.mem)
    ∧ (∀ i x d, stopped s (.til t) = false → (getTile s t).leaseReq.find? (fun e => e.1 == i) = some (i, x, some d) →
      i < 3 → leaseState s t i = 1 → Due s d → ∃ u, exec (.responseTimeout (.til t i)) s = .next u
        ∧ leaseState u t i = 3 ∧ TileEvents s u [regKey (.til t) (0x100 + 4 * i)] t)
    ∧ (∀ tag r rest d, (getTile s t).movReqs = r :: rest → r.tag = tag → r.dead = some d → Due s d →
      (getTile s t).trb = [] → ∃ u, exec (.tagRelease t tag) s = .next u ∧ (getTile u t).movReqs = rest ∧ OnlyTile s u t ∧ RegsBut s u [])
    ∧ ((getTile s t).wdog ≠ 0 → (getTile s t).lreq ≠ [] → (getTile s t).stalled = none →
      stopped s (.til t) = false → isolated s t = false →
      Due s ((getTile s t).reqAt + usTicks (getTile s t).wdog) → ∃ u, exec (.watchdogExpiry t) s = .next u
        ∧ isolated u t = true ∧ rfld u (.til t) 0x084 4 2 = 2 ∧ (getTile u t).movQ = [] ∧ (getTile u t).cmpQ = []
        ∧ (getTile u t).cmbQ = [] ∧ TileEvents s u [regKey (.til t) 0x084] t)
    ∧ (isolated s t = false → ∃ u, exec (.vcorePowerLoss t) s = .next u ∧ isolated u t = true
      ∧ rfld u (.til t) 0x084 4 2 = 3 ∧ (getTile u t).powered = false ∧ (getTile u t).movQ = []
      ∧ TileEvents s u [regKey (.til t) 0x084] t)

/-- Stop, resume, freeze and unfreeze, by DBG_PKG_CTL, by the pin and from a link, and the halt of a block. -/
def Obligations.StopAndFreezeWaves : Prop :=
  ∀ (s : State) (src : Src) (p : Page) (n : Nat),
    let ctl := rawReg s .dbgp 0x080
    let forwards (k : Nat) : Prop := k < 24 ∧ linkUp s k ∧ rbit s (.llk k) 0x080 2
    (fld ctl 3 0 = 0 →
      (writeTaken s .dbgp 0x080 (ctl ||| 1) → s.dbg.stopped = false → ∃ u, exec (.stop src) s = .next u
        ∧ u.dbg.stopped = true ∧ u.dbg.cause = 1 ∧ rbit u .dbgp 0x094 1 = true
        ∧ (∀ k, forwards k → OutMsg.wave k 1 ∈ u.out) ∧ u.mem = s.mem ∧ u.tiles = s.tiles ∧ RegsEvents s u [])
      ∧ (writeTaken s .dbgp 0x080 (ctl ||| 2) → s.dbg.stopped → s.dbg.haltAt = [] → ∃ u, exec (.resume src) s = .next u
        ∧ u.dbg.stopped = false ∧ (∀ k, forwards k → OutMsg.wave k 2 ∈ u.out) ∧ u.mem = s.mem ∧ u.tiles = s.tiles
        ∧ RegsEvents s u [])
      ∧ (∀ h, writeTaken s .dbgp 0x080 (ctl ||| 2) → s.dbg.stopped → s.dbg.haltAt = [(pageBase p, h)] →
        pageAt (pageBase p) = some p → (∀ k, p ≠ .mov k ∧ p ≠ .cmb k ∧ p ≠ .llk k) →
        ∃ u, exec (.resume src) s = .next u ∧ u.dbg.haltAt = [] ∧ stopped u p = false ∧ u.mem = s.mem
          ∧ RegsEvents s u [regKey p 0x014])
      ∧ (writeTaken s .dbgp 0x080 (ctl ||| 4) → s.dbg.frozen = false → ∃ u, exec (.freeze src) s = .next u
        ∧ u.dbg.frozen = true ∧ (∀ k, forwards k → OutMsg.wave k 3 ∈ u.out) ∧ u.mem = s.mem ∧ u.tiles = s.tiles
        ∧ RegsEvents s u [])
      ∧ (writeTaken s .dbgp 0x080 (ctl ||| 8) → s.dbg.frozen → ∃ u, exec (.unfreeze src) s = .next u
        ∧ u.dbg.frozen = false ∧ (∀ k, forwards k → OutMsg.wave k 4 ∈ u.out) ∧ u.mem = s.mem ∧ u.tiles = s.tiles
        ∧ RegsEvents s u []))
    ∧ (fld ctl 8 8 = 1 → s.dbg.stopped = false → ∃ u, exec .stopInEdge s = .next u ∧ u.dbg.stopped = true ∧ u.dbg.cause = 2
      ∧ u.mem = s.mem ∧ u.tiles = s.tiles ∧ RegsEvents s u [])
    ∧ (fld ctl 8 8 = 0 → exec .stopInEdge s = .next s)
    ∧ (s.dbg.stopped → rbit s p 0x010 3 → stopped s p = false → pagePresent s p → ∃ u, exec (.blockHalt p) s = .next u
      ∧ stopped u p = true ∧ (pageBase p, eTime s) ∈ u.dbg.haltAt ∧ u.mem = s.mem ∧ u.tiles = s.tiles
      ∧ RegsEvents s u [regKey p 0x014])
    ∧ (forwards n → s.dbg.stopped = false → ∃ u, exec (.waveCode n 1) s = .next u ∧ u.dbg.stopped = true
      ∧ u.dbg.cause = 7 ∧ (∀ k, k ≠ n → forwards k → OutMsg.wave k 1 ∈ u.out) ∧ u.mem = s.mem ∧ u.tiles = s.tiles
      ∧ RegsEvents s u [])
    ∧ (forwards n → s.dbg.frozen = false → ∃ u, exec (.waveCode n 3) s = .next u ∧ u.dbg.frozen = true
      ∧ (∀ k, k ≠ n → forwards k → OutMsg.wave k 3 ∈ u.out) ∧ u.mem = s.mem ∧ u.tiles = s.tiles ∧ RegsEvents s u [])

/-- Sample records, and reads of the scan window by the host and by SCANWIN. -/
def Obligations.SamplesAndScans : Prop :=
  ∀ (s : State) (t : Nat) (addr : BitVec 25) (sel : Byte),
    let read (base : Nat) (c : Instr) : Prop :=
      let k := 64 * base + addr.toNat / 0x80000
      let o := addr.toNat % 0x80000 / 4 * 4
      (scanOpen s k = false → ∃ u, exec c s = .next u ∧ u.out = s.out ++ [.scan 0] ∧ rbit u .dbgp 0x0A4 0 = true
        ∧ RegsBut s u [regKey .dbgp 0x0A4] ∧ u = { s with regs := u.regs, out := u.out })
      ∧ (scanOpen s k → isolated s k = false → o < 0x30000 → exec c s = .next (emit s (.scan (scanTm s k o))))
      ∧ (scanOpen s k → isolated s k → o < 0x58000 → exec c s = .next (emit s (.scan 0)))
    (rfld s (.dbg t) 0x0A0 19 0 ≠ 0 → enabled s (.dbg t) → ∃ u, exec (.sampleRecord t) s = .next u
      ∧ (getTile u t).smpSeq = ((getTile s t).smpSeq + 1) % 65536
      ∧ (tracing s t → isolated s t = false → rfld s (.dbg t) 0x098 4 0 ≠ 0 → rfld s (.dbg t) 0x098 11 8 ≠ 0 → 5000 ≤ (getTile s t).obsTok →
        ∃ a, (getTile u t).out = (getTile s t).out ++ [a] ∧ a.opc = opTRACE ∧ a.len = 4 ∧ a.src = tileNode s t 0)
      ∧ u.mem = s.mem ∧ ∀ k, k ≠ t → getTile u k = getTile s k)
    ∧ read (rfld s .dbgp 0x0A0 7 0) (.scanRead addr.toNat) ∧ read sel.toNat (.scanwin addr sel)
    ∧ (∀ a bytes o, hostUp s → a % 4 = 0 → bytes.length = 4 → barAt s 2 a = .scan o →
      ∃ u, exec (.hostWrite 2 a bytes [true, true, true, true]) s = .next u ∧ rbit u .dbgp 0x0A4 1 = true
        ∧ RegsBut s u [regKey .dbgp 0x0A4] ∧ u = { s with regs := u.regs, hif := u.hif })
end

