-- ==== Sys2Proof/Laws/State.lean ====
section
/-! SUPPORT. What each update of the state leaves alone: one lemma per field and update, true by unfolding. -/

namespace Sys2Proof.Machine

@[simp] theorem setTile_fuses (s : State) (t : Nat) (x : Tile) : (setTile s t x).fuses = s.fuses := rfl
@[simp] theorem setTile_time (s : State) (t : Nat) (x : Tile) : (setTile s t x).time = s.time := rfl
@[simp] theorem setTile_regs (s : State) (t : Nat) (x : Tile) : (setTile s t x).regs = s.regs := rfl
@[simp] theorem setTile_latches (s : State) (t : Nat) (x : Tile) : (setTile s t x).latches = s.latches := rfl
@[simp] theorem setTile_mem (s : State) (t : Nat) (x : Tile) : (setTile s t x).mem = s.mem := rfl
@[simp] theorem setTile_ecc (s : State) (t : Nat) (x : Tile) : (setTile s t x).ecc = s.ecc := rfl
@[simp] theorem setTile_edges (s : State) (t : Nat) (x : Tile) : (setTile s t x).edges = s.edges := rfl
@[simp] theorem setTile_dies (s : State) (t : Nat) (x : Tile) : (setTile s t x).dies = s.dies := rfl
@[simp] theorem setTile_links (s : State) (t : Nat) (x : Tile) : (setTile s t x).links = s.links := rfl
@[simp] theorem setTile_eths (s : State) (t : Nat) (x : Tile) : (setTile s t x).eths = s.eths := rfl
@[simp] theorem setTile_glzs (s : State) (t : Nat) (x : Tile) : (setTile s t x).glzs = s.glzs := rfl
@[simp] theorem setTile_tkp (s : State) (t : Nat) (x : Tile) : (setTile s t x).tkp = s.tkp := rfl
@[simp] theorem setTile_rtc (s : State) (t : Nat) (x : Tile) : (setTile s t x).rtc = s.rtc := rfl
@[simp] theorem setTile_hif (s : State) (t : Nat) (x : Tile) : (setTile s t x).hif = s.hif := rfl
@[simp] theorem setTile_buckets (s : State) (t : Nat) (x : Tile) : (setTile s t x).buckets = s.buckets := rfl
@[simp] theorem setTile_rlog (s : State) (t : Nat) (x : Tile) : (setTile s t x).rlog = s.rlog := rfl
@[simp] theorem setTile_mgt (s : State) (t : Nat) (x : Tile) : (setTile s t x).mgt = s.mgt := rfl
@[simp] theorem setTile_dbg (s : State) (t : Nat) (x : Tile) : (setTile s t x).dbg = s.dbg := rfl
@[simp] theorem setTile_out (s : State) (t : Nat) (x : Tile) : (setTile s t x).out = s.out := rfl
@[simp] theorem setTile_free (s : State) (t : Nat) (x : Tile) : (setTile s t x).free = s.free := rfl
@[simp] theorem setTile_pending (s : State) (t : Nat) (x : Tile) : (setTile s t x).pending = s.pending := rfl

@[simp] theorem modTile_fuses (s : State) (t : Nat) (f : Tile → Tile) : (modTile s t f).fuses = s.fuses := rfl
@[simp] theorem modTile_time (s : State) (t : Nat) (f : Tile → Tile) : (modTile s t f).time = s.time := rfl
@[simp] theorem modTile_regs (s : State) (t : Nat) (f : Tile → Tile) : (modTile s t f).regs = s.regs := rfl
@[simp] theorem modTile_latches (s : State) (t : Nat) (f : Tile → Tile) : (modTile s t f).latches = s.latches := rfl
@[simp] theorem modTile_mem (s : State) (t : Nat) (f : Tile → Tile) : (modTile s t f).mem = s.mem := rfl
@[simp] theorem modTile_ecc (s : State) (t : Nat) (f : Tile → Tile) : (modTile s t f).ecc = s.ecc := rfl
@[simp] theorem modTile_edges (s : State) (t : Nat) (f : Tile → Tile) : (modTile s t f).edges = s.edges := rfl
@[simp] theorem modTile_dies (s : State) (t : Nat) (f : Tile → Tile) : (modTile s t f).dies = s.dies := rfl
@[simp] theorem modTile_links (s : State) (t : Nat) (f : Tile → Tile) : (modTile s t f).links = s.links := rfl
@[simp] theorem modTile_eths (s : State) (t : Nat) (f : Tile → Tile) : (modTile s t f).eths = s.eths := rfl
@[simp] theorem modTile_glzs (s : State) (t : Nat) (f : Tile → Tile) : (modTile s t f).glzs = s.glzs := rfl
@[simp] theorem modTile_tkp (s : State) (t : Nat) (f : Tile → Tile) : (modTile s t f).tkp = s.tkp := rfl
@[simp] theorem modTile_rtc (s : State) (t : Nat) (f : Tile → Tile) : (modTile s t f).rtc = s.rtc := rfl
@[simp] theorem modTile_hif (s : State) (t : Nat) (f : Tile → Tile) : (modTile s t f).hif = s.hif := rfl
@[simp] theorem modTile_buckets (s : State) (t : Nat) (f : Tile → Tile) : (modTile s t f).buckets = s.buckets := rfl
@[simp] theorem modTile_rlog (s : State) (t : Nat) (f : Tile → Tile) : (modTile s t f).rlog = s.rlog := rfl
@[simp] theorem modTile_mgt (s : State) (t : Nat) (f : Tile → Tile) : (modTile s t f).mgt = s.mgt := rfl
@[simp] theorem modTile_dbg (s : State) (t : Nat) (f : Tile → Tile) : (modTile s t f).dbg = s.dbg := rfl
@[simp] theorem modTile_out (s : State) (t : Nat) (f : Tile → Tile) : (modTile s t f).out = s.out := rfl
@[simp] theorem modTile_free (s : State) (t : Nat) (f : Tile → Tile) : (modTile s t f).free = s.free := rfl
@[simp] theorem modTile_pending (s : State) (t : Nat) (f : Tile → Tile) : (modTile s t f).pending = s.pending := rfl

@[simp] theorem modCtx_fuses (s : State) (t lc : Nat) (f : Ctx → Ctx) : (modCtx s t lc f).fuses = s.fuses := rfl
@[simp] theorem modCtx_time (s : State) (t lc : Nat) (f : Ctx → Ctx) : (modCtx s t lc f).time = s.time := rfl
@[simp] theorem modCtx_regs (s : State) (t lc : Nat) (f : Ctx → Ctx) : (modCtx s t lc f).regs = s.regs := rfl
@[simp] theorem modCtx_latches (s : State) (t lc : Nat) (f : Ctx → Ctx) : (modCtx s t lc f).latches = s.latches := rfl
@[simp] theorem modCtx_mem (s : State) (t lc : Nat) (f : Ctx → Ctx) : (modCtx s t lc f).mem = s.mem := rfl
@[simp] theorem modCtx_ecc (s : State) (t lc : Nat) (f : Ctx → Ctx) : (modCtx s t lc f).ecc = s.ecc := rfl
@[simp] theorem modCtx_edges (s : State) (t lc : Nat) (f : Ctx → Ctx) : (modCtx s t lc f).edges = s.edges := rfl
@[simp] theorem modCtx_dies (s : State) (t lc : Nat) (f : Ctx → Ctx) : (modCtx s t lc f).dies = s.dies := rfl
@[simp] theorem modCtx_links (s : State) (t lc : Nat) (f : Ctx → Ctx) : (modCtx s t lc f).links = s.links := rfl
@[simp] theorem modCtx_eths (s : State) (t lc : Nat) (f : Ctx → Ctx) : (modCtx s t lc f).eths = s.eths := rfl
@[simp] theorem modCtx_glzs (s : State) (t lc : Nat) (f : Ctx → Ctx) : (modCtx s t lc f).glzs = s.glzs := rfl
@[simp] theorem modCtx_tkp (s : State) (t lc : Nat) (f : Ctx → Ctx) : (modCtx s t lc f).tkp = s.tkp := rfl
@[simp] theorem modCtx_rtc (s : State) (t lc : Nat) (f : Ctx → Ctx) : (modCtx s t lc f).rtc = s.rtc := rfl
@[simp] theorem modCtx_hif (s : State) (t lc : Nat) (f : Ctx → Ctx) : (modCtx s t lc f).hif = s.hif := rfl
@[simp] theorem modCtx_buckets (s : State) (t lc : Nat) (f : Ctx → Ctx) : (modCtx s t lc f).buckets = s.buckets := rfl
@[simp] theorem modCtx_rlog (s : State) (t lc : Nat) (f : Ctx → Ctx) : (modCtx s t lc f).rlog = s.rlog := rfl
@[simp] theorem modCtx_mgt (s : State) (t lc : Nat) (f : Ctx → Ctx) : (modCtx s t lc f).mgt = s.mgt := rfl
@[simp] theorem modCtx_dbg (s : State) (t lc : Nat) (f : Ctx → Ctx) : (modCtx s t lc f).dbg = s.dbg := rfl
@[simp] theorem modCtx_out (s : State) (t lc : Nat) (f : Ctx → Ctx) : (modCtx s t lc f).out = s.out := rfl
@[simp] theorem modCtx_free (s : State) (t lc : Nat) (f : Ctx → Ctx) : (modCtx s t lc f).free = s.free := rfl
@[simp] theorem modCtx_pending (s : State) (t lc : Nat) (f : Ctx → Ctx) : (modCtx s t lc f).pending = s.pending := rfl

@[simp] theorem modCq_fuses (s : State) (t n : Nat) (f : Cq → Cq) : (modCq s t n f).fuses = s.fuses := rfl
@[simp] theorem modCq_time (s : State) (t n : Nat) (f : Cq → Cq) : (modCq s t n f).time = s.time := rfl
@[simp] theorem modCq_regs (s : State) (t n : Nat) (f : Cq → Cq) : (modCq s t n f).regs = s.regs := rfl
@[simp] theorem modCq_latches (s : State) (t n : Nat) (f : Cq → Cq) : (modCq s t n f).latches = s.latches := rfl
@[simp] theorem modCq_mem (s : State) (t n : Nat) (f : Cq → Cq) : (modCq s t n f).mem = s.mem := rfl
@[simp] theorem modCq_ecc (s : State) (t n : Nat) (f : Cq → Cq) : (modCq s t n f).ecc = s.ecc := rfl
@[simp] theorem modCq_edges (s : State) (t n : Nat) (f : Cq → Cq) : (modCq s t n f).edges = s.edges := rfl
@[simp] theorem modCq_dies (s : State) (t n : Nat) (f : Cq → Cq) : (modCq s t n f).dies = s.dies := rfl
@[simp] theorem modCq_links (s : State) (t n : Nat) (f : Cq → Cq) : (modCq s t n f).links = s.links := rfl
@[simp] theorem modCq_eths (s : State) (t n : Nat) (f : Cq → Cq) : (modCq s t n f).eths = s.eths := rfl
@[simp] theorem modCq_glzs (s : State) (t n : Nat) (f : Cq → Cq) : (modCq s t n f).glzs = s.glzs := rfl
@[simp] theorem modCq_tkp (s : State) (t n : Nat) (f : Cq → Cq) : (modCq s t n f).tkp = s.tkp := rfl
@[simp] theorem modCq_rtc (s : State) (t n : Nat) (f : Cq → Cq) : (modCq s t n f).rtc = s.rtc := rfl
@[simp] theorem modCq_hif (s : State) (t n : Nat) (f : Cq → Cq) : (modCq s t n f).hif = s.hif := rfl
@[simp] theorem modCq_buckets (s : State) (t n : Nat) (f : Cq → Cq) : (modCq s t n f).buckets = s.buckets := rfl
@[simp] theorem modCq_rlog (s : State) (t n : Nat) (f : Cq → Cq) : (modCq s t n f).rlog = s.rlog := rfl
@[simp] theorem modCq_mgt (s : State) (t n : Nat) (f : Cq → Cq) : (modCq s t n f).mgt = s.mgt := rfl
@[simp] theorem modCq_dbg (s : State) (t n : Nat) (f : Cq → Cq) : (modCq s t n f).dbg = s.dbg := rfl
@[simp] theorem modCq_out (s : State) (t n : Nat) (f : Cq → Cq) : (modCq s t n f).out = s.out := rfl
@[simp] theorem modCq_free (s : State) (t n : Nat) (f : Cq → Cq) : (modCq s t n f).free = s.free := rfl
@[simp] theorem modCq_pending (s : State) (t n : Nat) (f : Cq → Cq) : (modCq s t n f).pending = s.pending := rfl

@[simp] theorem setRin_fuses (s : State) (t port vc : Nat) (w : Option Worm) : (setRin s t port vc w).fuses = s.fuses := rfl
@[simp] theorem setRin_time (s : State) (t port vc : Nat) (w : Option Worm) : (setRin s t port vc w).time = s.time := rfl
@[simp] theorem setRin_regs (s : State) (t port vc : Nat) (w : Option Worm) : (setRin s t port vc w).regs = s.regs := rfl
@[simp] theorem setRin_latches (s : State) (t port vc : Nat) (w : Option Worm) : (setRin s t port vc w).latches = s.latches := rfl
@[simp] theorem setRin_mem (s : State) (t port vc : Nat) (w : Option Worm) : (setRin s t port vc w).mem = s.mem := rfl
@[simp] theorem setRin_ecc (s : State) (t port vc : Nat) (w : Option Worm) : (setRin s t port vc w).ecc = s.ecc := rfl
@[simp] theorem setRin_edges (s : State) (t port vc : Nat) (w : Option Worm) : (setRin s t port vc w).edges = s.edges := rfl
@[simp] theorem setRin_dies (s : State) (t port vc : Nat) (w : Option Worm) : (setRin s t port vc w).dies = s.dies := rfl
@[simp] theorem setRin_links (s : State) (t port vc : Nat) (w : Option Worm) : (setRin s t port vc w).links = s.links := rfl
@[simp] theorem setRin_eths (s : State) (t port vc : Nat) (w : Option Worm) : (setRin s t port vc w).eths = s.eths := rfl
@[simp] theorem setRin_glzs (s : State) (t port vc : Nat) (w : Option Worm) : (setRin s t port vc w).glzs = s.glzs := rfl
@[simp] theorem setRin_tkp (s : State) (t port vc : Nat) (w : Option Worm) : (setRin s t port vc w).tkp = s.tkp := rfl
@[simp] theorem setRin_rtc (s : State) (t port vc : Nat) (w : Option Worm) : (setRin s t port vc w).rtc = s.rtc := rfl
@[simp] theorem setRin_hif (s : State) (t port vc : Nat) (w : Option Worm) : (setRin s t port vc w).hif = s.hif := rfl
@[simp] theorem setRin_buckets (s : State) (t port vc : Nat) (w : Option Worm) : (setRin s t port vc w).buckets = s.buckets := rfl
@[simp] theorem setRin_rlog (s : State) (t port vc : Nat) (w : Option Worm) : (setRin s t port vc w).rlog = s.rlog := rfl
@[simp] theorem setRin_mgt (s : State) (t port vc : Nat) (w : Option Worm) : (setRin s t port vc w).mgt = s.mgt := rfl
@[simp] theorem setRin_dbg (s : State) (t port vc : Nat) (w : Option Worm) : (setRin s t port vc w).dbg = s.dbg := rfl
@[simp] theorem setRin_out (s : State) (t port vc : Nat) (w : Option Worm) : (setRin s t port vc w).out = s.out := rfl
@[simp] theorem setRin_free (s : State) (t port vc : Nat) (w : Option Worm) : (setRin s t port vc w).free = s.free := rfl
@[simp] theorem setRin_pending (s : State) (t port vc : Nat) (w : Option Worm) : (setRin s t port vc w).pending = s.pending := rfl

@[simp] theorem modEdge_fuses (s : State) (x e : Nat) (f : Edge → Edge) : (modEdge s x e f).fuses = s.fuses := rfl
@[simp] theorem modEdge_time (s : State) (x e : Nat) (f : Edge → Edge) : (modEdge s x e f).time = s.time := rfl
@[simp] theorem modEdge_regs (s : State) (x e : Nat) (f : Edge → Edge) : (modEdge s x e f).regs = s.regs := rfl
@[simp] theorem modEdge_latches (s : State) (x e : Nat) (f : Edge → Edge) : (modEdge s x e f).latches = s.latches := rfl
@[simp] theorem modEdge_mem (s : State) (x e : Nat) (f : Edge → Edge) : (modEdge s x e f).mem = s.mem := rfl
@[simp] theorem modEdge_ecc (s : State) (x e : Nat) (f : Edge → Edge) : (modEdge s x e f).ecc = s.ecc := rfl
@[simp] theorem modEdge_tiles (s : State) (x e : Nat) (f : Edge → Edge) : (modEdge s x e f).tiles = s.tiles := rfl
@[simp] theorem modEdge_dies (s : State) (x e : Nat) (f : Edge → Edge) : (modEdge s x e f).dies = s.dies := rfl
@[simp] theorem modEdge_links (s : State) (x e : Nat) (f : Edge → Edge) : (modEdge s x e f).links = s.links := rfl
@[simp] theorem modEdge_eths (s : State) (x e : Nat) (f : Edge → Edge) : (modEdge s x e f).eths = s.eths := rfl
@[simp] theorem modEdge_glzs (s : State) (x e : Nat) (f : Edge → Edge) : (modEdge s x e f).glzs = s.glzs := rfl
@[simp] theorem modEdge_tkp (s : State) (x e : Nat) (f : Edge → Edge) : (modEdge s x e f).tkp = s.tkp := rfl
@[simp] theorem modEdge_rtc (s : State) (x e : Nat) (f : Edge → Edge) : (modEdge s x e f).rtc = s.rtc := rfl
@[simp] theorem modEdge_hif (s : State) (x e : Nat) (f : Edge → Edge) : (modEdge s x e f).hif = s.hif := rfl
@[simp] theorem modEdge_buckets (s : State) (x e : Nat) (f : Edge → Edge) : (modEdge s x e f).buckets = s.buckets := rfl
@[simp] theorem modEdge_rlog (s : State) (x e : Nat) (f : Edge → Edge) : (modEdge s x e f).rlog = s.rlog := rfl
@[simp] theorem modEdge_mgt (s : State) (x e : Nat) (f : Edge → Edge) : (modEdge s x e f).mgt = s.mgt := rfl
@[simp] theorem modEdge_dbg (s : State) (x e : Nat) (f : Edge → Edge) : (modEdge s x e f).dbg = s.dbg := rfl
@[simp] theorem modEdge_out (s : State) (x e : Nat) (f : Edge → Edge) : (modEdge s x e f).out = s.out := rfl
@[simp] theorem modEdge_free (s : State) (x e : Nat) (f : Edge → Edge) : (modEdge s x e f).free = s.free := rfl
@[simp] theorem modEdge_pending (s : State) (x e : Nat) (f : Edge → Edge) : (modEdge s x e f).pending = s.pending := rfl

@[simp] theorem modDie_fuses (s : State) (d : Nat) (f : Die → Die) : (modDie s d f).fuses = s.fuses := rfl
@[simp] theorem modDie_time (s : State) (d : Nat) (f : Die → Die) : (modDie s d f).time = s.time := rfl
@[simp] theorem modDie_regs (s : State) (d : Nat) (f : Die → Die) : (modDie s d f).regs = s.regs := rfl
@[simp] theorem modDie_latches (s : State) (d : Nat) (f : Die → Die) : (modDie s d f).latches = s.latches := rfl
@[simp] theorem modDie_mem (s : State) (d : Nat) (f : Die → Die) : (modDie s d f).mem = s.mem := rfl
@[simp] theorem modDie_ecc (s : State) (d : Nat) (f : Die → Die) : (modDie s d f).ecc = s.ecc := rfl
@[simp] theorem modDie_tiles (s : State) (d : Nat) (f : Die → Die) : (modDie s d f).tiles = s.tiles := rfl
@[simp] theorem modDie_edges (s : State) (d : Nat) (f : Die → Die) : (modDie s d f).edges = s.edges := rfl
@[simp] theorem modDie_links (s : State) (d : Nat) (f : Die → Die) : (modDie s d f).links = s.links := rfl
@[simp] theorem modDie_eths (s : State) (d : Nat) (f : Die → Die) : (modDie s d f).eths = s.eths := rfl
@[simp] theorem modDie_glzs (s : State) (d : Nat) (f : Die → Die) : (modDie s d f).glzs = s.glzs := rfl
@[simp] theorem modDie_tkp (s : State) (d : Nat) (f : Die → Die) : (modDie s d f).tkp = s.tkp := rfl
@[simp] theorem modDie_rtc (s : State) (d : Nat) (f : Die → Die) : (modDie s d f).rtc = s.rtc := rfl
@[simp] theorem modDie_hif (s : State) (d : Nat) (f : Die → Die) : (modDie s d f).hif = s.hif := rfl
@[simp] theorem modDie_buckets (s : State) (d : Nat) (f : Die → Die) : (modDie s d f).buckets = s.buckets := rfl
@[simp] theorem modDie_rlog (s : State) (d : Nat) (f : Die → Die) : (modDie s d f).rlog = s.rlog := rfl
@[simp] theorem modDie_mgt (s : State) (d : Nat) (f : Die → Die) : (modDie s d f).mgt = s.mgt := rfl
@[simp] theorem modDie_dbg (s : State) (d : Nat) (f : Die → Die) : (modDie s d f).dbg = s.dbg := rfl
@[simp] theorem modDie_out (s : State) (d : Nat) (f : Die → Die) : (modDie s d f).out = s.out := rfl
@[simp] theorem modDie_free (s : State) (d : Nat) (f : Die → Die) : (modDie s d f).free = s.free := rfl
@[simp] theorem modDie_pending (s : State) (d : Nat) (f : Die → Die) : (modDie s d f).pending = s.pending := rfl

@[simp] theorem modLink_fuses (s : State) (n : Nat) (f : Link → Link) : (modLink s n f).fuses = s.fuses := rfl
@[simp] theorem modLink_time (s : State) (n : Nat) (f : Link → Link) : (modLink s n f).time = s.time := rfl
@[simp] theorem modLink_regs (s : State) (n : Nat) (f : Link → Link) : (modLink s n f).regs = s.regs := rfl
@[simp] theorem modLink_latches (s : State) (n : Nat) (f : Link → Link) : (modLink s n f).latches = s.latches := rfl
@[simp] theorem modLink_mem (s : State) (n : Nat) (f : Link → Link) : (modLink s n f).mem = s.mem := rfl
@[simp] theorem modLink_ecc (s : State) (n : Nat) (f : Link → Link) : (modLink s n f).ecc = s.ecc := rfl
@[simp] theorem modLink_tiles (s : State) (n : Nat) (f : Link → Link) : (modLink s n f).tiles = s.tiles := rfl
@[simp] theorem modLink_edges (s : State) (n : Nat) (f : Link → Link) : (modLink s n f).edges = s.edges := rfl
@[simp] theorem modLink_dies (s : State) (n : Nat) (f : Link → Link) : (modLink s n f).dies = s.dies := rfl
@[simp] theorem modLink_eths (s : State) (n : Nat) (f : Link → Link) : (modLink s n f).eths = s.eths := rfl
@[simp] theorem modLink_glzs (s : State) (n : Nat) (f : Link → Link) : (modLink s n f).glzs = s.glzs := rfl
@[simp] theorem modLink_tkp (s : State) (n : Nat) (f : Link → Link) : (modLink s n f).tkp = s.tkp := rfl
@[simp] theorem modLink_rtc (s : State) (n : Nat) (f : Link → Link) : (modLink s n f).rtc = s.rtc := rfl
@[simp] theorem modLink_hif (s : State) (n : Nat) (f : Link → Link) : (modLink s n f).hif = s.hif := rfl
@[simp] theorem modLink_buckets (s : State) (n : Nat) (f : Link → Link) : (modLink s n f).buckets = s.buckets := rfl
@[simp] theorem modLink_rlog (s : State) (n : Nat) (f : Link → Link) : (modLink s n f).rlog = s.rlog := rfl
@[simp] theorem modLink_mgt (s : State) (n : Nat) (f : Link → Link) : (modLink s n f).mgt = s.mgt := rfl
@[simp] theorem modLink_dbg (s : State) (n : Nat) (f : Link → Link) : (modLink s n f).dbg = s.dbg := rfl
@[simp] theorem modLink_out (s : State) (n : Nat) (f : Link → Link) : (modLink s n f).out = s.out := rfl
@[simp] theorem modLink_free (s : State) (n : Nat) (f : Link → Link) : (modLink s n f).free = s.free := rfl
@[simp] theorem modLink_pending (s : State) (n : Nat) (f : Link → Link) : (modLink s n f).pending = s.pending := rfl

@[simp] theorem modEth_fuses (s : State) (n : Nat) (f : Eth → Eth) : (modEth s n f).fuses = s.fuses := rfl
@[simp] theorem modEth_time (s : State) (n : Nat) (f : Eth → Eth) : (modEth s n f).time = s.time := rfl
@[simp] theorem modEth_regs (s : State) (n : Nat) (f : Eth → Eth) : (modEth s n f).regs = s.regs := rfl
@[simp] theorem modEth_latches (s : State) (n : Nat) (f : Eth → Eth) : (modEth s n f).latches = s.latches := rfl
@[simp] theorem modEth_mem (s : State) (n : Nat) (f : Eth → Eth) : (modEth s n f).mem = s.mem := rfl
@[simp] theorem modEth_ecc (s : State) (n : Nat) (f : Eth → Eth) : (modEth s n f).ecc = s.ecc := rfl
@[simp] theorem modEth_tiles (s : State) (n : Nat) (f : Eth → Eth) : (modEth s n f).tiles = s.tiles := rfl
@[simp] theorem modEth_edges (s : State) (n : Nat) (f : Eth → Eth) : (modEth s n f).edges = s.edges := rfl
@[simp] theorem modEth_dies (s : State) (n : Nat) (f : Eth → Eth) : (modEth s n f).dies = s.dies := rfl
@[simp] theorem modEth_links (s : State) (n : Nat) (f : Eth → Eth) : (modEth s n f).links = s.links := rfl
@[simp] theorem modEth_glzs (s : State) (n : Nat) (f : Eth → Eth) : (modEth s n f).glzs = s.glzs := rfl
@[simp] theorem modEth_tkp (s : State) (n : Nat) (f : Eth → Eth) : (modEth s n f).tkp = s.tkp := rfl
@[simp] theorem modEth_rtc (s : State) (n : Nat) (f : Eth → Eth) : (modEth s n f).rtc = s.rtc := rfl
@[simp] theorem modEth_hif (s : State) (n : Nat) (f : Eth → Eth) : (modEth s n f).hif = s.hif := rfl
@[simp] theorem modEth_buckets (s : State) (n : Nat) (f : Eth → Eth) : (modEth s n f).buckets = s.buckets := rfl
@[simp] theorem modEth_rlog (s : State) (n : Nat) (f : Eth → Eth) : (modEth s n f).rlog = s.rlog := rfl
@[simp] theorem modEth_mgt (s : State) (n : Nat) (f : Eth → Eth) : (modEth s n f).mgt = s.mgt := rfl
@[simp] theorem modEth_dbg (s : State) (n : Nat) (f : Eth → Eth) : (modEth s n f).dbg = s.dbg := rfl
@[simp] theorem modEth_out (s : State) (n : Nat) (f : Eth → Eth) : (modEth s n f).out = s.out := rfl
@[simp] theorem modEth_free (s : State) (n : Nat) (f : Eth → Eth) : (modEth s n f).free = s.free := rfl
@[simp] theorem modEth_pending (s : State) (n : Nat) (f : Eth → Eth) : (modEth s n f).pending = s.pending := rfl

@[simp] theorem modGlz_fuses (s : State) (n : Nat) (f : Glz → Glz) : (modGlz s n f).fuses = s.fuses := rfl
@[simp] theorem modGlz_time (s : State) (n : Nat) (f : Glz → Glz) : (modGlz s n f).time = s.time := rfl
@[simp] theorem modGlz_regs (s : State) (n : Nat) (f : Glz → Glz) : (modGlz s n f).regs = s.regs := rfl
@[simp] theorem modGlz_latches (s : State) (n : Nat) (f : Glz → Glz) : (modGlz s n f).latches = s.latches := rfl
@[simp] theorem modGlz_mem (s : State) (n : Nat) (f : Glz → Glz) : (modGlz s n f).mem = s.mem := rfl
@[simp] theorem modGlz_ecc (s : State) (n : Nat) (f : Glz → Glz) : (modGlz s n f).ecc = s.ecc := rfl
@[simp] theorem modGlz_tiles (s : State) (n : Nat) (f : Glz → Glz) : (modGlz s n f).tiles = s.tiles := rfl
@[simp] theorem modGlz_edges (s : State) (n : Nat) (f : Glz → Glz) : (modGlz s n f).edges = s.edges := rfl
@[simp] theorem modGlz_dies (s : State) (n : Nat) (f : Glz → Glz) : (modGlz s n f).dies = s.dies := rfl
@[simp] theorem modGlz_links (s : State) (n : Nat) (f : Glz → Glz) : (modGlz s n f).links = s.links := rfl
@[simp] theorem modGlz_eths (s : State) (n : Nat) (f : Glz → Glz) : (modGlz s n f).eths = s.eths := rfl
@[simp] theorem modGlz_tkp (s : State) (n : Nat) (f : Glz → Glz) : (modGlz s n f).tkp = s.tkp := rfl
@[simp] theorem modGlz_rtc (s : State) (n : Nat) (f : Glz → Glz) : (modGlz s n f).rtc = s.rtc := rfl
@[simp] theorem modGlz_hif (s : State) (n : Nat) (f : Glz → Glz) : (modGlz s n f).hif = s.hif := rfl
@[simp] theorem modGlz_buckets (s : State) (n : Nat) (f : Glz → Glz) : (modGlz s n f).buckets = s.buckets := rfl
@[simp] theorem modGlz_rlog (s : State) (n : Nat) (f : Glz → Glz) : (modGlz s n f).rlog = s.rlog := rfl
@[simp] theorem modGlz_mgt (s : State) (n : Nat) (f : Glz → Glz) : (modGlz s n f).mgt = s.mgt := rfl
@[simp] theorem modGlz_dbg (s : State) (n : Nat) (f : Glz → Glz) : (modGlz s n f).dbg = s.dbg := rfl
@[simp] theorem modGlz_out (s : State) (n : Nat) (f : Glz → Glz) : (modGlz s n f).out = s.out := rfl
@[simp] theorem modGlz_free (s : State) (n : Nat) (f : Glz → Glz) : (modGlz s n f).free = s.free := rfl
@[simp] theorem modGlz_pending (s : State) (n : Nat) (f : Glz → Glz) : (modGlz s n f).pending = s.pending := rfl

@[simp] theorem modAcc_fuses (s : State) (n : Nat) (f : Acc → Acc) : (modAcc s n f).fuses = s.fuses := rfl
@[simp] theorem modAcc_time (s : State) (n : Nat) (f : Acc → Acc) : (modAcc s n f).time = s.time := rfl
@[simp] theorem modAcc_regs (s : State) (n : Nat) (f : Acc → Acc) : (modAcc s n f).regs = s.regs := rfl
@[simp] theorem modAcc_latches (s : State) (n : Nat) (f : Acc → Acc) : (modAcc s n f).latches = s.latches := rfl
@[simp] theorem modAcc_mem (s : State) (n : Nat) (f : Acc → Acc) : (modAcc s n f).mem = s.mem := rfl
@[simp] theorem modAcc_ecc (s : State) (n : Nat) (f : Acc → Acc) : (modAcc s n f).ecc = s.ecc := rfl
@[simp] theorem modAcc_tiles (s : State) (n : Nat) (f : Acc → Acc) : (modAcc s n f).tiles = s.tiles := rfl
@[simp] theorem modAcc_edges (s : State) (n : Nat) (f : Acc → Acc) : (modAcc s n f).edges = s.edges := rfl
@[simp] theorem modAcc_dies (s : State) (n : Nat) (f : Acc → Acc) : (modAcc s n f).dies = s.dies := rfl
@[simp] theorem modAcc_links (s : State) (n : Nat) (f : Acc → Acc) : (modAcc s n f).links = s.links := rfl
@[simp] theorem modAcc_eths (s : State) (n : Nat) (f : Acc → Acc) : (modAcc s n f).eths = s.eths := rfl
@[simp] theorem modAcc_glzs (s : State) (n : Nat) (f : Acc → Acc) : (modAcc s n f).glzs = s.glzs := rfl
@[simp] theorem modAcc_rtc (s : State) (n : Nat) (f : Acc → Acc) : (modAcc s n f).rtc = s.rtc := rfl
@[simp] theorem modAcc_hif (s : State) (n : Nat) (f : Acc → Acc) : (modAcc s n f).hif = s.hif := rfl
@[simp] theorem modAcc_buckets (s : State) (n : Nat) (f : Acc → Acc) : (modAcc s n f).buckets = s.buckets := rfl
@[simp] theorem modAcc_rlog (s : State) (n : Nat) (f : Acc → Acc) : (modAcc s n f).rlog = s.rlog := rfl
@[simp] theorem modAcc_mgt (s : State) (n : Nat) (f : Acc → Acc) : (modAcc s n f).mgt = s.mgt := rfl
@[simp] theorem modAcc_dbg (s : State) (n : Nat) (f : Acc → Acc) : (modAcc s n f).dbg = s.dbg := rfl
@[simp] theorem modAcc_out (s : State) (n : Nat) (f : Acc → Acc) : (modAcc s n f).out = s.out := rfl
@[simp] theorem modAcc_free (s : State) (n : Nat) (f : Acc → Acc) : (modAcc s n f).free = s.free := rfl
@[simp] theorem modAcc_pending (s : State) (n : Nat) (f : Acc → Acc) : (modAcc s n f).pending = s.pending := rfl

@[simp] theorem putReg_fuses (s : State) (p : Page) (o : Nat) (v : Word) : (putReg s p o v).fuses = s.fuses := rfl
@[simp] theorem putReg_time (s : State) (p : Page) (o : Nat) (v : Word) : (putReg s p o v).time = s.time := rfl
@[simp] theorem putReg_latches (s : State) (p : Page) (o : Nat) (v : Word) : (putReg s p o v).latches = s.latches := rfl
@[simp] theorem putReg_mem (s : State) (p : Page) (o : Nat) (v : Word) : (putReg s p o v).mem = s.mem := rfl
@[simp] theorem putReg_ecc (s : State) (p : Page) (o : Nat) (v : Word) : (putReg s p o v).ecc = s.ecc := rfl
@[simp] theorem putReg_tiles (s : State) (p : Page) (o : Nat) (v : Word) : (putReg s p o v).tiles = s.tiles := rfl
@[simp] theorem putReg_edges (s : State) (p : Page) (o : Nat) (v : Word) : (putReg s p o v).edges = s.edges := rfl
@[simp] theorem putReg_dies (s : State) (p : Page) (o : Nat) (v : Word) : (putReg s p o v).dies = s.dies := rfl
@[simp] theorem putReg_links (s : State) (p : Page) (o : Nat) (v : Word) : (putReg s p o v).links = s.links := rfl
@[simp] theorem putReg_eths (s : State) (p : Page) (o : Nat) (v : Word) : (putReg s p o v).eths = s.eths := rfl
@[simp] theorem putReg_glzs (s : State) (p : Page) (o : Nat) (v : Word) : (putReg s p o v).glzs = s.glzs := rfl
@[simp] theorem putReg_tkp (s : State) (p : Page) (o : Nat) (v : Word) : (putReg s p o v).tkp = s.tkp := rfl
@[simp] theorem putReg_rtc (s : State) (p : Page) (o : Nat) (v : Word) : (putReg s p o v).rtc = s.rtc := rfl
@[simp] theorem putReg_hif (s : State) (p : Page) (o : Nat) (v : Word) : (putReg s p o v).hif = s.hif := rfl
@[simp] theorem putReg_buckets (s : State) (p : Page) (o : Nat) (v : Word) : (putReg s p o v).buckets = s.buckets := rfl
@[simp] theorem putReg_rlog (s : State) (p : Page) (o : Nat) (v : Word) : (putReg s p o v).rlog = s.rlog := rfl
@[simp] theorem putReg_mgt (s : State) (p : Page) (o : Nat) (v : Word) : (putReg s p o v).mgt = s.mgt := rfl
@[simp] theorem putReg_dbg (s : State) (p : Page) (o : Nat) (v : Word) : (putReg s p o v).dbg = s.dbg := rfl
@[simp] theorem putReg_out (s : State) (p : Page) (o : Nat) (v : Word) : (putReg s p o v).out = s.out := rfl
@[simp] theorem putReg_free (s : State) (p : Page) (o : Nat) (v : Word) : (putReg s p o v).free = s.free := rfl
@[simp] theorem putReg_pending (s : State) (p : Page) (o : Nat) (v : Word) : (putReg s p o v).pending = s.pending := rfl

@[simp] theorem putFld_fuses (s : State) (p : Page) (o hi lo x : Nat) : (putFld s p o hi lo x).fuses = s.fuses := rfl
@[simp] theorem putFld_time (s : State) (p : Page) (o hi lo x : Nat) : (putFld s p o hi lo x).time = s.time := rfl
@[simp] theorem putFld_latches (s : State) (p : Page) (o hi lo x : Nat) : (putFld s p o hi lo x).latches = s.latches := rfl
@[simp] theorem putFld_mem (s : State) (p : Page) (o hi lo x : Nat) : (putFld s p o hi lo x).mem = s.mem := rfl
@[simp] theorem putFld_ecc (s : State) (p : Page) (o hi lo x : Nat) : (putFld s p o hi lo x).ecc = s.ecc := rfl
@[simp] theorem putFld_tiles (s : State) (p : Page) (o hi lo x : Nat) : (putFld s p o hi lo x).tiles = s.tiles := rfl
@[simp] theorem putFld_edges (s : State) (p : Page) (o hi lo x : Nat) : (putFld s p o hi lo x).edges = s.edges := rfl
@[simp] theorem putFld_dies (s : State) (p : Page) (o hi lo x : Nat) : (putFld s p o hi lo x).dies = s.dies := rfl
@[simp] theorem putFld_links (s : State) (p : Page) (o hi lo x : Nat) : (putFld s p o hi lo x).links = s.links := rfl
@[simp] theorem putFld_eths (s : State) (p : Page) (o hi lo x : Nat) : (putFld s p o hi lo x).eths = s.eths := rfl
@[simp] theorem putFld_glzs (s : State) (p : Page) (o hi lo x : Nat) : (putFld s p o hi lo x).glzs = s.glzs := rfl
@[simp] theorem putFld_tkp (s : State) (p : Page) (o hi lo x : Nat) : (putFld s p o hi lo x).tkp = s.tkp := rfl
@[simp] theorem putFld_rtc (s : State) (p : Page) (o hi lo x : Nat) : (putFld s p o hi lo x).rtc = s.rtc := rfl
@[simp] theorem putFld_hif (s : State) (p : Page) (o hi lo x : Nat) : (putFld s p o hi lo x).hif = s.hif := rfl
@[simp] theorem putFld_buckets (s : State) (p : Page) (o hi lo x : Nat) : (putFld s p o hi lo x).buckets = s.buckets := rfl
@[simp] theorem putFld_rlog (s : State) (p : Page) (o hi lo x : Nat) : (putFld s p o hi lo x).rlog = s.rlog := rfl
@[simp] theorem putFld_mgt (s : State) (p : Page) (o hi lo x : Nat) : (putFld s p o hi lo x).mgt = s.mgt := rfl
@[simp] theorem putFld_dbg (s : State) (p : Page) (o hi lo x : Nat) : (putFld s p o hi lo x).dbg = s.dbg := rfl
@[simp] theorem putFld_out (s : State) (p : Page) (o hi lo x : Nat) : (putFld s p o hi lo x).out = s.out := rfl
@[simp] theorem putFld_free (s : State) (p : Page) (o hi lo x : Nat) : (putFld s p o hi lo x).free = s.free := rfl
@[simp] theorem putFld_pending (s : State) (p : Page) (o hi lo x : Nat) : (putFld s p o hi lo x).pending = s.pending := rfl

@[simp] theorem putBit_fuses (s : State) (p : Page) (o b : Nat) (v : Bool) : (putBit s p o b v).fuses = s.fuses := rfl
@[simp] theorem putBit_time (s : State) (p : Page) (o b : Nat) (v : Bool) : (putBit s p o b v).time = s.time := rfl
@[simp] theorem putBit_latches (s : State) (p : Page) (o b : Nat) (v : Bool) : (putBit s p o b v).latches = s.latches := rfl
@[simp] theorem putBit_mem (s : State) (p : Page) (o b : Nat) (v : Bool) : (putBit s p o b v).mem = s.mem := rfl
@[simp] theorem putBit_ecc (s : State) (p : Page) (o b : Nat) (v : Bool) : (putBit s p o b v).ecc = s.ecc := rfl
@[simp] theorem putBit_tiles (s : State) (p : Page) (o b : Nat) (v : Bool) : (putBit s p o b v).tiles = s.tiles := rfl
@[simp] theorem putBit_edges (s : State) (p : Page) (o b : Nat) (v : Bool) : (putBit s p o b v).edges = s.edges := rfl
@[simp] theorem putBit_dies (s : State) (p : Page) (o b : Nat) (v : Bool) : (putBit s p o b v).dies = s.dies := rfl
@[simp] theorem putBit_links (s : State) (p : Page) (o b : Nat) (v : Bool) : (putBit s p o b v).links = s.links := rfl
@[simp] theorem putBit_eths (s : State) (p : Page) (o b : Nat) (v : Bool) : (putBit s p o b v).eths = s.eths := rfl
@[simp] theorem putBit_glzs (s : State) (p : Page) (o b : Nat) (v : Bool) : (putBit s p o b v).glzs = s.glzs := rfl
@[simp] theorem putBit_tkp (s : State) (p : Page) (o b : Nat) (v : Bool) : (putBit s p o b v).tkp = s.tkp := rfl
@[simp] theorem putBit_rtc (s : State) (p : Page) (o b : Nat) (v : Bool) : (putBit s p o b v).rtc = s.rtc := rfl
@[simp] theorem putBit_hif (s : State) (p : Page) (o b : Nat) (v : Bool) : (putBit s p o b v).hif = s.hif := rfl
@[simp] theorem putBit_buckets (s : State) (p : Page) (o b : Nat) (v : Bool) : (putBit s p o b v).buckets = s.buckets := rfl
@[simp] theorem putBit_rlog (s : State) (p : Page) (o b : Nat) (v : Bool) : (putBit s p o b v).rlog = s.rlog := rfl
@[simp] theorem putBit_mgt (s : State) (p : Page) (o b : Nat) (v : Bool) : (putBit s p o b v).mgt = s.mgt := rfl
@[simp] theorem putBit_dbg (s : State) (p : Page) (o b : Nat) (v : Bool) : (putBit s p o b v).dbg = s.dbg := rfl
@[simp] theorem putBit_out (s : State) (p : Page) (o b : Nat) (v : Bool) : (putBit s p o b v).out = s.out := rfl
@[simp] theorem putBit_free (s : State) (p : Page) (o b : Nat) (v : Bool) : (putBit s p o b v).free = s.free := rfl
@[simp] theorem putBit_pending (s : State) (p : Page) (o b : Nat) (v : Bool) : (putBit s p o b v).pending = s.pending := rfl

@[simp] theorem addFld_fuses (s : State) (p : Page) (o hi lo n : Nat) : (addFld s p o hi lo n).fuses = s.fuses := rfl
@[simp] theorem addFld_time (s : State) (p : Page) (o hi lo n : Nat) : (addFld s p o hi lo n).time = s.time := rfl
@[simp] theorem addFld_latches (s : State) (p : Page) (o hi lo n : Nat) : (addFld s p o hi lo n).latches = s.latches := rfl
@[simp] theorem addFld_mem (s : State) (p : Page) (o hi lo n : Nat) : (addFld s p o hi lo n).mem = s.mem := rfl
@[simp] theorem addFld_ecc (s : State) (p : Page) (o hi lo n : Nat) : (addFld s p o hi lo n).ecc = s.ecc := rfl
@[simp] theorem addFld_tiles (s : State) (p : Page) (o hi lo n : Nat) : (addFld s p o hi lo n).tiles = s.tiles := rfl
@[simp] theorem addFld_edges (s : State) (p : Page) (o hi lo n : Nat) : (addFld s p o hi lo n).edges = s.edges := rfl
@[simp] theorem addFld_dies (s : State) (p : Page) (o hi lo n : Nat) : (addFld s p o hi lo n).dies = s.dies := rfl
@[simp] theorem addFld_links (s : State) (p : Page) (o hi lo n : Nat) : (addFld s p o hi lo n).links = s.links := rfl
@[simp] theorem addFld_eths (s : State) (p : Page) (o hi lo n : Nat) : (addFld s p o hi lo n).eths = s.eths := rfl
@[simp] theorem addFld_glzs (s : State) (p : Page) (o hi lo n : Nat) : (addFld s p o hi lo n).glzs = s.glzs := rfl
@[simp] theorem addFld_tkp (s : State) (p : Page) (o hi lo n : Nat) : (addFld s p o hi lo n).tkp = s.tkp := rfl
@[simp] theorem addFld_rtc (s : State) (p : Page) (o hi lo n : Nat) : (addFld s p o hi lo n).rtc = s.rtc := rfl
@[simp] theorem addFld_hif (s : State) (p : Page) (o hi lo n : Nat) : (addFld s p o hi lo n).hif = s.hif := rfl
@[simp] theorem addFld_buckets (s : State) (p : Page) (o hi lo n : Nat) : (addFld s p o hi lo n).buckets = s.buckets := rfl
@[simp] theorem addFld_rlog (s : State) (p : Page) (o hi lo n : Nat) : (addFld s p o hi lo n).rlog = s.rlog := rfl
@[simp] theorem addFld_mgt (s : State) (p : Page) (o hi lo n : Nat) : (addFld s p o hi lo n).mgt = s.mgt := rfl
@[simp] theorem addFld_dbg (s : State) (p : Page) (o hi lo n : Nat) : (addFld s p o hi lo n).dbg = s.dbg := rfl
@[simp] theorem addFld_out (s : State) (p : Page) (o hi lo n : Nat) : (addFld s p o hi lo n).out = s.out := rfl
@[simp] theorem addFld_free (s : State) (p : Page) (o hi lo n : Nat) : (addFld s p o hi lo n).free = s.free := rfl
@[simp] theorem addFld_pending (s : State) (p : Page) (o hi lo n : Nat) : (addFld s p o hi lo n).pending = s.pending := rfl

@[simp] theorem resetRegs_fuses (s : State) (p : Page) (lo hi : Nat) : (resetRegs s p lo hi).fuses = s.fuses := rfl
@[simp] theorem resetRegs_time (s : State) (p : Page) (lo hi : Nat) : (resetRegs s p lo hi).time = s.time := rfl
@[simp] theorem resetRegs_latches (s : State) (p : Page) (lo hi : Nat) : (resetRegs s p lo hi).latches = s.latches := rfl
@[simp] theorem resetRegs_mem (s : State) (p : Page) (lo hi : Nat) : (resetRegs s p lo hi).mem = s.mem := rfl
@[simp] theorem resetRegs_ecc (s : State) (p : Page) (lo hi : Nat) : (resetRegs s p lo hi).ecc = s.ecc := rfl
@[simp] theorem resetRegs_tiles (s : State) (p : Page) (lo hi : Nat) : (resetRegs s p lo hi).tiles = s.tiles := rfl
@[simp] theorem resetRegs_edges (s : State) (p : Page) (lo hi : Nat) : (resetRegs s p lo hi).edges = s.edges := rfl
@[simp] theorem resetRegs_dies (s : State) (p : Page) (lo hi : Nat) : (resetRegs s p lo hi).dies = s.dies := rfl
@[simp] theorem resetRegs_links (s : State) (p : Page) (lo hi : Nat) : (resetRegs s p lo hi).links = s.links := rfl
@[simp] theorem resetRegs_eths (s : State) (p : Page) (lo hi : Nat) : (resetRegs s p lo hi).eths = s.eths := rfl
@[simp] theorem resetRegs_glzs (s : State) (p : Page) (lo hi : Nat) : (resetRegs s p lo hi).glzs = s.glzs := rfl
@[simp] theorem resetRegs_tkp (s : State) (p : Page) (lo hi : Nat) : (resetRegs s p lo hi).tkp = s.tkp := rfl
@[simp] theorem resetRegs_rtc (s : State) (p : Page) (lo hi : Nat) : (resetRegs s p lo hi).rtc = s.rtc := rfl
@[simp] theorem resetRegs_hif (s : State) (p : Page) (lo hi : Nat) : (resetRegs s p lo hi).hif = s.hif := rfl
@[simp] theorem resetRegs_buckets (s : State) (p : Page) (lo hi : Nat) : (resetRegs s p lo hi).buckets = s.buckets := rfl
@[simp] theorem resetRegs_rlog (s : State) (p : Page) (lo hi : Nat) : (resetRegs s p lo hi).rlog = s.rlog := rfl
@[simp] theorem resetRegs_mgt (s : State) (p : Page) (lo hi : Nat) : (resetRegs s p lo hi).mgt = s.mgt := rfl
@[simp] theorem resetRegs_dbg (s : State) (p : Page) (lo hi : Nat) : (resetRegs s p lo hi).dbg = s.dbg := rfl
@[simp] theorem resetRegs_out (s : State) (p : Page) (lo hi : Nat) : (resetRegs s p lo hi).out = s.out := rfl
@[simp] theorem resetRegs_free (s : State) (p : Page) (lo hi : Nat) : (resetRegs s p lo hi).free = s.free := rfl
@[simp] theorem resetRegs_pending (s : State) (p : Page) (lo hi : Nat) : (resetRegs s p lo hi).pending = s.pending := rfl

@[simp] theorem writeMem_fuses (s : State) (k : Nat) (bs : List Byte) : (writeMem s k bs).fuses = s.fuses := rfl
@[simp] theorem writeMem_time (s : State) (k : Nat) (bs : List Byte) : (writeMem s k bs).time = s.time := rfl
@[simp] theorem writeMem_regs (s : State) (k : Nat) (bs : List Byte) : (writeMem s k bs).regs = s.regs := rfl
@[simp] theorem writeMem_latches (s : State) (k : Nat) (bs : List Byte) : (writeMem s k bs).latches = s.latches := rfl
@[simp] theorem writeMem_ecc (s : State) (k : Nat) (bs : List Byte) : (writeMem s k bs).ecc = s.ecc := rfl
@[simp] theorem writeMem_tiles (s : State) (k : Nat) (bs : List Byte) : (writeMem s k bs).tiles = s.tiles := rfl
@[simp] theorem writeMem_edges (s : State) (k : Nat) (bs : List Byte) : (writeMem s k bs).edges = s.edges := rfl
@[simp] theorem writeMem_dies (s : State) (k : Nat) (bs : List Byte) : (writeMem s k bs).dies = s.dies := rfl
@[simp] theorem writeMem_links (s : State) (k : Nat) (bs : List Byte) : (writeMem s k bs).links = s.links := rfl
@[simp] theorem writeMem_eths (s : State) (k : Nat) (bs : List Byte) : (writeMem s k bs).eths = s.eths := rfl
@[simp] theorem writeMem_glzs (s : State) (k : Nat) (bs : List Byte) : (writeMem s k bs).glzs = s.glzs := rfl
@[simp] theorem writeMem_tkp (s : State) (k : Nat) (bs : List Byte) : (writeMem s k bs).tkp = s.tkp := rfl
@[simp] theorem writeMem_rtc (s : State) (k : Nat) (bs : List Byte) : (writeMem s k bs).rtc = s.rtc := rfl
@[simp] theorem writeMem_hif (s : State) (k : Nat) (bs : List Byte) : (writeMem s k bs).hif = s.hif := rfl
@[simp] theorem writeMem_buckets (s : State) (k : Nat) (bs : List Byte) : (writeMem s k bs).buckets = s.buckets := rfl
@[simp] theorem writeMem_rlog (s : State) (k : Nat) (bs : List Byte) : (writeMem s k bs).rlog = s.rlog := rfl
@[simp] theorem writeMem_mgt (s : State) (k : Nat) (bs : List Byte) : (writeMem s k bs).mgt = s.mgt := rfl
@[simp] theorem writeMem_dbg (s : State) (k : Nat) (bs : List Byte) : (writeMem s k bs).dbg = s.dbg := rfl
@[simp] theorem writeMem_out (s : State) (k : Nat) (bs : List Byte) : (writeMem s k bs).out = s.out := rfl
@[simp] theorem writeMem_free (s : State) (k : Nat) (bs : List Byte) : (writeMem s k bs).free = s.free := rfl
@[simp] theorem writeMem_pending (s : State) (k : Nat) (bs : List Byte) : (writeMem s k bs).pending = s.pending := rfl

@[simp] theorem clearUnit_fuses (s : State) (u : Nat) : (clearUnit s u).fuses = s.fuses := rfl
@[simp] theorem clearUnit_time (s : State) (u : Nat) : (clearUnit s u).time = s.time := rfl
@[simp] theorem clearUnit_regs (s : State) (u : Nat) : (clearUnit s u).regs = s.regs := rfl
@[simp] theorem clearUnit_latches (s : State) (u : Nat) : (clearUnit s u).latches = s.latches := rfl
@[simp] theorem clearUnit_mem (s : State) (u : Nat) : (clearUnit s u).mem = s.mem := rfl
@[simp] theorem clearUnit_tiles (s : State) (u : Nat) : (clearUnit s u).tiles = s.tiles := rfl
@[simp] theorem clearUnit_edges (s : State) (u : Nat) : (clearUnit s u).edges = s.edges := rfl
@[simp] theorem clearUnit_dies (s : State) (u : Nat) : (clearUnit s u).dies = s.dies := rfl
@[simp] theorem clearUnit_links (s : State) (u : Nat) : (clearUnit s u).links = s.links := rfl
@[simp] theorem clearUnit_eths (s : State) (u : Nat) : (clearUnit s u).eths = s.eths := rfl
@[simp] theorem clearUnit_glzs (s : State) (u : Nat) : (clearUnit s u).glzs = s.glzs := rfl
@[simp] theorem clearUnit_tkp (s : State) (u : Nat) : (clearUnit s u).tkp = s.tkp := rfl
@[simp] theorem clearUnit_rtc (s : State) (u : Nat) : (clearUnit s u).rtc = s.rtc := rfl
@[simp] theorem clearUnit_hif (s : State) (u : Nat) : (clearUnit s u).hif = s.hif := rfl
@[simp] theorem clearUnit_buckets (s : State) (u : Nat) : (clearUnit s u).buckets = s.buckets := rfl
@[simp] theorem clearUnit_rlog (s : State) (u : Nat) : (clearUnit s u).rlog = s.rlog := rfl
@[simp] theorem clearUnit_mgt (s : State) (u : Nat) : (clearUnit s u).mgt = s.mgt := rfl
@[simp] theorem clearUnit_dbg (s : State) (u : Nat) : (clearUnit s u).dbg = s.dbg := rfl
@[simp] theorem clearUnit_out (s : State) (u : Nat) : (clearUnit s u).out = s.out := rfl
@[simp] theorem clearUnit_free (s : State) (u : Nat) : (clearUnit s u).free = s.free := rfl
@[simp] theorem clearUnit_pending (s : State) (u : Nat) : (clearUnit s u).pending = s.pending := rfl

@[simp] theorem addFaults_fuses (s : State) (fl : List UFault) : (addFaults s fl).fuses = s.fuses := rfl
@[simp] theorem addFaults_time (s : State) (fl : List UFault) : (addFaults s fl).time = s.time := rfl
@[simp] theorem addFaults_regs (s : State) (fl : List UFault) : (addFaults s fl).regs = s.regs := rfl
@[simp] theorem addFaults_latches (s : State) (fl : List UFault) : (addFaults s fl).latches = s.latches := rfl
@[simp] theorem addFaults_mem (s : State) (fl : List UFault) : (addFaults s fl).mem = s.mem := rfl
@[simp] theorem addFaults_tiles (s : State) (fl : List UFault) : (addFaults s fl).tiles = s.tiles := rfl
@[simp] theorem addFaults_edges (s : State) (fl : List UFault) : (addFaults s fl).edges = s.edges := rfl
@[simp] theorem addFaults_dies (s : State) (fl : List UFault) : (addFaults s fl).dies = s.dies := rfl
@[simp] theorem addFaults_links (s : State) (fl : List UFault) : (addFaults s fl).links = s.links := rfl
@[simp] theorem addFaults_eths (s : State) (fl : List UFault) : (addFaults s fl).eths = s.eths := rfl
@[simp] theorem addFaults_glzs (s : State) (fl : List UFault) : (addFaults s fl).glzs = s.glzs := rfl
@[simp] theorem addFaults_tkp (s : State) (fl : List UFault) : (addFaults s fl).tkp = s.tkp := rfl
@[simp] theorem addFaults_rtc (s : State) (fl : List UFault) : (addFaults s fl).rtc = s.rtc := rfl
@[simp] theorem addFaults_hif (s : State) (fl : List UFault) : (addFaults s fl).hif = s.hif := rfl
@[simp] theorem addFaults_buckets (s : State) (fl : List UFault) : (addFaults s fl).buckets = s.buckets := rfl
@[simp] theorem addFaults_rlog (s : State) (fl : List UFault) : (addFaults s fl).rlog = s.rlog := rfl
@[simp] theorem addFaults_mgt (s : State) (fl : List UFault) : (addFaults s fl).mgt = s.mgt := rfl
@[simp] theorem addFaults_dbg (s : State) (fl : List UFault) : (addFaults s fl).dbg = s.dbg := rfl
@[simp] theorem addFaults_out (s : State) (fl : List UFault) : (addFaults s fl).out = s.out := rfl
@[simp] theorem addFaults_free (s : State) (fl : List UFault) : (addFaults s fl).free = s.free := rfl
@[simp] theorem addFaults_pending (s : State) (fl : List UFault) : (addFaults s fl).pending = s.pending := rfl

@[simp] theorem emit_fuses (s : State) (o : OutMsg) : (emit s o).fuses = s.fuses := rfl
@[simp] theorem emit_time (s : State) (o : OutMsg) : (emit s o).time = s.time := rfl
@[simp] theorem emit_regs (s : State) (o : OutMsg) : (emit s o).regs = s.regs := rfl
@[simp] theorem emit_latches (s : State) (o : OutMsg) : (emit s o).latches = s.latches := rfl
@[simp] theorem emit_mem (s : State) (o : OutMsg) : (emit s o).mem = s.mem := rfl
@[simp] theorem emit_ecc (s : State) (o : OutMsg) : (emit s o).ecc = s.ecc := rfl
@[simp] theorem emit_tiles (s : State) (o : OutMsg) : (emit s o).tiles = s.tiles := rfl
@[simp] theorem emit_edges (s : State) (o : OutMsg) : (emit s o).edges = s.edges := rfl
@[simp] theorem emit_dies (s : State) (o : OutMsg) : (emit s o).dies = s.dies := rfl
@[simp] theorem emit_links (s : State) (o : OutMsg) : (emit s o).links = s.links := rfl
@[simp] theorem emit_eths (s : State) (o : OutMsg) : (emit s o).eths = s.eths := rfl
@[simp] theorem emit_glzs (s : State) (o : OutMsg) : (emit s o).glzs = s.glzs := rfl
@[simp] theorem emit_tkp (s : State) (o : OutMsg) : (emit s o).tkp = s.tkp := rfl
@[simp] theorem emit_rtc (s : State) (o : OutMsg) : (emit s o).rtc = s.rtc := rfl
@[simp] theorem emit_hif (s : State) (o : OutMsg) : (emit s o).hif = s.hif := rfl
@[simp] theorem emit_buckets (s : State) (o : OutMsg) : (emit s o).buckets = s.buckets := rfl
@[simp] theorem emit_rlog (s : State) (o : OutMsg) : (emit s o).rlog = s.rlog := rfl
@[simp] theorem emit_mgt (s : State) (o : OutMsg) : (emit s o).mgt = s.mgt := rfl
@[simp] theorem emit_dbg (s : State) (o : OutMsg) : (emit s o).dbg = s.dbg := rfl
@[simp] theorem emit_free (s : State) (o : OutMsg) : (emit s o).free = s.free := rfl
@[simp] theorem emit_pending (s : State) (o : OutMsg) : (emit s o).pending = s.pending := rfl

@[simp] theorem takeFree_fuses (s : State) : (takeFree s).2.fuses = s.fuses := rfl
@[simp] theorem takeFree_time (s : State) : (takeFree s).2.time = s.time := rfl
@[simp] theorem takeFree_regs (s : State) : (takeFree s).2.regs = s.regs := rfl
@[simp] theorem takeFree_latches (s : State) : (takeFree s).2.latches = s.latches := rfl
@[simp] theorem takeFree_mem (s : State) : (takeFree s).2.mem = s.mem := rfl
@[simp] theorem takeFree_ecc (s : State) : (takeFree s).2.ecc = s.ecc := rfl
@[simp] theorem takeFree_tiles (s : State) : (takeFree s).2.tiles = s.tiles := rfl
@[simp] theorem takeFree_edges (s : State) : (takeFree s).2.edges = s.edges := rfl
@[simp] theorem takeFree_dies (s : State) : (takeFree s).2.dies = s.dies := rfl
@[simp] theorem takeFree_links (s : State) : (takeFree s).2.links = s.links := rfl
@[simp] theorem takeFree_eths (s : State) : (takeFree s).2.eths = s.eths := rfl
@[simp] theorem takeFree_glzs (s : State) : (takeFree s).2.glzs = s.glzs := rfl
@[simp] theorem takeFree_tkp (s : State) : (takeFree s).2.tkp = s.tkp := rfl
@[simp] theorem takeFree_rtc (s : State) : (takeFree s).2.rtc = s.rtc := rfl
@[simp] theorem takeFree_hif (s : State) : (takeFree s).2.hif = s.hif := rfl
@[simp] theorem takeFree_buckets (s : State) : (takeFree s).2.buckets = s.buckets := rfl
@[simp] theorem takeFree_rlog (s : State) : (takeFree s).2.rlog = s.rlog := rfl
@[simp] theorem takeFree_mgt (s : State) : (takeFree s).2.mgt = s.mgt := rfl
@[simp] theorem takeFree_dbg (s : State) : (takeFree s).2.dbg = s.dbg := rfl
@[simp] theorem takeFree_out (s : State) : (takeFree s).2.out = s.out := rfl
@[simp] theorem takeFree_pending (s : State) : (takeFree s).2.pending = s.pending := rfl
@[simp] theorem takeFree_free (s : State) : (takeFree s).2.free = s.free + 1 := rfl

end Sys2Proof.Machine
end

