-- ==== Sys2Proof/Laws/Tables.lean ====
section
/-! SUPPORT. Sparse tables: what a written key and every other key read as, and the parts of the state that tables hold. -/

namespace Sys2Proof.Machine

/-- A table read at the key just written gives the value written. -/
@[simp] theorem tabGet_tabPut_same {α : Type} (d : α) (t : Tab α) (k : Nat) (v : α) : tabGet d (tabPut t k v) k = v := by
  induction t with
  | nil => simp [tabPut, tabGet]
  | cons e r ih =>
    obtain ⟨k', v'⟩ := e
    simp only [tabPut]
    split
    · simp [tabGet]
    · split
      · simp [tabGet]
      · rename_i h; simp [tabGet, h, ih]

/-- A table read at another key is as before. -/
@[simp] theorem tabGet_tabPut_ne {α : Type} (d : α) (t : Tab α) (k j : Nat) (v : α) (h : j ≠ k) :
    tabGet d (tabPut t k v) j = tabGet d t j := by
  induction t with
  | nil => simp [tabPut, tabGet, h]
  | cons e r ih =>
    obtain ⟨k', v'⟩ := e
    simp only [tabPut]
    split
    · simp [tabGet, h]
    · split
      · rename_i h2; subst h2; simp [tabGet, h]
      · simp [tabGet, ih]

@[simp] theorem getTile_setTile_same (s : State) (t : Nat) (x : Tile) : getTile (setTile s t x) t = x := by
  simp [getTile, setTile]
@[simp] theorem getTile_setTile_ne (s : State) (t u : Nat) (x : Tile) (h : u ≠ t) :
    getTile (setTile s t x) u = getTile s u := by simp [getTile, setTile, h]
@[simp] theorem getTile_modTile_same (s : State) (t : Nat) (f : Tile → Tile) : getTile (modTile s t f) t = f (getTile s t) := by
  simp [modTile]
@[simp] theorem getTile_modTile_ne (s : State) (t u : Nat) (f : Tile → Tile) (h : u ≠ t) :
    getTile (modTile s t f) u = getTile s u := by simp [modTile, h]
@[simp] theorem getEdge_modEdge_same (s : State) (x e : Nat) (f : Edge → Edge) :
    getEdge (modEdge s x e f) x e = f (getEdge s x e) := by simp [getEdge, modEdge]
@[simp] theorem getDie_modDie_same (s : State) (d : Nat) (f : Die → Die) : getDie (modDie s d f) d = f (getDie s d) := by
  simp [getDie, modDie]
@[simp] theorem getLink_modLink_same (s : State) (n : Nat) (f : Link → Link) :
    getLink (modLink s n f) n = f (getLink s n) := by simp [getLink, modLink]
@[simp] theorem getLink_modLink_ne (s : State) (n k : Nat) (f : Link → Link) (h : k ≠ n) :
    getLink (modLink s n f) k = getLink s k := by simp [getLink, modLink, h]
@[simp] theorem getEth_modEth_same (s : State) (n : Nat) (f : Eth → Eth) : getEth (modEth s n f) n = f (getEth s n) := by
  simp [getEth, modEth]
@[simp] theorem getGlz_modGlz_same (s : State) (n : Nat) (f : Glz → Glz) : getGlz (modGlz s n f) n = f (getGlz s n) := by
  simp [getGlz, modGlz]
@[simp] theorem getAcc_modAcc_same (s : State) (n : Nat) (f : Acc → Acc) : getAcc (modAcc s n f) n = f (getAcc s n) := by
  simp [getAcc, modAcc]

/-- Another tile is as before, whatever the update of one tile. -/
theorem tileAt_modCtx_ne (s : State) (t u lc : Nat) (f : Ctx → Ctx) (h : u ≠ t) :
    getTile (modCtx s t lc f) u = getTile s u := by simp [modCtx, h]

theorem getCtx_modCtx_same (s : State) (t lc : Nat) (f : Ctx → Ctx) (h : lc < (getTile s t).ctx.length) :
    getCtx (modCtx s t lc f) t lc = f (getCtx s t lc) := by
  simp [getCtx, modCtx, listMod, List.getElem?_eq_getElem h]

theorem getCq_modCq_same (s : State) (t n : Nat) (f : Cq → Cq) (h : n < (getTile s t).cqs.length) :
    getCq (modCq s t n f) t n = f (getCq s t n) := by
  simp [getCq, modCq, listMod, List.getElem?_eq_getElem h]

end Sys2Proof.Machine
end

