-- ==== Sys2Proof/Laws/Registers.lean ====
section
/-! SUPPORT. Registers: a written register and every other one, a written field and the rest of its register. -/

namespace Sys2Proof.Machine

theorem find_tabPut_same {α : Type} (t : Tab α) (k : Nat) (v : α) :
    (tabPut t k v).find? (fun e => e.1 == k) = some (k, v) := by
  induction t with
  | nil => simp [tabPut]
  | cons e r ih =>
    obtain ⟨k', v'⟩ := e
    simp only [tabPut]
    split
    · simp
    · split
      · simp
      · rename_i h
        have : (k' == k) = false := by simp; omega
        simp [List.find?, this, ih]

theorem find_tabPut_ne {α : Type} (t : Tab α) (k j : Nat) (v : α) (h : j ≠ k) :
    (tabPut t k v).find? (fun e => e.1 == j) = t.find? (fun e => e.1 == j) := by
  induction t with
  | nil => simp [tabPut, Ne.symm h]
  | cons e r ih =>
    obtain ⟨k', v'⟩ := e
    simp only [tabPut]
    have hk : (k == j) = false := by simp; omega
    split
    · simp [List.find?, hk]
    · split
      · rename_i h2; subst h2; simp [List.find?, hk]
      · simp [List.find?, ih]

/-- A register reads as it was written. -/
@[simp] theorem rawReg_putReg_same (s : State) (p : Page) (o : Nat) (v : Word) : rawReg (putReg s p o v) p o = v := by
  simp [rawReg, putReg, find_tabPut_same]

/-- A register with another key is as before. -/
theorem rawReg_putReg_ne (s : State) (p q : Page) (o r : Nat) (v : Word) (h : regKey q r ≠ regKey p o) :
    rawReg (putReg s p o v) q r = rawReg s q r := by
  simp [rawReg, putReg, find_tabPut_ne _ _ _ _ h]

/-- Another register of the same page is as before. -/
@[simp] theorem rawReg_putReg_off (s : State) (p : Page) (o r : Nat) (v : Word) (h : r ≠ o) :
    rawReg (putReg s p o v) p r = rawReg s p r :=
  rawReg_putReg_ne s p p o r v (by simp [regKey, h])

/-- Registers depend on the register table and the fuses alone. -/
theorem rawReg_congr {s s' : State} (h : s'.regs = s.regs) (hf : s'.fuses = s.fuses) (p : Page) (o : Nat) :
    rawReg s' p o = rawReg s p o := by simp [rawReg, h, hf]

@[simp] theorem rawReg_modTile (s : State) (t : Nat) (f : Tile → Tile) (p : Page) (o : Nat) :
    rawReg (modTile s t f) p o = rawReg s p o := rfl
@[simp] theorem rawReg_modCtx (s : State) (t lc : Nat) (f : Ctx → Ctx) (p : Page) (o : Nat) :
    rawReg (modCtx s t lc f) p o = rawReg s p o := rfl
@[simp] theorem rawReg_modCq (s : State) (t n : Nat) (f : Cq → Cq) (p : Page) (o : Nat) :
    rawReg (modCq s t n f) p o = rawReg s p o := rfl
@[simp] theorem rawReg_modLink (s : State) (n : Nat) (f : Link → Link) (p : Page) (o : Nat) :
    rawReg (modLink s n f) p o = rawReg s p o := rfl
@[simp] theorem rawReg_modGlz (s : State) (n : Nat) (f : Glz → Glz) (p : Page) (o : Nat) :
    rawReg (modGlz s n f) p o = rawReg s p o := rfl
@[simp] theorem rawReg_modEth (s : State) (n : Nat) (f : Eth → Eth) (p : Page) (o : Nat) :
    rawReg (modEth s n f) p o = rawReg s p o := rfl
@[simp] theorem rawReg_emit (s : State) (m : OutMsg) (p : Page) (o : Nat) : rawReg (emit s m) p o = rawReg s p o := rfl
@[simp] theorem rawReg_writeMem (s : State) (k : Nat) (bs : List Byte) (p : Page) (o : Nat) :
    rawReg (writeMem s k bs) p o = rawReg s p o := rfl

theorem fld_lt (v : Word) (hi lo : Nat) : fld v hi lo < 2 ^ (hi + 1 - lo) := Nat.mod_lt _ (Nat.two_pow_pos _)

/-- A number is its bits above a field, the field, and its bits below it. -/
theorem bits_split (n w lo : Nat) :
    n = n / 2 ^ lo / 2 ^ w * (2 ^ lo * 2 ^ w) + n / 2 ^ lo % 2 ^ w * 2 ^ lo + n % 2 ^ lo := by
  have h1 := Nat.div_add_mod n (2 ^ lo)
  have h2 := Nat.div_add_mod (n / 2 ^ lo) (2 ^ w)
  generalize n / 2 ^ lo / 2 ^ w = a at *
  generalize n / 2 ^ lo % 2 ^ w = b at *
  generalize n % 2 ^ lo = c at *
  rw [← h2] at h1
  rw [← h1]; ring

/-- The number of a register with a field replaced. -/
theorem setFld_toNat (v : Word) (hi lo x : Nat) (h : lo ≤ hi) (h32 : hi < 32) :
    (setFld v hi lo x).toNat = v.toNat / 2 ^ lo / 2 ^ (hi + 1 - lo) * (2 ^ lo * 2 ^ (hi + 1 - lo))
      + x % 2 ^ (hi + 1 - lo) * 2 ^ lo + v.toNat % 2 ^ lo := by
  have hx : x % 2 ^ (hi + 1 - lo) < 2 ^ (hi + 1 - lo) := Nat.mod_lt _ (Nat.two_pow_pos _)
  have e : (2 : Nat) ^ 32 = 2 ^ lo * 2 ^ (hi + 1 - lo) * 2 ^ (31 - hi) := by
    rw [← Nat.pow_add, ← Nat.pow_add]; congr 1; omega
  have d := bits_split v.toNat (hi + 1 - lo) lo
  have q : v.toNat / 2 ^ lo / 2 ^ (hi + 1 - lo) < 2 ^ (31 - hi) := by
    rw [Nat.div_div_eq_div_mul, Nat.div_lt_iff_lt_mul (by positivity), Nat.mul_comm, ← e]; exact v.isLt
  have r : v.toNat % 2 ^ lo < 2 ^ lo := Nat.mod_lt _ (Nat.two_pow_pos _)
  simp only [setFld, BitVec.toNat_ofNat, fld, bitsOf]
  generalize v.toNat / 2 ^ lo / 2 ^ (hi + 1 - lo) = a at *
  generalize v.toNat / 2 ^ lo % 2 ^ (hi + 1 - lo) = b at *
  generalize v.toNat % 2 ^ lo = c at *
  generalize x % 2 ^ (hi + 1 - lo) = y at *
  generalize v.toNat = n at *
  have k : n - b * 2 ^ lo + y * 2 ^ lo = a * (2 ^ lo * 2 ^ (hi + 1 - lo)) + y * 2 ^ lo + c := by omega
  rw [k, e]
  apply Nat.mod_eq_of_lt
  generalize 2 ^ lo = L at *
  generalize 2 ^ (hi + 1 - lo) = M at *
  generalize 2 ^ (31 - hi) = H at *
  have g1 : y * L + c < L * M := by
    calc y * L + c < y * L + L := by omega
      _ = (y + 1) * L := by ring
      _ ≤ M * L := Nat.mul_le_mul_right _ hx
      _ = L * M := by ring
  calc a * (L * M) + y * L + c < a * (L * M) + L * M := by omega
    _ = (a + 1) * (L * M) := by ring
    _ ≤ H * (L * M) := Nat.mul_le_mul_right _ q
    _ = L * M * H := by ring

theorem setFld_split (v : Word) (hi lo x : Nat) (h : lo ≤ hi) (h32 : hi < 32) :
    (setFld v hi lo x).toNat / 2 ^ lo / 2 ^ (hi + 1 - lo) = v.toNat / 2 ^ lo / 2 ^ (hi + 1 - lo)
    ∧ (setFld v hi lo x).toNat / 2 ^ lo % 2 ^ (hi + 1 - lo) = x % 2 ^ (hi + 1 - lo)
    ∧ (setFld v hi lo x).toNat % 2 ^ lo = v.toNat % 2 ^ lo := by
  rw [setFld_toNat v hi lo x h h32]
  have hx : x % 2 ^ (hi + 1 - lo) < 2 ^ (hi + 1 - lo) := Nat.mod_lt _ (Nat.two_pow_pos _)
  have r : v.toNat % 2 ^ lo < 2 ^ lo := Nat.mod_lt _ (Nat.two_pow_pos _)
  have hL : 0 < 2 ^ lo := Nat.two_pow_pos _
  have hM : 0 < 2 ^ (hi + 1 - lo) := Nat.two_pow_pos _
  generalize v.toNat / 2 ^ lo / 2 ^ (hi + 1 - lo) = a at *
  generalize v.toNat % 2 ^ lo = c at *
  generalize x % 2 ^ (hi + 1 - lo) = y at *
  generalize 2 ^ lo = L at *
  generalize 2 ^ (hi + 1 - lo) = M at *
  have e : a * (L * M) + y * L + c = c + L * (y + M * a) := by ring
  rw [e, Nat.add_mul_div_left _ _ hL, Nat.div_eq_of_lt r, Nat.zero_add, Nat.add_mul_div_left _ _ hM, Nat.div_eq_of_lt hx,
    Nat.zero_add, Nat.add_mul_mod_self_left, Nat.add_mul_mod_self_left, Nat.mod_eq_of_lt hx, Nat.mod_eq_of_lt r]
  exact ⟨rfl, rfl, rfl⟩

/-- The field just written. -/
theorem fld_setFld_same (v : Word) (hi lo x : Nat) (h : lo ≤ hi) (h32 : hi < 32) :
    fld (setFld v hi lo x) hi lo = x % 2 ^ (hi + 1 - lo) := (setFld_split v hi lo x h h32).2.1

/-- A field that lies apart from the one written. -/
theorem fld_setFld_ne (v : Word) (hi lo x h2 l2 : Nat) (h : lo ≤ hi) (h32 : hi < 32) (hh : l2 ≤ h2)
    (d : h2 < lo ∨ hi < l2) : fld (setFld v hi lo x) h2 l2 = fld v h2 l2 := by
  obtain ⟨a, -, c⟩ := setFld_split v hi lo x h h32
  generalize (setFld v hi lo x) = u at *
  simp only [fld, bitsOf]
  rcases d with d | d
  · have e : lo = l2 + (h2 + 1 - l2) + (lo - h2 - 1) := by omega
    have k (n : Nat) : n / 2 ^ l2 % 2 ^ (h2 + 1 - l2) = n % 2 ^ lo / 2 ^ l2 % 2 ^ (h2 + 1 - l2) := by
      have : n % 2 ^ lo / 2 ^ l2 = n / 2 ^ l2 % 2 ^ (lo - l2) := by
        have e2 : (2 : Nat) ^ lo = 2 ^ l2 * 2 ^ (lo - l2) := by rw [← Nat.pow_add]; congr 1; omega
        rw [e2, Nat.mod_mul_right_div_self]
      rw [this, Nat.mod_mod_of_dvd]
      exact Nat.pow_dvd_pow 2 (by omega)
    rw [k u.toNat, k v.toNat, c]
  · have k (n : Nat) : n / 2 ^ l2 = n / 2 ^ lo / 2 ^ (hi + 1 - lo) / 2 ^ (l2 - hi - 1) := by
      rw [Nat.div_div_eq_div_mul, Nat.div_div_eq_div_mul, ← Nat.pow_add, ← Nat.pow_add]
      congr 2; omega
    rw [k u.toNat, k v.toNat, a]

/-- A field of a register just written. -/
@[simp] theorem rfld_putFld_same (s : State) (p : Page) (o hi lo x : Nat) (h : lo ≤ hi) (h32 : hi < 32) :
    rfld (putFld s p o hi lo x) p o hi lo = x % 2 ^ (hi + 1 - lo) := by
  simp [rfld, putFld, fld_setFld_same _ _ _ _ h h32]

/-- A field of the same register apart from the one written. -/
@[simp] theorem rfld_putFld_ne (s : State) (p : Page) (o hi lo x h2 l2 : Nat) (h : lo ≤ hi) (h32 : hi < 32) (hh : l2 ≤ h2)
    (d : h2 < lo ∨ hi < l2) : rfld (putFld s p o hi lo x) p o h2 l2 = rfld s p o h2 l2 := by
  simp [rfld, putFld, fld_setFld_ne _ _ _ _ _ _ h h32 hh d]

/-- A field of another register of the page. -/
@[simp] theorem rfld_putFld_off (s : State) (p : Page) (o r hi lo x h2 l2 : Nat) (h : r ≠ o) :
    rfld (putFld s p o hi lo x) p r h2 l2 = rfld s p r h2 l2 := by simp [rfld, putFld, h]

/-- The bit just written. -/
@[simp] theorem rbit_putBit_same (s : State) (p : Page) (o b : Nat) (v : Bool) (h : b < 32) :
    rbit (putBit s p o b v) p o b = v := by
  cases v <;> simp [rbit, putBit, h]

/-- A bit apart from the one written. -/
@[simp] theorem rbit_putBit_ne (s : State) (p : Page) (o b c : Nat) (v : Bool) (h : b < 32) (d : c ≠ b) :
    rbit (putBit s p o b v) p o c = rbit s p o c := by
  have : c < b ∨ b < c := by omega
  simp [rbit, putBit, h, this]

/-- A bit of another register of the page. -/
@[simp] theorem rbit_putBit_off (s : State) (p : Page) (o r b c : Nat) (v : Bool) (h : r ≠ o) :
    rbit (putBit s p o b v) p r c = rbit s p r c := by simp [rbit, putBit, h]

/-! ## Registers after updates of what is no register -/

@[simp] theorem rfld_modTile (s : State) (t : Nat) (f : Tile → Tile) (p : Page) (o hi lo : Nat) :
    rfld (modTile s t f) p o hi lo = rfld s p o hi lo := rfl
@[simp] theorem rbit_modTile (s : State) (t : Nat) (f : Tile → Tile) (p : Page) (o i : Nat) :
    rbit (modTile s t f) p o i = rbit s p o i := rfl
@[simp] theorem rawReg_setTile (s : State) (t : Nat) (f : Tile) (p : Page) (o : Nat) :
    rawReg (setTile s t f) p o = rawReg s p o := rfl
@[simp] theorem rfld_setTile (s : State) (t : Nat) (f : Tile) (p : Page) (o hi lo : Nat) :
    rfld (setTile s t f) p o hi lo = rfld s p o hi lo := rfl
@[simp] theorem rbit_setTile (s : State) (t : Nat) (f : Tile) (p : Page) (o i : Nat) :
    rbit (setTile s t f) p o i = rbit s p o i := rfl
@[simp] theorem rfld_modCtx (s : State) (t lc : Nat) (f : Ctx → Ctx) (p : Page) (o hi lo : Nat) :
    rfld (modCtx s t lc f) p o hi lo = rfld s p o hi lo := rfl
@[simp] theorem rbit_modCtx (s : State) (t lc : Nat) (f : Ctx → Ctx) (p : Page) (o i : Nat) :
    rbit (modCtx s t lc f) p o i = rbit s p o i := rfl
@[simp] theorem rfld_modCq (s : State) (t n : Nat) (f : Cq → Cq) (p : Page) (o hi lo : Nat) :
    rfld (modCq s t n f) p o hi lo = rfld s p o hi lo := rfl
@[simp] theorem rbit_modCq (s : State) (t n : Nat) (f : Cq → Cq) (p : Page) (o i : Nat) :
    rbit (modCq s t n f) p o i = rbit s p o i := rfl
@[simp] theorem rfld_modLink (s : State) (n : Nat) (f : Link → Link) (p : Page) (o hi lo : Nat) :
    rfld (modLink s n f) p o hi lo = rfld s p o hi lo := rfl
@[simp] theorem rbit_modLink (s : State) (n : Nat) (f : Link → Link) (p : Page) (o i : Nat) :
    rbit (modLink s n f) p o i = rbit s p o i := rfl
@[simp] theorem rfld_modGlz (s : State) (n : Nat) (f : Glz → Glz) (p : Page) (o hi lo : Nat) :
    rfld (modGlz s n f) p o hi lo = rfld s p o hi lo := rfl
@[simp] theorem rbit_modGlz (s : State) (n : Nat) (f : Glz → Glz) (p : Page) (o i : Nat) :
    rbit (modGlz s n f) p o i = rbit s p o i := rfl
@[simp] theorem rfld_modEth (s : State) (n : Nat) (f : Eth → Eth) (p : Page) (o hi lo : Nat) :
    rfld (modEth s n f) p o hi lo = rfld s p o hi lo := rfl
@[simp] theorem rbit_modEth (s : State) (n : Nat) (f : Eth → Eth) (p : Page) (o i : Nat) :
    rbit (modEth s n f) p o i = rbit s p o i := rfl
@[simp] theorem rawReg_modDie (s : State) (n : Nat) (f : Die → Die) (p : Page) (o : Nat) :
    rawReg (modDie s n f) p o = rawReg s p o := rfl
@[simp] theorem rfld_modDie (s : State) (n : Nat) (f : Die → Die) (p : Page) (o hi lo : Nat) :
    rfld (modDie s n f) p o hi lo = rfld s p o hi lo := rfl
@[simp] theorem rbit_modDie (s : State) (n : Nat) (f : Die → Die) (p : Page) (o i : Nat) :
    rbit (modDie s n f) p o i = rbit s p o i := rfl
@[simp] theorem rawReg_modEdge (s : State) (x e : Nat) (f : Edge → Edge) (p : Page) (o : Nat) :
    rawReg (modEdge s x e f) p o = rawReg s p o := rfl
@[simp] theorem rfld_modEdge (s : State) (x e : Nat) (f : Edge → Edge) (p : Page) (o hi lo : Nat) :
    rfld (modEdge s x e f) p o hi lo = rfld s p o hi lo := rfl
@[simp] theorem rbit_modEdge (s : State) (x e : Nat) (f : Edge → Edge) (p : Page) (o i : Nat) :
    rbit (modEdge s x e f) p o i = rbit s p o i := rfl
@[simp] theorem rawReg_modAcc (s : State) (n : Nat) (f : Acc → Acc) (p : Page) (o : Nat) :
    rawReg (modAcc s n f) p o = rawReg s p o := rfl
@[simp] theorem rfld_modAcc (s : State) (n : Nat) (f : Acc → Acc) (p : Page) (o hi lo : Nat) :
    rfld (modAcc s n f) p o hi lo = rfld s p o hi lo := rfl
@[simp] theorem rbit_modAcc (s : State) (n : Nat) (f : Acc → Acc) (p : Page) (o i : Nat) :
    rbit (modAcc s n f) p o i = rbit s p o i := rfl
@[simp] theorem rfld_emit (s : State) (m : OutMsg) (p : Page) (o hi lo : Nat) :
    rfld (emit s m) p o hi lo = rfld s p o hi lo := rfl
@[simp] theorem rbit_emit (s : State) (m : OutMsg) (p : Page) (o i : Nat) :
    rbit (emit s m) p o i = rbit s p o i := rfl
@[simp] theorem rfld_writeMem (s : State) (k : Nat) (bs : List Byte) (p : Page) (o hi lo : Nat) :
    rfld (writeMem s k bs) p o hi lo = rfld s p o hi lo := rfl
@[simp] theorem rbit_writeMem (s : State) (k : Nat) (bs : List Byte) (p : Page) (o i : Nat) :
    rbit (writeMem s k bs) p o i = rbit s p o i := rfl

end Sys2Proof.Machine
end

