-- ==== Sys2Proof/Laws/Frames.lean ====
section
/-! SUPPORT. Frames: which registers and which parts of the state the shared operations leave as they are. -/

namespace Sys2Proof.Machine

/-! ## Registers -/

theorem RegsBut.refl (s : State) (ks : List Nat) : RegsBut s s ks := fun _ _ _ => rfl

theorem RegsBut.trans {s u v : State} {ks : List Nat} (h : RegsBut s u ks) (h' : RegsBut u v ks) : RegsBut s v ks :=
  fun p o k => (h' p o k).trans (h p o k)

theorem RegsBut.weaken {s u : State} {ks ls : List Nat} (h : RegsBut s u ks) (hk : ∀ k ∈ ks, k ∈ ls) : RegsBut s u ls :=
  fun p o k => h p o (fun m => k (hk _ m))

/-- An update of what is no register. -/
theorem regsBut_of_regs {s u : State} (ks : List Nat) (h : u.regs = s.regs) (hf : u.fuses = s.fuses) : RegsBut s u ks :=
  fun p o _ => rawReg_congr h hf p o

theorem regsBut_putReg (s : State) (p : Page) (o : Nat) (v : Word) (ks : List Nat) (h : regKey p o ∈ ks) :
    RegsBut s (putReg s p o v) ks :=
  fun q r k => rawReg_putReg_ne s p q o r v (fun e => k (e ▸ h))

theorem regsBut_putFld (s : State) (p : Page) (o hi lo x : Nat) (ks : List Nat) (h : regKey p o ∈ ks) :
    RegsBut s (putFld s p o hi lo x) ks := regsBut_putReg s p o _ ks h

theorem regsBut_putBit (s : State) (p : Page) (o b : Nat) (v : Bool) (ks : List Nat) (h : regKey p o ∈ ks) :
    RegsBut s (putBit s p o b v) ks := regsBut_putReg s p o _ ks h

/-! ## The rest of the state -/

theorem OnlyRegs.refl (s : State) : OnlyRegs s s := rfl
theorem OnlyRegs.trans {s u v : State} (h : OnlyRegs s u) (h' : OnlyRegs u v) : OnlyRegs s v := by
  unfold OnlyRegs at *; rw [h', h]
theorem onlyRegs_putReg (s : State) (p : Page) (o : Nat) (v : Word) : OnlyRegs s (putReg s p o v) := rfl
theorem onlyRegs_putFld (s : State) (p : Page) (o hi lo x : Nat) : OnlyRegs s (putFld s p o hi lo x) := rfl
theorem onlyRegs_putBit (s : State) (p : Page) (o b : Nat) (v : Bool) : OnlyRegs s (putBit s p o b v) := rfl

theorem OnlyTile.refl (s : State) (t : Nat) : OnlyTile s s t := ⟨rfl, fun _ _ => rfl⟩

theorem OnlyTile.trans {s u v : State} {t : Nat} (h : OnlyTile s u t) (h' : OnlyTile u v t) : OnlyTile s v t := by
  refine ⟨?_, fun k e => (h'.2 k e).trans (h.2 k e)⟩
  have a := h.1
  have b := h'.1
  rw [b, a]

theorem OnlyRegs.onlyTile {s u : State} (h : OnlyRegs s u) (t : Nat) : OnlyTile s u t := by
  unfold OnlyRegs at h
  exact ⟨by rw [h], fun k _ => by rw [h]; rfl⟩

theorem onlyTile_putReg (s : State) (t : Nat) (p : Page) (o : Nat) (v : Word) : OnlyTile s (putReg s p o v) t :=
  (onlyRegs_putReg s p o v).onlyTile t
theorem onlyTile_putFld (s : State) (t : Nat) (p : Page) (o hi lo x : Nat) : OnlyTile s (putFld s p o hi lo x) t :=
  onlyTile_putReg s t p o _
theorem onlyTile_putBit (s : State) (t : Nat) (p : Page) (o b : Nat) (v : Bool) : OnlyTile s (putBit s p o b v) t :=
  onlyTile_putReg s t p o _
theorem onlyTile_modTile (s : State) (t : Nat) (f : Tile → Tile) : OnlyTile s (modTile s t f) t :=
  ⟨rfl, fun k h => getTile_modTile_ne s t k f h⟩
theorem onlyTile_modCtx (s : State) (t lc : Nat) (f : Ctx → Ctx) : OnlyTile s (modCtx s t lc f) t :=
  onlyTile_modTile s t _
theorem onlyTile_modCq (s : State) (t n : Nat) (f : Cq → Cq) : OnlyTile s (modCq s t n f) t :=
  onlyTile_modTile s t _

theorem OnlyTile.mem {s u : State} {t : Nat} (h : OnlyTile s u t) : u.mem = s.mem := by rw [h.1]

end Sys2Proof.Machine
end

