-- ==== Sys2Proof/Laws/Events.lean ====
section
/-! SUPPORT. What the bookkeeping of events leaves as it is: status, interrupts, captures, sillage rings, stop triggers. -/

namespace Sys2Proof.Machine

theorem LinksSb.refl (s : State) : LinksSb s s := fun _ => rfl

theorem LinksSb.trans {s u v : State} (h : LinksSb s u) (h' : LinksSb u v) : LinksSb s v := by
  intro n
  have a := h n
  have b := h' n
  rw [b, a]

/-- A wave code joins the sideband of one link. -/
theorem linksSb_sbWave (s : State) (n : Nat) (code : BitVec 7) : LinksSb s (sbWave s n code) := by
  intro k
  unfold sbWave
  by_cases e : k = n
  · subst e; rw [getLink_modLink_same]
  · rw [getLink_modLink_ne _ _ _ _ e]

theorem Events.refl (s : State) (ks : List Nat) : Events s s ks := ⟨rfl, LinksSb.refl s, fun _ _ _ _ => rfl⟩

theorem Events.trans {s u v : State} {ks : List Nat} (h : Events s u ks) (h' : Events u v ks) : Events s v ks := by
  refine ⟨?_, h.2.1.trans h'.2.1, fun p o a b => (h'.2.2 p o a b).trans (h.2.2 p o a b)⟩
  have a := h.1
  have b := h'.1
  rw [b, a]

theorem Events.weaken {s u : State} {ks ls : List Nat} (h : Events s u ks) (hk : ∀ k ∈ ks, k ∈ ls) : Events s u ls :=
  ⟨h.1, h.2.1, fun p o a b => h.2.2 p o (fun m => a (hk _ m)) b⟩

theorem TileEvents.refl (s : State) (ks : List Nat) (t : Nat) : TileEvents s s ks t :=
  ⟨rfl, fun _ _ => rfl, LinksSb.refl s, fun _ _ _ _ => rfl⟩

theorem TileEvents.trans {s u v : State} {ks : List Nat} {t : Nat} (h : TileEvents s u ks t) (h' : TileEvents u v ks t) :
    TileEvents s v ks t := by
  refine ⟨?_, fun k e => (h'.2.1 k e).trans (h.2.1 k e), h.2.2.1.trans h'.2.2.1,
    fun p o a b => (h'.2.2.2 p o a b).trans (h.2.2.2 p o a b)⟩
  have a := h.1
  have b := h'.1
  rw [b, a]

theorem TileEvents.weaken {s u : State} {ks ls : List Nat} {t : Nat} (h : TileEvents s u ks t) (hk : ∀ k ∈ ks, k ∈ ls) :
    TileEvents s u ls t :=
  ⟨h.1, h.2.1, h.2.2.1, fun p o a b => h.2.2.2 p o (fun m => a (hk _ m)) b⟩

theorem Events.tile {s u : State} {ks : List Nat} (h : Events s u ks) (t : Nat) : TileEvents s u ks t := by
  have a := h.1
  exact ⟨by rw [a], fun k _ => by rw [a]; rfl, h.2.1, h.2.2⟩

theorem tileEvents_of {s u : State} {ks : List Nat} {t : Nat} (h : OnlyTile s u t) (hr : RegsBut s u ks) :
    TileEvents s u ks t := by
  have a := h.1
  exact ⟨by rw [a], h.2, fun n => by rw [a]; rfl, fun p o k _ => hr p o k⟩

theorem events_putReg (s : State) (p : Page) (o : Nat) (v : Word) (ks : List Nat)
    (h : regKey p o ∈ ks ∨ EvKey (regKey p o) = true) : Events s (putReg s p o v) ks := by
  refine ⟨rfl, LinksSb.refl s, fun q r k e => rawReg_putReg_ne s p q o r v (fun x => ?_)⟩
  rcases h with h | h
  · exact k (x ▸ h)
  · rw [x, h] at e; cases e

theorem events_putFld (s : State) (p : Page) (o hi lo x : Nat) (ks : List Nat)
    (h : regKey p o ∈ ks ∨ EvKey (regKey p o) = true) : Events s (putFld s p o hi lo x) ks := events_putReg s p o _ ks h
theorem events_putBit (s : State) (p : Page) (o b : Nat) (v : Bool) (ks : List Nat)
    (h : regKey p o ∈ ks ∨ EvKey (regKey p o) = true) : Events s (putBit s p o b v) ks := events_putReg s p o _ ks h
theorem events_addFld (s : State) (p : Page) (o hi lo n : Nat) (ks : List Nat)
    (h : regKey p o ∈ ks ∨ EvKey (regKey p o) = true) : Events s (addFld s p o hi lo n) ks := events_putReg s p o _ ks h
theorem events_emit (s : State) (m : OutMsg) (ks : List Nat) : Events s (emit s m) ks :=
  ⟨rfl, LinksSb.refl s, fun _ _ _ _ => rfl⟩
theorem events_sbWave (s : State) (n : Nat) (code : BitVec 7) (ks : List Nat) : Events s (sbWave s n code) ks :=
  ⟨rfl, linksSb_sbWave s n code, fun _ _ _ _ => rfl⟩

theorem pageBase_mod (p : Page) : pageBase p % 0x1000 = 0 := by
  cases p <;> simp only [pageBase] <;> omega

theorem evKey_off (p : Page) (o : Nat) (h : o < 0x1000)
    (ho : 0xE00 ≤ o ∨ o ∈ [0x020, 0x030, 0x034, 0x038, 0x03C, 0x040, 0x054]) : EvKey (regKey p o) = true := by
  have e : regKey p o % 0x1000 = o := by
    have := pageBase_mod p
    simp only [regKey]; omega
  simp only [EvKey, e, Bool.or_eq_true]
  rcases ho with h1 | h1
  · exact .inl (.inr (by simpa using h1))
  · exact .inr (by simpa using h1)

theorem evKey_dbgp (o : Nat) (h : o < 0x1000) : EvKey (regKey .dbgp o) = true := by
  have e : regKey .dbgp o / 0x1000 = 0x20303 := by simp only [regKey, pageBase]; omega
  simp [EvKey, e]

theorem events_setVec (s : State) (v : Nat) (x : MsixVec) (ks : List Nat) : Events s (setVec s v x) ks :=
  ⟨rfl, LinksSb.refl s, fun _ _ _ _ => rfl⟩

theorem events_ite {s u v : State} {ks : List Nat} {c : Prop} [Decidable c] (h : Events s u ks) (h' : Events s v ks) :
    Events s (if c then u else v) ks := by
  split <;> assumption

theorem events_msixRequest (s : State) (v : Nat) (ks : List Nat) : Events s (msixRequest s v) ks := by
  have k (x : MsixVec) (m : OutMsg) : Events s (emit (setVec s v x) m) ks :=
    (events_setVec s v x ks).trans (events_emit _ _ _)
  unfold msixRequest msixSend
  dsimp only
  split
  · exact events_setVec _ _ _ _
  · split
    · exact events_ite (events_setVec _ _ _ _) (k _ _)
    · exact k _ _

theorem events_irqMessage (s : State) (p : Page) (ks : List Nat) : Events s (irqMessage s p) ks := by
  have k : Events s (if rbit s p 0x02C 16 then msixRequest s (rfld s p 0x02C 10 0) else s) ks :=
    events_ite (events_msixRequest _ _ _) (Events.refl _ _)
  unfold irqMessage
  dsimp only
  exact events_ite (k.trans (events_emit _ _ _)) k

theorem events_record (s : State) (p : Page) (code : Nat) (tent : Bool) (layer oper : Half) (detail : Word) (ks : List Nat) :
    Events s (record s p code tent layer oper detail) ks := by
  have hb : rfld s p 0x054 4 0 < 32 := fld_lt _ 4 0
  unfold record
  generalize rfld s p 0x054 4 0 = slot at *
  dsimp only
  apply events_ite (Events.refl _ _)
  have e (o : Nat) (h : o < 0x1000) (h' : 0xE00 ≤ o ∨ o ∈ [0x020, 0x030, 0x034, 0x038, 0x03C, 0x040, 0x054]) (x : State) (w : Word) :
      Events x (putReg x p o w) ks := events_putReg x p o w ks (.inr (evKey_off p o h h'))
  refine ((((e _ ?_ (.inl ?_) _ _).trans (e _ ?_ (.inl ?_) _ _)).trans (e _ ?_ (.inl ?_) _ _)).trans
    (e _ ?_ (.inl ?_) _ _)).trans (e _ (by omega) (.inr (by simp)) _ _) <;> omega

theorem events_isrCore (s : State) (p : Page) (mask : Word) (lo : Half × Half) (ks : List Nat) :
    Events s (isrCore s p mask lo) ks := by
  have k := events_putReg s p 0x020 (rawReg s p 0x020 ||| mask) ks (.inr (evKey_off p _ (by omega) (.inr (by simp))))
  unfold isrCore
  dsimp only
  exact events_ite ((k.trans (events_irqMessage _ _ _)).trans (events_record _ _ _ _ _ _ _ _)) k

theorem events_foldl {α : Type} {s u : State} {ks : List Nat} {l : List α} {f : State → α → State} (h : Events s u ks)
    (hf : ∀ x e, Events x (f x e) ks) : Events s (l.foldl f u) ks := by
  induction l generalizing u with
  | nil => exact h
  | cons e l ih => exact ih (h.trans (hf u e))

theorem events_sendWave (s : State) (fr : Option Nat) (code : BitVec 7) (ks : List Nat) : Events s (sendWave s fr code) ks :=
  events_foldl (Events.refl _ _) (fun x e => events_ite ((events_sbWave x e code ks).trans (events_emit _ _ _)) (Events.refl _ _))

theorem events_stopTrigger (s : State) (cause : Nat) (src : Word) (fr : Option Nat) (ks : List Nat) :
    Events s (stopTrigger s cause src fr) ks := by
  have d (x : State) (o : Nat) (h : o < 0x1000) (w : Word) : Events x (putReg x .dbgp o w) ks :=
    events_putReg x .dbgp o w ks (.inr (evKey_dbgp o h))
  have db (x : State) (o b : Nat) (h : o < 0x1000) (w : Bool) : Events x (putBit x .dbgp o b w) ks := d x o h _
  have df (x : State) (o hi lo n : Nat) (h : o < 0x1000) : Events x (putFld x .dbgp o hi lo n) ks := d x o h _
  unfold stopTrigger
  dsimp only
  have k1 := db s 0x094 cause (by omega) true
  generalize putBit s .dbgp 0x094 cause true = s1 at *
  have k2 : Events s (if rbit s1 .dbgp 0x084 2 then s1 else
      putReg (putReg (putReg (putFld (putBit s1 .dbgp 0x084 2 true) .dbgp 0x084 7 4 cause) .dbgp 0x088 src) .dbgp 0x08C
        (BitVec.ofNat 32 (ntOf s))) .dbgp 0x090 (BitVec.ofNat 32 (ntOf s / 2 ^ 32))) ks :=
    events_ite k1 (k1.trans (((((db _ _ _ (by omega) _).trans (df _ _ _ _ _ (by omega))).trans (d _ _ (by omega) _)).trans
      (d _ _ (by omega) _)).trans (d _ _ (by omega) _)))
  generalize (if rbit s1 .dbgp 0x084 2 then s1 else
      putReg (putReg (putReg (putFld (putBit s1 .dbgp 0x084 2 true) .dbgp 0x084 7 4 cause) .dbgp 0x088 src) .dbgp 0x08C
        (BitVec.ofNat 32 (ntOf s))) .dbgp 0x090 (BitVec.ofNat 32 (ntOf s / 2 ^ 32))) = s2 at *
  apply events_ite k2
  have k3 : Events s ({ s2 with dbg := { s2.dbg with stopped := true, cause := cause } } : State) ks :=
    k2.trans ⟨rfl, LinksSb.refl _, fun _ _ _ _ => rfl⟩
  generalize ({ s2 with dbg := { s2.dbg with stopped := true, cause := cause } } : State) = s3 at *
  exact ((k3.trans (events_ite (events_emit _ _ _) (Events.refl _ _))).trans (events_sendWave _ _ _ _)).trans
    (events_isrCore _ _ _ _ _)

theorem events_silMatch (s : State) (p : Page) (code : Nat) (layer oper : Half) (ks : List Nat) :
    Events s (silMatch s p code layer oper) ks := by
  unfold silMatch
  split
  · exact Events.refl _ _
  · rename_i t u _
    dsimp only
    apply events_ite _ (Events.refl _ _)
    have k := events_isrCore s (.dbg t) 8 (0, 0) ks
    exact events_ite (k.trans (events_stopTrigger _ _ _ _ _)) k

theorem events_sillage (s : State) (p : Page) (code : Nat) (tent : Bool) (layer oper : Half) (detail : Word)
    (ks : List Nat) : Events s (sillage s p code tent layer oper detail) ks :=
  events_ite ((events_record _ _ _ _ _ _ _ _).trans (events_silMatch _ _ _ _ _ _)) (Events.refl _ _)

theorem events_isrSet (s : State) (p : Page) (mask : Word) (lo : Half × Half) (ks : List Nat) :
    Events s (isrSet s p mask lo) ks := by
  have k := events_isrCore s p mask lo ks
  exact events_ite (k.trans (events_silMatch _ _ _ _ _ _)) k

theorem events_isrBit (s : State) (p : Page) (n : Nat) (lo : Half × Half) (ks : List Nat) :
    Events s (isrBit s p n lo) ks := events_isrSet _ _ _ _ _

theorem events_errStop (s : State) (p : Page) (cls : Option Nat) (ks : List Nat) : Events s (errStop s p cls) ks := by
  unfold errStop
  split
  · exact events_ite (events_stopTrigger _ _ _ _ _) (Events.refl _ _)
  · exact Events.refl _ _

theorem events_captureCore (quiet : Bool) (s : State) (p : Page) (code : Nat) (tag layer oper : Half) (detail : Word)
    (cls : Option Nat) (bits : Word) (ks : List Nat) :
    Events s (captureCore quiet s p code tag layer oper detail cls bits) ks := by
  have e (o : Nat) (h : o < 0x1000) (h' : o ∈ [0x020, 0x030, 0x034, 0x038, 0x03C, 0x040, 0x054]) (x : State) (w : Word) :
      Events x (putReg x p o w) ks := events_putReg x p o w ks (.inr (evKey_off p o h (.inr h')))
  unfold captureCore
  dsimp only
  split
  · have k : Events s (putBit s p 0x030 30 true) ks := e 0x030 (by omega) (by simp) s _
    exact events_ite k (k.trans (events_isrSet _ _ _ _ _))
  · have k := (((e 0x030 (by omega) (by simp) s (BitVec.ofNat 32 (2 ^ 31 + code * 65536 + tag.toNat))).trans
      (e 0x034 (by omega) (by simp) _ (BitVec.ofNat 32 (layer.toNat * 65536 + oper.toNat)))).trans
      (e 0x038 (by omega) (by simp) _ (BitVec.ofNat 32 (nsAt s p)))).trans (e 0x03C (by omega) (by simp) _ detail)
    generalize putReg (putReg (putReg (putReg s p 0x030 (BitVec.ofNat 32 (2 ^ 31 + code * 65536 + tag.toNat))) p 0x034
      (BitVec.ofNat 32 (layer.toNat * 65536 + oper.toNat))) p 0x038 (BitVec.ofNat 32 (nsAt s p))) p 0x03C detail = s4 at *
    exact ((k.trans (events_ite (Events.refl _ _) (events_sillage _ _ _ _ _ _ _ _))).trans (events_isrSet _ _ _ _ _)).trans
      (events_errStop _ _ _ _)

theorem events_capture (s : State) (p : Page) (code : Nat) (tag layer oper : Half) (detail : Word) (cls : Option Nat)
    (bits : Word) (ks : List Nat) : Events s (capture s p code tag layer oper detail cls bits) ks :=
  events_captureCore _ _ _ _ _ _ _ _ _ _ _

theorem events_captureOpen (quiet : Bool) (s : State) (p : Page) (code : Nat) (tag layer oper : Half) (cls : Option Nat)
    (bits : Word) (ks : List Nat) : Events s (captureOpen quiet s p code tag layer oper cls bits) ks :=
  Events.trans (u := (takeFree s).2) ⟨rfl, LinksSb.refl s, fun _ _ _ _ => rfl⟩ (events_captureCore _ _ _ _ _ _ _ _ _ _ _)

theorem events_corrected (s : State) (p : Page) (n : Nat) (ks : List Nat) : Events s (corrected s p n) ks :=
  events_ite (Events.refl _ _) (events_addFld _ _ _ _ _ _ _ (.inr (evKey_off p _ (by omega) (.inr (by simp)))))

theorem events_uncorrected (s : State) (p : Page) (code : Nat) (tag layer oper : Half) (bits : Word) (quiet : Bool)
    (ks : List Nat) : Events s (uncorrected s p code tag layer oper bits quiet) ks :=
  (events_addFld s p 0x040 31 16 1 ks (.inr (evKey_off p _ (by omega) (.inr (by simp))))).trans (events_captureOpen _ _ _ _ _ _ _ _ _ _)

end Sys2Proof.Machine
end

