-- ==== Sys2Proof/Laws/Memory.lean ====
section
/-! SUPPORT. Memory: a byte just written, every other byte, ranges, and the canonical form, which every operation keeps. -/

namespace Sys2Proof.Machine

/-- Keys of a memory rise from above a bound, and no entry is 0: the canonical form, said from its first key. -/
def MemFrom : Nat → List Host.Cell → Prop
  | _, [] => True
  | lo, (k, v) :: r => lo ≤ k ∧ v ≠ 0 ∧ MemFrom (k + 1) r

theorem MemFrom.weaken {lo lo' : Nat} {m : List Host.Cell} (h : MemFrom lo m) (hl : lo' ≤ lo) : MemFrom lo' m := by
  cases m with
  | nil => trivial
  | cons e r => exact ⟨Nat.le_trans hl h.1, h.2⟩

theorem wf_iff (m : List Host.Cell) : Memory.wf m = true ↔ MemFrom 0 m := by
  have gen : ∀ (m : List Host.Cell) (lo : Nat), (∀ k v r, m = (k, v) :: r → lo ≤ k) →
      (Memory.wf m = true ↔ MemFrom lo m) := by
    intro m
    induction m with
    | nil => intro lo _; simp [Memory.wf, MemFrom]
    | cons e r ih =>
      intro lo hlo
      obtain ⟨k, v⟩ := e
      have hk := hlo k v r rfl
      cases r with
      | nil => simp [Memory.wf, MemFrom, hk]
      | cons e2 r2 =>
        obtain ⟨k2, v2⟩ := e2
        simp only [Memory.wf, MemFrom, Bool.and_eq_true, bne_iff_ne, decide_eq_true_eq]
        constructor
        · rintro ⟨⟨hv, hkk⟩, hr⟩
          have := (ih (k + 1) (by intro a b c h; cases h; omega)).1 hr
          exact ⟨hk, hv, this⟩
        · rintro ⟨-, hv, h2⟩
          have hkk : k < k2 := h2.1
          exact ⟨⟨hv, hkk⟩, (ih (k + 1) (by intro a b c h; cases h; omega)).2 h2⟩
  exact gen m 0 (by intros; omega)

theorem memFrom_putByte (m : List Host.Cell) (lo k : Nat) (v : Byte) (hk : lo ≤ k) (h : MemFrom lo m) :
    MemFrom lo (putByte m k v) := by
  induction m generalizing lo with
  | nil =>
    simp only [putByte]
    split
    · trivial
    · rename_i hv; exact ⟨hk, hv, trivial⟩
  | cons e r ih =>
    obtain ⟨k', v'⟩ := e
    obtain ⟨h1, h2, h3⟩ := h
    simp only [putByte]
    split
    · split
      · exact ⟨h1, h2, h3⟩
      · rename_i hlt hv; exact ⟨hk, hv, ⟨hlt, h2, h3⟩⟩
    · split
      · split
        · exact h3.weaken (by omega)
        · rename_i he hv; subst he; exact ⟨hk, hv, h3⟩
      · exact ⟨h1, h2, ih (k' + 1) (by omega) h3⟩

theorem memFrom_clear (m : List Host.Cell) (lo a b : Nat) (h : MemFrom lo m) : MemFrom lo (zeroRange m a b) := by
  induction m generalizing lo with
  | nil => trivial
  | cons e r ih =>
    obtain ⟨k, v⟩ := e
    obtain ⟨h1, h2, h3⟩ := h
    simp only [zeroRange, tabClear, List.filter]
    split
    · exact ⟨h1, h2, ih _ h3⟩
    · exact ih _ (h3.weaken (by omega))

/-- A byte written keeps the canonical form. -/
theorem wf_putByte (m : List Host.Cell) (k : Nat) (v : Byte) (h : Memory.wf m = true) : Memory.wf (putByte m k v) = true :=
  (wf_iff _).2 (memFrom_putByte m 0 k v (Nat.zero_le _) ((wf_iff m).1 h))

/-- Bytes written keep the canonical form. -/
theorem wf_putBytes (m : List Host.Cell) (k : Nat) (bs : List Byte) (h : Memory.wf m = true) :
    Memory.wf (putBytes m k bs) = true := by
  induction bs generalizing m k with
  | nil => exact h
  | cons b bs ih => exact ih _ _ (wf_putByte m k b h)

/-- A cleared range keeps the canonical form. -/
theorem wf_zeroRange (m : List Host.Cell) (a b : Nat) (h : Memory.wf m = true) : Memory.wf (zeroRange m a b) = true :=
  (wf_iff _).2 (memFrom_clear m 0 a b ((wf_iff m).1 h))

/-! ## Reading back -/

theorem getByte_of_lt (m : List Host.Cell) (lo k : Nat) (h : MemFrom lo m) (hk : k < lo) : getByte m k = 0 := by
  induction m generalizing lo with
  | nil => rfl
  | cons e r ih =>
    obtain ⟨k', v'⟩ := e
    have : k ≠ k' := by have := h.1; omega
    simp only [getByte, tabGet, this, if_false]
    exact ih (k' + 1) h.2.2 (by have := h.1; omega)

/-- The byte just written, in a canonical memory. -/
theorem getByte_putByte_same (m : List Host.Cell) (k : Nat) (v : Byte) (h : Memory.wf m = true) :
    getByte (putByte m k v) k = v := by
  have gen : ∀ (m : List Host.Cell) (lo : Nat), MemFrom lo m → getByte (putByte m k v) k = v := by
    intro m
    induction m with
    | nil => intro lo _; simp only [putByte]; split <;> simp [getByte, tabGet, *]
    | cons e r ih =>
      intro lo h
      obtain ⟨k', v'⟩ := e
      obtain ⟨h1, h2, h3⟩ := h
      simp only [putByte]
      split
      · rename_i hlt
        split
        · rename_i hv
          have : k ≠ k' := by omega
          simp only [getByte, tabGet, this, if_false, hv]
          exact getByte_of_lt r (k' + 1) k h3 (by omega)
        · simp [getByte, tabGet]
      · split
        · rename_i he
          split
          · rename_i hv; rw [hv]; exact getByte_of_lt r (k' + 1) k h3 (by omega)
          · simp [getByte, tabGet]
        · rename_i hne
          simp only [getByte, tabGet, hne, if_false]
          exact ih _ h3
  exact gen m 0 ((wf_iff m).1 h)

/-- Another byte than the one written. -/
@[simp] theorem getByte_putByte_ne (m : List Host.Cell) (k j : Nat) (v : Byte) (h : j ≠ k) :
    getByte (putByte m k v) j = getByte m j := by
  induction m with
  | nil => simp only [putByte]; split <;> simp [getByte, tabGet, h]
  | cons e r ih =>
    obtain ⟨k', v'⟩ := e
    simp only [putByte]
    split
    · split <;> simp [getByte, tabGet, h]
    · split
      · rename_i he; subst he; split <;> simp [getByte, tabGet, h]
      · simp only [getByte, tabGet] at ih ⊢; rw [ih]

/-- A byte outside the bytes written. -/
theorem getByte_putBytes_out (m : List Host.Cell) (k j : Nat) (bs : List Byte) (h : j < k ∨ k + bs.length ≤ j) :
    getByte (putBytes m k bs) j = getByte m j := by
  induction bs generalizing m k with
  | nil => rfl
  | cons b bs ih =>
    simp only [List.length_cons] at h
    simp only [putBytes]
    rw [ih _ _ (by omega), getByte_putByte_ne _ _ _ _ (by omega)]

/-- A byte of the bytes written, in a canonical memory. -/
theorem getByte_putBytes_in (m : List Host.Cell) (k i : Nat) (bs : List Byte) (hw : Memory.wf m = true)
    (hi : i < bs.length) : getByte (putBytes m k bs) (k + i) = bs[i] := by
  induction bs generalizing m k i with
  | nil => simp at hi
  | cons b bs ih =>
    cases i with
    | zero =>
      simp only [putBytes, Nat.add_zero, List.getElem_cons_zero]
      rw [getByte_putBytes_out _ _ _ _ (by omega)]
      exact getByte_putByte_same m k b hw
    | succ i =>
      simp only [putBytes, List.getElem_cons_succ]
      have := ih (putByte m k b) (k + 1) i (wf_putByte m k b hw) (by simpa using hi)
      rw [← this]; congr 1; omega

@[simp] theorem length_getBytes (m : List Host.Cell) (k n : Nat) : (getBytes m k n).length = n := by
  induction n generalizing k with
  | zero => rfl
  | succ n ih => simp [getBytes, ih]

theorem getElem_getBytes (m : List Host.Cell) (k n i : Nat) (h : i < n) :
    (getBytes m k n)[i]'(by simpa using h) = getByte m (k + i) := by
  induction n generalizing k i with
  | zero => omega
  | succ n ih =>
    cases i with
    | zero => simp [getBytes]
    | succ i => simp only [getBytes, List.getElem_cons_succ]; rw [ih (k + 1) i (by omega)]; congr 1; omega

/-- What was written is read back. -/
theorem getBytes_putBytes_same (m : List Host.Cell) (k : Nat) (bs : List Byte) (hw : Memory.wf m = true) :
    getBytes (putBytes m k bs) k bs.length = bs := by
  apply List.ext_getElem (by simp)
  intro i h1 h2
  rw [getElem_getBytes _ _ _ _ (by simpa using h1), getByte_putBytes_in _ _ _ _ hw h2]

/-- A range apart from the bytes written. -/
theorem getBytes_putBytes_apart (m : List Host.Cell) (k j n : Nat) (bs : List Byte)
    (h : j + n ≤ k ∨ k + bs.length ≤ j) : getBytes (putBytes m k bs) j n = getBytes m j n := by
  apply List.ext_getElem (by simp)
  intro i h1 h2
  rw [getElem_getBytes _ _ _ _ (by simpa using h1), getElem_getBytes _ _ _ _ (by simpa using h1)]
  exact getByte_putBytes_out _ _ _ _ (by simp at h1; omega)

/-- Cleared bytes read 0, in any memory. -/
theorem getByte_zeroRange_in (m : List Host.Cell) (a b k : Nat) (ha : a ≤ k) (hb : k < b) :
    getByte (zeroRange m a b) k = 0 := by
  induction m with
  | nil => rfl
  | cons e r ih =>
    obtain ⟨k', v'⟩ := e
    simp only [zeroRange, tabClear, List.filter] at ih ⊢
    split
    · rename_i hc
      have : k ≠ k' := by simp at hc; omega
      simp only [getByte, tabGet, this, if_false]; exact ih
    · exact ih

/-- Bytes outside a cleared range are as before. -/
theorem getByte_zeroRange_out (m : List Host.Cell) (a b k : Nat) (h : k < a ∨ b ≤ k) :
    getByte (zeroRange m a b) k = getByte m k := by
  induction m with
  | nil => rfl
  | cons e r ih =>
    obtain ⟨k', v'⟩ := e
    simp only [zeroRange, tabClear, List.filter] at ih ⊢
    split
    · simp only [getByte, tabGet] at ih ⊢; rw [ih]
    · rename_i hc
      have : k ≠ k' := by simp at hc; omega
      simp only [getByte, tabGet, this, if_false] at ih ⊢; exact ih

/-- The memory right after reset is canonical. -/
theorem wf_reset : Memory.wf State.reset.mem = true := rfl

end Sys2Proof.Machine
end

