-- ==== Sys2Proof/Laws/KeepsBase.lean ====
section
/-! SUPPORT. How what every step keeps is proved of an operation: through the operations it is made of. -/

namespace Sys2Proof.Machine

theorem Keeps.refl (s : State) : Keeps s s := ⟨rfl, rfl, Nat.le_refl _, id⟩

theorem Keeps.trans {a b c : State} (h : Keeps a b) (k : Keeps b c) : Keeps a c :=
  ⟨k.fuses.trans h.fuses, k.pending.trans h.pending, Nat.le_trans h.time k.time, fun w => k.mem (h.mem w)⟩

/-- An update of other fields. -/
theorem keeps_same {a s s' : State} (h : Keeps a s) (hf : s'.fuses = s.fuses) (hp : s'.pending = s.pending)
    (ht : s'.time = s.time) (hm : s'.mem = s.mem) : Keeps a s' :=
  ⟨hf.trans h.fuses, hp.trans h.pending, ht ▸ h.time, fun w => hm ▸ h.mem w⟩

/-- An update of memory that keeps its form. -/
theorem keeps_mem {a s s' : State} (h : Keeps a s) (hf : s'.fuses = s.fuses) (hp : s'.pending = s.pending)
    (ht : s'.time = s.time) (hm : Memory.wf s.mem = true → Memory.wf s'.mem = true) : Keeps a s' :=
  ⟨hf.trans h.fuses, hp.trans h.pending, ht ▸ h.time, fun w => hm (h.mem w)⟩

/-- An update of any fields but fuses, time, memory and queue. -/
theorem keeps_mk {a s : State} {xregs : Tab Word} {xlatches : Tab Word} {xecc : Tab UnitErr} {xtiles : Tab Tile}
    {xedges : Tab Edge} {xdies : Tab Die} {xlinks : Tab Link} {xeths : Tab Eth} {xglzs : Tab Glz} {xtkp : Tkp} {xrtc :
    Rtc} {xhif : Hif} {xbuckets : Tab Bucket} {xrlog : List RlogE} {xmgt : Mgt} {xdbg : Dbg} {xout : List OutMsg} {xfree :
    Nat}
    (h : Keeps a s) : Keeps a (State.mk s.fuses s.time xregs xlatches s.mem xecc xtiles xedges xdies xlinks xeths
    xglzs xtkp xrtc xhif xbuckets xrlog xmgt xdbg xout xfree s.pending) :=
  ⟨h.fuses, h.pending, h.time, h.mem⟩

theorem keeps_ite {a s s' : State} {c : Prop} [Decidable c] (h : Keeps a s) (h' : Keeps a s') :
    Keeps a (if c then s else s') := by
  split <;> assumption

theorem keeps_foldl {α : Type} {a s : State} {l : List α} {f : State → α → State} (h : Keeps a s)
    (hf : ∀ (x : State) (e : α), Keeps a x → Keeps a (f x e)) : Keeps a (l.foldl f s) := by
  induction l generalizing s with
  | nil => exact h
  | cons e l ih => exact ih (hf s e h)

theorem keeps_iter {a s : State} {f : State → State} {n : Nat} (h : Keeps a s)
    (hf : ∀ x : State, Keeps a x → Keeps a (f x)) : Keeps a (iter f n s) := by
  induction n generalizing s with
  | zero => exact h
  | succ n ih => exact ih (hf s h)

theorem keeps_elim {α : Type} {a s : State} {o : Option α} {f : α → State} (h : Keeps a s)
    (hf : ∀ q : α, Keeps a (f q)) : Keeps a (o.elim s f) := by
  cases o with
  | none => exact h
  | some q => exact hf q

/-- What an option that a condition guards answers. -/
theorem keeps_ifsome {a s : State} {c : Prop} [Decidable c] {o : Option State} (e : (if c then o else none) = some s)
    (h : o = some s → Keeps a s) : Keeps a s := by
  split at e
  · exact h e
  · cases e

/-- A fold that carries a value beside the state. -/
theorem keeps_foldl2 {α β : Type} {a : State} {l : List α} {f : β × State → α → β × State} {p : β × State}
    (h : Keeps a p.2) (hf : ∀ (x : β × State) (e : α), Keeps a x.2 → Keeps a (f x e).2) : Keeps a (l.foldl f p).2 := by
  induction l generalizing p with
  | nil => exact h
  | cons e l ih => exact ih (hf p e h)

theorem keeps_foldl3 {α β γ : Type} {a : State} {l : List α} {f : β × γ × State → α → β × γ × State} {p : β × γ × State}
    (h : Keeps a p.2.2) (hf : ∀ (x : β × γ × State) (e : α), Keeps a x.2.2 → Keeps a (f x e).2.2) :
    Keeps a (l.foldl f p).2.2 := by
  induction l generalizing p with
  | nil => exact h
  | cons e l ih => exact ih (hf p e h)

theorem keeps_pair {β : Type} {a s : State} {b : β} (h : Keeps a s) : Keeps a (b, s).2 := h
theorem keeps_pair3 {β γ : Type} {a s : State} {b : β} {c : γ} (h : Keeps a s) : Keeps a (b, c, s).2.2 := h

theorem keeps_ite2 {β : Type} {a : State} {c : Prop} [Decidable c] {x y : β × State} (h : Keeps a x.2)
    (h' : Keeps a y.2) : Keeps a (if c then x else y).2 := by
  split <;> assumption

theorem keeps_ite3 {β γ : Type} {a : State} {c : Prop} [Decidable c] {x y : β × γ × State} (h : Keeps a x.2.2)
    (h' : Keeps a y.2.2) : Keeps a (if c then x else y).2.2 := by
  split <;> assumption

end Sys2Proof.Machine
end

