-- ==== Sys2Proof/Laws/KeepsOps.lean ====
section
/-! SUPPORT. Every operation of Machine/Ops.lean keeps what Safety.lean names. -/

namespace Sys2Proof.Machine

set_option linter.all false

theorem writeMem_keeps {z : State} (s : State) (k : Nat) (bs : List Byte) (h : Keeps z s) : Keeps z (writeMem s k bs) :=
  keeps_mem h rfl rfl rfl (fun w => wf_putBytes _ _ _ w)

theorem clearUnit_keeps {z : State} (s : State) (u : Nat) (hK : Keeps z s) : Keeps z (clearUnit s u) := by
  unfold clearUnit
  try dsimp only
  repeat' (first | with_reducible assumption | intro _ | with_reducible apply keeps_ite2 | with_reducible apply keeps_ite3 | with_reducible apply keeps_foldl | with_reducible apply keeps_foldl2 | with_reducible apply keeps_foldl3 | with_reducible apply keeps_iter | with_reducible apply keeps_elim | with_reducible apply keeps_ite | split | with_reducible apply keeps_mk | dsimp only)

theorem addFaults_keeps {z : State} (s : State) (fl : List UFault) (hK : Keeps z s) : Keeps z (addFaults s fl) := by
  unfold addFaults
  try dsimp only
  repeat' (first | with_reducible assumption | intro _ | with_reducible apply keeps_ite2 | with_reducible apply keeps_ite3 | with_reducible apply keeps_foldl | with_reducible apply keeps_foldl2 | with_reducible apply keeps_foldl3 | with_reducible apply keeps_iter | with_reducible apply keeps_elim | with_reducible apply keeps_ite | split | with_reducible apply keeps_mk | dsimp only)

theorem setTile_keeps {z : State} (s : State) (t : Nat) (x : Tile) (hK : Keeps z s) : Keeps z (setTile s t x) := by
  unfold setTile
  try dsimp only
  repeat' (first | with_reducible assumption | intro _ | with_reducible apply keeps_ite2 | with_reducible apply keeps_ite3 | with_reducible apply keeps_foldl | with_reducible apply keeps_foldl2 | with_reducible apply keeps_foldl3 | with_reducible apply keeps_iter | with_reducible apply keeps_elim | with_reducible apply keeps_ite | split | with_reducible apply keeps_mk | dsimp only)

theorem modTile_keeps {z : State} (s : State) (t : Nat) (f : Tile → Tile) (hK : Keeps z s) : Keeps z (modTile s t f) := by
  unfold modTile
  try dsimp only
  repeat' (first | with_reducible assumption | intro _ | with_reducible apply keeps_ite2 | with_reducible apply keeps_ite3 | with_reducible apply setTile_keeps | with_reducible apply keeps_foldl | with_reducible apply keeps_foldl2 | with_reducible apply keeps_foldl3 | with_reducible apply keeps_iter | with_reducible apply keeps_elim | with_reducible apply keeps_ite | split | with_reducible apply keeps_mk | dsimp only)

theorem modEdge_keeps {z : State} (s : State) (x e : Nat) (f : Edge → Edge) (hK : Keeps z s) : Keeps z (modEdge s x e f) := by
  unfold modEdge
  try dsimp only
  repeat' (first | with_reducible assumption | intro _ | with_reducible apply keeps_ite2 | with_reducible apply keeps_ite3 | with_reducible apply keeps_foldl | with_reducible apply keeps_foldl2 | with_reducible apply keeps_foldl3 | with_reducible apply keeps_iter | with_reducible apply keeps_elim | with_reducible apply keeps_ite | split | with_reducible apply keeps_mk | dsimp only)

theorem modDie_keeps {z : State} (s : State) (d : Nat) (f : Die → Die) (hK : Keeps z s) : Keeps z (modDie s d f) := by
  unfold modDie
  try dsimp only
  repeat' (first | with_reducible assumption | intro _ | with_reducible apply keeps_ite2 | with_reducible apply keeps_ite3 | with_reducible apply keeps_foldl | with_reducible apply keeps_foldl2 | with_reducible apply keeps_foldl3 | with_reducible apply keeps_iter | with_reducible apply keeps_elim | with_reducible apply keeps_ite | split | with_reducible apply keeps_mk | dsimp only)

theorem modLink_keeps {z : State} (s : State) (n : Nat) (f : Link → Link) (hK : Keeps z s) : Keeps z (modLink s n f) := by
  unfold modLink
  try dsimp only
  repeat' (first | with_reducible assumption | intro _ | with_reducible apply keeps_ite2 | with_reducible apply keeps_ite3 | with_reducible apply keeps_foldl | with_reducible apply keeps_foldl2 | with_reducible apply keeps_foldl3 | with_reducible apply keeps_iter | with_reducible apply keeps_elim | with_reducible apply keeps_ite | split | with_reducible apply keeps_mk | dsimp only)

theorem modEth_keeps {z : State} (s : State) (n : Nat) (f : Eth → Eth) (hK : Keeps z s) : Keeps z (modEth s n f) := by
  unfold modEth
  try dsimp only
  repeat' (first | with_reducible assumption | intro _ | with_reducible apply keeps_ite2 | with_reducible apply keeps_ite3 | with_reducible apply keeps_foldl | with_reducible apply keeps_foldl2 | with_reducible apply keeps_foldl3 | with_reducible apply keeps_iter | with_reducible apply keeps_elim | with_reducible apply keeps_ite | split | with_reducible apply keeps_mk | dsimp only)

theorem modGlz_keeps {z : State} (s : State) (n : Nat) (f : Glz → Glz) (hK : Keeps z s) : Keeps z (modGlz s n f) := by
  unfold modGlz
  try dsimp only
  repeat' (first | with_reducible assumption | intro _ | with_reducible apply keeps_ite2 | with_reducible apply keeps_ite3 | with_reducible apply keeps_foldl | with_reducible apply keeps_foldl2 | with_reducible apply keeps_foldl3 | with_reducible apply keeps_iter | with_reducible apply keeps_elim | with_reducible apply keeps_ite | split | with_reducible apply keeps_mk | dsimp only)

theorem modAcc_keeps {z : State} (s : State) (n : Nat) (f : Acc → Acc) (hK : Keeps z s) : Keeps z (modAcc s n f) := by
  unfold modAcc
  try dsimp only
  repeat' (first | with_reducible assumption | intro _ | with_reducible apply keeps_ite2 | with_reducible apply keeps_ite3 | with_reducible apply keeps_foldl | with_reducible apply keeps_foldl2 | with_reducible apply keeps_foldl3 | with_reducible apply keeps_iter | with_reducible apply keeps_elim | with_reducible apply keeps_ite | split | with_reducible apply keeps_mk | dsimp only)

theorem modCtx_keeps {z : State} (s : State) (t lc : Nat) (f : Ctx → Ctx) (hK : Keeps z s) : Keeps z (modCtx s t lc f) := by
  unfold modCtx
  try dsimp only
  repeat' (first | with_reducible assumption | intro _ | with_reducible apply keeps_ite2 | with_reducible apply keeps_ite3 | with_reducible apply modTile_keeps | with_reducible apply keeps_foldl | with_reducible apply keeps_foldl2 | with_reducible apply keeps_foldl3 | with_reducible apply keeps_iter | with_reducible apply keeps_elim | with_reducible apply keeps_ite | split | with_reducible apply keeps_mk | dsimp only)

theorem modCq_keeps {z : State} (s : State) (t n : Nat) (f : Cq → Cq) (hK : Keeps z s) : Keeps z (modCq s t n f) := by
  unfold modCq
  try dsimp only
  repeat' (first | with_reducible assumption | intro _ | with_reducible apply keeps_ite2 | with_reducible apply keeps_ite3 | with_reducible apply modTile_keeps | with_reducible apply keeps_foldl | with_reducible apply keeps_foldl2 | with_reducible apply keeps_foldl3 | with_reducible apply keeps_iter | with_reducible apply keeps_elim | with_reducible apply keeps_ite | split | with_reducible apply keeps_mk | dsimp only)

theorem emit_keeps {z : State} (s : State) (o : OutMsg) (hK : Keeps z s) : Keeps z (emit s o) := by
  unfold emit
  try dsimp only
  repeat' (first | with_reducible assumption | intro _ | with_reducible apply keeps_ite2 | with_reducible apply keeps_ite3 | with_reducible apply keeps_foldl | with_reducible apply keeps_foldl2 | with_reducible apply keeps_foldl3 | with_reducible apply keeps_iter | with_reducible apply keeps_elim | with_reducible apply keeps_ite | split | with_reducible apply keeps_mk | dsimp only)

theorem putReg_keeps {z : State} (s : State) (p : Page) (off : Nat) (v : Word) (hK : Keeps z s) : Keeps z (putReg s p off v) := by
  unfold putReg
  try dsimp only
  repeat' (first | with_reducible assumption | intro _ | with_reducible apply keeps_ite2 | with_reducible apply keeps_ite3 | with_reducible apply keeps_foldl | with_reducible apply keeps_foldl2 | with_reducible apply keeps_foldl3 | with_reducible apply keeps_iter | with_reducible apply keeps_elim | with_reducible apply keeps_ite | split | with_reducible apply keeps_mk | dsimp only)

theorem putFld_keeps {z : State} (s : State) (p : Page) (off hi lo x : Nat) (hK : Keeps z s) : Keeps z (putFld s p off hi lo x) := by
  unfold putFld
  try dsimp only
  repeat' (first | with_reducible assumption | intro _ | with_reducible apply keeps_ite2 | with_reducible apply keeps_ite3 | with_reducible apply putReg_keeps | with_reducible apply keeps_foldl | with_reducible apply keeps_foldl2 | with_reducible apply keeps_foldl3 | with_reducible apply keeps_iter | with_reducible apply keeps_elim | with_reducible apply keeps_ite | split | with_reducible apply keeps_mk | dsimp only)

theorem putBit_keeps {z : State} (s : State) (p : Page) (off b : Nat) (v : Bool) (hK : Keeps z s) : Keeps z (putBit s p off b v) := by
  unfold putBit
  try dsimp only
  repeat' (first | with_reducible assumption | intro _ | with_reducible apply keeps_ite2 | with_reducible apply keeps_ite3 | with_reducible apply putFld_keeps | with_reducible apply keeps_foldl | with_reducible apply keeps_foldl2 | with_reducible apply keeps_foldl3 | with_reducible apply keeps_iter | with_reducible apply keeps_elim | with_reducible apply keeps_ite | split | with_reducible apply keeps_mk | dsimp only)

theorem addFld_keeps {z : State} (s : State) (p : Page) (off hi lo n : Nat) (hK : Keeps z s) : Keeps z (addFld s p off hi lo n) := by
  unfold addFld
  try dsimp only
  repeat' (first | with_reducible assumption | intro _ | with_reducible apply keeps_ite2 | with_reducible apply keeps_ite3 | with_reducible apply putFld_keeps | with_reducible apply keeps_foldl | with_reducible apply keeps_foldl2 | with_reducible apply keeps_foldl3 | with_reducible apply keeps_iter | with_reducible apply keeps_elim | with_reducible apply keeps_ite | split | with_reducible apply keeps_mk | dsimp only)

theorem resetRegs_keeps {z : State} (s : State) (p : Page) (lo hi : Nat) (hK : Keeps z s) : Keeps z (resetRegs s p lo hi) := by
  unfold resetRegs
  try dsimp only
  repeat' (first | with_reducible assumption | intro _ | with_reducible apply keeps_ite2 | with_reducible apply keeps_ite3 | with_reducible apply keeps_foldl | with_reducible apply keeps_foldl2 | with_reducible apply keeps_foldl3 | with_reducible apply keeps_iter | with_reducible apply keeps_elim | with_reducible apply keeps_ite | split | with_reducible apply keeps_mk | dsimp only)

theorem workCount_keeps {z : State} (s : State) (p : Page) (off hi lo n : Nat) (hK : Keeps z s) : Keeps z (workCount s p off hi lo n) := by
  unfold workCount
  try dsimp only
  repeat' (first | with_reducible assumption | intro _ | with_reducible apply keeps_ite2 | with_reducible apply keeps_ite3 | with_reducible apply addFld_keeps | with_reducible apply keeps_foldl | with_reducible apply keeps_foldl2 | with_reducible apply keeps_foldl3 | with_reducible apply keeps_iter | with_reducible apply keeps_elim | with_reducible apply keeps_ite | split | with_reducible apply keeps_mk | dsimp only)

theorem setRin_keeps {z : State} (s : State) (t port vc : Nat) (w : Option Worm) (hK : Keeps z s) : Keeps z (setRin s t port vc w) := by
  unfold setRin
  try dsimp only
  repeat' (first | with_reducible assumption | intro _ | with_reducible apply keeps_ite2 | with_reducible apply keeps_ite3 | with_reducible apply modTile_keeps | with_reducible apply keeps_foldl | with_reducible apply keeps_foldl2 | with_reducible apply keeps_foldl3 | with_reducible apply keeps_iter | with_reducible apply keeps_elim | with_reducible apply keeps_ite | split | with_reducible apply keeps_mk | dsimp only)

theorem takeFree_keeps {z : State} (s : State) (hK : Keeps z s) : Keeps z (takeFree s).2 := by
  unfold takeFree
  try dsimp only
  repeat' (first | with_reducible assumption | intro _ | with_reducible apply keeps_ite2 | with_reducible apply keeps_ite3 | with_reducible apply keeps_foldl | with_reducible apply keeps_foldl2 | with_reducible apply keeps_foldl3 | with_reducible apply keeps_iter | with_reducible apply keeps_elim | with_reducible apply keeps_ite | split | with_reducible apply keeps_mk | dsimp only)

theorem takeFree_keeps2 {z : State} {s : State} {rK} {sK : State} (e : takeFree s = (rK, sK)) (hK : Keeps z s) : Keeps z sK := by
  have k := takeFree_keeps (z := z) s hK
  rw [e] at k; exact k

end Sys2Proof.Machine
end

