-- ==== Sys2Proof/Laws/KeepsBlockOps.lean ====
section
/-! SUPPORT. Every operation of Machine/BlockOps.lean keeps what Safety.lean names. -/

namespace Sys2Proof.Machine

set_option linter.all false

theorem sbPush_keeps {z : State} (s : State) (n : Nat) (us : List Byte) (hK : Keeps z s) : Keeps z (sbPush s n us) := by
  unfold sbPush
  try dsimp only
  repeat' (first | with_reducible assumption | intro _ | with_reducible apply keeps_ite2 | with_reducible apply keeps_ite3 | with_reducible apply modLink_keeps | with_reducible apply keeps_foldl | with_reducible apply keeps_foldl2 | with_reducible apply keeps_foldl3 | with_reducible apply keeps_iter | with_reducible apply keeps_elim | with_reducible apply keeps_ite | split | with_reducible apply keeps_mk | dsimp only)

theorem sbWave_keeps {z : State} (s : State) (n : Nat) (code : BitVec 7) (hK : Keeps z s) : Keeps z (sbWave s n code) := by
  unfold sbWave
  try dsimp only
  repeat' (first | with_reducible assumption | intro _ | with_reducible apply keeps_ite2 | with_reducible apply keeps_ite3 | with_reducible apply modLink_keeps | with_reducible apply keeps_foldl | with_reducible apply keeps_foldl2 | with_reducible apply keeps_foldl3 | with_reducible apply keeps_iter | with_reducible apply keeps_elim | with_reducible apply keeps_ite | split | with_reducible apply keeps_mk | dsimp only)

end Sys2Proof.Machine
end

