-- ==== Sys2Proof/Laws/KeepsFlags.lean ====
section
/-! SUPPORT. Every operation of Machine/Flags.lean keeps what Safety.lean names. -/

namespace Sys2Proof.Machine

set_option linter.all false

theorem setVec_keeps {z : State} (s : State) (v : Nat) (x : MsixVec) (hK : Keeps z s) : Keeps z (setVec s v x) := by
  unfold setVec
  try dsimp only
  repeat' (first | with_reducible assumption | intro _ | with_reducible apply keeps_ite2 | with_reducible apply keeps_ite3 | with_reducible apply keeps_foldl | with_reducible apply keeps_foldl2 | with_reducible apply keeps_foldl3 | with_reducible apply keeps_iter | with_reducible apply keeps_elim | with_reducible apply keeps_ite | split | with_reducible apply keeps_mk | dsimp only)

theorem msixSend_keeps {z : State} (s : State) (v : Nat) (hK : Keeps z s) : Keeps z (msixSend s v) := by
  unfold msixSend
  try dsimp only
  repeat' (first | with_reducible assumption | intro _ | with_reducible apply keeps_ite2 | with_reducible apply keeps_ite3 | with_reducible apply emit_keeps | with_reducible apply setVec_keeps | with_reducible apply keeps_foldl | with_reducible apply keeps_foldl2 | with_reducible apply keeps_foldl3 | with_reducible apply keeps_iter | with_reducible apply keeps_elim | with_reducible apply keeps_ite | split | with_reducible apply keeps_mk | dsimp only)

theorem msixRequest_keeps {z : State} (s : State) (v : Nat) (hK : Keeps z s) : Keeps z (msixRequest s v) := by
  unfold msixRequest
  try dsimp only
  repeat' (first | with_reducible assumption | intro _ | with_reducible apply keeps_ite2 | with_reducible apply keeps_ite3 | with_reducible apply setVec_keeps | with_reducible apply msixSend_keeps | with_reducible apply keeps_foldl | with_reducible apply keeps_foldl2 | with_reducible apply keeps_foldl3 | with_reducible apply keeps_iter | with_reducible apply keeps_elim | with_reducible apply keeps_ite | split | with_reducible apply keeps_mk | dsimp only)

theorem irqMessage_keeps {z : State} (s : State) (p : Page) (hK : Keeps z s) : Keeps z (irqMessage s p) := by
  unfold irqMessage
  try dsimp only
  repeat' (first | with_reducible assumption | intro _ | with_reducible apply keeps_ite2 | with_reducible apply keeps_ite3 | with_reducible apply emit_keeps | with_reducible apply msixRequest_keeps | with_reducible apply keeps_foldl | with_reducible apply keeps_foldl2 | with_reducible apply keeps_foldl3 | with_reducible apply keeps_iter | with_reducible apply keeps_elim | with_reducible apply keeps_ite | split | with_reducible apply keeps_mk | dsimp only)

theorem record_keeps {z : State} (s : State) (p : Page) (code : Nat) (tent : Bool) (layer oper : Half) (detail : Word) (hK : Keeps z s) : Keeps z (record s p code tent layer oper detail) := by
  unfold record
  try dsimp only
  repeat' (first | with_reducible assumption | intro _ | with_reducible apply keeps_ite2 | with_reducible apply keeps_ite3 | with_reducible apply putReg_keeps | with_reducible apply keeps_foldl | with_reducible apply keeps_foldl2 | with_reducible apply keeps_foldl3 | with_reducible apply keeps_iter | with_reducible apply keeps_elim | with_reducible apply keeps_ite | split | with_reducible apply keeps_mk | dsimp only)

theorem isrCore_keeps {z : State} (s : State) (p : Page) (mask : Word) (lo : Half × Half) (hK : Keeps z s) : Keeps z (isrCore s p mask lo) := by
  unfold isrCore
  try dsimp only
  repeat' (first | with_reducible assumption | intro _ | with_reducible apply keeps_ite2 | with_reducible apply keeps_ite3 | with_reducible apply putReg_keeps | with_reducible apply record_keeps | with_reducible apply irqMessage_keeps | with_reducible apply keeps_foldl | with_reducible apply keeps_foldl2 | with_reducible apply keeps_foldl3 | with_reducible apply keeps_iter | with_reducible apply keeps_elim | with_reducible apply keeps_ite | split | with_reducible apply keeps_mk | dsimp only)

theorem sendWave_keeps {z : State} (s : State) (from_ : Option Nat) (code : BitVec 7) (hK : Keeps z s) : Keeps z (sendWave s from_ code) := by
  unfold sendWave
  try dsimp only
  repeat' (first | with_reducible assumption | intro _ | with_reducible apply keeps_ite2 | with_reducible apply keeps_ite3 | with_reducible apply emit_keeps | with_reducible apply sbWave_keeps | with_reducible apply keeps_foldl | with_reducible apply keeps_foldl2 | with_reducible apply keeps_foldl3 | with_reducible apply keeps_iter | with_reducible apply keeps_elim | with_reducible apply keeps_ite | split | with_reducible apply keeps_mk | dsimp only)

theorem stopTrigger_keeps {z : State} (s : State) (cause : Nat) (src : Word) (from_ : Option Nat) (hK : Keeps z s) : Keeps z (stopTrigger s cause src from_) := by
  unfold stopTrigger
  try dsimp only
  repeat' (first | with_reducible assumption | intro _ | with_reducible apply keeps_ite2 | with_reducible apply keeps_ite3 | with_reducible apply emit_keeps | with_reducible apply putReg_keeps | with_reducible apply putFld_keeps | with_reducible apply putBit_keeps | with_reducible apply isrCore_keeps | with_reducible apply sendWave_keeps | with_reducible apply keeps_foldl | with_reducible apply keeps_foldl2 | with_reducible apply keeps_foldl3 | with_reducible apply keeps_iter | with_reducible apply keeps_elim | with_reducible apply keeps_ite | split | with_reducible apply keeps_mk | dsimp only)

theorem silMatch_keeps {z : State} (s : State) (p : Page) (code : Nat) (layer oper : Half) (hK : Keeps z s) : Keeps z (silMatch s p code layer oper) := by
  unfold silMatch
  try dsimp only
  repeat' (first | with_reducible assumption | intro _ | with_reducible apply keeps_ite2 | with_reducible apply keeps_ite3 | with_reducible apply isrCore_keeps | with_reducible apply stopTrigger_keeps | with_reducible apply keeps_foldl | with_reducible apply keeps_foldl2 | with_reducible apply keeps_foldl3 | with_reducible apply keeps_iter | with_reducible apply keeps_elim | with_reducible apply keeps_ite | split | with_reducible apply keeps_mk | dsimp only)

theorem sillage_keeps {z : State} (s : State) (p : Page) (code : Nat) (tent : Bool) (layer oper : Half) (detail : Word) (hK : Keeps z s) : Keeps z (sillage s p code tent layer oper detail) := by
  unfold sillage
  try dsimp only
  repeat' (first | with_reducible assumption | intro _ | with_reducible apply keeps_ite2 | with_reducible apply keeps_ite3 | with_reducible apply record_keeps | with_reducible apply silMatch_keeps | with_reducible apply keeps_foldl | with_reducible apply keeps_foldl2 | with_reducible apply keeps_foldl3 | with_reducible apply keeps_iter | with_reducible apply keeps_elim | with_reducible apply keeps_ite | split | with_reducible apply keeps_mk | dsimp only)

theorem isrSet_keeps {z : State} (s : State) (p : Page) (mask : Word) (lo : Half × Half) (hK : Keeps z s) : Keeps z (isrSet s p mask lo) := by
  unfold isrSet
  try dsimp only
  repeat' (first | with_reducible assumption | intro _ | with_reducible apply keeps_ite2 | with_reducible apply keeps_ite3 | with_reducible apply isrCore_keeps | with_reducible apply silMatch_keeps | with_reducible apply keeps_foldl | with_reducible apply keeps_foldl2 | with_reducible apply keeps_foldl3 | with_reducible apply keeps_iter | with_reducible apply keeps_elim | with_reducible apply keeps_ite | split | with_reducible apply keeps_mk | dsimp only)

theorem isrBit_keeps {z : State} (s : State) (p : Page) (n : Nat) (lo : Half × Half) (hK : Keeps z s) : Keeps z (isrBit s p n lo) := by
  unfold isrBit
  try dsimp only
  repeat' (first | with_reducible assumption | intro _ | with_reducible apply keeps_ite2 | with_reducible apply keeps_ite3 | with_reducible apply isrSet_keeps | with_reducible apply keeps_foldl | with_reducible apply keeps_foldl2 | with_reducible apply keeps_foldl3 | with_reducible apply keeps_iter | with_reducible apply keeps_elim | with_reducible apply keeps_ite | split | with_reducible apply keeps_mk | dsimp only)

theorem errStop_keeps {z : State} (s : State) (p : Page) (cls : Option Nat) (hK : Keeps z s) : Keeps z (errStop s p cls) := by
  unfold errStop
  try dsimp only
  repeat' (first | with_reducible assumption | intro _ | with_reducible apply keeps_ite2 | with_reducible apply keeps_ite3 | with_reducible apply stopTrigger_keeps | with_reducible apply keeps_foldl | with_reducible apply keeps_foldl2 | with_reducible apply keeps_foldl3 | with_reducible apply keeps_iter | with_reducible apply keeps_elim | with_reducible apply keeps_ite | split | with_reducible apply keeps_mk | dsimp only)

theorem captureCore_keeps {z : State} (quiet : Bool) (s : State) (p : Page) (code : Nat) (tag layer oper : Half) (detail : Word) (cls : Option Nat) (bits : Word) (hK : Keeps z s) : Keeps z (captureCore quiet s p code tag layer oper detail cls bits) := by
  unfold captureCore
  try dsimp only
  repeat' (first | with_reducible assumption | intro _ | with_reducible apply keeps_ite2 | with_reducible apply keeps_ite3 | with_reducible apply putBit_keeps | with_reducible apply isrSet_keeps | with_reducible apply putReg_keeps | with_reducible apply sillage_keeps | with_reducible apply errStop_keeps | with_reducible apply keeps_foldl | with_reducible apply keeps_foldl2 | with_reducible apply keeps_foldl3 | with_reducible apply keeps_iter | with_reducible apply keeps_elim | with_reducible apply keeps_ite | split | with_reducible apply keeps_mk | dsimp only)

theorem capture_keeps {z : State} (s : State) (p : Page) (code : Nat) (tag layer oper : Half) (detail : Word) (cls : Option Nat) (bits : Word) (hK : Keeps z s) : Keeps z (capture s p code tag layer oper detail cls bits) := by
  unfold capture
  try dsimp only
  repeat' (first | with_reducible assumption | intro _ | with_reducible apply keeps_ite2 | with_reducible apply keeps_ite3 | with_reducible apply captureCore_keeps | with_reducible apply keeps_foldl | with_reducible apply keeps_foldl2 | with_reducible apply keeps_foldl3 | with_reducible apply keeps_iter | with_reducible apply keeps_elim | with_reducible apply keeps_ite | split | with_reducible apply keeps_mk | dsimp only)

theorem captureOpen_keeps {z : State} (quiet : Bool) (s : State) (p : Page) (code : Nat) (tag layer oper : Half) (cls : Option Nat) (bits : Word) (hK : Keeps z s) : Keeps z (captureOpen quiet s p code tag layer oper cls bits) := by
  unfold captureOpen
  try dsimp only
  repeat' (first | with_reducible assumption | intro _ | with_reducible apply keeps_ite2 | with_reducible apply keeps_ite3 | with_reducible apply takeFree_keeps | with_reducible refine takeFree_keeps2 (by assumption) ?_ | with_reducible apply captureCore_keeps | with_reducible apply keeps_foldl | with_reducible apply keeps_foldl2 | with_reducible apply keeps_foldl3 | with_reducible apply keeps_iter | with_reducible apply keeps_elim | with_reducible apply keeps_ite | split | with_reducible apply keeps_mk | dsimp only)

theorem corrected_keeps {z : State} (s : State) (p : Page) (n : Nat) (hK : Keeps z s) : Keeps z (corrected s p n) := by
  unfold corrected
  try dsimp only
  repeat' (first | with_reducible assumption | intro _ | with_reducible apply keeps_ite2 | with_reducible apply keeps_ite3 | with_reducible apply addFld_keeps | with_reducible apply keeps_foldl | with_reducible apply keeps_foldl2 | with_reducible apply keeps_foldl3 | with_reducible apply keeps_iter | with_reducible apply keeps_elim | with_reducible apply keeps_ite | split | with_reducible apply keeps_mk | dsimp only)

theorem uncorrected_keeps {z : State} (s : State) (p : Page) (code : Nat) (tag layer oper : Half) (bits : Word) (quiet : Bool) (hK : Keeps z s) : Keeps z (uncorrected s p code tag layer oper bits quiet) := by
  unfold uncorrected
  try dsimp only
  repeat' (first | with_reducible assumption | intro _ | with_reducible apply keeps_ite2 | with_reducible apply keeps_ite3 | with_reducible apply captureOpen_keeps | with_reducible apply addFld_keeps | with_reducible apply keeps_foldl | with_reducible apply keeps_foldl2 | with_reducible apply keeps_foldl3 | with_reducible apply keeps_iter | with_reducible apply keeps_elim | with_reducible apply keeps_ite | split | with_reducible apply keeps_mk | dsimp only)

end Sys2Proof.Machine
end

