-- ==== Sys2Proof/Laws/KeepsTimeOps.lean ====
section
/-! SUPPORT. Every operation of Machine/TimeOps.lean keeps what Safety.lean names. -/

namespace Sys2Proof.Machine

set_option linter.all false

theorem tkpEnter_keeps {z : State} (s : State) (st : Nat) (hK : Keeps z s) : Keeps z (tkpEnter s st) := by
  unfold tkpEnter
  try dsimp only
  repeat' (first | with_reducible assumption | intro _ | with_reducible apply keeps_ite2 | with_reducible apply keeps_ite3 | with_reducible apply putReg_keeps | with_reducible apply putFld_keeps | with_reducible apply putBit_keeps | with_reducible apply isrBit_keeps | with_reducible apply keeps_foldl | with_reducible apply keeps_foldl2 | with_reducible apply keeps_foldl3 | with_reducible apply keeps_iter | with_reducible apply keeps_elim | with_reducible apply keeps_ite | split | with_reducible apply keeps_mk | dsimp only)

theorem tkpSet_keeps {z : State} (s : State) (st : Nat) (hK : Keeps z s) : Keeps z (tkpSet s st) := by
  unfold tkpSet
  try dsimp only
  repeat' (first | with_reducible assumption | intro _ | with_reducible apply keeps_ite2 | with_reducible apply keeps_ite3 | with_reducible apply tkpEnter_keeps | with_reducible apply keeps_foldl | with_reducible apply keeps_foldl2 | with_reducible apply keeps_foldl3 | with_reducible apply keeps_iter | with_reducible apply keeps_elim | with_reducible apply keeps_ite | split | with_reducible apply keeps_mk | dsimp only)

theorem tkpFollow_keeps {z : State} (s : State) (n : Nat) (hK : Keeps z s) : Keeps z (tkpFollow s n) := by
  unfold tkpFollow
  try dsimp only
  repeat' (first | with_reducible assumption | intro _ | with_reducible apply keeps_ite2 | with_reducible apply keeps_ite3 | with_reducible apply tkpSet_keeps | with_reducible apply keeps_foldl | with_reducible apply keeps_foldl2 | with_reducible apply keeps_foldl3 | with_reducible apply keeps_iter | with_reducible apply keeps_elim | with_reducible apply keeps_ite | split | with_reducible apply keeps_mk | dsimp only)

theorem accSet_keeps {z : State} (s : State) (n st : Nat) (hK : Keeps z s) : Keeps z (accSet s n st) := by
  unfold accSet
  try dsimp only
  repeat' (first | with_reducible assumption | intro _ | with_reducible apply keeps_ite2 | with_reducible apply keeps_ite3 | with_reducible apply putFld_keeps | with_reducible apply modAcc_keeps | with_reducible apply captureOpen_keeps | with_reducible apply isrBit_keeps | with_reducible apply tkpFollow_keeps | with_reducible apply keeps_foldl | with_reducible apply keeps_foldl2 | with_reducible apply keeps_foldl3 | with_reducible apply keeps_iter | with_reducible apply keeps_elim | with_reducible apply keeps_ite | split | with_reducible apply keeps_mk | dsimp only)

theorem accDown_keeps {z : State} (s : State) (n : Nat) (hK : Keeps z s) : Keeps z (accDown s n) := by
  unfold accDown
  try dsimp only
  repeat' (first | with_reducible assumption | intro _ | with_reducible apply keeps_ite2 | with_reducible apply keeps_ite3 | with_reducible apply accSet_keeps | with_reducible apply keeps_foldl | with_reducible apply keeps_foldl2 | with_reducible apply keeps_foldl3 | with_reducible apply keeps_iter | with_reducible apply keeps_elim | with_reducible apply keeps_ite | split | with_reducible apply keeps_mk | dsimp only)

theorem accStart_keeps {z : State} (s : State) (n : Nat) (hK : Keeps z s) : Keeps z (accStart s n) := by
  unfold accStart
  try dsimp only
  repeat' (first | with_reducible assumption | intro _ | with_reducible apply keeps_ite2 | with_reducible apply keeps_ite3 | with_reducible apply accSet_keeps | with_reducible apply keeps_foldl | with_reducible apply keeps_foldl2 | with_reducible apply keeps_foldl3 | with_reducible apply keeps_iter | with_reducible apply keeps_elim | with_reducible apply keeps_ite | split | with_reducible apply keeps_mk | dsimp only)

end Sys2Proof.Machine
end

