-- ==== Sys2Proof/Laws/KeepsGateList.lean ====
section
/-! SUPPORT. Every operation of Machine/GateList.lean keeps what Safety.lean names. -/

namespace Sys2Proof.Machine

set_option linter.all false

theorem modGcl_keeps {z : State} (s : State) (g : GPlace) (f : Gcl → Gcl) (hK : Keeps z s) : Keeps z (modGcl s g f) := by
  unfold modGcl
  try dsimp only
  repeat' (first | with_reducible assumption | intro _ | with_reducible apply keeps_ite2 | with_reducible apply keeps_ite3 | with_reducible apply modTile_keeps | with_reducible apply modLink_keeps | with_reducible apply modEth_keeps | with_reducible apply keeps_foldl | with_reducible apply keeps_foldl2 | with_reducible apply keeps_foldl3 | with_reducible apply keeps_iter | with_reducible apply keeps_elim | with_reducible apply keeps_ite | split | with_reducible apply keeps_mk | dsimp only)

theorem gclSetState_keeps {z : State} (s : State) (g : GPlace) (st : Nat) (hK : Keeps z s) : Keeps z (gclSetState s g st) := by
  unfold gclSetState
  try dsimp only
  repeat' (first | with_reducible assumption | intro _ | with_reducible apply keeps_ite2 | with_reducible apply keeps_ite3 | with_reducible apply putFld_keeps | with_reducible apply keeps_foldl | with_reducible apply keeps_foldl2 | with_reducible apply keeps_foldl3 | with_reducible apply keeps_iter | with_reducible apply keeps_elim | with_reducible apply keeps_ite | split | with_reducible apply keeps_mk | dsimp only)

theorem gPutPair_keeps {z : State} (s : State) (g : GPlace) (off v : Nat) (hK : Keeps z s) : Keeps z (gPutPair s g off v) := by
  unfold gPutPair
  try dsimp only
  repeat' (first | with_reducible assumption | intro _ | with_reducible apply keeps_ite2 | with_reducible apply keeps_ite3 | with_reducible apply putReg_keeps | with_reducible apply keeps_foldl | with_reducible apply keeps_foldl2 | with_reducible apply keeps_foldl3 | with_reducible apply keeps_iter | with_reducible apply keeps_elim | with_reducible apply keeps_ite | split | with_reducible apply keeps_mk | dsimp only)

theorem gMark_keeps {z : State} (s0 s : State) (g : GPlace) (hK : Keeps z s0) (hK1 : Keeps z s) : Keeps z (gMark s0 s g) := by
  unfold gMark
  try dsimp only
  repeat' (first | with_reducible assumption | intro _ | with_reducible apply keeps_ite2 | with_reducible apply keeps_ite3 | with_reducible apply modGcl_keeps | with_reducible apply keeps_foldl | with_reducible apply keeps_foldl2 | with_reducible apply keeps_foldl3 | with_reducible apply keeps_iter | with_reducible apply keeps_elim | with_reducible apply keeps_ite | split | with_reducible apply keeps_mk | dsimp only)

theorem gateStart_keeps {z : State} (s : State) (g : GPlace) (q tx : Nat) (hK : Keeps z s) : Keeps z (gateStart s g q tx) := by
  unfold gateStart
  try dsimp only
  repeat' (first | with_reducible assumption | intro _ | with_reducible apply keeps_ite2 | with_reducible apply keeps_ite3 | with_reducible apply putBit_keeps | with_reducible apply modGcl_keeps | with_reducible apply keeps_foldl | with_reducible apply keeps_foldl2 | with_reducible apply keeps_foldl3 | with_reducible apply keeps_iter | with_reducible apply keeps_elim | with_reducible apply keeps_ite | split | with_reducible apply keeps_mk | dsimp only)

theorem gclErr_keeps {z : State} (s : State) (g : GPlace) (code detail : Nat) (hK : Keeps z s) : Keeps z (gclErr s g code detail) := by
  unfold gclErr
  try dsimp only
  repeat' (first | with_reducible assumption | intro _ | with_reducible apply keeps_ite2 | with_reducible apply keeps_ite3 | with_reducible apply capture_keeps | with_reducible apply keeps_foldl | with_reducible apply keeps_foldl2 | with_reducible apply keeps_foldl3 | with_reducible apply keeps_iter | with_reducible apply keeps_elim | with_reducible apply keeps_ite | split | with_reducible apply keeps_mk | dsimp only)

theorem gclChg_keeps {z : State} (s : State) (g : GPlace) (hK : Keeps z s) : Keeps z (gclChg s g) := by
  unfold gclChg
  try dsimp only
  repeat' (first | with_reducible assumption | intro _ | with_reducible apply keeps_ite2 | with_reducible apply keeps_ite3 | with_reducible apply putBit_keeps | with_reducible apply gclSetState_keeps | with_reducible apply gPutPair_keeps | with_reducible apply gclErr_keeps | with_reducible apply keeps_foldl | with_reducible apply keeps_foldl2 | with_reducible apply keeps_foldl3 | with_reducible apply keeps_iter | with_reducible apply keeps_elim | with_reducible apply keeps_ite | split | with_reducible apply keeps_mk | dsimp only)

theorem gclCancel_keeps {z : State} (s : State) (g : GPlace) (hK : Keeps z s) : Keeps z (gclCancel s g) := by
  unfold gclCancel
  try dsimp only
  repeat' (first | with_reducible assumption | intro _ | with_reducible apply keeps_ite2 | with_reducible apply keeps_ite3 | with_reducible apply gclSetState_keeps | with_reducible apply gclErr_keeps | with_reducible apply keeps_foldl | with_reducible apply keeps_foldl2 | with_reducible apply keeps_foldl3 | with_reducible apply keeps_iter | with_reducible apply keeps_elim | with_reducible apply keeps_ite | split | with_reducible apply keeps_mk | dsimp only)

theorem gclHalt_keeps {z : State} (s : State) (g : GPlace) (hK : Keeps z s) : Keeps z (gclHalt s g) := by
  unfold gclHalt
  try dsimp only
  repeat' (first | with_reducible assumption | intro _ | with_reducible apply keeps_ite2 | with_reducible apply keeps_ite3 | with_reducible apply putFld_keeps | with_reducible apply gclSetState_keeps | with_reducible apply gMark_keeps | with_reducible apply modGcl_keeps | with_reducible apply keeps_foldl | with_reducible apply keeps_foldl2 | with_reducible apply keeps_foldl3 | with_reducible apply keeps_iter | with_reducible apply keeps_elim | with_reducible apply keeps_ite | split | with_reducible apply keeps_mk | dsimp only)

theorem gclSwitch_keeps {z : State} (s : State) (g : GPlace) (hK : Keeps z s) : Keeps z (gclSwitch s g) := by
  unfold gclSwitch
  try dsimp only
  repeat' (first | with_reducible assumption | intro _ | with_reducible apply keeps_ite2 | with_reducible apply keeps_ite3 | with_reducible apply gPutPair_keeps | with_reducible apply putReg_keeps | with_reducible apply gclSetState_keeps | with_reducible apply modGcl_keeps | with_reducible apply isrBit_keeps | with_reducible apply gMark_keeps | with_reducible apply keeps_foldl | with_reducible apply keeps_foldl2 | with_reducible apply keeps_foldl3 | with_reducible apply keeps_iter | with_reducible apply keeps_elim | with_reducible apply keeps_ite | split | with_reducible apply keeps_mk | dsimp only)

theorem gDue_keeps {z : State} (s : State) (g : GPlace) (hK : Keeps z s) : Keeps z (gDue s g) := by
  unfold gDue
  try dsimp only
  repeat' (first | with_reducible assumption | intro _ | with_reducible apply keeps_ite2 | with_reducible apply keeps_ite3 | with_reducible apply gclSwitch_keeps | with_reducible apply keeps_foldl | with_reducible apply keeps_foldl2 | with_reducible apply keeps_foldl3 | with_reducible apply keeps_iter | with_reducible apply keeps_elim | with_reducible apply keeps_ite | split | with_reducible apply keeps_mk | dsimp only)

theorem gclStep_keeps {z : State} (s0 s : State) (g : GPlace) (hK : Keeps z s0) (hK1 : Keeps z s) : Keeps z (gclStep s0 s g) := by
  unfold gclStep
  try dsimp only
  repeat' (first | with_reducible assumption | intro _ | with_reducible apply keeps_ite2 | with_reducible apply keeps_ite3 | with_reducible apply putBit_keeps | with_reducible apply gclSwitch_keeps | with_reducible apply modGcl_keeps | with_reducible apply gMark_keeps | with_reducible apply keeps_foldl | with_reducible apply keeps_foldl2 | with_reducible apply keeps_foldl3 | with_reducible apply keeps_iter | with_reducible apply keeps_elim | with_reducible apply keeps_ite | split | with_reducible apply keeps_mk | dsimp only)

end Sys2Proof.Machine
end

