-- ==== Sys2Proof/Laws/KeepsFaults.lean ====
section
/-! SUPPORT. Every operation of Machine/Faults.lean keeps what Safety.lean names. -/

namespace Sys2Proof.Machine

set_option linter.all false

theorem llkSet_keeps {z : State} (s : State) (n st lanes : Nat) (hK : Keeps z s) : Keeps z (llkSet s n st lanes) := by
  unfold llkSet
  try dsimp only
  repeat' (first | with_reducible assumption | intro _ | with_reducible apply keeps_ite2 | with_reducible apply keeps_ite3 | with_reducible apply putFld_keeps | with_reducible apply putBit_keeps | with_reducible apply sillage_keeps | with_reducible apply isrBit_keeps | with_reducible apply keeps_foldl | with_reducible apply keeps_foldl2 | with_reducible apply keeps_foldl3 | with_reducible apply keeps_iter | with_reducible apply keeps_elim | with_reducible apply keeps_ite | split | with_reducible apply keeps_mk | dsimp only)

theorem llkDrop_keeps {z : State} (s : State) (n : Nat) (hK : Keeps z s) : Keeps z (llkDrop s n) := by
  unfold llkDrop
  try dsimp only
  repeat' (first | with_reducible assumption | intro _ | with_reducible apply keeps_ite2 | with_reducible apply keeps_ite3 | with_reducible apply modLink_keeps | with_reducible apply modDie_keeps | with_reducible apply keeps_foldl | with_reducible apply keeps_foldl2 | with_reducible apply keeps_foldl3 | with_reducible apply keeps_iter | with_reducible apply keeps_elim | with_reducible apply keeps_ite | split | with_reducible apply keeps_mk | dsimp only)

theorem llkRetire_keeps {z : State} (s : State) (n : Nat) (hK : Keeps z s) : Keeps z (llkRetire s n) := by
  unfold llkRetire
  try dsimp only
  repeat' (first | with_reducible assumption | intro _ | with_reducible apply keeps_ite2 | with_reducible apply keeps_ite3 | with_reducible apply putBit_keeps | with_reducible apply isrBit_keeps | with_reducible apply accDown_keeps | with_reducible apply llkSet_keeps | with_reducible apply llkDrop_keeps | with_reducible apply keeps_foldl | with_reducible apply keeps_foldl2 | with_reducible apply keeps_foldl3 | with_reducible apply keeps_iter | with_reducible apply keeps_elim | with_reducible apply keeps_ite | split | with_reducible apply keeps_mk | dsimp only)

theorem isolate_keeps {z : State} (s : State) (t cause : Nat) (hK : Keeps z s) : Keeps z (isolate s t cause) := by
  unfold isolate
  try dsimp only
  repeat' (first | with_reducible assumption | intro _ | with_reducible apply keeps_ite2 | with_reducible apply keeps_ite3 | with_reducible apply putFld_keeps | with_reducible apply putBit_keeps | with_reducible apply modTile_keeps | with_reducible apply isrBit_keeps | with_reducible apply keeps_foldl | with_reducible apply keeps_foldl2 | with_reducible apply keeps_foldl3 | with_reducible apply keeps_iter | with_reducible apply keeps_elim | with_reducible apply keeps_ite | split | with_reducible apply keeps_mk | dsimp only)

theorem rlogAdd_keeps {z : State} (s : State) (kind inst cause errs : Nat) (hK : Keeps z s) : Keeps z (rlogAdd s kind inst cause errs) := by
  unfold rlogAdd
  try dsimp only
  repeat' (first | with_reducible assumption | intro _ | with_reducible apply keeps_ite2 | with_reducible apply keeps_ite3 | with_reducible apply putBit_keeps | with_reducible apply isrBit_keeps | with_reducible apply keeps_foldl | with_reducible apply keeps_foldl2 | with_reducible apply keeps_foldl3 | with_reducible apply keeps_iter | with_reducible apply keeps_elim | with_reducible apply keeps_ite | split | with_reducible apply keeps_mk | dsimp only)

theorem fabFail_keeps {z : State} (s : State) (t : Nat) (hK : Keeps z s) : Keeps z (fabFail s t) := by
  unfold fabFail
  try dsimp only
  repeat' (first | with_reducible assumption | intro _ | with_reducible apply keeps_ite2 | with_reducible apply keeps_ite3 | with_reducible apply isrBit_keeps | with_reducible apply errStop_keeps | with_reducible apply keeps_foldl | with_reducible apply keeps_foldl2 | with_reducible apply keeps_foldl3 | with_reducible apply keeps_iter | with_reducible apply keeps_elim | with_reducible apply keeps_ite | split | with_reducible apply keeps_mk | dsimp only)

theorem setBkt_keeps {z : State} (s : State) (kind inst : Nat) (b : Bucket) (hK : Keeps z s) : Keeps z (setBkt s kind inst b) := by
  unfold setBkt
  try dsimp only
  repeat' (first | with_reducible assumption | intro _ | with_reducible apply keeps_ite2 | with_reducible apply keeps_ite3 | with_reducible apply keeps_foldl | with_reducible apply keeps_foldl2 | with_reducible apply keeps_foldl3 | with_reducible apply keeps_iter | with_reducible apply keeps_elim | with_reducible apply keeps_ite | split | with_reducible apply keeps_mk | dsimp only)

theorem laneRetire_keeps {z : State} (s : State) (n k : Nat) (hK : Keeps z s) : Keeps z (laneRetire s n k) := by
  unfold laneRetire
  try dsimp only
  repeat' (first | with_reducible assumption | intro _ | with_reducible apply keeps_ite2 | with_reducible apply keeps_ite3 | with_reducible apply sillage_keeps | with_reducible apply modLink_keeps | with_reducible apply putBit_keeps | with_reducible apply llkSet_keeps | with_reducible apply rlogAdd_keeps | with_reducible apply setBkt_keeps | with_reducible apply llkRetire_keeps | with_reducible apply emit_keeps | with_reducible apply modAcc_keeps | with_reducible apply accDown_keeps | with_reducible apply keeps_foldl | with_reducible apply keeps_foldl2 | with_reducible apply keeps_foldl3 | with_reducible apply keeps_iter | with_reducible apply keeps_elim | with_reducible apply keeps_ite | split | with_reducible apply keeps_mk | dsimp only)

theorem retireEffect_keeps {z : State} (s : State) (kind inst : Nat) (hK : Keeps z s) : Keeps z (retireEffect s kind inst) := by
  unfold retireEffect
  try dsimp only
  repeat' (first | with_reducible assumption | intro _ | with_reducible apply keeps_ite2 | with_reducible apply keeps_ite3 | with_reducible apply modTile_keeps | with_reducible apply modEth_keeps | with_reducible apply putBit_keeps | with_reducible apply isrBit_keeps | with_reducible apply gclHalt_keeps | with_reducible apply llkRetire_keeps | with_reducible apply isolate_keeps | with_reducible apply fabFail_keeps | with_reducible apply laneRetire_keeps | with_reducible apply keeps_foldl | with_reducible apply keeps_foldl2 | with_reducible apply keeps_foldl3 | with_reducible apply keeps_iter | with_reducible apply keeps_elim | with_reducible apply keeps_ite | split | with_reducible apply keeps_mk | dsimp only)

theorem retire_keeps {z : State} (s : State) (kind inst cause : Nat) (hK : Keeps z s) : Keeps z (retire s kind inst cause) := by
  unfold retire
  try dsimp only
  repeat' (first | with_reducible assumption | intro _ | with_reducible apply keeps_ite2 | with_reducible apply keeps_ite3 | with_reducible apply sillage_keeps | with_reducible apply errStop_keeps | with_reducible apply rlogAdd_keeps | with_reducible apply retireEffect_keeps | with_reducible apply setBkt_keeps | with_reducible apply keeps_foldl | with_reducible apply keeps_foldl2 | with_reducible apply keeps_foldl3 | with_reducible apply keeps_iter | with_reducible apply keeps_elim | with_reducible apply keeps_ite | split | with_reducible apply keeps_mk | dsimp only)

theorem bucketErr_keeps {z : State} (s : State) (kind inst : Nat) (hK : Keeps z s) : Keeps z (bucketErr s kind inst) := by
  unfold bucketErr
  try dsimp only
  repeat' (first | with_reducible assumption | intro _ | with_reducible apply keeps_ite2 | with_reducible apply keeps_ite3 | with_reducible apply setBkt_keeps | with_reducible apply retire_keeps | with_reducible apply keeps_foldl | with_reducible apply keeps_foldl2 | with_reducible apply keeps_foldl3 | with_reducible apply keeps_iter | with_reducible apply keeps_elim | with_reducible apply keeps_ite | split | with_reducible apply keeps_mk | dsimp only)

theorem bucketRestore_keeps {z : State} (s : State) (kind inst : Nat) (hK : Keeps z s) : Keeps z (bucketRestore s kind inst) := by
  unfold bucketRestore
  try dsimp only
  repeat' (first | with_reducible assumption | intro _ | with_reducible apply keeps_ite2 | with_reducible apply keeps_ite3 | with_reducible apply setBkt_keeps | with_reducible apply keeps_foldl | with_reducible apply keeps_foldl2 | with_reducible apply keeps_foldl3 | with_reducible apply keeps_iter | with_reducible apply keeps_elim | with_reducible apply keeps_ite | split | with_reducible apply keeps_mk | dsimp only)

theorem tileCE_keeps {z : State} (s : State) (t n : Nat) (hK : Keeps z s) : Keeps z (tileCE s t n) := by
  unfold tileCE
  try dsimp only
  repeat' (first | with_reducible assumption | intro _ | with_reducible apply keeps_ite2 | with_reducible apply keeps_ite3 | with_reducible apply corrected_keeps | with_reducible apply keeps_foldl | with_reducible apply keeps_foldl2 | with_reducible apply keeps_foldl3 | with_reducible apply keeps_iter | with_reducible apply keeps_elim | with_reducible apply keeps_ite | split | with_reducible apply keeps_mk | dsimp only)

theorem tileUE_keeps {z : State} (s : State) (t : Nat) (lo : Half × Half) (dark : Bool) (hK : Keeps z s) : Keeps z (tileUE s t lo dark) := by
  unfold tileUE
  try dsimp only
  repeat' (first | with_reducible assumption | intro _ | with_reducible apply keeps_ite2 | with_reducible apply keeps_ite3 | with_reducible apply bucketErr_keeps | with_reducible apply uncorrected_keeps | with_reducible apply keeps_foldl | with_reducible apply keeps_foldl2 | with_reducible apply keeps_foldl3 | with_reducible apply keeps_iter | with_reducible apply keeps_elim | with_reducible apply keeps_ite | split | with_reducible apply keeps_mk | dsimp only)

theorem tileRead_keeps {z : State} (s : State) (t k n : Nat) (lo : Half × Half) (dark : Bool) (hK : Keeps z s) : Keeps z (tileRead s t k n lo dark).2 := by
  unfold tileRead
  try dsimp only
  repeat' (first | with_reducible assumption | intro _ | with_reducible apply keeps_ite2 | with_reducible apply keeps_ite3 | with_reducible apply tileCE_keeps | with_reducible apply tileUE_keeps | with_reducible apply keeps_foldl | with_reducible apply keeps_foldl2 | with_reducible apply keeps_foldl3 | with_reducible apply keeps_iter | with_reducible apply keeps_elim | with_reducible apply keeps_ite | split | with_reducible apply keeps_mk | dsimp only)

theorem tileRead_keeps2 {z : State} {s : State} {t k n : Nat} {lo : Half × Half} {dark : Bool} {rK} {sK : State} (e : tileRead s t k n lo dark = (rK, sK)) (hK : Keeps z s)  : Keeps z sK := by
  have k := tileRead_keeps (z := z) s t k n lo dark hK 
  rw [e] at k; exact k

theorem memStore_keeps {z : State} (s : State) (k : Nat) (bs : List Byte) (hK : Keeps z s) : Keeps z (memStore s k bs) := by
  unfold memStore
  try dsimp only
  repeat' (first | with_reducible assumption | intro _ | with_reducible apply keeps_ite2 | with_reducible apply keeps_ite3 | with_reducible apply writeMem_keeps | with_reducible apply clearUnit_keeps | with_reducible apply keeps_foldl | with_reducible apply keeps_foldl2 | with_reducible apply keeps_foldl3 | with_reducible apply keeps_iter | with_reducible apply keeps_elim | with_reducible apply keeps_ite | split | with_reducible apply keeps_mk | dsimp only)

end Sys2Proof.Machine
end

