-- ==== Sys2Proof/Laws/KeepsGateOps.lean ====
section
/-! SUPPORT. Every operation of Machine/GateOps.lean keeps what Safety.lean names. -/

namespace Sys2Proof.Machine

set_option linter.all false

theorem setShp_keeps {z : State} (s : State) (g : GPlace) (k : Nat) (x : Shaper) (hK : Keeps z s) : Keeps z (setShp s g k x) := by
  unfold setShp
  try dsimp only
  repeat' (first | with_reducible assumption | intro _ | with_reducible apply keeps_ite2 | with_reducible apply keeps_ite3 | with_reducible apply modLink_keeps | with_reducible apply modEth_keeps | with_reducible apply keeps_foldl | with_reducible apply keeps_foldl2 | with_reducible apply keeps_foldl3 | with_reducible apply keeps_iter | with_reducible apply keeps_elim | with_reducible apply keeps_ite | split | with_reducible apply keeps_mk | dsimp only)

theorem shpSet_keeps {z : State} (s : State) (g : GPlace) (k : Nat) (c : Int) (hK : Keeps z s) : Keeps z (shpSet s g k c) := by
  unfold shpSet
  try dsimp only
  repeat' (first | with_reducible assumption | intro _ | with_reducible apply keeps_ite2 | with_reducible apply keeps_ite3 | with_reducible apply setShp_keeps | with_reducible apply keeps_foldl | with_reducible apply keeps_foldl2 | with_reducible apply keeps_foldl3 | with_reducible apply keeps_iter | with_reducible apply keeps_elim | with_reducible apply keeps_ite | split | with_reducible apply keeps_mk | dsimp only)

theorem modSched_keeps {z : State} (s : State) (g : GPlace) (f : Sched → Sched) (hK : Keeps z s) : Keeps z (modSched s g f) := by
  unfold modSched
  try dsimp only
  repeat' (first | with_reducible assumption | intro _ | with_reducible apply keeps_ite2 | with_reducible apply keeps_ite3 | with_reducible apply modLink_keeps | with_reducible apply modEth_keeps | with_reducible apply keeps_foldl | with_reducible apply keeps_foldl2 | with_reducible apply keeps_foldl3 | with_reducible apply keeps_iter | with_reducible apply keeps_elim | with_reducible apply keeps_ite | split | with_reducible apply keeps_mk | dsimp only)

theorem schFix_keeps {z : State} (s : State) (g : GPlace) (heads : List (Nat × Nat)) (hK : Keeps z s) : Keeps z (schFix s g heads) := by
  unfold schFix
  try dsimp only
  repeat' (first | with_reducible assumption | intro _ | with_reducible apply keeps_ite2 | with_reducible apply keeps_ite3 | with_reducible apply modSched_keeps | with_reducible apply keeps_foldl | with_reducible apply keeps_foldl2 | with_reducible apply keeps_foldl3 | with_reducible apply keeps_iter | with_reducible apply keeps_elim | with_reducible apply keeps_ite | split | with_reducible apply keeps_mk | dsimp only)

theorem egStart_keeps {z : State} (s : State) (g : GPlace) (k len : Nat) (hK : Keeps z s) : Keeps z (egStart s g k len) := by
  unfold egStart
  try dsimp only
  repeat' (first | with_reducible assumption | intro _ | with_reducible apply keeps_ite2 | with_reducible apply keeps_ite3 | with_reducible apply gateStart_keeps | with_reducible apply shpSet_keeps | with_reducible apply modSched_keeps | with_reducible apply keeps_foldl | with_reducible apply keeps_foldl2 | with_reducible apply keeps_foldl3 | with_reducible apply keeps_iter | with_reducible apply keeps_elim | with_reducible apply keeps_ite | split | with_reducible apply keeps_mk | dsimp only)

theorem setMtr_keeps {z : State} (s : State) (g : GPlace) (i : Nat) (m : Meter) (hK : Keeps z s) : Keeps z (setMtr s g i m) := by
  unfold setMtr
  try dsimp only
  repeat' (first | with_reducible assumption | intro _ | with_reducible apply keeps_ite2 | with_reducible apply keeps_ite3 | with_reducible apply modLink_keeps | with_reducible apply modEth_keeps | with_reducible apply keeps_foldl | with_reducible apply keeps_foldl2 | with_reducible apply keeps_foldl3 | with_reducible apply keeps_iter | with_reducible apply keeps_elim | with_reducible apply keeps_ite | split | with_reducible apply keeps_mk | dsimp only)

theorem meterPass_keeps {z : State} (s : State) (g : GPlace) (i len inCol : Nat) (dark : Bool) (hK : Keeps z s) : Keeps z (meterPass s g i len inCol dark).2 := by
  unfold meterPass
  try dsimp only
  repeat' (first | with_reducible assumption | intro _ | with_reducible apply keeps_ite2 | with_reducible apply keeps_ite3 | with_reducible apply setMtr_keeps | with_reducible apply keeps_foldl | with_reducible apply keeps_foldl2 | with_reducible apply keeps_foldl3 | with_reducible apply keeps_iter | with_reducible apply keeps_elim | with_reducible apply keeps_ite | split | with_reducible apply keeps_mk | dsimp only)

theorem meterPass_keeps2 {z : State} {s : State} {g : GPlace} {i len inCol : Nat} {dark : Bool} {rK} {sK : State} (e : meterPass s g i len inCol dark = (rK, sK)) (hK : Keeps z s)  : Keeps z sK := by
  have k := meterPass_keeps (z := z) s g i len inCol dark hK 
  rw [e] at k; exact k

end Sys2Proof.Machine
end

