-- ==== Sys2Proof/Laws/KeepsOperands.lean ====
section
/-! SUPPORT. Every operation of Machine/Operands.lean keeps what Safety.lean names. -/

namespace Sys2Proof.Machine

set_option linter.all false

theorem putMadAddr_keeps {z : State} (s : State) (t lc k a : Nat) (hK : Keeps z s) : Keeps z (putMadAddr s t lc k a) := by
  unfold putMadAddr
  try dsimp only
  repeat' (first | with_reducible assumption | intro _ | with_reducible apply keeps_ite2 | with_reducible apply keeps_ite3 | with_reducible apply putReg_keeps | with_reducible apply keeps_foldl | with_reducible apply keeps_foldl2 | with_reducible apply keeps_foldl3 | with_reducible apply keeps_iter | with_reducible apply keeps_elim | with_reducible apply keeps_ite | split | with_reducible apply keeps_mk | dsimp only)

end Sys2Proof.Machine
end

