-- ==== Sys2Proof/Laws/KeepsMovOps.lean ====
section
/-! SUPPORT. Every operation of Machine/MovOps.lean keeps what Safety.lean names. -/

namespace Sys2Proof.Machine

set_option linter.all false

theorem semOp_keeps {z : State} (s : State) (t lc i op : Nat) (v : Word) (hK : Keeps z s) : Keeps z (semOp s t lc i op v) := by
  unfold semOp
  try dsimp only
  repeat' (first | with_reducible assumption | intro _ | with_reducible apply keeps_ite2 | with_reducible apply keeps_ite3 | with_reducible apply putReg_keeps | with_reducible apply putBit_keeps | with_reducible apply keeps_foldl | with_reducible apply keeps_foldl2 | with_reducible apply keeps_foldl3 | with_reducible apply keeps_iter | with_reducible apply keeps_elim | with_reducible apply keeps_ite | split | with_reducible apply keeps_mk | dsimp only)

theorem tentCount_keeps {z : State} (s : State) (t off n : Nat) (hK : Keeps z s) : Keeps z (tentCount s t off n) := by
  unfold tentCount
  try dsimp only
  repeat' (first | with_reducible assumption | intro _ | with_reducible apply keeps_ite2 | with_reducible apply keeps_ite3 | with_reducible apply workCount_keeps | with_reducible apply keeps_foldl | with_reducible apply keeps_foldl2 | with_reducible apply keeps_foldl3 | with_reducible apply keeps_iter | with_reducible apply keeps_elim | with_reducible apply keeps_ite | split | with_reducible apply keeps_mk | dsimp only)

theorem pelAdd_keeps {z : State} (s : State) (t lc : Nat) (tag layer oper : Half) (reason : Nat) (node : Word) (dark : Bool) (hK : Keeps z s) : Keeps z (pelAdd s t lc tag layer oper reason node dark) := by
  unfold pelAdd
  try dsimp only
  repeat' (first | with_reducible assumption | intro _ | with_reducible apply keeps_ite2 | with_reducible apply keeps_ite3 | with_reducible apply putBit_keeps | with_reducible apply captureCore_keeps | with_reducible apply putReg_keeps | with_reducible apply putFld_keeps | with_reducible apply sillage_keeps | with_reducible apply keeps_foldl | with_reducible apply keeps_foldl2 | with_reducible apply keeps_foldl3 | with_reducible apply keeps_iter | with_reducible apply keeps_elim | with_reducible apply keeps_ite | split | with_reducible apply keeps_mk | dsimp only)

theorem newTag_keeps {z : State} (s : State) (t lc : Nat) (hK : Keeps z s) : Keeps z (newTag s t lc).2 := by
  unfold newTag
  try dsimp only
  repeat' (first | with_reducible assumption | intro _ | with_reducible apply keeps_ite2 | with_reducible apply keeps_ite3 | with_reducible apply modTile_keeps | with_reducible apply keeps_foldl | with_reducible apply keeps_foldl2 | with_reducible apply keeps_foldl3 | with_reducible apply keeps_iter | with_reducible apply keeps_elim | with_reducible apply keeps_ite | split | with_reducible apply keeps_mk | dsimp only)

theorem newTag_keeps2 {z : State} {s : State} {t lc : Nat} {rK} {sK : State} (e : newTag s t lc = (rK, sK)) (hK : Keeps z s) : Keeps z sK := by
  have k := newTag_keeps (z := z) s t lc hK
  rw [e] at k; exact k

theorem iqPush_keeps {z : State} (s : State) (t q : Nat) (p : Packet) (hK : Keeps z s) : Keeps z (iqPush s t q p) := by
  unfold iqPush
  try dsimp only
  repeat' (first | with_reducible assumption | intro _ | with_reducible apply keeps_ite2 | with_reducible apply keeps_ite3 | with_reducible apply modTile_keeps | with_reducible apply keeps_foldl | with_reducible apply keeps_foldl2 | with_reducible apply keeps_foldl3 | with_reducible apply keeps_iter | with_reducible apply keeps_elim | with_reducible apply keeps_ite | split | with_reducible apply keeps_mk | dsimp only)

theorem readSource_keeps {z : State} (s : State) (t : Nat) (c : MovCmd) (hK : Keeps z s) : Keeps z (readSource s t c) := by
  unfold readSource
  try dsimp only
  repeat' (first | with_reducible assumption | intro _ | with_reducible apply keeps_ite2 | with_reducible apply keeps_ite3 | with_reducible apply tileRead_keeps | with_reducible refine tileRead_keeps2 (by assumption) ?_ | with_reducible apply keeps_foldl | with_reducible apply keeps_foldl2 | with_reducible apply keeps_foldl3 | with_reducible apply keeps_iter | with_reducible apply keeps_elim | with_reducible apply keeps_ite | split | with_reducible apply keeps_mk | dsimp only)

theorem reqEnter_keeps {z : State} (s : State) (t : Nat) (r : MovReq) (hK : Keeps z s) : Keeps z (reqEnter s t r) := by
  unfold reqEnter
  try dsimp only
  repeat' (first | with_reducible assumption | intro _ | with_reducible apply keeps_ite2 | with_reducible apply keeps_ite3 | with_reducible apply modTile_keeps | with_reducible apply iqPush_keeps | with_reducible apply keeps_foldl | with_reducible apply keeps_foldl2 | with_reducible apply keeps_foldl3 | with_reducible apply keeps_iter | with_reducible apply keeps_elim | with_reducible apply keeps_ite | split | with_reducible apply keeps_mk | dsimp only)

theorem stagePump_keeps {z : State} (s : State) (t : Nat) (hK : Keeps z s) : Keeps z (stagePump s t) := by
  unfold stagePump
  try dsimp only
  repeat' (first | with_reducible assumption | intro _ | with_reducible apply keeps_ite2 | with_reducible apply keeps_ite3 | with_reducible apply modTile_keeps | with_reducible apply reqEnter_keeps | with_reducible apply keeps_foldl | with_reducible apply keeps_foldl2 | with_reducible apply keeps_foldl3 | with_reducible apply keeps_iter | with_reducible apply keeps_elim | with_reducible apply keeps_ite | split | with_reducible apply keeps_mk | dsimp only)

theorem cutReq_keeps {z : State} (s : State) (t : Nat) (c : MovCmd) (h : Keeps z s) : Keeps z (cutReq s t c).2.2 :=
  readSource_keeps _ _ _ (newTag_keeps _ _ _ h)

theorem cutStep_keeps {z : State} (s : State) (t : Nat) (h : Keeps z s) : Keeps z (cutStep s t) := by
  unfold cutStep
  split
  · exact h
  · rename_i c _
    split
    · exact modTile_keeps _ _ _ h
    · split
      · have k := cutReq_keeps s t c h
        dsimp only
        split
        · exact reqEnter_keeps _ _ _ (modTile_keeps _ _ _ (tentCount_keeps _ _ _ _ (tentCount_keeps _ _ _ _ k)))
        · exact reqEnter_keeps _ _ _ (modTile_keeps _ _ _ k)
      · exact h

theorem sigStart_keeps {z : State} (s : State) (t : Nat) (hK : Keeps z s) : Keeps z (sigStart s t) := by
  unfold sigStart
  try dsimp only
  repeat' (first | with_reducible assumption | intro _ | with_reducible apply keeps_ite2 | with_reducible apply keeps_ite3 | with_reducible apply modTile_keeps | with_reducible apply keeps_foldl | with_reducible apply keeps_foldl2 | with_reducible apply keeps_foldl3 | with_reducible apply keeps_iter | with_reducible apply keeps_elim | with_reducible apply keeps_ite | split | with_reducible apply keeps_mk | dsimp only)

theorem movSrstEnd_keeps {z : State} (s : State) (t : Nat) (hK : Keeps z s) : Keeps z (movSrstEnd s t) := by
  unfold movSrstEnd
  try dsimp only
  repeat' (first | with_reducible assumption | intro _ | with_reducible apply keeps_ite2 | with_reducible apply keeps_ite3 | with_reducible apply putReg_keeps | with_reducible apply resetRegs_keeps | with_reducible apply modTile_keeps | with_reducible apply keeps_foldl | with_reducible apply keeps_foldl2 | with_reducible apply keeps_foldl3 | with_reducible apply keeps_iter | with_reducible apply keeps_elim | with_reducible apply keeps_ite | split | with_reducible apply keeps_mk | dsimp only)

theorem movSrst_keeps {z : State} (s : State) (t : Nat) (hK : Keeps z s) : Keeps z (movSrst s t) := by
  unfold movSrst
  try dsimp only
  repeat' (first | with_reducible assumption | intro _ | with_reducible apply keeps_ite2 | with_reducible apply keeps_ite3 | with_reducible apply movSrstEnd_keeps | with_reducible apply keeps_foldl | with_reducible apply keeps_foldl2 | with_reducible apply keeps_foldl3 | with_reducible apply keeps_iter | with_reducible apply keeps_elim | with_reducible apply keeps_ite | split | with_reducible apply keeps_mk | dsimp only)

theorem movPump_keeps {z : State} (s : State) (t : Nat) (hK : Keeps z s) : Keeps z (movPump s t) := by
  unfold movPump
  try dsimp only
  repeat' (first | with_reducible assumption | intro _ | with_reducible apply keeps_ite2 | with_reducible apply keeps_ite3 | with_reducible apply movSrst_keeps | with_reducible apply cutStep_keeps | with_reducible apply sigStart_keeps | with_reducible apply stagePump_keeps | with_reducible apply keeps_foldl | with_reducible apply keeps_foldl2 | with_reducible apply keeps_foldl3 | with_reducible apply keeps_iter | with_reducible apply keeps_elim | with_reducible apply keeps_ite | split | with_reducible apply keeps_mk | dsimp only)

theorem cmdFail_keeps {z : State} (s : State) (t id : Nat) (hK : Keeps z s) : Keeps z (cmdFail s t id) := by
  unfold cmdFail
  try dsimp only
  repeat' (first | with_reducible assumption | intro _ | with_reducible apply keeps_ite2 | with_reducible apply keeps_ite3 | with_reducible apply modTile_keeps | with_reducible apply keeps_foldl | with_reducible apply keeps_foldl2 | with_reducible apply keeps_foldl3 | with_reducible apply keeps_iter | with_reducible apply keeps_elim | with_reducible apply keeps_ite | split | with_reducible apply keeps_mk | dsimp only)

theorem reqDrop_keeps {z : State} (s : State) (t : Nat) (tag : Half) (hK : Keeps z s) : Keeps z (reqDrop s t tag) := by
  unfold reqDrop
  try dsimp only
  repeat' (first | with_reducible assumption | intro _ | with_reducible apply keeps_ite2 | with_reducible apply keeps_ite3 | with_reducible apply modTile_keeps | with_reducible apply keeps_foldl | with_reducible apply keeps_foldl2 | with_reducible apply keeps_foldl3 | with_reducible apply keeps_iter | with_reducible apply keeps_elim | with_reducible apply keeps_ite | split | with_reducible apply keeps_mk | dsimp only)

theorem reqFail_keeps {z : State} (s : State) (t : Nat) (r : MovReq) (reason : Nat) (hK : Keeps z s) : Keeps z (reqFail s t r reason) := by
  unfold reqFail
  try dsimp only
  repeat' (first | with_reducible assumption | intro _ | with_reducible apply keeps_ite2 | with_reducible apply keeps_ite3 | with_reducible apply pelAdd_keeps | with_reducible apply cmdFail_keeps | with_reducible apply keeps_foldl | with_reducible apply keeps_foldl2 | with_reducible apply keeps_foldl3 | with_reducible apply keeps_iter | with_reducible apply keeps_elim | with_reducible apply keeps_ite | split | with_reducible apply keeps_mk | dsimp only)

theorem copyFail_keeps {z : State} (s : State) (t : Nat) (r : MovReq) (reason : Nat) (node : Word) (hK : Keeps z s) : Keeps z (copyFail s t r reason node) := by
  unfold copyFail
  try dsimp only
  repeat' (first | with_reducible assumption | intro _ | with_reducible apply keeps_ite2 | with_reducible apply keeps_ite3 | with_reducible apply pelAdd_keeps | with_reducible apply cmdFail_keeps | with_reducible apply keeps_foldl | with_reducible apply keeps_foldl2 | with_reducible apply keeps_foldl3 | with_reducible apply keeps_iter | with_reducible apply keeps_elim | with_reducible apply keeps_ite | split | with_reducible apply keeps_mk | dsimp only)

theorem stageOne_keeps {z : State} (s : State) (t : Nat) (c : MovCmd) (tag : Option Half) (o : Nat) (bs : List Byte) (hK : Keeps z s) : Keeps z (stageOne s t c tag o bs) := by
  unfold stageOne
  try dsimp only
  repeat' (first | with_reducible assumption | intro _ | with_reducible apply keeps_ite2 | with_reducible apply keeps_ite3 | with_reducible apply newTag_keeps | with_reducible refine newTag_keeps2 (by assumption) ?_ | with_reducible apply modTile_keeps | with_reducible apply keeps_foldl | with_reducible apply keeps_foldl2 | with_reducible apply keeps_foldl3 | with_reducible apply keeps_iter | with_reducible apply keeps_elim | with_reducible apply keeps_ite | split | with_reducible apply keeps_mk | dsimp only)

theorem stageReqs_keeps {z : State} (s : State) (t : Nat) (c : MovCmd) (bs : List Byte) (o : Nat) (hK : Keeps z s) : Keeps z (stageReqs s t c bs o) := by
  unfold stageReqs
  try dsimp only
  repeat' (first | with_reducible assumption | intro _ | with_reducible apply keeps_ite2 | with_reducible apply keeps_ite3 | with_reducible apply stageOne_keeps | with_reducible apply keeps_foldl | with_reducible apply keeps_foldl2 | with_reducible apply keeps_foldl3 | with_reducible apply keeps_iter | with_reducible apply keeps_elim | with_reducible apply keeps_ite | split | with_reducible apply keeps_mk | dsimp only)

theorem wholeReqs_keeps {z : State} (s : State) (t : Nat) (c : MovCmd) (tag : Option Half) (bs : List Byte) (o k : Nat) (h : Keeps z s) : Keeps z (wholeReqs s t c tag bs o k) := by
  induction k generalizing s tag bs o with
  | zero => exact h
  | succ k ih =>
    unfold wholeReqs
    split
    · exact h
    · exact ih _ _ _ _ (stageOne_keeps _ _ _ _ _ _ h)

theorem stageIn_keeps {z : State} (s : State) (t : Nat) (c : MovCmd) (bs : List Byte) (o : Nat) (hK : Keeps z s) : Keeps z (stageIn s t c bs o) := by
  unfold stageIn
  try dsimp only
  repeat' (first | with_reducible assumption | intro _ | with_reducible apply keeps_ite2 | with_reducible apply keeps_ite3 | with_reducible apply stageReqs_keeps | with_reducible apply modTile_keeps | with_reducible apply wholeReqs_keeps | with_reducible apply keeps_foldl | with_reducible apply keeps_foldl2 | with_reducible apply keeps_foldl3 | with_reducible apply keeps_iter | with_reducible apply keeps_elim | with_reducible apply keeps_ite | split | with_reducible apply keeps_mk | dsimp only)

theorem readLand_keeps {z : State} (s : State) (t : Nat) (r : MovReq) (p : Packet) (hK : Keeps z s) : Keeps z (readLand s t r p) := by
  unfold readLand
  try dsimp only
  repeat' (first | with_reducible assumption | intro _ | with_reducible apply keeps_ite2 | with_reducible apply keeps_ite3 | with_reducible apply reqDrop_keeps | with_reducible apply reqFail_keeps | with_reducible apply stageIn_keeps | with_reducible apply memStore_keeps | with_reducible apply keeps_foldl | with_reducible apply keeps_foldl2 | with_reducible apply keeps_foldl3 | with_reducible apply keeps_iter | with_reducible apply keeps_elim | with_reducible apply keeps_ite | split | with_reducible apply keeps_mk | dsimp only)

theorem reqNak_keeps {z : State} (s : State) (t : Nat) (r : MovReq) (reason : Nat) (hK : Keeps z s) : Keeps z (reqNak s t r reason) := by
  unfold reqNak
  try dsimp only
  repeat' (first | with_reducible assumption | intro _ | with_reducible apply keeps_ite2 | with_reducible apply keeps_ite3 | with_reducible apply modTile_keeps | with_reducible apply reqDrop_keeps | with_reducible apply reqFail_keeps | with_reducible apply keeps_foldl | with_reducible apply keeps_foldl2 | with_reducible apply keeps_foldl3 | with_reducible apply keeps_iter | with_reducible apply keeps_elim | with_reducible apply keeps_ite | split | with_reducible apply keeps_mk | dsimp only)

theorem heldAct_keeps {z : State} (s : State) (t : Nat) (r : MovReq) (p : Packet) (hK : Keeps z s) : Keeps z (heldAct s t r p) := by
  unfold heldAct
  try dsimp only
  repeat' (first | with_reducible assumption | intro _ | with_reducible apply keeps_ite2 | with_reducible apply keeps_ite3 | with_reducible apply reqFail_keeps | with_reducible apply readLand_keeps | with_reducible apply reqDrop_keeps | with_reducible apply reqNak_keeps | with_reducible apply keeps_foldl | with_reducible apply keeps_foldl2 | with_reducible apply keeps_foldl3 | with_reducible apply keeps_iter | with_reducible apply keeps_elim | with_reducible apply keeps_ite | split | with_reducible apply keeps_mk | dsimp only)

theorem notePkt_keeps {z : State} (s : State) (t : Nat) (v : SrcResv) (w : CmdWord) (op : BitVec 8) (hK : Keeps z s) : Keeps z (notePkt s t v w op) := by
  unfold notePkt
  try dsimp only
  repeat' (first | with_reducible assumption | intro _ | with_reducible apply keeps_ite2 | with_reducible apply keeps_ite3 | with_reducible apply modTile_keeps | with_reducible apply keeps_foldl | with_reducible apply keeps_foldl2 | with_reducible apply keeps_foldl3 | with_reducible apply keeps_iter | with_reducible apply keeps_elim | with_reducible apply keeps_ite | split | with_reducible apply keeps_mk | dsimp only)

theorem payloadReqs_keeps {z : State} (s : State) (t : Nat) (c : MovCmd) (tag : Option Half) (n : Nat) (h : Keeps z s) :
    Keeps z (payloadReqs s t c tag n) := by
  induction n generalizing s c tag with
  | zero => exact h
  | succ n ih =>
    simp only [payloadReqs]
    split
    · exact h
    · exact ih _ _ _ (modTile_keeps _ _ _ (cutReq_keeps _ _ _ h))

theorem outMod_keeps {z : State} (s : State) (t id : Nat) (f : MovCmd → MovCmd) (hK : Keeps z s) : Keeps z (outMod s t id f) := by
  unfold outMod
  try dsimp only
  repeat' (first | with_reducible assumption | intro _ | with_reducible apply keeps_ite2 | with_reducible apply keeps_ite3 | with_reducible apply modTile_keeps | with_reducible apply keeps_foldl | with_reducible apply keeps_foldl2 | with_reducible apply keeps_foldl3 | with_reducible apply keeps_iter | with_reducible apply keeps_elim | with_reducible apply keeps_ite | split | with_reducible apply keeps_mk | dsimp only)

theorem resvSend_keeps {z : State} (s : State) (t : Nat) (c : MovCmd) (v : SrcResv) (hK : Keeps z s) : Keeps z (resvSend s t c v) := by
  unfold resvSend
  try dsimp only
  repeat' (first | with_reducible assumption | intro _ | with_reducible apply keeps_ite2 | with_reducible apply keeps_ite3 | with_reducible apply granted_keeps | with_reducible apply notePkt_keeps | with_reducible apply payloadReqs_keeps | with_reducible apply modTile_keeps | with_reducible apply outMod_keeps | with_reducible apply keeps_foldl | with_reducible apply keeps_foldl2 | with_reducible apply keeps_foldl3 | with_reducible apply keeps_iter | with_reducible apply keeps_elim | with_reducible apply keeps_ite | split | with_reducible apply keeps_mk | dsimp only)

theorem aincAll_keeps {z : State} (s : State) (t lc n : Nat) (ks : List Nat) (hK : Keeps z s) : Keeps z (aincAll s t lc n ks) := by
  unfold aincAll
  try dsimp only
  repeat' (first | with_reducible assumption | intro _ | with_reducible apply keeps_ite2 | with_reducible apply keeps_ite3 | with_reducible apply putMadAddr_keeps | with_reducible apply keeps_foldl | with_reducible apply keeps_foldl2 | with_reducible apply keeps_foldl3 | with_reducible apply keeps_iter | with_reducible apply keeps_elim | with_reducible apply keeps_ite | split | with_reducible apply keeps_mk | dsimp only)

theorem movCommit_keeps {z : State} (s0 : State) (t : Nat) (c : MovCmd) (hK : Keeps z s0) : Keeps z (movCommit s0 t c) := by
  unfold movCommit
  try dsimp only
  repeat' (first | with_reducible assumption | intro _ | with_reducible apply keeps_ite2 | with_reducible apply keeps_ite3 | with_reducible apply aincAll_keeps | with_reducible apply outMod_keeps | with_reducible apply cmdFail_keeps | with_reducible apply pelAdd_keeps | with_reducible apply modTile_keeps | with_reducible apply heldAct_keeps | with_reducible apply resvSend_keeps | with_reducible apply keeps_foldl | with_reducible apply keeps_foldl2 | with_reducible apply keeps_foldl3 | with_reducible apply keeps_iter | with_reducible apply keeps_elim | with_reducible apply keeps_ite | split | with_reducible apply keeps_mk | dsimp only)

theorem iqRemove_keeps {z : State} (s : State) (t q : Nat) (tag : Half) (hK : Keeps z s) : Keeps z (iqRemove s t q tag) := by
  unfold iqRemove
  try dsimp only
  repeat' (first | with_reducible assumption | intro _ | with_reducible apply keeps_ite2 | with_reducible apply keeps_ite3 | with_reducible apply modTile_keeps | with_reducible apply keeps_foldl | with_reducible apply keeps_foldl2 | with_reducible apply keeps_foldl3 | with_reducible apply keeps_iter | with_reducible apply keeps_elim | with_reducible apply keeps_ite | split | with_reducible apply keeps_mk | dsimp only)

theorem movSquash_keeps {z : State} (s : State) (t : Nat) (c : MovCmd) (hK : Keeps z s) : Keeps z (movSquash s t c) := by
  unfold movSquash
  try dsimp only
  repeat' (first | with_reducible assumption | intro _ | with_reducible apply keeps_ite2 | with_reducible apply keeps_ite3 | with_reducible apply modTile_keeps | with_reducible apply iqRemove_keeps | with_reducible apply reqDrop_keeps | with_reducible apply tentCount_keeps | with_reducible apply notePkt_keeps | with_reducible apply sillage_keeps | with_reducible apply granted_keeps | with_reducible apply keeps_foldl | with_reducible apply keeps_foldl2 | with_reducible apply keeps_foldl3 | with_reducible apply keeps_iter | with_reducible apply keeps_elim | with_reducible apply keeps_ite | split | with_reducible apply keeps_mk | dsimp only)

theorem movSettle_keeps {z : State} (s : State) (t lc : Nat) (hK : Keeps z s) : Keeps z (movSettle s t lc) := by
  unfold movSettle
  try dsimp only
  repeat' (first | with_reducible assumption | intro _ | with_reducible apply keeps_ite2 | with_reducible apply keeps_ite3 | with_reducible apply movPump_keeps | with_reducible apply movCommit_keeps | with_reducible apply keeps_foldl | with_reducible apply keeps_foldl2 | with_reducible apply keeps_foldl3 | with_reducible apply keeps_iter | with_reducible apply keeps_elim | with_reducible apply keeps_ite | split | with_reducible apply keeps_mk | dsimp only)

theorem popMov_keeps {z : State} (s : State) (t : Nat) (hK : Keeps z s) : Keeps z (popMov s t) := by
  unfold popMov
  try dsimp only
  repeat' (first | with_reducible assumption | intro _ | with_reducible apply keeps_ite2 | with_reducible apply keeps_ite3 | with_reducible apply modTile_keeps | with_reducible apply keeps_foldl | with_reducible apply keeps_foldl2 | with_reducible apply keeps_foldl3 | with_reducible apply keeps_iter | with_reducible apply keeps_elim | with_reducible apply keeps_ite | split | with_reducible apply keeps_mk | dsimp only)

theorem movNote_keeps {z : State} (s : State) (t code : Nat) (w : CmdWord) (tent : Bool) (hK : Keeps z s) : Keeps z (movNote s t code w tent) := by
  unfold movNote
  try dsimp only
  repeat' (first | with_reducible assumption | intro _ | with_reducible apply keeps_ite2 | with_reducible apply keeps_ite3 | with_reducible apply sillage_keeps | with_reducible apply keeps_foldl | with_reducible apply keeps_foldl2 | with_reducible apply keeps_foldl3 | with_reducible apply keeps_iter | with_reducible apply keeps_elim | with_reducible apply keeps_ite | split | with_reducible apply keeps_mk | dsimp only)

theorem resvStart_keeps {z : State} (s : State) (t : Nat) (c : MovCmd) (hK : Keeps z s) : Keeps z (resvStart s t c) := by
  unfold resvStart
  try dsimp only
  repeat' (first | with_reducible assumption | intro _ | with_reducible apply keeps_ite2 | with_reducible apply keeps_ite3 | with_reducible apply newTag_keeps | with_reducible refine newTag_keeps2 (by assumption) ?_ | with_reducible apply modTile_keeps | with_reducible apply tentCount_keeps | with_reducible apply keeps_foldl | with_reducible apply keeps_foldl2 | with_reducible apply keeps_foldl3 | with_reducible apply keeps_iter | with_reducible apply keeps_elim | with_reducible apply keeps_ite | split | with_reducible apply keeps_mk | dsimp only)

theorem localCopy_keeps {z : State} (s : State) (t : Nat) (c : MovCmd) (hK : Keeps z s) : Keeps z (localCopy s t c) := by
  unfold localCopy
  try dsimp only
  repeat' (first | with_reducible assumption | intro _ | with_reducible apply keeps_ite2 | with_reducible apply keeps_ite3 | with_reducible apply tileRead_keeps | with_reducible refine tileRead_keeps2 (by assumption) ?_ | with_reducible apply pelAdd_keeps | with_reducible apply modTile_keeps | with_reducible apply memStore_keeps | with_reducible apply keeps_foldl | with_reducible apply keeps_foldl2 | with_reducible apply keeps_foldl3 | with_reducible apply keeps_iter | with_reducible apply keeps_elim | with_reducible apply keeps_ite | split | with_reducible apply keeps_mk | dsimp only)

theorem movGo_keeps {z : State} (s : State) (t : Nat) (q : QCmd) (tent : Bool) (k : MovKind) (src dst : Side) (hK : Keeps z s) : Keeps z (movGo s t q tent k src dst) := by
  unfold movGo
  try dsimp only
  repeat' (first | with_reducible assumption | intro _ | with_reducible apply keeps_ite2 | with_reducible apply keeps_ite3 | with_reducible apply regRead_keeps | with_reducible refine regRead_keeps2 (by assumption) ?_ | with_reducible apply aincAll_keeps | with_reducible apply modTile_keeps | with_reducible apply localCopy_keeps | with_reducible apply resvStart_keeps | with_reducible apply keeps_foldl | with_reducible apply keeps_foldl2 | with_reducible apply keeps_foldl3 | with_reducible apply keeps_iter | with_reducible apply keeps_elim | with_reducible apply keeps_ite | split | with_reducible apply keeps_mk | dsimp only)

theorem movBegin_keeps {z : State} (s : State) (t : Nat) (q : QCmd) (hK : Keeps z s) : Keeps z (movBegin s t q) := by
  unfold movBegin
  try dsimp only
  repeat' (first | with_reducible assumption | intro _ | with_reducible apply keeps_ite2 | with_reducible apply keeps_ite3 | with_reducible apply modTile_keeps | with_reducible apply movNote_keeps | with_reducible apply popMov_keeps | with_reducible apply pelAdd_keeps | with_reducible apply movPump_keeps | with_reducible apply movGo_keeps | with_reducible apply keeps_foldl | with_reducible apply keeps_foldl2 | with_reducible apply keeps_foldl3 | with_reducible apply keeps_iter | with_reducible apply keeps_elim | with_reducible apply keeps_ite | split | with_reducible apply keeps_mk | dsimp only)

theorem movFinish_keeps {z : State} (s : State) (t : Nat) (hK : Keeps z s) : Keeps z (movFinish s t) := by
  unfold movFinish
  try dsimp only
  repeat' (first | with_reducible assumption | intro _ | with_reducible apply keeps_ite2 | with_reducible apply keeps_ite3 | with_reducible apply modTile_keeps | with_reducible apply semOp_keeps | with_reducible apply movNote_keeps | with_reducible apply keeps_foldl | with_reducible apply keeps_foldl2 | with_reducible apply keeps_foldl3 | with_reducible apply keeps_iter | with_reducible apply keeps_elim | with_reducible apply keeps_ite | split | with_reducible apply keeps_mk | dsimp only)

end Sys2Proof.Machine
end

