-- ==== Sys2Proof/Laws/KeepsSeqOps.lean ====
section
/-! SUPPORT. Every operation of Machine/SeqOps.lean keeps what Safety.lean names. -/

namespace Sys2Proof.Machine

set_option linter.all false

theorem lcSetState_keeps {z : State} (s : State) (t lc st : Nat) (hK : Keeps z s) : Keeps z (lcSetState s t lc st) := by
  unfold lcSetState
  try dsimp only
  repeat' (first | with_reducible assumption | intro _ | with_reducible apply keeps_ite2 | with_reducible apply keeps_ite3 | with_reducible apply putFld_keeps | with_reducible apply keeps_foldl | with_reducible apply keeps_foldl2 | with_reducible apply keeps_foldl3 | with_reducible apply keeps_iter | with_reducible apply keeps_elim | with_reducible apply keeps_ite | split | with_reducible apply keeps_mk | dsimp only)

theorem lcSetPc_keeps {z : State} (s : State) (t lc pc : Nat) (hK : Keeps z s) : Keeps z (lcSetPc s t lc pc) := by
  unfold lcSetPc
  try dsimp only
  repeat' (first | with_reducible assumption | intro _ | with_reducible apply keeps_ite2 | with_reducible apply keeps_ite3 | with_reducible apply modCtx_keeps | with_reducible apply putFld_keeps | with_reducible apply keeps_foldl | with_reducible apply keeps_foldl2 | with_reducible apply keeps_foldl3 | with_reducible apply keeps_iter | with_reducible apply keeps_elim | with_reducible apply keeps_ite | split | with_reducible apply keeps_mk | dsimp only)

theorem loopDec_keeps {z : State} (s : State) (t lc k : Nat) (hK : Keeps z s) : Keeps z (loopDec s t lc k) := by
  unfold loopDec
  try dsimp only
  repeat' (first | with_reducible assumption | intro _ | with_reducible apply keeps_ite2 | with_reducible apply keeps_ite3 | with_reducible apply putReg_keeps | with_reducible apply keeps_foldl | with_reducible apply keeps_foldl2 | with_reducible apply keeps_foldl3 | with_reducible apply keeps_iter | with_reducible apply keeps_elim | with_reducible apply keeps_ite | split | with_reducible apply keeps_mk | dsimp only)

theorem predict_keeps {z : State} (s : State) (t idx target : Nat) (hK : Keeps z s) : Keeps z (predict s t idx target).2 := by
  unfold predict
  try dsimp only
  repeat' (first | with_reducible assumption | intro _ | with_reducible apply keeps_ite2 | with_reducible apply keeps_ite3 | with_reducible apply modTile_keeps | with_reducible apply keeps_foldl | with_reducible apply keeps_foldl2 | with_reducible apply keeps_foldl3 | with_reducible apply keeps_iter | with_reducible apply keeps_elim | with_reducible apply keeps_ite | split | with_reducible apply keeps_mk | dsimp only)

theorem predict_keeps2 {z : State} {s : State} {t idx target : Nat} {rK} {sK : State} (e : predict s t idx target = (rK, sK)) (hK : Keeps z s) : Keeps z sK := by
  have k := predict_keeps (z := z) s t idx target hK
  rw [e] at k; exact k

theorem predUpdate_keeps {z : State} (s : State) (t idx : Nat) (taken : Bool) (hK : Keeps z s) : Keeps z (predUpdate s t idx taken) := by
  unfold predUpdate
  try dsimp only
  repeat' (first | with_reducible assumption | intro _ | with_reducible apply keeps_ite2 | with_reducible apply keeps_ite3 | with_reducible apply modTile_keeps | with_reducible apply keeps_foldl | with_reducible apply keeps_foldl2 | with_reducible apply keeps_foldl3 | with_reducible apply keeps_iter | with_reducible apply keeps_elim | with_reducible apply keeps_ite | split | with_reducible apply keeps_mk | dsimp only)

theorem seqCount_keeps {z : State} (s : State) (t off n : Nat) (hK : Keeps z s) : Keeps z (seqCount s t off n) := by
  unfold seqCount
  try dsimp only
  repeat' (first | with_reducible assumption | intro _ | with_reducible apply keeps_ite2 | with_reducible apply keeps_ite3 | with_reducible apply workCount_keeps | with_reducible apply keeps_foldl | with_reducible apply keeps_foldl2 | with_reducible apply keeps_foldl3 | with_reducible apply keeps_iter | with_reducible apply keeps_elim | with_reducible apply keeps_ite | split | with_reducible apply keeps_mk | dsimp only)

theorem squashAfter_keeps {z : State} (s : State) (t lc : Nat) (b : Branch) (hK : Keeps z s) : Keeps z (squashAfter s t lc b) := by
  unfold squashAfter
  try dsimp only
  repeat' (first | with_reducible assumption | intro _ | with_reducible apply keeps_ite2 | with_reducible apply keeps_ite3 | with_reducible apply modTile_keeps | with_reducible apply movSquash_keeps | with_reducible apply modCtx_keeps | with_reducible apply seqCount_keeps | with_reducible apply movPump_keeps | with_reducible apply sillage_keeps | with_reducible apply keeps_foldl | with_reducible apply keeps_foldl2 | with_reducible apply keeps_foldl3 | with_reducible apply keeps_iter | with_reducible apply keeps_elim | with_reducible apply keeps_ite | split | with_reducible apply keeps_mk | dsimp only)

theorem squashTent_keeps {z : State} (s : State) (t lc : Nat) (hK : Keeps z s) : Keeps z (squashTent s t lc) := by
  unfold squashTent
  try dsimp only
  repeat' (first | with_reducible assumption | intro _ | with_reducible apply keeps_ite2 | with_reducible apply keeps_ite3 | with_reducible apply modCtx_keeps | with_reducible apply squashAfter_keeps | with_reducible apply keeps_foldl | with_reducible apply keeps_foldl2 | with_reducible apply keeps_foldl3 | with_reducible apply keeps_iter | with_reducible apply keeps_elim | with_reducible apply keeps_ite | split | with_reducible apply keeps_mk | dsimp only)

theorem seqFault_keeps {z : State} (s : State) (t lc code : Nat) (layer oper : Half) (hK : Keeps z s) : Keeps z (seqFault s t lc code layer oper) := by
  unfold seqFault
  try dsimp only
  repeat' (first | with_reducible assumption | intro _ | with_reducible apply keeps_ite2 | with_reducible apply keeps_ite3 | with_reducible apply modCtx_keeps | with_reducible apply putFld_keeps | with_reducible apply sillage_keeps | with_reducible apply captureOpen_keeps | with_reducible apply movSettle_keeps | with_reducible apply lcSetState_keeps | with_reducible apply squashTent_keeps | with_reducible apply keeps_foldl | with_reducible apply keeps_foldl2 | with_reducible apply keeps_foldl3 | with_reducible apply keeps_iter | with_reducible apply keeps_elim | with_reducible apply keeps_ite | split | with_reducible apply keeps_mk | dsimp only)

theorem faultAtIssue_keeps {z : State} (s : State) (t lc code : Nat) (tent : Bool) (layer oper : Half) (hK : Keeps z s) : Keeps z (faultAtIssue s t lc code tent layer oper) := by
  unfold faultAtIssue
  try dsimp only
  repeat' (first | with_reducible assumption | intro _ | with_reducible apply keeps_ite2 | with_reducible apply keeps_ite3 | with_reducible apply modCtx_keeps | with_reducible apply seqFault_keeps | with_reducible apply keeps_foldl | with_reducible apply keeps_foldl2 | with_reducible apply keeps_foldl3 | with_reducible apply keeps_iter | with_reducible apply keeps_elim | with_reducible apply keeps_ite | split | with_reducible apply keeps_mk | dsimp only)

theorem waitTry_keeps {z : State} {s : State} {t lc : Nat} {w : WaitOn} {s1 : State} (e : waitTry s t lc w = some s1) (hK : Keeps z s) : Keeps z s1 := by
  revert e
  unfold waitTry
  try dsimp only
  repeat' split
  all_goals (intro e; cases e)
  repeat' (first | with_reducible assumption | intro _ | with_reducible apply keeps_ite2 | with_reducible apply keeps_ite3 | with_reducible apply putFld_keeps | with_reducible apply putBit_keeps | with_reducible apply sillage_keeps | with_reducible apply semOp_keeps | with_reducible apply keeps_foldl | with_reducible apply keeps_foldl2 | with_reducible apply keeps_foldl3 | with_reducible apply keeps_iter | with_reducible apply keeps_elim | with_reducible apply keeps_ite | split | with_reducible apply keeps_mk | dsimp only)

theorem waitLeave_keeps {z : State} (s : State) (t lc : Nat) (hK : Keeps z s) : Keeps z (waitLeave s t lc) := by
  unfold waitLeave
  try dsimp only
  repeat' (first | with_reducible assumption | intro _ | with_reducible apply keeps_ite2 | with_reducible apply keeps_ite3 | with_reducible apply modCtx_keeps | with_reducible apply sillage_keeps | with_reducible apply lcSetState_keeps | with_reducible apply keeps_foldl | with_reducible apply keeps_foldl2 | with_reducible apply keeps_foldl3 | with_reducible apply keeps_iter | with_reducible apply keeps_elim | with_reducible apply keeps_ite | split | with_reducible apply keeps_mk | dsimp only)

theorem waitIssue_keeps {z : State} (s : State) (t lc : Nat) (w : WaitOn) (toUs : Nat) (layer oper : Half) (hK : Keeps z s) : Keeps z (waitIssue s t lc w toUs layer oper) := by
  unfold waitIssue
  try dsimp only
  repeat' (first | with_reducible assumption | intro _ | with_reducible apply keeps_ite2 | with_reducible apply keeps_ite3 | with_reducible apply modCtx_keeps | with_reducible apply sillage_keeps | with_reducible apply lcSetState_keeps | with_reducible refine waitTry_keeps (by assumption) ?_ | with_reducible apply keeps_foldl | with_reducible apply keeps_foldl2 | with_reducible apply keeps_foldl3 | with_reducible apply keeps_iter | with_reducible apply keeps_elim | with_reducible apply keeps_ite | split | with_reducible apply keeps_mk | dsimp only)

theorem waitEnd_keeps {z : State} (s : State) (t lc : Nat) (kind : WaitOn → Bool) (hK : Keeps z s) : Keeps z (waitEnd s t lc kind) := by
  unfold waitEnd
  try dsimp only
  repeat' (first | with_reducible assumption | intro _ | with_reducible apply keeps_ite2 | with_reducible apply keeps_ite3 | with_reducible refine waitTry_keeps (by assumption) ?_ | with_reducible apply waitLeave_keeps | with_reducible apply keeps_foldl | with_reducible apply keeps_foldl2 | with_reducible apply keeps_foldl3 | with_reducible apply keeps_iter | with_reducible apply keeps_elim | with_reducible apply keeps_ite | split | with_reducible apply keeps_mk | dsimp only)

theorem countBrs_keeps {z : State} (s : State) (t lc n : Nat) (h : Keeps z s) : Keeps z (countBrs s t lc n) := by
  induction n generalizing s with
  | zero => exact h
  | succ n ih =>
    simp only [countBrs]
    split
    · split
      · apply ih
        split
        · exact seqCount_keeps _ _ _ _ (seqCount_keeps _ _ _ _ (modCtx_keeps _ _ _ _ h))
        · exact seqCount_keeps _ _ _ _ (modCtx_keeps _ _ _ _ h)
      · exact h
    · exact h

theorem settle_keeps {z : State} (s : State) (t lc : Nat) (hK : Keeps z s) : Keeps z (settle s t lc) := by
  unfold settle
  try dsimp only
  repeat' (first | with_reducible assumption | intro _ | with_reducible apply keeps_ite2 | with_reducible apply keeps_ite3 | with_reducible apply countBrs_keeps | with_reducible apply movSettle_keeps | with_reducible apply seqFault_keeps | with_reducible apply keeps_foldl | with_reducible apply keeps_foldl2 | with_reducible apply keeps_foldl3 | with_reducible apply keeps_iter | with_reducible apply keeps_elim | with_reducible apply keeps_ite | split | with_reducible apply keeps_mk | dsimp only)

theorem redirect_keeps {z : State} (s : State) (t lc : Nat) (b : Branch) (taken : Bool) (hK : Keeps z s) : Keeps z (redirect s t lc b taken) := by
  unfold redirect
  try dsimp only
  repeat' (first | with_reducible assumption | intro _ | with_reducible apply keeps_ite2 | with_reducible apply keeps_ite3 | with_reducible apply modCtx_keeps | with_reducible apply lcSetPc_keeps | with_reducible apply keeps_foldl | with_reducible apply keeps_foldl2 | with_reducible apply keeps_foldl3 | with_reducible apply keeps_iter | with_reducible apply keeps_elim | with_reducible apply keeps_ite | split | with_reducible apply keeps_mk | dsimp only)

theorem resolveBranch_keeps {z : State} (s : State) (t lc : Nat) (b : Branch) (taken : Bool) (hK : Keeps z s) : Keeps z (resolveBranch s t lc b taken) := by
  unfold resolveBranch
  try dsimp only
  repeat' (first | with_reducible assumption | intro _ | with_reducible apply keeps_ite2 | with_reducible apply keeps_ite3 | with_reducible apply predUpdate_keeps | with_reducible apply modCtx_keeps | with_reducible apply sillage_keeps | with_reducible apply squashAfter_keeps | with_reducible apply redirect_keeps | with_reducible apply settle_keeps | with_reducible apply keeps_foldl | with_reducible apply keeps_foldl2 | with_reducible apply keeps_foldl3 | with_reducible apply keeps_iter | with_reducible apply keeps_elim | with_reducible apply keeps_ite | split | with_reducible apply keeps_mk | dsimp only)

theorem passCmd_keeps {z : State} (s : State) (t lc : Nat) (hK : Keeps z s) : Keeps z (passCmd s t lc) := by
  unfold passCmd
  try dsimp only
  repeat' (first | with_reducible assumption | intro _ | with_reducible apply keeps_ite2 | with_reducible apply keeps_ite3 | with_reducible apply modCtx_keeps | with_reducible apply lcSetPc_keeps | with_reducible apply keeps_foldl | with_reducible apply keeps_foldl2 | with_reducible apply keeps_foldl3 | with_reducible apply keeps_iter | with_reducible apply keeps_elim | with_reducible apply keeps_ite | split | with_reducible apply keeps_mk | dsimp only)

theorem passBranch_keeps {z : State} (s : State) (t lc : Nat) (w : CmdWord) (taken : Bool) (hK : Keeps z s) : Keeps z (passBranch s t lc w taken) := by
  unfold passBranch
  try dsimp only
  repeat' (first | with_reducible assumption | intro _ | with_reducible apply keeps_ite2 | with_reducible apply keeps_ite3 | with_reducible apply modCtx_keeps | with_reducible apply lcSetPc_keeps | with_reducible apply keeps_foldl | with_reducible apply keeps_foldl2 | with_reducible apply keeps_foldl3 | with_reducible apply keeps_iter | with_reducible apply keeps_elim | with_reducible apply keeps_ite | split | with_reducible apply keeps_mk | dsimp only)

theorem issueBr_keeps {z : State} (s : State) (t lc : Nat) (w : CmdWord) (hK : Keeps z s) : Keeps z (issueBr s t lc w) := by
  unfold issueBr
  try dsimp only
  repeat' (first | with_reducible assumption | intro _ | with_reducible apply keeps_ite2 | with_reducible apply keeps_ite3 | with_reducible apply loopDec_keeps | with_reducible apply passBranch_keeps | with_reducible apply countBrs_keeps | with_reducible apply modCtx_keeps | with_reducible apply predict_keeps | with_reducible refine predict_keeps2 (by assumption) ?_ | with_reducible apply keeps_foldl | with_reducible apply keeps_foldl2 | with_reducible apply keeps_foldl3 | with_reducible apply keeps_iter | with_reducible apply keeps_elim | with_reducible apply keeps_ite | split | with_reducible apply keeps_mk | dsimp only)

theorem issueEngine_keeps {z : State} (s : State) (t lc : Nat) (w : CmdWord) (hK : Keeps z s) : Keeps z (issueEngine s t lc w) := by
  unfold issueEngine
  try dsimp only
  repeat' (first | with_reducible assumption | intro _ | with_reducible apply keeps_ite2 | with_reducible apply keeps_ite3 | with_reducible apply modTile_keeps | with_reducible apply movPump_keeps | with_reducible apply passCmd_keeps | with_reducible apply keeps_foldl | with_reducible apply keeps_foldl2 | with_reducible apply keeps_foldl3 | with_reducible apply keeps_iter | with_reducible apply keeps_elim | with_reducible apply keeps_ite | split | with_reducible apply keeps_mk | dsimp only)

theorem issueSeq_keeps {z : State} (s : State) (t lc : Nat) (w : CmdWord) (hK : Keeps z s) : Keeps z (issueSeq s t lc w) := by
  unfold issueSeq
  try dsimp only
  repeat' (first | with_reducible assumption | intro _ | with_reducible apply keeps_ite2 | with_reducible apply keeps_ite3 | with_reducible apply putReg_keeps | with_reducible apply semOp_keeps | with_reducible apply lcSetState_keeps | with_reducible apply waitIssue_keeps | with_reducible apply passCmd_keeps | with_reducible apply passBranch_keeps | with_reducible apply issueBr_keeps | with_reducible apply issueEngine_keeps | with_reducible apply keeps_foldl | with_reducible apply keeps_foldl2 | with_reducible apply keeps_foldl3 | with_reducible apply keeps_iter | with_reducible apply keeps_elim | with_reducible apply keeps_ite | split | with_reducible apply keeps_mk | dsimp only)

theorem issueOne_keeps {z : State} (s : State) (t lc : Nat) (hK : Keeps z s) : Keeps z (issueOne s t lc) := by
  unfold issueOne
  try dsimp only
  repeat' (first | with_reducible assumption | intro _ | with_reducible apply keeps_ite2 | with_reducible apply keeps_ite3 | with_reducible apply tileRead_keeps | with_reducible refine tileRead_keeps2 (by assumption) ?_ | with_reducible apply faultAtIssue_keeps | with_reducible apply modTile_keeps | with_reducible apply modCtx_keeps | with_reducible apply issueSeq_keeps | with_reducible apply issueEngine_keeps | with_reducible apply keeps_foldl | with_reducible apply keeps_foldl2 | with_reducible apply keeps_foldl3 | with_reducible apply keeps_iter | with_reducible apply keeps_elim | with_reducible apply keeps_ite | split | with_reducible apply keeps_mk | dsimp only)

theorem payPenalty_keeps {z : State} (s : State) (t : Nat) (hK : Keeps z s) : Keeps z (payPenalty s t) := by
  unfold payPenalty
  try dsimp only
  repeat' (first | with_reducible assumption | intro _ | with_reducible apply keeps_ite2 | with_reducible apply keeps_ite3 | with_reducible apply modTile_keeps | with_reducible apply keeps_foldl | with_reducible apply keeps_foldl2 | with_reducible apply keeps_foldl3 | with_reducible apply keeps_iter | with_reducible apply keeps_elim | with_reducible apply keeps_ite | split | with_reducible apply keeps_mk | dsimp only)

theorem issueSlot_keeps {z : State} (s : State) (t : Nat) (hK : Keeps z s) : Keeps z (issueSlot s t) := by
  unfold issueSlot
  try dsimp only
  repeat' (first | with_reducible assumption | intro _ | with_reducible apply keeps_ite2 | with_reducible apply keeps_ite3 | with_reducible apply issueOne_keeps | with_reducible apply payPenalty_keeps | with_reducible apply keeps_foldl | with_reducible apply keeps_foldl2 | with_reducible apply keeps_foldl3 | with_reducible apply keeps_iter | with_reducible apply keeps_elim | with_reducible apply keeps_ite | split | with_reducible apply keeps_mk | dsimp only)

theorem issueRow_keeps {z : State} (s : State) (t : Nat) (f : CmdWord → Bool) (hK : Keeps z s) : Keeps z (issueRow s t f) := by
  unfold issueRow
  try dsimp only
  repeat' (first | with_reducible assumption | intro _ | with_reducible apply keeps_ite2 | with_reducible apply keeps_ite3 | with_reducible apply issueSlot_keeps | with_reducible apply keeps_foldl | with_reducible apply keeps_foldl2 | with_reducible apply keeps_foldl3 | with_reducible apply keeps_iter | with_reducible apply keeps_elim | with_reducible apply keeps_ite | split | with_reducible apply keeps_mk | dsimp only)

theorem clearDescriptors_keeps {z : State} (s : State) (t lc : Nat) (hK : Keeps z s) : Keeps z (clearDescriptors s t lc) := by
  unfold clearDescriptors
  try dsimp only
  repeat' (first | with_reducible assumption | intro _ | with_reducible apply keeps_ite2 | with_reducible apply keeps_ite3 | with_reducible apply resetRegs_keeps | with_reducible apply keeps_foldl | with_reducible apply keeps_foldl2 | with_reducible apply keeps_foldl3 | with_reducible apply keeps_iter | with_reducible apply keeps_elim | with_reducible apply keeps_ite | split | with_reducible apply keeps_mk | dsimp only)

theorem admitList_keeps {z : State} (s : State) (t lc base : Nat) (w : CmdWord) (hK : Keeps z s) : Keeps z (admitList s t lc base w) := by
  unfold admitList
  try dsimp only
  repeat' (first | with_reducible assumption | intro _ | with_reducible apply keeps_ite2 | with_reducible apply keeps_ite3 | with_reducible apply modCtx_keeps | with_reducible apply putFld_keeps | with_reducible apply sillage_keeps | with_reducible apply lcSetState_keeps | with_reducible apply lcSetPc_keeps | with_reducible apply clearDescriptors_keeps | with_reducible apply keeps_foldl | with_reducible apply keeps_foldl2 | with_reducible apply keeps_foldl3 | with_reducible apply keeps_iter | with_reducible apply keeps_elim | with_reducible apply keeps_ite | split | with_reducible apply keeps_mk | dsimp only)

theorem admitRefuse_keeps {z : State} (s : State) (t lc : Nat) (w : CmdWord) (sh : List Nat) (hK : Keeps z s) : Keeps z (admitRefuse s t lc w sh) := by
  unfold admitRefuse
  try dsimp only
  repeat' (first | with_reducible assumption | intro _ | with_reducible apply keeps_ite2 | with_reducible apply keeps_ite3 | with_reducible apply putReg_keeps | with_reducible apply sillage_keeps | with_reducible apply captureOpen_keeps | with_reducible apply keeps_foldl | with_reducible apply keeps_foldl2 | with_reducible apply keeps_foldl3 | with_reducible apply keeps_iter | with_reducible apply keeps_elim | with_reducible apply keeps_ite | split | with_reducible apply keeps_mk | dsimp only)

theorem loadDecide_keeps {z : State} (s : State) (t lc : Nat) (hK : Keeps z s) : Keeps z (loadDecide s t lc) := by
  unfold loadDecide
  try dsimp only
  repeat' (first | with_reducible assumption | intro _ | with_reducible apply keeps_ite2 | with_reducible apply keeps_ite3 | with_reducible apply putBit_keeps | with_reducible apply modTile_keeps | with_reducible apply captureOpen_keeps | with_reducible apply putFld_keeps | with_reducible apply tileRead_keeps | with_reducible refine tileRead_keeps2 (by assumption) ?_ | with_reducible apply admitList_keeps | with_reducible apply admitRefuse_keeps | with_reducible apply keeps_foldl | with_reducible apply keeps_foldl2 | with_reducible apply keeps_foldl3 | with_reducible apply keeps_iter | with_reducible apply keeps_elim | with_reducible apply keeps_ite | split | with_reducible apply keeps_mk | dsimp only)

theorem abortCtx_keeps {z : State} (s : State) (t lc : Nat) (hK : Keeps z s) : Keeps z (abortCtx s t lc) := by
  unfold abortCtx
  try dsimp only
  repeat' (first | with_reducible assumption | intro _ | with_reducible apply keeps_ite2 | with_reducible apply keeps_ite3 | with_reducible apply modCtx_keeps | with_reducible apply putBit_keeps | with_reducible apply movSettle_keeps | with_reducible apply lcSetState_keeps | with_reducible apply squashTent_keeps | with_reducible apply keeps_foldl | with_reducible apply keeps_foldl2 | with_reducible apply keeps_foldl3 | with_reducible apply keeps_iter | with_reducible apply keeps_elim | with_reducible apply keeps_ite | split | with_reducible apply keeps_mk | dsimp only)

theorem seqSrstEnd_keeps {z : State} (s : State) (t : Nat) (hK : Keeps z s) : Keeps z (seqSrstEnd s t) := by
  unfold seqSrstEnd
  try dsimp only
  repeat' (first | with_reducible assumption | intro _ | with_reducible apply keeps_ite2 | with_reducible apply keeps_ite3 | with_reducible apply modTile_keeps | with_reducible apply putReg_keeps | with_reducible apply resetRegs_keeps | with_reducible apply keeps_foldl | with_reducible apply keeps_foldl2 | with_reducible apply keeps_foldl3 | with_reducible apply keeps_iter | with_reducible apply keeps_elim | with_reducible apply keeps_ite | split | with_reducible apply keeps_mk | dsimp only)

theorem drained_keeps {z : State} (s : State) (t lc : Nat) (hK : Keeps z s) : Keeps z (drained s t lc) := by
  unfold drained
  try dsimp only
  repeat' (first | with_reducible assumption | intro _ | with_reducible apply keeps_ite2 | with_reducible apply keeps_ite3 | with_reducible apply modCtx_keeps | with_reducible apply putBit_keeps | with_reducible apply sillage_keeps | with_reducible apply isrBit_keeps | with_reducible apply lcSetState_keeps | with_reducible apply seqSrstEnd_keeps | with_reducible apply keeps_foldl | with_reducible apply keeps_foldl2 | with_reducible apply keeps_foldl3 | with_reducible apply keeps_iter | with_reducible apply keeps_elim | with_reducible apply keeps_ite | split | with_reducible apply keeps_mk | dsimp only)

end Sys2Proof.Machine
end

