-- ==== Sys2Proof/Laws/KeepsTimeTick.lean ====
section
/-! SUPPORT. Every operation of Machine/TimeTick.lean keeps what Safety.lean names. -/

namespace Sys2Proof.Machine

set_option linter.all false

theorem pairCount_keeps {z : State} (s : State) (p : Page) (off n : Nat) (hK : Keeps z s) : Keeps z (pairCount s p off n) := by
  unfold pairCount
  try dsimp only
  repeat' (first | with_reducible assumption | intro _ | with_reducible apply keeps_ite2 | with_reducible apply keeps_ite3 | with_reducible apply putReg_keeps | with_reducible apply keeps_foldl | with_reducible apply keeps_foldl2 | with_reducible apply keeps_foldl3 | with_reducible apply keeps_iter | with_reducible apply keeps_elim | with_reducible apply keeps_ite | split | with_reducible apply keeps_mk | dsimp only)

theorem accrueTile_keeps {z : State} (s : State) (n t : Nat) (hK : Keeps z s) : Keeps z (accrueTile s n t) := by
  unfold accrueTile
  try dsimp only
  repeat' (first | with_reducible assumption | intro _ | with_reducible apply keeps_ite2 | with_reducible apply keeps_ite3 | with_reducible apply pairCount_keeps | with_reducible apply keeps_foldl | with_reducible apply keeps_foldl2 | with_reducible apply keeps_foldl3 | with_reducible apply keeps_iter | with_reducible apply keeps_elim | with_reducible apply keeps_ite | split | with_reducible apply keeps_mk | dsimp only)

theorem accrue_keeps {z : State} (s : State) (n : Nat) (hK : Keeps z s) : Keeps z (accrue s n) := by
  unfold accrue
  try dsimp only
  repeat' (first | with_reducible assumption | intro _ | with_reducible apply keeps_ite2 | with_reducible apply keeps_ite3 | with_reducible apply accrueTile_keeps | with_reducible apply keeps_foldl | with_reducible apply keeps_foldl2 | with_reducible apply keeps_foldl3 | with_reducible apply keeps_iter | with_reducible apply keeps_elim | with_reducible apply keeps_ite | split | with_reducible apply keeps_mk | dsimp only)

theorem setPhase_keeps {z : State} (s : State) (p : Int) (hK : Keeps z s) : Keeps z (setPhase s p) := by
  unfold setPhase
  try dsimp only
  repeat' (first | with_reducible assumption | intro _ | with_reducible apply keeps_ite2 | with_reducible apply keeps_ite3 | with_reducible apply putReg_keeps | with_reducible apply keeps_foldl | with_reducible apply keeps_foldl2 | with_reducible apply keeps_foldl3 | with_reducible apply keeps_iter | with_reducible apply keeps_elim | with_reducible apply keeps_ite | split | with_reducible apply keeps_mk | dsimp only)

theorem eraCheck_keeps {z : State} (s : State) (hK : Keeps z s) : Keeps z (eraCheck s) := by
  unfold eraCheck
  try dsimp only
  repeat' (first | with_reducible assumption | intro _ | with_reducible apply keeps_ite2 | with_reducible apply keeps_ite3 | with_reducible apply putBit_keeps | with_reducible apply keeps_foldl | with_reducible apply keeps_foldl2 | with_reducible apply keeps_foldl3 | with_reducible apply keeps_iter | with_reducible apply keeps_elim | with_reducible apply keeps_ite | split | with_reducible apply keeps_mk | dsimp only)

theorem pass_keeps {z : State} (s : State) (dt : Nat) (dT : Int) (h : Keeps z s) : Keeps z (pass s dt dT) := by
  have k := accrue_keeps s (((eTime s + dT) / 1024 - eTime s / 1024).toNat) h
  have ht := h.time
  unfold pass
  refine eraCheck_keeps _ ⟨k.fuses, k.pending, ?_, k.mem⟩
  show z.time ≤ s.time + dt
  omega

theorem moveT_keeps {z : State} (s : State) (dt : Nat) (c d : Int) (hK : Keeps z s) : Keeps z (moveT s dt c d) := by
  unfold moveT
  try dsimp only
  repeat' (first | with_reducible assumption | intro _ | with_reducible apply keeps_ite2 | with_reducible apply keeps_ite3 | with_reducible apply pass_keeps | with_reducible apply setPhase_keeps | with_reducible apply keeps_foldl | with_reducible apply keeps_foldl2 | with_reducible apply keeps_foldl3 | with_reducible apply keeps_iter | with_reducible apply keeps_elim | with_reducible apply keeps_ite | split | with_reducible apply keeps_mk | dsimp only)

theorem advance_keeps {z : State} (s : State) (dt : Nat) (hK : Keeps z s) : Keeps z (advance s dt) := by
  unfold advance
  try dsimp only
  repeat' (first | with_reducible assumption | intro _ | with_reducible apply keeps_ite2 | with_reducible apply keeps_ite3 | with_reducible apply moveT_keeps | with_reducible apply keeps_foldl | with_reducible apply keeps_foldl2 | with_reducible apply keeps_foldl3 | with_reducible apply keeps_iter | with_reducible apply keeps_elim | with_reducible apply keeps_ite | split | with_reducible apply keeps_mk | dsimp only)

theorem atT_keeps {z : State} (s : State) (due : Int) (hK : Keeps z s) : Keeps z (atT s due) := by
  unfold atT
  try dsimp only
  repeat' (first | with_reducible assumption | intro _ | with_reducible apply keeps_ite2 | with_reducible apply keeps_ite3 | with_reducible apply moveT_keeps | with_reducible apply keeps_foldl | with_reducible apply keeps_foldl2 | with_reducible apply keeps_foldl3 | with_reducible apply keeps_iter | with_reducible apply keeps_elim | with_reducible apply keeps_ite | split | with_reducible apply keeps_mk | dsimp only)

theorem atLeast_keeps {z : State} (s : State) (due : Nat) (hK : Keeps z s) : Keeps z (atLeast s due) := by
  unfold atLeast
  try dsimp only
  repeat' (first | with_reducible assumption | intro _ | with_reducible apply keeps_ite2 | with_reducible apply keeps_ite3 | with_reducible apply atT_keeps | with_reducible apply keeps_foldl | with_reducible apply keeps_foldl2 | with_reducible apply keeps_foldl3 | with_reducible apply keeps_iter | with_reducible apply keeps_elim | with_reducible apply keeps_ite | split | with_reducible apply keeps_mk | dsimp only)

theorem tick_keeps {z : State} (s : State) (hK : Keeps z s) : Keeps z (tick s) := by
  unfold tick
  try dsimp only
  repeat' (first | with_reducible assumption | intro _ | with_reducible apply keeps_ite2 | with_reducible apply keeps_ite3 | with_reducible apply advance_keeps | with_reducible apply keeps_foldl | with_reducible apply keeps_foldl2 | with_reducible apply keeps_foldl3 | with_reducible apply keeps_iter | with_reducible apply keeps_elim | with_reducible apply keeps_ite | split | with_reducible apply keeps_mk | dsimp only)

theorem rtcPut_keeps {z : State} (s : State) (sec frac : Nat) (hK : Keeps z s) : Keeps z (rtcPut s sec frac) := by
  unfold rtcPut
  try dsimp only
  repeat' (first | with_reducible assumption | intro _ | with_reducible apply keeps_ite2 | with_reducible apply keeps_ite3 | with_reducible apply keeps_foldl | with_reducible apply keeps_foldl2 | with_reducible apply keeps_foldl3 | with_reducible apply keeps_iter | with_reducible apply keeps_elim | with_reducible apply keeps_ite | split | with_reducible apply keeps_mk | dsimp only)

end Sys2Proof.Machine
end

