-- ==== Sys2Proof/Laws/KeepsCmpOps.lean ====
section
/-! SUPPORT. Every operation of Machine/CmpOps.lean keeps what Safety.lean names. -/

namespace Sys2Proof.Machine

set_option linter.all false

theorem tdScan_keeps {z : State} (s : State) (t : Nat) (d : Td) (lo : Half × Half) (hK : Keeps z s) : Keeps z (tdScan s t d lo).2 := by
  unfold tdScan
  try dsimp only
  repeat' (first | with_reducible assumption | intro _ | with_reducible apply keeps_ite2 | with_reducible apply keeps_ite3 | with_reducible apply tileRead_keeps | with_reducible refine tileRead_keeps2 (by assumption) ?_ | with_reducible apply keeps_foldl | with_reducible apply keeps_foldl2 | with_reducible apply keeps_foldl3 | with_reducible apply keeps_iter | with_reducible apply keeps_elim | with_reducible apply keeps_ite | split | with_reducible apply keeps_mk | dsimp only)

theorem tdScan_keeps2 {z : State} {s : State} {t : Nat} {d : Td} {lo : Half × Half} {rK} {sK : State} (e : tdScan s t d lo = (rK, sK)) (hK : Keeps z s)  : Keeps z sK := by
  have k := tdScan_keeps (z := z) s t d lo hK 
  rw [e] at k; exact k

theorem cmpWrite_keeps {z : State} (s : State) (t : Nat) (d : Td) (rows : List (List (Nat × Fl))) (hK : Keeps z s) : Keeps z (cmpWrite s t d rows) := by
  unfold cmpWrite
  try dsimp only
  repeat' (first | with_reducible assumption | intro _ | with_reducible apply keeps_ite2 | with_reducible apply keeps_ite3 | with_reducible apply memStore_keeps | with_reducible apply keeps_foldl | with_reducible apply keeps_foldl2 | with_reducible apply keeps_foldl3 | with_reducible apply keeps_iter | with_reducible apply keeps_elim | with_reducible apply keeps_ite | split | with_reducible apply keeps_mk | dsimp only)

theorem cmpTake_keeps {z : State} (s : State) (t : Nat) (q : QCmd) (hK : Keeps z s) : Keeps z (cmpTake s t q) := by
  unfold cmpTake
  try dsimp only
  repeat' (first | with_reducible assumption | intro _ | with_reducible apply keeps_ite2 | with_reducible apply keeps_ite3 | with_reducible apply modTile_keeps | with_reducible apply sillage_keeps | with_reducible apply keeps_foldl | with_reducible apply keeps_foldl2 | with_reducible apply keeps_foldl3 | with_reducible apply keeps_iter | with_reducible apply keeps_elim | with_reducible apply keeps_ite | split | with_reducible apply keeps_mk | dsimp only)

theorem cmpSetRun_keeps {z : State} (s : State) (t : Nat) (r : CmpRun) (hK : Keeps z s) : Keeps z (cmpSetRun s t r) := by
  unfold cmpSetRun
  try dsimp only
  repeat' (first | with_reducible assumption | intro _ | with_reducible apply keeps_ite2 | with_reducible apply keeps_ite3 | with_reducible apply modTile_keeps | with_reducible apply keeps_foldl | with_reducible apply keeps_foldl2 | with_reducible apply keeps_foldl3 | with_reducible apply keeps_iter | with_reducible apply keeps_elim | with_reducible apply keeps_ite | split | with_reducible apply keeps_mk | dsimp only)

theorem cmpStart_keeps {z : State} (s : State) (t op : Nat) (flt : List UFault) (hK : Keeps z s) : Keeps z (cmpStart s t op flt) := by
  unfold cmpStart
  try dsimp only
  repeat' (first | with_reducible assumption | intro _ | with_reducible apply keeps_ite2 | with_reducible apply keeps_ite3 | with_reducible apply cmpTake_keeps | with_reducible apply addFaults_keeps | with_reducible apply cmpSetRun_keeps | with_reducible apply tdScan_keeps | with_reducible refine tdScan_keeps2 (by assumption) ?_ | with_reducible apply cmpWrite_keeps | with_reducible apply keeps_foldl | with_reducible apply keeps_foldl2 | with_reducible apply keeps_foldl3 | with_reducible apply keeps_iter | with_reducible apply keeps_elim | with_reducible apply keeps_ite | split | with_reducible apply keeps_mk | dsimp only)

theorem attarPut_keeps {z : State} (s : State) (t lc : Nat) (layer oper : Half) (a : Attar) (hK : Keeps z s) : Keeps z (attarPut s t lc layer oper a) := by
  unfold attarPut
  try dsimp only
  repeat' (first | with_reducible assumption | intro _ | with_reducible apply keeps_ite2 | with_reducible apply keeps_ite3 | with_reducible apply putReg_keeps | with_reducible apply putBit_keeps | with_reducible apply stopTrigger_keeps | with_reducible apply isrBit_keeps | with_reducible apply keeps_foldl | with_reducible apply keeps_foldl2 | with_reducible apply keeps_foldl3 | with_reducible apply keeps_iter | with_reducible apply keeps_elim | with_reducible apply keeps_ite | split | with_reducible apply keeps_mk | dsimp only)

theorem cmpEnd_keeps {z : State} (s : State) (t : Nat) (r : CmpRun) (hK : Keeps z s) : Keeps z (cmpEnd s t r) := by
  unfold cmpEnd
  try dsimp only
  repeat' (first | with_reducible assumption | intro _ | with_reducible apply keeps_ite2 | with_reducible apply keeps_ite3 | with_reducible apply modTile_keeps | with_reducible apply putFld_keeps | with_reducible apply putBit_keeps | with_reducible apply sillage_keeps | with_reducible apply captureOpen_keeps | with_reducible apply semOp_keeps | with_reducible apply attarPut_keeps | with_reducible apply keeps_foldl | with_reducible apply keeps_foldl2 | with_reducible apply keeps_foldl3 | with_reducible apply keeps_iter | with_reducible apply keeps_elim | with_reducible apply keeps_ite | split | with_reducible apply keeps_mk | dsimp only)

theorem putTd_keeps {z : State} (s : State) (t lc k : Nat) (d : Option Td) (hK : Keeps z s) : Keeps z (putTd s t lc k d) := by
  unfold putTd
  try dsimp only
  repeat' (first | with_reducible assumption | intro _ | with_reducible apply keeps_ite2 | with_reducible apply keeps_ite3 | with_reducible apply putReg_keeps | with_reducible apply keeps_foldl | with_reducible apply keeps_foldl2 | with_reducible apply keeps_foldl3 | with_reducible apply keeps_iter | with_reducible apply keeps_elim | with_reducible apply keeps_ite | split | with_reducible apply keeps_mk | dsimp only)

theorem tdescRun_keeps {z : State} (s : State) (t : Nat) (q : QCmd) (hK : Keeps z s) : Keeps z (tdescRun s t q) := by
  unfold tdescRun
  try dsimp only
  repeat' (first | with_reducible assumption | intro _ | with_reducible apply keeps_ite2 | with_reducible apply keeps_ite3 | with_reducible apply sillage_keeps | with_reducible apply cmpTake_keeps | with_reducible apply cmpEnd_keeps | with_reducible apply putTd_keeps | with_reducible apply keeps_foldl | with_reducible apply keeps_foldl2 | with_reducible apply keeps_foldl3 | with_reducible apply keeps_iter | with_reducible apply keeps_elim | with_reducible apply keeps_ite | split | with_reducible apply keeps_mk | dsimp only)

end Sys2Proof.Machine
end

