-- ==== Sys2Proof/Laws/KeepsRequests.lean ====
section
/-! SUPPORT. Every operation of Machine/Requests.lean keeps what Safety.lean names. -/

namespace Sys2Proof.Machine

set_option linter.all false

theorem answerAt_keeps {z : State} (s : State) (p : Place) (a : Packet) (hK : Keeps z s) : Keeps z (answerAt s p a) := by
  unfold answerAt
  try dsimp only
  repeat' (first | with_reducible assumption | intro _ | with_reducible apply keeps_ite2 | with_reducible apply keeps_ite3 | with_reducible apply modTile_keeps | with_reducible apply modEdge_keeps | with_reducible apply modDie_keeps | with_reducible apply keeps_foldl | with_reducible apply keeps_foldl2 | with_reducible apply keeps_foldl3 | with_reducible apply keeps_iter | with_reducible apply keeps_elim | with_reducible apply keeps_ite | split | with_reducible apply keeps_mk | dsimp only)

theorem headNow_keeps {z : State} (s : State) (t : Nat) (hK : Keeps z s) : Keeps z (headNow s t) := by
  unfold headNow
  try dsimp only
  repeat' (first | with_reducible assumption | intro _ | with_reducible apply keeps_ite2 | with_reducible apply keeps_ite3 | with_reducible apply modTile_keeps | with_reducible apply keeps_foldl | with_reducible apply keeps_foldl2 | with_reducible apply keeps_foldl3 | with_reducible apply keeps_iter | with_reducible apply keeps_elim | with_reducible apply keeps_ite | split | with_reducible apply keeps_mk | dsimp only)

theorem popReq_keeps {z : State} (s : State) (p : Place) (hK : Keeps z s) : Keeps z (popReq s p) := by
  unfold popReq
  try dsimp only
  repeat' (first | with_reducible assumption | intro _ | with_reducible apply keeps_ite2 | with_reducible apply keeps_ite3 | with_reducible apply headNow_keeps | with_reducible apply modTile_keeps | with_reducible apply modEdge_keeps | with_reducible apply modDie_keeps | with_reducible apply keeps_foldl | with_reducible apply keeps_foldl2 | with_reducible apply keeps_foldl3 | with_reducible apply keeps_iter | with_reducible apply keeps_elim | with_reducible apply keeps_ite | split | with_reducible apply keeps_mk | dsimp only)

theorem ackAt_keeps {z : State} (s : State) (p : Place) (q : Packet) (hK : Keeps z s) : Keeps z (ackAt s p q) := by
  unfold ackAt
  try dsimp only
  repeat' (first | with_reducible assumption | intro _ | with_reducible apply keeps_ite2 | with_reducible apply keeps_ite3 | with_reducible apply modTile_keeps | with_reducible apply modEdge_keeps | with_reducible apply modDie_keeps | with_reducible apply keeps_foldl | with_reducible apply keeps_foldl2 | with_reducible apply keeps_foldl3 | with_reducible apply keeps_iter | with_reducible apply keeps_elim | with_reducible apply keeps_ite | split | with_reducible apply keeps_mk | dsimp only)

theorem ackSend_keeps {z : State} (s : State) (p : Place) (a : Ack) (hK : Keeps z s) : Keeps z (ackSend s p a) := by
  unfold ackSend
  try dsimp only
  repeat' (first | with_reducible assumption | intro _ | with_reducible apply keeps_ite2 | with_reducible apply keeps_ite3 | with_reducible apply modTile_keeps | with_reducible apply modEdge_keeps | with_reducible apply modDie_keeps | with_reducible apply keeps_foldl | with_reducible apply keeps_foldl2 | with_reducible apply keeps_foldl3 | with_reducible apply keeps_iter | with_reducible apply keeps_elim | with_reducible apply keeps_ite | split | with_reducible apply keeps_mk | dsimp only)

end Sys2Proof.Machine
end

