-- ==== Sys2Proof/Laws/KeepsRouterOps.lean ====
section
/-! SUPPORT. Every operation of Machine/RouterOps.lean keeps what Safety.lean names. -/

namespace Sys2Proof.Machine

set_option linter.all false

theorem obsFill_keeps {z : State} (s : State) (t : Nat) (hK : Keeps z s) : Keeps z (obsFill s t) := by
  unfold obsFill
  try dsimp only
  repeat' (first | with_reducible assumption | intro _ | with_reducible apply keeps_ite2 | with_reducible apply keeps_ite3 | with_reducible apply modTile_keeps | with_reducible apply takeFree_keeps | with_reducible refine takeFree_keeps2 (by assumption) ?_ | with_reducible apply keeps_foldl | with_reducible apply keeps_foldl2 | with_reducible apply keeps_foldl3 | with_reducible apply keeps_iter | with_reducible apply keeps_elim | with_reducible apply keeps_ite | split | with_reducible apply keeps_mk | dsimp only)

theorem traceSend_keeps {z : State} (s : State) (t : Nat) (layer oper : Half) (bytes : List Byte) (hK : Keeps z s) : Keeps z (traceSend s t layer oper bytes) := by
  unfold traceSend
  try dsimp only
  repeat' (first | with_reducible assumption | intro _ | with_reducible apply keeps_ite2 | with_reducible apply keeps_ite3 | with_reducible apply obsFill_keeps | with_reducible apply workCount_keeps | with_reducible apply modTile_keeps | with_reducible apply putFld_keeps | with_reducible apply isrBit_keeps | with_reducible apply putBit_keeps | with_reducible apply keeps_foldl | with_reducible apply keeps_foldl2 | with_reducible apply keeps_foldl3 | with_reducible apply keeps_iter | with_reducible apply keeps_elim | with_reducible apply keeps_ite | split | with_reducible apply keeps_mk | dsimp only)

theorem prbAct_keeps {z : State} (s : State) (t k port : Nat) (p : Packet) (hK : Keeps z s) : Keeps z (prbAct s t k port p) := by
  unfold prbAct
  try dsimp only
  repeat' (first | with_reducible assumption | intro _ | with_reducible apply keeps_ite2 | with_reducible apply keeps_ite3 | with_reducible apply modTile_keeps | with_reducible apply putFld_keeps | with_reducible apply workCount_keeps | with_reducible apply stopTrigger_keeps | with_reducible apply sillage_keeps | with_reducible apply isrBit_keeps | with_reducible apply traceSend_keeps | with_reducible apply keeps_foldl | with_reducible apply keeps_foldl2 | with_reducible apply keeps_foldl3 | with_reducible apply keeps_iter | with_reducible apply keeps_elim | with_reducible apply keeps_ite | split | with_reducible apply keeps_mk | dsimp only)

theorem flitOut_keeps {z : State} (s : State) (t port : Nat) (p : Packet) (fs : List Flit) (probe : Bool) (hK : Keeps z s) : Keeps z (flitOut s t port p fs probe) := by
  unfold flitOut
  try dsimp only
  repeat' (first | with_reducible assumption | intro _ | with_reducible apply keeps_ite2 | with_reducible apply keeps_ite3 | with_reducible apply workCount_keeps | with_reducible apply prbAct_keeps | with_reducible apply keeps_foldl | with_reducible apply keeps_foldl2 | with_reducible apply keeps_foldl3 | with_reducible apply keeps_iter | with_reducible apply keeps_elim | with_reducible apply keeps_ite | split | with_reducible apply keeps_mk | dsimp only)

theorem setOut_keeps {z : State} (s : State) (t port vc : Nat) (o : OutVc) (hK : Keeps z s) : Keeps z (setOut s t port vc o) := by
  unfold setOut
  try dsimp only
  repeat' (first | with_reducible assumption | intro _ | with_reducible apply keeps_ite2 | with_reducible apply keeps_ite3 | with_reducible apply modTile_keeps | with_reducible apply keeps_foldl | with_reducible apply keeps_foldl2 | with_reducible apply keeps_foldl3 | with_reducible apply keeps_iter | with_reducible apply keeps_elim | with_reducible apply keeps_ite | split | with_reducible apply keeps_mk | dsimp only)

theorem tileAnswer_keeps {z : State} (s : State) (t : Nat) (p : Packet) (hK : Keeps z s) : Keeps z (tileAnswer s t p) := by
  unfold tileAnswer
  try dsimp only
  repeat' (first | with_reducible assumption | intro _ | with_reducible apply keeps_ite2 | with_reducible apply keeps_ite3 | with_reducible apply modTile_keeps | with_reducible apply keeps_foldl | with_reducible apply keeps_foldl2 | with_reducible apply keeps_foldl3 | with_reducible apply keeps_iter | with_reducible apply keeps_elim | with_reducible apply keeps_ite | split | with_reducible apply keeps_mk | dsimp only)

theorem hcap_keeps {z : State} (s : State) (t : Nat) (p : Packet) (hK : Keeps z s) : Keeps z (hcap s t p) := by
  unfold hcap
  try dsimp only
  repeat' (first | with_reducible assumption | intro _ | with_reducible apply keeps_ite2 | with_reducible apply keeps_ite3 | with_reducible apply putReg_keeps | with_reducible apply keeps_foldl | with_reducible apply keeps_foldl2 | with_reducible apply keeps_foldl3 | with_reducible apply keeps_iter | with_reducible apply keeps_elim | with_reducible apply keeps_ite | split | with_reducible apply keeps_mk | dsimp only)

theorem rtrEvent_keeps {z : State} (s : State) (t off hi lo isr code sil : Nat) (p : Packet) (hK : Keeps z s) : Keeps z (rtrEvent s t off hi lo isr code sil p) := by
  unfold rtrEvent
  try dsimp only
  repeat' (first | with_reducible assumption | intro _ | with_reducible apply keeps_ite2 | with_reducible apply keeps_ite3 | with_reducible apply addFld_keeps | with_reducible apply sillage_keeps | with_reducible apply captureCore_keeps | with_reducible apply captureOpen_keeps | with_reducible apply hcap_keeps | with_reducible apply keeps_foldl | with_reducible apply keeps_foldl2 | with_reducible apply keeps_foldl3 | with_reducible apply keeps_iter | with_reducible apply keeps_elim | with_reducible apply keeps_ite | split | with_reducible apply keeps_mk | dsimp only)

theorem partRefuse_keeps {z : State} (s : State) (t : Nat) (p : Packet) (hK : Keeps z s) : Keeps z (partRefuse s t p) := by
  unfold partRefuse
  try dsimp only
  repeat' (first | with_reducible assumption | intro _ | with_reducible apply keeps_ite2 | with_reducible apply keeps_ite3 | with_reducible apply tileAnswer_keeps | with_reducible apply rtrEvent_keeps | with_reducible apply keeps_foldl | with_reducible apply keeps_foldl2 | with_reducible apply keeps_foldl3 | with_reducible apply keeps_iter | with_reducible apply keeps_elim | with_reducible apply keeps_ite | split | with_reducible apply keeps_mk | dsimp only)

theorem tileRefuse_keeps {z : State} {s : State} {t : Nat} {p : Packet} {s1 : State} (e : tileRefuse s t p = some s1) (hK : Keeps z s) : Keeps z s1 := by
  unfold tileRefuse at e
  split at e
  · split at e
    · cases e; exact hK
    · cases e
  · split at e
    · cases e; exact partRefuse_keeps _ _ _ hK
    · split at e
      · rw [Option.map_eq_some_iff] at e
        obtain ⟨l, -, rfl⟩ := e
        exact keeps_foldl hK (fun _ _ h => tileAnswer_keeps _ _ _ h)
      · cases e

theorem toTile_keeps {z : State} (s : State) (t : Nat) (p : Packet) (hK : Keeps z s) : Keeps z (toTile s t p) := by
  unfold toTile
  try dsimp only
  repeat' (first | with_reducible assumption | intro _ | with_reducible apply keeps_ite2 | with_reducible apply keeps_ite3 | with_reducible refine tileRefuse_keeps (by assumption) ?_ | with_reducible apply modTile_keeps | with_reducible apply tileAnswer_keeps | with_reducible apply headNow_keeps | with_reducible refine keeps_ifsome (by assumption) ?_ | with_reducible apply keeps_foldl | with_reducible apply keeps_foldl2 | with_reducible apply keeps_foldl3 | with_reducible apply keeps_iter | with_reducible apply keeps_elim | with_reducible apply keeps_ite | split | with_reducible apply keeps_mk | dsimp only)

theorem toDieIn_keeps {z : State} (s : State) (d : Nat) (p : Packet) (hK : Keeps z s) : Keeps z (toDieIn s d p) := by
  unfold toDieIn
  try dsimp only
  repeat' (first | with_reducible assumption | intro _ | with_reducible apply keeps_ite2 | with_reducible apply keeps_ite3 | with_reducible apply modDie_keeps | with_reducible apply keeps_foldl | with_reducible apply keeps_foldl2 | with_reducible apply keeps_foldl3 | with_reducible apply keeps_iter | with_reducible apply keeps_elim | with_reducible apply keeps_ite | split | with_reducible apply keeps_mk | dsimp only)

theorem toEdge_keeps {z : State} (s : State) (p : Packet) (hK : Keeps z s) : Keeps z (toEdge s p) := by
  unfold toEdge
  try dsimp only
  repeat' (first | with_reducible assumption | intro _ | with_reducible apply keeps_ite2 | with_reducible apply keeps_ite3 | with_reducible apply modEdge_keeps | with_reducible apply keeps_foldl | with_reducible apply keeps_foldl2 | with_reducible apply keeps_foldl3 | with_reducible apply keeps_iter | with_reducible apply keeps_elim | with_reducible apply keeps_ite | split | with_reducible apply keeps_mk | dsimp only)

theorem granted_keeps {z : State} (s : State) (t src port vc : Nat) (head last spend : Bool) (hK : Keeps z s) : Keeps z (granted s t src port vc head last spend) := by
  unfold granted
  try dsimp only
  repeat' (first | with_reducible assumption | intro _ | with_reducible apply keeps_ite2 | with_reducible apply keeps_ite3 | with_reducible apply setOut_keeps | with_reducible apply modTile_keeps | with_reducible apply keeps_foldl | with_reducible apply keeps_foldl2 | with_reducible apply keeps_foldl3 | with_reducible apply keeps_iter | with_reducible apply keeps_elim | with_reducible apply keeps_ite | split | with_reducible apply keeps_mk | dsimp only)

theorem arrive_keeps {z : State} (s : State) (t port : Nat) (p : Packet) (hK : Keeps z s) : Keeps z (arrive s t port p) := by
  unfold arrive
  try dsimp only
  repeat' (first | with_reducible assumption | intro _ | with_reducible apply keeps_ite2 | with_reducible apply keeps_ite3 | with_reducible apply toTile_keeps | with_reducible apply toDieIn_keeps | with_reducible apply toEdge_keeps | with_reducible apply keeps_foldl | with_reducible apply keeps_foldl2 | with_reducible apply keeps_foldl3 | with_reducible apply keeps_iter | with_reducible apply keeps_elim | with_reducible apply keeps_ite | split | with_reducible apply keeps_mk | dsimp only)

theorem headGo_keeps {z : State} (s : State) (t src : Nat) (o : WormOut) (p : Packet) (last : Bool) (hK : Keeps z s) : Keeps z (headGo s t src o p last) := by
  unfold headGo
  try dsimp only
  repeat' (first | with_reducible assumption | intro _ | with_reducible apply keeps_ite2 | with_reducible apply keeps_ite3 | with_reducible apply granted_keeps | with_reducible apply flitOut_keeps | with_reducible apply setRin_keeps | with_reducible apply arrive_keeps | with_reducible apply modTile_keeps | with_reducible apply keeps_foldl | with_reducible apply keeps_foldl2 | with_reducible apply keeps_foldl3 | with_reducible apply keeps_iter | with_reducible apply keeps_elim | with_reducible apply keeps_ite | split | with_reducible apply keeps_mk | dsimp only)

theorem bodyGo_keeps {z : State} (s : State) (t src : Nat) (o : WormOut) (p : Packet) (f : Flit) (first last : Bool) (hK : Keeps z s) : Keeps z (bodyGo s t src o p f first last) := by
  unfold bodyGo
  try dsimp only
  repeat' (first | with_reducible assumption | intro _ | with_reducible apply keeps_ite2 | with_reducible apply keeps_ite3 | with_reducible apply granted_keeps | with_reducible apply flitOut_keeps | with_reducible apply setRin_keeps | with_reducible apply arrive_keeps | with_reducible apply modTile_keeps | with_reducible apply keeps_foldl | with_reducible apply keeps_foldl2 | with_reducible apply keeps_foldl3 | with_reducible apply keeps_iter | with_reducible apply keeps_elim | with_reducible apply keeps_ite | split | with_reducible apply keeps_mk | dsimp only)

theorem forkTake_keeps {z : State} (s : State) (t key : Nat) (p : Packet) (last : Bool) (hs : List Hop) (hK : Keeps z s) : Keeps z (forkTake s t key p last hs) := by
  unfold forkTake
  try dsimp only
  repeat' (first | with_reducible assumption | intro _ | with_reducible apply keeps_ite2 | with_reducible apply keeps_ite3 | with_reducible apply modTile_keeps | with_reducible apply keeps_foldl | with_reducible apply keeps_foldl2 | with_reducible apply keeps_foldl3 | with_reducible apply keeps_iter | with_reducible apply keeps_elim | with_reducible apply keeps_ite | split | with_reducible apply keeps_mk | dsimp only)

theorem headLeft_keeps {z : State} (s : State) (t port vc : Nat) (w : Worm) (o : WormOut) (hK : Keeps z s) : Keeps z (headLeft s t port vc w o) := by
  unfold headLeft
  try dsimp only
  repeat' (first | with_reducible assumption | intro _ | with_reducible apply keeps_ite2 | with_reducible apply keeps_ite3 | with_reducible apply setRin_keeps | with_reducible apply keeps_foldl | with_reducible apply keeps_foldl2 | with_reducible apply keeps_foldl3 | with_reducible apply keeps_iter | with_reducible apply keeps_elim | with_reducible apply keeps_ite | split | with_reducible apply keeps_mk | dsimp only)

theorem headStep_keeps {z : State} (s : State) (t port vc : Nat) (w : Worm) (hdrErr : Bool) (hK : Keeps z s) : Keeps z (headStep s t port vc w hdrErr) := by
  unfold headStep
  try dsimp only
  repeat' (first | with_reducible assumption | intro _ | with_reducible apply keeps_ite2 | with_reducible apply keeps_ite3 | with_reducible apply rtrEvent_keeps | with_reducible apply headLeft_keeps | with_reducible apply forkTake_keeps | with_reducible refine tileRefuse_keeps (by assumption) ?_ | with_reducible apply headGo_keeps | with_reducible refine keeps_ifsome (by assumption) ?_ | with_reducible apply keeps_foldl | with_reducible apply keeps_foldl2 | with_reducible apply keeps_foldl3 | with_reducible apply keeps_iter | with_reducible apply keeps_elim | with_reducible apply keeps_ite | split | with_reducible apply keeps_mk | dsimp only)

theorem forkFeed_keeps {z : State} (s : State) (t key : Nat) (f : Flit) (last : Bool) (hK : Keeps z s) : Keeps z (forkFeed s t key f last) := by
  unfold forkFeed
  try dsimp only
  repeat' (first | with_reducible assumption | intro _ | with_reducible apply keeps_ite2 | with_reducible apply keeps_ite3 | with_reducible apply modTile_keeps | with_reducible apply keeps_foldl | with_reducible apply keeps_foldl2 | with_reducible apply keeps_foldl3 | with_reducible apply keeps_iter | with_reducible apply keeps_elim | with_reducible apply keeps_ite | split | with_reducible apply keeps_mk | dsimp only)

theorem bodyStep_keeps {z : State} (s : State) (t port vc : Nat) (w : Worm) (par : List Nat) (hK : Keeps z s) : Keeps z (bodyStep s t port vc w par) := by
  unfold bodyStep
  try dsimp only
  repeat' (first | with_reducible assumption | intro _ | with_reducible apply keeps_ite2 | with_reducible apply keeps_ite3 | with_reducible apply setRin_keeps | with_reducible apply rtrEvent_keeps | with_reducible apply forkFeed_keeps | with_reducible apply bodyGo_keeps | with_reducible apply keeps_foldl | with_reducible apply keeps_foldl2 | with_reducible apply keeps_foldl3 | with_reducible apply keeps_iter | with_reducible apply keeps_elim | with_reducible apply keeps_ite | split | with_reducible apply keeps_mk | dsimp only)

theorem routePacket_keeps {z : State} (s : State) (t port vc : Nat) (hdrErr : Bool) (par : List Nat) (hK : Keeps z s) : Keeps z (routePacket s t port vc hdrErr par) := by
  unfold routePacket
  try dsimp only
  repeat' (first | with_reducible assumption | intro _ | with_reducible apply keeps_ite2 | with_reducible apply keeps_ite3 | with_reducible apply headStep_keeps | with_reducible apply bodyStep_keeps | with_reducible apply keeps_foldl | with_reducible apply keeps_foldl2 | with_reducible apply keeps_foldl3 | with_reducible apply keeps_iter | with_reducible apply keeps_elim | with_reducible apply keeps_ite | split | with_reducible apply keeps_mk | dsimp only)

theorem branchPut_keeps {z : State} (s : State) (t slot bi : Nat) (f : ForkEntry) (b : ForkBr) (hK : Keeps z s) : Keeps z (branchPut s t slot bi f b) := by
  unfold branchPut
  try dsimp only
  repeat' (first | with_reducible assumption | intro _ | with_reducible apply keeps_ite2 | with_reducible apply keeps_ite3 | with_reducible apply modTile_keeps | with_reducible apply keeps_foldl | with_reducible apply keeps_foldl2 | with_reducible apply keeps_foldl3 | with_reducible apply keeps_iter | with_reducible apply keeps_elim | with_reducible apply keeps_ite | split | with_reducible apply keeps_mk | dsimp only)

theorem forkStart_keeps {z : State} (s : State) (t slot bi : Nat) (hK : Keeps z s) : Keeps z (forkStart s t slot bi) := by
  unfold forkStart
  try dsimp only
  repeat' (first | with_reducible assumption | intro _ | with_reducible apply keeps_ite2 | with_reducible apply keeps_ite3 | with_reducible apply branchPut_keeps | with_reducible apply bodyGo_keeps | with_reducible refine tileRefuse_keeps (by assumption) ?_ | with_reducible apply headGo_keeps | with_reducible refine keeps_ifsome (by assumption) ?_ | with_reducible apply keeps_foldl | with_reducible apply keeps_foldl2 | with_reducible apply keeps_foldl3 | with_reducible apply keeps_iter | with_reducible apply keeps_elim | with_reducible apply keeps_ite | split | with_reducible apply keeps_mk | dsimp only)

theorem injectTile_keeps {z : State} (s : State) (t : Nat) (p : Packet) (hK : Keeps z s) : Keeps z (injectTile s t p) := by
  unfold injectTile
  try dsimp only
  repeat' (first | with_reducible assumption | intro _ | with_reducible apply keeps_ite2 | with_reducible apply keeps_ite3 | with_reducible apply modTile_keeps | with_reducible apply setRin_keeps | with_reducible apply keeps_foldl | with_reducible apply keeps_foldl2 | with_reducible apply keeps_foldl3 | with_reducible apply keeps_iter | with_reducible apply keeps_elim | with_reducible apply keeps_ite | split | with_reducible apply keeps_mk | dsimp only)

theorem noteInjected_keeps {z : State} (s : State) (t : Nat) (p : Packet) (hK : Keeps z s) : Keeps z (noteInjected s t p) := by
  unfold noteInjected
  try dsimp only
  repeat' (first | with_reducible assumption | intro _ | with_reducible apply keeps_ite2 | with_reducible apply keeps_ite3 | with_reducible apply modTile_keeps | with_reducible apply keeps_foldl | with_reducible apply keeps_foldl2 | with_reducible apply keeps_foldl3 | with_reducible apply keeps_iter | with_reducible apply keeps_elim | with_reducible apply keeps_ite | split | with_reducible apply keeps_mk | dsimp only)

theorem noteLease_keeps {z : State} (s : State) (t : Nat) (p : Packet) (hK : Keeps z s) : Keeps z (noteLease s t p) := by
  unfold noteLease
  try dsimp only
  repeat' (first | with_reducible assumption | intro _ | with_reducible apply keeps_ite2 | with_reducible apply keeps_ite3 | with_reducible apply modTile_keeps | with_reducible apply keeps_foldl | with_reducible apply keeps_foldl2 | with_reducible apply keeps_foldl3 | with_reducible apply keeps_iter | with_reducible apply keeps_elim | with_reducible apply keeps_ite | split | with_reducible apply keeps_mk | dsimp only)

theorem cqFinish_keeps {z : State} (s : State) (t n : Nat) (hK : Keeps z s) : Keeps z (cqFinish s t n) := by
  unfold cqFinish
  try dsimp only
  repeat' (first | with_reducible assumption | intro _ | with_reducible apply keeps_ite2 | with_reducible apply keeps_ite3 | with_reducible apply isrBit_keeps | with_reducible apply putFld_keeps | with_reducible apply sillage_keeps | with_reducible apply keeps_foldl | with_reducible apply keeps_foldl2 | with_reducible apply keeps_foldl3 | with_reducible apply keeps_iter | with_reducible apply keeps_elim | with_reducible apply keeps_ite | split | with_reducible apply keeps_mk | dsimp only)

theorem noteResult_keeps {z : State} (s : State) (t : Nat) (p : Packet) (hK : Keeps z s) : Keeps z (noteResult s t p) := by
  unfold noteResult
  try dsimp only
  repeat' (first | with_reducible assumption | intro _ | with_reducible apply keeps_ite2 | with_reducible apply keeps_ite3 | with_reducible apply modCq_keeps | with_reducible apply cqFinish_keeps | with_reducible apply keeps_foldl | with_reducible apply keeps_foldl2 | with_reducible apply keeps_foldl3 | with_reducible apply keeps_iter | with_reducible apply keeps_elim | with_reducible apply keeps_ite | split | with_reducible apply keeps_mk | dsimp only)

theorem cmbPump_keeps {z : State} (s : State) (t : Nat) (hK : Keeps z s) : Keeps z (cmbPump s t) := by
  unfold cmbPump
  try dsimp only
  repeat' (first | with_reducible assumption | intro _ | with_reducible apply keeps_ite2 | with_reducible apply keeps_ite3 | with_reducible apply modCq_keeps | with_reducible apply iqPush_keeps | with_reducible apply keeps_foldl | with_reducible apply keeps_foldl2 | with_reducible apply keeps_foldl3 | with_reducible apply keeps_iter | with_reducible apply keeps_elim | with_reducible apply keeps_ite | split | with_reducible apply keeps_mk | dsimp only)

theorem injectL_keeps {z : State} (s0 : State) (t : Nat) (hK : Keeps z s0) : Keeps z (injectL s0 t) := by
  unfold injectL
  try dsimp only
  repeat' (first | with_reducible assumption | intro _ | with_reducible apply keeps_ite2 | with_reducible apply keeps_ite3 | with_reducible apply gDue_keeps | with_reducible apply injectTile_keeps | with_reducible apply noteLease_keeps | with_reducible apply modTile_keeps | with_reducible apply gateStart_keeps | with_reducible apply movPump_keeps | with_reducible apply cmbPump_keeps | with_reducible apply noteResult_keeps | with_reducible apply noteInjected_keeps | with_reducible apply keeps_foldl | with_reducible apply keeps_foldl2 | with_reducible apply keeps_foldl3 | with_reducible apply keeps_iter | with_reducible apply keeps_elim | with_reducible apply keeps_ite | split | with_reducible apply keeps_mk | dsimp only)

theorem injectDie_keeps {z : State} {s : State} {d : Nat} {p : Packet} {s1 : State} (e : injectDie s d p = some s1) (hK : Keeps z s) : Keeps z s1 := by
  revert e
  unfold injectDie
  try dsimp only
  repeat' split
  all_goals (intro e; cases e)
  repeat' (first | with_reducible assumption | intro _ | with_reducible apply keeps_ite2 | with_reducible apply keeps_ite3 | with_reducible apply modDie_keeps | with_reducible apply toDieIn_keeps | with_reducible apply setRin_keeps | with_reducible apply keeps_foldl | with_reducible apply keeps_foldl2 | with_reducible apply keeps_foldl3 | with_reducible apply keeps_iter | with_reducible apply keeps_elim | with_reducible apply keeps_ite | split | with_reducible apply keeps_mk | dsimp only)

theorem injectEdge_keeps {z : State} {s : State} {x e : Nat} {p : Packet} {s1 : State} (e : injectEdge s x e p = some s1) (hK : Keeps z s) : Keeps z s1 := by
  revert e
  unfold injectEdge
  try dsimp only
  repeat' split
  all_goals (intro e; cases e)
  repeat' (first | with_reducible assumption | intro _ | with_reducible apply keeps_ite2 | with_reducible apply keeps_ite3 | with_reducible apply setRin_keeps | with_reducible apply modEdge_keeps | with_reducible apply keeps_foldl | with_reducible apply keeps_foldl2 | with_reducible apply keeps_foldl3 | with_reducible apply keeps_iter | with_reducible apply keeps_elim | with_reducible apply keeps_ite | split | with_reducible apply keeps_mk | dsimp only)

theorem firstIn_keeps {z : State} (f : Packet → Option State) (l : List Packet) (s1 : State) (e : firstIn f l = some s1)
    (hf : ∀ p s, f p = some s → Keeps z s) : Keeps z s1 := by
  induction l with
  | nil => cases e
  | cons p r ih =>
    simp only [firstIn] at e
    split at e
    · rename_i s2 e2; cases e; exact hf p _ e2
    · exact ih e

theorem injectAt_keeps {z : State} (s : State) (p : Place) (h : Keeps z s) : Keeps z (injectAt s p) := by
  have k (f : Packet → Option State) (l : List Packet) (hf : ∀ p s, f p = some s → Keeps z s) :
      Keeps z ((firstIn f l).getD s) := by
    cases e : firstIn f l with
    | none => exact h
    | some s1 => exact firstIn_keeps f l s1 e hf
  cases p with
  | tile t => exact injectL_keeps s t h
  | mem x e => exact k _ _ (fun p s1 e1 => injectEdge_keeps e1 h)
  | io d => exact k _ _ (fun p s1 e1 => injectDie_keeps e1 h)

end Sys2Proof.Machine
end

