-- ==== Sys2Proof/Laws/KeepsCmbOps.lean ====
section
/-! SUPPORT. Every operation of Machine/CmbOps.lean keeps what Safety.lean names. -/

namespace Sys2Proof.Machine

set_option linter.all false

theorem ringPut_keeps {z : State} (s : State) (base size off : Nat) (bs : List Byte) (hK : Keeps z s) : Keeps z (ringPut s base size off bs) := by
  unfold ringPut
  try dsimp only
  repeat' (first | with_reducible assumption | intro _ | with_reducible apply keeps_ite2 | with_reducible apply keeps_ite3 | with_reducible apply memStore_keeps | with_reducible apply keeps_foldl | with_reducible apply keeps_foldl2 | with_reducible apply keeps_foldl3 | with_reducible apply keeps_iter | with_reducible apply keeps_elim | with_reducible apply keeps_ite | split | with_reducible apply keeps_mk | dsimp only)

theorem rqAccept_keeps {z : State} (s : State) (t n : Nat) (q : Packet) (hK : Keeps z s) : Keeps z (rqAccept s t n q) := by
  unfold rqAccept
  try dsimp only
  repeat' (first | with_reducible assumption | intro _ | with_reducible apply keeps_ite2 | with_reducible apply keeps_ite3 | with_reducible apply ringPut_keeps | with_reducible apply putFld_keeps | with_reducible apply putBit_keeps | with_reducible apply modTile_keeps | with_reducible apply ackAt_keeps | with_reducible apply keeps_foldl | with_reducible apply keeps_foldl2 | with_reducible apply keeps_foldl3 | with_reducible apply keeps_iter | with_reducible apply keeps_elim | with_reducible apply keeps_ite | split | with_reducible apply keeps_mk | dsimp only)

theorem rqRefuse_keeps {z : State} (s : State) (t n : Nat) (q : Packet) (reason : Nat) (hK : Keeps z s) : Keeps z (rqRefuse s t n q reason) := by
  unfold rqRefuse
  try dsimp only
  repeat' (first | with_reducible assumption | intro _ | with_reducible apply keeps_ite2 | with_reducible apply keeps_ite3 | with_reducible apply modTile_keeps | with_reducible apply answerAt_keeps | with_reducible apply isrBit_keeps | with_reducible apply keeps_foldl | with_reducible apply keeps_foldl2 | with_reducible apply keeps_foldl3 | with_reducible apply keeps_iter | with_reducible apply keeps_elim | with_reducible apply keeps_ite | split | with_reducible apply keeps_mk | dsimp only)

theorem rqMessage_keeps {z : State} (s : State) (t : Nat) (q : Packet) (hK : Keeps z s) : Keeps z (rqMessage s t q) := by
  unfold rqMessage
  try dsimp only
  repeat' (first | with_reducible assumption | intro _ | with_reducible apply keeps_ite2 | with_reducible apply keeps_ite3 | with_reducible apply answerAt_keeps | with_reducible apply popReq_keeps | with_reducible apply modTile_keeps | with_reducible apply isrBit_keeps | with_reducible apply rqAccept_keeps | with_reducible apply rqRefuse_keeps | with_reducible apply keeps_foldl | with_reducible apply keeps_foldl2 | with_reducible apply keeps_foldl3 | with_reducible apply keeps_iter | with_reducible apply keeps_elim | with_reducible apply keeps_ite | split | with_reducible apply keeps_mk | dsimp only)

theorem rqUnstall_keeps {z : State} (s : State) (t : Nat) (hK : Keeps z s) : Keeps z (rqUnstall s t) := by
  unfold rqUnstall
  try dsimp only
  repeat' (first | with_reducible assumption | intro _ | with_reducible apply keeps_ite2 | with_reducible apply keeps_ite3 | with_reducible apply modTile_keeps | with_reducible apply popReq_keeps | with_reducible apply rqAccept_keeps | with_reducible apply keeps_foldl | with_reducible apply keeps_foldl2 | with_reducible apply keeps_foldl3 | with_reducible apply keeps_iter | with_reducible apply keeps_elim | with_reducible apply keeps_ite | split | with_reducible apply keeps_mk | dsimp only)

theorem stallEnd_keeps {z : State} (s : State) (t : Nat) (f : State → Packet → State) (hK : Keeps z s) (hf : ∀ (x : State) p0, Keeps z x → Keeps z (f x p0)) : Keeps z (stallEnd s t f) := by
  unfold stallEnd
  try dsimp only
  repeat' (first | with_reducible assumption | intro _ | with_reducible apply keeps_ite2 | with_reducible apply keeps_ite3 | with_reducible apply modTile_keeps | with_reducible apply popReq_keeps | with_reducible apply hf | with_reducible apply keeps_foldl | with_reducible apply keeps_foldl2 | with_reducible apply keeps_foldl3 | with_reducible apply keeps_iter | with_reducible apply keeps_elim | with_reducible apply keeps_ite | split | with_reducible apply keeps_mk | dsimp only)

theorem stallOver_keeps {z : State} (s : State) (t : Nat) (hK : Keeps z s) : Keeps z (stallOver s t) := by
  unfold stallOver
  try dsimp only
  repeat' (first | with_reducible assumption | intro _ | with_reducible apply keeps_ite2 | with_reducible apply keeps_ite3 | with_reducible apply rqUnstall_keeps | with_reducible apply atLeast_keeps | with_reducible apply stallEnd_keeps | with_reducible apply rqRefuse_keeps | with_reducible apply keeps_foldl | with_reducible apply keeps_foldl2 | with_reducible apply keeps_foldl3 | with_reducible apply keeps_iter | with_reducible apply keeps_elim | with_reducible apply keeps_ite | split | with_reducible apply keeps_mk | dsimp only)

theorem rqDisable_keeps {z : State} (s : State) (t n : Nat) (hK : Keeps z s) : Keeps z (rqDisable s t n) := by
  unfold rqDisable
  try dsimp only
  repeat' (first | with_reducible assumption | intro _ | with_reducible apply keeps_ite2 | with_reducible apply keeps_ite3 | with_reducible apply modTile_keeps | with_reducible apply putFld_keeps | with_reducible apply putBit_keeps | with_reducible apply answerAt_keeps | with_reducible apply bucketRestore_keeps | with_reducible apply stallEnd_keeps | with_reducible apply keeps_foldl | with_reducible apply keeps_foldl2 | with_reducible apply keeps_foldl3 | with_reducible apply keeps_iter | with_reducible apply keeps_elim | with_reducible apply keeps_ite | split | with_reducible apply keeps_mk | dsimp only)

theorem cqSetState_keeps {z : State} (s : State) (t n st : Nat) (hK : Keeps z s) : Keeps z (cqSetState s t n st) := by
  unfold cqSetState
  try dsimp only
  repeat' (first | with_reducible assumption | intro _ | with_reducible apply keeps_ite2 | with_reducible apply keeps_ite3 | with_reducible apply putFld_keeps | with_reducible apply keeps_foldl | with_reducible apply keeps_foldl2 | with_reducible apply keeps_foldl3 | with_reducible apply keeps_iter | with_reducible apply keeps_elim | with_reducible apply keeps_ite | split | with_reducible apply keeps_mk | dsimp only)

theorem resvTake_keeps {z : State} (s : State) (t : Nat) (q : Packet) (hK : Keeps z s) : Keeps z (resvTake s t q) := by
  unfold resvTake
  try dsimp only
  repeat' (first | with_reducible assumption | intro _ | with_reducible apply keeps_ite2 | with_reducible apply keeps_ite3 | with_reducible apply modTile_keeps | with_reducible apply answerAt_keeps | with_reducible apply popReq_keeps | with_reducible apply keeps_foldl | with_reducible apply keeps_foldl2 | with_reducible apply keeps_foldl3 | with_reducible apply keeps_iter | with_reducible apply keeps_elim | with_reducible apply keeps_ite | split | with_reducible apply keeps_mk | dsimp only)

theorem resvConf_keeps {z : State} (s : State) (t : Nat) (q : Packet) (hK : Keeps z s) : Keeps z (resvConf s t q) := by
  unfold resvConf
  try dsimp only
  repeat' (first | with_reducible assumption | intro _ | with_reducible apply keeps_ite2 | with_reducible apply keeps_ite3 | with_reducible apply modTile_keeps | with_reducible apply popReq_keeps | with_reducible apply keeps_foldl | with_reducible apply keeps_foldl2 | with_reducible apply keeps_foldl3 | with_reducible apply keeps_iter | with_reducible apply keeps_elim | with_reducible apply keeps_ite | split | with_reducible apply keeps_mk | dsimp only)

theorem resvWdrw_keeps {z : State} (s : State) (t : Nat) (q : Packet) (hK : Keeps z s) : Keeps z (resvWdrw s t q) := by
  unfold resvWdrw
  try dsimp only
  repeat' (first | with_reducible assumption | intro _ | with_reducible apply keeps_ite2 | with_reducible apply keeps_ite3 | with_reducible apply modTile_keeps | with_reducible apply popReq_keeps | with_reducible apply rqUnstall_keeps | with_reducible apply keeps_foldl | with_reducible apply keeps_foldl2 | with_reducible apply keeps_foldl3 | with_reducible apply keeps_iter | with_reducible apply keeps_elim | with_reducible apply keeps_ite | split | with_reducible apply keeps_mk | dsimp only)

theorem resvExpire_keeps {z : State} (s : State) (t : Nat) (r : Resv) (hK : Keeps z s) : Keeps z (resvExpire s t r) := by
  unfold resvExpire
  try dsimp only
  repeat' (first | with_reducible assumption | intro _ | with_reducible apply keeps_ite2 | with_reducible apply keeps_ite3 | with_reducible apply modTile_keeps | with_reducible apply addFld_keeps | with_reducible apply sillage_keeps | with_reducible apply isrBit_keeps | with_reducible apply rqUnstall_keeps | with_reducible apply keeps_foldl | with_reducible apply keeps_foldl2 | with_reducible apply keeps_foldl3 | with_reducible apply keeps_iter | with_reducible apply keeps_elim | with_reducible apply keeps_ite | split | with_reducible apply keeps_mk | dsimp only)

theorem accRead_keeps {z : State} (s : State) (t n i : Nat) (hK : Keeps z s) : Keeps z (accRead s t n i).2 := by
  unfold accRead
  try dsimp only
  repeat' (first | with_reducible assumption | intro _ | with_reducible apply keeps_ite2 | with_reducible apply keeps_ite3 | with_reducible apply takeFree_keeps | with_reducible refine takeFree_keeps2 (by assumption) ?_ | with_reducible apply keeps_foldl | with_reducible apply keeps_foldl2 | with_reducible apply keeps_foldl3 | with_reducible apply keeps_iter | with_reducible apply keeps_elim | with_reducible apply keeps_ite | split | with_reducible apply keeps_mk | dsimp only)

theorem accRead_keeps2 {z : State} {s : State} {t n i : Nat} {rK} {sK : State} (e : accRead s t n i = (rK, sK)) (hK : Keeps z s) : Keeps z sK := by
  have k := accRead_keeps (z := z) s t n i hK
  rw [e] at k; exact k

theorem cqAddOne_keeps {z : State} (s : State) (t n i : Nat) (x : Bool) (ty bits : Nat) (hK : Keeps z s) : Keeps z (cqAddOne s t n i x ty bits).2 := by
  unfold cqAddOne
  try dsimp only
  repeat' (first | with_reducible assumption | intro _ | with_reducible apply keeps_ite2 | with_reducible apply keeps_ite3 | with_reducible apply putBit_keeps | with_reducible apply takeFree_keeps | with_reducible refine takeFree_keeps2 (by assumption) ?_ | with_reducible apply accRead_keeps | with_reducible refine accRead_keeps2 (by assumption) ?_ | with_reducible apply keeps_foldl | with_reducible apply keeps_foldl2 | with_reducible apply keeps_foldl3 | with_reducible apply keeps_iter | with_reducible apply keeps_elim | with_reducible apply keeps_ite | split | with_reducible apply keeps_mk | dsimp only)

theorem cqAddOne_keeps2 {z : State} {s : State} {t n i : Nat} {x : Bool} {ty bits : Nat} {rK} {sK : State} (e : cqAddOne s t n i x ty bits = (rK, sK)) (hK : Keeps z s) : Keeps z sK := by
  have k := cqAddOne_keeps (z := z) s t n i x ty bits hK
  rw [e] at k; exact k

theorem cqAddAll_keeps {z : State} (t n : Nat) (x : Bool) (ty eb k i : Nat) (bs : List Byte) (s : State) (h : Keeps z s) :
    Keeps z (cqAddAll t n x ty eb k i bs s).2 := by
  induction k generalizing i bs s with
  | zero => exact h
  | succ k ih => exact ih _ _ _ (cqAddOne_keeps _ _ _ _ _ _ _ h)

theorem cqElem_keeps {z : State} (s : State) (t n i : Nat) (h : Keeps z s) : Keeps z (cqElem s t n i).2.2 := by
  have k := accRead_keeps s t n i h
  unfold cqElem
  dsimp only
  repeat' split
  all_goals exact k

theorem cqElems_keeps {z : State} (t n k i : Nat) (s : State) (h : Keeps z s) : Keeps z (cqElems t n k i s).2.2 := by
  induction k generalizing i s with
  | zero => exact h
  | succ k ih => exact ih _ _ (cqElem_keeps _ _ _ _ h)

theorem cqForms_keeps {z : State} (t n k i : Nat) (s : State) (h : Keeps z s) : Keeps z (cqForms t n k i s) := by
  have b (c : Bool) (s1 : State) (p : Page) (o j : Nat) (h1 : Keeps z s1) : Keeps z (if c then putBit s1 p o j true else s1) := by
    split
    · exact putBit_keeps _ _ _ _ _ h1
    · exact h1
  induction k generalizing i s with
  | zero => exact h
  | succ k ih =>
    simp only [cqForms]
    split
    · exact h
    · exact ih _ _ (modCq_keeps _ _ _ _ (b _ _ _ _ _ (b _ _ _ _ _ (b _ _ _ _ _ (cqElems_keeps _ _ _ _ _ h)))))

theorem cqResult_keeps {z : State} (s : State) (t n : Nat) (hK : Keeps z s) : Keeps z (cqResult s t n) := by
  unfold cqResult
  try dsimp only
  repeat' (first | with_reducible assumption | intro _ | with_reducible apply keeps_ite2 | with_reducible apply keeps_ite3 | with_reducible apply modTile_keeps | with_reducible apply cqSetState_keeps | with_reducible apply sillage_keeps | with_reducible apply tileRead_keeps | with_reducible refine tileRead_keeps2 (by assumption) ?_ | with_reducible apply modCq_keeps | with_reducible apply cmbPump_keeps | with_reducible apply cqForms_keeps | with_reducible apply keeps_foldl | with_reducible apply keeps_foldl2 | with_reducible apply keeps_foldl3 | with_reducible apply keeps_iter | with_reducible apply keeps_elim | with_reducible apply keeps_ite | split | with_reducible apply keeps_mk | dsimp only)

theorem cqContrib_keeps {z : State} (s : State) (t : Nat) (q : Packet) (hK : Keeps z s) : Keeps z (cqContrib s t q) := by
  unfold cqContrib
  try dsimp only
  repeat' (first | with_reducible assumption | intro _ | with_reducible apply keeps_ite2 | with_reducible apply keeps_ite3 | with_reducible apply modTile_keeps | with_reducible apply popReq_keeps | with_reducible apply answerAt_keeps | with_reducible apply tileRead_keeps | with_reducible refine tileRead_keeps2 (by assumption) ?_ | with_reducible apply cqAddAll_keeps | with_reducible refine cqAddAll_keeps2 (by assumption) ?_ | with_reducible apply memStore_keeps | with_reducible apply modCq_keeps | with_reducible apply ackAt_keeps | with_reducible apply cqResult_keeps | with_reducible apply keeps_foldl | with_reducible apply keeps_foldl2 | with_reducible apply keeps_foldl3 | with_reducible apply keeps_iter | with_reducible apply keeps_elim | with_reducible apply keeps_ite | split | with_reducible apply keeps_mk | dsimp only)

theorem cqIdle_keeps {z : State} (s : State) (t n : Nat) (hK : Keeps z s) : Keeps z (cqIdle s t n) := by
  unfold cqIdle
  try dsimp only
  repeat' (first | with_reducible assumption | intro _ | with_reducible apply keeps_ite2 | with_reducible apply keeps_ite3 | with_reducible apply modTile_keeps | with_reducible apply cqSetState_keeps | with_reducible apply modCq_keeps | with_reducible apply keeps_foldl | with_reducible apply keeps_foldl2 | with_reducible apply keeps_foldl3 | with_reducible apply keeps_iter | with_reducible apply keeps_elim | with_reducible apply keeps_ite | split | with_reducible apply keeps_mk | dsimp only)

theorem cqAdvance_keeps {z : State} (s : State) (t n : Nat) (hK : Keeps z s) : Keeps z (cqAdvance s t n) := by
  unfold cqAdvance
  try dsimp only
  repeat' (first | with_reducible assumption | intro _ | with_reducible apply keeps_ite2 | with_reducible apply keeps_ite3 | with_reducible apply cqIdle_keeps | with_reducible apply cmbPump_keeps | with_reducible apply modCq_keeps | with_reducible apply cqFinish_keeps | with_reducible apply keeps_foldl | with_reducible apply keeps_foldl2 | with_reducible apply keeps_foldl3 | with_reducible apply keeps_iter | with_reducible apply keeps_elim | with_reducible apply keeps_ite | split | with_reducible apply keeps_mk | dsimp only)

theorem cqFail_keeps {z : State} (s : State) (t n : Nat) (tag : Half) (reason : Nat) (hK : Keeps z s) : Keeps z (cqFail s t n tag reason) := by
  unfold cqFail
  try dsimp only
  repeat' (first | with_reducible assumption | intro _ | with_reducible apply keeps_ite2 | with_reducible apply keeps_ite3 | with_reducible apply modCq_keeps | with_reducible apply putBit_keeps | with_reducible apply captureCore_keeps | with_reducible apply keeps_foldl | with_reducible apply keeps_foldl2 | with_reducible apply keeps_foldl3 | with_reducible apply keeps_iter | with_reducible apply keeps_elim | with_reducible apply keeps_ite | split | with_reducible apply keeps_mk | dsimp only)

theorem popCmb_keeps {z : State} (s : State) (t : Nat) (hK : Keeps z s) : Keeps z (popCmb s t) := by
  unfold popCmb
  try dsimp only
  repeat' (first | with_reducible assumption | intro _ | with_reducible apply keeps_ite2 | with_reducible apply keeps_ite3 | with_reducible apply modTile_keeps | with_reducible apply keeps_foldl | with_reducible apply keeps_foldl2 | with_reducible apply keeps_foldl3 | with_reducible apply keeps_iter | with_reducible apply keeps_elim | with_reducible apply keeps_ite | split | with_reducible apply keeps_mk | dsimp only)

theorem cmbFail_keeps {z : State} (s : State) (t : Nat) (q : QCmd) (code : Nat) (hK : Keeps z s) : Keeps z (cmbFail s t q code) := by
  unfold cmbFail
  try dsimp only
  repeat' (first | with_reducible assumption | intro _ | with_reducible apply keeps_ite2 | with_reducible apply keeps_ite3 | with_reducible apply captureOpen_keeps | with_reducible apply popCmb_keeps | with_reducible apply keeps_foldl | with_reducible apply keeps_foldl2 | with_reducible apply keeps_foldl3 | with_reducible apply keeps_iter | with_reducible apply keeps_elim | with_reducible apply keeps_ite | split | with_reducible apply keeps_mk | dsimp only)

theorem rqPop_keeps {z : State} (s : State) (t n size : Nat) (hK : Keeps z s) : Keeps z (rqPop s t n size) := by
  unfold rqPop
  try dsimp only
  repeat' (first | with_reducible assumption | intro _ | with_reducible apply keeps_ite2 | with_reducible apply keeps_ite3 | with_reducible apply putFld_keeps | with_reducible apply putBit_keeps | with_reducible apply rqUnstall_keeps | with_reducible apply keeps_foldl | with_reducible apply keeps_foldl2 | with_reducible apply keeps_foldl3 | with_reducible apply keeps_iter | with_reducible apply keeps_elim | with_reducible apply keeps_ite | split | with_reducible apply keeps_mk | dsimp only)

theorem deqRun_keeps {z : State} (s : State) (t : Nat) (q : QCmd) (hK : Keeps z s) : Keeps z (deqRun s t q) := by
  unfold deqRun
  try dsimp only
  repeat' (first | with_reducible assumption | intro _ | with_reducible apply keeps_ite2 | with_reducible apply keeps_ite3 | with_reducible apply cmbFail_keeps | with_reducible apply tileRead_keeps | with_reducible refine tileRead_keeps2 (by assumption) ?_ | with_reducible apply memStore_keeps | with_reducible apply rqPop_keeps | with_reducible apply popCmb_keeps | with_reducible apply semOp_keeps | with_reducible apply keeps_foldl | with_reducible apply keeps_foldl2 | with_reducible apply keeps_foldl3 | with_reducible apply keeps_iter | with_reducible apply keeps_elim | with_reducible apply keeps_ite | split | with_reducible apply keeps_mk | dsimp only)

theorem dropRun_keeps {z : State} (s : State) (t : Nat) (q : QCmd) (hK : Keeps z s) : Keeps z (dropRun s t q) := by
  unfold dropRun
  try dsimp only
  repeat' (first | with_reducible assumption | intro _ | with_reducible apply keeps_ite2 | with_reducible apply keeps_ite3 | with_reducible apply popCmb_keeps | with_reducible apply cmbFail_keeps | with_reducible apply rqPop_keeps | with_reducible apply keeps_foldl | with_reducible apply keeps_foldl2 | with_reducible apply keeps_foldl3 | with_reducible apply keeps_iter | with_reducible apply keeps_elim | with_reducible apply keeps_ite | split | with_reducible apply keeps_mk | dsimp only)

theorem armRun_keeps {z : State} (s : State) (t : Nat) (q : QCmd) (hK : Keeps z s) : Keeps z (armRun s t q) := by
  unfold armRun
  try dsimp only
  repeat' (first | with_reducible assumption | intro _ | with_reducible apply keeps_ite2 | with_reducible apply keeps_ite3 | with_reducible apply modCq_keeps | with_reducible apply putReg_keeps | with_reducible apply putFld_keeps | with_reducible apply sillage_keeps | with_reducible apply memStore_keeps | with_reducible apply cqSetState_keeps | with_reducible apply popCmb_keeps | with_reducible apply cmbFail_keeps | with_reducible apply keeps_foldl | with_reducible apply keeps_foldl2 | with_reducible apply keeps_foldl3 | with_reducible apply keeps_iter | with_reducible apply keeps_elim | with_reducible apply keeps_ite | split | with_reducible apply keeps_mk | dsimp only)

theorem cqCut_keeps {z : State} (s : State) (t n : Nat) (hK : Keeps z s) : Keeps z (cqCut s t n) := by
  unfold cqCut
  try dsimp only
  repeat' (first | with_reducible assumption | intro _ | with_reducible apply keeps_ite2 | with_reducible apply keeps_ite3 | with_reducible apply modTile_keeps | with_reducible apply modCq_keeps | with_reducible apply keeps_foldl | with_reducible apply keeps_foldl2 | with_reducible apply keeps_foldl3 | with_reducible apply keeps_iter | with_reducible apply keeps_elim | with_reducible apply keeps_ite | split | with_reducible apply keeps_mk | dsimp only)

theorem cqrstRun_keeps {z : State} (s : State) (t : Nat) (q : QCmd) (hK : Keeps z s) : Keeps z (cqrstRun s t q) := by
  unfold cqrstRun
  try dsimp only
  repeat' (first | with_reducible assumption | intro _ | with_reducible apply keeps_ite2 | with_reducible apply keeps_ite3 | with_reducible apply modCq_keeps | with_reducible apply cqIdle_keeps | with_reducible apply cqAdvance_keeps | with_reducible apply popCmb_keeps | with_reducible apply cmbFail_keeps | with_reducible apply cqCut_keeps | with_reducible apply keeps_foldl | with_reducible apply keeps_foldl2 | with_reducible apply keeps_foldl3 | with_reducible apply keeps_iter | with_reducible apply keeps_elim | with_reducible apply keeps_ite | split | with_reducible apply keeps_mk | dsimp only)

theorem cqEnWrite_keeps {z : State} (s : State) (t n : Nat) (en : Bool) (hK : Keeps z s) : Keeps z (cqEnWrite s t n en) := by
  unfold cqEnWrite
  try dsimp only
  repeat' (first | with_reducible assumption | intro _ | with_reducible apply keeps_ite2 | with_reducible apply keeps_ite3 | with_reducible apply cqSetState_keeps | with_reducible apply keeps_foldl | with_reducible apply keeps_foldl2 | with_reducible apply keeps_foldl3 | with_reducible apply keeps_iter | with_reducible apply keeps_elim | with_reducible apply keeps_ite | split | with_reducible apply keeps_mk | dsimp only)

theorem rqCount_keeps {z : State} (s : State) (t : Nat) (q : Packet) (hK : Keeps z s) : Keeps z (rqCount s t q) := by
  unfold rqCount
  try dsimp only
  repeat' (first | with_reducible assumption | intro _ | with_reducible apply keeps_ite2 | with_reducible apply keeps_ite3 | with_reducible apply bucketErr_keeps | with_reducible apply keeps_foldl | with_reducible apply keeps_foldl2 | with_reducible apply keeps_foldl3 | with_reducible apply keeps_iter | with_reducible apply keeps_elim | with_reducible apply keeps_ite | split | with_reducible apply keeps_mk | dsimp only)

theorem serveTile_keeps {z : State} (s : State) (t : Nat) (q : Packet) (act : State → State) (hK : Keeps z s) (hact : ∀ x : State, Keeps z x → Keeps z (act x)) : Keeps z (serveTile s t q act) := by
  unfold serveTile
  try dsimp only
  repeat' (first | with_reducible assumption | intro _ | with_reducible apply keeps_ite2 | with_reducible apply keeps_ite3 | with_reducible apply answerAt_keeps | with_reducible apply popReq_keeps | with_reducible apply rqCount_keeps | with_reducible apply hact | with_reducible apply keeps_foldl | with_reducible apply keeps_foldl2 | with_reducible apply keeps_foldl3 | with_reducible apply keeps_iter | with_reducible apply keeps_elim | with_reducible apply keeps_ite | split | with_reducible apply keeps_mk | dsimp only)

theorem tmRead_keeps {z : State} (s : State) (t : Nat) (q : Packet) (hK : Keeps z s) : Keeps z (tmRead s t q) := by
  unfold tmRead
  try dsimp only
  repeat' (first | with_reducible assumption | intro _ | with_reducible apply keeps_ite2 | with_reducible apply keeps_ite3 | with_reducible apply tileRead_keeps | with_reducible refine tileRead_keeps2 (by assumption) ?_ | with_reducible apply popReq_keeps | with_reducible apply answerAt_keeps | with_reducible apply keeps_foldl | with_reducible apply keeps_foldl2 | with_reducible apply keeps_foldl3 | with_reducible apply keeps_iter | with_reducible apply keeps_elim | with_reducible apply keeps_ite | split | with_reducible apply keeps_mk | dsimp only)

theorem tmWrite_keeps {z : State} (s : State) (t : Nat) (q : Packet) (hK : Keeps z s) : Keeps z (tmWrite s t q) := by
  unfold tmWrite
  try dsimp only
  repeat' (first | with_reducible assumption | intro _ | with_reducible apply keeps_ite2 | with_reducible apply keeps_ite3 | with_reducible apply answerAt_keeps | with_reducible apply popReq_keeps | with_reducible apply ackAt_keeps | with_reducible apply memStore_keeps | with_reducible apply keeps_foldl | with_reducible apply keeps_foldl2 | with_reducible apply keeps_foldl3 | with_reducible apply keeps_iter | with_reducible apply keeps_elim | with_reducible apply keeps_ite | split | with_reducible apply keeps_mk | dsimp only)

theorem semSignal_keeps {z : State} (s : State) (t : Nat) (q : Packet) (hK : Keeps z s) : Keeps z (semSignal s t q) := by
  unfold semSignal
  try dsimp only
  repeat' (first | with_reducible assumption | intro _ | with_reducible apply keeps_ite2 | with_reducible apply keeps_ite3 | with_reducible apply popReq_keeps | with_reducible apply ackAt_keeps | with_reducible apply semOp_keeps | with_reducible apply keeps_foldl | with_reducible apply keeps_foldl2 | with_reducible apply keeps_foldl3 | with_reducible apply keeps_iter | with_reducible apply keeps_elim | with_reducible apply keeps_ite | split | with_reducible apply keeps_mk | dsimp only)

end Sys2Proof.Machine
end

