-- ==== Sys2Proof/Laws/KeepsAnswerOps.lean ====
section
/-! SUPPORT. Every operation of Machine/AnswerOps.lean keeps what Safety.lean names. -/

namespace Sys2Proof.Machine

set_option linter.all false

theorem popRsp_keeps {z : State} (s : State) (p : Place) (hK : Keeps z s) : Keeps z (popRsp s p) := by
  unfold popRsp
  try dsimp only
  repeat' (first | with_reducible assumption | intro _ | with_reducible apply keeps_ite2 | with_reducible apply keeps_ite3 | with_reducible apply modTile_keeps | with_reducible apply modEdge_keeps | with_reducible apply modDie_keeps | with_reducible apply keeps_foldl | with_reducible apply keeps_foldl2 | with_reducible apply keeps_foldl3 | with_reducible apply keeps_iter | with_reducible apply keeps_elim | with_reducible apply keeps_ite | split | with_reducible apply keeps_mk | dsimp only)

theorem reqAnswered_keeps {z : State} (s : State) (t : Nat) (r : MovReq) (node : Word) (hK : Keeps z s) : Keeps z (reqAnswered s t r node) := by
  unfold reqAnswered
  try dsimp only
  repeat' (first | with_reducible assumption | intro _ | with_reducible apply keeps_ite2 | with_reducible apply keeps_ite3 | with_reducible apply modTile_keeps | with_reducible apply reqDrop_keeps | with_reducible apply keeps_foldl | with_reducible apply keeps_foldl2 | with_reducible apply keeps_foldl3 | with_reducible apply keeps_iter | with_reducible apply keeps_elim | with_reducible apply keeps_ite | split | with_reducible apply keeps_mk | dsimp only)

theorem movWrack_keeps {z : State} (s : State) (t : Nat) (q : Packet) (hK : Keeps z s) : Keeps z (movWrack s t q) := by
  unfold movWrack
  try dsimp only
  repeat' (first | with_reducible assumption | intro _ | with_reducible apply keeps_ite2 | with_reducible apply keeps_ite3 | with_reducible apply reqDrop_keeps | with_reducible apply reqAnswered_keeps | with_reducible apply keeps_foldl | with_reducible apply keeps_foldl2 | with_reducible apply keeps_foldl3 | with_reducible apply keeps_iter | with_reducible apply keeps_elim | with_reducible apply keeps_ite | split | with_reducible apply keeps_mk | dsimp only)

theorem movRefused_keeps {z : State} (s : State) (t : Nat) (r : MovReq) (q : Packet) (hK : Keeps z s) : Keeps z (movRefused s t r q) := by
  unfold movRefused
  try dsimp only
  repeat' (first | with_reducible assumption | intro _ | with_reducible apply keeps_ite2 | with_reducible apply keeps_ite3 | with_reducible apply reqDrop_keeps | with_reducible apply modTile_keeps | with_reducible apply reqAnswered_keeps | with_reducible apply copyFail_keeps | with_reducible apply reqNak_keeps | with_reducible apply reqFail_keeps | with_reducible apply keeps_foldl | with_reducible apply keeps_foldl2 | with_reducible apply keeps_foldl3 | with_reducible apply keeps_iter | with_reducible apply keeps_elim | with_reducible apply keeps_ite | split | with_reducible apply keeps_mk | dsimp only)

theorem movRdrsp_keeps {z : State} (s : State) (t : Nat) (r : MovReq) (q : Packet) (hK : Keeps z s) : Keeps z (movRdrsp s t r q) := by
  unfold movRdrsp
  try dsimp only
  repeat' (first | with_reducible assumption | intro _ | with_reducible apply keeps_ite2 | with_reducible apply keeps_ite3 | with_reducible apply modTile_keeps | with_reducible apply reqDrop_keeps | with_reducible apply readLand_keeps | with_reducible apply keeps_foldl | with_reducible apply keeps_foldl2 | with_reducible apply keeps_foldl3 | with_reducible apply keeps_iter | with_reducible apply keeps_elim | with_reducible apply keeps_ite | split | with_reducible apply keeps_mk | dsimp only)

theorem movRegrsp_keeps {z : State} (s : State) (t : Nat) (r : MovReq) (q : Packet) (hK : Keeps z s) : Keeps z (movRegrsp s t r q) := by
  unfold movRegrsp
  try dsimp only
  repeat' (first | with_reducible assumption | intro _ | with_reducible apply keeps_ite2 | with_reducible apply keeps_ite3 | with_reducible apply reqFail_keeps | with_reducible apply reqDrop_keeps | with_reducible apply stageIn_keeps | with_reducible apply memStore_keeps | with_reducible apply keeps_foldl | with_reducible apply keeps_foldl2 | with_reducible apply keeps_foldl3 | with_reducible apply keeps_iter | with_reducible apply keeps_elim | with_reducible apply keeps_ite | split | with_reducible apply keeps_mk | dsimp only)

theorem movDeliver_keeps {z : State} (s : State) (t : Nat) (r : MovReq) (q : Packet) (hK : Keeps z s) : Keeps z (movDeliver s t r q) := by
  unfold movDeliver
  try dsimp only
  repeat' (first | with_reducible assumption | intro _ | with_reducible apply keeps_ite2 | with_reducible apply keeps_ite3 | with_reducible apply movPump_keeps | with_reducible apply movRefused_keeps | with_reducible apply movRdrsp_keeps | with_reducible apply movRegrsp_keeps | with_reducible apply keeps_foldl | with_reducible apply keeps_foldl2 | with_reducible apply keeps_foldl3 | with_reducible apply keeps_iter | with_reducible apply keeps_elim | with_reducible apply keeps_ite | split | with_reducible apply keeps_mk | dsimp only)

theorem resvAnswer_keeps {z : State} (s : State) (t : Nat) (v : SrcResv) (ok : Bool) (hK : Keeps z s) : Keeps z (resvAnswer s t v ok) := by
  unfold resvAnswer
  try dsimp only
  repeat' (first | with_reducible assumption | intro _ | with_reducible apply keeps_ite2 | with_reducible apply keeps_ite3 | with_reducible apply modTile_keeps | with_reducible apply sillage_keeps | with_reducible apply movPump_keeps | with_reducible apply resvSend_keeps | with_reducible apply keeps_foldl | with_reducible apply keeps_foldl2 | with_reducible apply keeps_foldl3 | with_reducible apply keeps_iter | with_reducible apply keeps_elim | with_reducible apply keeps_ite | split | with_reducible apply keeps_mk | dsimp only)

theorem movAnswer_keeps {z : State} (s : State) (t : Nat) (q : Packet) (hK : Keeps z s) : Keeps z (movAnswer s t q) := by
  unfold movAnswer
  try dsimp only
  repeat' (first | with_reducible assumption | intro _ | with_reducible apply keeps_ite2 | with_reducible apply keeps_ite3 | with_reducible apply movPump_keeps | with_reducible apply movWrack_keeps | with_reducible apply resvAnswer_keeps | with_reducible apply modTile_keeps | with_reducible apply movDeliver_keeps | with_reducible apply keeps_foldl | with_reducible apply keeps_foldl2 | with_reducible apply keeps_foldl3 | with_reducible apply keeps_iter | with_reducible apply keeps_elim | with_reducible apply keeps_ite | split | with_reducible apply keeps_mk | dsimp only)

theorem resPut_keeps {z : State} (s : State) (t n : Nat) (tag : Half) (r : Option ResPkt) (hK : Keeps z s) : Keeps z (resPut s t n tag r) := by
  unfold resPut
  try dsimp only
  repeat' (first | with_reducible assumption | intro _ | with_reducible apply keeps_ite2 | with_reducible apply keeps_ite3 | with_reducible apply modCq_keeps | with_reducible apply keeps_foldl | with_reducible apply keeps_foldl2 | with_reducible apply keeps_foldl3 | with_reducible apply keeps_iter | with_reducible apply keeps_elim | with_reducible apply keeps_ite | split | with_reducible apply keeps_mk | dsimp only)

theorem resEnd_keeps {z : State} (s : State) (t n : Nat) (r : ResPkt) (hK : Keeps z s) : Keeps z (resEnd s t n r) := by
  unfold resEnd
  try dsimp only
  repeat' (first | with_reducible assumption | intro _ | with_reducible apply keeps_ite2 | with_reducible apply keeps_ite3 | with_reducible apply resPut_keeps | with_reducible apply cqFail_keeps | with_reducible apply keeps_foldl | with_reducible apply keeps_foldl2 | with_reducible apply keeps_foldl3 | with_reducible apply keeps_iter | with_reducible apply keeps_elim | with_reducible apply keeps_ite | split | with_reducible apply keeps_mk | dsimp only)

theorem resAnswered_keeps {z : State} (s : State) (t n : Nat) (r : ResPkt) (node : Word) (hK : Keeps z s) : Keeps z (resAnswered s t n r node) := by
  unfold resAnswered
  try dsimp only
  repeat' (first | with_reducible assumption | intro _ | with_reducible apply keeps_ite2 | with_reducible apply keeps_ite3 | with_reducible apply resEnd_keeps | with_reducible apply resPut_keeps | with_reducible apply keeps_foldl | with_reducible apply keeps_foldl2 | with_reducible apply keeps_foldl3 | with_reducible apply keeps_iter | with_reducible apply keeps_elim | with_reducible apply keeps_ite | split | with_reducible apply keeps_mk | dsimp only)

theorem cmbAnswer_keeps {z : State} (s : State) (t n : Nat) (q : Packet) (hK : Keeps z s) : Keeps z (cmbAnswer s t n q) := by
  unfold cmbAnswer
  try dsimp only
  repeat' (first | with_reducible assumption | intro _ | with_reducible apply keeps_ite2 | with_reducible apply keeps_ite3 | with_reducible apply cqAdvance_keeps | with_reducible apply resAnswered_keeps | with_reducible apply cqFail_keeps | with_reducible apply resPut_keeps | with_reducible apply keeps_foldl | with_reducible apply keeps_foldl2 | with_reducible apply keeps_foldl3 | with_reducible apply keeps_iter | with_reducible apply keeps_elim | with_reducible apply keeps_ite | split | with_reducible apply keeps_mk | dsimp only)

theorem leaseSet_keeps {z : State} (s : State) (t i st : Nat) (hK : Keeps z s) : Keeps z (leaseSet s t i st) := by
  unfold leaseSet
  try dsimp only
  repeat' (first | with_reducible assumption | intro _ | with_reducible apply keeps_ite2 | with_reducible apply keeps_ite3 | with_reducible apply modTile_keeps | with_reducible apply putFld_keeps | with_reducible apply isrBit_keeps | with_reducible apply keeps_foldl | with_reducible apply keeps_foldl2 | with_reducible apply keeps_foldl3 | with_reducible apply keeps_iter | with_reducible apply keeps_elim | with_reducible apply keeps_ite | split | with_reducible apply keeps_mk | dsimp only)

theorem leaseAnswer_keeps {z : State} (s : State) (t : Nat) (q : Packet) (hK : Keeps z s) : Keeps z (leaseAnswer s t q) := by
  unfold leaseAnswer
  try dsimp only
  repeat' (first | with_reducible assumption | intro _ | with_reducible apply keeps_ite2 | with_reducible apply keeps_ite3 | with_reducible apply leaseSet_keeps | with_reducible apply keeps_foldl | with_reducible apply keeps_foldl2 | with_reducible apply keeps_foldl3 | with_reducible apply keeps_iter | with_reducible apply keeps_elim | with_reducible apply keeps_ite | split | with_reducible apply keeps_mk | dsimp only)

theorem tileRsp_keeps {z : State} (s : State) (t : Nat) (q : Packet) (hK : Keeps z s) : Keeps z (tileRsp s t q) := by
  unfold tileRsp
  try dsimp only
  repeat' (first | with_reducible assumption | intro _ | with_reducible apply keeps_ite2 | with_reducible apply keeps_ite3 | with_reducible apply movAnswer_keeps | with_reducible apply cmbAnswer_keeps | with_reducible apply leaseAnswer_keeps | with_reducible apply keeps_foldl | with_reducible apply keeps_foldl2 | with_reducible apply keeps_foldl3 | with_reducible apply keeps_iter | with_reducible apply keeps_elim | with_reducible apply keeps_ite | split | with_reducible apply keeps_mk | dsimp only)

end Sys2Proof.Machine
end

