-- ==== Sys2Proof/Laws/KeepsHifOps.lean ====
section
/-! SUPPORT. Every operation of Machine/HifOps.lean keeps what Safety.lean names. -/

namespace Sys2Proof.Machine

set_option linter.all false

theorem modHif_keeps {z : State} (s : State) (f : Hif → Hif) (hK : Keeps z s) : Keeps z (modHif s f) := by
  unfold modHif
  try dsimp only
  repeat' (first | with_reducible assumption | intro _ | with_reducible apply keeps_ite2 | with_reducible apply keeps_ite3 | with_reducible apply keeps_foldl | with_reducible apply keeps_foldl2 | with_reducible apply keeps_foldl3 | with_reducible apply keeps_iter | with_reducible apply keeps_elim | with_reducible apply keeps_ite | split | with_reducible apply keeps_mk | dsimp only)

theorem rdPump_keeps {z : State} (s : State) (hK : Keeps z s) : Keeps z (rdPump s) := by
  unfold rdPump
  try dsimp only
  repeat' (first | with_reducible assumption | intro _ | with_reducible apply keeps_ite2 | with_reducible apply keeps_ite3 | with_reducible apply emit_keeps | with_reducible apply modHif_keeps | with_reducible apply keeps_foldl | with_reducible apply keeps_foldl2 | with_reducible apply keeps_foldl3 | with_reducible apply keeps_iter | with_reducible apply keeps_elim | with_reducible apply keeps_ite | split | with_reducible apply keeps_mk | dsimp only)

theorem rdPart_keeps {z : State} (s : State) (id : Nat) (tag : Half) (c : Cpl) (bs : List Byte) (hK : Keeps z s) : Keeps z (rdPart s id tag c bs) := by
  unfold rdPart
  try dsimp only
  repeat' (first | with_reducible assumption | intro _ | with_reducible apply keeps_ite2 | with_reducible apply keeps_ite3 | with_reducible apply modHif_keeps | with_reducible apply rdPump_keeps | with_reducible apply keeps_foldl | with_reducible apply keeps_foldl2 | with_reducible apply keeps_foldl3 | with_reducible apply keeps_iter | with_reducible apply keeps_elim | with_reducible apply keeps_ite | split | with_reducible apply keeps_mk | dsimp only)

theorem syncPump_keeps {z : State} (s : State) (hK : Keeps z s) : Keeps z (syncPump s) := by
  unfold syncPump
  try dsimp only
  repeat' (first | with_reducible assumption | intro _ | with_reducible apply keeps_ite2 | with_reducible apply keeps_ite3 | with_reducible apply modHif_keeps | with_reducible apply rdPump_keeps | with_reducible apply keeps_foldl | with_reducible apply keeps_foldl2 | with_reducible apply keeps_foldl3 | with_reducible apply keeps_iter | with_reducible apply keeps_elim | with_reducible apply keeps_ite | split | with_reducible apply keeps_mk | dsimp only)

theorem hifSend_keeps {z : State} (s : State) (p : Packet) (hK : Keeps z s) : Keeps z (hifSend s p) := by
  unfold hifSend
  try dsimp only
  repeat' (first | with_reducible assumption | intro _ | with_reducible apply keeps_ite2 | with_reducible apply keeps_ite3 | with_reducible apply modDie_keeps | with_reducible apply keeps_foldl | with_reducible apply keeps_foldl2 | with_reducible apply keeps_foldl3 | with_reducible apply keeps_iter | with_reducible apply keeps_elim | with_reducible apply keeps_ite | split | with_reducible apply keeps_mk | dsimp only)

theorem hifRequest_keeps {z : State} (s : State) (id : Nat) (bar : Nat) (write : Bool) (dst : Word) (op : BitVec 8) (addr aux : Nat) (bs : List Byte) (be : BitVec 4) (hK : Keeps z s) : Keeps z (hifRequest s id bar write dst op addr aux bs be).2 := by
  unfold hifRequest
  try dsimp only
  repeat' (first | with_reducible assumption | intro _ | with_reducible apply keeps_ite2 | with_reducible apply keeps_ite3 | with_reducible apply hifSend_keeps | with_reducible apply modHif_keeps | with_reducible apply keeps_foldl | with_reducible apply keeps_foldl2 | with_reducible apply keeps_foldl3 | with_reducible apply keeps_iter | with_reducible apply keeps_elim | with_reducible apply keeps_ite | split | with_reducible apply keeps_mk | dsimp only)

theorem hifRequest_keeps2 {z : State} {s : State} {id : Nat} {bar : Nat} {write : Bool} {dst : Word} {op : BitVec 8} {addr aux : Nat} {bs : List Byte} {be : BitVec 4} {rK} {sK : State} (e : hifRequest s id bar write dst op addr aux bs be = (rK, sK)) (hK : Keeps z s)  : Keeps z sK := by
  have k := hifRequest_keeps (z := z) s id bar write dst op addr aux bs be hK 
  rw [e] at k; exact k

theorem msixFlush_keeps {z : State} (s : State) (hK : Keeps z s) : Keeps z (msixFlush s) := by
  unfold msixFlush
  try dsimp only
  repeat' (first | with_reducible assumption | intro _ | with_reducible apply keeps_ite2 | with_reducible apply keeps_ite3 | with_reducible apply msixSend_keeps | with_reducible apply keeps_foldl | with_reducible apply keeps_foldl2 | with_reducible apply keeps_foldl3 | with_reducible apply keeps_iter | with_reducible apply keeps_elim | with_reducible apply keeps_ite | split | with_reducible apply keeps_mk | dsimp only)

theorem msixWrite_keeps {z : State} (s : State) (off : Nat) (v : Word) (be : BitVec 4) (hK : Keeps z s) : Keeps z (msixWrite s off v be) := by
  unfold msixWrite
  try dsimp only
  repeat' (first | with_reducible assumption | intro _ | with_reducible apply keeps_ite2 | with_reducible apply keeps_ite3 | with_reducible apply setVec_keeps | with_reducible apply msixFlush_keeps | with_reducible apply keeps_foldl | with_reducible apply keeps_foldl2 | with_reducible apply keeps_foldl3 | with_reducible apply keeps_iter | with_reducible apply keeps_elim | with_reducible apply keeps_ite | split | with_reducible apply keeps_mk | dsimp only)

theorem hifWfail_keeps {z : State} (s : State) (tag : Half) (hK : Keeps z s) : Keeps z (hifWfail s tag) := by
  unfold hifWfail
  try dsimp only
  repeat' (first | with_reducible assumption | intro _ | with_reducible apply keeps_ite2 | with_reducible apply keeps_ite3 | with_reducible apply addFld_keeps | with_reducible apply captureOpen_keeps | with_reducible apply keeps_foldl | with_reducible apply keeps_foldl2 | with_reducible apply keeps_foldl3 | with_reducible apply keeps_iter | with_reducible apply keeps_elim | with_reducible apply keeps_ite | split | with_reducible apply keeps_mk | dsimp only)

theorem accDrop_keeps {z : State} (s : State) (a : HostAcc) (hK : Keeps z s) : Keeps z (accDrop s a) := by
  unfold accDrop
  try dsimp only
  repeat' (first | with_reducible assumption | intro _ | with_reducible apply keeps_ite2 | with_reducible apply keeps_ite3 | with_reducible apply modHif_keeps | with_reducible apply keeps_foldl | with_reducible apply keeps_foldl2 | with_reducible apply keeps_foldl3 | with_reducible apply keeps_iter | with_reducible apply keeps_elim | with_reducible apply keeps_ite | split | with_reducible apply keeps_mk | dsimp only)

theorem accOk_keeps {z : State} (s : State) (a : HostAcc) (c : Cpl) (bs : List Byte) (hK : Keeps z s) : Keeps z (accOk s a c bs) := by
  unfold accOk
  try dsimp only
  repeat' (first | with_reducible assumption | intro _ | with_reducible apply keeps_ite2 | with_reducible apply keeps_ite3 | with_reducible apply rdPart_keeps | with_reducible apply syncPump_keeps | with_reducible apply accDrop_keeps | with_reducible apply keeps_foldl | with_reducible apply keeps_foldl2 | with_reducible apply keeps_foldl3 | with_reducible apply keeps_iter | with_reducible apply keeps_elim | with_reducible apply keeps_ite | split | with_reducible apply keeps_mk | dsimp only)

theorem accFail_keeps {z : State} (s : State) (a : HostAcc) (c : Cpl) (hK : Keeps z s) : Keeps z (accFail s a c) := by
  unfold accFail
  try dsimp only
  repeat' (first | with_reducible assumption | intro _ | with_reducible apply keeps_ite2 | with_reducible apply keeps_ite3 | with_reducible apply rdPart_keeps | with_reducible apply syncPump_keeps | with_reducible apply hifWfail_keeps | with_reducible apply accDrop_keeps | with_reducible apply keeps_foldl | with_reducible apply keeps_foldl2 | with_reducible apply keeps_foldl3 | with_reducible apply keeps_iter | with_reducible apply keeps_elim | with_reducible apply keeps_ite | split | with_reducible apply keeps_mk | dsimp only)

theorem accMod_keeps {z : State} (s : State) (a : HostAcc) (f : HostAcc → HostAcc) (hK : Keeps z s) : Keeps z (accMod s a f) := by
  unfold accMod
  try dsimp only
  repeat' (first | with_reducible assumption | intro _ | with_reducible apply keeps_ite2 | with_reducible apply keeps_ite3 | with_reducible apply modHif_keeps | with_reducible apply keeps_foldl | with_reducible apply keeps_foldl2 | with_reducible apply keeps_foldl3 | with_reducible apply keeps_iter | with_reducible apply keeps_elim | with_reducible apply keeps_ite | split | with_reducible apply keeps_mk | dsimp only)

theorem hifAnswer_keeps {z : State} (s : State) (q : Packet) (hK : Keeps z s) : Keeps z (hifAnswer s q) := by
  unfold hifAnswer
  try dsimp only
  repeat' (first | with_reducible assumption | intro _ | with_reducible apply keeps_ite2 | with_reducible apply keeps_ite3 | with_reducible apply accOk_keeps | with_reducible apply accMod_keeps | with_reducible apply accFail_keeps | with_reducible apply keeps_foldl | with_reducible apply keeps_foldl2 | with_reducible apply keeps_foldl3 | with_reducible apply keeps_iter | with_reducible apply keeps_elim | with_reducible apply keeps_ite | split | with_reducible apply keeps_mk | dsimp only)

theorem hifTimeout_keeps {z : State} (s : State) (a : HostAcc) (hK : Keeps z s) : Keeps z (hifTimeout s a) := by
  unfold hifTimeout
  try dsimp only
  repeat' (first | with_reducible assumption | intro _ | with_reducible apply keeps_ite2 | with_reducible apply keeps_ite3 | with_reducible apply addFld_keeps | with_reducible apply captureOpen_keeps | with_reducible apply accFail_keeps | with_reducible apply keeps_foldl | with_reducible apply keeps_foldl2 | with_reducible apply keeps_foldl3 | with_reducible apply keeps_iter | with_reducible apply keeps_elim | with_reducible apply keeps_ite | split | with_reducible apply keeps_mk | dsimp only)

theorem hifResend_keeps {z : State} (s : State) (a : HostAcc) (hK : Keeps z s) : Keeps z (hifResend s a) := by
  unfold hifResend
  try dsimp only
  repeat' (first | with_reducible assumption | intro _ | with_reducible apply keeps_ite2 | with_reducible apply keeps_ite3 | with_reducible apply hifSend_keeps | with_reducible apply modHif_keeps | with_reducible apply keeps_foldl | with_reducible apply keeps_foldl2 | with_reducible apply keeps_foldl3 | with_reducible apply keeps_iter | with_reducible apply keeps_elim | with_reducible apply keeps_ite | split | with_reducible apply keeps_mk | dsimp only)

end Sys2Proof.Machine
end

