-- ==== Sys2Proof/Laws/KeepsAnswers.lean ====
section
/-! SUPPORT. Every operation of Machine/Answers.lean keeps what Safety.lean names. -/

namespace Sys2Proof.Machine

set_option linter.all false

theorem takeRsp_keeps {z : State} (s : State) (p : Place) (op : BitVec 8) (hK : Keeps z s) : Keeps z (takeRsp s p op) := by
  unfold takeRsp
  try dsimp only
  repeat' (first | with_reducible assumption | intro _ | with_reducible apply keeps_ite2 | with_reducible apply keeps_ite3 | with_reducible apply popRsp_keeps | with_reducible apply tileRsp_keeps | with_reducible apply hifAnswer_keeps | with_reducible apply keeps_foldl | with_reducible apply keeps_foldl2 | with_reducible apply keeps_foldl3 | with_reducible apply keeps_iter | with_reducible apply keeps_elim | with_reducible apply keeps_ite | split | with_reducible apply keeps_mk | dsimp only)

end Sys2Proof.Machine
end

