-- ==== Sys2Proof/Laws/KeepsNtOps.lean ====
section
/-! SUPPORT. Every operation of Machine/NtOps.lean keeps what Safety.lean names. -/

namespace Sys2Proof.Machine

set_option linter.all false

theorem applyStep_keeps {z : State} (s : State) (t1 : Int) (hK : Keeps z s) : Keeps z (applyStep s t1) := by
  unfold applyStep
  try dsimp only
  repeat' (first | with_reducible assumption | intro _ | with_reducible apply keeps_ite2 | with_reducible apply keeps_ite3 | with_reducible apply eraCheck_keeps | with_reducible apply isrBit_keeps | with_reducible apply putBit_keeps | with_reducible apply gclStep_keeps | with_reducible apply keeps_foldl | with_reducible apply keeps_foldl2 | with_reducible apply keeps_foldl3 | with_reducible apply keeps_iter | with_reducible apply keeps_elim | with_reducible apply keeps_ite | split | with_reducible apply keeps_mk | dsimp only)

theorem stepNow_keeps {z : State} (s : State) (hK : Keeps z s) : Keeps z (stepNow s) := by
  unfold stepNow
  try dsimp only
  repeat' (first | with_reducible assumption | intro _ | with_reducible apply keeps_ite2 | with_reducible apply keeps_ite3 | with_reducible apply applyStep_keeps | with_reducible apply keeps_foldl | with_reducible apply keeps_foldl2 | with_reducible apply keeps_foldl3 | with_reducible apply keeps_iter | with_reducible apply keeps_elim | with_reducible apply keeps_ite | split | with_reducible apply keeps_mk | dsimp only)

theorem waveErr_keeps {z : State} (s : State) (t : Nat) (hK : Keeps z s) : Keeps z (waveErr s t) := by
  unfold waveErr
  try dsimp only
  repeat' (first | with_reducible assumption | intro _ | with_reducible apply keeps_ite2 | with_reducible apply keeps_ite3 | with_reducible apply takeFree_keeps | with_reducible refine takeFree_keeps2 (by assumption) ?_ | with_reducible apply bucketErr_keeps | with_reducible apply addFld_keeps | with_reducible apply modTile_keeps | with_reducible apply keeps_foldl | with_reducible apply keeps_foldl2 | with_reducible apply keeps_foldl3 | with_reducible apply keeps_iter | with_reducible apply keeps_elim | with_reducible apply keeps_ite | split | with_reducible apply keeps_mk | dsimp only)

theorem waveChk_keeps {z : State} (s : State) (hK : Keeps z s) : Keeps z (waveChk s) := by
  unfold waveChk
  try dsimp only
  repeat' (first | with_reducible assumption | intro _ | with_reducible apply keeps_ite2 | with_reducible apply keeps_ite3 | with_reducible apply captureOpen_keeps | with_reducible apply keeps_foldl | with_reducible apply keeps_foldl2 | with_reducible apply keeps_foldl3 | with_reducible apply keeps_iter | with_reducible apply keeps_elim | with_reducible apply keeps_ite | split | with_reducible apply keeps_mk | dsimp only)

theorem waveLoad_keeps {z : State} (s : State) (bad : List Nat) (hK : Keeps z s) : Keeps z (waveLoad s bad) := by
  unfold waveLoad
  try dsimp only
  repeat' (first | with_reducible assumption | intro _ | with_reducible apply keeps_ite2 | with_reducible apply keeps_ite3 | with_reducible apply keeps_foldl | with_reducible apply keeps_foldl2 | with_reducible apply keeps_foldl3 | with_reducible apply keeps_iter | with_reducible apply keeps_elim | with_reducible apply keeps_ite | split | with_reducible apply keeps_mk | dsimp only)

theorem timeWave_keeps {z : State} (s : State) (bad : List Nat) (hK : Keeps z s) : Keeps z (timeWave s bad) := by
  unfold timeWave
  try dsimp only
  repeat' (first | with_reducible assumption | intro _ | with_reducible apply keeps_ite2 | with_reducible apply keeps_ite3 | with_reducible apply atT_keeps | with_reducible apply waveLoad_keeps | with_reducible apply emit_keeps | with_reducible apply waveErr_keeps | with_reducible apply stepNow_keeps | with_reducible apply waveChk_keeps | with_reducible apply keeps_foldl | with_reducible apply keeps_foldl2 | with_reducible apply keeps_foldl3 | with_reducible apply keeps_iter | with_reducible apply keeps_elim | with_reducible apply keeps_ite | split | with_reducible apply keeps_mk | dsimp only)

theorem stepAdd_keeps {z : State} (s : State) (d : Int) (hK : Keeps z s) : Keeps z (stepAdd s d) := by
  unfold stepAdd
  try dsimp only
  repeat' (first | with_reducible assumption | intro _ | with_reducible apply keeps_ite2 | with_reducible apply keeps_ite3 | with_reducible apply keeps_foldl | with_reducible apply keeps_foldl2 | with_reducible apply keeps_foldl3 | with_reducible apply keeps_iter | with_reducible apply keeps_elim | with_reducible apply keeps_ite | split | with_reducible apply keeps_mk | dsimp only)

theorem servoRate_keeps {z : State} (s : State) (hK : Keeps z s) : Keeps z (servoRate s) := by
  unfold servoRate
  try dsimp only
  repeat' (first | with_reducible assumption | intro _ | with_reducible apply keeps_ite2 | with_reducible apply keeps_ite3 | with_reducible apply putReg_keeps | with_reducible apply takeFree_keeps | with_reducible refine takeFree_keeps2 (by assumption) ?_ | with_reducible apply keeps_foldl | with_reducible apply keeps_foldl2 | with_reducible apply keeps_foldl3 | with_reducible apply keeps_iter | with_reducible apply keeps_elim | with_reducible apply keeps_ite | split | with_reducible apply keeps_mk | dsimp only)

theorem servo_keeps {z : State} (s : State) (o : Int) (copy : Option (Nat × Nat)) (hK : Keeps z s) : Keeps z (servo s o copy) := by
  unfold servo
  try dsimp only
  repeat' (first | with_reducible assumption | intro _ | with_reducible apply keeps_ite2 | with_reducible apply keeps_ite3 | with_reducible apply servoRate_keeps | with_reducible apply setPhase_keeps | with_reducible apply keeps_foldl | with_reducible apply keeps_foldl2 | with_reducible apply keeps_foldl3 | with_reducible apply keeps_iter | with_reducible apply keeps_elim | with_reducible apply keeps_ite | split | with_reducible apply keeps_mk | dsimp only)

theorem tkpCtlWritten_keeps {z : State} (s : State) (old : Word) (hK : Keeps z s) : Keeps z (tkpCtlWritten s old) := by
  unfold tkpCtlWritten
  try dsimp only
  repeat' (first | with_reducible assumption | intro _ | with_reducible apply keeps_ite2 | with_reducible apply keeps_ite3 | with_reducible apply tkpSet_keeps | with_reducible apply keeps_foldl | with_reducible apply keeps_foldl2 | with_reducible apply keeps_foldl3 | with_reducible apply keeps_iter | with_reducible apply keeps_elim | with_reducible apply keeps_ite | split | with_reducible apply keeps_mk | dsimp only)

theorem adjWritten_keeps {z : State} (s : State) (hK : Keeps z s) : Keeps z (adjWritten s) := by
  unfold adjWritten
  try dsimp only
  repeat' (first | with_reducible assumption | intro _ | with_reducible apply keeps_ite2 | with_reducible apply keeps_ite3 | with_reducible apply putReg_keeps | with_reducible apply keeps_foldl | with_reducible apply keeps_foldl2 | with_reducible apply keeps_foldl3 | with_reducible apply keeps_iter | with_reducible apply keeps_elim | with_reducible apply keeps_ite | split | with_reducible apply keeps_mk | dsimp only)

theorem ppsSource_keeps {z : State} (s : State) (hK : Keeps z s) : Keeps z (ppsSource s) := by
  unfold ppsSource
  try dsimp only
  repeat' (first | with_reducible assumption | intro _ | with_reducible apply keeps_ite2 | with_reducible apply keeps_ite3 | with_reducible apply tkpSet_keeps | with_reducible apply servoRate_keeps | with_reducible apply servo_keeps | with_reducible apply keeps_foldl | with_reducible apply keeps_foldl2 | with_reducible apply keeps_foldl3 | with_reducible apply keeps_iter | with_reducible apply keeps_elim | with_reducible apply keeps_ite | split | with_reducible apply keeps_mk | dsimp only)

theorem ppsIn_keeps {z : State} (s : State) (hK : Keeps z s) : Keeps z (ppsIn s) := by
  unfold ppsIn
  try dsimp only
  repeat' (first | with_reducible assumption | intro _ | with_reducible apply keeps_ite2 | with_reducible apply keeps_ite3 | with_reducible apply putReg_keeps | with_reducible apply putBit_keeps | with_reducible apply isrBit_keeps | with_reducible apply ppsSource_keeps | with_reducible apply keeps_foldl | with_reducible apply keeps_foldl2 | with_reducible apply keeps_foldl3 | with_reducible apply keeps_iter | with_reducible apply keeps_elim | with_reducible apply keeps_ite | split | with_reducible apply keeps_mk | dsimp only)

theorem syncSend_keeps {z : State} (s : State) (n : Nat) (hK : Keeps z s) : Keeps z (syncSend s n) := by
  unfold syncSend
  try dsimp only
  repeat' (first | with_reducible assumption | intro _ | with_reducible apply keeps_ite2 | with_reducible apply keeps_ite3 | with_reducible apply atLeast_keeps | with_reducible apply modAcc_keeps | with_reducible apply emit_keeps | with_reducible apply sbPush_keeps | with_reducible apply keeps_foldl | with_reducible apply keeps_foldl2 | with_reducible apply keeps_foldl3 | with_reducible apply keeps_iter | with_reducible apply keeps_elim | with_reducible apply keeps_ite | split | with_reducible apply keeps_mk | dsimp only)

theorem syncTake_keeps {z : State} (s : State) (n : Nat) (m : SyncMsg) (turn : Nat) (hK : Keeps z s) : Keeps z (syncTake s n m turn) := by
  unfold syncTake
  try dsimp only
  repeat' (first | with_reducible assumption | intro _ | with_reducible apply keeps_ite2 | with_reducible apply keeps_ite3 | with_reducible apply putFld_keeps | with_reducible apply accSet_keeps | with_reducible apply atLeast_keeps | with_reducible apply modAcc_keeps | with_reducible apply emit_keeps | with_reducible apply sbPush_keeps | with_reducible apply keeps_foldl | with_reducible apply keeps_foldl2 | with_reducible apply keeps_foldl3 | with_reducible apply keeps_iter | with_reducible apply keeps_elim | with_reducible apply keeps_ite | split | with_reducible apply keeps_mk | dsimp only)

theorem accJudge_keeps {z : State} (s : State) (n : Nat) (o : Int) (hK : Keeps z s) : Keeps z (accJudge s n o) := by
  unfold accJudge
  try dsimp only
  repeat' (first | with_reducible assumption | intro _ | with_reducible apply keeps_ite2 | with_reducible apply keeps_ite3 | with_reducible apply modAcc_keeps | with_reducible apply accSet_keeps | with_reducible apply keeps_foldl | with_reducible apply keeps_foldl2 | with_reducible apply keeps_foldl3 | with_reducible apply keeps_iter | with_reducible apply keeps_elim | with_reducible apply keeps_ite | split | with_reducible apply keeps_mk | dsimp only)

theorem accCalib_keeps {z : State} (s : State) (n : Nat) (raw : Int) (hK : Keeps z s) : Keeps z (accCalib s n raw) := by
  unfold accCalib
  try dsimp only
  repeat' (first | with_reducible assumption | intro _ | with_reducible apply keeps_ite2 | with_reducible apply keeps_ite3 | with_reducible apply modAcc_keeps | with_reducible apply accSet_keeps | with_reducible apply putReg_keeps | with_reducible apply keeps_foldl | with_reducible apply keeps_foldl2 | with_reducible apply keeps_foldl3 | with_reducible apply keeps_iter | with_reducible apply keeps_elim | with_reducible apply keeps_ite | split | with_reducible apply keeps_mk | dsimp only)

theorem drspTake_keeps {z : State} (s : State) (n : Nat) (t4 : Nat) (hK : Keeps z s) : Keeps z (drspTake s n t4) := by
  unfold drspTake
  try dsimp only
  repeat' (first | with_reducible assumption | intro _ | with_reducible apply keeps_ite2 | with_reducible apply keeps_ite3 | with_reducible apply modAcc_keeps | with_reducible apply putReg_keeps | with_reducible apply accCalib_keeps | with_reducible apply accJudge_keeps | with_reducible apply servo_keeps | with_reducible apply keeps_foldl | with_reducible apply keeps_foldl2 | with_reducible apply keeps_foldl3 | with_reducible apply keeps_iter | with_reducible apply keeps_elim | with_reducible apply keeps_ite | split | with_reducible apply keeps_mk | dsimp only)

theorem accMiss_keeps {z : State} (s : State) (n : Nat) (hK : Keeps z s) : Keeps z (accMiss s n) := by
  unfold accMiss
  try dsimp only
  repeat' (first | with_reducible assumption | intro _ | with_reducible apply keeps_ite2 | with_reducible apply keeps_ite3 | with_reducible apply modAcc_keeps | with_reducible apply accSet_keeps | with_reducible apply keeps_foldl | with_reducible apply keeps_foldl2 | with_reducible apply keeps_foldl3 | with_reducible apply keeps_iter | with_reducible apply keeps_elim | with_reducible apply keeps_ite | split | with_reducible apply keeps_mk | dsimp only)

theorem sbErr_keeps {z : State} (s : State) (n : Nat) (hK : Keeps z s) : Keeps z (sbErr s n) := by
  unfold sbErr
  try dsimp only
  repeat' (first | with_reducible assumption | intro _ | with_reducible apply keeps_ite2 | with_reducible apply keeps_ite3 | with_reducible apply addFld_keeps | with_reducible apply accMiss_keeps | with_reducible apply keeps_foldl | with_reducible apply keeps_foldl2 | with_reducible apply keeps_foldl3 | with_reducible apply keeps_iter | with_reducible apply keeps_elim | with_reducible apply keeps_ite | split | with_reducible apply keeps_mk | dsimp only)

theorem roleWritten_keeps {z : State} (s : State) (n : Nat) (hK : Keeps z s) : Keeps z (roleWritten s n) := by
  unfold roleWritten
  try dsimp only
  repeat' (first | with_reducible assumption | intro _ | with_reducible apply keeps_ite2 | with_reducible apply keeps_ite3 | with_reducible apply accDown_keeps | with_reducible apply accStart_keeps | with_reducible apply keeps_foldl | with_reducible apply keeps_foldl2 | with_reducible apply keeps_foldl3 | with_reducible apply keeps_iter | with_reducible apply keeps_elim | with_reducible apply keeps_ite | split | with_reducible apply keeps_mk | dsimp only)

theorem rtcSetWritten_keeps {z : State} (s : State) (hK : Keeps z s) : Keeps z (rtcSetWritten s) := by
  unfold rtcSetWritten
  try dsimp only
  repeat' (first | with_reducible assumption | intro _ | with_reducible apply keeps_ite2 | with_reducible apply keeps_ite3 | with_reducible apply putBit_keeps | with_reducible apply rtcPut_keeps | with_reducible apply keeps_foldl | with_reducible apply keeps_foldl2 | with_reducible apply keeps_foldl3 | with_reducible apply keeps_iter | with_reducible apply keeps_elim | with_reducible apply keeps_ite | split | with_reducible apply keeps_mk | dsimp only)

theorem rtcLoad_keeps {z : State} (s : State) (hK : Keeps z s) : Keeps z (rtcLoad s) := by
  unfold rtcLoad
  try dsimp only
  repeat' (first | with_reducible assumption | intro _ | with_reducible apply keeps_ite2 | with_reducible apply keeps_ite3 | with_reducible apply atT_keeps | with_reducible apply rtcPut_keeps | with_reducible apply putBit_keeps | with_reducible apply keeps_foldl | with_reducible apply keeps_foldl2 | with_reducible apply keeps_foldl3 | with_reducible apply keeps_iter | with_reducible apply keeps_elim | with_reducible apply keeps_ite | split | with_reducible apply keeps_mk | dsimp only)

theorem ppsRise_keeps {z : State} (s : State) (hK : Keeps z s) : Keeps z (ppsRise s) := by
  unfold ppsRise
  try dsimp only
  repeat' (first | with_reducible assumption | intro _ | with_reducible apply keeps_ite2 | with_reducible apply keeps_ite3 | with_reducible apply atT_keeps | with_reducible apply emit_keeps | with_reducible apply keeps_foldl | with_reducible apply keeps_foldl2 | with_reducible apply keeps_foldl3 | with_reducible apply keeps_iter | with_reducible apply keeps_elim | with_reducible apply keeps_ite | split | with_reducible apply keeps_mk | dsimp only)

theorem ntStart_keeps {z : State} (s : State) (hK : Keeps z s) : Keeps z (ntStart s) := by
  unfold ntStart
  try dsimp only
  repeat' (first | with_reducible assumption | intro _ | with_reducible apply keeps_ite2 | with_reducible apply keeps_ite3 | with_reducible apply putBit_keeps | with_reducible apply keeps_foldl | with_reducible apply keeps_foldl2 | with_reducible apply keeps_foldl3 | with_reducible apply keeps_iter | with_reducible apply keeps_elim | with_reducible apply keeps_ite | split | with_reducible apply keeps_mk | dsimp only)

end Sys2Proof.Machine
end

