-- ==== Sys2Proof/Laws/KeepsLinkOps.lean ====
section
/-! SUPPORT. Every operation of Machine/LinkOps.lean keeps what Safety.lean names. -/

namespace Sys2Proof.Machine

set_option linter.all false

theorem linkTrain_keeps {z : State} (s : State) (n : Nat) (hK : Keeps z s) : Keeps z (linkTrain s n) := by
  unfold linkTrain
  try dsimp only
  repeat' (first | with_reducible assumption | intro _ | with_reducible apply keeps_ite2 | with_reducible apply keeps_ite3 | with_reducible apply bucketRestore_keeps | with_reducible apply putBit_keeps | with_reducible apply llkSet_keeps | with_reducible apply modLink_keeps | with_reducible apply keeps_foldl | with_reducible apply keeps_foldl2 | with_reducible apply keeps_foldl3 | with_reducible apply keeps_iter | with_reducible apply keeps_elim | with_reducible apply keeps_ite | split | with_reducible apply keeps_mk | dsimp only)

theorem linkDown_keeps {z : State} (s : State) (n : Nat) (hK : Keeps z s) : Keeps z (linkDown s n) := by
  unfold linkDown
  try dsimp only
  repeat' (first | with_reducible assumption | intro _ | with_reducible apply keeps_ite2 | with_reducible apply keeps_ite3 | with_reducible apply llkSet_keeps | with_reducible apply llkDrop_keeps | with_reducible apply keeps_foldl | with_reducible apply keeps_foldl2 | with_reducible apply keeps_foldl3 | with_reducible apply keeps_iter | with_reducible apply keeps_elim | with_reducible apply keeps_ite | split | with_reducible apply keeps_mk | dsimp only)

theorem trainDetect_keeps {z : State} (s : State) (n lanes : Nat) (hK : Keeps z s) : Keeps z (trainDetect s n lanes) := by
  unfold trainDetect
  try dsimp only
  repeat' (first | with_reducible assumption | intro _ | with_reducible apply keeps_ite2 | with_reducible apply keeps_ite3 | with_reducible apply modLink_keeps | with_reducible apply llkSet_keeps | with_reducible apply keeps_foldl | with_reducible apply keeps_foldl2 | with_reducible apply keeps_foldl3 | with_reducible apply keeps_iter | with_reducible apply keeps_elim | with_reducible apply keeps_ite | split | with_reducible apply keeps_mk | dsimp only)

theorem trainEqual_keeps {z : State} (s : State) (n : Nat) (hK : Keeps z s) : Keeps z (trainEqual s n) := by
  unfold trainEqual
  try dsimp only
  repeat' (first | with_reducible assumption | intro _ | with_reducible apply keeps_ite2 | with_reducible apply keeps_ite3 | with_reducible apply llkSet_keeps | with_reducible apply keeps_foldl | with_reducible apply keeps_foldl2 | with_reducible apply keeps_foldl3 | with_reducible apply keeps_iter | with_reducible apply keeps_elim | with_reducible apply keeps_ite | split | with_reducible apply keeps_mk | dsimp only)

theorem trainDeskew_keeps {z : State} (s : State) (n skewed : Nat) (hK : Keeps z s) : Keeps z (trainDeskew s n skewed) := by
  unfold trainDeskew
  try dsimp only
  repeat' (first | with_reducible assumption | intro _ | with_reducible apply keeps_ite2 | with_reducible apply keeps_ite3 | with_reducible apply modLink_keeps | with_reducible apply llkSet_keeps | with_reducible apply emit_keeps | with_reducible apply keeps_foldl | with_reducible apply keeps_foldl2 | with_reducible apply keeps_foldl3 | with_reducible apply keeps_iter | with_reducible apply keeps_elim | with_reducible apply keeps_ite | split | with_reducible apply keeps_mk | dsimp only)

theorem trainIdent_keeps {z : State} (s : State) (n pkg plane link : Nat) (hK : Keeps z s) : Keeps z (trainIdent s n pkg plane link) := by
  unfold trainIdent
  try dsimp only
  repeat' (first | with_reducible assumption | intro _ | with_reducible apply keeps_ite2 | with_reducible apply keeps_ite3 | with_reducible apply putReg_keeps | with_reducible apply captureOpen_keeps | with_reducible apply accStart_keeps | with_reducible apply llkSet_keeps | with_reducible apply keeps_foldl | with_reducible apply keeps_foldl2 | with_reducible apply keeps_foldl3 | with_reducible apply keeps_iter | with_reducible apply keeps_elim | with_reducible apply keeps_ite | split | with_reducible apply keeps_mk | dsimp only)

theorem trainTimeout_keeps {z : State} (s : State) (n : Nat) (hK : Keeps z s) : Keeps z (trainTimeout s n) := by
  unfold trainTimeout
  try dsimp only
  repeat' (first | with_reducible assumption | intro _ | with_reducible apply keeps_ite2 | with_reducible apply keeps_ite3 | with_reducible apply atLeast_keeps | with_reducible apply llkSet_keeps | with_reducible apply captureOpen_keeps | with_reducible apply keeps_foldl | with_reducible apply keeps_foldl2 | with_reducible apply keeps_foldl3 | with_reducible apply keeps_iter | with_reducible apply keeps_elim | with_reducible apply keeps_ite | split | with_reducible apply keeps_mk | dsimp only)

theorem linkErr_keeps {z : State} (s : State) (n code : Nat) (hK : Keeps z s) : Keeps z (linkErr s n code) := by
  unfold linkErr
  try dsimp only
  repeat' (first | with_reducible assumption | intro _ | with_reducible apply keeps_ite2 | with_reducible apply keeps_ite3 | with_reducible apply captureOpen_keeps | with_reducible apply bucketErr_keeps | with_reducible apply keeps_foldl | with_reducible apply keeps_foldl2 | with_reducible apply keeps_foldl3 | with_reducible apply keeps_iter | with_reducible apply keeps_elim | with_reducible apply keeps_ite | split | with_reducible apply keeps_mk | dsimp only)

theorem laneErr_keeps {z : State} (n : Nat) (s : State) (k : Nat) (hK : Keeps z s) : Keeps z (laneErr n s k) := by
  unfold laneErr
  try dsimp only
  repeat' (first | with_reducible assumption | intro _ | with_reducible apply keeps_ite2 | with_reducible apply keeps_ite3 | with_reducible apply addFld_keeps | with_reducible apply bucketErr_keeps | with_reducible apply keeps_foldl | with_reducible apply keeps_foldl2 | with_reducible apply keeps_foldl3 | with_reducible apply keeps_iter | with_reducible apply keeps_elim | with_reducible apply keeps_ite | split | with_reducible apply keeps_mk | dsimp only)

theorem blockCount_keeps {z : State} (s : State) (n : Nat) (f : Fec) (hK : Keeps z s) : Keeps z (blockCount s n f) := by
  unfold blockCount
  try dsimp only
  repeat' (first | with_reducible assumption | intro _ | with_reducible apply keeps_ite2 | with_reducible apply keeps_ite3 | with_reducible apply addFld_keeps | with_reducible apply laneErr_keeps | with_reducible apply corrected_keeps | with_reducible apply linkErr_keeps | with_reducible apply keeps_foldl | with_reducible apply keeps_foldl2 | with_reducible apply keeps_foldl3 | with_reducible apply keeps_iter | with_reducible apply keeps_elim | with_reducible apply keeps_ite | split | with_reducible apply keeps_mk | dsimp only)

theorem blockTake_keeps {z : State} (s : State) (n : Nat) (b : LfBlock) (lost far : List Nat) (hK : Keeps z s) : Keeps z (blockTake s n b lost far) := by
  unfold blockTake
  try dsimp only
  repeat' (first | with_reducible assumption | intro _ | with_reducible apply keeps_ite2 | with_reducible apply keeps_ite3 | with_reducible apply takeFree_keeps | with_reducible refine takeFree_keeps2 (by assumption) ?_ | with_reducible apply modLink_keeps | with_reducible apply laneErr_keeps | with_reducible apply blockCount_keeps | with_reducible apply retire_keeps | with_reducible apply keeps_foldl | with_reducible apply keeps_foldl2 | with_reducible apply keeps_foldl3 | with_reducible apply keeps_iter | with_reducible apply keeps_elim | with_reducible apply keeps_ite | split | with_reducible apply keeps_mk | dsimp only)

theorem blockSend_keeps {z : State} (s : State) (n : Nat) (hK : Keeps z s) : Keeps z (blockSend s n) := by
  unfold blockSend
  try dsimp only
  repeat' (first | with_reducible assumption | intro _ | with_reducible apply keeps_ite2 | with_reducible apply keeps_ite3 | with_reducible apply emit_keeps | with_reducible apply modLink_keeps | with_reducible apply keeps_foldl | with_reducible apply keeps_foldl2 | with_reducible apply keeps_foldl3 | with_reducible apply keeps_iter | with_reducible apply keeps_elim | with_reducible apply keeps_ite | split | with_reducible apply keeps_mk | dsimp only)

theorem streamPush_keeps {z : State} (s : State) (n : Nat) (bs : List Byte) (hK : Keeps z s) : Keeps z (streamPush s n bs) := by
  unfold streamPush
  try dsimp only
  repeat' (first | with_reducible assumption | intro _ | with_reducible apply keeps_ite2 | with_reducible apply keeps_ite3 | with_reducible apply modLink_keeps | with_reducible apply keeps_foldl | with_reducible apply keeps_foldl2 | with_reducible apply keeps_foldl3 | with_reducible apply keeps_iter | with_reducible apply keeps_elim | with_reducible apply keeps_ite | split | with_reducible apply keeps_mk | dsimp only)

theorem sendCtrl_keeps {z : State} (s : State) (n : Nat) (rpl : Bool) (hK : Keeps z s) : Keeps z (sendCtrl s n rpl) := by
  unfold sendCtrl
  try dsimp only
  repeat' (first | with_reducible assumption | intro _ | with_reducible apply keeps_ite2 | with_reducible apply keeps_ite3 | with_reducible apply emit_keeps | with_reducible apply streamPush_keeps | with_reducible apply modLink_keeps | with_reducible apply keeps_foldl | with_reducible apply keeps_foldl2 | with_reducible apply keeps_foldl3 | with_reducible apply keeps_iter | with_reducible apply keeps_elim | with_reducible apply keeps_ite | split | with_reducible apply keeps_mk | dsimp only)

theorem progress_keeps {z : State} (s : State) (n : Nat) (hK : Keeps z s) : Keeps z (progress s n) := by
  unfold progress
  try dsimp only
  repeat' (first | with_reducible assumption | intro _ | with_reducible apply keeps_ite2 | with_reducible apply keeps_ite3 | with_reducible apply modLink_keeps | with_reducible apply keeps_foldl | with_reducible apply keeps_foldl2 | with_reducible apply keeps_foldl3 | with_reducible apply keeps_iter | with_reducible apply keeps_elim | with_reducible apply keeps_ite | split | with_reducible apply keeps_mk | dsimp only)

theorem owe_keeps {z : State} (s : State) (n vc flits : Nat) (hK : Keeps z s) : Keeps z (owe s n vc flits) := by
  unfold owe
  try dsimp only
  repeat' (first | with_reducible assumption | intro _ | with_reducible apply keeps_ite2 | with_reducible apply keeps_ite3 | with_reducible apply modLink_keeps | with_reducible apply keeps_foldl | with_reducible apply keeps_foldl2 | with_reducible apply keeps_foldl3 | with_reducible apply keeps_iter | with_reducible apply keeps_elim | with_reducible apply keeps_ite | split | with_reducible apply keeps_mk | dsimp only)

theorem headTake_keeps {z : State} (s : State) (n : Nat) (f : LFrame) (hK : Keeps z s) : Keeps z (headTake s n f) := by
  unfold headTake
  try dsimp only
  repeat' (first | with_reducible assumption | intro _ | with_reducible apply keeps_ite2 | with_reducible apply keeps_ite3 | with_reducible apply modLink_keeps | with_reducible apply progress_keeps | with_reducible apply keeps_foldl | with_reducible apply keeps_foldl2 | with_reducible apply keeps_foldl3 | with_reducible apply keeps_iter | with_reducible apply keeps_elim | with_reducible apply keeps_ite | split | with_reducible apply keeps_mk | dsimp only)

theorem frameRefuse_keeps {z : State} (s : State) (n : Nat) (hK : Keeps z s) : Keeps z (frameRefuse s n) := by
  unfold frameRefuse
  try dsimp only
  repeat' (first | with_reducible assumption | intro _ | with_reducible apply keeps_ite2 | with_reducible apply keeps_ite3 | with_reducible apply modLink_keeps | with_reducible apply sendCtrl_keeps | with_reducible apply keeps_foldl | with_reducible apply keeps_foldl2 | with_reducible apply keeps_foldl3 | with_reducible apply keeps_iter | with_reducible apply keeps_elim | with_reducible apply keeps_ite | split | with_reducible apply keeps_mk | dsimp only)

theorem frameBad_keeps {z : State} (s : State) (n : Nat) (hK : Keeps z s) : Keeps z (frameBad s n) := by
  unfold frameBad
  try dsimp only
  repeat' (first | with_reducible assumption | intro _ | with_reducible apply keeps_ite2 | with_reducible apply keeps_ite3 | with_reducible apply addFld_keeps | with_reducible apply linkErr_keeps | with_reducible apply frameRefuse_keeps | with_reducible apply keeps_foldl | with_reducible apply keeps_foldl2 | with_reducible apply keeps_foldl3 | with_reducible apply keeps_iter | with_reducible apply keeps_elim | with_reducible apply keeps_ite | split | with_reducible apply keeps_mk | dsimp only)

theorem resendAll_keeps {z : State} (s : State) (n : Nat) (hK : Keeps z s) : Keeps z (resendAll s n) := by
  unfold resendAll
  try dsimp only
  repeat' (first | with_reducible assumption | intro _ | with_reducible apply keeps_ite2 | with_reducible apply keeps_ite3 | with_reducible apply modLink_keeps | with_reducible apply emit_keeps | with_reducible apply streamPush_keeps | with_reducible apply progress_keeps | with_reducible apply keeps_foldl | with_reducible apply keeps_foldl2 | with_reducible apply keeps_foldl3 | with_reducible apply keeps_iter | with_reducible apply keeps_elim | with_reducible apply keeps_ite | split | with_reducible apply keeps_mk | dsimp only)

theorem replay_keeps {z : State} (s : State) (n : Nat) (hK : Keeps z s) : Keeps z (replay s n) := by
  unfold replay
  try dsimp only
  repeat' (first | with_reducible assumption | intro _ | with_reducible apply keeps_ite2 | with_reducible apply keeps_ite3 | with_reducible apply addFld_keeps | with_reducible apply modLink_keeps | with_reducible apply sillage_keeps | with_reducible apply bucketErr_keeps | with_reducible apply captureOpen_keeps | with_reducible apply retire_keeps | with_reducible apply resendAll_keeps | with_reducible apply keeps_foldl | with_reducible apply keeps_foldl2 | with_reducible apply keeps_foldl3 | with_reducible apply keeps_iter | with_reducible apply keeps_elim | with_reducible apply keeps_ite | split | with_reducible apply keeps_mk | dsimp only)

theorem linkIn_keeps {z : State} (s : State) (n vc : Nat) (p : Packet) (hK : Keeps z s) : Keeps z (linkIn s n vc p) := by
  unfold linkIn
  try dsimp only
  repeat' (first | with_reducible assumption | intro _ | with_reducible apply keeps_ite2 | with_reducible apply keeps_ite3 | with_reducible apply modDie_keeps | with_reducible apply meterPass_keeps | with_reducible refine meterPass_keeps2 (by assumption) ?_ | with_reducible apply pass_keeps | with_reducible apply owe_keeps | with_reducible apply keeps_foldl | with_reducible apply keeps_foldl2 | with_reducible apply keeps_foldl3 | with_reducible apply keeps_iter | with_reducible apply keeps_elim | with_reducible apply keeps_ite | split | with_reducible apply keeps_mk | dsimp only)

theorem dataFrame_keeps {z : State} (s : State) (n : Nat) (f : LFrame) (p : Packet) (hK : Keeps z s) : Keeps z (dataFrame s n f p) := by
  unfold dataFrame
  try dsimp only
  repeat' (first | with_reducible assumption | intro _ | with_reducible apply keeps_ite2 | with_reducible apply keeps_ite3 | with_reducible apply frameBad_keeps | with_reducible apply frameRefuse_keeps | with_reducible apply headTake_keeps | with_reducible apply modLink_keeps | with_reducible apply linkIn_keeps | with_reducible apply replay_keeps | with_reducible apply sendCtrl_keeps | with_reducible apply keeps_foldl | with_reducible apply keeps_foldl2 | with_reducible apply keeps_foldl3 | with_reducible apply keeps_iter | with_reducible apply keeps_elim | with_reducible apply keeps_ite | split | with_reducible apply keeps_mk | dsimp only)

theorem ctrlFrame_keeps {z : State} (s : State) (n : Nat) (f : LFrame) (hK : Keeps z s) : Keeps z (ctrlFrame s n f) := by
  unfold ctrlFrame
  try dsimp only
  repeat' (first | with_reducible assumption | intro _ | with_reducible apply keeps_ite2 | with_reducible apply keeps_ite3 | with_reducible apply headTake_keeps | with_reducible apply frameBad_keeps | with_reducible apply replay_keeps | with_reducible apply keeps_foldl | with_reducible apply keeps_foldl2 | with_reducible apply keeps_foldl3 | with_reducible apply keeps_iter | with_reducible apply keeps_elim | with_reducible apply keeps_ite | split | with_reducible apply keeps_mk | dsimp only)

theorem llkFix_keeps {z : State} (s : State) (n : Nat) (hK : Keeps z s) : Keeps z (llkFix s n) := by
  unfold llkFix
  try dsimp only
  repeat' (first | with_reducible assumption | intro _ | with_reducible apply keeps_ite2 | with_reducible apply keeps_ite3 | with_reducible apply schFix_keeps | with_reducible apply keeps_foldl | with_reducible apply keeps_foldl2 | with_reducible apply keeps_foldl3 | with_reducible apply keeps_iter | with_reducible apply keeps_elim | with_reducible apply keeps_ite | split | with_reducible apply keeps_mk | dsimp only)

theorem oswRefuse_keeps {z : State} (s : State) (d : Nat) (p : Packet) (reason : Nat) (hK : Keeps z s) : Keeps z (oswRefuse s d p reason) := by
  unfold oswRefuse
  try dsimp only
  repeat' (first | with_reducible assumption | intro _ | with_reducible apply keeps_ite2 | with_reducible apply keeps_ite3 | with_reducible apply addFld_keeps | with_reducible apply captureOpen_keeps | with_reducible apply modDie_keeps | with_reducible apply keeps_foldl | with_reducible apply keeps_foldl2 | with_reducible apply keeps_foldl3 | with_reducible apply keeps_iter | with_reducible apply keeps_elim | with_reducible apply keeps_ite | split | with_reducible apply keeps_mk | dsimp only)

theorem oswRoute_keeps {z : State} (s : State) (d : Nat) (x : Transit) (hK : Keeps z s) : Keeps z (oswRoute s d x) := by
  unfold oswRoute
  try dsimp only
  repeat' (first | with_reducible assumption | intro _ | with_reducible apply keeps_ite2 | with_reducible apply keeps_ite3 | with_reducible apply modDie_keeps | with_reducible apply oswRefuse_keeps | with_reducible apply llkFix_keeps | with_reducible apply modLink_keeps | with_reducible apply keeps_foldl | with_reducible apply keeps_foldl2 | with_reducible apply keeps_foldl3 | with_reducible apply keeps_iter | with_reducible apply keeps_elim | with_reducible apply keeps_ite | split | with_reducible apply keeps_mk | dsimp only)

theorem oswPacket_keeps {z : State} (s : State) (d : Nat) (hK : Keeps z s) : Keeps z (oswPacket s d) := by
  unfold oswPacket
  try dsimp only
  repeat' (first | with_reducible assumption | intro _ | with_reducible apply keeps_ite2 | with_reducible apply keeps_ite3 | with_reducible apply modDie_keeps | with_reducible apply owe_keeps | with_reducible apply oswRoute_keeps | with_reducible apply keeps_foldl | with_reducible apply keeps_foldl2 | with_reducible apply keeps_foldl3 | with_reducible apply keeps_iter | with_reducible apply keeps_elim | with_reducible apply keeps_ite | split | with_reducible apply keeps_mk | dsimp only)

theorem frameSend_keeps {z : State} (s : State) (n k : Nat) (x : Transit) (hK : Keeps z s) : Keeps z (frameSend s n k x) := by
  unfold frameSend
  try dsimp only
  repeat' (first | with_reducible assumption | intro _ | with_reducible apply keeps_ite2 | with_reducible apply keeps_ite3 | with_reducible apply modLink_keeps | with_reducible apply progress_keeps | with_reducible apply emit_keeps | with_reducible apply streamPush_keeps | with_reducible apply keeps_foldl | with_reducible apply keeps_foldl2 | with_reducible apply keeps_foldl3 | with_reducible apply keeps_iter | with_reducible apply keeps_elim | with_reducible apply keeps_ite | split | with_reducible apply keeps_mk | dsimp only)

theorem llkStart_keeps {z : State} (s : State) (n : Nat) (hK : Keeps z s) : Keeps z (llkStart s n) := by
  unfold llkStart
  try dsimp only
  repeat' (first | with_reducible assumption | intro _ | with_reducible apply keeps_ite2 | with_reducible apply keeps_ite3 | with_reducible apply gDue_keeps | with_reducible apply llkFix_keeps | with_reducible apply frameSend_keeps | with_reducible apply egStart_keeps | with_reducible apply keeps_foldl | with_reducible apply keeps_foldl2 | with_reducible apply keeps_foldl3 | with_reducible apply keeps_iter | with_reducible apply keeps_elim | with_reducible apply keeps_ite | split | with_reducible apply keeps_mk | dsimp only)

end Sys2Proof.Machine
end

