-- ==== Sys2Proof/Laws/KeepsScrOps.lean ====
section
/-! SUPPORT. Every operation of Machine/ScrOps.lean keeps what Safety.lean names. -/

namespace Sys2Proof.Machine

set_option linter.all false

theorem bucketLeak_keeps {z : State} (s : State) (kind inst : Nat) (hK : Keeps z s) : Keeps z (bucketLeak s kind inst) := by
  unfold bucketLeak
  try dsimp only
  repeat' (first | with_reducible assumption | intro _ | with_reducible apply keeps_ite2 | with_reducible apply keeps_ite3 | with_reducible apply atLeast_keeps | with_reducible apply setBkt_keeps | with_reducible apply keeps_foldl | with_reducible apply keeps_foldl2 | with_reducible apply keeps_foldl3 | with_reducible apply keeps_iter | with_reducible apply keeps_elim | with_reducible apply keeps_ite | split | with_reducible apply keeps_mk | dsimp only)

theorem bucketsWritten_keeps {z : State} (s : State) (kind : Nat) (hK : Keeps z s) : Keeps z (bucketsWritten s kind) := by
  unfold bucketsWritten
  try dsimp only
  repeat' (first | with_reducible assumption | intro _ | with_reducible apply keeps_ite2 | with_reducible apply keeps_ite3 | with_reducible apply setBkt_keeps | with_reducible apply retire_keeps | with_reducible apply keeps_foldl | with_reducible apply keeps_foldl2 | with_reducible apply keeps_foldl3 | with_reducible apply keeps_iter | with_reducible apply keeps_elim | with_reducible apply keeps_ite | split | with_reducible apply keeps_mk | dsimp only)

theorem scrRetire_keeps {z : State} (s : State) (kind inst : Nat) (hK : Keeps z s) : Keeps z (scrRetire s kind inst) := by
  unfold scrRetire
  try dsimp only
  repeat' (first | with_reducible assumption | intro _ | with_reducible apply keeps_ite2 | with_reducible apply keeps_ite3 | with_reducible apply retire_keeps | with_reducible apply keeps_foldl | with_reducible apply keeps_foldl2 | with_reducible apply keeps_foldl3 | with_reducible apply keeps_iter | with_reducible apply keeps_elim | with_reducible apply keeps_ite | split | with_reducible apply keeps_mk | dsimp only)

theorem rlogPop_keeps {z : State} (s : State) (hK : Keeps z s) : Keeps z (rlogPop s) := by
  unfold rlogPop
  try dsimp only
  repeat' (first | with_reducible assumption | intro _ | with_reducible apply keeps_ite2 | with_reducible apply keeps_ite3 | with_reducible apply keeps_foldl | with_reducible apply keeps_foldl2 | with_reducible apply keeps_foldl3 | with_reducible apply keeps_iter | with_reducible apply keeps_elim | with_reducible apply keeps_ite | split | with_reducible apply keeps_mk | dsimp only)

theorem fullerOne_keeps {z : State} (s : State) (d : CopyDiff) (hK : Keeps z s) : Keeps z (fullerOne s d) := by
  unfold fullerOne
  try dsimp only
  repeat' (first | with_reducible assumption | intro _ | with_reducible apply keeps_ite2 | with_reducible apply keeps_ite3 | with_reducible apply addFld_keeps | with_reducible apply capture_keeps | with_reducible apply captureOpen_keeps | with_reducible apply gclHalt_keeps | with_reducible apply bucketErr_keeps | with_reducible apply keeps_foldl | with_reducible apply keeps_foldl2 | with_reducible apply keeps_foldl3 | with_reducible apply keeps_iter | with_reducible apply keeps_elim | with_reducible apply keeps_ite | split | with_reducible apply keeps_mk | dsimp only)

theorem fullerPass_keeps {z : State} (s : State) (ds : List CopyDiff) (hK : Keeps z s) : Keeps z (fullerPass s ds) := by
  unfold fullerPass
  try dsimp only
  repeat' (first | with_reducible assumption | intro _ | with_reducible apply keeps_ite2 | with_reducible apply keeps_ite3 | with_reducible apply atLeast_keeps | with_reducible apply addFld_keeps | with_reducible apply fullerOne_keeps | with_reducible apply keeps_foldl | with_reducible apply keeps_foldl2 | with_reducible apply keeps_foldl3 | with_reducible apply keeps_iter | with_reducible apply keeps_elim | with_reducible apply keeps_ite | split | with_reducible apply keeps_mk | dsimp only)

theorem movTimeout_keeps {z : State} (s : State) (t : Nat) (tag : Half) (hK : Keeps z s) : Keeps z (movTimeout s t tag) := by
  unfold movTimeout
  try dsimp only
  repeat' (first | with_reducible assumption | intro _ | with_reducible apply keeps_ite2 | with_reducible apply keeps_ite3 | with_reducible apply atLeast_keeps | with_reducible apply modTile_keeps | with_reducible apply movPump_keeps | with_reducible apply reqFail_keeps | with_reducible apply resvAnswer_keeps | with_reducible apply keeps_foldl | with_reducible apply keeps_foldl2 | with_reducible apply keeps_foldl3 | with_reducible apply keeps_iter | with_reducible apply keeps_elim | with_reducible apply keeps_ite | split | with_reducible apply keeps_mk | dsimp only)

theorem tagLate_keeps {z : State} (s : State) (t ep : Nat) (tag : Half) (hK : Keeps z s) : Keeps z (tagLate s t ep tag) := by
  unfold tagLate
  try dsimp only
  repeat' (first | with_reducible assumption | intro _ | with_reducible apply keeps_ite2 | with_reducible apply keeps_ite3 | with_reducible apply modTile_keeps | with_reducible apply keeps_foldl | with_reducible apply keeps_foldl2 | with_reducible apply keeps_foldl3 | with_reducible apply keeps_iter | with_reducible apply keeps_elim | with_reducible apply keeps_ite | split | with_reducible apply keeps_mk | dsimp only)

theorem cmbTimeout_keeps {z : State} (s : State) (t n : Nat) (tag : Half) (hK : Keeps z s) : Keeps z (cmbTimeout s t n tag) := by
  unfold cmbTimeout
  try dsimp only
  repeat' (first | with_reducible assumption | intro _ | with_reducible apply keeps_ite2 | with_reducible apply keeps_ite3 | with_reducible apply atLeast_keeps | with_reducible apply cqAdvance_keeps | with_reducible apply resPut_keeps | with_reducible apply cqFail_keeps | with_reducible apply tagLate_keeps | with_reducible apply keeps_foldl | with_reducible apply keeps_foldl2 | with_reducible apply keeps_foldl3 | with_reducible apply keeps_iter | with_reducible apply keeps_elim | with_reducible apply keeps_ite | split | with_reducible apply keeps_mk | dsimp only)

theorem tilTimeout_keeps {z : State} (s : State) (t i : Nat) (hK : Keeps z s) : Keeps z (tilTimeout s t i) := by
  unfold tilTimeout
  try dsimp only
  repeat' (first | with_reducible assumption | intro _ | with_reducible apply keeps_ite2 | with_reducible apply keeps_ite3 | with_reducible apply leaseSet_keeps | with_reducible apply tagLate_keeps | with_reducible apply atLeast_keeps | with_reducible apply keeps_foldl | with_reducible apply keeps_foldl2 | with_reducible apply keeps_foldl3 | with_reducible apply keeps_iter | with_reducible apply keeps_elim | with_reducible apply keeps_ite | split | with_reducible apply keeps_mk | dsimp only)

theorem respTimeout_keeps {z : State} (s : State) (r : Requester) (hK : Keeps z s) : Keeps z (respTimeout s r) := by
  unfold respTimeout
  try dsimp only
  repeat' (first | with_reducible assumption | intro _ | with_reducible apply keeps_ite2 | with_reducible apply keeps_ite3 | with_reducible apply movTimeout_keeps | with_reducible apply cmbTimeout_keeps | with_reducible apply tilTimeout_keeps | with_reducible apply keeps_foldl | with_reducible apply keeps_foldl2 | with_reducible apply keeps_foldl3 | with_reducible apply keeps_iter | with_reducible apply keeps_elim | with_reducible apply keeps_ite | split | with_reducible apply keeps_mk | dsimp only)

theorem tagFree_keeps {z : State} (s : State) (t : Nat) (tag : Half) (hK : Keeps z s) : Keeps z (tagFree s t tag) := by
  unfold tagFree
  try dsimp only
  repeat' (first | with_reducible assumption | intro _ | with_reducible apply keeps_ite2 | with_reducible apply keeps_ite3 | with_reducible apply modTile_keeps | with_reducible apply atLeast_keeps | with_reducible apply keeps_foldl | with_reducible apply keeps_foldl2 | with_reducible apply keeps_foldl3 | with_reducible apply keeps_iter | with_reducible apply keeps_elim | with_reducible apply keeps_ite | split | with_reducible apply keeps_mk | dsimp only)

theorem watchdog_keeps {z : State} (s : State) (t : Nat) (hK : Keeps z s) : Keeps z (watchdog s t) := by
  unfold watchdog
  try dsimp only
  repeat' (first | with_reducible assumption | intro _ | with_reducible apply keeps_ite2 | with_reducible apply keeps_ite3 | with_reducible apply atLeast_keeps | with_reducible apply isolate_keeps | with_reducible apply captureOpen_keeps | with_reducible apply keeps_foldl | with_reducible apply keeps_foldl2 | with_reducible apply keeps_foldl3 | with_reducible apply keeps_iter | with_reducible apply keeps_elim | with_reducible apply keeps_ite | split | with_reducible apply keeps_mk | dsimp only)

end Sys2Proof.Machine
end

