-- ==== Sys2Proof/Laws/KeepsDebugOps.lean ====
section
/-! SUPPORT. Every operation of Machine/DebugOps.lean keeps what Safety.lean names. -/

namespace Sys2Proof.Machine

set_option linter.all false

theorem blockHalt_keeps {z : State} (s : State) (p : Page) (hK : Keeps z s) : Keeps z (blockHalt s p) := by
  unfold blockHalt
  try dsimp only
  repeat' (first | with_reducible assumption | intro _ | with_reducible apply keeps_ite2 | with_reducible apply keeps_ite3 | with_reducible apply putBit_keeps | with_reducible apply sillage_keeps | with_reducible apply keeps_foldl | with_reducible apply keeps_foldl2 | with_reducible apply keeps_foldl3 | with_reducible apply keeps_iter | with_reducible apply keeps_elim | with_reducible apply keeps_ite | split | with_reducible apply keeps_mk | dsimp only)

theorem shiftTimers_keeps {z : State} (s : State) (p : Page) (d : Nat) (hK : Keeps z s) : Keeps z (shiftTimers s p d) := by
  unfold shiftTimers
  try dsimp only
  repeat' (first | with_reducible assumption | intro _ | with_reducible apply keeps_ite2 | with_reducible apply keeps_ite3 | with_reducible apply modTile_keeps | with_reducible apply modLink_keeps | with_reducible apply keeps_foldl | with_reducible apply keeps_foldl2 | with_reducible apply keeps_foldl3 | with_reducible apply keeps_iter | with_reducible apply keeps_elim | with_reducible apply keeps_ite | split | with_reducible apply keeps_mk | dsimp only)

theorem blockGo_keeps {z : State} (s : State) (p : Page) (hK : Keeps z s) : Keeps z (blockGo s p) := by
  unfold blockGo
  try dsimp only
  repeat' (first | with_reducible assumption | intro _ | with_reducible apply keeps_ite2 | with_reducible apply keeps_ite3 | with_reducible apply movPump_keeps | with_reducible apply cmbPump_keeps | with_reducible apply resendAll_keeps | with_reducible apply keeps_foldl | with_reducible apply keeps_foldl2 | with_reducible apply keeps_foldl3 | with_reducible apply keeps_iter | with_reducible apply keeps_elim | with_reducible apply keeps_ite | split | with_reducible apply keeps_mk | dsimp only)

theorem blockRelease_keeps {z : State} (s : State) (e : Nat × Nat) (hK : Keeps z s) : Keeps z (blockRelease s e) := by
  unfold blockRelease
  try dsimp only
  repeat' (first | with_reducible assumption | intro _ | with_reducible apply keeps_ite2 | with_reducible apply keeps_ite3 | with_reducible apply putBit_keeps | with_reducible apply sillage_keeps | with_reducible apply shiftTimers_keeps | with_reducible apply blockGo_keeps | with_reducible apply keeps_foldl | with_reducible apply keeps_foldl2 | with_reducible apply keeps_foldl3 | with_reducible apply keeps_iter | with_reducible apply keeps_elim | with_reducible apply keeps_ite | split | with_reducible apply keeps_mk | dsimp only)

theorem dbgResume_keeps {z : State} (s : State) (from_ : Option Nat) (hK : Keeps z s) : Keeps z (dbgResume s from_) := by
  unfold dbgResume
  try dsimp only
  repeat' (first | with_reducible assumption | intro _ | with_reducible apply keeps_ite2 | with_reducible apply keeps_ite3 | with_reducible apply blockRelease_keeps | with_reducible apply emit_keeps | with_reducible apply isrBit_keeps | with_reducible apply sendWave_keeps | with_reducible apply keeps_foldl | with_reducible apply keeps_foldl2 | with_reducible apply keeps_foldl3 | with_reducible apply keeps_iter | with_reducible apply keeps_elim | with_reducible apply keeps_ite | split | with_reducible apply keeps_mk | dsimp only)

theorem freezeNote_keeps {z : State} (s : State) (code : Nat) (hK : Keeps z s) : Keeps z (freezeNote s code) := by
  unfold freezeNote
  try dsimp only
  repeat' (first | with_reducible assumption | intro _ | with_reducible apply keeps_ite2 | with_reducible apply keeps_ite3 | with_reducible apply sillage_keeps | with_reducible apply keeps_foldl | with_reducible apply keeps_foldl2 | with_reducible apply keeps_foldl3 | with_reducible apply keeps_iter | with_reducible apply keeps_elim | with_reducible apply keeps_ite | split | with_reducible apply keeps_mk | dsimp only)

theorem dbgFreeze_keeps {z : State} (s : State) (from_ : Option Nat) (hK : Keeps z s) : Keeps z (dbgFreeze s from_) := by
  unfold dbgFreeze
  try dsimp only
  repeat' (first | with_reducible assumption | intro _ | with_reducible apply keeps_ite2 | with_reducible apply keeps_ite3 | with_reducible apply sendWave_keeps | with_reducible apply isrBit_keeps | with_reducible apply freezeNote_keeps | with_reducible apply keeps_foldl | with_reducible apply keeps_foldl2 | with_reducible apply keeps_foldl3 | with_reducible apply keeps_iter | with_reducible apply keeps_elim | with_reducible apply keeps_ite | split | with_reducible apply keeps_mk | dsimp only)

theorem dbgUnfreeze_keeps {z : State} (s : State) (from_ : Option Nat) (hK : Keeps z s) : Keeps z (dbgUnfreeze s from_) := by
  unfold dbgUnfreeze
  try dsimp only
  repeat' (first | with_reducible assumption | intro _ | with_reducible apply keeps_ite2 | with_reducible apply keeps_ite3 | with_reducible apply sendWave_keeps | with_reducible apply freezeNote_keeps | with_reducible apply keeps_foldl | with_reducible apply keeps_foldl2 | with_reducible apply keeps_foldl3 | with_reducible apply keeps_iter | with_reducible apply keeps_elim | with_reducible apply keeps_ite | split | with_reducible apply keeps_mk | dsimp only)

theorem waveTake_keeps {z : State} (s : State) (n : Nat) (code : Nat) (hK : Keeps z s) : Keeps z (waveTake s n code) := by
  unfold waveTake
  try dsimp only
  repeat' (first | with_reducible assumption | intro _ | with_reducible apply keeps_ite2 | with_reducible apply keeps_ite3 | with_reducible apply stopTrigger_keeps | with_reducible apply dbgResume_keeps | with_reducible apply dbgFreeze_keeps | with_reducible apply dbgUnfreeze_keeps | with_reducible apply keeps_foldl | with_reducible apply keeps_foldl2 | with_reducible apply keeps_foldl3 | with_reducible apply keeps_iter | with_reducible apply keeps_elim | with_reducible apply keeps_ite | split | with_reducible apply keeps_mk | dsimp only)

theorem pkgCtlWritten_keeps {z : State} (s : State) (v : Word) (hK : Keeps z s) : Keeps z (pkgCtlWritten s v) := by
  unfold pkgCtlWritten
  try dsimp only
  repeat' (first | with_reducible assumption | intro _ | with_reducible apply keeps_ite2 | with_reducible apply keeps_ite3 | with_reducible apply stopTrigger_keeps | with_reducible apply dbgResume_keeps | with_reducible apply dbgFreeze_keeps | with_reducible apply dbgUnfreeze_keeps | with_reducible apply keeps_foldl | with_reducible apply keeps_foldl2 | with_reducible apply keeps_foldl3 | with_reducible apply keeps_iter | with_reducible apply keeps_elim | with_reducible apply keeps_ite | split | with_reducible apply keeps_mk | dsimp only)

theorem sampleSend_keeps {z : State} (s : State) (t : Nat) (hK : Keeps z s) : Keeps z (sampleSend s t) := by
  unfold sampleSend
  try dsimp only
  repeat' (first | with_reducible assumption | intro _ | with_reducible apply keeps_ite2 | with_reducible apply keeps_ite3 | with_reducible apply atT_keeps | with_reducible apply modTile_keeps | with_reducible apply traceSend_keeps | with_reducible apply keeps_foldl | with_reducible apply keeps_foldl2 | with_reducible apply keeps_foldl3 | with_reducible apply keeps_iter | with_reducible apply keeps_elim | with_reducible apply keeps_ite | split | with_reducible apply keeps_mk | dsimp only)

end Sys2Proof.Machine
end

