-- ==== Sys2Proof/Laws/KeepsEdgeOps.lean ====
section
/-! SUPPORT. Every operation of Machine/EdgeOps.lean keeps what Safety.lean names. -/

namespace Sys2Proof.Machine

set_option linter.all false

theorem serveEdge_keeps {z : State} (s : State) (p : Place) (q : Packet) (act : State → State) (hK : Keeps z s) (hact : ∀ x : State, Keeps z x → Keeps z (act x)) : Keeps z (serveEdge s p q act) := by
  unfold serveEdge
  try dsimp only
  repeat' (first | with_reducible assumption | intro _ | with_reducible apply keeps_ite2 | with_reducible apply keeps_ite3 | with_reducible apply answerAt_keeps | with_reducible apply popReq_keeps | with_reducible apply hact | with_reducible apply keeps_foldl | with_reducible apply keeps_foldl2 | with_reducible apply keeps_foldl3 | with_reducible apply keeps_iter | with_reducible apply keeps_elim | with_reducible apply keeps_ite | split | with_reducible apply keeps_mk | dsimp only)

theorem memServe_keeps {z : State} (s : State) (x e : Nat) (q : Packet) (act : State → State) (hK : Keeps z s) (hact : ∀ x : State, Keeps z x → Keeps z (act x)) : Keeps z (memServe s x e q act) := by
  unfold memServe
  try dsimp only
  repeat' (first | with_reducible assumption | intro _ | with_reducible apply keeps_ite2 | with_reducible apply keeps_ite3 | with_reducible apply answerAt_keeps | with_reducible apply captureOpen_keeps | with_reducible apply serveEdge_keeps | with_reducible apply hact | with_reducible apply keeps_foldl | with_reducible apply keeps_foldl2 | with_reducible apply keeps_foldl3 | with_reducible apply keeps_iter | with_reducible apply keeps_elim | with_reducible apply keeps_ite | split | with_reducible apply keeps_mk | dsimp only)

theorem memUE_keeps {z : State} (s : State) (x e u : Nat) (tag layer oper : Half) (hK : Keeps z s) : Keeps z (memUE s x e u tag layer oper) := by
  unfold memUE
  try dsimp only
  repeat' (first | with_reducible assumption | intro _ | with_reducible apply keeps_ite2 | with_reducible apply keeps_ite3 | with_reducible apply putReg_keeps | with_reducible apply uncorrected_keeps | with_reducible apply bucketErr_keeps | with_reducible apply keeps_foldl | with_reducible apply keeps_foldl2 | with_reducible apply keeps_foldl3 | with_reducible apply keeps_iter | with_reducible apply keeps_elim | with_reducible apply keeps_ite | split | with_reducible apply keeps_mk | dsimp only)

theorem memReadUnit_keeps {z : State} (x e : Nat) (q : Packet) (s : State) (u : Nat) (hK : Keeps z s) : Keeps z (memReadUnit x e q s u) := by
  unfold memReadUnit
  try dsimp only
  repeat' (first | with_reducible assumption | intro _ | with_reducible apply keeps_ite2 | with_reducible apply keeps_ite3 | with_reducible apply clearUnit_keeps | with_reducible apply corrected_keeps | with_reducible apply memUE_keeps | with_reducible apply keeps_foldl | with_reducible apply keeps_foldl2 | with_reducible apply keeps_foldl3 | with_reducible apply keeps_iter | with_reducible apply keeps_elim | with_reducible apply keeps_ite | split | with_reducible apply keeps_mk | dsimp only)

theorem memPar_keeps {z : State} (s : State) (x e : Nat) (tag layer oper : Half) (hK : Keeps z s) : Keeps z (memPar s x e tag layer oper) := by
  unfold memPar
  try dsimp only
  repeat' (first | with_reducible assumption | intro _ | with_reducible apply keeps_ite2 | with_reducible apply keeps_ite3 | with_reducible apply uncorrected_keeps | with_reducible apply bucketErr_keeps | with_reducible apply keeps_foldl | with_reducible apply keeps_foldl2 | with_reducible apply keeps_foldl3 | with_reducible apply keeps_iter | with_reducible apply keeps_elim | with_reducible apply keeps_ite | split | with_reducible apply keeps_mk | dsimp only)

theorem memRead_keeps {z : State} (s : State) (x e : Nat) (q : Packet) (par : Bool) (hK : Keeps z s) : Keeps z (memRead s x e q par) := by
  unfold memRead
  try dsimp only
  repeat' (first | with_reducible assumption | intro _ | with_reducible apply keeps_ite2 | with_reducible apply keeps_ite3 | with_reducible apply answerAt_keeps | with_reducible apply memReadUnit_keeps | with_reducible apply memPar_keeps | with_reducible apply keeps_foldl | with_reducible apply keeps_foldl2 | with_reducible apply keeps_foldl3 | with_reducible apply keeps_iter | with_reducible apply keeps_elim | with_reducible apply keeps_ite | split | with_reducible apply keeps_mk | dsimp only)

theorem memWrite_keeps {z : State} (s : State) (a : Nat) (bs : List Byte) (hK : Keeps z s) : Keeps z (memWrite s a bs).2 := by
  unfold memWrite
  try dsimp only
  repeat' (first | with_reducible assumption | intro _ | with_reducible apply keeps_ite2 | with_reducible apply keeps_ite3 | with_reducible apply memStore_keeps | with_reducible apply keeps_foldl | with_reducible apply keeps_foldl2 | with_reducible apply keeps_foldl3 | with_reducible apply keeps_iter | with_reducible apply keeps_elim | with_reducible apply keeps_ite | split | with_reducible apply keeps_mk | dsimp only)

theorem memWrite_keeps2 {z : State} {s : State} {a : Nat} {bs : List Byte} {rK} {sK : State} (e : memWrite s a bs = (rK, sK)) (hK : Keeps z s) : Keeps z sK := by
  have k := memWrite_keeps (z := z) s a bs hK
  rw [e] at k; exact k

theorem memWriteReq_keeps {z : State} (s : State) (x e : Nat) (q : Packet) (par : Bool) (hK : Keeps z s) : Keeps z (memWriteReq s x e q par) := by
  unfold memWriteReq
  try dsimp only
  repeat' (first | with_reducible assumption | intro _ | with_reducible apply keeps_ite2 | with_reducible apply keeps_ite3 | with_reducible apply answerAt_keeps | with_reducible apply ackAt_keeps | with_reducible apply memPar_keeps | with_reducible apply memWrite_keeps | with_reducible refine memWrite_keeps2 (by assumption) ?_ | with_reducible apply keeps_foldl | with_reducible apply keeps_foldl2 | with_reducible apply keeps_foldl3 | with_reducible apply keeps_iter | with_reducible apply keeps_elim | with_reducible apply keeps_ite | split | with_reducible apply keeps_mk | dsimp only)

end Sys2Proof.Machine
end

