-- ==== Sys2Proof/Laws/KeepsDmaOps.lean ====
section
/-! SUPPORT. Every operation of Machine/DmaOps.lean keeps what Safety.lean names. -/

namespace Sys2Proof.Machine

set_option linter.all false

theorem dmaPort_keeps {z : State} (s : State) (q : Packet) (hK : Keeps z s) : Keeps z (dmaPort s q) := by
  unfold dmaPort
  try dsimp only
  repeat' (first | with_reducible assumption | intro _ | with_reducible apply keeps_ite2 | with_reducible apply keeps_ite3 | with_reducible apply rtrEvent_keeps | with_reducible apply stallOver_keeps | with_reducible apply keeps_foldl | with_reducible apply keeps_foldl2 | with_reducible apply keeps_foldl3 | with_reducible apply keeps_iter | with_reducible apply keeps_elim | with_reducible apply keeps_ite | split | with_reducible apply keeps_mk | dsimp only)

theorem dmaReadOne_keeps {z : State} (s0 : State) (q : Packet) (hK : Keeps z s0) : Keeps z (dmaReadOne s0 q).2.2 := by
  unfold dmaReadOne
  try dsimp only
  repeat' (first | with_reducible assumption | intro _ | with_reducible apply keeps_ite2 | with_reducible apply keeps_ite3 | with_reducible apply dmaPort_keeps | with_reducible apply tileRead_keeps | with_reducible refine tileRead_keeps2 (by assumption) ?_ | with_reducible apply memReadUnit_keeps | with_reducible apply keeps_foldl | with_reducible apply keeps_foldl2 | with_reducible apply keeps_foldl3 | with_reducible apply keeps_iter | with_reducible apply keeps_elim | with_reducible apply keeps_ite | split | with_reducible apply keeps_mk | dsimp only)

theorem dmaReadOne_keeps2 {z : State} {s0 : State} {q : Packet} {rK} {qK} {sK : State} (e : dmaReadOne s0 q = (rK, qK, sK)) (hK : Keeps z s0)  : Keeps z sK := by
  have k := dmaReadOne_keeps (z := z) s0 q hK 
  rw [e] at k; exact k

theorem dmaWriteOne_keeps {z : State} (s0 : State) (q : Packet) (hK : Keeps z s0) : Keeps z (dmaWriteOne s0 q).2 := by
  unfold dmaWriteOne
  try dsimp only
  repeat' (first | with_reducible assumption | intro _ | with_reducible apply keeps_ite2 | with_reducible apply keeps_ite3 | with_reducible apply dmaPort_keeps | with_reducible apply memStore_keeps | with_reducible apply memWrite_keeps | with_reducible refine memWrite_keeps2 (by assumption) ?_ | with_reducible apply keeps_foldl | with_reducible apply keeps_foldl2 | with_reducible apply keeps_foldl3 | with_reducible apply keeps_iter | with_reducible apply keeps_elim | with_reducible apply keeps_ite | split | with_reducible apply keeps_mk | dsimp only)

theorem dmaWriteOne_keeps2 {z : State} {s0 : State} {q : Packet} {rK} {sK : State} (e : dmaWriteOne s0 q = (rK, sK)) (hK : Keeps z s0)  : Keeps z sK := by
  have k := dmaWriteOne_keeps (z := z) s0 q hK 
  rw [e] at k; exact k

theorem dmaRead_keeps {z : State} (s : State) (by_ : DmaBy) (tn : Word) (a n : Nat) (hK : Keeps z s) : Keeps z (dmaRead s by_ tn a n).2.2 := by
  unfold dmaRead
  try dsimp only
  repeat' (first | with_reducible assumption | intro _ | with_reducible apply keeps_ite2 | with_reducible apply keeps_ite3 | with_reducible apply dmaReadOne_keeps | with_reducible refine dmaReadOne_keeps2 (by assumption) ?_ | with_reducible apply keeps_foldl | with_reducible apply keeps_foldl2 | with_reducible apply keeps_foldl3 | with_reducible apply keeps_iter | with_reducible apply keeps_elim | with_reducible apply keeps_ite | split | with_reducible apply keeps_mk | dsimp only)

theorem dmaRead_keeps2 {z : State} {s : State} {by_ : DmaBy} {tn : Word} {a n : Nat} {rK} {qK} {sK : State} (e : dmaRead s by_ tn a n = (rK, qK, sK)) (hK : Keeps z s)  : Keeps z sK := by
  have k := dmaRead_keeps (z := z) s by_ tn a n hK 
  rw [e] at k; exact k

theorem dmaWrite_keeps {z : State} (s : State) (by_ : DmaBy) (tn : Word) (a : Nat) (bs : List Byte) (hK : Keeps z s) : Keeps z (dmaWrite s by_ tn a bs).2 := by
  unfold dmaWrite
  try dsimp only
  repeat' (first | with_reducible assumption | intro _ | with_reducible apply keeps_ite2 | with_reducible apply keeps_ite3 | with_reducible apply dmaWriteOne_keeps | with_reducible refine dmaWriteOne_keeps2 (by assumption) ?_ | with_reducible apply keeps_foldl | with_reducible apply keeps_foldl2 | with_reducible apply keeps_foldl3 | with_reducible apply keeps_iter | with_reducible apply keeps_elim | with_reducible apply keeps_ite | split | with_reducible apply keeps_mk | dsimp only)

theorem dmaWrite_keeps2 {z : State} {s : State} {by_ : DmaBy} {tn : Word} {a : Nat} {bs : List Byte} {rK} {sK : State} (e : dmaWrite s by_ tn a bs = (rK, sK)) (hK : Keeps z s)  : Keeps z sK := by
  have k := dmaWrite_keeps (z := z) s by_ tn a bs hK 
  rw [e] at k; exact k

end Sys2Proof.Machine
end

