-- ==== Sys2Proof/Laws/KeepsEthOps.lean ====
section
/-! SUPPORT. Every operation of Machine/EthOps.lean keeps what Safety.lean names. -/

namespace Sys2Proof.Machine

set_option linter.all false

theorem descRead_keeps {z : State} (s : State) (n : Nat) (tx : Bool) (r i : Nat) (hK : Keeps z s) : Keeps z (descRead s n tx r i).2.2 := by
  unfold descRead
  try dsimp only
  repeat' (first | with_reducible assumption | intro _ | with_reducible apply keeps_ite2 | with_reducible apply keeps_ite3 | with_reducible apply dmaRead_keeps | with_reducible refine dmaRead_keeps2 (by assumption) ?_ | with_reducible apply keeps_foldl | with_reducible apply keeps_foldl2 | with_reducible apply keeps_foldl3 | with_reducible apply keeps_iter | with_reducible apply keeps_elim | with_reducible apply keeps_ite | split | with_reducible apply keeps_mk | dsimp only)

theorem descRead_keeps2 {z : State} {s : State} {n : Nat} {tx : Bool} {r i : Nat} {rK} {qK} {sK : State} (e : descRead s n tx r i = (rK, qK, sK)) (hK : Keeps z s)  : Keeps z sK := by
  have k := descRead_keeps (z := z) s n tx r i hK 
  rw [e] at k; exact k

theorem descWrite_keeps {z : State} (s : State) (n : Nat) (tx : Bool) (r i o : Nat) (bs : List Byte) (hK : Keeps z s) : Keeps z (descWrite s n tx r i o bs).2 := by
  unfold descWrite
  try dsimp only
  repeat' (first | with_reducible assumption | intro _ | with_reducible apply keeps_ite2 | with_reducible apply keeps_ite3 | with_reducible apply dmaWrite_keeps | with_reducible refine dmaWrite_keeps2 (by assumption) ?_ | with_reducible apply keeps_foldl | with_reducible apply keeps_foldl2 | with_reducible apply keeps_foldl3 | with_reducible apply keeps_iter | with_reducible apply keeps_elim | with_reducible apply keeps_ite | split | with_reducible apply keeps_mk | dsimp only)

theorem descWrite_keeps2 {z : State} {s : State} {n : Nat} {tx : Bool} {r i o : Nat} {bs : List Byte} {rK} {sK : State} (e : descWrite s n tx r i o bs = (rK, sK)) (hK : Keeps z s)  : Keeps z sK := by
  have k := descWrite_keeps (z := z) s n tx r i o bs hK 
  rw [e] at k; exact k

theorem ethErr_keeps {z : State} (s : State) (n isr code r : Nat) (cls : Option Nat) (hK : Keeps z s) : Keeps z (ethErr s n isr code r cls) := by
  unfold ethErr
  try dsimp only
  repeat' (first | with_reducible assumption | intro _ | with_reducible apply keeps_ite2 | with_reducible apply keeps_ite3 | with_reducible apply capture_keeps | with_reducible apply keeps_foldl | with_reducible apply keeps_foldl2 | with_reducible apply keeps_foldl3 | with_reducible apply keeps_iter | with_reducible apply keeps_elim | with_reducible apply keeps_ite | split | with_reducible apply keeps_mk | dsimp only)

theorem ringStop_keeps {z : State} (s : State) (n : Nat) (tx : Bool) (r : Nat) (hK : Keeps z s) : Keeps z (ringStop s n tx r) := by
  unfold ringStop
  try dsimp only
  repeat' (first | with_reducible assumption | intro _ | with_reducible apply keeps_ite2 | with_reducible apply keeps_ite3 | with_reducible apply putBit_keeps | with_reducible apply keeps_foldl | with_reducible apply keeps_foldl2 | with_reducible apply keeps_foldl3 | with_reducible apply keeps_iter | with_reducible apply keeps_elim | with_reducible apply keeps_ite | split | with_reducible apply keeps_mk | dsimp only)

theorem doneSet_keeps {z : State} (s : State) (n off isr r : Nat) (hK : Keeps z s) : Keeps z (doneSet s n off isr r) := by
  unfold doneSet
  try dsimp only
  repeat' (first | with_reducible assumption | intro _ | with_reducible apply keeps_ite2 | with_reducible apply keeps_ite3 | with_reducible apply putBit_keeps | with_reducible apply isrBit_keeps | with_reducible apply keeps_foldl | with_reducible apply keeps_foldl2 | with_reducible apply keeps_foldl3 | with_reducible apply keeps_iter | with_reducible apply keeps_elim | with_reducible apply keeps_ite | split | with_reducible apply keeps_mk | dsimp only)

theorem rxClaim_keeps {z : State} (s : State) (n r : Nat) (bs : List Byte) (i : Nat) (h : Keeps z s) : Keeps z (rxClaim s n r bs i).2.2 := by
  have h1 := descRead_keeps s n false r i h
  unfold rxClaim
  dsimp only
  generalize descRead s n false r i = x at h1 ⊢
  with_reducible apply keeps_ite3
  · with_reducible apply keeps_pair3; exact h
  · with_reducible apply keeps_ite3
    · with_reducible apply keeps_pair3; exact h1
    · with_reducible apply keeps_ite3
      · with_reducible apply keeps_pair3; exact h1
      · have h2 := dmaWrite_keeps x.2.2 (ethBy s n) (descNode x.2.1) (descAddr x.2.1) (bs.take (descLen x.2.1)) h1
        generalize dmaWrite x.2.2 (ethBy s n) (descNode x.2.1) (descAddr x.2.1) (bs.take (descLen x.2.1)) = y at h2 ⊢
        with_reducible apply keeps_pair3; exact h2

theorem rxClaim_keeps2 {z : State} {s : State} {n r : Nat} {bs : List Byte} {i : Nat} {a b} {s1 : State} (e : rxClaim s n r bs i = (a, b, s1)) (h : Keeps z s) : Keeps z s1 := by
  have k := rxClaim_keeps s n r bs i h
  rw [e] at k; exact k

theorem rxFill_keeps {z : State} (n r k : Nat) (s : State) (bs : List Byte) (i : Nat) (h : Keeps z s) : Keeps z (rxFill n r k s bs i).2.2 := by
  induction k generalizing s bs i with
  | zero => exact keeps_pair3 h
  | succ k ih =>
    have h1 := rxClaim_keeps s n r bs i h
    rw [rxFill]
    with_reducible apply keeps_ite3
    · with_reducible apply keeps_pair3; exact h
    · with_reducible apply keeps_ite3
      · with_reducible apply keeps_pair3; exact h1
      · with_reducible apply keeps_pair3; exact ih _ _ _ h1

theorem rxFill_keeps2 {z : State} {n r k : Nat} {s : State} {bs : List Byte} {i : Nat} {a b} {s1 : State} (e : rxFill n r k s bs i = (a, b, s1)) (h : Keeps z s) : Keeps z s1 := by
  have k := rxFill_keeps n r k s bs i h
  rw [e] at k; exact k

theorem rxBack_keeps {z : State} (s : State) (n r : Nat) (m : RxMeta) (lens : List Nat) (h : Keeps z s) : Keeps z (rxBack s n r m lens).2 := by
  have w (a : Nat × State) (at_ o : Nat) (bs : List Byte) (ha : Keeps z a.2) :
      Keeps z (if a.1 = 0 then (descWrite a.2 n false r at_ o bs).1 else a.1, (descWrite a.2 n false r at_ o bs).2).2 := by
    with_reducible apply keeps_pair
    exact descWrite_keeps _ _ _ _ _ _ _ ha
  have g {β : Type} (o : Option β) (d : Nat × State) (f : β → Nat × State) (hd : Keeps z d.2) (hf : ∀ x, Keeps z (f x).2) :
      Keeps z ((o.map f).getD d).2 := by
    cases o with
    | none => exact hd
    | some x => exact hf x
  unfold rxBack
  apply keeps_foldl2 h
  intro a x ha
  with_reducible apply keeps_ite2
  · with_reducible apply g
    · with_reducible apply w
      with_reducible apply g
      · with_reducible apply w
        exact ha
      · intro x
        with_reducible apply w
        with_reducible apply w
        exact ha
    · intro x
      with_reducible apply w
      with_reducible apply w
      with_reducible apply g
      · with_reducible apply w
        exact ha
      · intro x
        with_reducible apply w
        with_reducible apply w
        exact ha
  · with_reducible apply w
    exact ha

theorem rxBack_keeps2 {z : State} {s : State} {n r : Nat} {m : RxMeta} {lens : List Nat} {a} {s1 : State} (e : rxBack s n r m lens = (a, s1)) (h : Keeps z s) : Keeps z s1 := by
  have k := rxBack_keeps s n r m lens h
  rw [e] at k; exact k

theorem rxRewind_keeps {z : State} (s : State) (n r : Nat) (b : RxBad) (hK : Keeps z s) : Keeps z (rxRewind s n r b) := by
  unfold rxRewind
  try dsimp only
  repeat' (first | with_reducible assumption | intro _ | with_reducible apply keeps_ite2 | with_reducible apply keeps_ite3 | with_reducible apply putBit_keeps | with_reducible apply addFld_keeps | with_reducible apply isrBit_keeps | with_reducible apply ethErr_keeps | with_reducible apply ringStop_keeps | with_reducible apply keeps_foldl | with_reducible apply keeps_foldl2 | with_reducible apply keeps_foldl3 | with_reducible apply keeps_iter | with_reducible apply keeps_elim | with_reducible apply keeps_ite | split | with_reducible apply keeps_mk | dsimp only)

theorem rxCommit_keeps {z : State} (s : State) (n r : Nat) (m : RxMeta) (lens : List Nat) (hK : Keeps z s) : Keeps z (rxCommit s n r m lens) := by
  unfold rxCommit
  try dsimp only
  repeat' (first | with_reducible assumption | intro _ | with_reducible apply keeps_ite2 | with_reducible apply keeps_ite3 | with_reducible apply putFld_keeps | with_reducible apply workCount_keeps | with_reducible apply doneSet_keeps | with_reducible apply rxBack_keeps | with_reducible refine rxBack_keeps2 (by assumption) ?_ | with_reducible apply rxRewind_keeps | with_reducible apply keeps_foldl | with_reducible apply keeps_foldl2 | with_reducible apply keeps_foldl3 | with_reducible apply keeps_iter | with_reducible apply keeps_elim | with_reducible apply keeps_ite | split | with_reducible apply keeps_mk | dsimp only)

theorem ethCount_keeps {z : State} (s : State) (n off : Nat) (high : Bool) (hK : Keeps z s) : Keeps z (ethCount s n off high) := by
  unfold ethCount
  try dsimp only
  repeat' (first | with_reducible assumption | intro _ | with_reducible apply keeps_ite2 | with_reducible apply keeps_ite3 | with_reducible apply addFld_keeps | with_reducible apply keeps_foldl | with_reducible apply keeps_foldl2 | with_reducible apply keeps_foldl3 | with_reducible apply keeps_iter | with_reducible apply keeps_elim | with_reducible apply keeps_ite | split | with_reducible apply keeps_mk | dsimp only)

theorem rxRing_keeps {z : State} (s : State) (n r : Nat) (f : List Byte) (fcsOk : Bool) (room : Bool) (hK : Keeps z s) : Keeps z (rxRing s n r f fcsOk room) := by
  unfold rxRing
  try dsimp only
  repeat' (first | with_reducible assumption | intro _ | with_reducible apply keeps_ite2 | with_reducible apply keeps_ite3 | with_reducible apply ethCount_keeps | with_reducible apply isrBit_keeps | with_reducible apply rxFill_keeps | with_reducible refine rxFill_keeps2 (by assumption) ?_ | with_reducible apply rxRewind_keeps | with_reducible apply meterPass_keeps | with_reducible refine meterPass_keeps2 (by assumption) ?_ | with_reducible apply rxCommit_keeps | with_reducible apply keeps_foldl | with_reducible apply keeps_foldl2 | with_reducible apply keeps_foldl3 | with_reducible apply keeps_iter | with_reducible apply keeps_elim | with_reducible apply keeps_ite | split | with_reducible apply keeps_mk | dsimp only)

theorem pfcWatch_keeps {z : State} (s : State) (n : Nat) (backlog : List Nat) (hK : Keeps z s) : Keeps z (pfcWatch s n backlog) := by
  unfold pfcWatch
  try dsimp only
  repeat' (first | with_reducible assumption | intro _ | with_reducible apply keeps_ite2 | with_reducible apply keeps_ite3 | with_reducible apply emit_keeps | with_reducible apply modEth_keeps | with_reducible apply keeps_foldl | with_reducible apply keeps_foldl2 | with_reducible apply keeps_foldl3 | with_reducible apply keeps_iter | with_reducible apply keeps_elim | with_reducible apply keeps_ite | split | with_reducible apply keeps_mk | dsimp only)

theorem pfcTake_keeps {z : State} (s : State) (n : Nat) (quanta : List (Option Nat)) (hK : Keeps z s) : Keeps z (pfcTake s n quanta) := by
  unfold pfcTake
  try dsimp only
  repeat' (first | with_reducible assumption | intro _ | with_reducible apply keeps_ite2 | with_reducible apply keeps_ite3 | with_reducible apply modEth_keeps | with_reducible apply putBit_keeps | with_reducible apply keeps_foldl | with_reducible apply keeps_foldl2 | with_reducible apply keeps_foldl3 | with_reducible apply keeps_iter | with_reducible apply keeps_elim | with_reducible apply keeps_ite | split | with_reducible apply keeps_mk | dsimp only)

theorem ethRx_keeps {z : State} (s : State) (n : Nat) (f : List Byte) (fcsOk : Bool) (backlog : List Nat) (hK : Keeps z s) : Keeps z (ethRx s n f fcsOk backlog) := by
  unfold ethRx
  try dsimp only
  repeat' (first | with_reducible assumption | intro _ | with_reducible apply keeps_ite2 | with_reducible apply keeps_ite3 | with_reducible apply ethCount_keeps | with_reducible apply pfcWatch_keeps | with_reducible apply pfcTake_keeps | with_reducible apply rxRing_keeps | with_reducible apply keeps_foldl | with_reducible apply keeps_foldl2 | with_reducible apply keeps_foldl3 | with_reducible apply keeps_iter | with_reducible apply keeps_elim | with_reducible apply keeps_ite | split | with_reducible apply keeps_mk | dsimp only)

theorem pfcRepeat_keeps {z : State} (s : State) (n p : Nat) (hK : Keeps z s) : Keeps z (pfcRepeat s n p) := by
  unfold pfcRepeat
  try dsimp only
  repeat' (first | with_reducible assumption | intro _ | with_reducible apply keeps_ite2 | with_reducible apply keeps_ite3 | with_reducible apply atLeast_keeps | with_reducible apply emit_keeps | with_reducible apply modEth_keeps | with_reducible apply keeps_foldl | with_reducible apply keeps_foldl2 | with_reducible apply keeps_foldl3 | with_reducible apply keeps_iter | with_reducible apply keeps_elim | with_reducible apply keeps_ite | split | with_reducible apply keeps_mk | dsimp only)

theorem pauseEnd_keeps {z : State} (s : State) (n p : Nat) (hK : Keeps z s) : Keeps z (pauseEnd s n p) := by
  unfold pauseEnd
  try dsimp only
  repeat' (first | with_reducible assumption | intro _ | with_reducible apply keeps_ite2 | with_reducible apply keeps_ite3 | with_reducible apply putBit_keeps | with_reducible apply atLeast_keeps | with_reducible apply keeps_foldl | with_reducible apply keeps_foldl2 | with_reducible apply keeps_foldl3 | with_reducible apply keeps_iter | with_reducible apply keeps_elim | with_reducible apply keeps_ite | split | with_reducible apply keeps_mk | dsimp only)

theorem keeps_claimed {β γ : Type} {z : State} {c d : Prop} [Decidable c] [Decidable d] {u x : β × γ × State}
    {w : Option (β × γ × State)} {f : β × γ × State → β × γ × State} (hf : ∀ q, (f q).2.2 = q.2.2) (hu : Keeps z u.2.2)
    (hw : ∀ q, w = some q → Keeps z q.2.2) (e : (if c then none else if d then some u else w.map f) = some x) :
    Keeps z x.2.2 := by
  split at e
  · cases e
  · split at e
    · cases e; exact hu
    · cases w with
      | none => cases e
      | some q => cases e; rw [hf]; exact hw q rfl

theorem txDescs_keeps {z : State} {n r k : Nat} {s : State} {i : Nat} {x} (e : txDescs n r k s i = some x) (h : Keeps z s) : Keeps z x.2.2 := by
  induction k generalizing s i x with
  | zero => cases e
  | succ k ih =>
    have h1 := descRead_keeps s n true r i h
    rw [txDescs] at e
    dsimp only at e
    generalize descRead s n true r i = y at e h1
    refine keeps_claimed ?_ ?_ ?_ e
    · exact fun _ => rfl
    · with_reducible apply keeps_pair3; exact h1
    · exact fun q e2 => ih e2 h1

theorem txGather_keeps {z : State} (s : State) (n : Nat) (ds : List (List Byte)) (hK : Keeps z s) : Keeps z (txGather s n ds).2.2 := by
  unfold txGather
  try dsimp only
  repeat' (first | with_reducible assumption | intro _ | with_reducible apply keeps_ite2 | with_reducible apply keeps_ite3 | with_reducible apply dmaRead_keeps | with_reducible refine dmaRead_keeps2 (by assumption) ?_ | with_reducible apply keeps_foldl | with_reducible apply keeps_foldl2 | with_reducible apply keeps_foldl3 | with_reducible apply keeps_iter | with_reducible apply keeps_elim | with_reducible apply keeps_ite | split | with_reducible apply keeps_mk | dsimp only)

theorem txGather_keeps2 {z : State} {s : State} {n : Nat} {ds : List (List Byte)} {rK} {qK} {sK : State} (e : txGather s n ds = (rK, qK, sK)) (hK : Keeps z s)  : Keeps z sK := by
  have k := txGather_keeps (z := z) s n ds hK 
  rw [e] at k; exact k

theorem txBuild_keeps {z : State} (s : State) (n r e : Nat) (ds : List (List Byte)) (h : Keeps z s) : Keeps z (txBuild s n r e ds).2 := by
  have k := txGather_keeps s n ds h
  unfold txBuild
  dsimp only
  repeat' split
  all_goals first | exact h | exact k

theorem txBuild_keeps2 {z : State} {s : State} {n r b : Nat} {ds : List (List Byte)} {a} {s1 : State} (e : txBuild s n r b ds = (a, s1)) (h : Keeps z s) : Keeps z s1 := by
  have k := txBuild_keeps s n r b ds h
  rw [e] at k; exact k

theorem ethFix_keeps {z : State} (s : State) (n : Nat) (hK : Keeps z s) : Keeps z (ethFix s n) := by
  unfold ethFix
  try dsimp only
  repeat' (first | with_reducible assumption | intro _ | with_reducible apply keeps_ite2 | with_reducible apply keeps_ite3 | with_reducible apply schFix_keeps | with_reducible apply keeps_foldl | with_reducible apply keeps_foldl2 | with_reducible apply keeps_foldl3 | with_reducible apply keeps_iter | with_reducible apply keeps_elim | with_reducible apply keeps_ite | split | with_reducible apply keeps_mk | dsimp only)

theorem egFix_keeps {z : State} (s : State) (g : GPlace) (hK : Keeps z s) : Keeps z (egFix s g) := by
  unfold egFix
  repeat' (first | with_reducible assumption | with_reducible apply llkFix_keeps | with_reducible apply ethFix_keeps | split)

theorem txFetch_keeps {z : State} (s : State) (n r : Nat) (h : Keeps z s) : Keeps z (txFetch s n r) := by
  unfold txFetch
  dsimp only
  split
  · exact h
  · generalize e : txDescs n r (ringSize s n true r) s _ = o
    cases o with
    | none => exact h
    | some x =>
      obtain ⟨b, ds, s1⟩ := x
      have k := txBuild_keeps s1 n r b ds (txDescs_keeps e h)
      dsimp only
      generalize txBuild s1 n r b ds = w at k
      with_reducible apply keeps_ite
      · exact h
      · exact ethFix_keeps _ _ (modEth_keeps _ _ _ k)

theorem ethStart_keeps {z : State} (s : State) (n : Nat) (hK : Keeps z s) : Keeps z (ethStart s n) := by
  unfold ethStart
  try dsimp only
  repeat' (first | with_reducible assumption | intro _ | with_reducible apply keeps_ite2 | with_reducible apply keeps_ite3 | with_reducible apply gDue_keeps | with_reducible apply egStart_keeps | with_reducible apply modEth_keeps | with_reducible apply emit_keeps | with_reducible apply ethFix_keeps | with_reducible apply keeps_foldl | with_reducible apply keeps_foldl2 | with_reducible apply keeps_foldl3 | with_reducible apply keeps_iter | with_reducible apply keeps_elim | with_reducible apply keeps_ite | split | with_reducible apply keeps_mk | dsimp only)

theorem txBack_keeps {z : State} (s : State) (n r : Nat) (f : TxFrm) (h : Keeps z s) : Keeps z (txBack s n r f).2 := by
  unfold txBack
  apply keeps_foldl2 h
  intro a x ha
  with_reducible apply keeps_ite2
  · with_reducible apply keeps_pair
    exact descWrite_keeps _ _ _ _ _ _ _ (descWrite_keeps _ _ _ _ _ _ _ ha)
  · with_reducible apply keeps_pair
    exact descWrite_keeps _ _ _ _ _ _ _ ha

theorem txBack_keeps2 {z : State} {s : State} {n r : Nat} {f : TxFrm} {a} {s1 : State} (e : txBack s n r f = (a, s1)) (h : Keeps z s) : Keeps z s1 := by
  have k := txBack_keeps s n r f h
  rw [e] at k; exact k

theorem txReport_keeps {z : State} (s : State) (n r status : Nat) (hK : Keeps z s) : Keeps z (txReport s n r status) := by
  unfold txReport
  try dsimp only
  repeat' (first | with_reducible assumption | intro _ | with_reducible apply keeps_ite2 | with_reducible apply keeps_ite3 | with_reducible apply isrBit_keeps | with_reducible apply ethErr_keeps | with_reducible apply keeps_foldl | with_reducible apply keeps_foldl2 | with_reducible apply keeps_foldl3 | with_reducible apply keeps_iter | with_reducible apply keeps_elim | with_reducible apply keeps_ite | split | with_reducible apply keeps_mk | dsimp only)

theorem txDone_keeps {z : State} (s : State) (n r : Nat) (hK : Keeps z s) : Keeps z (txDone s n r) := by
  unfold txDone
  try dsimp only
  repeat' (first | with_reducible assumption | intro _ | with_reducible apply keeps_ite2 | with_reducible apply keeps_ite3 | with_reducible apply modEth_keeps | with_reducible apply txBack_keeps | with_reducible refine txBack_keeps2 (by assumption) ?_ | with_reducible apply ringStop_keeps | with_reducible apply ethErr_keeps | with_reducible apply putFld_keeps | with_reducible apply workCount_keeps | with_reducible apply txReport_keeps | with_reducible apply doneSet_keeps | with_reducible apply keeps_foldl | with_reducible apply keeps_foldl2 | with_reducible apply keeps_foldl3 | with_reducible apply keeps_iter | with_reducible apply keeps_elim | with_reducible apply keeps_ite | split | with_reducible apply keeps_mk | dsimp only)

theorem ringOffNow_keeps {z : State} (s : State) (n : Nat) (tx : Bool) (r : Nat) (hK : Keeps z s) : Keeps z (ringOffNow s n tx r) := by
  unfold ringOffNow
  try dsimp only
  repeat' (first | with_reducible assumption | intro _ | with_reducible apply keeps_ite2 | with_reducible apply keeps_ite3 | with_reducible apply putFld_keeps | with_reducible apply putBit_keeps | with_reducible apply ethFix_keeps | with_reducible apply modEth_keeps | with_reducible apply keeps_foldl | with_reducible apply keeps_foldl2 | with_reducible apply keeps_foldl3 | with_reducible apply keeps_iter | with_reducible apply keeps_elim | with_reducible apply keeps_ite | split | with_reducible apply keeps_mk | dsimp only)

theorem ethLink_keeps {z : State} (s : State) (n : Nat) (up an : Bool) (hK : Keeps z s) : Keeps z (ethLink s n up an) := by
  unfold ethLink
  try dsimp only
  repeat' (first | with_reducible assumption | intro _ | with_reducible apply keeps_ite2 | with_reducible apply keeps_ite3 | with_reducible apply putBit_keeps | with_reducible apply isrBit_keeps | with_reducible apply keeps_foldl | with_reducible apply keeps_foldl2 | with_reducible apply keeps_foldl3 | with_reducible apply keeps_iter | with_reducible apply keeps_elim | with_reducible apply keeps_ite | split | with_reducible apply keeps_mk | dsimp only)

end Sys2Proof.Machine
end

