-- ==== Sys2Proof/Laws/KeepsGlzOps.lean ====
section
/-! SUPPORT. Every operation of Machine/GlzOps.lean keeps what Safety.lean names. -/

namespace Sys2Proof.Machine

set_option linter.all false

theorem glzPut_keeps {z : State} (s : State) (n st : Nat) (hK : Keeps z s) : Keeps z (glzPut s n st) := by
  unfold glzPut
  try dsimp only
  repeat' (first | with_reducible assumption | intro _ | with_reducible apply keeps_ite2 | with_reducible apply keeps_ite3 | with_reducible apply putFld_keeps | with_reducible apply keeps_foldl | with_reducible apply keeps_foldl2 | with_reducible apply keeps_foldl3 | with_reducible apply keeps_iter | with_reducible apply keeps_elim | with_reducible apply keeps_ite | split | with_reducible apply keeps_mk | dsimp only)

theorem glzCount_keeps {z : State} (s : State) (n off k : Nat) (hK : Keeps z s) : Keeps z (glzCount s n off k) := by
  unfold glzCount
  try dsimp only
  repeat' (first | with_reducible assumption | intro _ | with_reducible apply keeps_ite2 | with_reducible apply keeps_ite3 | with_reducible apply workCount_keeps | with_reducible apply keeps_foldl | with_reducible apply keeps_foldl2 | with_reducible apply keeps_foldl3 | with_reducible apply keeps_iter | with_reducible apply keeps_elim | with_reducible apply keeps_ite | split | with_reducible apply keeps_mk | dsimp only)

theorem glzIdle_keeps {z : State} (s : State) (n : Nat) (hK : Keeps z s) : Keeps z (glzIdle s n) := by
  unfold glzIdle
  try dsimp only
  repeat' (first | with_reducible assumption | intro _ | with_reducible apply keeps_ite2 | with_reducible apply keeps_ite3 | with_reducible apply glzPut_keeps | with_reducible apply keeps_foldl | with_reducible apply keeps_foldl2 | with_reducible apply keeps_foldl3 | with_reducible apply keeps_iter | with_reducible apply keeps_elim | with_reducible apply keeps_ite | split | with_reducible apply keeps_mk | dsimp only)

theorem glzEnter_keeps {z : State} (s : State) (n : Nat) (rs : List (List Byte)) (hK : Keeps z s) : Keeps z (glzEnter s n rs) := by
  unfold glzEnter
  try dsimp only
  repeat' (first | with_reducible assumption | intro _ | with_reducible apply keeps_ite2 | with_reducible apply keeps_ite3 | with_reducible apply modGlz_keeps | with_reducible apply glzPut_keeps | with_reducible apply keeps_foldl | with_reducible apply keeps_foldl2 | with_reducible apply keeps_foldl3 | with_reducible apply keeps_iter | with_reducible apply keeps_elim | with_reducible apply keeps_ite | split | with_reducible apply keeps_mk | dsimp only)

theorem glzErr_keeps {z : State} (s : State) (n code : Nat) (bits : Word) (hK : Keeps z s) : Keeps z (glzErr s n code bits) := by
  unfold glzErr
  try dsimp only
  repeat' (first | with_reducible assumption | intro _ | with_reducible apply keeps_ite2 | with_reducible apply keeps_ite3 | with_reducible apply captureOpen_keeps | with_reducible apply keeps_foldl | with_reducible apply keeps_foldl2 | with_reducible apply keeps_foldl3 | with_reducible apply keeps_iter | with_reducible apply keeps_elim | with_reducible apply keeps_ite | split | with_reducible apply keeps_mk | dsimp only)

theorem glzBadCmd_keeps {z : State} (s : State) (n : Nat) (hK : Keeps z s) : Keeps z (glzBadCmd s n) := by
  unfold glzBadCmd
  try dsimp only
  repeat' (first | with_reducible assumption | intro _ | with_reducible apply keeps_ite2 | with_reducible apply keeps_ite3 | with_reducible apply glzErr_keeps | with_reducible apply keeps_foldl | with_reducible apply keeps_foldl2 | with_reducible apply keeps_foldl3 | with_reducible apply keeps_iter | with_reducible apply keeps_elim | with_reducible apply keeps_ite | split | with_reducible apply keeps_mk | dsimp only)

theorem glzFailAs_keeps {z : State} (s : State) (n code reason : Nat) (hK : Keeps z s) : Keeps z (glzFailAs s n code reason) := by
  unfold glzFailAs
  try dsimp only
  repeat' (first | with_reducible assumption | intro _ | with_reducible apply keeps_ite2 | with_reducible apply keeps_ite3 | with_reducible apply modGlz_keeps | with_reducible apply addFld_keeps | with_reducible apply capture_keeps | with_reducible apply keeps_foldl | with_reducible apply keeps_foldl2 | with_reducible apply keeps_foldl3 | with_reducible apply keeps_iter | with_reducible apply keeps_elim | with_reducible apply keeps_ite | split | with_reducible apply keeps_mk | dsimp only)

theorem glzFail_keeps {z : State} (s : State) (n reason : Nat) (hK : Keeps z s) : Keeps z (glzFail s n reason) := by
  unfold glzFail
  try dsimp only
  repeat' (first | with_reducible assumption | intro _ | with_reducible apply keeps_ite2 | with_reducible apply keeps_ite3 | with_reducible apply glzFailAs_keeps | with_reducible apply keeps_foldl | with_reducible apply keeps_foldl2 | with_reducible apply keeps_foldl3 | with_reducible apply keeps_iter | with_reducible apply keeps_elim | with_reducible apply keeps_ite | split | with_reducible apply keeps_mk | dsimp only)

theorem glzRead_keeps {z : State} (s : State) (n : Nat) (tn : Word) (a len : Nat) (hK : Keeps z s) : Keeps z (glzRead s n tn a len).2.2 := by
  unfold glzRead
  try dsimp only
  repeat' (first | with_reducible assumption | intro _ | with_reducible apply keeps_ite2 | with_reducible apply keeps_ite3 | with_reducible apply dmaRead_keeps | with_reducible refine dmaRead_keeps2 (by assumption) ?_ | with_reducible apply glzFail_keeps | with_reducible apply keeps_foldl | with_reducible apply keeps_foldl2 | with_reducible apply keeps_foldl3 | with_reducible apply keeps_iter | with_reducible apply keeps_elim | with_reducible apply keeps_ite | split | with_reducible apply keeps_mk | dsimp only)

theorem glzRead_keeps2 {z : State} {s : State} {n : Nat} {tn : Word} {a len : Nat} {rK} {qK} {sK : State} (e : glzRead s n tn a len = (rK, qK, sK)) (hK : Keeps z s)  : Keeps z sK := by
  have k := glzRead_keeps (z := z) s n tn a len hK 
  rw [e] at k; exact k

theorem glzWrite_keeps {z : State} (s : State) (n : Nat) (tn : Word) (a : Nat) (bs : List Byte) (hK : Keeps z s) : Keeps z (glzWrite s n tn a bs) := by
  unfold glzWrite
  try dsimp only
  repeat' (first | with_reducible assumption | intro _ | with_reducible apply keeps_ite2 | with_reducible apply keeps_ite3 | with_reducible apply dmaWrite_keeps | with_reducible refine dmaWrite_keeps2 (by assumption) ?_ | with_reducible apply glzFail_keeps | with_reducible apply keeps_foldl | with_reducible apply keeps_foldl2 | with_reducible apply keeps_foldl3 | with_reducible apply keeps_iter | with_reducible apply keeps_elim | with_reducible apply keeps_ite | split | with_reducible apply keeps_mk | dsimp only)

theorem glzFetchOne_keeps {z : State} (n : Nat) (s : State) (hK : Keeps z s) : Keeps z (glzFetchOne n s) := by
  unfold glzFetchOne
  try dsimp only
  repeat' (first | with_reducible assumption | intro _ | with_reducible apply keeps_ite2 | with_reducible apply keeps_ite3 | with_reducible apply putFld_keeps | with_reducible apply glzEnter_keeps | with_reducible apply glzRead_keeps | with_reducible refine glzRead_keeps2 (by assumption) ?_ | with_reducible apply keeps_foldl | with_reducible apply keeps_foldl2 | with_reducible apply keeps_foldl3 | with_reducible apply keeps_iter | with_reducible apply keeps_elim | with_reducible apply keeps_ite | split | with_reducible apply keeps_mk | dsimp only)

theorem glzFetch_keeps {z : State} (s : State) (n : Nat) (hK : Keeps z s) : Keeps z (glzFetch s n) := by
  unfold glzFetch
  try dsimp only
  repeat' (first | with_reducible assumption | intro _ | with_reducible apply keeps_ite2 | with_reducible apply keeps_ite3 | with_reducible apply glzFetchOne_keeps | with_reducible apply keeps_foldl | with_reducible apply keeps_foldl2 | with_reducible apply keeps_foldl3 | with_reducible apply keeps_iter | with_reducible apply keeps_elim | with_reducible apply keeps_ite | split | with_reducible apply keeps_mk | dsimp only)

theorem glzMsg_keeps {z : State} (s : State) (n : Nat) (hK : Keeps z s) : Keeps z (glzMsg s n) := by
  unfold glzMsg
  try dsimp only
  repeat' (first | with_reducible assumption | intro _ | with_reducible apply keeps_ite2 | with_reducible apply keeps_ite3 | with_reducible apply answerAt_keeps | with_reducible apply ackAt_keeps | with_reducible apply serveEdge_keeps | with_reducible apply glzEnter_keeps | with_reducible apply keeps_foldl | with_reducible apply keeps_foldl2 | with_reducible apply keeps_foldl3 | with_reducible apply keeps_iter | with_reducible apply keeps_elim | with_reducible apply keeps_ite | split | with_reducible apply keeps_mk | dsimp only)

theorem glzResume_keeps {z : State} (s : State) (n : Nat) (hK : Keeps z s) : Keeps z (glzResume s n) := by
  unfold glzResume
  try dsimp only
  repeat' (first | with_reducible assumption | intro _ | with_reducible apply keeps_ite2 | with_reducible apply keeps_ite3 | with_reducible apply putBit_keeps | with_reducible apply glzPut_keeps | with_reducible apply keeps_foldl | with_reducible apply keeps_foldl2 | with_reducible apply keeps_foldl3 | with_reducible apply keeps_iter | with_reducible apply keeps_elim | with_reducible apply keeps_ite | split | with_reducible apply keeps_mk | dsimp only)

theorem glzPaused_keeps {z : State} (s : State) (n : Nat) (hK : Keeps z s) : Keeps z (glzPaused s n) := by
  unfold glzPaused
  try dsimp only
  repeat' (first | with_reducible assumption | intro _ | with_reducible apply keeps_ite2 | with_reducible apply keeps_ite3 | with_reducible apply putBit_keeps | with_reducible apply glzPut_keeps | with_reducible apply keeps_foldl | with_reducible apply keeps_foldl2 | with_reducible apply keeps_foldl3 | with_reducible apply keeps_iter | with_reducible apply keeps_elim | with_reducible apply keeps_ite | split | with_reducible apply keeps_mk | dsimp only)

theorem glzPop_keeps {z : State} (s : State) (n : Nat) (hK : Keeps z s) : Keeps z (glzPop s n) := by
  unfold glzPop
  try dsimp only
  repeat' (first | with_reducible assumption | intro _ | with_reducible apply keeps_ite2 | with_reducible apply keeps_ite3 | with_reducible apply modGlz_keeps | with_reducible apply glzIdle_keeps | with_reducible apply keeps_foldl | with_reducible apply keeps_foldl2 | with_reducible apply keeps_foldl3 | with_reducible apply keeps_iter | with_reducible apply keeps_elim | with_reducible apply keeps_ite | split | with_reducible apply keeps_mk | dsimp only)

theorem glzSkip_keeps {z : State} (k : Nat) (s : State) (n : Nat) (h : Keeps z s) : Keeps z (glzSkip k s n) := by
  induction k generalizing s with
  | zero => exact h
  | succ k ih =>
    rw [glzSkip]
    split
    · with_reducible apply keeps_ite
      · exact ih _ (glzPop_keeps _ _ (glzBadCmd_keeps _ _ h))
      · exact h
    · exact h

theorem glzRecord_keeps {z : State} (s : State) (n opc : Nat) (act : State → List Byte → State) (hK : Keeps z s) (hact : ∀ (x : State) p0, Keeps z x → Keeps z (act x p0)) : Keeps z (glzRecord s n opc act) := by
  have k := glzSkip_keeps 1024 s n hK
  unfold glzRecord
  generalize glzSkip 1024 s n = s0 at k ⊢
  with_reducible apply keeps_ite
  · exact hK
  · dsimp only
    split
    · with_reducible apply keeps_ite
      · exact k
      · with_reducible apply keeps_ite
        · exact glzPop_keeps _ _ (glzBadCmd_keeps _ _ k)
        · exact hact _ _ k
    · exact k

theorem glzSimple_keeps {z : State} (s : State) (n opc : Nat) (f : State → List Byte → State) (hK : Keeps z s) (hf : ∀ (x : State) p0, Keeps z x → Keeps z (f x p0)) : Keeps z (glzSimple s n opc f) := by
  unfold glzSimple
  try dsimp only
  repeat' (first | with_reducible assumption | intro _ | with_reducible apply keeps_ite2 | with_reducible apply keeps_ite3 | with_reducible apply glzPop_keeps | with_reducible apply glzRecord_keeps | with_reducible apply hf | with_reducible apply keeps_foldl | with_reducible apply keeps_foldl2 | with_reducible apply keeps_foldl3 | with_reducible apply keeps_iter | with_reducible apply keeps_elim | with_reducible apply keeps_ite | split | with_reducible apply keeps_mk | dsimp only)

theorem depthLost_keeps {z : State} (s : State) (n : Nat) (hK : Keeps z s) : Keeps z (depthLost s n) := by
  unfold depthLost
  try dsimp only
  repeat' (first | with_reducible assumption | intro _ | with_reducible apply keeps_ite2 | with_reducible apply keeps_ite3 | with_reducible apply modGlz_keeps | with_reducible apply takeFree_keeps | with_reducible refine takeFree_keeps2 (by assumption) ?_ | with_reducible apply keeps_foldl | with_reducible apply keeps_foldl2 | with_reducible apply keeps_foldl3 | with_reducible apply keeps_iter | with_reducible apply keeps_elim | with_reducible apply keeps_ite | split | with_reducible apply keeps_mk | dsimp only)

theorem glzTarget_keeps {z : State} (s : State) (n : Nat) (r : List Byte) (hK : Keeps z s) : Keeps z (glzTarget s n r) := by
  unfold glzTarget
  try dsimp only
  repeat' (first | with_reducible assumption | intro _ | with_reducible apply keeps_ite2 | with_reducible apply keeps_ite3 | with_reducible apply modGlz_keeps | with_reducible apply depthLost_keeps | with_reducible apply keeps_foldl | with_reducible apply keeps_foldl2 | with_reducible apply keeps_foldl3 | with_reducible apply keeps_iter | with_reducible apply keeps_elim | with_reducible apply keeps_ite | split | with_reducible apply keeps_mk | dsimp only)

theorem glzRegion_keeps {z : State} (s : State) (n : Nat) (r : List Byte) (hK : Keeps z s) : Keeps z (glzRegion s n r) := by
  unfold glzRegion
  try dsimp only
  repeat' (first | with_reducible assumption | intro _ | with_reducible apply keeps_ite2 | with_reducible apply keeps_ite3 | with_reducible apply modGlz_keeps | with_reducible apply glzErr_keeps | with_reducible apply depthLost_keeps | with_reducible apply keeps_foldl | with_reducible apply keeps_foldl2 | with_reducible apply keeps_foldl3 | with_reducible apply keeps_iter | with_reducible apply keeps_elim | with_reducible apply keeps_ite | split | with_reducible apply keeps_mk | dsimp only)

theorem glzCgroup_keeps {z : State} (s : State) (n : Nat) (r : List Byte) (hK : Keeps z s) : Keeps z (glzCgroup s n r) := by
  unfold glzCgroup
  try dsimp only
  repeat' (first | with_reducible assumption | intro _ | with_reducible apply keeps_ite2 | with_reducible apply keeps_ite3 | with_reducible apply modGlz_keeps | with_reducible apply glzErr_keeps | with_reducible apply keeps_foldl | with_reducible apply keeps_foldl2 | with_reducible apply keeps_foldl3 | with_reducible apply keeps_iter | with_reducible apply keeps_elim | with_reducible apply keeps_ite | split | with_reducible apply keeps_mk | dsimp only)

theorem glzDstate_keeps {z : State} (s : State) (n : Nat) (r : List Byte) (hK : Keeps z s) : Keeps z (glzDstate s n r) := by
  unfold glzDstate
  try dsimp only
  repeat' (first | with_reducible assumption | intro _ | with_reducible apply keeps_ite2 | with_reducible apply keeps_ite3 | with_reducible apply modGlz_keeps | with_reducible apply keeps_foldl | with_reducible apply keeps_foldl2 | with_reducible apply keeps_foldl3 | with_reducible apply keeps_iter | with_reducible apply keeps_elim | with_reducible apply keeps_ite | split | with_reducible apply keeps_mk | dsimp only)

theorem glzProg_keeps {z : State} (s : State) (n : Nat) (r : List Byte) (hK : Keeps z s) : Keeps z (glzProg s n r) := by
  unfold glzProg
  try dsimp only
  repeat' (first | with_reducible assumption | intro _ | with_reducible apply keeps_ite2 | with_reducible apply keeps_ite3 | with_reducible apply putReg_keeps | with_reducible apply glzErr_keeps | with_reducible apply keeps_foldl | with_reducible apply keeps_foldl2 | with_reducible apply keeps_foldl3 | with_reducible apply keeps_iter | with_reducible apply keeps_elim | with_reducible apply keeps_ite | split | with_reducible apply keeps_mk | dsimp only)

theorem glzLoper_keeps {z : State} (s : State) (n : Nat) (r : List Byte) (hK : Keeps z s) : Keeps z (glzLoper s n r) := by
  unfold glzLoper
  try dsimp only
  repeat' (first | with_reducible assumption | intro _ | with_reducible apply keeps_ite2 | with_reducible apply keeps_ite3 | with_reducible apply modGlz_keeps | with_reducible apply keeps_foldl | with_reducible apply keeps_foldl2 | with_reducible apply keeps_foldl3 | with_reducible apply keeps_iter | with_reducible apply keeps_elim | with_reducible apply keeps_ite | split | with_reducible apply keeps_mk | dsimp only)

theorem glzClear_keeps {z : State} (s : State) (n : Nat) (r : List Byte) (hK : Keeps z s) : Keeps z (glzClear s n r) := by
  unfold glzClear
  try dsimp only
  repeat' (first | with_reducible assumption | intro _ | with_reducible apply keeps_ite2 | with_reducible apply keeps_ite3 | with_reducible apply modGlz_keeps | with_reducible apply keeps_foldl | with_reducible apply keeps_foldl2 | with_reducible apply keeps_foldl3 | with_reducible apply keeps_iter | with_reducible apply keeps_elim | with_reducible apply keeps_ite | split | with_reducible apply keeps_mk | dsimp only)

theorem glzBvh_keeps {z : State} (s : State) (n : Nat) (r : List Byte) (hK : Keeps z s) : Keeps z (glzBvh s n r) := by
  unfold glzBvh
  try dsimp only
  repeat' (first | with_reducible assumption | intro _ | with_reducible apply keeps_ite2 | with_reducible apply keeps_ite3 | with_reducible apply modGlz_keeps | with_reducible apply keeps_foldl | with_reducible apply keeps_foldl2 | with_reducible apply keeps_foldl3 | with_reducible apply keeps_iter | with_reducible apply keeps_elim | with_reducible apply keeps_ite | split | with_reducible apply keeps_mk | dsimp only)

theorem glzFence_keeps {z : State} (s : State) (n : Nat) (r : List Byte) (hK : Keeps z s) : Keeps z (glzFence s n r) := by
  unfold glzFence
  try dsimp only
  repeat' (first | with_reducible assumption | intro _ | with_reducible apply keeps_ite2 | with_reducible apply keeps_ite3 | with_reducible apply glzErr_keeps | with_reducible apply modDie_keeps | with_reducible apply isrBit_keeps | with_reducible apply modGlz_keeps | with_reducible apply keeps_foldl | with_reducible apply keeps_foldl2 | with_reducible apply keeps_foldl3 | with_reducible apply keeps_iter | with_reducible apply keeps_elim | with_reducible apply keeps_ite | split | with_reducible apply keeps_mk | dsimp only)

theorem glzDresolve_keeps {z : State} (s : State) (n : Nat) (r : List Byte) (hK : Keeps z s) : Keeps z (glzDresolve s n r) := by
  unfold glzDresolve
  try dsimp only
  repeat' (first | with_reducible assumption | intro _ | with_reducible apply keeps_ite2 | with_reducible apply keeps_ite3 | with_reducible apply glzErr_keeps | with_reducible apply glzWrite_keeps | with_reducible apply keeps_foldl | with_reducible apply keeps_foldl2 | with_reducible apply keeps_foldl3 | with_reducible apply keeps_iter | with_reducible apply keeps_elim | with_reducible apply keeps_ite | split | with_reducible apply keeps_mk | dsimp only)

end Sys2Proof.Machine
end

