-- ==== Sys2Proof/Laws/KeepsMgtOps.lean ====
section
/-! SUPPORT. Every operation of Machine/MgtOps.lean keeps what Safety.lean names. -/

namespace Sys2Proof.Machine

set_option linter.all false

theorem modMgt_keeps {z : State} (s : State) (f : Mgt → Mgt) (hK : Keeps z s) : Keeps z (modMgt s f) := by
  unfold modMgt
  try dsimp only
  repeat' (first | with_reducible assumption | intro _ | with_reducible apply keeps_ite2 | with_reducible apply keeps_ite3 | with_reducible apply keeps_foldl | with_reducible apply keeps_foldl2 | with_reducible apply keeps_foldl3 | with_reducible apply keeps_iter | with_reducible apply keeps_elim | with_reducible apply keeps_ite | split | with_reducible apply keeps_mk | dsimp only)

theorem bist_keeps {z : State} (s : State) (failed : List Nat) (hK : Keeps z s) : Keeps z (bist s failed) := by
  unfold bist
  try dsimp only
  repeat' (first | with_reducible assumption | intro _ | with_reducible apply keeps_ite2 | with_reducible apply keeps_ite3 | with_reducible apply putReg_keeps | with_reducible apply modMgt_keeps | with_reducible apply keeps_foldl | with_reducible apply keeps_foldl2 | with_reducible apply keeps_foldl3 | with_reducible apply keeps_iter | with_reducible apply keeps_elim | with_reducible apply keeps_ite | split | with_reducible apply keeps_mk | dsimp only)

theorem measure_keeps {z : State} (s : State) (hK : Keeps z s) : Keeps z (measure s) := by
  unfold measure
  try dsimp only
  repeat' (first | with_reducible assumption | intro _ | with_reducible apply keeps_ite2 | with_reducible apply keeps_ite3 | with_reducible apply modMgt_keeps | with_reducible apply keeps_foldl | with_reducible apply keeps_foldl2 | with_reducible apply keeps_foldl3 | with_reducible apply keeps_iter | with_reducible apply keeps_elim | with_reducible apply keeps_ite | split | with_reducible apply keeps_mk | dsimp only)

theorem tileMemClear_keeps {z : State} (s : State) (h : Keeps z s) : Keeps z (tileMemClear s) :=
  keeps_mem h rfl rfl rfl (fun w => wf_zeroRange _ _ _ w)

theorem fabricBuckets_keeps {z : State} (s : State) (hK : Keeps z s) : Keeps z (fabricBuckets s) := by
  unfold fabricBuckets
  try dsimp only
  repeat' (first | with_reducible assumption | intro _ | with_reducible apply keeps_ite2 | with_reducible apply keeps_ite3 | with_reducible apply keeps_foldl | with_reducible apply keeps_foldl2 | with_reducible apply keeps_foldl3 | with_reducible apply keeps_iter | with_reducible apply keeps_elim | with_reducible apply keeps_ite | split | with_reducible apply keeps_mk | dsimp only)

theorem isoAgain_keeps {z : State} (s : State) (t : Nat) (hK : Keeps z s) : Keeps z (isoAgain s t) := by
  unfold isoAgain
  try dsimp only
  repeat' (first | with_reducible assumption | intro _ | with_reducible apply keeps_ite2 | with_reducible apply keeps_ite3 | with_reducible apply putFld_keeps | with_reducible apply putBit_keeps | with_reducible apply keeps_foldl | with_reducible apply keeps_foldl2 | with_reducible apply keeps_foldl3 | with_reducible apply keeps_iter | with_reducible apply keeps_elim | with_reducible apply keeps_ite | split | with_reducible apply keeps_mk | dsimp only)

theorem keepUnpowered_keeps {z : State} (s0 s : State) (hK : Keeps z s0) (hK1 : Keeps z s) : Keeps z (keepUnpowered s0 s) := by
  unfold keepUnpowered
  try dsimp only
  repeat' (first | with_reducible assumption | intro _ | with_reducible apply keeps_ite2 | with_reducible apply keeps_ite3 | with_reducible apply isoAgain_keeps | with_reducible apply modTile_keeps | with_reducible apply keeps_foldl | with_reducible apply keeps_foldl2 | with_reducible apply keeps_foldl3 | with_reducible apply keeps_iter | with_reducible apply keeps_elim | with_reducible apply keeps_ite | split | with_reducible apply keeps_mk | dsimp only)

theorem fabricClear_keeps {z : State} (s : State) (hK : Keeps z s) : Keeps z (fabricClear s) := by
  unfold fabricClear
  try dsimp only
  repeat' (first | with_reducible assumption | intro _ | with_reducible apply keeps_ite2 | with_reducible apply keeps_ite3 | with_reducible apply keepUnpowered_keeps | with_reducible apply tileMemClear_keeps | with_reducible apply fabricBuckets_keeps | with_reducible apply keeps_foldl | with_reducible apply keeps_foldl2 | with_reducible apply keeps_foldl3 | with_reducible apply keeps_iter | with_reducible apply keeps_elim | with_reducible apply keeps_ite | split | with_reducible apply keeps_mk | dsimp only)

theorem baseReset_keeps {z : State} (s : State) (sc : Scope) (h : Keeps z s) : Keeps z (baseReset s sc) := by
  unfold baseReset
  with_reducible apply putReg_keeps
  exact ⟨h.fuses, h.pending, h.time, fun _ => rfl⟩

theorem coldReset_keeps {z : State} (s : State) (hK : Keeps z s) : Keeps z (coldReset s) := by
  unfold coldReset
  try dsimp only
  repeat' (first | with_reducible assumption | intro _ | with_reducible apply keeps_ite2 | with_reducible apply keeps_ite3 | with_reducible apply baseReset_keeps | with_reducible apply keeps_foldl | with_reducible apply keeps_foldl2 | with_reducible apply keeps_foldl3 | with_reducible apply keeps_iter | with_reducible apply keeps_elim | with_reducible apply keeps_ite | split | with_reducible apply keeps_mk | dsimp only)

theorem warmReset_keeps {z : State} (s : State) (hK : Keeps z s) : Keeps z (warmReset s) := by
  unfold warmReset
  try dsimp only
  repeat' (first | with_reducible assumption | intro _ | with_reducible apply keeps_ite2 | with_reducible apply keeps_ite3 | with_reducible apply baseReset_keeps | with_reducible apply putReg_keeps | with_reducible apply putFld_keeps | with_reducible apply keepUnpowered_keeps | with_reducible apply modMgt_keeps | with_reducible apply keeps_foldl | with_reducible apply keeps_foldl2 | with_reducible apply keeps_foldl3 | with_reducible apply keeps_iter | with_reducible apply keeps_elim | with_reducible apply keeps_ite | split | with_reducible apply keeps_mk | dsimp only)

theorem rstDrop_keeps {z : State} (s : State) (hK : Keeps z s) : Keeps z (rstDrop s) := by
  unfold rstDrop
  try dsimp only
  repeat' (first | with_reducible assumption | intro _ | with_reducible apply keeps_ite2 | with_reducible apply keeps_ite3 | with_reducible apply captureOpen_keeps | with_reducible apply keeps_foldl | with_reducible apply keeps_foldl2 | with_reducible apply keeps_foldl3 | with_reducible apply keeps_iter | with_reducible apply keeps_elim | with_reducible apply keeps_ite | split | with_reducible apply keeps_mk | dsimp only)

theorem tileResetStart_keeps {z : State} (s : State) (t : Nat) (h : Keeps z s) : Keeps z (tileResetStart s t) := by
  unfold tileResetStart
  with_reducible apply modMgt_keeps
  with_reducible apply keeps_foldl
  · with_reducible apply bucketRestore_keeps
    with_reducible apply putReg_keeps
    with_reducible apply putReg_keeps
    with_reducible apply setTile_keeps
    exact keeps_mem h rfl rfl rfl (fun w => wf_zeroRange _ _ _ w)
  · intro x e k
    exact bucketRestore_keeps _ _ _ k

theorem rstCold_keeps {z : State} (s : State) (hK : Keeps z s) : Keeps z (rstCold s) := by
  unfold rstCold
  try dsimp only
  repeat' (first | with_reducible assumption | intro _ | with_reducible apply keeps_ite2 | with_reducible apply keeps_ite3 | with_reducible apply coldReset_keeps | with_reducible apply rstDrop_keeps | with_reducible apply keeps_foldl | with_reducible apply keeps_foldl2 | with_reducible apply keeps_foldl3 | with_reducible apply keeps_iter | with_reducible apply keeps_elim | with_reducible apply keeps_ite | split | with_reducible apply keeps_mk | dsimp only)

theorem rstWarm_keeps {z : State} (s : State) (hK : Keeps z s) : Keeps z (rstWarm s) := by
  unfold rstWarm
  try dsimp only
  repeat' (first | with_reducible assumption | intro _ | with_reducible apply keeps_ite2 | with_reducible apply keeps_ite3 | with_reducible apply warmReset_keeps | with_reducible apply rstDrop_keeps | with_reducible apply keeps_foldl | with_reducible apply keeps_foldl2 | with_reducible apply keeps_foldl3 | with_reducible apply keeps_iter | with_reducible apply keeps_elim | with_reducible apply keeps_ite | split | with_reducible apply keeps_mk | dsimp only)

theorem rstFabric_keeps {z : State} (s : State) (failed : List Nat) (hK : Keeps z s) : Keeps z (rstFabric s failed) := by
  unfold rstFabric
  try dsimp only
  repeat' (first | with_reducible assumption | intro _ | with_reducible apply keeps_ite2 | with_reducible apply keeps_ite3 | with_reducible apply modMgt_keeps | with_reducible apply bist_keeps | with_reducible apply fabricClear_keeps | with_reducible apply rstDrop_keeps | with_reducible apply keeps_foldl | with_reducible apply keeps_foldl2 | with_reducible apply keeps_foldl3 | with_reducible apply keeps_iter | with_reducible apply keeps_elim | with_reducible apply keeps_ite | split | with_reducible apply keeps_mk | dsimp only)

theorem rstTile_keeps {z : State} (s : State) (t : Nat) (hK : Keeps z s) : Keeps z (rstTile s t) := by
  unfold rstTile
  try dsimp only
  repeat' (first | with_reducible assumption | intro _ | with_reducible apply keeps_ite2 | with_reducible apply keeps_ite3 | with_reducible apply modMgt_keeps | with_reducible apply rstDrop_keeps | with_reducible apply tileResetStart_keeps | with_reducible apply keeps_foldl | with_reducible apply keeps_foldl2 | with_reducible apply keeps_foldl3 | with_reducible apply keeps_iter | with_reducible apply keeps_elim | with_reducible apply keeps_ite | split | with_reducible apply keeps_mk | dsimp only)

theorem rstWritten_keeps {z : State} (s : State) (v : Word) (failed : List Nat) (hK : Keeps z s) : Keeps z (rstWritten s v failed) := by
  unfold rstWritten
  try dsimp only
  repeat' (first | with_reducible assumption | intro _ | with_reducible apply keeps_ite2 | with_reducible apply keeps_ite3 | with_reducible apply rstCold_keeps | with_reducible apply rstFabric_keeps | with_reducible apply rstTile_keeps | with_reducible apply keeps_foldl | with_reducible apply keeps_foldl2 | with_reducible apply keeps_foldl3 | with_reducible apply keeps_iter | with_reducible apply keeps_elim | with_reducible apply keeps_ite | split | with_reducible apply keeps_mk | dsimp only)

theorem rstDone_keeps {z : State} (s : State) (last : Nat) (hK : Keeps z s) : Keeps z (rstDone s last) := by
  unfold rstDone
  try dsimp only
  repeat' (first | with_reducible assumption | intro _ | with_reducible apply keeps_ite2 | with_reducible apply keeps_ite3 | with_reducible apply putFld_keeps | with_reducible apply addFld_keeps | with_reducible apply isrBit_keeps | with_reducible apply modMgt_keeps | with_reducible apply keeps_foldl | with_reducible apply keeps_foldl2 | with_reducible apply keeps_foldl3 | with_reducible apply keeps_iter | with_reducible apply keeps_elim | with_reducible apply keeps_ite | split | with_reducible apply keeps_mk | dsimp only)

theorem rstComplete_keeps {z : State} (s : State) (hK : Keeps z s) : Keeps z (rstComplete s) := by
  unfold rstComplete
  try dsimp only
  repeat' (first | with_reducible assumption | intro _ | with_reducible apply keeps_ite2 | with_reducible apply keeps_ite3 | with_reducible apply rstDone_keeps | with_reducible apply measure_keeps | with_reducible apply modMgt_keeps | with_reducible apply isoAgain_keeps | with_reducible apply tileResetStart_keeps | with_reducible apply keeps_foldl | with_reducible apply keeps_foldl2 | with_reducible apply keeps_foldl3 | with_reducible apply keeps_iter | with_reducible apply keeps_elim | with_reducible apply keeps_ite | split | with_reducible apply keeps_mk | dsimp only)

theorem bootFail_keeps {z : State} (s : State) (code : Nat) (hK : Keeps z s) : Keeps z (bootFail s code) := by
  unfold bootFail
  try dsimp only
  repeat' (first | with_reducible assumption | intro _ | with_reducible apply keeps_ite2 | with_reducible apply keeps_ite3 | with_reducible apply putFld_keeps | with_reducible apply errStop_keeps | with_reducible apply captureOpen_keeps | with_reducible apply modMgt_keeps | with_reducible apply keeps_foldl | with_reducible apply keeps_foldl2 | with_reducible apply keeps_foldl3 | with_reducible apply keeps_iter | with_reducible apply keeps_elim | with_reducible apply keeps_ite | split | with_reducible apply keeps_mk | dsimp only)

theorem trainHbm_keeps {z : State} (s : State) (untrained : List Nat) (hK : Keeps z s) : Keeps z (trainHbm s untrained) := by
  unfold trainHbm
  try dsimp only
  repeat' (first | with_reducible assumption | intro _ | with_reducible apply keeps_ite2 | with_reducible apply keeps_ite3 | with_reducible apply putBit_keeps | with_reducible apply retire_keeps | with_reducible apply keeps_foldl | with_reducible apply keeps_foldl2 | with_reducible apply keeps_foldl3 | with_reducible apply keeps_iter | with_reducible apply keeps_elim | with_reducible apply keeps_ite | split | with_reducible apply keeps_mk | dsimp only)

theorem bootRest_keeps {z : State} (s : State) (failed untrained : List Nat) (hK : Keeps z s) : Keeps z (bootRest s failed untrained) := by
  unfold bootRest
  try dsimp only
  repeat' (first | with_reducible assumption | intro _ | with_reducible apply keeps_ite2 | with_reducible apply keeps_ite3 | with_reducible apply bist_keeps | with_reducible apply bootFail_keeps | with_reducible apply ntStart_keeps | with_reducible apply measure_keeps | with_reducible apply trainHbm_keeps | with_reducible apply tileMemClear_keeps | with_reducible apply putFld_keeps | with_reducible apply modMgt_keeps | with_reducible apply keeps_foldl | with_reducible apply keeps_foldl2 | with_reducible apply keeps_foldl3 | with_reducible apply keeps_iter | with_reducible apply keeps_elim | with_reducible apply keeps_ite | split | with_reducible apply keeps_mk | dsimp only)

theorem boot_keeps {z : State} (s : State) (a b : Image) (railsOk : Bool) (failed untrained : List Nat) (hK : Keeps z s) : Keeps z (boot s a b railsOk failed untrained) := by
  unfold boot
  try dsimp only
  repeat' (first | with_reducible assumption | intro _ | with_reducible apply keeps_ite2 | with_reducible apply keeps_ite3 | with_reducible apply putFld_keeps | with_reducible apply putBit_keeps | with_reducible apply modMgt_keeps | with_reducible apply bootFail_keeps | with_reducible apply bootRest_keeps | with_reducible apply keeps_foldl | with_reducible apply keeps_foldl2 | with_reducible apply keeps_foldl3 | with_reducible apply keeps_iter | with_reducible apply keeps_elim | with_reducible apply keeps_ite | split | with_reducible apply keeps_mk | dsimp only)

theorem railTimeout_keeps {z : State} (s : State) (hK : Keeps z s) : Keeps z (railTimeout s) := by
  unfold railTimeout
  try dsimp only
  repeat' (first | with_reducible assumption | intro _ | with_reducible apply keeps_ite2 | with_reducible apply keeps_ite3 | with_reducible apply modMgt_keeps | with_reducible apply bootFail_keeps | with_reducible apply keeps_foldl | with_reducible apply keeps_foldl2 | with_reducible apply keeps_foldl3 | with_reducible apply keeps_iter | with_reducible apply keeps_elim | with_reducible apply keeps_ite | split | with_reducible apply keeps_mk | dsimp only)

theorem vstbyLoss_keeps {z : State} (s : State) (hK : Keeps z s) : Keeps z (vstbyLoss s) := by
  unfold vstbyLoss
  try dsimp only
  repeat' (first | with_reducible assumption | intro _ | with_reducible apply keeps_ite2 | with_reducible apply keeps_ite3 | with_reducible apply modMgt_keeps | with_reducible apply coldReset_keeps | with_reducible apply keeps_foldl | with_reducible apply keeps_foldl2 | with_reducible apply keeps_foldl3 | with_reducible apply keeps_iter | with_reducible apply keeps_elim | with_reducible apply keeps_ite | split | with_reducible apply keeps_mk | dsimp only)

theorem vstbyValid_keeps {z : State} (s : State) (hK : Keeps z s) : Keeps z (vstbyValid s) := by
  unfold vstbyValid
  try dsimp only
  repeat' (first | with_reducible assumption | intro _ | with_reducible apply keeps_ite2 | with_reducible apply keeps_ite3 | with_reducible apply modMgt_keeps | with_reducible apply coldReset_keeps | with_reducible apply keeps_foldl | with_reducible apply keeps_foldl2 | with_reducible apply keeps_foldl3 | with_reducible apply keeps_iter | with_reducible apply keeps_elim | with_reducible apply keeps_ite | split | with_reducible apply keeps_mk | dsimp only)

theorem thermTrip_keeps {z : State} (s : State) (hK : Keeps z s) : Keeps z (thermTrip s) := by
  unfold thermTrip
  try dsimp only
  repeat' (first | with_reducible assumption | intro _ | with_reducible apply keeps_ite2 | with_reducible apply keeps_ite3 | with_reducible apply emit_keeps | with_reducible apply modMgt_keeps | with_reducible apply fabricClear_keeps | with_reducible apply keeps_foldl | with_reducible apply keeps_foldl2 | with_reducible apply keeps_foldl3 | with_reducible apply keeps_iter | with_reducible apply keeps_elim | with_reducible apply keeps_ite | split | with_reducible apply keeps_mk | dsimp only)

theorem effPut_keeps {z : State} (s : State) (q mv : Nat) (hK : Keeps z s) : Keeps z (effPut s q mv) := by
  unfold effPut
  try dsimp only
  repeat' (first | with_reducible assumption | intro _ | with_reducible apply keeps_ite2 | with_reducible apply keeps_ite3 | with_reducible apply putFld_keeps | with_reducible apply modMgt_keeps | with_reducible apply keeps_foldl | with_reducible apply keeps_foldl2 | with_reducible apply keeps_foldl3 | with_reducible apply keeps_iter | with_reducible apply keeps_elim | with_reducible apply keeps_ite | split | with_reducible apply keeps_mk | dsimp only)

theorem vsetWritten_keeps {z : State} (s : State) (hK : Keeps z s) : Keeps z (vsetWritten s) := by
  unfold vsetWritten
  try dsimp only
  repeat' (first | with_reducible assumption | intro _ | with_reducible apply keeps_ite2 | with_reducible apply keeps_ite3 | with_reducible apply effPut_keeps | with_reducible apply keeps_foldl | with_reducible apply keeps_foldl2 | with_reducible apply keeps_foldl3 | with_reducible apply keeps_iter | with_reducible apply keeps_elim | with_reducible apply keeps_ite | split | with_reducible apply keeps_mk | dsimp only)

theorem tempReport_keeps {z : State} (s : State) (cd : List Nat) (iow ioe : Nat) (hK : Keeps z s) : Keeps z (tempReport s cd iow ioe) := by
  unfold tempReport
  try dsimp only
  repeat' (first | with_reducible assumption | intro _ | with_reducible apply keeps_ite2 | with_reducible apply keeps_ite3 | with_reducible apply putFld_keeps | with_reducible apply keeps_foldl | with_reducible apply keeps_foldl2 | with_reducible apply keeps_foldl3 | with_reducible apply keeps_iter | with_reducible apply keeps_elim | with_reducible apply keeps_ite | split | with_reducible apply keeps_mk | dsimp only)

theorem throttleDie_keeps {z : State} (s : State) (q : Nat) (hK : Keeps z s) : Keeps z (throttleDie s q) := by
  unfold throttleDie
  try dsimp only
  repeat' (first | with_reducible assumption | intro _ | with_reducible apply keeps_ite2 | with_reducible apply keeps_ite3 | with_reducible apply isrBit_keeps | with_reducible apply modMgt_keeps | with_reducible apply effPut_keeps | with_reducible apply keeps_foldl | with_reducible apply keeps_foldl2 | with_reducible apply keeps_foldl3 | with_reducible apply keeps_iter | with_reducible apply keeps_elim | with_reducible apply keeps_ite | split | with_reducible apply keeps_mk | dsimp only)

theorem throttleReview_keeps {z : State} (s : State) (hK : Keeps z s) : Keeps z (throttleReview s) := by
  unfold throttleReview
  try dsimp only
  repeat' (first | with_reducible assumption | intro _ | with_reducible apply keeps_ite2 | with_reducible apply keeps_ite3 | with_reducible apply throttleDie_keeps | with_reducible apply keeps_foldl | with_reducible apply keeps_foldl2 | with_reducible apply keeps_foldl3 | with_reducible apply keeps_iter | with_reducible apply keeps_elim | with_reducible apply keeps_ite | split | with_reducible apply keeps_mk | dsimp only)

theorem pageReset_keeps {z : State} (s : State) (p : Page) (hK : Keeps z s) : Keeps z (pageReset s p) := by
  unfold pageReset
  try dsimp only
  repeat' (first | with_reducible assumption | intro _ | with_reducible apply keeps_ite2 | with_reducible apply keeps_ite3 | with_reducible apply putReg_keeps | with_reducible apply resetRegs_keeps | with_reducible apply keeps_foldl | with_reducible apply keeps_foldl2 | with_reducible apply keeps_foldl3 | with_reducible apply keeps_iter | with_reducible apply keeps_elim | with_reducible apply keeps_ite | split | with_reducible apply keeps_mk | dsimp only)

theorem keepReg_keeps {z : State} (s0 s : State) (p : Page) (off : Nat) (hK : Keeps z s0) (h2 : Keeps z s) : Keeps z (keepReg s0 s p off) := by
  unfold keepReg
  try dsimp only
  repeat' (first | with_reducible assumption | intro _ | with_reducible apply keeps_ite2 | with_reducible apply keeps_ite3 | with_reducible apply putReg_keeps | with_reducible apply keeps_foldl | with_reducible apply keeps_foldl2 | with_reducible apply keeps_foldl3 | with_reducible apply keeps_iter | with_reducible apply keeps_elim | with_reducible apply keeps_ite | split | with_reducible apply keeps_mk | dsimp only)

theorem cmbReset_keeps {z : State} (s : State) (t : Nat) (hK : Keeps z s) : Keeps z (cmbReset s t) := by
  unfold cmbReset
  try dsimp only
  repeat' (first | with_reducible assumption | intro _ | with_reducible apply keeps_ite2 | with_reducible apply keeps_ite3 | with_reducible apply modTile_keeps | with_reducible apply rqDisable_keeps | with_reducible apply pageReset_keeps | with_reducible apply keeps_foldl | with_reducible apply keeps_foldl2 | with_reducible apply keeps_foldl3 | with_reducible apply keeps_iter | with_reducible apply keeps_elim | with_reducible apply keeps_ite | split | with_reducible apply keeps_mk | dsimp only)

theorem srst_keeps {z : State} (s : State) (p : Page) (hK : Keeps z s) : Keeps z (srst s p) := by
  unfold srst
  try dsimp only
  repeat' (first | with_reducible assumption | intro _ | with_reducible apply keeps_ite2 | with_reducible apply keeps_ite3 | with_reducible apply abortCtx_keeps | with_reducible apply putBit_keeps | with_reducible apply seqSrstEnd_keeps | with_reducible apply modTile_keeps | with_reducible apply pageReset_keeps | with_reducible apply movSrstEnd_keeps | with_reducible apply cmbReset_keeps | with_reducible apply keepReg_keeps | with_reducible apply linkDown_keeps | with_reducible apply modLink_keeps | with_reducible apply bucketRestore_keeps | with_reducible apply modEth_keeps | with_reducible apply modGlz_keeps | with_reducible apply vsetWritten_keeps | with_reducible apply keeps_foldl | with_reducible apply keeps_foldl2 | with_reducible apply keeps_foldl3 | with_reducible apply keeps_iter | with_reducible apply keeps_elim | with_reducible apply keeps_ite | split | with_reducible apply keeps_mk | dsimp only)

end Sys2Proof.Machine
end

