-- ==== Sys2Proof/Laws/KeepsRegView.lean ====
section
/-! SUPPORT. Every operation of Machine/RegView.lean keeps what Safety.lean names. -/

namespace Sys2Proof.Machine

set_option linter.all false

theorem latch_keeps {z : State} (s : State) (p : Page) (offs : List Nat) (hK : Keeps z s) : Keeps z (latch s p offs) := by
  unfold latch
  try dsimp only
  repeat' (first | with_reducible assumption | intro _ | with_reducible apply keeps_ite2 | with_reducible apply keeps_ite3 | with_reducible apply keeps_foldl | with_reducible apply keeps_foldl2 | with_reducible apply keeps_foldl3 | with_reducible apply keeps_iter | with_reducible apply keeps_elim | with_reducible apply keeps_ite | split | with_reducible apply keeps_mk | dsimp only)

theorem regRead_keeps {z : State} (s : State) (p : Page) (off : Nat) (hK : Keeps z s) : Keeps z (regRead s p off).2 := by
  unfold regRead
  try dsimp only
  repeat' (first | with_reducible assumption | intro _ | with_reducible apply keeps_ite2 | with_reducible apply keeps_ite3 | with_reducible apply putReg_keeps | with_reducible apply latch_keeps | with_reducible apply keeps_foldl | with_reducible apply keeps_foldl2 | with_reducible apply keeps_foldl3 | with_reducible apply keeps_iter | with_reducible apply keeps_elim | with_reducible apply keeps_ite | split | with_reducible apply keeps_mk | dsimp only)

theorem regRead_keeps2 {z : State} {s : State} {p : Page} {off : Nat} {rK} {sK : State} (e : regRead s p off = (rK, sK)) (hK : Keeps z s) : Keeps z sK := by
  have k := regRead_keeps (z := z) s p off hK
  rw [e] at k; exact k

end Sys2Proof.Machine
end

