-- ==== Sys2Proof/Laws/KeepsRegOps.lean ====
section
/-! SUPPORT. Every operation of Machine/RegOps.lean keeps what Safety.lean names. -/

namespace Sys2Proof.Machine

set_option linter.all false

theorem regErr_keeps {z : State} (s : State) (a : RegAcc) (p : Page) (code : Nat) (hK : Keeps z s) : Keeps z (regErr s a p code) := by
  unfold regErr
  try dsimp only
  repeat' (first | with_reducible assumption | intro _ | with_reducible apply keeps_ite2 | with_reducible apply keeps_ite3 | with_reducible apply capture_keeps | with_reducible apply captureOpen_keeps | with_reducible apply keeps_foldl | with_reducible apply keeps_foldl2 | with_reducible apply keeps_foldl3 | with_reducible apply keeps_iter | with_reducible apply keeps_elim | with_reducible apply keeps_ite | split | with_reducible apply keeps_mk | dsimp only)

theorem hwAdd_keeps {z : State} (s : State) (p : Page) (off : Nat) (f : Fld) (v : Nat) (hK : Keeps z s) : Keeps z (hwAdd s p off f v) := by
  unfold hwAdd
  try dsimp only
  repeat' (first | with_reducible assumption | intro _ | with_reducible apply keeps_ite2 | with_reducible apply keeps_ite3 | with_reducible apply semOp_keeps | with_reducible apply addFld_keeps | with_reducible apply keeps_foldl | with_reducible apply keeps_foldl2 | with_reducible apply keeps_foldl3 | with_reducible apply keeps_iter | with_reducible apply keeps_elim | with_reducible apply keeps_ite | split | with_reducible apply keeps_mk | dsimp only)

theorem hwApply_keeps {z : State} (s : State) (p : Page) (off : Nat) (d : RegDef) (h : HwUpd) (hK : Keeps z s) : Keeps z (hwApply s p off d h) := by
  unfold hwApply
  try dsimp only
  repeat' (first | with_reducible assumption | intro _ | with_reducible apply keeps_ite2 | with_reducible apply keeps_ite3 | with_reducible apply hwAdd_keeps | with_reducible apply putFld_keeps | with_reducible apply captureOpen_keeps | with_reducible apply addFld_keeps | with_reducible apply keeps_foldl | with_reducible apply keeps_foldl2 | with_reducible apply keeps_foldl3 | with_reducible apply keeps_iter | with_reducible apply keeps_elim | with_reducible apply keeps_ite | split | with_reducible apply keeps_mk | dsimp only)

theorem hwMaybe_keeps {z : State} (s : State) (p : Page) (off : Nat) (d : RegDef) (h : Option HwUpd) (hK : Keeps z s) : Keeps z (hwMaybe s p off d h) := by
  unfold hwMaybe
  try dsimp only
  repeat' (first | with_reducible assumption | intro _ | with_reducible apply keeps_ite2 | with_reducible apply keeps_ite3 | with_reducible apply hwApply_keeps | with_reducible apply keeps_foldl | with_reducible apply keeps_foldl2 | with_reducible apply keeps_foldl3 | with_reducible apply keeps_iter | with_reducible apply keeps_elim | with_reducible apply keeps_ite | split | with_reducible apply keeps_mk | dsimp only)

theorem lineRise_keeps {z : State} (s0 s : State) (p : Page) (hK : Keeps z s0) (h2 : Keeps z s) : Keeps z (lineRise s0 s p) := by
  unfold lineRise
  try dsimp only
  repeat' (first | with_reducible assumption | intro _ | with_reducible apply keeps_ite2 | with_reducible apply keeps_ite3 | with_reducible apply irqMessage_keeps | with_reducible apply sillage_keeps | with_reducible apply keeps_foldl | with_reducible apply keeps_foldl2 | with_reducible apply keeps_foldl3 | with_reducible apply keeps_iter | with_reducible apply keeps_elim | with_reducible apply keeps_ite | split | with_reducible apply keeps_mk | dsimp only)

theorem hwAlone_keeps {z : State} (s : State) (p : Page) (off : Nat) (d : RegDef) (h : Option HwUpd) (hK : Keeps z s) : Keeps z (hwAlone s p off d h) := by
  unfold hwAlone
  try dsimp only
  repeat' (first | with_reducible assumption | intro _ | with_reducible apply keeps_ite2 | with_reducible apply keeps_ite3 | with_reducible apply hwMaybe_keeps | with_reducible apply lineRise_keeps | with_reducible apply keeps_foldl | with_reducible apply keeps_foldl2 | with_reducible apply keeps_foldl3 | with_reducible apply keeps_iter | with_reducible apply keeps_elim | with_reducible apply keeps_ite | split | with_reducible apply keeps_mk | dsimp only)

theorem perfClear_keeps {z : State} (s : State) (p : Page) (hK : Keeps z s) : Keeps z (perfClear s p) := by
  unfold perfClear
  try dsimp only
  repeat' (first | with_reducible assumption | intro _ | with_reducible apply keeps_ite2 | with_reducible apply keeps_ite3 | with_reducible apply resetRegs_keeps | with_reducible apply keeps_foldl | with_reducible apply keeps_foldl2 | with_reducible apply keeps_foldl3 | with_reducible apply keeps_iter | with_reducible apply keeps_elim | with_reducible apply keeps_ite | split | with_reducible apply keeps_mk | dsimp only)

theorem ringClear_keeps {z : State} (s : State) (p : Page) (hK : Keeps z s) : Keeps z (ringClear s p) := by
  unfold ringClear
  try dsimp only
  repeat' (first | with_reducible assumption | intro _ | with_reducible apply keeps_ite2 | with_reducible apply keeps_ite3 | with_reducible apply putReg_keeps | with_reducible apply resetRegs_keeps | with_reducible apply keeps_foldl | with_reducible apply keeps_foldl2 | with_reducible apply keeps_foldl3 | with_reducible apply keeps_iter | with_reducible apply keeps_elim | with_reducible apply keeps_ite | split | with_reducible apply keeps_mk | dsimp only)

theorem headHook_keeps {z : State} (s0 s : State) (p : Page) (off : Nat) (old v : Word) (hK : Keeps z s0) (hK1 : Keeps z s) : Keeps z (headHook s0 s p off old v) := by
  unfold headHook
  try dsimp only
  repeat' (first | with_reducible assumption | intro _ | with_reducible apply keeps_ite2 | with_reducible apply keeps_ite3 | with_reducible apply putBit_keeps | with_reducible apply rstDrop_keeps | with_reducible apply srst_keeps | with_reducible apply lineRise_keeps | with_reducible apply isrSet_keeps | with_reducible apply ringClear_keeps | with_reducible apply perfClear_keeps | with_reducible apply keeps_foldl | with_reducible apply keeps_foldl2 | with_reducible apply keeps_foldl3 | with_reducible apply keeps_iter | with_reducible apply keeps_elim | with_reducible apply keeps_ite | split | with_reducible apply keeps_mk | dsimp only)

theorem leaseStart_keeps {z : State} (s : State) (t i : Nat) (hK : Keeps z s) : Keeps z (leaseStart s t i) := by
  unfold leaseStart
  try dsimp only
  repeat' (first | with_reducible assumption | intro _ | with_reducible apply keeps_ite2 | with_reducible apply keeps_ite3 | with_reducible apply putFld_keeps | with_reducible apply modTile_keeps | with_reducible apply keeps_foldl | with_reducible apply keeps_foldl2 | with_reducible apply keeps_foldl3 | with_reducible apply keeps_iter | with_reducible apply keeps_elim | with_reducible apply keeps_ite | split | with_reducible apply keeps_mk | dsimp only)

theorem tilHook_keeps {z : State} (s : State) (t off : Nat) (old : Word) (hK : Keeps z s) : Keeps z (tilHook s t off old) := by
  unfold tilHook
  try dsimp only
  repeat' (first | with_reducible assumption | intro _ | with_reducible apply keeps_ite2 | with_reducible apply keeps_ite3 | with_reducible apply isolate_keeps | with_reducible apply leaseSet_keeps | with_reducible apply leaseStart_keeps | with_reducible apply keeps_foldl | with_reducible apply keeps_foldl2 | with_reducible apply keeps_foldl3 | with_reducible apply keeps_iter | with_reducible apply keeps_elim | with_reducible apply keeps_ite | split | with_reducible apply keeps_mk | dsimp only)

theorem loadAsk_keeps {z : State} (s : State) (t lc : Nat) (hK : Keeps z s) : Keeps z (loadAsk s t lc) := by
  unfold loadAsk
  try dsimp only
  repeat' (first | with_reducible assumption | intro _ | with_reducible apply keeps_ite2 | with_reducible apply keeps_ite3 | with_reducible apply modTile_keeps | with_reducible apply keeps_foldl | with_reducible apply keeps_foldl2 | with_reducible apply keeps_foldl3 | with_reducible apply keeps_iter | with_reducible apply keeps_elim | with_reducible apply keeps_ite | split | with_reducible apply keeps_mk | dsimp only)

theorem predClear_keeps {z : State} (s : State) (t : Nat) (hK : Keeps z s) : Keeps z (predClear s t) := by
  unfold predClear
  try dsimp only
  repeat' (first | with_reducible assumption | intro _ | with_reducible apply keeps_ite2 | with_reducible apply keeps_ite3 | with_reducible apply modTile_keeps | with_reducible apply keeps_foldl | with_reducible apply keeps_foldl2 | with_reducible apply keeps_foldl3 | with_reducible apply keeps_iter | with_reducible apply keeps_elim | with_reducible apply keeps_ite | split | with_reducible apply keeps_mk | dsimp only)

theorem seqHook_keeps {z : State} (s : State) (t off : Nat) (v : Word) (hK : Keeps z s) : Keeps z (seqHook s t off v) := by
  unfold seqHook
  try dsimp only
  repeat' (first | with_reducible assumption | intro _ | with_reducible apply keeps_ite2 | with_reducible apply keeps_ite3 | with_reducible apply abortCtx_keeps | with_reducible apply loadAsk_keeps | with_reducible apply predClear_keeps | with_reducible apply keeps_foldl | with_reducible apply keeps_foldl2 | with_reducible apply keeps_foldl3 | with_reducible apply keeps_iter | with_reducible apply keeps_elim | with_reducible apply keeps_ite | split | with_reducible apply keeps_mk | dsimp only)

theorem pelClear_keeps {z : State} (s : State) (t : Nat) (hK : Keeps z s) : Keeps z (pelClear s t) := by
  unfold pelClear
  try dsimp only
  repeat' (first | with_reducible assumption | intro _ | with_reducible apply keeps_ite2 | with_reducible apply keeps_ite3 | with_reducible apply putReg_keeps | with_reducible apply resetRegs_keeps | with_reducible apply keeps_foldl | with_reducible apply keeps_foldl2 | with_reducible apply keeps_foldl3 | with_reducible apply keeps_iter | with_reducible apply keeps_elim | with_reducible apply keeps_ite | split | with_reducible apply keeps_mk | dsimp only)

theorem tblEntry_keeps {z : State} (s : State) (g : GPlace) (e : GEntry) (hK : Keeps z s) : Keeps z (tblEntry s g e) := by
  unfold tblEntry
  try dsimp only
  repeat' (first | with_reducible assumption | intro _ | with_reducible apply keeps_ite2 | with_reducible apply keeps_ite3 | with_reducible apply putReg_keeps | with_reducible apply keeps_foldl | with_reducible apply keeps_foldl2 | with_reducible apply keeps_foldl3 | with_reducible apply keeps_iter | with_reducible apply keeps_elim | with_reducible apply keeps_ite | split | with_reducible apply keeps_mk | dsimp only)

theorem tblPut_keeps {z : State} (s : State) (g : GPlace) (a b c d : Word) (hK : Keeps z s) : Keeps z (tblPut s g a b c d) := by
  unfold tblPut
  try dsimp only
  repeat' (first | with_reducible assumption | intro _ | with_reducible apply keeps_ite2 | with_reducible apply keeps_ite3 | with_reducible apply putReg_keeps | with_reducible apply keeps_foldl | with_reducible apply keeps_foldl2 | with_reducible apply keeps_foldl3 | with_reducible apply keeps_iter | with_reducible apply keeps_elim | with_reducible apply keeps_ite | split | with_reducible apply keeps_mk | dsimp only)

theorem tblGet_keeps {z : State} (s : State) (g : GPlace) (tbl idx : Nat) (hK : Keeps z s) : Keeps z (tblGet s g tbl idx) := by
  unfold tblGet
  try dsimp only
  repeat' (first | with_reducible assumption | intro _ | with_reducible apply keeps_ite2 | with_reducible apply keeps_ite3 | with_reducible apply tblEntry_keeps | with_reducible apply tblPut_keeps | with_reducible apply keeps_foldl | with_reducible apply keeps_foldl2 | with_reducible apply keeps_foldl3 | with_reducible apply keeps_iter | with_reducible apply keeps_elim | with_reducible apply keeps_ite | split | with_reducible apply keeps_mk | dsimp only)

theorem tblSet_keeps {z : State} (s : State) (g : GPlace) (tbl idx : Nat) (hK : Keeps z s) : Keeps z (tblSet s g tbl idx) := by
  unfold tblSet
  try dsimp only
  repeat' (first | with_reducible assumption | intro _ | with_reducible apply keeps_ite2 | with_reducible apply keeps_ite3 | with_reducible apply modGcl_keeps | with_reducible apply setMtr_keeps | with_reducible apply keeps_foldl | with_reducible apply keeps_foldl2 | with_reducible apply keeps_foldl3 | with_reducible apply keeps_iter | with_reducible apply keeps_elim | with_reducible apply keeps_ite | split | with_reducible apply keeps_mk | dsimp only)

theorem tblOp_keeps {z : State} (s : State) (g : GPlace) (v : Word) (hK : Keeps z s) : Keeps z (tblOp s g v) := by
  unfold tblOp
  try dsimp only
  repeat' (first | with_reducible assumption | intro _ | with_reducible apply keeps_ite2 | with_reducible apply keeps_ite3 | with_reducible apply tblGet_keeps | with_reducible apply tblSet_keeps | with_reducible apply keeps_foldl | with_reducible apply keeps_foldl2 | with_reducible apply keeps_foldl3 | with_reducible apply keeps_iter | with_reducible apply keeps_elim | with_reducible apply keeps_ite | split | with_reducible apply keeps_mk | dsimp only)

theorem gclWritten_keeps {z : State} (s : State) (g : GPlace) (v : Word) (hK : Keeps z s) : Keeps z (gclWritten s g v) := by
  unfold gclWritten
  try dsimp only
  repeat' (first | with_reducible assumption | intro _ | with_reducible apply keeps_ite2 | with_reducible apply keeps_ite3 | with_reducible apply gclHalt_keeps | with_reducible apply bucketRestore_keeps | with_reducible apply gclChg_keeps | with_reducible apply gclCancel_keeps | with_reducible apply keeps_foldl | with_reducible apply keeps_foldl2 | with_reducible apply keeps_foldl3 | with_reducible apply keeps_iter | with_reducible apply keeps_elim | with_reducible apply keeps_ite | split | with_reducible apply keeps_mk | dsimp only)

theorem shpKeep_keeps {z : State} (s : State) (g : GPlace) (o : Nat) (hK : Keeps z s) : Keeps z (shpKeep s g o) := by
  unfold shpKeep
  try dsimp only
  repeat' (first | with_reducible assumption | intro _ | with_reducible apply keeps_ite2 | with_reducible apply keeps_ite3 | with_reducible apply shpSet_keeps | with_reducible apply keeps_foldl | with_reducible apply keeps_foldl2 | with_reducible apply keeps_foldl3 | with_reducible apply keeps_iter | with_reducible apply keeps_elim | with_reducible apply keeps_ite | split | with_reducible apply keeps_mk | dsimp only)

theorem shpWritten_keeps {z : State} (s : State) (g : GPlace) (o : Nat) (old : Word) (hK : Keeps z s) : Keeps z (shpWritten s g o old) := by
  unfold shpWritten
  try dsimp only
  repeat' (first | with_reducible assumption | intro _ | with_reducible apply keeps_ite2 | with_reducible apply keeps_ite3 | with_reducible apply shpSet_keeps | with_reducible apply keeps_foldl | with_reducible apply keeps_foldl2 | with_reducible apply keeps_foldl3 | with_reducible apply keeps_iter | with_reducible apply keeps_elim | with_reducible apply keeps_ite | split | with_reducible apply keeps_mk | dsimp only)

theorem gctlWritten_keeps {z : State} (s : State) (g : GPlace) (old v : Word) (hK : Keeps z s) : Keeps z (gctlWritten s g old v) := by
  unfold gctlWritten
  try dsimp only
  repeat' (first | with_reducible assumption | intro _ | with_reducible apply keeps_ite2 | with_reducible apply keeps_ite3 | with_reducible apply putReg_keeps | with_reducible apply gclSwitch_keeps | with_reducible apply gMark_keeps | with_reducible apply gclWritten_keeps | with_reducible apply keeps_foldl | with_reducible apply keeps_foldl2 | with_reducible apply keeps_foldl3 | with_reducible apply keeps_iter | with_reducible apply keeps_elim | with_reducible apply keeps_ite | split | with_reducible apply keeps_mk | dsimp only)

theorem gateHook_keeps {z : State} (s : State) (g : GPlace) (o : Nat) (old v : Word) (hK : Keeps z s) : Keeps z (gateHook s g o old v) := by
  unfold gateHook
  try dsimp only
  repeat' (first | with_reducible assumption | intro _ | with_reducible apply keeps_ite2 | with_reducible apply keeps_ite3 | with_reducible apply gctlWritten_keeps | with_reducible apply modGcl_keeps | with_reducible apply tblOp_keeps | with_reducible apply shpWritten_keeps | with_reducible apply egFix_keeps | with_reducible apply keeps_foldl | with_reducible apply keeps_foldl2 | with_reducible apply keeps_foldl3 | with_reducible apply keeps_iter | with_reducible apply keeps_elim | with_reducible apply keeps_ite | split | with_reducible apply keeps_mk | dsimp only)

theorem cmbHook_keeps {z : State} (s : State) (t off : Nat) (old : Word) (hK : Keeps z s) : Keeps z (cmbHook s t off old) := by
  unfold cmbHook
  try dsimp only
  repeat' (first | with_reducible assumption | intro _ | with_reducible apply keeps_ite2 | with_reducible apply keeps_ite3 | with_reducible apply rqDisable_keeps | with_reducible apply cqEnWrite_keeps | with_reducible apply keeps_foldl | with_reducible apply keeps_foldl2 | with_reducible apply keeps_foldl3 | with_reducible apply keeps_iter | with_reducible apply keeps_elim | with_reducible apply keeps_ite | split | with_reducible apply keeps_mk | dsimp only)

theorem llkWritten_keeps {z : State} (s : State) (n : Nat) (v : Word) (hK : Keeps z s) : Keeps z (llkWritten s n v) := by
  unfold llkWritten
  try dsimp only
  repeat' (first | with_reducible assumption | intro _ | with_reducible apply keeps_ite2 | with_reducible apply keeps_ite3 | with_reducible apply putBit_keeps | with_reducible apply linkTrain_keeps | with_reducible apply linkDown_keeps | with_reducible apply keeps_foldl | with_reducible apply keeps_foldl2 | with_reducible apply keeps_foldl3 | with_reducible apply keeps_iter | with_reducible apply keeps_elim | with_reducible apply keeps_ite | split | with_reducible apply keeps_mk | dsimp only)

theorem ethHook_keeps {z : State} (s : State) (n off : Nat) (old : Word) (hK : Keeps z s) : Keeps z (ethHook s n off old) := by
  unfold ethHook
  try dsimp only
  repeat' (first | with_reducible assumption | intro _ | with_reducible apply keeps_ite2 | with_reducible apply keeps_ite3 | with_reducible apply ringOffNow_keeps | with_reducible apply keeps_foldl | with_reducible apply keeps_foldl2 | with_reducible apply keeps_foldl3 | with_reducible apply keeps_iter | with_reducible apply keeps_elim | with_reducible apply keeps_ite | split | with_reducible apply keeps_mk | dsimp only)

theorem tkpHook_keeps {z : State} (s : State) (d off : Nat) (old v : Word) (hK : Keeps z s) : Keeps z (tkpHook s d off old v) := by
  unfold tkpHook
  try dsimp only
  repeat' (first | with_reducible assumption | intro _ | with_reducible apply keeps_ite2 | with_reducible apply keeps_ite3 | with_reducible apply roleWritten_keeps | with_reducible apply tkpCtlWritten_keeps | with_reducible apply adjWritten_keeps | with_reducible apply stepAdd_keeps | with_reducible apply rtcSetWritten_keeps | with_reducible apply keeps_foldl | with_reducible apply keeps_foldl2 | with_reducible apply keeps_foldl3 | with_reducible apply keeps_iter | with_reducible apply keeps_elim | with_reducible apply keeps_ite | split | with_reducible apply keeps_mk | dsimp only)

theorem scrHook_keeps {z : State} (s : State) (off : Nat) (v : Word) (hK : Keeps z s) : Keeps z (scrHook s off v) := by
  unfold scrHook
  try dsimp only
  repeat' (first | with_reducible assumption | intro _ | with_reducible apply keeps_ite2 | with_reducible apply keeps_ite3 | with_reducible apply bucketsWritten_keeps | with_reducible apply scrRetire_keeps | with_reducible apply rlogPop_keeps | with_reducible apply keeps_foldl | with_reducible apply keeps_foldl2 | with_reducible apply keeps_foldl3 | with_reducible apply keeps_iter | with_reducible apply keeps_elim | with_reducible apply keeps_ite | split | with_reducible apply keeps_mk | dsimp only)

theorem pageHook_keeps {z : State} (s : State) (a : RegAcc) (p : Page) (off : Nat) (old v : Word) (hK : Keeps z s) : Keeps z (pageHook s a p off old v) := by
  unfold pageHook
  try dsimp only
  repeat' (first | with_reducible assumption | intro _ | with_reducible apply keeps_ite2 | with_reducible apply keeps_ite3 | with_reducible apply modTile_keeps | with_reducible apply pkgCtlWritten_keeps | with_reducible apply glzResume_keeps | with_reducible apply rstWritten_keeps | with_reducible apply vsetWritten_keeps | with_reducible apply tilHook_keeps | with_reducible apply seqHook_keeps | with_reducible apply pelClear_keeps | with_reducible apply gateHook_keeps | with_reducible apply cmbHook_keeps | with_reducible apply llkWritten_keeps | with_reducible apply ethHook_keeps | with_reducible apply tkpHook_keeps | with_reducible apply scrHook_keeps | with_reducible apply keeps_foldl | with_reducible apply keeps_foldl2 | with_reducible apply keeps_foldl3 | with_reducible apply keeps_iter | with_reducible apply keeps_elim | with_reducible apply keeps_ite | split | with_reducible apply keeps_mk | dsimp only)

theorem preHook_keeps {z : State} (s : State) (p : Page) (off : Nat) (hK : Keeps z s) : Keeps z (preHook s p off) := by
  unfold preHook
  try dsimp only
  repeat' (first | with_reducible assumption | intro _ | with_reducible apply keeps_ite2 | with_reducible apply keeps_ite3 | with_reducible apply shpKeep_keeps | with_reducible apply keeps_foldl | with_reducible apply keeps_foldl2 | with_reducible apply keeps_foldl3 | with_reducible apply keeps_iter | with_reducible apply keeps_elim | with_reducible apply keeps_ite | split | with_reducible apply keeps_mk | dsimp only)

theorem regEffect_keeps {z : State} (s : State) (a : RegAcc) (p : Page) (off : Nat) (d : RegDef) (old new v : Word) (hK : Keeps z s) : Keeps z (regEffect s a p off d old new v) := by
  unfold regEffect
  try dsimp only
  repeat' (first | with_reducible assumption | intro _ | with_reducible apply keeps_ite2 | with_reducible apply keeps_ite3 | with_reducible apply putReg_keeps | with_reducible apply hwMaybe_keeps | with_reducible apply headHook_keeps | with_reducible apply pageHook_keeps | with_reducible apply preHook_keeps | with_reducible apply keeps_foldl | with_reducible apply keeps_foldl2 | with_reducible apply keeps_foldl3 | with_reducible apply keeps_iter | with_reducible apply keeps_elim | with_reducible apply keeps_ite | split | with_reducible apply keeps_mk | dsimp only)

theorem regWriteAt_keeps {z : State} (s : State) (a : RegAcc) (p : Page) (off : Nat) (v : Word) (d : RegDef) (hK : Keeps z s) : Keeps z (regWriteAt s a p off v d).2 := by
  unfold regWriteAt
  try dsimp only
  repeat' (first | with_reducible assumption | intro _ | with_reducible apply keeps_ite2 | with_reducible apply keeps_ite3 | with_reducible apply regErr_keeps | with_reducible apply hwAlone_keeps | with_reducible apply regEffect_keeps | with_reducible apply keeps_foldl | with_reducible apply keeps_foldl2 | with_reducible apply keeps_foldl3 | with_reducible apply keeps_iter | with_reducible apply keeps_elim | with_reducible apply keeps_ite | split | with_reducible apply keeps_mk | dsimp only)

theorem regWriteAt_keeps2 {z : State} {s : State} {a : RegAcc} {p : Page} {off : Nat} {v : Word} {d : RegDef} {rK} {sK : State} (e : regWriteAt s a p off v d = (rK, sK)) (hK : Keeps z s) : Keeps z sK := by
  have k := regWriteAt_keeps (z := z) s a p off v d hK
  rw [e] at k; exact k

theorem regWrite_keeps {z : State} (s : State) (a : RegAcc) (p : Page) (off : Nat) (v : Word) (hK : Keeps z s) : Keeps z (regWrite s a p off v).2 := by
  unfold regWrite
  try dsimp only
  repeat' (first | with_reducible assumption | intro _ | with_reducible apply keeps_ite2 | with_reducible apply keeps_ite3 | with_reducible apply regErr_keeps | with_reducible apply hwAlone_keeps | with_reducible apply regWriteAt_keeps | with_reducible refine regWriteAt_keeps2 (by assumption) ?_ | with_reducible apply keeps_foldl | with_reducible apply keeps_foldl2 | with_reducible apply keeps_foldl3 | with_reducible apply keeps_iter | with_reducible apply keeps_elim | with_reducible apply keeps_ite | split | with_reducible apply keeps_mk | dsimp only)

theorem regWrite_keeps2 {z : State} {s : State} {a : RegAcc} {p : Page} {off : Nat} {v : Word} {rK} {sK : State} (e : regWrite s a p off v = (rK, sK)) (hK : Keeps z s) : Keeps z sK := by
  have k := regWrite_keeps (z := z) s a p off v hK
  rw [e] at k; exact k

theorem regPut_keeps {z : State} (s : State) (src : Src) (p : Page) (off : Nat) (v : Word) (hK : Keeps z s) : Keeps z (regPut s src p off v) := by
  unfold regPut
  try dsimp only
  repeat' (first | with_reducible assumption | intro _ | with_reducible apply keeps_ite2 | with_reducible apply keeps_ite3 | with_reducible apply regWrite_keeps | with_reducible refine regWrite_keeps2 (by assumption) ?_ | with_reducible apply keeps_foldl | with_reducible apply keeps_foldl2 | with_reducible apply keeps_foldl3 | with_reducible apply keeps_iter | with_reducible apply keeps_elim | with_reducible apply keeps_ite | split | with_reducible apply keeps_mk | dsimp only)

theorem regGet_keeps {z : State} (s : State) (src : Src) (p : Page) (off : Nat) (hK : Keeps z s) : Keeps z (regGet s src p off) := by
  unfold regGet
  try dsimp only
  repeat' (first | with_reducible assumption | intro _ | with_reducible apply keeps_ite2 | with_reducible apply keeps_ite3 | with_reducible apply emit_keeps | with_reducible apply regRead_keeps | with_reducible refine regRead_keeps2 (by assumption) ?_ | with_reducible apply keeps_foldl | with_reducible apply keeps_foldl2 | with_reducible apply keeps_foldl3 | with_reducible apply keeps_iter | with_reducible apply keeps_elim | with_reducible apply keeps_ite | split | with_reducible apply keeps_mk | dsimp only)

theorem regGetRc_keeps {z : State} (s : State) (src : Src) (p : Page) (off : Nat) (before after : Option HwUpd) (hK : Keeps z s) : Keeps z (regGetRc s src p off before after) := by
  unfold regGetRc
  try dsimp only
  repeat' (first | with_reducible assumption | intro _ | with_reducible apply keeps_ite2 | with_reducible apply keeps_ite3 | with_reducible apply hwMaybe_keeps | with_reducible apply regGet_keeps | with_reducible apply keeps_foldl | with_reducible apply keeps_foldl2 | with_reducible apply keeps_foldl3 | with_reducible apply keeps_iter | with_reducible apply keeps_elim | with_reducible apply keeps_ite | split | with_reducible apply keeps_mk | dsimp only)

theorem regAnswer_keeps {z : State} (s0 s : State) (pl : Place) (a : Packet) (hK : Keeps z s0) (hK1 : Keeps z s) : Keeps z (regAnswer s0 s pl a) := by
  unfold regAnswer
  try dsimp only
  repeat' (first | with_reducible assumption | intro _ | with_reducible apply keeps_ite2 | with_reducible apply keeps_ite3 | with_reducible apply answerAt_keeps | with_reducible apply keeps_foldl | with_reducible apply keeps_foldl2 | with_reducible apply keeps_foldl3 | with_reducible apply keeps_iter | with_reducible apply keeps_elim | with_reducible apply keeps_ite | split | with_reducible apply keeps_mk | dsimp only)

theorem regServe_keeps {z : State} (s : State) (pl : Place) (q : Packet) (hK : Keeps z s) : Keeps z (regServe s pl q) := by
  unfold regServe
  try dsimp only
  repeat' (first | with_reducible assumption | intro _ | with_reducible apply keeps_ite2 | with_reducible apply keeps_ite3 | with_reducible apply answerAt_keeps | with_reducible apply regRead_keeps | with_reducible refine regRead_keeps2 (by assumption) ?_ | with_reducible apply regWrite_keeps | with_reducible refine regWrite_keeps2 (by assumption) ?_ | with_reducible apply regAnswer_keeps | with_reducible apply keeps_foldl | with_reducible apply keeps_foldl2 | with_reducible apply keeps_foldl3 | with_reducible apply keeps_iter | with_reducible apply keeps_elim | with_reducible apply keeps_ite | split | with_reducible apply keeps_mk | dsimp only)

theorem regReq_keeps {z : State} (s : State) (pl : Place) (op : BitVec 8) (hK : Keeps z s) : Keeps z (regReq s pl op) := by
  unfold regReq
  try dsimp only
  repeat' (first | with_reducible assumption | intro _ | with_reducible apply keeps_ite2 | with_reducible apply keeps_ite3 | with_reducible apply popReq_keeps | with_reducible apply serveTile_keeps | with_reducible apply serveEdge_keeps | with_reducible apply regServe_keeps | with_reducible apply keeps_foldl | with_reducible apply keeps_foldl2 | with_reducible apply keeps_foldl3 | with_reducible apply keeps_iter | with_reducible apply keeps_elim | with_reducible apply keeps_ite | split | with_reducible apply keeps_mk | dsimp only)

end Sys2Proof.Machine
end

