-- ==== Sys2Proof/Laws/KeepsFabric.lean ====
section
/-! SUPPORT. Every operation of Machine/Fabric.lean keeps what Safety.lean names. -/

namespace Sys2Proof.Machine

set_option linter.all false

theorem kaSend_keeps {z : State} (s : State) (t port : Nat) (hK : Keeps z s) : Keeps z (kaSend s t port) := by
  unfold kaSend
  try dsimp only
  repeat' (first | with_reducible assumption | intro _ | with_reducible apply keeps_ite2 | with_reducible apply keeps_ite3 | with_reducible apply atT_keeps | with_reducible apply modTile_keeps | with_reducible apply emit_keeps | with_reducible apply keeps_foldl | with_reducible apply keeps_foldl2 | with_reducible apply keeps_foldl3 | with_reducible apply keeps_iter | with_reducible apply keeps_elim | with_reducible apply keeps_ite | split | with_reducible apply keeps_mk | dsimp only)

end Sys2Proof.Machine
end

