-- ==== Sys2Proof/Laws/KeepsGates.lean ====
section
/-! SUPPORT. Every operation of Machine/Gates.lean keeps what Safety.lean names. -/

namespace Sys2Proof.Machine

set_option linter.all false

theorem gclBit_keeps {z : State} (s : State) (src : Src) (g : GPlace) (b : Word) (hK : Keeps z s) : Keeps z (gclBit s src g b) := by
  unfold gclBit
  try dsimp only
  repeat' (first | with_reducible assumption | intro _ | with_reducible apply keeps_ite2 | with_reducible apply keeps_ite3 | with_reducible apply regPut_keeps | with_reducible apply keeps_foldl | with_reducible apply keeps_foldl2 | with_reducible apply keeps_foldl3 | with_reducible apply keeps_iter | with_reducible apply keeps_elim | with_reducible apply keeps_ite | split | with_reducible apply keeps_mk | dsimp only)

end Sys2Proof.Machine
end

