-- ==== Sys2Proof/Laws/KeepsGlzDraw.lean ====
section
/-! SUPPORT. Every operation of Machine/GlzDraw.lean keeps what Safety.lean names. -/

namespace Sys2Proof.Machine

set_option linter.all false

theorem binSpill_keeps {z : State} (s : State) (n : Nat) (fs : List Frag) (hK : Keeps z s) : Keeps z (binSpill s n fs) := by
  unfold binSpill
  try dsimp only
  repeat' (first | with_reducible assumption | intro _ | with_reducible apply keeps_ite2 | with_reducible apply keeps_ite3 | with_reducible apply takeFree_keeps | with_reducible refine takeFree_keeps2 (by assumption) ?_ | with_reducible apply glzWrite_keeps | with_reducible apply keeps_foldl | with_reducible apply keeps_foldl2 | with_reducible apply keeps_foldl3 | with_reducible apply keeps_iter | with_reducible apply keeps_elim | with_reducible apply keeps_ite | split | with_reducible apply keeps_mk | dsimp only)

theorem binLeave_keeps {z : State} (s : State) (n : Nat) (f : Frag) (hK : Keeps z s) : Keeps z (binLeave s n f) := by
  unfold binLeave
  try dsimp only
  repeat' (first | with_reducible assumption | intro _ | with_reducible apply keeps_ite2 | with_reducible apply keeps_ite3 | with_reducible apply modGlz_keeps | with_reducible apply glzRead_keeps | with_reducible refine glzRead_keeps2 (by assumption) ?_ | with_reducible apply keeps_foldl | with_reducible apply keeps_foldl2 | with_reducible apply keeps_foldl3 | with_reducible apply keeps_iter | with_reducible apply keeps_elim | with_reducible apply keeps_ite | split | with_reducible apply keeps_mk | dsimp only)

theorem binPeak_keeps {z : State} (s : State) (n : Nat) (hK : Keeps z s) : Keeps z (binPeak s n) := by
  unfold binPeak
  try dsimp only
  repeat' (first | with_reducible assumption | intro _ | with_reducible apply keeps_ite2 | with_reducible apply keeps_ite3 | with_reducible apply putFld_keeps | with_reducible apply keeps_foldl | with_reducible apply keeps_foldl2 | with_reducible apply keeps_foldl3 | with_reducible apply keeps_iter | with_reducible apply keeps_elim | with_reducible apply keeps_ite | split | with_reducible apply keeps_mk | dsimp only)

theorem binPause_keeps {z : State} (s : State) (n : Nat) (hK : Keeps z s) : Keeps z (binPause s n) := by
  unfold binPause
  try dsimp only
  repeat' (first | with_reducible assumption | intro _ | with_reducible apply keeps_ite2 | with_reducible apply keeps_ite3 | with_reducible apply glzPut_keeps | with_reducible apply glzErr_keeps | with_reducible apply keeps_foldl | with_reducible apply keeps_foldl2 | with_reducible apply keeps_foldl3 | with_reducible apply keeps_iter | with_reducible apply keeps_elim | with_reducible apply keeps_ite | split | with_reducible apply keeps_mk | dsimp only)

theorem primOne_keeps {z : State} (s : State) (n : Nat) (tn : Word) (a len : Nat) (shape : Glz → List Byte → Option Shape) (hK : Keeps z s) : Keeps z (primOne s n tn a len shape) := by
  unfold primOne
  try dsimp only
  repeat' (first | with_reducible assumption | intro _ | with_reducible apply keeps_ite2 | with_reducible apply keeps_ite3 | with_reducible apply glzRead_keeps | with_reducible refine glzRead_keeps2 (by assumption) ?_ | with_reducible apply glzCount_keeps | with_reducible apply addFld_keeps | with_reducible apply binPeak_keeps | with_reducible apply modGlz_keeps | with_reducible apply binSpill_keeps | with_reducible apply keeps_foldl | with_reducible apply keeps_foldl2 | with_reducible apply keeps_foldl3 | with_reducible apply keeps_iter | with_reducible apply keeps_elim | with_reducible apply keeps_ite | split | with_reducible apply keeps_mk | dsimp only)

theorem primGo_keeps {z : State} (n count len : Nat) (tn : Word) (a : Nat) (shape : Glz → List Byte → Option Shape) (k : Nat) (s : State) (h : Keeps z s) : Keeps z (primGo n count len tn a shape k s) := by
  induction k generalizing s with
  | zero => exact h
  | succ k ih =>
    rw [primGo]
    with_reducible apply keeps_ite
    · exact glzPop_keeps _ _ h
    · with_reducible apply keeps_ite
      · exact binPause_keeps _ _ h
      · exact ih _ (modGlz_keeps _ _ _ (primOne_keeps _ _ _ _ _ _ h))

theorem glzDraw_keeps {z : State} (s : State) (n : Nat) (r : List Byte) (hK : Keeps z s) : Keeps z (glzDraw s n r) := by
  unfold glzDraw
  try dsimp only
  repeat' (first | with_reducible assumption | intro _ | with_reducible apply keeps_ite2 | with_reducible apply keeps_ite3 | with_reducible apply primGo_keeps | with_reducible apply keeps_foldl | with_reducible apply keeps_foldl2 | with_reducible apply keeps_foldl3 | with_reducible apply keeps_iter | with_reducible apply keeps_elim | with_reducible apply keeps_ite | split | with_reducible apply keeps_mk | dsimp only)

theorem glzSplat_keeps {z : State} (s : State) (n : Nat) (r : List Byte) (hK : Keeps z s) : Keeps z (glzSplat s n r) := by
  unfold glzSplat
  try dsimp only
  repeat' (first | with_reducible assumption | intro _ | with_reducible apply keeps_ite2 | with_reducible apply keeps_ite3 | with_reducible apply primGo_keeps | with_reducible apply keeps_foldl | with_reducible apply keeps_foldl2 | with_reducible apply keeps_foldl3 | with_reducible apply keeps_iter | with_reducible apply keeps_elim | with_reducible apply keeps_ite | split | with_reducible apply keeps_mk | dsimp only)

theorem smpRead_keeps {z : State} (s : State) (n : Nat) (f : Frag) (g : CGroup) (hK : Keeps z s) : Keeps z (smpRead s n f g).2 := by
  unfold smpRead
  try dsimp only
  repeat' (first | with_reducible assumption | intro _ | with_reducible apply keeps_ite2 | with_reducible apply keeps_ite3 | with_reducible apply glzRead_keeps | with_reducible refine glzRead_keeps2 (by assumption) ?_ | with_reducible apply keeps_foldl | with_reducible apply keeps_foldl2 | with_reducible apply keeps_foldl3 | with_reducible apply keeps_iter | with_reducible apply keeps_elim | with_reducible apply keeps_ite | split | with_reducible apply keeps_mk | dsimp only)

theorem smpRead_keeps2 {z : State} {s : State} {n : Nat} {f : Frag} {g : CGroup} {rK} {sK : State} (e : smpRead s n f g = (rK, sK)) (hK : Keeps z s) : Keeps z sK := by
  have k := smpRead_keeps (z := z) s n f g hK
  rw [e] at k; exact k

theorem smpWrite_keeps {z : State} (s : State) (n : Nat) (f : Frag) (g : CGroup) (cs : List (Nat × Word)) (hK : Keeps z s) : Keeps z (smpWrite s n f g cs) := by
  unfold smpWrite
  try dsimp only
  repeat' (first | with_reducible assumption | intro _ | with_reducible apply keeps_ite2 | with_reducible apply keeps_ite3 | with_reducible apply glzWrite_keeps | with_reducible apply keeps_foldl | with_reducible apply keeps_foldl2 | with_reducible apply keeps_foldl3 | with_reducible apply keeps_iter | with_reducible apply keeps_elim | with_reducible apply keeps_ite | split | with_reducible apply keeps_mk | dsimp only)

theorem blendOne_keeps {z : State} (s : State) (n : Nat) (f : Frag) (g : CGroup) (hK : Keeps z s) : Keeps z (blendOne s n f g) := by
  unfold blendOne
  try dsimp only
  repeat' (first | with_reducible assumption | intro _ | with_reducible apply keeps_ite2 | with_reducible apply keeps_ite3 | with_reducible apply smpRead_keeps | with_reducible refine smpRead_keeps2 (by assumption) ?_ | with_reducible apply smpWrite_keeps | with_reducible apply keeps_foldl | with_reducible apply keeps_foldl2 | with_reducible apply keeps_foldl3 | with_reducible apply keeps_iter | with_reducible apply keeps_elim | with_reducible apply keeps_ite | split | with_reducible apply keeps_mk | dsimp only)

theorem fragMod_keeps {z : State} (s : State) (n : Nat) (f : Frag → Frag) (hK : Keeps z s) : Keeps z (fragMod s n f) := by
  unfold fragMod
  try dsimp only
  repeat' (first | with_reducible assumption | intro _ | with_reducible apply keeps_ite2 | with_reducible apply keeps_ite3 | with_reducible apply modGlz_keeps | with_reducible apply keeps_foldl | with_reducible apply keeps_foldl2 | with_reducible apply keeps_foldl3 | with_reducible apply keeps_iter | with_reducible apply keeps_elim | with_reducible apply keeps_ite | split | with_reducible apply keeps_mk | dsimp only)

theorem fragDrop_keeps {z : State} (s : State) (n : Nat) (hK : Keeps z s) : Keeps z (fragDrop s n) := by
  unfold fragDrop
  try dsimp only
  repeat' (first | with_reducible assumption | intro _ | with_reducible apply keeps_ite2 | with_reducible apply keeps_ite3 | with_reducible apply modGlz_keeps | with_reducible apply glzIdle_keeps | with_reducible apply binLeave_keeps | with_reducible apply keeps_foldl | with_reducible apply keeps_foldl2 | with_reducible apply keeps_foldl3 | with_reducible apply keeps_iter | with_reducible apply keeps_elim | with_reducible apply keeps_ite | split | with_reducible apply keeps_mk | dsimp only)

theorem retireGo_keeps {z : State} (n k : Nat) (s : State) (h : Keeps z s) : Keeps z (retireGo n k s) := by
  induction k generalizing s with
  | zero => exact h
  | succ k ih =>
    rw [retireGo]
    split
    · exact h
    · split
      · exact fragDrop_keeps _ _ h
      · with_reducible apply keeps_ite
        · exact modGlz_keeps _ _ _ h
        · with_reducible apply ih
          with_reducible apply fragMod_keeps
          with_reducible apply keeps_ite
          · exact blendOne_keeps _ _ _ _ h
          · exact h

theorem fragRetire_keeps {z : State} (s : State) (n : Nat) (hK : Keeps z s) : Keeps z (fragRetire s n) := by
  unfold fragRetire
  try dsimp only
  repeat' (first | with_reducible assumption | intro _ | with_reducible apply keeps_ite2 | with_reducible apply keeps_ite3 | with_reducible apply retireGo_keeps | with_reducible apply keeps_foldl | with_reducible apply keeps_foldl2 | with_reducible apply keeps_foldl3 | with_reducible apply keeps_iter | with_reducible apply keeps_elim | with_reducible apply keeps_ite | split | with_reducible apply keeps_mk | dsimp only)

theorem ppLeave_keeps {z : State} (s : State) (n : Nat) (hK : Keeps z s) : Keeps z (ppLeave s n) := by
  unfold ppLeave
  try dsimp only
  repeat' (first | with_reducible assumption | intro _ | with_reducible apply keeps_ite2 | with_reducible apply keeps_ite3 | with_reducible apply modGlz_keeps | with_reducible apply fragMod_keeps | with_reducible apply retireGo_keeps | with_reducible apply keeps_foldl | with_reducible apply keeps_foldl2 | with_reducible apply keeps_foldl3 | with_reducible apply keeps_iter | with_reducible apply keeps_elim | with_reducible apply keeps_ite | split | with_reducible apply keeps_mk | dsimp only)

theorem ppPut_keeps {z : State} (s : State) (n : Nat) (p : PPRun) (hK : Keeps z s) : Keeps z (ppPut s n p) := by
  unfold ppPut
  try dsimp only
  repeat' (first | with_reducible assumption | intro _ | with_reducible apply keeps_ite2 | with_reducible apply keeps_ite3 | with_reducible apply modGlz_keeps | with_reducible apply keeps_foldl | with_reducible apply keeps_foldl2 | with_reducible apply keeps_foldl3 | with_reducible apply keeps_iter | with_reducible apply keeps_elim | with_reducible apply keeps_ite | split | with_reducible apply keeps_mk | dsimp only)

theorem ppSet_keeps {z : State} (s : State) (n : Nat) (p : PPRun) (w v : Word) (hK : Keeps z s) : Keeps z (ppSet s n p w v) := by
  unfold ppSet
  try dsimp only
  repeat' (first | with_reducible assumption | intro _ | with_reducible apply keeps_ite2 | with_reducible apply keeps_ite3 | with_reducible apply ppPut_keeps | with_reducible apply keeps_foldl | with_reducible apply keeps_foldl2 | with_reducible apply keeps_foldl3 | with_reducible apply keeps_iter | with_reducible apply keeps_elim | with_reducible apply keeps_ite | split | with_reducible apply keeps_mk | dsimp only)

theorem ppAlu_keeps {z : State} (s : State) (n op : Nat) (f : Word → Word → Word → Word) (hK : Keeps z s) : Keeps z (ppAlu s n op f) := by
  unfold ppAlu
  try dsimp only
  repeat' (first | with_reducible assumption | intro _ | with_reducible apply keeps_ite2 | with_reducible apply keeps_ite3 | with_reducible apply ppSet_keeps | with_reducible apply keeps_foldl | with_reducible apply keeps_foldl2 | with_reducible apply keeps_foldl3 | with_reducible apply keeps_iter | with_reducible apply keeps_elim | with_reducible apply keeps_ite | split | with_reducible apply keeps_mk | dsimp only)

theorem ppField_keeps {z : State} (s : State) (n : Nat) (hK : Keeps z s) : Keeps z (ppField s n) := by
  unfold ppField
  try dsimp only
  repeat' (first | with_reducible assumption | intro _ | with_reducible apply keeps_ite2 | with_reducible apply keeps_ite3 | with_reducible apply takeFree_keeps | with_reducible refine takeFree_keeps2 (by assumption) ?_ | with_reducible apply ppSet_keeps | with_reducible apply keeps_foldl | with_reducible apply keeps_foldl2 | with_reducible apply keeps_foldl3 | with_reducible apply keeps_iter | with_reducible apply keeps_elim | with_reducible apply keeps_ite | split | with_reducible apply keeps_mk | dsimp only)

theorem ppPixel_keeps {z : State} (s : State) (n : Nat) (hK : Keeps z s) : Keeps z (ppPixel s n) := by
  unfold ppPixel
  try dsimp only
  repeat' (first | with_reducible assumption | intro _ | with_reducible apply keeps_ite2 | with_reducible apply keeps_ite3 | with_reducible apply takeFree_keeps | with_reducible refine takeFree_keeps2 (by assumption) ?_ | with_reducible apply smpRead_keeps | with_reducible refine smpRead_keeps2 (by assumption) ?_ | with_reducible apply ppPut_keeps | with_reducible apply ppSet_keeps | with_reducible apply keeps_foldl | with_reducible apply keeps_foldl2 | with_reducible apply keeps_foldl3 | with_reducible apply keeps_iter | with_reducible apply keeps_elim | with_reducible apply keeps_ite | split | with_reducible apply keeps_mk | dsimp only)

theorem ppStage_keeps {z : State} (s : State) (n : Nat) (hK : Keeps z s) : Keeps z (ppStage s n) := by
  unfold ppStage
  try dsimp only
  repeat' (first | with_reducible assumption | intro _ | with_reducible apply keeps_ite2 | with_reducible apply keeps_ite3 | with_reducible apply ppPut_keeps | with_reducible apply keeps_foldl | with_reducible apply keeps_foldl2 | with_reducible apply keeps_foldl3 | with_reducible apply keeps_iter | with_reducible apply keeps_elim | with_reducible apply keeps_ite | split | with_reducible apply keeps_mk | dsimp only)

theorem ppKillIf_keeps {z : State} (s : State) (n : Nat) (hK : Keeps z s) : Keeps z (ppKillIf s n) := by
  unfold ppKillIf
  try dsimp only
  repeat' (first | with_reducible assumption | intro _ | with_reducible apply keeps_ite2 | with_reducible apply keeps_ite3 | with_reducible apply ppLeave_keeps | with_reducible apply ppPut_keeps | with_reducible apply keeps_foldl | with_reducible apply keeps_foldl2 | with_reducible apply keeps_foldl3 | with_reducible apply keeps_iter | with_reducible apply keeps_elim | with_reducible apply keeps_ite | split | with_reducible apply keeps_mk | dsimp only)

theorem ppCommit_keeps {z : State} (s : State) (n : Nat) (hK : Keeps z s) : Keeps z (ppCommit s n) := by
  unfold ppCommit
  try dsimp only
  repeat' (first | with_reducible assumption | intro _ | with_reducible apply keeps_ite2 | with_reducible apply keeps_ite3 | with_reducible apply smpWrite_keeps | with_reducible apply ppLeave_keeps | with_reducible apply keeps_foldl | with_reducible apply keeps_foldl2 | with_reducible apply keeps_foldl3 | with_reducible apply keeps_iter | with_reducible apply keeps_elim | with_reducible apply keeps_ite | split | with_reducible apply keeps_mk | dsimp only)

end Sys2Proof.Machine
end

