-- ==== Sys2Proof/Laws/KeepsGlzRay.lean ====
section
/-! SUPPORT. Every operation of Machine/GlzRay.lean keeps what Safety.lean names. -/

namespace Sys2Proof.Machine

set_option linter.all false

theorem triVisit_keeps {z : State} (c : RayCtx) (i : Nat) (t : Trav) (h : Keeps z t.st) : Keeps z (triVisit c i t).st := by
  have k := glzRead_keeps t.st c.n (getGlz t.st c.n).bnode ((getGlz t.st c.n).btri + 48 * i) 48 h
  unfold triVisit
  generalize t.over c = b
  cases b with
  | true => exact h
  | false =>
    dsimp only
    generalize glzRead t.st c.n (getGlz t.st c.n).bnode ((getGlz t.st c.n).btri + 48 * i) 48 = x at k ⊢
    obtain ⟨ok, bs, s1⟩ := x
    cases ok with
    | false => exact k
    | true =>
      dsimp only
      generalize Config.triHit (wordsAt bs 0 9) c.ray = o
      cases o with
      | none => exact k
      | some q =>
        obtain ⟨p, u, v⟩ := q
        dsimp only
        simp only [Bool.true_eq_false, Bool.false_eq_true, if_false]
        split
        · exact k
        · exact k

theorem keeps_trav {α : Type} {z : State} {l : List α} {f : Trav → α → Trav} {t : Trav} (h : Keeps z t.st)
    (hf : ∀ (x : Trav) (e : α), Keeps z x.st → Keeps z (f x e).st) : Keeps z (l.foldl f t).st := by
  induction l generalizing t with
  | nil => exact h
  | cons e l ih => exact ih (hf t e h)

theorem visit_keeps {z : State} (c : RayCtx) (k : Nat) (ref : Word) (t : Trav) (h : Keeps z t.st) : Keeps z (visit c k ref t).st := by
  induction k generalizing ref t with
  | zero => exact h
  | succ k ih =>
    rw [visit]
    split
    · exact h
    · have r := glzRead_keeps t.st c.n (getGlz t.st c.n).bnode ((getGlz t.st c.n).broot + 128 * fld ref 29 0) 128 h
      dsimp only
      generalize glzRead t.st c.n (getGlz t.st c.n).bnode ((getGlz t.st c.n).broot + 128 * fld ref 29 0) 128 = x at r ⊢
      obtain ⟨ok, bs, s1⟩ := x
      cases ok with
      | false => exact r
      | true =>
        dsimp only
        rw [if_neg (by decide)]
        refine keeps_trav (t := { t with st := s1 }) r ?_
        intro y e ky
        split
        · exact ky
        · exact ih _ _ ky
    · dsimp only
      split
      · exact h
      · exact keeps_trav h (fun y e ky => triVisit_keeps _ _ _ ky)
    · exact h

theorem hitOpen_keeps {z : State} (s : State) (hK : Keeps z s) : Keeps z (hitOpen s).2 := by
  unfold hitOpen
  try dsimp only
  repeat' (first | with_reducible assumption | intro _ | with_reducible apply keeps_ite2 | with_reducible apply keeps_ite3 | with_reducible apply takeFree_keeps | with_reducible refine takeFree_keeps2 (by assumption) ?_ | with_reducible apply keeps_foldl | with_reducible apply keeps_foldl2 | with_reducible apply keeps_foldl3 | with_reducible apply keeps_iter | with_reducible apply keeps_elim | with_reducible apply keeps_ite | split | with_reducible apply keeps_mk | dsimp only)

theorem hitOpen_keeps2 {z : State} {s : State} {rK} {sK : State} (e : hitOpen s = (rK, sK)) (hK : Keeps z s) : Keeps z sK := by
  have k := hitOpen_keeps (z := z) s hK
  rw [e] at k; exact k

theorem hitOf_keeps {z : State} (c : RayCtx) (t : Trav) (h : Keeps z t.st) : Keeps z (hitOf c t).2 := by
  unfold hitOf
  split
  · split
    · exact h
    · exact h
  · exact hitOpen_keeps _ h
  · exact takeFree_keeps _ (takeFree_keeps _ (glzFailAs_keeps _ _ _ _ h))

theorem hitOf_keeps2 {z : State} {c : RayCtx} {t : Trav} {rK} {sK : State} (e : hitOf c t = (rK, sK)) (hK : Keeps z t.st) : Keeps z sK := by
  have k := hitOf_keeps c t hK
  rw [e] at k; exact k

theorem rayOne_keeps {z : State} (n : Nat) (any_ : Bool) (tn : Word) (ra ha i : Nat) (s : State) (h : Keeps z s) : Keeps z (rayOne n any_ tn ra ha i s) := by
  have k := glzRead_keeps (glzCount s n 0x0C8 1) n tn (ra + 32 * i) 32 (glzCount_keeps _ _ _ _ h)
  unfold rayOne
  dsimp only
  generalize glzRead (glzCount s n 0x0C8 1) n tn (ra + 32 * i) 32 = x at k ⊢
  obtain ⟨ok, bs, s1⟩ := x
  with_reducible apply glzWrite_keeps
  with_reducible apply keeps_ite2
  · exact hitOpen_keeps _ k
  · with_reducible apply keeps_ite2
    · exact hitOf_keeps _ _ k
    · exact hitOf_keeps _ _ (visit_keeps _ _ _ _ k)

theorem glzRayq_keeps {z : State} (s : State) (n : Nat) (r : List Byte) (hK : Keeps z s) : Keeps z (glzRayq s n r) := by
  unfold glzRayq
  try dsimp only
  repeat' (first | with_reducible assumption | intro _ | with_reducible apply keeps_ite2 | with_reducible apply keeps_ite3 | with_reducible apply rayOne_keeps | with_reducible apply keeps_foldl | with_reducible apply keeps_foldl2 | with_reducible apply keeps_foldl3 | with_reducible apply keeps_iter | with_reducible apply keeps_elim | with_reducible apply keeps_ite | split | with_reducible apply keeps_mk | dsimp only)

end Sys2Proof.Machine
end

