-- ==== Sys2Proof/Laws/KeepsHbmOps.lean ====
section
/-! SUPPORT. Every operation of Machine/HbmOps.lean keeps what Safety.lean names. -/

namespace Sys2Proof.Machine

set_option linter.all false

theorem scrubUnit_keeps {z : State} (s : State) (x e u : Nat) (hK : Keeps z s) : Keeps z (scrubUnit s x e u) := by
  unfold scrubUnit
  try dsimp only
  repeat' (first | with_reducible assumption | intro _ | with_reducible apply keeps_ite2 | with_reducible apply keeps_ite3 | with_reducible apply clearUnit_keeps | with_reducible apply corrected_keeps | with_reducible apply memUE_keeps | with_reducible apply keeps_foldl | with_reducible apply keeps_foldl2 | with_reducible apply keeps_foldl3 | with_reducible apply keeps_iter | with_reducible apply keeps_elim | with_reducible apply keeps_ite | split | with_reducible apply keeps_mk | dsimp only)

theorem scrubVisit_keeps {z : State} (s : State) (x e : Nat) (flt : List UFault) (hK : Keeps z s) : Keeps z (scrubVisit s x e flt) := by
  unfold scrubVisit
  try dsimp only
  repeat' (first | with_reducible assumption | intro _ | with_reducible apply keeps_ite2 | with_reducible apply keeps_ite3 | with_reducible apply addFaults_keeps | with_reducible apply putFld_keeps | with_reducible apply memPar_keeps | with_reducible apply scrubUnit_keeps | with_reducible apply keeps_foldl | with_reducible apply keeps_foldl2 | with_reducible apply keeps_foldl3 | with_reducible apply keeps_iter | with_reducible apply keeps_elim | with_reducible apply keeps_ite | split | with_reducible apply keeps_mk | dsimp only)

theorem refreshOne_keeps {z : State} (s : State) (x e : Nat) (hK : Keeps z s) : Keeps z (refreshOne s x e) := by
  unfold refreshOne
  try dsimp only
  repeat' (first | with_reducible assumption | intro _ | with_reducible apply keeps_ite2 | with_reducible apply keeps_ite3 | with_reducible apply modEdge_keeps | with_reducible apply keeps_foldl | with_reducible apply keeps_foldl2 | with_reducible apply keeps_foldl3 | with_reducible apply keeps_iter | with_reducible apply keeps_elim | with_reducible apply keeps_ite | split | with_reducible apply keeps_mk | dsimp only)

theorem tempPage_keeps {z : State} (s : State) (x e c : Nat) (hK : Keeps z s) : Keeps z (tempPage s x e c) := by
  unfold tempPage
  try dsimp only
  repeat' (first | with_reducible assumption | intro _ | with_reducible apply keeps_ite2 | with_reducible apply keeps_ite3 | with_reducible apply putFld_keeps | with_reducible apply putBit_keeps | with_reducible apply isrBit_keeps | with_reducible apply keeps_foldl | with_reducible apply keeps_foldl2 | with_reducible apply keeps_foldl3 | with_reducible apply keeps_iter | with_reducible apply keeps_elim | with_reducible apply keeps_ite | split | with_reducible apply keeps_mk | dsimp only)

theorem stackTemp_keeps {z : State} (s : State) (site c : Nat) (hK : Keeps z s) : Keeps z (stackTemp s site c) := by
  unfold stackTemp
  try dsimp only
  repeat' (first | with_reducible assumption | intro _ | with_reducible apply keeps_ite2 | with_reducible apply keeps_ite3 | with_reducible apply tempPage_keeps | with_reducible apply keeps_foldl | with_reducible apply keeps_foldl2 | with_reducible apply keeps_foldl3 | with_reducible apply keeps_iter | with_reducible apply keeps_elim | with_reducible apply keeps_ite | split | with_reducible apply keeps_mk | dsimp only)

end Sys2Proof.Machine
end

