-- ==== Sys2Proof/Laws/KeepsScanOps.lean ====
section
/-! SUPPORT. Every operation of Machine/ScanOps.lean keeps what Safety.lean names. -/

namespace Sys2Proof.Machine

set_option linter.all false

theorem scanFree_keeps {z : State} (s : State) (hK : Keeps z s) : Keeps z (scanFree s).2 := by
  unfold scanFree
  try dsimp only
  repeat' (first | with_reducible assumption | intro _ | with_reducible apply keeps_ite2 | with_reducible apply keeps_ite3 | with_reducible apply takeFree_keeps | with_reducible refine takeFree_keeps2 (by assumption) ?_ | with_reducible apply keeps_foldl | with_reducible apply keeps_foldl2 | with_reducible apply keeps_foldl3 | with_reducible apply keeps_iter | with_reducible apply keeps_elim | with_reducible apply keeps_ite | split | with_reducible apply keeps_mk | dsimp only)

theorem scanFree_keeps2 {z : State} {s : State} {rK} {sK : State} (e : scanFree s = (rK, sK)) (hK : Keeps z s) : Keeps z sK := by
  have k := scanFree_keeps (z := z) s hK
  rw [e] at k; exact k

theorem scanAt_keeps {z : State} (s : State) (t o : Nat) (hK : Keeps z s) : Keeps z (scanAt s t o).2 := by
  unfold scanAt
  try dsimp only
  repeat' (first | with_reducible assumption | intro _ | with_reducible apply keeps_ite2 | with_reducible apply keeps_ite3 | with_reducible apply scanFree_keeps | with_reducible refine scanFree_keeps2 (by assumption) ?_ | with_reducible apply keeps_foldl | with_reducible apply keeps_foldl2 | with_reducible apply keeps_foldl3 | with_reducible apply keeps_iter | with_reducible apply keeps_elim | with_reducible apply keeps_ite | split | with_reducible apply keeps_mk | dsimp only)

theorem scanAt_keeps2 {z : State} {s : State} {t o : Nat} {rK} {sK : State} (e : scanAt s t o = (rK, sK)) (hK : Keeps z s)  : Keeps z sK := by
  have k := scanAt_keeps (z := z) s t o hK 
  rw [e] at k; exact k

theorem scanWindow_keeps {z : State} (s : State) (base addr : Nat) (hK : Keeps z s) : Keeps z (scanWindow s base addr).2 := by
  unfold scanWindow
  try dsimp only
  repeat' (first | with_reducible assumption | intro _ | with_reducible apply keeps_ite2 | with_reducible apply keeps_ite3 | with_reducible apply putBit_keeps | with_reducible apply scanAt_keeps | with_reducible refine scanAt_keeps2 (by assumption) ?_ | with_reducible apply keeps_foldl | with_reducible apply keeps_foldl2 | with_reducible apply keeps_foldl3 | with_reducible apply keeps_iter | with_reducible apply keeps_elim | with_reducible apply keeps_ite | split | with_reducible apply keeps_mk | dsimp only)

theorem scanWindow_keeps2 {z : State} {s : State} {base addr : Nat} {rK} {sK : State} (e : scanWindow s base addr = (rK, sK)) (hK : Keeps z s) : Keeps z sK := by
  have k := scanWindow_keeps (z := z) s base addr hK
  rw [e] at k; exact k

theorem scanHost_keeps {z : State} (s : State) (addr : Nat) (hK : Keeps z s) : Keeps z (scanHost s addr).2 := by
  unfold scanHost
  try dsimp only
  repeat' (first | with_reducible assumption | intro _ | with_reducible apply keeps_ite2 | with_reducible apply keeps_ite3 | with_reducible apply scanWindow_keeps | with_reducible refine scanWindow_keeps2 (by assumption) ?_ | with_reducible apply keeps_foldl | with_reducible apply keeps_foldl2 | with_reducible apply keeps_foldl3 | with_reducible apply keeps_iter | with_reducible apply keeps_elim | with_reducible apply keeps_ite | split | with_reducible apply keeps_mk | dsimp only)

theorem scanHost_keeps2 {z : State} {s : State} {addr : Nat} {rK} {sK : State} (e : scanHost s addr = (rK, sK)) (hK : Keeps z s) : Keeps z sK := by
  have k := scanHost_keeps (z := z) s addr hK
  rw [e] at k; exact k

theorem scanWrite_keeps {z : State} (s : State) (hK : Keeps z s) : Keeps z (scanWrite s) := by
  unfold scanWrite
  try dsimp only
  repeat' (first | with_reducible assumption | intro _ | with_reducible apply keeps_ite2 | with_reducible apply keeps_ite3 | with_reducible apply putBit_keeps | with_reducible apply keeps_foldl | with_reducible apply keeps_foldl2 | with_reducible apply keeps_foldl3 | with_reducible apply keeps_iter | with_reducible apply keeps_elim | with_reducible apply keeps_ite | split | with_reducible apply keeps_mk | dsimp only)

end Sys2Proof.Machine
end

