-- ==== Sys2Proof/Laws/KeepsHostOps.lean ====
section
/-! SUPPORT. Every operation of Machine/HostOps.lean keeps what Safety.lean names. -/

namespace Sys2Proof.Machine

set_option linter.all false

theorem readReg_keeps {z : State} (s : State) (id bar a : Nat) (hK : Keeps z s) : Keeps z (readReg s id bar a).2 := by
  unfold readReg
  try dsimp only
  repeat' (first | with_reducible assumption | intro _ | with_reducible apply keeps_ite2 | with_reducible apply keeps_ite3 | with_reducible apply scanHost_keeps | with_reducible refine scanHost_keeps2 (by assumption) ?_ | with_reducible apply regRead_keeps | with_reducible refine regRead_keeps2 (by assumption) ?_ | with_reducible apply hifRequest_keeps | with_reducible refine hifRequest_keeps2 (by assumption) ?_ | with_reducible apply keeps_foldl | with_reducible apply keeps_foldl2 | with_reducible apply keeps_foldl3 | with_reducible apply keeps_iter | with_reducible apply keeps_elim | with_reducible apply keeps_ite | split | with_reducible apply keeps_mk | dsimp only)

theorem readReg_keeps2 {z : State} {s : State} {id bar a : Nat} {rK} {sK : State} (e : readReg s id bar a = (rK, sK)) (hK : Keeps z s)  : Keeps z sK := by
  have k := readReg_keeps (z := z) s id bar a hK 
  rw [e] at k; exact k

theorem readMemPart_keeps {z : State} (s : State) (id : Nat) (x : Nat × Nat) (hK : Keeps z s) : Keeps z (readMemPart s id x).2 := by
  unfold readMemPart
  try dsimp only
  repeat' (first | with_reducible assumption | intro _ | with_reducible apply keeps_ite2 | with_reducible apply keeps_ite3 | with_reducible apply hifRequest_keeps | with_reducible refine hifRequest_keeps2 (by assumption) ?_ | with_reducible apply keeps_foldl | with_reducible apply keeps_foldl2 | with_reducible apply keeps_foldl3 | with_reducible apply keeps_iter | with_reducible apply keeps_elim | with_reducible apply keeps_ite | split | with_reducible apply keeps_mk | dsimp only)

theorem readMemPart_keeps2 {z : State} {s : State} {id : Nat} {x : Nat × Nat} {rK} {sK : State} (e : readMemPart s id x = (rK, sK)) (hK : Keeps z s) : Keeps z sK := by
  have k := readMemPart_keeps (z := z) s id x hK
  rw [e] at k; exact k

theorem readParts_keeps {z : State} (f : State → Nat → HostPart × State) (hf : ∀ s i, Keeps z s → Keeps z (f s i).2) (l : List Nat) (s : State) (h : Keeps z s) : Keeps z (readParts f l s).2 := by
  induction l generalizing s with
  | nil => exact h
  | cons a r ih => exact ih _ (hf _ _ h)

theorem hostId_keeps {z : State} (s : State) (hK : Keeps z s) : Keeps z (hostId s).2 := by
  unfold hostId
  try dsimp only
  repeat' (first | with_reducible assumption | intro _ | with_reducible apply keeps_ite2 | with_reducible apply keeps_ite3 | with_reducible apply modHif_keeps | with_reducible apply keeps_foldl | with_reducible apply keeps_foldl2 | with_reducible apply keeps_foldl3 | with_reducible apply keeps_iter | with_reducible apply keeps_elim | with_reducible apply keeps_ite | split | with_reducible apply keeps_mk | dsimp only)

theorem hostId_keeps2 {z : State} {s : State} {rK} {sK : State} (e : hostId s = (rK, sK)) (hK : Keeps z s) : Keeps z sK := by
  have k := hostId_keeps (z := z) s hK
  rw [e] at k; exact k

theorem readEnter_keeps {z : State} (s : State) (id : Nat) (parts : List HostPart) (hK : Keeps z s) : Keeps z (readEnter s id parts) := by
  unfold readEnter
  try dsimp only
  repeat' (first | with_reducible assumption | intro _ | with_reducible apply keeps_ite2 | with_reducible apply keeps_ite3 | with_reducible apply modHif_keeps | with_reducible apply syncPump_keeps | with_reducible apply keeps_foldl | with_reducible apply keeps_foldl2 | with_reducible apply keeps_foldl3 | with_reducible apply keeps_iter | with_reducible apply keeps_elim | with_reducible apply keeps_ite | split | with_reducible apply keeps_mk | dsimp only)

theorem hostReadOp_keeps {z : State} (s : State) (bar a n : Nat) (h : Keeps z s) : Keeps z (hostReadOp s bar a n) := by
  have k := hostId_keeps s h
  unfold hostReadOp
  dsimp only
  generalize hostId s = x at k ⊢
  with_reducible apply keeps_ite
  · exact h
  · with_reducible apply keeps_ite
    · exact emit_keeps _ _ k
    · with_reducible apply keeps_ite
      · with_reducible apply readEnter_keeps
        exact readParts_keeps _ (fun s i hs => readMemPart_keeps _ _ _ hs) _ _ k
      · with_reducible apply readEnter_keeps
        exact readParts_keeps _ (fun s i hs => readReg_keeps _ _ _ _ hs) _ _ k

theorem writeReg_keeps {z : State} (s : State) (id bar a : Nat) (v : Word) (be : BitVec 4) (hK : Keeps z s) : Keeps z (writeReg s id bar a v be) := by
  unfold writeReg
  try dsimp only
  repeat' (first | with_reducible assumption | intro _ | with_reducible apply keeps_ite2 | with_reducible apply keeps_ite3 | with_reducible apply msixWrite_keeps | with_reducible apply scanWrite_keeps | with_reducible apply regWrite_keeps | with_reducible refine regWrite_keeps2 (by assumption) ?_ | with_reducible apply hifRequest_keeps | with_reducible refine hifRequest_keeps2 (by assumption) ?_ | with_reducible apply keeps_foldl | with_reducible apply keeps_foldl2 | with_reducible apply keeps_foldl3 | with_reducible apply keeps_iter | with_reducible apply keeps_elim | with_reducible apply keeps_ite | split | with_reducible apply keeps_mk | dsimp only)

theorem writeMemHost_keeps {z : State} (s : State) (id a : Nat) (bytes : List Byte) (be : List Bool) (hK : Keeps z s) : Keeps z (writeMemHost s id a bytes be) := by
  unfold writeMemHost
  try dsimp only
  repeat' (first | with_reducible assumption | intro _ | with_reducible apply keeps_ite2 | with_reducible apply keeps_ite3 | with_reducible apply captureOpen_keeps | with_reducible apply hifRequest_keeps | with_reducible refine hifRequest_keeps2 (by assumption) ?_ | with_reducible apply keeps_foldl | with_reducible apply keeps_foldl2 | with_reducible apply keeps_foldl3 | with_reducible apply keeps_iter | with_reducible apply keeps_elim | with_reducible apply keeps_ite | split | with_reducible apply keeps_mk | dsimp only)

theorem hostWriteOp_keeps {z : State} (s : State) (bar a : Nat) (bytes : List Byte) (be : List Bool) (hK : Keeps z s) : Keeps z (hostWriteOp s bar a bytes be) := by
  unfold hostWriteOp
  try dsimp only
  repeat' (first | with_reducible assumption | intro _ | with_reducible apply keeps_ite2 | with_reducible apply keeps_ite3 | with_reducible apply hostId_keeps | with_reducible refine hostId_keeps2 (by assumption) ?_ | with_reducible apply writeReg_keeps | with_reducible apply writeMemHost_keeps | with_reducible apply keeps_foldl | with_reducible apply keeps_foldl2 | with_reducible apply keeps_foldl3 | with_reducible apply keeps_iter | with_reducible apply keeps_elim | with_reducible apply keeps_ite | split | with_reducible apply keeps_mk | dsimp only)

theorem hifSyncOp_keeps {z : State} (s : State) (hK : Keeps z s) : Keeps z (hifSyncOp s) := by
  unfold hifSyncOp
  try dsimp only
  repeat' (first | with_reducible assumption | intro _ | with_reducible apply keeps_ite2 | with_reducible apply keeps_ite3 | with_reducible apply hostReadOp_keeps | with_reducible apply keeps_foldl | with_reducible apply keeps_foldl2 | with_reducible apply keeps_foldl3 | with_reducible apply keeps_iter | with_reducible apply keeps_elim | with_reducible apply keeps_ite | split | with_reducible apply keeps_mk | dsimp only)

theorem hifResendDue_keeps {z : State} (s : State) (tag : Half) (hK : Keeps z s) : Keeps z (hifResendDue s tag) := by
  unfold hifResendDue
  try dsimp only
  repeat' (first | with_reducible assumption | intro _ | with_reducible apply keeps_ite2 | with_reducible apply keeps_ite3 | with_reducible apply atLeast_keeps | with_reducible apply hifResend_keeps | with_reducible apply keeps_foldl | with_reducible apply keeps_foldl2 | with_reducible apply keeps_foldl3 | with_reducible apply keeps_iter | with_reducible apply keeps_elim | with_reducible apply keeps_ite | split | with_reducible apply keeps_mk | dsimp only)

theorem hifCtoDue_keeps {z : State} (s : State) (tag : Half) (hK : Keeps z s) : Keeps z (hifCtoDue s tag) := by
  unfold hifCtoDue
  try dsimp only
  repeat' (first | with_reducible assumption | intro _ | with_reducible apply keeps_ite2 | with_reducible apply keeps_ite3 | with_reducible apply atLeast_keeps | with_reducible apply hifTimeout_keeps | with_reducible apply keeps_foldl | with_reducible apply keeps_foldl2 | with_reducible apply keeps_foldl3 | with_reducible apply keeps_iter | with_reducible apply keeps_elim | with_reducible apply keeps_ite | split | with_reducible apply keeps_mk | dsimp only)

theorem configOp_keeps {z : State} (s : State) (op : CfgOp) (hK : Keeps z s) : Keeps z (configOp s op) := by
  unfold configOp
  try dsimp only
  repeat' (first | with_reducible assumption | intro _ | with_reducible apply keeps_ite2 | with_reducible apply keeps_ite3 | with_reducible apply emit_keeps | with_reducible apply modHif_keeps | with_reducible apply msixFlush_keeps | with_reducible apply keeps_foldl | with_reducible apply keeps_foldl2 | with_reducible apply keeps_foldl3 | with_reducible apply keeps_iter | with_reducible apply keeps_elim | with_reducible apply keeps_ite | split | with_reducible apply keeps_mk | dsimp only)

theorem flrOp_keeps {z : State} (s : State) (hK : Keeps z s) : Keeps z (flrOp s) := by
  unfold flrOp
  try dsimp only
  repeat' (first | with_reducible assumption | intro _ | with_reducible apply keeps_ite2 | with_reducible apply keeps_ite3 | with_reducible apply resetRegs_keeps | with_reducible apply modHif_keeps | with_reducible apply keepReg_keeps | with_reducible apply keeps_foldl | with_reducible apply keeps_foldl2 | with_reducible apply keeps_foldl3 | with_reducible apply keeps_iter | with_reducible apply keeps_elim | with_reducible apply keeps_ite | split | with_reducible apply keeps_mk | dsimp only)

theorem perstUp_keeps {z : State} (s : State) (hK : Keeps z s) : Keeps z (perstUp s) := by
  unfold perstUp
  try dsimp only
  repeat' (first | with_reducible assumption | intro _ | with_reducible apply keeps_ite2 | with_reducible apply keeps_ite3 | with_reducible apply putReg_keeps | with_reducible apply takeFree_keeps | with_reducible refine takeFree_keeps2 (by assumption) ?_ | with_reducible apply modHif_keeps | with_reducible apply keeps_foldl | with_reducible apply keeps_foldl2 | with_reducible apply keeps_foldl3 | with_reducible apply keeps_iter | with_reducible apply keeps_elim | with_reducible apply keeps_ite | split | with_reducible apply keeps_mk | dsimp only)

theorem msixOpen_keeps {z : State} (s : State) (vec : Option Nat) (hK : Keeps z s) : Keeps z (msixOpen s vec) := by
  unfold msixOpen
  try dsimp only
  repeat' (first | with_reducible assumption | intro _ | with_reducible apply keeps_ite2 | with_reducible apply keeps_ite3 | with_reducible apply setVec_keeps | with_reducible apply modHif_keeps | with_reducible apply msixFlush_keeps | with_reducible apply keeps_foldl | with_reducible apply keeps_foldl2 | with_reducible apply keeps_foldl3 | with_reducible apply keeps_iter | with_reducible apply keeps_elim | with_reducible apply keeps_ite | split | with_reducible apply keeps_mk | dsimp only)

theorem msixWindow_keeps {z : State} (s : State) (v : Nat) (hK : Keeps z s) : Keeps z (msixWindow s v) := by
  unfold msixWindow
  try dsimp only
  repeat' (first | with_reducible assumption | intro _ | with_reducible apply keeps_ite2 | with_reducible apply keeps_ite3 | with_reducible apply atLeast_keeps | with_reducible apply msixSend_keeps | with_reducible apply setVec_keeps | with_reducible apply keeps_foldl | with_reducible apply keeps_foldl2 | with_reducible apply keeps_foldl3 | with_reducible apply keeps_iter | with_reducible apply keeps_elim | with_reducible apply keeps_ite | split | with_reducible apply keeps_mk | dsimp only)

theorem smbAddrOp_keeps {z : State} (s : State) (a : Word) (pecOk : Bool) (hK : Keeps z s) : Keeps z (smbAddrOp s a pecOk) := by
  unfold smbAddrOp
  try dsimp only
  repeat' (first | with_reducible assumption | intro _ | with_reducible apply keeps_ite2 | with_reducible apply keeps_ite3 | with_reducible apply emit_keeps | with_reducible apply modHif_keeps | with_reducible apply keeps_foldl | with_reducible apply keeps_foldl2 | with_reducible apply keeps_foldl3 | with_reducible apply keeps_iter | with_reducible apply keeps_elim | with_reducible apply keeps_ite | split | with_reducible apply keeps_mk | dsimp only)

theorem smbDataOp_keeps {z : State} (s : State) (w : Option Word) (pecOk : Bool) (hK : Keeps z s) : Keeps z (smbDataOp s w pecOk) := by
  unfold smbDataOp
  try dsimp only
  repeat' (first | with_reducible assumption | intro _ | with_reducible apply keeps_ite2 | with_reducible apply keeps_ite3 | with_reducible apply emit_keeps | with_reducible apply modHif_keeps | with_reducible apply regRead_keeps | with_reducible refine regRead_keeps2 (by assumption) ?_ | with_reducible apply regPut_keeps | with_reducible apply keeps_foldl | with_reducible apply keeps_foldl2 | with_reducible apply keeps_foldl3 | with_reducible apply keeps_iter | with_reducible apply keeps_elim | with_reducible apply keeps_ite | split | with_reducible apply keeps_mk | dsimp only)

theorem smbStatusOp_keeps {z : State} (s : State) (hK : Keeps z s) : Keeps z (smbStatusOp s) := by
  unfold smbStatusOp
  try dsimp only
  repeat' (first | with_reducible assumption | intro _ | with_reducible apply keeps_ite2 | with_reducible apply keeps_ite3 | with_reducible apply emit_keeps | with_reducible apply keeps_foldl | with_reducible apply keeps_foldl2 | with_reducible apply keeps_foldl3 | with_reducible apply keeps_iter | with_reducible apply keeps_elim | with_reducible apply keeps_ite | split | with_reducible apply keeps_mk | dsimp only)

end Sys2Proof.Machine
end

