-- ==== Sys2Proof/Laws/Seq.lean ====
section
/-! SUPPORT. Chandler: what an issue slot does once a context issues, and what passing a command changes. -/

namespace Sys2Proof.Machine

/-- The tags of the command that issues (R768). -/
def noteTags (s : State) (t lc : Nat) (w : CmdWord) : State :=
  modTile (modCtx s t lc (fun c => { c with layer := cwLayer w, oper := cwOper w })) t
    (fun x => { x with seqTag := (cwLayer w, cwOper w) })

/-- What issue of a command without a fault gives. -/
theorem Issues.facts {s : State} {t lc : Nat} {w : CmdWord} (h : Issues s t lc w) :
    (getCtx s t lc).pc ≤ (getCtx s t lc).base + (getCtx s t lc).len
    ∧ (∀ lo dark, (tileRead s t (cmKey t (16 * (getCtx s t lc).pc)) 16 lo dark).2 = s) ∧ lc < 4 ∧ canIssue s t lc = true
    ∧ lcState s t lc = 1 := by
  obtain ⟨h1, h2, h3, h4⟩ := h
  have h5 : (getCtx s t lc).pc ≤ (getCtx s t lc).base + (getCtx s t lc).len := by
    by_contra hc
    simp [issueFault, show (getCtx s t lc).base + (getCtx s t lc).len < (getCtx s t lc).pc by omega] at h3
  have h6 : anyUE s (cmKey t (16 * (getCtx s t lc).pc)) 16 = false := by
    by_contra hc
    simp only [Bool.not_eq_false] at hc
    simp [issueFault, hc, Nat.not_lt.2 h5] at h3
  have h8 : (List.range 4).find? (canIssue s t) = some lc := by
    unfold issuer at h1
    split at h1
    · exact h1
    · cases h1
  have h9 := List.find?_some h8
  have h10 := h9
  simp only [canIssue, Bool.and_eq_true, beq_iff_eq] at h10
  exact ⟨h5, fun lo dark => by simp [tileRead, h4, h6], List.mem_range.1 (List.mem_of_find?_eq_some h8), h9, h10.1.1.1⟩

/-- The slot in which a SEQ command issues. -/
theorem issueRow_pass {s : State} {t lc : Nat} {w : CmdWord} (h : Issues s t lc w) (he : cwEng w = 0)
    (f : CmdWord → Bool) (hf : f w = true) :
    issueRow s t f = payPenalty (issueSeq (noteTags s t lc w) t lc w) t := by
  obtain ⟨h5, h7, -, -, -⟩ := h.facts
  obtain ⟨h1, h2, h3, h4⟩ := h
  simp only [issueRow, h1, h2, h5, he, hf, and_self, if_true, issueSlot, issueOne, h3, h7, noteTags]
  rw [if_neg (by decide), if_neg (by decide)]

/-- The slot in which a command of an engine issues. -/
theorem issueSlot_engine {s : State} {t lc : Nat} {w : CmdWord} (h : Issues s t lc w) (he : cwEng w ≠ 0) :
    issueSlot s t = payPenalty (issueEngine (noteTags s t lc w) t lc w) t := by
  obtain ⟨h5, h7, -, -, -⟩ := h.facts
  obtain ⟨h1, h2, h3, h4⟩ := h
  simp only [h1, h2, issueSlot, issueOne, h3, h7, noteTags]
  rw [if_neg (by decide), if_neg (by decide), if_neg he]

theorem onlyTile_payPenalty (s : State) (t : Nat) : OnlyTile s (payPenalty s t) t := onlyTile_modTile s t _
theorem onlyTile_noteTags (s : State) (t lc : Nat) (w : CmdWord) : OnlyTile s (noteTags s t lc w) t :=
  (onlyTile_modCtx s t lc _).trans (onlyTile_modTile _ t _)
theorem onlyTile_lcSetPc (s : State) (t lc pc : Nat) : OnlyTile s (lcSetPc s t lc pc) t :=
  (onlyTile_modCtx s t lc _).trans (onlyTile_putFld _ t _ _ _ _ _)
theorem onlyTile_passCmd (s : State) (t lc : Nat) : OnlyTile s (passCmd s t lc) t :=
  (onlyTile_modCtx s t lc _).trans (onlyTile_lcSetPc _ t lc _)

@[simp] theorem rawReg_payPenalty (s : State) (t : Nat) (p : Page) (o : Nat) : rawReg (payPenalty s t) p o = rawReg s p o := rfl
@[simp] theorem rawReg_noteTags (s : State) (t lc : Nat) (w : CmdWord) (p : Page) (o : Nat) :
    rawReg (noteTags s t lc w) p o = rawReg s p o := rfl

@[simp] theorem rfld_payPenalty (s : State) (t : Nat) (p : Page) (o hi lo : Nat) :
    rfld (payPenalty s t) p o hi lo = rfld s p o hi lo := rfl
@[simp] theorem rfld_noteTags (s : State) (t lc : Nat) (w : CmdWord) (p : Page) (o hi lo : Nat) :
    rfld (noteTags s t lc w) p o hi lo = rfld s p o hi lo := rfl
@[simp] theorem lcState_payPenalty (s : State) (t u lc : Nat) : lcState (payPenalty s t) u lc = lcState s u lc := rfl
@[simp] theorem lcState_noteTags (s : State) (t lc : Nat) (w : CmdWord) (u k : Nat) :
    lcState (noteTags s t lc w) u k = lcState s u k := rfl
@[simp] theorem lcState_lcSetState (s : State) (t lc st : Nat) : lcState (lcSetState s t lc st) t lc = st % 8 := by
  simp [lcState, lcSetState]
@[simp] theorem lcState_passCmd (s : State) (t lc : Nat) : lcState (passCmd s t lc) t lc = lcState s t lc :=
  rfld_putFld_ne s (.seq t) (lcStat lc) 26 16 _ 2 0 (by decide) (by decide) (by decide) (by decide)

/-- Registers after a command that SEQ passes: PC alone moves. -/
theorem rawReg_passCmd (s : State) (t lc : Nat) (p : Page) (o : Nat) :
    rawReg (passCmd s t lc) p o = rawReg (putFld s (.seq t) (lcStat lc) 26 16 (nextPc (getCtx s t lc))) p o := rfl

theorem rfld_passCmd (s : State) (t lc : Nat) (p : Page) (o hi lo : Nat) :
    rfld (passCmd s t lc) p o hi lo = rfld (putFld s (.seq t) (lcStat lc) 26 16 (nextPc (getCtx s t lc))) p o hi lo := rfl

/-- The tags leave where a context issues next as it is. -/
@[simp] theorem nextPc_noteTags (s : State) (t lc : Nat) (w : CmdWord) :
    nextPc (getCtx (noteTags s t lc w) t lc) = nextPc (getCtx s t lc) := by
  by_cases h : lc < (getTile s t).ctx.length
  · simp [noteTags, getCtx, modCtx, listMod, List.getElem?_eq_getElem h, nextPc]
  · simp [noteTags, getCtx, modCtx, listMod, List.getElem?_eq_none (Nat.not_lt.1 h), nextPc]

end Sys2Proof.Machine
end

