-- ==== Sys2Proof/Machine/Package.lean ====
section
/-! DEFINITION. The package: names of balls, the low-speed balls, the lane balls, the net of every other ball, the tolerances
of the rails and the power of an assembly (chapter 20). No command reads them. -/

namespace Sys2Proof.Machine

/-! ## Names of balls (R797 to R799) -/

/-- The letters of R798. -/
def rowLetter (i : Nat) : Char :=
  (['A', 'B', 'C', 'D', 'E', 'F', 'G', 'H', 'J', 'K', 'L', 'M', 'N', 'P', 'T', 'U', 'V', 'W', 'Y'][i]?).getD 'A'

/-- The name of row r, 1 to 118 (R798). -/
def rowName (r : Nat) : List Char :=
  if r ≤ 19 then [rowLetter (r - 1)] else [rowLetter ((r - 20) / 19), rowLetter ((r - 20) % 19)]

/-- A column in decimal. -/
def colName (c : Nat) : List Char :=
  let digit (d : Nat) : Char := Char.ofNat (48 + d % 10)
  if c < 10 then [digit c] else if c < 100 then [digit (c / 10), digit c] else [digit (c / 100), digit (c / 10), digit c]

/-- The name of the ball at row r and column c (R799). -/
def ballName (r c : Nat) : List Char := rowName r ++ colName c

/-! ## Low-speed balls (R800, Table 20.2) -/

inductive LowSignal where
  | perstN | thermtripN | alertN | stopInN | stopOutN | ppsIn | ppsOut | trefP | trefN | pcieRefclkP | pcieRefclkN | vbat
  | rtcXi | rtcXo | smbScl | smbSda | pmbScl | pmbSda | tck | tms | tdi | tdo | trstN | spiClk | spiCsN
  | spiIo (n : Nat) | noConnection
  deriving DecidableEq, Repr

/-- Rows AA to AK are rows 20 to 29. -/
def lowBalls : List (Nat × Nat × LowSignal) :=
  [(20, 2, .perstN), (20, 3, .thermtripN), (20, 4, .alertN), (21, 2, .stopInN), (21, 3, .stopOutN), (21, 4, .ppsIn),
   (22, 2, .ppsOut), (22, 3, .trefP), (22, 4, .trefN), (23, 2, .pcieRefclkP), (23, 3, .pcieRefclkN), (23, 4, .vbat),
   (24, 2, .rtcXi), (24, 3, .rtcXo), (24, 4, .smbScl), (25, 2, .smbSda), (25, 3, .pmbScl), (25, 4, .pmbSda)]
  ++ [(26, 2, .tck), (26, 3, .tms), (26, 4, .tdi), (27, 2, .tdo), (27, 3, .trstN), (27, 4, .spiClk), (28, 2, .spiCsN),
   (28, 3, .spiIo 0), (28, 4, .spiIo 1), (29, 2, .spiIo 2), (29, 3, .spiIo 3), (29, 4, .noConnection)]

/-! ## Lane balls (R803, Table 20.3) -/

/-- A lane of an interface, in one direction and polarity. -/
inductive LaneOf where
  | llk (i k : Nat) | pcie (j : Nat) | eth (e k : Nat)
  deriving DecidableEq, Repr

structure LaneBall where
  lane : LaneOf
  receive : Bool
  neg : Bool
  deriving DecidableEq, Repr

/-- Row and column of a lane ball. -/
def laneBall (b : LaneBall) : Nat × Nat :=
  let dp := 3 * (if b.receive then 1 else 0) + (if b.neg then 1 else 0)
  match b.lane with
  | .llk i k => (31 + 6 * (i % 12) + dp, if i < 12 then 1 + k else 118 - k)
  | .pcie j => (31 + 6 * (j / 8) + dp, 9 + j % 8)
  | .eth e k => (43 + 6 * (e % 2) + dp, if e < 2 then 9 + k else 110 - k)

/-- The lane whose columns a ball of rows 31 to 102 lies in: Table 20.3 read backwards. -/
def laneColumn (r c : Nat) : Option LaneOf :=
  let l := (r - 31) / 6
  if r < 31 ∨ 102 < r then none
  else if 1 ≤ c ∧ c ≤ 8 then some (.llk l (c - 1))
  else if 111 ≤ c ∧ c ≤ 118 then some (.llk (12 + l) (118 - c))
  else if 9 ≤ c ∧ c ≤ 16 ∧ l < 2 then some (.pcie (8 * l + (c - 9)))
  else if 9 ≤ c ∧ c ≤ 12 ∧ l / 2 = 1 then some (.eth (l - 2) (c - 9))
  else if 107 ≤ c ∧ c ≤ 110 ∧ l / 2 = 1 then some (.eth l (110 - c))
  else none

/-! ## The net of a ball (R804 to R806, Table 20.4) -/

inductive Rail where
  | vbat | vstby0v8 | vstby1v8 | vfab (q : Nat) | viow | vioe | vserw | vsere | vcore (q : Nat) | vhbmD | vhbmQ | vhbmP
  deriving DecidableEq, Repr

inductive Net where
  | low (x : LowSignal) | lane (b : LaneBall) | vss | rail (x : Rail) | open_
  deriving DecidableEq, Repr

/-- The quarter of the core region: its compute die. -/
def coreQuarter (r c : Nat) : Nat := (if r ≤ 59 then 0 else 2) + (if c ≤ 59 then 0 else 1)

/-- Table 20.4 for a ball with r + c odd. -/
def regionRail (r c : Nat) : Rail :=
  if c ≤ 16 then
    (if r ≤ 19 then (if c ≤ 8 then .vstby0v8 else .vstby1v8) else if 31 ≤ r ∧ r ≤ 102 then .vserw else .viow)
  else if 103 ≤ c then (if 31 ≤ r ∧ r ≤ 102 then .vsere else .vioe)
  else if r ≤ 12 then (if r ≤ 4 then .vhbmP else if r ≤ 8 then .vhbmQ else .vhbmD)
  else if 107 ≤ r then (if r ≤ 110 then .vhbmD else if r ≤ 114 then .vhbmQ else .vhbmP)
  else if r % 6 = 0 then .vfab (coreQuarter r c) else .vcore (coreQuarter r c)

/-- L1 assemblies lack the east I/O die (Table 1.1). -/
def oneDie : Assembly → Bool
  | .h4l1 | .h6l1 => true
  | _ => false

/-- The net of the ball at row r and column c of an assembly; on L1 assemblies the lane, VIOE and VSERE balls of the east
are open (R805). Which HBM balls belong to which site the spec does not give (R806). -/
def ballNet (a : Assembly) (r c : Nat) : Net :=
  match lowBalls.find? (fun b => b.1 == r && b.2.1 == c), laneColumn r c with
  | some b, _ => if b.2.2 = .noConnection then .open_ else if b.2.2 = .vbat then .rail .vbat else .low b.2.2
  | none, some l =>
    if (r - 31) % 3 = 2 then .vss
    else if oneDie a ∧ 103 ≤ c then .open_ else .lane ⟨l, (r - 31) / 3 % 2 == 1, (r - 31) % 3 == 1⟩
  | none, none =>
    if (r + c) % 2 = 0 then .vss
    else if oneDie a ∧ 103 ≤ c then .open_ else .rail (regionRail r c)

/-! ## Rails and power (R809, R811, Tables 20.6 and 20.7) -/

/-- Least and greatest voltage of a rail in µV, at a VCORE setpoint in mV; none for the HBM rails (R10). -/
def railRange (setMv : Nat) : Rail → Option (Nat × Nat)
  | .vbat => some (2000000, 3600000)
  | .vstby0v8 | .viow | .vioe => some (776000, 824000)
  | .vstby1v8 => some (1710000, 1890000)
  | .vfab _ => some (735000, 765000)
  | .vserw | .vsere => some (882000, 918000)
  | .vcore _ => some (980 * setMv, 1020 * setMv)
  | .vhbmD | .vhbmQ | .vhbmP => none

/-- A rail is within tolerance. -/
def railOk (setMv : Nat) (x : Rail) (uv : Nat) : Bool := (railRange setMv x).all (fun e => e.1 ≤ uv && uv ≤ e.2)

/-- Typical power at N and greatest power at F, in W (Table 20.7). -/
def powerOf : Assembly → Nat × Nat
  | .h4l1 => (820, 1200)
  | .h6l1 => (900, 1280)
  | .h6l2 => (980, 1360)
  | .h8l2 => (1080, 1450)

end Sys2Proof.Machine
end

