-- ==== Sys2Proof/WellFormed.lean ====
section
/-! DEFINITION. Which commands are well formed: every instance, index and place an operand names exists on some assembly. -/

namespace Sys2Proof

/-- Instances of Table 3.6. -/
def Page.wf : Page → Bool
  | .til t | .seq t | .cmp t | .mov t | .cmb t | .rtr t | .dbg t => decide (t < 16384)
  | .mem x e => decide (x < 128) && decide (e < 2)
  | .osw d | .tkp d => decide (d < 2)
  | .llk n => decide (n < 24)
  | .eth n => decide (n < 4)
  | .glz n => decide (n < 8)
  | .mgt | .scr | .hif | .dbgp => true

/-- Places of the fabric (R40, R47, R50, R51). -/
def Place.wf : Place → Bool
  | .tile t => decide (t < 16384)
  | .mem x e => decide (x < 128) && decide (e < 2)
  | .io d => decide (d < 2)

/-- Places of gate lists (Table 12.1). -/
def GPlace.wf : GPlace → Bool
  | .mov t => decide (t < 16384)
  | .llk n => decide (n < 24)
  | .eth n => decide (n < 4)

/-- Sizes of BAR0, BAR2 and BAR4 (R91, R92, R95); the function has no other. -/
def barBytes (bar : Nat) : Nat :=
  match bar with
  | 0 => 2 ^ 29
  | 2 => 2 ^ 26
  | 4 => 2 ^ 36
  | _ => 0

/-- Edges with a synchronising bridge (Table 2.4). -/
def SyncEdge.wf : SyncEdge → Bool
  | .llk n => decide (n < 24)
  | .eth n => decide (n < 4)
  | .mem x e => decide (x < 128) && decide (e < 2)
  | .pcie => true

/-- Requesters of R700. -/
def Requester.wf : Requester → Bool
  | .mov t _ => decide (t < 16384)
  | .cmb t q _ => decide (t < 16384) && decide (q < 8)
  | .til t i => decide (t < 16384) && decide (i < 3)

/-- A command is well formed when each operand names an instance or index that exists. -/
def Instr.wf : Instr → Bool
  | .edgeAbsentRequest x e => decide (x < 128) && decide (e < 2)
  | .ioeAbsentRequest y => decide (y < 128)
  | .syncWordFailure g => g.wf
  | .registerWrite _ p off _ _ _ => p.wf && decide (off < 4096)
  | .rcRead _ p off _ _ => p.wf && decide (off < 4096)
  | .registerPairRead _ p off => p.wf && decide (off < 4096)
  | .hifSyncRead => true
  | .pgLock _ p => p.wf
  | .pgIfr _ p _ => p.wf
  | .srst _ p => p.wf
  | .evrClr _ p => p.wf
  | .perfClr _ p => p.wf
  | .seqIssueSlot t _ => decide (t < 16384)
  | .nop t => decide (t < 16384)
  | .endList t => decide (t < 16384)
  | .jmp t => decide (t < 16384)
  | .br t => decide (t < 16384)
  | .branchResolve t lc k => decide (t < 16384) && decide (lc < 4) && decide (k < 2)
  | .ldlc t => decide (t < 16384)
  | .semSet t => decide (t < 16384)
  | .semAdd t => decide (t < 16384)
  | .semSub t => decide (t < 16384)
  | .sig t => decide (t < 16384)
  | .wait t => decide (t < 16384)
  | .waitRelease t lc => decide (t < 16384) && decide (lc < 4)
  | .waitsel t => decide (t < 16384)
  | .waitselSelect t lc => decide (t < 16384) && decide (lc < 4)
  | .waitTimeout t lc => decide (t < 16384) && decide (lc < 4)
  | .fence t => decide (t < 16384)
  | .fenceComplete t lc => decide (t < 16384) && decide (lc < 4)
  | .hdr t => decide (t < 16384)
  | .contextDrained t lc => decide (t < 16384) && decide (lc < 4)
  | .load _ t lc => decide (t < 16384) && decide (lc < 4)
  | .loadDecision t lc => decide (t < 16384) && decide (lc < 4)
  | .abort _ t lc => decide (t < 16384) && decide (lc < 4)
  | .predclr _ t => decide (t < 16384)
  | .tdesc t => decide (t < 16384)
  | .mm t _ => decide (t < 16384)
  | .mma t _ => decide (t < 16384)
  | .mmt t _ => decide (t < 16384)
  | .add t _ => decide (t < 16384)
  | .sub t _ => decide (t < 16384)
  | .mul t _ => decide (t < 16384)
  | .max t _ => decide (t < 16384)
  | .min t _ => decide (t < 16384)
  | .fma t _ => decide (t < 16384)
  | .scale t _ => decide (t < 16384)
  | .abs t _ => decide (t < 16384)
  | .neg t _ => decide (t < 16384)
  | .lut t _ => decide (t < 16384)
  | .rsum t _ => decide (t < 16384)
  | .rmax t _ => decide (t < 16384)
  | .rmin t _ => decide (t < 16384)
  | .rssq t _ => decide (t < 16384)
  | .trans t _ => decide (t < 16384)
  | .cpy t _ => decide (t < 16384)
  | .cvt t _ => decide (t < 16384)
  | .fill t _ => decide (t < 16384)
  | .cmpComplete t => decide (t < 16384)
  | .maddr t => decide (t < 16384)
  | .mnode t => decide (t < 16384)
  | .copy t _ => decide (t < 16384)
  | .movMsg t _ => decide (t < 16384)
  | .movContrib t _ => decide (t < 16384)
  | .movComplete t => decide (t < 16384)
  | .movResend t _ => decide (t < 16384)
  | .pelClr _ t => decide (t < 16384)
  | .injectPacket p => p.wf
  | .wrackTimer p _ _ => p.wf
  | .rd p _ => p.wf
  | .wr p _ => p.wf
  | .wra p _ => p.wf
  | .msg t => decide (t < 16384)
  | .contrib p _ => p.wf
  | .cres t => decide (t < 16384)
  | .resv t => decide (t < 16384)
  | .conf t => decide (t < 16384)
  | .wdrw t => decide (t < 16384)
  | .regrd p => p.wf
  | .regwr p => p.wf
  | .signal t => decide (t < 16384)
  | .trace x e => decide (x < 128) && decide (e < 2)
  | .rdrsp p => p.wf
  | .wrack p => p.wf
  | .wfn p => p.wf
  | .nak p => p.wf
  | .dead p => p.wf
  | .rsvack p => p.wf
  | .regrsp p => p.wf
  | .resvHeldExpiry t _ _ _ => decide (t < 16384)
  | .confTimeout t _ _ _ => decide (t < 16384)
  | .leaseRequest _ t i lreg lx => decide (t < 16384) && decide (i < 3) && decide (lreg < 4) && decide (lx < 128)
  | .leaseEnd _ t i => decide (t < 16384) && decide (i < 3)
  | .leaseDelivery t _ => decide (t < 16384)
  | .routerPacket t port vc _ _ => decide (t < 16384) && decide (port < 5) && decide (vc < 4)
  | .forkAccept t port vc => decide (t < 16384) && decide (port < 5) && decide (vc < 4)
  | .forkBranchStart t slot bi => decide (t < 16384) && decide (slot < 2) && decide (bi < 8)
  | .creditReturn t port vc => decide (t < 16384) && decide (port < 5) && decide (vc < 4)
  | .keepaliveSend t port => decide (t < 16384) && decide (port < 5)
  | .keepaliveTimeout t port => decide (t < 16384) && decide (port < 5)
  | .tilIsoOff _ t => decide (t < 16384)
  | .watchdogExpiry t => decide (t < 16384)
  | .vcorePowerLoss t => decide (t < 16384)
  | .deq t _ => decide (t < 16384)
  | .drop t => decide (t < 16384)
  | .cqarm t => decide (t < 16384)
  | .cqArmed t n => decide (t < 16384) && decide (n < 8)
  | .cqrst t => decide (t < 16384)
  | .bpHoldExpiry t n => decide (t < 16384) && decide (n < 16)
  | .refusalEntryExpiry t n => decide (t < 16384) && decide (n < 16)
  | .cmbRqEn _ t n _ => decide (t < 16384) && decide (n < 16)
  | .cqEn _ t n _ => decide (t < 16384) && decide (n < 8)
  | .cmbResend t n _ => decide (t < 16384) && decide (n < 8)
  | .timeWave _ => true
  | .ntWrap => true
  | .tkpSrc _ _ => true
  | .fwst _ _ => true
  | .ppsInEdge => true
  | .ppsLoss => true
  | .holdoverExpiry => true
  | .tkpPhase _ _ => true
  | .tkpStep _ _ _ => true
  | .rtcSet _ _ _ => true
  | .rtcsync _ => true
  | .rtcLoadFromNt => true
  | .rtcFracRead _ => true
  | .sync n _ _ _ => decide (n < 24)
  | .dreq n _ _ _ => decide (n < 24)
  | .drsp n _ _ _ => decide (n < 24)
  | .accordExchangeMiss n => decide (n < 24)
  | .accordHoldoverTimeout n => decide (n < 24)
  | .accordAcquireTimeout n => decide (n < 24)
  | .accRole _ n role => decide (n < 24) && decide (role < 4)
  | .vbatLow => true
  | .rtcOscStop => true
  | .rtcOscResume => true
  | .ppsOutRise => true
  | .ppsOutFall => true
  | .chg _ g => g.wf
  | .cancel _ g => g.wf
  | .halt _ g => g.wf
  | .gclSwitch g => g.wf
  | .gateEntryStart g => g.wf
  | .egressStart g => g.wf
  | .tblRead _ g tbl idx => g.wf && decide (tbl < 8) && decide (idx < 256)
  | .tblWrite _ g tbl idx => g.wf && decide (tbl < 8) && decide (idx < 256)
  | .shpEnable _ g k _ => g.wf && decide (k < 8)
  | .shaperRateWrite _ g k _ _ => g.wf && decide (k < 8)
  | .lf128Block n _ _ _ => decide (n < 24)
  | .dataFrame n _ _ => decide (n < 24)
  | .ctrlFrame n _ => decide (n < 24)
  | .ackTimer n => decide (n < 24)
  | .replayTimeout n => decide (n < 24)
  | .waveCode n _ => decide (n < 24)
  | .train _ n => decide (n < 24)
  | .llkDown _ n => decide (n < 24)
  | .trainDetect n _ => decide (n < 24)
  | .trainEqual n => decide (n < 24)
  | .trainDeskew n _ => decide (n < 24)
  | .trainIdent n pkg plane link => decide (n < 24) && decide (pkg < 1024) && decide (plane < 2) && decide (link < 16)
  | .trainTimeout n => decide (n < 24)
  | .narrowDeskew n => decide (n < 24)
  | .oswPacket d => decide (d < 2)
  | .scrubVisit x e _ => decide (x < 128) && decide (e < 2)
  | .refresh x e => decide (x < 128) && decide (e < 2)
  | .stackTemperature site _ => decide (site < 8)
  | .hostRead bar addr len => decide (addr + len ≤ barBytes bar)
  | .hostWrite bar addr bytes be => decide (addr + bytes.length ≤ barBytes bar) && be.length == bytes.length
  | .hifResend _ => true
  | .hifCto _ => true
  | .configRequest _ => true
  | .flr => true
  | .msixUnmask _ => true
  | .msixWindowEnd _ => true
  | .smbAddr _ _ => true
  | .smbData _ _ => true
  | .smbStatus => true
  | .rxFrame n _ _ _ => decide (n < 4)
  | .pfcFrame n _ => decide (n < 4)
  | .pfcRepeat n prio => decide (n < 4) && decide (prio < 8)
  | .ethRingTail _ n ring _ _ => decide (n < 4) && decide (ring < 64)
  | .ethRingEn _ n ring _ _ => decide (n < 4) && decide (ring < 64)
  | .txFrameFetch n ring => decide (n < 4) && decide (ring < 64)
  | .txFrameDone n ring => decide (n < 4) && decide (ring < 64)
  | .ethLinkChange n _ _ => decide (n < 4)
  | .glzRingTail _ n _ => decide (n < 8)
  | .glzRingFetch n => decide (n < 8)
  | .glzQueueMsg n => decide (n < 8)
  | .target n => decide (n < 8)
  | .region n => decide (n < 8)
  | .cgroup n => decide (n < 8)
  | .dstate n => decide (n < 8)
  | .prog n => decide (n < 8)
  | .loper n => decide (n < 8)
  | .draw n _ => decide (n < 8)
  | .splat n _ => decide (n < 8)
  | .clear n => decide (n < 8)
  | .dresolve n => decide (n < 8)
  | .bvh n => decide (n < 8)
  | .rayq n _ => decide (n < 8)
  | .glzFence n => decide (n < 8)
  | .fragmentRetire n _ => decide (n < 8)
  | .glzPaused n => decide (n < 8)
  | .glzResume _ n => decide (n < 8)
  | .ppEnd n => decide (n < 8)
  | .ppMov n => decide (n < 8)
  | .ppAdd n => decide (n < 8)
  | .ppSub n => decide (n < 8)
  | .ppMul n => decide (n < 8)
  | .ppFma n => decide (n < 8)
  | .ppMin n => decide (n < 8)
  | .ppMax n => decide (n < 8)
  | .ppRcp n => decide (n < 8)
  | .ppRsq n => decide (n < 8)
  | .ppEx2 n => decide (n < 8)
  | .ppLg2 n => decide (n < 8)
  | .ppLdi n => decide (n < 8)
  | .ppLdf n => decide (n < 8)
  | .ppLdp n => decide (n < 8)
  | .ppStp n => decide (n < 8)
  | .ppKill n => decide (n < 8)
  | .bucketLeak kind inst => decide (kind < 8) && decide (inst < 16777216)
  | .responseTimeout r => r.wf
  | .tagRelease t _ => decide (t < 16384)
  | .scrRetire _ _ => true
  | .rlogPop _ => true
  | .bucketThrWrite _ kind _ _ => decide (kind < 8)
  | .fullerPass _ => true
  | .stop _ => true
  | .stopInEdge => true
  | .blockHalt p => p.wf
  | .resume _ => true
  | .freeze _ => true
  | .unfreeze _ => true
  | .scanRead addr => decide (addr < 0x2000000)
  | .scanwin _ _ => true
  | .sillageW0Read _ p slot => p.wf && decide (slot < 32)
  | .sampleRecord t => decide (t < 16384)
  | .vstbyValid => true
  | .boot _ _ _ _ _ => true
  | .railTimeout => true
  | .vstbyLoss => true
  | .perstN => true
  | .cold _ => true
  | .fabric _ _ => true
  | .tile _ tidx => decide (tidx < 16384)
  | .resetComplete => true
  | .thermtrip => true
  | .tempReport _ _ _ => true
  | .throttleReview => true
  | .mgtVset _ _ => true
  | .perstNDeassert => true
  | .pfcPauseExpiry n prio => decide (n < 4) && decide (prio < 8)

end Sys2Proof
end

