-- ==== Sys2Proof/Tests/Slice0.lean ====
section
/-! SUPPORT. Tests: ill-formed commands are refused; worked examples of the spec; and, for each statement of
Certificates/Slice0/Obligations.lean, a state and operands that meet the hypotheses of every clause. -/

open Sys2Proof Sys2Proof.Machine

/-! ## States -/

/-- The state after reset with the listed registers at the listed values. -/
def Sys2Proof.Tests.rs (l : List (Page × Nat × Nat)) : State :=
  l.foldl (fun s e => putReg s e.1 e.2.1 (BitVec.ofNat 32 e.2.2)) State.reset

/-- The same with what one tile holds. -/
def Sys2Proof.Tests.rt (t : Nat) (x : Tile) (l : List (Page × Nat × Nat)) : State := setTile (Sys2Proof.Tests.rs l) t x

open Sys2Proof.Tests

/-! ## Well-formed commands: a term outside each bound is refused -/

theorem test_wf_pages : ([.til 16384, .seq 16384, .cmp 16384, .mov 16384, .cmb 16384, .rtr 16384, .dbg 16384, .mem 128 0,
    .mem 0 2, .osw 2, .tkp 2, .llk 24, .eth 4, .glz 8] : List Page).all (fun p => !p.wf) = true := by decide

theorem test_wf_places : (([.tile 16384, .mem 128 0, .mem 0 2, .io 2] : List Place).all (fun p => !p.wf)
    && ([.mov 16384, .llk 24, .eth 4] : List GPlace).all (fun p => !p.wf)
    && ([.llk 24, .eth 4, .mem 128 0, .mem 0 2] : List SyncEdge).all (fun p => !p.wf)
    && ([.mov 16384 0, .cmb 16384 0 0, .cmb 0 8 0, .til 16384 0, .til 0 3] : List Requester).all (fun r => !r.wf)) = true := by
  decide

theorem test_wf_rows : ([
    .ioeAbsentRequest] : List (Nat → Instr)).all (fun c => !(c 128).wf) = true := by decide

theorem test_wf_bridges : ([
    .syncWordFailure] : List (SyncEdge → Instr)).all (fun c => !(c (.eth 4)).wf) = true := by decide

theorem test_wf_tiles : ([
    .nop, .endList, .jmp, .br, .ldlc, .semSet, .semAdd, .semSub, .sig, .wait, .waitsel, .fence, .hdr, .tdesc, .cmpComplete,
    .maddr, .mnode, .movComplete, .msg, .cres, .resv, .conf, .wdrw, .signal, .watchdogExpiry, .vcorePowerLoss, .drop, .cqarm,
    .cqrst, .sampleRecord] : List (Nat → Instr)).all (fun c => !(c 16384).wf) = true := by decide

theorem test_wf_at_places : ([
    .injectPacket, .regrd, .regwr, .rdrsp, .wrack, .wfn, .nak, .dead, .rsvack, .regrsp] : List (Place → Instr)).all (fun c => !(c (.tile 16384)).wf) = true := by decide

theorem test_wf_links : ([
    .accordExchangeMiss, .accordHoldoverTimeout, .accordAcquireTimeout, .ackTimer, .replayTimeout, .trainEqual, .trainTimeout,
    .narrowDeskew] : List (Nat → Instr)).all (fun c => !(c 24).wf) = true := by decide

theorem test_wf_gate_places : ([
    .gclSwitch, .gateEntryStart, .egressStart] : List (GPlace → Instr)).all (fun c => !(c (.llk 24)).wf) = true := by decide

theorem test_wf_dies : ([
    .oswPacket] : List (Nat → Instr)).all (fun c => !(c 2).wf) = true := by decide

theorem test_wf_glaziers : ([
    .glzRingFetch, .glzQueueMsg, .target, .region, .cgroup, .dstate, .prog, .loper, .clear, .dresolve, .bvh, .glzFence,
    .glzPaused, .ppEnd, .ppMov, .ppAdd, .ppSub, .ppMul, .ppFma, .ppMin, .ppMax, .ppRcp, .ppRsq, .ppEx2, .ppLg2, .ppLdi,
    .ppLdf, .ppLdp, .ppStp, .ppKill] : List (Nat → Instr)).all (fun c => !(c 8).wf) = true := by decide

theorem test_wf_requesters : ([
    .responseTimeout] : List (Requester → Instr)).all (fun c => !(c (.til 16384 0)).wf) = true := by decide

theorem test_wf_at_pages : ([
    .blockHalt] : List (Page → Instr)).all (fun c => !(c (.til 16384)).wf) = true := by decide

theorem test_wf_window : ([
    .scanRead] : List (Nat → Instr)).all (fun c => !(c 33554432).wf) = true := by decide

theorem test_wf_indices_1 : ([
    .edgeAbsentRequest 128 0, .edgeAbsentRequest 0 2, .registerWrite .host (.til 16384) 0 0 0 none,
    .registerWrite .host .scr 4096 0 0 none, .rcRead .host (.til 16384) 0 none none, .rcRead .host .scr 4096 none none,
    .registerPairRead .host (.til 16384) 0, .registerPairRead .host .scr 4096, .pgLock .host (.til 16384),
    .pgIfr .host (.til 16384) 0, .srst .host (.til 16384), .evrClr .host (.til 16384), .perfClr .host (.til 16384),
    .seqIssueSlot 16384 [], .branchResolve 16384 0 0, .branchResolve 0 4 0, .branchResolve 0 0 2, .waitRelease 16384 0,
    .waitRelease 0 4, .waitselSelect 16384 0, .waitselSelect 0 4, .waitTimeout 16384 0, .waitTimeout 0 4,
    .fenceComplete 16384 0, .fenceComplete 0 4, .contextDrained 16384 0, .contextDrained 0 4, .load .host 16384 0,
    .load .host 0 4, .loadDecision 16384 0, .loadDecision 0 4, .abort .host 16384 0, .abort .host 0 4, .predclr .host 16384,
    .mm 16384 [], .mma 16384 [], .mmt 16384 [], .add 16384 [], .sub 16384 [], .mul 16384 [], .max 16384 [], .min 16384 [],
    .fma 16384 [], .scale 16384 [], .abs 16384 [], .neg 16384 [], .lut 16384 [], .rsum 16384 [], .rmax 16384 [],
    .rmin 16384 [], .rssq 16384 [], .trans 16384 [], .cpy 16384 [], .cvt 16384 [], .fill 16384 [], .copy 16384 [],
    .movMsg 16384 [], .movContrib 16384 [], .movResend 16384 0, .pelClr .host 16384] : List Instr).all (fun i => !i.wf) = true := by decide

theorem test_wf_indices_2 : ([
    .wrackTimer (.tile 16384) 0 0, .rd (.tile 16384) [], .wr (.tile 16384) [], .wra (.tile 16384) [],
    .contrib (.tile 16384) [], .trace 128 0, .trace 0 2, .resvHeldExpiry 16384 0 0 0, .confTimeout 16384 0 0 0,
    .leaseRequest .host 16384 0 0 0, .leaseRequest .host 0 3 0 0, .leaseRequest .host 0 0 4 0, .leaseRequest .host 0 0 0 128,
    .leaseEnd .host 16384 0, .leaseEnd .host 0 3, .leaseDelivery 16384 0, .routerPacket 16384 0 0 true [],
    .routerPacket 0 5 0 true [], .routerPacket 0 0 4 true [], .forkAccept 16384 0 0, .forkAccept 0 5 0, .forkAccept 0 0 4,
    .forkBranchStart 16384 0 0, .forkBranchStart 0 2 0, .forkBranchStart 0 0 8, .creditReturn 16384 0 0, .creditReturn 0 5 0,
    .creditReturn 0 0 4, .keepaliveSend 16384 0, .keepaliveSend 0 5, .keepaliveTimeout 16384 0, .keepaliveTimeout 0 5,
    .tilIsoOff .host 16384, .deq 16384 [], .cqArmed 16384 0, .cqArmed 0 8, .bpHoldExpiry 16384 0, .bpHoldExpiry 0 16,
    .refusalEntryExpiry 16384 0, .refusalEntryExpiry 0 16, .cmbRqEn .host 16384 0 true, .cmbRqEn .host 0 16 true,
    .cqEn .host 16384 0 true, .cqEn .host 0 8 true, .cmbResend 16384 0 0, .cmbResend 0 8 0,
    .sync 24 ⟨0, 0, 0, 0, true, true⟩ true 0, .dreq 24 0 true true, .drsp 24 0 0 true, .accRole .host 24 0,
    .accRole .host 0 4, .chg .host (.llk 24), .cancel .host (.llk 24), .halt .host (.llk 24), .tblRead .host (.llk 24) 0 0,
    .tblRead .host (.mov 0) 8 0, .tblRead .host (.mov 0) 0 256, .tblWrite .host (.llk 24) 0 0, .tblWrite .host (.mov 0) 8 0,
    .tblWrite .host (.mov 0) 0 256] : List Instr).all (fun i => !i.wf) = true := by decide

theorem test_wf_indices_3 : ([
    .shpEnable .host (.llk 24) 0 0, .shpEnable .host (.mov 0) 8 0, .shaperRateWrite .host (.llk 24) 0 true 0,
    .shaperRateWrite .host (.mov 0) 8 true 0, .lf128Block 24 ⟨[], []⟩ [] [],
    .dataFrame 24 ⟨0, 0, 0, 0, 0, true, 0, true, true, 0, 0, 0⟩ {},
    .ctrlFrame 24 ⟨0, 0, 0, 0, 0, true, 0, true, true, 0, 0, 0⟩, .waveCode 24 0, .train .host 24, .llkDown .host 24,
    .trainDetect 24 0, .trainDeskew 24 0, .trainIdent 24 0 0 0, .trainIdent 0 1024 0 0, .trainIdent 0 0 2 0,
    .trainIdent 0 0 0 16, .scrubVisit 128 0 [], .scrubVisit 0 2 [], .refresh 128 0, .refresh 0 2, .stackTemperature 8 0,
    .hostRead 2 (2 ^ 26) 1, .hostRead 1 0 1, .hostWrite 0 (2 ^ 29) [1] [true], .hostWrite 0 0 [1] [], .rxFrame 4 [] true [],
    .pfcFrame 4 [], .pfcRepeat 4 0, .pfcRepeat 0 8, .ethRingTail .host 4 0 true 0, .ethRingTail .host 0 64 true 0,
    .ethRingEn .host 4 0 true 0, .ethRingEn .host 0 64 true 0, .txFrameFetch 4 0, .txFrameFetch 0 64, .txFrameDone 4 0,
    .txFrameDone 0 64, .ethLinkChange 4 true true, .glzRingTail .host 8 0, .draw 8 [], .splat 8 [], .rayq 8 [],
    .fragmentRetire 8 [], .glzResume .host 8, .bucketLeak 8 0, .bucketLeak 0 16777216, .tagRelease 16384 0,
    .bucketThrWrite .host 8 true 0, .sillageW0Read .host (.til 16384) 0, .sillageW0Read .host .scr 32, .tile .host 16384,
    .pfcPauseExpiry 4 0, .pfcPauseExpiry 0 8] : List Instr).all (fun i => !i.wf) = true := by decide

theorem test_wf_admits : (([.nop 16383, .bucketLeak 7 16777215, .tblWrite .host (.eth 3) 7 255, .hostRead 4 (2 ^ 36 - 8) 8,
    .hostWrite 2 0 [1] [true], .bucketLeak 0 0] : List Instr).all (fun i => i.wf)) = true := by decide

/-! ## Worked examples and tables of the spec, one step or one operation each -/

/-- Table 8.8: one address on three assemblies. -/
theorem test_interleave_table : chanOf .h4l1 0x1234000 = (44, 0, 0x24000) ∧ chanOf .h6l2 0x1234000 = (89, 0, 0x18000)
    ∧ chanOf .h8l2 0x1234000 = (17, 1, 0x12000) ∧ memNodeOf State.reset 0 0x1234000 = 0x9140 := by decide +kernel

/-- Section 3.3: the SEQ page of tile (70,12), the MEM page of the south edge of column 40, and LLK14. -/
theorem test_page_addresses : pageBase (.seq 1606) = 0x3231000 ∧ regView State.reset (.seq 1606) 0 = 0x00020646
    ∧ bar2Page State.reset 0xA8000 = some (.mem 40 1) ∧ regView State.reset (.mem 40 1) 0 = 0x001000A8
    ∧ bar2Page State.reset 0x212000 = some (.llk 14) := by decide +kernel

/-- Section 3.5: PG_ECNT reads 0x000300FE; 0 is written and one corrected error counted in the same grant. -/
theorem test_ecnt_collision :
    (match exec (.registerWrite .host (.rtr 5) 0x040 0 0xF (some ⟨15, 0, 1, true⟩)) (rs [(.rtr 5, 0x040, 0x000300FE)]) with
      | .next u => rawReg u (.rtr 5) 0x040 == 1
      | _ => false) = true := by decide +kernel

/-- Section 6.4: the steps of a 128 by 256 by 64 MM of BF16 into FP32. -/
theorem test_mm_steps :
    cmpSteps 0x10 ⟨0x18000, 3, 128, 64, 256⟩ (some ⟨0, 1, 128, 256, 512⟩) (some ⟨0x10000, 1, 256, 64, 128⟩) false = 4104 := by
  decide +kernel

/-- Section 4.8: LC1 is short of TM by 16,384 bytes and of CQs by 1. -/
theorem test_admission_short :
    (let s := modCtx (rs [(.seq 3, 0x108, 1), (.seq 3, 0x140, 1200), (.seq 3, 0x144, 1)]) 3 0 (fun c => { c with tmb := 131072, ncq := 6 })
    match exec (.loadDecision 3 1) (writeMem { s with tiles := s.tiles.map (fun e => (e.1, { e.2 with loads := [1] })) } (cmKey 3 (16 * 1200))
        (leBytes 16 (0xF0 * 2 ^ 120 + 300 * 2 ^ 68 + 81920 * 2 ^ 50 + 3 * 2 ^ 46 + 4 * 2 ^ 39))) with
      | .next u => rawReg u (.seq 3) 0x084 == 0xA0304000
      | _ => false) = true := by decide +kernel

/-- Section 11.7: the RTC reads 2,048,000,000 and FRAC 0x4000 as NT starts. -/
theorem test_nt_start :
    (let s := ntStart (rtcPut State.reset 2048000000 0x4000); (ntOf s, s.tkp.epoch)) = (512000000000, 2048000000) := by
  decide +kernel

/-- Section 18.4: SEQ_LC0_STAT of tile (70,12) in the scan window of BASE 25. -/
theorem test_scan_address : barAt State.reset 2 0x02369108 = .scan (6 * 0x80000 + 0x69108) ∧ 64 * 25 + 0x369108 / 0x80000 = 1606 := by
  decide +kernel

/-- R551: the i-th byte of a block is dealt to the (i mod n)-th active lane, the sideband byte first on its lane; and back. -/
theorem test_lf128_dealt :
    let bs := (List.range 128).map (BitVec.ofNat 8)
    (lfShares [1, 4, 6] 6 0xAA bs).map (·.length) = [0, 43, 0, 0, 43, 0, 43, 0]
      ∧ ((lfShares [1, 4, 6] 6 0xAA bs)[6]?).getD [] = 0xAA :: (List.range 42).map (fun i => BitVec.ofNat 8 (3 * i + 2))
      ∧ lfBytes [1, 4, 6] 6 (lfShares [1, 4, 6] 6 0xAA bs) = (0xAA, bs) := by decide +kernel

/-- Chapter 20: the examples of R799, of section 20.3 and of section 20.4. -/
theorem test_balls : ballName 47 113 = ['B', 'J', '1', '1', '3']
    ∧ laneBall ⟨.pcie 12, false, false⟩ = (37, 13) ∧ ballName 37 13 = ['A', 'W', '1', '3']
    ∧ ballName 49 1 = ['B', 'L', '1'] ∧ ballNet .h8l2 31 20 = .rail (.vcore 0) := by decide +kernel

/-! ## The machine and its registers -/

/-- A state with a command that waits and one byte of memory that is not zero. -/
def Sys2Proof.Tests.wRun : State := { rs [] with pending := [.ntWrap, .ntWrap], mem := [(2 ^ 48, 1)] }

theorem test_StepRunsQueue_met : wRun.pending = Instr.ntWrap :: [.ntWrap] ∧ State.reset.pending = [] := by decide +kernel

theorem test_EveryStepKeepsMachine_met : Memory.wf wRun.mem = true := by decide +kernel

theorem test_RegisterWritesAct_met :
    (writeTaken State.reset (.rtr 16383) 0x084 0xFFFE = true ∧ writeTaken State.reset (.mem 127 1) 0x080 5 = true)
      ∧ (writeAt State.reset (.cmp 0) 0xFFC = none ∧ writeAt State.reset .mgt 0xDFC = none)
      ∧ (∃ d, writeAt State.reset (.seq 0) 0x088 = some d
        ∧ discardCode State.reset (.seq 0) 0x088 ⟨rawReg State.reset (.seq 0) 0x088,
          applyAll (rawReg State.reset (.seq 0) 0x088) 0x30001 (rbit State.reset (.seq 0) 0x018 0) d.flds⟩ 0x30001 ≠ 0) :=
  ⟨by decide +kernel, by decide +kernel, _, rfl, by decide +kernel⟩

/-- Boot done, PERST_N released, one host write not yet answered. -/
def Sys2Proof.Tests.wHost (accs : List HostAcc) : State :=
  { rs [(.mgt, 0x090, 7), (.mgt, 0x084, 0x3F3F00)] with
    hif := { perst := true, nextId := 1, accs := accs }, mgt := { running := none } }

theorem test_RegisterReadsAct_met :
    (State.reset.latches = [] ∧ pageReached State.reset (.til 0) = true ∧ rcMask (.til 0) 0x080 = 0)
      ∧ (pageReached State.reset (.glz 0) = true ∧ rcMask (.glz 0) 0x0B8 ≠ 0)
      ∧ (hostUp (wHost []) = true ∧ pkgFailed (wHost []) = false ∧ (wHost []).hif.rds = []
        ∧ ∀ a ∈ (wHost []).hif.accs, a.write = false)
      ∧ ∃ a : HostAcc, a ∈ (wHost [⟨0, 0, true, 0, {}, 0, none, 0, 0, 0⟩]).hif.accs ∧ a.write = true ∧ a.id < 1 :=
  ⟨by decide +kernel, by decide +kernel, by decide +kernel, ⟨0, 0, true, 0, {}, 0, none, 0, 0, 0⟩, by decide +kernel⟩

theorem test_PartialHostWrites_met :
    ∃ d, writeAt State.reset (.rtr 0) 0x084 = some d ∧ (0xE : BitVec 4) ≠ 0 ∧ (0xE : BitVec 4) ≠ 0xF
      ∧ rbit State.reset (.rtr 0) 0x030 31 = false ∧ rbit (rs [(.rtr 0, 0x030, 0x80000000)]) (.rtr 0) 0x030 31 = true
      ∧ writeAt (rs [(.rtr 0, 0x030, 0x80000000)]) (.rtr 0) 0x084 = some d := ⟨_, rfl, by decide +kernel⟩

theorem test_LatchedReadsHold_met :
    (pageReached State.reset .scr = true ∧ ∀ e ∈ State.reset.latches, e.1 ≠ regKey .scr 0xFF0)
      ∧ pageReached State.reset (.tkp 0) = true ∧ ∀ e ∈ State.reset.latches, e.1 ≠ regKey (.tkp 0) 0x0E8 := by
  decide +kernel

theorem test_HeaderWritesAct_met :
    let s := State.reset
    (writeTaken s (.llk 23) 0x018 1 = true ∧ writeTaken s (.llk 0) 0x028 1 = true)
      ∧ writeTaken s .scr 0x050 (rawReg s .scr 0x050 ||| 4) = true
      ∧ (writeTaken s (.cmp 5) 0x060 (rawReg s (.cmp 5) 0x060 ||| 2) = true ∧ pageEngine (.cmp 5) = some (5, 1))
      ∧ (let u := { s with mgt := { s.mgt with running := none } };
        (∀ p, p ∈ [Page.seq 1, .mov 1] → writeTaken u p 0x010 (rawReg u p 0x010 ||| 2) = true ∧ rbit u p 0x010 1 = false)
          ∧ (∀ lc, lc < 4 → lcState u 1 lc = 0) ∧ movOwes { getTile u 1 with movQ := [] } = false ∧ u.mgt.running = none
          ∧ u.mgt.thermtrip = false) := by decide +kernel

/-- An enabled receive queue and an armed lease at tile 0. -/
def Sys2Proof.Tests.wCtl : State := rs [(.cmb 0, 0x108, 64), (.cmb 0, 0x100, 1), (.til 0, 0x104, 0x20003)]

theorem test_TileControlsAct_met :
    let s := State.reset
    (writeTaken s (.seq 0) (0x104 + lcOff 3) 1 = true ∧ writeTaken s (.seq 0) (0x104 + lcOff 3) 2 = true
        ∧ (getCtx s 0 3).brs = [] ∧ (getTile s 0).movQ = [] ∧ (getTile s 0).movCur = none ∧ (getTile s 0).movOut = []
        ∧ (getTile s 0).stageQ = [])
      ∧ (writeTaken s (.seq 0) 0x080 (rawReg s (.seq 0) 0x080 ||| 2) = true ∧ writeTaken s (.mov 0) 0x084 1 = true)
      ∧ (writeTaken s (.til 0) 0x084 1 = true ∧ isolated s 0 = false ∧ rbit s (.til 0) 0x084 0 = false)
      ∧ (writeTaken wCtl (.cmb 0) (rqOff 0) (setFld (rawReg wCtl (.cmb 0) (rqOff 0)) 0 0 0) = true
        ∧ (getTile wCtl 0).stalled = none ∧ rqEn wCtl 0 0 = true)
      ∧ writeTaken s (.cmb 0) (cqOff 7) (setFld (rawReg s (.cmb 0) (cqOff 7)) 0 0 1) = true
      ∧ (writeTaken s (.til 0) 0x108 (BitVec.ofNat 32 (1 + 2 * 256 + 126 * 65536)) = true ∧ rbit s (.til 0) 0x108 0 = false
        ∧ isolated s 0 = false)
      ∧ (writeTaken wCtl (.til 0) 0x104 (setFld (rawReg wCtl (.til 0) 0x104) 0 0 0) = true
        ∧ rbit wCtl (.til 0) 0x104 0 = true) := by decide +kernel

/-! ## Time, ports and the sequencer -/

theorem test_TimeRegistersAct_met :
    let s := State.reset
    let k := rs [(.tkp 0, 0x080, 2)]
    (∀ v, v ∈ [1, 0x3002, 0x173] → writeTaken s (.tkp 0) 0x080 (BitVec.ofNat 32 v) = true
        ∧ fld (BitVec.ofNat 32 v) 1 0 ≠ tkpSrc s)
      ∧ (writeTaken k (.tkp 0) 0x080 0 = true ∧ fld 0 1 0 ≠ tkpSrc k)
      ∧ (writeTaken k (.tkp 0) 0x080 0x3002 = true ∧ fld 0x3002 1 0 = 2 ∧ tkpSrc k = 2)
      ∧ writeTaken s (.tkp 0) 0x0A4 0x80000000 = true
      ∧ (writeTaken s (.tkp 0) 0x0A8 5 = true ∧ writeTaken (regPut s .host (.tkp 0) 0x0A8 5) (.tkp 0) 0x0AC 0x7FFFFFFF = true
        ∧ stepBad s (stepOf 5 0x7FFFFFFF) = false ∧ pageReached s (.tkp 0) = true)
      ∧ (writeTaken s (.tkp 0) 0x0F0 7 = true ∧ writeTaken (regPut s .host (.tkp 0) 0x0F0 7) (.tkp 0) 0x0F4 0xFFFF = true
        ∧ rbit s (.tkp 0) 0x018 0 = false)
      ∧ writeTaken s (.tkp 0) 0x080 (rawReg s (.tkp 0) 0x080 ||| 0x10000) = true
      ∧ (∀ r, r < 3 → writeTaken s (accPage 23) (accOff 23) (BitVec.ofNat 32 (r % 4)) = true)
      ∧ (writeTaken s (accPage 23) (accOff 23) 2 = true ∧ rbit s (accPage 23) 0x018 0 = false ∧ accState s 23 = 0
        ∧ linkUp (rs [(.llk 23, 0x084, 5)]) 23 = true
        ∧ writeTaken (rs [(.llk 23, 0x084, 5)]) (accPage 23) (accOff 23) 2 = true
        ∧ accState (rs [(.llk 23, 0x084, 5)]) 23 = 0) := by decide +kernel

/-- A trained link, an Ethernet ring in use, a paused Glazier. -/
def Sys2Proof.Tests.wPorts : State := rs [(.llk 0, 0x084, 5), (.eth 3, ringOff true 63 + 4, 0x10000), (.glz 7, 0x084, 3)]

theorem test_PortRegistersAct_met :
    let s := State.reset
    (writeTaken s (.llk 23) 0x080 (rawReg s (.llk 23) 0x080 ||| 1) = true ∧ llkState s 23 ∈ [0, 7, 8]
        ∧ fld (rawReg s (.llk 23) 0x080) 1 1 = 0)
      ∧ writeTaken wPorts (.llk 0) 0x080 (setFld (rawReg wPorts (.llk 0) 0x080) 1 0 2) = true
      ∧ writeTaken s (.eth 0) (ringOff false 0 + 0xC) 0 = true
      ∧ (writeTaken wPorts (.eth 3) (ringOff true 63 + 4) 0 = true ∧ ringEn wPorts 3 true 63 = true)
      ∧ writeTaken s (.glz 0) 0x0A0 0 = true
      ∧ (writeTaken wPorts (.glz 7) 0x0B4 1 = true ∧ glzState wPorts 7 = 3) := by decide +kernel

/-- A command word: opcode, engine, and the bits below. -/
def Sys2Proof.Tests.cw (opc eng low : Nat) : CmdWord := BitVec.ofNat 128 (opc * 2 ^ 120 + eng * 2 ^ 118 + low)

/-- Context lc of tile 0 runs a list of the given length from index base; the next command is the word w. -/
def Sys2Proof.Tests.wSeq (lc base len : Nat) (w : CmdWord) (x : Tile) (l : List (Page × Nat × Nat)) : State :=
  let s := rt 0 { x with ctx := listMod x.ctx lc (fun c => { c with base := base, len := len, pc := base + 1, sn := 4 }) }
    ([(.seq 0, 0x010, 1), (.mov 0, 0x010, 1), (.seq 0, lcStat lc, 1)] ++ l)
  writeMem s (cmKey 0 (16 * (base + 1))) (leBytes 16 w.toNat)

/-- The same with nothing else in the tile. -/
def Sys2Proof.Tests.wCmd (w : CmdWord) : State := wSeq 0 0 2046 w {} []

def Sys2Proof.Tests.cwLdlc : CmdWord := cw 0x04 0 (7 * 2 ^ 77 + 0xFFFFFFFF)
def Sys2Proof.Tests.cwSem (op : Nat) : CmdWord := cw 0x05 0 (63 * 2 ^ 74 + op * 2 ^ 72 + 0xFFFFFFFF)

theorem test_SeqCommandsIssue_met :
    (Issues (wSeq 3 0 1 (cw 0 0 0) {} []) 0 3 (cw 0 0 0) ∧ cwEng (cw 0 0 0) = 0 ∧ cwOpc (cw 0 0 0) = 0)
      ∧ (Issues (wCmd (cw 1 0 0)) 0 0 (cw 1 0 0) ∧ cwOpc (cw 1 0 0) = 1)
      ∧ (Issues (wCmd cwLdlc) 0 0 cwLdlc ∧ cwEng cwLdlc = 0 ∧ cwOpc cwLdlc = 4)
      ∧ (Issues (wCmd (cwSem 0)) 0 0 (cwSem 0) ∧ cwEng (cwSem 0) = 0 ∧ cwOpc (cwSem 0) = 5 ∧ cwBits (cwSem 0) 73 72 = 0)
      ∧ (Issues (wCmd (cwSem 1)) 0 0 (cwSem 1) ∧ cwBits (cwSem 1) 73 72 = 1)
      ∧ (Issues (wCmd (cwSem 2)) 0 0 (cwSem 2) ∧ cwBits (cwSem 2) 73 72 = 2) := by
  unfold Issues; decide +kernel

/-- JMP, and BR by a loop counter, by a semaphore, and by a semaphore that a queued CMP command still changes. -/
def Sys2Proof.Tests.cwJmp : CmdWord := cw 0x02 0 (2046 * 2 ^ 69)
def Sys2Proof.Tests.cwBr (cond sel : Nat) : CmdWord := cw 0x03 0 (2 ^ 69 + cond * 2 ^ 66 + sel * 2 ^ 60)
def Sys2Proof.Tests.cwCse : CmdWord := cw 0x20 1 (2 ^ 67 + 5 * 2 ^ 61)
def Sys2Proof.Tests.wCse (w : CmdWord) : State := wSeq 0 0 8 w { cmpQ := [⟨cwCse, 0, 1, false⟩] } []

theorem test_BranchesSteerIssue_met :
    (Issues (wCmd cwJmp) 0 0 cwJmp ∧ cwEng cwJmp = 0 ∧ cwOpc cwJmp = 2)
      ∧ (Issues (wCmd (cwBr 1 7)) 0 0 (cwBr 1 7) ∧ cwOpc (cwBr 1 7) = 3 ∧ cwBits (cwBr 1 7) 68 66 = 1
        ∧ condFinal (wCmd (cwBr 1 7)) 0 0 4 1 7 = true)
      ∧ (semAtEnd cwCse).isSome ∧ (∃ i, semAtEnd cwCse = some i ∧ Issues (wCse (cwBr 0 i)) 0 0 (cwBr 0 i)
        ∧ cwOpc (cwBr 0 i) = 3 ∧ (getCtx (wCse (cwBr 0 i)) 0 0).sn = 4
        ∧ condFinal (wCse (cwBr 0 i)) 0 0 4 (cwBits (cwBr 0 i) 68 66) (cwBits (cwBr 0 i) 65 60) = false) := by
  unfold Issues; exact ⟨by decide +kernel, by decide +kernel, by decide +kernel, _, rfl, by decide +kernel⟩

/-- A branch not taken (loop counter 0), predicted as given. -/
def Sys2Proof.Tests.wBr (pred a : Bool) : State :=
  wSeq 0 0 8 (cw 0 0 0) { ctx := [{ brs := [⟨1, 3, 2, a, 1, 0, 0, 0, pred, true, 0, 0, none⟩] }, {}, {}, {}] } []

theorem test_BranchesResolve_met :
    ∀ pred a, (0 < (getTile (wBr pred a) 0).ctx.length
      ∧ ((getCtx (wBr pred a) 0 0).brs.filter (fun b => b.res.isNone))[0]?
        = some ⟨1, 3, 2, a, 1, 0, 0, 0, pred, true, 0, 0, none⟩ ∧ seqRuns (wBr pred a) 0 = true
      ∧ condFinal (wBr pred a) 0 0 3 1 0 = true ∧ (getCtx (wBr pred a) 0 0).held = none
      ∧ condTaken (wBr pred a) 0 0 1 0 0 0 = false ∧ (getTile (wBr pred a) 0).movQ = [] ∧ (getTile (wBr pred a) 0).movCur = none
      ∧ (getTile (wBr pred a) 0).movOut = [] ∧ (getTile (wBr pred a) 0).stageQ = []
      ∧ rbit (wBr pred a) (.mov 0) 0x010 1 = false ∧ lcState (wBr pred a) 0 0 = 1) := by decide +kernel

/-- The same in a context that drains. -/
theorem test_BranchesResolve_drain :
    let s := putReg (wBr true false) (.seq 0) (lcStat 0) 3
    seqRuns s 0 = true ∧ lcState s 0 0 = 3 ∧ condFinal s 0 0 3 1 0 = true := by decide +kernel

/-- WAIT for semaphore 63 to be at least v, with DEC; and a context that waits so, with a deadline in the past or none. -/
def Sys2Proof.Tests.cwWait (v : Nat) : CmdWord := cw 0x07 0 (63 * 2 ^ 74 + 3 * 2 ^ 71 + 2 ^ 70 + v)
def Sys2Proof.Tests.wHold (w : WaitOn) (due : Option Nat) (l : List (Page × Nat × Nat)) : State :=
  let s := wSeq 0 0 8 (cw 0 0 0) { ctx := [{ wait := some ⟨w, due, 0, 0⟩ }, {}, {}, {}] } ([(.seq 0, lcStat 0, 2)] ++ l)
  { s with time := 4096000 }

theorem test_WaitsOnSemaphores_met :
    (∀ v, v = 0 ∨ v = 1 → Issues (wCmd (cwWait v)) 0 0 (cwWait v) ∧ cwEng (cwWait v) = 0 ∧ cwOpc (cwWait v) = 7)
      ∧ (relHolds (cwBits (cwWait 0) 73 71) 0 0 = true ∧ relHolds (cwBits (cwWait 1) 73 71) 0 1 = false)
      ∧ (∀ v : Word, v = 0 ∨ v = 1 → lcState (wHold (.sem 63 3 v true) none []) 0 0 = 2
        ∧ seqRuns (wHold (.sem 63 3 v true) none []) 0 = true
        ∧ (getCtx (wHold (.sem 63 3 v true) none []) 0 0).wait = some ⟨.sem 63 3 v true, none, 0, 0⟩
        ∧ relHolds 3 (getSem (wHold (.sem 63 3 v true) none []) 0 63) v = decide (v = 0))
      ∧ (let s := wHold (.sem 63 3 1 true) (some 4096000) [];
        0 < 4096000 ∧ 4096000 ≤ eTime s ∧ waitTry s 0 0 (.sem 63 3 1 true) = none ∧ (getCtx s 0 0).brs = []
          ∧ (getTile s 0).movQ = [] ∧ (getTile s 0).movCur = none ∧ (getTile s 0).movOut = [] ∧ (getTile s 0).stageQ = []
          ∧ rbit s (.mov 0) 0x010 1 = false) := by
  unfold Issues
  refine ⟨?_, by decide +kernel, ?_, by decide +kernel⟩ <;> rintro v (rfl | rfl) <;> decide +kernel

/-- WAITSEL over queues 0 and 15 with rotation, and FENCE of MOV. -/
def Sys2Proof.Tests.cwWsel : CmdWord := cw 0x08 0 (0x8001 * 2 ^ 64 + 2 ^ 63 + 63 * 2 ^ 57)
def Sys2Proof.Tests.cwFence : CmdWord := cw 0x09 0 (2 ^ 78)
def Sys2Proof.Tests.rq15 : List (Page × Nat × Nat) := [(.cmb 0, 0x114 + 0x20 * 15, 1)]

theorem test_SelectionsAndFences_met :
    (Issues (wCmd cwWsel) 0 0 cwWsel ∧ cwEng cwWsel = 0 ∧ cwOpc cwWsel = 8
        ∧ ∀ n, n < 16 → (cwBits cwWsel 79 64 / 2 ^ n % 2 == 1 && rqNonEmpty (wCmd cwWsel) 0 n) = false)
      ∧ (Issues (wSeq 0 0 8 cwWsel {} rq15) 0 0 cwWsel ∧ rfld (wSeq 0 0 8 cwWsel {} rq15) (.seq 0) 0x10C 3 0 = 15
        ∧ cwBit cwWsel 63 = true ∧ rqNonEmpty (wSeq 0 0 8 cwWsel {} rq15) 0 ((0 + 15) % 16) = true
        ∧ ∀ j, j < 15 → rqNonEmpty (wSeq 0 0 8 cwWsel {} rq15) 0 ((0 + j) % 16) = false)
      ∧ (Issues (wCmd cwFence) 0 0 cwFence ∧ cwOpc cwFence = 9 ∧ inMov (getTile (wCmd cwFence) 0) 0 = false)
      ∧ (let s := wHold (.sel 0x8001 true 63) none rq15;
        lcState s 0 0 = 2 ∧ seqRuns s 0 = true ∧ (getCtx s 0 0).wait = some ⟨.sel 0x8001 true 63, none, 0, 0⟩
          ∧ rqNonEmpty s 0 15 = true ∧ ∀ j, j < 15 → rqNonEmpty s 0 j = false)
      ∧ (let s := wHold (.fence true true true) none [];
        lcState s 0 0 = 2 ∧ seqRuns s 0 = true ∧ (getCtx s 0 0).wait = some ⟨.fence true true true, none, 0, 0⟩
          ∧ inCmp (getTile s 0) 0 = false ∧ inMov (getTile s 0) 0 = false ∧ inCmb (getTile s 0) 0 = false) := by
  unfold Issues; decide +kernel

/-- A command for each engine, and SIG. -/
def Sys2Proof.Tests.cwSig : CmdWord := cw 0x06 0 (63 * 2 ^ 74 + 7)
def Sys2Proof.Tests.movBusy : MovReq := { tag := 0, cmd := 0, lc := 0, kind := .posted, pkt := {}, iq := 0 }

theorem test_EngineCommandsQueue_met :
    (Issues (wCmd cwCse) 0 0 cwCse ∧ cwEng cwCse = 1 ∧ 0 < (getTile (wCmd cwCse) 0).ctx.length)
      ∧ (Issues (wCmd (cw 0x02 3 0)) 0 0 (cw 0x02 3 0) ∧ cwEng (cw 0x02 3 0) = 3)
      ∧ (∀ w, w = cw 0x02 2 0 ∨ w = cwSig → Issues (wSeq 0 0 8 w { movReqs := [movBusy] } []) 0 0 w
        ∧ (cwEng w = 2 ∨ (cwEng w = 0 ∧ cwOpc w = 6)) ∧ movMayStart (wSeq 0 0 8 w { movReqs := [movBusy] } []) 0 = false) := by
  unfold Issues
  refine ⟨by decide +kernel, by decide +kernel, ?_⟩
  rintro w (rfl | rfl) <;> decide +kernel

/-- A HDR word of a list of length 1, and states in which LOAD of context 3 has been asked. -/
def Sys2Proof.Tests.cwHdr (tm : Nat) : CmdWord := cw 0xF0 0 (2 ^ 68 + tm * 2 ^ 50)
def Sys2Proof.Tests.wLoad (tm st : Nat) (l : List (Page × Nat × Nat)) : State :=
  writeMem (rt 0 { loads := [3] } ([(.seq 0, 0x010, 1), (.seq 0, 0x1C0, 2046), (.seq 0, 0x1C4, 1), (.seq 0, lcStat 3, st)] ++ l))
    (cmKey 0 (16 * 2046)) (leBytes 16 (cwHdr tm).toNat)

theorem test_ListsStartAndEnd_met :
    (let s := wCmd (cwHdr 0);
      issuer s 0 = some 0 ∧ (getCtx s 0 0).pc ≤ (getCtx s 0 0).base + (getCtx s 0 0).len ∧ cwEng (cmWord s 0 1) = 0
        ∧ cwOpc (cmWord s 0 (getCtx s 0 0).pc) = 0xF0 ∧ anyUE s (cmKey 0 16) 16 = false ∧ countCE s (cmKey 0 16) 16 = 0
        ∧ (getCtx s 0 0).brs = [] ∧ (getTile s 0).movQ = [] ∧ (getTile s 0).movCur = none ∧ (getTile s 0).movOut = []
        ∧ (getTile s 0).stageQ = [] ∧ rbit s (.mov 0) 0x010 1 = false)
      ∧ (let s := wSeq 3 0 8 (cw 0 0 0) {} [(.seq 0, lcStat 3, 3)];
        lcState s 0 3 = 3 ∧ seqRuns s 0 = true ∧ inCmp (getTile s 0) 3 = false ∧ inMov (getTile s 0) 3 = false
          ∧ inCmb (getTile s 0) 3 = false ∧ (getCtx s 0 3).brs = [] ∧ rbit s (.seq 0) 0x010 1 = false)
      ∧ (∀ s, s ∈ [wLoad 196608 0 [], wLoad 196608 0 [(.seq 0, 0x088, 0)], wLoad 0 1 []] →
        (getTile s 0).loads.head? = some 3 ∧ stopped s (.seq 0) = false ∧ isolated s 0 = false
          ∧ rfld s (.seq 0) 0x1C0 10 0 = 2046 ∧ anyUE s (cmKey 0 (16 * 2046)) 16 = false
          ∧ countCE s (cmKey 0 (16 * 2046)) 16 = 0 ∧ hdrBad (cmWord s 0 2046) = false)
      ∧ (lcState (wLoad 196608 0 []) 0 3 = 0
        ∧ shortMask (shortfalls (wLoad 196608 0 []) 0 2046 (cwHdr 196608)) = 0)
      ∧ (lcState (wLoad 196608 0 [(.seq 0, 0x088, 0)]) 0 3 = 0
        ∧ shortMask (shortfalls (wLoad 196608 0 [(.seq 0, 0x088, 0)]) 0 2046 (cwHdr 196608)) ≠ 0)
      ∧ lcState (wLoad 0 1 []) 0 3 ≠ 0 := by decide +kernel

/-! ## CMP and MOV -/

/-- The registers of a descriptor (Table 6.1) of context lc at tile 0. -/
def Sys2Proof.Tests.tdRegs (lc k : Nat) (d : Td) : List (Page × Nat × Nat) :=
  [(.cmp 0, tdOff lc k, d.base + d.ty * 2 ^ 18 + 2 ^ 31), (.cmp 0, tdOff lc k + 4, d.rows + d.cols * 2 ^ 16),
    (.cmp 0, tdOff lc k + 8, d.pitch)]

/-- CMP has the word w of context 0 to start, with descriptors 0, 1 and 2, over bytes that are not zero. -/
def Sys2Proof.Tests.wCmp (w : CmdWord) (d a b : Td) : State :=
  writeMem (rt 0 { cmpQ := [⟨w, 0, 0, false⟩] } ([(.cmp 0, 0x010, 1)] ++ tdRegs 0 0 d ++ tdRegs 0 1 a ++ tdRegs 0 2 b))
    (tmKey 0 0) (List.replicate 128 0x3C)

/-- An operation on descriptors 0, 1 and 2, and a matrix of the FP32 numbers at a base of TM. -/
def Sys2Proof.Tests.cwOp (op low : Nat) : CmdWord := cw op 1 (2 ^ 74 + 2 * 2 ^ 71 + low)
def Sys2Proof.Tests.f32At (base rows cols : Nat) : Td := ⟨base, 0, rows, cols, 32⟩

theorem test_CmpWritesResult_met :
    (∃ q, CmpRuns (wCmp (cwOp 0x11 0) (f32At 0 1 2) (f32At 32 1 1) (f32At 64 1 2)) 0 0x11 q (f32At 0 1 2) (f32At 32 1 1)
        (f32At 64 1 2) ∧ (.mma 0 [], 0x11) ∈ cmpRows 0)
      ∧ (∃ q, CmpRuns (wCmp (cwOp 0x40 0) (f32At 0 2 1) (f32At 64 1 2) (f32At 0 1 1)) 0 0x40 q (f32At 0 2 1) (f32At 64 1 2)
        (f32At 0 2 1))
      ∧ (∃ q, CmpRuns (wCmp (cwOp 0x41 0) (f32At 0 1 8) (f32At 64 1 8) (f32At 0 1 1)) 0 0x41 q (f32At 0 1 8) (f32At 64 1 8)
        (f32At 0 1 8))
      ∧ (∃ q, CmpRuns (wCmp (cwOp 0x43 5) (f32At 196576 1 8) (f32At 0 1 1) (f32At 0 1 1)) 0 0x43 q (f32At 196576 1 8)
        (f32At 196576 1 8) (f32At 196576 1 8)) := by
  unfold CmpRuns
  refine ⟨⟨⟨cwOp 0x11 0, 0, 0, false⟩, ?_⟩, ⟨⟨cwOp 0x40 0, 0, 0, false⟩, ?_⟩, ⟨⟨cwOp 0x41 0, 0, 0, false⟩, ?_⟩,
    ⟨cwOp 0x43 5, 0, 0, false⟩, ?_⟩ <;> decide +kernel

theorem test_CmpWritesResult_mem : Memory.wf (wCmp (cwOp 0x11 0) (f32At 0 1 2) (f32At 32 1 1) (f32At 64 1 2)).mem = true := by
  decide +kernel

/-- A command of CMP that runs, with the error code e, attar bit dig and a semaphore to add to. -/
def Sys2Proof.Tests.wRunning (e : Nat) (dig : Bool) : State :=
  rt 0 { cmpRun := some { cmd := ⟨cwOp 0x20 (2 ^ 67 + 63 * 2 ^ 61 + (if dig then 2 ^ 114 else 0)), 3, 0, false⟩, err := e,
                          steps := 8, inv := true, drows := 1, dcols := 1, dpitch := 32 } }
    [(.dbg 0, 0x010, 1), (.cmp 0, 0x010, 1)]

/-- TDESC of descriptor 7 of context 3 at the end of TM, or with PITCH 0. -/
def Sys2Proof.Tests.cwTdesc (pitch : Nat) : CmdWord :=
  cw 0x01 1 (7 * 2 ^ 77 + 196576 * 2 ^ 56 + 2 ^ 44 + 8 * 2 ^ 32 + pitch)
def Sys2Proof.Tests.wTdesc (pitch : Nat) : State :=
  rt 0 { cmpQ := [⟨cwTdesc pitch, 3, 0, false⟩] } [(.cmp 0, 0x010, 1)]

theorem test_CmpCommandsEnd_met :
    (cmpHead (rt 0 { cmpQ := [⟨cwOp 0x20 0, 0, 0, false⟩] } [(.cmp 0, 0x010, 1)]) 0 = some ⟨cwOp 0x20 0, 0, 0, false⟩
        ∧ cwEng (cwOp 0x20 0) = 1 ∧ cwOpc (cwOp 0x20 0) = 0x20 ∧ (.add 0 [], 0x20) ∈ cmpRows 0
        ∧ getTd (rt 0 { cmpQ := [⟨cwOp 0x20 0, 0, 0, false⟩] } [(.cmp 0, 0x010, 1)]) 0 0 0 = none)
      ∧ (let s := wCmp (cwOp 0x20 0) (f32At 0 1 2) (f32At 32 1 1) (f32At 64 1 2);
        cmpHead s 0 = some ⟨cwOp 0x20 0, 0, 0, false⟩ ∧ getTd s 0 0 (cmpDtd (cwOp 0x20 0)) = some (f32At 0 1 2)
          ∧ getTd s 0 0 (cmpAtd (cwOp 0x20 0)) = some (f32At 32 1 1) ∧ getTd s 0 0 (cmpBtd (cwOp 0x20 0)) = some (f32At 64 1 2)
          ∧ cmpCheck 0x20 (f32At 0 1 2) (some (f32At 32 1 1)) (some (f32At 64 1 2)) = 0x11)
      ∧ (∀ p, p = 32 ∨ p = 0 → cmpHead (wTdesc p) 0 = some ⟨cwTdesc p, 3, 0, false⟩ ∧ cwEng (cwTdesc p) = 1
        ∧ cwOpc (cwTdesc p) = 1 ∧ tdescOk (tdescOf (cwTdesc p)) = decide (p = 32))
      ∧ (∀ e dig, e = 0 ∨ e = 0x15 → stopped (wRunning e dig) (.cmp 0) = false ∧ isolated (wRunning e dig) 0 = false
        ∧ enabled (wRunning e dig) (.dbg 0) = true
        ∧ ∃ r, (getTile (wRunning e dig) 0).cmpRun = some r ∧ r.err = e ∧ r.cmd.lc < 4 ∧ cwDig r.cmd.word = dig) := by
  refine ⟨by decide +kernel, by decide +kernel, ?_, ?_⟩
  · rintro p (rfl | rfl) <;> decide +kernel
  · rintro e dig (rfl | rfl) <;> cases dig <;> exact ⟨by decide +kernel, by decide +kernel, by decide +kernel, _, rfl, by decide +kernel⟩

/-- MOV has the word w of context 3 to start; descriptors 0 and 7 as given. -/
def Sys2Proof.Tests.madRegs (k : Nat) (m : Mad) : List (Page × Nat × Nat) :=
  let o := madOff 3 k
  [(.mov 0, o, m.space + (if m.ainc then 4 else 0)), (.mov 0, o + 4, m.addr % 2 ^ 32), (.mov 0, o + 8, m.addr / 2 ^ 32),
    (.mov 0, o + 0xC, m.node.toNat), (.mov 0, o + 0x10, m.rect.toNat)]
def Sys2Proof.Tests.wMov (w : CmdWord) (src dst : Mad) : State :=
  writeMem (rt 0 { movQ := [⟨w, 3, 0, false⟩] } ([(.mov 0, 0x010, 1)] ++ madRegs 0 src ++ madRegs 7 dst)) (tmKey 0 0)
    (List.replicate 128 0x3C)

def Sys2Proof.Tests.cwMaddr : CmdWord := cw 0x01 2 (7 * 2 ^ 77 + 3 * 2 ^ 75 + 2 ^ 74 + 0xFFFFFFFFFFFF)
def Sys2Proof.Tests.cwMnode : CmdWord := cw 0x02 2 (7 * 2 ^ 77 + 0xFFFFFFFFFFFFFFFF)

/-- A command of MOV of which every request is answered; and one refused request whose resend is due. -/
def Sys2Proof.Tests.wMovOver : State :=
  rt 0 { movOut := [{ id := 4, cmd := ⟨cw 0x10 2 (2 ^ 68 + 63 * 2 ^ 62), 3, 0, false⟩, kind := .write, sent := true }] } []
def Sys2Proof.Tests.wMovDue : State :=
  { rt 0 { movReqs := [{ tag := 9, cmd := 4, lc := 3, kind := .wra, pkt := {}, iq := 3, due := some 1024 }] } [] with
    time := 1024 }

theorem test_MovDescriptorsAndEnds_met :
    (∀ w, w = cwMaddr ∨ w = cwMnode → (getTile (wMov w ⟨0, false, 0, 0, 0⟩ ⟨0, false, 0, 0, 0⟩) 0).movQ = [⟨w, 3, 0, false⟩]
        ∧ movHead (wMov w ⟨0, false, 0, 0, 0⟩ ⟨0, false, 0, 0, 0⟩) 0 (cwOpc w) = some ⟨w, 3, 0, false⟩
        ∧ cwOpc w = if w = cwMaddr then 0x01 else 0x02)
      ∧ (movRuns wMovOver 0 = true ∧ ∃ m, (getTile wMovOver 0).movOut.find? (cmdOver (getTile wMovOver 0)) = some m
        ∧ m.cmd.lc < 4)
      ∧ (movRuns wMovDue 0 = true ∧ ∃ r, (getTile wMovDue 0).movReqs.find? (fun r => r.tag == 9 && r.due.isSome) = some r
        ∧ r.due = some 1024 ∧ 0 < 1024 ∧ 1024 ≤ eTime wMovDue ∧ iqRoom wMovDue 0 r.iq = true
        ∧ r.iq < (getTile wMovDue 0).iq.length) := by
  refine ⟨?_, ⟨by decide +kernel, _, rfl, by decide +kernel⟩, by decide +kernel, _, rfl, by decide +kernel⟩
  rintro w (rfl | rfl) <;> decide +kernel

/-- COPY of n bytes, MSG and CONTRIB from descriptor 0 to descriptor 7. -/
def Sys2Proof.Tests.cwCopy (n : Nat) : CmdWord := cw 0x10 2 (7 * 2 ^ 74 + 3 * 2 ^ 72 + 2 ^ 71 + n)
def Sys2Proof.Tests.cwMsg (n : Nat) : CmdWord := cw 0x11 2 (7 * 2 ^ 74 + n)
def Sys2Proof.Tests.cwContrib (n : Nat) : CmdWord := cw 0x12 2 (7 * 2 ^ 74 + 3 * 2 ^ 72 + n)
def Sys2Proof.Tests.tmMad (a : Nat) : Mad := ⟨0, true, a, 0, 0⟩

theorem test_LocalCopyMovesBytes_met :
    let s := wMov (cwCopy 100) (tmMad 0) (tmMad 196508)
    let w := cwCopy 100
    (getTile s 0).movQ = [⟨w, 3, 0, false⟩] ∧ movHead s 0 0x10 = some ⟨w, 3, 0, false⟩
      ∧ isTent (getCtx s 0 3) 0 false = false ∧ Memory.wf s.mem = true
      ∧ movPlan s 0 3 w = .go .write (.loc 0 0x30000) (.loc 196508 0x30000) ∧ Side.space (.loc 196508 0x30000) = 0
      ∧ movLen w ≠ 0 ∧ anyUE s (tmKey 0 0) 100 = false ∧ countCE s (tmKey 0 0) 100 = 0 := by decide +kernel

/-- Descriptors of another tile's TM, of its registers, of HBM, and of queues of tile 1. -/
def Sys2Proof.Tests.toNode (space : Nat) (node : Word) (a : Nat) : Mad := ⟨space, false, a, node, 0⟩

theorem test_MovCommandsStart_met :
    (∀ e, e ∈ [(cwCopy 2048, 0x10, tmMad 0, toNode 1 0x100 0, MovKind.wra), (cwCopy 4, 0x10, toNode 1 0x101 0x110, tmMad 0, .regRead),
        (cwCopy 100, 0x10, toNode 2 0 32, tmMad 5, .read), (cwMsg 2048, 0x11, tmMad 0, toNode 1 0x110 0, .msg),
        (cwContrib 4, 0x12, tmMad 0, toNode 1 0x108 0, .contrib)] →
        let s := wMov e.1 e.2.2.1 e.2.2.2.1
        (getTile s 0).movQ = [⟨e.1, 3, 0, false⟩] ∧ movHead s 0 e.2.1 = some ⟨e.1, 3, 0, false⟩
          ∧ isTent (getCtx s 0 3) 0 false = false ∧ movTotal e.1 ≠ 0 ∧ (getTile s 0).iq.length = 4
          ∧ iqRoom s 0 (movIq e.1) = true ∧ tagSpare (getTile s 0) 3 1 = true ∧ (match movPlan s 0 3 e.1 with
            | .go k _ _ => decide (k = e.2.2.2.2)
            | .refuse _ => false) = true)
      ∧ (let s := wMov (cwCopy 1) (tmMad 0x60000) (tmMad 0);
        movHead s 0 0x10 = some ⟨cwCopy 1, 3, 0, false⟩ ∧ movPlan s 0 3 (cwCopy 1) = .refuse nkHOLE) := by decide +kernel

/-! ## Routers, memories and queues -/

/-- A packet with a payload and the CRC of its header. -/
def Sys2Proof.Tests.pkt (op : BitVec 8) (dst src : Word) (addr aux : Nat) (bs : List Byte) : Packet :=
  let q : Packet := { opc := op, dst := dst, src := src, addr := BitVec.ofNat 48 addr, aux := BitVec.ofNat 32 aux, tag := 9 }
  let p := if bs = [] then q else withPayload q bs
  { p with hcrc := hcrcOf p }

/-- Tile 0 holds a whole packet in an input VC of its router. -/
def Sys2Proof.Tests.wRin (port vc : Nat) (p : Packet) (x : Tile) : State :=
  rt 0 { x with rin := [(vcKey port vc, { pkt := p })] } []

/-- Requests for TM of tile 0 and of tile 1. -/
def Sys2Proof.Tests.pIn : Packet := pkt opWRA 0 0x500 0 0 [1, 2, 3]
def Sys2Proof.Tests.pOut : Packet := pkt opWRA 0x100 0x500 0 0 [1, 2, 3]

/-- One hop, out of port n below 4, on which nothing is probed and which is free. -/
def Sys2Proof.Tests.oneHop (s : State) (port vc : Nat) (p : Packet) : Bool :=
  match hopsOf s 0 port vc p with
  | [.port n v q] => decide (n < 4) && outFree s 0 n v && !rbit s (.rtr 0) 0x060 0 && !prbMatch s 0 0 n q && !prbMatch s 0 1 n q
    && !forkAhead s 0 2 n q && turn s 0 (vcKey port vc) n v
  | _ => false

/-- A header has gone from port L to port 0, and a data flit follows to tile 1. -/
def Sys2Proof.Tests.wBody : State :=
  setTile (rt 0 { rin := [(vcKey 4 0, { pkt := pOut, hd := false, out := some (.link 0 0), seen := 1 })],
                  rout := [(vcKey 0 0, ⟨7, true, vcKey 4 0⟩)] } []) 1
    { rin := [(vcKey 1 0, { pkt := { pOut with data := [] }, tl := false })] }

theorem test_FabricMovesPackets_body :
    rtrRuns wBody 0 = true ∧ (getOut wBody 0 0 0).credits ≠ 0 ∧ rbit wBody (.rtr 0) 0x060 0 = false
      ∧ turn wBody 0 (vcKey 4 0) 0 0 = true ∧ neighbour wBody 0 0 = (1, 1)
      ∧ (getRin wBody 1 1 0).isSome = true ∧ (getRin wBody 0 4 0).isSome = true ∧ pOut.len.toNat ≤ 64
      ∧ pOut.data.length = 1 := by decide +kernel

theorem test_FabricMovesPackets_met :
    (rtrRuns (wRin 1 0 pIn {}) 0 = true ∧ getRin (wRin 1 0 pIn {}) 0 1 0 = some { pkt := pIn } ∧ pIn.hcrc = hcrcOf pIn
        ∧ pIn.len.toNat ≤ 64 ∧ hopsOf (wRin 1 0 pIn {}) 0 1 0 pIn = [toL pIn] ∧ isRsp pIn = false
        ∧ (getOut (wRin 1 0 pIn {}) 0 4 (vcBase pIn)).held = false
        ∧ turn (wRin 1 0 pIn {}) 0 (vcKey 1 0) 4 (vcBase pIn) = true
        ∧ rbit (wRin 1 0 pIn {}) (.rtr 0) 0x060 0 = false ∧ prbMatch (wRin 1 0 pIn {}) 0 0 4 pIn = false
        ∧ prbMatch (wRin 1 0 pIn {}) 0 1 4 pIn = false ∧ (getTile (wRin 1 0 pIn {}) 0).lreq = []
        ∧ partOk (wRin 1 0 pIn {}) 0 pIn = true ∧ isolated (wRin 1 0 pIn {}) 0 = false ∧ rowAt pIn = true)
      ∧ ({ pIn with hcrc := 0 }.hcrc ≠ hcrcOf { pIn with hcrc := 0 } ∧ rtrRuns (wRin 0 3 { pIn with hcrc := 0 } {}) 0 = true)
      ∧ (oneHop (wRin 4 0 pOut {}) 4 0 pOut = true ∧ pOut.hcrc = hcrcOf pOut ∧ pOut.len.toNat ≤ 64)
      ∧ ((getTile (rt 0 { out := [pOut] } []) 0).out = [pOut] ∧ portFree (rt 0 { out := [pOut] } []) 0 (vcBase pOut) = true
        ∧ gReached (rt 0 { out := [pOut] } []) (.mov 0) = false
        ∧ nodeKind pOut.dst = 0 ∧ nodePkg pOut.dst = ownPkg (rt 0 { out := [pOut] } [])
        ∧ nodeX pOut.dst < gridX (rt 0 { out := [pOut] } []) ∧ nodeY pOut.dst < gridY (rt 0 { out := [pOut] } [])
        ∧ pOut.mc = false)
      ∧ (isRsp (pkt opRD 0xC0 0x500 0 4 []) = false ∧ nodeKind (pkt opRD 0xC0 0x500 0 4 []).dst = 3
        ∧ portFree (rt 0 { out := [pkt opRD 0xC0 0x500 0 4 []] } []) 0 0 = true)
      ∧ (let s : State := { State.reset with fuses := { asm := .h4l1 }, edges := [(edgeKey 127 1, { req := [pOut] })],
                                             dies := [(1, { req := [pOut, { pOut with src := 2 ^ 22 + 0x500 }] })] };
        (getEdge s 127 1).req = pOut :: [] ∧ edgePop s 127 1 = false ∧ pOut.opc ≠ opTRACE ∧ (getDie s 1).req = pOut :: [{ pOut with src := 2 ^ 22 + 0x500 }]
          ∧ dieFitted s 1 = false ∧ nodePkg pOut.src = ownPkg s ∧ nodePkg (2 ^ 22 + 0x500) ≠ ownPkg s) := by decide +kernel

/-- A multicast from tile 0 to the tiles of columns 0 and 1 of row 0. -/
def Sys2Proof.Tests.pMc : Packet :=
  let p := { pkt opWRA 0 0x500 0 (1 * 2 ^ 8) [1] with mc := true }
  { p with hcrc := hcrcOf p }
def Sys2Proof.Tests.aFork : ForkEntry :=
  ⟨pMc, [⟨0, 0, false, pMc, 0, false⟩, ⟨4, 0, true, pMc, 1, true⟩], vcKey 4 0, true⟩
def Sys2Proof.Tests.wFork : State := rt 0 { fork := [aFork], kaSent := [(3, 0)] } []

theorem test_ForksAndCredits_met :
    (rtrRuns (wRin 4 0 pMc {}) 0 = true ∧ getRin (wRin 4 0 pMc {}) 0 4 0 = some { pkt := pMc } ∧ pMc.len.toNat ≤ 64 ∧ pMc.hcrc = hcrcOf pMc
        ∧ 1 < (hopsOf (wRin 4 0 pMc {}) 0 4 0 pMc).length ∧ forkRoom (getTile (wRin 4 0 pMc {}) 0) pMc = true)
      ∧ (rtrRuns wFork 0 = true ∧ (getTile wFork 0).fork[0]? = some aFork
        ∧ forkAhead wFork 0 0 0 pMc = false ∧ turn wFork 0 (forkIn 0 0) 0 0 = true
        ∧ outFree wFork 0 0 0 = true ∧ rbit wFork (.rtr 0) 0x060 0 = false ∧ prbMatch wFork 0 0 0 pMc = false
        ∧ prbMatch wFork 0 1 0 pMc = false)
      ∧ (let s := rt 0 { rout := [(vcKey 3 1, ⟨7, false, 0⟩)] } [];
        (getOut s 0 3 1).credits + ((getRin s (neighbour s 0 3).1 (neighbour s 0 3).2 1).map (·.flits)).getD 0 < 8)
      ∧ (let s := { wFork with time := usTicks 100 };
        0 ∉ s.mgt.failedRtrs ∧ (∀ e ∈ (getTile s 0).kaSent, e.1 = 3 → e.2 / (usTicks 1 : Int) ≠ fullT s / (usTicks 1 : Int))
          ∧ kaDue s 0 3 ≤ eTime s ∧ s.tkp.steps ≤ fullT s)
      ∧ (stopped State.reset (.rtr 0) = false ∧ stopped State.reset (.rtr (neighbour State.reset 0 3).1) = false) := by
  decide +kernel

/-- Tile 0 has a request at its endpoints. -/
def Sys2Proof.Tests.wReq (q : Packet) (x : Tile) (l : List (Page × Nat × Nat)) : State := rt 0 { x with lreq := [q] } l

theorem test_TileMemoryServes_met :
    (TileServes (wReq (pkt opRD 0 0x500 196604 4 []) {} []) 0 opRD (pkt opRD 0 0x500 196604 4 [])
        ∧ cleanMem (wReq (pkt opRD 0 0x500 196604 4 []) {} []) (tmKey 0 196604) 4 = true)
      ∧ TileServes (wReq pIn {} []) 0 opWRA pIn ∧ epKind pIn.dst = .tm
      ∧ TileServes (wReq (pkt opWR 0 0x500 196607 0 [1]) {} []) 0 opWR (pkt opWR 0 0x500 196607 0 [1])
      ∧ TileServes (wReq (pkt opCRES 0 0x500 32 0 [1, 2]) {} []) 0 opCRES (pkt opCRES 0 0x500 32 0 [1, 2]) := by
  and_intros <;> decide +kernel

/-- Memory edge 0 of column 0, and an I/O die, have a request. -/
def Sys2Proof.Tests.wEdge (q : Packet) : State := { State.reset with edges := [(edgeKey 0 0, { req := [q] })], dies := [(1, { req := [q] })] }

def Sys2Proof.Tests.pTrace : Packet := pkt opTRACE 0x40 0x500 64 0 (List.replicate 128 1)

theorem test_EdgeRequestsServed_met :
    (EdgeServes (wEdge (pkt opRD 0x40 0x500 0 2048 [])) 0 0 opRD (pkt opRD 0x40 0x500 0 2048 [])
        ∧ cleanMem (wEdge (pkt opRD 0x40 0x500 0 2048 [])) 0 2048 = true)
      ∧ (EdgeServes (wEdge (pkt opWRA 0x40 0x500 2047 0 [1])) 0 0 opWRA (pkt opWRA 0x40 0x500 2047 0 [1])
        ∧ epKind (pkt opWRA 0x40 0x500 2047 0 [1]).dst = .mem)
      ∧ EdgeServes (wEdge (pkt opWR 0x40 0x500 5 0 [1])) 0 0 opWR (pkt opWR 0x40 0x500 5 0 [1])
      ∧ EdgeServes (wEdge pTrace) 0 0 opTRACE pTrace
      ∧ (nodeKind (pkt opRD 0x180 0x500 0 4 []).dst = 2 ∧ dieFitted State.reset 1 = true
        ∧ reqHead (wEdge (pkt opRD 0x180 0x500 0 4 [])) (.io 1) opRD = some (pkt opRD 0x180 0x500 0 4 []))
      ∧ (nodeKind (pkt opCONTRIB 0x40 0x500 0 0 [1, 2, 3, 4]).dst = 1
        ∧ reqHead (wEdge (pkt opCONTRIB 0x40 0x500 0 0 [1, 2, 3, 4])) (.mem 0 0) opCONTRIB
          = some (pkt opCONTRIB 0x40 0x500 0 0 [1, 2, 3, 4])) := by
  and_intros <;> decide +kernel

/-- Receive queue 15 of tile 0: base 64, 128 bytes, enabled or not, with tail 96. -/
def Sys2Proof.Tests.rqRegs (en ne : Nat) : List (Page × Nat × Nat) :=
  [(.cmb 0, rqOff 15, en), (.cmb 0, rqOff 15 + 4, 64), (.cmb 0, rqOff 15 + 8, 128), (.cmb 0, rqOff 15 + 0xC, 96),
    (.cmb 0, rqOff 15 + 0x10, 96), (.cmb 0, rqOff 15 + 0x14, ne)]
def Sys2Proof.Tests.pMsg (n : Nat) : Packet := pkt opMSG 0x1F 0x500 0 n (List.replicate n 7)

theorem test_MessagesEnterQueues_met :
    (TileServes (wReq (pMsg 96) {} (rqRegs 1 0)) 0 opMSG (pMsg 96) ∧ rqEn (wReq (pMsg 96) {} (rqRegs 1 0)) 0 15 = true
        ∧ epKind (pMsg 96).dst = .rq ∧ nodeEp (pMsg 96).dst - 0x10 = 15 ∧ 15 ∉ (getTile (wReq (pMsg 96) {} []) 0).rqRetired
        ∧ rqTail (wReq (pMsg 96) {} (rqRegs 1 0)) 0 15 < rqSize (wReq (pMsg 96) {} (rqRegs 1 0)) 0 15
        ∧ rqFits (wReq (pMsg 96) {} (rqRegs 1 0)) 0 15 (entryBytes (wReq (pMsg 96) {} (rqRegs 1 0)) 0 (pMsg 96)).length = true)
      ∧ (TileServes (wReq (pMsg 1) {} (rqRegs 0 0)) 0 opMSG (pMsg 1) ∧ rqEn (wReq (pMsg 1) {} (rqRegs 0 0)) 0 15 = false)
      ∧ (TileServes (wReq (pMsg 97) {} (rqRegs 1 0)) 0 opMSG (pMsg 97)
        ∧ rqFits (wReq (pMsg 97) {} (rqRegs 1 0)) 0 15 (entryBytes (wReq (pMsg 97) {} (rqRegs 1 0)) 0 (pMsg 97)).length = false
        ∧ rbit (wReq (pMsg 97) {} (rqRegs 1 0)) (.cmb 0) (rqOff 15) 1 = false)
      ∧ TileServes (wReq { pMsg 1 with opc := opCRES } {} (rqRegs 1 0)) 0 opCRES { pMsg 1 with opc := opCRES } := by
  and_intros <;> decide +kernel

/-- Combining queue 7 of tile 0: INT32 elements of 16 places from AM 0x10000 - 192, K 2, in a state. -/
def Sys2Proof.Tests.cqRegs (st k : Nat) : List (Page × Nat × Nat) :=
  [(.cmb 0, cqOff 7, 1 + 6 * 2 + 6 * 16), (.cmb 0, cqOff 7 + 4, 130880 + 16 * 2 ^ 17), (.cmb 0, cqOff 7 + 0x14, k),
    (.cmb 0, cqOff 7 + 0x18, st)]
def Sys2Proof.Tests.cqOne (c : Cq) : List Cq := [{}, {}, {}, {}, {}, {}, {}, c]

/-- A contribution of 16 INT8 values, and a SIGNAL of semaphore 63. -/
def Sys2Proof.Tests.pCon : Packet := pkt opCONTRIB 0x0F 0x500 0 (5 * 2 ^ 12 + 16 * 2 ^ 16) (List.replicate 16 0xFF)
def Sys2Proof.Tests.pSig : Packet := pkt opSIGNAL 0x02 0x500 63 0xFFFFFFFF []
def Sys2Proof.Tests.wCon : State := wReq pCon { cqs := cqOne { counts := [0] } } (cqRegs 3 2)

theorem test_ContributionsAccumulate_met :
    (TileServes wCon 0 opCONTRIB pCon ∧ epKind pCon.dst = .cq ∧ (getTile wCon 0).cqs.length = 8 ∧ nodeEp pCon.dst - 8 = 7
        ∧ cqEn wCon 0 7 = true ∧ cqState wCon 0 7 = 3 ∧ contribBad wCon 0 7 pCon = false ∧ auxX pCon = false
        ∧ (getTile wCon 0).resvs = [] ∧ contribGroups pCon = [0] ∧ (getCq wCon 0 7).counts = [0] ∧ cqK wCon 0 7 = 2
        ∧ cleanMem wCon (cqKey wCon 0 7 0) (16 * 12) = true)
      ∧ (∀ j, j < 16 → (AccVal.addRaw (accClass (cqTy wCon 0 7))
        (accOf (cqTy wCon 0 7) (readNat wCon (cqKey wCon 0 7 (auxOff pCon + j)) 12)) (auxTy pCon)
        (leNat (((payload pCon).drop j).take 1))).2 = false)
      ∧ TileServes (wReq pSig {} []) 0 opSIGNAL pSig := by
  and_intros <;> decide +kernel

/-- Reservation packets, and tile 0 with 31 or 32 reservations of queue 15. -/
def Sys2Proof.Tests.pRes (op : BitVec 8) (aux : Nat) : Packet := pkt op 0x1F 0x500 0 aux []
def Sys2Proof.Tests.aResv (c : Bool) : Resv :=
  { src := 0x500, ep := 0x1F, tag := 9, amount := 1, confirmed := c, due := 1024 }
def Sys2Proof.Tests.wResv (q : Packet) (n : Nat) (c : Bool) : State :=
  { wReq q { resvs := List.replicate n (aResv c) } (rqRegs 1 0) with time := 1024 }

theorem test_ReservationsHeld_met :
    (TileServes (wResv (pRes opRESV 64) 31 false) 0 opRESV (pRes opRESV 64)
        ∧ resvRoom (wResv (pRes opRESV 64) 31 false) 0 0x1F 64 = true
        ∧ 0x1F - 0x10 ∉ (getTile (wResv (pRes opRESV 64) 31 false) 0).rqRetired)
      ∧ (TileServes (wResv (pRes opRESV 64) 32 false) 0 opRESV (pRes opRESV 64)
        ∧ resvRoom (wResv (pRes opRESV 64) 32 false) 0 0x1F 64 = false)
      ∧ (TileServes (wResv (pRes opCONF 0) 1 false) 0 opCONF (pRes opCONF 0)
        ∧ (getTile (wResv (pRes opCONF 0) 1 false) 0).resvs.find? (resvMatch (pRes opCONF 0)) = some (aResv false))
      ∧ (TileServes (wResv (pRes opWDRW 0) 1 false) 0 opWDRW (pRes opWDRW 0)
        ∧ (getTile (wResv (pRes opWDRW 0) 1 false) 0).resvs.find? (resvMatch (pRes opWDRW 0)) = some (aResv false))
      ∧ (∀ c, cmbLive (wResv (pRes opCONF 0) 1 c) 0 = true ∧ (getTile (wResv (pRes opCONF 0) 1 c) 0).stalled = none
        ∧ 0 < (aResv c).due ∧ (aResv c).due ≤ eTime (wResv (pRes opCONF 0) 1 c)
        ∧ (getTile (wResv (pRes opCONF 0) 1 c) 0).resvs.find?
          (fun r => r.src == 0x500 && r.ep == (0x1F : Word).toNat && r.tag == 9 && r.confirmed == c) = some (aResv c)) := by
  and_intros <;> decide +kernel

/-- CMB has the word w to start, over receive queue 15 with an entry of one payload byte across the end of its ring. -/
def Sys2Proof.Tests.wCmb (w : CmdWord) (en ne : Nat) : State :=
  writeMem (rt 0 { cmbQ := [⟨w, 3, 0, false⟩] } (rqRegs en ne)) (tmKey 0 (64 + 96 + 4)) [1]
def Sys2Proof.Tests.cwDeq : CmdWord := cw 0x01 3 (15 * 2 ^ 76 + 196544 * 2 ^ 58 + 2 ^ 57 + 63 * 2 ^ 51)
def Sys2Proof.Tests.cwDrop : CmdWord := cw 0x02 3 (15 * 2 ^ 76)

theorem test_QueuesGiveUpEntries_met :
    ((getTile (wCmb cwDrop 1 1) 0).stalled = none ∧ cmbHead (wCmb cwDrop 1 1) 0 0x02 = some ⟨cwDrop, 3, 0, false⟩
        ∧ deqBad (wCmb cwDrop 1 1) 0 (cmbRq cwDrop) = 0 ∧ 0 < rqSize (wCmb cwDrop 1 1) 0 15 ∧ cmbRq cwDrop = 15)
      ∧ (let s := wCmb cwDeq 1 1;
        Memory.wf s.mem = true ∧ cmbHead s 0 0x01 = some ⟨cwDeq, 3, 0, false⟩ ∧ deqBad s 0 15 = 0 ∧ cmbDst cwDeq % 32 = 0
          ∧ cmbDst cwDeq + headSize s 0 15 = 196608 ∧ rqPtr s 0 15 < rqSize s 0 15 ∧ headSize s 0 15 ≤ rqSize s 0 15
          ∧ cleanMem s (tmKey 0 64) (rqSize s 0 15) = true)
      ∧ (deqBad (wCmb cwDeq 0 1) 0 15 = 0x10 ∧ cmbHead (wCmb cwDeq 0 1) 0 0x01 = some ⟨cwDeq, 3, 0, false⟩)
      ∧ (deqBad (wCmb cwDrop 1 0) 0 15 = 0x11 ∧ cmbHead (wCmb cwDrop 1 0) 0 0x02 = some ⟨cwDrop, 3, 0, false⟩) := by
  decide +kernel

/-- CQARM and CQRST of queue 7, with K as given; an armed queue. -/
def Sys2Proof.Tests.cwArm (k : Nat) : CmdWord := cw 0x10 3 (7 * 2 ^ 77 + k)
def Sys2Proof.Tests.cwRst : CmdWord := cw 0x11 3 (7 * 2 ^ 77)
def Sys2Proof.Tests.wArm (w : CmdWord) (st : Nat) (c : Cq) : State :=
  rt 0 { cmbQ := [⟨w, 3, 0, false⟩], cqs := cqOne c } (cqRegs st 0)

theorem test_CombiningQueuesArm_met :
    ((getTile (wArm (cwArm 1) 1 {}) 0).cqs.length = 8 ∧ cmbHead (wArm (cwArm 1) 1 {}) 0 0x10 = some ⟨cwArm 1, 3, 0, false⟩
        ∧ armBad (wArm (cwArm 1) 1 {}) 0 (cwArm 1) = 0 ∧ Memory.wf (wArm (cwArm 1) 1 {}).mem = true)
      ∧ (cmbHead (wArm (cwArm 0) 1 {}) 0 0x10 = some ⟨cwArm 0, 3, 0, false⟩ ∧ armBad (wArm (cwArm 0) 1 {}) 0 (cwArm 0) ≠ 0)
      ∧ (let s := wArm cwRst 2 { arm := some ⟨cwArm 1, 3, 0, false⟩ };
        cqState s 0 7 = 2 ∧ (getCq s 0 7).arm.isSome ∧ cmbLive s 0 = true)
      ∧ (cmbHead (wArm cwRst 3 {}) 0 0x11 = some ⟨cwRst, 3, 0, false⟩ ∧ cqState (wArm cwRst 3 {}) 0 7 ∉ [0, 4]) := by
  decide +kernel

/-- A stalled message, a refusal, an unanswered result packet, owed acknowledgements and a held lease read, all due. -/
def Sys2Proof.Tests.leaseReqOf : MovReq :=
  { tag := 9, cmd := 4, lc := 0, kind := .rd, pkt := pkt opRD 0x100 0 64 4 [], iq := 0, bytes := 4, inj := some 0,
    lease := true }
def Sys2Proof.Tests.pRsp : Packet := pkt opRDRSP 0 0x100 64 0 [1, 2, 3, 4]
def Sys2Proof.Tests.wTimers : State :=
  { rt 0 { stalled := some (15, 1024), lreq := [pMsg 97], refusals := [⟨0x500, 15, 9, some 1024⟩],
           cqs := cqOne { res := [{ tag := 9, pkt := {}, want := 1, due := some 1024 }] },
           acks := [⟨0, 0x500, 3, 9, 0, 0, 0, 0⟩], leaseHeld := [⟨9, pRsp⟩], movReqs := [leaseReqOf] } (rqRegs 1 0) with
    time := 512000 }

theorem test_TileTimersAct_met :
    let s := wTimers
    ((getTile s 0).stalled = some (15, 1024) ∧ (getTile s 0).lreq = pMsg 97 :: [] ∧ cmbLive s 0 = true ∧ 1024 ≤ eTime s
        ∧ rqFits s 0 15 (entrySize (payload (pMsg 97)).length) = false)
      ∧ (getTile s 0).refusals[0]? = some ⟨0x500, 15, 9, some 1024⟩
      ∧ ((getTile s 0).cqs.length = 8 ∧ (getCq s 0 7).res.find? (fun r => r.tag == 9 && r.due.isSome)
        = some { tag := 9, pkt := {}, want := 1, due := some 1024 })
      ∧ ((getTile s 0).acks.find? (fun a => a.me == 0 && a.src == 0x500) = some ⟨0, 0x500, 3, 9, 0, 0, 0, 0⟩
        ∧ 0 + ticks 500 = eTime s)
      ∧ ((getTile s 0).leaseHeld.find? (fun h => h.tag == 9) = some ⟨9, pRsp⟩ ∧ reqOf (getTile s 0) 9 = some leaseReqOf
        ∧ leaseEarly s leaseReqOf = none ∧ movRuns s 0 = true ∧ (getTile s 0).movQ = [] ∧ (getTile s 0).movCur = none
        ∧ (getTile s 0).stageQ = [] ∧ cmdTent (getTile s 0) leaseReqOf = false ∧ pRsp.opc = opRDRSP
        ∧ pRsp.addr = leaseReqOf.pkt.addr ∧ (payload pRsp).length = leaseReqOf.bytes ∧ poisoned pRsp = false
        ∧ Memory.wf s.mem = true ∧ s.tkp.steps ≤ fullT s) := by decide +kernel

/-- A request of MOV to tile 1 that awaits its answer, and answers. -/
def Sys2Proof.Tests.aReq (k : ReqKind) (p : Packet) : MovReq :=
  { tag := 9, cmd := 4, lc := 3, kind := k, pkt := p, iq := 0, bytes := 4, inj := some 0 }
def Sys2Proof.Tests.wAns (q : Packet) (r : MovReq) : State := rt 0 { lrsp := [q], movReqs := [r] } []

theorem test_AnswersReachMov_met :
    (∀ e, e ∈ [(pRsp, ReqKind.rd, pkt opRD 0x100 0 64 4 []), (pkt opREGRSP 0 0x101 0 0 [1, 2, 3, 4], .regrd, pkt opREGRD 0x101 0 0 0 []),
        (pkt opWFN 0 0x100 0 1 [], .posted, pkt opWR 0x100 0 0 0 [1]), (pkt opDEAD 0 0x100 0 0 [], .wra, pkt opWRA 0x100 0 0 0 [1]),
        (pkt opNAK 0 0x100 0 nkHOLE [], .wra, pkt opWRA 0x100 0 0 0 [1]), (pkt opWRACK 0 0x100 0 1 [], .wra, pkt opWRA 0x100 0 0 0 [1])] →
        let s := wAns e.1 (aReq e.2.1 e.2.2)
        let r := aReq e.2.1 e.2.2
        rspHead s (.tile 0) e.1.opc = some e.1 ∧ nodeEp e.1.dst = 0 ∧ stopped s (.mov 0) = false ∧ lenBad e.1 = false
          ∧ isolated s 0 = false ∧ (getTile s 0).movQ = [] ∧ (getTile s 0).movCur = none ∧ (getTile s 0).stageQ = []
          ∧ reqOf (getTile s 0) e.1.tag = some r ∧ answersTo r.pkt e.1.src = true ∧ resvOf (getTile s 0) e.1 = none
          ∧ rbit s (.mov 0) 0x010 1 = false ∧ r.pkt.mc = false ∧ cmdTent (getTile s 0) r = false ∧ poisoned e.1 = false ∧ r.live = true)
      ∧ (pRsp.addr = (pkt opRD 0x100 0 64 4 []).addr ∧ (payload pRsp).length = 4
        ∧ fld (pkt opNAK 0 0x100 0 nkHOLE []).aux 7 0 ∉ [nkFULL, nkHOLD, nkPOLICED])
      ∧ (let q := pkt opRSVACK 0 0x110 0 0 [];
        let s := rt 0 { lrsp := [q], srcResvs := [⟨9, 4, 3, .pending, false, 0x110, 0, some 0, none, false⟩] } [];
        rspHead s (.tile 0) opRSVACK = some q
          ∧ resvOf (getTile s 0) q = some ⟨9, 4, 3, .pending, false, 0x110, 0, some 0, none, false⟩) := by decide +kernel

theorem test_RegisterRequestsServed_met :
    (TileServes (wReq (pkt opREGRD 0x01 0x500 0x6FFC 0 []) {} []) 0 opREGRD (pkt opREGRD 0x01 0x500 0x6FFC 0 [])
        ∧ epKind 0x01 = .reg ∧ regAddrOk 0x01 0x6FFC = true)
      ∧ (TileServes (wReq (pkt opREGWR 0x01 0x500 0x1070 0 [1, 2, 3, 4]) {} []) 0 opREGWR
          (pkt opREGWR 0x01 0x500 0x1070 0 [1, 2, 3, 4])
        ∧ regPage State.reset 0x01 0x1070 = some (.seq 0) ∧ regPage State.reset 0x01 0x6FFC = some (.dbg 0)
        ∧ writeTaken (wReq (pkt opREGWR 0x01 0x500 0x1070 0 [1, 2, 3, 4]) {} []) (.seq 0) 0x070 0x04030201 = true) := by
  and_intros <;> decide +kernel

/-! ## Time, gates, links -/

/-- A time in ticks of the oscillator, with registers and what the timekeeper holds. -/
def Sys2Proof.Tests.wTime (time : Nat) (k : Tkp) (l : List (Page × Nat × Nat)) : State := { rs l with time := time, tkp := k }

theorem test_NetworkTimeMoves_met :
    (State.reset.tkp.step = none ∧ waveDue State.reset < 2 ^ 80)
      ∧ (∀ k, let s := wTime (2 ^ 20) { step := some (-3), lastWave := some (2 ^ 20), locked := k } [];
        s.tkp.copy = none ∧ waveDue s = 2 ^ 21 ∧ 0 ≤ waveDue s + (-3) ∧ waveDue s + (-3) < 2 ^ 80)
      ∧ (let s := wTime 5 { off := 2 ^ 80 - 10 } []; 2 ^ 80 ≤ nextT s (2 ^ 64) ∧ nextT State.reset (2 ^ 64) < 2 ^ 80)
      ∧ (let s := wTime 5 { rtcsync := true, rtcReq := 5 } []; s.tkp.rtcsync = true ∧ fullT s ≤ rtcDue s ∧ rtcDue s < 2 ^ 80)
      ∧ (let s := rs [(.tkp 0, 0x0C0, 0xFFFF0101)]; rbit s (.tkp 0) 0x0C0 0 = true ∧ ppsDue s - ppsComp s < 2 ^ 80)
      ∧ (let s := wTime 100 { ppsOut := true, ppsAt := 100 } [];
        s.tkp.ppsOut = true ∧ s.tkp.ppsAt ≤ eTime s ∧ s.tkp.steps ≤ fullT s) := by decide +kernel

/-- The timekeeper follows PPS_IN and is in a state, at the deadline of a loss or of a holdover of one second. -/
def Sys2Proof.Tests.wTkp (st : Nat) : State :=
  wTime (2 * secTicks) { lastEdge := some 0, holdAt := secTicks }
    [(.tkp 0, 0x080, 1), (.tkp 0, 0x084, st), (.tkp 0, 0x0B0, 1)]

theorem test_TimekeeperStatesChange_met :
    (tkpSrc State.reset ≠ 1 ∧ tkpSrc (wTkp 0) = 1 ∧ tkpState (wTkp 0) = 0)
      ∧ (tkpSrc (wTkp 2) = 1 ∧ tkpState (wTkp 2) = 2
        ∧ ((wTkp 2).tkp.lastEdge.getD 0 + 2 * secTicks ≤ eTime (wTkp 2) ∧ (wTkp 2).tkp.steps ≤ fullT (wTkp 2)))
      ∧ (tkpState (wTkp 3) = 3 ∧ rfld (wTkp 3) (.tkp 0) 0x0B0 15 0 ≠ 0xFFFF
        ∧ ((wTkp 3).tkp.holdAt + rfld (wTkp 3) (.tkp 0) 0x0B0 15 0 * secTicks ≤ eTime (wTkp 3)
          ∧ (wTkp 3).tkp.steps ≤ fullT (wTkp 3)))
      ∧ { State.reset with mgt := { vstby := false } }.mgt.vstby = false := by decide +kernel

/-- Link 23 is up; its Accord port has a role and a state, an exchange being open. -/
def Sys2Proof.Tests.wAcc (role st : Nat) : State :=
  wTime (2 * secTicks) { acc := [(23, { t1 := 100, t2 := 300, t3 := 400, seq := 7, open_ := true, lastDone := secTicks, miss := 3 })] }
    [(.llk 23, 0x084, 5), (accPage 23, accOff 23, role), (accPage 23, accOff 23 + 4, st)]
def Sys2Proof.Tests.mSync (hops : Nat) : SyncMsg := ⟨1000, 0, 0, hops, true, false⟩

theorem test_AccordExchanges_met :
    (linkUp (wAcc 1 0) 23 = true ∧ accRole (wAcc 1 0) 23 = 1
        ∧ ((getAcc (wAcc 1 0) 23).since + ticks 1000000 ≤ eTime (wAcc 1 0) ∧ (wAcc 1 0).tkp.steps ≤ fullT (wAcc 1 0)))
      ∧ (accSlave (wAcc 2 2) 23 = true ∧ (mSync 30).hops + 1 ≤ 31 ∧ (getAcc (wAcc 2 2) 23).open_ = true
        ∧ (getAcc (wAcc 2 2) 23).seq = (7 : Half).toNat ∧ accSlave (wAcc 2 1) 23 = true ∧ accRole (wAcc 2 2) 23 ≠ 1)
      ∧ (accState (wAcc 2 5) 23 = 5 ∧ accRole (wAcc 2 5) 23 = 2 ∧ linkUp (wAcc 2 5) 23 = true)
      ∧ (accRole (wAcc 2 3) 23 = 2 ∧ accState (wAcc 2 3) 23 ≠ 0 ∧ accState (wAcc 2 3) 23 ≠ 5 ∧ 4 ≤ (getAcc (wAcc 2 3) 23).miss + 1)
      ∧ (accState (wAcc 2 4) 23 = 4 ∧ (getAcc (wAcc 2 4) 23).lastDone + secTicks ≤ eTime (wAcc 2 4))
      ∧ (accState (wAcc 2 2) 23 = 2 ∧ accState (wAcc 2 1) 23 = 1 ∧ (getAcc (wAcc 2 2) 23).since + 2 * secTicks ≤ eTime (wAcc 2 2)) := by decide +kernel

/-- The gate list pair of link 23: one entry of 16 ns that opens all queues, a cycle of 16 ns, in a state, with a change time. -/
def Sys2Proof.Tests.wGcl (st n ct : Nat) : State :=
  { rs [(.llk 23, 0xC04, st), (.llk 23, 0xC10, 256), (.llk 23, 0xC18, n), (.llk 23, 0xC28, 256), (.llk 23, 0xC30, n),
      (.llk 23, 0xC38, ct)] with
    links := [(23, { gcl := { adm := [(0, ⟨256, 0xFF⟩)], oper := [(0, ⟨256, 0xFF⟩)] } })] }

theorem test_GateListsFollowCommands_met :
    let raw := rawReg (wGcl 0 1 0) (.llk 23) 0xC00
    let p := Page.llk 23
    let g := GPlace.llk 23
    (∀ st, st = 0 ∨ st = 2 → fld raw 2 0 = 0 ∧ writeTaken (wGcl st 1 0) p 0xC00 (raw ||| 1) = true
        ∧ gclBad (wGcl st 1 0) g = 0 ∧ gclState (wGcl st 1 0) g = st)
      ∧ (writeTaken (wGcl 0 0 0) p 0xC00 (raw ||| 1) = true ∧ gclBad (wGcl 0 0 0) g = 1 ∧ gReached (wGcl 0 0 0) g = false)
      ∧ (∀ st, st = 1 ∨ st = 3 → writeTaken (wGcl st 1 9) p 0xC00 (raw ||| 2) = true ∧ gclState (wGcl st 1 9) g = st
        ∧ gReached (wGcl st 1 9) g = false ∧ gReached (wGcl st 1 0) g = true
        ∧ writeTaken (wGcl st 1 0) p 0xC00 (raw ||| 2) = true)
      ∧ writeTaken (wGcl 2 1 0) p 0xC00 (raw ||| 4) = true
      ∧ (∀ st, st = 1 ∨ st = 3 → pagePresent (wGcl st 1 999999) p = true ∧ gclState (wGcl st 1 999999) g = st
        ∧ fullT (wGcl st 1 999999) + ctIn (wGcl st 1 999999) g < 2 ^ 80)
      ∧ (gclState (wGcl 2 1 0) g = 2 ∧ gNext (wGcl 2 1 0) g = 16384 ∧ fullT (wGcl 2 1 0) + gNext (wGcl 2 1 0) g < 2 ^ 80
        ∧ gclState (wGcl 3 1 999999) g = 3 ∧ gNext (wGcl 3 1 999999) g < ctIn (wGcl 3 1 999999) g) := by
  refine ⟨?_, by decide +kernel, ?_, by decide +kernel, ?_, by decide +kernel⟩ <;>
    rintro st (rfl | rfl) <;> decide +kernel

theorem test_TablePortActs_met :
    (∀ e, e ∈ [(0, 255), (1, 255), (2, 0), (3, 255)] →
        writeTaken (wGcl 0 1 0) (.llk 23) 0xC80 (BitVec.ofNat 32 (e.1 + e.2 * 256)) = true)
      ∧ ∀ e, e ∈ [(0, 255), (2, 0), (3, 255)] →
        writeTaken (wGcl 0 1 0) (.llk 23) 0xC80 (BitVec.ofNat 32 (e.1 + 8 + e.2 * 256)) = true := by decide +kernel

/-- Link 0 is active and has one packet of class 7 for another package. -/
def Sys2Proof.Tests.pFar : Packet := { pkt opWRA (2 ^ 22) 0x500 0 0 [1, 2, 3] with tc := 7 }
def Sys2Proof.Tests.wLink (l : Link) (r : List (Page × Nat × Nat)) : State :=
  { rs ([(.llk 0, 0x084, 0xFF05)] ++ r) with links := [(0, l)] }
def Sys2Proof.Tests.wEgress : State := wLink { eg := [(7, [{ pkt := pFar }])] } []

theorem test_ShapersAndEgressAct_met :
    (atEgress (.eth 3) = true ∧ writeTaken State.reset (.eth 3) (0xC00 + shpOff 7) (BitVec.ofNat 32 (1 + 2 ^ 31)) = true
        ∧ shpEn State.reset (.eth 3) 7 = false)
      ∧ (writeTaken State.reset (.llk 0) (0xC00 + shpOff 0 + 4) 0xFFFFFF = true
        ∧ writeTaken State.reset (.llk 0) (0xC00 + shpOff 0) (setFld (rawReg State.reset (.llk 0) (0xC00 + shpOff 0)) 19 0 5) = true)
      ∧ (dieFitted wEgress 0 = true ∧ llkState wEgress 0 = 5 ∧ stopped wEgress (.llk 0) = false
        ∧ (∀ c, c < 8 → tabGet [] (getLink wEgress 0).eg c = if c = 7 then { pkt := pFar } :: [] else [])
        ∧ framable wEgress 0 { pkt := pFar } = true ∧ gReached wEgress (.llk 0) = false ∧ eligible wEgress (.llk 0) 7 (llkLen wEgress 0 pFar) = true) := by
  decide +kernel

/-- A link in a state of training. -/
def Sys2Proof.Tests.wTrain (st det : Nat) : State :=
  { rs [(.llk 0, 0x084, st + 0xF00)] with links := [(0, { det := det, trainTo := 100 })], time := usTicks 100000000 }

theorem test_TrainingAdvances_met :
    (llkState (wTrain 1 0) 0 = 1 ∧ minWidth (wTrain 1 0) 0 ≤ popCount8 ((0xFF : BitVec 8).toNat &&& rfld (wTrain 1 0) (.llk 0) 0x080 11 4))
      ∧ (llkState (wTrain 2 0xFF) 0 = 2 ∧ llkState (wTrain 3 0xFF) 0 = 3 ∧ llkState (wTrain 4 0xFF) 0 = 4
        ∧ llkState (wTrain 6 0xFF) 0 = 6 ∧ (getLink (wTrain 6 0xFF) 0).unacked = [])
      ∧ (minWidth (wTrain 3 0xFF) 0 ≤ popCount8 ((getLink (wTrain 3 0xFF) 0).det - ((getLink (wTrain 3 0xFF) 0).det &&& 1)))
      ∧ ((getLink (wTrain 4 0) 0).trainTo ≠ 0
        ∧ (getLink (wTrain 4 0) 0).trainAt + usTicks (1000 * (getLink (wTrain 4 0) 0).trainTo) ≤ eTime (wTrain 4 0)
        ∧ (wTrain 4 0).tkp.steps ≤ fullT (wTrain 4 0)) := by decide +kernel

/-- A DATA frame of a packet, and a CTRL frame that acknowledges. -/
def Sys2Proof.Tests.frm (ty seq : Nat) (p : Option Packet) : LFrame :=
  let f : LFrame := ⟨BitVec.ofNat 4 ty, 0, BitVec.ofNat 12 seq, BitVec.ofNat 7 ((p.map (·.data.length)).getD 0), 2, false, 5, true,
    false, 0, 0, 0⟩
  { f with crc := BitVec.ofNat 32 (crc32Msb (frameBytes f p)) }
def Sys2Proof.Tests.wFrames : State :=
  { wLink { rxSeq := 3, unacked := [⟨4, 0, pFar, 0, 0⟩, ⟨5, 0, pFar, 0, 0⟩, ⟨6, 0, pFar, 0, 0⟩], toAck := 2, ackTo := 65535 } [(.scr, 0x108, 0)] with
    time := ticks 65535 }

theorem test_LinkFramesAct_met :
    (llkState wFrames 0 = 5 ∧ frameOk (frm 1 3 (some pFar)) (some pFar) = true ∧ (frm 1 3 (some pFar)).seq.toNat = (getLink wFrames 0).rxSeq
        ∧ (frm 1 3 (some pFar)).rpl = false
        ∧ (getMtr wFrames (.llk 0) (llkMeter wFrames 0 pFar)).mode = 0)
      ∧ (frameOk (frm 1 4 (some pFar)) (some pFar) = true ∧ (frm 1 4 (some pFar)).seq.toNat ≠ (getLink wFrames 0).rxSeq
        ∧ (getLink wFrames 0).disc = false)
      ∧ (frameOk (frm 2 0 none) none = true ∧ (frm 2 0 none).rpl = false ∧ (frm 2 0 none).ackv = true
        ∧ (getLink wFrames 0).unacked.findIdx? (fun x => x.seq == (frm 2 0 none).ackseq.toNat) = some 1)
      ∧ (bktThr wFrames 1 = 0 ∧ (getLink wFrames 0).toAck ≠ 0 ∧ (getLink wFrames 0).ackSince + ticks 200 ≤ eTime wFrames
        ∧ wFrames.tkp.steps ≤ fullT wFrames)
      ∧ (stopped wFrames (.llk 0) = false ∧ (getLink wFrames 0).ackTo = 65535 ∧ (getLink wFrames 0).unacked ≠ []
        ∧ (getLink wFrames 0).progressAt + ticks 65535 ≤ eTime wFrames
        ∧ (getLink wFrames 0).rpl = 0 ∧ (getLink wFrames 0).rpl + 1 < rfld wFrames (.llk 0) 0x090 3 0) := by decide +kernel

/-- A packet of another package for this one, and one for package 1, in OSW of die 0. -/
def Sys2Proof.Tests.wOsw (p : Packet) : State :=
  { rs [(.osw 0, 0x084, 0x10104), (.osw 0, 0x088, 1), (.llk 0, 0x084, 5), (.llk 1, 0x084, 5), (.scr, 0x108, 0), (.scr, 0x110, 0),
      (.scr, 0x128, 0)] with dies := [(0, { osw := [{ pkt := p }] })] }

theorem test_LinkErrorsCounted_met :
    (llkState wEgress 0 = 5 ∧ bktThr (wOsw pIn) 1 = 0 ∧ lanesOf (llkLanes wEgress 0) = [0, 1, 2, 3, 4, 5, 6, 7]
        ∧ (∀ e, e ∈ [([], Fec.clean), ([(7, 0), (7, 15)], .fixed 7 2), ([(3, 0), (3, 16)], .bad), ([(0, 0), (1, 0)], .bad)] →
          fecOf (e.1.filter (fun e => (lanesOf (llkLanes wEgress 0)).contains e.1)) = e.2)
        ∧ (lfBytes (lanesOf (llkLanes wEgress 0)) (sbLane wEgress 0 false) [[0x7F]]).1.toNat < 128)
      ∧ (dieFitted (wOsw pIn) (23 / 12) = true ∧ dieFitted (wOsw pIn) (3 / 2) = true ∧ edgePop (wOsw pIn) 127 1 = true
        ∧ bktThr (wOsw pIn) 1 = 0 ∧ bktThr (wOsw pIn) 2 = 0 ∧ bktThr (wOsw pIn) 5 = 0)
      ∧ ((getDie (wOsw pIn) 0).osw = { pkt := pIn } :: [] ∧ stopped (wOsw pIn) (.osw 0) = false ∧ dieFitted (wOsw pIn) 0 = true
        ∧ nodePkg pIn.dst = ownPkg (wOsw pIn) ∧ fabricBusy (wOsw pIn) = false)
      ∧ (nodePkg pFar.dst ≠ ownPkg (wOsw pFar) ∧ rbit (wOsw pFar) (.osw 0) 0x088 0 = true ∧ offPod (wOsw pFar) (nodePkg pFar.dst) = false
        ∧ podDir (wOsw pFar) (nodePkg pFar.dst) = some 0 ∧ (podLink (wOsw pFar) 0 0 pFar).isSome = true) := by decide +kernel

/-! ## Resets, boot, the host -/

/-- The package runs, with a reset of some scope in progress or none. -/
def Sys2Proof.Tests.wMgt (r : Option Scope) (l : List (Page × Nat × Nat)) : State :=
  { rs ([(.mgt, 0x090, 7), (.mgt, 0x084, 0x3F3F00)] ++ l) with mgt := { running := r } }

theorem test_ResetsReturnState_met :
    ((wMgt none []).mgt.thermtrip = false ∧ writeTaken (wMgt none []) .mgt 0x088 1 = true ∧ (wMgt none []).mgt.running ≠ some .cold)
      ∧ (writeTaken (wMgt (some (.tile 3)) []) .mgt 0x088 2 = true ∧ (∀ e ∈ (wMgt none []).tiles, e.2.powered = true)
        ∧ (wMgt none []).mgt.failedRtrs = [])
      ∧ writeTaken (wMgt none []) .mgt 0x088 (BitVec.ofNat 32 (4 + 16383 * 65536)) = true
      ∧ ((wMgt (some (.tile 3)) []).mgt.running = some (.tile 3) ∧ 3 ≠ 16383 ∧ 16383 ∉ (wMgt (some (.tile 3)) []).mgt.waiting
        ∧ writeTaken (wMgt (some (.tile 3)) []) .mgt 0x088 (BitVec.ofNat 32 (4 + 16383 * 65536)) = true)
      ∧ (wMgt none []).mgt.running ≠ some .warm
      ∧ ((wMgt (some .fabric) []).mgt.running = some .fabric ∧ rbit (wMgt (some .fabric) []) .mgt 0x084 2 = false
        ∧ rbit (wMgt (some .fabric) [(.mgt, 0x084, 4)]) .mgt 0x084 2 = true)
      ∧ ((wMgt (some (.tile 3)) []).mgt.waiting = [] ∧ rbit (wMgt (some (.tile 3)) []) (.til 3) 0x084 0 = false
        ∧ (getTile (wMgt (some (.tile 3)) []) 3).powered = true) := by decide +kernel

/-- An image that MGT accepts, and one with a wrong magic word. -/
def Sys2Proof.Tests.img (magic : Word) : Image := ⟨magic, 4096, 255, true, true, true⟩

theorem test_BootEnds_met :
    (State.reset.mgt.thermtrip = false ∧ State.reset.mgt.vstby = true ∧ bootStage State.reset = 0
        ∧ (imageOk State.reset (img 0) || imageOk State.reset (img 0x57524D46)) = true ∧ State.reset.mgt.failedRtrs = [])
      ∧ (imageOk State.reset (img 0) || imageOk State.reset (img 0)) = false
      ∧ bootStage (rs [(.mgt, 0x090, 2)]) = 2 ∧ State.reset.hif.perst = false := by decide +kernel

/-- Quadrants at 90 degrees, or below the limit less its hysteresis; a memory edge that trains and scrubs. -/
def Sys2Proof.Tests.wHot (t : Nat) : State := wMgt none [(.mgt, 0x0A0, t * 0x1010101), (.mgt, 0x0A8, 0x10A055A)]
def Sys2Proof.Tests.wScrub (e : Option UnitErr) : State :=
  { rs [(.mem 0 0, 0x084, 1), (.mem 0 0, 0x080, 1), (.mem 0 0, 0x094, 1)] with
    ecc := (e.map (fun e => (pcAddr .h8l2 0 0 32 / 32, e))).toList }

theorem test_TemperatureAndScrub_met :
    (3 ≤ bootStage (wMgt none []) ∧ (wMgt none []).mgt.rails = true ∧ (wMgt none []).mgt.vmv.length = 4)
      ∧ (rbit (wHot 90) .mgt 0x0A8 24 = true ∧ rfld (wHot 90) .mgt 0x0A8 7 0 ≤ rfld (wHot 90) .mgt 0x0A0 31 24
        ∧ rfld (wHot 5) .mgt 0x0A0 7 0 + rfld (wHot 5) .mgt 0x0A8 15 8 ≤ rfld (wHot 5) .mgt 0x0A8 7 0)
      ∧ writeTaken (wMgt none []) .mgt 0x0AC 0x32323232 = true
      ∧ pagePresent State.reset (.mem (32 * (7 % 4) + 31) (7 / 4)) = true
      ∧ (pcLive (wScrub none) 0 0 = true ∧ rfld (wScrub none) (.mem 0 0) 0x080 7 0 ≠ 0
        ∧ unitErr (wScrub none) (pcAddr .h8l2 0 0 32 / 32) = none)
      ∧ unitErr (wScrub (some ⟨false, false⟩)) (pcAddr .h8l2 0 0 32 / 32) = some ⟨false, false⟩ := by decide +kernel

/-- Host accesses; one not answered and due; a package whose boot has failed. -/
def Sys2Proof.Tests.anAcc (w : Bool) (due : Option Nat) (till : Nat) : HostAcc := ⟨5, 0, w, 0, pkt opREGRD 0x01 0 0 0 [], 0, due, till, 0, 0⟩
def Sys2Proof.Tests.wCto (w : Bool) (due : Option Nat) : State :=
  { wHost [anAcc w due 1024] with
    time := 1024, hif := { perst := true, nextId := 1, accs := [anAcc w due 1024],
                           rds := if w then [] else [⟨0, [⟨some 5, none⟩]⟩] } }

theorem test_HostAccessesServed_met :
    (hostUp (wHost []) = true ∧ (wHost []).hif.rds = [] ∧ pkgFailed (wHost []) = false ∧ barShut (wHost []) 2 = false
        ∧ barAt (wHost []) 2 0x1FFFFC = .empty ∧ barAt (wHost []) 0 (2 ^ 29 - 4) = .empty)
      ∧ (barAt (wHost []) 0 0x88 = .page (.til 0) 0x88 ∧ barAt (wHost []) 2 0x300000 = .page .mgt 0)
      ∧ (barShut (wHost []) 4 = false ∧ bar4Addr (wHost []) (2 ^ 36 - 2048) % 2048 + 2048 ≤ 2048)
      ∧ (hostUp (wMgt none []) = false ∧ hostUp { wHost [] with mgt := { running := some .fabric } } = true
        ∧ barShut { wHost [] with mgt := { running := some .fabric } } 4 = true)
      ∧ (hostUp (wCto true (some 1024)) = true ∧ (wCto true (some 1024)).hif.accs = [anAcc true (some 1024) 1024]
        ∧ 1024 ≤ eTime (wCto true (some 1024)) ∧ (wCto true (some 1024)).tkp.steps ≤ fullT (wCto true (some 1024)))
      ∧ (∀ w, (wCto w none).hif.accs = [anAcc w none 1024] ∧ (anAcc w none 1024).till ≤ eTime (wCto w none)
        ∧ (wCto w none).hif.rds = if w then [] else [⟨0, [⟨some 5, none⟩]⟩]) := by decide +kernel

/-- A vector with a message deferred to the end of its window. -/
def Sys2Proof.Tests.wVec : State :=
  { wHost [] with
    time := 80000000 * 1024, hif := { perst := true, bme := true, vecs := [(2047, ⟨0xFEE00000, 7, false, false, some 0, 80000000, true⟩)] } }

theorem test_HostControlsAct_met :
    (cfgStatus wVec = .sc ∧ wVec.hif.perst = true ∧ wVec.hif.bme = true ∧ wVec.hif.fmask = false)
      ∧ ((getVec wVec 2047).lastAt = some 0 ∧ (getVec wVec 2047).deferred = true ∧ (getVec wVec 2047).masked = false
        ∧ 0 + ticks (getVec wVec 2047).win ≤ eTime wVec ∧ wVec.tkp.steps ≤ fullT wVec)
      ∧ (wVec.mgt.vstby = true ∧ smbRdy wVec = true
        ∧ smbAt { wVec with hif := { wVec.hif with smbAddr := 0x300070 } } = some (.mgt, 0x70) ∧ smbFails wVec .mgt = false
        ∧ writeTaken wVec .mgt 0x070 5 = true) := by decide +kernel

/-! ## Ethernet and Glaziers -/

/-- A descriptor of a buffer in TM of tile 1. -/
def Sys2Proof.Tests.desc (len flags : Nat) : List Byte :=
  leBytes 8 0 ++ leBytes 4 0x100 ++ leBytes 2 len ++ leBytes 1 flags ++ List.replicate 17 0

/-- Port 0 receives and transmits on its rings 0, of four descriptors at 0x1000 of HBM, of which two are the port's. -/
def Sys2Proof.Tests.wEth (en : Nat) (x : Eth) (d : List Byte) : State :=
  writeMem { rs [(.eth 0, 0x080, 0x1003), (.eth 0, 0x0A0, 1), (.eth 0, 0x09C, 0x80), (.eth 0, 0x400, 0x1000),
      (.eth 0, 0x404, en * 0x10000), (.eth 0, 0x408, 0x40000), (.eth 0, 0x40C, 2), (.eth 0, 0x800, 0x1000), (.eth 0, 0x804, 0x10000),
      (.eth 0, 0x808, 0x40000), (.eth 0, 0x80C, 2)] with eths := [(0, x)] } 0x1000 (d ++ d)
def Sys2Proof.Tests.frame60 : List Byte := List.replicate 12 0xFF ++ [0x08, 0x00] ++ List.replicate 46 5

theorem test_FramesReceived_met :
    let s := wEth 1 {} (desc 40 0)
    let f := frame60
    (rbit s (.eth 0) 0x080 0 = true ∧ dieFitted s (0 / 2) = true ∧ stopped s (.eth 0) = false ∧ enabled s (.eth 0) = true
        ∧ rbit s (.eth 0) 0x014 6 = false ∧ rbit s (.eth 0) 0x0A0 0 = true ∧ (getEth s 0).pausing = []
        ∧ netField f 12 2 ≠ 0x8808 ∧ f.length ≤ 262144)
      ∧ (macOk s 0 f = true ∧ macOk (rs []) 0 (List.replicate 60 1) = false ∧ ringEn (wEth 0 {} []) 0 false 0 = false)
      ∧ (steer s 0 f = 0 ∧ ringEn s 0 false 0 = true ∧ ringHalt s 0 false 0 = false ∧ f.length + 4 ≤ rfld s (.eth 0) 0x084 13 0
        ∧ (rbit s (.eth 0) 0x080 2 && tagged f) = false ∧ (rxFill 0 0 4 s f 0).1 = none ∧ ringSize s 0 false 0 = 4
        ∧ ringHead s 0 false 0 = 0
        ∧ (getMtr (rxFill 0 0 4 s f 0).2.2 (.eth 0) (ethMeter (rxFill 0 0 4 s f 0).2.2 0 f 0)).mode = 0)
      ∧ (rxBack (rxFill 0 0 4 s f 0).2.2 0 0 ⟨0, none, 60, none⟩ (rxFill 0 0 4 s f 0).2.1).1 = 0
      ∧ (ethColor (rxFill 0 0 4 s f 0).2.2 0 f = 0 ∧ ptpEvent f = false ∧ rbit s (.eth 0) 0x090 9 = false) := by decide +kernel

/-- A frame that has left, its descriptor to be written back; a port that pauses. -/
def Sys2Proof.Tests.aTx : TxFrm := ⟨0, 1, frame60, 0, false, false, 0, 0, false, true, 0⟩

theorem test_PortsTransmit_met :
    (ethLive (wEth 1 {} []) 0 = true ∧ rbit (wEth 1 {} []) (.eth 0) 0x080 0 = true
        ∧ ([none, none, none, none, none, none, none, some 0xFFFF] : List (Option Nat))[7]? = some (some 0xFFFF))
      ∧ (let s := { wEth 1 { pausing := [(7, 0, 0xFFFF)] } [] with time := 2 ^ 31 };
        (getEth s 0).pausing.find? (fun e => e.1 == 7) = some (7, 0, 0xFFFF)
          ∧ 0 + quantaTicks 0xFFFF / 2 ≤ eTime s ∧ s.tkp.steps ≤ fullT s
          ∧ rbit s (.eth 0) 0x09C 7 = true ∧ tabGet 0 (getEth s 0).pauseTill 7 ≤ eTime s)
      ∧ (let s := wEth 1 {} (desc 60 1);
        rbit s (.eth 0) 0x080 1 = true ∧ ringEn s 0 true 0 = true ∧ ringHalt s 0 true 0 = false ∧ (getEth s 0).tx = []
          ∧ (match txDescs 0 0 (ringSize s 0 true 0) s (ringHead s 0 true 0 % ringSize s 0 true 0) with
            | some (e, ds, s1) => decide ((txBuild s1 0 0 e ds).1.bytes.length ≤ 65536)
            | none => false) = true)
      ∧ (let s := rs [(.eth 0, 0x080, 2), (.eth 0, 0x804, 0x10000), (.eth 0, 0x808, 0x40000)];
        ringLeft (ringSize s 0 true 0) (ringHead s 0 true 0 % ringSize s 0 true 0) (ringTail s 0 true 0) = 0
          ∧ ringEn s 0 true 0 = true)
      ∧ (let s := wEth 1 { tx := [aTx] } [];
        (getEth s 0).tx = [aTx] ∧ (txBack (modEth s 0 (fun x => { x with tx := [] })) 0 0 aTx).1 = 0
          ∧ ringIrq (txBack (modEth s 0 (fun x => { x with tx := [] })) 0 0 aTx).2 0 true 0 = false ∧ 0 < ringSize s 0 true 0) := by
  decide +kernel

/-- A Glazier that runs, with a record at the head of its queue and a region of 8 by 8 in a target of 16 by 8. -/
def Sys2Proof.Tests.wGlz (r : List Byte) : State :=
  { rs [(.glz 7, 0x084, 1)] with
    glzs := [(7, { q := [r], tw := 16, th := 8, rw := 8, rh := 8, groups := [{}, {}, {}, {}] })] }
def Sys2Proof.Tests.rec32 (l : List Byte) : List Byte := l ++ List.replicate (32 - l.length) 0

def Sys2Proof.Tests.rTarget : List Byte := rec32 [1, 0, 0, 0, 0, 0x40, 1, 0, 4, 1]
def Sys2Proof.Tests.rRegion : List Byte := rec32 [2, 0, 0, 0, 8, 0, 0, 0, 8, 0, 8, 0]
def Sys2Proof.Tests.rCgroup : List Byte :=
  [3, 0, 0, 0, 3, 1, 3, 4, 3, 15, 63, 0, 0, 1, 0, 0, 0, 0, 0, 0, 0, 0, 0, 0, 64, 0, 0, 0, 0, 0, 0, 0]
def Sys2Proof.Tests.rDstate : List Byte := rec32 [4, 0, 0, 0, 7, 1, 7, 255, 255, 5, 5, 5]
def Sys2Proof.Tests.rProg : List Byte := rec32 [5, 0, 0, 0, 63, 1, 0, 0, 0, 0, 0, 0x80]
def Sys2Proof.Tests.rLoper : List Byte := rec32 [6, 0, 0, 0, 1, 2, 3, 4]
def Sys2Proof.Tests.rClear : List Byte := rec32 [0x20, 0, 0, 0, 0, 0, 0x80, 0x3F, 255]
def Sys2Proof.Tests.rBvh : List Byte := rec32 [0x30, 0, 0, 0, 0, 0, 0, 0, 0, 1, 0, 0, 64]

theorem test_GlazierStateSet_met :
    (∀ e, e ∈ [(0x01, rTarget), (0x02, rRegion), (0x03, rCgroup), (0x04, rDstate), (0x05, rProg), (0x06, rLoper), (0x20, rClear),
        (0x30, rBvh)] → glzRuns (wGlz e.2) 7 = true ∧ (getGlz (wGlz e.2) 7).q.head? = some e.2 ∧ recOpc e.2 = e.1
          ∧ recOk (wGlz e.2) e.2 = true)
      ∧ (byteField rRegion 4 2 + byteField rRegion 8 2 = 16 ∧ byteField rRegion 6 2 + byteField rRegion 10 2 = 8)
      ∧ (tnodeOk (wGlz rCgroup) (wordAt rCgroup 12) = true ∧ byteField rCgroup 5 1 = 1 ∧ byteField rCgroup 24 4 = 64
        ∧ inRegion (wGlz rCgroup) (wordAt rCgroup 12) (byteField rCgroup 16 6) (8 * 64) = true
        ∧ 16 * 1 * byteField rCgroup 7 1 * chanSize (byteField rCgroup 6 1) = 64 ∧ byteField rCgroup 7 1 = 4)
      ∧ (progBusy (wGlz rProg) 7 = false ∧ progBad (wordAt rProg 8) = false)
      ∧ (let s := rs [(.glz 7, 0x084, 2)]; glzState s 7 = 2 ∧ (getGlz s 7).frags = [] ∧ glzLive s 7 = true
        ∧ rbit s (.glz 7) 0x084 13 = false) := by decide +kernel

def Sys2Proof.Tests.rFence : List Byte := rec32 [0x40, 0, 0, 0, 2, 1, 0, 0, 63, 0, 0, 0, 1, 0, 0, 0, 2]
def Sys2Proof.Tests.rDresolve : List Byte := rec32 [0x21, 0, 0, 0, 0, 0, 0, 0, 0, 1, 0, 0, 8]
def Sys2Proof.Tests.rDraw (n : Byte) : List Byte := rec32 [0x10, 0, 0, 0, 8, 0, 0, 0, 0, 1, 0, 0, 0, 0, 0, 0, 0, 0, 0, 0, n]
def Sys2Proof.Tests.rSplat (n : Byte) : List Byte := rec32 [0x11, 0, 0, 0, 0, 0, 0, 0, 0, 1, 0, 0, 0, 0, 0, 0, 0, 0, 0, 0, n]
def Sys2Proof.Tests.rRayq : List Byte :=
  rec32 [0x31, 0, 0, 0, 1, 0, 0, 0, 0, 1, 0, 0, 0, 0, 0, 0, 0, 0, 64, 0, 0, 0, 0, 0, 1]

/-- The same Glazier with words in TM of tile 1: a triangle, or a splat of radius 1. -/
def Sys2Proof.Tests.wVerts (r : List Byte) (ws : List (Nat × Nat)) : State :=
  ws.foldl (fun s e => writeMem s (tmKey 1 e.1) (leBytes 4 e.2)) (wGlz r)
def Sys2Proof.Tests.tri : List (Nat × Nat) := [(48, 0x41000000), (96 + 4, 0x41000000)]

theorem test_GlazierRecordsRun_met :
    (∀ e, e ∈ [(0x40, rFence), (0x21, rDresolve), (0x10, rDraw 0), (0x10, rDraw 1), (0x11, rSplat 0), (0x11, rSplat 1), (0x31, rRayq)] →
        glzRuns (wGlz e.2) 7 = true ∧ (getGlz (wGlz e.2) 7).q.head? = some e.2 ∧ recOpc e.2 = e.1 ∧ recOk (wGlz e.2) e.2 = true)
      ∧ (nodeKind (wordAt rFence 4) = 0 ∧ nodeEp (wordAt rFence 4) = 2 ∧ wordAt rFence 4 ≠ 0
        ∧ tnodeTile (wGlz rDresolve) (wordAt rDresolve 8) = true ∧ wordAt rDresolve 8 ≠ 0 ∧ byteField rDresolve 12 6 % 8 = 0)
      ∧ (byteField (rDraw 1) 20 4 = 1 ∧ (getGlz (wVerts (rDraw 1) tri) 7).done = 0 ∧ binLow (wVerts (rDraw 1) tri) 7 = false
        ∧ (glzRead (glzCount (wVerts (rDraw 1) tri) 7 0x0C0 1) 7 0x100 0 144).1 = true
        ∧ (triShape {} 8 (glzRead (glzCount (wVerts (rDraw 1) tri) 7 0x0C0 1) 7 0x100 0 144).2.1).isSome = true)
      ∧ ((glzRead (glzCount (wVerts (rSplat 1) [(44, 0x3F800000)]) 7 0x0C0 1) 7 0x100 0 48).1 = true
        ∧ (splatShape {} (glzRead (glzCount (wVerts (rSplat 1) [(44, 0x3F800000)]) 7 0x0C0 1) 7 0x100 0 48).2.1).isSome = true)
      ∧ (byteField rRayq 24 4 = 1 ∧ (glzRead (glzCount (wGlz rRayq) 7 0x0C8 1) 7 (wordAt rRayq 8) (byteField rRayq 12 6) 32).1 = true)
      ∧ (let s := rs [(.glz 7, 0x08C, 0x100), (.glz 7, 0x098, 2), (.glz 7, 0x09C, 1), (.glz 7, 0x0A0, 0)];
        glzLive s 7 = true ∧ 2 ≤ glzSize s 7 ∧ tnodeOk s (rawReg s (.glz 7) 0x08C) = true
          ∧ (glzTail s 7 + glzSize s 7 - glzHead s 7) % glzSize s 7 = 1
          ∧ (glzRead s 7 (rawReg s (.glz 7) 0x08C) (glzAddr s 7 + 32 * glzHead s 7) 32).1 = true) := by decide +kernel

/-- A MSG of one record for Glazier 7, whose queue holds the given number. -/
def Sys2Proof.Tests.pGlz : Packet := pkt opMSG 0x18B 0x500 0 32 (rec32 [6])
def Sys2Proof.Tests.wGmsg (en k : Nat) : State :=
  { rs [(.glz 7, 0x010, en)] with dies := [(1, { req := [pGlz] })], glzs := [(7, { q := List.replicate k [] })] }

theorem test_GlazierRecordsRun_msg :
    reqHead (wGmsg 1 1023) (.io (7 / 4)) opMSG = some pGlz ∧ epKind pGlz.dst = .glz ∧ dieGlz (7 / 4) pGlz = 7
      ∧ stopped (wGmsg 1 1023) (.glz 7) = false ∧ edgeCheck (wGmsg 1 1023) (.io (7 / 4)) pGlz = none ∧ pGlz.len ≠ 0
      ∧ (payload pGlz).length = 32 ∧ enabled (wGmsg 1 1023) (.glz 7) = true ∧ enabled (wGmsg 0 0) (.glz 7) = false
      ∧ (getGlz (wGmsg 1 1023) 7).q.length + 1 ≤ 1024 ∧ 1024 < (getGlz (wGmsg 1 1024) 7).q.length + 1 := by decide +kernel

/-- A fragment whose group 0 the program word w at 63 updates, register 1 being a. -/
def Sys2Proof.Tests.aFrag (mode : Nat) : Frag :=
  ⟨0, 0, 0, 1, List.replicate 8 0x3F800000, 0x3F800000, 0, [{ mode := mode, tnode := 0x100, pstart := 63 }], 0, 0, 0, none⟩
def Sys2Proof.Tests.wPp (w a : Nat) (st : Tab Word) : State :=
  { rs [(.glz 7, 0x084, 1), (.glz 7, 0x200 + 4 * 63, w)] with
    glzs := [(7, { frags := [aFrag 2], pp := some ⟨63, [0, BitVec.ofNat 32 a, 0, 0, 0, 0, 0, 0], st, false⟩ })] }
/-- An instruction of a pixel program: opcode, D 7, A 1, B 0 and the low bits. -/
def Sys2Proof.Tests.ppw (op low : Nat) : Nat := op * 2 ^ 27 + 7 * 2 ^ 24 + 2 ^ 21 + low

theorem test_PixelProgramsRun_met :
    (∀ op, op ∈ [0, 1, 2, 3, 4, 5, 6, 7, 8, 9, 10, 11, 12, 13, 15, 16] → (ppNow (wPp (ppw op 0) 0 []) 7 op).isSome = true)
      ∧ ((ppNow (wPp (ppw 0x0D 9) 0 []) 7 0x0D).isSome = true ∧ fld (BitVec.ofNat 32 (ppw 0x0D 9)) 15 0 = 9)
      ∧ (ppNow (wPp (ppw 0x0E 0) 0 []) 7 0x0E).isSome = true
      ∧ (∃ d v, (smpRead (wPp (ppw 0x0E 0) 0 []) 7 (aFrag 2) { mode := 2, tnode := 0x100, pstart := 63 }).1 = some d
        ∧ d[fld (BitVec.ofNat 32 (ppw 0x0E 0)) 1 0]? = some v)
      ∧ (Fv.lt (f32 0) (.fin false 0 0) = false ∧ Fv.lt (f32 0xBF800000) (.fin false 0 0) = true
        ∧ (aFrag 2).groups[(aFrag 2).next + 1]? = none) := by
  refine ⟨by decide +kernel, by decide +kernel, by decide +kernel, ⟨_, _, rfl, rfl⟩, by decide +kernel⟩

theorem test_FragmentsRetire_met :
    (∀ m, m = 1 ∨ m = 2 →
        let s : State := { State.reset with glzs := [(7, { frags := [aFrag m] })] }
        glzLive s 7 = true ∧ (getGlz s 7).frags = aFrag m :: [] ∧ (getGlz s 7).pp = none
          ∧ (aFrag m).groups[(aFrag m).next]? = some { mode := m, tnode := 0x100, pstart := 63 })
      ∧ { aFrag 1 with next := 1 }.groups[1]? = none
      ∧ (ppNow (wPp (ppw 0 0) 0 [(0, 1)]) 7 0).isSome = true := by
  refine ⟨?_, by decide +kernel, by decide +kernel⟩
  rintro m (rfl | rfl) <;> decide +kernel

/-! ## Scrutton and debug -/

/-- A bucket of THR 4 and WIN 1000 µs of kind 4 with one tile's level; Fuller compares. -/
def Sys2Proof.Tests.wScr (b : Bucket) : State :=
  { rs [(.scr, 0x120, 4), (.scr, 0x124, 1000), (.scr, 0x080, 1), (.scr, 0x130, 0)] with
    buckets := [(bktKey 4 9, b)], time := usTicks 10000 }

theorem test_BucketsAndRetirement_met :
    (writeTaken (wScr {}) .scr 0x094 (BitVec.ofNat 32 (4 + 9 * 256)) = true ∧ (getBkt (wScr {}) 4 9).retired = false
        ∧ (wScr {}).rlog.length < 32)
      ∧ writeTaken (wScr {}) .scr 0x0A4 1 = true
      ∧ (∀ win : Bool, writeTaken (rs []) .scr (0x100 + 8 * (4 % 8) + (if win then 4 else 0)) 7 = true ∧ (rs []).buckets = [])
      ∧ (let s := { wScr { level := 3 } with pending := [] }; writeTaken s .scr (0x100 + 8 * (4 % 8)) 3 = true
        ∧ s.buckets = [(bktKey (4 % 8) 9, ({ level := 3 } : Bucket))] ∧ fld (3 : Word) 15 0 ≠ 0 ∧ fld (3 : Word) 15 0 ≤ 3)
      ∧ (resourceExists (wScr {}) 4 9 = true ∧ leakNs (bktThr (wScr {}) 4) (bktWin (wScr {}) 4) ≠ 0)
      ∧ (rbit (wScr {}) .scr 0x080 0 = true
        ∧ (wScr {}).mgt.passAt + usTicks (1000 * (wScr {}).mgt.passMs) ≤ eTime (wScr {})
        ∧ (wScr {}).tkp.steps ≤ fullT (wScr {}) ∧ bktThr (wScr {}) 6 = 0
        ∧ diffSeen (wScr {}) (.route 3 56) = true ∧ diffUnused (wScr {}) (.route 3 56) = true
        ∧ diffSeen (wScr {}) (.route 3 55) = true ∧ diffUnused (wScr {}) (.route 3 55) = false
        ∧ diffUnrep (.route 3 55) = false) := by
  refine ⟨by decide +kernel, by decide +kernel, ?_, by decide +kernel, by decide +kernel, by decide +kernel⟩
  intro win; cases win <;> decide +kernel

/-- Tile 1 awaits the answer of a write whose time is up; it asks for lease 0, and a request waits at its L port. -/
def Sys2Proof.Tests.lateReq (dead : Option Nat) : MovReq :=
  ⟨5, 0, 0, .posted, pkt 0x03 0x100 0x80 0 32 [], 0, 0, 32, 1, [], 0, some 0, some 0, none, dead, false, false, false, 0⟩
def Sys2Proof.Tests.wLate (dead : Option Nat) : State :=
  { rt 1 { movReqs := [lateReq dead], leaseReq := [(0, 6, some 0)], wdog := 1,
              lreq := [pkt 0x00 0x80 0x100 0 32 []] } [(.til 1, 0x100, 0x20003)] with time := 2 ^ 31 }

theorem test_TimeoutsAndIsolation_met :
    (let s := wLate none; stopped s (.mov 1) = false ∧ (getTile s 1).movReqs = [lateReq none] ∧ (lateReq none).live = true
        ∧ (lateReq none).till = some 0 ∧ (0 ≤ eTime s ∧ s.tkp.steps ≤ fullT s) ∧ (getTile s 1).trb = []
        ∧ (getTile s 1).leaseHeld = [] ∧ rbit s (.mov 1) 0x010 1 = false
        ∧ (getTile s 1).movQ = [] ∧ (getTile s 1).movCur = none ∧ (getTile s 1).stageQ = [])
      ∧ (let s := wLate none; stopped s (.til 1) = false
        ∧ (getTile s 1).leaseReq.find? (fun e => e.1 == 0) = some (0, 6, some 0) ∧ leaseState s 1 0 = 1)
      ∧ (getTile (wLate (some 7)) 1).movReqs = [lateReq (some 7)] ∧ 7 ≤ eTime (wLate (some 7))
      ∧ (let s := wLate none; (getTile s 1).wdog ≠ 0 ∧ (getTile s 1).lreq ≠ [] ∧ (getTile s 1).stalled = none
        ∧ isolated s 1 = false ∧ (getTile s 1).reqAt + usTicks (getTile s 1).wdog ≤ eTime s) := by decide +kernel

/-- Link 1 is active and forwards waves; the package may be stopped, with one page halted. -/
def Sys2Proof.Tests.wWave (ctl : Nat) (st fz : Bool) (h : List (Nat × Nat)) : State :=
  { rs [(.llk 1, 0x084, 5), (.llk 1, 0x080, 4), (.dbgp, 0x080, ctl), (.seq 5, 0x010, 8),
      (.seq 5, 0x014, if h = [] then 0 else 4)] with dbg := { stopped := st, frozen := fz, cause := 1, haltAt := h } }

theorem test_StopAndFreezeWaves_met :
    (∀ b, b ∈ [1, 2, 4, 8] → fld (rawReg (wWave 0 (b == 2) (b == 8) []) .dbgp 0x080) 3 0 = 0
        ∧ writeTaken (wWave 0 (b == 2) (b == 8) []) .dbgp 0x080
          (rawReg (wWave 0 (b == 2) (b == 8) []) .dbgp 0x080 ||| BitVec.ofNat 32 b) = true)
      ∧ (linkUp (wWave 0 false false []) 1 = true ∧ rbit (wWave 0 false false []) (.llk 1) 0x080 2 = true)
      ∧ (let s := wWave 0 true false [(pageBase (.seq 5), 0)]; writeTaken s .dbgp 0x080 (rawReg s .dbgp 0x080 ||| 2) = true
        ∧ s.dbg.haltAt = [(pageBase (.seq 5), 0)] ∧ pageAt (pageBase (.seq 5)) = some (.seq 5))
      ∧ (fld (rawReg (wWave 0x100 false false []) .dbgp 0x080) 8 8 = 1)
      ∧ (let s := wWave 0 true false []; rbit s (.seq 5) 0x010 3 = true ∧ stopped s (.seq 5) = false
        ∧ pagePresent s (.seq 5) = true) := by
  refine ⟨?_, by decide +kernel, by decide +kernel, by decide +kernel, by decide +kernel⟩
  simp only [List.mem_cons, List.not_mem_nil, or_false]
  rintro b (rfl | rfl | rfl | rfl) <;> decide +kernel

/-- Tile 64 stopped, or isolated; tile 0 samples and traces with a full budget. -/
def Sys2Proof.Tests.wScan (st iso : Nat) : State :=
  rt 0 { obsTok := 32000 } [(.rtr 64, 0x014, st), (.seq 64, 0x014, st), (.cmp 64, 0x014, st), (.mov 64, 0x014, st),
    (.cmb 64, 0x014, st), (.til 64, 0x084, iso), (.dbgp, 0x0A0, 1), (.dbg 0, 0x010, 1), (.dbg 0, 0x0A0, 1), (.dbg 0, 0x080, 1),
    (.dbg 0, 0x098, 0x101)]

theorem test_SamplesAndScans_met :
    (rfld (wScan 0 0) (.dbg 0) 0x0A0 19 0 ≠ 0 ∧ enabled (wScan 0 0) (.dbg 0) = true ∧ tracing (wScan 0 0) 0 = true
        ∧ isolated (wScan 0 0) 0 = false
        ∧ rfld (wScan 0 0) (.dbg 0) 0x098 4 0 ≠ 0 ∧ rfld (wScan 0 0) (.dbg 0) 0x098 11 8 ≠ 0
        ∧ 5000 ≤ (getTile (wScan 0 0) 0).obsTok)
      ∧ rfld (wScan 0 0) .dbgp 0x0A0 7 0 = 1
      ∧ scanOpen (wScan 0 0) 64 = false
      ∧ (scanOpen (wScan 4 0) 64 = true ∧ isolated (wScan 4 0) 64 = false ∧ (0x2FFFC : BitVec 25).toNat % 0x80000 / 4 * 4 < 0x30000)
      ∧ (scanOpen (wScan 4 2) 64 = true ∧ isolated (wScan 4 2) 64 = true ∧ (0x57FFC : BitVec 25).toNat % 0x80000 / 4 * 4 < 0x58000)
      ∧ (hostUp (wHost []) = true ∧ 0x2000004 % 4 = 0 ∧ barAt (wHost []) 2 0x2000004 = .scan 4) := by decide +kernel
end

section
/-! PROOFS. Host writes with some byte enables or none (R102): what their event leaves in the registers of a page. -/

namespace Sys2Proof.Machine

/-! ## Registers by page -/

/-- Every register outside the listed pages reads as before. -/
def RegsButPages (s u : State) (ps : List Page) : Prop :=
  ∀ q o, (∀ p ∈ ps, regKey q o / 0x1000 ≠ pageBase p / 0x1000) → rawReg u q o = rawReg s q o

/-- The page number of a register's key is that of its page. -/
theorem regKey_div (p : Page) (o : Nat) (h : o < 0x1000) : regKey p o / 0x1000 = pageBase p / 0x1000 := by
  have := pageBase_mod p
  simp only [regKey]; omega

theorem RegsButPages.refl (s : State) (ps : List Page) : RegsButPages s s ps := fun _ _ _ => rfl

theorem RegsButPages.trans {s u v : State} {ps : List Page} (h : RegsButPages s u ps) (h' : RegsButPages u v ps) :
    RegsButPages s v ps := fun q o k => (h' q o k).trans (h q o k)

theorem RegsButPages.weaken {s u : State} {ps qs : List Page} (h : RegsButPages s u ps) (hp : ∀ p ∈ ps, p ∈ qs) :
    RegsButPages s u qs := fun q o k => h q o (fun p m => k p (hp p m))

theorem regsButPages_ite {s u v : State} {ps : List Page} {c : Prop} [Decidable c] (h : RegsButPages s u ps)
    (h' : RegsButPages s v ps) : RegsButPages s (if c then u else v) ps := by
  split <;> assumption

/-- An update of what is no register. -/
theorem regsButPages_of_regs {s u : State} (ps : List Page) (h : u.regs = s.regs) (hf : u.fuses = s.fuses) :
    RegsButPages s u ps := fun q o _ => rawReg_congr h hf q o

theorem regsButPages_putReg (s : State) (p : Page) (o : Nat) (v : Word) (h : o < 0x1000) :
    RegsButPages s (putReg s p o v) [p] :=
  fun q r k => rawReg_putReg_ne s p q o r v (fun e => k p (by simp) (e ▸ regKey_div p o h))

/-! ## What events leave in registers -/

theorem msixRequest_regs (s : State) (v : Nat) : (msixRequest s v).regs = s.regs := by
  unfold msixRequest msixSend
  dsimp only
  repeat' split
  all_goals rfl

/-- Interrupt messages change no register. -/
theorem irqMessage_regs (s : State) (p : Page) : (irqMessage s p).regs = s.regs := by
  unfold irqMessage
  dsimp only
  have k : (if rbit s p 0x02C 16 then msixRequest s (rfld s p 0x02C 10 0) else s).regs = s.regs := by
    split
    · exact msixRequest_regs _ _
    · rfl
  split <;> exact k

@[simp] theorem rawReg_irqMessage (s : State) (p q : Page) (o : Nat) : rawReg (irqMessage s p) q o = rawReg s q o :=
  rawReg_congr (irqMessage_regs s p) (by rw [(events_irqMessage s p []).1]) q o

/-- A ring entry is written to the ring and its pointer. -/
theorem rawReg_record (s : State) (p : Page) (code : Nat) (tent : Bool) (layer oper : Half) (detail : Word) (o : Nat)
    (h : o < 0xE00) (h' : o ≠ 0x054) : rawReg (record s p code tent layer oper detail) p o = rawReg s p o := by
  unfold record
  dsimp only
  split
  · rfl
  · rw [rawReg_putReg_off _ _ _ _ _ h']
    iterate 4 rw [rawReg_putReg_off _ _ _ _ _ (by omega)]

theorem regsButPages_record (s : State) (p : Page) (code : Nat) (tent : Bool) (layer oper : Half) (detail : Word) :
    RegsButPages s (record s p code tent layer oper detail) [p] := by
  have hb : rfld s p 0x054 4 0 < 32 := fld_lt _ 4 0
  unfold record
  dsimp only
  have e (x : State) (o : Nat) (w : Word) (h : o < 0x1000) := regsButPages_putReg x p o w h
  exact regsButPages_ite (.refl _ _) (((((e _ _ _ (by omega)).trans (e _ _ _ (by omega))).trans (e _ _ _ (by omega))).trans
    (e _ _ _ (by omega))).trans (e _ _ _ (by omega)))

/-- PG_ISR bits that an event sets. -/
theorem rawReg_isrCore_isr (s : State) (p : Page) (mask : Word) (lo : Half × Half) :
    rawReg (isrCore s p mask lo) p 0x020 = rawReg s p 0x020 ||| mask := by
  unfold isrCore
  dsimp only
  split
  · rw [rawReg_record _ _ _ _ _ _ _ _ (by decide) (by decide), rawReg_irqMessage, rawReg_putReg_same]
  · rw [rawReg_putReg_same]

/-- PG_ISR, the ring and its pointer are all that an interrupt changes on its page. -/
theorem rawReg_isrCore (s : State) (p : Page) (mask : Word) (lo : Half × Half) (o : Nat) (h : o < 0xE00)
    (h' : o ≠ 0x054) (hi : o ≠ 0x020) : rawReg (isrCore s p mask lo) p o = rawReg s p o := by
  unfold isrCore
  dsimp only
  split
  · rw [rawReg_record _ _ _ _ _ _ _ _ h h', rawReg_irqMessage, rawReg_putReg_off _ _ _ _ _ hi]
  · rw [rawReg_putReg_off _ _ _ _ _ hi]

theorem regsButPages_isrCore (s : State) (p : Page) (mask : Word) (lo : Half × Half) :
    RegsButPages s (isrCore s p mask lo) [p] := by
  unfold isrCore
  dsimp only
  have k := regsButPages_putReg s p 0x020 (rawReg s p 0x020 ||| mask) (by decide)
  have m (x : State) : RegsButPages x (irqMessage x p) [p] := fun q o _ => rawReg_irqMessage x p q o
  exact regsButPages_ite ((k.trans (m _)).trans (regsButPages_record _ _ _ _ _ _ _)) k

theorem rawReg_foldl {α : Type} {f : State → α → State} {q : Page} {o : Nat}
    (hf : ∀ x e, rawReg (f x e) q o = rawReg x q o) (l : List α) (s : State) : rawReg (l.foldl f s) q o = rawReg s q o := by
  induction l generalizing s with
  | nil => rfl
  | cons e l ih => rw [List.foldl_cons, ih, hf]

/-- The stop wave in the sidebands changes no register. -/
theorem rawReg_sendWave (s : State) (fr : Option Nat) (code : BitVec 7) (q : Page) (o : Nat) :
    rawReg (sendWave s fr code) q o = rawReg s q o :=
  rawReg_foldl (fun x n => by split <;> rfl) _ s

/-- A stop trigger changes the registers of the package's DBG page alone. -/
theorem regsButPages_stopTrigger (s : State) (cause : Nat) (src : Word) (fr : Option Nat) :
    RegsButPages s (stopTrigger s cause src fr) [.dbgp] := by
  have d (x : State) (o : Nat) (w : Word) (h : o < 0x1000) : RegsButPages x (putReg x .dbgp o w) [.dbgp] :=
    regsButPages_putReg x .dbgp o w h
  unfold stopTrigger
  extract_lets s1 a b s2 dbg s3 s4
  have k1 : RegsButPages s s1 [.dbgp] := d _ _ _ (by decide)
  have ka : RegsButPages s1 a [.dbgp] := (d s1 0x084 _ (by decide)).trans (d _ 0x084 _ (by decide))
  have kb : RegsButPages a b [.dbgp] := d _ _ _ (by decide)
  have k2 : RegsButPages s s2 [.dbgp] :=
    regsButPages_ite k1 ((((k1.trans ka).trans kb).trans (d b 0x08C _ (by decide))).trans (d _ 0x090 _ (by decide)))
  have k3 : RegsButPages s2 s3 [.dbgp] := regsButPages_of_regs _ rfl rfl
  have k4 : RegsButPages s3 s4 [.dbgp] := regsButPages_ite (regsButPages_of_regs _ rfl rfl) (.refl _ _)
  have kw : RegsButPages s4 (sendWave s4 fr 1) [.dbgp] := fun q o _ => rawReg_sendWave s4 fr 1 q o
  exact regsButPages_ite k2 ((((k2.trans k3).trans k4).trans kw).trans (regsButPages_isrCore _ _ _ _))

/-- A match of a ring entry changes registers of the tile's DBG page and the package's alone. -/
theorem regsButPages_silMatch {p : Page} {t u : Nat} (hu : silUnit p = some (t, u)) (s : State) (code : Nat)
    (layer oper : Half) : RegsButPages s (silMatch s p code layer oper) [.dbg t, .dbgp] := by
  have k : RegsButPages s (isrCore s (.dbg t) 8) [.dbg t, .dbgp] :=
    (regsButPages_isrCore s (.dbg t) 8 _).weaken (by simp)
  have k' (x : State) : RegsButPages x (stopTrigger x 5 (tileNode x t 0) none) [.dbg t, .dbgp] :=
    (regsButPages_stopTrigger x 5 _ none).weaken (by simp)
  unfold silMatch
  rw [hu]
  exact regsButPages_ite (regsButPages_ite (k.trans (k' _)) k) (.refl _ _)

/-! ## Captures on a page that exists -/

/-- The page of a unit lies in its tile's block at the unit's own number (Table 3.6, R756). -/
theorem pageBase_of_silUnit {p : Page} {t u : Nat} (hu : silUnit p = some (t, u)) :
    pageBase p = t * 0x8000 + u * 0x1000 ∧ u < 6 := by
  cases p <;> simp_all [silUnit, pageBase] <;> omega

/-- The tile of a unit's page that exists is one of the 16,384. -/
theorem tile_lt_of_silUnit {s : State} {p : Page} {t u : Nat} (hp : pagePresent s p = true)
    (hu : silUnit p = some (t, u)) : t < 16384 := by
  cases p <;> simp_all [silUnit, pagePresent]

/-- A page whose entries a DBG page matches lies apart from that page and from the package's. -/
theorem pageBase_ne_of_silUnit {s : State} {p : Page} {t u : Nat} (hp : pagePresent s p = true)
    (hu : silUnit p = some (t, u)) : ∀ q ∈ [Page.dbg t, .dbgp], pageBase p / 0x1000 ≠ pageBase q / 0x1000 := by
  have ht := tile_lt_of_silUnit hp hu
  obtain ⟨hb, hu6⟩ := pageBase_of_silUnit hu
  simp only [List.mem_cons, List.not_mem_nil, or_false]
  rintro q (rfl | rfl)
  · rw [hb]; simp only [pageBase]; omega
  · rw [hb]; simp only [pageBase]; omega

@[simp] theorem rawReg_takeFree (s : State) (p : Page) (o : Nat) : rawReg (takeFree s).2 p o = rawReg s p o := rfl
@[simp] theorem rbit_takeFree (s : State) (p : Page) (o b : Nat) : rbit (takeFree s).2 p o b = rbit s p o b := rfl

/-- A further error sets OVF and leaves the capture as it is (R126). -/
theorem captureOpen_of_valid {s : State} {p : Page} (hv : rbit s p 0x030 31 = true) (quiet : Bool) (code : Nat)
    (tag layer oper : Half) (cls : Option Nat) :
    captureOpen quiet s p code tag layer oper cls 0 = putBit (takeFree s).2 p 0x030 30 true := by
  simp [captureOpen, captureCore, hv]

section Present
variable {z : State} {p : Page} (hp : pagePresent z p = true)
include hp

/-- The match of an entry changes no register of the page that the entry stands on. -/
theorem rawReg_silMatch (s : State) (code : Nat) (layer oper : Half) (o : Nat) (h : o < 0x1000) :
    rawReg (silMatch s p code layer oper) p o = rawReg s p o := by
  cases hu : silUnit p with
  | none => simp [silMatch, hu]
  | some tu =>
    apply regsButPages_silMatch hu
    rw [regKey_div p o h]
    exact pageBase_ne_of_silUnit hp hu

/-- An event writes only the ring and its pointer on its page. -/
theorem rawReg_sillage (s : State) (code : Nat) (tent : Bool) (layer oper : Half) (detail : Word) (o : Nat)
    (h : o < 0xE00) (h' : o ≠ 0x054) : rawReg (sillage s p code tent layer oper detail) p o = rawReg s p o := by
  unfold sillage
  split
  · rw [rawReg_silMatch hp _ _ _ _ _ (by omega), rawReg_record _ _ _ _ _ _ _ _ h h']
  · rfl

/-- An interrupt with its ring entries reads on its page as the interrupt alone. -/
theorem rawReg_isrSet (s : State) (mask : Word) (lo : Half × Half) (o : Nat) (h : o < 0x1000) :
    rawReg (isrSet s p mask lo) p o = rawReg (isrCore s p mask lo) p o := by
  unfold isrSet
  dsimp only
  split
  · rw [rawReg_silMatch hp _ _ _ _ _ h]
  · rfl

/-- A first error leaves its page by an interrupt, with PG_ELOG0 written and PG_ISR as it was before (R126). -/
theorem captureOpen_first {s : State} (hv : rbit s p 0x030 31 = false) (quiet : Bool) (code : Nat)
    (tag layer oper : Half) (bits : Word) :
    ∃ x, captureOpen quiet s p code tag layer oper none bits = isrSet x p (isrMask 31 ||| bits) (layer, oper)
      ∧ rawReg x p 0x030 = BitVec.ofNat 32 (2 ^ 31 + code * 65536 + tag.toNat)
      ∧ rawReg x p 0x020 = rawReg s p 0x020 := by
  simp only [captureOpen, captureCore, rbit_takeFree, hv, Bool.false_eq_true, if_false, errStop]
  refine ⟨_, rfl, ?_, ?_⟩
  · split
    · simp
    · simp [rawReg_sillage hp]
  · split
    · simp
    · simp [rawReg_sillage hp]

/-- PG_ELOG0 after a first error. -/
theorem rawReg_captureOpen_elog {s : State} (hv : rbit s p 0x030 31 = false) (quiet : Bool) (code : Nat)
    (tag layer oper : Half) (bits : Word) :
    rawReg (captureOpen quiet s p code tag layer oper none bits) p 0x030
      = BitVec.ofNat 32 (2 ^ 31 + code * 65536 + tag.toNat) := by
  obtain ⟨x, hx, helog, -⟩ := captureOpen_first hp hv quiet code tag layer oper bits
  rw [hx, rawReg_isrSet hp _ _ _ _ (by decide), rawReg_isrCore _ _ _ _ _ (by decide) (by decide) (by decide), helog]

/-- PG_ISR after a first error: ELOG and the bits of the same event are set. -/
theorem rawReg_captureOpen_isr {s : State} (hv : rbit s p 0x030 31 = false) (quiet : Bool) (code : Nat)
    (tag layer oper : Half) (bits : Word) :
    rawReg (captureOpen quiet s p code tag layer oper none bits) p 0x020 = rawReg s p 0x020 ||| (isrMask 31 ||| bits) := by
  obtain ⟨x, hx, -, hisr⟩ := captureOpen_first hp hv quiet code tag layer oper bits
  rw [hx, rawReg_isrSet hp _ _ _ _ (by decide), rawReg_isrCore_isr, hisr]

end Present

/-! ## Partial writes -/

/-- A register is reached only on a page that the assembly has. -/
theorem pagePresent_of_writeAt {s : State} {p : Page} {off : Nat} {d : RegDef} (hd : writeAt s p off = some d) :
    pagePresent s p = true := by
  unfold writeAt at hd
  split at hd
  · cases hd
  · next h =>
    simp only [not_or, Bool.not_eq_false, pageReached, Bool.and_eq_true] at h
    exact h.1.1.1

/-- A discarded write that collides with no hardware update changes nothing but what its error leaves. -/
@[simp] theorem hwAlone_none (s : State) (p : Page) (off : Nat) (d : RegDef) : hwAlone s p off d none = s := by
  simp +contextual [hwAlone, hwMaybe, lineRise]

/-- A host write with no byte enable does nothing (R102). -/
theorem regWrite_host_unselected (s : State) (p : Page) (hw : Option HwUpd) (off : Nat) (v : Word) :
    regWrite s { src := .host, be := 0, hw := hw } p off v = (0, s) := by
  unfold regWrite
  cases writeAt s p off with
  | none => rfl
  | some d => simp

/-- A host write with some byte enables is the error PARTIAL (R102). -/
theorem regWrite_host_partial {s : State} {p : Page} {off : Nat} {d : RegDef} (hd : writeAt s p off = some d) {be : BitVec 4}
    (h0 : be ≠ 0) (hF : be ≠ 0xF) (v : Word) :
    regWrite s { src := .host, be := be } p off v = (0, captureOpen false s p 3 0 0 0 none 0) := by
  simp only [regWrite, hd, true_and]
  rw [if_neg h0, if_pos hF, hwAlone_none]
  rfl

/-- What a register write command answers. -/
theorem exec_registerWrite (src : Src) (p : Page) (off : Nat) (v : Word) (be : BitVec 4) (hw : Option HwUpd) (s : State) :
    exec (.registerWrite src p off v be hw) s = .next (regWrite s { src := src, be := be, hw := hw } p off v).2 := rfl

/-- Settles O7: a partial write of the host is a capture of code 3, first or further (R102, R126). -/
theorem partialHostWrites : Obligations.PartialHostWrites := by
  intro s p off v be
  refine ⟨fun hw => ?_, fun d hd h0 hF => ?_⟩
  · rw [exec_registerWrite, regWrite_host_unselected]
  · have hp := pagePresent_of_writeAt hd
    rw [exec_registerWrite, regWrite_host_partial hd h0 hF]
    refine ⟨fun hv => ⟨_, rfl, ?_, ?_, ?_, ?_⟩, fun hv => ⟨_, rfl, ?_, ?_⟩⟩
    · rw [rfld, rawReg_captureOpen_elog hp hv]; decide
    · rw [rbit, rfld, rawReg_captureOpen_elog hp hv]; decide
    · rw [rawReg_captureOpen_isr hp hv]; rfl
    · exact events_captureOpen _ _ _ _ _ _ _ _ _ _
    · rw [captureOpen_of_valid hv]; exact rbit_putBit_same _ _ _ _ _ (by decide)
    · rw [captureOpen_of_valid hv]
      exact (regsBut_of_regs (u := (takeFree s).2) _ rfl rfl).trans (regsBut_putBit _ _ _ _ _ _ (by simp))

end Sys2Proof.Machine
end

section
/-! PROOFS. The waits of Chandler (sections 4.3, 4.4 and 4.9). On a tile that exists, within four contexts and 64 semaphores,
WAIT, WAITSEL and FENCE do what the statements on them say, clause by clause. The statements bound neither contexts nor
semaphores, and fail for a context whose STAT lies at a semaphore's register. -/

namespace Sys2Proof.Machine

/-! ## Registers that no event writes -/

/-- A register outside the listed ones and those of events is as before. -/
theorem TileEvents.rawReg_eq {s u : State} {ks : List Nat} {t : Nat} (h : TileEvents s u ks t) {p : Page} {o : Nat}
    (hk : regKey p o ∉ ks) (he : EvKey (regKey p o) = false) : rawReg u p o = rawReg s p o := h.2.2.2 p o hk he

theorem Events.rawReg_eq {s u : State} {ks : List Nat} (h : Events s u ks) {p : Page} {o : Nat} (hk : regKey p o ∉ ks)
    (he : EvKey (regKey p o) = false) : rawReg u p o = rawReg s p o := h.2.2 p o hk he

/-- Events of Chandler and MOV are kept in the header and the ring of their pages. -/
theorem evKey_eq_false {p : Page} {o : Nat} (hp : pageBase p / 0x1000 ≠ 0x20303) (ho : o < 0xE00)
    (hn : o ∉ [0x020, 0x030, 0x034, 0x038, 0x03C, 0x040, 0x054]) : EvKey (regKey p o) = false := by
  have hb := pageBase_mod p
  have hd : regKey p o / 0x1000 ≠ 0x20303 := by rwa [regKey_div p o (by omega)]
  have hm : regKey p o % 0x1000 = o := by simp only [regKey]; omega
  simp only [EvKey, hm, Bool.or_eq_false_iff, beq_eq_false_iff_ne]
  refine ⟨⟨hd, by simpa using ho⟩, ?_⟩
  simpa using hn

theorem evKey_seq {t o : Nat} (ho : 0x100 ≤ o) (h : o < 0xE00) : EvKey (regKey (.seq t) o) = false :=
  evKey_eq_false (by simp only [pageBase]; omega) h (by simp; omega)

theorem evKey_mov {t o : Nat} (ht : t < 16384) (ho : 0x060 ≤ o) (h : o < 0xE00) : EvKey (regKey (.mov t) o) = false :=
  evKey_eq_false (by simp only [pageBase]; omega) h (by simp; omega)

theorem regKey_inj {p : Page} {o r : Nat} : regKey p o = regKey p r ↔ o = r := by simp [regKey]

/-- The keys of STAT of context lc and of other registers of its page. -/
def waitKeys (t lc : Nat) (l : List Nat) : List Nat := (lcStat lc :: l).map (regKey (.seq t))

theorem mem_waitKeys {t lc o : Nat} {l : List Nat} :
    regKey (.seq t) o ∈ waitKeys t lc l ↔ o = lcStat lc ∨ o ∈ l := by
  simp only [waitKeys, List.mem_map, List.mem_cons, regKey_inj, exists_eq_right]

theorem tileEvents_modCtx (s : State) (t lc : Nat) (f : Ctx → Ctx) (ks : List Nat) :
    TileEvents s (modCtx s t lc f) ks t :=
  tileEvents_of (onlyTile_modCtx s t lc f) (fun _ _ _ => rfl)

theorem tileEvents_putReg (s : State) (t : Nat) (p : Page) (o : Nat) (v : Word) {ks : List Nat} (h : regKey p o ∈ ks) :
    TileEvents s (putReg s p o v) ks t := (events_putReg s p o v ks (.inl h)).tile t

/-! ## Semaphore operations of waits (R157, R158, R161) -/

theorem semOp_set (s : State) (t lc i : Nat) (v : Word) : semOp s t lc i 0 v = putReg s (.seq t) (semOff i) v := by
  simp [semOp]

/-- A subtraction that does not go below 0 leaves SEMSAT as it is. -/
theorem semOp_sub_of_le {s : State} {t i : Nat} {v : Word} (h : v.toNat ≤ (getSem s t i).toNat) (lc : Nat) :
    semOp s t lc i 2 v = putReg s (.seq t) (semOff i) (getSem s t i - v) := by
  have hv : BitVec.ofNat 32 ((getSem s t i).toNat - v.toNat) = getSem s t i - v := by
    apply BitVec.eq_of_toNat_eq
    rw [BitVec.toNat_sub_of_le (BitVec.le_def.2 h), BitVec.toNat_ofNat]
    exact Nat.mod_eq_of_lt (by omega)
  simp [semOp, Nat.not_lt.2 h, hv]

/-! ## When a wait holds, and what it writes then (R161, R163 to R165, R169, R170) -/

/-- The semaphore after a WAIT whose relation holds. -/
def semWaited (s : State) (t i : Nat) (v : Word) (dec : Bool) : State :=
  if dec then putReg s (.seq t) (semOff i) (getSem s t i - v) else s

theorem waitTry_sem {s : State} {t i rel : Nat} {v : Word} {dec : Bool} (hd : dec = true → rel = 3)
    (h : relHolds rel (getSem s t i) v = true) (lc : Nat) :
    waitTry s t lc (.sem i rel v dec) = some (semWaited s t i v dec) := by
  cases dec with
  | false => simp [waitTry, h, semWaited]
  | true =>
    obtain rfl := hd rfl
    have hle : v.toNat ≤ (getSem s t i).toNat := by simpa [relHolds] using h
    simp [waitTry, h, semWaited, semOp_sub_of_le hle]

theorem waitTry_sem_unmet {s : State} {t i rel : Nat} {v : Word} (h : relHolds rel (getSem s t i) v = false) (lc : Nat)
    (dec : Bool) : waitTry s t lc (.sem i rel v dec) = none := by simp [waitTry, h]

/-- Queue n of a MASK is non-empty. -/
def selReady (s : State) (t mask n : Nat) : Bool := mask / 2 ^ n % 2 == 1 && rqNonEmpty s t n

/-- The queue at which the selection of a WAITSEL begins. -/
def selFrom (s : State) (t lc : Nat) (rot : Bool) : Nat :=
  if rot then (rfld s (.seq t) (0x10C + 0x40 * lc) 3 0 + 1) % 16 else 0

/-- The number of the queue taken goes to the semaphore, and to LAST with ROT (R164, R165). -/
def selTaken (s : State) (t lc : Nat) (rot : Bool) (d n : Nat) : State :=
  let s1 := putReg s (.seq t) (semOff d) (BitVec.ofNat 32 n)
  if rot then putFld s1 (.seq t) (0x10C + 0x40 * lc) 3 0 n else s1

/-- The first non-empty queue of a MASK from where the selection begins. -/
def selFind (s : State) (t lc mask : Nat) (rot : Bool) : Option Nat :=
  ((List.range 16).map (fun i => (selFrom s t lc rot + i) % 16)).find? (selReady s t mask)

theorem waitTry_sel (s : State) (t lc : Nat) (mask : BitVec 16) (rot : Bool) (d : Nat) :
    waitTry s t lc (.sel mask rot d) = (selFind s t lc mask.toNat rot).map (selTaken s t lc rot d) := by
  simp only [waitTry, semOp_set]
  change (match selFind s t lc mask.toNat rot with
    | none => none
    | some n => some (selTaken s t lc rot d n)) = _
  cases selFind s t lc mask.toNat rot <;> rfl

theorem selFind_eq_some {s : State} {t lc mask k : Nat} {rot : Bool} (hk : k < 16)
    (hr : selReady s t mask ((selFrom s t lc rot + k) % 16) = true)
    (hf : ∀ j, j < k → selReady s t mask ((selFrom s t lc rot + j) % 16) = false) :
    selFind s t lc mask rot = some ((selFrom s t lc rot + k) % 16) := by
  have hfind : (List.range 16).find? (selReady s t mask ∘ fun i => (selFrom s t lc rot + i) % 16) = some k := by
    rw [List.find?_range_eq_some]
    exact ⟨hr, List.mem_range.2 hk, fun j hj => by simp [hf j hj]⟩
  rw [selFind, List.find?_map, hfind]
  rfl

theorem selFind_eq_none {s : State} {t mask : Nat} (h : ∀ n, n < 16 → selReady s t mask n = false) (lc : Nat)
    (rot : Bool) : selFind s t lc mask rot = none := by
  rw [selFind, List.find?_eq_none]
  simp only [List.mem_map, List.mem_range]
  rintro n ⟨i, -, rfl⟩
  simp [h _ (Nat.mod_lt _ (by decide : 0 < 16))]

/-- An engine that a FENCE marks holds a command of the context. -/
def fenceBusy (x : Tile) (lc : Nat) (a b c : Bool) : Bool := (a && inCmp x lc) || (b && inMov x lc) || (c && inCmb x lc)

theorem waitTry_fence_busy {s : State} {t lc : Nat} {a b c : Bool} (h : fenceBusy (getTile s t) lc a b c = true) :
    waitTry s t lc (.fence a b c) = none := by
  simp only [fenceBusy] at h
  simp [waitTry, h]

/-- A FENCE completes; one that marks MOV takes over MOV_LCn_STAT.FAIL (R170). -/
def fenceDone (s : State) (t lc : Nat) (mov : Bool) : State :=
  if mov then
    let fail := rbit s (.mov t) (0x0A0 + 4 * lc) 0
    let s1 := putBit (putBit s (.mov t) (0x0A0 + 4 * lc) 0 false) (.seq t) (lcStat lc) 3 fail
    let c := getCtx s t lc
    if fail then sillage s1 (.seq t) 0x18 false c.layer c.oper (BitVec.ofNat 32 lc) else s1
  else s

theorem waitTry_fence_done {s : State} {t lc : Nat} {a b c : Bool} (h : fenceBusy (getTile s t) lc a b c = false) :
    waitTry s t lc (.fence a b c) = some (fenceDone s t lc b) := by
  simp only [fenceBusy] at h
  simp only [waitTry, h, Bool.false_eq_true, if_false, fenceDone]
  cases b <;> rfl

/-! ## What a wait that holds writes -/

theorem semOff_ne_lcStat {lc : Nat} (hlc : lc < 4) (i : Nat) : lcStat lc ≠ semOff i := by
  simp only [lcStat, semOff]; omega

theorem tileEvents_semWaited (s : State) (t lc i : Nat) (v : Word) (dec : Bool) :
    TileEvents s (semWaited s t i v dec) (waitKeys t lc [semOff i]) t := by
  cases dec with
  | false => exact .refl _ _ _
  | true => exact tileEvents_putReg s t _ _ _ (mem_waitKeys.2 (by simp))

theorem getSem_semWaited (s : State) (t i : Nat) (v : Word) (dec : Bool) :
    getSem (semWaited s t i v dec) t i = if dec then getSem s t i - v else getSem s t i := by
  cases dec with
  | false => rfl
  | true => exact rawReg_putReg_same s (.seq t) (semOff i) _

theorem tileEvents_selTaken (s : State) (t lc : Nat) (rot : Bool) (d n : Nat) :
    TileEvents s (selTaken s t lc rot d n) (waitKeys t lc [semOff d, 0x10C + 0x40 * lc]) t := by
  have hsem := tileEvents_putReg s t (.seq t) (semOff d) (BitVec.ofNat 32 n)
    (ks := waitKeys t lc [semOff d, 0x10C + 0x40 * lc]) (mem_waitKeys.2 (by simp))
  cases rot with
  | false => exact hsem
  | true => exact hsem.trans (tileEvents_putReg _ t _ _ _ (mem_waitKeys.2 (by simp)))

/-! ## A context goes on -/

/-- What a context that a wait does not hold, or no longer, changes beside what the wait writes. -/
structure GoesOn (s u : State) (t lc : Nat) : Prop where
  run : lcState u t lc = 1
  fencef : rbit u (.seq t) (lcStat lc) 3 = rbit s (.seq t) (lcStat lc) 3
  frame : TileEvents s u (waitKeys t lc []) t

/-- At issue (log 52): the context stays as it is. -/
theorem payPenalty_goesOn {s : State} {t lc : Nat} (h : lcState s t lc = 1) : GoesOn s (payPenalty s t) t lc where
  run := h
  fencef := rfl
  frame := tileEvents_of (onlyTile_payPenalty s t) (fun _ _ _ => rfl)

section Context
variable {lc : Nat} (hlc : lc < 4)
include hlc

theorem evKey_lcStat (t : Nat) : EvKey (regKey (.seq t) (lcStat lc)) = false :=
  evKey_seq (by simp only [lcStat]; omega) (by simp only [lcStat]; omega)

/-- STAT after an event of Chandler. -/
theorem rawReg_sillage_stat (s : State) (t code : Nat) (layer oper : Half) (v : Word) :
    rawReg (sillage s (.seq t) code false layer oper v) (.seq t) (lcStat lc) = rawReg s (.seq t) (lcStat lc) :=
  (events_sillage s (.seq t) code false layer oper v []).rawReg_eq (by simp) (evKey_lcStat hlc t)

/-- The context enters a state: of its registers STAT.STATE alone changes. -/
theorem lcSetState_event (s : State) (t st code : Nat) (f : Ctx → Ctx) (layer oper : Half) (v : Word) :
    let u := sillage (lcSetState (modCtx s t lc f) t lc st) (.seq t) code false layer oper v
    lcState u t lc = st % 8 ∧ rbit u (.seq t) (lcStat lc) 3 = rbit s (.seq t) (lcStat lc) 3
      ∧ TileEvents s u (waitKeys t lc []) t := by
  intro u
  have hstat : rawReg u (.seq t) (lcStat lc) = rawReg (lcSetState (modCtx s t lc f) t lc st) (.seq t) (lcStat lc) :=
    rawReg_sillage_stat hlc _ t _ _ _ _
  refine ⟨?_, ?_, ?_⟩
  · rw [lcState, rfld, hstat]
    exact lcState_lcSetState _ t lc st
  · rw [rbit, rfld, hstat]
    exact congrArg (· == 1)
      (rfld_putFld_ne _ (.seq t) (lcStat lc) 2 0 st 3 3 (by decide) (by decide) (by decide) (by decide))
  · exact ((tileEvents_modCtx s t lc f _).trans (tileEvents_putReg _ t _ _ _ (mem_waitKeys.2 (.inl rfl)))).trans
      ((events_sillage _ _ _ _ _ _ _ _).tile t)

/-- Later: the context leaves WAIT. -/
theorem waitLeave_goesOn (s : State) (t : Nat) : GoesOn s (waitLeave s t lc) t lc := by
  obtain ⟨hrun, hbit, hframe⟩ := lcSetState_event hlc s t 1 0x17 (fun c => { c with wait := none })
    (getCtx s t lc).layer (getCtx s t lc).oper (BitVec.ofNat 32 lc)
  exact ⟨hrun, hbit, hframe⟩

/-- A wait that holds its context: WAIT, and nothing written but STAT. -/
theorem waitIssue_holds {s : State} {t : Nat} {w : WaitOn} (h : waitTry s t lc w = none) (us : Nat) (layer oper : Half) :
    lcState (waitIssue s t lc w us layer oper) t lc = 2
      ∧ TileEvents s (waitIssue s t lc w us layer oper) (waitKeys t lc []) t := by
  simp only [waitIssue, h]
  obtain ⟨hst, -, hframe⟩ := lcSetState_event hlc s t 2 0x16
    (fun c => { c with wait := some ⟨w, if us = 0 then none else some (eTime s + usTicks us), layer, oper⟩ })
    layer oper (BitVec.ofNat 32 lc)
  exact ⟨hst, hframe⟩

end Context

theorem waitIssue_goesOn {s s' : State} {t lc : Nat} {w : WaitOn} (h : waitTry s t lc w = some s') (us : Nat)
    (layer oper : Half) : waitIssue s t lc w us layer oper = s' := by simp [waitIssue, h]

section Waiting
variable {s : State} {t lc : Nat} {y : Waiting} (hst : lcState s t lc = 2) (hr : seqRuns s t = true)
  (hy : (getCtx s t lc).wait = some y) {kind : WaitOn → Bool} (hk : kind y.what = true)
include hst hr hy hk

theorem waitEnd_goesOn {s' : State} (h : waitTry s t lc y.what = some s') : waitEnd s t lc kind = waitLeave s' t lc := by
  simp [waitEnd, hst, hr, hy, hk, h]

theorem waitEnd_holds (h : waitTry s t lc y.what = none) : waitEnd s t lc kind = s := by
  simp [waitEnd, hst, hr, hy, hk, h]

end Waiting

/-! ## What stands after a wait -/

theorem regKey_stat_ne_mov (t lc : Nat) : regKey (.seq t) (lcStat lc) ≠ regKey (.mov t) (0x0A0 + 4 * lc) := by
  simp only [regKey, pageBase, lcStat]; omega

section Written
variable {s u : State} {t lc : Nat} (hlc : lc < 4)
include hlc

theorem lcState_semWaited (s : State) (t i : Nat) (v : Word) (dec : Bool) :
    lcState (semWaited s t i v dec) t lc = lcState s t lc := by
  cases dec with
  | false => rfl
  | true => exact congrArg (fld · 2 0) (rawReg_putReg_off s _ _ _ _ (semOff_ne_lcStat hlc i))

theorem rawReg_selTaken_stat (s : State) (t : Nat) (rot : Bool) (d n : Nat) :
    rawReg (selTaken s t lc rot d n) (.seq t) (lcStat lc) = rawReg s (.seq t) (lcStat lc) := by
  have hsem := rawReg_putReg_off s (.seq t) (semOff d) (lcStat lc) (BitVec.ofNat 32 n) (semOff_ne_lcStat hlc d)
  cases rot with
  | false => exact hsem
  | true => exact (rawReg_putReg_off _ _ _ _ _ (by simp only [lcStat]; omega)).trans hsem

theorem getSem_selTaken (s : State) (t : Nat) (rot : Bool) (d n : Nat) :
    getSem (selTaken s t lc rot d n) t d = BitVec.ofNat 32 n := by
  have hsem := rawReg_putReg_same s (.seq t) (semOff d) (BitVec.ofNat 32 n)
  cases rot with
  | false => exact hsem
  | true => exact (rawReg_putReg_off _ _ _ _ _ (by simp only [semOff]; omega)).trans hsem

theorem last_selTaken (s : State) (t : Nat) (rot : Bool) (d : Nat) {n : Nat} (hn : n < 16) :
    rfld (selTaken s t lc rot d n) (.seq t) (0x10C + 0x40 * lc) 3 0
      = if rot then n else rfld s (.seq t) (0x10C + 0x40 * lc) 3 0 := by
  cases rot with
  | false => exact congrArg (fld · 3 0) (rawReg_putReg_off s _ _ _ _ (by simp only [semOff]; omega))
  | true => exact (rfld_putFld_same _ _ _ 3 0 n (by decide) (by decide)).trans (Nat.mod_eq_of_lt hn)

/-- A WAIT has gone on. -/
theorem GoesOn.semWaited {i : Nat} {v : Word} {dec : Bool} (hi : i < 64) (h : GoesOn (semWaited s t i v dec) u t lc) :
    lcState u t lc = 1 ∧ getSem u t i = (if dec then getSem s t i - v else getSem s t i)
      ∧ TileEvents s u (waitKeys t lc [semOff i]) t := by
  refine ⟨h.run, ?_, (tileEvents_semWaited s t lc i v dec).trans (h.frame.weaken (by simp [waitKeys]))⟩
  rw [← getSem_semWaited]
  exact h.frame.rawReg_eq (by simp [mem_waitKeys, (semOff_ne_lcStat hlc i).symm])
    (evKey_seq (by simp only [semOff]; omega) (by simp only [semOff]; omega))

/-- A WAITSEL has gone on. -/
theorem GoesOn.selTaken {rot : Bool} {d n : Nat} (hd : d < 64) (hn : n < 16)
    (h : GoesOn (selTaken s t lc rot d n) u t lc) :
    lcState u t lc = 1 ∧ getSem u t d = BitVec.ofNat 32 n
      ∧ rfld u (.seq t) (0x10C + 0x40 * lc) 3 0 = (if rot then n else rfld s (.seq t) (0x10C + 0x40 * lc) 3 0)
      ∧ TileEvents s u (waitKeys t lc [semOff d, 0x10C + 0x40 * lc]) t := by
  refine ⟨h.run, ?_, ?_, (tileEvents_selTaken s t lc rot d n).trans (h.frame.weaken (by simp [waitKeys]))⟩
  · rw [← getSem_selTaken hlc s t rot d n]
    exact h.frame.rawReg_eq (by simp [mem_waitKeys, (semOff_ne_lcStat hlc d).symm])
      (evKey_seq (by simp only [semOff]; omega) (by simp only [semOff]; omega))
  · rw [← last_selTaken hlc s t rot d hn]
    exact congrArg (fld · 3 0) (h.frame.rawReg_eq (by simp [mem_waitKeys, lcStat])
      (evKey_seq (by omega) (by omega)))

/-- FENCEF and MOV_LCn_STAT.FAIL after a FENCE that marks MOV. -/
theorem fenceDone_mov (s : State) (ht : t < 16384) :
    rbit (fenceDone s t lc true) (.seq t) (lcStat lc) 3 = rbit s (.mov t) (0x0A0 + 4 * lc) 0
      ∧ rbit (fenceDone s t lc true) (.mov t) (0x0A0 + 4 * lc) 0 = false
      ∧ lcState (fenceDone s t lc true) t lc = lcState s t lc
      ∧ TileEvents s (fenceDone s t lc true) (regKey (.mov t) (0x0A0 + 4 * lc) :: waitKeys t lc []) t := by
  have hne := regKey_stat_ne_mov t lc
  let s0 := putBit s (.mov t) (0x0A0 + 4 * lc) 0 false
  let s1 := putBit s0 (.seq t) (lcStat lc) 3 (rbit s (.mov t) (0x0A0 + 4 * lc) 0)
  have hmov1 : rbit s1 (.mov t) (0x0A0 + 4 * lc) 0 = false :=
    (congrArg (fld · 0 0 == 1) (rawReg_putReg_ne s0 _ _ _ _ _ hne.symm)).trans
      (rbit_putBit_same s _ _ 0 false (by decide))
  have hstate1 : lcState s1 t lc = lcState s t lc :=
    (rfld_putFld_ne s0 _ _ 3 3 _ 2 0 (by decide) (by decide) (by decide) (by decide)).trans
      (congrArg (fld · 2 0) (rawReg_putReg_ne s _ _ _ _ _ hne))
  have hframe1 : TileEvents s s1 (regKey (.mov t) (0x0A0 + 4 * lc) :: waitKeys t lc []) t :=
    (tileEvents_putReg s t _ _ _ (by simp)).trans (tileEvents_putReg s0 t _ _ _ (by simp [waitKeys]))
  have hev : Events s1 (fenceDone s t lc true) [] := by
    show Events s1 (if rbit s (.mov t) (0x0A0 + 4 * lc) 0 then _ else s1) []
    exact events_ite (events_sillage _ _ _ _ _ _ _ _) (Events.refl _ _)
  have hstat := hev.rawReg_eq (by simp) (evKey_lcStat hlc t)
  have hmov := hev.rawReg_eq (by simp) (evKey_mov ht (o := 0x0A0 + 4 * lc) (by omega) (by omega))
  refine ⟨?_, ?_, ?_, hframe1.trans ((hev.weaken (by simp)).tile t)⟩
  · rw [rbit, rfld, hstat]; exact rbit_putBit_same s0 _ _ 3 _ (by decide)
  · rw [rbit, rfld, hmov]; exact hmov1
  · rw [lcState, rfld, hstat]; exact hstate1

theorem lcState_fenceDone (s : State) (ht : t < 16384) (mov : Bool) :
    lcState (fenceDone s t lc mov) t lc = lcState s t lc := by
  cases mov with
  | false => rfl
  | true =>
    obtain ⟨-, -, hstate, -⟩ := fenceDone_mov hlc s ht
    exact hstate

/-- A FENCE has gone on. -/
theorem GoesOn.fenceDone {mov : Bool} (ht : t < 16384) (h : GoesOn (fenceDone s t lc mov) u t lc) :
    lcState u t lc = 1
      ∧ (mov = true → rbit u (.seq t) (lcStat lc) 3 = rbit s (.mov t) (0x0A0 + 4 * lc) 0
        ∧ rbit u (.mov t) (0x0A0 + 4 * lc) 0 = false)
      ∧ TileEvents s u (regKey (.mov t) (0x0A0 + 4 * lc) :: waitKeys t lc []) t := by
  have hframe := h.frame.weaken (ls := regKey (.mov t) (0x0A0 + 4 * lc) :: waitKeys t lc [])
    (fun _ => List.mem_cons_of_mem _)
  cases mov with
  | false => exact ⟨h.run, nofun, hframe⟩
  | true =>
    obtain ⟨hfail, hclear, -, hdone⟩ := fenceDone_mov hlc s ht
    have hmov := h.frame.rawReg_eq (p := .mov t) (o := 0x0A0 + 4 * lc)
      (by simpa [waitKeys] using (regKey_stat_ne_mov t lc).symm) (evKey_mov ht (by omega) (by omega))
    exact ⟨h.run, fun _ => ⟨h.fencef.trans hfail, (congrArg (fld · 0 0 == 1) hmov).trans hclear⟩, hdone.trans hframe⟩

end Written

/-! ## Issue -/

/-- The state in which a SEQ command that SEQ passes takes effect. -/
def issued (s : State) (t lc : Nat) (w : CmdWord) : State := passCmd (noteTags s t lc w) t lc

theorem rawReg_issued {s : State} {t lc : Nat} {p : Page} {o : Nat} (h : regKey p o ≠ regKey (.seq t) (lcStat lc))
    (w : CmdWord) : rawReg (issued s t lc w) p o = rawReg s p o := by
  rw [issued, rawReg_passCmd]
  exact rawReg_putReg_ne _ _ _ _ _ _ h

theorem tileEvents_issued (s : State) (t lc : Nat) (w : CmdWord) (l : List Nat) :
    TileEvents s (issued s t lc w) (waitKeys t lc l) t :=
  tileEvents_of ((onlyTile_noteTags s t lc w).trans (onlyTile_passCmd _ t lc))
    (fun _ _ h => rawReg_issued (fun e => h (e ▸ by simp [waitKeys])) w)

theorem Issues.lcState_issued {s : State} {t lc : Nat} {w : CmdWord} (h : Issues s t lc w) :
    lcState (issued s t lc w) t lc = 1 := by
  rw [issued, lcState_passCmd, lcState_noteTags]
  obtain ⟨-, -, -, -, hrun⟩ := h.facts
  exact hrun

theorem Issues.lc_lt {s : State} {t lc : Nat} {w : CmdWord} (h : Issues s t lc w) : lc < 4 := by
  obtain ⟨-, -, hlc, -⟩ := h.facts
  exact hlc

/-- The engines hold what they held. -/
theorem fenceBusy_issued (s : State) (t lc : Nat) (w : CmdWord) (a b c : Bool) :
    fenceBusy (getTile (issued s t lc w) t) lc a b c = fenceBusy (getTile s t) lc a b c := by
  have htile : getTile (issued s t lc w) t = { getTile s t with
      ctx := (getTile (issued s t lc w) t).ctx, seqTag := (getTile (issued s t lc w) t).seqTag } := by
    have hpass : getTile (issued s t lc w) t = getTile (modCtx (modCtx (noteTags s t lc w) t lc
        (fun c => { c with slot := none, sn := c.sn + 1 })) t lc
        (fun c => { c with pc := nextPc (getCtx (noteTags s t lc w) t lc) })) t := rfl
    rw [hpass]
    simp [modCtx, noteTags]
  rw [htile]
  rfl

/-- The slot in which the SEQ command of an opcode issues. -/
theorem issueRow_of_opc {s : State} {t lc o : Nat} {w : CmdWord} (h : Issues s t lc w) (he : cwEng w = 0)
    (ho : cwOpc w = o) : issueRow s t (isOpc o) = payPenalty (issueSeq (noteTags s t lc w) t lc w) t :=
  issueRow_pass h he _ (by simp [isOpc, ho])

theorem exec_wait_issued {s : State} {t lc : Nat} {w : CmdWord} (h : Issues s t lc w) (he : cwEng w = 0)
    (ho : cwOpc w = 7) :
    exec (.wait t) s = .next (payPenalty (waitIssue (issued s t lc w) t lc
      (.sem (cwBits w 79 74) (cwBits w 73 71) (BitVec.ofNat 32 (cwBits w 31 0)) (cwBit w 70)) (cwBits w 69 50)
      (cwLayer w) (cwOper w)) t) :=
  (congrArg Host.Outcome.next (issueRow_of_opc h he ho)).trans (by simp only [issueSeq, ho, issued])

theorem exec_waitsel_issued {s : State} {t lc : Nat} {w : CmdWord} (h : Issues s t lc w) (he : cwEng w = 0)
    (ho : cwOpc w = 8) :
    exec (.waitsel t) s = .next (payPenalty (waitIssue (issued s t lc w) t lc
      (.sel (BitVec.ofNat 16 (cwBits w 79 64)) (cwBit w 63) (cwBits w 62 57)) (cwBits w 56 37)
      (cwLayer w) (cwOper w)) t) :=
  (congrArg Host.Outcome.next (issueRow_of_opc h he ho)).trans (by simp only [issueSeq, ho, issued])

theorem exec_fence_issued {s : State} {t lc : Nat} {w : CmdWord} (h : Issues s t lc w) (he : cwEng w = 0)
    (ho : cwOpc w = 9) :
    exec (.fence t) s = .next (payPenalty (waitIssue (issued s t lc w) t lc
      (.fence (cwBit w 79) (cwBit w 78) (cwBit w 77)) 0 (cwLayer w) (cwOper w)) t) :=
  (congrArg Host.Outcome.next (issueRow_of_opc h he ho)).trans (by simp only [issueSeq, ho, issued])

/-- A WAIT that issues has a defined REL, and DEC only with ≥ (R156, R162). -/
theorem Issues.dec_rel {s : State} {t lc : Nat} {w : CmdWord} (h : Issues s t lc w) (he : cwEng w = 0)
    (ho : cwOpc w = 7) (hd : cwBit w 70 = true) : cwBits w 73 71 = 3 := by
  obtain ⟨-, hw, hf, -⟩ := h
  by_contra hrel
  have hbad : cwBad w = true := by simp [cwBad, he, seqCodesBad, ho, hd, hrel]
  simp only [issueFault, hw, hbad, or_true, if_true] at hf
  split at hf <;> cases hf

/-! ## The clauses on WAIT, WAITSEL and FENCE -/

/-- A command that SEQ holds at issue. -/
theorem payPenalty_holds {s : State} {t lc : Nat} {w : CmdWord} (h : Issues s t lc w) {x : WaitOn}
    (hx : waitTry (issued s t lc w) t lc x = none) (us : Nat) (layer oper : Half) :
    lcState (payPenalty (waitIssue (issued s t lc w) t lc x us layer oper) t) t lc = 2
      ∧ TileEvents s (payPenalty (waitIssue (issued s t lc w) t lc x us layer oper) t) (waitKeys t lc []) t := by
  obtain ⟨hst, hframe⟩ := waitIssue_holds h.lc_lt hx us layer oper
  exact ⟨hst, ((tileEvents_issued s t lc w []).trans hframe).trans
    (tileEvents_of (onlyTile_payPenalty _ t) (fun _ _ _ => rfl))⟩

theorem getSem_issued {s : State} {t lc : Nat} (hlc : lc < 4) (i : Nat) (w : CmdWord) :
    getSem (issued s t lc w) t i = getSem s t i :=
  rawReg_issued (by rw [Ne, regKey_inj]; exact (semOff_ne_lcStat hlc i).symm) w

/-- WAIT at issue (R161; log 52). -/
theorem wait_issues {s : State} {t lc : Nat} {w : CmdWord} (h : Issues s t lc w) (he : cwEng w = 0) (ho : cwOpc w = 7) :
    let i := cwBits w 79 74
    let v := BitVec.ofNat 32 (cwBits w 31 0)
    let met := relHolds (cwBits w 73 71) (getSem s t i) v
    ∃ u, exec (.wait t) s = .next u ∧ lcState u t lc = (if met then 1 else 2)
      ∧ getSem u t i = (if met && cwBit w 70 then getSem s t i - v else getSem s t i)
      ∧ TileEvents s u (waitKeys t lc [semOff i]) t := by
  intro i v met
  have hlc := h.lc_lt
  have hi : i < 64 := Nat.mod_lt _ (by decide)
  have hsem := getSem_issued (s := s) (t := t) hlc i w
  refine ⟨_, exec_wait_issued h he ho, ?_⟩
  cases hm : met with
  | true =>
    rw [waitIssue_goesOn (waitTry_sem (h.dec_rel he ho) (by rw [hsem]; exact hm) lc)]
    obtain ⟨hrun, hval, hframe⟩ := (payPenalty_goesOn
      ((lcState_semWaited hlc _ t i v (cwBit w 70)).trans h.lcState_issued)).semWaited hlc hi
    exact ⟨hrun, by simpa [hsem] using hval, (tileEvents_issued s t lc w _).trans hframe⟩
  | false =>
    obtain ⟨hst, hframe⟩ := payPenalty_holds h (waitTry_sem_unmet (by rw [hsem]; exact hm) lc (cwBit w 70))
      (cwBits w 69 50) (cwLayer w) (cwOper w)
    refine ⟨hst, ?_, hframe.weaken (by simp [waitKeys])⟩
    exact hframe.rawReg_eq (by simp [mem_waitKeys, (semOff_ne_lcStat hlc i).symm])
      (evKey_seq (by simp only [semOff]; omega) (by simp only [semOff]; omega))

theorem selFrom_issued {s : State} {t lc : Nat} (w : CmdWord) (rot : Bool) :
    selFrom (issued s t lc w) t lc rot = selFrom s t lc rot := by
  have hlast := rawReg_issued (s := s) (t := t) (lc := lc) (p := .seq t) (o := 0x10C + 0x40 * lc)
    (by rw [Ne, regKey_inj]; simp only [lcStat]; omega) w
  simp only [selFrom, rfld, hlast]

theorem selReady_issued {s : State} {t lc : Nat} (w : CmdWord) (mask n : Nat) :
    selReady (issued s t lc w) t mask n = selReady s t mask n := by
  have hrq := rawReg_issued (s := s) (t := t) (lc := lc) (p := .cmb t) (o := 0x114 + 0x20 * n)
    (by simp only [regKey, pageBase, lcStat]; omega) w
  simp only [selReady, rqNonEmpty, rbit, rfld, hrq]

/-- MASK is as wide as its field. -/
theorem toNat_mask (w : CmdWord) : (BitVec.ofNat 16 (cwBits w 79 64)).toNat = cwBits w 79 64 :=
  (BitVec.toNat_ofNat _ _).trans (Nat.mod_eq_of_lt (Nat.mod_lt _ (by decide)))

/-- WAITSEL at issue while every queue of MASK is empty (R163). -/
theorem waitsel_issues_held {s : State} {t lc : Nat} {w : CmdWord} (h : Issues s t lc w) (he : cwEng w = 0)
    (ho : cwOpc w = 8) (hn : ∀ n, n < 16 → selReady s t (cwBits w 79 64) n = false) :
    ∃ u, exec (.waitsel t) s = .next u ∧ lcState u t lc = 2 ∧ TileEvents s u (waitKeys t lc []) t := by
  have hnone : selFind (issued s t lc w) t lc (BitVec.ofNat 16 (cwBits w 79 64)).toNat (cwBit w 63) = none := by
    rw [toNat_mask]
    exact selFind_eq_none (fun n hlt => (selReady_issued w _ n).trans (hn n hlt)) lc _
  exact ⟨_, exec_waitsel_issued h he ho, payPenalty_holds h (by rw [waitTry_sel, hnone]; rfl) _ _ _⟩

/-- WAITSEL at issue with a non-empty queue of MASK (R163 to R165; log 52). -/
theorem waitsel_issues_taken {s : State} {t lc k : Nat} {w : CmdWord} (h : Issues s t lc w) (he : cwEng w = 0)
    (ho : cwOpc w = 8) (hk : k < 16)
    (hr : selReady s t (cwBits w 79 64) ((selFrom s t lc (cwBit w 63) + k) % 16) = true)
    (hf : ∀ j, j < k → selReady s t (cwBits w 79 64) ((selFrom s t lc (cwBit w 63) + j) % 16) = false) :
    let n := (selFrom s t lc (cwBit w 63) + k) % 16
    let d := cwBits w 62 57
    ∃ u, exec (.waitsel t) s = .next u ∧ lcState u t lc = 1 ∧ getSem u t d = BitVec.ofNat 32 n
      ∧ rfld u (.seq t) (0x10C + 0x40 * lc) 3 0 = (if cwBit w 63 then n else rfld s (.seq t) (0x10C + 0x40 * lc) 3 0)
      ∧ TileEvents s u (waitKeys t lc [semOff d, 0x10C + 0x40 * lc]) t := by
  intro n d
  have hlc := h.lc_lt
  have hsome : selFind (issued s t lc w) t lc (BitVec.ofNat 16 (cwBits w 79 64)).toNat (cwBit w 63) = some n := by
    have hfind := selFind_eq_some (s := issued s t lc w) (t := t) (lc := lc) (mask := cwBits w 79 64)
      (rot := cwBit w 63) hk
    rw [selFrom_issued, selReady_issued] at hfind
    rw [toNat_mask]
    exact hfind hr (fun j hj => (selReady_issued w _ _).trans (hf j hj))
  have hlast : rfld (issued s t lc w) (.seq t) (0x10C + 0x40 * lc) 3 0 = rfld s (.seq t) (0x10C + 0x40 * lc) 3 0 :=
    congrArg (fld · 3 0) (rawReg_issued (by rw [Ne, regKey_inj]; simp only [lcStat]; omega) w)
  refine ⟨_, exec_waitsel_issued h he ho, ?_⟩
  rw [waitIssue_goesOn (by rw [waitTry_sel, hsome]; rfl)]
  have hstate : lcState (selTaken (issued s t lc w) t lc (cwBit w 63) d n) t lc = 1 :=
    (congrArg (fld · 2 0) (rawReg_selTaken_stat hlc _ t _ d n)).trans h.lcState_issued
  obtain ⟨hrun, hval, hlastu, hframe⟩ :=
    (payPenalty_goesOn hstate).selTaken hlc (Nat.mod_lt _ (by decide)) (Nat.mod_lt _ (by decide))
  exact ⟨hrun, hval, hlast ▸ hlastu, (tileEvents_issued s t lc w _).trans hframe⟩

/-- FENCE at issue (R169, R170; log 52). -/
theorem fence_issues {s : State} {t lc : Nat} {w : CmdWord} (ht : t < 16384) (h : Issues s t lc w) (he : cwEng w = 0)
    (ho : cwOpc w = 9) :
    let busy := fenceBusy (getTile s t) lc (cwBit w 79) (cwBit w 78) (cwBit w 77)
    ∃ u, exec (.fence t) s = .next u ∧ lcState u t lc = (if busy then 2 else 1)
      ∧ (busy = false → cwBit w 78 = true → rbit u (.seq t) (lcStat lc) 3 = rbit s (.mov t) (0x0A0 + 4 * lc) 0
        ∧ rbit u (.mov t) (0x0A0 + 4 * lc) 0 = false)
      ∧ TileEvents s u (regKey (.mov t) (0x0A0 + 4 * lc) :: waitKeys t lc []) t := by
  intro busy
  have hlc := h.lc_lt
  have hbusy : fenceBusy (getTile (issued s t lc w) t) lc (cwBit w 79) (cwBit w 78) (cwBit w 77) = busy :=
    fenceBusy_issued s t lc w _ _ _
  have hfail : rbit (issued s t lc w) (.mov t) (0x0A0 + 4 * lc) 0 = rbit s (.mov t) (0x0A0 + 4 * lc) 0 :=
    congrArg (fld · 0 0 == 1) (rawReg_issued (regKey_stat_ne_mov t lc).symm w)
  refine ⟨_, exec_fence_issued h he ho, ?_⟩
  cases hb : busy with
  | true =>
    obtain ⟨hst, hframe⟩ := payPenalty_holds h (waitTry_fence_busy (hbusy.trans hb)) 0 (cwLayer w) (cwOper w)
    exact ⟨hst, nofun, hframe.weaken (fun _ => List.mem_cons_of_mem _)⟩
  | false =>
    rw [waitIssue_goesOn (waitTry_fence_done (hbusy.trans hb))]
    obtain ⟨hrun, hval, hframe⟩ := (payPenalty_goesOn
      ((lcState_fenceDone hlc (issued s t lc w) ht (cwBit w 78)).trans h.lcState_issued)).fenceDone hlc ht
    exact ⟨hrun, fun _ => by rwa [hfail] at hval,
      ((tileEvents_issued s t lc w []).weaken (fun _ => List.mem_cons_of_mem _)).trans hframe⟩

section Waiting
variable {s : State} {t lc : Nat} (hlc : lc < 4) {y : Waiting} (hst : lcState s t lc = 2) (hr : seqRuns s t = true)
  (hy : (getCtx s t lc).wait = some y)
include hlc hst hr hy

/-- WAIT_RELEASE once the relation holds (R161). -/
theorem waitRelease_met {i rel : Nat} {v : Word} {dec : Bool} (hi : i < 64) (hw : y.what = .sem i rel v dec)
    (hd : dec = true → rel = 3) (hm : relHolds rel (getSem s t i) v = true) :
    ∃ u, exec (.waitRelease t lc) s = .next u ∧ lcState u t lc = 1
      ∧ getSem u t i = (if dec then getSem s t i - v else getSem s t i)
      ∧ TileEvents s u (waitKeys t lc [semOff i]) t := by
  refine ⟨_, congrArg Host.Outcome.next (waitEnd_goesOn hst hr hy (by rw [hw]) ?_),
    (waitLeave_goesOn hlc (semWaited s t i v dec) t).semWaited hlc hi⟩
  rw [hw]
  exact waitTry_sem hd hm lc

omit hlc in
/-- WAIT_RELEASE before. -/
theorem waitRelease_unmet {i rel : Nat} {v : Word} {dec : Bool} (hw : y.what = .sem i rel v dec)
    (hm : relHolds rel (getSem s t i) v = false) : exec (.waitRelease t lc) s = .next s := by
  refine congrArg Host.Outcome.next (waitEnd_holds hst hr hy (by rw [hw]) ?_)
  rw [hw]
  exact waitTry_sem_unmet hm lc dec

/-- WAITSEL_SELECT (R163 to R165). -/
theorem waitselSelect_taken {mask : BitVec 16} {rot : Bool} {d k : Nat} (hd : d < 64) (hw : y.what = .sel mask rot d)
    (hk : k < 16) (hready : selReady s t mask.toNat ((selFrom s t lc rot + k) % 16) = true)
    (hf : ∀ j, j < k → selReady s t mask.toNat ((selFrom s t lc rot + j) % 16) = false) :
    let n := (selFrom s t lc rot + k) % 16
    ∃ u, exec (.waitselSelect t lc) s = .next u ∧ lcState u t lc = 1 ∧ getSem u t d = BitVec.ofNat 32 n
      ∧ rfld u (.seq t) (0x10C + 0x40 * lc) 3 0 = (if rot then n else rfld s (.seq t) (0x10C + 0x40 * lc) 3 0)
      ∧ TileEvents s u (waitKeys t lc [semOff d, 0x10C + 0x40 * lc]) t := by
  intro n
  refine ⟨_, congrArg Host.Outcome.next (waitEnd_goesOn hst hr hy (by rw [hw]) ?_),
    (waitLeave_goesOn hlc (selTaken s t lc rot d n) t).selTaken hlc hd (Nat.mod_lt _ (by decide))⟩
  rw [hw, waitTry_sel, selFind_eq_some hk hready hf]
  rfl

/-- FENCE_COMPLETE (R169, R170). -/
theorem fenceComplete_done {a b c : Bool} (ht : t < 16384) (hw : y.what = .fence a b c)
    (hfree : fenceBusy (getTile s t) lc a b c = false) :
    ∃ u, exec (.fenceComplete t lc) s = .next u ∧ lcState u t lc = 1
      ∧ (b = true → rbit u (.seq t) (lcStat lc) 3 = rbit s (.mov t) (0x0A0 + 4 * lc) 0
        ∧ rbit u (.mov t) (0x0A0 + 4 * lc) 0 = false)
      ∧ TileEvents s u (regKey (.mov t) (0x0A0 + 4 * lc) :: waitKeys t lc []) t := by
  refine ⟨_, congrArg Host.Outcome.next (waitEnd_goesOn hst hr hy (by rw [hw]) ?_),
    (waitLeave_goesOn hlc (fenceDone s t lc b) t).fenceDone hlc ht⟩
  rw [hw]
  exact waitTry_fence_done hfree

end Waiting

/-! ## The deadline of a wait (R168, R213, R214) -/

/-- A deadline that has passed brings no time. -/
theorem atLeast_of_le {s : State} {d : Nat} (h0 : 0 < d) (h : d ≤ eTime s) : atLeast s d = s := by
  have hd : ((d : Int) + s.tkp.steps - fullT s).toNat = 0 := by simp only [eTime] at h; omega
  simp only [atLeast, atT, hd, if_true]

theorem iter_of_fixed {α : Type} {f : α → α} {a : α} (h : f a = a) (n : Nat) : iter f n a = a := by
  induction n with
  | zero => rfl
  | succ n ih => rw [iter, h, ih]

/-- MOV with no command has nothing to make but packets that wait. -/
theorem movPump_of_idle {s z : State} {t : Nat} (hz : stagePump s t = z) (hq : (getTile z t).movQ = [])
    (hcur : (getTile z t).movCur = none) (hrst : rbit z (.mov t) 0x010 1 = false) : movPump s t = z := by
  have hcut : iter (fun s => cutStep s t) 12 z = z := iter_of_fixed (by simp [cutStep, hcur]) 12
  have hsig : sigStart z t = z := by simp [sigStart, hq]
  have hsrst : movSrst z t = z := by simp [movSrst, hrst]
  simp only [movPump, hz, hcut, hsig, hsrst]

/-- No packet waits any more. -/
def stageNone (x : Tile) : Tile := { x with stageQ := [] }

theorem movSettle_of_still {s : State} {t : Nat} (h : movStill s t) (lc : Nat) :
    movSettle s t lc = modTile s t stageNone := by
  obtain ⟨⟨hq, hcur, hout, hstage⟩, hrst⟩ := h
  have hpump : stagePump s t = modTile s t stageNone := by simp only [stagePump, hstage, List.foldl_nil]; rfl
  have htile := getTile_modTile_same s t stageNone
  have hidle : movPump s t = modTile s t stageNone :=
    movPump_of_idle hpump (by rw [htile]; exact hq) (by rw [htile]; exact hcur) hrst
  simp only [movSettle, hcur, hout, Option.toList_none, List.append_nil, List.filter_nil, List.foldl_nil, hidle]

theorem movEmpty_modCtx (s : State) (t lc : Nat) (f : Ctx → Ctx) :
    movEmpty (getTile (modCtx s t lc f) t) ↔ movEmpty (getTile s t) := by simp [movEmpty, modCtx]

theorem squashTent_of_nil {s : State} {t lc : Nat} (h : (getCtx s t lc).brs = []) : squashTent s t lc = s := by
  simp [squashTent, h]

/-- STATE and FAULT of a context that faults (R213). -/
def faultShown (s : State) (t lc code : Nat) : State :=
  putFld (lcSetState (modCtx s t lc (fun c => { c with held := none, wait := none, slot := none, penalty := 0 })) t lc 4)
    (.seq t) (lcStat lc) 15 8 code

/-- A fault of a context that has nothing tentative (R213, R214), RUNOFF apart. -/
theorem seqFault_of_nil {s : State} {t lc code : Nat} (h : (getCtx s t lc).brs = []) (hc : code ≠ 0x16)
    (layer oper : Half) :
    seqFault s t lc code layer oper = movSettle (sillage
      (captureOpen false (faultShown s t lc code) (.seq t) code 0 layer oper none (isrMask (4 + lc)))
      (.seq t) 0x13 false layer oper (BitVec.ofNat 32 code)) t lc := by
  simp only [seqFault, squashTent_of_nil h, if_neg hc]
  rfl

/-- The context is in FAULT with the code, and MOV, which has nothing to do, goes on doing nothing. -/
theorem seqFault_of_still {s : State} {t lc code : Nat} (ht : t < 16384) (hlc : lc < 4) (h : (getCtx s t lc).brs = [])
    (hmov : movStill s t) (hc : code < 0x16) (layer oper : Half) :
    let u := seqFault s t lc code layer oper
    lcState u t lc = 4 ∧ rfld u (.seq t) (lcStat lc) 15 8 = code ∧ TileEvents s u (waitKeys t lc []) t := by
  intro u
  let s1 := faultShown s t lc code
  let s2 := sillage (captureOpen false s1 (.seq t) code 0 layer oper none (isrMask (4 + lc))) (.seq t) 0x13 false
    layer oper (BitVec.ofNat 32 code)
  have hev : Events s1 s2 [] := (events_captureOpen _ _ _ _ _ _ _ _ _ _).trans (events_sillage _ _ _ _ _ _ _ _)
  have hshown : TileEvents s s1 (waitKeys t lc []) t :=
    ((tileEvents_modCtx s t lc _ _).trans (tileEvents_putReg _ t _ _ _ (mem_waitKeys.2 (.inl rfl)))).trans
      (tileEvents_putReg _ t _ _ _ (mem_waitKeys.2 (.inl rfl)))
  have hframe : TileEvents s s2 (waitKeys t lc []) t := hshown.trans ((hev.weaken (by simp)).tile t)
  have hstat : rawReg s2 (.seq t) (lcStat lc) = rawReg s1 (.seq t) (lcStat lc) :=
    hev.rawReg_eq (by simp) (evKey_lcStat hlc t)
  have htile : getTile s2 t = getTile s1 t := by rw [hev.1]; rfl
  have hrst : rawReg s2 (.mov t) 0x010 = rawReg s (.mov t) 0x010 :=
    hframe.rawReg_eq
      (by simp only [waitKeys, List.map_cons, List.map_nil, List.mem_singleton, regKey, pageBase, lcStat]; omega)
      (evKey_eq_false (by simp only [pageBase]; omega) (by decide) (by decide))
  have hstill : movStill s2 t :=
    ⟨htile ▸ (movEmpty_modCtx s t lc _).2 hmov.1, (congrArg (fld · 1 1 == 1) hrst).trans hmov.2⟩
  have hu : u = modTile s2 t stageNone := (seqFault_of_nil h (by omega) layer oper).trans (movSettle_of_still hstill lc)
  rw [hu]
  refine ⟨?_, ?_, hframe.trans (tileEvents_of (onlyTile_modTile s2 t _) (fun _ _ _ => rfl))⟩
  · rw [lcState, rfld_modTile, rfld, hstat]
    exact (rfld_putFld_ne _ (.seq t) (lcStat lc) 15 8 code 2 0 (by decide) (by decide) (by decide) (by decide)).trans
      (lcState_lcSetState _ t lc 4)
  · rw [rfld_modTile, rfld, hstat]
    exact (rfld_putFld_same _ (.seq t) (lcStat lc) 15 8 code (by decide) (by decide)).trans (Nat.mod_eq_of_lt (by omega))

/-- WAIT_TIMEOUT at the deadline of a wait that is not met (R168). -/
theorem waitTimeout_faults {s : State} {t lc d : Nat} {y : Waiting} (ht : t < 16384) (hlc : lc < 4)
    (hst : lcState s t lc = 2) (hr : seqRuns s t = true) (hy : (getCtx s t lc).wait = some y) (hdue : y.due = some d)
    (h0 : 0 < d) (hd : d ≤ eTime s) (hw : waitTry s t lc y.what = none) (hbrs : (getCtx s t lc).brs = [])
    (hmov : movStill s t) :
    ∃ u, exec (.waitTimeout t lc) s = .next u ∧ lcState u t lc = 4 ∧ rfld u (.seq t) (lcStat lc) 15 8 = 0x13
      ∧ TileEvents s u (waitKeys t lc []) t := by
  have hexec : exec (.waitTimeout t lc) s = .next (seqFault s t lc 0x13 y.layer y.oper) := by
    show execWaitTimeout t lc s = _
    simp only [execWaitTimeout, hy, hdue, hst, hr, and_self, if_true, atLeast_of_le h0 hd, hw]
  exact ⟨_, hexec, seqFault_of_still ht hlc hbrs hmov (by decide) y.layer y.oper⟩

/-! ## A context number without a bound -/

/-- STAT of a context 12, which no tile has, lies at the register of semaphore 2. -/
theorem lcState_twelve (s : State) (t : Nat) : lcState s t 12 = fld (getSem s t 2) 2 0 := rfl

/-- Tile 0 with thirteen contexts, the last of which waits; queue 0 of its Cooper holds something. -/
def waitingTwelve (w : WaitOn) : State :=
  { State.reset with
    regs := [(regKey (.seq 0) 0x010, 1), (regKey (.seq 0) (lcStat 12), 2), (regKey (.cmb 0) 0x114, 1)]
    tiles := [(0, { ctx := List.replicate 12 {} ++ [{ wait := some { what := w } }] })] }

/-- Neither answer reads a tile, so any wait shows both. -/
theorem waitingTwelve_waits (w : WaitOn) : lcState (waitingTwelve w) 0 12 = 2 ∧ seqRuns (waitingTwelve w) 0 = true := by
  show lcState (waitingTwelve (.fence false false false)) 0 12 = 2
    ∧ seqRuns (waitingTwelve (.fence false false false)) 0 = true
  decide

/-- Refutes O16: the statement bounds no context number. In context 12 the state it waits in is the value of semaphore 2,
so a WAIT that leaves the semaphore as it was cannot leave the context RUN. For contexts and semaphores that exist the
clauses hold: `wait_issues`, `waitRelease_met`, `waitRelease_unmet`, `waitTimeout_faults`. -/
theorem not_waitsOnSemaphores : ¬ Obligations.WaitsOnSemaphores := by
  intro h
  let s := waitingTwelve (.sem 2 0 2 false)
  obtain ⟨hst, hseq⟩ := waitingTwelve_waits (.sem 2 0 2 false)
  have hmet : relHolds 0 (getSem s 0 2) 2 = true := by decide
  obtain ⟨u, -, hrun, hsem, -⟩ :=
    (((h s 0 12).2 _ hst hseq rfl).1 2 0 2 false rfl (by decide)).1 hmet
  have hsame : lcState u 0 12 = lcState s 0 12 := by rw [lcState_twelve, lcState_twelve, hsem]; rfl
  exact absurd (hrun.symm.trans (hsame.trans hst)) (by decide)

/-- Refutes O17: the statement bounds no context number. In context 12 a WAITSEL that writes queue 0 to semaphore 2 would
leave the context IDLE, not RUN. For contexts, semaphores and tiles that exist the clauses hold: `waitsel_issues_held`,
`waitsel_issues_taken`, `fence_issues`, `waitselSelect_taken`, `fenceComplete_done`. -/
theorem not_selectionsAndFences : ¬ Obligations.SelectionsAndFences := by
  intro h
  let s := waitingTwelve (.sel 1 false 2)
  obtain ⟨hst, hseq⟩ := waitingTwelve_waits (.sel 1 false 2)
  obtain ⟨u, -, hrun, hsem, -⟩ := ((h s 0 12).2.2 _ hst hseq rfl).1 1 false 2 0
    rfl (by decide) (by decide) (fun j hj => absurd hj j.not_lt_zero)
  rw [lcState_twelve, hsem] at hrun
  exact absurd hrun (by decide)

end Sys2Proof.Machine
end

section
/-! PROOFS. Latched reads (R104, R494, R753): a read that latches keeps, in the latches alone, what the registers that it
latches hold now, and the next read of each of them returns that. -/

namespace Sys2Proof.Machine

/-! ## What a read latches -/

/-- Every register is latched as the read found it. -/
theorem latch_append (s : State) (p : Page) (offs : List Nat) (o : Nat) :
    latch s p (offs ++ [o]) =
      { latch s p offs with latches := tabPut (latch s p offs).latches (regKey p o) (regView s p o) } := by
  simp [latch]

theorem latch_eq_withLatches (s : State) (p : Page) (offs : List Nat) :
    latch s p offs = { s with latches := (latch s p offs).latches } := by
  induction offs using List.reverseRecOn with
  | nil => rfl
  | append_singleton r o ih => rw [latch_append, ih]

theorem find_latch {offs : List Nat} {o : Nat} (h : o ∈ offs) (s : State) (p : Page) :
    (latch s p offs).latches.find? (fun e => e.1 == regKey p o) = some (regKey p o, regView s p o) := by
  induction offs using List.reverseRecOn with
  | nil => cases h
  | append_singleton r a ih =>
    rw [latch_append]
    by_cases ha : o = a
    · subst ha
      exact find_tabPut_same _ _ _
    · have hr : o ∈ r := by simpa [ha] using h
      rw [← ih hr]
      exact find_tabPut_ne _ _ _ _ (mt regKey_inj.1 ha)

/-! ## What a read returns and leaves -/

/-- A read of a register that no read clears and that is not latched returns its value and latches. -/
theorem regRead_unlatched {s : State} {p : Page} {off : Nat} (hp : pageReached s p = true)
    (hl : ∀ e ∈ s.latches, e.1 ≠ regKey p off) (hrc : rcMask p off = 0) :
    regRead s p off = (regView s p off, latch s p (latchedBy p off)) := by
  have hfind : s.latches.find? (fun e => e.1 == regKey p off) = none := by simpa using hl
  simp [regRead, hp, hfind, hrc]

theorem regRead_latched {s : State} {p : Page} {off : Nat} {e : Nat × Word} (hp : pageReached s p = true)
    (hfind : s.latches.find? (fun e => e.1 == regKey p off) = some e) : (regRead s p off).1 = e.2 := by
  simp [regRead, hp, hfind]

/-- A read that latches: its answer, its frame, and what the next reads of the latched registers return in any state that
still has its latches. -/
theorem regGet_latches {s : State} {p : Page} {off : Nat} (hp : pageReached s p = true)
    (hl : ∀ e ∈ s.latches, e.1 ≠ regKey p off) (hrc : rcMask p off = 0) (src : Src) :
    let u := regGet s src p off
    u.out = s.out ++ [.value src p off (regView s p off)] ∧ u = { s with latches := u.latches, out := u.out }
      ∧ ∀ v : State, v.latches = u.latches → pageReached v p = true → ∀ o ∈ latchedBy p off,
        (regRead v p o).1 = regView s p o := by
  have hu : regGet s src p off = emit (latch s p (latchedBy p off)) (.value src p off (regView s p off)) := by
    rw [regGet, regRead_unlatched hp hl hrc]
  rw [hu]
  have hout : (latch s p (latchedBy p off)).out = s.out := by rw [latch_eq_withLatches]
  refine ⟨congrArg (· ++ _) hout, ?_, fun v hv hvp o ho => ?_⟩
  · rw [latch_eq_withLatches]; rfl
  · exact regRead_latched hvp (hv ▸ find_latch ho s p)

/-! ## The sillage window and the calendar clock -/

theorem findReg_mem {l : List RegDef} {off : Nat} {d : RegDef} (h : findReg l off = some d) : d ∈ l := by
  induction l with
  | nil => cases h
  | cons r rs ih =>
    rw [findReg] at h
    split at h
    · cases h; exact List.mem_cons_self
    · exact List.mem_cons_of_mem _ (ih h)

/-- A read clears no field of the sillage window (R752). -/
theorem rcMask_window (p : Page) {off : Nat} (h : 0xE00 ≤ off) : rcMask p off = 0 := by
  have hheader : ∀ d ∈ headerRegs, ∀ f ∈ d.flds, f.acc ≠ .rc := by decide
  unfold rcMask
  split
  · rfl
  · next d hd =>
    have hdef : findReg headerRegs off = some d := by
      unfold regAt at hd
      split at hd
      · cases hd
      · simpa only [regDef, h, or_true, if_true] using hd
    refine List.sum_eq_zero fun x hx => ?_
    obtain ⟨f, hf, rfl⟩ := List.mem_map.1 hx
    exact if_neg (hheader d (findReg_mem hdef) f hf)

theorem latchedBy_slot (p : Page) (n : Nat) :
    latchedBy p (0xE00 + 16 * n) = [0xE00 + 16 * n + 4, 0xE00 + 16 * n + 8, 0xE00 + 16 * n + 12] := by
  have h16 : (0xE00 + 16 * n) % 16 = 0 := by omega
  simp [latchedBy, h16]

/-- RTC_SEC_LO, RTC_SEC_HI and RTC_FRAC read the clock (R488). -/
theorem regView_rtc {s : State} (hp : pageReached s (.tkp 0) = true) :
    regView s (.tkp 0) 0x0E0 = BitVec.ofNat 32 (rtcNow s).1
      ∧ regView s (.tkp 0) 0x0E4 = BitVec.ofNat 32 ((rtcNow s).1 / 2 ^ 32 % 2 ^ 16)
      ∧ regView s (.tkp 0) 0x0E8 = BitVec.ofNat 32 (rtcNow s).2 := by
  have hdef : regAt (.tkp 0) 0x0E0 ≠ none ∧ regAt (.tkp 0) 0x0E4 ≠ none ∧ regAt (.tkp 0) 0x0E8 ≠ none := by decide
  obtain ⟨hlo, hhi, hfrac⟩ := hdef
  refine ⟨?_, ?_, ?_⟩
  · simp [regView, hp, hlo, tkpView]
  · simp [regView, hp, hhi, tkpView]
  · simp [regView, hp, hfrac, tkpView]

theorem exec_sillageW0Read (src : Src) (p : Page) (slot : Nat) (s : State) :
    exec (.sillageW0Read src p slot) s = .next (regGet s src p (0xE00 + 16 * (slot % 32))) := rfl

theorem exec_rtcFracRead (src : Src) (s : State) : exec (.rtcFracRead src) s = .next (regGet s src (.tkp 0) 0x0E8) := rfl

/-- Settles O8: both reads are reads that latch (R494, R753). -/
theorem latchedReadsHold : Obligations.LatchedReadsHold := by
  intro s src p slot
  refine ⟨fun hp hl => ⟨_, exec_sillageW0Read src p slot s, ?_⟩, fun hp hl => ⟨_, exec_rtcFracRead src s, ?_⟩⟩
  · obtain ⟨hout, hframe, hnext⟩ := regGet_latches hp hl (rcMask_window p (Nat.le_add_right _ _)) src
    refine ⟨hout, hframe, fun v k hk hv hvp => hnext v hv hvp _ ?_⟩
    rw [latchedBy_slot]
    simpa using hk
  · obtain ⟨hlo, hhi, hfrac⟩ := regView_rtc hp
    obtain ⟨hout, hframe, hnext⟩ := regGet_latches hp hl (by decide) src
    have hby : latchedBy (.tkp 0) 0x0E8 = [0x0E0, 0x0E4] := rfl
    rw [hby] at hnext
    exact ⟨hfrac ▸ hout, hframe, fun v hv hvp =>
      ⟨(hnext v hv hvp 0x0E0 (by simp)).trans hlo, (hnext v hv hvp 0x0E4 (by simp)).trans hhi⟩⟩

end Sys2Proof.Machine
end

section
/-! PROOFS. Every command, and so every step, answers a next state that keeps what Safety.lean names (O4). The laws
Keeps* say it of each operation; here it is put together command by command. -/

namespace Sys2Proof.Machine

/-- A command's outcome is a next state that keeps what no step may change. -/
def Answers (s : State) (o : Host.Outcome State Fault Refusal) : Prop := ∃ u, o = .next u ∧ Keeps s u

theorem answers_next {s u : State} (h : Keeps s u) : Answers s (.next u) := ⟨u, rfl, h⟩

/-- The event of a row does not occur (log 1). -/
theorem answers_same (s : State) : Answers s (.next s) := answers_next (.refl s)

theorem answers_ite {s : State} {c : Prop} [Decidable c] {x y : Host.Outcome State Fault Refusal}
    (hx : Answers s x) (hy : Answers s y) : Answers s (if c then x else y) := by
  split
  · exact hx
  · exact hy

/-- A row that tests a condition and does nothing where it fails. -/
theorem answers_if {s u : State} {c : Prop} [Decidable c] (h : Keeps s u) :
    Answers s (if c then .next u else .next s) := answers_ite (answers_next h) (answers_same s)

theorem keeps_addFaults (s : State) (fl : List UFault) : Keeps s (addFaults s fl) := addFaults_keeps s fl (.refl s)

theorem keeps_atLeast (s : State) (d : Nat) : Keeps s (atLeast s d) := atLeast_keeps s d (.refl s)

/-! ## Rows of the fabric, of the edges and of the clock crossings -/

theorem edgeAbsentRequest_answers (s : State) (x e : Nat) : Answers s (execEdgeAbsentRequest x e s) := by
  unfold execEdgeAbsentRequest
  split
  · exact answers_ite (answers_same s) (answers_next (modEdge_keeps _ _ _ _ (.refl s)))
  · exact answers_same s

theorem ioeAbsentRequest_answers (s : State) (y : Nat) : Answers s (execIoeAbsentRequest y s) := by
  unfold execIoeAbsentRequest
  dsimp only
  split
  · have h := modDie_keeps (z := s) s 1
    exact answers_ite (answers_same s) (answers_next (keeps_ite (h _ (.refl s))
      (keeps_ite (modDie_keeps _ _ _ (h _ (.refl s))) (modDie_keeps _ _ _ (h _ (.refl s))))))
  · exact answers_same s

theorem syncWordFailure_answers (s : State) (g : SyncEdge) : Answers s (execSyncWordFailure g s) := by
  cases g with
  | llk n => exact answers_next (keeps_ite (linkErr_keeps _ _ _ (.refl s)) (.refl s))
  | eth n => exact answers_next (keeps_ite (bucketErr_keeps _ _ _ (.refl s)) (.refl s))
  | mem x e => exact answers_next (keeps_ite (bucketErr_keeps _ _ _ (.refl s)) (.refl s))
  | pcie => exact answers_same s

theorem forkAccept_answers (s : State) (t port vc : Nat) : Answers s (execForkAccept t port vc s) := by
  unfold execForkAccept
  split
  · exact answers_if (headStep_keeps _ _ _ _ _ _ (.refl s))
  · exact answers_same s

theorem creditReturn_answers (s : State) (t port vc : Nat) : Answers s (execCreditReturn t port vc s) :=
  answers_if (setOut_keeps _ _ _ _ _ (.refl s))

theorem keepaliveSend_answers (s : State) (t port : Nat) : Answers s (execKeepaliveSend t port s) :=
  answers_ite (answers_same s) (answers_next (kaSend_keeps _ _ _ (.refl s)))

theorem keepaliveTimeout_answers (s : State) (t port : Nat) : Answers s (execKeepaliveTimeout t port s) :=
  answers_if (fabFail_keeps _ _ (keeps_atLeast s _))

/-! ## Rows that serve a request -/

/-- A request that tile t may have at the head of its L port. -/
theorem tileServe_keeps (s : State) (flt : List UFault) (t : Nat) (o : Option Packet) (act : State → Packet → State)
    (h : ∀ x q, Keeps s x → Keeps s (act x q)) :
    Keeps s (o.elim s (fun q => serveTile (addFaults s flt) t q (fun x => act x q))) :=
  keeps_elim (.refl s) fun _ => serveTile_keeps _ _ _ _ (keeps_addFaults s flt) fun _ => h _ _

/-- The same at memory edge e of column x. -/
theorem edgeServe_keeps (s : State) (flt : List UFault) (x e : Nat) (o : Option Packet) (act : State → Packet → State)
    (h : ∀ y q, Keeps s y → Keeps s (act y q)) :
    Keeps s (o.elim s (fun q => memServe (addFaults s flt) x e q (fun y => act y q))) :=
  keeps_elim (.refl s) fun _ => memServe_keeps _ _ _ _ _ (keeps_addFaults s flt) fun _ => h _ _

/-- The same at a place that only refuses. -/
theorem dieServe_keeps (s : State) (p : Place) (o : Option Packet) :
    Keeps s (o.elim s (fun q => serveEdge s p q (fun x => x))) :=
  keeps_elim (.refl s) fun _ => serveEdge_keeps _ _ _ _ (.refl s) fun _ => id

theorem rd_answers (s : State) (p : Place) (flt : List UFault) : Answers s (execRd p flt s) := by
  cases p with
  | tile t => exact answers_next (tileServe_keeps s flt t _ (fun x q => tmRead x t q) fun _ _ => tmRead_keeps _ _ _)
  | mem x e =>
    exact answers_next (edgeServe_keeps s flt x e _ (fun y q => memRead y x e q (parHit flt))
      fun _ _ => memRead_keeps _ _ _ _ _)
  | io d => exact answers_next (dieServe_keeps s _ _)

theorem wr_answers (s : State) (p : Place) (flt : List UFault) : Answers s (execWr p flt s) := by
  cases p with
  | tile t => exact answers_next (tileServe_keeps s flt t _ (fun x q => tmWrite x t q) fun _ _ => tmWrite_keeps _ _ _)
  | mem x e =>
    exact answers_next (edgeServe_keeps s flt x e _ (fun y q => memWriteReq y x e q (parHit flt))
      fun _ _ => memWriteReq_keeps _ _ _ _ _)
  | io d => exact answers_next (dieServe_keeps s _ _)

theorem wra_answers (s : State) (p : Place) (flt : List UFault) : Answers s (execWra p flt s) := by
  cases p with
  | tile t => exact answers_next (tileServe_keeps s flt t _ (fun x q => tmWrite x t q) fun _ _ => tmWrite_keeps _ _ _)
  | mem x e =>
    exact answers_next (edgeServe_keeps s flt x e _ (fun y q => memWriteReq y x e q (parHit flt))
      fun _ _ => memWriteReq_keeps _ _ _ _ _)
  | io d => exact answers_next (dieServe_keeps s _ _)

theorem trace_answers (s : State) (x e : Nat) : Answers s (execTrace x e s) :=
  answers_next (keeps_elim (.refl s) fun _ =>
    memServe_keeps _ _ _ _ _ (.refl s) fun _ => memWriteReq_keeps _ _ _ _ _)

theorem msg_answers (s : State) (t : Nat) : Answers s (execMsg t s) := by
  unfold execMsg
  split
  · exact answers_next (serveTile_keeps _ _ _ _ (.refl s) fun _ => rqMessage_keeps _ _ _)
  · exact answers_same s

theorem contrib_answers (s : State) (p : Place) (flt : List UFault) : Answers s (execContrib p flt s) := by
  unfold execContrib
  split
  · split
    · exact answers_next (serveTile_keeps _ _ _ _ (keeps_addFaults s flt) fun _ => cqContrib_keeps _ _ _)
    · exact answers_same s
  · split
    · exact answers_next (serveEdge_keeps _ _ _ _ (.refl s) fun _ => id)
    · exact answers_same s

theorem cres_answers (s : State) (t : Nat) : Answers s (execCres t s) := by
  unfold execCres
  split
  · exact answers_next (serveTile_keeps _ _ _ _ (.refl s) fun _ h =>
      keeps_ite (rqMessage_keeps _ _ _ h) (tmWrite_keeps _ _ _ h))
  · exact answers_same s

theorem resv_answers (s : State) (t : Nat) : Answers s (execResv t s) := by
  unfold execResv
  split
  · exact answers_next (serveTile_keeps _ _ _ _ (.refl s) fun _ => resvTake_keeps _ _ _)
  · exact answers_same s

theorem conf_answers (s : State) (t : Nat) : Answers s (execConf t s) := by
  unfold execConf
  split
  · exact answers_next (serveTile_keeps _ _ _ _ (.refl s) fun _ => resvConf_keeps _ _ _)
  · exact answers_same s

theorem wdrw_answers (s : State) (t : Nat) : Answers s (execWdrw t s) := by
  unfold execWdrw
  split
  · exact answers_next (serveTile_keeps _ _ _ _ (.refl s) fun _ => resvWdrw_keeps _ _ _)
  · exact answers_same s

theorem signal_answers (s : State) (t : Nat) : Answers s (execSignal t s) := by
  unfold execSignal
  split
  · exact answers_next (serveTile_keeps _ _ _ _ (.refl s) fun _ => semSignal_keeps _ _ _)
  · exact answers_same s

/-! ## Rows of CMB -/

theorem deq_answers (s : State) (t : Nat) (flt : List UFault) : Answers s (execDeq t flt s) := by
  unfold execDeq
  split
  · exact answers_next (deqRun_keeps _ _ _ (keeps_addFaults s flt))
  · exact answers_same s

theorem drop_answers (s : State) (t : Nat) : Answers s (execDrop t s) := by
  unfold execDrop
  split
  · exact answers_next (dropRun_keeps _ _ _ (.refl s))
  · exact answers_same s

theorem cqarm_answers (s : State) (t : Nat) : Answers s (execCqarm t s) := by
  unfold execCqarm
  split
  · exact answers_next (armRun_keeps _ _ _ (.refl s))
  · exact answers_same s

theorem cqrst_answers (s : State) (t : Nat) : Answers s (execCqrst t s) := by
  unfold execCqrst
  split
  · exact answers_next (cqrstRun_keeps _ _ _ (.refl s))
  · exact answers_same s

theorem bpHoldExpiry_answers (s : State) (t n : Nat) : Answers s (execBpHoldExpiry t n s) := by
  unfold execBpHoldExpiry
  split
  · exact answers_next (keeps_ite (stallOver_keeps _ _ (.refl s)) (.refl s))
  · exact answers_same s

theorem refusalEntryExpiry_answers (s : State) (t n : Nat) : Answers s (execRefusalEntryExpiry t n s) := by
  unfold execRefusalEntryExpiry
  split
  · split
    · exact answers_next (modTile_keeps _ _ _ (keeps_atLeast s _))
    · exact answers_same s
  · exact answers_same s

theorem resvHeldExpiry_answers (s : State) (t : Nat) (who ep : Word) (tag : Half) :
    Answers s (execResvHeldExpiry t who ep tag s) := by
  unfold execResvHeldExpiry
  split
  · exact answers_if (resvExpire_keeps _ _ _ (keeps_atLeast s _))
  · exact answers_same s

theorem confTimeout_answers (s : State) (t : Nat) (who ep : Word) (tag : Half) :
    Answers s (execConfTimeout t who ep tag s) := by
  unfold execConfTimeout
  split
  · exact answers_if (resvExpire_keeps _ _ _ (keeps_atLeast s _))
  · exact answers_same s

theorem cmbResend_answers (s : State) (t n : Nat) (tag : Half) : Answers s (execCmbResend t n tag s) := by
  unfold execCmbResend
  split
  · exact answers_if (cmbPump_keeps _ _ (resPut_keeps _ _ _ _ _ (keeps_atLeast s _)))
  · exact answers_same s

/-! ## Rows of CMP and MOV -/

theorem tdesc_answers (s : State) (t : Nat) : Answers s (execTdesc t s) := by
  unfold execTdesc
  split
  · exact answers_if (tdescRun_keeps _ _ _ (.refl s))
  · exact answers_same s

theorem cmpComplete_answers (s : State) (t : Nat) : Answers s (execCmpComplete t s) := by
  unfold execCmpComplete
  split
  · exact answers_ite (answers_same s) (answers_next (cmpEnd_keeps _ _ _ (.refl s)))
  · exact answers_same s

theorem maddr_answers (s : State) (t : Nat) : Answers s (execMaddr t s) := by
  unfold execMaddr
  split
  · exact answers_next (movPump_keeps _ _ (movNote_keeps _ _ _ _ _ (putMadAddr_keeps _ _ _ _ _
      (putReg_keeps _ _ _ _ (movNote_keeps _ _ _ _ _ (popMov_keeps _ _ (.refl s)))))))
  · exact answers_same s

theorem mnode_answers (s : State) (t : Nat) : Answers s (execMnode t s) := by
  unfold execMnode
  split
  · exact answers_next (movPump_keeps _ _ (movNote_keeps _ _ _ _ _ (putReg_keeps _ _ _ _
      (putReg_keeps _ _ _ _ (movNote_keeps _ _ _ _ _ (popMov_keeps _ _ (.refl s)))))))
  · exact answers_same s

theorem copy_answers (s : State) (t : Nat) (flt : List UFault) : Answers s (execCopy t flt s) := by
  unfold execCopy
  split
  · exact answers_next (movBegin_keeps _ _ _ (keeps_addFaults s flt))
  · exact answers_same s

theorem movMsg_answers (s : State) (t : Nat) (flt : List UFault) : Answers s (execMovMsg t flt s) := by
  unfold execMovMsg
  split
  · exact answers_next (movBegin_keeps _ _ _ (keeps_addFaults s flt))
  · exact answers_same s

theorem movContrib_answers (s : State) (t : Nat) (flt : List UFault) : Answers s (execMovContrib t flt s) := by
  unfold execMovContrib
  split
  · exact answers_next (movBegin_keeps _ _ _ (keeps_addFaults s flt))
  · exact answers_same s

theorem movResend_answers (s : State) (t : Nat) (tag : Half) : Answers s (execMovResend t tag s) := by
  unfold execMovResend
  split
  · have h := fun (r : MovReq) f => modTile_keeps (z := s) _ t f (keeps_atLeast s (r.due.getD 0))
    exact answers_if (iqPush_keeps _ _ _ _ (keeps_ite (h _ _) (sillage_keeps _ _ _ _ _ _ _ (h _ _))))
  · exact answers_same s

theorem wrackTimer_answers (s : State) (p : Place) (me src : Word) : Answers s (execWrackTimer p me src s) := by
  unfold execWrackTimer
  split
  · exact answers_next (ackSend_keeps _ _ _ (keeps_atLeast s _))
  · exact answers_same s

theorem leaseDelivery_answers (s : State) (t : Nat) (tag : Half) : Answers s (execLeaseDelivery t tag s) := by
  unfold execLeaseDelivery
  split
  · exact answers_if (movDeliver_keeps _ _ _ _ (modTile_keeps _ _ _ (keeps_atLeast s _)))
  · exact answers_same s

/-! ## Rows of SEQ -/

theorem branchResolve_answers (s : State) (t lc k : Nat) : Answers s (execBranchResolve t lc k s) := by
  unfold execBranchResolve
  split
  · exact answers_if (resolveBranch_keeps _ _ _ _ _ (.refl s))
  · exact answers_same s

theorem waitTimeout_answers (s : State) (t lc : Nat) : Answers s (execWaitTimeout t lc s) := by
  unfold execWaitTimeout
  split
  · split
    · refine answers_ite ?_ (answers_same s)
      dsimp only
      split
      next h => exact answers_next (waitLeave_keeps _ _ _ (waitTry_keeps h (keeps_atLeast s _)))
      next => exact answers_next (seqFault_keeps _ _ _ _ _ _ (keeps_atLeast s _))
    · exact answers_same s
  · exact answers_same s

/-! ## Rows of time, of gate lists and of links -/

theorem sync_answers (s : State) (n : Nat) (m : SyncMsg) (crcOk : Bool) (turn : Nat) :
    Answers s (execSync n m crcOk turn s) :=
  answers_ite (answers_next (syncSend_keeps _ _ (.refl s))) (answers_ite (answers_same s)
    (answers_ite (answers_next (sbErr_keeps _ _ (.refl s))) (answers_if (syncTake_keeps _ _ _ _ (.refl s)))))

theorem dreq_answers (s : State) (n : Nat) (sn : Half) (lanesel crcOk : Bool) :
    Answers s (execDreq n sn lanesel crcOk s) := by
  have h := modLink_keeps (z := s) s n (fun l => { l with lanesel := lanesel }) (.refl s)
  exact answers_ite (answers_same s) (answers_ite (answers_next (sbErr_keeps _ _ (.refl s)))
    (answers_ite (answers_next (emit_keeps _ _ (sbPush_keeps _ _ _ h))) (answers_next (keeps_ite h (.refl s)))))

theorem drsp_answers (s : State) (n t4 : Nat) (sn : Half) (crcOk : Bool) : Answers s (execDrsp n t4 sn crcOk s) :=
  answers_ite (answers_same s) (answers_ite (answers_next (sbErr_keeps _ _ (.refl s)))
    (answers_if (drspTake_keeps _ _ _ (.refl s))))

theorem ppsOutFall_answers (s : State) : Answers s (execPpsOutFall s) :=
  answers_if (emit_keeps _ _ (keeps_same (keeps_atLeast s _) rfl rfl rfl rfl))

theorem egressStart_answers (s : State) (g : GPlace) : Answers s (execEgressStart g s) := by
  cases g with
  | llk n => exact answers_next (keeps_ite (llkStart_keeps _ _ (.refl s)) (.refl s))
  | eth n => exact answers_next (ethStart_keeps _ _ (.refl s))
  | mov t => exact answers_next (injectAt_keeps _ _ (.refl s))

theorem shaperRateWrite_answers (s : State) (src : Src) (g : GPlace) (k : Nat) (cbs : Bool) (v : Word) :
    Answers s (execShaperRateWrite src g k cbs v s) :=
  answers_ite (answers_same s) (answers_ite (answers_next (regPut_keeps _ _ _ _ _ (.refl s)))
    (answers_next (regPut_keeps _ _ _ _ _ (.refl s))))

theorem lf128Block_answers (s : State) (n : Nat) (b : LfBlock) (lost far : List Nat) :
    Answers s (execLf128Block n b lost far s) := by
  have h := blockTake_keeps s n b lost far (.refl s)
  refine answers_next (blockSend_keeps _ _ ?_)
  split
  · exact keeps_ite (waveTake_keeps _ _ _ h) h
  · exact h

theorem ackTimer_answers (s : State) (n : Nat) : Answers s (execAckTimer n s) :=
  answers_ite (answers_next (sendCtrl_keeps _ _ _ (keeps_atLeast s _))) (answers_if (sendCtrl_keeps _ _ _ (.refl s)))

theorem ppLdi_answers (s : State) (n : Nat) : Answers s (execPpLdi n s) := by
  unfold execPpLdi
  split
  · exact answers_same s
  · exact answers_next (ppSet_keeps _ _ _ _ _ (.refl s))

/-! ## Every command and every step -/

/-- Every command answers a next state and keeps what no step may change: one arm per row of the table. -/
theorem exec_answers (i : Instr) (s : State) : Answers s (exec i s) := by
  cases i with
  | edgeAbsentRequest _ _ => exact edgeAbsentRequest_answers s _ _
  | ioeAbsentRequest _ => exact ioeAbsentRequest_answers s _
  | syncWordFailure _ => exact syncWordFailure_answers s _
  | registerWrite _ _ _ _ _ _ => exact answers_next (regWrite_keeps _ _ _ _ _ (.refl s))
  | rcRead _ _ _ _ _ => exact answers_next (regGetRc_keeps _ _ _ _ _ _ (.refl s))
  | registerPairRead _ _ _ => exact answers_next (regGet_keeps _ _ _ _ (.refl s))
  | hifSyncRead => exact answers_next (hifSyncOp_keeps _ (.refl s))
  | pgLock _ _ => exact answers_next (regPut_keeps _ _ _ _ _ (.refl s))
  | pgIfr _ _ _ => exact answers_next (regPut_keeps _ _ _ _ _ (.refl s))
  | srst _ _ => exact answers_next (regPut_keeps _ _ _ _ _ (.refl s))
  | evrClr _ _ => exact answers_next (regPut_keeps _ _ _ _ _ (.refl s))
  | perfClr _ _ => exact answers_next (regPut_keeps _ _ _ _ _ (.refl s))
  | seqIssueSlot _ _ => exact answers_next (issueSlot_keeps _ _ (keeps_addFaults s _))
  | nop _ => exact answers_next (issueRow_keeps _ _ _ (.refl s))
  | endList _ => exact answers_next (issueRow_keeps _ _ _ (.refl s))
  | jmp _ => exact answers_next (issueRow_keeps _ _ _ (.refl s))
  | br _ => exact answers_next (issueRow_keeps _ _ _ (.refl s))
  | branchResolve _ _ _ => exact branchResolve_answers s _ _ _
  | ldlc _ => exact answers_next (issueRow_keeps _ _ _ (.refl s))
  | semSet _ => exact answers_next (issueRow_keeps _ _ _ (.refl s))
  | semAdd _ => exact answers_next (issueRow_keeps _ _ _ (.refl s))
  | semSub _ => exact answers_next (issueRow_keeps _ _ _ (.refl s))
  | sig _ => exact answers_next (issueRow_keeps _ _ _ (.refl s))
  | wait _ => exact answers_next (issueRow_keeps _ _ _ (.refl s))
  | waitRelease _ _ => exact answers_next (waitEnd_keeps _ _ _ _ (.refl s))
  | waitsel _ => exact answers_next (issueRow_keeps _ _ _ (.refl s))
  | waitselSelect _ _ => exact answers_next (waitEnd_keeps _ _ _ _ (.refl s))
  | waitTimeout _ _ => exact waitTimeout_answers s _ _
  | fence _ => exact answers_next (issueRow_keeps _ _ _ (.refl s))
  | fenceComplete _ _ => exact answers_next (waitEnd_keeps _ _ _ _ (.refl s))
  | hdr _ => exact answers_next (issueRow_keeps _ _ _ (.refl s))
  | contextDrained _ _ => exact answers_if (drained_keeps _ _ _ (.refl s))
  | load _ _ _ => exact answers_next (regPut_keeps _ _ _ _ _ (.refl s))
  | loadDecision _ _ => exact answers_if (loadDecide_keeps _ _ _ (.refl s))
  | abort _ _ _ => exact answers_next (regPut_keeps _ _ _ _ _ (.refl s))
  | predclr _ _ => exact answers_next (regPut_keeps _ _ _ _ _ (.refl s))
  | tdesc _ => exact tdesc_answers s _
  | mm _ _ => exact answers_next (cmpStart_keeps _ _ _ _ (.refl s))
  | mma _ _ => exact answers_next (cmpStart_keeps _ _ _ _ (.refl s))
  | mmt _ _ => exact answers_next (cmpStart_keeps _ _ _ _ (.refl s))
  | add _ _ => exact answers_next (cmpStart_keeps _ _ _ _ (.refl s))
  | sub _ _ => exact answers_next (cmpStart_keeps _ _ _ _ (.refl s))
  | mul _ _ => exact answers_next (cmpStart_keeps _ _ _ _ (.refl s))
  | max _ _ => exact answers_next (cmpStart_keeps _ _ _ _ (.refl s))
  | min _ _ => exact answers_next (cmpStart_keeps _ _ _ _ (.refl s))
  | fma _ _ => exact answers_next (cmpStart_keeps _ _ _ _ (.refl s))
  | scale _ _ => exact answers_next (cmpStart_keeps _ _ _ _ (.refl s))
  | abs _ _ => exact answers_next (cmpStart_keeps _ _ _ _ (.refl s))
  | neg _ _ => exact answers_next (cmpStart_keeps _ _ _ _ (.refl s))
  | lut _ _ => exact answers_next (cmpStart_keeps _ _ _ _ (.refl s))
  | rsum _ _ => exact answers_next (cmpStart_keeps _ _ _ _ (.refl s))
  | rmax _ _ => exact answers_next (cmpStart_keeps _ _ _ _ (.refl s))
  | rmin _ _ => exact answers_next (cmpStart_keeps _ _ _ _ (.refl s))
  | rssq _ _ => exact answers_next (cmpStart_keeps _ _ _ _ (.refl s))
  | trans _ _ => exact answers_next (cmpStart_keeps _ _ _ _ (.refl s))
  | cpy _ _ => exact answers_next (cmpStart_keeps _ _ _ _ (.refl s))
  | cvt _ _ => exact answers_next (cmpStart_keeps _ _ _ _ (.refl s))
  | fill _ _ => exact answers_next (cmpStart_keeps _ _ _ _ (.refl s))
  | cmpComplete _ => exact cmpComplete_answers s _
  | maddr _ => exact maddr_answers s _
  | mnode _ => exact mnode_answers s _
  | copy _ _ => exact copy_answers s _ _
  | movMsg _ _ => exact movMsg_answers s _ _
  | movContrib _ _ => exact movContrib_answers s _ _
  | movComplete _ => exact answers_if (movFinish_keeps _ _ (.refl s))
  | movResend _ _ => exact movResend_answers s _ _
  | pelClr _ _ => exact answers_next (regPut_keeps _ _ _ _ _ (.refl s))
  | injectPacket _ => exact answers_next (injectAt_keeps _ _ (.refl s))
  | wrackTimer _ _ _ => exact wrackTimer_answers s _ _ _
  | rd _ _ => exact rd_answers s _ _
  | wr _ _ => exact wr_answers s _ _
  | wra _ _ => exact wra_answers s _ _
  | msg _ => exact msg_answers s _
  | contrib _ _ => exact contrib_answers s _ _
  | cres _ => exact cres_answers s _
  | resv _ => exact resv_answers s _
  | conf _ => exact conf_answers s _
  | wdrw _ => exact wdrw_answers s _
  | regrd _ => exact answers_next (regReq_keeps _ _ _ (.refl s))
  | regwr _ => exact answers_next (regReq_keeps _ _ _ (.refl s))
  | signal _ => exact signal_answers s _
  | trace _ _ => exact trace_answers s _ _
  | rdrsp _ => exact answers_next (takeRsp_keeps _ _ _ (.refl s))
  | wrack _ => exact answers_next (takeRsp_keeps _ _ _ (.refl s))
  | wfn _ => exact answers_next (takeRsp_keeps _ _ _ (.refl s))
  | nak _ => exact answers_next (takeRsp_keeps _ _ _ (.refl s))
  | dead _ => exact answers_next (takeRsp_keeps _ _ _ (.refl s))
  | rsvack _ => exact answers_next (takeRsp_keeps _ _ _ (.refl s))
  | regrsp _ => exact answers_next (takeRsp_keeps _ _ _ (.refl s))
  | resvHeldExpiry _ _ _ _ => exact resvHeldExpiry_answers s _ _ _ _
  | confTimeout _ _ _ _ => exact confTimeout_answers s _ _ _ _
  | leaseRequest _ _ _ _ _ => exact answers_next (regPut_keeps _ _ _ _ _ (.refl s))
  | leaseEnd _ _ _ => exact answers_next (regPut_keeps _ _ _ _ _ (.refl s))
  | leaseDelivery _ _ => exact leaseDelivery_answers s _ _
  | routerPacket _ _ _ _ _ => exact answers_next (routePacket_keeps _ _ _ _ _ _ (.refl s))
  | forkAccept _ _ _ => exact forkAccept_answers s _ _ _
  | forkBranchStart _ _ _ => exact answers_if (forkStart_keeps _ _ _ _ (.refl s))
  | creditReturn _ _ _ => exact creditReturn_answers s _ _ _
  | keepaliveSend _ _ => exact keepaliveSend_answers s _ _
  | keepaliveTimeout _ _ => exact keepaliveTimeout_answers s _ _
  | tilIsoOff _ _ => exact answers_next (regPut_keeps _ _ _ _ _ (.refl s))
  | watchdogExpiry _ => exact answers_next (watchdog_keeps _ _ (.refl s))
  | vcorePowerLoss _ => exact answers_next (isolate_keeps _ _ _ (modTile_keeps _ _ _ (.refl s)))
  | deq _ _ => exact deq_answers s _ _
  | drop _ => exact drop_answers s _
  | cqarm _ => exact cqarm_answers s _
  | cqArmed _ _ => exact answers_if (modCq_keeps _ _ _ _ (cqSetState_keeps _ _ _ _ (.refl s)))
  | cqrst _ => exact cqrst_answers s _
  | bpHoldExpiry _ _ => exact bpHoldExpiry_answers s _ _
  | refusalEntryExpiry _ _ => exact refusalEntryExpiry_answers s _ _
  | cmbRqEn _ _ _ _ => exact answers_next (regPut_keeps _ _ _ _ _ (.refl s))
  | cqEn _ _ _ _ => exact answers_next (regPut_keeps _ _ _ _ _ (.refl s))
  | cmbResend _ _ _ => exact cmbResend_answers s _ _ _
  | timeWave _ => exact answers_next (timeWave_keeps _ _ (.refl s))
  | ntWrap => exact answers_next (atT_keeps _ _ (.refl s))
  | tkpSrc _ _ => exact answers_next (regPut_keeps _ _ _ _ _ (.refl s))
  | fwst _ _ => exact answers_next (regPut_keeps _ _ _ _ _ (.refl s))
  | ppsInEdge => exact answers_next (ppsIn_keeps _ (.refl s))
  | ppsLoss => exact answers_if (tkpSet_keeps _ _ (keeps_atLeast s _))
  | holdoverExpiry => exact answers_if (tkpSet_keeps _ _ (keeps_atLeast s _))
  | tkpPhase _ _ => exact answers_next (regPut_keeps _ _ _ _ _ (.refl s))
  | tkpStep _ _ _ => exact answers_next (regPut_keeps _ _ _ _ _ (regPut_keeps _ _ _ _ _ (.refl s)))
  | rtcSet _ _ _ => exact answers_next (regPut_keeps _ _ _ _ _ (regPut_keeps _ _ _ _ _ (.refl s)))
  | rtcsync _ => exact answers_next (regPut_keeps _ _ _ _ _ (.refl s))
  | rtcLoadFromNt => exact answers_if (rtcLoad_keeps _ (.refl s))
  | rtcFracRead _ => exact answers_next (regGet_keeps _ _ _ _ (.refl s))
  | sync _ _ _ _ => exact sync_answers s _ _ _ _
  | dreq _ _ _ _ => exact dreq_answers s _ _ _ _
  | drsp _ _ _ _ => exact drsp_answers s _ _ _ _
  | accordExchangeMiss _ => exact answers_if (accMiss_keeps _ _ (.refl s))
  | accordHoldoverTimeout _ => exact answers_if (accSet_keeps _ _ _ (keeps_atLeast s _))
  | accordAcquireTimeout _ => exact answers_if (accSet_keeps _ _ _ (keeps_atLeast s _))
  | accRole _ _ _ => exact answers_next (regPut_keeps _ _ _ _ _ (.refl s))
  | vbatLow => exact answers_ite (answers_same s) (answers_next (putBit_keeps _ _ _ _ _ (.refl s)))
  | rtcOscStop => exact answers_next (putBit_keeps _ _ _ _ _ (rtcPut_keeps _ _ _ (.refl s)))
  | rtcOscResume => exact answers_next (putBit_keeps _ _ _ _ _ (rtcPut_keeps _ _ _ (.refl s)))
  | ppsOutRise => exact answers_if (ppsRise_keeps _ (.refl s))
  | ppsOutFall => exact ppsOutFall_answers s
  | chg _ _ => exact answers_next (gclBit_keeps _ _ _ _ (.refl s))
  | cancel _ _ => exact answers_next (gclBit_keeps _ _ _ _ (.refl s))
  | halt _ _ => exact answers_next (gclBit_keeps _ _ _ _ (.refl s))
  | gclSwitch _ => exact answers_if (gclSwitch_keeps _ _ (atT_keeps _ _ (.refl s)))
  | gateEntryStart _ => exact answers_ite (answers_same s) (answers_next (atT_keeps _ _ (.refl s)))
  | egressStart _ => exact egressStart_answers s _
  | tblRead _ _ _ _ => exact answers_next (regPut_keeps _ _ _ _ _ (.refl s))
  | tblWrite _ _ _ _ => exact answers_next (regPut_keeps _ _ _ _ _ (.refl s))
  | shpEnable _ _ _ _ => exact answers_if (regPut_keeps _ _ _ _ _ (.refl s))
  | shaperRateWrite _ _ _ _ _ => exact shaperRateWrite_answers s _ _ _ _ _
  | lf128Block _ _ _ _ => exact lf128Block_answers s _ _ _ _
  | dataFrame _ _ _ => exact answers_next (dataFrame_keeps _ _ _ _ (.refl s))
  | ctrlFrame _ _ => exact answers_next (ctrlFrame_keeps _ _ _ (.refl s))
  | ackTimer _ => exact ackTimer_answers s _
  | replayTimeout _ => exact answers_if (replay_keeps _ _ (keeps_atLeast s _))
  | waveCode _ _ => exact answers_next (waveTake_keeps _ _ _ (.refl s))
  | train _ _ => exact answers_next (regPut_keeps _ _ _ _ _ (.refl s))
  | llkDown _ _ => exact answers_next (regPut_keeps _ _ _ _ _ (.refl s))
  | trainDetect _ _ => exact answers_next (trainDetect_keeps _ _ _ (.refl s))
  | trainEqual _ => exact answers_next (trainEqual_keeps _ _ (.refl s))
  | trainDeskew _ _ => exact answers_next (trainDeskew_keeps _ _ _ (.refl s))
  | trainIdent _ _ _ _ => exact answers_next (trainIdent_keeps _ _ _ _ _ (.refl s))
  | trainTimeout _ => exact answers_next (trainTimeout_keeps _ _ (.refl s))
  | narrowDeskew _ => exact answers_if (resendAll_keeps _ _ (accStart_keeps _ _ (llkSet_keeps _ _ _ _ (.refl s))))
  | oswPacket _ => exact answers_next (oswPacket_keeps _ _ (.refl s))
  | scrubVisit _ _ _ => exact answers_next (scrubVisit_keeps _ _ _ _ (.refl s))
  | refresh _ _ => exact answers_next (refreshOne_keeps _ _ _ (.refl s))
  | stackTemperature _ _ => exact answers_next (stackTemp_keeps _ _ _ (.refl s))
  | hostRead _ _ _ => exact answers_next (hostReadOp_keeps _ _ _ _ (.refl s))
  | hostWrite _ _ _ _ => exact answers_next (hostWriteOp_keeps _ _ _ _ _ (.refl s))
  | hifResend _ => exact answers_next (hifResendDue_keeps _ _ (.refl s))
  | hifCto _ => exact answers_next (hifCtoDue_keeps _ _ (.refl s))
  | configRequest _ => exact answers_next (configOp_keeps _ _ (.refl s))
  | flr => exact answers_next (flrOp_keeps _ (.refl s))
  | msixUnmask _ => exact answers_next (msixOpen_keeps _ _ (.refl s))
  | msixWindowEnd _ => exact answers_next (msixWindow_keeps _ _ (.refl s))
  | smbAddr _ _ => exact answers_next (smbAddrOp_keeps _ _ _ (.refl s))
  | smbData _ _ => exact answers_next (smbDataOp_keeps _ _ _ (.refl s))
  | smbStatus => exact answers_next (smbStatusOp_keeps _ (.refl s))
  | rxFrame _ _ _ _ => exact answers_next (ethRx_keeps _ _ _ _ _ (.refl s))
  | pfcFrame _ _ => exact answers_next (pfcTake_keeps _ _ _ (.refl s))
  | pfcRepeat _ _ => exact answers_next (pfcRepeat_keeps _ _ _ (.refl s))
  | ethRingTail _ _ _ _ _ => exact answers_next (regPut_keeps _ _ _ _ _ (.refl s))
  | ethRingEn _ _ _ _ _ => exact answers_next (regPut_keeps _ _ _ _ _ (.refl s))
  | txFrameFetch _ _ => exact answers_next (txFetch_keeps _ _ _ (.refl s))
  | txFrameDone _ _ => exact answers_next (txDone_keeps _ _ _ (.refl s))
  | ethLinkChange _ _ _ => exact answers_next (ethLink_keeps _ _ _ _ (.refl s))
  | glzRingTail _ _ _ => exact answers_next (regPut_keeps _ _ _ _ _ (.refl s))
  | glzRingFetch _ => exact answers_next (glzFetch_keeps _ _ (.refl s))
  | glzQueueMsg _ => exact answers_next (glzMsg_keeps _ _ (.refl s))
  | target _ => exact answers_next (glzSimple_keeps _ _ _ _ (.refl s) fun _ _ => glzTarget_keeps _ _ _)
  | region _ => exact answers_next (glzSimple_keeps _ _ _ _ (.refl s) fun _ _ => glzRegion_keeps _ _ _)
  | cgroup _ => exact answers_next (glzSimple_keeps _ _ _ _ (.refl s) fun _ _ => glzCgroup_keeps _ _ _)
  | dstate _ => exact answers_next (glzSimple_keeps _ _ _ _ (.refl s) fun _ _ => glzDstate_keeps _ _ _)
  | prog _ =>
    exact answers_ite (answers_same s) (answers_next (glzSimple_keeps _ _ _ _ (.refl s) fun _ _ => glzProg_keeps _ _ _))
  | loper _ => exact answers_next (glzSimple_keeps _ _ _ _ (.refl s) fun _ _ => glzLoper_keeps _ _ _)
  | draw _ _ =>
    exact answers_next (glzRecord_keeps _ _ _ _ (.refl s) fun _ _ h => glzDraw_keeps _ _ _ (addFaults_keeps _ _ h))
  | splat _ _ =>
    exact answers_next (glzRecord_keeps _ _ _ _ (.refl s) fun _ _ h => glzSplat_keeps _ _ _ (addFaults_keeps _ _ h))
  | clear _ => exact answers_next (glzSimple_keeps _ _ _ _ (.refl s) fun _ _ => glzClear_keeps _ _ _)
  | dresolve _ => exact answers_next (glzSimple_keeps _ _ _ _ (.refl s) fun _ _ => glzDresolve_keeps _ _ _)
  | bvh _ => exact answers_next (glzSimple_keeps _ _ _ _ (.refl s) fun _ _ => glzBvh_keeps _ _ _)
  | rayq _ _ =>
    exact answers_next (glzSimple_keeps _ _ _ _ (.refl s) fun _ _ h => glzRayq_keeps _ _ _ (addFaults_keeps _ _ h))
  | glzFence _ => exact answers_if (glzSimple_keeps _ _ _ _ (.refl s) fun _ _ => glzFence_keeps _ _ _)
  | fragmentRetire _ _ => exact answers_next (fragRetire_keeps _ _ (keeps_addFaults s _))
  | glzPaused _ => exact answers_next (glzPaused_keeps _ _ (.refl s))
  | glzResume _ _ => exact answers_next (regPut_keeps _ _ _ _ _ (.refl s))
  | ppEnd _ => exact answers_next (ppCommit_keeps _ _ (.refl s))
  | ppMov _ => exact answers_next (ppAlu_keeps _ _ _ _ (.refl s))
  | ppAdd _ => exact answers_next (ppAlu_keeps _ _ _ _ (.refl s))
  | ppSub _ => exact answers_next (ppAlu_keeps _ _ _ _ (.refl s))
  | ppMul _ => exact answers_next (ppAlu_keeps _ _ _ _ (.refl s))
  | ppFma _ => exact answers_next (ppAlu_keeps _ _ _ _ (.refl s))
  | ppMin _ => exact answers_next (ppAlu_keeps _ _ _ _ (.refl s))
  | ppMax _ => exact answers_next (ppAlu_keeps _ _ _ _ (.refl s))
  | ppRcp _ => exact answers_next (ppAlu_keeps _ _ _ _ (.refl s))
  | ppRsq _ => exact answers_next (ppAlu_keeps _ _ _ _ (.refl s))
  | ppEx2 _ => exact answers_next (ppAlu_keeps _ _ _ _ (.refl s))
  | ppLg2 _ => exact answers_next (ppAlu_keeps _ _ _ _ (.refl s))
  | ppLdi _ => exact ppLdi_answers s _
  | ppLdf _ => exact answers_next (ppField_keeps _ _ (.refl s))
  | ppLdp _ => exact answers_next (ppPixel_keeps _ _ (.refl s))
  | ppStp _ => exact answers_next (ppStage_keeps _ _ (.refl s))
  | ppKill _ => exact answers_next (ppKillIf_keeps _ _ (.refl s))
  | bucketLeak _ _ => exact answers_next (keeps_ite (bucketLeak_keeps _ _ _ (.refl s)) (.refl s))
  | responseTimeout _ => exact answers_next (respTimeout_keeps _ _ (.refl s))
  | tagRelease _ _ => exact answers_next (tagFree_keeps _ _ _ (.refl s))
  | scrRetire _ _ => exact answers_next (regPut_keeps _ _ _ _ _ (.refl s))
  | rlogPop _ => exact answers_next (regPut_keeps _ _ _ _ _ (.refl s))
  | bucketThrWrite _ _ _ _ => exact answers_next (regPut_keeps _ _ _ _ _ (.refl s))
  | fullerPass _ => exact answers_next (fullerPass_keeps _ _ (.refl s))
  | stop _ => exact answers_next (pkgBit_keeps _ _ _ (.refl s))
  | stopInEdge => exact answers_next (keeps_ite (stopTrigger_keeps _ _ _ _ (.refl s)) (.refl s))
  | blockHalt _ => exact answers_next (blockHalt_keeps _ _ (.refl s))
  | resume _ => exact answers_next (pkgBit_keeps _ _ _ (.refl s))
  | freeze _ => exact answers_next (pkgBit_keeps _ _ _ (.refl s))
  | unfreeze _ => exact answers_next (pkgBit_keeps _ _ _ (.refl s))
  | scanRead _ => exact answers_next (emit_keeps _ _ (scanHost_keeps _ _ (.refl s)))
  | scanwin _ _ => exact answers_next (emit_keeps _ _ (scanWindow_keeps _ _ _ (.refl s)))
  | sillageW0Read _ _ _ => exact answers_next (regGet_keeps _ _ _ _ (.refl s))
  | sampleRecord _ => exact answers_next (sampleSend_keeps _ _ (.refl s))
  | vstbyValid => exact answers_next (vstbyValid_keeps _ (.refl s))
  | boot _ _ _ _ _ => exact answers_next (boot_keeps _ _ _ _ _ _ (.refl s))
  | railTimeout => exact answers_next (railTimeout_keeps _ (.refl s))
  | vstbyLoss => exact answers_next (vstbyLoss_keeps _ (.refl s))
  | perstN => exact answers_next (rstWarm_keeps _ (.refl s))
  | cold _ => exact answers_next (regPut_keeps _ _ _ _ _ (.refl s))
  | fabric _ _ => exact answers_next (regWrite_keeps _ _ _ _ _ (.refl s))
  | tile _ _ => exact answers_next (regPut_keeps _ _ _ _ _ (.refl s))
  | resetComplete => exact answers_next (rstComplete_keeps _ (.refl s))
  | thermtrip => exact answers_next (thermTrip_keeps _ (.refl s))
  | tempReport _ _ _ => exact answers_next (tempReport_keeps _ _ _ _ (.refl s))
  | throttleReview => exact answers_next (throttleReview_keeps _ (.refl s))
  | mgtVset _ _ => exact answers_next (regPut_keeps _ _ _ _ _ (.refl s))
  | perstNDeassert => exact answers_next (perstUp_keeps _ (.refl s))
  | pfcPauseExpiry _ _ => exact answers_next (pauseEnd_keeps _ _ _ (.refl s))

/-- Settles O4: the command at the front of the queue keeps what the state with the queue's rest holds; a tick likewise. -/
theorem everyStepKeepsMachine : Obligations.EveryStepKeepsMachine := by
  intro s hwf
  unfold step
  split
  next hq =>
    obtain ⟨hfuses, hpending, htime, hmem⟩ := tick_keeps s (.refl s)
    exact ⟨_, rfl, hmem hwf, by rw [hpending, hq, List.tail_nil], hfuses, htime⟩
  next c rest hq =>
    obtain ⟨u, hu, hfuses, hpending, htime, hmem⟩ := exec_answers c { s with pending := rest }
    exact ⟨u, hu, hmem hwf, by rw [hpending, hq, List.tail_cons], hfuses, htime⟩

end Sys2Proof.Machine
end

section
/-! PROOFS. A step on a queue and on an empty queue (O1), and what reset leaves (O2, O3). -/

namespace Sys2Proof.Machine

/-! ## A tick -/

/-- What an update of registers and of the timekeeper leaves alone. -/
structure TimeFrame (s u : State) : Prop where
  time : u.time = s.time
  pending : u.pending = s.pending
  fuses : u.fuses = s.fuses
  mem : u.mem = s.mem
  tiles : u.tiles = s.tiles
  out : u.out = s.out

theorem TimeFrame.refl (s : State) : TimeFrame s s := ⟨rfl, rfl, rfl, rfl, rfl, rfl⟩

theorem TimeFrame.trans {s u v : State} (h : TimeFrame s u) (k : TimeFrame u v) : TimeFrame s v :=
  ⟨k.time.trans h.time, k.pending.trans h.pending, k.fuses.trans h.fuses, k.mem.trans h.mem, k.tiles.trans h.tiles,
    k.out.trans h.out⟩

theorem timeFrame_ite {s u v : State} {c : Prop} [Decidable c] (h : TimeFrame s u) (k : TimeFrame s v) :
    TimeFrame s (if c then u else v) := by
  split
  · exact h
  · exact k

theorem timeFrame_foldl {α : Type} {s u : State} {l : List α} {f : State → α → State} (h : TimeFrame s u)
    (hf : ∀ x e, TimeFrame x (f x e)) : TimeFrame s (l.foldl f u) := by
  induction l generalizing u with
  | nil => exact h
  | cons e l ih => exact ih (h.trans (hf u e))

theorem timeFrame_pairCount (s : State) (p : Page) (off n : Nat) : TimeFrame s (pairCount s p off n) :=
  timeFrame_ite (.refl s) ⟨rfl, rfl, rfl, rfl, rfl, rfl⟩

theorem timeFrame_accrueTile (s : State) (n t : Nat) : TimeFrame s (accrueTile s n t) :=
  timeFrame_ite
    (timeFrame_foldl
      (timeFrame_foldl (.refl s) fun x _ => timeFrame_ite (timeFrame_pairCount x _ _ _) (.refl x))
      fun x _ => timeFrame_ite (timeFrame_pairCount x _ _ _) (.refl x))
    (.refl s)

theorem timeFrame_accrue (s : State) (n : Nat) : TimeFrame s (accrue s n) :=
  timeFrame_ite (.refl s) (timeFrame_foldl (.refl s) fun x t => timeFrame_accrueTile x n t)

theorem timeFrame_eraCheck (s : State) : TimeFrame s (eraCheck s) :=
  timeFrame_ite ⟨rfl, rfl, rfl, rfl, rfl, rfl⟩ (.refl s)

/-- The same with the time moved by dt. -/
theorem TimeFrame.later {s u : State} (h : TimeFrame s u) (dt : Nat) (k : Tkp) :
    TimeFrame { s with time := s.time + dt } { u with time := s.time + dt, tkp := k } :=
  ⟨rfl, h.pending, h.fuses, h.mem, h.tiles, h.out⟩

/-- dt ticks pass: beside registers and the timekeeper only the time has moved, by dt. -/
theorem pass_frame (s : State) (dt : Nat) (dT : Int) : TimeFrame { s with time := s.time + dt } (pass s dt dT) :=
  ((timeFrame_accrue s _).later dt _).trans (timeFrame_eraCheck _)

theorem moveT_frame (s : State) (dt : Nat) (c d : Int) : TimeFrame { s with time := s.time + dt } (moveT s dt c d) := by
  have h (x : State) (ht : TimeFrame s x) : TimeFrame { s with time := s.time + dt } (pass x dt d) := by
    have hl := ht.later dt x.tkp
    rw [← ht.time] at hl
    exact ht.time ▸ hl.trans (pass_frame x dt d)
  exact h _ (timeFrame_ite ⟨rfl, rfl, rfl, rfl, rfl, rfl⟩ ⟨rfl, rfl, rfl, rfl, rfl, rfl⟩)

theorem tick_frame (s : State) : TimeFrame { s with time := s.time + 1 } (tick s) :=
  timeFrame_ite (moveT_frame s 1 _ _) (moveT_frame s 1 _ _)

/-- Settles O1: by the two cases of the queue; a tick moves the time by one and touches registers and the timekeeper. -/
theorem stepRunsQueue : Obligations.StepRunsQueue := by
  refine ⟨fun s c rest hq => by rw [step, hq], fun s hq => ⟨tick s, by rw [step, hq], ?_⟩⟩
  obtain ⟨htime, hpending, hfuses, hmem, htiles, hout⟩ := tick_frame s
  exact ⟨htime, hpending.trans hq, hfuses, hmem, htiles, hout⟩

/-! ## Reset -/

/-- No register has been written yet: each holds its reset value. -/
theorem rawReg_reset (p : Page) (o : Nat) : rawReg State.reset p o = regDefault {} p o := rfl

theorem rfld_of_zero {s : State} {p : Page} {o : Nat} (h : rawReg s p o = 0) (hi lo : Nat) : rfld s p o hi lo = 0 := by
  simp [rfld, h, fld, bitsOf]

theorem rbit_of_zero {s : State} {p : Page} {o : Nat} (h : rawReg s p o = 0) (b : Nat) : rbit s p o b = false := by
  simp [rbit, rfld_of_zero h]

theorem reset_header_zero (p : Page) : ∀ o ∈ [0x018, 0x020, 0x030], rawReg State.reset p o = 0 := by
  intro o ho
  rw [rawReg_reset]
  fin_cases ho <;> cases p <;> rfl

/-- PG_EVR_CTL: the ring is off and stops on an error. -/
theorem reset_evrCtl (p : Page) : rawReg State.reset p 0x050 = 2 := by
  rw [rawReg_reset]; cases p <;> rfl

/-- A register of a tile page that the reset leaves 0, whatever the tile. -/
theorem reset_til_zero (t : Nat) : ∀ o ∈ [0x084, 0x100, 0x104, 0x108, 0x110], rawReg State.reset (.til t) o = 0 := by
  intro o ho
  rw [rawReg_reset]
  fin_cases ho <;> rfl

theorem reset_lcStat_zero (t : Nat) {lc : Nat} (h : lc < 4) : rawReg State.reset (.seq t) (lcStat lc) = 0 := by
  rw [rawReg_reset]
  interval_cases lc <;> rfl

theorem reset_sem_zero (t : Nat) {i : Nat} (h : i < 64) : getSem State.reset t i = 0 := by
  rw [getSem, rawReg_reset]
  interval_cases i <;> rfl

theorem reset_td_zero (t : Nat) {lc k : Nat} (hlc : lc < 4) (hk : k < 8) : rawReg State.reset (.cmp t) (tdOff lc k) = 0 := by
  rw [rawReg_reset]
  interval_cases lc <;> interval_cases k <;> rfl

/-- Settles O2: every register named is at the reset value of its table, and the memory lists no byte. -/
theorem resetValues : Obligations.ResetValues := by
  refine ⟨fun p => ?_, fun t => ⟨?_, ?_, ?_, fun i hi => ?_, fun lc hlc => ?_, fun i hi => reset_sem_zero t hi,
    fun lc k hlc hk => ?_⟩, fun _ => rfl, ?_, rfl⟩
  · have h := reset_header_zero p
    exact ⟨rbit_of_zero (h _ (by simp)) _, h _ (by simp), rbit_of_zero (h _ (by simp)) _,
      by simp [rbit, rfld, reset_evrCtl, fld, bitsOf]⟩
  · have h : rawReg State.reset (.til t) 0x088 = 10000 := rfl
    simp [rfld, h, fld, bitsOf]
  · have h : rawReg State.reset (.til t) 0x084 = 0 := reset_til_zero t _ (by simp)
    simp only [isolated, isoBit, rbit_of_zero h, Bool.false_or]
    rfl
  · exact reset_til_zero t _ (by simp)
  · exact rfld_of_zero (reset_til_zero t _ (by interval_cases i <;> simp)) _ _
  · exact rfld_of_zero (reset_lcStat_zero t hlc) _ _
  · simp [getTd, rbit_of_zero (reset_td_zero t hlc hk)]
  · have h : rawReg State.reset .mgt 0x090 = 0 := rfl
    exact rfld_of_zero h _ _

/-- Settles O3: the memory of reset is empty, and so is its queue. -/
theorem resetCanonical : Obligations.ResetCanonical := ⟨rfl, rfl⟩

end Sys2Proof.Machine
end

section
/-! PROOFS. Register writes that take effect whole, writes that are discarded, and reads of registers (sections 3.2 and 3.4). -/

namespace Sys2Proof.Machine

/-! ## What a write stores -/

/-- The state with the fields of a write in their register; a write that changes nothing leaves the register as it was. -/
def storeReg (s : State) (p : Page) (off : Nat) (new : Word) : State :=
  if new = rawReg s p off then s else putReg s p off new

@[simp] theorem rawReg_storeReg_same (s : State) (p : Page) (off : Nat) (new : Word) :
    rawReg (storeReg s p off new) p off = new := by
  unfold storeReg
  split
  · next h => exact h.symm
  · simp

theorem regsBut_storeReg (s : State) (p : Page) (off : Nat) (new : Word) (ks : List Nat) (h : regKey p off ∈ ks) :
    RegsBut s (storeReg s p off new) ks := by
  unfold storeReg
  split
  · exact .refl _ _
  · exact regsBut_putReg _ _ _ _ _ h

theorem onlyRegs_storeReg (s : State) (p : Page) (off : Nat) (new : Word) : OnlyRegs s (storeReg s p off new) := by
  unfold storeReg
  split
  · exact .refl _
  · exact onlyRegs_putReg _ _ _ _

theorem rawReg_storeReg_ne (s : State) (p q : Page) (off o : Nat) (new : Word) (h : regKey q o ≠ regKey p off) :
    rawReg (storeReg s p off new) q o = rawReg s q o :=
  regsBut_storeReg s p off new [regKey p off] (by simp) q o (by simpa using h)

@[simp] theorem rawReg_storeReg_off (s : State) (p : Page) (off o : Nat) (new : Word) (h : o ≠ off) :
    rawReg (storeReg s p off new) p o = rawReg s p o := rawReg_storeReg_ne s p p off o new (by simpa [regKey] using h)

/-! ## Writes that take effect -/

/-- The fields of a write that takes effect, over those that the register holds. -/
def newFields (s : State) (p : Page) (off : Nat) (d : RegDef) (v : Word) : Word :=
  applyAll (rawReg s p off) v (rbit s p 0x018 0) d.flds

/-- The register that a write reaches is the one of the map. -/
theorem regAt_of_writeAt {s : State} {p : Page} {off : Nat} {d : RegDef} (h : writeAt s p off = some d) :
    regAt p off = some d := by
  unfold writeAt at h
  split at h
  · cases h
  · exact h

/-- A write that takes effect reaches a register. -/
theorem writeAt_of_taken {s : State} {p : Page} {off : Nat} {v : Word} (h : writeTaken s p off v = true) :
    ∃ d, writeAt s p off = some d := by
  unfold writeTaken at h
  split at h
  · cases h
  · exact ⟨_, by assumption⟩

/-- A write that takes effect does what its register's fields and hooks say, and answers APPLIED. -/
theorem regWrite_of_taken {s : State} {p : Page} {off : Nat} {v : Word} (h : writeTaken s p off v = true) {d : RegDef}
    (hd : regAt p off = some d) (a : RegAcc) (hbe : a.be = 0xF) :
    regWrite s a p off v = (0, regEffect s a p off d (rawReg s p off) (newFields s p off d v) v) := by
  obtain ⟨d', hd'⟩ := writeAt_of_taken h
  obtain rfl : d' = d := by simpa [regAt_of_writeAt hd'] using hd
  simp only [writeTaken, hd', Bool.and_eq_true, Bool.not_eq_true', beq_iff_eq] at h
  obtain ⟨⟨⟨hrst, hcode⟩, hlock⟩, howned⟩ := h
  have hb : ¬(rbit s p 0x018 0 = true ∧ p = .mgt ∧ off = 0x088) := by
    rintro ⟨h1, rfl, rfl⟩
    simp [h1] at hrst
  have h0 : ¬(a.src = .host ∧ a.be = 0) := by rw [hbe]; simp
  have hF : ¬(a.src = .host ∧ a.be ≠ 0xF) := by rw [hbe]; simp
  simp only [regWrite, hd', if_neg h0, if_neg hF, regWriteAt, if_neg hb, newFields]
  rw [if_neg (not_not.2 hcode), hlock, howned]
  simp

/-- What a write that takes effect leaves, on a register of a block: the fields, then what the block does. -/
theorem regEffect_own (s : State) (a : RegAcc) (p : Page) (off : Nat) (d : RegDef) (v : Word) (h : 0x080 ≤ off)
    (hw : a.hw = none) (hp : preHook s p off = s) :
    regEffect s a p off d (rawReg s p off) (newFields s p off d v) v
      = pageHook (storeReg s p off (newFields s p off d v)) a p off (rawReg s p off) v := by
  simp only [regEffect, hw, hwMaybe, hp, storeReg, if_neg (Nat.not_lt.2 h)]

/-- The same on a register of the common header. -/
theorem regEffect_head (s : State) (a : RegAcc) (p : Page) (off : Nat) (d : RegDef) (v : Word) (h : off < 0x080)
    (hw : a.hw = none) :
    regEffect s a p off d (rawReg s p off) (newFields s p off d v) v
      = headHook s (storeReg s p off (newFields s p off d v)) p off (rawReg s p off) v := by
  have hp : preHook s p off = s := by
    unfold preHook
    split
    · exact if_neg (by omega)
    · exact if_neg (by omega)
    · rfl
  simp only [regEffect, hw, hwMaybe, hp, storeReg, if_pos h]

/-- A write command of a register of a block that takes effect. -/
theorem regPut_own {s : State} {p : Page} {off : Nat} {v : Word} (h : writeTaken s p off v = true) {d : RegDef}
    (hd : regAt p off = some d) (h80 : 0x080 ≤ off) (hp : preHook s p off = s) (src : Src) :
    regPut s src p off v
      = pageHook (storeReg s p off (newFields s p off d v)) { src := src } p off (rawReg s p off) v := by
  rw [regPut, regWrite_of_taken h hd _ rfl]
  exact regEffect_own s _ p off d v h80 rfl hp

/-- A write command of a header register that takes effect. -/
theorem regPut_head {s : State} {p : Page} {off : Nat} {v : Word} (h : writeTaken s p off v = true) {d : RegDef}
    (hd : regAt p off = some d) (h80 : off < 0x080) (src : Src) :
    regPut s src p off v = headHook s (storeReg s p off (newFields s p off d v)) p off (rawReg s p off) v := by
  rw [regPut, regWrite_of_taken h hd _ rfl]
  exact regEffect_head s _ p off d v h80 rfl

/-! ## Writes that set nothing going -/

/-- Pages on which a write beyond the header only stores. -/
def PlainPage (p : Page) : Prop :=
  (∃ t, p = .cmp t ∨ p = .rtr t) ∨ (∃ x e, p = .mem x e) ∨ (∃ d, p = .osw d) ∨ p = .hif

theorem pageHook_plain {p : Page} (hp : PlainPage p) (s : State) (a : RegAcc) (off : Nat) (old v : Word) :
    preHook s p off = s ∧ pageHook s a p off old v = s := by
  rcases hp with ⟨t, rfl | rfl⟩ | ⟨x, e, rfl⟩ | ⟨d, rfl⟩ | rfl <;> exact ⟨rfl, rfl⟩

/-- A discarded write leaves what its error leaves. -/
theorem regWrite_discarded {s : State} {p : Page} {off : Nat} {v : Word} {d : RegDef} (hd : writeAt s p off = some d)
    (hr : ¬(p = .mgt ∧ off = 0x088)) (hc : discardCode s p off ⟨rawReg s p off, newFields s p off d v⟩ v ≠ 0) (src : Src) :
    (regWrite s { src := src } p off v).2 = regErr s { src := src } p
      (discardCode s p off ⟨rawReg s p off, newFields s p off d v⟩ v) := by
  have hb : ¬(rbit s p 0x018 0 = true ∧ p = .mgt ∧ off = 0x088) := fun h => hr h.2
  unfold newFields at hc ⊢
  simp only [regWrite, hd, BitVec.reduceEq, and_false, if_false, ne_eq, not_true, regWriteAt, if_neg hb]
  rw [if_pos hc, hwAlone_none]

theorem events_regErr (s : State) (a : RegAcc) (p : Page) (code : Nat) (ks : List Nat) :
    Events s (regErr s a p code) ks := by
  unfold regErr
  split
  · exact events_capture _ _ _ _ _ _ _ _ _ _
  · exact events_captureOpen _ _ _ _ _ _ _ _ _ _

/-- Settles O5: a write stores its fields and nothing more on these pages; one that reaches no register does nothing; one
that is discarded leaves its error (R107, R110, R122, R141). -/
theorem registerWritesAct : Obligations.RegisterWritesAct := by
  intro s src p off v
  refine ⟨fun h h80 hp => ?_, fun be hw hd => ?_, fun d hd hr hc => ?_⟩
  · obtain ⟨d, hd⟩ := writeAt_of_taken h
    obtain ⟨hpre, hhook⟩ := pageHook_plain hp (storeReg s p off (newFields s p off d v)) { src := src } off
      (rawReg s p off) v
    refine ⟨storeReg s p off (newFields s p off d v), d, ?_, hd, rawReg_storeReg_same _ _ _ _,
      regsBut_storeReg _ _ _ _ _ (by simp), onlyRegs_storeReg _ _ _ _⟩
    rw [exec_registerWrite]
    exact congrArg Host.Outcome.next ((regPut_own h (regAt_of_writeAt hd) h80 (pageHook_plain hp s { src := src } off v v).1
      src).trans hhook)
  · rw [exec_registerWrite]
    simp [regWrite, hd]
  · exact ⟨_, by rw [exec_registerWrite, regWrite_discarded hd hr hc src], events_regErr _ _ _ _ _⟩

/-! ## Reads that clear, and reads of HIF_SYNC -/

theorem exec_rcRead (s : State) (src : Src) (p : Page) (off : Nat) :
    exec (.rcRead src p off none none) s = .next (regGet s src p off) := by
  have h : regGetRc s src p off none none = regGet s src p off := by
    unfold regGetRc
    split <;> rfl
  exact congrArg Host.Outcome.next h

/-- A read, with nothing latched: the value, and the register with its read-clear fields cleared. -/
theorem regRead_clear {s : State} {p : Page} {off : Nat} (hp : pageReached s p = true) (hl : s.latches = []) :
    regRead s p off = (regView s p off,
      if rcMask p off = 0 then latch s p (latchedBy p off)
      else putReg (latch s p (latchedBy p off)) p off (regView s p off &&& ~~~(BitVec.ofNat 32 (rcMask p off)))) := by
  simp [regRead, hp, hl]

/-- HIF_SYNC lies on the host page of BAR2 (R133). -/
theorem readReg_sync (s : State) (id : Nat) (hf : pkgFailed s = false) : readReg s id 2 0x30208C = ({}, s) := by
  have hbar : barAt s 2 0x30208C = .page .hif 0x08C := by rfl
  simp [readReg, hbar, failedAt, hf]

/-- A read of HIF_SYNC is entered with one part, which waits for the writes before it (R133). -/
theorem hifSyncOp_eq (s : State) (hup : hostUp s = true) (hf : pkgFailed s = false) (hr : s.hif.rds = []) :
    hifSyncOp s = syncPump { s with hif := { s.hif with
      nextId := s.hif.nextId + 1, rds := [{ id := s.hif.nextId, parts := [{}] }] } } := by
  have hf' : pkgFailed (hostId s).2 = false := hf
  have hspan : regSpan 0x30208C 4 = [0x30208C] := by decide
  have hparts : readParts (fun x r => readReg x (hostId s).1 2 r) [0x30208C] (hostId s).2 = ([{}], (hostId s).2) := by
    simp only [readParts, readReg_sync _ _ hf']
  have henter : hifSyncOp s = readEnter (hostId s).2 (hostId s).1 [{}] := by
    simp [hifSyncOp, hostReadOp, hup, hspan, hparts]
  rw [henter]
  simp [readEnter, hostId, modHif, hr]

/-- A read of HIF_SYNC alone completes with 0 where no write before it is open, and waits where one is (R133). -/
theorem syncPump_single {s : State} {id : Nat} (hr : s.hif.rds = [{ id := id, parts := [{}] }]) :
    syncPump s = if s.hif.accs.any (fun a => a.write && decide (a.id < id)) then s
      else { s with hif := { s.hif with rds := [] }, out := s.out ++ [.host id .sc [0, 0, 0, 0]] } := by
  unfold syncPump
  simp only [modHif, hr, List.map_cons, List.map_nil]
  split
  · have hs : { s with hif := { s.hif with rds := [{ id := id, parts := [{}] }] } } = s := by rw [← hr]
    rw [hs]
    simp [rdPump, hr, rdResult]
  · simp [rdPump, rdResult, emit, modHif]

/-- Settles O6: reads of read-clear registers and of pairs, and of HIF_SYNC (R104, R119, R133). -/
theorem registerReadsAct : Obligations.RegisterReadsAct := by
  intro s src p off hl hp
  have hnone : ∀ e ∈ s.latches, e.1 ≠ regKey p off := by simp [hl]
  refine ⟨⟨_, exec_rcRead s src p off, ?_⟩, fun hrc => ⟨_, rfl, ?_⟩, fun hup hf hr ha => ⟨_, rfl, ?_⟩,
    fun a ham hup hf hr hw hid => ⟨_, rfl, ?_⟩⟩
  · have hlat := latch_eq_withLatches s p (latchedBy p off)
    simp only [regGet, regRead_clear hp hl]
    split
    · next hrc => rw [hlat]; exact ⟨rfl, fun h => absurd hrc h, .refl _ _, rfl⟩
    · next hrc =>
      rw [hlat]
      refine ⟨rfl, fun _ => ?_, regsBut_putReg { s with latches := _ } p off _ _ (by simp), rfl⟩
      rw [rawReg_emit, rawReg_putReg_same, BitVec.and_assoc, BitVec.not_and_self]
      exact BitVec.and_zero
  · obtain ⟨hout, hframe, hnext⟩ := regGet_latches hp hnone hrc src
    refine ⟨hout, fun o ho => hnext _ rfl ?_ o ho, hframe⟩
    have hreach : pageReached (regGet s src p off) p = pageReached s p := by
      rw [hframe]; rfl
    rw [hreach]; exact hp
  · have hopen : s.hif.accs.any (fun a => a.write && decide (a.id < s.hif.nextId)) = false := by
      simpa using fun a h hw => absurd (ha a h) (by simp [hw])
    rw [hifSyncOp_eq s hup hf hr, syncPump_single rfl, if_neg (by simp [hopen])]
    exact ⟨rfl, rfl, rfl, .refl _ _, rfl⟩
  · have hopen : s.hif.accs.any (fun a => a.write && decide (a.id < s.hif.nextId)) = true := by
      simpa using ⟨a, ham, hw, hid⟩
    rw [hifSyncOp_eq s hup hf hr, syncPump_single rfl, if_pos hopen]
    exact ⟨rfl, rfl, .refl _ _, rfl⟩

end Sys2Proof.Machine
end

section
/-! PROOFS. The common header (section 3.3): the lock, forced interrupts, the rings and counters that a write clears, and
the reset of a page (section 19.4). -/

namespace Sys2Proof.Machine

/-! ## Registers that return to reset -/

/-- A register in a range of a page that returns to reset holds its reset value. -/
theorem rawReg_resetRegs_in (s : State) (p : Page) (lo hi o : Nat) (hlo : lo ≤ o) (hhi : o < hi) :
    rawReg (resetRegs s p lo hi) p o = regDefault s.fuses p o := by
  have hnone : (tabClear s.regs (pageBase p + lo) (pageBase p + hi)).find? (fun e => e.1 == regKey p o) = none := by
    rw [List.find?_eq_none]
    intro e he
    simp only [tabClear, List.mem_filter, Bool.or_eq_true, decide_eq_true_eq] at he
    simp only [regKey, beq_iff_eq]
    omega
  simp [rawReg, resetRegs, hnone]

/-- A register outside the range is as before. -/
theorem rawReg_resetRegs_out (s : State) (p q : Page) (lo hi o : Nat)
    (h : regKey q o < pageBase p + lo ∨ pageBase p + hi ≤ regKey q o) :
    rawReg (resetRegs s p lo hi) q o = rawReg s q o := by
  have hfind : (tabClear s.regs (pageBase p + lo) (pageBase p + hi)).find? (fun e => e.1 == regKey q o)
      = s.regs.find? (fun e => e.1 == regKey q o) := by
    rw [tabClear, List.find?_filter]
    congr 1
    funext e
    by_cases he : e.1 = regKey q o
    · simp [he, h]
    · simp [he]
  simp [rawReg, resetRegs, hfind]

theorem onlyRegs_resetRegs (s : State) (p : Page) (lo hi : Nat) : OnlyRegs s (resetRegs s p lo hi) := rfl

theorem OnlyRegs.mem {s u : State} (h : OnlyRegs s u) : u.mem = s.mem := by rw [h]
theorem Events.mem {s u : State} {ks : List Nat} (h : Events s u ks) : u.mem = s.mem := by rw [h.1]
theorem Events.fuses {s u : State} {ks : List Nat} (h : Events s u ks) : u.fuses = s.fuses := by rw [h.1]

/-! ## The registers of the header -/

theorem regAt_head (p : Page) {off : Nat} (h : off < 0x080) : regAt p off = findReg headerRegs off := by
  have hb : tkpBare p off = false := by
    unfold tkpBare
    split
    · have h1 : (off == 0x080) = false := by simp; omega
      have h2 : decide (0x09C ≤ off) = false := by simp; omega
      have h3 : decide (0x0F0 ≤ off) = false := by simp; omega
      simp [h1, h2, h3]
    · rfl
  simp [regAt, hb, regDef, h]

/-- A write of a header register that takes effect, with the register that the header has there. -/
theorem regPut_header {s : State} {p : Page} {off : Nat} {v : Word} (h : writeTaken s p off v = true) {d : RegDef}
    (hd : findReg headerRegs off = some d) (h80 : off < 0x080) (src : Src) :
    regPut s src p off v = headHook s (storeReg s p off (newFields s p off d v)) p off (rawReg s p off) v :=
  regPut_head h ((regAt_head p h80).trans hd) h80 src

/-- A bit of a header register of which only bit i is set anew in what is written. -/
theorem fld_or_same (w m : Word) (hi lo : Nat) (h : fld m hi lo = 2 ^ (hi + 1 - lo) - 1) :
    fld (w ||| m) hi lo = 2 ^ (hi + 1 - lo) - 1 := by
  have hs (a b : Nat) : (a ||| b) / 2 ^ lo % 2 ^ (hi + 1 - lo)
      = (a / 2 ^ lo % 2 ^ (hi + 1 - lo)) ||| (b / 2 ^ lo % 2 ^ (hi + 1 - lo)) := by
    rw [← Nat.shiftRight_eq_div_pow, ← Nat.shiftRight_eq_div_pow, ← Nat.shiftRight_eq_div_pow, Nat.shiftRight_or_distrib,
      Nat.or_mod_two_pow]
  simp only [fld, bitsOf] at h ⊢
  rw [BitVec.toNat_or, hs, h]
  have hlt : w.toNat / 2 ^ lo % 2 ^ (hi + 1 - lo) < 2 ^ (hi + 1 - lo) := Nat.mod_lt _ (Nat.two_pow_pos _)
  generalize w.toNat / 2 ^ lo % 2 ^ (hi + 1 - lo) = a at hlt
  apply Nat.eq_of_testBit_eq
  intro i
  rw [Nat.testBit_or, Nat.testBit_two_pow_sub_one]
  by_cases hi' : i < hi + 1 - lo
  · simp [hi']
  · simp only [hi', decide_false, Bool.or_false]
    exact Nat.testBit_lt_two_pow (lt_of_lt_of_le hlt (Nat.pow_le_pow_right (by omega) (by omega)))

/-! ## What a reset page holds -/

/-- The scratch register is 0 at reset. -/
theorem regDefault_scratch (f : Fuses) (p : Page) : regDefault f p 0x070 = 0 := by cases p <;> rfl

/-- Every word of the sillage ring is 0 at reset. -/
theorem regDefault_window (f : Fuses) (p : Page) {i : Nat} (h : i < 128) : regDefault f p (0xE00 + 4 * i) = 0 := by
  have hslot : ∀ j < 32, ∀ m < 4, (findReg headerRegs (0xE00 + 0x10 * j + 4 * m)).map (·.flds)
      = some [⟨31, 0, .ro, .num 0, .h⟩] := by decide
  have hi : 0xE00 + 4 * i = 0xE00 + 0x10 * (i / 4) + 4 * (i % 4) := by omega
  have hmap := hslot (i / 4) (by omega) (i % 4) (by omega)
  rw [← hi, Option.map_eq_some_iff] at hmap
  obtain ⟨d, hd, hf⟩ := hmap
  have hdef : regDef p (0xE00 + 4 * i) = some d := by
    rw [regDef, if_pos (.inr (Nat.le_add_right _ _)), hd]
  have hctl : 0xE00 + 4 * i ≠ 0x010 := by omega
  unfold regDefault
  rw [hdef]
  dsimp only
  split
  · rfl
  · rfl
  · rw [hf]; rfl

/-- The main time counters of an engine are 0 at reset. -/
theorem regDefault_perf (f : Fuses) (t : Nat) {e k : Nat} (he : e < 4) (hk : k < 4) :
    regDefault f (.dbg t) (0x200 + 0x20 * e + 4 * k) = 0 := by
  interval_cases e <;> interval_cases k <;> rfl

/-! ## The reset of a page -/

@[simp] theorem rawReg_pageReset_scratch (s : State) (p : Page) : rawReg (pageReset s p) p 0x070 = 0 := by
  simp [pageReset, rawReg_resetRegs_in, regDefault_scratch]

@[simp] theorem pageReset_mem (s : State) (p : Page) : (pageReset s p).mem = s.mem := rfl

@[simp] theorem rawReg_keepReg_off (s0 s : State) (p : Page) (off o : Nat) (h : o ≠ off) :
    rawReg (keepReg s0 s p off) p o = rawReg s p o := rawReg_putReg_off _ _ _ _ _ h

@[simp] theorem keepReg_mem (s0 s : State) (p : Page) (off : Nat) : (keepReg s0 s p off).mem = s.mem := rfl

theorem answerAt_mem (s : State) (p : Place) (a : Packet) : (answerAt s p a).mem = s.mem := by
  cases p <;> rfl

theorem popReq_tile_mem (s : State) (t : Nat) : (popReq s (.tile t)).mem = s.mem := rfl

/-- A stalled message that is answered leaves memory as it was. -/
theorem stallEnd_mem (s : State) (t : Nat) (f : State → Packet → State) (hf : ∀ x q, (f x q).mem = x.mem) :
    (stallEnd s t f).mem = s.mem := by
  unfold stallEnd
  split
  · rw [hf, popReq_tile_mem]; rfl
  · rfl

theorem rqDisable_mem (s : State) (t n : Nat) : (rqDisable s t n).mem = s.mem := by
  unfold rqDisable
  extract_lets p s1 s2
  have h2 : s2.mem = s.mem := by
    unfold s2
    split
    · split
      · exact stallEnd_mem _ _ _ (fun x q => answerAt_mem _ _ _)
      · rfl
    · rfl
  split
  · exact h2
  · exact h2

theorem foldl_mem {α : Type} {f : State → α → State} (hf : ∀ x e, (f x e).mem = x.mem) (l : List α) (s : State) :
    (l.foldl f s).mem = s.mem := by
  induction l generalizing s with
  | nil => rfl
  | cons e l ih => rw [List.foldl_cons, ih, hf]

/-- The status of a link changes with the events that it reports. -/
theorem events_llkSet (s : State) (n st lanes : Nat) :
    Events s (llkSet s n st lanes) [regKey (.llk n) 0x084, regKey (.llk n) 0x080] := by
  unfold llkSet
  extract_lets old w s1 s2 s3 s4 s5
  have h1 : Events s s1 [regKey (.llk n) 0x084, regKey (.llk n) 0x080] :=
    ((events_putFld _ _ _ _ _ _ _ (.inl (by simp))).trans (events_putFld _ _ _ _ _ _ _ (.inl (by simp)))).trans
      (events_putFld _ _ _ _ _ _ _ (.inl (by simp)))
  have h2 : Events s s2 [regKey (.llk n) 0x084, regKey (.llk n) 0x080] :=
    events_ite (h1.trans (events_putBit _ _ _ _ _ _ (.inl (by simp)))) h1
  have h3 : Events s s3 [regKey (.llk n) 0x084, regKey (.llk n) 0x080] :=
    events_ite (h2.trans (events_isrBit _ _ _ _ _)) h2
  have h4 : Events s s4 [regKey (.llk n) 0x084, regKey (.llk n) 0x080] :=
    events_ite (h3.trans (events_isrBit _ _ _ _ _)) h3
  have h5 : Events s s5 [regKey (.llk n) 0x084, regKey (.llk n) 0x080] :=
    events_ite (h4.trans (events_isrBit _ _ _ _ _)) h4
  exact h5.trans (events_sillage _ _ _ _ _ _ _ _)

theorem llkDrop_mem (s : State) (n : Nat) : (llkDrop s n).mem = s.mem := rfl

theorem linkDown_mem (s : State) (n : Nat) : (linkDown s n).mem = s.mem := by
  unfold linkDown
  split
  · rfl
  · rw [llkDrop_mem, (events_llkSet s n 0 0).mem]

theorem vsetWritten_mem (s : State) : (vsetWritten s).mem = s.mem :=
  foldl_mem (fun x q => by split <;> rfl) _ s

theorem rawReg_vsetWritten_off (s : State) (o : Nat) (h : o ≠ 0x0B0) : rawReg (vsetWritten s) .mgt o = rawReg s .mgt o := by
  refine rawReg_foldl (fun x q => ?_) _ s
  split
  · exact rawReg_putReg_off _ _ _ _ _ h
  · rfl

theorem movSrstEnd_scratch (s : State) (t : Nat) : rawReg (movSrstEnd s t) (.mov t) 0x070 = 0 := by
  have h : rawReg (pageReset s (.mov t)) (.mov t) 0x070 = 0 := rawReg_pageReset_scratch s _
  unfold movSrstEnd
  rw [rawReg_modTile]
  exact h

theorem srst_tkp_regs (s : State) (d : Nat) :
    let x := keepReg s (pageReset s (.tkp d)) (.tkp d) 0x0F8
    (srst s (.tkp d)).regs = x.regs ∧ (srst s (.tkp d)).fuses = x.fuses ∧ (srst s (.tkp d)).mem = s.mem := by
  unfold srst
  dsimp only
  split <;> exact ⟨rfl, rfl, rfl⟩

/-- An engine reset with no context in the way, and nothing that MOV still owes, clears its page's scratch register and
leaves memory alone (R793, Table 19.5). -/
theorem srst_scratch_mem (s : State) (p : Page) (hseq : ∀ t, p = .seq t → ∀ lc, lc < 4 → lcState s t lc = 0)
    (hmov : ∀ t, p = .mov t → movOwes { getTile s t with movQ := [] } = false) :
    rawReg (srst s p) p 0x070 = 0 ∧ (srst s p).mem = s.mem := by
  cases p
  case seq t =>
    have h0 := hseq t rfl
    have hidle : (List.range 4).foldl (fun s lc => if lcState s t lc = 0 then s else abortCtx s t lc) s = s := by
      simp [List.range_succ, h0]
    have hact : seqActive s t = false := by simp [seqActive, List.range_succ, h0]
    simp [srst, hidle, hact, seqSrstEnd, rawReg_resetRegs_in, regDefault_scratch]
  case mov t =>
    have howes : movOwes (getTile (modTile s t (fun x => { x with movQ := [] })) t) = false := by
      rw [getTile_modTile_same]; exact hmov t rfl
    have hend : srst s (.mov t) = movSrstEnd (modTile s t (fun x => { x with movQ := [] })) t := by
      simp only [srst, howes, Bool.false_eq_true, if_false]
    rw [hend]
    exact ⟨movSrstEnd_scratch _ t, rfl⟩
  case cmb t =>
    simp only [srst, cmbReset]
    rw [rawReg_modTile, rawReg_pageReset_scratch, modTile_mem, pageReset_mem]
    exact ⟨rfl, foldl_mem (fun x n => rqDisable_mem x t n) _ s⟩
  case llk n =>
    simp only [srst]
    rw [rawReg_modLink, rawReg_pageReset_scratch, modLink_mem, pageReset_mem]
    exact ⟨rfl, linkDown_mem s n⟩
  case eth n =>
    simp only [srst]
    constructor
    · rw [rawReg_modEth, putBit, putFld, rawReg_putReg_off _ _ _ _ _ (by decide)]
      exact (rawReg_keepReg_off _ _ _ _ _ (by decide)).trans (rawReg_pageReset_scratch _ _)
    · rfl
  case tkp d =>
    obtain ⟨hregs, hfuses, hmem⟩ := srst_tkp_regs s d
    rw [rawReg_congr (s := keepReg s (pageReset s (.tkp d)) (.tkp d) 0x0F8) hregs hfuses]
    exact ⟨by simp, hmem⟩
  case mgt =>
    simp only [srst, rawReg_vsetWritten_off _ _ (show 0x070 ≠ 0x0B0 by decide), vsetWritten_mem]
    simp
  case scr =>
    have hregs : (srst s .scr).regs = (pageReset s .scr).regs := rfl
    rw [rawReg_congr (s := pageReset s .scr) hregs rfl, rawReg_pageReset_scratch]
    exact ⟨rfl, rfl⟩
  case til t | mem x e | osw d | hif | dbgp => simp [srst]
  case cmp t | rtr t | dbg t =>
    unfold srst
    rw [rawReg_modTile, rawReg_pageReset_scratch, modTile_mem, pageReset_mem]
    exact ⟨rfl, rfl⟩
  case glz n =>
    unfold srst
    rw [rawReg_modGlz, rawReg_pageReset_scratch, modGlz_mem, pageReset_mem]
    exact ⟨rfl, rfl⟩

/-! ## The obligation -/

theorem exec_pgLock (src : Src) (p : Page) (s : State) : exec (.pgLock src p) s = .next (regPut s src p 0x018 1) := rfl
theorem exec_pgIfr (src : Src) (p : Page) (v : Word) (s : State) :
    exec (.pgIfr src p v) s = .next (regPut s src p 0x028 v) := rfl
theorem exec_evrClr (src : Src) (p : Page) (s : State) :
    exec (.evrClr src p) s = .next (regPut s src p 0x050 (rawReg s p 0x050 ||| 4)) := rfl
theorem exec_perfClr (src : Src) (p : Page) (s : State) :
    exec (.perfClr src p) s = .next (regPut s src p 0x060 (rawReg s p 0x060 ||| 2)) := rfl
theorem exec_srst (src : Src) (p : Page) (s : State) :
    exec (.srst src p) s = .next (regPut s src p 0x010 (rawReg s p 0x010 ||| 2)) := rfl

/-- Setting a bit sets its field. -/
theorem fld_or_bit (w : Word) {b : Nat} (h : b < 32) : fld (w ||| BitVec.ofNat 32 (2 ^ b)) b b = 1 := by
  have hm : fld (BitVec.ofNat 32 (2 ^ b)) b b = 2 ^ (b + 1 - b) - 1 := by
    interval_cases b <;> rfl
  have h1 := fld_or_same w _ b b hm
  simpa using h1

/-- PERF_CLR clears the counters of the engine alone. -/
theorem perfClear_main (s : State) (p : Page) (t e : Nat) (hp : pageEngine p = some (t, e)) :
    OnlyRegs s (perfClear s p) ∧ ∀ k, k < 4 → rawReg (perfClear s p) (.dbg t) (0x200 + 0x20 * e + 4 * k) = 0 := by
  have he : e < 4 := by cases p <;> simp_all [pageEngine] <;> omega
  have hmain (k : Nat) (hk : k < 4) : rawReg (resetRegs (resetRegs s (.dbg t) (0x200 + 0x20 * e) (0x210 + 0x20 * e))
      (.dbg t) (0x400 + 0x80 * e) (0x468 + 0x80 * e)) (.dbg t) (0x200 + 0x20 * e + 4 * k) = 0 := by
    rw [rawReg_resetRegs_out _ _ _ _ _ _ (by simp only [regKey]; omega),
      rawReg_resetRegs_in _ _ _ _ _ (by omega) (by omega), regDefault_perf _ _ he hk]
  unfold perfClear
  simp only [hp]
  split
  · exact ⟨rfl, fun k hk => by
      rw [rawReg_resetRegs_out _ _ _ _ _ _ (by simp only [regKey]; omega)]; exact hmain k hk⟩
  · exact ⟨rfl, fun k hk => by
      rw [rawReg_resetRegs_out _ _ _ _ _ _ (by simp only [regKey]; omega)]; exact hmain k hk⟩
  · exact ⟨rfl, hmain⟩

/-- A write that takes effect changes no locked field. -/
theorem lockHit_of_taken {s : State} {p : Page} {off : Nat} {v : Word} (h : writeTaken s p off v = true) {d : RegDef}
    (hd : regAt p off = some d) : lockHit (rawReg s p off) v (rbit s p 0x018 0) d.flds = false := by
  obtain ⟨d', hd'⟩ := writeAt_of_taken h
  obtain rfl : d' = d := by simpa [regAt_of_writeAt hd'] using hd
  simp only [writeTaken, hd', Bool.and_eq_true, Bool.not_eq_true'] at h
  exact h.1.2

/-- PG_CTL (Table 3.5). -/
def pgCtl : RegDef :=
  ⟨0x010, [], [⟨0, 0, .rwl, .num 1, .s⟩, ⟨1, 1, .rwl, .num 0, .s⟩, ⟨2, 2, .rwl, .num 0, .s⟩, ⟨3, 3, .rwl, .num 0, .s⟩]⟩

/-- Under a write of SRST that takes effect the bit goes up: the page is not locked (R122). -/
theorem srst_set_of_taken {s : State} {p : Page} (h : writeTaken s p 0x010 (rawReg s p 0x010 ||| 2) = true)
    (hb : rbit s p 0x010 1 = false) :
    fld (newFields s p 0x010 pgCtl (rawReg s p 0x010 ||| 2)) 1 1 = 1 := by
  have hset : fld (rawReg s p 0x010 ||| 2) 1 1 = 1 := fld_or_bit _ (b := 1) (by decide)
  have hold : fld (rawReg s p 0x010) 1 1 ≠ 1 := by simpa [rbit, rfld] using hb
  have hlock : lockHit (rawReg s p 0x010) (rawReg s p 0x010 ||| 2) (rbit s p 0x018 0) pgCtl.flds = false :=
    lockHit_of_taken h ((regAt_head p (by decide)).trans rfl)
  generalize rawReg s p 0x010 ||| 2 = v at hset hlock ⊢
  cases hlk : rbit s p 0x018 0
  · simp [newFields, hlk, pgCtl, applyAll, applyFld, hset, fld_setFld_ne, fld_setFld_same]
  · simp [lockHit, hlk, pgCtl, hset, Ne.symm hold] at hlock

/-- Settles O9: each write stores its fields and then does what the header says of it; SRST resets a block that need not
drain first. -/
theorem headerWritesAct : Obligations.HeaderWritesAct := by
  intro s src p v
  refine ⟨fun h => ?_, fun h => ?_, fun h => ?_, fun t e h he => ?_, fun h hb hseq hrun htrip hmov => ?_⟩
  · refine ⟨_, exec_pgLock src p s, ?_⟩
    rw [regPut_header h (d := ⟨0x018, [], [⟨0, 0, .rw1s, .num 0, .s⟩]⟩) rfl (by decide)]
    refine ⟨?_, regsBut_storeReg _ _ _ _ _ (by simp), onlyRegs_storeReg _ _ _ _⟩
    have hone : fld 1#32 0 0 = 1 := rfl
    have hlt : fld (rawReg s p 0x018) 0 0 < 2 := fld_lt _ 0 0
    have hbit : (fld (rawReg s p 0x018) 0 0 ||| 1) % 2 = 1 := by
      interval_cases fld (rawReg s p 0x018) 0 0 <;> rfl
    simp [headHook, rbit, rfld, newFields, applyAll, applyFld, hone, hbit, fld_setFld_same]
  · refine ⟨_, exec_pgIfr src p v s, ?_⟩
    obtain ⟨d, hd⟩ := writeAt_of_taken h
    have hstore : storeReg s p 0x028 (newFields s p 0x028 ⟨0x028, [], [⟨31, 0, .wo, .num 0, .n⟩]⟩ v) = s := if_pos rfl
    rw [regPut_header h (d := ⟨0x028, [], [⟨31, 0, .wo, .num 0, .n⟩]⟩) rfl (by decide), hstore]
    refine ⟨?_, events_isrSet _ _ _ _ _⟩
    exact (rawReg_isrSet (pagePresent_of_writeAt hd) s _ _ _ (by decide)).trans (rawReg_isrCore_isr _ _ _ _)
  · refine ⟨_, exec_evrClr src p s, ?_⟩
    have hclr : fld (rawReg s p 0x050 ||| 4) 2 2 = 1 := fld_or_bit _ (b := 2) (by decide)
    rw [regPut_header h rfl (by decide)]
    simp only [headHook, hclr, if_true, ringClear]
    refine ⟨by simp, fun i hi => ?_, ((onlyRegs_storeReg _ _ _ _).trans (onlyRegs_resetRegs _ _ _ _)).trans
      (onlyRegs_putReg _ _ _ _)⟩
    rw [rawReg_putReg_off _ _ _ _ _ (by omega), rawReg_resetRegs_in _ _ _ _ _ (by omega) (by omega),
      regDefault_window _ _ hi]
  · refine ⟨_, exec_perfClr src p s, ?_⟩
    have hclr : fld (rawReg s p 0x060 ||| 2) 1 1 = 1 := fld_or_bit _ (b := 1) (by decide)
    rw [regPut_header h rfl (by decide)]
    simp only [headHook, hclr, if_true]
    obtain ⟨honly, hzero⟩ := perfClear_main (storeReg s p 0x060 _) p t e he
    exact ⟨(onlyRegs_storeReg _ _ _ _).trans honly, hzero⟩
  · refine ⟨_, exec_srst src p s, ?_⟩
    have hold : fld (rawReg s p 0x010) 1 1 ≠ 1 := by simpa [rbit, rfld] using hb
    have hnew := srst_set_of_taken h hb
    rw [regPut_header h (d := pgCtl) rfl (by decide)]
    generalize newFields s p 0x010 pgCtl (rawReg s p 0x010 ||| 2) = w at hnew
    have hs1 : OnlyRegs s (putBit (storeReg s p 0x010 w) p 0x010 1 false) :=
      (onlyRegs_storeReg _ _ _ _).trans (onlyRegs_putBit _ _ _ _ _)
    have hraise : headHook s (storeReg s p 0x010 w) p 0x010 (rawReg s p 0x010) (rawReg s p 0x010 ||| 2)
        = srst (putBit (storeReg s p 0x010 w) p 0x010 1 false) p := by
      have hmgt : (storeReg s p 0x010 w).mgt = s.mgt := by rw [onlyRegs_storeReg s p 0x010 w]
      have hup : rbit (storeReg s p 0x010 w) p 0x010 1 = true := by simp [rbit, rfld, hnew]
      simp [headHook, hold, hup, hmgt, hrun, htrip]
    rw [hraise]
    generalize hx : putBit (storeReg s p 0x010 w) p 0x010 1 false = x at hs1
    have hother (o : Nat) (ho : o ≠ 0x010) : rawReg x p o = rawReg s p o := by
      rw [← hx, putBit, putFld, rawReg_putReg_off _ _ _ _ _ ho, rawReg_storeReg_off _ _ _ _ _ ho]
    obtain ⟨hscr, hmem⟩ := srst_scratch_mem x p
      (fun t ht lc hlc => by
        subst ht
        have hne : lcStat lc ≠ 0x010 := by unfold lcStat; omega
        rw [← hseq t rfl lc hlc, lcState, lcState, rfld, rfld, hother _ hne])
      (fun t ht => by rw [← hmov t ht, hs1]; rfl)
    exact ⟨hscr, hmem.trans hs1.mem⟩

end Sys2Proof.Machine
end

section
/-! PROOFS. Fields under a write that takes effect (Table 3.7): the fields of a register lie apart, so each holds what its
access type makes of the value written. -/

namespace Sys2Proof.Machine

/-- What a field holds after a write that takes effect; a locked one is written as it stands (R122). -/
def Fld.taken (f : Fld) (old v : Word) : Nat :=
  match f.acc with
  | .rw | .rwl => fld v f.hi f.lo
  | .rw1c => fld old f.hi f.lo - (fld old f.hi f.lo &&& fld v f.hi f.lo)
  | .rw1s => fld old f.hi f.lo ||| fld v f.hi f.lo
  | .ro | .wo | .rc => fld old f.hi f.lo

/-- The fields of a register lie in its 32 bits, and apart from one another. -/
def fieldsApart : List Fld → Bool
  | [] => true
  | f :: fs => decide (f.lo ≤ f.hi) && decide (f.hi < 32) && fs.all (fun g => decide (g.hi < f.lo) || decide (f.hi < g.lo))
      && fieldsApart fs

theorem fieldsApart_pageRegs (p : Page) : (pageRegs p).all (fun d => fieldsApart d.flds) = true := by
  cases p <;> rfl

theorem fieldsApart_headerRegs : headerRegs.all (fun d => fieldsApart d.flds) = true := by decide

theorem le_of_fieldsApart {fs : List Fld} (hfs : fieldsApart fs = true) {f : Fld} (hf : f ∈ fs) : f.lo ≤ f.hi := by
  induction fs with
  | nil => cases hf
  | cons a as ih =>
    simp only [fieldsApart, Bool.and_eq_true, decide_eq_true_eq] at hfs
    rcases List.mem_cons.1 hf with rfl | hf
    · exact hfs.1.1.1
    · exact ih hfs.2 hf

theorem fieldsApart_of_regAt {p : Page} {off : Nat} {d : RegDef} (h : regAt p off = some d) : fieldsApart d.flds = true := by
  unfold regAt at h
  split at h
  · cases h
  · unfold regDef at h
    split at h
    · exact List.all_eq_true.1 fieldsApart_headerRegs d (findReg_mem h)
    · exact List.all_eq_true.1 (fieldsApart_pageRegs p) d (findReg_mem h)

/-- A field's own part of a write. -/
theorem fld_applyFld_same (v : Word) (lk : Bool) (w : Word) (f : Fld) (hle : f.lo ≤ f.hi) (h32 : f.hi < 32)
    (hlk : lk = true → f.acc = .rwl → fld v f.hi f.lo = fld w f.hi f.lo) :
    fld (applyFld v lk w f) f.hi f.lo = f.taken w v := by
  have hlt (x : Word) : fld x f.hi f.lo < 2 ^ (f.hi + 1 - f.lo) := fld_lt x _ _
  unfold applyFld Fld.taken
  cases hacc : f.acc
  case rw => simp [fld_setFld_same _ _ _ _ hle h32, Nat.mod_eq_of_lt (hlt v)]
  case rwl =>
    cases lk with
    | false => simp [fld_setFld_same _ _ _ _ hle h32, Nat.mod_eq_of_lt (hlt v)]
    | true => simp [hlk rfl hacc]
  case rw1c =>
    simp only [fld_setFld_same _ _ _ _ hle h32]
    exact Nat.mod_eq_of_lt (lt_of_le_of_lt (Nat.sub_le _ _) (hlt w))
  case rw1s =>
    simp only [fld_setFld_same _ _ _ _ hle h32]
    exact Nat.mod_eq_of_lt (Nat.or_lt_two_pow (hlt w) (hlt v))
  all_goals rfl

/-- A field that lies apart from the one under the write. -/
theorem fld_applyFld_ne (v : Word) (lk : Bool) (w : Word) (f g : Fld) (hle : f.lo ≤ f.hi) (h32 : f.hi < 32)
    (hg : g.lo ≤ g.hi) (h : g.hi < f.lo ∨ f.hi < g.lo) : fld (applyFld v lk w f) g.hi g.lo = fld w g.hi g.lo := by
  have hne (x : Nat) : fld (setFld w f.hi f.lo x) g.hi g.lo = fld w g.hi g.lo := fld_setFld_ne _ _ _ _ _ _ hle h32 hg h
  unfold applyFld
  cases f.acc <;> simp only [hne]
  split
  · rfl
  · exact hne _

theorem Fld.taken_congr {f : Fld} {a b v : Word} (h : fld a f.hi f.lo = fld b f.hi f.lo) : f.taken a v = f.taken b v := by
  unfold Fld.taken; rw [h]

theorem applyAll_cons (old v : Word) (lk : Bool) (f : Fld) (fs : List Fld) :
    applyAll old v lk (f :: fs) = applyAll (applyFld v lk old f) v lk fs := rfl

/-- A field apart from all those under the write. -/
theorem fld_applyAll_apart (v : Word) (lk : Bool) (fs : List Fld) (hfs : fieldsApart fs = true) (g : Fld)
    (hg : g.lo ≤ g.hi) (h : ∀ f ∈ fs, g.hi < f.lo ∨ f.hi < g.lo) (w : Word) :
    fld (applyAll w v lk fs) g.hi g.lo = fld w g.hi g.lo := by
  induction fs generalizing w with
  | nil => rfl
  | cons f fs ih =>
    simp only [fieldsApart, Bool.and_eq_true, decide_eq_true_eq] at hfs
    obtain ⟨⟨⟨hle, h32⟩, -⟩, hrest⟩ := hfs
    rw [applyAll_cons, ih hrest (fun e he => h e (by simp [he]))]
    exact fld_applyFld_ne v lk w f g hle h32 hg (h f (by simp))

/-- Each field of a register holds its own part of the write. -/
theorem fld_applyAll (v : Word) (lk : Bool) (fs : List Fld) (hfs : fieldsApart fs = true) (w : Word)
    (hlk : lockHit w v lk fs = false) (f : Fld) (hf : f ∈ fs) :
    fld (applyAll w v lk fs) f.hi f.lo = f.taken w v := by
  induction fs generalizing w with
  | nil => cases hf
  | cons e fs ih =>
    simp only [fieldsApart, Bool.and_eq_true, decide_eq_true_eq, List.all_eq_true, Bool.or_eq_true] at hfs
    obtain ⟨⟨⟨hle, h32⟩, hap⟩, hrest⟩ := hfs
    have hlocked : ∀ g ∈ e :: fs, lk = true → g.acc = .rwl → fld v g.hi g.lo = fld w g.hi g.lo := by
      intro g hg hl ha
      simp only [lockHit, hl, Bool.true_and, List.any_eq_false] at hlk
      simpa [ha] using hlk g hg
    rw [applyAll_cons]
    rcases List.mem_cons.1 hf with rfl | hf
    · rw [fld_applyAll_apart v lk fs hrest f hle (fun g hg => (hap g hg).symm.imp id id)]
      exact fld_applyFld_same v lk w f hle h32 (hlocked f (by simp))
    · have hsame (g : Fld) (hg : g ∈ fs) : fld (applyFld v lk w e) g.hi g.lo = fld w g.hi g.lo :=
        fld_applyFld_ne v lk w e g hle h32 (le_of_fieldsApart hrest hg) (hap g hg)
      have hlk' : lockHit (applyFld v lk w e) v lk fs = false := by
        cases hl : lk with
        | false => rfl
        | true =>
          simp only [lockHit, Bool.true_and, List.any_eq_false, Bool.and_eq_true, beq_iff_eq, bne_iff_ne, not_and,
            not_not]
          intro g hg ha
          rw [← hl, hsame g hg]
          exact hlocked g (by simp [hg]) hl ha
      rw [ih hrest _ hlk' hf]
      exact Fld.taken_congr (hsame f hf)

/-- A field of the register at an offset. -/
def hasFld (p : Page) (off : Nat) (f : Fld) : Bool := (regAt p off).any (fun d => d.flds.contains f)

/-- The register that a write which takes effect leaves. -/
def Stored (s : State) (p : Page) (off : Nat) (v w : Word) : Prop :=
  ∀ f, hasFld p off f = true → fld w f.hi f.lo = f.taken (rawReg s p off) v

theorem stored_newFields {s : State} {p : Page} {off : Nat} {v : Word} (h : writeTaken s p off v = true) {d : RegDef}
    (hd : regAt p off = some d) : Stored s p off v (newFields s p off d v) := by
  intro f hf
  simp only [hasFld, hd, Option.any_some, List.contains_iff_mem] at hf
  exact fld_applyAll v _ _ (fieldsApart_of_regAt hd) _ (lockHit_of_taken h hd) f hf

/-- A write command of a register of a block that takes effect stores its fields, then does what the block does. -/
theorem regPut_taken {s : State} {p : Page} {off : Nat} {v : Word} (h : writeTaken s p off v = true) (h80 : 0x080 ≤ off)
    (hp : preHook s p off = s) (src : Src) :
    ∃ w, Stored s p off v w ∧
      regPut s src p off v = pageHook (storeReg s p off w) { src := src } p off (rawReg s p off) v := by
  obtain ⟨d, hd⟩ := writeAt_of_taken h
  have hd := regAt_of_writeAt hd
  exact ⟨_, stored_newFields h hd, regPut_own h hd h80 hp src⟩

/-- A register of one field of 32 bits that software writes holds what was written. -/
theorem Stored.word {s : State} {p : Page} {off : Nat} {v w : Word} (h : Stored s p off v w) {c : Coll} {r : Rst}
    (hf : hasFld p off ⟨31, 0, .rw, r, c⟩ = true) : w = v := by
  have e := h _ hf
  apply BitVec.eq_of_toNat_eq
  have hw := w.isLt
  have hv := v.isLt
  simp only [Fld.taken, fld, bitsOf, Nat.pow_zero, Nat.div_one, Nat.reduceAdd, Nat.reduceSub] at e
  omega

@[simp] theorem rfld_storeReg_same (s : State) (p : Page) (off hi lo : Nat) (w : Word) :
    rfld (storeReg s p off w) p off hi lo = fld w hi lo := by simp [rfld]

@[simp] theorem rbit_storeReg_same (s : State) (p : Page) (off b : Nat) (w : Word) :
    rbit (storeReg s p off w) p off b = (fld w b b == 1) := by simp [rbit]

@[simp] theorem rfld_storeReg_off (s : State) (p : Page) (off o hi lo : Nat) (w : Word) (h : o ≠ off) :
    rfld (storeReg s p off w) p o hi lo = rfld s p o hi lo := by simp [rfld, h]

@[simp] theorem rbit_storeReg_off (s : State) (p : Page) (off o b : Nat) (w : Word) (h : o ≠ off) :
    rbit (storeReg s p off w) p o b = rbit s p o b := by simp [rbit, h]

@[simp] theorem getTile_storeReg (s : State) (p : Page) (off : Nat) (w : Word) (k : Nat) :
    getTile (storeReg s p off w) k = getTile s k := by rw [onlyRegs_storeReg s p off w]; rfl

@[simp] theorem storeReg_mem (s : State) (p : Page) (off : Nat) (w : Word) : (storeReg s p off w).mem = s.mem :=
  (onlyRegs_storeReg s p off w).mem

end Sys2Proof.Machine
end

section
/-! PROOFS. Registers of the tile pages whose writes start something (sections 4.6, 4.8, 6.7, 7.3, 9.4, 10.1 and 10.5). -/

namespace Sys2Proof.Machine

/-! ## Pages of tiles -/

/-- A write that takes effect reaches a page that the assembly has. -/
theorem pagePresent_of_taken {s : State} {p : Page} {off : Nat} {v : Word} (h : writeTaken s p off v = true) :
    pagePresent s p = true := by
  obtain ⟨d, hd⟩ := writeAt_of_taken h
  exact pagePresent_of_writeAt hd

/-- A tile page that exists is one of the 16,384 tiles'. -/
theorem tile_lt_of_present {s : State} {p : Page} {t : Nat} (hp : pagePresent s p = true)
    (h : p = .til t ∨ p = .seq t ∨ p = .cmp t ∨ p = .mov t ∨ p = .cmb t ∨ p = .rtr t ∨ p = .dbg t) : t < 16384 := by
  rcases h with rfl | rfl | rfl | rfl | rfl | rfl | rfl <;>
    simp only [pagePresent, Bool.and_eq_true, decide_eq_true_eq] at hp <;> exact hp.1.1

/-! ## MOV with no command -/

/-- MOV with no command settles to itself, or ends the SRST that it was under. -/
theorem movSettle_of_empty {s : State} {t : Nat} (h : movEmpty (getTile s t)) (lc : Nat) :
    movSettle s t lc = movSrst (modTile s t stageNone) t := by
  obtain ⟨hq, hcur, hout, hstage⟩ := h
  have hpump : stagePump s t = modTile s t stageNone := by simp only [stagePump, hstage, List.foldl_nil]; rfl
  have htile := getTile_modTile_same s t stageNone
  have hcur' : (getTile (modTile s t stageNone) t).movCur = none := by rw [htile]; exact hcur
  have hq' : (getTile (modTile s t stageNone) t).movQ = [] := by rw [htile]; exact hq
  simp only [movSettle, hcur, hout, Option.toList_none, List.append_nil, List.filter_nil, List.foldl_nil, movPump, hpump]
  generalize modTile s t stageNone = z at hcur' hq'
  have hcut : iter (fun s => cutStep s t) 12 z = z := iter_of_fixed (by simp [cutStep, hcur']) 12
  have hsig : sigStart z t = z := by simp [sigStart, hq']
  rw [hcut, hsig, hcut]

theorem movSrst_mem (s : State) (t : Nat) : (movSrst s t).mem = s.mem := by
  unfold movSrst
  split <;> rfl

/-- The end of MOV's SRST writes MOV's page alone. -/
theorem rawReg_movSrst_seq (s : State) (t o : Nat) (h : o < 0x1000) :
    rawReg (movSrst s t) (.seq t) o = rawReg s (.seq t) o := by
  unfold movSrst
  split
  · unfold movSrstEnd
    rw [rawReg_modTile, rawReg_putReg_ne _ _ _ _ _ _ (by simp only [regKey, pageBase]; omega),
      rawReg_putReg_ne _ _ _ _ _ _ (by simp only [regKey, pageBase]; omega),
      rawReg_resetRegs_out _ _ _ _ _ _ (by simp only [regKey, pageBase]; omega)]
  · rfl

/-! ## Contexts -/

/-- ABORT of a context with no unresolved branch, where MOV holds nothing. -/
theorem abortCtx_of_still {s : State} {t lc : Nat} (hlc : lc < 4) (hm : movEmpty (getTile s t))
    (hb : (getCtx s t lc).brs = []) :
    (abortCtx s t lc).mem = s.mem ∧ lcState (abortCtx s t lc) t lc = if lcState s t lc = 0 then 0 else 3 := by
  have hne : lcStat lc ≠ 0x104 + 0x40 * lc := by unfold lcStat; omega
  unfold abortCtx
  split
  · next h0 => exact ⟨rfl, by rw [← h0]; exact rfld_putFld_off _ _ _ _ _ _ _ _ _ hne⟩
  · rw [squashTent_of_nil hb]
    extract_lets s1 s2
    have hempty : movEmpty (getTile (lcSetState s2 t lc 3) t) := by
      have htile : getTile (lcSetState s2 t lc 3) t = getTile s2 t := rfl
      rw [htile]
      exact (movEmpty_modCtx s1 t lc _).2 hm
    rw [movSettle_of_empty hempty]
    refine ⟨movSrst_mem _ _, ?_⟩
    rw [lcState, rfld, rawReg_movSrst_seq _ _ _ (by unfold lcStat; omega), rawReg_modTile]
    exact rfld_putFld_same _ _ _ _ _ _ (by decide) (by decide)

/-! ## Isolation -/

/-- Isolation of a tile that was not isolated: the cause is shown, its engines' queues are empty, and memory is as before. -/
theorem isolate_of_open {s : State} {t cause : Nat} (hp : pagePresent s (.til t) = true) (hiso : isoBit s t = false) :
    let u := isolate s t cause
    isoBit u t = true ∧ rfld u (.til t) 0x084 4 2 = cause % 8 ∧ (getTile u t).cmpQ = [] ∧ (getTile u t).movQ = []
      ∧ (getTile u t).cmbQ = [] ∧ u.mem = s.mem ∧ u.mgt = s.mgt := by
  simp only [isolate, hiso, Bool.false_eq_true, if_false]
  generalize hs1 : putFld (putBit s (.til t) 0x084 1 true) (.til t) 0x084 4 2 cause = s1
  have hbit : rbit s1 (.til t) 0x084 1 = true := by
    rw [← hs1, rbit, rfld_putFld_ne _ _ _ _ _ _ _ _ (by decide) (by decide) (by decide) (by decide)]
    exact rbit_putBit_same s (.til t) 0x084 1 true (by decide)
  have hcause : rfld s1 (.til t) 0x084 4 2 = cause % 8 := by
    rw [← hs1]
    exact rfld_putFld_same _ _ _ _ _ _ (by decide) (by decide)
  have hmem : s1.mem = s.mem := by rw [← hs1]; rfl
  have hmgt : s1.mgt = s.mgt := by rw [← hs1]; rfl
  generalize hs2 : modTile s1 t _ = s2
  have hregs : rawReg s2 (.til t) 0x084 = rawReg s1 (.til t) 0x084 := by rw [← hs2]; rfl
  have hev := events_isrBit s2 (.til t) 3 (0, 0) []
  have hreg : rawReg (isrBit s2 (.til t) 3) (.til t) 0x084 = rawReg s2 (.til t) 0x084 := by
    rw [isrBit, rawReg_isrSet hp _ _ _ _ (by decide)]
    exact rawReg_isrCore _ _ _ _ _ (by decide) (by decide) (by decide)
  have htile : getTile (isrBit s2 (.til t) 3) t = getTile s2 t := by rw [hev.1]; rfl
  have htile2 : getTile s2 t = _ := hs2 ▸ getTile_modTile_same s1 t _
  rw [htile, htile2]
  refine ⟨?_, ?_, rfl, rfl, rfl, ?_, ?_⟩
  · rw [isoBit, rbit, rfld, hreg, hregs]; exact hbit
  · rw [rfld, hreg, hregs]; exact hcause
  · rw [hev.mem, ← hs2]; exact hmem
  · rw [hev.1, ← hs2]; exact hmgt

/-! ## The obligation -/

theorem exec_load (src : Src) (t k : Nat) (s : State) :
    exec (.load src t k) s = .next (regPut s src (.seq t) (0x104 + lcOff k) 1) := rfl
theorem exec_abort (src : Src) (t k : Nat) (s : State) :
    exec (.abort src t k) s = .next (regPut s src (.seq t) (0x104 + lcOff k) 2) := rfl
theorem exec_predclr (src : Src) (t : Nat) (s : State) :
    exec (.predclr src t) s = .next (regPut s src (.seq t) 0x080 (rawReg s (.seq t) 0x080 ||| 2)) := rfl
theorem exec_pelClr (src : Src) (t : Nat) (s : State) :
    exec (.pelClr src t) s = .next (regPut s src (.mov t) 0x084 1) := rfl
theorem exec_tilIsoOff (src : Src) (t : Nat) (s : State) :
    exec (.tilIsoOff src t) s = .next (regPut s src (.til t) 0x084 1) := rfl
theorem exec_cmbRqEn (src : Src) (t k : Nat) (en : Bool) (s : State) : exec (.cmbRqEn src t k en) s = .next
    (regPut s src (.cmb t) (rqOff (k % 16)) (setFld (rawReg s (.cmb t) (rqOff (k % 16))) 0 0 (bitNat en))) := rfl
theorem exec_cqEn (src : Src) (t k : Nat) (en : Bool) (s : State) : exec (.cqEn src t k en) s = .next
    (regPut s src (.cmb t) (cqOff (k % 8)) (setFld (rawReg s (.cmb t) (cqOff (k % 8))) 0 0 (bitNat en))) := rfl
theorem exec_leaseRequest (src : Src) (t i lreg lx : Nat) (s : State) : exec (.leaseRequest src t i lreg lx) s = .next
    (regPut s src (.til t) (0x100 + 4 * (i % 3)) (BitVec.ofNat 32 (1 + lreg % 4 * 256 + lx % 128 * 65536))) := rfl
theorem exec_leaseEnd (src : Src) (t i : Nat) (s : State) : exec (.leaseEnd src t i) s = .next
    (regPut s src (.til t) (0x100 + 4 * (i % 3)) (setFld (rawReg s (.til t) (0x100 + 4 * (i % 3))) 0 0 0)) := rfl

section Chandler
variable {s : State} {src : Src} {t k : Nat}

/-- LOAD queues the load of the context (R200). -/
theorem load_queues (hk : k < 4) (h : writeTaken s (.seq t) (0x104 + lcOff k) 1 = true) :
    k ∈ (getTile (regPut s src (.seq t) (0x104 + lcOff k) 1) t).loads
      ∧ OnlyTile s (regPut s src (.seq t) (0x104 + lcOff k) 1) t := by
  have hoff : lcOff k = 0x40 * k := by unfold lcOff; omega
  obtain ⟨w, -, hu⟩ := regPut_taken h (by omega) rfl src
  have hrange : 0x100 ≤ 0x104 + lcOff k ∧ 0x104 + lcOff k < 0x200 ∧ (0x104 + lcOff k) % 0x40 = 4 := by omega
  have hlc : (0x104 + lcOff k - 0x100) / 0x40 = k := by omega
  have hload : fld (1 : Word) 0 0 = 1 := rfl
  have habort : fld (1 : Word) 1 1 ≠ 1 := by decide
  have hne : 0x104 + lcOff k ≠ 0x080 := by omega
  rw [hu]
  simp only [pageHook, seqHook, if_neg hne, if_pos hrange, hlc, if_pos hload, if_neg habort, loadAsk]
  refine ⟨?_, ((onlyRegs_storeReg _ _ _ _).onlyTile t).trans (onlyTile_modTile _ _ _)⟩
  rw [getTile_modTile_same]
  split
  · next hc => exact List.contains_iff_mem.1 hc
  · simp

/-- ABORT of a context without unresolved branches (R210, R211). -/
theorem abort_ends (hk : k < 4) (h : writeTaken s (.seq t) (0x104 + lcOff k) 2 = true) (hm : movEmpty (getTile s t))
    (hb : (getCtx s t k).brs = []) :
    (regPut s src (.seq t) (0x104 + lcOff k) 2).mem = s.mem
      ∧ lcState (regPut s src (.seq t) (0x104 + lcOff k) 2) t k = if lcState s t k = 0 then 0 else 3 := by
  have hoff : lcOff k = 0x40 * k := by unfold lcOff; omega
  obtain ⟨w, -, hu⟩ := regPut_taken h (by omega) rfl src
  have hrange : 0x100 ≤ 0x104 + lcOff k ∧ 0x104 + lcOff k < 0x200 ∧ (0x104 + lcOff k) % 0x40 = 4 := by omega
  have hlc : (0x104 + lcOff k - 0x100) / 0x40 = k := by omega
  have hload : fld (2 : Word) 0 0 ≠ 1 := by decide
  have habort : fld (2 : Word) 1 1 = 1 := rfl
  have hne : 0x104 + lcOff k ≠ 0x080 := by omega
  have hstat : lcStat k ≠ 0x104 + lcOff k := by unfold lcStat; omega
  rw [hu]
  simp only [pageHook, seqHook, if_neg hne, if_pos hrange, hlc, if_neg hload, if_pos habort]
  generalize hx : storeReg s (.seq t) (0x104 + lcOff k) w = x
  have htile : getTile x t = getTile s t := by rw [← hx]; exact getTile_storeReg _ _ _ _ _
  have hstate : lcState x t k = lcState s t k := by rw [← hx]; exact rfld_storeReg_off _ _ _ _ _ _ _ hstat
  have hctx : getCtx x t k = getCtx s t k := by rw [getCtx, htile]; rfl
  obtain ⟨hmem, hst⟩ := abortCtx_of_still (s := x) hk (htile ▸ hm) (hctx ▸ hb)
  exact ⟨by rw [hmem, ← hx, storeReg_mem], by rw [hst, hstate]⟩

/-- PREDCLR empties the prediction table (R185). -/
theorem predclr_clears (h : writeTaken s (.seq t) 0x080 (rawReg s (.seq t) 0x080 ||| 2) = true) :
    (getTile (regPut s src (.seq t) 0x080 (rawReg s (.seq t) 0x080 ||| 2)) t).pred = []
      ∧ OnlyTile s (regPut s src (.seq t) 0x080 (rawReg s (.seq t) 0x080 ||| 2)) t := by
  obtain ⟨w, -, hu⟩ := regPut_taken h (by decide) rfl src
  have hclr : fld (rawReg s (.seq t) 0x080 ||| 2) 1 1 = 1 := fld_or_bit _ (b := 1) (by decide)
  rw [hu]
  simp only [pageHook, seqHook, if_true, hclr, predClear]
  exact ⟨by rw [getTile_modTile_same], ((onlyRegs_storeReg _ _ _ _).onlyTile t).trans (onlyTile_modTile _ _ _)⟩

/-- MOV_PEL_CTL.CLR empties the log of posted errors (R284). -/
theorem pelClr_clears (h : writeTaken s (.mov t) 0x084 1 = true) :
    rawReg (regPut s src (.mov t) 0x084 1) (.mov t) 0x088 = 0
      ∧ (∀ i, i < 64 → rawReg (regPut s src (.mov t) 0x084 1) (.mov t) (0x200 + 4 * i) = 0)
      ∧ OnlyRegs s (regPut s src (.mov t) 0x084 1) := by
  obtain ⟨w, -, hu⟩ := regPut_taken h (by decide) rfl src
  have hclr : fld (1 : Word) 0 0 = 1 := rfl
  have hdef (f : Fuses) (i : Nat) (hi : i < 64) : regDefault f (.mov t) (0x200 + 4 * i) = 0 := by
    interval_cases i <;> rfl
  rw [hu]
  simp only [pageHook, if_true, hclr, pelClear]
  refine ⟨?_, fun i hi => ?_, ((onlyRegs_storeReg _ _ _ _).trans (onlyRegs_putReg _ _ _ _)).trans
    (onlyRegs_resetRegs _ _ _ _)⟩
  · rw [rawReg_resetRegs_out _ _ _ _ _ _ (by simp only [regKey]; omega), rawReg_putReg_same]
  · rw [rawReg_resetRegs_in _ _ _ _ _ (by omega) (by omega), hdef _ i hi]

end Chandler

section Channels
variable {s : State} {src : Src} {t k : Nat} {en : Bool}

/-- The value of a bit written into a register. -/
theorem fld_setBit (w : Word) (en : Bool) : fld (setFld w 0 0 (bitNat en)) 0 0 = bitNat en := by
  rw [fld_setFld_same _ _ _ _ (by decide) (by decide)]
  cases en <;> rfl

theorem bitNat_eq_one (en : Bool) : (bitNat en == 1) = en := by cases en <;> rfl

/-- Head and tail of a receive queue that its disabling empties, with nothing stalled (R417). -/
theorem rqDisable_ptrs {x : State} {n : Nat} (hst : (getTile x t).stalled = none) :
    rqPtr (rqDisable x t n) t n = 0 ∧ rqTail (rqDisable x t n) t n = 0 ∧ rqEn (rqDisable x t n) t n = rqEn x t n := by
  unfold rqDisable
  extract_lets p s1 s2
  have htile : getTile s1 t = getTile x t := rfl
  have hs2 : s2 = s1 := by simp [s2, htile, hst]
  have hregs (o : Nat) : rawReg (if n ∈ (getTile s2 t).rqRetired then bucketRestore (modTile s2 t
      (fun x => { x with rqRetired := x.rqRetired.filter (· != n) })) 3 (t * 16 + n) else s2) p o = rawReg s1 p o := by
    rw [hs2]
    split <;> rfl
  have hput (o hi lo x2 : Nat) (z : State) (r : Nat) (h : r ≠ o) :
      rawReg (putFld z p o hi lo x2) p r = rawReg z p r := rawReg_putReg_off _ _ _ _ _ h
  have hhead : rawReg s1 p (rqOff n + 0xC) = setFld (rawReg x p (rqOff n + 0xC)) 17 0 0 := by
    simp only [s1, putBit]
    rw [hput _ _ _ _ _ _ (by omega), hput _ _ _ _ _ _ (by omega), putFld, rawReg_putReg_same]
  have htail : rfld s1 p (rqOff n + 0x10) 17 0 = 0 := by
    simp only [s1, putBit]
    rw [rfld, hput _ _ _ _ _ _ (by omega)]
    exact rfld_putFld_same _ _ _ _ _ _ (by decide) (by decide)
  have hcfg : rawReg s1 p (rqOff n) = rawReg x p (rqOff n) := by
    simp only [s1, putBit]
    rw [hput _ _ _ _ _ _ (by omega), hput _ _ _ _ _ _ (by omega), hput _ _ _ _ _ _ (by omega)]
  refine ⟨?_, ?_, ?_⟩
  · rw [rqPtr, rfld, hregs, hhead, fld_setFld_same _ _ _ _ (by decide) (by decide)]; rfl
  · rw [rqTail, rfld, hregs]; exact htail
  · rw [rqEn, rqEn, rbit, rbit, rfld, rfld, hregs, hcfg]

/-- EN of a receive queue takes the value written; the queue is empty when it falls (R412, R417). -/
theorem cmbRqEn_sets (h : writeTaken s (.cmb t) (rqOff (k % 16))
      (setFld (rawReg s (.cmb t) (rqOff (k % 16))) 0 0 (bitNat en)) = true) (hst : (getTile s t).stalled = none) :
    let u := regPut s src (.cmb t) (rqOff (k % 16)) (setFld (rawReg s (.cmb t) (rqOff (k % 16))) 0 0 (bitNat en))
    rqEn u t (k % 16) = en ∧ (rqEn s t (k % 16) = true → en = false → rqPtr u t (k % 16) = 0 ∧ rqTail u t (k % 16) = 0)
      ∧ u.mem = s.mem := by
  have hn : k % 16 < 16 := Nat.mod_lt _ (by decide)
  generalize k % 16 = n at h hn
  obtain ⟨w, hw, hu⟩ := regPut_taken h (by unfold rqOff; omega) rfl src
  have hfld : hasFld (.cmb t) (rqOff n) ⟨0, 0, .rw, .num 0, .s⟩ = true := by
    clear hu hw h
    interval_cases n <;> rfl
  have hen : fld w 0 0 = bitNat en := (hw _ hfld).trans (fld_setBit _ en)
  have hrange : 0x100 ≤ rqOff n ∧ rqOff n < 0x300 ∧ rqOff n % 0x20 = 0 := by unfold rqOff; omega
  have hidx : (rqOff n - 0x100) / 0x20 = n := by unfold rqOff; omega
  have hbit : rqEn (storeReg s (.cmb t) (rqOff n) w) t n = en := by
    rw [rqEn, rbit_storeReg_same, hen, bitNat_eq_one]
  intro u
  have hu : u = _ := hu
  simp only [pageHook, cmbHook, if_pos hrange, hidx] at hu
  have hstored : (getTile (storeReg s (.cmb t) (rqOff n) w) t).stalled = none := by rw [getTile_storeReg]; exact hst
  obtain ⟨hp, ht, he⟩ := rqDisable_ptrs (n := n) hstored
  rw [hu]
  split
  · exact ⟨he.trans hbit, fun _ _ => ⟨hp, ht⟩, by rw [rqDisable_mem, storeReg_mem]⟩
  · next hoff =>
    refine ⟨hbit, fun hold hfalse => absurd ?_ hoff, storeReg_mem _ _ _ _⟩
    subst hfalse
    exact ⟨by simpa [rqEn, rbit, rfld] using hold, hbit⟩

/-- The state of a combining queue after it is set, and EN. -/
theorem cqSetState_shown (x : State) (t n st : Nat) :
    cqState (cqSetState x t n st) t n = st % 8 ∧ cqEn (cqSetState x t n st) t n = cqEn x t n := by
  have hoff : 0x318 + 0x40 * n = cqOff n + 0x18 := by unfold cqOff; omega
  refine ⟨?_, ?_⟩
  · rw [cqState, hoff]
    exact rfld_putFld_same _ _ _ _ _ _ (by decide) (by decide)
  · rw [cqEn, cqEn, rbit, rbit, cqSetState, rfld_putFld_off _ _ _ _ _ _ _ _ _ (by omega)]

/-- What EN of a combining queue moves its state to (R434, R446). -/
theorem cqEnWrite_shown (x : State) (t n : Nat) (en : Bool) :
    OnlyRegs x (cqEnWrite x t n en) ∧ cqEn (cqEnWrite x t n en) t n = cqEn x t n
      ∧ cqState (cqEnWrite x t n en) t n = if en then (if cqState x t n = 0 then 1 else cqState x t n)
          else if cqState x t n = 1 ∨ cqState x t n = 5 then 0 else cqState x t n := by
  have hset (st : Nat) := cqSetState_shown x t n st
  unfold cqEnWrite
  split
  · next h0 =>
    cases en
    · exact ⟨rfl, rfl, by simp [h0]⟩
    · exact ⟨rfl, (hset 1).2, by rw [if_pos rfl, (hset 1).1]; simp [h0]⟩
  · next h1 =>
    cases en
    · exact ⟨rfl, (hset 0).2, by rw [if_neg (by decide), (hset 0).1]; simp [h1]⟩
    · exact ⟨rfl, rfl, by simp [h1]⟩
  · next h5 =>
    cases en
    · exact ⟨rfl, (hset 0).2, by rw [if_neg (by decide), (hset 0).1]; simp [h5]⟩
    · exact ⟨rfl, rfl, by simp [h5]⟩
  · next h0 h1 h5 => exact ⟨rfl, rfl, by cases en <;> simp_all⟩

/-- EN of a combining queue takes the value written, and moves its state (R434). -/
theorem cqEn_sets (h : writeTaken s (.cmb t) (cqOff (k % 8))
      (setFld (rawReg s (.cmb t) (cqOff (k % 8))) 0 0 (bitNat en)) = true) :
    let u := regPut s src (.cmb t) (cqOff (k % 8)) (setFld (rawReg s (.cmb t) (cqOff (k % 8))) 0 0 (bitNat en))
    cqEn u t (k % 8) = en ∧ OnlyRegs s u
      ∧ cqState u t (k % 8) = if en then (if cqState s t (k % 8) = 0 then 1 else cqState s t (k % 8))
          else if cqState s t (k % 8) = 1 ∨ cqState s t (k % 8) = 5 then 0 else cqState s t (k % 8) := by
  have hn : k % 8 < 8 := Nat.mod_lt _ (by decide)
  generalize k % 8 = n at h hn
  obtain ⟨w, hw, hu⟩ := regPut_taken h (by unfold cqOff; omega) rfl src
  have hfld : hasFld (.cmb t) (cqOff n) ⟨0, 0, .rw, .num 0, .s⟩ = true := by
    clear hu hw h
    interval_cases n <;> rfl
  have hen : fld w 0 0 = bitNat en := (hw _ hfld).trans (fld_setBit _ en)
  have hrq : ¬(0x100 ≤ cqOff n ∧ cqOff n < 0x300 ∧ cqOff n % 0x20 = 0) := by unfold cqOff; omega
  have hrange : 0x300 ≤ cqOff n ∧ cqOff n < 0x500 ∧ cqOff n % 0x40 = 0 := by unfold cqOff; omega
  have hidx : (cqOff n - 0x300) / 0x40 = n := by unfold cqOff; omega
  have hbit : rbit (storeReg s (.cmb t) (cqOff n) w) (.cmb t) (cqOff n) 0 = en := by
    rw [rbit_storeReg_same, hen, bitNat_eq_one]
  have hstate : cqState (storeReg s (.cmb t) (cqOff n) w) t n = cqState s t n :=
    rfld_storeReg_off _ _ _ _ _ _ _ (by unfold cqOff; omega)
  intro u
  have hu : u = _ := hu
  simp only [pageHook, cmbHook, if_neg hrq, if_pos hrange, hidx, hbit] at hu
  obtain ⟨honly, hkeep, hnew⟩ := cqEnWrite_shown (storeReg s (.cmb t) (cqOff n) w) t n en
  rw [hu]
  exact ⟨hkeep.trans hbit, (onlyRegs_storeReg _ _ _ _).trans honly, by rw [hnew, hstate]⟩

end Channels

section Leases
variable {s : State} {src : Src} {t : Nat}

theorem hasFld_lease (t : Nat) {i : Nat} (hi : i < 3) :
    hasFld (.til t) (0x100 + 4 * i) ⟨0, 0, .rw, .num 0, .s⟩ = true
      ∧ hasFld (.til t) (0x100 + 4 * i) ⟨22, 16, .rw, .num 0, .n⟩ = true := by
  interval_cases i <;> exact ⟨rfl, rfl⟩

/-- A write of TIL_ISO that isolates a tile (R386, R391). -/
theorem tilIsoOff_isolates (h : writeTaken s (.til t) 0x084 1 = true) (hiso : isolated s t = false)
    (hoff : rbit s (.til t) 0x084 0 = false) :
    let u := regPut s src (.til t) 0x084 1
    isolated u t = true ∧ rfld u (.til t) 0x084 4 2 = 1 ∧ (getTile u t).cmpQ = [] ∧ (getTile u t).movQ = []
      ∧ (getTile u t).cmbQ = [] ∧ u.mem = s.mem := by
  have hp := pagePresent_of_taken h
  obtain ⟨w, hw, hu⟩ := regPut_taken h (by decide) rfl src
  have hset : fld w 0 0 = 1 := hw ⟨0, 0, .rwl, .num 0, .s⟩ rfl
  have hbit1 : fld w 1 1 = fld (rawReg s (.til t) 0x084) 1 1 := hw ⟨1, 1, .ro, .num 0, .h⟩ rfl
  have hold : fld (rawReg s (.til t) 0x084) 0 0 = 0 := by
    have hlt := fld_lt (rawReg s (.til t) 0x084) 0 0
    simp only [rbit, rfld, beq_eq_false_iff_ne] at hoff
    omega
  have hopen : isoBit (storeReg s (.til t) 0x084 w) t = false := by
    simp only [isolated, Bool.or_eq_false_iff] at hiso
    rw [isoBit, rbit_storeReg_same, hbit1]
    exact hiso.1
  have hp' : pagePresent (storeReg s (.til t) 0x084 w) (.til t) = true := by
    have hd : regKey (.mgt) 0x084 ≠ regKey (.til t) 0x084 := by
      have := tile_lt_of_present hp (.inl rfl)
      simp only [regKey, pageBase]; omega
    simp only [pagePresent, gridX, gridY, rbit, rfld, rawReg_storeReg_ne _ _ _ _ _ _ hd] at hp ⊢
    exact hp
  intro u
  have hu : u = isolate (storeReg s (.til t) 0x084 w) t 1 := by
    simpa [u, pageHook, tilHook, hset, hold] using hu
  obtain ⟨hi, hc, hcmp, hmov, hcmb, hmem, -⟩ := isolate_of_open (cause := 1) hp' hopen
  rw [hu]
  exact ⟨by simp [isolated, hi], hc, hcmp, hmov, hcmb, hmem.trans (storeReg_mem _ _ _ _)⟩

/-- A lease that is asked for sends its request (R302). -/
theorem leaseStart_sends (x : State) (i : Nat) (hiso : isolated x t = false) :
    ∃ q, leaseState (leaseStart x t i) t i = 1 ∧ (getTile (leaseStart x t i) t).out = (getTile x t).out ++ [q]
      ∧ q.opc = opREGRD ∧ q.addr = 0x110
      ∧ q.dst = mkNode (ownPkg x) (tileY t) (rfld x (.til t) (0x100 + 4 * i) 22 16) 0 1
      ∧ OnlyTile x (leaseStart x t i) t := by
  simp only [leaseStart, hiso, Bool.false_eq_true, if_false]
  refine ⟨_, ?_, by rw [getTile_modTile_same]; rfl, rfl, rfl, rfl, (onlyTile_putFld _ _ _ _ _ _ _).trans
    (onlyTile_modTile _ _ _)⟩
  exact rfld_putFld_same _ _ _ _ _ _ (by decide) (by decide)

/-- REQ of a lease goes up (R302). -/
theorem leaseRequest_sends {i : Nat} (hi : i < 3) (lreg lx : Nat)
    (h : writeTaken s (.til t) (0x100 + 4 * i) (BitVec.ofNat 32 (1 + lreg % 4 * 256 + lx % 128 * 65536)) = true)
    (hoff : rbit s (.til t) (0x100 + 4 * i) 0 = false) (hiso : isolated s t = false) :
    let u := regPut s src (.til t) (0x100 + 4 * i) (BitVec.ofNat 32 (1 + lreg % 4 * 256 + lx % 128 * 65536))
    ∃ q, leaseState u t i = 1 ∧ (getTile u t).out = (getTile s t).out ++ [q] ∧ q.opc = opREGRD ∧ q.addr = 0x110
      ∧ q.dst = mkNode (ownPkg s) (tileY t) (lx % 128) 0 1 ∧ OnlyTile s u t := by
  have ht := tile_lt_of_present (pagePresent_of_taken h) (.inl rfl)
  obtain ⟨w, hw, hu⟩ := regPut_taken h (by omega) rfl src
  obtain ⟨hf0, hf22⟩ := hasFld_lease t hi
  have hreq : fld w 0 0 = 1 := by
    rw [hw _ hf0]
    simp only [Fld.taken, fld, bitsOf, BitVec.toNat_ofNat]; omega
  have hx : fld w 22 16 = lx % 128 := by
    rw [hw _ hf22]
    simp only [Fld.taken, fld, bitsOf, BitVec.toNat_ofNat]; omega
  have hold : fld (rawReg s (.til t) (0x100 + 4 * i)) 0 0 = 0 := by
    have hlt := fld_lt (rawReg s (.til t) (0x100 + 4 * i)) 0 0
    simp only [rbit, rfld, beq_eq_false_iff_ne] at hoff
    omega
  have hne : 0x100 + 4 * i ≠ 0x084 := by omega
  have hrange : 0x100 ≤ 0x100 + 4 * i ∧ 0x100 + 4 * i < 0x10C := by omega
  have hidx : (0x100 + 4 * i - 0x100) / 4 = i := by omega
  intro u
  have hu : u = leaseStart (storeReg s (.til t) (0x100 + 4 * i) w) t i := by
    refine hu.trans ?_
    simp only [pageHook, tilHook, if_neg hne, if_pos hrange, hidx, rfld_storeReg_same, hreq, hold]
    rfl
  have hiso' : isolated (storeReg s (.til t) (0x100 + 4 * i) w) t = false := by
    have hmgt : (storeReg s (.til t) (0x100 + 4 * i) w).mgt = s.mgt := by rw [onlyRegs_storeReg s _ _ w]
    rw [← hiso, isolated, isolated, hmgt, isoBit, isoBit, rbit_storeReg_off _ _ _ _ _ _ (by omega)]
  have hown : ownPkg (storeReg s (.til t) (0x100 + 4 * i) w) = ownPkg s := by
    have hd : regKey (.osw 0) 0x080 ≠ regKey (.til t) (0x100 + 4 * i) := by simp only [regKey, pageBase]; omega
    rw [ownPkg, ownPkg, rfld, rfld, rawReg_storeReg_ne _ _ _ _ _ _ hd]
  obtain ⟨q, hst, hout, hop, hadr, hdst, honly⟩ := leaseStart_sends (t := t) _ i hiso'
  rw [getTile_storeReg] at hout
  rw [hown, rfld_storeReg_same, hx] at hdst
  rw [hu]
  exact ⟨q, hst, hout, hop, hadr, hdst, ((onlyRegs_storeReg _ _ _ _).onlyTile t).trans honly⟩

theorem leaseSet_zero (x : State) (t i : Nat) : leaseSet x t i 0 = modTile (putFld x (.til t) (0x100 + 4 * i) 2 1 0) t
    (fun y => { y with leaseReq := tabDel y.leaseReq i }) := by
  unfold leaseSet
  rw [if_neg (by decide)]

/-- REQ of a lease falls (R304). -/
theorem leaseEnd_clears {i : Nat} (hi : i < 3)
    (h : writeTaken s (.til t) (0x100 + 4 * i) (setFld (rawReg s (.til t) (0x100 + 4 * i)) 0 0 0) = true)
    (hon : rbit s (.til t) (0x100 + 4 * i) 0 = true) :
    let u := regPut s src (.til t) (0x100 + 4 * i) (setFld (rawReg s (.til t) (0x100 + 4 * i)) 0 0 0)
    leaseState u t i = 0 ∧ OnlyTile s u t := by
  obtain ⟨w, hw, hu⟩ := regPut_taken h (by omega) rfl src
  have hreq : fld w 0 0 = 0 := by
    rw [hw _ (hasFld_lease t hi).1]
    exact fld_setBit _ false
  have hold : fld (rawReg s (.til t) (0x100 + 4 * i)) 0 0 = 1 := by simpa [rbit, rfld] using hon
  have hne : 0x100 + 4 * i ≠ 0x084 := by omega
  have hrange : 0x100 ≤ 0x100 + 4 * i ∧ 0x100 + 4 * i < 0x10C := by omega
  have hidx : (0x100 + 4 * i - 0x100) / 4 = i := by omega
  intro u
  have hu : u = leaseSet (storeReg s (.til t) (0x100 + 4 * i) w) t i 0 := by
    refine hu.trans ?_
    simp only [pageHook, tilHook, if_neg hne, if_pos hrange, hidx, rfld_storeReg_same, hreq, hold]
    rfl
  rw [hu, leaseSet_zero]
  refine ⟨?_, ((onlyRegs_storeReg _ _ _ _).onlyTile t).trans
    ((onlyTile_putFld _ _ _ _ _ _ _).trans (onlyTile_modTile _ _ _))⟩
  exact rfld_putFld_same _ _ _ _ _ _ (by decide) (by decide)

end Leases

/-- Settles O10: each write stores its fields, and the block then does what its rule says, clause by clause. -/
theorem tileControlsAct : Obligations.TileControlsAct := by
  refine ⟨fun s src t k en => ⟨fun hk h => ?_, fun hk h hm hb => ?_, fun h => ?_, fun h => ?_, fun h hiso hoff => ?_,
    fun h hst => ?_, fun h => ?_⟩, fun s src t i lreg lx => ⟨fun h hoff hiso => ?_, fun h hon => ?_⟩⟩
  · exact ⟨_, exec_load src t k s, load_queues hk h⟩
  · exact ⟨_, exec_abort src t k s, abort_ends hk h hm hb⟩
  · exact ⟨_, exec_predclr src t s, predclr_clears h⟩
  · exact ⟨_, exec_pelClr src t s, pelClr_clears h⟩
  · exact ⟨_, exec_tilIsoOff src t s, tilIsoOff_isolates h hiso hoff⟩
  · exact ⟨_, exec_cmbRqEn src t k en s, cmbRqEn_sets h hst⟩
  · exact ⟨_, exec_cqEn src t k en s, cqEn_sets h⟩
  · obtain ⟨q, hq⟩ := leaseRequest_sends (src := src) (Nat.mod_lt i (by decide)) lreg lx h hoff hiso
    exact ⟨_, q, exec_leaseRequest src t i lreg lx s, hq⟩
  · exact ⟨_, exec_leaseEnd src t i s, leaseEnd_clears (Nat.mod_lt i (by decide)) h hon⟩

end Sys2Proof.Machine
end

section
/-! PROOFS. The states of the timekeeper and of the Accord ports, and the registers that set them (sections 11.2, 11.4, 11.7
and 11.8). -/

namespace Sys2Proof.Machine

/-! ## Frames of the timekeeper -/

/-- Beside the listed registers, what events leave and the timekeeper's own record nothing has changed. -/
def TkpEvents (s u : State) (ks : List Nat) : Prop :=
  u = { s with regs := u.regs, links := u.links, hif := u.hif, out := u.out, dbg := u.dbg, free := u.free, tkp := u.tkp }
    ∧ RegsEvents s u ks

theorem TkpEvents.refl (s : State) (ks : List Nat) : TkpEvents s s ks := ⟨rfl, fun _ _ _ _ => rfl⟩

theorem TkpEvents.trans {s u v : State} {ks : List Nat} (h : TkpEvents s u ks) (h' : TkpEvents u v ks) :
    TkpEvents s v ks := by
  obtain ⟨a, hr⟩ := h
  obtain ⟨b, hr'⟩ := h'
  exact ⟨by rw [b, a], fun p o k e => (hr' p o k e).trans (hr p o k e)⟩

theorem Events.tkp {s u : State} {ks : List Nat} (h : Events s u ks) : TkpEvents s u ks :=
  ⟨by rw [h.1], h.2.2⟩

theorem TkpEvents.weaken {s u : State} {ks ls : List Nat} (h : TkpEvents s u ks) (hk : ∀ k ∈ ks, k ∈ ls) :
    TkpEvents s u ls := ⟨h.1, fun p o k e => h.2 p o (fun m => k (hk _ m)) e⟩

theorem tkpEvents_of_tkp (s : State) (k : Tkp) (ks : List Nat) : TkpEvents s { s with tkp := k } ks :=
  ⟨rfl, fun _ _ _ _ => rfl⟩

theorem tkpEvents_ite {s u v : State} {ks : List Nat} {c : Prop} [Decidable c] (h : TkpEvents s u ks)
    (h' : TkpEvents s v ks) : TkpEvents s (if c then u else v) ks := by
  split <;> assumption

theorem TkpEvents.mem {s u : State} {ks : List Nat} (h : TkpEvents s u ks) : u.mem = s.mem := by rw [h.1]
theorem TkpEvents.time {s u : State} {ks : List Nat} (h : TkpEvents s u ks) : u.time = s.time := by rw [h.1]
theorem TkpEvents.rtc {s u : State} {ks : List Nat} (h : TkpEvents s u ks) : u.rtc = s.rtc := by rw [h.1]

theorem TkpEvents.rawReg_eq {s u : State} {ks : List Nat} (h : TkpEvents s u ks) {p : Page} {o : Nat}
    (hk : regKey p o ∉ ks) (he : EvKey (regKey p o) = false) : rawReg u p o = rawReg s p o := h.2 p o hk he

/-- The registers that a change of the timekeeper's state writes: STAT and RATE. -/
def tkpKeys : List Nat := [regKey (.tkp 0) 0x084, regKey (.tkp 0) 0x09C]

/-- The timekeepers' own registers lie apart from those of events. -/
theorem evKey_tkp {d o : Nat} (h60 : 0x060 ≤ o) (h : o < 0xE00) : EvKey (regKey (.tkp d) o) = false :=
  evKey_eq_false (by simp only [pageBase]; omega) h (by simp; omega)

/-! ## The state of the timekeeper -/

theorem tkpEvents_tkpEnter (s : State) (st : Nat) : TkpEvents s (tkpEnter s st) tkpKeys := by
  unfold tkpEnter
  extract_lets old s1 s2 b k3 s3 k4 s4 k5 s5
  have k84 : regKey (.tkp 0) 0x084 ∈ tkpKeys := by simp [tkpKeys]
  have k9c : regKey (.tkp 0) 0x09C ∈ tkpKeys := by simp [tkpKeys]
  have h1 : TkpEvents s s1 tkpKeys := (events_putFld _ _ _ _ _ _ _ (.inl k84)).tkp
  have h2 : TkpEvents s s2 tkpKeys := tkpEvents_ite (h1.trans (events_putReg _ _ _ _ _ (.inl k9c)).tkp) h1
  have h3 : TkpEvents s s3 tkpKeys :=
    tkpEvents_ite ((h2.trans (events_putBit _ _ _ _ _ _ (.inl k84)).tkp).trans (tkpEvents_of_tkp _ _ _)) h2
  have h4 : TkpEvents s s4 tkpKeys := tkpEvents_ite (h3.trans (tkpEvents_of_tkp _ _ _)) h3
  have h5 : TkpEvents s s5 tkpKeys := tkpEvents_ite (h4.trans (tkpEvents_of_tkp _ _ _)) h4
  exact tkpEvents_ite h5 (h5.trans (events_isrBit _ _ _ _ _).tkp)

/-- STATE shows the state that was entered. -/
theorem tkpState_tkpEnter (s : State) {st : Nat} (h : st < 4) : tkpState (tkpEnter s st) = st := by
  unfold tkpEnter
  extract_lets old s1 s2 b k3 s3 k4 s4 k5 s5
  have h1 : tkpState s1 = st := (rfld_putFld_same _ _ _ _ _ _ (by decide) (by decide)).trans (Nat.mod_eq_of_lt h)
  have h2 : tkpState s2 = st := by
    unfold s2
    split
    · exact (congrArg (fun w => fld w 1 0) (rawReg_putReg_off _ _ _ _ _ (by decide))).trans h1
    · exact h1
  have h3 : tkpState s3 = st := by
    unfold s3
    split
    · exact (rfld_putFld_ne _ _ _ _ _ _ _ _ (by decide) (by decide) (by decide) (by decide)).trans h2
    · exact h2
  have h4 : tkpState s4 = st := by unfold s4; split <;> exact h3
  have h5 : tkpState s5 = st := by unfold s5; split <;> exact h4
  split
  · exact h5
  · have hk : regKey (.tkp 0) 0x084 ∉ [] := List.not_mem_nil
    rw [tkpState, rfld, (events_isrBit s5 (.tkp 0) 0 (0, 0) []).rawReg_eq hk (evKey_tkp (by decide) (by decide))]
    exact h5

theorem tkpEvents_tkpSet (s : State) (st : Nat) : TkpEvents s (tkpSet s st) tkpKeys :=
  tkpEvents_ite ((tkpEvents_tkpEnter s st).trans (tkpEvents_tkpEnter _ 0)) (tkpEvents_tkpEnter s st)

/-- STATE shows the state set, but for HOLDOVER of a reference with TKP_HOLD = 0 (Table 11.6). -/
theorem tkpState_tkpSet (s : State) {st : Nat} (h : st < 4) (hh : st = 3 → ¬(tkpSrc s = 1 ∨ tkpSrc s = 3)) :
    tkpState (tkpSet s st) = st := by
  have hno : ¬(st = 3 ∧ (tkpSrc s = 1 ∨ tkpSrc s = 3) ∧ rfld s (.tkp 0) 0x0B0 15 0 = 0) :=
    fun ⟨h3, hsrc, _⟩ => hh h3 hsrc
  simp only [tkpSet, if_neg hno]
  exact tkpState_tkpEnter s h

/-- A register of a timekeeper page but STAT and RATE of TKP0 is as before. -/
theorem TkpEvents.rawReg_tkp {s u : State} (h : TkpEvents s u tkpKeys) {d o : Nat} (h60 : 0x060 ≤ o) (ho : o < 0xE00)
    (hn : o ≠ 0x084 ∧ o ≠ 0x09C) : rawReg u (.tkp d) o = rawReg s (.tkp d) o := by
  refine h.rawReg_eq ?_ (evKey_tkp h60 ho)
  simp only [tkpKeys, List.mem_cons, List.not_mem_nil, or_false, regKey, pageBase]
  omega

theorem TkpEvents.tkpSrc {s u : State} (h : TkpEvents s u tkpKeys) : tkpSrc u = tkpSrc s := by
  simp only [Machine.tkpSrc, rfld, h.rawReg_tkp (d := 0) (o := 0x080) (by decide) (by decide) (by decide)]

theorem TkpEvents.tkpPort {s u : State} (h : TkpEvents s u tkpKeys) : tkpPort u = tkpPort s := by
  simp only [Machine.tkpPort, rfld, h.rawReg_tkp (d := 0) (o := 0x080) (by decide) (by decide) (by decide)]

theorem accOff_range (n : Nat) : 0x200 ≤ accOff n ∧ accOff n ≤ 0x200 + 0x20 * 11 := by unfold accOff; omega

theorem TkpEvents.accState {s u : State} (h : TkpEvents s u tkpKeys) (n : Nat) : accState u n = accState s n := by
  have hr := accOff_range n
  simp only [Machine.accState, accPage, rfld, h.rawReg_tkp (d := n / 12) (o := accOff n + 4) (by omega) (by omega) (by omega)]

theorem TkpEvents.accRole {s u : State} (h : TkpEvents s u tkpKeys) (n : Nat) : accRole u n = accRole s n := by
  have hr := accOff_range n
  simp only [Machine.accRole, accPage, rfld, h.rawReg_tkp (d := n / 12) (o := accOff n) (by omega) (by omega) (by omega)]

/-! ## TKP_CTL -/

/-- What TKP_CTL makes of the state: a new source enters its own, PTP firmware sets it, else it stays (Table 11.1, R467). -/
theorem tkpCtlWritten_shown (s : State) (old : Word) :
    TkpEvents s (tkpCtlWritten s old) tkpKeys
      ∧ (tkpSrc s ≠ fld old 1 0 → tkpState (tkpCtlWritten s old) = match tkpSrc s with
          | 0 => 0
          | 1 => 1
          | 2 => rfld s (.tkp 0) 0x080 13 12
          | _ => if accState s (tkpPort s) = 3 then 2 else 1)
      ∧ (tkpSrc s = fld old 1 0 → tkpSrc s = 2 → tkpState (tkpCtlWritten s old) = rfld s (.tkp 0) 0x080 13 12) := by
  have hfw : rfld s (.tkp 0) 0x080 13 12 < 4 := fld_lt _ 13 12
  have hlt : tkpSrc s < 4 := fld_lt _ 1 0
  have ha := tkpEvents_tkpSet s 0
  have hsrc : fld (rawReg s (.tkp 0) 0x080) 1 0 = tkpSrc s := rfl
  have hfwst : fld (rawReg s (.tkp 0) 0x080) 13 12 = rfld s (.tkp 0) 0x080 13 12 := rfl
  unfold tkpCtlWritten
  simp only [hsrc, hfwst]
  by_cases hc : tkpSrc s = fld old 1 0
  · have hsame : ¬(tkpSrc s ≠ fld old 1 0) := not_not.2 hc
    simp only [if_neg hsame]
    refine ⟨tkpEvents_ite (tkpEvents_tkpSet s _) (.refl _ _), fun h => absurd hc h, fun _ h2 => ?_⟩
    rw [if_pos h2]
    exact tkpState_tkpSet s hfw (fun _ => by rw [h2]; decide)
  · simp only [if_pos hc]
    refine ⟨?_, fun _ => ?_, fun h => absurd h hc⟩
    · split
      · exact ha
      · exact ha.trans (tkpEvents_tkpSet _ _)
      · exact tkpEvents_ite ((ha.trans (tkpEvents_tkpSet _ _)).trans (tkpEvents_tkpSet _ _)) (ha.trans (tkpEvents_tkpSet _ _))
      · exact ha.trans (tkpEvents_tkpSet _ _)
    · have hb := ha.trans (tkpEvents_tkpSet (tkpSet s 0) 1)
      have h1 : tkpState (tkpSet (tkpSet s 0) 1) = 1 := tkpState_tkpSet _ (by decide) nofun
      have hacc : accState (tkpSet (tkpSet s 0) 1) (tkpPort (tkpSet (tkpSet s 0) 1)) = accState s (tkpPort s) := by
        rw [hb.tkpPort, hb.accState]
      generalize hk : tkpSrc s = k at hlt
      interval_cases k
      · exact tkpState_tkpSet s (by decide) nofun
      · exact h1
      · exact tkpState_tkpSet _ hfw (fun _ => by rw [ha.tkpSrc, hk]; decide)
      · simp only [hacc]
        split
        · exact tkpState_tkpSet _ (by decide) nofun
        · exact h1

/-! ## The Accord ports -/

theorem tkpEvents_tkpFollow (s : State) (n : Nat) : TkpEvents s (tkpFollow s n) tkpKeys := by
  have hs (x : State) (st : Nat) := tkpEvents_tkpSet x st
  unfold tkpFollow
  dsimp only
  split
  · exact .refl _ _
  · split
    · exact tkpEvents_ite (.refl _ _) (hs _ _)
    · exact tkpEvents_ite (hs _ _) (.refl _ _)
    · exact tkpEvents_ite ((hs _ _).trans (hs _ _)) (tkpEvents_ite (hs _ _) (.refl _ _))

/-- The registers that a change of an Accord port's state writes. -/
def accKeys (n : Nat) : List Nat := regKey (accPage n) (accOff n + 4) :: tkpKeys

/-- An Accord port that enters a state shows it; its role stays, and beside the two states only events happen. -/
theorem accSet_shown (s : State) (n : Nat) {st : Nat} (h : st < 8) :
    TkpEvents s (accSet s n st) (accKeys n) ∧ accState (accSet s n st) n = st ∧ accRole (accSet s n st) n = accRole s n := by
  have hr := accOff_range n
  unfold accSet
  extract_lets old s1 s2 s3
  have h1 : TkpEvents s s2 (accKeys n) :=
    (events_putFld _ _ _ _ _ _ _ (.inl (by simp [accKeys]))).tkp.trans (tkpEvents_of_tkp s1 _ _)
  have hst2 : accState s2 n = st :=
    (rfld_putFld_same _ _ _ _ _ _ (by decide) (by decide)).trans (Nat.mod_eq_of_lt h)
  have hro2 : accRole s2 n = accRole s n := rfld_putFld_off _ _ _ _ _ _ _ _ _ (by omega)
  have hev : Events s2 s3 [] := events_ite (.refl _ _)
    (events_ite (events_captureOpen _ _ _ _ _ _ _ _ _ _) (events_isrBit _ _ _ _ _))
  have hst3 : accState s3 n = st := by
    rw [← hst2, accState, accState, rfld, rfld, accPage,
      hev.rawReg_eq List.not_mem_nil (evKey_tkp (by omega) (by omega))]
  have hro3 : accRole s3 n = accRole s n := by
    rw [← hro2, accRole, accRole, rfld, rfld, accPage,
      hev.rawReg_eq List.not_mem_nil (evKey_tkp (by omega) (by omega))]
  have hf := tkpEvents_tkpFollow s3 n
  refine ⟨(h1.trans (hev.tkp.weaken (by simp))).trans (hf.weaken (fun k hk => by simp [accKeys, hk])), ?_, ?_⟩
  · rw [hf.accState, hst3]
  · rw [hf.accRole, hro3]

/-- A port whose role is no slave's, or whose fault is left, is DISABLED; a slave of a link that is up starts (R477). -/
theorem roleWritten_shown (s : State) (n : Nat) :
    accRole (roleWritten s n) n = accRole s n
      ∧ (accState s n = 0 → accRole s n = 2 → linkUp s n = true → accState (roleWritten s n) n = 1)
      ∧ (accRole s n ≠ 2 → accState (roleWritten s n) n = 0) := by
  have hdown : accState (accDown s n) n = 0 ∧ accRole (accDown s n) n = accRole s n := by
    unfold accDown
    split
    · next h0 => exact ⟨h0, rfl⟩
    · exact (accSet_shown s n (by decide)).2
  have hstart (x : State) : accRole (accStart x n) n = accRole x n
      ∧ (accState x n = 0 → accRole x n = 2 → linkUp x n = true → accState (accStart x n) n = 1)
      ∧ (accRole x n ≠ 2 → accState (accStart x n) n = accState x n) := by
    obtain ⟨-, hst, hro⟩ := accSet_shown x n (show 1 < 8 by decide)
    unfold accStart
    split
    · next hc => exact ⟨hro, fun _ _ _ => hst, fun h => absurd hc.2.1 h⟩
    · next hc => exact ⟨rfl, fun h0 h2 hl => absurd ⟨h0, h2, hl⟩ hc, fun _ => rfl⟩
  unfold roleWritten
  dsimp only
  obtain ⟨hrole, hup, hoff⟩ := hstart (if accState s n = 5 ∨ accRole s n ≠ 2 then accDown s n else s)
  refine ⟨?_, fun h0 h2 hl => ?_, fun h2 => ?_⟩
  · rw [hrole]
    split
    · exact hdown.2
    · rfl
  · rw [if_neg (by omega)]
    exact (hstart s).2.1 h0 h2 hl
  · rw [if_pos (.inr h2)]
    rw [(hstart (accDown s n)).2.2 (by rw [hdown.2]; exact h2), hdown.1]

/-! ## The obligation -/

theorem exec_tkpSrc (src : Src) (v : Word) (s : State) :
    exec (.tkpSrc src v) s = .next (regPut s src (.tkp 0) 0x080 v) := rfl
theorem exec_fwst (src : Src) (v : Word) (s : State) : exec (.fwst src v) s = .next (regPut s src (.tkp 0) 0x080 v) := rfl
theorem exec_tkpPhase (src : Src) (v : Word) (s : State) :
    exec (.tkpPhase src v) s = .next (regPut s src (.tkp 0) 0x0A4 v) := rfl
theorem exec_tkpStep (src : Src) (v w : Word) (s : State) : exec (.tkpStep src v w) s
    = .next (regPut (regPut s src (.tkp 0) 0x0A8 v) src (.tkp 0) 0x0AC w) := rfl
theorem exec_rtcSet (src : Src) (v w : Word) (s : State) : exec (.rtcSet src v w) s
    = .next (regPut (regPut s src (.tkp 0) 0x0F0 v) src (.tkp 0) 0x0F4 w) := rfl
theorem exec_rtcsync (src : Src) (s : State) : exec (.rtcsync src) s
    = .next (regPut s src (.tkp 0) 0x080 (rawReg s (.tkp 0) 0x080 ||| 0x10000)) := rfl
theorem exec_accRole (src : Src) (n role : Nat) (s : State) : exec (.accRole src n role) s
    = .next (regPut s src (accPage n) (accOff n) (BitVec.ofNat 32 (role % 4))) := rfl

section Clauses
variable {s : State} {src : Src} {v w : Word}

/-- A write of TKP_CTL that takes effect: its fields, and the state that follows from them. -/
theorem tkpCtl_taken (h : writeTaken s (.tkp 0) 0x080 v = true) :
    let u := regPut s src (.tkp 0) 0x080 v
    tkpSrc u = fld v 1 0
      ∧ (fld v 1 0 ≠ tkpSrc s → tkpState u = match fld v 1 0 with
          | 0 => 0
          | 1 => 1
          | 2 => fld v 13 12
          | _ => if accState s (fld v 9 4) = 3 then 2 else 1)
      ∧ (fld v 1 0 = tkpSrc s → fld v 1 0 = 2 → tkpState u = fld v 13 12)
      ∧ (fld v 16 16 = 1 → u.tkp.rtcsync = true) := by
  obtain ⟨x, hx, hu⟩ := regPut_taken h (by decide) rfl src
  have hsrc : fld x 1 0 = fld v 1 0 := hx ⟨1, 0, .rwl, .num 0, .s⟩ rfl
  have hport : fld x 9 4 = fld v 9 4 := hx ⟨9, 4, .rwl, .num 0, .s⟩ rfl
  have hfwst : fld x 13 12 = fld v 13 12 := hx ⟨13, 12, .rw, .num 0, .s⟩ rfl
  generalize hz : storeReg s (.tkp 0) 0x080 x = z at hu
  have hsrcz : tkpSrc z = fld v 1 0 := by rw [← hz, tkpSrc, rfld_storeReg_same, hsrc]
  have hportz : tkpPort z = fld v 9 4 := by rw [← hz, tkpPort, rfld_storeReg_same, hport]
  have hfwstz : rfld z (.tkp 0) 0x080 13 12 = fld v 13 12 := by rw [← hz, rfld_storeReg_same, hfwst]
  have haccz (n : Nat) : accState z n = accState s n := by
    have hr := accOff_range n
    rw [← hz, accState, accState, rfld, rfld, accPage,
      rawReg_storeReg_ne _ _ _ _ _ _ (by simp only [regKey, pageBase]; omega)]
  have hold : fld (rawReg s (.tkp 0) 0x080) 1 0 = tkpSrc s := rfl
  obtain ⟨hev, hnew, hsame⟩ := tkpCtlWritten_shown z (rawReg s (.tkp 0) 0x080)
  rw [hsrcz, hold, hfwstz, hportz, haccz] at hnew
  rw [hsrcz, hold, hfwstz] at hsame
  intro u
  have hkeep : tkpSrc u = tkpSrc (tkpCtlWritten z (rawReg s (.tkp 0) 0x080))
      ∧ tkpState u = tkpState (tkpCtlWritten z (rawReg s (.tkp 0) 0x080))
      ∧ (fld v 16 16 = 1 → u.tkp.rtcsync = true) := by
    have hu : u = _ := hu
    simp only [pageHook, tkpHook] at hu
    rw [hu]
    by_cases h16 : fld v 16 16 = 1
    · simp only [h16]; exact ⟨rfl, rfl, fun _ => rfl⟩
    · simp only [h16]; exact ⟨rfl, rfl, False.elim⟩
  obtain ⟨hks, hkt, hsync⟩ := hkeep
  rw [hks, hkt, hev.tkpSrc, hsrcz]
  exact ⟨rfl, hnew, hsame, hsync⟩

/-- A write of RTC_SET sets the calendar clock (R487, R490). -/
theorem rtcSet_taken (hlo : writeTaken s (.tkp 0) 0x0F0 v = true)
    (hhi : writeTaken (regPut s src (.tkp 0) 0x0F0 v) (.tkp 0) 0x0F4 w = true)
    (hlk : rbit s (.tkp 0) 0x018 0 = false) :
    let u := regPut (regPut s src (.tkp 0) 0x0F0 v) src (.tkp 0) 0x0F4 w
    rtcNow u = (v.toNat + 2 ^ 32 * (w.toNat % 2 ^ 16), 0) ∧ rbit u (.tkp 0) 0x0F8 0 = false ∧ u.time = s.time := by
  obtain ⟨x, hx, hu1⟩ := regPut_taken hlo (by decide) rfl src
  have hxv : fld x 31 0 = fld v 31 0 := hx ⟨31, 0, .rwl, .num 0, .s⟩ rfl
  simp only [pageHook, tkpHook] at hu1
  generalize hz : regPut s src (.tkp 0) 0x0F0 v = z at hhi
  have hz1 : z = storeReg s (.tkp 0) 0x0F0 x := hz ▸ hu1
  obtain ⟨y, hy, hu2⟩ := regPut_taken hhi (by decide) rfl src
  have hyw : fld y 15 0 = fld w 15 0 := hy ⟨15, 0, .rwl, .num 0, .s⟩ rfl
  generalize ha : storeReg z (.tkp 0) 0x0F4 y = a at hu2
  have hlka : rbit a (.tkp 0) 0x018 0 = false := by
    rw [← ha, rbit_storeReg_off _ _ _ _ _ _ (by decide), hz1, rbit_storeReg_off _ _ _ _ _ _ (by decide), hlk]
  have hset : regPut z src (.tkp 0) 0x0F4 w = rtcSetWritten a := by
    rw [hu2]; simp only [pageHook, tkpHook, hlka]; rfl
  have htime : a.time = s.time := by
    rw [← ha, onlyRegs_storeReg z (.tkp 0) 0x0F4 y, hz1, onlyRegs_storeReg s (.tkp 0) 0x0F0 x]
  have hsec : pairNat a (.tkp 0) 0x0F0 % 2 ^ 48 = v.toNat + 2 ^ 32 * (w.toNat % 2 ^ 16) := by
    have hlow : rawReg a (.tkp 0) 0x0F0 = x := by
      rw [← ha, rawReg_storeReg_off _ _ _ _ _ (by decide), hz1, rawReg_storeReg_same]
    have hhigh : rawReg a (.tkp 0) 0x0F4 = y := by rw [← ha, rawReg_storeReg_same]
    have hxlt := x.isLt
    have hvlt := v.isLt
    simp only [fld, bitsOf, Nat.pow_zero, Nat.div_one, Nat.reduceAdd, Nat.reduceSub] at hxv hyw
    simp only [pairNat, hlow, Nat.reduceAdd, hhigh]
    omega
  intro u
  have hu : u = rtcSetWritten a := hset
  rw [hu]
  refine ⟨?_, ?_, htime⟩
  · simp only [rtcSetWritten, rtcNow, rtcPut, hsec, putBit, putFld]
    have hbound : v.toNat + 2 ^ 32 * (w.toNat % 2 ^ 16) < 2 ^ 48 := by have := v.isLt; omega
    simp only [putReg_rtc, putReg_time, Nat.sub_self, Nat.zero_div, ite_self, Nat.add_zero, Nat.zero_mod]
    rw [Nat.mod_eq_of_lt hbound]
  · simp only [rtcSetWritten]
    rw [rbit_putBit_off _ _ _ _ _ _ _ (by decide)]
    exact rbit_putBit_same _ _ _ _ _ (by decide)

/-- A write of ROLE of an Accord port on an unlocked page (R477). -/
theorem accRole_taken {n role : Nat} (h : writeTaken s (accPage n) (accOff n) (BitVec.ofNat 32 (role % 4)) = true)
    (hlk : rbit s (accPage n) 0x018 0 = false) :
    let u := regPut s src (accPage n) (accOff n) (BitVec.ofNat 32 (role % 4))
    accRole u n = role % 4 ∧ (accState s n = 0 → role % 4 = 2 → linkUp s n = true → accState u n = 1)
      ∧ (role % 4 ≠ 2 → accState u n = 0) := by
  have hr := accOff_range n
  have hr4 : role % 4 < 4 := Nat.mod_lt _ (by decide)
  obtain ⟨x, hx, hu⟩ := regPut_taken h (by omega) rfl src
  have hfld : hasFld (accPage n) (accOff n) ⟨1, 0, .rwl, .num 0, .s⟩ = true := by
    have hoff : ∀ j < 12, hasFld (accPage n) (0x200 + 0x20 * j) ⟨1, 0, .rwl, .num 0, .s⟩ = true := by
      intro j hj
      have hbare : tkpBare (.tkp (n / 12)) (0x200 + 0x20 * j) = false := by
        have h1 : (0x200 + 0x20 * j == 0x080) = false := by simp; omega
        have h2 : decide (0x200 + 0x20 * j < 0x0C0) = false := by simp; omega
        have h3 : decide (0x200 + 0x20 * j < 0x100) = false := by simp; omega
        simp [tkpBare, h1, h2, h3]
      simp only [hasFld, regAt, accPage, hbare]
      interval_cases j <;> rfl
    exact hoff (n % 12) (Nat.mod_lt _ (by decide))
  have hrole : fld x 1 0 = role % 4 := by
    rw [hx _ hfld]
    simp only [Fld.taken, fld, bitsOf, BitVec.toNat_ofNat]
    omega
  generalize hz : storeReg s (accPage n) (accOff n) x = z at hu
  have hrz : accRole z n = role % 4 := by rw [← hz, accRole, rfld_storeReg_same, hrole]
  have hsz : accState z n = accState s n := by rw [← hz, accState, rfld_storeReg_off _ _ _ _ _ _ _ (by omega)]; rfl
  have hlz : linkUp z n = linkUp s n := by
    have hk : regKey (.llk n) 0x084 ≠ regKey (accPage n) (accOff n) := by
      simp only [regKey, pageBase, accPage]; omega
    rw [← hz, linkUp, linkUp, rfld, rfld, rawReg_storeReg_ne _ _ _ _ _ _ hk]
  have hlkz : rbit z (.tkp (n / 12)) 0x018 0 = false := by
    rw [← hlk, ← hz]
    exact rbit_storeReg_off _ _ _ _ _ _ (by omega)
  have hidx : 12 * (n / 12) + (accOff n - 0x200) / 0x20 = n := by unfold accOff; omega
  have hhook : regPut s src (accPage n) (accOff n) (BitVec.ofNat 32 (role % 4)) = roleWritten z n := by
    have h20 : accOff n % 0x20 = 0 := by unfold accOff; omega
    have h200 : 0x200 ≤ accOff n := hr.1
    rw [hu]
    simp only [pageHook, accPage, tkpHook, hlkz, if_pos h200, h20, hidx, and_self, if_true]
  obtain ⟨hro, hup, hoff⟩ := roleWritten_shown z n
  rw [hrz] at hro hoff
  rw [hsz, hrz, hlz] at hup
  intro u
  have hu' : u = roleWritten z n := hhook
  rw [hu']
  exact ⟨hro, hup, hoff⟩

end Clauses

/-- Settles O11: each write stores its fields, and the timekeeper, the calendar clock or the port then follows. -/
theorem timeRegistersAct : Obligations.TimeRegistersAct := by
  intro s src v w n role
  refine ⟨fun h hne => ?_, fun h h2 hs => ?_, fun h => ?_, fun hlo hhi _ _ => ?_, fun hlo hhi _ hlk => ?_, fun h => ?_,
    fun _ h hlk => ?_⟩
  · obtain ⟨hsrc, hnew, -, -⟩ := tkpCtl_taken (src := src) h
    exact ⟨_, exec_tkpSrc src v s, hsrc, hnew hne⟩
  · obtain ⟨-, -, hsame, -⟩ := tkpCtl_taken (src := src) h
    exact ⟨_, exec_fwst src v s, hsame (h2.trans hs.symm) h2⟩
  · obtain ⟨x, hx, hu⟩ := regPut_taken h (by decide) rfl src
    obtain rfl : x = v := hx.word (c := .s) (r := .num 0) rfl
    refine ⟨_, exec_tkpPhase src x s, ?_⟩
    have honly := onlyRegs_storeReg s (.tkp 0) 0x0A4 x
    rw [hu]
    simp only [pageHook, tkpHook]
    refine ⟨rawReg_storeReg_same s (.tkp 0) 0x0A4 x, regsBut_storeReg s (.tkp 0) 0x0A4 x _ (by simp), ?_⟩
    rw [honly]
    rfl
  · obtain ⟨x, -, hu1⟩ := regPut_taken hlo (by decide) rfl src
    obtain ⟨y, -, hu2⟩ := regPut_taken hhi (by decide) rfl src
    refine ⟨_, exec_tkpStep src v w s, ?_⟩
    rw [hu2]
    generalize hz : regPut s src (.tkp 0) 0x0A8 v = z
    have hlo' : z.tkp = { s.tkp with stepLo := v } := by
      rw [← hz, hu1]
      simp only [pageHook, tkpHook]
      rw [onlyRegs_storeReg s (.tkp 0) 0x0A8 x]
      rfl
    simp only [pageHook, tkpHook, stepAdd]
    rw [onlyRegs_storeReg z (.tkp 0) 0x0AC y]
    simp only [hlo']
    rfl
  · exact ⟨_, exec_rtcSet src v w s, rtcSet_taken hlo hhi hlk⟩
  · obtain ⟨-, -, -, hsync⟩ := tkpCtl_taken (src := src) h
    exact ⟨_, exec_rtcsync src s, hsync (fld_or_bit _ (b := 16) (by decide))⟩
  · exact ⟨_, exec_accRole src n role s, accRole_taken h hlk⟩

end Sys2Proof.Machine
end

section
/-! PROOFS. Registers of links, Ethernet ports and Glaziers whose writes start something (sections 13.3, 15.2, 15.6, 16.1 and
16.8). -/

namespace Sys2Proof.Machine

/-! ## Links -/

/-- The state of a link is the one entered, and TRAIN stays but in ACTIVE, RETIRED and FAILED (Table 13.2). -/
theorem llkSet_shown {s : State} {n : Nat} {st : Nat} (lanes : Nat) (h : st < 16) :
    llkState (llkSet s n st lanes) n = st
      ∧ (st ≠ 5 → st ≠ 7 → st ≠ 8 → rawReg (llkSet s n st lanes) (.llk n) 0x080 = rawReg s (.llk n) 0x080) := by
  have hn : pageBase (.llk n) / 0x1000 ≠ 0x20303 := by simp only [pageBase]; omega
  have hev84 : EvKey (regKey (.llk n) 0x084) = false := evKey_eq_false hn (by decide) (by decide)
  have hev80 : EvKey (regKey (.llk n) 0x080) = false := evKey_eq_false hn (by decide) (by decide)
  unfold llkSet
  extract_lets old w s1 s2 s3 s4 s5
  have h1 : rfld s1 (.llk n) 0x084 3 0 = st := by
    rw [rfld_putFld_ne _ _ _ _ _ _ _ _ (by decide) (by decide) (by decide) (by decide),
      rfld_putFld_ne _ _ _ _ _ _ _ _ (by decide) (by decide) (by decide) (by decide),
      rfld_putFld_same _ _ _ _ _ _ (by decide) (by decide)]
    exact Nat.mod_eq_of_lt h
  have h80 : rawReg s1 (.llk n) 0x080 = rawReg s (.llk n) 0x080 := by
    simp only [s1, putFld]
    rw [rawReg_putReg_off _ _ _ _ _ (by decide), rawReg_putReg_off _ _ _ _ _ (by decide),
      rawReg_putReg_off _ _ _ _ _ (by decide)]
  have h2 : rfld s2 (.llk n) 0x084 3 0 = st := by
    unfold s2
    split
    · rw [putBit, rfld_putFld_off _ _ _ _ _ _ _ _ _ (by decide), h1]
    · exact h1
  have hev : Events s2 (sillage s5 (.llk n) 0x60 false 0 0 (BitVec.ofNat 32 st)) [] := by
    have e3 : Events s2 s3 [] := events_ite (events_isrBit _ _ _ _ _) (.refl _ _)
    have e4 : Events s3 s4 [] := events_ite (events_isrBit _ _ _ _ _) (.refl _ _)
    have e5 : Events s4 s5 [] := events_ite (events_isrBit _ _ _ _ _) (.refl _ _)
    exact ((e3.trans e4).trans e5).trans (events_sillage _ _ _ _ _ _ _ _)
  refine ⟨?_, fun n5 n7 n8 => ?_⟩
  · rw [llkState, rfld, hev.rawReg_eq List.not_mem_nil hev84]
    exact h2
  · have hs2 : s2 = s1 := if_neg (by omega)
    rw [hev.rawReg_eq List.not_mem_nil hev80, hs2, h80]

/-- A lane of a link that trains is no longer retired, and its bucket is restored (R551). -/
def laneTrained (n : Nat) (s : State) (k : Nat) : State :=
  bucketRestore (putBit s (.llk n) (0x0C0 + 4 * k) 16 false) 0 (n * 8 + k)

theorem rawReg_laneTrained (n : Nat) (s : State) {k : Nat} (hk : k < 8) :
    rawReg (laneTrained n s k) (.llk n) 0x080 = rawReg s (.llk n) 0x080 := by
  have h : rawReg (putBit s (.llk n) (0x0C0 + 4 * k) 16 false) (.llk n) 0x080 = rawReg s (.llk n) 0x080 := by
    rw [putBit, putFld, rawReg_putReg_off _ _ _ _ _ (by omega)]
  exact h

/-- The lanes of a link that trains leave LLK_CTL and memory as they were. -/
theorem foldl_laneTrained (n : Nat) (l : List Nat) (hl : ∀ k ∈ l, k < 8) (s : State) :
    rawReg (l.foldl (laneTrained n) s) (.llk n) 0x080 = rawReg s (.llk n) 0x080
      ∧ (l.foldl (laneTrained n) s).mem = s.mem := by
  induction l generalizing s with
  | nil => exact ⟨rfl, rfl⟩
  | cons k l ih =>
    obtain ⟨hr, hm⟩ := ih (fun j hj => hl j (by simp [hj])) (laneTrained n s k)
    rw [List.foldl_cons, hr, hm, rawReg_laneTrained n s (hl k (by simp))]
    exact ⟨rfl, rfl⟩

/-- What the link sets as it enters DETECT. -/
def linkReady (s x : State) (n : Nat) : State :=
  modLink (bucketRestore (putBit x (.llk n) 0x014 6 false) 1 n) n
    (fun l => { l with trainAt := eTime s, trainTo := rfld s (.llk n) 0x094 15 0, det := 0 })

theorem linkReady_shown (s x : State) (n : Nat) :
    rawReg (linkReady s x n) (.llk n) 0x080 = rawReg x (.llk n) 0x080 ∧ (linkReady s x n).mem = x.mem := by
  have h : rawReg (putBit x (.llk n) 0x014 6 false) (.llk n) 0x080 = rawReg x (.llk n) 0x080 := by
    rw [putBit, putFld, rawReg_putReg_off _ _ _ _ _ (by decide)]
  exact ⟨h, rfl⟩

/-- TRAIN of a link that is DOWN, RETIRED or FAILED enters DETECT (Table 13.2). -/
theorem linkTrain_shown {s : State} {n : Nat} (h : llkState s n ∈ [0, 7, 8]) :
    llkState (linkTrain s n) n = 1 ∧ rawReg (linkTrain s n) (.llk n) 0x080 = rawReg s (.llk n) 0x080
      ∧ (linkTrain s n).mem = s.mem := by
  have hc : llkState s n = 0 ∨ llkState s n = 7 ∨ llkState s n = 8 := by simpa using h
  have heq : linkTrain s n = llkSet (linkReady s ((List.range 8).foldl (laneTrained n) s) n) n 1 0 := if_pos hc
  obtain ⟨hlr, hlm⟩ := foldl_laneTrained n (List.range 8) (fun k hk => List.mem_range.1 hk) s
  obtain ⟨hrr, hrm⟩ := linkReady_shown s ((List.range 8).foldl (laneTrained n) s) n
  generalize linkReady s ((List.range 8).foldl (laneTrained n) s) n = x at heq hrr hrm
  obtain ⟨hst, hreg⟩ := llkSet_shown (s := x) (n := n) 0 (show 1 < 16 by decide)
  rw [heq, (events_llkSet x n 1 0).mem]
  exact ⟨hst, ((hreg (by decide) (by decide) (by decide)).trans hrr).trans hlr, hrm.trans hlm⟩

theorem linkDown_state (s : State) (n : Nat) : llkState (linkDown s n) n = 0 := by
  unfold linkDown
  split
  · next h => exact h
  · exact (llkSet_shown 0 (show 0 < 16 by decide)).1

/-! ## Rings of a port -/

theorem schFix_frame (s : State) (n : Nat) (heads : List (Nat × Nat)) :
    schFix s (.eth n) heads = { s with eths := (schFix s (.eth n) heads).eths } := by
  unfold schFix
  dsimp only
  split <;> rfl

theorem ringOff_lt (tx : Bool) (r : Nat) : 0x400 ≤ ringOff tx (r % 64) ∧ ringOff tx (r % 64) < 0xC00 - 0xF
    ∧ ringOff tx (r % 64) % 0x10 = 0 ∧ ringOff tx (r % 64) % 0x400 / 0x10 = r % 64
    ∧ decide (0x800 ≤ ringOff tx (r % 64) + 4) = tx := by
  cases tx <;> simp [ringOff] <;> omega

/-- A ring that is switched off is empty; its EN stays as it was written (R638). -/
theorem ringOffNow_shown (s : State) (n : Nat) (tx : Bool) (r : Nat) :
    ringHead (ringOffNow s n tx r) n tx r = 0 ∧ ringTail (ringOffNow s n tx r) n tx r = 0
      ∧ ringEn (ringOffNow s n tx r) n tx r = ringEn s n tx r ∧ (ringOffNow s n tx r).mem = s.mem := by
  unfold ringOffNow
  extract_lets o s1 s2
  have hbit : rawReg s2 (.eth n) (o + 4) = setFld (rawReg s (.eth n) (o + 4)) 18 18 0 := by
    simp only [s2, s1, putBit, putFld, rawReg_putReg_same]
    rw [rawReg_putReg_off _ _ _ _ _ (by omega), rawReg_putReg_off _ _ _ _ _ (by omega)]
    rfl
  have hhead : rawReg s2 (.eth n) (o + 8) = setFld (rawReg s (.eth n) (o + 8)) 15 0 0 := by
    simp only [s2, s1, putBit, putFld]
    rw [rawReg_putReg_off _ _ _ _ _ (by omega), rawReg_putReg_off _ _ _ _ _ (by omega), rawReg_putReg_same]
  have htail : rawReg s2 (.eth n) (o + 0xC) = setFld (rawReg s (.eth n) (o + 0xC)) 15 0 0 := by
    simp only [s2, s1, putBit, putFld]
    rw [rawReg_putReg_off _ _ _ _ _ (by omega), rawReg_putReg_same, rawReg_putReg_off _ _ _ _ _ (by omega)]
  have hshown (u : State) (hr : u.regs = s2.regs) (hf : u.fuses = s2.fuses) (hm : u.mem = s2.mem) :
      ringHead u n tx r = 0 ∧ ringTail u n tx r = 0 ∧ ringEn u n tx r = ringEn s n tx r ∧ u.mem = s.mem := by
    have e := rawReg_congr hr hf (.eth n)
    refine ⟨?_, ?_, ?_, hm⟩
    · rw [ringHead, rfld, e, hhead, fld_setFld_same _ _ _ _ (by decide) (by decide)]; rfl
    · rw [ringTail, rfld, e, htail, fld_setFld_same _ _ _ _ (by decide) (by decide)]; rfl
    · rw [ringEn, ringEn, rbit, rbit, rfld, rfld, e, hbit, fld_setFld_ne _ _ _ _ _ _ (by decide) (by decide) (by decide)
        (by decide)]
  split
  · refine hshown _ ?_ ?_ ?_ <;> rw [ethFix, schFix_frame] <;> rfl
  · exact hshown _ rfl rfl rfl

/-! ## The obligation -/

theorem exec_train (src : Src) (n : Nat) (s : State) :
    exec (.train src n) s = .next (regPut s src (.llk n) 0x080 (rawReg s (.llk n) 0x080 ||| 1)) := rfl
theorem exec_llkDown (src : Src) (n : Nat) (s : State) :
    exec (.llkDown src n) s = .next (regPut s src (.llk n) 0x080 (setFld (rawReg s (.llk n) 0x080) 1 0 2)) := rfl
theorem exec_ethRingTail (src : Src) (n ring : Nat) (tx : Bool) (v : Word) (s : State) : exec (.ethRingTail src n ring tx v) s
    = .next (regPut s src (.eth n) (ringOff tx (ring % 64) + 0xC) v) := rfl
theorem exec_ethRingEn (src : Src) (n ring : Nat) (tx : Bool) (v : Word) (s : State) : exec (.ethRingEn src n ring tx v) s
    = .next (regPut s src (.eth n) (ringOff tx (ring % 64) + 4) v) := rfl
theorem exec_glzRingTail (src : Src) (n : Nat) (v : Word) (s : State) :
    exec (.glzRingTail src n v) s = .next (regPut s src (.glz n) 0x0A0 v) := rfl
theorem exec_glzResume (src : Src) (n : Nat) (s : State) :
    exec (.glzResume src n) s = .next (regPut s src (.glz n) 0x0B4 1) := rfl

/-- The first two bits of LLK_CTL after TRAIN is set over a DOWN of 0. -/
theorem fld_or_one_next (w : Word) (h : fld w 1 1 = 0) : fld (w ||| 1) 1 1 = 0 := by
  have hs : (w ||| 1).toNat / 2 = w.toNat / 2 := by
    rw [BitVec.toNat_or, ← Nat.shiftRight_one, ← Nat.shiftRight_one, Nat.shiftRight_or_distrib]
    simp
  simp only [fld, bitsOf, Nat.pow_one, Nat.reduceAdd, Nat.reduceSub] at h ⊢
  omega

section Clauses
variable {s : State} {src : Src} {n ring : Nat} {tx : Bool} {v : Word}

theorem llkWritten_train {x : State} (h : llkState x n ∈ [0, 7, 8]) (h0 : fld v 0 0 = 1) (h1 : fld v 1 1 = 0) :
    llkWritten x n v = linkTrain x n := by
  have hst := (linkTrain_shown h).1
  simp [llkWritten, h0, h1, hst]

theorem train_taken (h : writeTaken s (.llk n) 0x080 (rawReg s (.llk n) 0x080 ||| 1) = true)
    (hst : llkState s n ∈ [0, 7, 8]) (hdown : fld (rawReg s (.llk n) 0x080) 1 1 = 0) :
    let u := regPut s src (.llk n) 0x080 (rawReg s (.llk n) 0x080 ||| 1)
    llkState u n = 1 ∧ rbit u (.llk n) 0x080 0 = true ∧ u.mem = s.mem := by
  have h0 : fld (rawReg s (.llk n) 0x080 ||| 1) 0 0 = 1 := fld_or_bit _ (b := 0) (by decide)
  have h1 := fld_or_one_next _ hdown
  obtain ⟨w, hw, hu⟩ := regPut_taken h (by decide) rfl src
  have hset : fld w 0 0 = 1 := by
    rw [hw ⟨0, 0, .rw1s, .num 0, .s⟩ rfl]
    have hlt : fld (rawReg s (.llk n) 0x080) 0 0 < 2 := fld_lt _ 0 0
    simp only [Fld.taken, h0]
    interval_cases fld (rawReg s (.llk n) 0x080) 0 0 <;> rfl
  generalize hz : storeReg s (.llk n) 0x080 w = z at hu
  have hstz : llkState z n ∈ [0, 7, 8] := by
    have e : llkState z n = llkState s n := by rw [← hz]; exact rfld_storeReg_off _ _ _ _ _ _ _ (by decide)
    rw [e]; exact hst
  obtain ⟨hstate, hreg, hmem⟩ := linkTrain_shown hstz
  intro u
  have hu : u = linkTrain z n := hu.trans (llkWritten_train hstz h0 h1)
  rw [hu]
  refine ⟨hstate, ?_, by rw [hmem, ← hz, storeReg_mem]⟩
  rw [rbit, rfld, hreg, ← hz, rawReg_storeReg_same, hset]
  rfl

theorem llkDown_taken (h : writeTaken s (.llk n) 0x080 (setFld (rawReg s (.llk n) 0x080) 1 0 2) = true) :
    let u := regPut s src (.llk n) 0x080 (setFld (rawReg s (.llk n) 0x080) 1 0 2)
    llkState u n = 0 ∧ rbit u (.llk n) 0x080 0 = false ∧ u.mem = s.mem := by
  have h10 : fld (setFld (rawReg s (.llk n) 0x080) 1 0 2) 1 0 = 2 := fld_setFld_same _ _ _ _ (by decide) (by decide)
  have h0 : fld (setFld (rawReg s (.llk n) 0x080) 1 0 2) 0 0 = 0 := by
    simp only [fld, bitsOf, Nat.pow_zero, Nat.div_one, Nat.reduceAdd, Nat.reduceSub] at h10 ⊢; omega
  have h1 : fld (setFld (rawReg s (.llk n) 0x080) 1 0 2) 1 1 = 1 := by
    simp only [fld, bitsOf, Nat.pow_zero, Nat.div_one, Nat.reduceAdd, Nat.reduceSub] at h10 ⊢; omega
  obtain ⟨w, -, hu⟩ := regPut_taken h (by decide) rfl src
  generalize hz : storeReg s (.llk n) 0x080 w = z at hu
  have hst := linkDown_state z n
  intro u
  have hu : u = putBit (linkDown z n) (.llk n) 0x080 0 false := by
    refine hu.trans ?_
    simp [pageHook, llkWritten, h0, h1, hst]
  rw [hu]
  refine ⟨(rfld_putFld_off _ _ _ _ _ _ _ _ _ (by decide)).trans hst, rbit_putBit_same _ _ _ _ _ (by decide), ?_⟩
  have hmem : (putBit (linkDown z n) (.llk n) 0x080 0 false).mem = (linkDown z n).mem := rfl
  rw [hmem, linkDown_mem, ← hz, storeReg_mem]

theorem hasFld_ring (n : Nat) (tx : Bool) (ring : Nat) :
    hasFld (.eth n) (ringOff tx (ring % 64) + 4) ⟨16, 16, .rw, .num 0, .s⟩ = true
      ∧ hasFld (.eth n) (ringOff tx (ring % 64) + 0xC) ⟨15, 0, .rw, .num 0, .n⟩ = true := by
  have hr : ring % 64 < 64 := Nat.mod_lt _ (by decide)
  generalize ring % 64 = r at hr
  cases tx <;> interval_cases r <;> exact ⟨rfl, rfl⟩

theorem ethRingTail_taken (h : writeTaken s (.eth n) (ringOff tx (ring % 64) + 0xC) v = true) :
    let u := regPut s src (.eth n) (ringOff tx (ring % 64) + 0xC) v
    ringTail u n tx (ring % 64) = fld v 15 0 ∧ OnlyRegs s u := by
  obtain ⟨hlo, hhi, h16, -, -⟩ := ringOff_lt tx ring
  have hpre : preHook s (.eth n) (ringOff tx (ring % 64) + 0xC) = s := if_neg (by omega)
  obtain ⟨w, hw, hu⟩ := regPut_taken h (by omega) hpre src
  have hno : ¬(0xC00 ≤ ringOff tx (ring % 64) + 0xC ∧ ringOff tx (ring % 64) + 0xC < 0xE00) := by omega
  have hno4 : ¬(0x400 ≤ ringOff tx (ring % 64) + 0xC ∧ ringOff tx (ring % 64) + 0xC < 0xC00
      ∧ (ringOff tx (ring % 64) + 0xC) % 0x10 = 4 ∧ fld (rawReg s (.eth n) (ringOff tx (ring % 64) + 0xC)) 16 16 = 1
      ∧ rbit (storeReg s (.eth n) (ringOff tx (ring % 64) + 0xC) w) (.eth n) (ringOff tx (ring % 64) + 0xC) 16 = false) := by
    omega
  intro u
  have hu : u = _ := hu
  simp only [pageHook, if_neg hno, ethHook, if_neg hno4] at hu
  rw [hu]
  refine ⟨?_, onlyRegs_storeReg _ _ _ _⟩
  rw [ringTail, rfld_storeReg_same]
  exact hw _ (hasFld_ring n tx ring).2

theorem ethRingEn_taken (h : writeTaken s (.eth n) (ringOff tx (ring % 64) + 4) v = true) :
    let u := regPut s src (.eth n) (ringOff tx (ring % 64) + 4) v
    ringEn u n tx (ring % 64) = (fld v 16 16 == 1)
      ∧ (ringEn s n tx (ring % 64) = true → fld v 16 16 = 0 →
        ringHead u n tx (ring % 64) = 0 ∧ ringTail u n tx (ring % 64) = 0) ∧ u.mem = s.mem := by
  obtain ⟨hlo, hhi, h16, hidx, htx⟩ := ringOff_lt tx ring
  have hpre : preHook s (.eth n) (ringOff tx (ring % 64) + 4) = s := if_neg (by omega)
  obtain ⟨w, hw, hu⟩ := regPut_taken h (by omega) hpre src
  have hen : fld w 16 16 = fld v 16 16 := hw _ (hasFld_ring n tx ring).1
  have hno : ¬(0xC00 ≤ ringOff tx (ring % 64) + 4 ∧ ringOff tx (ring % 64) + 4 < 0xE00) := by omega
  have hr : (ringOff tx (ring % 64) + 4) % 0x400 / 0x10 = ring % 64 := by omega
  generalize hz : storeReg s (.eth n) (ringOff tx (ring % 64) + 4) w = z at hu
  have henz : ringEn z n tx (ring % 64) = (fld v 16 16 == 1) := by rw [← hz, ringEn, rbit_storeReg_same, hen]
  have hmem : z.mem = s.mem := by rw [← hz, storeReg_mem]
  intro u
  have hu : u = _ := hu
  simp only [pageHook, if_neg hno, ethHook, htx, hr] at hu
  obtain ⟨hh, ht, he, hm⟩ := ringOffNow_shown z n tx (ring % 64)
  rw [hu]
  split
  · exact ⟨he.trans henz, fun _ _ => ⟨hh, ht⟩, hm.trans hmem⟩
  · next hc =>
    refine ⟨henz, fun hold h0 => absurd ⟨by omega, by omega, by omega, ?_, ?_⟩ hc, hmem⟩
    · simpa [ringEn, rbit, rfld] using hold
    · have hz16 : rbit z (.eth n) (ringOff tx (ring % 64) + 4) 16 = (fld v 16 16 == 1) := henz
      rw [hz16, h0]; rfl

theorem glzResume_taken (h : writeTaken s (.glz n) 0x0B4 1 = true) (hst : glzState s n = 3) :
    let u := regPut s src (.glz n) 0x0B4 1
    glzState u n = 1 ∧ OnlyRegs s u := by
  obtain ⟨w, -, hu⟩ := regPut_taken h (by decide) rfl src
  have h0 : fld (1 : Word) 0 0 = 1 := rfl
  have hstz : glzState (storeReg s (.glz n) 0x0B4 w) n = 3 := (rfld_storeReg_off _ _ _ _ _ _ _ (by decide)).trans hst
  intro u
  have hu : u = glzPut (storeReg s (.glz n) 0x0B4 w) n 1 := by
    refine hu.trans ?_
    simp only [pageHook, h0, and_self, if_true, glzResume, hstz]
  rw [hu]
  exact ⟨rfld_putFld_same _ _ _ _ _ _ (by decide) (by decide), (onlyRegs_storeReg _ _ _ _).trans (onlyRegs_putFld _ _ _ _ _ _)⟩

theorem glzRingTail_taken (h : writeTaken s (.glz n) 0x0A0 v = true) :
    let u := regPut s src (.glz n) 0x0A0 v
    glzTail u n = fld v 15 0 ∧ OnlyRegs s u := by
  obtain ⟨w, hw, hu⟩ := regPut_taken h (by decide) rfl src
  intro u
  have hu : u = storeReg s (.glz n) 0x0A0 w := hu
  rw [hu]
  exact ⟨(rfld_storeReg_same _ _ _ _ _ _).trans (hw ⟨15, 0, .rw, .num 0, .n⟩ rfl), onlyRegs_storeReg _ _ _ _⟩

end Clauses

/-- Settles O12: each write stores its fields, and the link, the ring or the Glazier then follows. -/
theorem portRegistersAct : Obligations.PortRegistersAct := by
  intro s src n ring tx v
  exact ⟨fun h hst hd => ⟨_, exec_train src n s, train_taken h hst hd⟩,
    fun h => ⟨_, exec_llkDown src n s, llkDown_taken h⟩,
    fun h => ⟨_, exec_ethRingTail src n ring tx v s, ethRingTail_taken h⟩,
    fun h => ⟨_, exec_ethRingEn src n ring tx v s, ethRingEn_taken h⟩,
    fun h => ⟨_, exec_glzRingTail src n v s, glzRingTail_taken h⟩,
    fun h hst => ⟨_, exec_glzResume src n s, glzResume_taken h hst⟩⟩

end Sys2Proof.Machine
end

section
/-! PROOFS. Registers under the sillage ring (R126, R752): a context number that no tile has puts the STAT register and
the tensor descriptors of the context where the ring records its events. -/

namespace Sys2Proof.Machine

/-! ## What a command answers, read -/

/-- What a reading of the next state gives, where a command answers one. -/
def readNext {α : Type} (f : State → α) : Host.Outcome State Fault Refusal → Option α
  | .next u => some (f u)
  | _ => none

theorem readNext_of_next {α : Type} {c : Instr} {s u : State} (h : exec c s = .next u) (f : State → α) :
    readNext f (exec c s) = some (f u) := by rw [h]; rfl

/-! ## A branch of context 52 -/

/-- An unresolved branch on loop counter 0, predicted taken. -/
def takenBranch : Branch :=
  { idx := 0, sn := 0, target := 0, a := true, cond := 1, sel := 0, rel := 0, imm := 0, pred := true, tabled := false,
    layer := 0, oper := 0 }

/-- Tile 0 with 53 contexts, whose SEQ page records sillage. STAT of context 52, which lies in the first entry of the
ring, reads DRAIN. -/
def drainingFiftyTwo : State :=
  { State.reset with
    regs := [(regKey (.seq 0) 0x010, 1), (regKey (.seq 0) 0x050, 1), (regKey (.seq 0) (lcStat 52), 3)]
    tiles := [(0, { ctx := List.replicate 52 {} ++ [{ brs := [takenBranch] }] })] }

/-- The entry that a misprediction writes lies over STAT. -/
theorem drainingFiftyTwo_resolved :
    readNext (fun u => lcState u 0 52) (exec (.branchResolve 0 52 0) drainingFiftyTwo) = some 0 := by
  decide +kernel

/-- Refutes O15: the statement bounds no context number. STAT of context 52 lies in the sillage ring, so the event of a
misprediction writes its tags over the state that the context should keep. -/
theorem not_branchesResolve : ¬ Obligations.BranchesResolve := by
  intro h
  let s := drainingFiftyTwo
  have hstill : movStill s 0 := ⟨⟨rfl, rfl, rfl, rfl⟩, by decide⟩
  obtain ⟨u, hu, -, -, -, hst, -⟩ := (h s 0 52 0 takenBranch (by decide) rfl (by decide) (by decide) hstill rfl).2
    (by decide)
  have hread := (readNext_of_next hu (fun u => lcState u 0 52)).symm.trans drainingFiftyTwo_resolved
  rw [hst] at hread
  exact absurd hread (by decide)

/-! ## Descriptors of context 26 -/

/-- A FILL of context 26 with descriptor 0. -/
def fillTwentySix : QCmd := { word := BitVec.ofNat 128 (0x43 * 2 ^ 120 + 2 ^ 118), lc := 26, sn := 0 }

/-- Tile 0 at a time whose bit 31 is set, its CMP page recording sillage, with the command and no descriptor. -/
def fillInvalid : State :=
  { State.reset with
    time := 2 ^ 31
    regs := [(regKey (.cmp 0) 0x010, 1), (regKey (.cmp 0) 0x050, 1)]
    tiles := [(0, { cmpQ := [fillTwentySix] })] }

/-- The same at time 0 with a descriptor of one FP32 element in the ring. -/
def fillValid : State :=
  { fillInvalid with
    time := 0
    regs := [(regKey (.cmp 0) 0x010, 1), (regKey (.cmp 0) 0x050, 1), (regKey (.cmp 0) 0xE00, 0x80000000),
      (regKey (.cmp 0) 0xE04, 0x10001), (regKey (.cmp 0) 0xE08, 32)] }

/-- The error of the command that CMP of tile 0 holds. -/
def heldErr (u : State) : Option Nat := (getTile u 0).cmpRun.map (·.err)

/-- The event of the start writes the time, a valid descriptor without elements. -/
theorem fillInvalid_starts : readNext heldErr (exec (.fill 0 []) fillInvalid) = some (some 0) := by decide

/-- The event of the start writes a time whose bit 31 is 0 over the valid descriptor. -/
theorem fillValid_fails : readNext heldErr (exec (.fill 0 []) fillValid) = some (some 0x10) := by decide

/-- The descriptor that the ring holds. -/
def ringTd : Td := ⟨0, 0, 1, 1, 32⟩

theorem fillValid_runs : CmpRuns fillValid 0 0x43 fillTwentySix ringTd ringTd ringTd :=
  ⟨by decide, by decide, by decide, by decide, by decide, rfl, rfl, by decide, by decide⟩

/-- Refutes O20: the statement bounds no context number. The descriptors of context 26 lie in the sillage ring, and the
event of the command's start makes its D invalid before it is sampled. -/
theorem not_cmpWritesResult : ¬ Obligations.CmpWritesResult := by
  intro h
  obtain ⟨u, hu, -, -, ⟨r, hr, -, herr⟩, -⟩ :=
    h.1 fillValid 0 0x43 (.fill 0 []) (by decide) fillTwentySix ringTd ringTd ringTd fillValid_runs (by decide)
  have hread := (readNext_of_next hu heldErr).symm.trans fillValid_fails
  rw [heldErr, hr, Option.map_some, herr] at hread
  exact absurd hread (by decide)

/-- Refutes O21: the statement bounds no context number where a descriptor is invalid. The descriptors of context 26 lie
in the sillage ring, and the event of the command's start makes its D valid before it is sampled. -/
theorem not_cmpCommandsEnd : ¬ Obligations.CmpCommandsEnd := by
  intro h
  obtain ⟨u, r, hu, hr, -, herr, -⟩ :=
    (h.1 fillInvalid 0 0x43 (.fill 0 []) (by decide) fillTwentySix (by decide) (by decide) (by decide)).1 (by decide)
  have hread := (readNext_of_next hu heldErr).symm.trans fillInvalid_starts
  rw [heldErr, hr, Option.map_some, herr] at hread
  exact absurd hread (by decide)

end Sys2Proof.Machine
end

section
/-! PROOFS. Commands that SEQ passes, and commands for the engines (sections 4.1 to 4.4, 4.7). -/

namespace Sys2Proof.Machine

/-! ## What a command that SEQ passes leaves -/

/-- A context that goes on behind the command it passed, with the registers `ks` written. -/
structure Passed (s u : State) (t lc : Nat) (ks : List Nat) : Prop where
  pc : rfld u (.seq t) (lcStat lc) 26 16 = nextPc (getCtx s t lc) % 2 ^ 11
  run : lcState u t lc = 1
  regs : RegsBut s u (regKey (.seq t) (lcStat lc) :: ks)
  tile : OnlyTile s u t

theorem rfld_issued_pc (s : State) (t lc : Nat) (w : CmdWord) :
    rfld (issued s t lc w) (.seq t) (lcStat lc) 26 16 = nextPc (getCtx s t lc) % 2 ^ 11 := by
  rw [issued, rfld_passCmd, rfld_putFld_same _ _ _ _ _ _ (by decide) (by decide), nextPc_noteTags]

theorem onlyTile_issued (s : State) (t lc : Nat) (w : CmdWord) : OnlyTile s (issued s t lc w) t :=
  (onlyTile_noteTags s t lc w).trans (onlyTile_passCmd _ t lc)

theorem Issues.passed {s : State} {t lc : Nat} {w : CmdWord} (h : Issues s t lc w) (ks : List Nat) :
    Passed s (issued s t lc w) t lc ks where
  pc := rfld_issued_pc s t lc w
  run := h.lcState_issued
  regs := fun _ _ hk => rawReg_issued (List.ne_of_not_mem_cons hk) w
  tile := onlyTile_issued s t lc w

theorem Passed.paid {s u : State} {t lc : Nat} {ks : List Nat} (h : Passed s u t lc ks) :
    Passed s (payPenalty u t) t lc ks where
  pc := h.pc
  run := h.run
  regs := h.regs
  tile := h.tile.trans (onlyTile_payPenalty u t)

/-- The tile's own queues and engines may change. -/
theorem Passed.tileWritten {s u : State} {t lc : Nat} {ks : List Nat} (h : Passed s u t lc ks) (f : Tile → Tile) :
    Passed s (modTile u t f) t lc ks where
  pc := h.pc
  run := h.run
  regs := h.regs
  tile := h.tile.trans (onlyTile_modTile u t f)

/-- A register of the tile's page other than the status of the context may be written. -/
theorem Passed.regWritten {s u : State} {t lc o : Nat} {ks : List Nat} (h : Passed s u t lc ks) (ho : o ≠ lcStat lc)
    (hk : regKey (.seq t) o ∈ ks) (v : Word) : Passed s (putReg u (.seq t) o v) t lc ks := by
  have hstat : rawReg (putReg u (.seq t) o v) (.seq t) (lcStat lc) = rawReg u (.seq t) (lcStat lc) :=
    rawReg_putReg_ne _ _ _ _ _ _ (by rw [Ne, regKey_inj]; exact ho.symm)
  refine ⟨?_, ?_, h.regs.trans (regsBut_putReg _ _ _ _ _ (List.mem_cons_of_mem _ hk)), h.tile.trans (onlyTile_putReg _ _ _ _ _)⟩
  · rw [rfld, hstat]; exact h.pc
  · rw [lcState, rfld, hstat]; exact h.run

/-- A bit of the status of the context between its state and its PC may be written. -/
theorem Passed.bitWritten {s u : State} {t lc b : Nat} {ks : List Nat} (h : Passed s u t lc ks) (hb : 3 ≤ b) (hb' : b < 16)
    (v : Bool) : Passed s (putBit u (.seq t) (lcStat lc) b v) t lc ks where
  pc := (rfld_putFld_ne u (.seq t) (lcStat lc) b b _ 26 16 (by omega) (by omega) (by omega) (by omega)).trans h.pc
  run := (rfld_putFld_ne u (.seq t) (lcStat lc) b b _ 2 0 (by omega) (by omega) (by omega) (by omega)).trans h.run
  regs := h.regs.trans (regsBut_putBit _ _ _ _ _ _ List.mem_cons_self)
  tile := h.tile.trans (onlyTile_putBit _ _ _ _ _ _)

/-! ## NOP, END, LDLC and SEM -/

theorem loopOff_ne_lcStat (lc k : Nat) (hk : k < 8) : 0x110 + 0x40 * lc + 4 * k ≠ lcStat lc := by simp [lcStat]; omega

theorem nop_issues {s : State} {t lc : Nat} {w : CmdWord} (h : Issues s t lc w) (he : cwEng w = 0) (ho : cwOpc w = 0) :
    exec (.nop t) s = .next (payPenalty (issued s t lc w) t) :=
  (congrArg Host.Outcome.next (issueRow_of_opc h he ho)).trans (by simp only [issueSeq, ho, issued])

theorem endList_issues {s : State} {t lc : Nat} {w : CmdWord} (h : Issues s t lc w) (he : cwEng w = 0)
    (ho : cwOpc w = 1) : exec (.endList t) s = .next (payPenalty (lcSetState (issued s t lc w) t lc 3) t) :=
  (congrArg Host.Outcome.next (issueRow_of_opc h he ho)).trans (by simp only [issueSeq, ho, issued])

theorem ldlc_issues {s : State} {t lc : Nat} {w : CmdWord} (h : Issues s t lc w) (he : cwEng w = 0)
    (ho : cwOpc w = 4) : exec (.ldlc t) s = .next (payPenalty (putReg (issued s t lc w) (.seq t)
      (0x110 + 0x40 * lc + 4 * cwBits w 79 77) (BitVec.ofNat 32 (cwBits w 31 0))) t) :=
  (congrArg Host.Outcome.next (issueRow_of_opc h he ho)).trans (by simp only [issueSeq, ho, issued])

theorem issueRow_sem {s : State} {t lc k : Nat} {w : CmdWord} (h : Issues s t lc w) (he : cwEng w = 0)
    (ho : cwOpc w = 5) (hk : cwBits w 73 72 = k) :
    issueRow s t (isSem k) = payPenalty (semOp (issued s t lc w) t lc (cwBits w 79 74) k
      (BitVec.ofNat 32 (cwBits w 31 0))) t := by
  rw [issueRow_pass h he _ (by simp [isSem, ho, hk])]
  simp only [issueSeq, ho, hk, issued]

theorem cwBits_lt (w : CmdWord) (hi lo : Nat) : cwBits w hi lo < 2 ^ (hi + 1 - lo) := by
  unfold cwBits; exact Nat.mod_lt _ (Nat.two_pow_pos _)

theorem Passed.semWritten {s u : State} {t lc i : Nat} {ks : List Nat} (h : Passed s u t lc ks) (hlc : lc < 4)
    (hk : regKey (.seq t) (semOff i) ∈ ks) (v : Word) : Passed s (putReg u (.seq t) (semOff i) v) t lc ks :=
  h.regWritten (semOff_ne_lcStat hlc i).symm hk v

/-- The semaphore that SEM leaves, and SEMSAT. -/
theorem semWritten_shown {u : State} {t lc i : Nat} (hlc : lc < 4) (r : Nat) (hr : r < 2 ^ 32) (sat : Bool) :
    let v := if sat then putBit (putReg u (.seq t) (semOff i) (BitVec.ofNat 32 r)) (.seq t) (lcStat lc) 4 true
      else putReg u (.seq t) (semOff i) (BitVec.ofNat 32 r)
    (getSem v t i).toNat = r ∧ rbit v (.seq t) (lcStat lc) 4 = (rbit u (.seq t) (lcStat lc) 4 || sat) := by
  have hne : regKey (.seq t) (semOff i) ≠ regKey (.seq t) (lcStat lc) := by
    rw [Ne, regKey_inj]; exact (semOff_ne_lcStat hlc i).symm
  have hsem : (getSem (putReg u (.seq t) (semOff i) (BitVec.ofNat 32 r)) t i).toNat = r := by
    simp only [getSem, rawReg_putReg_same, BitVec.toNat_ofNat]; exact Nat.mod_eq_of_lt hr
  have hstat : rbit (putReg u (.seq t) (semOff i) (BitVec.ofNat 32 r)) (.seq t) (lcStat lc) 4
      = rbit u (.seq t) (lcStat lc) 4 := by
    rw [rbit, rfld, rawReg_putReg_ne _ _ _ _ _ _ hne.symm]; rfl
  cases sat
  · exact ⟨hsem, by simpa using hstat⟩
  · refine ⟨?_, by simp⟩
    show (rawReg (putBit _ _ _ _ _) _ _).toNat = r
    rw [show rawReg (putBit (putReg u (.seq t) (semOff i) (BitVec.ofNat 32 r)) (.seq t) (lcStat lc) 4 true) (.seq t)
      (semOff i) = _ from rawReg_putReg_ne _ _ _ _ _ _ hne]
    exact hsem

/-- A SEM that issues, in terms of the value it leaves. -/
theorem sem_passed {s : State} {t lc i r : Nat} {w : CmdWord} (h : Issues s t lc w) (hr : r < 2 ^ 32) (sat : Bool)
    {u : State} (hu : u = if sat then
        putBit (putReg (issued s t lc w) (.seq t) (semOff i) (BitVec.ofNat 32 r)) (.seq t) (lcStat lc) 4 true
      else putReg (issued s t lc w) (.seq t) (semOff i) (BitVec.ofNat 32 r)) :
    (getSem (payPenalty u t) t i).toNat = r
      ∧ rbit (payPenalty u t) (.seq t) (lcStat lc) 4 = (rbit s (.seq t) (lcStat lc) 4 || sat)
      ∧ Passed s (payPenalty u t) t lc [regKey (.seq t) (semOff i)] := by
  subst hu
  obtain ⟨hsem, hsat⟩ := semWritten_shown (u := issued s t lc w) (t := t) (i := i) h.lc_lt r hr sat
  have hstat : rbit (issued s t lc w) (.seq t) (lcStat lc) 4 = rbit s (.seq t) (lcStat lc) 4 :=
    congrArg (· == 1) (rfld_putFld_ne (noteTags s t lc w) (.seq t) (lcStat lc) 26 16 _ 4 4 (by decide) (by decide) (by decide)
      (by decide))
  have hp := (h.passed [regKey (.seq t) (semOff i)]).semWritten h.lc_lt (i := i) (by simp) (BitVec.ofNat 32 r)
  refine ⟨hsem, hsat.trans (by rw [hstat]), Passed.paid ?_⟩
  cases sat
  · exact hp
  · exact hp.bitWritten (b := 4) (by decide) (by decide) true

theorem semOp_add_sub (s : State) (t lc i : Nat) (v : Word) :
    (semOp s t lc i 1 v = if decide (0xFFFFFFFF < (getSem s t i).toNat + v.toNat) then
        putBit (putReg s (.seq t) (semOff i) (BitVec.ofNat 32 (Nat.min ((getSem s t i).toNat + v.toNat) 0xFFFFFFFF)))
          (.seq t) (lcStat lc) 4 true
      else putReg s (.seq t) (semOff i) (BitVec.ofNat 32 (Nat.min ((getSem s t i).toNat + v.toNat) 0xFFFFFFFF)))
    ∧ semOp s t lc i 2 v = if decide ((getSem s t i).toNat < v.toNat) then
        putBit (putReg s (.seq t) (semOff i) (BitVec.ofNat 32 ((getSem s t i).toNat - v.toNat))) (.seq t) (lcStat lc) 4 true
      else putReg s (.seq t) (semOff i) (BitVec.ofNat 32 ((getSem s t i).toNat - v.toNat)) := by
  simp only [semOp]
  constructor
  · simp only [Nat.lt_iff_add_one_le]; simp
  · simp

/-- Settles O13: each command that issues is one that SEQ passes, and what it writes besides PC is said by its row. -/
theorem seqCommandsIssue : Obligations.SeqCommandsIssue := by
  unfold Obligations.SeqCommandsIssue
  refine ⟨fun s t lc w h he => ⟨fun ho => ?_, fun ho => ?_, fun ho => ?_⟩, fun s t lc w h he ho => ?_⟩
  · have hp := (h.passed []).paid
    exact ⟨_, nop_issues h he ho, hp.run, hp.pc, hp.regs, hp.tile⟩
  · have hp := h.passed []
    refine ⟨_, endList_issues h he ho, by simp, ?_, ?_, ?_⟩
    · exact (rfld_putFld_ne _ _ _ 2 0 _ 26 16 (by decide) (by decide) (by decide) (by decide)).trans hp.pc
    · exact hp.regs.trans (regsBut_putFld _ _ _ _ _ _ _ (by simp))
    · exact (hp.tile.trans (onlyTile_putFld _ _ _ _ _ _ _)).trans (onlyTile_payPenalty _ t)
  · have hk := cwBits_lt w 79 77
    have hp := ((h.passed [regKey (.seq t) (0x110 + 0x40 * lc + 4 * cwBits w 79 77)]).regWritten
      (loopOff_ne_lcStat lc _ hk) (by simp) (BitVec.ofNat 32 (cwBits w 31 0))).paid
    exact ⟨_, ldlc_issues h he ho, hp.run, by simp, hp.pc, hp.regs, hp.tile⟩
  · have hv : (BitVec.ofNat 32 (cwBits w 31 0)).toNat = cwBits w 31 0 :=
      (BitVec.toNat_ofNat _ _).trans (Nat.mod_eq_of_lt (cwBits_lt w 31 0))
    have ha : getSem (issued s t lc w) t (cwBits w 79 74) = getSem s t (cwBits w 79 74) := getSem_issued h.lc_lt _ w
    have hlt : (getSem s t (cwBits w 79 74)).toNat < 2 ^ 32 := (getSem s t _).isLt
    obtain ⟨hadd, hsub⟩ := semOp_add_sub (issued s t lc w) t lc (cwBits w 79 74) (BitVec.ofNat 32 (cwBits w 31 0))
    rw [ha, hv] at hadd hsub
    refine ⟨fun hk => ?_, fun hk => ?_, fun hk => ?_⟩
    · obtain ⟨h1, h2, hp⟩ := sem_passed h (cwBits_lt w 31 0) false (semOp_set (issued s t lc w) t lc (cwBits w 79 74) _)
      exact ⟨_, congrArg Host.Outcome.next (issueRow_sem h he ho hk), h1, h2, hp.run, hp.pc, hp.regs, hp.tile⟩
    · obtain ⟨h1, h2, hp⟩ := sem_passed h (lt_of_le_of_lt (Nat.min_le_right _ _) (by decide)) _ hadd
      exact ⟨_, congrArg Host.Outcome.next (issueRow_sem h he ho hk), h1, h2, hp.run, hp.pc, hp.regs, hp.tile⟩
    · obtain ⟨h1, h2, hp⟩ := sem_passed h (lt_of_le_of_lt (Nat.sub_le _ _) hlt) _ hsub
      exact ⟨_, congrArg Host.Outcome.next (issueRow_sem h he ho hk), h1, h2, hp.run, hp.pc, hp.regs, hp.tile⟩

/-! ## Commands for the engines -/

/-- MOV that may start nothing makes nothing. -/
theorem movPump_of_waiting {s z : State} {t : Nat} (hz : stagePump s t = z) (hcur : (getTile z t).movCur = none)
    (hstart : movMayStart z t = false) (hrst : rbit z (.mov t) 0x010 1 = false) : movPump s t = z := by
  have hcut : iter (fun s => cutStep s t) 12 z = z := iter_of_fixed (by simp [cutStep, hcur]) 12
  have hsig : sigStart z t = z := by
    simp only [sigStart, hstart, Bool.false_eq_true, and_false, if_false]
    split <;> rfl
  have hsrst : movSrst z t = z := by simp [movSrst, hrst]
  simp only [movPump, hz, hcut, hsig, hsrst]

/-- A command at the end of MOV's queue, where no packet waits in the staging queue. -/
def movQueued (q : QCmd) (x : Tile) : Tile := { x with movQ := x.movQ ++ [q], stageQ := [] }

theorem getTile_issued (s : State) (t lc : Nat) (w : CmdWord) :
    getTile (issued s t lc w) t = { getTile s t with
      ctx := (getTile (issued s t lc w) t).ctx, seqTag := (getTile (issued s t lc w) t).seqTag } := by
  have hpass : getTile (issued s t lc w) t = getTile (modCtx (modCtx (noteTags s t lc w) t lc
      (fun c => { c with slot := none, sn := c.sn + 1 })) t lc
      (fun c => { c with pc := nextPc (getCtx (noteTags s t lc w) t lc) })) t := rfl
  rw [hpass]
  simp [modCtx, noteTags]

theorem pageBase_seq_ne (t : Nat) : pageBase (.mov t) ≠ pageBase (.seq t) ∧ pageBase (.til t) ≠ pageBase (.seq t) := by
  simp [pageBase]

theorem rawReg_issued_page {s : State} {t lc : Nat} (w : CmdWord) (hlc : lc < 4) (o : Nat) (ho : o < 0x1000) :
    rawReg (issued s t lc w) (.mov t) o = rawReg s (.mov t) o
      ∧ rawReg (issued s t lc w) (.til t) o = rawReg s (.til t) o := by
  constructor <;> refine rawReg_issued ?_ w <;> simp only [regKey, pageBase, lcStat] <;> omega

theorem movMayStart_issued {s : State} {t lc : Nat} (w : CmdWord) (hlc : lc < 4) :
    movMayStart (issued s t lc w) t = movMayStart s t := by
  have hm := fun o ho => (rawReg_issued_page (s := s) (t := t) w hlc o ho).1
  have hrun : (issued s t lc w).mgt = s.mgt := by rw [(onlyTile_issued s t lc w).1]
  have hiso : isoBit (issued s t lc w) t = isoBit s t := by
    simp only [isoBit, rbit, rfld, (rawReg_issued_page (s := s) (t := t) w hlc 0x084 (by decide)).2]
  have hidle : movIdle (getTile (issued s t lc w) t) = movIdle (getTile s t) := by rw [getTile_issued]; rfl
  simp only [movMayStart, enabled, stopped, isolated, rbit, rfld, hm _ (show 0x010 < 0x1000 by decide),
    hm _ (show 0x014 < 0x1000 by decide), hrun, hiso, hidle]

theorem movMayStart_modTile (s : State) (t : Nat) (f : Tile → Tile) (hf : movIdle (f (getTile s t)) = movIdle (getTile s t)) :
    movMayStart (modTile s t f) t = movMayStart s t := by
  simp only [movMayStart, getTile_modTile_same, hf]; rfl

theorem movQ_waits {s : State} {t : Nat} (q : QCmd) (hstart : movMayStart s t = false) (hcur : (getTile s t).movCur = none)
    (hstage : (getTile s t).stageQ = []) (hrst : rbit s (.mov t) 0x010 1 = false) :
    movPump (modTile s t (fun x => { x with movQ := x.movQ ++ [q] })) t
      = modTile (modTile s t (fun x => { x with movQ := x.movQ ++ [q] })) t stageNone := by
  refine movPump_of_waiting ?_ ?_ ?_ hrst
  · simp only [stagePump, getTile_modTile_same, hstage, List.foldl_nil]; rfl
  · rw [getTile_modTile_same, getTile_modTile_same]; exact hcur
  · rw [movMayStart_modTile, movMayStart_modTile _ _ _ rfl, hstart]
    simp only [getTile_modTile_same, movIdle, stageNone, hstage]

/-- What a command for an engine leaves besides the queues. -/
theorem Issues.queued {s : State} {t lc : Nat} {w : CmdWord} (h : Issues s t lc w) (f : Tile → Tile) :
    Passed s (payPenalty (modTile (issued s t lc w) t f) t) t lc [] := ((h.passed []).tileWritten f).paid

theorem getTile_payPenalty (s : State) (t : Nat) :
    getTile (payPenalty s t) t = { getTile s t with
      ctx := (getTile s t).ctx.map (fun c => { c with penalty := c.penalty - 1 }) } := getTile_modTile_same s t _

theorem getCtx_noteTags {s : State} {t lc : Nat} (w : CmdWord) (hlc : lc < (getTile s t).ctx.length) :
    (getCtx (noteTags s t lc w) t lc).sn = (getCtx s t lc).sn
      ∧ nextDs (getCtx (noteTags s t lc w) t lc) = nextDs (getCtx s t lc) := by
  simp [noteTags, getCtx, modCtx, listMod, List.getElem?_eq_getElem hlc, nextDs]

/-- Settles O18: the command goes to the end of its engine's queue, and MOV makes nothing of it yet. -/
theorem engineCommandsQueue : Obligations.EngineCommandsQueue := by
  unfold Obligations.EngineCommandsQueue
  intro s t lc w h hlen c q x after
  have hq : (⟨w, lc, (getCtx (noteTags s t lc w) t lc).sn, nextDs (getCtx (noteTags s t lc w) t lc)⟩ : QCmd) = q := by
    rw [(getCtx_noteTags w hlen).1, (getCtx_noteTags w hlen).2]
  have hx := getTile_issued s t lc w
  have hpass : getTile (passCmd (noteTags s t lc w) t lc) t = _ := hx
  have after_of : ∀ {u}, Passed s u t lc [] → after u := fun hp => ⟨hp.pc, hp.run, hp.regs, hp.tile⟩
  have engine : ∀ he : cwEng w ≠ 0, exec (.seqIssueSlot t []) s
      = .next (payPenalty (issueEngine (noteTags s t lc w) t lc w) t) :=
    fun he => congrArg Host.Outcome.next (issueSlot_engine h he)
  refine ⟨fun he => ?_, fun he => ?_, fun he hstart hcur hstage hrst => ?_⟩
  · refine ⟨_, engine (by omega), ?_⟩
    simp only [issueEngine, he, hq]
    refine ⟨after_of (h.queued _), ?_⟩
    simp only [getTile_payPenalty, getTile_modTile_same]
    rw [hpass]
    exact ⟨rfl, rfl, rfl⟩
  · refine ⟨_, engine (by omega), ?_⟩
    simp only [issueEngine, he, hq]
    refine ⟨after_of (h.queued _), ?_⟩
    simp only [getTile_payPenalty, getTile_modTile_same]
    rw [hpass]
    exact ⟨rfl, rfl, rfl⟩
  · have hmov : exec (if cwEng w = 2 then .seqIssueSlot t [] else .sig t) s
        = .next (payPenalty (issueEngine (noteTags s t lc w) t lc w) t) := by
      rcases he with he | ⟨he, ho⟩
      · rw [if_pos he]; exact engine (by omega)
      · rw [if_neg (by omega)]
        exact (congrArg Host.Outcome.next (issueRow_of_opc h he ho)).trans (by simp only [issueSeq, ho])
    have heng : issueEngine (noteTags s t lc w) t lc w
        = modTile (modTile (issued s t lc w) t (fun x => { x with movQ := x.movQ ++ [q] })) t stageNone := by
      rw [← movQ_waits q ((movMayStart_issued w h.lc_lt).trans hstart) (by rw [hx]; exact hcur) (by rw [hx]; exact hstage)
        (by rw [rbit, rfld, (rawReg_issued_page w h.lc_lt _ (by decide)).1]; exact hrst)]
      simp only [issueEngine, hq, issued]
      rcases he with he | ⟨he, -⟩
      · rw [he]; rfl
      · rw [he]; rfl
    refine ⟨_, hmov, ?_⟩
    rw [heng]
    refine ⟨after_of ((((h.passed []).tileWritten _).tileWritten _).paid), ?_⟩
    simp only [getTile_payPenalty, getTile_modTile_same]
    rw [hx]
    exact ⟨rfl, rfl, rfl⟩

end Sys2Proof.Machine
end

section
/-! PROOFS. What events leave of every page, whatever its number: the registers at other offsets, and the bits of PG_ISR. -/

namespace Sys2Proof.Machine

/-- The offsets below the ring at which the bookkeeping of events writes registers (R126, R127, R725, R752). -/
def eventOffs : List Nat := [0x020, 0x030, 0x034, 0x038, 0x03C, 0x040, 0x054, 0x084, 0x088, 0x08C, 0x090, 0x094]

def QuietOff (o : Nat) : Prop := o < 0xE00 ∧ o ∉ eventOffs

/-- Registers at quiet offsets are as before, and every bit of PG_ISR that was set still is. -/
structure EventFrame (s u : State) : Prop where
  quiet : ∀ p o, QuietOff o → rawReg u p o = rawReg s p o
  isr : ∀ p, rawReg s p 0x020 ||| rawReg u p 0x020 = rawReg u p 0x020

theorem EventFrame.refl (s : State) : EventFrame s s := ⟨fun _ _ _ => rfl, fun _ => by simp⟩

theorem EventFrame.trans {s u v : State} (h : EventFrame s u) (h' : EventFrame u v) : EventFrame s v where
  quiet p o ho := (h'.quiet p o ho).trans (h.quiet p o ho)
  isr p := by rw [← h'.isr p, ← BitVec.or_assoc, h.isr p]

theorem eventFrame_of_regs {s u : State} (h : u.regs = s.regs) (hf : u.fuses = s.fuses) : EventFrame s u where
  quiet p o _ := rawReg_congr h hf p o
  isr p := by rw [rawReg_congr h hf p]; simp

theorem eventFrame_ite {s u v : State} {c : Prop} [Decidable c] (h : EventFrame s u) (h' : EventFrame s v) :
    EventFrame s (if c then u else v) := by
  split
  · exact h
  · exact h'

theorem regKey_mod {p : Page} {o : Nat} (h : o < 0x1000) : regKey p o % 0x1000 = o := by
  have := pageBase_mod p
  simp only [regKey]; omega

/-- Two registers of one key have one offset. -/
theorem regKey_ne_of_off {p q : Page} {o r : Nat} (ho : o < 0x1000) (hr : r < 0x1000) (h : o ≠ r) :
    regKey p o ≠ regKey q r := fun e => h (by rw [← regKey_mod (p := p) ho, e, regKey_mod hr])

theorem regDefault_isr (f : Fuses) (p : Page) : regDefault f p 0x020 = 0 := by cases p <;> rfl

/-- Pages whose PG_ISR has one key share it. -/
theorem rawReg_isr_key (s : State) {p q : Page} (h : regKey p 0x020 = regKey q 0x020) :
    rawReg s p 0x020 = rawReg s q 0x020 := by
  simp only [rawReg, h, regDefault_isr]

/-- A register at an event's offset other than PG_ISR is written. -/
theorem eventFrame_putReg (s : State) (p : Page) {o : Nat} (v : Word) (h : o < 0x1000) (hi : o ≠ 0x020)
    (hq : ¬ QuietOff o) : EventFrame s (putReg s p o v) where
  quiet q r hr := rawReg_putReg_ne _ _ _ _ _ _ (regKey_ne_of_off (by unfold QuietOff at hr; omega) h (fun e => hq (e ▸ hr)))
  isr q := by
    rw [rawReg_putReg_ne _ _ _ _ _ _ (regKey_ne_of_off (by decide) h hi.symm)]; simp

theorem eventFrame_setIsr (s : State) (p : Page) (m : Word) : EventFrame s (putReg s p 0x020 (rawReg s p 0x020 ||| m)) where
  quiet q r hr := rawReg_putReg_ne _ _ _ _ _ _ (regKey_ne_of_off (by unfold QuietOff at hr; omega) (by decide)
    (fun e => absurd hr (by rw [e]; simp [QuietOff, eventOffs])))
  isr q := by
    by_cases e : regKey q 0x020 = regKey p 0x020
    · rw [rawReg_isr_key s e, rawReg_isr_key (putReg s p 0x020 _) e, rawReg_putReg_same, ← BitVec.or_assoc, BitVec.or_self]
    · rw [rawReg_putReg_ne _ _ _ _ _ _ e]; simp

theorem eventFrame_irqMessage (s : State) (p : Page) : EventFrame s (irqMessage s p) :=
  eventFrame_of_regs (irqMessage_regs s p) (by rw [(events_irqMessage s p []).1])

theorem eventFrame_record (s : State) (p : Page) (code : Nat) (tent : Bool) (layer oper : Half) (detail : Word) :
    EventFrame s (record s p code tent layer oper detail) := by
  have hb : rfld s p 0x054 4 0 < 32 := fld_lt _ 4 0
  unfold record
  dsimp only
  have e (x : State) (o : Nat) (w : Word) (h : 0xE00 ≤ o) (h' : o < 0x1000) : EventFrame x (putReg x p o w) :=
    eventFrame_putReg x p w h' (by omega) (by unfold QuietOff; omega)
  have e' (x : State) (w : Word) : EventFrame x (putReg x p 0x054 w) :=
    eventFrame_putReg x p w (by decide) (by decide) (by simp [QuietOff, eventOffs])
  exact eventFrame_ite (.refl _) (((((e _ _ _ (by omega) (by omega)).trans (e _ _ _ (by omega) (by omega))).trans
    (e _ _ _ (by omega) (by omega))).trans (e _ _ _ (by omega) (by omega))).trans (e' _ _))

theorem eventFrame_isrCore (s : State) (p : Page) (mask : Word) (lo : Half × Half) :
    EventFrame s (isrCore s p mask lo) := by
  have k := eventFrame_setIsr s p mask
  unfold isrCore
  dsimp only
  exact eventFrame_ite ((k.trans (eventFrame_irqMessage _ _)).trans (eventFrame_record _ _ _ _ _ _ _)) k

theorem eventFrame_sendWave (s : State) (fr : Option Nat) (code : BitVec 7) : EventFrame s (sendWave s fr code) where
  quiet p o _ := rawReg_sendWave s fr code p o
  isr p := by rw [rawReg_sendWave]; simp

theorem eventFrame_stopTrigger (s : State) (cause : Nat) (src : Word) (fr : Option Nat) :
    EventFrame s (stopTrigger s cause src fr) := by
  have d (x : State) {o : Nat} (w : Word) (h : o ∈ [0x084, 0x088, 0x08C, 0x090, 0x094]) : EventFrame x (putReg x .dbgp o w) := by
    simp only [List.mem_cons, List.not_mem_nil, or_false] at h
    exact eventFrame_putReg x .dbgp w (by omega) (by omega)
      (by rcases h with rfl | rfl | rfl | rfl | rfl <;> simp [QuietOff, eventOffs])
  unfold stopTrigger
  extract_lets s1 a b s2 dbg s3 s4
  have k1 : EventFrame s s1 := d _ _ (by simp)
  have ka : EventFrame s1 a := (d s1 (o := 0x084) _ (by simp)).trans (d _ (o := 0x084) _ (by simp))
  have kb : EventFrame a b := d _ _ (by simp)
  have k2 : EventFrame s s2 :=
    eventFrame_ite k1 ((((k1.trans ka).trans kb).trans (d b (o := 0x08C) _ (by simp))).trans (d _ (o := 0x090) _ (by simp)))
  have k3 : EventFrame s2 s3 := eventFrame_of_regs rfl rfl
  have k4 : EventFrame s3 s4 := eventFrame_ite (eventFrame_of_regs rfl rfl) (.refl _)
  exact eventFrame_ite k2 ((((k2.trans k3).trans k4).trans (eventFrame_sendWave s4 fr 1)).trans (eventFrame_isrCore _ _ _ _))

theorem eventFrame_silMatch (s : State) (p : Page) (code : Nat) (layer oper : Half) :
    EventFrame s (silMatch s p code layer oper) := by
  unfold silMatch
  split
  · exact .refl _
  · rename_i t u _
    have k := eventFrame_isrCore s (.dbg t) 8 (0, 0)
    exact eventFrame_ite (eventFrame_ite (k.trans (eventFrame_stopTrigger _ _ _ _)) k) (.refl _)

theorem eventFrame_sillage (s : State) (p : Page) (code : Nat) (tent : Bool) (layer oper : Half) (detail : Word) :
    EventFrame s (sillage s p code tent layer oper detail) :=
  eventFrame_ite ((eventFrame_record _ _ _ _ _ _ _).trans (eventFrame_silMatch _ _ _ _ _)) (.refl _)

theorem eventFrame_isrSet (s : State) (p : Page) (mask : Word) (lo : Half × Half) : EventFrame s (isrSet s p mask lo) := by
  have k := eventFrame_isrCore s p mask lo
  exact eventFrame_ite (k.trans (eventFrame_silMatch _ _ _ _ _)) k

theorem eventFrame_isrBit (s : State) (p : Page) (n : Nat) (lo : Half × Half) : EventFrame s (isrBit s p n lo) :=
  eventFrame_isrSet _ _ _ _

theorem eventFrame_errStop (s : State) (p : Page) (cls : Option Nat) : EventFrame s (errStop s p cls) := by
  unfold errStop
  split
  · exact eventFrame_ite (eventFrame_stopTrigger _ _ _ _) (.refl _)
  · exact .refl _

theorem eventFrame_captureCore (quiet : Bool) (s : State) (p : Page) (code : Nat) (tag layer oper : Half) (detail : Word)
    (cls : Option Nat) (bits : Word) : EventFrame s (captureCore quiet s p code tag layer oper detail cls bits) := by
  have e {o : Nat} (h : o ∈ [0x030, 0x034, 0x038, 0x03C]) (x : State) (w : Word) : EventFrame x (putReg x p o w) := by
    simp only [List.mem_cons, List.not_mem_nil, or_false] at h
    exact eventFrame_putReg x p w (by omega) (by omega)
      (by rcases h with rfl | rfl | rfl | rfl <;> simp [QuietOff, eventOffs])
  unfold captureCore
  extract_lets s1 s2 s3 s4 s5 s6
  have k : EventFrame s s1 := e (o := 0x030) (by simp) s _
  have k5 : EventFrame s s5 := (((e (o := 0x030) (by simp) s _).trans (e (o := 0x034) (by simp) _ _)).trans
    (e (o := 0x038) (by simp) _ _)).trans (e (o := 0x03C) (by simp) _ _)
  have k6 : EventFrame s5 s6 := eventFrame_ite (.refl _) (eventFrame_sillage _ _ _ _ _ _ _)
  exact eventFrame_ite (eventFrame_ite k (k.trans (eventFrame_isrSet _ _ _ _)))
    (((k5.trans k6).trans (eventFrame_isrSet _ _ _ _)).trans (eventFrame_errStop _ _ _))

theorem eventFrame_captureOpen (quiet : Bool) (s : State) (p : Page) (code : Nat) (tag layer oper : Half)
    (cls : Option Nat) (bits : Word) : EventFrame s (captureOpen quiet s p code tag layer oper cls bits) :=
  EventFrame.trans (u := (takeFree s).2) (eventFrame_of_regs rfl rfl) (eventFrame_captureCore _ _ _ _ _ _ _ _ _ _)

theorem EventFrame.rfld {s u : State} (h : EventFrame s u) (p : Page) {o : Nat} (ho : QuietOff o) (hi lo : Nat) :
    rfld u p o hi lo = rfld s p o hi lo := by simp only [Machine.rfld, h.quiet p o ho]

theorem EventFrame.rbit {s u : State} (h : EventFrame s u) (p : Page) {o : Nat} (ho : QuietOff o) (b : Nat) :
    rbit u p o b = rbit s p o b := by simp only [Machine.rbit, h.rfld p ho]

/-- A bit of PG_ISR stays set. -/
theorem EventFrame.isrStays {s u : State} (h : EventFrame s u) {p : Page} {b : Nat}
    (hs : Machine.rbit s p 0x020 b = true) : Machine.rbit u p 0x020 b = true := by
  have hbit (v : Word) : (fld v b b == 1) = v.getLsbD b := by
    rw [← BitVec.testBit_toNat, Nat.testBit_eq_decide_div_mod_eq, fld]
    simp [bitsOf, Bool.beq_eq_decide_eq]
  have hor := h.isr p
  simp only [Machine.rbit, Machine.rfld, hbit] at hs ⊢
  rw [← hor, BitVec.getLsbD_or, hs, Bool.true_or]

/-- An event sets its bit of PG_ISR. -/
theorem rbit_isrBit (s : State) (p : Page) {b : Nat} (hb : b < 32) (lo : Half × Half) :
    rbit (isrBit s p b lo) p 0x020 b = true := by
  have hcore : rbit (isrCore s p (BitVec.ofNat 32 (2 ^ b)) lo) p 0x020 b = true := by
    rw [rbit, rfld, rawReg_isrCore_isr]; exact beq_iff_eq.2 (fld_or_bit _ hb)
  have k : EventFrame (isrCore s p (BitVec.ofNat 32 (2 ^ b)) lo) (isrBit s p b lo) :=
    eventFrame_ite (eventFrame_silMatch _ _ _ _ _) (.refl _)
  exact k.isrStays hcore

end Sys2Proof.Machine
end

section
/-! PROOFS. The fabric: input and output VCs, a header and a data flit that move, the fork buffer (sections 8.2, 9.2). -/

namespace Sys2Proof.Machine

/-! ## Input and output VCs -/

theorem find?_tabPut_same {α : Type} (t : Tab α) (k : Nat) (v : α) :
    (tabPut t k v).find? (fun e => e.1 == k) = some (k, v) := by
  induction t with
  | nil => simp [tabPut]
  | cons e r ih =>
    obtain ⟨k', v'⟩ := e
    simp only [tabPut]
    split
    · simp
    · split
      · simp
      · rename_i h; rw [List.find?_cons_of_neg (by simpa using fun e => h e.symm), ih]

theorem find?_tabDel_same {α : Type} (t : Tab α) (k : Nat) : (tabDel t k).find? (fun e => e.1 == k) = none := by
  simp [tabDel, List.find?_eq_none]

@[simp] theorem getRin_setRin_same (s : State) (t port vc : Nat) (w : Option Worm) :
    getRin (setRin s t port vc w) t port vc = w := by
  cases w with
  | none => simp [getRin, setRin, find?_tabDel_same]
  | some w => simp [getRin, setRin, find?_tabPut_same]

theorem getRin_setRin_tile (s : State) {t u : Nat} (h : u ≠ t) (port vc q v : Nat) (w : Option Worm) :
    getRin (setRin s t port vc w) u q v = getRin s u q v := by simp [getRin, setRin, h]

/-- What leaves the input VCs of a tile alone leaves every input VC. -/
theorem getRin_modTile (s : State) (t : Nat) (f : Tile → Tile) (hf : (f (getTile s t)).rin = (getTile s t).rin) (u q v : Nat) :
    getRin (modTile s t f) u q v = getRin s u q v := by
  by_cases h : u = t
  · subst h; simp only [getRin, getTile_modTile_same, hf]
  · simp only [getRin, getTile_modTile_ne _ _ _ _ h]

theorem getOut_modTile (s : State) (t : Nat) (f : Tile → Tile) (hf : (f (getTile s t)).rout = (getTile s t).rout)
    (u n v : Nat) : getOut (modTile s t f) u n v = getOut s u n v := by
  by_cases h : u = t
  · subst h; simp only [getOut, getTile_modTile_same, hf]
  · simp only [getOut, getTile_modTile_ne _ _ _ _ h]

@[simp] theorem getOut_setRin (s : State) (t port vc : Nat) (w : Option Worm) (u n v : Nat) :
    getOut (setRin s t port vc w) u n v = getOut s u n v := getOut_modTile _ _ _ rfl _ _ _

@[simp] theorem getOut_setOut_same (s : State) (t n v : Nat) (o : OutVc) : getOut (setOut s t n v o) t n v = o := by
  simp [getOut, setOut]

@[simp] theorem getOut_granted (s : State) (t src n v : Nat) (head last spend : Bool) :
    getOut (granted s t src n v head last spend) t n v
      = ⟨if spend then (getOut s t n v).credits - 1 else (getOut s t n v).credits, !last,
          if head then src else (getOut s t n v).last⟩ := by
  unfold granted
  rw [getOut_modTile]
  · exact getOut_setOut_same _ _ _ _ _
  · rfl

@[simp] theorem getRin_granted (s : State) (t src n v : Nat) (head last spend : Bool) (u q w : Nat) :
    getRin (granted s t src n v head last spend) u q w = getRin s u q w := by
  unfold granted setOut
  rw [getRin_modTile, getRin_modTile]
  · rfl
  · rfl

theorem getTile_granted (s : State) (t src n v : Nat) (head last spend : Bool) :
    ∃ r l, getTile (granted s t src n v head last spend) t = { getTile s t with rout := r, rrVc := l } := by
  unfold granted setOut
  exact ⟨_, _, by rw [getTile_modTile_same, getTile_modTile_same]⟩

theorem onlyTile_granted (s : State) (t src n v : Nat) (head last spend : Bool) :
    OnlyTile s (granted s t src n v head last spend) t := by
  unfold granted setOut
  exact (onlyTile_modTile _ _ _).trans (onlyTile_modTile _ _ _)

theorem onlyTile_setRin (s : State) (t port vc : Nat) (w : Option Worm) : OnlyTile s (setRin s t port vc w) t :=
  onlyTile_modTile _ _ _

/-- Updates of tiles change no register. -/
theorem regsBut_modTile (s : State) (t : Nat) (f : Tile → Tile) : RegsBut s (modTile s t f) [] := fun _ _ _ => rfl

theorem regsBut_granted (s : State) (t src n v : Nat) (head last spend : Bool) :
    RegsBut s (granted s t src n v head last spend) [] := fun _ _ _ => rfl

theorem regsBut_setRin (s : State) (t port vc : Nat) (w : Option Worm) : RegsBut s (setRin s t port vc w) [] :=
  fun _ _ _ => rfl

@[simp] theorem getTile_emit (s : State) (m : OutMsg) (t : Nat) : getTile (emit s m) t = getTile s t := rfl

/-- The router past a ring port is another one. -/
theorem neighbour_ne (s : State) (t port : Nat) : (neighbour s t port).1 ≠ t := by
  have hx : gridX s = 127 ∨ gridX s = 128 := by unfold gridX; split <;> simp
  have hy : gridY s = 127 ∨ gridY s = 128 := by unfold gridY; split <;> simp
  unfold neighbour tileX tileY
  generalize gridX s = gx at hx ⊢
  generalize gridY s = gy at hy ⊢
  rcases hx with rfl | rfl <;> rcases hy with rfl | rfl <;> dsimp only <;> split <;> dsimp only <;> omega

/-! ## A header moves -/

/-- A plain port neither counts nor matches what leaves. -/
theorem flitOut_plain {s : State} {t port : Nat} {p : Packet} (h : PlainPort s t port p) (fs : List Flit) (probe : Bool) :
    flitOut s t port p fs probe = s := by
  obtain ⟨hcnt, h0, h1⟩ := h
  have hm : ∀ k, prbMatch s t k port { p with data := fs } = prbMatch s t k port p := fun _ => rfl
  simp only [flitOut, hcnt, Bool.false_and, Bool.false_eq_true, if_false, hm, h0, h1, Bool.and_false]

theorem headGo_link {s : State} {t n : Nat} {p : Packet} (h : PlainPort s t n p) (src v : Nat) (last : Bool) :
    headGo s t src (.link n v) p last = setRin (granted s t src n v true last true) (neighbour s t n).1 (neighbour s t n).2 v
      (some { pkt := { reHcrc p with data := [] }, tl := last }) := by
  simp only [headGo, flitOut_plain h]

/-- A header that passes its check and is not too long, without a detected error. -/
theorem headStep_ok {s : State} {t port vc : Nat} {w : Worm} (h : HeadAt s t port vc w) :
    headStep s t port vc w false =
      match (headTo s t port vc w.pkt).1 with
      | .absorb => headLeft s t port vc w .absorb
      | .fork =>
        if forkRoom (getTile s t) w.pkt then
          headLeft (forkTake s t (vcKey port vc) w.pkt (oneFlit w) (hopsOf s t port vc w.pkt)) t port vc w .fork
        else s
      | .sink n v =>
        match if n = 4 then tileRefuse s t (headTo s t port vc w.pkt).2 else none with
        | some s1 => headLeft s1 t port vc w .absorb
        | none =>
          if headReady s t (.sink n v) (headTo s t port vc w.pkt).2 && turn s t (vcKey port vc) n v then
            headLeft (headGo s t (vcKey port vc) (.sink n v) (headTo s t port vc w.pkt).2 (oneFlit w)) t port vc w (.sink n v)
          else s
      | .link n v =>
        if headReady s t (.link n v) (headTo s t port vc w.pkt).2 && turn s t (vcKey port vc) n v then
          headLeft (headGo s t (vcKey port vc) (.link n v) (headTo s t port vc w.pkt).2 (oneFlit w)) t port vc w (.link n v)
        else s := by
  obtain ⟨-, -, -, hcrc, hlen⟩ := h
  have hl : ¬ 64 < w.pkt.len.toNat := by omega
  simp only [headStep, hcrc, bne_self_eq_false, Bool.or_self, Bool.false_eq_true, if_false, hl, oneFlit]
  generalize headTo s t port vc w.pkt = g
  obtain ⟨o, p⟩ := g
  cases o <;> rfl

/-- The next flit of a running router's input VC. -/
theorem routerPacket_head {s : State} {t port vc : Nat} {w : Worm} (h : HeadAt s t port vc w) (pe : List Nat) :
    exec (.routerPacket t port vc false pe) s = .next (headStep s t port vc w false) := by
  obtain ⟨hrun, hrin, hhd, -, -⟩ := h
  refine congrArg Host.Outcome.next ?_
  simp only [routePacket, hrun, hrin, hhd, if_true, Bool.true_eq_false, if_false]

/-! ## Forks, credits, keep-alives -/

theorem execForkAccept_takes {s : State} {t port vc : Nat} {w : Worm} (h : HeadAt s t port vc w)
    (hlen : 1 < (hopsOf s t port vc w.pkt).length) (hroom : forkRoom (getTile s t) w.pkt) :
    exec (.forkAccept t port vc) s = .next (setRin
      (forkTake s t (vcKey port vc) w.pkt (oneFlit w) (hopsOf s t port vc w.pkt)) t port vc (headGone w .fork)) := by
  have hto : (headTo s t port vc w.pkt).1 = .fork := by
    unfold headTo
    split
    · next e => simp [e] at hlen
    · next e => simp [e] at hlen
    · rfl
  have hstep := headStep_ok h
  simp only [hto, hroom, if_true] at hstep
  obtain ⟨hrun, hrin, hhd, hcrc, -⟩ := h
  have : execForkAccept t port vc s = .next (headStep s t port vc w false) := by
    simp only [execForkAccept, hrin]; rw [if_pos ⟨hrun, hhd, hcrc, hto⟩]
  exact this.trans (congrArg Host.Outcome.next hstep)

/-- What becomes of a fork slot when a branch has moved. -/
theorem branchPut_shown (s : State) (t slot bi : Nat) (f : ForkEntry) (b : ForkBr) :
    (getTile (branchPut s t slot bi f b) t).fork = (if (f.brs.modify bi (fun _ => b)).all (·.fin)
        then (getTile s t).fork.eraseIdx slot
        else (getTile s t).fork.modify slot (fun f' => { f' with brs := f.brs.modify bi (fun _ => b) }))
      ∧ (∀ u q v, getRin (branchPut s t slot bi f b) u q v = getRin s u q v)
      ∧ RegsBut s (branchPut s t slot bi f b) [] ∧ (branchPut s t slot bi f b).mem = s.mem := by
  unfold branchPut listMod
  dsimp only
  split
  · exact ⟨by rw [getTile_modTile_same], getRin_modTile _ _ _ rfl, regsBut_modTile _ _ _, rfl⟩
  · exact ⟨by rw [getTile_modTile_same], getRin_modTile _ _ _ rfl, regsBut_modTile _ _ _, rfl⟩

theorem forkStart_fresh {s : State} {t slot bi : Nat} {f : ForkEntry} {b : ForkBr} (hf : (getTile s t).fork[slot]? = some f)
    (hb : f.brs[bi]? = some b) (hst : b.started = false) (hfin : b.fin = false) (hport : b.port < 4)
    (hfree : outFree s t b.port b.vc) (hahead : forkAhead s t slot b.port b.pkt = false)
    (hturn : turn s t (forkIn slot bi) b.port b.vc) :
    forkStart s t slot bi = branchPut (headGo s t (forkIn slot bi) (.link b.port b.vc) b.pkt (f.tl && f.pkt.data.isEmpty))
      t slot bi f { b with started := true, fin := f.tl && f.pkt.data.isEmpty } := by
  have hp : b.port ≠ 4 := by omega
  simp only [forkStart, hf, hb, hfin, hst, hp, Bool.false_eq_true, if_false, ForkBr.out, headReady, hfree, hahead, hturn,
    Bool.not_false, Bool.and_self, if_true]

theorem atLeast_of_due {s : State} {d : Nat} (h0 : 0 < d) (h : Due s d) : atLeast s d = s := atLeast_of_le h0 h.1

/-- A tabulated time is that of an entry. -/
theorem mem_of_tabGet_some {t : Tab Int} {k : Nat} {v : Int}
    (h : tabGet none (t.map (fun e => (e.1, some e.2))) k = some v) : (k, v) ∈ t := by
  induction t with
  | nil => simp [tabGet] at h
  | cons e r ih =>
    simp only [List.map_cons, tabGet] at h
    split at h
    · next e' => cases h; exact List.mem_cons.2 (.inl (by rw [e']))
    · exact List.mem_cons_of_mem _ (ih h)

theorem kaSend_now {s : State} {t port : Nat}
    (h : ∀ e ∈ (getTile s t).kaSent, e.1 = port → e.2 / (usTicks 1 : Int) ≠ fullT s / (usTicks 1 : Int)) :
    kaSend s t port = emit (modTile (modTile s t (fun x => { x with kaSent := tabPut x.kaSent port (fullT s) }))
      (neighbour s t port).1 (fun x => { x with kaSeen := tabPut x.kaSeen (neighbour s t port).2 (eTime s) }))
      (.keepalive t port) := by
  have hlast : Option.map (· / (usTicks 1 : Int)) (tabGet none ((getTile s t).kaSent.map (fun e => (e.1, some e.2))) port)
      ≠ some (fullT s / (usTicks 1 : Int)) := by
    intro e
    obtain ⟨v, hv, hvd⟩ := Option.map_eq_some_iff.1 e
    exact h _ (mem_of_tabGet_some hv) rfl hvd
  simp only [kaSend, hlast, if_false]
  rfl

theorem fabFail_shown (s : State) (t : Nat) :
    t ∈ (fabFail s t).mgt.failedRtrs ∧ rbit (fabFail s t) .mgt 0x020 0 = true ∧ (fabFail s t).tiles = s.tiles
      ∧ (fabFail s t).mem = s.mem ∧ RegsEvents s (fabFail s t) [] := by
  unfold fabFail
  extract_lets mgt s1
  have hev : Events s1 (errStop (isrBit s1 .mgt 0) .mgt (some 3)) [] :=
    (events_isrBit s1 .mgt 0 _ []).trans (events_errStop _ _ _ _)
  have hregs : RegsEvents s s1 [] := fun _ _ _ _ => rfl
  refine ⟨?_, (eventFrame_errStop _ _ _).isrStays (rbit_isrBit s1 .mgt (by decide) _), ?_, ?_, ?_⟩
  · rw [hev.1]
    show t ∈ if t ∈ s.mgt.failedRtrs then s.mgt.failedRtrs else s.mgt.failedRtrs ++ [t]
    split <;> simp [*]
  · rw [hev.1]
  · rw [hev.1]
  · exact fun p o hk he => hev.2.2 p o hk he

/-- Settles O26: the fork buffer takes a header, a branch starts, a credit returns, keep-alives come and fail to come. -/
theorem forksAndCredits : Obligations.ForksAndCredits := by
  unfold Obligations.ForksAndCredits
  intro s t port vc far us
  refine ⟨fun w h hlen hroom => ?_, fun slot bi f b hrun hf hb hst hfin hport hfree hplain hahead hturn => ?_,
    fun hport hcred => ?_, fun hfail hlast => ?_, fun hport hst hst' hdue => ?_⟩
  · refine ⟨_, execForkAccept_takes h hlen hroom, getRin_setRin_same _ _ _ _ _, ?_,
      (onlyTile_modTile _ _ _).trans (onlyTile_setRin _ _ _ _ _), fun _ _ _ => rfl⟩
    simp only [setRin, getTile_modTile_same, forkTake]
  · have hgo := headGo_link hplain (forkIn slot bi) b.vc (f.tl && f.pkt.data.isEmpty)
    have hne : t ≠ (neighbour s t b.port).1 := (neighbour_ne s t b.port).symm
    have hexec : exec (.forkBranchStart t slot bi) s = .next (forkStart s t slot bi) := if_pos hrun
    rw [forkStart_fresh hf hb hst hfin hport hfree hahead hturn, hgo] at hexec
    obtain ⟨hfork, hrin, hregs, hmem⟩ := branchPut_shown
      (setRin (granted s t (forkIn slot bi) b.port b.vc true (f.tl && f.pkt.data.isEmpty) true) (neighbour s t b.port).1
        (neighbour s t b.port).2 b.vc (some { pkt := { reHcrc b.pkt with data := [] }, tl := f.tl && f.pkt.data.isEmpty }))
      t slot bi f { b with started := true, fin := f.tl && f.pkt.data.isEmpty }
    refine ⟨_, hexec, (hrin _ _ _).trans (getRin_setRin_same _ _ _ _ _), ?_, hregs, hmem⟩
    obtain ⟨r, l, htile⟩ := getTile_granted s t (forkIn slot bi) b.port b.vc true (f.tl && f.pkt.data.isEmpty) true
    rw [hfork, setRin, getTile_modTile_ne _ _ _ _ hne, htile]
  · refine ⟨_, if_pos ⟨hport, hcred⟩, getOut_setOut_same _ _ _ _ _, onlyTile_modTile _ _ _, fun _ _ _ => rfl⟩
  · refine ⟨_, (if_neg hfail).trans (congrArg Host.Outcome.next (kaSend_now hlast)), rfl, ?_, rfl, fun k hk hk' => ?_⟩
    · rw [getTile_emit, getTile_modTile_same, tabGet_tabPut_same]
    · rw [getTile_emit, getTile_modTile_ne _ _ _ _ hk', getTile_modTile_ne _ _ _ _ hk]
  · have hpos : 0 < kaDue s t port := Nat.lt_of_lt_of_le (by decide) (Nat.le_add_left _ _)
    refine ⟨_, if_pos ⟨hport, hst, hst'⟩, ?_⟩
    rw [atLeast_of_due hpos hdue]
    exact fabFail_shown s _

/-! ## Routers: a header that fails its check, one for the tile, one for a neighbour, and a data flit -/

theorem events_foldl_mem {α : Type} {s u : State} {ks : List Nat} {l : List α} {f : State → α → State} (h : Events s u ks)
    (hf : ∀ x, ∀ e ∈ l, Events x (f x e) ks) : Events s (l.foldl f u) ks := by
  induction l generalizing u with
  | nil => exact h
  | cons e l ih =>
    exact ih (h.trans (hf u e List.mem_cons_self)) (fun x e' m => hf x e' (List.mem_cons_of_mem _ m))

/-- The words of RTR_HCAP. -/
def hcapKeys (t : Nat) : List Nat := (List.range 8).map (fun k => regKey (.rtr t) (0x200 + 4 * k))

theorem events_hcap (s : State) (t : Nat) (p : Packet) (ks : List Nat) (hk : ∀ k ∈ hcapKeys t, k ∈ ks) :
    Events s (hcap s t p) ks := by
  unfold hcap
  refine events_ite (.refl _ _) (events_foldl_mem (.refl _ _) fun x k m => ?_)
  exact events_putReg _ _ _ _ _ (.inl (hk _ (List.mem_map_of_mem m)))

theorem rawReg_hcap (s : State) (t : Nat) (p : Packet) (o : Nat) (ho : o < 0x200) :
    rawReg (hcap s t p) (.rtr t) o = rawReg s (.rtr t) o := by
  unfold hcap
  split
  · rfl
  · exact rawReg_foldl (fun x k => rawReg_putReg_off _ _ _ _ _ (by omega)) _ _

/-- A router event counts in its field, and leaves beside it the header's words and what events leave. -/
theorem events_rtrEvent (s : State) (t off hi lo isr code sil : Nat) (p : Packet) (ks : List Nat)
    (hoff : regKey (.rtr t) off ∈ ks) (hk : ∀ k ∈ hcapKeys t, k ∈ ks) :
    Events s (rtrEvent s t off hi lo isr code sil p) ks := by
  have k1 := (events_addFld s (.rtr t) off hi lo 1 ks (.inl hoff)).trans (events_hcap _ t p ks hk)
  unfold rtrEvent
  dsimp only
  split
  · split
    · exact k1.trans (events_captureCore _ _ _ _ _ _ _ _ _ _ _)
    · exact k1.trans (events_captureOpen _ _ _ _ _ _ _ _ _ _)
  · split
    · exact (k1.trans (events_captureCore _ _ _ _ _ _ _ _ _ _ _)).trans (events_sillage _ _ _ _ _ _ _ _)
    · exact (k1.trans (events_captureOpen _ _ _ _ _ _ _ _ _ _)).trans (events_sillage _ _ _ _ _ _ _ _)

theorem rfld_rtrEvent (s : State) (t off hi lo isr code sil : Nat) (p : Packet) (ho : off < 0x200) (hq : QuietOff off) :
    rfld (rtrEvent s t off hi lo isr code sil p) (.rtr t) off hi lo = rfld (addFld s (.rtr t) off hi lo 1) (.rtr t) off hi lo := by
  have hcap1 : rfld (hcap (addFld s (.rtr t) off hi lo 1) t p) (.rtr t) off hi lo
      = rfld (addFld s (.rtr t) off hi lo 1) (.rtr t) off hi lo := by simp only [rfld, rawReg_hcap _ _ _ _ ho]
  rw [← hcap1]
  unfold rtrEvent
  dsimp only
  split
  · split
    · exact (eventFrame_captureCore _ _ _ _ _ _ _ _ _ _).rfld _ hq _ _
    · exact (eventFrame_captureOpen _ _ _ _ _ _ _ _ _).rfld _ hq _ _
  · split
    · exact ((eventFrame_captureCore _ _ _ _ _ _ _ _ _ _).trans (eventFrame_sillage _ _ _ _ _ _ _)).rfld _ hq _ _
    · exact ((eventFrame_captureOpen _ _ _ _ _ _ _ _ _).trans (eventFrame_sillage _ _ _ _ _ _ _)).rfld _ hq _ _

theorem rfld_addFld_one (s : State) (p : Page) (off : Nat) :
    rfld (addFld s p off 15 0 1) p off 15 0 = Nat.min (rfld s p off 15 0 + 1) 0xFFFF := by
  rw [addFld, rfld_putFld_same _ _ _ _ _ _ (by decide) (by decide)]
  have := fld_lt (rawReg s p off) 15 0
  simp only [satAdd]
  exact Nat.mod_eq_of_lt (Nat.lt_of_le_of_lt (Nat.min_le_right _ _) (by decide))

theorem router_absorbs {s : State} {t port vc : Nat} {w : Worm} (hrun : rtrRuns s t) (hrin : getRin s t port vc = some w)
    (hhd : w.hd = true) {he : Bool} (pe : List Nat) (hbad : he = true ∨ w.pkt.hcrc ≠ hcrcOf w.pkt) :
    exec (.routerPacket t port vc he pe) s
      = .next (setRin (rtrEvent s t 0x0C0 15 0 0 0x10 0x50 w.pkt) t port vc (headGone w .absorb)) := by
  refine congrArg Host.Outcome.next ?_
  have hb : (he || w.pkt.hcrc != hcrcOf w.pkt) = true := by
    rcases hbad with rfl | h
    · rfl
    · simp [h]
  simp only [routePacket, hrun, hrin, hhd, if_true, Bool.true_eq_false, if_false, headStep, hb]
  rfl

/-- The header of a request for the tile goes to its L port. -/
theorem tileRefuse_none {s : State} {t : Nat} {p : Packet} (hreq : isRsp p = false) (hpart : partOk s t p)
    (hiso : isolated s t = false) : tileRefuse s t p = none := by
  simp only [tileRefuse, hreq, hpart, hiso, Bool.false_eq_true, Bool.true_eq_false, if_false]

/-- A packet of one flit joins the requests of its tile; a longer one holds the port. -/
theorem headGo_tile {s : State} {t : Nat} {p : Packet} (hplain : PlainPort s t 4 p) (hreq : isRsp p = false)
    (hl : (getTile s t).lreq = []) (hpart : partOk s t p) (hiso : isolated s t = false) (hrow : rowAt p) (src v : Nat)
    {last : Bool} (hlast : last = true → p.data = []) :
    (getTile (headGo s t src (.sink 4 v) p last) t).lreq = (if last then [p] else [])
      ∧ (getOut (headGo s t src (.sink 4 v) p last) t 4 v).held = !last
      ∧ OnlyTile s (headGo s t src (.sink 4 v) p last) t ∧ RegsBut s (headGo s t src (.sink 4 v) p last) [] := by
  have hgo : headGo s t src (.sink 4 v) p last = if last then toTile (granted s t src 4 v true last false) t { p with data := [] }
      else modTile (granted s t src 4 v true last false) t
        (fun x => { x with asm := tabPut x.asm (vcKey 4 v) { p with data := [] } }) := by
    simp only [headGo, flitOut_plain hplain, arrive]
  obtain ⟨r, l, htile⟩ := getTile_granted s t src 4 v true last false
  have hout := getOut_granted s t src 4 v true last false
  have honly := onlyTile_granted s t src 4 v true last false
  rw [hgo]
  cases last
  · rw [if_neg (by decide)]
    refine ⟨?_, ?_, honly.trans (onlyTile_modTile _ _ _), fun _ _ _ => rfl⟩
    · simp only [Bool.false_eq_true, if_false, getTile_modTile_same, htile, hl]
    · rw [getOut_modTile _ _ _ rfl, hout]
  · have hp : { p with data := [] } = p := by rw [← hlast rfl]
    have hto : toTile (granted s t src 4 v true true false) t p = modTile (headNow (granted s t src 4 v true true false) t) t
        (fun x => { x with lreq := x.lreq ++ [p] }) := by
      have hnone : tileRefuse (granted s t src 4 v true true false) t p = none := tileRefuse_none hreq hpart hiso
      simp only [toTile, hnone, hreq, hrow, htile, hl, Bool.true_eq_false, Bool.false_eq_true, false_and, if_false, if_true]
    rw [if_pos rfl, hp, hto]
    refine ⟨?_, ?_, (honly.trans (onlyTile_modTile _ _ _)).trans (onlyTile_modTile _ _ _), fun _ _ _ => rfl⟩
    · simp only [getTile_modTile_same, headNow, htile, hl, List.nil_append, if_true]
    · rw [getOut_modTile _ _ _ rfl, headNow, getOut_modTile _ _ _ rfl, hout]

theorem router_toTile {s : State} {t port vc : Nat} {w : Worm} (h : HeadAt s t port vc w) (pe : List Nat)
    (hhops : hopsOf s t port vc w.pkt = [toL w.pkt]) (hreq : isRsp w.pkt = false) (hl : (getTile s t).lreq = [])
    (hpart : partOk s t w.pkt) (hiso : isolated s t = false) (hheld : (getOut s t 4 (vcBase w.pkt)).held = false)
    (hturn : turn s t (vcKey port vc) 4 (vcBase w.pkt)) :
    exec (.routerPacket t port vc false pe) s = .next (setRin
      (headGo s t (vcKey port vc) (.sink 4 (vcBase w.pkt)) w.pkt (oneFlit w)) t port vc
      (headGone w (.sink 4 (vcBase w.pkt)))) := by
  have hto : headTo s t port vc w.pkt = (.sink 4 (vcBase w.pkt), w.pkt) := by simp only [headTo, hhops, toL, hopOut]
  have hready : headReady s t (.sink 4 (vcBase w.pkt)) w.pkt = true := by
    simp only [headReady, hheld, lFree, hl, List.isEmpty_nil, Bool.or_true, Bool.not_false, Bool.and_self]
  rw [routerPacket_head h pe, headStep_ok h]
  simp only [hto, tileRefuse_none hreq hpart hiso, hready, hturn, Bool.and_self, if_true]
  rfl

theorem router_toLink {s : State} {t port vc n v : Nat} {w : Worm} {q : Packet} (h : HeadAt s t port vc w) (pe : List Nat)
    (hn : n < 4) (hhops : hopsOf s t port vc w.pkt = [.port n v q]) (hplain : PlainPort s t n q) (hfree : outFree s t n v)
    (hturn : turn s t (vcKey port vc) n v) :
    exec (.routerPacket t port vc false pe) s = .next (setRin (setRin (granted s t (vcKey port vc) n v true (oneFlit w) true)
      (neighbour s t n).1 (neighbour s t n).2 v (some { pkt := { reHcrc q with data := [] }, tl := oneFlit w }))
      t port vc (headGone w (.link n v))) := by
  have hto : headTo s t port vc w.pkt = (.link n v, q) := by
    simp only [headTo, hhops]
    interval_cases n <;> rfl
  rw [routerPacket_head h pe, headStep_ok h]
  simp only [hto, headReady, hfree, hturn, Bool.and_self, if_true, headGo_link hplain]
  rfl

/-- A data flit in its turn goes behind its header to the neighbour. -/
theorem router_body {s : State} {t port vc n v : Nat} {w d : Worm} {f : Flit} {fs : List Flit} (hrun : rtrRuns s t)
    (hrin : getRin s t port vc = some w) (hhd : w.hd = false) (hout : w.out = some (.link n v)) (hdata : w.pkt.data = f :: fs)
    (hlen : w.pkt.len.toNat ≤ 64) (hseen : 0 < w.seen) (hcred : (getOut s t n v).credits ≠ 0)
    (hcnt : rbit s (.rtr t) 0x060 0 = false) (hturn : turn s t (vcKey port vc) n v)
    (hfar : getRin s (neighbour s t n).1 (neighbour s t n).2 v = some d) :
    ∃ x, exec (.routerPacket t port vc false []) s = .next (setRin
      (setRin (granted s t (vcKey port vc) n v false (w.tl && fs.isEmpty && w.rest.isEmpty) true)
        (neighbour s t n).1 (neighbour s t n).2 v (some { d with
          pkt := { d.pkt with data := d.pkt.data ++ [f] }, tl := w.tl && fs.isEmpty && w.rest.isEmpty })) t port vc x) := by
  have hl : decide (64 < w.pkt.len.toNat) = false := decide_eq_false (by omega)
  have hs : (w.seen == 0) = false := beq_eq_false_iff_ne.2 (by omega)
  have hflit : flitOut s t n w.pkt [f] false = s := by
    simp only [flitOut, hcnt, Bool.false_and, Bool.false_eq_true, if_false]
  have hgo : bodyGo s t (vcKey port vc) (.link n v) w.pkt f false (w.tl && fs.isEmpty && w.rest.isEmpty)
      = setRin (granted s t (vcKey port vc) n v false (w.tl && fs.isEmpty && w.rest.isEmpty) true)
        (neighbour s t n).1 (neighbour s t n).2 v (some { d with
          pkt := { d.pkt with data := d.pkt.data ++ [f] }, tl := w.tl && fs.isEmpty && w.rest.isEmpty }) := by
    simp only [bodyGo, hflit, getRin_granted, hfar]
  have hstep : bodyStep s t port vc w [] = setRin
      (bodyGo s t (vcKey port vc) (.link n v) w.pkt f false (w.tl && fs.isEmpty && w.rest.isEmpty)) t port vc
      (if w.tl && fs.isEmpty && w.rest.isEmpty then none
       else some (Worm.fill { w with pkt := { w.pkt with data := fs }, seen := w.seen + 1 })) := by
    have hready : bodyReady s t (.link n v) = true := by simpa [bodyReady] using hcred
    simp only [bodyStep, hdata, hl, hout, Option.getD_some, hready, hturn, hs, List.not_mem_nil, decide_false, Bool.or_false,
      Bool.false_and, Bool.and_self, if_true, if_false, Bool.false_eq_true]
  refine ⟨if w.tl && fs.isEmpty && w.rest.isEmpty then none
      else some (Worm.fill { w with pkt := { w.pkt with data := fs }, seen := w.seen + 1 }),
    congrArg Host.Outcome.next ?_⟩
  rw [routePacket, if_neg (by simp [hrun]), hrin]
  show (if w.hd then headStep s t port vc w false else bodyStep s t port vc w []) = _
  rw [if_neg (by simp [hhd]), hstep, hgo]

/-! ## Injection, and the junctions of absent sites -/

/-- The packet that the router of tile t makes of one that its tile injects. -/
def injected (s : State) (t : Nat) (p : Packet) : Packet :=
  { fillDirs s (tileX t) (tileY t) p with
    spart := BitVec.ofNat 4 (rfld s (.til t) 0x080 3 0), psel := rfld s (.rtr t) 0x080 1 0 }

/-- The tile whose one answer has gone to its router. -/
def outTaken (s : State) (t : Nat) (p : Packet) : State :=
  noteLease (modTile s t (fun x => { x with out := takeOut x.out p })) t p

theorem outTaken_shown {s : State} {t : Nat} {p : Packet} (h : (getTile s t).out = [p]) :
    (getTile (outTaken s t p) t).out = [] ∧ (getTile (outTaken s t p) t).lrsp = (getTile s t).lrsp
      ∧ OnlyTile s (outTaken s t p) t ∧ (outTaken s t p).regs = s.regs := by
  have hnil : takeOut [p] p = [] := by simp [takeOut, dropFirst]
  unfold outTaken noteLease
  split
  · exact ⟨by rw [getTile_modTile_same, h, hnil], by rw [getTile_modTile_same], onlyTile_modTile _ _ _, rfl⟩
  · refine ⟨by rw [getTile_modTile_same, getTile_modTile_same, h, hnil], by rw [getTile_modTile_same, getTile_modTile_same],
      (onlyTile_modTile _ _ _).trans (onlyTile_modTile _ _ _), rfl⟩

theorem firstOf_single {p : Packet} {ok : Packet → Bool} (h : ok p = true) : firstOf [p] ok = some p := by
  unfold firstOf
  cases hr : isRsp p <;> simp [hr, h]

theorem exec_injectPacket_single {s : State} {t : Nat} {p : Packet} (h : (getTile s t).out = [p])
    (hfree : portFree s t (vcBase p)) (hgate : gReached s (.mov t) = false) :
    exec (.injectPacket (.tile t)) s = .next (injectTile (outTaken s t p) t p) := by
  refine congrArg Host.Outcome.next ?_
  have hdue : gDue s (.mov t) = s := by simp only [gDue, hgate, Bool.false_eq_true, if_false]
  have hfirst : firstOf [p] (fun q => portFree s t (vcBase q)) = some p := firstOf_single hfree
  simp only [injectAt, injectL, hdue, h, hfirst, outTaken]

theorem injectTile_good {s : State} {t : Nat} {p : Packet} (h : injectBad s (injected s t p) = false) :
    injectTile s t p = setRin s t 4 (vcBase p) (some (wormOf (reHcrc (injected s t p)))) := by
  rw [injected] at h
  simp only [injectTile, h, Bool.false_eq_true, if_false, injected]

theorem injectTile_bad {s : State} {t : Nat} {p : Packet} (h : injectBad s (injected s t p) = true) :
    injectTile s t p = modTile s t (fun x => { x with lrsp := x.lrsp ++ [injectNak (injected s t p)] }) := by
  rw [injected] at h
  simp only [injectTile, h, if_true, injected]

theorem hdrTop_hcrc (p : Packet) (h : Half) : hdrTop { p with hcrc := h } = hdrTop p := rfl

theorem hcrc_reHcrc (p : Packet) : (reHcrc p).hcrc = hcrcOf (reHcrc p) := by
  have htop : hdrTop (reHcrc p) = hdrTop p := by rw [reHcrc, hdrTop_hcrc]
  have h : hcrcOf (reHcrc p) = hcrcOf p := by simp only [hcrcOf, htop]
  rw [h, reHcrc]

/-- A request for a tile of the package is in form. -/
theorem injectBad_tile {s : State} {p : Packet} (hkind : nodeKind p.dst = 0) (hpkg : nodePkg p.dst = ownPkg s)
    (hx : nodeX p.dst < gridX s) (hy : nodeY p.dst < gridY s) (hmc : p.mc = false) : injectBad s p = false := by
  simp only [injectBad, nodeForm, nodeBad, hkind, hpkg, hmc, Bool.false_and, Bool.or_false, beq_self_eq_true,
    Bool.and_true, Nat.not_le.2 hx, Nat.not_le.2 hy, decide_false, Bool.and_false]

theorem injectBad_rsp {s : State} {p : Packet} (h : isRsp p = true) : injectBad s p = false := by
  simp only [injectBad, h, Bool.not_true, Bool.false_and]

theorem injectBad_kind {s : State} {p : Packet} (h : isRsp p = false) (hkind : nodeKind p.dst = 3) : injectBad s p = true := by
  simp only [injectBad, h, nodeForm, hkind, Bool.not_false, Bool.true_or, Bool.and_self]

theorem rfld_of_regs {s u : State} (h : u.regs = s.regs) (hf : u.fuses = s.fuses) (p : Page) (o hi lo : Nat) :
    rfld u p o hi lo = rfld s p o hi lo := by simp only [rfld, rawReg_congr h hf]

theorem getDie_modDie_ne (s : State) {d k : Nat} (f : Die → Die) (h : k ≠ d) : getDie (modDie s d f) k = getDie s k := by
  simp [getDie, modDie, h]

/-- The junction takes the request at the head for an absent IOE, and answers it where the request came from. -/
theorem ioeAbsent_head {s : State} {p : Packet} {rest : List Packet} {y : Nat} (hreq : (getDie s 1).req = p :: rest)
    (hfit : dieFitted s 1 = false) (hy : nodeY (if nodePkg p.src = ownPkg s then p.src else p.dst) = y) :
    ∃ z, exec (.ioeAbsentRequest y) s = .next (if p.opc = opTRACE then z
        else if nodePkg p.src = ownPkg s then modDie z 1 (fun d => { d with out := d.out ++ [nakPkt p.dst p nkOFF] })
        else modDie z 0 (fun d => { d with osw := d.osw ++ [{ pkt := nakPkt p.dst p nkOFF }] }))
      ∧ getDie z 1 = { getDie s 1 with req := rest } ∧ getDie z 0 = getDie s 0 ∧ RegsBut s z [] ∧ z.mem = s.mem := by
  have hmine : (nodeY (if nodePkg p.src = ownPkg s then p.src else p.dst) == y) = true := by simp [hy]
  refine ⟨modDie s 1 (fun d => { d with
    req := dropFirst (fun p => nodeY (if nodePkg p.src = ownPkg s then p.src else p.dst) == y) d.req }), ?_, ?_,
    getDie_modDie_ne _ _ (by decide), fun _ _ _ => rfl, rfl⟩
  · show execIoeAbsentRequest y s = _
    simp only [execIoeAbsentRequest, hreq, List.find?_cons_of_pos (p := fun p : Packet =>
      nodeY (if nodePkg p.src = ownPkg s then p.src else p.dst) == y) hmine, hfit, Bool.false_eq_true, if_false]
  · rw [getDie_modDie_same, hreq]
    simp only [dropFirst, hmine, if_true]

/-- Settles O25: the routers clause by clause, then injection, then the junctions. -/
theorem fabricMovesPackets : Obligations.FabricMovesPackets := by
  unfold Obligations.FabricMovesPackets
  refine ⟨fun s t port vc w => ⟨fun hrun hrin hhd he pe hbad => ?_, fun pe h hhops hplain hreq hl hpart hiso hrow hheld hturn => ?_,
    fun n v q pe h hn hhops hplain hfree hahead hturn => ?_,
    fun n v f fs d hrun hrin hhd hn hout hdata hlen hseen hcred hcnt hturn => ?_⟩, fun s t p rest => ⟨fun hout hfree hgate => ?_,
    fun x e hreq hpop hop => ?_, fun hreq hfit hpkg => ?_, fun hreq hfit hpkg hop => ?_⟩⟩
  · refine ⟨_, router_absorbs hrun hrin hhd pe hbad, getRin_setRin_same _ _ _ _ _, ?_, ?_⟩
    · exact (rfld_rtrEvent s t 0x0C0 15 0 0 0x10 0x50 w.pkt (by decide) (by simp [QuietOff, eventOffs])).trans
        (rfld_addFld_one _ _ _)
    · exact (events_rtrEvent s t 0x0C0 15 0 0 0x10 0x50 w.pkt (regKey (.rtr t) 0x0C0 :: hcapKeys t) List.mem_cons_self
        (fun _ => List.mem_cons_of_mem _)).tile t |>.trans
        (tileEvents_of (onlyTile_setRin _ _ _ _ _) (fun _ _ _ => rfl))
  · obtain ⟨hlreq, hhold, honly, hregs⟩ := headGo_tile hplain hreq hl hpart hiso hrow (vcKey port vc) (vcBase w.pkt)
      (last := oneFlit w) (fun h1 => by simp only [oneFlit, Bool.and_eq_true, List.isEmpty_iff] at h1; exact h1.1.2)
    refine ⟨_, router_toTile h pe hhops hreq hl hpart hiso hheld hturn, getRin_setRin_same _ _ _ _ _, ?_, ?_,
      honly.trans (onlyTile_setRin _ _ _ _ _), hregs⟩
    · rw [setRin, getTile_modTile_same]; exact hlreq
    · rw [getOut_setRin]; exact hhold
  · have hne := neighbour_ne s t n
    refine ⟨_, router_toLink h pe hn hhops hplain hfree hturn, getRin_setRin_same _ _ _ _ _, ?_, ?_, fun _ _ _ => rfl, rfl⟩
    · rw [getRin_setRin_tile _ hne, getRin_setRin_same]
    · rw [getOut_setRin, getOut_setRin, getOut_granted, if_pos rfl, if_pos rfl]
  · intro far hfar
    have hne := neighbour_ne s t n
    obtain ⟨x, hx⟩ := router_body hrun hrin hhd hout hdata hlen hseen hcred hcnt hturn hfar
    refine ⟨_, hx, ?_, ?_, fun _ _ _ => rfl, rfl⟩
    · rw [getRin_setRin_tile _ hne, getRin_setRin_same]
    · rw [getOut_setRin, getOut_setRin, getOut_granted, if_pos rfl]; dsimp only; omega
  · obtain ⟨hnil, hlrsp, honly, hregs⟩ := outTaken_shown hout
    have hexec := exec_injectPacket_single hout hfree hgate
    have hfuses : (outTaken s t p).fuses = s.fuses := by rw [honly.1]
    refine ⟨fun hgood => ?_, fun hreq hkind => ?_⟩
    · have hbad : injectBad (outTaken s t p) (injected (outTaken s t p) t p) = false := by
        rcases hgood with hr | ⟨hkind, hpkg, hx, hy, hmc⟩
        · exact injectBad_rsp hr
        · have hrf := rfld_of_regs hregs hfuses
          exact injectBad_tile hkind (by rw [ownPkg, hrf]; exact hpkg) (by rw [gridX, rbit, hrf]; exact hx)
            (by rw [gridY, rbit, hrf]; exact hy) hmc
      rw [injectTile_good hbad] at hexec
      refine ⟨_, _, hexec, ?_, getRin_setRin_same _ _ _ _ _, hcrc_reHcrc _, ?_, ?_, rfl, honly.trans (onlyTile_setRin _ _ _ _ _),
        fun p o _ => rawReg_congr hregs hfuses p o⟩
      · rw [setRin, getTile_modTile_same]; exact hnil
      · show (BitVec.ofNat 4 (rfld (outTaken s t p) (.til t) 0x080 3 0)).toNat = _
        rw [rfld_of_regs hregs hfuses, BitVec.toNat_ofNat]
        exact Nat.mod_eq_of_lt (fld_lt _ 3 0)
      · exact rfld_of_regs hregs hfuses _ _ _ _
    · rw [injectTile_bad (injectBad_kind hreq hkind)] at hexec
      refine ⟨_, injectNak (injected (outTaken s t p) t p), hexec, ?_, ?_, rfl, rfl, rfl, rfl, honly.trans (onlyTile_modTile _ _ _),
        fun p o _ => rawReg_congr hregs hfuses p o⟩
      · rw [getTile_modTile_same]; exact hnil
      · rw [getTile_modTile_same]; exact congrArg (· ++ _) hlrsp
  · refine ⟨modEdge s x e (fun g => { g with req := rest, out := g.out ++ [nakPkt p.dst p nkOFF] }), ?_, ?_, ?_,
      fun _ _ _ => rfl, rfl⟩
    · show execEdgeAbsentRequest x e s = _
      simp only [execEdgeAbsentRequest, hreq, hpop, hop, Bool.false_eq_true, if_false]
    · rw [getEdge_modEdge_same]
    · rw [getEdge_modEdge_same]
  · obtain ⟨z, hexec, hz, -, hregs, hmem⟩ := ioeAbsent_head hreq hfit (y := nodeY p.src) (by rw [if_pos hpkg])
    by_cases hop : p.opc = opTRACE
    · rw [if_pos hop] at hexec
      exact ⟨_, hexec, by rw [hz], by rw [hz, if_pos hop, List.append_nil], hregs, hmem⟩
    · rw [if_neg hop, if_pos hpkg] at hexec
      refine ⟨_, hexec, ?_, ?_, hregs, hmem⟩
      · rw [getDie_modDie_same, hz]
      · rw [getDie_modDie_same, hz, if_neg hop]
  · obtain ⟨z, hexec, hz, hz0, hregs, hmem⟩ := ioeAbsent_head hreq hfit (y := nodeY p.dst) (by rw [if_neg hpkg])
    rw [if_neg hop, if_neg hpkg] at hexec
    refine ⟨_, hexec, ?_, ?_, hregs, hmem⟩
    · rw [getDie_modDie_ne _ _ (by decide), hz]
    · rw [getDie_modDie_same, hz0]

end Sys2Proof.Machine
end

section
/-! PROOFS. JMP and BR at issue (sections 4.5 and 4.6). -/

namespace Sys2Proof.Machine

/-- A context goes on at `pc`, in RUN, with the registers `ks` written besides its status. -/
structure Steered (s u : State) (t lc pc : Nat) (ks : List Nat) : Prop where
  pc : rfld u (.seq t) (lcStat lc) 26 16 = pc % 2 ^ 11
  run : lcState u t lc = 1
  regs : RegsBut s u (regKey (.seq t) (lcStat lc) :: ks)
  tile : OnlyTile s u t

theorem Steered.tileWritten {s u : State} {t lc pc : Nat} {ks : List Nat} (h : Steered s u t lc pc ks) (f : Tile → Tile) :
    Steered s (modTile u t f) t lc pc ks := ⟨h.pc, h.run, h.regs, h.tile.trans (onlyTile_modTile u t f)⟩

theorem Steered.ctxWritten {s u : State} {t lc pc : Nat} {ks : List Nat} (h : Steered s u t lc pc ks) (f : Ctx → Ctx) :
    Steered s (modCtx u t lc f) t lc pc ks := h.tileWritten _

theorem Steered.regWritten {s u : State} {t lc pc o : Nat} {ks : List Nat} (h : Steered s u t lc pc ks) (ho : o ≠ lcStat lc)
    (hk : regKey (.seq t) o ∈ ks) (v : Word) : Steered s (putReg u (.seq t) o v) t lc pc ks := by
  have hstat : rawReg (putReg u (.seq t) o v) (.seq t) (lcStat lc) = rawReg u (.seq t) (lcStat lc) :=
    rawReg_putReg_ne _ _ _ _ _ _ (by rw [Ne, regKey_inj]; exact ho.symm)
  refine ⟨?_, ?_, h.regs.trans (regsBut_putReg _ _ _ _ _ (List.mem_cons_of_mem _ hk)), h.tile.trans (onlyTile_putReg _ _ _ _ _)⟩
  · rw [rfld, hstat]; exact h.pc
  · rw [lcState, rfld, hstat]; exact h.run

/-- The counters of branches that have resolved. -/
theorem Steered.counted {s u : State} {t lc pc o : Nat} {ks : List Nat} (h : Steered s u t lc pc ks) (n : Nat)
    (ho : o = 0x094 ∨ o = 0x098) (hk : regKey (.seq t) o ∈ ks) : Steered s (seqCount u t o n) t lc pc ks := by
  unfold seqCount workCount
  split
  · split
    · exact h
    · exact h.regWritten (by unfold lcStat; omega) hk _
  · exact h

theorem Steered.countBrs {s u : State} {t lc pc : Nat} {ks : List Nat} (h : Steered s u t lc pc ks)
    (hk : ∀ o, o = 0x094 ∨ o = 0x098 → regKey (.seq t) o ∈ ks) (n : Nat) : Steered s (countBrs u t lc n) t lc pc ks := by
  induction n generalizing u with
  | zero => exact h
  | succ n ih =>
    unfold Machine.countBrs
    split
    · next rest _ =>
      split
      · have h1 := (h.ctxWritten (fun c => { c with brs := rest })).counted 1 (.inl rfl) (hk _ (.inl rfl))
        dsimp only
        split
        · exact ih (h1.counted 1 (.inr rfl) (hk _ (.inr rfl)))
        · exact ih h1
      · exact h
    · exact h

/-- Where issue goes on after a branch with a direction (Table 4.4). -/
def branchPc (w : CmdWord) (taken : Bool) (pc : Nat) : Nat :=
  if taken then (if cwOpc w = 2 ∧ cwA w then cwTarget w else pc + 1) else if cwA w then pc + 2 else pc + 1

theorem lcSetPc_steered {s u : State} {t lc : Nat} {ks : List Nat} (hrun : lcState u t lc = 1)
    (hregs : RegsBut s u (regKey (.seq t) (lcStat lc) :: ks)) (htile : OnlyTile s u t) (pc : Nat) :
    Steered s (lcSetPc u t lc pc) t lc pc ks where
  pc := rfld_putFld_same _ _ _ _ _ _ (by decide) (by decide)
  run := (rfld_putFld_ne _ _ _ _ _ _ _ _ (by decide) (by decide) (by decide) (by decide)).trans hrun
  regs := hregs.trans ((regsBut_of_regs (u := modCtx u t lc _) _ rfl rfl).trans (regsBut_putFld _ _ _ _ _ _ _ List.mem_cons_self))
  tile := htile.trans (onlyTile_lcSetPc u t lc pc)

theorem passBranch_steered {s u : State} {t lc : Nat} {ks : List Nat} (w : CmdWord) (taken : Bool) (hrun : lcState u t lc = 1)
    (hregs : RegsBut s u (regKey (.seq t) (lcStat lc) :: ks)) (htile : OnlyTile s u t) :
    Steered s (passBranch u t lc w taken) t lc (branchPc w taken (getCtx u t lc).pc) ks := by
  have set (f : Ctx → Ctx) (pc : Nat) : Steered s (lcSetPc (modCtx u t lc f) t lc pc) t lc pc ks :=
    lcSetPc_steered (u := modCtx u t lc f) hrun hregs (htile.trans (onlyTile_modCtx _ _ _ _)) pc
  have set2 (f g : Ctx → Ctx) (pc : Nat) : Steered s (lcSetPc (modCtx (modCtx u t lc f) t lc g) t lc pc) t lc pc ks :=
    lcSetPc_steered (u := modCtx (modCtx u t lc f) t lc g) hrun hregs ((htile.trans (onlyTile_modCtx _ _ _ _)).trans (onlyTile_modCtx _ _ _ _)) pc
  unfold passBranch branchPc
  simp only [beq_iff_eq]
  split
  · split
    · exact set _ _
    · exact set2 _ _ _
  · split
    · exact set _ _
    · exact set2 _ _ _

/-! ## Issue -/

theorem pc_noteTags (s : State) (t lc : Nat) (w : CmdWord) : (getCtx (noteTags s t lc w) t lc).pc = (getCtx s t lc).pc
    ∧ (getCtx (noteTags s t lc w) t lc).sn = (getCtx s t lc).sn := by
  by_cases h : lc < (getTile s t).ctx.length
  · simp [noteTags, getCtx, modCtx, listMod, List.getElem?_eq_getElem h]
  · simp [noteTags, getCtx, modCtx, listMod, List.getElem?_eq_none (Nat.not_lt.1 h)]

theorem condFinal_noteTags (s : State) (t lc : Nat) (w : CmdWord) (sn cond sel : Nat) :
    condFinal (noteTags s t lc w) t lc sn cond sel = condFinal s t lc sn cond sel := by
  have : ctxWords (getTile (noteTags s t lc w) t) lc sn = ctxWords (getTile s t) lc sn := by
    simp only [noteTags, modCtx, getTile_modTile_same]; rfl
  simp only [condFinal, this]

theorem predict_noteTags (s : State) (t lc : Nat) (w : CmdWord) (idx target : Nat) :
    (predict (noteTags s t lc w) t idx target).1 = (predict s t idx target).1 := by
  have : predGet (noteTags s t lc w) t idx = predGet s t idx := by
    simp only [predGet, noteTags, modCtx, getTile_modTile_same]
  simp only [predict, this]
  split
  · split <;> rfl
  · rfl

/-- The prediction table alone changes. -/
theorem predict_state (s : State) (t idx target : Nat) :
    (predict s t idx target).2 = s ∨
      ∃ f : Tile → Tab PredEntry, (predict s t idx target).2 = modTile s t (fun x => { x with pred := f x }) := by
  unfold predict
  split
  · split
    · exact .inl rfl
    · exact .inr ⟨fun x => tabPut x.pred (idx % 64) _, rfl⟩
  · exact .inr ⟨fun x => tabPut x.pred (idx % 64) _, rfl⟩

/-- A BR whose condition is final at issue. -/
theorem issueBr_final {s : State} {t lc : Nat} {w : CmdWord}
    (hf : condFinal s t lc (getCtx s t lc).sn (cwBits w 68 66) (cwBits w 65 60) = true) :
    ∃ f n, issueBr s t lc w = countBrs (modCtx (passBranch
      (if cwBits w 68 66 = 1 then loopDec s t lc (cwBits w 65 60) else s) t lc w
      (condTaken (if cwBits w 68 66 = 1 then loopDec s t lc (cwBits w 65 60) else s) t lc (cwBits w 68 66) (cwBits w 65 60)
        (cwBits w 59 57) (BitVec.ofNat 32 (cwBits w 31 0)))) t lc f) t lc n :=
  ⟨fun c => { c with brs := c.brs ++ [_] }, _, by simp only [issueBr, hf, if_true]; rfl⟩

/-- A BR that goes on as predicted. -/
theorem issueBr_predicted {s : State} {t lc : Nat} {w : CmdWord}
    (hf : condFinal s t lc (getCtx s t lc).sn (cwBits w 68 66) (cwBits w 65 60) = false) :
    ∃ f, issueBr s t lc w = modCtx (passBranch
      (if cwP w then s else (predict s t (getCtx s t lc).pc (cwTarget w)).2) t lc w
      (if cwP w then decide (cwTarget w ≤ (getCtx s t lc).pc) else (predict s t (getCtx s t lc).pc (cwTarget w)).1)) t lc f := by
  simp only [issueBr, hf, Bool.false_eq_true, if_false]
  cases cwP w
  · exact ⟨_, rfl⟩
  · exact ⟨_, rfl⟩

/-- A source of a BR on a loop counter is one of the eight (R156). -/
theorem Issues.loop_lt {s : State} {t lc : Nat} {w : CmdWord} (h : Issues s t lc w) (he : cwEng w = 0) (ho : cwOpc w = 3)
    (hc : cwBits w 68 66 = 1) : cwBits w 65 60 < 8 := by
  obtain ⟨-, hw, hf, -⟩ := h
  by_contra hsel
  have hbad : cwBad w = true := by simp [cwBad, he, seqCodesBad, ho, hc, show 7 < cwBits w 65 60 by omega]
  simp only [issueFault, hw, hbad, or_true, if_true] at hf
  split at hf <;> cases hf

theorem exec_jmp_issued {s : State} {t lc : Nat} {w : CmdWord} (h : Issues s t lc w) (he : cwEng w = 0) (ho : cwOpc w = 2) :
    exec (.jmp t) s = .next (payPenalty (passBranch (noteTags s t lc w) t lc w true) t) :=
  (congrArg Host.Outcome.next (issueRow_of_opc h he ho)).trans (by simp only [issueSeq, ho])

theorem exec_br_issued {s : State} {t lc : Nat} {w : CmdWord} (h : Issues s t lc w) (he : cwEng w = 0) (ho : cwOpc w = 3) :
    exec (.br t) s = .next (payPenalty (issueBr (noteTags s t lc w) t lc w) t) :=
  (congrArg Host.Outcome.next (issueRow_of_opc h he ho)).trans (by simp only [issueSeq, ho])

theorem Issues.tagged {s : State} {t lc : Nat} {w : CmdWord} (h : Issues s t lc w) :
    lcState (noteTags s t lc w) t lc = 1 := by
  obtain ⟨-, -, -, -, hrun⟩ := h.facts
  exact (lcState_noteTags _ _ _ _ _ _).trans hrun

theorem Steered.paid {s u : State} {t lc pc : Nat} {ks : List Nat} (h : Steered s u t lc pc ks) :
    Steered s (payPenalty u t) t lc pc ks := h.tileWritten _

/-- The state of the tags, with the loop counter of a BR on it counted down (R178). -/
def loopTried (s : State) (t lc : Nat) (w : CmdWord) : State :=
  if cwBits w 68 66 = 1 then loopDec (noteTags s t lc w) t lc (cwBits w 65 60) else noteTags s t lc w

/-- The registers that a BR on a loop counter writes besides those of every BR. -/
def loopKeys (t lc : Nat) (w : CmdWord) : List Nat :=
  if cwBits w 68 66 = 1 then [regKey (.seq t) (0x110 + 0x40 * lc + 4 * cwBits w 65 60)] else []

theorem loopTried_frame (s : State) (t lc : Nat) (w : CmdWord) :
    RegsBut s (loopTried s t lc w) (loopKeys t lc w) ∧ OnlyTile s (loopTried s t lc w) t
      ∧ getCtx (loopTried s t lc w) t lc = getCtx (noteTags s t lc w) t lc := by
  unfold loopTried loopKeys
  split
  · exact ⟨regsBut_putReg (noteTags s t lc w) _ _ _ _ List.mem_cons_self,
      (onlyTile_noteTags s t lc w).trans (onlyTile_putReg _ _ _ _ _), rfl⟩
  · exact ⟨fun _ _ _ => rfl, onlyTile_noteTags s t lc w, rfl⟩

theorem Issues.loopTried_run {s : State} {t lc : Nat} {w : CmdWord} (h : Issues s t lc w) (he : cwEng w = 0)
    (ho : cwOpc w = 3) : lcState (loopTried s t lc w) t lc = 1 := by
  unfold loopTried
  split
  · next hc =>
    have hne := loopOff_ne_lcStat lc _ (h.loop_lt he ho hc)
    rw [← h.tagged, lcState, lcState, loopDec, rfld, rfld, rawReg_putReg_off _ _ _ _ _ hne.symm]
  · exact h.tagged

/-- A BR whose condition is final goes the way of its condition, and its branch is counted. -/
theorem br_final {s : State} {t lc : Nat} {w : CmdWord} (h : Issues s t lc w) (he : cwEng w = 0) (ho : cwOpc w = 3)
    (hf : condFinal s t lc (getCtx s t lc).sn (cwBits w 68 66) (cwBits w 65 60) = true) :
    ∃ u, exec (.br t) s = .next u
      ∧ Steered (loopTried s t lc w) u t lc (branchPc w (condTaken (loopTried s t lc w) t lc (cwBits w 68 66) (cwBits w 65 60)
          (cwBits w 59 57) (BitVec.ofNat 32 (cwBits w 31 0))) (getCtx s t lc).pc) ([0x094, 0x098].map (regKey (.seq t))) := by
  obtain ⟨hpc, hsn⟩ := pc_noteTags s t lc w
  obtain ⟨f, n, hbr⟩ := issueBr_final (s := noteTags s t lc w) (t := t) (lc := lc) (w := w)
    (by rw [hsn, condFinal_noteTags]; exact hf)
  obtain ⟨-, -, hctx⟩ := loopTried_frame s t lc w
  have hp := passBranch_steered (s := loopTried s t lc w) (u := loopTried s t lc w) (t := t) (lc := lc)
    (ks := [0x094, 0x098].map (regKey (.seq t))) w
    (condTaken (loopTried s t lc w) t lc (cwBits w 68 66) (cwBits w 65 60) (cwBits w 59 57)
      (BitVec.ofNat 32 (cwBits w 31 0))) (h.loopTried_run he ho) (.refl _ _) (.refl _ _)
  rw [hctx, hpc] at hp
  refine ⟨_, exec_br_issued h he ho, ?_⟩
  rw [hbr]
  exact ((hp.ctxWritten f).countBrs (by rintro o (rfl | rfl) <;> simp) n).paid

/-- A BR whose condition is not final goes on as predicted, and its branch waits. -/
theorem br_predicted {s : State} {t lc : Nat} {w : CmdWord} (h : Issues s t lc w) (he : cwEng w = 0) (ho : cwOpc w = 3)
    (hf : condFinal s t lc (getCtx s t lc).sn (cwBits w 68 66) (cwBits w 65 60) = false) :
    ∃ u, exec (.br t) s = .next u ∧ Steered s u t lc (branchPc w (if cwP w then decide (cwTarget w ≤ (getCtx s t lc).pc)
      else (predict s t (getCtx s t lc).pc (cwTarget w)).1) (getCtx s t lc).pc) [] := by
  obtain ⟨hpc, hsn⟩ := pc_noteTags s t lc w
  obtain ⟨f, hbr⟩ := issueBr_predicted (s := noteTags s t lc w) (t := t) (lc := lc) (w := w)
    (by rw [hsn, condFinal_noteTags]; exact hf)
  rw [hpc, predict_noteTags] at hbr
  have hnote := onlyTile_noteTags s t lc w
  refine ⟨_, exec_br_issued h he ho, ?_⟩
  rw [hbr]
  refine (Steered.ctxWritten ?_ f).paid
  split
  · have hp := passBranch_steered (s := s) (ks := []) w (decide (cwTarget w ≤ (getCtx s t lc).pc)) h.tagged (fun _ _ _ => rfl) hnote
    rwa [hpc] at hp
  · rcases predict_state (noteTags s t lc w) t (getCtx s t lc).pc (cwTarget w) with hs | ⟨g, hs⟩
    · have hp := passBranch_steered (s := s) (ks := []) w (predict s t (getCtx s t lc).pc (cwTarget w)).1 h.tagged
        (fun _ _ _ => rfl) hnote
      rw [hs]; rwa [hpc] at hp
    · have hctx : getCtx (modTile (noteTags s t lc w) t (fun x => { x with pred := g x })) t lc
          = getCtx (noteTags s t lc w) t lc := by simp only [getCtx, getTile_modTile_same]
      have hp := passBranch_steered (s := s) (u := modTile (noteTags s t lc w) t (fun x => { x with pred := g x })) (ks := []) w
        (predict s t (getCtx s t lc).pc (cwTarget w)).1 h.tagged (fun _ _ _ => rfl) (hnote.trans (onlyTile_modTile _ _ _))
      rw [hs]; rwa [hctx, hpc] at hp

theorem branchPc_br {w : CmdWord} (ho : cwOpc w = 3) (taken : Bool) (pc : Nat) :
    branchPc w taken pc = if taken || !cwA w then pc + 1 else pc + 2 := by
  cases taken <;> cases ha : cwA w <;> simp [branchPc, ho, ha]

/-- Settles O14: the three ways of Table 4.4, with the counters of a branch that is decided at issue. -/
theorem branchesSteerIssue : Obligations.BranchesSteerIssue := by
  unfold Obligations.BranchesSteerIssue
  intro s t lc w h he pc cond sel shown loop
  refine ⟨fun ho => ?_, fun ho hf => ?_, fun ho hf => ?_⟩
  · have hp := (passBranch_steered (s := s) (ks := []) w true h.tagged (fun _ _ _ => rfl) (onlyTile_noteTags s t lc w)).paid
    rw [(pc_noteTags s t lc w).1, branchPc, if_pos rfl] at hp
    refine ⟨_, exec_jmp_issued h he ho, ?_, hp.run, hp.regs, hp.tile⟩
    show rfld _ _ _ _ _ = _
    rw [hp.pc]; simp only [ho, true_and]; rfl
  · intro s0 taken
    obtain ⟨u, hu, hp⟩ := br_final h he ho hf
    obtain ⟨hregs, htile, -⟩ := loopTried_frame s t lc w
    have htaken : condTaken (loopTried s t lc w) t lc (cwBits w 68 66) (cwBits w 65 60) (cwBits w 59 57)
        (BitVec.ofNat 32 (cwBits w 31 0)) = taken := by
      unfold loopTried
      show _ = condTaken (if _ then _ else _) _ _ _ _ _ _
      split <;> rfl
    rw [htaken, branchPc_br ho] at hp
    refine ⟨u, hu, hp.pc, fun hc => ?_, hp.run, ?_, htile.trans hp.tile⟩
    · have hsel := h.loop_lt he ho hc
      have hloop : rawReg u (.seq t) loop = rawReg (loopTried s t lc w) (.seq t) loop := by
        refine hp.regs _ _ ?_
        simp only [List.mem_cons, List.map_cons, List.map_nil, List.not_mem_nil, or_false, regKey_inj]
        simp only [loop, sel, lcStat]; omega
      rw [hloop, loopTried, if_pos hc]
      exact rawReg_putReg_same _ _ _ _
    · refine (hregs.weaken fun k hk => ?_).trans (hp.regs.weaken fun k hk => ?_)
      · simp only [loopKeys] at hk; exact List.mem_append_right _ hk
      · refine List.mem_append_left _ ?_
        simp only [List.map_cons, List.map_nil, List.mem_cons, List.not_mem_nil, or_false] at hk ⊢
        rcases hk with rfl | rfl | rfl
        · exact .inr (.inr rfl)
        · exact .inl rfl
        · exact .inr (.inl rfl)
  · obtain ⟨u, hu, hp⟩ := br_predicted h he ho hf
    rw [branchPc_br ho] at hp
    exact ⟨u, hu, hp.pc, hp.run, hp.regs, hp.tile⟩

end Sys2Proof.Machine
end

section
/-! PROOFS. A HDR in a list, the end of a drain, and the decision on a LOAD (sections 4.2, 4.8, 4.9). -/

namespace Sys2Proof.Machine

theorem quietOff_of_le {o : Nat} (h : 0x098 ≤ o) (h' : o < 0xE00) : QuietOff o := by
  refine ⟨h', ?_⟩
  simp only [eventOffs, List.mem_cons, List.not_mem_nil, or_false]; omega

theorem quietOff_ctl : QuietOff 0x010 := by simp [QuietOff, eventOffs]

theorem lcStat_bounds {lc : Nat} (hlc : lc < 4) : 0x098 ≤ lcStat lc ∧ lcStat lc < 0xE00 := by
  unfold lcStat; omega

/-! ## A fault of a context with nothing tentative -/

/-- The context is in FAULT with the code, whatever the number of its tile; MOV has nothing to do. -/
theorem seqFault_faults {s : State} {t lc code : Nat} (hlc : lc < 4) (h : (getCtx s t lc).brs = [])
    (hmov : movStill s t) (hc : code < 0x16) (layer oper : Half) :
    lcState (seqFault s t lc code layer oper) t lc = 4
      ∧ rfld (seqFault s t lc code layer oper) (.seq t) (lcStat lc) 15 8 = code
      ∧ TileEvents s (seqFault s t lc code layer oper) [regKey (.seq t) (lcStat lc)] t := by
  let s1 := faultShown s t lc code
  let s2 := sillage (captureOpen false s1 (.seq t) code 0 layer oper none (isrMask (4 + lc))) (.seq t) 0x13 false
    layer oper (BitVec.ofNat 32 code)
  have hev : Events s1 s2 [] := (events_captureOpen _ _ _ _ _ _ _ _ _ _).trans (events_sillage _ _ _ _ _ _ _ _)
  have hoff : EventFrame s1 s2 := (eventFrame_captureOpen _ _ _ _ _ _ _ _ _).trans (eventFrame_sillage _ _ _ _ _ _ _)
  have hshown : TileEvents s s1 [regKey (.seq t) (lcStat lc)] t :=
    ((tileEvents_modCtx s t lc _ _).trans (tileEvents_putReg _ t _ _ _ List.mem_cons_self)).trans
      (tileEvents_putReg _ t _ _ _ List.mem_cons_self)
  have hframe : TileEvents s s2 [regKey (.seq t) (lcStat lc)] t := hshown.trans ((hev.weaken (by simp)).tile t)
  have hstat : rawReg s2 (.seq t) (lcStat lc) = rawReg s1 (.seq t) (lcStat lc) :=
    hoff.quiet _ _ (quietOff_of_le (lcStat_bounds hlc).1 (lcStat_bounds hlc).2)
  have htile : getTile s2 t = getTile s1 t := by rw [hev.1]; rfl
  have hrst : rbit s2 (.mov t) 0x010 1 = false := by
    rw [hoff.rbit _ quietOff_ctl]
    have hne : regKey (.mov t) 0x010 ≠ regKey (.seq t) (lcStat lc) := by
      simp only [regKey, pageBase, lcStat]; omega
    refine Eq.trans ?_ hmov.2
    simp only [rbit, rfld]
    rw [show rawReg s1 (.mov t) 0x010 = rawReg s (.mov t) 0x010 from
      (rawReg_putReg_ne _ _ _ _ _ _ hne).trans (rawReg_putReg_ne _ _ _ _ _ _ hne)]
  have hstill : movStill s2 t := ⟨htile ▸ (movEmpty_modCtx s t lc _).2 hmov.1, hrst⟩
  have hu : seqFault s t lc code layer oper = modTile s2 t stageNone :=
    (seqFault_of_nil h (by omega) layer oper).trans (movSettle_of_still hstill lc)
  rw [hu]
  refine ⟨?_, ?_, hframe.trans (tileEvents_of (onlyTile_modTile s2 t _) (fun _ _ _ => rfl))⟩
  · rw [lcState, rfld_modTile, rfld, hstat]
    exact (rfld_putFld_ne _ (.seq t) (lcStat lc) 15 8 code 2 0 (by decide) (by decide) (by decide) (by decide)).trans
      (lcState_lcSetState _ t lc 4)
  · rw [rfld_modTile, rfld, hstat]
    exact (rfld_putFld_same _ (.seq t) (lcStat lc) 15 8 code (by decide) (by decide)).trans (Nat.mod_eq_of_lt (by omega))

theorem isTent_of_nil {c : Ctx} (h : c.brs = []) (sn : Nat) (ds : Bool) : isTent c sn ds = false := by
  simp [isTent, h]

/-- A HDR that issues inside a list is BADCMD (R155). -/
theorem exec_hdr_issued {s : State} {t lc : Nat} (hi : issuer s t = some lc)
    (hpc : (getCtx s t lc).pc ≤ (getCtx s t lc).base + (getCtx s t lc).len)
    (he : cwEng (cmWord s t (getCtx s t lc).pc) = 0) (ho : cwOpc (cmWord s t (getCtx s t lc).pc) = 0xF0)
    (hue : anyUE s (cmKey t (16 * (getCtx s t lc).pc)) 16 = false)
    (hce : countCE s (cmKey t (16 * (getCtx s t lc).pc)) 16 = 0) (hbrs : (getCtx s t lc).brs = []) :
    ∃ layer oper, exec (.hdr t) s = .next (payPenalty (seqFault s t lc 0x10 layer oper) t) := by
  have hbad : cwBad (cmWord s t (getCtx s t lc).pc) = true := by simp [cwBad, he, ho, namedBits]
  have hfault : issueFault s t lc = 0x10 := by
    simp only [issueFault, Nat.not_lt.2 hpc, if_false, hbad, or_true, if_true]
  refine ⟨cwLayer (cmWord s t (getCtx s t lc).pc), cwOper (cmWord s t (getCtx s t lc).pc), ?_⟩
  show Host.Outcome.next (issueRow s t (isOpc 0xF0)) = _
  simp only [issueRow, hi, hpc, he, isOpc, ho, beq_self_eq_true, and_self, if_true, issueSlot, issueOne, hfault,
    isTent_of_nil hbrs, faultAtIssue, tileRead, hue, hce, Bool.false_eq_true, if_false]
  rfl

/-! ## The end of a drain -/

/-- The registers of a context that has drained. -/
def drainShown (s : State) (t lc : Nat) : State :=
  putBit (lcSetState (modCtx s t lc (fun c => { ({} : Ctx) with layer := c.layer, oper := c.oper })) t lc 0) (.seq t)
    (0x104 + 0x40 * lc) 1 false

theorem drainShown_regs (s : State) (t lc : Nat) : lcState (drainShown s t lc) t lc = 0
    ∧ rbit (drainShown s t lc) (.seq t) (0x104 + 0x40 * lc) 1 = false
    ∧ TileEvents s (drainShown s t lc) [regKey (.seq t) (lcStat lc), regKey (.seq t) (0x104 + 0x40 * lc)] t := by
  have hne : lcStat lc ≠ 0x104 + 0x40 * lc := by unfold lcStat; omega
  refine ⟨?_, rbit_putBit_same _ _ _ _ _ (by decide), ((tileEvents_modCtx s t lc _ _).trans
    (tileEvents_putReg _ t _ _ _ (by simp))).trans (tileEvents_putReg _ t _ _ _ (by simp))⟩
  rw [lcState, drainShown, rfld, show rawReg (putBit _ _ _ _ _) (.seq t) (lcStat lc) = _ from rawReg_putReg_off _ _ _ _ _ hne]
  exact lcState_lcSetState _ t lc 0

theorem drained_shown {s : State} {t lc : Nat} (hlc : lc < 4) (hrst : rbit s (.seq t) 0x010 1 = false) :
    lcState (drained s t lc) t lc = 0 ∧ rbit (drained s t lc) (.seq t) (0x104 + 0x40 * lc) 1 = false
      ∧ TileEvents s (drained s t lc) [regKey (.seq t) (lcStat lc), regKey (.seq t) (0x104 + 0x40 * lc)] t := by
  obtain ⟨hst, hbit, hframe⟩ := drainShown_regs s t lc
  have hrst2 : rbit (drainShown s t lc) (.seq t) 0x010 1 = false := by
    rw [← hrst, rbit, rbit, rfld, rfld]
    rw [show rawReg (drainShown s t lc) (.seq t) 0x010 = _ from rawReg_putReg_off _ _ _ _ _ (by omega)]
    rw [show rawReg (lcSetState _ t lc 0) (.seq t) 0x010 = _ from rawReg_putReg_off _ _ _ _ _ (by unfold lcStat; omega)]
    rfl
  have hd : drained s t lc = drainShown s t lc ∨ ∃ a b c d, drained s t lc
      = sillage (isrBit (drainShown s t lc) (.seq t) lc a) (.seq t) 0x12 false b c d := by
    by_cases ha : (getCtx s t lc).aborting = true
    · left
      rw [drained]
      simp only [ha, if_true]
      refine if_neg fun h => ?_
      have h' : rbit (drainShown s t lc) (.seq t) 0x010 1 = true := (Bool.and_eq_true _ _ ▸ h).1
      rw [hrst2] at h'; cases h'
    · right
      exact ⟨(0, 0), _, _, _, by rw [drained]; simp only [ha]; rfl⟩
  rcases hd with hd | ⟨a, b, c, d, hd⟩
  · rw [hd]; exact ⟨hst, hbit, hframe⟩
  · have hev : Events (drainShown s t lc) (drained s t lc) [] := hd ▸
      (events_isrBit _ _ _ _ _).trans (events_sillage _ _ _ _ _ _ _ _)
    have hoff : EventFrame (drainShown s t lc) (drained s t lc) := hd ▸
      (eventFrame_isrBit _ _ _ _).trans (eventFrame_sillage _ _ _ _ _ _ _)
    refine ⟨?_, ?_, hframe.trans ((hev.weaken (by simp)).tile t)⟩
    · rw [lcState, hoff.rfld _ (quietOff_of_le (lcStat_bounds hlc).1 (lcStat_bounds hlc).2)]; exact hst
    · rw [hoff.rbit _ (quietOff_of_le (by omega) (by omega))]; exact hbit

/-! ## The decision on a LOAD -/

/-- The state in which the oldest LOAD is decided: it has left the queue and its bit is 0. -/
def loadTaken (s : State) (t lc : Nat) : State :=
  putBit (modTile s t (fun x => { x with loads := x.loads.tail })) (.seq t) (0x104 + 0x40 * lc) 0 false

theorem tileEvents_loadTaken (s : State) (t lc : Nat) {ks : List Nat} (h : regKey (.seq t) (0x104 + 0x40 * lc) ∈ ks) :
    TileEvents s (loadTaken s t lc) ks t :=
  (tileEvents_of (onlyTile_modTile s t _) (fun _ _ _ => rfl)).trans (tileEvents_putReg _ t _ _ _ h)

theorem rawReg_loadTaken (s : State) (t lc : Nat) (o : Nat) (h : o ≠ 0x104 + 0x40 * lc) :
    rawReg (loadTaken s t lc) (.seq t) o = rawReg s (.seq t) o := rawReg_putReg_off _ _ _ _ _ h

theorem lcStat_ne_ctl (lc : Nat) : lcStat lc ≠ 0x104 + 0x40 * lc := by unfold lcStat; omega

theorem lcState_loadTaken (s : State) (t lc : Nat) : lcState (loadTaken s t lc) t lc = lcState s t lc := by
  rw [lcState, lcState, rfld, rfld, rawReg_loadTaken _ _ _ _ (lcStat_ne_ctl lc)]

/-- A LOAD of a context that is not IDLE is dropped (R206). -/
theorem loadDecide_busy {s : State} {t lc : Nat} (hlc : lc < 4) (h : lcState s t lc ≠ 0) :
    lcState (loadDecide s t lc) t lc = lcState s t lc
      ∧ TileEvents s (loadDecide s t lc) [regKey (.seq t) (0x104 + 0x40 * lc)] t := by
  have hd : loadDecide s t lc = captureOpen false (loadTaken s t lc) (.seq t) 0x15 0 0 0 none 0 := by
    simp only [loadDecide, h, ne_eq, not_false_eq_true, if_true]; rfl
  rw [hd]
  refine ⟨?_, (tileEvents_loadTaken s t lc (by simp)).trans ((events_captureOpen _ _ _ _ _ _ _ _ _ _).tile t)⟩
  rw [lcState, (eventFrame_captureOpen _ _ _ _ _ _ _ _ _).rfld _ (quietOff_of_le (lcStat_bounds hlc).1 (lcStat_bounds hlc).2)]
  exact lcState_loadTaken s t lc

/-- The state in which a LOAD of an IDLE context is admitted or refused: FAULT is 0. -/
def loadSeen (s : State) (t lc : Nat) : State := putFld (loadTaken s t lc) (.seq t) (lcStat lc) 15 8 0

theorem lcState_loadSeen (s : State) (t lc : Nat) : lcState (loadSeen s t lc) t lc = lcState s t lc :=
  (rfld_putFld_ne _ (.seq t) (lcStat lc) 15 8 0 2 0 (by decide) (by decide) (by decide) (by decide)).trans
    (lcState_loadTaken s t lc)

/-- A LOAD of an IDLE context with a good header. -/
theorem loadDecide_idle {s : State} {t lc : Nat} (h : lcState s t lc = 0)
    (hue : anyUE s (cmKey t (16 * rfld s (.seq t) (0x100 + 0x40 * lc) 10 0)) 16 = false)
    (hce : countCE s (cmKey t (16 * rfld s (.seq t) (0x100 + 0x40 * lc) 10 0)) 16 = 0)
    (hhdr : hdrBad (cmWord s t (rfld s (.seq t) (0x100 + 0x40 * lc) 10 0)) = false) :
    let base := rfld s (.seq t) (0x100 + 0x40 * lc) 10 0
    let w := cmWord s t base
    loadDecide s t lc = if shortMask (shortfalls s t base w) = 0 then admitList (loadSeen s t lc) t lc base w
      else admitRefuse (loadSeen s t lc) t lc w (shortfalls s t base w) := by
  have hread : tileRead (loadSeen s t lc) t (cmKey t (16 * rfld s (.seq t) (0x100 + 0x40 * lc) 10 0)) 16
      (cwLayer (cmWord s t (rfld s (.seq t) (0x100 + 0x40 * lc) 10 0)),
        cwOper (cmWord s t (rfld s (.seq t) (0x100 + 0x40 * lc) 10 0))) = (false, loadSeen s t lc) := by
    have hue' : anyUE (loadSeen s t lc) (cmKey t (16 * rfld s (.seq t) (0x100 + 0x40 * lc) 10 0)) 16 = false := hue
    have hce' : countCE (loadSeen s t lc) (cmKey t (16 * rfld s (.seq t) (0x100 + 0x40 * lc) 10 0)) 16 = 0 := hce
    simp only [tileRead, hue', hce', if_true, Bool.false_eq_true, if_false]
  unfold loadSeen loadTaken at hread
  simp only [loadDecide, h, ne_eq, not_true_eq_false, if_false, hread, hhdr, Bool.false_eq_true, or_self, loadSeen, loadTaken]

/-- SEQ_ADM_SHORT as a refusal writes it has V set (R205). -/
theorem shortWord_valid {lc res : Nat} (hlc : lc < 4) (hres : res < 6) (mask x : Nat) (hmask : mask < 64) :
    fld (BitVec.ofNat 32 (2 ^ 31 + lc * 2 ^ 29 + res * 2 ^ 26 + mask * 2 ^ 20 + x % 2 ^ 18)) 31 31 = 1 := by
  simp only [fld, bitsOf, BitVec.toNat_ofNat]
  omega

theorem shortMask_lt (l : List Nat) : shortMask l < 2 ^ l.length := by
  induction l with
  | nil => simp [shortMask]
  | cons n r ih => simp only [shortMask, List.length_cons, Nat.pow_succ]; split <;> omega

/-- A refused list: the context stays IDLE, and SEQ_ADM_SHORT holds a first shortfall. -/
theorem admitRefuse_shown {x : State} {t lc : Nat} (hlc : lc < 4) (w : CmdWord) {sh : List Nat} (hsh : sh.length = 6) :
    lcState (admitRefuse x t lc w sh) t lc = lcState x t lc
      ∧ (rbit x (.seq t) 0x084 31 = false → rbit (admitRefuse x t lc w sh) (.seq t) 0x084 31 = true)
      ∧ TileEvents x (admitRefuse x t lc w sh) [regKey (.seq t) 0x084] t := by
  have hres : (sh.findIdx? (· != 0)).getD 0 < 6 := by
    cases h : sh.findIdx? (· != 0) with
    | none => simp
    | some i =>
      obtain ⟨hi, -⟩ := List.findIdx?_eq_some_iff_getElem.1 h
      simpa using hsh ▸ hi
  have hmask : shortMask sh < 64 := by have := shortMask_lt sh; rw [hsh] at this; exact this
  unfold admitRefuse
  extract_lets res v s1 s2
  have hev : Events s1 (sillage s2 (.seq t) 0x11 false (cwLayer w) (cwOper w) (rawReg s2 (.seq t) 0x084)) [] :=
    (events_captureOpen _ _ _ _ _ _ _ _ _ _).trans (events_sillage _ _ _ _ _ _ _ _)
  have hkey : EvKey (regKey (.seq t) 0x084) = false :=
    evKey_eq_false (by simp only [pageBase]; omega) (by decide) (by decide)
  have hstat : rawReg s1 (.seq t) (lcStat lc) = rawReg x (.seq t) (lcStat lc) := by
    show rawReg (if rbit x (.seq t) 0x084 31 then x else putReg x (.seq t) 0x084 v) _ _ = _
    split
    · rfl
    · exact rawReg_putReg_off _ _ _ _ _ (by unfold lcStat; omega)
  refine ⟨?_, fun hv => ?_, TileEvents.trans ?_ ((hev.weaken (by simp)).tile t)⟩
  · rw [lcState, lcState, rfld, rfld, hev.rawReg_eq (by simp) (evKey_lcStat hlc t), hstat]
  · have hs1 : s1 = putReg x (.seq t) 0x084 v := if_neg (by simp [hv])
    rw [rbit, rfld, hev.rawReg_eq (by simp) hkey, hs1, rawReg_putReg_same]
    exact beq_iff_eq.2 (shortWord_valid hlc hres _ _ hmask)
  · show TileEvents x (if rbit x (.seq t) 0x084 31 then x else putReg x (.seq t) 0x084 v) _ t
    split
    · exact .refl _ _ _
    · exact tileEvents_putReg _ _ _ _ _ (by simp)

/-- A tensor descriptor is invalid at reset (R254). -/
theorem regDefault_td (f : Fuses) (t : Nat) {lc k : Nat} (hlc : lc < 4) (hk : k < 8) :
    regDefault f (.cmp t) (tdOff lc k) = 0 := by
  interval_cases lc <;> interval_cases k <;> rfl

/-- The registers of an admitted list, before its event. -/
def admitShown (x : State) (t lc base : Nat) (c : Ctx) : State :=
  lcSetPc (putFld (lcSetState (clearDescriptors (modCtx x t lc (fun _ => c)) t lc) t lc 1) (.seq t) (lcStat lc) 15 8 0) t lc
    (base + 1)

theorem rawReg_clearDescriptors_seq (x : State) (t lc o : Nat) (hlc : lc < 4) (ho : o < 0x1000) :
    rawReg (clearDescriptors x t lc) (.seq t) o = rawReg x (.seq t) o := by
  rw [clearDescriptors, rawReg_resetRegs_out, rawReg_resetRegs_out]
  · simp only [regKey, pageBase, tdOff]; omega
  · simp only [regKey, pageBase, madOff]; omega

theorem rawReg_admitShown_off (x : State) (t lc base : Nat) (c : Ctx) {o : Nat} (hlc : lc < 4) (ho : o < 0x1000)
    (h : o ≠ lcStat lc) : rawReg (admitShown x t lc base c) (.seq t) o = rawReg x (.seq t) o := by
  refine (rawReg_putReg_off _ _ _ _ _ h).trans ((rawReg_putReg_off _ _ _ _ _ h).trans
    ((rawReg_putReg_off _ _ _ _ _ h).trans ?_))
  exact rawReg_clearDescriptors_seq _ t lc o hlc ho

theorem rawReg_admitShown_td (x : State) (t lc base : Nat) (c : Ctx) {k : Nat} (hlc : lc < 4) (hk : k < 8) :
    rawReg (admitShown x t lc base c) (.cmp t) (tdOff lc k) = regDefault x.fuses (.cmp t) (tdOff lc k) := by
  have hne : regKey (.cmp t) (tdOff lc k) ≠ regKey (.seq t) (lcStat lc) := by
    simp only [regKey, pageBase, tdOff, lcStat]; omega
  refine (rawReg_putReg_ne _ _ _ _ _ _ hne).trans ((rawReg_putReg_ne _ _ _ _ _ _ hne).trans
    ((rawReg_putReg_ne _ _ _ _ _ _ hne).trans ?_))
  rw [clearDescriptors, rawReg_resetRegs_out _ _ _ _ _ _ (by simp only [regKey, pageBase, tdOff, madOff]; omega),
    rawReg_resetRegs_in _ _ _ _ _ (by simp only [tdOff]; omega) (by simp only [tdOff]; omega)]
  rfl

/-- An admitted list: RUN at its first command, no descriptor valid. -/
theorem admitList_shown {x : State} {t lc : Nat} (hlc : lc < 4) (base : Nat) (w : CmdWord) :
    lcState (admitList x t lc base w) t lc = 1
      ∧ rfld (admitList x t lc base w) (.seq t) (lcStat lc) 26 16 = (base + 1) % 2 ^ 11
      ∧ (∀ k, k < 8 → getTd (admitList x t lc base w) t lc k = none)
      ∧ (∀ b, rbit (admitList x t lc base w) (.seq t) (0x104 + 0x40 * lc) b = rbit x (.seq t) (0x104 + 0x40 * lc) b)
      ∧ (admitList x t lc base w).mem = x.mem := by
  obtain ⟨c, layer, oper, v, hu⟩ : ∃ c layer oper v, admitList x t lc base w
      = sillage (admitShown x t lc base c) (.seq t) 0x10 false layer oper v := ⟨_, _, _, _, rfl⟩
  rw [hu]
  have hoff := eventFrame_sillage (admitShown x t lc base c) (.seq t) 0x10 false layer oper v
  have hev := events_sillage (admitShown x t lc base c) (.seq t) 0x10 false layer oper v []
  have hstat := quietOff_of_le (lcStat_bounds hlc).1 (lcStat_bounds hlc).2
  refine ⟨?_, ?_, fun k hk => ?_, fun b => ?_, by rw [hev.mem]; rfl⟩
  · rw [lcState, hoff.rfld _ hstat]
    refine (rfld_putFld_ne _ (.seq t) (lcStat lc) 26 16 _ 2 0 (by decide) (by decide) (by decide) (by decide)).trans ?_
    refine Eq.trans ?_ (lcState_lcSetState (clearDescriptors (modCtx x t lc (fun _ => c)) t lc) t lc 1)
    exact rfld_putFld_ne _ (.seq t) (lcStat lc) 15 8 0 2 0 (by decide) (by decide) (by decide) (by decide)
  · rw [hoff.rfld _ hstat]
    exact rfld_putFld_same _ _ _ _ _ _ (by decide) (by decide)
  · have hbit : rbit (sillage (admitShown x t lc base c) (.seq t) 0x10 false layer oper v) (.cmp t) (tdOff lc k) 31 = false := by
      rw [hoff.rbit _ (quietOff_of_le (by simp only [tdOff]; omega) (by simp only [tdOff]; omega)), rbit, rfld,
        rawReg_admitShown_td _ _ _ _ _ hlc hk, regDefault_td _ _ hlc hk]
      decide
    simp only [getTd, hbit, Bool.false_eq_true, if_false]
  · rw [hoff.rbit _ (quietOff_of_le (by omega) (by omega)), rbit, rbit, rfld, rfld,
      rawReg_admitShown_off _ _ _ _ _ hlc (by omega) (lcStat_ne_ctl lc).symm]

/-- Settles O19: a HDR inside a list, the end of a drain, and the three outcomes of a LOAD. -/
theorem listsStartAndEnd : Obligations.ListsStartAndEnd := by
  unfold Obligations.ListsStartAndEnd
  intro s t lc hlc c
  refine ⟨fun hi hpc he ho hue hce hbrs hmov => ?_, fun hst hrun hcmp hmv hcmb hbrs hrst => ?_, fun hload hstop hiso => ?_⟩
  · obtain ⟨layer, oper, hx⟩ := exec_hdr_issued hi hpc he ho hue hce hbrs
    obtain ⟨h4, hcode, hframe⟩ := seqFault_faults (code := 0x10) hlc hbrs hmov (by decide) layer oper
    exact ⟨_, hx, h4, hcode, hframe.trans (tileEvents_of (onlyTile_payPenalty _ t) (fun _ _ _ => rfl))⟩
  · obtain ⟨h0, hbit, hframe⟩ := drained_shown hlc hrst
    refine ⟨_, ?_, h0, hbit, hframe⟩
    show execContextDrained t lc s = _
    simp only [execContextDrained]
    rw [if_pos ⟨hst, hrun, hcmp, hmv, hcmb, hbrs⟩]
  · intro base w hue hce
    have hexec : exec (.loadDecision t lc) s = .next (loadDecide s t lc) := by
      show execLoadDecision t lc s = _
      simp only [execLoadDecision]
      rw [if_pos ⟨hload, hstop, hiso⟩]
    refine ⟨fun h0 hhdr hshort => ?_, fun h0 hhdr hshort => ?_, fun hst => ?_⟩
    · have hd := loadDecide_idle h0 hue hce hhdr
      simp only at hd
      rw [if_pos hshort] at hd
      rw [hd] at hexec
      obtain ⟨hrun, hpc, htd, hctl, hmem⟩ := admitList_shown (x := loadSeen s t lc) (t := t) hlc base w
      refine ⟨_, hexec, hrun, hpc, htd, ?_, hmem⟩
      rw [hctl, loadSeen, rbit, rfld]
      rw [show rawReg (putFld _ _ _ _ _ _) (.seq t) (0x104 + 0x40 * lc) = _ from
        rawReg_putReg_off _ _ _ _ _ (lcStat_ne_ctl lc).symm]
      exact rbit_putBit_same _ _ _ _ _ (by decide)
    · have hd := loadDecide_idle h0 hue hce hhdr
      simp only at hd
      rw [if_neg hshort] at hd
      rw [hd] at hexec
      obtain ⟨hst, hv, hframe⟩ := admitRefuse_shown (x := loadSeen s t lc) (t := t) hlc w (sh := shortfalls s t base w) rfl
      refine ⟨_, hexec, ?_, fun hv0 => hv ?_, TileEvents.trans ?_ (hframe.weaken (by simp))⟩
      · rw [hst, lcState_loadSeen, h0]
      · rw [← hv0, rbit, rbit, rfld, rfld, loadSeen]
        rw [show rawReg (putFld _ _ _ _ _ _) (.seq t) 0x084 = _ from
          rawReg_putReg_off _ _ _ _ _ (by unfold lcStat; omega), rawReg_loadTaken _ _ _ _ (by omega)]
      · exact (tileEvents_loadTaken s t lc (by simp)).trans (tileEvents_putReg _ t _ _ _ (by simp))
    · obtain ⟨h1, h2⟩ := loadDecide_busy hlc hst
      exact ⟨_, hexec, h1, h2⟩

end Sys2Proof.Machine
end

section
/-! PROOFS. Requests that a tile serves: the port, memory written and read without errors (sections 8.5, 10.1 to 10.9). -/

namespace Sys2Proof.Machine

/-! ## Memory -/

/-- What a store changes: the bytes, and the errors of units written whole. -/
theorem memStore_shown (s : State) (k : Nat) (bs : List Byte) :
    ∃ e, memStore s k bs = { s with mem := putBytes s.mem k bs, ecc := e } := by
  have h : ∀ (l : List Nat) (u : State), ∃ e, l.foldl clearUnit u = { u with ecc := e } := by
    intro l
    induction l with
    | nil => intro u; exact ⟨u.ecc, rfl⟩
    | cons a l ih => intro u; obtain ⟨e, he⟩ := ih (clearUnit u a); exact ⟨e, by rw [List.foldl_cons, he]; rfl⟩
  obtain ⟨e, he⟩ := h ((unitsOf k bs.length).filter (fun u => k ≤ u * 32 && u * 32 + 32 ≤ k + bs.length)) (writeMem s k bs)
  exact ⟨e, by unfold memStore; rw [he]; rfl⟩

@[simp] theorem mem_memStore (s : State) (k : Nat) (bs : List Byte) : (memStore s k bs).mem = putBytes s.mem k bs := by
  obtain ⟨e, he⟩ := memStore_shown s k bs
  rw [he]

@[simp] theorem getTile_memStore (s : State) (k : Nat) (bs : List Byte) (t : Nat) :
    getTile (memStore s k bs) t = getTile s t := by
  obtain ⟨e, he⟩ := memStore_shown s k bs
  rw [he]; rfl

@[simp] theorem rawReg_memStore (s : State) (k : Nat) (bs : List Byte) (p : Page) (o : Nat) :
    rawReg (memStore s k bs) p o = rawReg s p o := by
  obtain ⟨e, he⟩ := memStore_shown s k bs
  rw [he]; rfl

/-- Bytes stored in a canonical memory read back. -/
theorem readMem_putBytes {s u : State} {k n : Nat} {bs : List Byte} (hw : Memory.wf s.mem) (hu : u.mem = putBytes s.mem k bs)
    (hn : bs.length = n) : readMem u k n = bs := by
  rw [readMem, hu, ← hn, getBytes_putBytes_same _ _ _ hw]

/-- Bytes stored change no other byte. -/
theorem memBut_putBytes {s u : State} {k lo n : Nat} {bs : List Byte} (hu : u.mem = putBytes s.mem k bs) (h0 : lo ≤ k)
    (hn : k + bs.length ≤ lo + n) : MemBut s u lo n := fun j hj => by
  rw [hu]; exact getByte_putBytes_out _ _ _ _ (by omega)

/-- A part of a range without errors has none. -/
theorem inUnits_sub {k n j m u : Nat} (hk : k ≤ j) (hm : j + m ≤ k + n) (h : inUnits j m u = true) : inUnits k n u = true := by
  simp only [inUnits, Bool.and_eq_true, bne_iff_ne, ne_eq, decide_eq_true_eq] at h ⊢
  unfold unitOf at h ⊢
  obtain ⟨⟨h0, h1⟩, h2⟩ := h
  have hlo : k / 32 ≤ j / 32 := Nat.div_le_div_right hk
  have hhi : (j + m - 1) / 32 ≤ (k + n - 1) / 32 := Nat.div_le_div_right (by omega)
  exact ⟨⟨by omega, hlo.trans h1⟩, h2.trans hhi⟩

theorem anyUE_sub {s : State} {k n j m : Nat} (hk : k ≤ j) (hm : j + m ≤ k + n) (h : anyUE s k n = false) :
    anyUE s j m = false := by
  simp only [anyUE, List.any_eq_false, Bool.and_eq_true, not_and] at h ⊢
  exact fun e he hu => h e he (inUnits_sub hk hm hu)

theorem countCE_sub {s : State} {k n j m : Nat} (hk : k ≤ j) (hm : j + m ≤ k + n) (h : countCE s k n = 0) :
    countCE s j m = 0 := by
  simp only [countCE, List.length_eq_zero_iff, List.filter_eq_nil_iff, Bool.and_eq_true, not_and] at h ⊢
  exact fun e he hu => h e he (inUnits_sub hk hm hu)

/-- A read of units without errors leaves nothing (R250). -/
theorem tileRead_clean {s : State} {k n : Nat} (h : cleanMem s k n = true) {j m : Nat} (hk : k ≤ j) (hm : j + m ≤ k + n)
    (t : Nat) (lo : Half × Half) (dark : Bool) : tileRead s t j m lo dark = (false, s) := by
  simp only [cleanMem, Bool.and_eq_true, Bool.not_eq_true', beq_iff_eq] at h
  simp only [tileRead, anyUE_sub hk hm h.1, countCE_sub hk hm h.2, if_true, Bool.false_eq_true, if_false]

/-! ## A tile serves the request at its port -/

theorem TileServes.stall {s : State} {t : Nat} {op : BitVec 8} {q : Packet} (h : TileServes s t op q) :
    (getTile s t).stalled = none := by obtain ⟨-, hst, -⟩ := h; exact hst

theorem TileServes.reqHead {s : State} {t : Nat} {op : BitVec 8} {q : Packet} (h : TileServes s t op q) :
    reqHead s (.tile t) op = some q := by obtain ⟨hreq, -⟩ := h; exact hreq

theorem TileServes.opc {s : State} {t : Nat} {op : BitVec 8} {q : Packet} (h : TileServes s t op q) : q.opc = op := by
  have := h.reqHead
  simp only [Machine.reqHead, Option.filter_eq_some_iff, beq_iff_eq] at this
  exact this.2

theorem TileServes.cmbReq {s : State} {t : Nat} {op : BitVec 8} {q : Packet} (h : TileServes s t op q) :
    cmbReq s t op = some q := by
  obtain ⟨hreq, hst, -, -, hcmb⟩ := h
  have hstop : ((epKind q.dst == .rq || epKind q.dst == .cq) && stopped s (.cmb t)) = false := by
    by_cases hk : epKind q.dst = .rq ∨ epKind q.dst = .cq
    · rw [hcmb hk, Bool.and_false]
    · rw [not_or] at hk
      simp [hk.1, hk.2]
  simp only [Machine.cmbReq, hreq, Option.filter, hst, Option.isNone_none, hstop, Bool.not_false, Bool.and_self, if_true]

theorem TileServes.serve {s : State} {t : Nat} {op : BitVec 8} {q : Packet} (h : TileServes s t op q) (act : State → State) :
    serveTile s t q act = act s := by
  obtain ⟨-, -, hiso, hcheck, -⟩ := h
  simp only [serveTile, hiso, Bool.false_eq_true, if_false, hcheck]

/-- What the tile holds when its request has left the port. -/
def reqTaken (s : State) (t : Nat) (x : Tile) : Tile :=
  { x with lreq := x.lreq.tail, reqAt := eTime s, wdog := rfld s (.til t) 0x088 19 0 }

theorem getTile_popReq (s : State) (t : Nat) : getTile (popReq s (.tile t)) t = reqTaken s t (getTile s t) := by
  simp only [popReq, headNow, getTile_modTile_same, reqTaken]; rfl

theorem onlyTile_popReq (s : State) (t : Nat) : OnlyTile s (popReq s (.tile t)) t := by
  unfold popReq headNow
  exact (onlyTile_modTile _ _ _).trans (onlyTile_modTile _ _ _)

theorem rawReg_popReq (s : State) (t : Nat) (p : Page) (o : Nat) : rawReg (popReq s (.tile t)) p o = rawReg s p o := rfl

theorem getTile_answerAt (s : State) (t : Nat) (a : Packet) :
    getTile (answerAt s (.tile t) a) t = { getTile s t with out := (getTile s t).out ++ [a] } := getTile_modTile_same _ _ _

theorem onlyTile_answerAt (s : State) (t : Nat) (a : Packet) : OnlyTile s (answerAt s (.tile t) a) t := by
  unfold answerAt
  exact onlyTile_modTile _ _ _

theorem rawReg_answerAt (s : State) (t : Nat) (a : Packet) (p : Page) (o : Nat) :
    rawReg (answerAt s (.tile t) a) p o = rawReg s p o := rfl

/-- A posted packet is acknowledged by what the tile has to answer alone. -/
theorem getTile_ackAt (s : State) (t : Nat) (q : Packet) :
    ∃ a o, getTile (ackAt s (.tile t) q) t = { getTile s t with acks := a, out := o } := ⟨_, _, getTile_modTile_same _ _ _⟩

theorem onlyTile_ackAt (s : State) (t : Nat) (q : Packet) : OnlyTile s (ackAt s (.tile t) q) t := by
  unfold ackAt
  exact onlyTile_modTile _ _ _

theorem rawReg_ackAt (s : State) (t : Nat) (q : Packet) (p : Page) (o : Nat) :
    rawReg (ackAt s (.tile t) q) p o = rawReg s p o := rfl

/-- Nothing stalled, nothing let in. -/
theorem rqUnstall_none {s : State} {t : Nat} (h : (getTile s t).stalled = none) : rqUnstall s t = s := by
  simp only [rqUnstall, h]

/-- Events change no tile. -/
theorem Events.getTile {s u : State} {ks : List Nat} (h : Events s u ks) (k : Nat) : getTile u k = Machine.getTile s k := by
  rw [h.1]; rfl

/-! ## Reservations -/

theorem length_dropFirst {α : Type} {f : α → Bool} {l : List α} {a : α} (h : l.find? f = some a) :
    (dropFirst f l).length + 1 = l.length := by
  induction l with
  | nil => simp at h
  | cons b l ih =>
    by_cases hb : f b
    · simp [dropFirst, hb]
    · rw [List.find?_cons_of_neg hb] at h
      simp [dropFirst, hb, ih h]

theorem length_modFirst {α : Type} (f : α → Bool) (g : α → α) (l : List α) : (modFirst f g l).length = l.length := by
  induction l with
  | nil => rfl
  | cons b l ih => simp only [modFirst]; split <;> simp [ih]

theorem mem_modFirst {α : Type} {f : α → Bool} {l : List α} {a : α} (g : α → α) (h : l.find? f = some a) :
    g a ∈ modFirst f g l := by
  induction l with
  | nil => simp at h
  | cons b l ih =>
    by_cases hb : f b
    · rw [List.find?_cons_of_pos hb] at h
      cases h
      simp [modFirst, hb]
    · rw [List.find?_cons_of_neg hb] at h
      simp [modFirst, hb, ih h]

theorem find?_self_of_mem {α : Type} [DecidableEq α] {l : List α} {a : α} (h : a ∈ l) : l.find? (· == a) = some a := by
  induction l with
  | nil => cases h
  | cons b l ih =>
    by_cases hb : b = a
    · simp [hb]
    · rw [List.find?_cons_of_neg (by simpa using hb)]
      exact ih ((List.mem_cons.1 h).resolve_left (fun e => hb e.symm))

/-- The count of expired reservations lies apart from what events write. -/
theorem evKey_cmb (t : Nat) {o : Nat} (h : o < 0xE00) (hn : o ∉ [0x020, 0x030, 0x034, 0x038, 0x03C, 0x040, 0x054]) :
    EvKey (regKey (.cmb t) o) = false := evKey_eq_false (by simp only [pageBase]; omega) h hn

theorem resvExpire_shown {s : State} {t : Nat} {r : Resv} (hr : r ∈ (getTile s t).resvs) (hst : (getTile s t).stalled = none) :
    (getTile (resvExpire s t r) t).resvs.length + 1 = (getTile s t).resvs.length
      ∧ rfld (resvExpire s t r) (.cmb t) 0x08C 15 0 = Nat.min (rfld s (.cmb t) 0x08C 15 0 + 1) 0xFFFF
      ∧ TileEvents s (resvExpire s t r) [regKey (.cmb t) 0x08C] t := by
  let s1 := modTile s t (fun x => { x with resvs := dropFirst (· == r) x.resvs })
  let s2 := addFld s1 (.cmb t) 0x08C 15 0 1
  obtain ⟨z, hev, hz⟩ : ∃ z, Events s2 z [] ∧ resvExpire s t r = rqUnstall z t := by
    by_cases h : r.ep < 0x10
    · exact ⟨_, (events_isrBit _ _ _ _ _).trans (events_sillage _ _ _ _ _ _ _ _), by simp only [resvExpire, h, if_true]; rfl⟩
    · exact ⟨_, (events_isrBit _ _ _ _ _).trans (events_sillage _ _ _ _ _ _ _ _), by simp only [resvExpire, h, if_false]; rfl⟩
  have htile : getTile z t = { getTile s t with resvs := dropFirst (· == r) (getTile s t).resvs } := by
    rw [hev.getTile]; exact getTile_modTile_same s t (fun x => { x with resvs := dropFirst (· == r) x.resvs })
  rw [hz, rqUnstall_none (by rw [htile]; exact hst)]
  refine ⟨?_, ?_, ((tileEvents_of (onlyTile_modTile _ _ _) (fun _ _ _ => rfl)).trans
    (tileEvents_putReg s1 t _ _ _ (by simp))).trans ((hev.weaken (by simp)).tile t)⟩
  · rw [htile]; exact length_dropFirst (find?_self_of_mem hr)
  · rw [rfld, hev.rawReg_eq (by simp) (evKey_cmb t (by decide) (by decide))]
    exact rfld_addFld_one s1 (.cmb t) 0x08C

/-- The reservation that a RESV holds (R229). -/
def newResv (s : State) (q : Packet) : Resv :=
  { src := q.src, ep := nodeEp q.dst, tag := q.tag, amount := q.aux.toNat, confirmed := false,
    due := eTime s + usTicks 1000, layer := q.layer, oper := q.oper }

theorem resv_granted {s : State} {t : Nat} {q : Packet} (h : TileServes s t opRESV q)
    (hret : 0x10 ≤ nodeEp q.dst → nodeEp q.dst - 0x10 ∉ (getTile s t).rqRetired)
    (hroom : resvRoom s t (nodeEp q.dst) q.aux.toNat = true) :
    exec (.resv t) s = .next (answerAt (modTile (popReq s (.tile t)) t (fun x => { x with resvs := x.resvs ++ [newResv s q] }))
      (.tile t) (response (meAt s (.tile t) q) q opRSVACK)) := by
  have hno : ¬ (0x10 ≤ nodeEp q.dst ∧ nodeEp q.dst - 0x10 ∈ (getTile s t).rqRetired) := fun e => hret e.1 e.2
  show execResv t s = _
  simp only [execResv, h.cmbReq, h.serve, resvTake, hno, hroom, if_false, if_true, newResv]

theorem resv_refused {s : State} {t : Nat} {q : Packet} (h : TileServes s t opRESV q)
    (hret : 0x10 ≤ nodeEp q.dst → nodeEp q.dst - 0x10 ∉ (getTile s t).rqRetired)
    (hroom : resvRoom s t (nodeEp q.dst) q.aux.toNat = false) :
    exec (.resv t) s = .next (answerAt (popReq s (.tile t)) (.tile t) (nakPkt (meAt s (.tile t) q) q nkTENT)) := by
  have hno : ¬ (0x10 ≤ nodeEp q.dst ∧ nodeEp q.dst - 0x10 ∈ (getTile s t).rqRetired) := fun e => hret e.1 e.2
  show execResv t s = _
  simp only [execResv, h.cmbReq, h.serve, resvTake, hno, hroom, if_false, Bool.false_eq_true]

/-- Settles O31: reservations granted and refused, confirmed, withdrawn, and expired. -/
theorem reservationsHeld : Obligations.ReservationsHeld := by
  unfold Obligations.ReservationsHeld
  intro s t q ep resvs
  refine ⟨fun h hret => ⟨fun hroom => ?_, fun hroom => ?_⟩, fun h r hr => ?_, fun h r hr => ?_, ?_⟩
  · refine ⟨_, newResv s q, response (meAt s (.tile t) q) q opRSVACK,
      resv_granted h hret hroom, ?_, rfl, rfl, rfl, rfl, rfl, rfl, ?_, rfl, rfl, rfl,
      ((onlyTile_popReq s t).trans (onlyTile_modTile _ _ _)).trans (onlyTile_answerAt _ _ _), fun _ _ _ => rfl⟩
    · show (getTile _ t).resvs = _
      rw [getTile_answerAt, getTile_modTile_same, getTile_popReq]; rfl
    · rw [getTile_answerAt, getTile_modTile_same, getTile_popReq]; rfl
  · refine ⟨_, nakPkt (meAt s (.tile t) q) q nkTENT, resv_refused h hret hroom, ?_, ?_, rfl, rfl, (onlyTile_popReq s t).trans (onlyTile_answerAt _ _ _),
      fun _ _ _ => rfl⟩
    · show (getTile _ t).resvs = _
      rw [getTile_answerAt, getTile_popReq]; rfl
    · rw [getTile_answerAt, getTile_popReq]; rfl
  · have hexec : exec (.conf t) s = .next (resvConf s t q) := by
      show execConf t s = _
      simp only [execConf, h.cmbReq, h.serve]
    refine ⟨_, hexec, ?_, ?_, ?_, (onlyTile_popReq s t).trans (by unfold resvConf; exact onlyTile_modTile _ _ _),
      fun _ _ _ => rfl⟩
    · show _ ∈ (getTile (resvConf s t q) t).resvs
      rw [resvConf, getTile_modTile_same, getTile_popReq]
      exact mem_modFirst _ hr
    · show (getTile (resvConf s t q) t).resvs.length = _
      rw [resvConf, getTile_modTile_same, getTile_popReq]
      exact length_modFirst _ _ _
    · rw [resvConf, getTile_modTile_same, getTile_popReq]; rfl
  · have htile : getTile (modTile (popReq s (.tile t)) t (fun x => { x with resvs := dropFirst (resvMatch q) x.resvs })) t
        = { reqTaken s t (getTile s t) with resvs := dropFirst (resvMatch q) (getTile s t).resvs } := by
      rw [getTile_modTile_same, getTile_popReq]; rfl
    have hexec : exec (.wdrw t) s = .next (modTile (popReq s (.tile t)) t (fun x => { x with
        resvs := dropFirst (resvMatch q) x.resvs })) := by
      show execWdrw t s = _
      simp only [execWdrw, h.cmbReq, h.serve, resvWdrw, rqUnstall_none (show (getTile (modTile (popReq s (.tile t)) t
        (fun x => { x with resvs := dropFirst (resvMatch q) x.resvs })) t).stalled = none by rw [htile]; exact h.stall)]
    refine ⟨_, hexec, ?_, ?_, (onlyTile_popReq s t).trans (onlyTile_modTile _ _ _), fun _ _ _ => rfl⟩
    · show (getTile _ t).resvs.length + 1 = _
      rw [htile]; exact length_dropFirst hr
    · rw [htile]; rfl
  · intro who ep tag r hlive hst h0 hdue mine gone
    have hnow : atLeast s r.due = s := atLeast_of_le h0 hdue
    refine ⟨fun hr => ⟨_, ?_, resvExpire_shown (List.mem_of_find?_eq_some hr) hst⟩,
      fun hr => ⟨_, ?_, resvExpire_shown (List.mem_of_find?_eq_some hr) hst⟩⟩
    · have hr' : (getTile s t).resvs.find? (fun r => r.src == who && r.ep == ep.toNat && r.tag == tag && !r.confirmed)
          = some r := by simpa only [mine, beq_false] using hr
      show execResvHeldExpiry t who ep tag s = _
      simp only [execResvHeldExpiry, hr', hlive, if_true, hnow]
    · have hr' : (getTile s t).resvs.find? (fun r => r.src == who && r.ep == ep.toNat && r.tag == tag && r.confirmed)
          = some r := by simpa only [mine, beq_true] using hr
      show execConfTimeout t who ep tag s = _
      simp only [execConfTimeout, hr', hlive, if_true, hnow]

end Sys2Proof.Machine
end

section
/-! PROOFS. Entries that leave a receive queue, and combining queues that are armed and reset (sections 10.3 and 10.5). -/

namespace Sys2Proof.Machine

theorem rawReg_putBit_off (s : State) (p : Page) (o r b : Nat) (v : Bool) (h : r ≠ o) :
    rawReg (putBit s p o b v) p r = rawReg s p r := rawReg_putReg_off _ _ _ _ _ h

theorem rawReg_putFld_off (s : State) (p : Page) (o r hi lo x : Nat) (h : r ≠ o) :
    rawReg (putFld s p o hi lo x) p r = rawReg s p r := rawReg_putReg_off _ _ _ _ _ h

theorem cmbRq_lt (w : CmdWord) : cmbRq w < 16 := cwBits_lt w 79 76
theorem cmbCq_lt (w : CmdWord) : cmbCq w < 8 := cwBits_lt w 79 77
theorem cmbCsem_lt (w : CmdWord) : cmbCsem w < 64 := cwBits_lt w 56 51

/-- What a combining command with a bad operand leaves: the queue without it, and an error captured (R418). -/
theorem cmbFail_shown (s : State) (t : Nat) (q : QCmd) (code : Nat) :
    (getTile (cmbFail s t q code) t).cmbQ = (getTile s t).cmbQ.tail ∧ TileEvents s (cmbFail s t q code) [] t := by
  have hev : Events (popCmb s t) (cmbFail s t q code) [] := events_captureOpen _ _ _ _ _ _ _ _ _ _
  refine ⟨?_, (tileEvents_of (onlyTile_modTile _ _ _) (fun _ _ _ => rfl)).trans (hev.tile t)⟩
  rw [hev.getTile, popCmb, getTile_modTile_same]

/-! ## Receive queues -/

theorem rqSize_le (s : State) (t n : Nat) : rqSize s t n ≤ 2 ^ 18 := (fld_lt _ _ _).le

/-- What the removal of the head entry leaves where no message is stalled (R419). -/
theorem rqPop_shown {s : State} {t n size : Nat} (hst : (getTile s t).stalled = none) (hsz : 0 < rqSize s t n) :
    rqPtr (rqPop s t n size) t n = (rqPtr s t n + size) % rqSize s t n
      ∧ rqNonEmpty (rqPop s t n size) t n
        = (rqNonEmpty s t n && !decide ((rqPtr s t n + size) % rqSize s t n = rqTail s t n))
      ∧ (rqPop s t n size).tiles = s.tiles ∧ (rqPop s t n size).mem = s.mem
      ∧ OnlyTile s (rqPop s t n size) t
      ∧ RegsBut s (rqPop s t n size) [regKey (.cmb t) (rqOff n + 0xC), regKey (.cmb t) (rqOff n + 0x14)] := by
  have hlt : (rqPtr s t n + size) % rqSize s t n < 2 ^ 18 := (Nat.mod_lt _ hsz).trans_le (rqSize_le s t n)
  generalize hh : (rqPtr s t n + size) % rqSize s t n = h at hlt
  have hoff : 0x114 + 0x20 * n = rqOff n + 0x14 := by simp only [rqOff]; omega
  have hptr : rfld (putFld s (.cmb t) (rqOff n + 0xC) 17 0 h) (.cmb t) (rqOff n + 0xC) 17 0 = h := by
    rw [rfld_putFld_same _ _ _ _ _ _ (by decide) (by decide), Nat.mod_eq_of_lt hlt]
  have hregs : RegsBut s (putFld s (.cmb t) (rqOff n + 0xC) 17 0 h) [regKey (.cmb t) (rqOff n + 0xC), regKey (.cmb t) (rqOff n + 0x14)] :=
    regsBut_putFld _ _ _ _ _ _ _ (by simp)
  by_cases hend : h = rqTail s t n
  · have hpop : rqPop s t n size
        = putBit (putFld s (.cmb t) (rqOff n + 0xC) 17 0 h) (.cmb t) (rqOff n + 0x14) 0 false := by
      simp only [rqPop, hh, hend, if_true]; exact rqUnstall_none hst
    rw [hpop]
    refine ⟨?_, ?_, rfl, rfl, (onlyTile_putFld _ _ _ _ _ _ _).trans (onlyTile_putReg _ _ _ _ _), hregs.trans (regsBut_putBit _ _ _ _ _ _ (by simp))⟩
    · rw [rqPtr, rfld, rawReg_putBit_off _ _ _ _ _ _ (by omega)]; exact hptr
    · rw [rqNonEmpty, hoff, rbit_putBit_same _ _ _ _ _ (by decide)]
      simp [hend]
  · have hpop : rqPop s t n size = putFld s (.cmb t) (rqOff n + 0xC) 17 0 h := by
      simp only [rqPop, hh, hend, if_false]; exact rqUnstall_none hst
    rw [hpop]
    refine ⟨hptr, ?_, rfl, rfl, onlyTile_putFld _ _ _ _ _ _ _, hregs⟩
    rw [rqNonEmpty, rbit, rfld_putFld_off _ _ _ _ _ _ _ _ _ (by omega)]
    simp [hend, rqNonEmpty, rbit]

theorem length_ringGet (s : State) (base size off n : Nat) : (ringGet s base size off n).length = n := by
  simp only [ringGet, readMem, List.length_append, length_getBytes]; omega

/-- A semaphore to which something is added (R158): its value, and what else is written. -/
theorem semOp_add_shown (s : State) (t : Nat) {lc : Nat} (hlc : lc < 4) (i : Nat) (v : Word) :
    (getSem (semOp s t lc i 1 v) t i).toNat = Nat.min ((getSem s t i).toNat + v.toNat) 0xFFFFFFFF
      ∧ OnlyRegs s (semOp s t lc i 1 v)
      ∧ RegsBut s (semOp s t lc i 1 v) [regKey (.seq t) (semOff i), regKey (.seq t) (lcStat lc)] := by
  have hv : Nat.min ((getSem s t i).toNat + v.toNat) 0xFFFFFFFF < 2 ^ 32 := (Nat.min_le_right _ _).trans_lt (by decide)
  obtain ⟨ha, -⟩ := semOp_add_sub s t lc i v
  rw [ha]
  split
  · refine ⟨?_, rfl, (regsBut_putReg _ _ _ _ _ (by simp)).trans (regsBut_putBit _ _ _ _ _ _ (by simp))⟩
    rw [getSem, rawReg_putBit_off _ _ _ _ _ _ (semOff_ne_lcStat hlc i).symm, rawReg_putReg_same, BitVec.toNat_ofNat, Nat.mod_eq_of_lt hv]
  · refine ⟨?_, rfl, regsBut_putReg _ _ _ _ _ (by simp)⟩
    rw [getSem, rawReg_putReg_same, BitVec.toNat_ofNat, Nat.mod_eq_of_lt hv]

/-! ## DROP and DEQ -/

/-- A DEQ whose operands and bytes are good copies its entry, removes it, and counts (R417 to R419). -/
theorem deqRun_copies {s : State} {t : Nat} {q : QCmd} {n size dst base : Nat} (hn : cmbRq q.word = n) (hsize : headSize s t n = size)
    (hdst : cmbDst q.word = dst) (hbase : tmKey t (rqBase s t n) = base) (hbad : deqBad s t n = 0)
    (hin : ¬ (dst % 32 ≠ 0 ∨ 196608 < dst + size))
    (hr : ∀ j m, base ≤ j → j + m ≤ base + rqSize s t n → tileRead s t j m (cwLayer q.word, cwOper q.word) true = (false, s))
    (hptr : rqPtr s t n < rqSize s t n) (hle : size ≤ rqSize s t n) :
    deqRun s t q = if cmbCse q.word then semOp (rqPop (popCmb (memStore s (tmKey t dst)
        (ringGet s base (rqSize s t n) (rqPtr s t n) size)) t) t n size) t q.lc (cmbCsem q.word) 1 1
      else rqPop (popCmb (memStore s (tmKey t dst) (ringGet s base (rqSize s t n) (rqPtr s t n) size)) t) t n size := by
  have hone : min size (rqSize s t n - rqPtr s t n) ≤ rqSize s t n - rqPtr s t n := Nat.min_le_right _ _
  have hr1 := hr (base + rqPtr s t n) (min size (rqSize s t n - rqPtr s t n)) (by omega) (by omega)
  have hr2 := hr base (size - min size (rqSize s t n - rqPtr s t n)) (by omega) (by omega)
  simp only [deqRun, hn, hsize, hdst, hbase, hbad, hin, hr1, hr2, ne_eq, not_true_eq_false, if_false, Bool.or_self,
    Bool.false_eq_true]

/-- Settles O32: entries dropped, entries copied out, and operands refused. -/
theorem queuesGiveUpEntries : Obligations.QueuesGiveUpEntries := by
  unfold Obligations.QueuesGiveUpEntries
  intro s t q hst hwf n size base dst sem head keys
  refine ⟨fun hc hbad hsz => ?_, fun hc hbad hsz hal hend hptr hle hcl hlc => ?_, ?_⟩
  · have hexec : exec (.drop t) s = .next (rqPop (popCmb s t) t n size) := by
      show execDrop t s = _
      simp only [execDrop, hc, dropRun]
      exact congrArg Host.Outcome.next (if_neg (not_not.2 hbad))
    have hst' : (getTile (popCmb s t) t).stalled = none := by rw [popCmb, getTile_modTile_same]; exact hst
    obtain ⟨hp, hne, htl, -, hot, hr⟩ := rqPop_shown (s := popCmb s t) (t := t) (n := n) (size := size) hst' hsz
    refine ⟨_, hexec, ⟨hp, hne, ?_⟩, RegsBut.trans (fun _ _ _ => rfl) hr, (onlyTile_modTile _ _ _).trans hot⟩
    rw [getTile, htl]; exact congrArg Tile.cmbQ (getTile_modTile_same s t _)
  · let s1 := memStore s (tmKey t dst) (ringGet s base (rqSize s t n) (rqPtr s t n) size)
    have hexec : exec (.deq t []) s = .next (if cmbCse q.word then semOp (rqPop (popCmb s1 t) t n size) t q.lc sem 1 1
        else rqPop (popCmb s1 t) t n size) := by
      have hd : ¬ (dst % 32 ≠ 0 ∨ 196608 < dst + size) := by omega
      have hs : addFaults s [] = s := rfl
      show execDeq t [] s = _
      simp only [execDeq, hc, hs, deqRun_copies rfl rfl rfl rfl hbad hd
        (fun j m hj hm => tileRead_clean hcl hj hm t (cwLayer q.word, cwOper q.word) true) hptr hle]
      rfl
    have hst' : (getTile (popCmb s1 t) t).stalled = none := by
      rw [popCmb, getTile_modTile_same, getTile_memStore]; exact hst
    have hbut : ∀ p o, rawReg (popCmb s1 t) p o = rawReg s p o := rawReg_memStore s _ _
    have hq : ∀ h l p o, rfld (popCmb s1 t) p o h l = rfld s p o h l := fun h l p o => by rw [rfld, hbut]; rfl
    have hsz1 : rqSize (popCmb s1 t) t n = rqSize s t n := hq _ _ _ _
    have hpt1 : rqPtr (popCmb s1 t) t n = rqPtr s t n := hq _ _ _ _
    have hta1 : rqTail (popCmb s1 t) t n = rqTail s t n := hq _ _ _ _
    have hne1 : rqNonEmpty (popCmb s1 t) t n = rqNonEmpty s t n := by rw [rqNonEmpty, rbit, hq]; rfl
    obtain ⟨hp, hne, htl, hmem, -, hr⟩ :=
      rqPop_shown (s := popCmb s1 t) (t := t) (n := n) (size := size) hst' (by rw [hsz1]; exact hsz)
    rw [hsz1, hpt1] at hp hne
    rw [hta1, hne1] at hne
    generalize hz : rqPop (popCmb s1 t) t n size = z at hexec hp hne htl hmem hr
    have hmem' : z.mem = putBytes s.mem (tmKey t dst) (ringGet s base (rqSize s t n) (rqPtr s t n) size) := by
      rw [hmem]; exact mem_memStore _ _ _
    have hregs : RegsBut s z keys := RegsBut.trans (fun p o _ => hbut p o) hr
    have htile : (getTile z t).cmbQ = (getTile s t).cmbQ.tail := by
      rw [getTile, htl]
      exact (congrArg Tile.cmbQ (getTile_modTile_same s1 t _)).trans (by rw [getTile_memStore])
    have hlen := length_ringGet s base (rqSize s t n) (rqPtr s t n) size
    have hread : ∀ u : State, u.mem = z.mem → readMem u (tmKey t dst) size = ringGet s base (rqSize s t n) (rqPtr s t n) size
        ∧ MemBut s u (tmKey t dst) size := fun u hu =>
      ⟨readMem_putBytes hwf (hu.trans hmem') hlen, memBut_putBytes (hu.trans hmem') le_rfl (by rw [hlen])⟩
    have hsame : getSem z t sem = getSem s t sem := by
      have hn16 : n < 16 := cmbRq_lt q.word
      have hs64 : sem < 64 := cmbCsem_lt q.word
      rw [getSem, hregs _ _ (by
        simp only [keys, regKey, pageBase, semOff, rqOff, List.mem_cons, List.not_mem_nil, or_false]; omega)]; rfl
    refine ⟨_, hexec, ?_⟩
    by_cases hcse : cmbCse q.word
    · obtain ⟨hsem, hso, hsr⟩ := semOp_add_shown z t hlc sem 1
      have hs64 : sem < 64 := cmbCsem_lt q.word
      have hcmb : ∀ o < 0x1000, ∀ h l, rfld (semOp z t q.lc sem 1 1) (.cmb t) o h l = rfld z (.cmb t) o h l := fun o ho h l => by
        rw [rfld, hsr _ _ (by
          simp only [regKey, pageBase, semOff, lcStat, List.mem_cons, List.not_mem_nil, or_false]; omega)]; rfl
      have hn16 : n < 16 := cmbRq_lt q.word
      obtain ⟨hrd, hbt⟩ := hread (semOp z t q.lc sem 1 1) hso.mem
      simp only [hcse, if_true]
      refine ⟨hrd, hbt, ⟨?_, ?_, ?_⟩, ?_, (hregs.weaken (by simp +contextual)).trans (hsr.weaken (by simp +contextual))⟩
      · rw [rqPtr, hcmb _ (by simp only [rqOff]; omega)]; exact hp
      · rw [rqNonEmpty, rbit, hcmb _ (by omega)]; exact hne
      · rw [getTile, hso]; exact htile
      · rw [hsem, hsame]; rfl
    · simp only [hcse, if_false, Bool.false_eq_true]
      obtain ⟨hrd, hbt⟩ := hread z rfl
      exact ⟨hrd, hbt, ⟨hp, hne, htile⟩, by rw [hsame], hregs.weaken (by simp +contextual)⟩
  · intro c opc hm hc hbad
    simp only [List.mem_cons, Prod.mk.injEq, List.not_mem_nil, or_false] at hm
    refine ⟨cmbFail s t q (deqBad s t n), ?_, cmbFail_shown s t q _⟩
    rcases hm with ⟨rfl, rfl⟩ | ⟨rfl, rfl⟩
    · show execDeq t [] s = _
      have hs : addFaults s [] = s := rfl
      simp only [execDeq, hc, hs, deqRun]
      exact congrArg Host.Outcome.next (if_pos hbad)
    · show execDrop t s = _
      simp only [execDrop, hc, dropRun]
      exact congrArg Host.Outcome.next (if_pos hbad)

/-! ## Combining queues -/

theorem cqOff_state (n : Nat) : 0x318 + 0x40 * n = cqOff n + 0x18 := by simp only [cqOff]; omega

/-- The state of a combining queue that is set. -/
theorem cqState_cqSetState (s : State) (t n : Nat) {st : Nat} (h : st < 8) : cqState (cqSetState s t n st) t n = st := by
  rw [cqState, cqSetState, cqOff_state, rfld_putFld_same _ _ _ _ _ _ (by decide) (by decide)]
  exact Nat.mod_eq_of_lt h

/-- A queue that returns to IDLE: its state, nothing counted, and no reservation of it left (Table 10.7). -/
theorem cqIdle_shown {s : State} {t n : Nat} (hn : n < (getTile s t).cqs.length) :
    cqState (cqIdle s t n) t n = 1 ∧ (getCq (cqIdle s t n) t n).counts = []
      ∧ (∀ r ∈ (getTile (cqIdle s t n) t).resvs, r.ep ≠ 8 + n)
      ∧ RegsBut s (cqIdle s t n) [regKey (.cmb t) (cqOff n + 0x18)] ∧ OnlyTile s (cqIdle s t n) t := by
  unfold cqIdle
  set x := cqSetState s t n 1 with hx
  have hlen : n < (getTile (modTile x t (fun x => { x with resvs := x.resvs.filter (fun r => r.ep != 8 + n) })) t).cqs.length := by
    rw [getTile_modTile_same]; exact hn
  refine ⟨cqState_cqSetState s t n (by decide), by rw [getCq_modCq_same _ _ _ _ hlen], ?_,
    RegsBut.trans (regsBut_putFld _ _ _ _ _ _ _ (by simp)) (fun _ _ _ => rfl),
    ((onlyTile_putFld _ _ _ _ _ _ _).trans (onlyTile_modTile _ _ _)).trans (onlyTile_modCq _ _ _ _)⟩
  intro r hr
  rw [modCq, getTile_modTile_same, getTile_modTile_same] at hr
  have hf := (List.mem_filter.1 hr).2
  simpa using hf

theorem leNat_leBytes (n v : Nat) : leNat (leBytes n v) = v % 256 ^ n := by
  induction n generalizing v with
  | zero => simp [leBytes, leNat, Nat.mod_one]
  | succ n ih =>
    rw [leBytes, leNat, ih, pow_succ', Nat.mod_mul, BitVec.toNat_ofNat]

theorem length_leBytes (n v : Nat) : (leBytes n v).length = n := by
  induction n generalizing v with
  | zero => rfl
  | succ n ih => simp [leBytes, ih]

/-- The image of a zero accumulator. -/
def zeroAcc (ty : Nat) : List Byte := leBytes (accClass ty).bytes (accImage ty {})

theorem length_zeroAcc (ty : Nat) : (zeroAcc ty).length = (accClass ty).bytes := length_leBytes _ _

/-- A zero accumulator reads as zero. -/
theorem accOf_zeroAcc : ∀ ty < 8, accOf ty (leNat (zeroAcc ty)) = if isF ty then {} else { z := false } := by
  decide +kernel

/-- A part of the bytes written. -/
theorem getBytes_putBytes_part {m : List Host.Cell} {k j n : Nat} {bs : List Byte} (hw : Memory.wf m = true)
    (h : j + n ≤ bs.length) : getBytes (putBytes m k bs) (k + j) n = (bs.drop j).take n := by
  apply List.ext_getElem (by simp; omega)
  intro i h1 h2
  have hi : i < n := by simpa using h1
  rw [getElem_getBytes _ _ _ _ hi, Nat.add_assoc, getByte_putBytes_in _ _ _ _ hw (by omega)]
  simp

/-- A part of equal parts put together. -/
theorem take_drop_flatten {α : Type} {ls : List (List α)} {b i : Nat} (hb : ∀ l ∈ ls, l.length = b) (h : i < ls.length) :
    (ls.flatten.drop (i * b)).take b = ls[i] := by
  induction i generalizing ls with
  | zero =>
    obtain ⟨l, ls, rfl⟩ := List.exists_cons_of_length_pos h
    have hl : l.length = b := hb l (by simp)
    simp [← hl]
  | succ i ih =>
    obtain ⟨l, ls, rfl⟩ := List.exists_cons_of_length_pos (Nat.zero_lt_of_lt h)
    have hl : l.length = b := hb l (by simp)
    have hmul : (i + 1) * b = l.length + i * b := by rw [hl]; ring
    rw [List.flatten_cons, hmul, ← List.drop_drop, List.drop_left]
    exact ih (fun l' hl' => hb l' (by simp [hl'])) (by simpa using h)

/-- What a CQARM leaves before its event: the queue in ARMING, K, and zero accumulators (R430, R431). -/
def armed (s : State) (t n : Nat) (q : QCmd) : State :=
  let s1 := putReg (cqSetState (popCmb s t) t n 2) (.cmb t) (cqOff n + 0x14) (BitVec.ofNat 32 (cmbK q.word))
  let s2 := putFld s1 (.cmb t) (cqOff n + 0x18) 12 8 0
  let s3 := memStore s2 (cqKey s t n 0) ((List.replicate (cqW s t n) (zeroAcc (cqTy s t n))).flatten)
  modCq s3 t n (fun c => { ({} : Cq) with
    counts := List.replicate ((cqW s t n + 15) / 16) 0, arm := some q, layer := cwLayer q.word, oper := cwOper q.word,
    nextTag := c.nextTag })

/-- The place of an accumulator rests on the configuration alone. -/
theorem cqKey_congr {s u : State} {t n : Nat} (h : ∀ o, o ≠ cqOff n + 0x14 → o ≠ cqOff n + 0x18 →
    rawReg u (.cmb t) o = rawReg s (.cmb t) o) (i : Nat) : cqKey u t n i = cqKey s t n i := by
  simp only [cqKey, cqAmb, cqTy, rfld, h _ (show cqOff n + 4 ≠ cqOff n + 0x14 by omega) (by omega),
    h _ (show cqOff n ≠ cqOff n + 0x14 by omega) (by omega)]

theorem exec_cqarm {s : State} {t : Nat} {q : QCmd} (hc : cmbHead s t 0x10 = some q) (hbad : armBad s t q.word = 0) :
    exec (.cqarm t) s = .next (sillage (armed s t (cmbCq q.word) q) (.cmb t) 0x40 false (cwLayer q.word) (cwOper q.word)
      (BitVec.ofNat 32 (cmbCq q.word))) := by
  show execCqarm t s = _
  have hkey : ∀ n k, cqKey (putFld (putReg (cqSetState (popCmb s t) t n 2) (.cmb t) (cqOff n + 0x14) k)
      (.cmb t) (cqOff n + 0x18) 12 8 0) t n 0 = cqKey s t n 0 := fun n k => cqKey_congr (fun o h14 h18 => by
    rw [rawReg_putFld_off _ _ _ _ _ _ _ h18, rawReg_putReg_off _ _ _ _ _ h14, cqSetState, rawReg_putFld_off _ _ _ _ _ _ _ h18]
    rfl) 0
  simp only [execCqarm, hc, armRun, hbad, ne_eq, not_true_eq_false, if_false, hkey]
  rfl

theorem length_zeros (s : State) (t n : Nat) : ((List.replicate (cqW s t n) (zeroAcc (cqTy s t n))).flatten).length
    = cqW s t n * (accClass (cqTy s t n)).bytes := by
  simp [length_zeroAcc]

/-- What the arming itself shows. -/
theorem armed_shown {s : State} {t n : Nat} (q : QCmd) (hn : n < (getTile s t).cqs.length) :
    cqState (armed s t n q) t n = 2 ∧ rawReg (armed s t n q) (.cmb t) (cqOff n + 0x14) = BitVec.ofNat 32 (cmbK q.word)
      ∧ rfld (armed s t n q) (.cmb t) (cqOff n + 0x18) 12 8 = 0
      ∧ getCq (armed s t n q) t n = { ({} : Cq) with
          counts := List.replicate ((cqW s t n + 15) / 16) 0, arm := some q, layer := cwLayer q.word, oper := cwOper q.word,
          nextTag := (getCq s t n).nextTag }
      ∧ (armed s t n q).mem = putBytes s.mem (cqKey s t n 0) ((List.replicate (cqW s t n) (zeroAcc (cqTy s t n))).flatten)
      ∧ RegsBut s (armed s t n q) [regKey (.cmb t) (cqOff n + 0x14), regKey (.cmb t) (cqOff n + 0x18)] := by
  let s1 := putReg (cqSetState (popCmb s t) t n 2) (.cmb t) (cqOff n + 0x14) (BitVec.ofNat 32 (cmbK q.word))
  let s2 := putFld s1 (.cmb t) (cqOff n + 0x18) 12 8 0
  let s3 := memStore s2 (cqKey s t n 0) ((List.replicate (cqW s t n) (zeroAcc (cqTy s t n))).flatten)
  have hraw : ∀ p o, rawReg (armed s t n q) p o = rawReg s2 p o := fun p o => rawReg_memStore s2 _ _ p o
  have htile : getTile s3 t = { getTile s t with cmbQ := (getTile s t).cmbQ.tail } :=
    (getTile_memStore s2 _ _ t).trans (getTile_modTile_same s t (fun x => { x with cmbQ := x.cmbQ.tail }))
  refine ⟨?_, ?_, ?_, ?_, mem_memStore s2 _ _, RegsBut.trans (v := armed s t n q) (u := s2) ?_ (fun p o _ => hraw p o)⟩
  · rw [cqState, cqOff_state, rfld, hraw]
    have h := rfld_putFld_ne s1 (.cmb t) (cqOff n + 0x18) 12 8 0 2 0 (by decide) (by decide) (by decide) (by decide)
    refine h.trans ?_
    rw [rfld, rawReg_putReg_off _ _ _ _ _ (by omega)]
    have hc := cqState_cqSetState (popCmb s t) t n (st := 2) (by decide)
    rw [cqState, cqOff_state] at hc
    exact hc
  · rw [hraw, rawReg_putFld_off _ _ _ _ _ _ _ (by omega)]
    exact rawReg_putReg_same _ _ _ _
  · rw [rfld, hraw]
    exact rfld_putFld_same s1 (.cmb t) (cqOff n + 0x18) 12 8 0 (by decide) (by decide)
  · have hlen : n < (getTile s3 t).cqs.length := by rw [htile]; exact hn
    refine (getCq_modCq_same s3 t n _ hlen).trans ?_
    rw [getCq, htile]; rfl
  · exact ((RegsBut.trans (fun _ _ _ => rfl) (regsBut_putFld (popCmb s t) (.cmb t) (cqOff n + 0x18) 2 0 2 _ (by simp))).trans
      (regsBut_putReg _ _ _ _ _ (by simp))).trans (regsBut_putFld s1 _ _ _ _ _ _ (by simp))

/-- Settles O33: combining queues armed, refused, armed at the end, and reset. -/
theorem combiningQueuesArm : Obligations.CombiningQueuesArm := by
  unfold Obligations.CombiningQueuesArm
  intro s t q hcqs n off
  have hn8 : n < 8 := cmbCq_lt q.word
  refine ⟨fun hc hbad hwf => ?_, fun hc hbad => ?_, fun k hk hst harm hlive => ?_, fun hc hst => ?_⟩
  · obtain ⟨hst, hk, hfl, hcq, hmem, hregs⟩ := armed_shown (s := s) (t := t) (n := n) q (by rw [hcqs]; exact hn8)
    have hev := events_sillage (armed s t n q) (.cmb t) 0x40 false (cwLayer q.word) (cwOper q.word) (BitVec.ofNat 32 n) []
    generalize hz : sillage (armed s t n q) (.cmb t) 0x40 false (cwLayer q.word) (cwOper q.word) (BitVec.ofNat 32 n) = z at hev
    have hmem' : z.mem = putBytes s.mem (cqKey s t n 0) ((List.replicate (cqW s t n) (zeroAcc (cqTy s t n))).flatten) :=
      hev.mem.trans hmem
    have hraw : ∀ k, 0x14 ≤ k → k < 0x20 → rawReg z (.cmb t) (cqOff n + k) = rawReg (armed s t n q) (.cmb t) (cqOff n + k) :=
      fun k hk0 hk1 => hev.rawReg_eq (by simp) (evKey_cmb t (by simp only [cqOff]; omega) (by
        simp only [cqOff, List.mem_cons, List.not_mem_nil, or_false]; omega))
    have hcqz : getCq z t n = getCq (armed s t n q) t n := by rw [getCq, hev.getTile]; rfl
    refine ⟨z, hz ▸ exec_cqarm hc hbad, ?_, ?_, ?_, fun i hi => ?_, ?_, by rw [hcqz, hcq],
      memBut_putBytes hmem' le_rfl (by rw [length_zeros]), ?_⟩
    · rw [cqState, cqOff_state, rfld, hraw 0x18 (by decide) (by decide)]
      rw [cqState, cqOff_state] at hst
      exact hst
    · rw [cqK, hraw 0x14 (by decide) (by decide), hk, BitVec.toNat_ofNat]
      exact Nat.mod_eq_of_lt (cwBits_lt q.word 31 0)
    · rw [rfld, hraw 0x18 (by decide) (by decide)]
      exact hfl
    · have hty : cqTy s t n < 8 := fld_lt _ _ _
      have hkey : cqKey s t n i = cqKey s t n 0 + i * (accClass (cqTy s t n)).bytes := by
        simp only [cqKey, amKey, tmKey]; omega
      have hfit : i * (accClass (cqTy s t n)).bytes + (accClass (cqTy s t n)).bytes
          ≤ ((List.replicate (cqW s t n) (zeroAcc (cqTy s t n))).flatten).length := by
        rw [length_zeros, ← Nat.succ_mul]; exact Nat.mul_le_mul_right _ hi
      have hpart := take_drop_flatten (ls := List.replicate (cqW s t n) (zeroAcc (cqTy s t n))) (i := i)
        (fun l hl => by rw [List.eq_of_mem_replicate hl, length_zeroAcc]) (by simpa using hi)
      rw [readNat, hmem', hkey, getBytes_putBytes_part hwf hfit, hpart, List.getElem_replicate]
      exact accOf_zeroAcc _ hty
    · rw [hcqz, hcq]
      exact fun k hk => (List.mem_replicate.1 hk).2
    · exact fun p o hne he => (hev.rawReg_eq (by simp) he).trans (hregs p o hne)
  · refine ⟨_, ?_, cmbFail_shown s t q (armBad s t q.word)⟩
    show execCqarm t s = _
    simp only [execCqarm, hc, armRun]
    exact congrArg Host.Outcome.next (if_pos hbad)
  · have hlen : k < (getTile (cqSetState s t k 3) t).cqs.length := by
      rw [show getTile (cqSetState s t k 3) t = getTile s t from rfl, hcqs]; exact hk
    refine ⟨modCq (cqSetState s t k 3) t k (fun c => { c with arm := none }), ?_, cqState_cqSetState s t k (by decide),
      by rw [getCq_modCq_same _ _ _ _ hlen], RegsBut.trans (regsBut_putFld _ _ _ _ _ _ _ (by simp)) (fun _ _ _ => rfl),
      (onlyTile_putFld _ _ _ _ _ _ _).trans (onlyTile_modCq _ _ _ _)⟩
    show execCqArmed t k s = _
    exact if_pos ⟨hst, harm, hlive⟩
  · have hexec : exec (.cqrst t) s = .next (cqIdle (popCmb s t) t n) := by
      show execCqrst t s = _
      simp only [List.mem_cons, List.not_mem_nil, or_false, not_or] at hst
      obtain ⟨h0, h4⟩ := hst
      simp only [execCqrst, hc, cqrstRun]
      split
      · contradiction
      · contradiction
      · rfl
    obtain ⟨h1, h2, h3, h4, h5⟩ := cqIdle_shown (s := popCmb s t) (t := t) (n := n) (by
      rw [popCmb, getTile_modTile_same, hcqs]; exact hn8)
    exact ⟨_, hexec, h1, h2, h3, RegsBut.trans (fun _ _ _ => rfl) h4, (onlyTile_modTile _ _ _).trans h5⟩

end Sys2Proof.Machine
end

section
/-! PROOFS. Requests for a tile's memory: the payload of a packet, and RD, WR, WRA and CRES at TM (sections 8.1 and 8.5). -/

namespace Sys2Proof.Machine

/-! ## Payloads (R326, R327) -/

theorem leNat_lt (l : List Byte) : leNat l < 256 ^ l.length := by
  induction l with
  | nil => simp [leNat]
  | cons b l ih =>
    have hb : b.toNat < 256 := b.isLt
    rw [leNat, List.length_cons, pow_succ]
    omega

theorem leBytes_zero (n : Nat) : leBytes n 0 = List.replicate n 0 := by
  induction n with
  | zero => rfl
  | succ n ih => rw [leBytes, Nat.zero_div, ih, List.replicate_succ]; rfl

/-- A number's bytes are those it was read from, and zeros. -/
theorem leBytes_leNat {n : Nat} (l : List Byte) (h : l.length ≤ n) : leBytes n (leNat l) = l ++ List.replicate (n - l.length) 0 := by
  induction l generalizing n with
  | nil => simp [leNat, leBytes_zero]
  | cons b l ih =>
    obtain ⟨n, rfl⟩ := Nat.exists_eq_succ_of_ne_zero (show n ≠ 0 by simp at h; omega)
    have hb : b.toNat < 256 := b.isLt
    have hd : (b.toNat + 256 * leNat l) / 256 = leNat l := by omega
    have hm : BitVec.ofNat 8 (b.toNat + 256 * leNat l) = b := BitVec.eq_of_toNat_eq (by rw [BitVec.toNat_ofNat]; omega)
    rw [leNat, leBytes, hd, hm, ih (by simpa using h), List.length_cons, Nat.succ_sub_succ, List.cons_append]

theorem length_flitsOfBytes (n : Nat) (l : List Byte) : (flitsOfBytes n l).length = n := by
  induction n generalizing l with
  | zero => rfl
  | succ n ih => simp [flitsOfBytes, ih]

/-- The bytes that a packet's flits hold. -/
def flitBytes (fl : List Flit) : List Byte := fl.flatMap (fun f => leBytes 32 f.bits.toNat)

theorem payload_eq (p : Packet) :
    payload p = ((flitBytes p.data).take (32 * p.data.length - (31 - p.endb))).drop (firstByte p) := rfl

theorem flitBytes_flitsOfBytes {n : Nat} {l : List Byte} (h : l.length ≤ 32 * n) :
    flitBytes (flitsOfBytes n l) = l ++ List.replicate (32 * n - l.length) 0 := by
  induction n generalizing l with
  | zero =>
    have hl : l = [] := List.length_eq_zero_iff.1 (by omega)
    subst hl; rfl
  | succ n ih =>
    have hlen : (l.take 32).length ≤ 32 := by simp
    have hlt : leNat (l.take 32) < 2 ^ 256 :=
      (leNat_lt _).trans_le ((Nat.pow_le_pow_right (by decide) hlen).trans (by norm_num))
    have hhead : leBytes 32 (BitVec.ofNat 256 (leNat (l.take 32))).toNat = l.take 32 ++ List.replicate (32 - (l.take 32).length) 0 := by
      rw [BitVec.toNat_ofNat, Nat.mod_eq_of_lt hlt, leBytes_leNat _ hlen]
    have htail := ih (l := l.drop 32) (by simp; omega)
    rw [flitBytes] at htail ⊢
    rw [flitsOfBytes, List.flatMap_cons, hhead, htail]
    by_cases hl : 32 ≤ l.length
    · have h32 : (l.take 32).length = 32 := by simp [hl]
      have h0 : l = l.take 32 ++ l.drop 32 := (List.take_append_drop 32 l).symm
      rw [h32, Nat.sub_self, List.replicate_zero, List.append_nil, ← List.append_assoc, ← h0, List.length_drop]
      congr 2; omega
    · have hd : l.drop 32 = [] := List.drop_eq_nil_of_le (by omega)
      rw [hd, List.take_of_length_le (by omega), List.nil_append, List.append_assoc, List.replicate_append_replicate,
        List.length_nil]
      congr 2; omega

theorem firstByte_lt (p : Packet) : firstByte p < 32 := by
  unfold firstByte
  split
  · exact Nat.mod_lt _ (by decide)
  · decide

/-- A packet's payload is what was put into it. -/
theorem payload_withPayload (p : Packet) {bs : List Byte} (h : bs ≠ []) : payload (withPayload p bs) = bs := by
  have hpos : 0 < bs.length := List.length_pos_iff.2 h
  have hf : firstByte (withPayload p bs) = firstByte p := rfl
  have hs := firstByte_lt p
  generalize hs0 : firstByte p = s0 at hs hf
  have hdata : (withPayload p bs).data = flitsOfBytes ((s0 + bs.length + 31) / 32) (List.replicate s0 0 ++ bs) := by rw [← hs0]; rfl
  have hend : (withPayload p bs).endb = (s0 + bs.length - 1) % 32 := by
    rw [← hs0]; exact if_neg hpos.ne'
  have htot : 32 * ((s0 + bs.length + 31) / 32) - (31 - (s0 + bs.length - 1) % 32) = s0 + bs.length := by omega
  have hl : (List.replicate s0 (0 : Byte) ++ bs).length = s0 + bs.length := by simp
  rw [payload_eq, hdata, hend, hf, length_flitsOfBytes, htot, flitBytes_flitsOfBytes (by rw [hl]; omega),
    List.take_append_of_le_length (by rw [hl]), List.take_of_length_le (by rw [hl]), List.drop_append_of_le_length (by simp)]
  simp

/-- Marks of error leave the payload as it is. -/
theorem payload_poiFlits (q : Packet) (s : State) (k s0 n : Nat) :
    payload { q with data := poiFlits s k s0 n q.data } = payload q := by
  have hlen : (poiFlits s k s0 n q.data).length = q.data.length := by simp [poiFlits]
  have hb : flitBytes (poiFlits s k s0 n q.data) = flitBytes q.data := by
    have hm : ∀ fl : List Flit, flitBytes fl = (fl.map (·.bits)).flatMap (fun b => leBytes 32 b.toNat) := fun fl => by
      simp [flitBytes, List.flatMap_map]
    rw [hm, hm]
    congr 1
    apply List.ext_getElem (by simp [hlen])
    intro i h1 h2
    simp [poiFlits]
  rw [payload_eq, payload_eq]
  show ((flitBytes (poiFlits s k s0 n q.data)).take (32 * (poiFlits s k s0 n q.data).length - (31 - q.endb))).drop (firstByte q) = _
  rw [hlen, hb]

theorem payload_loadPayload (s : State) (p : Packet) (k : Nat) {n : Nat} (h : 0 < n) :
    payload (loadPayload s p k n) = readMem s k n := by
  have hne : readMem s k n ≠ [] := by
    rw [← List.length_pos_iff, readMem, length_getBytes]; exact h
  exact (payload_poiFlits (withPayload p (readMem s k n)) s k (firstByte p) n).trans (payload_withPayload p hne)

/-- A read that is in form asks for bytes. -/
theorem reqBytes_pos {q : Packet} (hop : q.opc = opRD) (h : formBad q = false) : 0 < reqBytes q := by
  have hrow : rowOk q = true := by
    simp only [formBad, Bool.or_eq_false_iff, Bool.not_eq_false'] at h
    exact h.2
  have ho : q.opc.toNat = 0x01 := by rw [hop]; rfl
  have hx : q.aux.toNat < 4096 ∧ 1 ≤ q.aux.toNat := by
    unfold rowOk at hrow
    simp only [ho, Bool.and_eq_true, decide_eq_true_eq] at hrow
    exact ⟨hrow.1.1.2, hrow.1.2⟩
  have hfld : fld q.aux 11 0 = q.aux.toNat := by
    simp only [fld, bitsOf, Nat.pow_zero, Nat.div_one]
    exact Nat.mod_eq_of_lt hx.1
  rw [reqBytes, if_pos hop, hfld]
  exact hx.2

/-- A request that the checks shared by all endpoints pass is in form. -/
theorem formBad_of_reqCheck {me : Word} {q : Packet} (h : reqCheck me q = none) : formBad q = false := by
  by_contra hb
  rw [Bool.not_eq_false] at hb
  simp [reqCheck, hb] at h

theorem formBad_of_tileCheck {s : State} {t : Nat} {q : Packet} (h : tileCheck s t q = none) : formBad q = false := by
  apply formBad_of_reqCheck (me := meAt s (.tile t) q)
  by_contra hb
  obtain ⟨a, ha⟩ := Option.ne_none_iff_exists'.1 hb
  simp [tileCheck, ha] at h

/-! ## Memory of a tile -/

theorem TileServes.tileData {s : State} {t : Nat} {op : BitVec 8} {q : Packet} (h : TileServes s t op q) :
    tileData s t op = some q := by
  simp only [Machine.tileData, h.reqHead, Option.filter, h.stall, Option.isNone_none, if_true]

theorem TileServes.formed {s : State} {t : Nat} {op : BitVec 8} {q : Packet} (h : TileServes s t op q) : formBad q = false := by
  obtain ⟨-, -, -, hcheck, -⟩ := h
  exact formBad_of_tileCheck hcheck

/-- The answer of TM to an RD. -/
def tmAnswer (s : State) (t : Nat) (q : Packet) : Packet :=
  loadPayload s { response (meAt s (.tile t) q) q opRDRSP with addr := q.addr } (tmKey t q.addr.toNat) (reqBytes q)

theorem tmRead_clean {s : State} {t : Nat} {q : Packet} (h : cleanMem s (tmKey t q.addr.toNat) (reqBytes q) = true) :
    tmRead s t q = answerAt (popReq s (.tile t)) (.tile t) (tmAnswer s t q) := by
  have hr := tileRead_clean (s := popReq s (.tile t)) h le_rfl le_rfl t (q.layer, q.oper) (isDark q)
  simp only [tmRead, hr, tmAnswer]

theorem tileMem_of {s u : State} {t : Nat} (h : OnlyTile s u t) (hr : RegsBut s u []) : TileMem s u t :=
  ⟨hr, h.2, by rw [h.1]⟩

theorem TileMem.trans {s u v : State} {t : Nat} (h : TileMem s u t) (h' : TileMem u v t) : TileMem s v t := by
  obtain ⟨hr, ht, he⟩ := h
  obtain ⟨hr', ht', he'⟩ := h'
  exact ⟨hr.trans hr', fun k hk => (ht' k hk).trans (ht k hk), by rw [he', he]⟩

theorem tileMem_memStore (s : State) (k : Nat) (bs : List Byte) (t : Nat) : TileMem s (memStore s k bs) t := by
  refine ⟨fun p o _ => rawReg_memStore s k bs p o, fun n _ => getTile_memStore s k bs n, ?_⟩
  obtain ⟨e, he⟩ := memStore_shown s k bs
  rw [he]

/-- What the bytes of a request leave at TM: the bytes, and the port without the request. -/
theorem tmStore_shown {s u : State} {t : Nat} {q : Packet} (hw : Memory.wf s.mem = true)
    (hu : OnlyTile (memStore (popReq s (.tile t)) (tmKey t q.addr.toNat) (payload q)) u t)
    (hr : RegsBut (memStore (popReq s (.tile t)) (tmKey t q.addr.toNat) (payload q)) u [])
    (hq : (getTile u t).lreq = (getTile s t).lreq.tail) :
    readMem u (tmKey t q.addr.toNat) (payload q).length = payload q
      ∧ MemBut s u (tmKey t q.addr.toNat) (payload q).length ∧ (getTile u t).lreq = (getTile s t).lreq.tail ∧ TileMem s u t := by
  have hmem : u.mem = putBytes s.mem (tmKey t q.addr.toNat) (payload q) := by
    rw [hu.mem]; exact mem_memStore (popReq s (.tile t)) _ _
  exact ⟨readMem_putBytes hw hmem rfl, memBut_putBytes hmem le_rfl le_rfl, hq,
    ((tileMem_of (onlyTile_popReq s t) (fun _ _ _ => rfl)).trans (tileMem_memStore _ _ _ t)).trans (tileMem_of hu hr)⟩

/-- A posted packet is noted for batched acknowledgement, or its batch of 64 leaves (R358). -/
theorem ackNote_shown (me : Word) (q : Packet) (now : Nat) (l : List Ack) :
    (∃ a ∈ (ackNote me q now l).1, a.src = q.src) ∨ (ackNote me q now l).2.length = 1 := by
  unfold ackNote
  extract_lets mine old a rest
  split
  · exact .inr rfl
  · exact .inl ⟨a, by simp, rfl⟩

theorem ackAt_shown (s : State) (t : Nat) (q : Packet) :
    (∃ a ∈ (getTile (ackAt s (.tile t) q) t).acks, a.src = q.src)
      ∨ (getTile (ackAt s (.tile t) q) t).out.length = (getTile s t).out.length + 1 := by
  let r := ackNote (meAt s (.tile t) q) q (eTime s) (getTile s t).acks
  have htile : getTile (ackAt s (.tile t) q) t = { getTile s t with acks := r.1, out := (getTile s t).out ++ r.2 } :=
    getTile_modTile_same s t (fun x => { x with acks := r.1, out := x.out ++ r.2 })
  rw [htile]
  rcases ackNote_shown (meAt s (.tile t) q) q (eTime s) (getTile s t).acks with hn | hn
  · exact .inl hn
  · exact .inr (by simp only [List.length_append, r, hn])

/-- A write that TM has taken and that is acknowledged in a batch. -/
def tmPosted (s : State) (t : Nat) (q : Packet) : State :=
  ackAt (memStore (popReq s (.tile t)) (tmKey t q.addr.toNat) (payload q)) (.tile t) q

theorem tmWrite_posted {s : State} {t : Nat} {q : Packet} (h : q.opc ≠ opWRA) : tmWrite s t q = tmPosted s t q := by
  simp only [tmWrite, h, if_false, tmPosted]

theorem tmPosted_shown {s : State} {t : Nat} {q : Packet} (hw : Memory.wf s.mem = true) :
    readMem (tmPosted s t q) (tmKey t q.addr.toNat) (payload q).length = payload q
      ∧ MemBut s (tmPosted s t q) (tmKey t q.addr.toNat) (payload q).length
      ∧ (getTile (tmPosted s t q) t).lreq = (getTile s t).lreq.tail ∧ TileMem s (tmPosted s t q) t := by
  obtain ⟨a, o, ha⟩ := getTile_ackAt (memStore (popReq s (.tile t)) (tmKey t q.addr.toNat) (payload q)) t q
  exact tmStore_shown hw (onlyTile_ackAt _ _ _) (fun p o _ => rawReg_ackAt _ _ _ p o) (by
    rw [tmPosted, ha, getTile_memStore, getTile_popReq]; rfl)

/-- Settles O27: RD, WRA, WR and CRES at TM. -/
theorem tileMemoryServes : Obligations.TileMemoryServes := by
  unfold Obligations.TileMemoryServes
  intro s t q hep hwf k next written
  have hs : addFaults s [] = s := rfl
  refine ⟨fun h hcl => ?_, fun h => ?_, fun h => ?_, fun h => ?_⟩
  · have hexec : exec (.rd (.tile t) []) s = .next (answerAt (popReq s (.tile t)) (.tile t) (tmAnswer s t q)) := by
      show execRd (.tile t) [] s = _
      simp only [execRd, h.tileData, Option.elim_some, hs, h.serve, tmRead_clean hcl]
    refine ⟨_, tmAnswer s t q, hexec, ?_, rfl, rfl, rfl, rfl,
      payload_loadPayload s _ k (reqBytes_pos h.opc h.formed), rfl, ?_,
      tileMem_of ((onlyTile_popReq s t).trans (onlyTile_answerAt _ _ _)) (fun _ _ _ => rfl)⟩
    · rw [getTile_answerAt, getTile_popReq]; rfl
    · rw [getTile_answerAt, getTile_popReq]; rfl
  · let s1 := memStore (popReq s (.tile t)) k (payload q)
    let a : Packet := { response (meAt s (.tile t) q) q opWRACK with aux := 1 }
    have hexec : exec (.wra (.tile t) []) s = .next (answerAt s1 (.tile t) a) := by
      show execWra (.tile t) [] s = _
      simp only [execWra, h.tileData, Option.elim_some, hs, h.serve, tmWrite, h.opc, if_true, s1, k, a]
    refine ⟨_, a, hexec, tmStore_shown hwf (onlyTile_answerAt _ _ _) (fun _ _ _ => rfl) ?_, ?_, rfl, rfl, rfl, rfl⟩
    · rw [getTile_answerAt, getTile_memStore, getTile_popReq]; rfl
    · rw [getTile_answerAt, getTile_memStore, getTile_popReq]; rfl
  · have hexec : exec (.wr (.tile t) []) s = .next (tmPosted s t q) := by
      show execWr (.tile t) [] s = _
      simp only [execWr, h.tileData, Option.elim_some, hs, h.serve, tmWrite_posted (show q.opc ≠ opWRA by rw [h.opc]; decide)]
    refine ⟨_, hexec, tmPosted_shown hwf, ?_⟩
    have hout : (getTile (memStore (popReq s (.tile t)) k (payload q)) t).out = (getTile s t).out := by
      rw [getTile_memStore, getTile_popReq]; rfl
    rw [← hout]
    exact ackAt_shown _ t q
  · have hexec : exec (.cres t) s = .next (tmPosted s t q) := by
      have hne : epKind q.dst ≠ .rq := by rw [hep]; decide
      show execCres t s = _
      simp only [execCres, h.cmbReq, h.serve, hne, if_false, tmWrite_posted (show q.opc ≠ opWRA by rw [h.opc]; decide)]
    exact ⟨_, hexec, tmPosted_shown hwf⟩

end Sys2Proof.Machine
end

section
/-! PROOFS. Messages that enter a receive queue, contributions that a combining queue adds, and signals (sections 10.1,
10.2, 10.5 and 4.4). -/

namespace Sys2Proof.Machine

/-! ## Receive queues -/

theorem length_entryBytes (s : State) (t : Nat) (q : Packet) : (entryBytes s t q).length = entrySize (payload q).length := by
  have h : 32 + (payload q).length ≤ entrySize (payload q).length := by unfold entrySize; omega
  simp only [entryBytes, List.length_append, length_leBytes, List.length_replicate]
  omega

/-- Bytes put into a ring, no more than it holds, are found there, and no other byte changes (R402). -/
theorem ringPut_shown {s : State} {base size off : Nat} {bs : List Byte} (hw : Memory.wf s.mem = true) (hoff : off < size)
    (hlen : bs.length ≤ size) : ∀ u, u.mem = (ringPut s base size off bs).mem →
    ringGet u base size off bs.length = bs ∧ MemBut s u base size := by
  intro u hu
  have hmem : u.mem = putBytes (putBytes s.mem (base + off) (bs.take (size - off))) base (bs.drop (size - off)) := by
    rw [hu]; simp only [ringPut, mem_memStore]
  have hw1 : Memory.wf (putBytes s.mem (base + off) (bs.take (size - off))) = true := wf_putBytes _ _ _ hw
  have ht : (bs.take (size - off)).length = min bs.length (size - off) := by rw [List.length_take, Nat.min_comm]
  have hd : (bs.drop (size - off)).length = bs.length - min bs.length (size - off) := by rw [List.length_drop]; omega
  have h1 : readMem u (base + off) (min bs.length (size - off)) = bs.take (size - off) := by
    rw [readMem, hmem, getBytes_putBytes_apart _ _ _ _ _ (by rw [hd]; omega), ← ht]
    exact getBytes_putBytes_same _ _ _ hw
  have h2 : readMem u base (bs.length - min bs.length (size - off)) = bs.drop (size - off) := by
    rw [readMem, hmem, ← hd]
    exact getBytes_putBytes_same _ _ _ hw1
  refine ⟨by rw [ringGet, h1, h2, List.take_append_drop], fun k hk => ?_⟩
  rw [hmem, getByte_putBytes_out _ _ _ _ (by rw [hd]; omega), getByte_putBytes_out _ _ _ _ (by rw [ht]; omega)]

/-- What an accepted message leaves: its entry at the tail, the tail after it, the queue not empty (R406). -/
theorem rqAccept_shown {s : State} {t n : Nat} {q : Packet} (hw : Memory.wf s.mem = true) (htail : rqTail s t n < rqSize s t n)
    (hfit : (entryBytes s t q).length ≤ rqSize s t n) :
    ringGet (rqAccept s t n q) (tmKey t (rqBase s t n)) (rqSize s t n) (rqTail s t n) (entryBytes s t q).length = entryBytes s t q
      ∧ MemBut s (rqAccept s t n q) (tmKey t (rqBase s t n)) (rqSize s t n)
      ∧ rqTail (rqAccept s t n q) t n = (rqTail s t n + (entryBytes s t q).length) % rqSize s t n
      ∧ rqNonEmpty (rqAccept s t n q) t n = true ∧ (getTile (rqAccept s t n q) t).lreq = (getTile s t).lreq
      ∧ RegsBut s (rqAccept s t n q) [regKey (.cmb t) (rqOff n + 0x10), regKey (.cmb t) (rqOff n + 0x14)] := by
  let s1 := ringPut s (tmKey t (rqBase s t n)) (rqSize s t n) (rqTail s t n) (entryBytes s t q)
  let s2 := putFld s1 (.cmb t) (rqOff n + 0x10) 17 0 ((rqTail s t n + (entryBytes s t q).length) % rqSize s t n)
  let s3 := putBit s2 (.cmb t) (rqOff n + 0x14) 0 true
  let s4 := modTile s3 t (fun x => { x with
    refusals := x.refusals.filter (fun r => !(r.src == q.src && r.rq == n && r.tag == q.tag)) })
  have hregs : ∀ p o, rawReg (rqAccept s t n q) p o = rawReg s3 p o := fun _ _ => rfl
  have h1 : RegsBut s s1 [] := fun p o _ => (rawReg_memStore _ _ _ p o).trans (rawReg_memStore _ _ _ p o)
  have hlt : (rqTail s t n + (entryBytes s t q).length) % rqSize s t n < 2 ^ 18 :=
    (Nat.mod_lt _ (by omega)).trans_le (rqSize_le s t n)
  obtain ⟨hring, hbut⟩ := ringPut_shown hw htail hfit (rqAccept s t n q) rfl (base := tmKey t (rqBase s t n))
  have hoff : 0x114 + 0x20 * n = rqOff n + 0x14 := by simp only [rqOff]; omega
  refine ⟨hring, hbut, ?_, ?_, ?_, RegsBut.trans (u := s3) ?_ (fun p o _ => hregs p o)⟩
  · rw [rqTail, rfld, hregs, rawReg_putBit_off _ _ _ _ _ _ (by omega)]
    exact (rfld_putFld_same s1 _ _ _ _ _ (by decide) (by decide)).trans (Nat.mod_eq_of_lt hlt)
  · rw [rqNonEmpty, hoff, rbit, rfld, hregs]
    exact rbit_putBit_same s2 (.cmb t) _ 0 true (by decide)
  · obtain ⟨a, o, ha⟩ := getTile_ackAt s4 t q
    have hacc : rqAccept s t n q = ackAt s4 (.tile t) q := rfl
    have h1t : getTile s1 t = getTile s t := (getTile_memStore _ _ _ t).trans (getTile_memStore _ _ _ t)
    have h3t : getTile s3 t = getTile s1 t := rfl
    have h4 : (getTile s4 t).lreq = (getTile s3 t).lreq := by
      show (getTile (modTile s3 t _) t).lreq = _
      rw [getTile_modTile_same]
    rw [hacc, ha]
    exact h4.trans (congrArg Tile.lreq (h3t.trans h1t))
  · exact ((h1.weaken (by simp)).trans (regsBut_putFld s1 _ _ _ _ _ _ (by simp))).trans (regsBut_putBit s2 _ _ _ _ _ (by simp))

/-- The state in which a receive queue meets a message: the port without it, and the reservation of its sender ended. -/
def rqMet (s : State) (t n : Nat) (q : Packet) : State :=
  popReq (modTile s t (fun x => { x with
    resvs := dropFirst (fun r => r.confirmed && r.src == q.src && r.ep == 0x10 + n && r.tag == q.tag) x.resvs })) (.tile t)

theorem getTile_rqMet (s : State) (t n : Nat) (q : Packet) :
    getTile (rqMet s t n q) t = { reqTaken s t (getTile s t) with
      resvs := dropFirst (fun r => r.confirmed && r.src == q.src && r.ep == 0x10 + n && r.tag == q.tag) (getTile s t).resvs } := by
  rw [rqMet, getTile_popReq, getTile_modTile_same]; rfl

/-- The message of an exec row reaches its queue. -/
theorem exec_message {s : State} {t : Nat} {op : BitVec 8} {c : Instr} {q : Packet}
    (hc : (c, op) ∈ [(.msg t, opMSG), (.cres t, opCRES)]) (h : TileServes s t op q) (hep : epKind q.dst = .rq) :
    exec c s = .next (rqMessage s t q) := by
  simp only [List.mem_cons, Prod.mk.injEq, List.not_mem_nil, or_false] at hc
  rcases hc with ⟨rfl, rfl⟩ | ⟨rfl, rfl⟩
  · show execMsg t s = _
    simp only [execMsg, h.cmbReq, h.serve]
  · show execCres t s = _
    simp only [execCres, h.cmbReq, h.serve, hep, if_true]

/-- Settles O29: messages accepted, and messages refused with OFF and FULL. -/
theorem messagesEnterQueues : Obligations.MessagesEnterQueues := by
  unfold Obligations.MessagesEnterQueues
  intro s t op c q hc hs hep hwf hresv hrefu n size answered
  have hexec := exec_message hc hs hep
  have hsize : entrySize (payload q).length = size := (length_entryBytes s t q).symm
  have hheld : heldSum (modTile s t (fun x => { x with
      resvs := dropFirst (fun r => r.confirmed && r.src == q.src && r.ep == 0x10 + n && r.tag == q.tag) x.resvs })) t (0x10 + n)
      = heldSum s t (0x10 + n) := by
    simp only [heldSum, heldAt, getTile_modTile_same, hresv]; rfl
  have hfits : rqFits (modTile s t (fun x => { x with
      resvs := dropFirst (fun r => r.confirmed && r.src == q.src && r.ep == 0x10 + n && r.tag == q.tag) x.resvs })) t n size
      = rqFits s t n size := by
    unfold rqFits
    rw [hheld]; rfl
  refine ⟨fun hret hen hfit htail => ?_, fun hret hen => ?_, fun hret hen hfit hmode => ?_⟩
  · have hacc : rqMessage s t q = rqAccept (rqMet s t n q) t n q := by
      simp only [rqMessage, hresv, hrefu, hsize]
      simp only [List.any_nil, Bool.false_or, List.length_nil, List.find?_nil, Option.any_none, Bool.false_eq_true, if_false,
        show ¬ (16 ≤ 0) by decide, false_and]
      rw [if_neg hret, if_neg (by rw [hen]; decide), if_pos (hfits.trans hfit)]
      rfl
    have hent : entryBytes (rqMet s t n q) t q = entryBytes s t q := by
      have hnt : ntAt (rqMet s t n q) (.cmb t) = ntAt s (.cmb t) := by
        simp only [ntAt, pageTile, getTile_rqMet]; rfl
      simp only [entryBytes, hnt]
    have hle : (entryBytes s t q).length ≤ rqSize s t n := by
      simp only [rqFits, decide_eq_true_eq] at hfit
      omega
    obtain ⟨h1, h2, h3, h4, h5, h6⟩ := rqAccept_shown (s := rqMet s t n q) (t := t) (n := n) (q := q) hwf htail (by rw [hent]; exact hle)
    rw [hent] at h1 h3
    exact ⟨_, hexec.trans (congrArg _ hacc), h1, h2, h3, h4, by rw [h5, getTile_rqMet]; rfl, RegsBut.trans (fun _ _ _ => rfl) h6⟩
  · have hoff : rqMessage s t q = answerAt (rqMet s t n q) (.tile t) (nakPkt (meAt s (.tile t) q) q nkOFF) := by
      simp only [rqMessage]
      rw [if_neg hret, if_pos hen]
      rfl
    exact ⟨_, nakPkt (meAt s (.tile t) q) q nkOFF, hexec.trans (congrArg _ hoff),
      by rw [getTile_answerAt, getTile_rqMet]; rfl, rfl, rfl, rfl, by rw [getTile_answerAt, getTile_rqMet]; rfl, rfl⟩
  · have hfull : rqMessage s t q = rqRefuse (rqMet s t n q) t n q nkFULL := by
      simp only [rqMessage, hresv, hrefu, hsize]
      simp only [List.any_nil, Bool.false_or, List.length_nil, List.find?_nil, Option.any_none, Bool.false_eq_true, if_false,
        show ¬ (16 ≤ 0) by decide, false_and]
      rw [if_neg hret, if_neg (by rw [hen]; decide), if_neg (by rw [hfits, hfit]; decide), if_pos hmode]
      rfl
    let r : Refusal16 := ⟨q.src, n, q.tag, if rfld s (.cmb t) 0x084 19 0 = 0 then none
      else some (eTime s + usTicks (rfld s (.cmb t) 0x084 19 0))⟩
    have href : rqRefuse (rqMet s t n q) t n q nkFULL = answerAt (modTile (rqMet s t n q) t (fun x => { x with
        refusals := x.refusals ++ [r] })) (.tile t) (nakPkt (meAt s (.tile t) q) q nkFULL) := by
      have hr0 : (getTile (rqMet s t n q) t).refusals = [] := by rw [getTile_rqMet]; exact hrefu
      simp only [rqRefuse, hr0, List.any_nil, Bool.false_eq_true, if_false, List.length_nil, show ¬ (16 ≤ 0) by decide]
      rfl
    exact ⟨_, nakPkt (meAt s (.tile t) q) q nkFULL, hexec.trans (congrArg _ (hfull.trans href)),
      by rw [getTile_answerAt, getTile_modTile_same, getTile_rqMet]; rfl, rfl, rfl, rfl,
      by rw [getTile_answerAt, getTile_modTile_same, getTile_rqMet]; rfl, rfl⟩

/-! ## Combining queues -/

/-- The image of an accumulator to which raw bits have been added. -/
def addedImage (s : State) (t n ty i bits : Nat) : List Byte :=
  leBytes (accClass (cqTy s t n)).bytes (accImage (cqTy s t n) (AccVal.addRaw (accClass (cqTy s t n))
    (accOf (cqTy s t n) (readNat s (cqKey s t n i) (accClass (cqTy s t n)).bytes)) ty bits).1)

/-- A raw value in range is added to an accumulator without errors, and the state stays (R439). -/
theorem cqAddOne_clean {s : State} {t n i ty bits : Nat}
    (hcl : anyUE s (cqKey s t n i) (accClass (cqTy s t n)).bytes = false)
    (hin : (AccVal.addRaw (accClass (cqTy s t n))
      (accOf (cqTy s t n) (readNat s (cqKey s t n i) (accClass (cqTy s t n)).bytes)) ty bits).2 = false) :
    cqAddOne s t n i false ty bits = (addedImage s t n ty i bits, s) := by
  simp only [cqAddOne, accRead, hcl, Bool.false_eq_true, if_false, hin, addedImage]

theorem cqAddAll_clean {s : State} {t n ty eb : Nat} (k i : Nat) (bs : List Byte)
    (hcl : ∀ j < k, anyUE s (cqKey s t n (i + j)) (accClass (cqTy s t n)).bytes = false)
    (hin : ∀ j < k, (AccVal.addRaw (accClass (cqTy s t n))
      (accOf (cqTy s t n) (readNat s (cqKey s t n (i + j)) (accClass (cqTy s t n)).bytes)) ty
      (leNat ((bs.drop (j * eb)).take eb))).2 = false) :
    cqAddAll t n false ty eb k i bs s
      = (((List.range k).map (fun j => addedImage s t n ty (i + j) (leNat ((bs.drop (j * eb)).take eb)))).flatten, s) := by
  induction k generalizing i bs with
  | zero => rfl
  | succ k ih =>
    have hone := cqAddOne_clean (i := i) (bits := leNat (bs.take eb)) (hcl 0 (by omega)) (by simpa using hin 0 (by omega))
    have hshift : ∀ j, (bs.drop eb).drop (j * eb) = bs.drop ((j + 1) * eb) := fun j => by
      rw [List.drop_drop]; congr 1; ring
    have hadd : ∀ j, i + 1 + j = i + (j + 1) := fun j => by omega
    have hrest := ih (i + 1) (bs.drop eb) (fun j hj => by rw [hadd]; exact hcl (j + 1) (by omega)) (fun j hj => by
      rw [hadd, hshift]; exact hin (j + 1) (by omega))
    simp only [hadd, hshift] at hrest
    rw [cqAddAll, hone]
    simp only [hrest, List.range_succ_eq_map, List.map_cons, List.map_map, List.flatten_cons, Nat.zero_mul, List.drop_zero,
      Nat.add_zero]
    rfl

theorem cqKey_add (s : State) (t n i j : Nat) :
    cqKey s t n (i + j) = cqKey s t n i + j * (accClass (cqTy s t n)).bytes := by
  simp only [cqKey, amKey, tmKey, Nat.add_mul]; omega

/-- The state in which a combining queue meets a contribution. -/
def cqMet (s : State) (t n : Nat) (q : Packet) : State :=
  modTile (popReq s (.tile t)) t (fun x => { x with
    resvs := dropFirst (fun r => r.confirmed && r.src == q.src && r.ep == 8 + n && r.tag == q.tag) x.resvs })

/-- The values of a contribution of raw values, as images of the accumulators. -/
def cqAdded (s : State) (t n : Nat) (q : Packet) : List (List Byte) :=
  (List.range (auxCount q)).map (fun j => addedImage s t n (auxTy q) (auxOff q + j)
    (leNat (((payload q).drop (j * tySize (auxTy q))).take (tySize (auxTy q)))))

/-- What a contribution leaves that does not complete its queue (R436, R439). -/
def cqTaken (s : State) (t n : Nat) (q : Packet) : State :=
  ackAt (modCq (memStore (cqMet s t n q) (cqKey s t n (auxOff q)) (cqAdded s t n q).flatten) t n (fun c => { c with
    counts := c.counts.mapIdx (fun i k => if i ∈ contribGroups q then k + 1 else k) })) (.tile t) q

theorem rawReg_cqTaken (s : State) (t n : Nat) (q : Packet) (p : Page) (o : Nat) :
    rawReg (cqTaken s t n q) p o = rawReg s p o := rawReg_memStore (cqMet s t n q) _ _ p o

theorem getTile_cqMet (s : State) (t n : Nat) (q : Packet) :
    getTile (cqMet s t n q) t = { reqTaken s t (getTile s t) with
      resvs := dropFirst (fun r => r.confirmed && r.src == q.src && r.ep == 8 + n && r.tag == q.tag) (getTile s t).resvs } := by
  rw [cqMet, getTile_modTile_same, getTile_popReq]; rfl

theorem getTile_cqStored (s : State) (t n : Nat) (q : Packet) (k : Nat) (bs : List Byte) :
    getTile (memStore (cqMet s t n q) k bs) t = { reqTaken s t (getTile s t) with
      resvs := dropFirst (fun r => r.confirmed && r.src == q.src && r.ep == 8 + n && r.tag == q.tag) (getTile s t).resvs } := by
  rw [getTile_memStore, getTile_cqMet]

/-- The queue and the port that a contribution leaves. -/
theorem cqTaken_tile {s : State} {t n : Nat} (q : Packet) (hn : n < (getTile s t).cqs.length) :
    (getCq (cqTaken s t n q) t n).counts
        = (getCq s t n).counts.mapIdx (fun i k => if i ∈ contribGroups q then k + 1 else k)
      ∧ (getTile (cqTaken s t n q) t).lreq = (getTile s t).lreq.tail := by
  set v := memStore (cqMet s t n q) (cqKey s t n (auxOff q)) (cqAdded s t n q).flatten with hv
  have hvt := getTile_cqStored s t n q (cqKey s t n (auxOff q)) (cqAdded s t n q).flatten
  rw [← hv] at hvt
  set w := modCq v t n (fun c => { c with
    counts := c.counts.mapIdx (fun i k => if i ∈ contribGroups q then k + 1 else k) }) with hw
  obtain ⟨a, o, ha⟩ := getTile_ackAt w t q
  have ht : cqTaken s t n q = ackAt w (.tile t) q := rfl
  have hc : getCq (ackAt w (.tile t) q) t n = getCq w t n := by rw [getCq, ha]; rfl
  have hlen : n < (getTile v t).cqs.length := by rw [hvt]; exact hn
  rw [ht, hc, ha]
  refine ⟨?_, ?_⟩
  · rw [hw, getCq_modCq_same _ _ _ _ hlen, getCq, hvt]; rfl
  · show (getTile w t).lreq = _
    rw [hw, modCq, getTile_modTile_same, hvt]; rfl

/-- A contribution that passes its checks, in the range of its class, and does not complete its queue. -/
theorem cqContrib_taken {s : State} {t n : Nat} {q : Packet} (hn : nodeEp q.dst - 8 = n) (hlen : n < (getTile s t).cqs.length)
    (hen : cqEn s t n = true) (hst : cqState s t n = 3) (hbad : contribBad s t n q = false) (hx : auxX q = false)
    (hresv : (getTile s t).resvs = []) (hroom : ∀ g ∈ contribGroups q, ((getCq s t n).counts[g]?).getD 0 < cqK s t n)
    (hopen : ((getCq s t n).counts.mapIdx (fun i k => if i ∈ contribGroups q then k + 1 else k)).all
      (fun k => cqK s t n ≤ k) = false)
    (hcl : cleanMem s (cqKey s t n (auxOff q)) (auxCount q * (accClass (cqTy s t n)).bytes) = true)
    (hin : ∀ j < auxCount q, (AccVal.addRaw (accClass (cqTy s t n))
      (accOf (cqTy s t n) (readNat s (cqKey s t n (auxOff q + j)) (accClass (cqTy s t n)).bytes)) (auxTy q)
      (leNat (((payload q).drop (j * tySize (auxTy q))).take (tySize (auxTy q))))).2 = false) :
    cqContrib s t q = cqTaken s t n q := by
  have hread : tileRead (cqMet s t n q) t (cqKey (cqMet s t n q) t n (auxOff q)) (auxCount q * (accClass (cqTy s t n)).bytes)
      (q.layer, q.oper) (isDark q) = (false, cqMet s t n q) :=
    tileRead_clean (s := cqMet s t n q) hcl le_rfl le_rfl t (q.layer, q.oper) (isDark q)
  have hone : ∀ j < auxCount q, anyUE (cqMet s t n q) (cqKey s t n (auxOff q + j)) (accClass (cqTy s t n)).bytes = false := fun j hj => by
    have hle := Nat.mul_le_mul_right (accClass (cqTy s t n)).bytes (Nat.succ_le_of_lt hj)
    rw [Nat.succ_mul] at hle
    simp only [cleanMem, Bool.and_eq_true, Bool.not_eq_true'] at hcl
    exact anyUE_sub (s := s) (by rw [cqKey_add]; omega) (by rw [cqKey_add]; omega) hcl.1
  have hadd := cqAddAll_clean (s := cqMet s t n q) (t := t) (n := n) (ty := auxTy q) (eb := tySize (auxTy q)) (auxCount q)
    (auxOff q) (payload q) hone hin
  have hex : ¬ ((contribGroups q).any (fun g => cqK s t n ≤ (((getCq s t n).counts)[g]?).getD 0 + (heldAt s t (8 + n)).length)) = true := by
    have h0 : heldAt s t (8 + n) = [] := by rw [heldAt, hresv]; rfl
    simpa [h0] using hroom
  obtain ⟨hcounts, -⟩ := cqTaken_tile q hlen
  simp only [cqContrib, hn, hst, hbad, hx, ne_eq, not_true_eq_false, if_false, Bool.false_eq_true]
  rw [if_neg (by rw [hen]; decide), if_neg (fun h => hex h.2)]
  unfold cqMet at hread hadd
  rw [hread]
  simp only [hadd]
  refine if_neg (fun h => ?_)
  have hc : (getCq (cqTaken s t n q) t n).counts.all (fun k => cqK s t n ≤ k) = true := h
  rw [hcounts, hopen] at hc
  cases hc

theorem nodeEp_of_cq {d : Word} (h : epKind d = .cq) : 8 ≤ nodeEp d ∧ nodeEp d ≤ 15 := by
  unfold epKind at h
  split at h
  · simp only at h
    split_ifs at h with _ _ _ hcq
    exact hcq
  · simp only at h
    split_ifs at h
  · simp only at h
    split_ifs at h
  · cases h

/-- Settles O30: contributions added to the accumulators, and signals. -/
theorem contributionsAccumulate : Obligations.ContributionsAccumulate := by
  unfold Obligations.ContributionsAccumulate
  intro s t q hwf n ty cls eb key old add counts counts'
  have hs : addFaults s [] = s := rfl
  refine ⟨fun h hep hlen hen hst hbad hx hresv hroom hopen hcl hin => ?_, fun h => ?_⟩
  · have hn8 : n < (getTile s t).cqs.length := by
      have hk := nodeEp_of_cq hep
      rw [hlen]; omega
    have htaken := cqContrib_taken rfl hn8 hen hst hbad hx hresv hroom hopen hcl hin
    have hexec : exec (.contrib (.tile t) []) s = .next (cqTaken s t n q) := by
      show execContrib (.tile t) [] s = _
      simp only [execContrib, h.cmbReq, hs, h.serve, htaken]
      rfl
    obtain ⟨hcounts, hreq⟩ := cqTaken_tile q hn8
    have hmem : (cqTaken s t n q).mem = putBytes s.mem (key 0) (cqAdded s t n q).flatten := mem_memStore (cqMet s t n q) _ _
    have hpiece : ∀ l ∈ cqAdded s t n q, l.length = cls.bytes := fun l hl => by
      obtain ⟨j, -, rfl⟩ := List.mem_map.1 hl
      exact length_leBytes _ _
    have hcount : (cqAdded s t n q).length = auxCount q := by simp [cqAdded]
    have hall : (cqAdded s t n q).flatten.length = auxCount q * cls.bytes := by
      rw [List.length_flatten, List.map_congr_left hpiece]; simp [hcount]
    refine ⟨_, hexec, fun j hj => ?_, memBut_putBytes hmem le_rfl (by rw [hall]), hcounts,
      by rw [cqState, rfld, rawReg_cqTaken]; exact hst, hreq, fun p o _ => rawReg_cqTaken s t n q p o⟩
    have hle := Nat.mul_le_mul_right cls.bytes (Nat.succ_le_of_lt hj)
    rw [Nat.succ_mul] at hle
    have hkey : key j = key 0 + j * cls.bytes := cqKey_add s t n (auxOff q) j
    rw [readMem, hmem, hkey, getBytes_putBytes_part hwf (by rw [hall]; exact hle),
      take_drop_flatten hpiece (by rw [hcount]; exact hj)]
    simp only [cqAdded, List.getElem_map, List.getElem_range, addedImage, add, old, ty, cls, eb, key]
  · have hexec : exec (.signal t) s = .next (semSignal s t q) := by
      show execSignal t s = _
      simp only [execSignal, h.cmbReq, h.serve]
    obtain ⟨h1, h2, h3⟩ := semOp_add_shown (popReq s (.tile t)) t (show 0 < 4 by decide) (q.addr.toNat % 64) q.aux
    exact ⟨_, hexec, h1, RegsBut.trans (fun _ _ _ => rfl) (h3.trans (fun _ _ _ => rfl)),
      ((onlyTile_popReq s t).trans (h2.onlyTile t)).trans (onlyTile_ackAt _ _ _)⟩

end Sys2Proof.Machine
end

section
/-! PROOFS. Timers of a tile and answers that reach MOV (sections 6.6 to 6.8, 7.3, 8.5, 10.2 and 10.7). -/

namespace Sys2Proof.Machine

/-! ## Failures of MOV's commands -/

/-- The registers that an entry of the posted-error log writes: FAIL of its context, the count, and the log. -/
def pelKeys (t lc : Nat) : List Nat :=
  regKey (.mov t) (0x0A0 + 4 * lc) :: regKey (.mov t) 0x088 :: (List.range 64).map (fun i => regKey (.mov t) (0x200 + 4 * i))

theorem pelKeys_entry {t lc n k : Nat} (hn : n < 16) (hk : k < 4) : regKey (.mov t) (0x200 + 0x10 * n + 4 * k) ∈ pelKeys t lc := by
  refine List.mem_cons_of_mem _ (List.mem_cons_of_mem _ (List.mem_map.2 ⟨4 * n + k, List.mem_range.2 (by omega), ?_⟩))
  congr 1; omega

theorem events_pelAdd (s : State) (t lc : Nat) (tag layer oper : Half) (reason : Nat) (node : Word) (dark : Bool) :
    Events s (pelAdd s t lc tag layer oper reason node dark) (pelKeys t lc) := by
  have h0 : regKey (.mov t) (0x0A0 + 4 * lc) ∈ pelKeys t lc := by simp [pelKeys]
  have h88 : regKey (.mov t) 0x088 ∈ pelKeys t lc := by simp [pelKeys]
  have hput : ∀ (x : State) (o : Nat) (v : Word), regKey (.mov t) o ∈ pelKeys t lc → Events x (putReg x (.mov t) o v) (pelKeys t lc) :=
    fun x o v h => events_putReg x _ _ _ _ (.inl h)
  unfold pelAdd
  extract_lets p s1 n note o a a1 b c d
  have e1 : Events s s1 (pelKeys t lc) := hput _ _ _ h0
  split
  · exact (e1.trans (hput _ _ _ h88)).trans (events_captureCore _ _ _ _ _ _ _ _ _ _ _)
  · rename_i hn
    have hn16 : n < 16 := by omega
    have k0 := pelKeys_entry (t := t) (lc := lc) hn16 (show 0 < 4 by decide)
    have k1 := pelKeys_entry (t := t) (lc := lc) hn16 (show 1 < 4 by decide)
    have k2 := pelKeys_entry (t := t) (lc := lc) hn16 (show 2 < 4 by decide)
    have k3 := pelKeys_entry (t := t) (lc := lc) hn16 (show 3 < 4 by decide)
    have ea : Events s1 a1 (pelKeys t lc) := (hput s1 _ _ k0).trans (hput _ _ _ k0)
    have eb : Events a1 b (pelKeys t lc) := hput _ _ _ k1
    have ec : Events b c (pelKeys t lc) := (hput b _ _ k2).trans (hput _ _ _ k3)
    have ed : Events c d (pelKeys t lc) := (hput c _ _ h88).trans (events_captureCore _ _ _ _ _ _ _ _ _ _ _)
    have all := (((e1.trans ea).trans eb).trans ec).trans ed
    exact events_ite all (all.trans (events_sillage _ _ _ _ _ _ _ _))

/-- Of the registers below the log an entry writes FAIL of its context, and what events write. -/
theorem rawReg_pelAdd (s : State) (t lc : Nat) (tag layer oper : Half) (reason : Nat) (node : Word) (dark : Bool) {o : Nat}
    (ho : QuietOff o) (h : o < 0x200) : rawReg (pelAdd s t lc tag layer oper reason node dark) (.mov t) o
      = rawReg (putBit s (.mov t) (0x0A0 + 4 * lc) 0 true) (.mov t) o := by
  have h88 : o ≠ 0x088 := fun e => absurd ho (by rw [e]; simp [QuietOff, eventOffs])
  have hput : ∀ (x : State) (r : Nat) (v : Word), r = 0x088 ∨ 0x200 ≤ r → rawReg (putReg x (.mov t) r v) (.mov t) o = rawReg x (.mov t) o :=
    fun x r v hr => rawReg_putReg_off _ _ _ _ _ (by omega)
  unfold pelAdd
  extract_lets p s1 n note o' a a1 b c d
  have hnote : ∀ x w, rawReg (note x w) (.mov t) o = rawReg x (.mov t) o :=
    fun x w => (eventFrame_captureCore _ _ _ _ _ _ _ _ _ _).quiet _ _ ho
  split
  · exact (hnote _ _).trans (hput _ _ _ (.inl rfl))
  · have hd : rawReg d (.mov t) o = rawReg s1 (.mov t) o := by
      refine (hnote _ _).trans ((hput _ _ _ (.inl rfl)).trans ((hput _ _ _ (.inr (by omega))).trans ((hput _ _ _ (.inr (by omega))).trans
        ((hput _ _ _ (.inr (by omega))).trans ((hput _ _ _ (.inr (by omega))).trans (hput _ _ _ (.inr (by omega))))))))
    split
    · exact hd
    · exact ((eventFrame_sillage _ _ _ _ _ _ _).quiet _ _ ho).trans hd

/-- A command marked as failed, in a tile. -/
def cmdFailed (id : Nat) (x : Tile) : Tile :=
  { x with movOut := x.movOut.map (fun c => if c.id = id then { c with failed := true } else c),
           movCur := x.movCur.map (fun c => if c.id = id then { c with failed := true } else c) }

/-- What the failure of a request leaves (R283, R284). -/
theorem reqFail_shown (s : State) (t : Nat) {r : MovReq} (hlc : r.lc < 4) (reason : Nat) :
    rbit (reqFail s t r reason) (.mov t) (0x0A0 + 4 * r.lc) 0 = true
      ∧ rbit (reqFail s t r reason) (.mov t) 0x010 1 = rbit s (.mov t) 0x010 1
      ∧ getTile (reqFail s t r reason) t = cmdFailed r.cmd (getTile s t) ∧ (reqFail s t r reason).mem = s.mem := by
  have hev := events_pelAdd s t r.lc r.tag r.pkt.layer r.pkt.oper reason r.pkt.dst (reqDark r)
  have hraw : ∀ o, QuietOff o → o < 0x200 → rawReg (reqFail s t r reason) (.mov t) o
      = rawReg (putBit s (.mov t) (0x0A0 + 4 * r.lc) 0 true) (.mov t) o := fun o ho h =>
    rawReg_pelAdd s t r.lc r.tag r.pkt.layer r.pkt.oper reason r.pkt.dst (reqDark r) ho h
  refine ⟨?_, ?_, ?_, hev.mem⟩
  · rw [rbit, rfld, hraw _ (quietOff_of_le (by omega) (by omega)) (by omega)]
    exact rbit_putBit_same s _ _ 0 true (by decide)
  · rw [rbit, rfld, hraw _ quietOff_ctl (by decide), rawReg_putBit_off _ _ _ _ _ _ (by omega)]; rfl
  · show getTile (cmdFail _ t r.cmd) t = _
    rw [cmdFail, getTile_modTile_same, hev.getTile]; rfl

/-! ## MOV with nothing to start -/

/-- MOV with nothing to start and no packet to make goes on with nothing. -/
theorem movPump_of_quiet {s : State} {t : Nat} (h : movQuiet (getTile s t)) (hrst : rbit s (.mov t) 0x010 1 = false) :
    movPump s t = modTile s t stageNone := by
  obtain ⟨hq, hcur, hstage⟩ := h
  have hpump : stagePump s t = modTile s t stageNone := by simp only [stagePump, hstage, List.foldl_nil]; rfl
  have htile := getTile_modTile_same s t stageNone
  exact movPump_of_idle hpump (by rw [htile]; exact hq) (by rw [htile]; exact hcur) hrst

/-- The response is MOV's to take. -/
theorem MovTakes.take {s : State} {t : Nat} {op : BitVec 8} {q : Packet} (h : MovTakes s t op q) :
    takeRsp s (.tile t) op = movAnswer (popRsp s (.tile t)) t q := by
  obtain ⟨hrsp, hep, hstop, hlen, hiso, -⟩ := h
  have hw : rspWaits s t q = false := by simp [rspWaits, hstop, hep]
  have hi : isolated (popRsp s (.tile t)) t = false := hiso
  simp only [takeRsp, hrsp, hw, Bool.false_eq_true, if_false, tileRsp, hlen, hi, or_self, hep, if_true]

theorem MovTakes.opc {s : State} {t : Nat} {op : BitVec 8} {q : Packet} (h : MovTakes s t op q) : q.opc = op := by
  obtain ⟨hrsp, -⟩ := h
  simp only [rspHead, Option.filter_eq_some_iff, beq_iff_eq] at hrsp
  exact hrsp.2

/-- What the tile holds when its response has left the port. -/
def rspTaken (x : Tile) : Tile := { x with lrsp := x.lrsp.tail }

theorem getTile_popRsp (s : State) (t : Nat) : getTile (popRsp s (.tile t)) t = rspTaken (getTile s t) :=
  getTile_modTile_same s t _

/-- The answer of a request goes to it. -/
theorem Awaits.answer {s : State} {t : Nat} {q : Packet} {r : MovReq} (h : Awaits s t q r) (hop : q.opc ≠ opWRACK) :
    movAnswer (popRsp s (.tile t)) t q = movDeliver (popRsp s (.tile t)) t r q := by
  obtain ⟨hreq, hans, hresv, hsink, hstage, hlease, hmc, htent⟩ := h
  have hx := getTile_popRsp s t
  have hreq' : reqOf (getTile (popRsp s (.tile t)) t) q.tag = some r := by rw [hx]; exact hreq
  have hresv' : resvOf (getTile (popRsp s (.tile t)) t) q = none := by rw [hx]; exact hresv
  have hl : leaseEarly (popRsp s (.tile t)) r = none := by simp [leaseEarly, hlease]
  simp only [movAnswer, hop, if_false, hresv', hreq', Option.filter, hans, Bool.true_or, if_true, hl, Option.isSome_none,
    Bool.false_eq_true]

/-! ## Answers to requests -/

/-- What the tile holds when a request of a TAG is over. -/
def reqDropped (tag : Half) (x : Tile) : Tile := { x with movReqs := dropFirst (fun r => r.tag == tag) x.movReqs }

theorem getTile_reqDrop (s : State) (t : Nat) (tag : Half) : getTile (reqDrop s t tag) t = reqDropped tag (getTile s t) :=
  getTile_modTile_same s t _

/-- An answered request is one of the tile's. -/
theorem Awaits.dropped {s : State} {t : Nat} {q : Packet} {r : MovReq} (h : Awaits s t q r) :
    (dropFirst (fun u => u.tag == r.tag) (getTile s t).movReqs).length + 1 = (getTile s t).movReqs.length := by
  obtain ⟨hreq, -⟩ := h
  have hm := List.mem_of_find?_eq_some hreq
  obtain ⟨a, ha⟩ := Option.isSome_iff_exists.1 (List.find?_isSome.2 ⟨r, hm, by simp⟩ :
    ((getTile s t).movReqs.find? (fun u => u.tag == r.tag)).isSome)
  exact length_dropFirst ha

/-- Bytes that land for an answered request, where MOV has nothing else to do. -/
def landed (s : State) (t : Nat) (r : MovReq) (bs : List Byte) : State :=
  modTile (memStore (reqDrop (popRsp s (.tile t)) t r.tag) (tmKey t r.land) bs) t stageNone

theorem landed_shown {s : State} {t n : Nat} {q : Packet} {r : MovReq} (hw : Memory.wf s.mem = true) (h : Awaits s t q r)
    (hn : (payload q).length = n) :
    readMem (landed s t r (payload q)) (tmKey t r.land) n = payload q ∧ MemBut s (landed s t r (payload q)) (tmKey t r.land) n
      ∧ (getTile (landed s t r (payload q)) t).movReqs.length + 1 = (getTile s t).movReqs.length
      ∧ (getTile (landed s t r (payload q)) t).lrsp = (getTile s t).lrsp.tail ∧ RegsBut s (landed s t r (payload q)) [] := by
  have hmem : (landed s t r (payload q)).mem = putBytes s.mem (tmKey t r.land) (payload q) :=
    mem_memStore (reqDrop (popRsp s (.tile t)) t r.tag) _ _
  have htile : getTile (landed s t r (payload q)) t = stageNone (reqDropped r.tag (rspTaken (getTile s t))) := by
    rw [landed, getTile_modTile_same, getTile_memStore, getTile_reqDrop, getTile_popRsp]
  refine ⟨readMem_putBytes hw hmem hn, memBut_putBytes hmem le_rfl (by rw [hn]), ?_, by rw [htile]; rfl,
    fun p o _ => rawReg_memStore (reqDrop (popRsp s (.tile t)) t r.tag) _ _ p o⟩
  rw [htile]; exact h.dropped

/-- MOV goes on after bytes have landed. -/
theorem movPump_landed {s : State} {t : Nat} {r : MovReq} {bs : List Byte} (hq : movQuiet (getTile s t))
    (hrst : rbit s (.mov t) 0x010 1 = false) :
    movPump (memStore (reqDrop (popRsp s (.tile t)) t r.tag) (tmKey t r.land) bs) t = landed s t r bs := by
  refine movPump_of_quiet ?_ ?_
  · rw [getTile_memStore, getTile_reqDrop, getTile_popRsp]; exact hq
  · rw [rbit, rfld, rawReg_memStore]; exact hrst

/-- A request that has failed, where MOV has nothing else to do. -/
theorem failed_shown {s : State} {t : Nat} {q : Packet} {r : MovReq} (h : Awaits s t q r) (hlc : r.lc < 4)
    (hq : movQuiet (getTile s t)) (hrst : rbit s (.mov t) 0x010 1 = false) (reason : Nat) :
    let u := movPump (reqFail (reqDrop (popRsp s (.tile t)) t r.tag) t r reason) t
    rbit u (.mov t) (0x0A0 + 4 * r.lc) 0 = true ∧ (getTile u t).movReqs.length + 1 = (getTile s t).movReqs.length
      ∧ u.mem = s.mem ∧ (getTile u t).lrsp = (getTile s t).lrsp.tail := by
  obtain ⟨hfail, hctl, htile, hmem⟩ := reqFail_shown (reqDrop (popRsp s (.tile t)) t r.tag) t hlc reason
  rw [getTile_reqDrop, getTile_popRsp] at htile
  have hquiet : movQuiet (getTile (reqFail (reqDrop (popRsp s (.tile t)) t r.tag) t r reason) t) := by
    obtain ⟨h1, h2, h3⟩ := hq
    rw [htile]
    exact ⟨h1, by simp [cmdFailed, reqDropped, rspTaken, h2], h3⟩
  rw [movPump_of_quiet hquiet (hctl.trans hrst)]
  refine ⟨hfail, ?_, hmem, ?_⟩
  · rw [getTile_modTile_same, htile]; exact h.dropped
  · rw [getTile_modTile_same, htile]; rfl

/-- A refusal of a request that is not tentative, not a multicast and not retried fails it (R283, R288). -/
theorem movRefused_fails {s : State} {t : Nat} {r : MovReq} {q : Packet} (hsink : r.sink = false) (hmc : r.pkt.mc = false)
    (htent : cmdTent (getTile s t) r = false) (hnak : q.opc = opNAK → fld q.aux 7 0 ∉ [nkFULL, nkHOLD, nkPOLICED]) :
    movRefused s t r q = reqFail (reqDrop s t r.tag) t r (if q.opc = opDEAD then rsDEAD else fld q.aux 7 0) := by
  simp only [movRefused, hsink, htent, hmc, Bool.false_eq_true, and_false, false_and, if_false]
  by_cases h : q.opc = opNAK
  · have hd : ¬ q.opc = opDEAD := by rw [h]; decide
    have hr := hnak h
    simp only [List.mem_cons, List.not_mem_nil, or_false, ← or_assoc] at hr
    simp only [h, if_true, if_neg (show ¬ opNAK = opDEAD by decide), reqNak, or_assoc] at hr ⊢
    rw [if_neg (fun e => hr e.1)]
  · simp only [h, if_false]

/-- Settles O35: responses and refusals at the requests that await them, and the grant of a reservation. -/
theorem answersReachMov : Obligations.AnswersReachMov := by
  unfold Obligations.AnswersReachMov
  intro s t q r hwf hlc fails reads
  have hrefuse : ∀ op, MovTakes s t op q → Awaits s t q r →
      (op = opNAK ∨ op = opDEAD ∨ (op = opWFN ∧ (r.kind = .posted ∨ r.kind = .wra))) →
      (op = opNAK → fld q.aux 7 0 ∉ [nkFULL, nkHOLD, nkPOLICED]) → ∃ u, takeRsp s (.tile t) op = u ∧ fails u := by
    intro op h ha hop hnak
    have hopc := h.opc
    subst hopc
    obtain ⟨-, -, -, -, -, hq, hrst⟩ := id h
    obtain ⟨-, -, -, hsink, -, -, hmc, htent⟩ := id ha
    have h1 : q.opc ≠ opWRACK ∧ q.opc ≠ opRDRSP ∧ q.opc ≠ opREGRSP := by
      rcases hop with e | e | ⟨e, -⟩ <;> rw [e] <;> decide
    obtain ⟨hw, hrd, hreg⟩ := h1
    have htent' : cmdTent (getTile (popRsp s (.tile t)) t) r = false := by rw [getTile_popRsp]; exact htent
    refine ⟨_, ?_, failed_shown ha hlc hq hrst (if q.opc = opDEAD then rsDEAD else fld q.aux 7 0)⟩
    rw [h.take, ha.answer hw, movDeliver, if_neg hrd, if_neg hreg, if_pos hop, movRefused_fails hsink hmc htent' hnak]
  refine ⟨fun h ha hk had hlen hpoi => ?_, fun h ha hk hl hlen hpoi => ?_, fun h ha hk => ?_, fun h ha => ?_, fun h ha hn => ?_,
    fun h hreqs hlive hk htag hdst => ?_, fun v h hv hst hnoted => ?_⟩
  · obtain ⟨-, -, -, -, -, hq, hrst⟩ := id h
    obtain ⟨-, -, -, hsink, hstage, -, -, htent⟩ := id ha
    have htent' : cmdTent (getTile (popRsp s (.tile t)) t) r = false := by rw [getTile_popRsp]; exact htent
    have hland : movRdrsp (popRsp s (.tile t)) t r q
        = memStore (reqDrop (popRsp s (.tile t)) t r.tag) (tmKey t r.land) (payload q) := by
      rw [movRdrsp, if_neg (by simp [hk, had, hlen]), if_neg (by simp [hsink]), if_neg (by simp [htent'])]
      simp only [readLand, hpoi, hstage, Bool.false_eq_true, if_false, ← hlen, List.take_length]
    have hexec : exec (.rdrsp (.tile t)) s = .next (landed s t r (payload q)) := by
      show Host.Outcome.next (takeRsp s (.tile t) opRDRSP) = _
      rw [h.take, ha.answer (by rw [h.opc]; decide), movDeliver, if_pos h.opc, hland, movPump_landed hq hrst]
    exact ⟨_, hexec, landed_shown hwf ha hlen⟩
  · obtain ⟨-, -, -, -, -, hq, hrst⟩ := id h
    obtain ⟨-, -, -, -, hstage, -, -, -⟩ := id ha
    have hland : movRegrsp (popRsp s (.tile t)) t r q
        = memStore (reqDrop (popRsp s (.tile t)) t r.tag) (tmKey t r.land) (payload q) := by
      rw [movRegrsp, if_pos ⟨hk, hl⟩]
      simp only [hpoi, hstage, Bool.false_eq_true, if_false, ← hlen, List.take_length]
    have hexec : exec (.regrsp (.tile t)) s = .next (landed s t r (payload q)) := by
      show Host.Outcome.next (takeRsp s (.tile t) opREGRSP) = _
      rw [h.take, ha.answer (by rw [h.opc]; decide), movDeliver, if_neg (by rw [h.opc]; decide), if_pos h.opc, hland,
        movPump_landed hq hrst]
    exact ⟨_, hexec, landed_shown hwf ha hlen⟩
  · obtain ⟨u, hu, hf⟩ := hrefuse opWFN h ha (.inr (.inr ⟨rfl, hk⟩)) (fun e => absurd e (by decide))
    exact ⟨u, congrArg Host.Outcome.next hu, hf⟩
  · obtain ⟨u, hu, hf⟩ := hrefuse opDEAD h ha (.inr (.inl rfl)) (fun e => absurd e (by decide))
    exact ⟨u, congrArg Host.Outcome.next hu, hf⟩
  · obtain ⟨u, hu, hf⟩ := hrefuse opNAK h ha (.inl rfl) (fun _ => hn)
    exact ⟨u, congrArg Host.Outcome.next hu, hf⟩
  · obtain ⟨-, -, -, -, -, hq, hrst⟩ := id h
    have hx := getTile_popRsp s t
    have hfind : (getTile (popRsp s (.tile t)) t).movReqs.find?
        (fun r => r.live && r.kind == .wra && r.tag == q.tag && r.pkt.dst == q.src) = some r := by
      rw [hx]
      simp [rspTaken, hreqs, hlive, hk, htag, hdst]
    have hdrop := getTile_reqDrop (popRsp s (.tile t)) t r.tag
    rw [hx] at hdrop
    have hexec : exec (.wrack (.tile t)) s = .next (modTile (reqDrop (popRsp s (.tile t)) t r.tag) t stageNone) := by
      show Host.Outcome.next (takeRsp s (.tile t) opWRACK) = _
      have hm : movWrack (popRsp s (.tile t)) t q = reqDrop (popRsp s (.tile t)) t r.tag := by
        simp only [movWrack, hfind]
      rw [h.take, movAnswer]
      simp only [h.opc, if_true, hm]
      rw [movPump_of_quiet (s := reqDrop (popRsp s (.tile t)) t r.tag) (by rw [hdrop]; exact hq) hrst]
    refine ⟨_, hexec, ?_, fun _ _ _ => rfl, ((onlyTile_modTile _ _ _).trans (onlyTile_modTile _ _ _)).trans (onlyTile_modTile _ _ _)⟩
    rw [getTile_modTile_same, hdrop]
    simp [stageNone, reqDropped, rspTaken, hreqs, dropFirst]
  · obtain ⟨-, -, -, -, -, hq, hrst⟩ := id h
    have hx := getTile_popRsp s t
    let put : Tile → Tile := fun x => { x with
      srcResvs := x.srcResvs.map (fun u => if u.tag = v.tag then { u with st := .granted } else u) }
    have hputt : getTile (modTile (popRsp s (.tile t)) t put) t = put (rspTaken (getTile s t)) := by
      rw [getTile_modTile_same, hx]
    have hans : resvAnswer (popRsp s (.tile t)) t v true = modTile (modTile (popRsp s (.tile t)) t put) t stageNone := by
      have hpump : movPump (modTile (popRsp s (.tile t)) t put) t = modTile (modTile (popRsp s (.tile t)) t put) t stageNone :=
        movPump_of_quiet (by rw [hputt]; exact hq) hrst
      rw [← hpump]
      simp only [resvAnswer, hst, hnoted, if_true, Bool.not_true, Bool.false_and, Bool.false_eq_true, if_false]
      rw [if_neg (by decide), if_neg (by decide)]
      split <;> rfl
    have hexec : exec (.rsvack (.tile t)) s = .next (modTile (modTile (popRsp s (.tile t)) t put) t stageNone) := by
      show Host.Outcome.next (takeRsp s (.tile t) opRSVACK) = _
      have hv' : resvOf (getTile (popRsp s (.tile t)) t) q = some v := by rw [hx]; exact hv
      have hne : ¬ opRSVACK = opWRACK := by decide
      rw [h.take, movAnswer]
      simp only [h.opc, hne, if_false, hv', beq_self_eq_true, hans]
    refine ⟨_, hexec, ⟨{ v with st := .granted }, ?_, rfl, rfl⟩, fun _ _ _ => rfl,
      ((onlyTile_modTile _ _ _).trans (onlyTile_modTile _ _ _)).trans (onlyTile_modTile _ _ _)⟩
    have hmem : v ∈ (getTile s t).srcResvs := by
      simp only [resvOf, h.opc] at hv
      exact List.mem_of_find?_eq_some hv
    rw [getTile_modTile_same, hputt]
    exact List.mem_map.2 ⟨v, hmem, by simp⟩

/-! ## Timers -/

/-- A message refused: its answer alone leaves, and its queue keeps what it holds (R412). -/
theorem rqRefuse_shown (s : State) (t n : Nat) (q : Packet) (reason : Nat) :
    (getTile (rqRefuse s t n q reason) t).out = (getTile s t).out ++ [nakPkt (meAt s (.tile t) q) q reason]
      ∧ (getTile (rqRefuse s t n q reason) t).lreq = (getTile s t).lreq
      ∧ (getTile (rqRefuse s t n q reason) t).stalled = (getTile s t).stalled ∧ (rqRefuse s t n q reason).mem = s.mem := by
  unfold rqRefuse
  extract_lets x to_ s1
  have h1 : (getTile s1 t).out = (getTile s t).out ∧ (getTile s1 t).lreq = (getTile s t).lreq
      ∧ (getTile s1 t).stalled = (getTile s t).stalled ∧ s1.mem = s.mem := by
    simp only [s1]
    split_ifs
    · exact ⟨rfl, rfl, rfl, rfl⟩
    · have hev := events_isrBit s (.cmb t) 3 (0, 0) []
      rw [hev.getTile]
      exact ⟨rfl, rfl, rfl, hev.mem⟩
    all_goals
      rw [getTile_modTile_same]
      exact ⟨rfl, rfl, rfl, rfl⟩
  obtain ⟨ho, hl, hs, hm⟩ := h1
  rw [getTile_answerAt]
  exact ⟨by rw [ho], hl, hs, hm⟩

/-- A result packet of a queue that waits for no resend, up to its place in the injection queue. -/
def Resent (s : State) (t n : Nat) (tag : Half) (tries : Nat) (pkt : Packet) : Prop :=
  (getTile s t).cqs.length = 8 ∧ ∃ r ∈ (getCq s t n).res, r.tag = tag ∧ r.due = none ∧ r.tries = tries ∧ r.pkt = pkt

theorem mem_modFirst_or {α : Type} (f : α → Bool) (g : α → α) {l : List α} {a : α} (h : a ∈ l) :
    a ∈ modFirst f g l ∨ g a ∈ modFirst f g l := by
  induction l with
  | nil => cases h
  | cons b l ih =>
    by_cases hb : f b
    · rcases List.mem_cons.1 h with rfl | h
      · exact .inr (by simp [modFirst, hb])
      · exact .inl (by simp [modFirst, hb, h])
    · rcases List.mem_cons.1 h with rfl | h
      · exact .inl (by simp [modFirst, hb])
      · rcases ih h with h | h
        · exact .inl (by simp [modFirst, hb, h])
        · exact .inr (by simp [modFirst, hb, h])

theorem getCq_modCq_ne (s : State) (t n m : Nat) (f : Cq → Cq) (h : m ≠ n) : getCq (modCq s t n f) t m = getCq s t m := by
  simp [getCq, modCq, listMod, Ne.symm h]

theorem length_cqs_modCq (s : State) (t n : Nat) (f : Cq → Cq) :
    (getTile (modCq s t n f) t).cqs.length = (getTile s t).cqs.length := by
  simp [modCq, listMod]

/-- A result packet that is put into its injection queue. -/
def resQueued (s : State) (t m : Nat) (r : ResPkt) (q : Nat) : State :=
  iqPush (modCq s t m (fun c => { c with
    res := modFirst (fun u => u.tag == r.tag) (fun u => { u with queued := true }) c.res })) t q r.pkt

theorem onlyTile_resQueued (s : State) (t m : Nat) (r : ResPkt) (q : Nat) : OnlyTile s (resQueued s t m r q) t := by
  unfold resQueued iqPush
  exact (onlyTile_modCq _ _ _ _).trans (onlyTile_modTile _ _ _)

theorem resent_resQueued {s : State} {t n m q : Nat} {tag : Half} {tries : Nat} {pkt : Packet} (r : ResPkt)
    (hn : n < 8) (h : Resent s t n tag tries pkt) : Resent (resQueued s t m r q) t n tag tries pkt := by
  obtain ⟨hlen, r', hr, htag, hdue, htries, hpkt⟩ := h
  let f : Cq → Cq := fun c => { c with res := modFirst (fun u => u.tag == r.tag) (fun u => { u with queued := true }) c.res }
  have htile : getTile (resQueued s t m r q) t = { getTile (modCq s t m f) t with
      iq := listMod (getTile (modCq s t m f) t).iq q (· ++ [r.pkt]) } := getTile_modTile_same _ _ _
  have hcq : getCq (resQueued s t m r q) t n = getCq (modCq s t m f) t n := by rw [getCq, htile]; rfl
  refine ⟨by rw [htile]; exact (length_cqs_modCq s t m f).trans hlen, ?_⟩
  rw [hcq]
  by_cases hm : n = m
  · subst hm
    rw [getCq_modCq_same _ _ _ _ (by omega)]
    rcases mem_modFirst_or (fun u => u.tag == r.tag) (fun u => { u with queued := true }) hr with h | h
    · exact ⟨r', h, htag, hdue, htries, hpkt⟩
    · exact ⟨_, h, htag, hdue, htries, hpkt⟩
  · rw [getCq_modCq_ne _ _ _ _ _ hm]
    exact ⟨r', hr, htag, hdue, htries, hpkt⟩

/-- Packets of combining queues that go into their injection queues change the tile alone, and no register. -/
theorem cmbPump_kept {s v : State} {t n : Nat} {tag : Half} {tries : Nat} {pkt : Packet} (hn : n < 8)
    (hv : Resent v t n tag tries pkt ∧ RegsBut s v [] ∧ OnlyTile s v t) :
    Resent (cmbPump v t) t n tag tries pkt ∧ RegsBut s (cmbPump v t) [] ∧ OnlyTile s (cmbPump v t) t := by
  unfold cmbPump
  split
  · exact hv
  · let Kept (u : State) : Prop := Resent u t n tag tries pkt ∧ RegsBut s u [] ∧ OnlyTile s u t
    have hput : ∀ u m q r, Kept u → Kept (resQueued u t m r q) := fun u m q r ⟨h1, h2, h3⟩ =>
      ⟨resent_resQueued r hn h1, h2.trans (fun _ _ _ => rfl), h3.trans (onlyTile_resQueued u t m r q)⟩
    refine List.foldlRecOn (motive := Kept) _ _ hv (fun u hu m _ => List.foldlRecOn (motive := Kept) _ _ hu (fun u hu r _ => ?_))
    dsimp only
    split
    · exact hput u m _ r hu
    · exact hu

/-- A result packet is taken up again. -/
theorem resPut_resent {s : State} {t n : Nat} {tag : Half} {r : ResPkt} (hn : n < 8) (hlen : (getTile s t).cqs.length = 8)
    (hr : r ∈ (getCq s t n).res) (htag : r.tag = tag) :
    Resent (resPut s t n tag (some { r with due := none, inj := none, queued := false, tries := r.tries + 1 })) t n tag
      (r.tries + 1) r.pkt := by
  refine ⟨by rw [resPut, length_cqs_modCq]; exact hlen, { r with due := none, inj := none, queued := false, tries := r.tries + 1 },
    ?_, htag, rfl, rfl, rfl⟩
  rw [resPut, getCq_modCq_same _ _ _ _ (by omega)]
  exact List.mem_flatMap.2 ⟨r, hr, by simp [htag]⟩

/-- A time in the past does not move the clock. -/
theorem atLeast_zero {s : State} (h : s.tkp.steps ≤ fullT s) : atLeast s 0 = s := by
  have hd : ((0 : Int) + s.tkp.steps - fullT s).toNat = 0 := by omega
  simp only [atLeast, atT, Nat.cast_zero, hd, if_true]

/-- The end of a pump of MOV that has nothing to start: what is left of a reset of its page changes no memory. -/
theorem movPump_of_still {s : State} {t : Nat} (h : movQuiet (getTile s t)) : movPump s t = movSrst (modTile s t stageNone) t := by
  obtain ⟨hq, hcur, hstage⟩ := h
  have hpump : stagePump s t = modTile s t stageNone := by simp only [stagePump, hstage, List.foldl_nil]; rfl
  have htile := getTile_modTile_same s t stageNone
  have hcur' : (getTile (modTile s t stageNone) t).movCur = none := by rw [htile]; exact hcur
  have hq' : (getTile (modTile s t stageNone) t).movQ = [] := by rw [htile]; exact hq
  generalize modTile s t stageNone = z at hpump hcur' hq'
  have hcut : iter (fun s => cutStep s t) 12 z = z := iter_of_fixed (by simp [cutStep, hcur']) 12
  have hsig : sigStart z t = z := by simp [sigStart, hq']
  simp only [movPump, hpump, hcut, hsig]

theorem movSrst_leaseHeld (s : State) (t : Nat) : (getTile (movSrst s t) t).leaseHeld = (getTile s t).leaseHeld := by
  unfold movSrst
  split
  · rw [movSrstEnd, getTile_modTile_same]; rfl
  · rfl

/-- Settles O34: HOLD, refusals, resends, batches of acknowledgement and lease reads, each at its deadline. -/
theorem tileTimersAct : Obligations.TileTimersAct := by
  unfold Obligations.TileTimersAct
  intro s t
  refine ⟨fun n d q rest hst hl hlive h0 hd hfit => ?_, fun n r d hr hdue h0 hd => ?_, fun n tag r d hn hlen hr hdue h0 hd hlive => ?_,
    fun me src a ha hd => ?_, fun tag h r hh hreq hearly hruns hq hk hsink hstage htent hop had hlen hpoi htag hwf hsteps => ?_⟩
  · have hnow : atLeast s d = s := atLeast_of_le h0 hd
    have hun : rqUnstall s t = s := by simp only [rqUnstall, hst, hl, hfit, Bool.false_eq_true, if_false]
    let s1 := popReq (modTile s t (fun x => { x with stalled := none })) (.tile t)
    have hexec : exec (.bpHoldExpiry t n) s = .next (rqRefuse s1 t n q nkHOLD) := by
      show execBpHoldExpiry t n s = _
      simp only [execBpHoldExpiry, hst, if_true, stallOver, hlive, hnow, hun, Option.isNone_some, Bool.false_eq_true, if_false,
        stallEnd, hl, s1]
    have htile : getTile s1 t = reqTaken s t { getTile s t with stalled := none } := by
      rw [getTile_popReq, getTile_modTile_same]; rfl
    obtain ⟨ho, hlr, hsl, hm⟩ := rqRefuse_shown s1 t n q nkHOLD
    rw [htile] at ho hlr hsl
    exact ⟨_, _, hexec, hsl, by rw [hlr]; simp [reqTaken, hl], ho, rfl, rfl, rfl, hm⟩
  · have hexec : exec (.refusalEntryExpiry t n) s = .next (modTile s t (fun x => { x with refusals := x.refusals.eraseIdx n })) := by
      show execRefusalEntryExpiry t n s = _
      simp only [execRefusalEntryExpiry, hr, hdue, atLeast_of_le h0 hd]
    exact ⟨_, hexec, by rw [getTile_modTile_same], fun _ _ _ => rfl, onlyTile_modTile _ _ _⟩
  · have htag : r.tag = tag := by
      have := List.find?_some hr
      simp only [Bool.and_eq_true, beq_iff_eq] at this
      exact this.1
    have hexec : exec (.cmbResend t n tag) s = .next (cmbPump (resPut s t n tag
        (some { r with due := none, inj := none, queued := false, tries := r.tries + 1 })) t) := by
      show execCmbResend t n tag s = _
      simp only [execCmbResend, hr, hlive, if_true, hdue, Option.getD_some, atLeast_of_le h0 hd]
    obtain ⟨⟨-, r', hr', h1, h2, h3, h4⟩, hregs, htile⟩ := cmbPump_kept (s := s) hn
      ⟨resPut_resent hn hlen (List.mem_of_find?_eq_some hr) htag, fun _ _ _ => rfl, onlyTile_modCq s t n _⟩
    exact ⟨_, hexec, hregs, htile, r', hr', h1, h2, h3, h4⟩
  · have hexec : exec (.wrackTimer (.tile t) me src) s = .next (ackSend s (.tile t) a) := by
      show execWrackTimer (.tile t) me src s = _
      simp only [execWrackTimer, acksAt, ha, atLeast_of_le (show 0 < a.since + ticks 500 by simp only [ticks]; omega) hd]
    have htile : getTile (ackSend s (.tile t) a) t = { getTile s t with
        acks := (getTile s t).acks.filter (· != a), out := (getTile s t).out ++ [ackPkt a] } := getTile_modTile_same _ _ _
    refine ⟨_, hexec, by rw [htile], ?_, fun _ _ _ => rfl, by unfold ackSend; exact onlyTile_modTile _ _ _⟩
    rw [htile]
    simp
  · let s1 := modTile s t (fun x => { x with leaseHeld := x.leaseHeld.filter (· != h) })
    let w := memStore (reqDrop s1 t r.tag) (tmKey t r.land) (payload h.pkt)
    have hx : getTile s1 t = { getTile s t with leaseHeld := (getTile s t).leaseHeld.filter (· != h) } :=
      getTile_modTile_same _ _ _
    have hw : getTile w t = reqDropped r.tag { getTile s t with leaseHeld := (getTile s t).leaseHeld.filter (· != h) } := by
      rw [getTile_memStore, getTile_reqDrop, hx]
    have htent' : cmdTent (getTile s1 t) r = false := by rw [hx]; exact htent
    have hland : movRdrsp s1 t r h.pkt = w := by
      rw [movRdrsp, if_neg (by simp [hk, had, hlen]), if_neg (by simp [hsink]), if_neg (by simp [htent'])]
      simp only [readLand, hpoi, hstage, Bool.false_eq_true, if_false, ← hlen, List.take_length, w]
    have hexec : exec (.leaseDelivery t tag) s = .next (movSrst (modTile w t stageNone) t) := by
      show execLeaseDelivery t tag s = _
      simp only [execLeaseDelivery, hh, hreq, hruns, if_true, hearly, Option.getD_none, atLeast_zero hsteps]
      rw [movDeliver, if_pos hop, hland, movPump_of_still (by rw [hw]; exact hq)]
    have hmem : (movSrst (modTile w t stageNone) t).mem = putBytes s.mem (tmKey t r.land) (payload h.pkt) := by
      rw [movSrst_mem]; exact mem_memStore (reqDrop s1 t r.tag) _ _
    refine ⟨_, hexec, readMem_putBytes hwf hmem hlen, memBut_putBytes hmem le_rfl (by rw [hlen]), ?_⟩
    rw [movSrst_leaseHeld, getTile_modTile_same, hw]
    simp [stageNone, reqDropped]

end Sys2Proof.Machine
end

section
/-! PROOFS. Requests for registers at a tile, and requests at memory edges and I/O dies (sections 3.1, 3.2, 8.5 and 14.1). -/

namespace Sys2Proof.Machine

/-! ## Registers -/

/-- A write of PG_SCRATCH that takes effect stores its value and does nothing else. -/
theorem regWrite_scratch {s : State} {p : Page} {v : Word} (h : writeTaken s p 0x070 v = true) {a : RegAcc} (hbe : a.be = 0xF)
    (hhw : a.hw = none) : regWrite s a p 0x070 v = (0, storeReg s p 0x070 v) := by
  have hd : regAt p 0x070 = some ⟨0x070, [], [⟨31, 0, .rw, .num 0, .n⟩]⟩ := (regAt_head p (by decide)).trans rfl
  have hnew : newFields s p 0x070 ⟨0x070, [], [⟨31, 0, .rw, .num 0, .n⟩]⟩ v = v :=
    Stored.word (stored_newFields h hd) (show hasFld p 0x070 ⟨31, 0, .rw, .num 0, .n⟩ = true by simp [hasFld, hd])
  have heff := regEffect_head s a p 0x070 ⟨0x070, [], [⟨31, 0, .rw, .num 0, .n⟩]⟩ v (by decide) hhw
  rw [hnew] at heff
  rw [regWrite_of_taken h hd a hbe, hnew, heff]; rfl

/-- What a register read writes: the upper halves that it latches, and the register where a read clears it. -/
theorem regRead_frame (s : State) (p : Page) (off : Nat) : ∃ r l, (regRead s p off).2 = { s with regs := r, latches := l } := by
  have hlatch : ∀ (offs : List Nat) (u : State), ∃ l, latch u p offs = { u with latches := l } := by
    intro offs
    induction offs with
    | nil => exact fun u => ⟨u.latches, rfl⟩
    | cons o offs ih =>
      intro u
      obtain ⟨l, hl⟩ := ih { u with latches := tabPut u.latches (regKey p o) (regView u p o) }
      exact ⟨l, hl⟩
  obtain ⟨l, hl⟩ := hlatch (latchedBy p off) s
  unfold regRead
  split
  · exact ⟨s.regs, s.latches, rfl⟩
  · extract_lets k v s1
    split
    · exact ⟨s.regs, _, rfl⟩
    · show ∃ r l, (if rcMask p off = 0 then s1 else putReg s1 p off (v &&& ~~~(BitVec.ofNat 32 (rcMask p off)))) = _
      rw [show s1 = { s with latches := l } from hl]
      split
      · exact ⟨s.regs, l, rfl⟩
      · exact ⟨_, l, rfl⟩

theorem length_leBytes_ne_nil (v : Nat) : leBytes 4 v ≠ [] := by
  rw [← List.length_pos_iff, length_leBytes]; decide

/-- A register request at the port of a tile is served. -/
theorem regReq_serve {s : State} {t : Nat} {op : BitVec 8} {q : Packet} (h : TileServes s t op q) :
    regReq s (.tile t) op = regServe (popReq s (.tile t)) (.tile t) q := by
  have hst : (getTile s t).stalled.isSome = false := by rw [h.stall]; rfl
  simp only [regReq, h.reqHead, hst, Bool.false_eq_true, if_false, h.serve]

/-- Settles O36: registers read, and PG_SCRATCH written, by packets at a tile. -/
theorem registerRequestsServed : Obligations.RegisterRequestsServed := by
  unfold Obligations.RegisterRequestsServed
  intro s t q p hep hok hpage off v
  let s0 := popReq s (.tile t)
  have hpage0 : regPage s0 q.dst q.addr.toNat = some p := hpage
  have hnot : ¬ regAddrOk q.dst q.addr.toNat = false := by rw [hok]; decide
  refine ⟨fun h => ?_, fun h hbe htk hoff => ?_⟩
  · let a := withPayload (response (meAt s0 (.tile t) q) q opREGRSP) (leBytes 4 (regRead s0 p off).1.toNat)
    have hserve : regServe s0 (.tile t) q = answerAt (regRead s0 p off).2 (.tile t) a := by
      simp only [regServe, hpage0]
      rw [if_neg hnot, if_pos h.opc]
    obtain ⟨r, l, hr⟩ := regRead_frame s0 p off
    have htile : getTile (regRead s0 p off).2 t = reqTaken s t (getTile s t) := by rw [hr]; exact getTile_popReq s t
    have hmem : (regRead s0 p off).2.mem = s.mem := by rw [hr]; rfl
    refine ⟨_, a, (congrArg Host.Outcome.next (regReq_serve h)).trans (congrArg _ hserve), ?_, rfl, rfl, rfl,
      payload_withPayload _ (length_leBytes_ne_nil _), ?_, hmem⟩
    · rw [getTile_answerAt, htile]; rfl
    · rw [getTile_answerAt, htile]; rfl
  · have hop : ¬ q.opc = opREGRD := by rw [h.opc]; decide
    have hoff' : q.addr.toNat % 0x1000 = 0x070 := hoff
    rw [hoff] at htk ⊢
    have htk0 : writeTaken s0 p 0x070 v = true := htk
    have hw : regWrite s0 { src := if q.be = 0xF then .fabric q.src else .host, be := q.be, tag := q.tag, layer := q.layer, oper := q.oper } p
        0x070 v = (0, storeReg s0 p 0x070 v) := regWrite_scratch htk0 hbe rfl
    let a : Packet := { response (meAt s0 (.tile t) q) q opREGRSP with aux := BitVec.ofNat 32 0 }
    have hserve : regServe s0 (.tile t) q = answerAt (storeReg s0 p 0x070 v) (.tile t) a := by
      simp only [regServe, hpage0, hoff']
      rw [if_neg hnot, if_neg hop, hw]
      have hrun : ¬ ((storeReg s0 p 0x070 v).mgt.running ≠ s0.mgt.running
          ∧ (storeReg s0 p 0x070 v).mgt.running = some .cold) := by
        unfold storeReg
        split <;> simp
      simp only [regAnswer, if_neg hrun, a]
    have htile : getTile (storeReg s0 p 0x070 v) t = reqTaken s t (getTile s t) :=
      (getTile_storeReg _ _ _ _ t).trans (getTile_popReq s t)
    refine ⟨_, a, (congrArg Host.Outcome.next (regReq_serve h)).trans (congrArg _ hserve), ?_, ?_, rfl, rfl, ?_, ?_, ?_⟩
    · exact (rawReg_answerAt _ _ _ _ _).trans (rawReg_storeReg_same _ _ _ _)
    · rw [getTile_answerAt, htile]; rfl
    · rw [getTile_answerAt, htile]; rfl
    · exact RegsBut.trans (u := s0) (fun _ _ _ => rfl) ((regsBut_storeReg s0 _ _ _ _ (by simp)).trans (fun _ _ _ => rfl))
    · exact ((onlyTile_popReq s t).trans ((onlyRegs_storeReg s0 p 0x070 v).onlyTile t)).trans (onlyTile_answerAt _ _ _)

/-! ## Memory in units -/

/-- A unit of a range without errors has none. -/
theorem unitErr_of_clean {s : State} {k n u : Nat} (h : cleanMem s k n = true) (hu : inUnits k n u = true) : unitErr s u = none := by
  simp only [cleanMem, Bool.and_eq_true, Bool.not_eq_true', beq_iff_eq] at h
  obtain ⟨hue, hce⟩ := h
  simp only [anyUE, List.any_eq_false, Bool.and_eq_true, not_and] at hue
  simp only [countCE, List.length_eq_zero_iff, List.filter_eq_nil_iff, Bool.and_eq_true, not_and] at hce
  have hnone : s.ecc.find? (fun e => e.1 == u) = none := by
    rw [List.find?_eq_none]
    intro e he heq
    rw [beq_iff_eq] at heq
    subst heq
    have h1 := hue e he hu
    have h2 := hce e he hu
    simp_all
  rw [unitErr, hnone]; rfl

theorem inUnits_of_mem {k n u : Nat} (h : u ∈ unitsOf k n) : inUnits k n u = true := by
  unfold unitsOf at h
  split at h
  · cases h
  · obtain ⟨j, hj, rfl⟩ := List.mem_map.1 h
    have hj := List.mem_range.1 hj
    simp only [inUnits, Bool.and_eq_true, bne_iff_ne, ne_eq, decide_eq_true_eq]
    have hle : unitOf k ≤ unitOf (k + n - 1) := Nat.div_le_div_right (by omega)
    exact ⟨⟨by assumption, by omega⟩, by omega⟩

/-- A store marks no unit as in error. -/
theorem memStore_sub (s : State) (k : Nat) (bs : List Byte) :
    ∃ e, memStore s k bs = { s with mem := putBytes s.mem k bs, ecc := e } ∧ ∀ x ∈ e, x ∈ s.ecc := by
  have h : ∀ (l : List Nat) (u : State), ∃ e, l.foldl clearUnit u = { u with ecc := e } ∧ ∀ x ∈ e, x ∈ u.ecc := by
    intro l
    induction l with
    | nil => exact fun u => ⟨u.ecc, rfl, fun _ h => h⟩
    | cons a l ih =>
      intro u
      obtain ⟨e, he, hsub⟩ := ih (clearUnit u a)
      exact ⟨e, by rw [List.foldl_cons, he]; rfl, fun x hx => (List.mem_filter.1 (hsub x hx)).1⟩
  obtain ⟨e, he, hsub⟩ := h ((unitsOf k bs.length).filter (fun u => k ≤ u * 32 && u * 32 + 32 ≤ k + bs.length)) (writeMem s k bs)
  exact ⟨e, by unfold memStore; rw [he]; rfl, hsub⟩

theorem putBytes_append (m : List Host.Cell) (k : Nat) (xs ys : List Byte) :
    putBytes (putBytes m k xs) (k + xs.length) ys = putBytes m k (xs ++ ys) := by
  induction xs generalizing m k with
  | nil => rfl
  | cons x xs ih =>
    have hk : k + (x :: xs).length = k + 1 + xs.length := by simp only [List.length_cons]; omega
    rw [List.cons_append, putBytes, putBytes, hk]
    exact ih _ _

/-- The part of a write that lies in a unit follows on what lies before it. -/
theorem putBytes_unitPart (m : List Host.Cell) {a u : Nat} {bs : List Byte} (hlo : u * 32 < a + bs.length) (hhi : a < u * 32 + 32) :
    putBytes (putBytes m a (bs.take (u * 32 - a))) (unitPart a bs u).1 (unitPart a bs u).2
      = putBytes m a (bs.take ((u + 1) * 32 - a)) := by
  have hlen : (bs.take (u * 32 - a)).length = u * 32 - a := by rw [List.length_take]; omega
  have hstart : (unitPart a bs u).1 = a + (bs.take (u * 32 - a)).length := by
    rw [hlen]; simp only [unitPart]; omega
  have hpart : (unitPart a bs u).2 = (bs.drop (u * 32 - a)).take (min (a + bs.length) (u * 32 + 32) - max a (u * 32)) := by
    have hd : max a (u * 32) - a = u * 32 - a := by omega
    simp only [unitPart, hd]
  rw [hstart, putBytes_append, hpart, ← List.take_add]
  by_cases h : a + bs.length ≤ u * 32 + 32
  · rw [List.take_of_length_le (by omega), List.take_of_length_le (by omega)]
  · congr 2; omega

/-- Units without errors are written whole, in order: together the bytes of the write (R599). -/
theorem memWrite_clean {s : State} {a : Nat} {bs : List Byte} (h : ∀ u ∈ unitsOf a bs.length, unitErr s u = none) :
    ∃ e, memWrite s a bs = (false, { s with mem := putBytes s.mem a bs, ecc := e }) := by
  unfold memWrite unitsOf
  unfold unitsOf at h
  split
  · next h0 =>
    have hb : bs = [] := List.length_eq_zero_iff.1 h0
    subst hb
    exact ⟨s.ecc, rfl⟩
  · next h0 =>
    rw [if_neg h0] at h
    set u0 := unitOf a with hu0
    have hle : u0 ≤ unitOf (a + bs.length - 1) := Nat.div_le_div_right (by omega)
    have hpre : ∀ m ≤ unitOf (a + bs.length - 1) - u0 + 1, ∃ e,
        ((List.range m).map (u0 + ·)).foldl (fun r u =>
          let w := unitPart a bs u
          if w.2.length < 32 ∧ (unitErr r.2 u).any (·.ue) then (true, r.2) else (r.1, memStore r.2 w.1 w.2)) (false, s)
        = (false, { s with mem := putBytes s.mem a (bs.take ((u0 + m) * 32 - a)), ecc := e }) ∧ ∀ x ∈ e, x ∈ s.ecc := by
      intro m
      induction m with
      | zero =>
        intro _
        have hz : (u0 + 0) * 32 - a = 0 := by simp only [hu0, unitOf]; omega
        exact ⟨s.ecc, by rw [hz]; rfl, fun _ h => h⟩
      | succ m ih =>
        intro hm
        obtain ⟨e, he, hsub⟩ := ih (by omega)
        have hnone : unitErr { s with mem := putBytes s.mem a (bs.take ((u0 + m) * 32 - a)), ecc := e } (u0 + m) = none := by
          have hs := h (u0 + m) (List.mem_map.2 ⟨m, List.mem_range.2 (by omega), rfl⟩)
          simp only [unitErr, Option.map_eq_none_iff, List.find?_eq_none] at hs ⊢
          exact fun x hx => hs x (hsub x hx)
        obtain ⟨e', he', hsub'⟩ := memStore_sub { s with mem := putBytes s.mem a (bs.take ((u0 + m) * 32 - a)), ecc := e }
          (unitPart a bs (u0 + m)).1 (unitPart a bs (u0 + m)).2
        refine ⟨e', ?_, fun x hx => hsub x (hsub' x hx)⟩
        rw [List.range_succ, List.map_append, List.foldl_append, he]
        simp only [List.map_cons, List.map_nil, List.foldl_cons, List.foldl_nil, hnone, Option.any_none, Bool.false_eq_true,
          and_false, if_false, he']
        have hlo : (u0 + m) * 32 < a + bs.length := by
          have h1 : u0 + m ≤ (a + bs.length - 1) / 32 := by simp only [unitOf] at hm hle; omega
          omega
        have hhi : a < (u0 + m) * 32 + 32 := by simp only [hu0, unitOf]; omega
        rw [putBytes_unitPart s.mem hlo hhi, Nat.add_assoc]
    obtain ⟨e, he, -⟩ := hpre _ le_rfl
    refine ⟨e, he.trans ?_⟩
    rw [List.take_of_length_le]
    simp only [unitOf] at hle ⊢
    omega

/-! ## Memory edges -/

theorem EdgeServes.reqHead {s : State} {x e : Nat} {op : BitVec 8} {q : Packet} (h : EdgeServes s x e op q) :
    reqHead s (.mem x e) op = some q := by
  obtain ⟨hreq, -⟩ := h
  exact (Option.filter_eq_some_iff.1 hreq).1

theorem EdgeServes.opc {s : State} {x e : Nat} {op : BitVec 8} {q : Packet} (h : EdgeServes s x e op q) : q.opc = op := by
  have := h.reqHead
  simp only [Machine.reqHead, Option.filter_eq_some_iff, beq_iff_eq] at this
  exact this.2

theorem EdgeServes.formed {s : State} {x e : Nat} {op : BitVec 8} {q : Packet} (h : EdgeServes s x e op q) : formBad q = false := by
  obtain ⟨-, hcheck, -⟩ := h
  unfold edgeCheck at hcheck
  split at hcheck
  · exact formBad_of_reqCheck hcheck
  · cases hcheck

theorem EdgeServes.serve {s : State} {x e : Nat} {op : BitVec 8} {q : Packet} (h : EdgeServes s x e op q) (act : State → State) :
    memServe s x e q act = act (popReq s (.mem x e)) := by
  obtain ⟨-, hcheck, hbad⟩ := h
  simp only [memServe, serveEdge, hcheck, hbad, if_true]

/-- What the edge holds when its request has left the port. -/
theorem getEdge_popReq (s : State) (x e : Nat) :
    getEdge (popReq s (.mem x e)) x e = { getEdge s x e with req := (getEdge s x e).req.tail } := getEdge_modEdge_same _ _ _ _

theorem getEdge_answerAt (s : State) (x e : Nat) (a : Packet) :
    getEdge (answerAt s (.mem x e) a) x e = { getEdge s x e with out := (getEdge s x e).out ++ [a] } := getEdge_modEdge_same _ _ _ _

/-- The answer of an edge to an RD. -/
def edgeAnswer (s : State) (q : Packet) : Packet :=
  loadPayload s { response q.dst q opRDRSP with addr := q.addr } q.addr.toNat (reqBytes q)

theorem memRead_clean {s : State} {q : Packet} (x e : Nat) (h : cleanMem s q.addr.toNat (reqBytes q) = true) :
    memRead s x e q false = answerAt s (.mem x e) (edgeAnswer s q) := by
  have hfold : ∀ l : List Nat, (∀ u ∈ l, unitErr s u = none) → l.foldl (memReadUnit x e q) s = s := by
    intro l
    induction l with
    | nil => exact fun _ => rfl
    | cons u l ih =>
      intro hl
      have hu : memReadUnit x e q s u = s := by simp only [memReadUnit, hl u (by simp)]
      rw [List.foldl_cons, hu]
      exact ih (fun v hv => hl v (by simp [hv]))
  have hs := hfold (unitsOf q.addr.toNat (reqBytes q)) (fun u hu => unitErr_of_clean h (inUnits_of_mem hu))
  simp only [memRead, Bool.false_eq_true, if_false, hs, edgeAnswer]

/-- What a write of clean units leaves at an edge, before it is answered. -/
theorem edgeWrite_shown {s : State} {x e : Nat} {q : Packet} (hw : Memory.wf s.mem = true) (hop : q.opc ≠ opRD)
    (h : cleanMem s q.addr.toNat (reqBytes q) = true) :
    ∃ v, memWrite (popReq s (.mem x e)) q.addr.toNat (payload q) = (false, v)
      ∧ getEdge v x e = { getEdge s x e with req := (getEdge s x e).req.tail }
      ∧ ∀ u, u.mem = v.mem → u.tiles = v.tiles → RegsBut v u [] → (getEdge u x e).req = (getEdge v x e).req →
        readMem u q.addr.toNat (payload q).length = payload q ∧ MemBut s u q.addr.toNat (payload q).length
          ∧ (getEdge u x e).req = (getEdge s x e).req.tail ∧ RegsBut s u [] ∧ u.tiles = s.tiles := by
  have hlen : reqBytes q = (payload q).length := by rw [reqBytes, if_neg hop]
  rw [hlen] at h
  obtain ⟨c, hc⟩ := memWrite_clean (s := popReq s (.mem x e)) (a := q.addr.toNat) (bs := payload q)
    (fun u hu => unitErr_of_clean (s := s) h (inUnits_of_mem hu))
  refine ⟨_, hc, getEdge_popReq s x e, fun u hmem htiles hregs hreq => ?_⟩
  have hm : u.mem = putBytes s.mem q.addr.toNat (payload q) := hmem
  exact ⟨readMem_putBytes hw hm rfl, memBut_putBytes hm le_rfl le_rfl,
    hreq.trans (congrArg Edge.req (getEdge_popReq s x e)), fun p o hk => hregs p o hk, htiles⟩

/-- A packet for a place that holds nothing of its kind is refused there. -/
theorem refused_of_kind {s : State} {p : Place} {q : Packet} (hrow : rowOk q = true → epKind q.dst = .none) :
    ∃ a, edgeCheck s p q = some a ∧ a.opc ∈ [opNAK, opWFN] ∧ a.dst = q.src ∧ a.tag = q.tag := by
  have hwfn : ∀ r, (wfnPkt q.dst q r).opc ∈ [opNAK, opWFN] := fun r => .tail _ (.head _)
  have hnak : ∀ r, (nakPkt q.dst q r).opc ∈ [opNAK, opWFN] := fun r => .head _
  have href : ∀ r, (refusePkt q.dst q r).opc ∈ [opNAK, opWFN] ∧ (refusePkt q.dst q r).dst = q.src ∧ (refusePkt q.dst q r).tag = q.tag := by
    intro r
    unfold refusePkt
    split
    · exact ⟨hwfn r, rfl, rfl⟩
    · exact ⟨hnak r, rfl, rfl⟩
  unfold edgeCheck
  split
  · unfold reqCheck
    split
    · exact ⟨_, rfl, hnak _, rfl, rfl⟩
    · next hform =>
      have hr : rowOk q = true := by
        simp only [formBad, Bool.or_eq_true, not_or, Bool.not_eq_true', Bool.not_eq_false] at hform
        exact hform.2
      rw [if_pos (hrow hr)]
      exact ⟨_, rfl, hnak _, rfl, rfl⟩
  · exact ⟨_, rfl, href _⟩

/-- The kinds of endpoint that a read or write of memory, or a contribution, may name (Table 8.5). -/
theorem kind_of_rowOk {q : Packet} (h : rowOk q = true) :
    (q.opc ∈ [opRD, opWR, opWRA] → epKind q.dst ∈ [.none, .tm, .mem]) ∧ (q.opc = opCONTRIB → epKind q.dst ∈ [.none, .cq]) := by
  unfold rowOk at h
  extract_lets k a x n ep at h
  have hep : ∀ l, ep l = true → k ∈ EpKind.none :: l := fun l hl => by
    simpa [ep] using hl
  refine ⟨fun hop => ?_, fun hop => ?_⟩
  · simp only [List.mem_cons, List.not_mem_nil, or_false] at hop
    rcases hop with hop | hop | hop <;> rw [hop] at h
    · have h1 : (ep [.tm, .mem] && n == 0 && decide (x < 4096) && decide (1 ≤ x) && decide (a % 2048 + x ≤ 2048)) = true := h
      simp only [Bool.and_eq_true] at h1
      exact hep _ h1.1.1.1.1
    · have h1 : (ep [.tm, .mem] && decide (1 ≤ n) && (x == 0 || q.mc)) = true := h
      simp only [Bool.and_eq_true] at h1
      exact hep _ h1.1.1
    · have h1 : (ep [.tm, .mem] && decide (1 ≤ n) && x == 0) = true := h
      simp only [Bool.and_eq_true] at h1
      exact hep _ h1.1.1
  · rw [hop] at h
    have h1 : (ep [.cq] && decide (1 ≤ n) && a == 0 && decide (x < 2 ^ 29)) = true := h
    simp only [Bool.and_eq_true] at h1
    exact hep _ h1.1.1.1

theorem epKind_die {d : Word} (h : nodeKind d = 2) : epKind d ∈ [EpKind.reg, .glz, .none] := by
  simp only [epKind, h]
  split_ifs <;> simp

theorem epKind_edge {d : Word} (h : nodeKind d = 1) : epKind d ∈ [EpKind.mem, .reg, .none] := by
  simp only [epKind, h]
  split_ifs <;> simp

/-- Settles O28: RD, WRA, WR and TRACE at a memory edge; requests that no such place takes. -/
theorem edgeRequestsServed : Obligations.EdgeRequestsServed := by
  unfold Obligations.EdgeRequestsServed
  constructor
  · intro s x e q hep hwf k next written hcl
    have hs : addFaults s [] = s := rfl
    have hp : parHit [] = false := rfl
    have hwrite : ∀ op, EdgeServes s x e op q → op ≠ opRD → _ := fun op h hop =>
      edgeWrite_shown (x := x) (e := e) hwf (show q.opc ≠ opRD by rw [h.opc]; exact hop) hcl
    refine ⟨fun h => ?_, fun h => ?_, fun h => ?_, fun h => ?_⟩
    · obtain ⟨hreq, -⟩ := id h
      have hexec : exec (.rd (.mem x e) []) s
          = .next (answerAt (popReq s (.mem x e)) (.mem x e) (edgeAnswer (popReq s (.mem x e)) q)) := by
        show execRd (.mem x e) [] s = _
        simp only [execRd, hreq, Option.elim_some, hs, h.serve, hp, memRead_clean (s := popReq s (.mem x e)) x e hcl]
      refine ⟨_, edgeAnswer (popReq s (.mem x e)) q, hexec, ?_, rfl, rfl, rfl, rfl,
        payload_loadPayload (popReq s (.mem x e)) _ k (reqBytes_pos h.opc h.formed), rfl, ?_, fun _ _ _ => rfl, rfl⟩
      · rw [getEdge_answerAt, getEdge_popReq]
      · rw [getEdge_answerAt, getEdge_popReq]
    · obtain ⟨hreq, -⟩ := id h
      obtain ⟨v, hv, hedge, hshown⟩ := hwrite _ h (by decide)
      let a : Packet := { response q.dst q opWRACK with aux := 1 }
      have hexec : exec (.wra (.mem x e) []) s = .next (answerAt v (.mem x e) a) := by
        have hun : unanswered q = false := by simp [unanswered, h.opc]; decide
        show execWra (.mem x e) [] s = _
        simp only [execWra, hreq, Option.elim_some, hs, h.serve, hp, memWriteReq, hv, hun, h.opc, if_true, Bool.false_eq_true,
          if_false, a]
      refine ⟨_, a, hexec, hshown _ rfl rfl (fun _ _ _ => rfl) (by rw [getEdge_answerAt]), ?_, rfl, rfl, rfl, rfl⟩
      rw [getEdge_answerAt, hedge]
    · obtain ⟨hreq, -⟩ := id h
      obtain ⟨v, hv, hedge, hshown⟩ := hwrite _ h (by decide)
      have hexec : exec (.wr (.mem x e) []) s = .next (ackAt v (.mem x e) q) := by
        have hun : unanswered q = false := by simp [unanswered, h.opc]; decide
        have hne : ¬ opWR = opWRA := by decide
        show execWr (.mem x e) [] s = _
        simp only [execWr, hreq, Option.elim_some, hs, h.serve, hp, memWriteReq, hv, hun, h.opc, hne, Bool.false_eq_true,
          if_false]
      refine ⟨_, hexec, hshown _ rfl rfl (fun _ _ _ => rfl) ?_⟩
      show (getEdge (modEdge v x e _) x e).req = _
      rw [getEdge_modEdge_same]
    · obtain ⟨hreq, -⟩ := id h
      obtain ⟨v, hv, hedge, hshown⟩ := hwrite _ h (by decide)
      have hexec : exec (.trace x e) s = .next v := by
        have hun : unanswered q = true := by simp [unanswered, h.opc]
        show execTrace x e s = _
        simp only [execTrace, hreq, Option.elim_some, h.serve, memWriteReq, hv, hun, if_true, Bool.false_eq_true, if_false]
      exact ⟨_, hexec, hshown _ rfl rfl (fun _ _ _ => rfl) rfl, by rw [hedge], by rw [hedge]⟩
  · intro s op p q c hc hreq
    have hopc : q.opc = op := by
      simp only [reqHead, Option.filter_eq_some_iff, beq_iff_eq] at hreq
      exact hreq.2
    have hmem : op ∈ [opRD, opWR, opWRA, opCONTRIB] → epKind q.dst ∈ [EpKind.reg, .glz, .mem, .none] →
        (op ∈ [opRD, opWR, opWRA] → epKind q.dst ≠ .mem) → rowOk q = true → epKind q.dst = .none := by
      intro hop h3 h4 hrow
      obtain ⟨h1, h2⟩ := kind_of_rowOk hrow
      rw [hopc] at h1 h2
      by_cases hcon : op = opCONTRIB
      · have h5 := h2 hcon
        simp only [List.mem_cons, List.not_mem_nil, or_false] at h3 h5
        rcases h5 with h5 | h5
        · exact h5
        · rw [h5] at h3; simp at h3
      · have hin : op ∈ [opRD, opWR, opWRA] := by
          simp only [List.mem_cons, List.not_mem_nil, or_false] at hop ⊢
          rcases hop with h | h | h | h
          · exact .inl h
          · exact .inr (.inl h)
          · exact .inr (.inr h)
          · exact absurd h hcon
        have h5 := h1 hin
        simp only [List.mem_cons, List.not_mem_nil, or_false] at h3 h5
        rcases h5 with h5 | h5 | h5
        · exact h5
        · rw [h5] at h3; simp at h3
        · exact absurd h5 (h4 hin)
    have hun : ∀ op ∈ [opRD, opWR, opWRA, opCONTRIB], q.opc = op → unanswered q = false := by
      intro op hop h
      have hd : ∀ op ∈ [opRD, opWR, opWRA, opCONTRIB], (op == opCONF || op == opWDRW || op == opTRACE) = false := by decide
      simp only [unanswered, h, hd op hop]
    rcases hc with ⟨d, rfl, hfit, hkind, hc⟩ | ⟨x, e, rfl, hkind, hc⟩
    · have hdie : dieReq s d op = some q := by simp only [dieReq, hreq, Option.filter, hfit, if_true]
      have h3 := epKind_die hkind
      simp only [List.mem_cons, List.not_mem_nil, or_false] at h3
      have hop : op ∈ [opRD, opWR, opWRA, opCONTRIB] := by
        simp only [List.mem_cons, Prod.mk.injEq, List.not_mem_nil, or_false] at hc ⊢
        rcases hc with ⟨-, h⟩ | ⟨-, h⟩ | ⟨-, h⟩ | ⟨-, h⟩ <;> simp [h]
      obtain ⟨a, ha, h5, hd, ht⟩ := refused_of_kind (s := s) (p := .io d) (hmem hop
        (by simp only [List.mem_cons, List.not_mem_nil, or_false]; rcases h3 with h | h | h <;> simp [h])
        (fun _ h => by rw [h] at h3; simp at h3))
      refine ⟨a, ha, h5, hd, ht, ?_⟩
      have hu := hun op hop hopc
      simp only [List.mem_cons, Prod.mk.injEq, List.not_mem_nil, or_false] at hc
      rcases hc with ⟨rfl, rfl⟩ | ⟨rfl, rfl⟩ | ⟨rfl, rfl⟩ | ⟨rfl, rfl⟩
      · show execRd (.io d) [] s = _
        simp only [execRd, hdie, Option.elim_some, serveEdge, ha, hu, Bool.false_eq_true, if_false]
      · show execWr (.io d) [] s = _
        simp only [execWr, hdie, Option.elim_some, serveEdge, ha, hu, Bool.false_eq_true, if_false]
      · show execWra (.io d) [] s = _
        simp only [execWra, hdie, Option.elim_some, serveEdge, ha, hu, Bool.false_eq_true, if_false]
      · show execContrib (.io d) [] s = _
        simp only [execContrib, hreq, serveEdge, ha, hu, Bool.false_eq_true, if_false]
    · obtain ⟨rfl, rfl⟩ := Prod.mk.inj hc
      have h3 := epKind_edge hkind
      simp only [List.mem_cons, List.not_mem_nil, or_false] at h3
      obtain ⟨a, ha, h5, hd, ht⟩ := refused_of_kind (s := s) (p := .mem x e) (hmem (by simp)
        (by simp only [List.mem_cons, List.not_mem_nil, or_false]; rcases h3 with h | h | h <;> simp [h])
        (fun h => absurd h (by decide)))
      refine ⟨a, ha, h5, hd, ht, ?_⟩
      show execContrib (.mem x e) [] s = _
      simp only [execContrib, hreq, serveEdge, ha, hun opCONTRIB (by simp) hopc, Bool.false_eq_true, if_false]

end Sys2Proof.Machine
end

section
/-! PROOFS. What network time leaves alone when it moves (sections 11.1, 11.2 and 18.6). -/

namespace Sys2Proof.Machine

/-- The registers that time moves: the counters of the engines of the 16,384 tiles, and the phase. -/
def ClockKey (k : Nat) : Prop := (k < 2 ^ 29 ∧ k / 0x1000 % 8 = 6) ∨ k = regKey (.tkp 0) 0x0A4

/-- Time has moved: beside it only its registers and the position of network time have changed. -/
structure ClockMoved (s u : State) : Prop where
  rest : u = { s with regs := u.regs, time := u.time, tkp := { s.tkp with
    off := u.tkp.off, steps := u.tkp.steps, raw := u.tkp.raw, rateAcc := u.tkp.rateAcc, slewMore := u.tkp.slewMore } }
  regs : ∀ p o, ¬ ClockKey (regKey p o) → rawReg u p o = rawReg s p o

theorem ClockMoved.refl (s : State) : ClockMoved s s := ⟨rfl, fun _ _ _ => rfl⟩

theorem ClockMoved.trans {s u v : State} (h : ClockMoved s u) (k : ClockMoved u v) : ClockMoved s v where
  rest := by rw [k.rest, h.rest]
  regs p o ho := (k.regs p o ho).trans (h.regs p o ho)

theorem clockMoved_ite {s u v : State} {c : Prop} [Decidable c] (h : ClockMoved s u) (k : ClockMoved s v) :
    ClockMoved s (if c then u else v) := by
  split
  · exact h
  · exact k

theorem clockMoved_foldl {α : Type} {s u : State} {l : List α} {f : State → α → State} (h : ClockMoved s u)
    (hf : ∀ e ∈ l, ∀ x, ClockMoved x (f x e)) : ClockMoved s (l.foldl f u) := by
  induction l generalizing u with
  | nil => exact h
  | cons e l ih => exact ih (h.trans (hf e (by simp) u)) (fun e' he' => hf e' (by simp [he']))

/-- Nothing but the clock itself. -/
theorem clockMoved_of {s u : State} (hu : u = { s with time := u.time, tkp := { s.tkp with
    off := u.tkp.off, steps := u.tkp.steps, raw := u.tkp.raw, rateAcc := u.tkp.rateAcc, slewMore := u.tkp.slewMore } }) :
    ClockMoved s u where
  rest := by rw [hu]
  regs p o _ := by rw [hu]; rfl

theorem clockMoved_putReg (s : State) (p : Page) (o : Nat) (v : Word) (h : ClockKey (regKey p o)) :
    ClockMoved s (putReg s p o v) where
  rest := rfl
  regs _ _ hr := rawReg_putReg_ne _ _ _ _ _ _ (fun e => hr (e ▸ h))

/-! ## The counters of the engines -/

theorem clockKey_dbg {t o : Nat} (ht : t < 16384) (ho : o < 0x1000) : ClockKey (regKey (.dbg t) o) := by
  left; simp only [regKey, pageBase]; omega

theorem clockMoved_pairCount (s : State) {t off : Nat} (n : Nat) (ht : t < 16384) (ho : off + 4 < 0x1000) :
    ClockMoved s (pairCount s (.dbg t) off n) :=
  clockMoved_ite (.refl s) ((clockMoved_putReg s _ _ _ (clockKey_dbg ht (by omega))).trans
    (clockMoved_putReg _ _ _ _ (clockKey_dbg ht ho)))

/-- The reasons for which a context stalls (Table 18.5). -/
theorem ctxStall_lt (s : State) (t lc : Nat) : ctxStall s t lc < 16 := by
  unfold ctxStall
  extract_lets c
  repeat' split
  all_goals decide

theorem engSeq_stall {s : State} {t r : Nat} (h : engSeq s t = .stall r) : r < 16 := by
  unfold engSeq at h
  split at h
  · cases h
  · split_ifs at h
    · cases h; decide
    · cases h; exact ctxStall_lt _ _ _

theorem engMov_stall {s : State} {t r : Nat} (h : engMov s t = .stall r) : r < 16 := by
  unfold engMov at h
  extract_lets x w at h
  repeat' split at h
  all_goals cases h
  all_goals decide

/-- Every reason for which an engine stalls (Table 18.5). -/
theorem engState_stall {s : State} {t e r : Nat} (h : engState s t e = .stall r) : r < 16 := by
  unfold engState at h
  split at h
  · cases h; decide
  · unfold engBase at h
    split at h
    · exact engSeq_stall h
    · unfold engCmp at h
      extract_lets x at h
      split_ifs at h
      cases h; decide
    · exact engMov_stall h
    · unfold engCmb at h
      extract_lets x res at h
      split_ifs at h
      all_goals (cases h; decide)

theorem engOff_lt (s : State) (t : Nat) {e : Nat} (he : e < 4) : engOff e (engState s t e) + 4 < 0x1000 := by
  cases h : engState s t e with
  | busy => simp only [engOff]; omega
  | idle => simp only [engOff]; omega
  | stall r => have := engState_stall h; simp only [engOff]; omega

theorem clockMoved_accrueTile (s : State) (n : Nat) {t : Nat} (ht : t < 16384) : ClockMoved s (accrueTile s n t) := by
  unfold accrueTile
  refine clockMoved_ite (clockMoved_foldl (clockMoved_foldl (.refl s) fun e he x => ?_) fun e he x => ?_) (.refl s)
  · have h4 : e < 4 := by simp at he; omega
    exact clockMoved_ite (clockMoved_pairCount _ _ ht (engOff_lt _ _ h4)) (.refl x)
  · have h4 : e < 4 := by simp at he; omega
    exact clockMoved_ite (clockMoved_pairCount _ _ ht (by omega)) (.refl x)

theorem countingTiles_lt {s : State} {t : Nat} (h : t ∈ countingTiles s) : t < 16384 := by
  obtain ⟨e, -, he⟩ := List.mem_filterMap.1 h
  split at he
  · next hc => cases he; obtain ⟨h1, h2, -⟩ := hc; omega
  · cases he

theorem clockMoved_accrue (s : State) (n : Nat) : ClockMoved s (accrue s n) :=
  clockMoved_ite (.refl s) (clockMoved_foldl (.refl s) fun _ ht x => clockMoved_accrueTile x n (countingTiles_lt ht))

theorem tkp_foldl {α : Type} {f : State → α → State} (hf : ∀ x e, (f x e).tkp = x.tkp) (l : List α) (s : State) :
    (l.foldl f s).tkp = s.tkp := by
  induction l generalizing s with
  | nil => rfl
  | cons e l ih => exact (ih (f s e)).trans (hf s e)

theorem tkp_ite {s u v : State} {c : Prop} [Decidable c] (h : u.tkp = s.tkp) (k : v.tkp = s.tkp) :
    (if c then u else v).tkp = s.tkp := by
  split
  · exact h
  · exact k

theorem tkp_accrue (s : State) (n : Nat) : (accrue s n).tkp = s.tkp := by
  have hp : ∀ (x : State) p o k, (pairCount x p o k).tkp = x.tkp := fun x p o k => tkp_ite rfl rfl
  have htile : ∀ (x : State) t, (accrueTile x n t).tkp = x.tkp := fun x t =>
    tkp_ite ((tkp_foldl (fun x _ => tkp_ite (hp x _ _ _) rfl) _ _).trans (tkp_foldl (fun x _ => tkp_ite (hp x _ _ _) rfl) _ _)) rfl
  exact tkp_ite rfl (tkp_foldl htile _ _)

/-! ## The clock -/

/-- What beside the clock's own registers shows in TKP_STAT: ERAOVF where the era ends. -/
structure TimeMoved (s u : State) : Prop where
  rest : u = { s with regs := u.regs, time := u.time, tkp := { s.tkp with
    off := u.tkp.off, steps := u.tkp.steps, raw := u.tkp.raw, rateAcc := u.tkp.rateAcc, slewMore := u.tkp.slewMore } }
  regs : ∀ p o, ¬ ClockKey (regKey p o) → regKey p o ≠ regKey (.tkp 0) 0x084 → rawReg u p o = rawReg s p o
  stat : ∀ hi lo, lo ≤ hi → hi < 7 → rfld u (.tkp 0) 0x084 hi lo = rfld s (.tkp 0) 0x084 hi lo

theorem not_clockKey_stat : ¬ ClockKey (regKey (.tkp 0) 0x084) := by
  rintro (⟨h1, -⟩ | h1) <;> simp only [regKey, pageBase] at h1 <;> omega

theorem ClockMoved.moved {s u : State} (h : ClockMoved s u) : TimeMoved s u where
  rest := h.rest
  regs p o ho _ := h.regs p o ho
  stat hi lo _ _ := by rw [rfld, h.regs _ _ not_clockKey_stat]; rfl

theorem TimeMoved.refl (s : State) : TimeMoved s s := (ClockMoved.refl s).moved

theorem TimeMoved.trans {s u v : State} (h : TimeMoved s u) (k : TimeMoved u v) : TimeMoved s v where
  rest := by rw [k.rest, h.rest]
  regs p o ho hn := (k.regs p o ho hn).trans (h.regs p o ho hn)
  stat hi lo h1 h2 := (k.stat hi lo h1 h2).trans (h.stat hi lo h1 h2)

theorem TimeMoved.mem {s u : State} (h : TimeMoved s u) : u.mem = s.mem := by rw [h.rest]
theorem TimeMoved.tiles {s u : State} (h : TimeMoved s u) : u.tiles = s.tiles := by rw [h.rest]
theorem TimeMoved.links {s u : State} (h : TimeMoved s u) : u.links = s.links := by rw [h.rest]
theorem TimeMoved.eths {s u : State} (h : TimeMoved s u) : u.eths = s.eths := by rw [h.rest]
theorem TimeMoved.out {s u : State} (h : TimeMoved s u) : u.out = s.out := by rw [h.rest]
theorem TimeMoved.fuses {s u : State} (h : TimeMoved s u) : u.fuses = s.fuses := by rw [h.rest]

/-- The place of a gate list, or another place that is no page of DBG and no timekeeper. -/
theorem TimeMoved.rfld {s u : State} (h : TimeMoved s u) {p : Page} {o : Nat} (ho : ¬ ClockKey (regKey p o))
    (hn : regKey p o ≠ regKey (.tkp 0) 0x084) (hi lo : Nat) : rfld u p o hi lo = Machine.rfld s p o hi lo := by
  rw [Machine.rfld, h.regs p o ho hn]; rfl

theorem clockMoved_setPhase (s : State) (p : Int) : ClockMoved s (setPhase s p) := by
  unfold setPhase
  exact (clockMoved_of rfl).trans (clockMoved_putReg _ _ _ _ (.inr rfl))

/-- The era is not over. -/
theorem eraCheck_of_lt {s : State} (h : fullT s < 2 ^ 80) : eraCheck s = s := if_neg (by omega)

theorem timeMoved_eraCheck (s : State) : TimeMoved s (eraCheck s) := by
  unfold eraCheck
  extract_lets d
  split
  · refine .trans (u := { s with tkp := { s.tkp with off := s.tkp.off - d, steps := s.tkp.steps - d } })
      (clockMoved_of rfl).moved ⟨rfl, fun p r _ hr => rawReg_putReg_ne _ _ _ _ _ _ hr, fun hi lo h1 h2 => ?_⟩
    exact rfld_putFld_ne _ _ _ _ _ _ _ _ (by decide) (by decide) h1 (.inl h2)
  · exact .refl s

/-- The state in which the era is checked. -/
def passed (s : State) (dt : Nat) (dT : Int) : State :=
  { accrue s (((eTime s + dT) / 1024 - eTime s / 1024).toNat) with
    time := s.time + dt,
    tkp := { (accrue s (((eTime s + dT) / 1024 - eTime s / 1024).toNat)).tkp with
      off := (accrue s (((eTime s + dT) / 1024 - eTime s / 1024).toNat)).tkp.off + dT - dt } }

theorem pass_eq (s : State) (dt : Nat) (dT : Int) : pass s dt dT = eraCheck (passed s dt dT) := rfl

theorem clockMoved_passed (s : State) (dt : Nat) (dT : Int) : ClockMoved s (passed s dt dT) :=
  (clockMoved_accrue s _).trans (clockMoved_of rfl)

theorem fullT_passed (s : State) (dt : Nat) (dT : Int) :
    fullT (passed s dt dT) = fullT s + dT ∧ (passed s dt dT).tkp.steps = s.tkp.steps := by
  have h := tkp_accrue s (((eTime s + dT) / 1024 - eTime s / 1024).toNat)
  simp only [passed, fullT, h]
  exact ⟨by push_cast; ring, trivial⟩

/-- The state in which dt ticks begin to pass, c of them slewed out. -/
def slewed (s : State) (dt : Nat) (c d : Int) : State :=
  let s1 := { s with tkp := { s.tkp with
    raw := if phaseOf s = 0 then (s.tkp.raw + dt) % 1024 else s.tkp.raw + dt - 1024 * c.natAbs,
    rateAcc := rateGain s dt - (d - dt - c) * 2 ^ 40 } }
  if c = 0 then s1 else setPhase s1 (phaseOf s - c)

theorem moveT_eq (s : State) (dt : Nat) (c d : Int) : moveT s dt c d = eraCheck (passed (slewed s dt c d) dt d) := rfl

theorem clockMoved_slewed (s : State) (dt : Nat) (c d : Int) : ClockMoved s (slewed s dt c d) := by
  unfold slewed
  exact clockMoved_ite (clockMoved_of rfl) ((clockMoved_of rfl).trans (clockMoved_setPhase _ _))

theorem fullT_slewed (s : State) (dt : Nat) (c d : Int) :
    fullT (slewed s dt c d) = fullT s ∧ (slewed s dt c d).tkp.steps = s.tkp.steps := by
  unfold slewed
  extract_lets
  split
  · exact ⟨rfl, rfl⟩
  · exact ⟨rfl, rfl⟩

theorem timeMoved_moveT (s : State) (dt : Nat) (c d : Int) : TimeMoved s (moveT s dt c d) := by
  rw [moveT_eq]
  exact ((clockMoved_slewed s dt c d).trans (clockMoved_passed _ _ _)).moved.trans (timeMoved_eraCheck _)

theorem timeMoved_atT (s : State) (due : Int) : TimeMoved s (atT s due) := by
  unfold atT
  extract_lets d dt
  split
  · exact .refl s
  · exact timeMoved_moveT s _ _ _

theorem timeMoved_atLeast (s : State) (due : Nat) : TimeMoved s (atLeast s due) := timeMoved_atT s _

/-- Where time comes that an event brings to an instant of the era, and what else stays. -/
theorem atT_shown {s : State} {due : Int} (h : fullT s ≤ due) (hd : due < 2 ^ 80) :
    fullT (atT s due) = due ∧ (atT s due).tkp.steps = s.tkp.steps ∧ ClockMoved s (atT s due) := by
  unfold atT
  extract_lets d dt
  split
  · next h0 => exact ⟨by simp only [d] at h0; omega, rfl, .refl s⟩
  · have hs := fullT_slewed s dt (slewOf s dt) d
    have hp := fullT_passed (slewed s dt (slewOf s dt) d) dt d
    have hf : fullT (passed (slewed s dt (slewOf s dt) d) dt d) = due := by
      rw [hp.1, hs.1]; simp only [d]; omega
    rw [moveT_eq, eraCheck_of_lt (by rw [hf]; exact hd)]
    exact ⟨hf, hp.2.trans hs.2, (clockMoved_slewed _ _ _ _).trans (clockMoved_passed _ _ _)⟩

/-- An instant that has passed. -/
theorem atT_of_le {s : State} {due : Int} (h : due ≤ fullT s) : atT s due = s := by
  unfold atT
  exact if_pos (by omega)

end Sys2Proof.Machine
end

section
/-! PROOFS. Gate registers that take a command; the table port (section 12.7). -/

namespace Sys2Proof.Machine

/-! ## Writes of gate registers -/

theorem fld_or (a b : Word) (hi lo : Nat) : fld (a ||| b) hi lo = fld a hi lo ||| fld b hi lo := by
  simp only [fld, bitsOf, BitVec.toNat_or]
  rw [← Nat.shiftRight_eq_div_pow, ← Nat.shiftRight_eq_div_pow, ← Nat.shiftRight_eq_div_pow, Nat.shiftRight_or_distrib,
    Nat.or_mod_two_pow]

/-- A field that is given the value it holds. -/
theorem setFld_fld (w : Word) (hi lo : Nat) : setFld w hi lo (fld w hi lo) = w := by
  have hle : fld w hi lo * 2 ^ lo ≤ w.toNat :=
    (Nat.mul_le_mul_right _ (Nat.mod_le _ _)).trans (Nat.div_mul_le_self _ _)
  have hmod : fld w hi lo % 2 ^ (hi + 1 - lo) = fld w hi lo := Nat.mod_mod _ _
  rw [setFld, hmod, Nat.sub_add_cancel hle]
  exact BitVec.eq_of_toNat_eq (by rw [BitVec.toNat_ofNat, Nat.mod_eq_of_lt w.isLt])

/-- A write that gives every field that software writes the value it holds leaves the register as it was. -/
theorem applyAll_same {v w : Word} {lk : Bool} {fs : List Fld}
    (h : ∀ f ∈ fs, f.acc = .wo ∨ f.acc = .ro ∨ (f.acc = .rw ∧ fld v f.hi f.lo = fld w f.hi f.lo)) : applyAll w v lk fs = w := by
  induction fs with
  | nil => rfl
  | cons f fs ih =>
    have hf : applyFld v lk w f = w := by
      unfold applyFld
      rcases h f (by simp) with ha | ha | ⟨ha, hv⟩
      · rw [ha]
      · rw [ha]
      · rw [ha, hv]; exact setFld_fld w _ _
    rw [applyAll_cons, hf]
    exact ih (fun g hg => h g (by simp [hg]))

/-- GCL_CTL and TBL_CMD of a place. -/
def gclCtl : GPlace → RegDef
  | .mov _ => ⟨0x800, [], [⟨0, 0, .wo, .num 0, .s⟩, ⟨1, 1, .wo, .num 0, .s⟩, ⟨2, 2, .wo, .num 0, .s⟩, ⟨3, 3, .rw, .num 1, .n⟩,
      ⟨11, 8, .rw, .num 0xF, .n⟩]⟩
  | _ => ⟨0xC00, [], [⟨0, 0, .wo, .num 0, .s⟩, ⟨1, 1, .wo, .num 0, .s⟩, ⟨2, 2, .wo, .num 0, .s⟩, ⟨3, 3, .rw, .num 1, .n⟩,
      ⟨15, 8, .rw, .num 0xFF, .n⟩]⟩

def tblCmd (g : GPlace) : RegDef :=
  ⟨gBase g + 0x80, [], [⟨2, 0, .wo, .num 0, .s⟩, ⟨3, 3, .wo, .num 0, .s⟩, ⟨15, 8, .wo, .num 0, .s⟩]⟩

theorem gBase_bounds (g : GPlace) : 0x800 ≤ gBase g ∧ gBase g ≤ 0xC00 := by
  cases g <;> simp [gBase]

/-- A gate register is found among the registers of its page. -/
theorem regAt_gate (g : GPlace) {o : Nat} (h : o < 0x200) :
    regAt (gPage g) (gBase g + o) = findReg (pageRegs (gPage g)) (gBase g + o) := by
  have hb := gBase_bounds g
  have hp : tkpBare (gPage g) (gBase g + o) = false := by cases g <;> rfl
  rw [regAt, hp, if_neg (by decide), regDef, if_neg (by omega)]

theorem regAt_gclCtl (g : GPlace) : regAt (gPage g) (gBase g) = some (gclCtl g) := by
  have hm : findReg movRegs 0x800 = some (gclCtl (.mov 0)) := by decide +kernel
  have hl : findReg llkRegs 0xC00 = some (gclCtl (.llk 0)) := by decide +kernel
  have he : findReg ethRegs 0xC00 = some (gclCtl (.eth 0)) := by decide +kernel
  refine (regAt_gate g (o := 0) (by decide)).trans ?_
  cases g with
  | mov t => exact hm
  | llk n => exact hl
  | eth n => exact he

theorem regAt_tblCmd (g : GPlace) : regAt (gPage g) (gBase g + 0x80) = some (tblCmd g) := by
  have hm : findReg movRegs 0x880 = some (tblCmd (.mov 0)) := by decide +kernel
  have hl : findReg llkRegs 0xC80 = some (tblCmd (.llk 0)) := by decide +kernel
  have he : findReg ethRegs 0xC80 = some (tblCmd (.eth 0)) := by decide +kernel
  refine (regAt_gate g (by decide)).trans ?_
  cases g with
  | mov t => exact hm
  | llk n => exact hl
  | eth n => exact he

/-- The gate registers of a place act as Chapter 12 says. -/
theorem pageHook_gate (s : State) (a : RegAcc) (g : GPlace) {o : Nat} (h : o < 0x100 ∨ (atEgress g = true ∧ o < 0x200)) (old v : Word) :
    pageHook s a (gPage g) (gBase g + o) old v = gateHook s g o old v := by
  cases g with
  | mov t =>
    have ho : o < 0x100 := h.resolve_right (by simp [atEgress])
    show (if 0x800 + o = 0x084 then _ else if 0x800 ≤ 0x800 + o ∧ 0x800 + o < 0x900 then gateHook s (.mov t) (0x800 + o - 0x800) old v
      else s) = _
    rw [if_neg (by omega), if_pos (by omega), Nat.add_sub_cancel_left]
  | llk n =>
    show (if 0xC00 + o = 0x080 then _ else if 0xC00 ≤ 0xC00 + o ∧ 0xC00 + o < 0xE00 then gateHook s (.llk n) (0xC00 + o - 0xC00) old v
      else s) = _
    rw [if_neg (by omega), if_pos (by omega), Nat.add_sub_cancel_left]
  | eth n =>
    show (if 0xC00 ≤ 0xC00 + o ∧ 0xC00 + o < 0xE00 then gateHook s (.eth n) (0xC00 + o - 0xC00) old v else _) = _
    rw [if_pos (by omega), Nat.add_sub_cancel_left]

/-- What a write of a gate register settles first is the credit of the shaper that it belongs to. -/
theorem preHook_gate (s : State) {g : GPlace} (h : atEgress g = true) (o : Nat) : preHook s (gPage g) (gBase g + o) = shpKeep s g o := by
  cases g with
  | mov t => exact absurd h (by simp [atEgress])
  | llk n =>
    show (if 0xC00 ≤ 0xC00 + o then shpKeep s (.llk n) (0xC00 + o - 0xC00) else s) = _
    rw [if_pos (by omega), Nat.add_sub_cancel_left]
  | eth n =>
    show (if 0xC00 ≤ 0xC00 + o then shpKeep s (.eth n) (0xC00 + o - 0xC00) else s) = _
    rw [if_pos (by omega), Nat.add_sub_cancel_left]

theorem preHook_gate_list (s : State) (g : GPlace) {o : Nat} (h : o < 0x100) : preHook s (gPage g) (gBase g + o) = s := by
  cases g with
  | mov t => rfl
  | llk n => rw [preHook_gate s rfl, shpKeep, if_neg (by omega)]
  | eth n => rw [preHook_gate s rfl, shpKeep, if_neg (by omega)]

/-- A command of GCL_CTL that takes effect does only what it says. -/
theorem regPut_gclCtl {s : State} {g : GPlace} {v : Word} (h : writeTaken s (gPage g) (gBase g) v = true)
    (hg : fld v 3 3 = fld (rawReg s (gPage g) (gBase g)) 3 3) (hi : ∀ hi, hi = 11 ∨ hi = 15 →
      fld v hi 8 = fld (rawReg s (gPage g) (gBase g)) hi 8) (src : Src) :
    regPut s src (gPage g) (gBase g) v = gctlWritten s g (rawReg s (gPage g) (gBase g)) v := by
  have hnew : newFields s (gPage g) (gBase g) (gclCtl g) v = rawReg s (gPage g) (gBase g) := by
    refine applyAll_same (fun f hf => ?_)
    cases g <;> simp only [gclCtl, List.mem_cons, List.not_mem_nil, or_false] at hf <;>
      rcases hf with rfl | rfl | rfl | rfl | rfl
    all_goals simp only [reduceCtorEq, false_or, true_and, true_or]
    · exact hg
    · exact hi 11 (by simp)
    · exact hg
    · exact hi 15 (by simp)
    · exact hg
    · exact hi 15 (by simp)
  have hpre := preHook_gate_list s g (o := 0) (by decide)
  have hook := pageHook_gate (storeReg s (gPage g) (gBase g) (rawReg s (gPage g) (gBase g))) { src := src } g (o := 0)
    (.inl (by decide)) (rawReg s (gPage g) (gBase g)) v
  rw [Nat.add_zero] at hpre hook
  rw [regPut_own h (regAt_gclCtl g) ((gBase_bounds g).1.trans' (by decide)) hpre, hnew, hook]
  simp only [storeReg, if_true, gateHook]

/-- A command of the table port that takes effect does only what it says. -/
theorem regPut_tblCmd {s : State} {g : GPlace} {v : Word} (h : writeTaken s (gPage g) (gBase g + 0x80) v = true) (src : Src) :
    regPut s src (gPage g) (gBase g + 0x80) v = tblOp s g v := by
  have hnew : newFields s (gPage g) (gBase g + 0x80) (tblCmd g) v = rawReg s (gPage g) (gBase g + 0x80) := by
    refine applyAll_same (fun f hf => ?_)
    simp only [tblCmd, List.mem_cons, List.not_mem_nil, or_false] at hf
    rcases hf with rfl | rfl | rfl <;> exact .inl rfl
  have hook := pageHook_gate s { src := src } g (o := 0x80) (.inl (by decide)) (rawReg s (gPage g) (gBase g + 0x80)) v
  rw [regPut_own h (regAt_tblCmd g) ((gBase_bounds g).1.trans' (by decide) |>.trans (by omega)) (preHook_gate_list s g (by decide)), hnew]
  simp only [storeReg, if_true, hook, gateHook, if_neg (show ¬ (0x80 = 0x000) by decide)]
  rw [if_neg (by decide)]

/-! ## The table port (R546) -/

/-- What Table 12.2 refuses does not take effect. -/
theorem tblBad_of_taken {s : State} {g : GPlace} {v : Word} (h : writeTaken s (gPage g) (gBase g + 0x80) v = true) :
    tblBad s g v = false := by
  obtain ⟨d, hd⟩ := writeAt_of_taken h
  simp only [writeTaken, hd, Bool.and_eq_true, beq_iff_eq] at h
  have hcode := h.1.1.2
  have h80 := (gBase_bounds g).1
  rw [discardCode, if_neg (by omega)] at hcode
  by_contra hbad
  rw [Bool.not_eq_false] at hbad
  cases g with
  | mov t => simp [rangeCode, gPage, gBase, gateBad, hbad] at hcode
  | llk n => simp [rangeCode, gPage, gBase, gateBad, hbad] at hcode
  | eth n => simp [rangeCode, gPage, gBase, gateBad, hbad] at hcode

/-- The fields of a command of the table port. -/
theorem fld_tblWord {tbl wr idx : Nat} (ht : tbl < 4) (hi : idx < 256) (hw : wr < 2) :
    let v := BitVec.ofNat 32 (tbl + 8 * wr + idx * 256)
    fld v 2 0 = tbl ∧ fld v 3 3 = wr ∧ fld v 15 8 = idx := by
  have hv : (BitVec.ofNat 32 (tbl + 8 * wr + idx * 256)).toNat = tbl + 8 * wr + idx * 256 := by
    rw [BitVec.toNat_ofNat]; exact Nat.mod_eq_of_lt (by omega)
  simp only [fld, bitsOf, hv]
  refine ⟨?_, ?_, ?_⟩ <;> omega

theorem tblPut_shown (s : State) (g : GPlace) (a b c d : Word) :
    let d' (k : Nat) : Word := rawReg (tblPut s g a b c d) (gPage g) (gBase g + 0x84 + 4 * k)
    d' 0 = a ∧ d' 1 = b ∧ d' 2 = c ∧ d' 3 = d ∧ OnlyRegs s (tblPut s g a b c d) := by
  refine ⟨?_, ?_, ?_, ?_, rfl⟩ <;> simp [tblPut]

theorem tblEntry_eq (s : State) (g : GPlace) (e : GEntry) :
    tblEntry s g e = tblPut s g (BitVec.ofNat 32 e.dur) (BitVec.ofNat 32 e.gates.toNat) 0 0 := rfl

theorem getMtr_setMtr {s : State} {g : GPlace} (h : atEgress g = true) (i : Nat) (m : Meter) : getMtr (setMtr s g i m) g i = m := by
  cases g with
  | mov t => exact absurd h (by simp [atEgress])
  | llk n => simp [getMtr, setMtr]
  | eth n => simp [getMtr, setMtr]

@[simp] theorem getGcl_modGcl (s : State) (g : GPlace) (f : Gcl → Gcl) : getGcl (modGcl s g f) g = f (getGcl s g) := by
  cases g <;> simp [getGcl, modGcl]

@[simp] theorem mem_modGcl (s : State) (g : GPlace) (f : Gcl → Gcl) : (modGcl s g f).mem = s.mem := by cases g <;> rfl
@[simp] theorem rawReg_modGcl (s : State) (g : GPlace) (f : Gcl → Gcl) (p : Page) (o : Nat) :
    rawReg (modGcl s g f) p o = rawReg s p o := by cases g <;> rfl
theorem mem_setMtr (s : State) (g : GPlace) (i : Nat) (m : Meter) : (setMtr s g i m).mem = s.mem := by cases g <;> rfl

/-- A field that a mask keeps. -/
theorem fld_and_mask {w m : Word} {hi lo : Nat} (h : fld m hi lo = 2 ^ (hi + 1 - lo) - 1) : fld (w &&& m) hi lo = fld w hi lo := by
  have hand : fld (w &&& m) hi lo = fld w hi lo &&& fld m hi lo := by
    simp only [fld, bitsOf, BitVec.toNat_and]
    rw [← Nat.shiftRight_eq_div_pow, ← Nat.shiftRight_eq_div_pow, ← Nat.shiftRight_eq_div_pow, Nat.shiftRight_and_distrib,
      Nat.and_mod_two_pow]
  rw [hand, h, Nat.and_two_pow_sub_one_eq_mod, Nat.mod_eq_of_lt (fld_lt _ _ _)]

/-- A read of the table port. -/
theorem tblGet_shown (s : State) (g : GPlace) {tbl idx : Nat} (ht : tbl < 4) :
    let u := tblGet s g tbl idx
    let d (k : Nat) : Word := rawReg u (gPage g) (gBase g + 0x84 + 4 * k)
    (∀ e, tbl = 0 ∧ e = tabGet {} (getGcl s g).adm idx ∨ tbl = 1 ∧ e = tabGet {} (getGcl s g).oper idx →
        d 0 = BitVec.ofNat 32 e.dur ∧ d 1 = BitVec.ofNat 32 e.gates.toNat)
      ∧ (tbl = 2 → d 0 = (getMtr s g idx).d0 ∧ d 1 = (getMtr s g idx).d1 ∧ d 2 = (getMtr s g idx).d2 ∧ d 3 = (getMtr s g idx).d3)
      ∧ (tbl = 3 → d 0 = BitVec.ofNat 32 (getMtr s g idx).green ∧ d 1 = BitVec.ofNat 32 (getMtr s g idx).yellow
        ∧ d 2 = BitVec.ofNat 32 (getMtr s g idx).red)
      ∧ OnlyRegs s u := by
  have shown := tblPut_shown s g
  interval_cases tbl
  · obtain ⟨h0, h1, -, -, ho⟩ := shown (BitVec.ofNat 32 (tabGet {} (getGcl s g).adm idx).dur)
      (BitVec.ofNat 32 (tabGet {} (getGcl s g).adm idx).gates.toNat) 0 0
    refine ⟨?_, by simp, by simp, ho⟩
    rintro e (⟨-, rfl⟩ | ⟨h, -⟩)
    · exact ⟨h0, h1⟩
    · cases h
  · obtain ⟨h0, h1, -, -, ho⟩ := shown (BitVec.ofNat 32 (tabGet {} (getGcl s g).oper idx).dur)
      (BitVec.ofNat 32 (tabGet {} (getGcl s g).oper idx).gates.toNat) 0 0
    refine ⟨?_, by simp, by simp, ho⟩
    rintro e (⟨h, -⟩ | ⟨-, rfl⟩)
    · cases h
    · exact ⟨h0, h1⟩
  · obtain ⟨h0, h1, h2, h3, ho⟩ := shown (getMtr s g idx).d0 (getMtr s g idx).d1 (getMtr s g idx).d2 (getMtr s g idx).d3
    exact ⟨by simp, fun _ => ⟨h0, h1, h2, h3⟩, by simp, ho⟩
  · obtain ⟨h0, h1, h2, -, ho⟩ := shown (BitVec.ofNat 32 (getMtr s g idx).green) (BitVec.ofNat 32 (getMtr s g idx).yellow)
      (BitVec.ofNat 32 (getMtr s g idx).red) 0
    exact ⟨by simp, by simp, fun _ => ⟨h0, h1, h2⟩, ho⟩

/-- A write of a meter of an egress: its buckets start full. -/
theorem tblSet_meter {s : State} {g : GPlace} (hg : atEgress g = true) (idx : Nat) :
    let d (k : Nat) : Word := rawReg s (gPage g) (gBase g + 0x84 + 4 * k)
    let m := getMtr (tblSet s g 2 idx) g idx
    (m.cir, m.mode) = (fld (d 0) 31 12, fld (d 0) 1 0) ∧ m.cTok = fld (d 1) 23 0 * credUnit
      ∧ m.eTok = fld (d 3) 23 0 * credUnit := by
  simp only [tblSet, getMtr_setMtr hg, Meter.cir, Meter.mode, Meter.cbs, Meter.ebs]
  rw [fld_and_mask (m := 0xFFFFF007) (hi := 31) (lo := 12) (by decide), fld_and_mask (m := 0xFFFFF007) (hi := 1) (lo := 0) (by decide),
    fld_and_mask (m := 0xFFFFFF) (hi := 23) (lo := 0) (by decide), fld_and_mask (m := 0xFFFFFF) (hi := 23) (lo := 0) (by decide)]
  exact ⟨rfl, rfl, rfl⟩

theorem tblSet_mem (s : State) (g : GPlace) {tbl : Nat} (idx : Nat) (ht : tbl < 4) : (tblSet s g tbl idx).mem = s.mem := by
  interval_cases tbl
  · exact mem_modGcl s g _
  · rfl
  · exact mem_setMtr s g idx _
  · exact mem_setMtr s g idx _

/-- Meters and their counters are at egresses only (Table 12.2). -/
theorem atEgress_of_meter {s : State} {g : GPlace} {v : Word} (h : tblBad s g v = false) (hv : fld v 2 0 = 2 ∨ fld v 2 0 = 3) :
    atEgress g = true := by
  cases g with
  | mov t => rcases hv with hv | hv <;> simp [tblBad, hv] at h
  | llk n => rfl
  | eth n => rfl

/-- Settles O41. -/
theorem tablePortActs : Obligations.TablePortActs := by
  intro s src g tbl idx ht hi p o d
  have ht8 : tbl % 8 = tbl := Nat.mod_eq_of_lt (by omega)
  have hi8 : idx % 256 = idx := Nat.mod_eq_of_lt hi
  constructor
  · intro hw
    obtain ⟨hft, hfw, hfi⟩ := fld_tblWord ht hi (show 0 < 2 by decide)
    simp only [Nat.mul_zero, Nat.add_zero] at hft hfw hfi
    refine ⟨_, show execTblRead src g tbl idx s = _ from rfl, ?_⟩
    rw [ht8, hi8, regPut_tblCmd hw, tblOp, hfw, if_neg (by decide), hft, hfi]
    exact tblGet_shown s g ht
  · intro hw
    obtain ⟨hft, hfw, hfi⟩ := fld_tblWord ht hi (show 1 < 2 by decide)
    simp only [Nat.mul_one] at hft hfw hfi
    have hok := tblBad_of_taken hw
    refine ⟨_, show execTblWrite src g tbl idx s = _ from rfl, ?_⟩
    rw [ht8, hi8, regPut_tblCmd hw, tblOp, hfw, if_pos rfl, hft, hfi]
    refine ⟨?_, ?_, ?_, tblSet_mem s g idx ht⟩
    · rintro rfl
      simp only [tblSet, getGcl_modGcl, tabGet_tabPut_same]
      exact ⟨rfl, trivial, fun k hk => tabGet_tabPut_ne _ _ _ _ _ hk⟩
    · rintro rfl
      exact tblSet_meter (atEgress_of_meter hok (.inl hft)) idx
    · rintro rfl
      simp only [tblSet, getMtr_setMtr (atEgress_of_meter hok (.inr hft))]
      exact ⟨rfl, rfl, rfl⟩

end Sys2Proof.Machine
end

section
/-! PROOFS. Commands of gate lists, the switch to a pending list, the start of the next entry (sections 12.2 and 12.3). -/

namespace Sys2Proof.Machine

/-! ## Gate lists under events and register writes -/

theorem getGcl_of_events {s u : State} {ks : List Nat} (h : Events s u ks) (g : GPlace) : getGcl u g = getGcl s g := by
  cases g with
  | mov t => exact congrArg Tile.gcl (h.getTile t)
  | llk n => exact (congrArg Link.gcl (h.2.1 n)).trans rfl
  | eth n => show (getEth u n).gcl = _; rw [h.1]; rfl

@[simp] theorem getGcl_putReg (s : State) (g : GPlace) (p : Page) (o : Nat) (v : Word) : getGcl (putReg s p o v) g = getGcl s g := by
  cases g <;> rfl
@[simp] theorem getGcl_putFld (s : State) (g : GPlace) (p : Page) (o hi lo x : Nat) :
    getGcl (putFld s p o hi lo x) g = getGcl s g := by cases g <;> rfl

theorem rfld_of_raw {s u : State} {p : Page} {o : Nat} (hi lo : Nat) (h : rawReg u p o = rawReg s p o) :
    rfld u p o hi lo = rfld s p o hi lo := by rw [rfld, h]; rfl

/-- Registers of gates hold no event. -/
theorem quietOff_gate (g : GPlace) {o : Nat} (h : o < 0x200) : QuietOff (gBase g + o) := by
  have := gBase_bounds g
  exact quietOff_of_le (by omega) (by omega)

theorem gclErr_shown (s : State) (g : GPlace) (code detail : Nat) :
    Events s (gclErr s g code detail) [] ∧ EventFrame s (gclErr s g code detail) :=
  ⟨events_capture _ _ _ _ _ _ _ _ _ _, eventFrame_captureCore _ _ _ _ _ _ _ _ _ _⟩

theorem gclState_of_frame {s u : State} (h : EventFrame s u) (g : GPlace) : gclState u g = gclState s g :=
  h.rfld _ (quietOff_gate g (by decide)) _ _

theorem gclState_gclSetState (s : State) (g : GPlace) {st : Nat} (h : st < 4) : gclState (gclSetState s g st) g = st := by
  rw [gclState, gclSetState, rfld_putFld_same _ _ _ _ _ _ (by decide) (by decide)]
  exact Nat.mod_eq_of_lt h

theorem regsBut_gclSetState (s : State) (g : GPlace) (st : Nat) : RegsBut s (gclSetState s g st) [regKey (gPage g) (gBase g + 4)] :=
  regsBut_putFld _ _ _ _ _ _ _ (by simp)

/-! ## 64-bit values -/

theorem gPair_lt (s : State) (g : GPlace) (off : Nat) : gPair s g off < 2 ^ 64 := by
  have h1 := (rawReg s (gPage g) (gBase g + off)).isLt
  have h2 := (rawReg s (gPage g) (gBase g + off + 4)).isLt
  simp only [gPair, pairNat]; omega

theorem gPair_gPutPair_same (s : State) (g : GPlace) (off v : Nat) : gPair (gPutPair s g off v) g off = v % 2 ^ 64 := by
  simp only [gPair, pairNat, gPutPair, rawReg_putReg_same]
  rw [rawReg_putReg_off _ _ _ _ _ (by omega), rawReg_putReg_same, BitVec.toNat_ofNat, BitVec.toNat_ofNat]
  omega

theorem rawReg_gPutPair_off (s : State) (g : GPlace) (off v : Nat) {o : Nat} (h : o ≠ gBase g + off) (h' : o ≠ gBase g + off + 4) :
    rawReg (gPutPair s g off v) (gPage g) o = rawReg s (gPage g) o := by
  rw [gPutPair, rawReg_putReg_off _ _ _ _ _ h', rawReg_putReg_off _ _ _ _ _ h]

theorem gPair_gPutPair_ne (s : State) (g : GPlace) (off v : Nat) {o : Nat} (h : off + 4 < o ∨ o + 4 < off) :
    gPair (gPutPair s g off v) g o = gPair s g o := by
  simp only [gPair, pairNat]
  rw [rawReg_gPutPair_off _ _ _ _ (by omega) (by omega), rawReg_gPutPair_off _ _ _ _ (by omega) (by omega)]

theorem regsBut_gPutPair (s : State) (g : GPlace) (off v : Nat) :
    RegsBut s (gPutPair s g off v) [regKey (gPage g) (gBase g + off), regKey (gPage g) (gBase g + off + 4)] :=
  (regsBut_putReg s _ _ _ _ (by simp)).trans (regsBut_putReg _ _ _ _ _ (by simp))

theorem onlyRegs_gPutPair (s : State) (g : GPlace) (off v : Nat) : OnlyRegs s (gPutPair s g off v) := rfl

@[simp] theorem getGcl_gPutPair (s : State) (g : GPlace) (off v : Nat) : getGcl (gPutPair s g off v) g = getGcl s g := by
  simp [gPutPair]

theorem gPair_congr {s u : State} {g : GPlace} {o : Nat} (h : rawReg u (gPage g) (gBase g + o) = rawReg s (gPage g) (gBase g + o))
    (h' : rawReg u (gPage g) (gBase g + o + 4) = rawReg s (gPage g) (gBase g + o + 4)) : gPair u g o = gPair s g o := by
  simp only [gPair, pairNat, h, h']

/-! ## The switch (R515, R519) -/

/-- The registers that a switch writes beside GCL_STAT. -/
def switchRegs (s : State) (g : GPlace) : State :=
  putReg (gPutPair (gPutPair s g 0x20 (gPair s g 0x08)) g 0x28 (gPair s g 0x10)) (gPage g) (gBase g + 0x30)
    (rawReg s (gPage g) (gBase g + 0x18))

theorem gclSwitch_eq (s : State) (g : GPlace) : ∃ f f' : Gcl → Gcl,
    (f' (f (getGcl s g))).oper = (getGcl s g).adm ∧ (f' (f (getGcl s g))).runCt = gCt s g
      ∧ gclSwitch s g = isrBit (modGcl (gclSetState (modGcl (switchRegs s g) g f) g 2) g f') (gPage g) (gIsr g) :=
  ⟨_, _, rfl, rfl, rfl⟩

theorem switchRegs_shown (s : State) (g : GPlace) :
    let u := switchRegs s g
    getGcl u g = getGcl s g ∧ OnlyRegs s u ∧ rawReg u (gPage g) (gBase g + 0x30) = rawReg s (gPage g) (gBase g + 0x18)
      ∧ gPair u g 0x28 = gPair s g 0x10 ∧ gPair u g 0x20 = gPair s g 0x08 := by
  have hp : ∀ o, o + 4 < 0x30 → gPair (switchRegs s g) g o
      = gPair (gPutPair (gPutPair s g 0x20 (gPair s g 0x08)) g 0x28 (gPair s g 0x10)) g o := fun o ho =>
    gPair_congr (rawReg_putReg_off _ _ _ _ _ (by omega)) (rawReg_putReg_off _ _ _ _ _ (by omega))
  refine ⟨by simp [switchRegs], rfl, rawReg_putReg_same _ _ _ _, ?_, ?_⟩
  · rw [hp _ (by decide), gPair_gPutPair_same, Nat.mod_eq_of_lt (gPair_lt s g _)]
  · rw [hp _ (by decide), gPair_gPutPair_ne _ _ _ _ (by decide), gPair_gPutPair_same, Nat.mod_eq_of_lt (gPair_lt s g _)]

@[simp] theorem fullT_modGcl (s : State) (g : GPlace) (f : Gcl → Gcl) : fullT (modGcl s g f) = fullT s := by cases g <;> rfl

theorem Events.fullT {s u : State} {ks : List Nat} (h : Events s u ks) : fullT u = Machine.fullT s := by
  rw [Machine.fullT, h.1]; rfl

theorem OnlyRegs.fullT {s u : State} (h : OnlyRegs s u) : Machine.fullT u = Machine.fullT s := by
  rw [Machine.fullT, h]; rfl

theorem gclSwitch_shown (s : State) (g : GPlace) :
    let u := gclSwitch s g
    gclState u g = 2 ∧ (getGcl u g).oper = (getGcl s g).adm ∧ gRunCt u g = gCt s g
      ∧ rawReg u (gPage g) (gBase g + 0x30) = rawReg s (gPage g) (gBase g + 0x18)
      ∧ gPair u g 0x28 = gPair s g 0x10 ∧ gPair u g 0x20 = gPair s g 0x08 ∧ u.mem = s.mem ∧ fullT u = fullT s := by
  intro u
  obtain ⟨f, f', hoper, hct, hu⟩ := gclSwitch_eq s g
  have hu : u = _ := hu
  obtain ⟨hgcl2, ho2, h30, h28, h20⟩ := switchRegs_shown s g
  generalize switchRegs s g = s2 at hu hgcl2 ho2 h30 h28 h20
  have hst : gclState (modGcl (gclSetState (modGcl s2 g f) g 2) g f') g = 2 :=
    (rfld_of_raw _ _ (rawReg_modGcl _ g f' _ _)).trans (gclState_gclSetState _ g (by decide))
  have hgcl4 : getGcl (modGcl (gclSetState (modGcl s2 g f) g 2) g f') g = f' (f (getGcl s g)) := by simp [gclSetState, hgcl2]
  have hreg4 : ∀ o, o ≠ 4 → rawReg (modGcl (gclSetState (modGcl s2 g f) g 2) g f') (gPage g) (gBase g + o)
      = rawReg s2 (gPage g) (gBase g + o) := fun o h4 => by
    rw [rawReg_modGcl, gclSetState, rawReg_putFld_off _ _ _ _ _ _ _ (by omega), rawReg_modGcl]
  have hmem4 : (modGcl (gclSetState (modGcl s2 g f) g 2) g f').mem = s.mem := by
    rw [mem_modGcl, gclSetState, (onlyRegs_putFld _ _ _ _ _ _).mem, mem_modGcl, ho2.mem]
  have hT4 : fullT (modGcl (gclSetState (modGcl s2 g f) g 2) g f') = fullT s := by
    rw [fullT_modGcl, gclSetState, (onlyRegs_putFld _ _ _ _ _ _).fullT, fullT_modGcl, ho2.fullT]
  generalize modGcl (gclSetState (modGcl s2 g f) g 2) g f' = s4 at hu hst hgcl4 hreg4 hmem4 hT4
  have hev : Events s4 u [] := hu ▸ events_isrBit s4 _ _ _ _
  have hfr : EventFrame s4 u := hu ▸ eventFrame_isrBit s4 _ _ _
  have hgcl : getGcl u g = f' (f (getGcl s g)) := (getGcl_of_events hev g).trans hgcl4
  have hreg : ∀ o, o < 0x200 → o ≠ 4 → rawReg u (gPage g) (gBase g + o) = rawReg s2 (gPage g) (gBase g + o) := fun o ho h4 =>
    (hfr.quiet _ _ (quietOff_gate g ho)).trans (hreg4 o h4)
  refine ⟨(gclState_of_frame hfr g).trans hst, by rw [hgcl, hoper], by rw [gRunCt, hgcl, hct],
    (hreg 0x30 (by decide) (by decide)).trans h30, ?_, ?_, hev.mem.trans hmem4, hev.fullT.trans hT4⟩
  · exact (gPair_congr (hreg 0x28 (by decide) (by decide)) (hreg 0x2C (by decide) (by decide))).trans h28
  · exact (gPair_congr (hreg 0x20 (by decide) (by decide)) (hreg 0x24 (by decide) (by decide))).trans h20

/-! ## CHG, CANCEL and HALT (Table 12.5) -/

theorem gclChg_eq {s : State} {g : GPlace} (h : gclBad s g = 0) {ct : Nat} {late : Bool} (hct : gclTime s g = (ct, late)) {st : Nat}
    (hst : (if gclState s g = 2 then 3 else 1) = st) :
    gclChg s g = if late then putBit (gPutPair (gclSetState s g st) g 0x38 ct) (gPage g) (gBase g + 4) 2 true
      else gPutPair (gclSetState s g st) g 0x38 ct := by
  unfold gclChg
  extract_lets bad
  rw [if_neg (not_not.2 h), hct, ← hst]

theorem gclChg_accepted {s : State} {g : GPlace} (h : gclBad s g = 0) :
    let u := gclChg s g
    gclState u g = (if gclState s g = 2 then 3 else 1) ∧ gCt u g = (gclTime s g).1 % 2 ^ 64 ∧ getGcl u g = getGcl s g
      ∧ OnlyRegs s u
      ∧ RegsBut s u [regKey (gPage g) (gBase g + 4), regKey (gPage g) (gBase g + 0x38), regKey (gPage g) (gBase g + 0x3C)] := by
  generalize hst : (if gclState s g = 2 then 3 else 1) = st
  have hlt : st < 4 := by rw [← hst]; split <;> decide
  obtain ⟨ct, late, hct⟩ : ∃ ct late, gclTime s g = (ct, late) := ⟨_, _, (Prod.eta _).symm⟩
  intro u
  have hu : u = _ := gclChg_eq h hct hst
  obtain ⟨s1, hs1⟩ : ∃ s1, gPutPair (gclSetState s g st) g 0x38 ct = s1 := ⟨_, rfl⟩
  have hst1 : gclState s1 g = st := by
    rw [← hs1]
    exact (rfld_of_raw _ _ (rawReg_gPutPair_off _ _ _ _ (by omega) (by omega))).trans (gclState_gclSetState _ g hlt)
  have hct1 : gCt s1 g = ct % 2 ^ 64 := by rw [← hs1]; exact gPair_gPutPair_same _ _ _ _
  have hbut : RegsBut s s1 [regKey (gPage g) (gBase g + 4), regKey (gPage g) (gBase g + 0x38), regKey (gPage g) (gBase g + 0x3C)] := by
    rw [← hs1]
    exact ((regsBut_gclSetState s g _).weaken (by simp)).trans ((regsBut_gPutPair _ g _ _).weaken (by simp))
  have hgcl : getGcl s1 g = getGcl s g := by rw [← hs1, getGcl_gPutPair, gclSetState, getGcl_putFld]
  have honly : OnlyRegs s s1 := by rw [← hs1]; exact (onlyRegs_putFld _ _ _ _ _ _).trans (onlyRegs_gPutPair _ _ _ _)
  rw [hs1] at hu
  rw [hct, hu]
  split
  · refine ⟨(rfld_putFld_ne _ _ _ _ _ _ _ _ (by decide) (by decide) (by decide) (by decide)).trans hst1, ?_,
      (getGcl_putFld _ _ _ _ _ _ _).trans hgcl, honly.trans (onlyRegs_putBit _ _ _ _ _),
      hbut.trans (regsBut_putBit _ _ _ _ _ _ (by simp))⟩
    exact (gPair_congr (rawReg_putBit_off _ _ _ _ _ _ (by omega)) (rawReg_putBit_off _ _ _ _ _ _ (by omega))).trans hct1
  · exact ⟨hst1, hct1, hgcl, honly, hbut⟩

theorem gclHalt_shown (s : State) (g : GPlace) :
    let u := gclHalt s g
    gclState u g = 0 ∧ gclIdle u g = gclIdle s g ∧ RegsBut s u [regKey (gPage g) (gBase g + 4)] ∧ u.mem = s.mem := by
  intro u
  let s1 := putFld (gclSetState s g 0) (gPage g) (gBase g + 4) 23 8 (gclIdle s g)
  have hr : ∀ p o, rawReg u p o = rawReg s1 p o := fun p o => by
    simp only [u, gclHalt, gMark, rawReg_modGcl, s1]
  refine ⟨?_, ?_, fun p o hk => ?_, by simp only [u, gclHalt, gMark, mem_modGcl]; rfl⟩
  · rw [gclState, rfld_of_raw _ _ (hr _ _)]
    exact (rfld_putFld_ne _ _ _ _ _ _ _ _ (by decide) (by decide) (by decide) (by decide)).trans (gclState_gclSetState s g (by decide))
  · rw [gclIdle, rfld_of_raw _ _ (hr _ _)]
    refine rfld_of_raw _ _ ?_
    rw [rawReg_putFld_off _ _ _ _ _ _ _ (by omega), gclSetState, rawReg_putFld_off _ _ _ _ _ _ _ (by omega)]
  · rw [hr]
    exact ((regsBut_gclSetState s g 0).trans (regsBut_putFld _ _ _ _ _ _ _ (by simp))) p o hk

/-- What a command of GCL_CTL finds: a switch that is due is done (R517). -/
def gctlSettled (s : State) (g : GPlace) : State :=
  if gReached s g then
    putReg (gclSwitch (putReg s (gPage g) (gBase g) (rawReg s (gPage g) (gBase g))) g) (gPage g) (gBase g) (rawReg s (gPage g) (gBase g))
  else s

theorem gctlSettled_of_reached {s : State} {g : GPlace} (h : gReached s g = true) :
    let u := gctlSettled s g
    gclState u g = 2 ∧ (getGcl u g).oper = (getGcl s g).adm ∧ gclIdle u g = gclIdle s g ∧ u.mem = s.mem := by
  obtain ⟨hst, hoper, -, -, -, -, hmem, -⟩ := gclSwitch_shown (putReg s (gPage g) (gBase g) (rawReg s (gPage g) (gBase g))) g
  simp only [gctlSettled, h, if_true]
  refine ⟨?_, ?_, ?_, hmem⟩
  · exact (rfld_of_raw _ _ (rawReg_putReg_off _ _ _ _ _ (by omega))).trans hst
  · rw [getGcl_putReg, hoper, getGcl_putReg]
  · exact rfld_of_raw _ _ (rawReg_putReg_same _ _ _ _)

/-- A command of GCL_CTL alone, with the other fields as they are. -/
theorem regPut_gclBit {s : State} {g : GPlace} {c : Word}
    (h : writeTaken s (gPage g) (gBase g) (rawReg s (gPage g) (gBase g) ||| c) = true)
    (hc : fld c 3 3 = 0 ∧ fld c 11 8 = 0 ∧ fld c 15 8 = 0) (src : Src) :
    gclBit s src g c = gclWritten (gctlSettled s g) g (rawReg s (gPage g) (gBase g) ||| c) := by
  obtain ⟨h3, h11, h15⟩ := hc
  rw [gclBit, regPut_gclCtl h (by rw [fld_or, h3, Nat.or_zero]) (by rintro hi (rfl | rfl) <;> simp [fld_or, h11, h15]), gctlWritten]
  rw [if_pos (show fld (rawReg s (gPage g) (gBase g)) 15 8 = rfld s (gPage g) (gBase g) 15 8 from rfl), gctlSettled]

/-- The command bits of a register that shows none. -/
theorem fld_cmd {raw : Word} (h : fld raw 2 0 = 0) (c : Word) :
    fld (raw ||| c) 0 0 = fld c 0 0 ∧ fld (raw ||| c) 1 1 = fld c 1 1 ∧ fld (raw ||| c) 2 2 = fld c 2 2 := by
  have h0 : fld raw 0 0 = 0 ∧ fld raw 1 1 = 0 ∧ fld raw 2 2 = 0 := by
    simp only [fld, bitsOf] at h ⊢; omega
  obtain ⟨h0, h1, h2⟩ := h0
  simp [fld_or, h0, h1, h2]

section
variable {s : State} {g : GPlace}

theorem gclWritten_chg {v : Word} (h : fld v 0 0 = 1) : gclWritten s g v
    = if gclBad s g = 0 then bucketRestore (gclChg s g) 6 (gateInst g) else gclChg s g := by rw [gclWritten, if_pos h]

theorem gclWritten_cancel {v : Word} (h0 : fld v 0 0 = 0) (h : fld v 1 1 = 1) : gclWritten s g v = gclCancel s g := by
  rw [gclWritten, if_neg (by omega), if_pos h]

theorem gclWritten_halt {v : Word} (h0 : fld v 0 0 = 0) (h1 : fld v 1 1 = 0) (h : fld v 2 2 = 1) : gclWritten s g v = gclHalt s g := by
  rw [gclWritten, if_neg (by omega), if_neg (by omega), if_pos h]

theorem not_reached_of_good (h : gclBad s g = 0) : gReached s g = false := by
  have hst : ¬(gclState s g = 1 ∨ gclState s g = 3) := fun hp => by simp [gclBad, hp] at h
  rw [not_or] at hst
  simp [gReached, hst]

theorem gclCancel_pending (h : gclState s g = 1 ∨ gclState s g = 3) :
    gclCancel s g = gclSetState s g (if gclState s g = 1 then 0 else 2) := by
  rcases h with h | h <;> simp [gclCancel, h]

theorem gclCancel_running (h : gclState s g = 2) : gclCancel s g = gclErr s g 0x21 0 := by simp [gclCancel, h]

end

theorem gateOpen_off {s : State} {g : GPlace} (h : gclState s g ≤ 1) (q : Nat) :
    gateOpen s g q = (gclIdle s g / 2 ^ q % 2 == 1) := by rw [gateOpen, gPos, if_pos h]

/-- The pages of gate lists hold nothing that time moves. -/
theorem not_clockKey_gate {s : State} {g : GPlace} (h : pagePresent s (gPage g) = true) {o : Nat} (ho : o < 0x1000) :
    ¬ ClockKey (regKey (gPage g) o) ∧ regKey (gPage g) o ≠ regKey (.tkp 0) 0x084 := by
  cases g with
  | mov t =>
    have ht : t < 16384 := tile_lt_of_present (t := t) h (by simp [gPage])
    simp only [ClockKey, gPage, regKey, pageBase]; omega
  | llk n => simp only [ClockKey, gPage, regKey, pageBase]; omega
  | eth n => simp only [ClockKey, gPage, regKey, pageBase]; omega

theorem getGcl_timeMoved {s u : State} (h : TimeMoved s u) (g : GPlace) : getGcl u g = getGcl s g := by
  cases g <;> (rw [h.rest]; rfl)

/-- Settles O40. -/
theorem gateListsFollowCommands : Obligations.GateListsFollowCommands := by
  constructor
  · intro s src g p o raw st hraw
    refine ⟨fun hw hgood => ?_, fun hw hbad hr => ?_, fun hw hst hr => ?_, fun hw hr => ?_, fun hw => ?_⟩
    · obtain ⟨h0, -, -⟩ := fld_cmd hraw 1
      refine ⟨_, show execChg src g s = _ from rfl, ?_⟩
      rw [regPut_gclBit hw (by decide), gctlSettled, not_reached_of_good hgood, if_neg (by decide), gclWritten_chg h0, if_pos hgood]
      obtain ⟨hst, hct, hgcl, honly, hbut⟩ := gclChg_accepted hgood
      refine ⟨hst, hct, ?_, honly.mem, hbut⟩
      have h18 : gReg (gclChg s g) g 0x18 8 0 = gReg s g 0x18 8 0 := rfld_of_raw _ _ (hbut _ _ (by simp [regKey]))
      show gEntries (getGcl (gclChg s g) g).adm (gReg (gclChg s g) g 0x18 8 0) = gAdm s g
      rw [hgcl, h18]; rfl
    · obtain ⟨h0, -, -⟩ := fld_cmd hraw 1
      refine ⟨_, show execChg src g s = _ from rfl, ?_⟩
      rw [regPut_gclBit hw (by decide), gctlSettled, hr, if_neg (by decide), gclWritten_chg h0, if_neg hbad]
      have hchg : gclChg s g = gclErr s g 0x20 (gclBad s g) := by rw [gclChg, if_pos hbad]
      rw [hchg]
      obtain ⟨hev, hfr⟩ := gclErr_shown s g 0x20 (gclBad s g)
      exact ⟨gclState_of_frame hfr g, hev⟩
    · obtain ⟨h0, h1, -⟩ := fld_cmd hraw 2
      refine ⟨_, show execCancel src g s = _ from rfl, ?_⟩
      rw [regPut_gclBit hw (by decide), gctlSettled, hr, if_neg (by decide), gclWritten_cancel h0 h1, gclCancel_pending hst]
      exact ⟨gclState_gclSetState s g (by split <;> decide), regsBut_gclSetState s g _, onlyRegs_putFld _ _ _ _ _ _⟩
    · obtain ⟨h0, h1, -⟩ := fld_cmd hraw 2
      obtain ⟨hst, hoper, -, hmem⟩ := gctlSettled_of_reached hr
      refine ⟨_, show execCancel src g s = _ from rfl, ?_⟩
      rw [regPut_gclBit hw (by decide), gclWritten_cancel h0 h1, gclCancel_running hst]
      obtain ⟨hev, hfr⟩ := gclErr_shown (gctlSettled s g) g 0x21 0
      exact ⟨(gclState_of_frame hfr g).trans hst, by rw [getGcl_of_events hev, hoper], hev.mem.trans hmem⟩
    · obtain ⟨h0, h1, h2⟩ := fld_cmd hraw 4
      refine ⟨_, show execHalt src g s = _ from rfl, ?_⟩
      rw [regPut_gclBit hw (by decide), gclWritten_halt h0 h1 h2]
      obtain ⟨hst, hidle, hbut, hmem⟩ := gclHalt_shown (gctlSettled s g) g
      have hs : gclIdle (gctlSettled s g) g = gclIdle s g ∧ (gctlSettled s g).mem = s.mem
          ∧ (gReached s g = false → gctlSettled s g = s) := by
        cases hr : gReached s g with
        | true =>
          obtain ⟨-, -, hi, hm⟩ := gctlSettled_of_reached hr
          exact ⟨hi, hm, fun h => by cases h⟩
        | false => simp [gctlSettled, hr]
      obtain ⟨hi, hm, hsame⟩ := hs
      refine ⟨hst, ?_, fun hr => ?_, hmem.trans hm⟩
      · rw [gateOpen_off (by rw [hst]; decide), hidle, hi, pow_zero, Nat.div_one]
      · rw [hsame hr] at hbut ⊢; exact hbut
  · intro s g hpres
    constructor
    · intro hst
      refine ⟨_, show execGclSwitch g s = _ from if_pos ⟨hpres, hst⟩, ?_⟩
      have hmv := timeMoved_atT s (fullT s + ctIn s g)
      have hreg : ∀ o, o < 0x200 → rawReg (atT s (fullT s + ctIn s g)) (gPage g) (gBase g + o) = rawReg s (gPage g) (gBase g + o) :=
        fun o ho => by
          have hb := gBase_bounds g
          obtain ⟨h1, h2⟩ := not_clockKey_gate hpres (o := gBase g + o) (by omega)
          exact hmv.regs _ _ h1 h2
      have hgcl := getGcl_timeMoved hmv g
      have hfull : fullT s + ctIn s g < 2 ^ 80 → fullT (atT s (fullT s + ctIn s g)) = fullT s + ctIn s g := fun h =>
        (atT_shown (by omega) h).1
      have hmem := hmv.mem
      generalize atT s (fullT s + ctIn s g) = z at hreg hgcl hfull hmem
      have hpair : ∀ o, o + 4 < 0x200 → gPair z g o = gPair s g o := fun o ho => gPair_congr (hreg o (by omega)) (hreg (o + 4) ho)
      obtain ⟨h2, hoper, hct, h30, h28, h20, hm, hT⟩ := gclSwitch_shown z g
      have hn : gReg (gclSwitch z g) g 0x30 8 0 = gReg s g 0x18 8 0 := by
        rw [gReg, rfld, h30, hreg 0x18 (by decide)]; rfl
      refine ⟨h2, by rw [hoper, hgcl], ?_, h28.trans (hpair _ (by decide)), h20.trans (hpair _ (by decide)),
        hct.trans (hpair _ (by decide)), fun h => hT.trans (hfull h), hm.trans hmem⟩
      rw [gOper, gAdm, hoper, hgcl, hn]
    · intro hst
      have hno : ¬(pagePresent s (gPage g) = false ∨ gclState s g ≤ 1 ∨ gclState s g = 3 ∧ ctIn s g ≤ gNext s g) := by
        rw [hpres]; simp only [reduceCtorEq, false_or]; omega
      refine ⟨_, show execGateEntryStart g s = _ from if_neg hno, ?_⟩
      have hmv := timeMoved_atT s (fullT s + gNext s g)
      obtain ⟨h1, h2⟩ := not_clockKey_gate hpres (o := gBase g + 4) (by have := gBase_bounds g; omega)
      exact ⟨fun h => (atT_shown (by omega) h).1, rfld_of_raw _ _ (hmv.regs _ _ h1 h2), hmv.mem, hmv.links, hmv.eths⟩

end Sys2Proof.Machine
end

section
/-! PROOFS. Shapers, and the packet that leaves the egress of a link (sections 12.4, 12.5 and 13.2). -/

namespace Sys2Proof.Machine

/-! ## The credit of a shaper (R522 to R527) -/

theorem getShp_setShp {s : State} {g : GPlace} (h : atEgress g = true) (k : Nat) (x : Shaper) : getShp (setShp s g k x) g k = x := by
  cases g with
  | mov t => exact absurd h (by simp [atEgress])
  | llk n => simp [getShp, setShp]
  | eth n => simp [getShp, setShp]

@[simp] theorem rawReg_setShp (s : State) (g : GPlace) (k : Nat) (x : Shaper) (p : Page) (o : Nat) :
    rawReg (setShp s g k x) p o = rawReg s p o := by cases g <;> rfl
@[simp] theorem gTime_setShp (s : State) (g : GPlace) (k : Nat) (x : Shaper) : gTime (setShp s g k x) = gTime s := by
  cases g <;> rfl

theorem getShp_onlyRegs {s u : State} (h : OnlyRegs s u) (g : GPlace) (k : Nat) : getShp u g k = getShp s g k := by
  rw [h]; cases g <;> rfl
theorem gTime_onlyRegs {s u : State} (h : OnlyRegs s u) : gTime u = gTime s := by rw [h]; rfl

/-- The credit of a shaper that has just been brought up to date. -/
theorem shpCred_of {z : State} {g : GPlace} {k : Nat} {c : Int} (h : getShp z g k = ⟨c, gTime z⟩) :
    shpCred z g k = min c ((shpCbs z g k * credUnit : Nat) : Int) := by
  simp only [shpCred, h, Nat.sub_self, Nat.mul_zero, Nat.cast_zero, add_zero]

theorem shpSet_shown {s : State} {g : GPlace} (h : atEgress g = true) (k : Nat) (c : Int) :
    let u := shpSet s g k c
    shpCred u g k = min c ((shpCbs s g k * credUnit : Nat) : Int) ∧ shpCbs u g k = shpCbs s g k ∧ shpEn u g k = shpEn s g k
      ∧ shpCir u g k = shpCir s g k ∧ RegsBut s u [] := by
  intro u
  have hr : ∀ p o, rawReg u p o = rawReg s p o := rawReg_setShp s g k _
  have hcbs : shpCbs u g k = shpCbs s g k := rfld_of_raw _ _ (hr _ _)
  have hget : getShp u g k = ⟨c, gTime u⟩ := by rw [show gTime u = gTime s from gTime_setShp s g k _]; exact getShp_setShp h k _
  refine ⟨by rw [shpCred_of hget, hcbs], hcbs, ?_, rfld_of_raw _ _ (hr _ _), fun p o _ => hr p o⟩
  rw [shpEn, shpEn, gReg, gReg, rfld_of_raw _ _ (hr _ _)]

theorem shpCred_le (s : State) (g : GPlace) (k : Nat) : shpCred s g k ≤ ((shpCbs s g k * credUnit : Nat) : Int) := min_le_right _ _

/-! ## Writes of the registers of a shaper -/

theorem hasFld_shaper {g : GPlace} (h : atEgress g = true) {j : Nat} (hj : j < 8) :
    hasFld (gPage g) (gBase g + shpOff j) ⟨19, 0, .rw, .num 0, .n⟩ = true
      ∧ hasFld (gPage g) (gBase g + shpOff j) ⟨31, 31, .rw, .num 0, .n⟩ = true
      ∧ hasFld (gPage g) (gBase g + (shpOff j + 4)) ⟨23, 0, .rw, .num 0, .n⟩ = true := by
  have hl : ∀ j, j < 8 → findReg llkRegs (0xC00 + shpOff j)
      = some ⟨0xD00, [(8, 0x10)], [⟨19, 0, .rw, .num 0, .n⟩, ⟨31, 31, .rw, .num 0, .n⟩]⟩
      ∧ findReg llkRegs (0xC00 + (shpOff j + 4)) = some ⟨0xD04, [(8, 0x10)], [⟨23, 0, .rw, .num 0, .n⟩]⟩ := by decide +kernel
  have he : ∀ j, j < 8 → findReg ethRegs (0xC00 + shpOff j)
      = some ⟨0xD00, [(8, 0x10)], [⟨19, 0, .rw, .num 0, .n⟩, ⟨31, 31, .rw, .num 0, .n⟩]⟩
      ∧ findReg ethRegs (0xC00 + (shpOff j + 4)) = some ⟨0xD04, [(8, 0x10)], [⟨23, 0, .rw, .num 0, .n⟩]⟩ := by decide +kernel
  have ho : shpOff j + 4 < 0x200 := by simp only [shpOff]; omega
  simp only [hasFld, regAt_gate g (show shpOff j < 0x200 by omega), regAt_gate g ho]
  cases g with
  | mov t => exact absurd h (by simp [atEgress])
  | llk n =>
    obtain ⟨h1, h2⟩ := hl j hj
    simp only [gPage, gBase, pageRegs, h1, h2]
    exact ⟨rfl, rfl, rfl⟩
  | eth n =>
    obtain ⟨h1, h2⟩ := he j hj
    simp only [gPage, gBase, pageRegs, h1, h2]
    exact ⟨rfl, rfl, rfl⟩

/-- A write of a register of a shaper that takes effect: the credit so far, the fields, the credit under them. -/
theorem regPut_shaper {s : State} {g : GPlace} {j o : Nat} {v : Word} (hg : atEgress g = true) (hj : j < 8)
    (ho : o = shpOff j ∨ o = shpOff j + 4) (h : writeTaken s (gPage g) (gBase g + o) v = true) (src : Src) :
    ∃ w z, Stored s (gPage g) (gBase g + o) v w ∧ regPut s src (gPage g) (gBase g + o) v
        = shpWritten z g o (rawReg s (gPage g) (gBase g + o))
      ∧ getShp z g j = ⟨shpCred s g j, gTime z⟩ ∧ rawReg z (gPage g) (gBase g + o) = w
      ∧ RegsBut s z [regKey (gPage g) (gBase g + o)] := by
  obtain ⟨d, hd⟩ := writeAt_of_taken h
  have hd := regAt_of_writeAt hd
  have hb := (gBase_bounds g).1
  have hin : 0x100 ≤ o ∧ o < 0x180 ∧ o % 0x10 < 8 := by simp only [shpOff] at ho; omega
  have hk : (o - 0x100) / 0x10 = j := by simp only [shpOff] at ho; omega
  have hpre : preHook s (gPage g) (gBase g + o) = shpSet s g j (shpCred s g j) := by
    rw [preHook_gate s hg, shpKeep, if_pos hin, hk]
  have hhook : ∀ (z : State) a old, pageHook z a (gPage g) (gBase g + o) old v = shpWritten z g o old := fun z a old => by
    rw [pageHook_gate z a g (.inr ⟨hg, by omega⟩), gateHook, if_neg (by omega), if_neg (by omega), if_neg (by omega), if_pos hin]
  refine ⟨_, _, stored_newFields h hd, ?_, ?_, rawReg_storeReg_same (shpSet s g j (shpCred s g j)) _ _ _, ?_⟩
  · rw [regPut, regWrite_of_taken h hd _ rfl]
    simp only [regEffect, hwMaybe, hpre, if_neg (show ¬ gBase g + o < 0x80 by omega), hhook, storeReg, shpSet, rawReg_setShp]
  · rw [getShp_onlyRegs (onlyRegs_storeReg _ _ _ _), gTime_onlyRegs (onlyRegs_storeReg _ _ _ _), shpSet, getShp_setShp hg,
      gTime_setShp]
  · exact ((shpSet_shown hg j _).2.2.2.2.weaken (by simp)).trans (regsBut_storeReg _ _ _ _ _ (by simp))

/-- What a write of a shaper's register does to its credit at the end. -/
theorem shpWritten_shown {s z : State} {g : GPlace} {j o : Nat} {old : Word} (hg : atEgress g = true) (hj : j < 8)
    (ho : o = shpOff j ∨ o = shpOff j + 4) (hz : getShp z g j = ⟨shpCred s g j, gTime z⟩) :
    let u := shpWritten z g o old
    let full : Int := ((shpCbs z g j * credUnit : Nat) : Int)
    shpCred u g j = (if o = shpOff j ∧ shpEn z g j = true ∧ fld old 31 31 = 0 then full else min (shpCred s g j) full)
      ∧ shpCbs u g j = shpCbs z g j ∧ shpEn u g j = shpEn z g j ∧ shpCir u g j = shpCir z g j ∧ RegsBut z u [] := by
  have hk : (o - 0x100) / 0x10 = j := by simp only [shpOff] at ho; omega
  have h16 : o % 0x10 = 0 ↔ o = shpOff j := by simp only [shpOff] at ho ⊢; omega
  intro u full
  have hu : u = if o = shpOff j ∧ shpEn z g j = true ∧ fld old 31 31 = 0 then shpSet z g j full else shpSet z g j (shpCred z g j) := by
    simp only [u, shpWritten, hk, h16, full]
  rw [hu]
  split
  · obtain ⟨hc, h1, h2, h3, h4⟩ := shpSet_shown (s := z) hg j full
    exact ⟨hc.trans (min_self _), h1, h2, h3, h4⟩
  · obtain ⟨hc, h1, h2, h3, h4⟩ := shpSet_shown (s := z) hg j (shpCred z g j)
    refine ⟨hc.trans ?_, h1, h2, h3, h4⟩
    rw [shpCred_of hz, min_assoc, min_self]

theorem fld_shpEnableWord (cir : Nat) :
    let v := BitVec.ofNat 32 (cir % 2 ^ 20 + 2 ^ 31)
    fld v 19 0 = cir % 2 ^ 20 ∧ fld v 31 31 = 1 := by
  have hv : (BitVec.ofNat 32 (cir % 2 ^ 20 + 2 ^ 31)).toNat = cir % 2 ^ 20 + 2 ^ 31 := by
    rw [BitVec.toNat_ofNat]; exact Nat.mod_eq_of_lt (by omega)
  simp only [fld, bitsOf, hv]
  omega

/-! ## A packet starts at the egress of a link (R523, R528 to R531, R562) -/

/-- Choosing a packet changes only what gates, shapers and the choice itself keep. -/
structure EgressKept (s u : State) (n : Nat) : Prop where
  link : ∃ g sh sc, getLink u n = { getLink s n with gcl := g, shp := sh, sched := sc }
  out : u.out = s.out
  mem : u.mem = s.mem
  regs : RegsBut s u [regKey (.llk n) 0xC04]

theorem EgressKept.trans {s u v : State} {n : Nat} (h : EgressKept s u n) (k : EgressKept u v n) : EgressKept s v n where
  link := by
    obtain ⟨_, _, _, h1⟩ := h.link
    obtain ⟨_, _, _, h2⟩ := k.link
    exact ⟨_, _, _, by rw [h2, h1]⟩
  out := k.out.trans h.out
  mem := k.mem.trans h.mem
  regs := h.regs.trans k.regs

theorem egressKept_of_onlyRegs {s u : State} {n : Nat} (h : OnlyRegs s u) (hr : RegsBut s u [regKey (.llk n) 0xC04]) :
    EgressKept s u n where
  link := ⟨_, _, _, by rw [h]; rfl⟩
  out := by rw [h]
  mem := h.mem
  regs := hr

theorem EgressKept.refl (s : State) (n : Nat) : EgressKept s s n := egressKept_of_onlyRegs (.refl s) (.refl _ _)

theorem egressKept_modLink {s : State} {n : Nat} {f : Link → Link}
    (h : ∃ g sh sc, f (getLink s n) = { getLink s n with gcl := g, shp := sh, sched := sc }) : EgressKept s (modLink s n f) n where
  link := by simpa using h
  out := rfl
  mem := rfl
  regs := fun _ _ _ => rfl

theorem egressKept_ite {s u v : State} {n : Nat} {c : Prop} [Decidable c] (h : EgressKept s u n) (k : EgressKept s v n) :
    EgressKept s (if c then u else v) n := by
  split
  · exact h
  · exact k

theorem egressKept_modGcl (s : State) (n : Nat) (f : Gcl → Gcl) : EgressKept s (modGcl s (.llk n) f) n := by
  unfold modGcl
  exact egressKept_modLink ⟨_, _, _, rfl⟩

theorem egressKept_shpSet (s : State) (n k : Nat) (c : Int) : EgressKept s (shpSet s (.llk n) k c) n := by
  unfold shpSet setShp
  exact egressKept_modLink ⟨_, _, _, rfl⟩

theorem egressKept_modSched (s : State) (n : Nat) (f : Sched → Sched) : EgressKept s (modSched s (.llk n) f) n := by
  unfold modSched
  exact egressKept_modLink ⟨_, _, _, rfl⟩

theorem egressKept_gateStart (s : State) (n k tx : Nat) : EgressKept s (gateStart s (.llk n) k tx) n := by
  unfold gateStart
  exact (egressKept_ite (egressKept_of_onlyRegs (onlyRegs_putBit _ _ _ _ _) (regsBut_putBit s (.llk n) 0xC04 4 true _ (by simp)))
    (.refl s n)).trans (egressKept_modGcl _ n _)

theorem egressKept_egStart (s : State) (n k len : Nat) : EgressKept s (egStart s (.llk n) k len) n := by
  unfold egStart
  extract_lets s1 s2 f
  have h1 : EgressKept s s1 n := egressKept_gateStart s n k _
  have h2 : EgressKept s s2 n := egressKept_ite (h1.trans (egressKept_shpSet _ n _ _)) h1
  exact egressKept_ite h2 (h2.trans (egressKept_modSched _ n _))

theorem egressKept_llkFix (s : State) (n : Nat) : EgressKept s (llkFix s n) n :=
  egressKept_ite (egressKept_modSched s n _) (egressKept_modSched s n _)

/-- The link VC of a packet depends on the shape of the pod alone (R582). -/
theorem podVc_congr {s u : State} (h : ∀ o, o < 0x1000 → rawReg u (.osw 0) o = rawReg s (.osw 0) o) (n : Nat) (x : Transit) :
    podVc u n x = podVc s n x := by
  have hsz : ∀ d, podSize u d = podSize s d := fun d => by
    unfold podSize; split <;> exact rfld_of_raw _ _ (h _ (by decide))
  have hpkg : ownPkg u = ownPkg s := rfld_of_raw _ _ (h _ (by decide))
  simp only [podVc, hsz, hpkg]

/-- A link with one class that waits has its packet as the only head. -/
theorem egHeads_single {s : State} {n j : Nat} {x : Transit} {rest : List Transit} (hj : j < 8)
    (h : ∀ c, c < 8 → tabGet [] (getLink s n).eg c = if c = j then x :: rest else []) : egHeads s n = [(j, x)] := by
  have hcong : ∀ k ∈ List.range 8, ((tabGet [] (getLink s n).eg k).head?.map (fun y => (k, y)))
      = if k = j then some (j, x) else none := fun k hk => by
    rw [h k (List.mem_range.1 hk)]
    split
    · next e => rw [e]; rfl
    · rfl
  rw [egHeads, List.filterMap_congr hcong]
  clear h hcong
  interval_cases j <;> rfl

theorem egPick_single {s : State} {g : GPlace} {j len : Nat} (h : eligible s g j len = true) : egPick s g [(j, len)] = some (j, len) := by
  unfold egPick
  simp only [List.filter_cons, h, if_true, List.filter_nil]
  cases hsp : schSp s g j <;> simp [schLeast]

theorem takeOwed_link (l : Link) : (takeOwed l).2.2 = { l with owed := (takeOwed l).2.2.owed } := by
  unfold takeOwed
  split <;> rfl

theorem progress_shown (s : State) (n : Nat) (c : Prop) [Decidable c] :
    let u := if c then progress s n else s
    (getLink u n).txs = (getLink s n).txs ∧ (getLink u n).eg = (getLink s n).eg ∧ (getLink u n).unacked = (getLink s n).unacked
      ∧ (getLink u n).txSeq = (getLink s n).txSeq ∧ u.mem = s.mem ∧ u.out = s.out := by
  intro u
  simp only [u]
  split
  · have hl : getLink (progress s n) n = { getLink s n with progressAt := eTime s, ackTo := rfld s (.llk n) 0x08C 15 0 } :=
      getLink_modLink_same s n _
    rw [hl]
    exact ⟨rfl, rfl, rfl, rfl, rfl, rfl⟩
  · exact ⟨rfl, rfl, rfl, rfl, rfl, rfl⟩

/-- A packet is framed with the next sequence number and its VC, and kept for replay. -/
theorem frameSend_shown (s : State) (n k : Nat) (x : Transit) : ∃ f,
    let u := frameSend s n k x
    u.out = s.out ++ [.data n f x.pkt] ∧ f.seq = BitVec.ofNat 12 (getLink s n).txSeq ∧ f.vc = BitVec.ofNat 2 (podVc s n x)
      ∧ f.poi = poisoned x.pkt ∧ (getLink u n).txs = (getLink s n).txs ++ frameWire f (some x.pkt)
      ∧ tabGet [] (getLink u n).eg k = (tabGet [] (getLink s n).eg k).tail
      ∧ (getLink u n).unacked.length = (getLink s n).unacked.length + 1
      ∧ (getLink u n).txSeq = ((getLink s n).txSeq + 1) % 4096 ∧ u.mem = s.mem := by
  have hl := takeOwed_link (getLink s n)
  obtain ⟨cv, cc, l, ht⟩ : ∃ cv cc l, takeOwed (getLink s n) = (cv, cc, l) := ⟨_, _, _, rfl⟩
  rw [ht] at hl
  have hl : l = { getLink s n with owed := l.owed } := hl
  have htxs : l.txs = (getLink s n).txs := by rw [hl]
  have heg : l.eg = (getLink s n).eg := by rw [hl]
  have hun : l.unacked = (getLink s n).unacked := by rw [hl]
  have hseq : l.txSeq = (getLink s n).txSeq := by rw [hl]
  refine ⟨dataOf l ⟨l.txSeq, podVc s n x, x.pkt, cv, cc⟩, ?_⟩
  simp only [frameSend, ht]
  obtain ⟨ptxs, peg, pun, pseq, pmem, pout⟩ := progress_shown (modLink s n (fun _ => { l with
    eg := tabPut l.eg k (tabGet [] l.eg k).tail,
    credits := listMod l.credits (podVc s n x) (· - (x.pkt.data.length + 1)),
    unacked := l.unacked ++ [⟨l.txSeq, podVc s n x, x.pkt, cv, cc⟩],
    txSeq := (l.txSeq + 1) % 4096, toAck := 0 })) n (l.unacked = [])
  simp only [getLink_modLink_same] at ptxs peg pun pseq
  generalize (if l.unacked = [] then progress _ n else _) = s2 at ptxs peg pun pseq pmem pout
  have hlink : getLink (emit (streamPush s2 n (frameWire (dataOf l ⟨l.txSeq, podVc s n x, x.pkt, cv, cc⟩) (some x.pkt)))
      (.data n (dataOf l ⟨l.txSeq, podVc s n x, x.pkt, cv, cc⟩) x.pkt)) n
      = { getLink s2 n with txs := (getLink s2 n).txs ++ frameWire (dataOf l ⟨l.txSeq, podVc s n x, x.pkt, cv, cc⟩) (some x.pkt) } := by
    show getLink (streamPush s2 n _) n = _
    unfold streamPush
    exact getLink_modLink_same s2 n _
  refine ⟨congrArg (· ++ _) pout, congrArg (BitVec.ofNat 12) hseq, rfl, rfl, ?_, ?_, ?_, ?_, pmem⟩
  all_goals rw [hlink]
  · rw [ptxs, htxs]
  · rw [peg, tabGet_tabPut_same, heg]
  · rw [pun, List.length_append, hun]; rfl
  · rw [pseq, hseq]

/-- Settles O42. -/
theorem shapersAndEgressAct : Obligations.ShapersAndEgressAct := by
  intro s src g k cir v hg j o p
  have hj : j < 8 := Nat.mod_lt _ (by decide)
  obtain ⟨fcir, fen, fcbs⟩ := hasFld_shaper hg hj
  have hcir : shpOff j ≠ shpOff j + 4 := by omega
  refine ⟨fun hw => ?_, fun hw => ?_, fun hw => ?_, ?_⟩
  · obtain ⟨w, z, hst, hput, hget, hraw, hbut⟩ := regPut_shaper hg hj (.inl rfl) hw src
    refine ⟨_, show execShpEnable src g k cir s = _ from if_pos hg, ?_⟩
    rw [hput]
    obtain ⟨hcred, hcbs, hen, hc, hb⟩ := shpWritten_shown (old := rawReg s p o) hg hj (.inl rfl) hget
    obtain ⟨hv19, hv31⟩ := fld_shpEnableWord cir
    have hzen : shpEn z g j = true := by
      rw [shpEn, gReg, rfld, hraw, hst _ fen]; exact congrArg (· == 1) hv31
    have hzcir : shpCir z g j = cir % 2 ^ 20 := by
      rw [shpCir, gReg, rfld, hraw, hst _ fcir]; exact hv19
    have hzcbs : shpCbs z g j = shpCbs s g j := rfld_of_raw _ _ (hbut _ _ (by simp [regKey]))
    refine ⟨hen.trans hzen, hc.trans hzcir, fun hoff => ?_, hbut.trans (hb.weaken (by simp))⟩
    have h31 : fld (rawReg s p o) 31 31 = 0 := by
      have h1 : fld (rawReg s p o) 31 31 < 2 := fld_lt _ _ _
      have h2 : (fld (rawReg s p o) 31 31 == 1) = false := hoff
      have h3 : fld (rawReg s p o) 31 31 ≠ 1 := by simpa using h2
      omega
    rw [hcred, if_pos ⟨rfl, hzen, h31⟩, hzcbs]
  · obtain ⟨w, z, hst, hput, hget, hraw, hbut⟩ := regPut_shaper hg hj (.inr rfl) hw src
    refine ⟨regPut s src p (o + 4) v, show execShaperRateWrite src g k true v s = _ from if_neg (by simp [hg]), ?_⟩
    have hput : regPut s src p (o + 4) v = _ := hput
    rw [hput]
    obtain ⟨hcred, hcbs, hen, hc, hb⟩ := shpWritten_shown (old := rawReg s (gPage g) (gBase g + (shpOff j + 4))) hg hj (.inr rfl) hget
    have hzcbs : shpCbs z g j = fld v 23 0 := by
      rw [shpCbs, gReg, rfld, hraw, hst _ fcbs]; rfl
    refine ⟨hcbs.trans hzcbs, ?_, hbut.trans (hb.weaken (by simp))⟩
    rw [hcred, if_neg (by omega), hcbs]
  · obtain ⟨w, z, hst, hput, hget, hraw, hbut⟩ := regPut_shaper hg hj (.inl rfl) hw src
    refine ⟨regPut s src p o (setFld (rawReg s p o) 19 0 v.toNat), show execShaperRateWrite src g k false v s = _ from
      if_neg (by simp [hg]), ?_⟩
    rw [hput]
    obtain ⟨hcred, hcbs, hen, hc, hb⟩ := shpWritten_shown (old := rawReg s p o) hg hj (.inl rfl) hget
    have hzcir : shpCir z g j = v.toNat % 2 ^ 20 := by
      rw [shpCir, gReg, rfld, hraw, hst _ fcir]
      exact fld_setFld_same _ _ _ _ (by decide) (by decide)
    have hzen : shpEn z g j = (fld (rawReg s p o) 31 31 == 1) := by
      rw [shpEn, gReg, rfld, hraw, hst _ fen]
      exact congrArg (· == 1) (fld_setFld_ne _ 19 0 _ 31 31 (by decide) (by decide) (by decide) (by decide))
    have hzcbs : shpCbs z g j = shpCbs s g j := rfld_of_raw _ _ (hbut _ _ (by simp [regKey]))
    refine ⟨hc.trans hzcir, ?_, hbut.trans (hb.weaken (by simp))⟩
    have hno : ¬(shpOff j = shpOff j ∧ shpEn z g j = true ∧ fld (rawReg s p o) 31 31 = 0) := by
      rintro ⟨-, h1, h2⟩; rw [hzen, h2] at h1; cases h1
    rw [hcred, if_neg hno, hzcbs]
    exact min_eq_left (shpCred_le s g j)
  · rintro n x rest rfl hdie h5 hstop hone hfr hr hel
    have hheads := egHeads_single hj hone
    have hdue : gDue s (.llk n) = s := by rw [gDue, hr]; rfl
    have hpick : egPick s (.llk n) (egLens s n ((egHeads s n).filter (fun h => framable s n h.2))) = some (j, llkLen s n x.pkt) := by
      rw [hheads]; simp only [List.filter_cons, hfr, if_true, List.filter_nil]; exact egPick_single hel
    have hrun : llkStart s n = llkFix (frameSend (egStart s (.llk n) j (llkLen s n x.pkt)) n j x) n := by
      rw [llkStart, if_neg (by simp [h5, hstop])]
      simp only [hdue, hpick]
      simp only [hheads, List.find?_cons, beq_self_eq_true]
    have hkept := egressKept_egStart s n j (llkLen s n x.pkt)
    generalize egStart s (.llk n) j (llkLen s n x.pkt) = z at hrun hkept
    obtain ⟨_, _, _, hz⟩ := hkept.link
    obtain ⟨f, hout, hseq, hvc, hpoi, htxs, heg, hun, hnext, hmem⟩ := frameSend_shown z n j x
    have hfix := egressKept_llkFix (frameSend z n j x) n
    obtain ⟨_, _, _, hu⟩ := hfix.link
    have hosw : ∀ o, o < 0x1000 → rawReg z (.osw 0) o = rawReg s (.osw 0) o := fun o ho => hkept.regs _ _ (by
      simp only [List.mem_singleton, regKey, pageBase]; omega)
    refine ⟨_, f, show execEgressStart (.llk n) s = _ from rfl, ?_⟩
    simp only [hdie, if_true, hrun]
    refine ⟨?_, ?_, ?_, hpoi, ?_, ?_, ?_, ?_, ?_⟩
    · rw [hfix.out, hout, hkept.out]
    · rw [hseq, hz]
    · rw [hvc, podVc_congr hosw]
    · rw [hu, htxs, hz]
    · rw [hu, heg, hz]; simp only; rw [hone j hj, if_pos rfl]; rfl
    · rw [hu, hun, hz]
    · rw [hu, hnext, hz]
    · rw [hfix.mem, hmem, hkept.mem]

end Sys2Proof.Machine
end

section
/-! PROOFS. Training of a link (Table 13.2). -/

namespace Sys2Proof.Machine

/-- The registers that a change of a link's state writes. -/
def llkKeys (n : Nat) : List Nat := [regKey (.llk n) 0x084, regKey (.llk n) 0x080]

theorem evKey_llk {n o : Nat} (h60 : 0x060 ≤ o) (h : o < 0xE00) : EvKey (regKey (.llk n) o) = false :=
  evKey_eq_false (by simp only [pageBase]; omega) h (by simp; omega)

/-- The lanes that LLK_STAT shows of a link that is ACTIVE or narrows. -/
theorem llkLanes_llkSet (s : State) (n lanes : Nat) {st : Nat} (h : st = 5 ∨ st = 6) :
    llkLanes (llkSet s n st lanes) n = lanes % 256 := by
  unfold llkSet
  extract_lets old w s1 s2 s3 s4 s5
  have h1 : rfld s1 (.llk n) 0x084 15 8 = lanes % 256 := by
    simp only [s1, if_pos h]
    exact rfld_putFld_same _ _ _ _ _ _ (by decide) (by decide)
  have h2 : rfld s2 (.llk n) 0x084 15 8 = lanes % 256 := by
    unfold s2
    split
    · rw [putBit, rfld_putFld_off _ _ _ _ _ _ _ _ _ (by decide), h1]
    · exact h1
  have e3 : Events s2 s3 [] := events_ite (events_isrBit _ _ _ _ _) (.refl _ _)
  have e4 : Events s3 s4 [] := events_ite (events_isrBit _ _ _ _ _) (.refl _ _)
  have e5 : Events s4 s5 [] := events_ite (events_isrBit _ _ _ _ _) (.refl _ _)
  have hev : Events s2 (sillage s5 (.llk n) 0x60 false 0 0 (BitVec.ofNat 32 st)) [] :=
    ((e3.trans e4).trans e5).trans (events_sillage _ _ _ _ _ _ _ _)
  rw [llkLanes, rfld, hev.rawReg_eq List.not_mem_nil (evKey_llk (by decide) (by decide))]
  exact h2

theorem det_of_events {s u : State} {ks : List Nat} (h : Events s u ks) (n : Nat) : (getLink u n).det = (getLink s n).det := by
  rw [h.2.1 n]

/-- What training keeps of a link may change with its state. -/
theorem llkSet_det (s : State) (n st lanes m : Nat) :
    let u := llkSet (modLink s n (fun l => { l with det := m })) n st lanes
    (getLink u n).det = m ∧ RegsEvents s u (llkKeys n) ∧ u.mem = s.mem := by
  have hev := events_llkSet (modLink s n (fun l => { l with det := m })) n st lanes
  exact ⟨by rw [det_of_events hev, getLink_modLink_same], fun p o hk he => hev.rawReg_eq hk he, hev.mem⟩

/-- Ports of a link's timekeeper follow it; its registers stay. -/
theorem accStart_shown (s : State) {n : Nat} (h : n < 24) :
    (accStart s n).mem = s.mem ∧ llkState (accStart s n) n = llkState s n ∧ llkLanes (accStart s n) n = llkLanes s n := by
  unfold accStart
  split
  · obtain ⟨hev, -, -⟩ := accSet_shown s n (show 1 < 8 by decide)
    have hreg : rawReg (accSet s n 1) (.llk n) 0x084 = rawReg s (.llk n) 0x084 :=
      hev.rawReg_eq (by
        have := accOff_range n
        simp only [accKeys, tkpKeys, List.mem_cons, List.not_mem_nil, or_false, regKey, pageBase, accPage]
        omega) (evKey_llk (by decide) (by decide))
    exact ⟨hev.mem, rfld_of_raw _ _ hreg, rfld_of_raw _ _ hreg⟩
  · exact ⟨rfl, rfl, rfl⟩

/-- Nothing but links and what leaves the package has changed. -/
def OnlyLinks (s u : State) : Prop := u = { s with links := u.links, out := u.out }

theorem OnlyLinks.trans {s u v : State} (h : OnlyLinks s u) (k : OnlyLinks u v) : OnlyLinks s v := by
  unfold OnlyLinks at *; rw [k, h]
theorem OnlyLinks.mem {s u : State} (h : OnlyLinks s u) : u.mem = s.mem := by rw [h]
theorem OnlyLinks.rawReg {s u : State} (h : OnlyLinks s u) (p : Page) (o : Nat) : rawReg u p o = Machine.rawReg s p o := by
  rw [h]; rfl

theorem onlyLinks_foldl {α : Type} {f : State → α → State} (hf : ∀ z x, OnlyLinks z (f z x)) (l : List α) {s z : State}
    (h : OnlyLinks s z) : OnlyLinks s (l.foldl f z) := by
  induction l generalizing z with
  | nil => exact h
  | cons x l ih => exact ih (h.trans (hf z x))

/-- A resend changes links and what leaves the package alone (R562). -/
theorem onlyLinks_resendAll (s : State) (n : Nat) : OnlyLinks s (resendAll s n) := by
  unfold resendAll
  split
  · rfl
  · extract_lets l one
    exact onlyLinks_foldl (f := one) (fun _ _ => rfl) _ rfl

/-- Settles O43. -/
theorem trainingAdvances : Obligations.TrainingAdvances := by
  intro s n hn keys
  refine ⟨fun lanes h1 hw => ?_, fun h2 => ?_, fun skewed h3 => ?_, fun pkg plane link h4 hpl hlk => ?_, fun ha hb hto hdue => ?_,
    fun h6 hun => ?_⟩
  · refine ⟨_, show execTrainDetect n lanes s = _ from rfl, ?_⟩
    rw [trainDetect, if_pos ⟨h1, hw⟩]
    exact ⟨(llkSet_shown 0 (by decide)).1, llkSet_det s n 2 0 _⟩
  · refine ⟨_, show execTrainEqual n s = _ from rfl, ?_⟩
    rw [trainEqual, if_pos h2]
    exact ⟨(llkSet_shown 0 (by decide)).1, events_llkSet s n 3 0⟩
  · intro m
    have hrun : trainDeskew s n skewed.toNat
        = if popCount8 m < minWidth s n then llkSet (modLink s n (fun l => { l with det := m })) n 8 0
          else emit (emit (llkSet (modLink s n (fun l => { l with det := m })) n 4 0) (.ident n (ownPkg (modLink s n (fun l => { l with det := m }))) (n / 12) (n % 12)))
            (.lanes n m) := by
      rw [trainDeskew, if_neg (not_not.2 h3)]; rfl
    refine ⟨_, show execTrainDeskew n skewed s = _ from rfl, ?_⟩
    rw [hrun]
    split
    · next hlow =>
      obtain ⟨hd, hr, hm⟩ := llkSet_det s n 8 0 m
      exact ⟨(llkSet_shown 0 (by decide)).1, hd, hr, hm, fun h => absurd hlow (by omega)⟩
    · next hlow =>
      obtain ⟨hd, hr, hm⟩ := llkSet_det s n 4 0 m
      have hst : llkState (llkSet (modLink s n (fun l => { l with det := m })) n 4 0) n = 4 := (llkSet_shown 0 (by decide)).1
      generalize llkSet (modLink s n (fun l => { l with det := m })) n 4 0 = z at hd hr hm hst
      refine ⟨hst, hd, hr, hm, fun _ => ?_⟩
      exact ⟨List.mem_append_left _ (List.mem_append_right _ (List.mem_singleton_self _)),
        List.mem_append_right _ (List.mem_singleton_self _)⟩
  · intro right
    refine ⟨_, show execTrainIdent n pkg plane link s = _ from rfl, ?_⟩
    rw [trainIdent, if_neg (not_not.2 h4)]
    extract_lets l s1 s2
    have hm1 : s1.mem = s.mem := rfl
    have hright : (plane = n / 12 ∧ link = l ^^^ 2 ∧ pkg = torusNext s l) = right := rfl
    simp only [hright]
    split
    · next hr =>
      obtain ⟨hm, hs, hl⟩ := accStart_shown s2 hn
      have hst : llkState s2 n = 5 := (llkSet_shown _ (by decide)).1
      have hla : llkLanes s2 n = (getLink s n).det % 256 := llkLanes_llkSet _ _ _ (.inl rfl)
      exact ⟨fun _ => ⟨hs.trans hst, hl.trans hla⟩, fun h => absurd hr h, hm.trans ((events_llkSet s1 n 5 _).mem.trans hm1)⟩
    · next hr =>
      refine ⟨fun h => absurd h hr, fun _ => (llkSet_shown 0 (by decide)).1, ?_⟩
      exact ((events_llkSet _ n 8 0).mem.trans (events_captureOpen _ _ _ _ _ _ _ _ _ []).mem).trans hm1
  · have hpos : 0 < (getLink s n).trainAt + usTicks (1000 * (getLink s n).trainTo) := by simp only [usTicks]; omega
    refine ⟨_, show execTrainTimeout n s = _ from rfl, ?_⟩
    have hrun : trainTimeout s n = llkSet (captureOpen false s (.llk n) 0x14 0 0 0 none 0) n 8 0 := by
      rw [trainTimeout]
      simp only [ha, hb, hto, ne_eq, not_false_eq_true, and_self, if_true, atLeast_of_due hpos hdue]
    rw [hrun]
    exact ⟨(llkSet_shown 0 (by decide)).1, (events_captureOpen _ _ _ _ _ _ _ _ _ _).trans (events_llkSet _ n 8 0)⟩
  · refine ⟨_, show execNarrowDeskew n s = _ from if_pos h6, ?_⟩
    obtain ⟨hm, hs, hl⟩ := accStart_shown (llkSet s n 5 (llkLanes s n)) hn
    generalize accStart (llkSet s n 5 (llkLanes s n)) n = z at hm hs hl
    have hst : llkState (llkSet s n 5 (llkLanes s n)) n = 5 := (llkSet_shown _ (by decide)).1
    have hla : llkLanes (llkSet s n 5 (llkLanes s n)) n = llkLanes s n :=
      (llkLanes_llkSet _ _ _ (.inl rfl)).trans (Nat.mod_eq_of_lt (fld_lt _ 15 8))
    have hreg : ∀ o, rawReg (resendAll z n) (.llk n) o = rawReg z (.llk n) o := fun o => (onlyLinks_resendAll z n).rawReg _ o
    have hmem : (resendAll z n).mem = z.mem := (onlyLinks_resendAll z n).mem
    exact ⟨((rfld_of_raw _ _ (hreg _)).trans hs).trans hst, ((rfld_of_raw _ _ (hreg _)).trans hl).trans hla,
      (hmem.trans hm).trans (events_llkSet s n 5 _).mem⟩

end Sys2Proof.Machine
end

section
/-! PROOFS. Boot, the rails and PERST_N (chapter 19). -/

namespace Sys2Proof.Machine

/-! ## The page of the manager -/

theorem evKey_mgt {o : Nat} (h60 : 0x060 ≤ o) (h : o < 0xE00) : EvKey (regKey .mgt o) = false :=
  evKey_eq_false (by decide) h (by simp; omega)

/-- Training of the pseudo-channels writes their own pages alone. -/
theorem trainHbm_shown (s : State) :
    OnlyRegs s (trainHbm s []) ∧ ∀ o, o < 0x1000 → rawReg (trainHbm s []) .mgt o = rawReg s .mgt o := by
  have hfold : ∀ l : List Nat, (∀ k ∈ l, k < 256) → ∀ z, OnlyRegs s z → (∀ o, o < 0x1000 → rawReg z .mgt o = rawReg s .mgt o) →
      let u := l.foldl (fun s k =>
        let p := Page.mem (k % 128) (k / 128)
        if pagePresent s p = false then s
        else if ([] : List Nat).contains k then retire s 2 k 0
        else putBit s p 0x084 0 true) z
      OnlyRegs s u ∧ ∀ o, o < 0x1000 → rawReg u .mgt o = rawReg s .mgt o := by
    intro l hl
    induction l with
    | nil => exact fun z h1 h2 => ⟨h1, h2⟩
    | cons k l ih =>
      intro z h1 h2
      have hk := hl k (by simp)
      refine ih (fun j hj => hl j (by simp [hj])) _ ?_ ?_
      · dsimp only
        split
        · exact h1
        · exact h1.trans (onlyRegs_putBit _ _ _ _ _)
      · intro o ho
        dsimp only
        split
        · exact h2 o ho
        · rw [← h2 o ho]
          refine rawReg_putReg_ne _ _ _ _ _ _ ?_
          simp only [regKey, pageBase]; omega
  exact hfold _ (fun k hk => List.mem_range.1 hk) s (.refl s) (fun _ _ => rfl)

theorem rawReg_measure (s : State) (p : Page) (o : Nat) : rawReg (measure s) p o = rawReg s p o := rfl
theorem mem_measure (s : State) : (measure s).mem = s.mem := rfl

theorem ntStart_eq (s : State) : ∃ k w, ntStart s = putReg { s with tkp := k } (.tkp 0) 0x084 w := by
  obtain ⟨sec, frac, h⟩ : ∃ sec frac, rtcNow s = (sec, frac) := ⟨_, _, (Prod.eta _).symm⟩
  unfold ntStart
  rw [h]
  dsimp only
  generalize ((frac * 31250000 : Nat) - (s.time : Int)) = off
  exact ⟨_, _, rfl⟩

/-- Network time starts: beside the timekeeper's own record only its status changes. -/
theorem ntStart_shown (s : State) :
    (ntStart s).mem = s.mem ∧ ∀ o, o < 0x1000 → rawReg (ntStart s) .mgt o = rawReg s .mgt o := by
  obtain ⟨k, w, h⟩ := ntStart_eq s
  rw [h]
  refine ⟨rfl, fun o ho => (rawReg_putReg_ne _ _ _ _ _ _ ?_).trans rfl⟩
  simp only [regKey, pageBase]; omega

/-- Boot is DONE: its stage, the end of the reset that ran, and when the fabric came up. -/
def bootDone (x : State) (last : Nat) : State :=
  modMgt (putFld (putFld x .mgt 0x090 3 0 7) .mgt 0x08C 3 1 last) (fun m => { m with
    running := none, fabUp := eTime (putFld (putFld x .mgt 0x090 3 0 7) .mgt 0x08C 3 1 last) })

theorem bootDone_shown (x : State) (last : Nat) :
    let u := bootDone x last
    bootStage u = 7 ∧ u.mgt.running = none ∧ rfld u .mgt 0x090 23 16 = rfld x .mgt 0x090 23 16
      ∧ rbit u .mgt 0x090 4 = rbit x .mgt 0x090 4 ∧ rawReg u .mgt 0x084 = rawReg x .mgt 0x084 ∧ u.mem = x.mem := by
  intro u
  have h90 : rawReg u .mgt 0x090 = setFld (rawReg x .mgt 0x090) 3 0 7 :=
    (rawReg_putReg_off (putFld x .mgt 0x090 3 0 7) _ _ _ _ (by decide)).trans (rawReg_putReg_same _ _ _ _)
  refine ⟨?_, rfl, ?_, ?_, ?_, rfl⟩
  · rw [bootStage, rfld, h90]; exact fld_setFld_same _ _ _ _ (by decide) (by decide)
  · rw [rfld, h90]; exact fld_setFld_ne _ _ _ _ _ _ (by decide) (by decide) (by decide) (by decide)
  · rw [rbit, rfld, h90, fld_setFld_ne _ _ _ _ _ _ (by decide) (by decide) (by decide) (by decide)]; rfl
  · exact (rawReg_putReg_off (putFld x .mgt 0x090 3 0 7) _ _ _ _ (by decide)).trans (rawReg_putReg_off x _ _ _ _ (by decide))

theorem bootRest_eq {s : State} (h : rbit (bist s []) .mgt 0x084 2 = false) :
    bootRest s [] [] = bootDone (ntStart (measure (trainHbm (tileMemClear (bist s [])) [])))
      (if s.mgt.running = some .warm then 2 else 1) := by
  unfold bootRest bootDone
  exact if_neg (by rw [h]; decide)

/-- Boot from BIST on with good routers and channels ends DONE. -/
theorem bootRest_shown (s : State) :
    let u := bootRest s [] []
    bootStage u = 7 ∧ u.mgt.running = none ∧ rfld u .mgt 0x090 23 16 = rfld s .mgt 0x090 23 16
      ∧ rbit u .mgt 0x090 4 = rbit s .mgt 0x090 4 ∧ rawReg u .mgt 0x084 = 0x3F3F00
      ∧ u.mem = zeroRange s.mem (2 ^ 48) (2 ^ 48 + 2 ^ 34) := by
  have hdegr : rawReg (bist s []) .mgt 0x084 = 0x3F3F00 := (rawReg_putReg_same _ _ _ _).trans (by decide)
  have h90 : rawReg (bist s []) .mgt 0x090 = rawReg s .mgt 0x090 := rawReg_putReg_off _ _ _ _ _ (by decide)
  have hmem : (tileMemClear (bist s [])).mem = zeroRange s.mem (2 ^ 48) (2 ^ 48 + 2 ^ 34) := rfl
  have hok : rbit (bist s []) .mgt 0x084 2 = false := by rw [rbit, rfld, hdegr]; decide
  have hreg : ∀ o, rawReg (tileMemClear (bist s [])) .mgt o = rawReg (bist s []) .mgt o := fun _ => rfl
  intro u
  have hu : u = _ := bootRest_eq hok
  generalize tileMemClear (bist s []) = z at hu hmem hreg
  obtain ⟨ht, htr⟩ := trainHbm_shown z
  generalize trainHbm z [] = y at hu ht htr
  obtain ⟨hn, hnr⟩ := ntStart_shown (measure y)
  generalize ntStart (measure y) = x at hu hn hnr
  have hx : ∀ o, o < 0x1000 → rawReg x .mgt o = rawReg (bist s []) .mgt o := fun o ho =>
    (((hnr o ho).trans (rawReg_measure y _ o)).trans (htr o ho)).trans (hreg o)
  obtain ⟨h7, hrun, hsvn, hslot, h84, hm⟩ := bootDone_shown x (if s.mgt.running = some .warm then 2 else 1)
  have hx90 : rawReg x .mgt 0x090 = rawReg s .mgt 0x090 := (hx _ (by decide)).trans h90
  rw [hu]
  exact ⟨h7, hrun, hsvn.trans (rfld_of_raw _ _ hx90), hslot.trans (congrArg (· == 1) (rfld_of_raw 4 4 hx90)),
    (h84.trans (hx _ (by decide))).trans hdegr, hm.trans (((hn.trans (mem_measure y)).trans ht.mem).trans hmem)⟩

/-- Boot ends FAILED with a cause. -/
theorem bootFail_shown (s : State) {code : Nat} (h : code < 256) :
    let u := bootFail s code
    bootStage u = 8 ∧ rfld u .mgt 0x090 15 8 = code ∧ u.mgt = { s.mgt with running := none } ∧ u.mem = s.mem ∧ u.tiles = s.tiles
      ∧ RegsEvents s u [regKey .mgt 0x090] := by
  intro u
  obtain ⟨z, hz, hu⟩ : ∃ z, z = modMgt (putFld (putFld s .mgt 0x090 3 0 8) .mgt 0x090 15 8 code) (fun m => { m with running := none })
      ∧ Events z u [] :=
    ⟨_, rfl, (events_captureOpen _ _ _ _ _ _ _ _ _ _).trans (events_errStop _ .mgt (some 3) _)⟩
  have h90 : rawReg u .mgt 0x090 = rawReg z .mgt 0x090 := hu.rawReg_eq List.not_mem_nil (evKey_mgt (by decide) (by decide))
  have hmgt : u.mgt = z.mgt := by rw [hu.1]
  have htile : u.tiles = z.tiles := by rw [hu.1]
  refine ⟨?_, ?_, by rw [hmgt, hz]; rfl, by rw [hu.mem, hz]; rfl, by rw [htile, hz]; rfl, fun p o hk he => ?_⟩
  · rw [bootStage, rfld_of_raw _ _ h90, hz]
    exact (rfld_putFld_ne _ _ _ _ _ _ _ _ (by decide) (by decide) (by decide) (by decide)).trans
      (rfld_putFld_same _ _ _ _ _ _ (by decide) (by decide))
  · rw [rfld_of_raw _ _ h90, hz]
    exact (rfld_putFld_same _ _ _ _ _ _ (by decide) (by decide)).trans (Nat.mod_eq_of_lt h)
  · rw [hu.rawReg_eq List.not_mem_nil he, hz]
    exact ((regsBut_putFld s .mgt 0x090 3 0 8 _ (by simp)).trans (regsBut_putFld _ .mgt 0x090 15 8 code _ (by simp))) p o hk

theorem svn_lt {s : State} {i : Image} (h : imageOk s i = true) : i.svn.toNat < 256 := by
  simp only [imageOk, Bool.and_eq_true, beq_iff_eq, decide_eq_true_eq] at h
  obtain ⟨⟨⟨⟨⟨-, hz⟩, -⟩, -⟩, -⟩, -⟩ := h
  have := i.svn.isLt
  simp only [fld, bitsOf] at hz; omega

/-- Settles O47. -/
theorem bootEnds : Obligations.BootEnds := by
  intro s a b htrip hvst
  refine ⟨fun h0 hok => ?_, fun h0 hbad => ?_, fun h2 => ?_, fun hp => ?_⟩
  · intro img
    refine ⟨_, show execBoot a b true [] [] s = _ from rfl, ?_⟩
    have hsvn : img.svn.toNat < 256 := by
      simp only [img]
      split
      · next h => exact svn_lt h
      · next h => simp only [h, Bool.false_or] at hok; exact svn_lt hok
    obtain ⟨s2, hs2, hrun⟩ : ∃ s2, s2 = putFld (putBit (if imageOk s a then s else putBit s .mgt 0x090 5 true) .mgt 0x090 4 (!imageOk s a))
        .mgt 0x090 23 16 img.svn.toNat ∧ boot s a b true [] [] = bootRest s2 [] [] := by
      refine ⟨_, rfl, ?_⟩
      have hno : ¬(imageOk s a = false ∧ imageOk s b = false) := by
        rintro ⟨h1, h2⟩; rw [h1, h2] at hok; cases hok
      rw [boot, if_neg (by simp [htrip, hvst]), if_neg (by omega), if_neg (by omega)]
      simp only [if_neg hno, if_true, img]
      split <;> rfl
    rw [hrun]
    obtain ⟨h7, hr, hv, hs, hd, hm⟩ := bootRest_shown s2
    refine ⟨h7, hr, ?_, ?_, hd, fun k hlo hhi => ?_⟩
    · rw [hv, hs2, rfld_putFld_same _ _ _ _ _ _ (by decide) (by decide)]; exact Nat.mod_eq_of_lt hsvn
    · rw [hs, hs2, rbit, rfld_putFld_ne _ _ _ _ _ _ _ _ (by decide) (by decide) (by decide) (by decide)]
      exact rbit_putBit_same _ _ _ _ _ (by decide)
    · rw [hm]; exact getByte_zeroRange_in _ _ _ _ hlo hhi
  · rw [Bool.or_eq_false_iff] at hbad
    refine ⟨_, show execBoot a b true [] [] s = _ from rfl, ?_⟩
    have hrun : boot s a b true [] [] = bootFail (putBit s .mgt 0x090 5 true) 1 := by
      rw [boot, if_neg (by simp [htrip, hvst]), if_neg (by omega), if_neg (by omega)]
      simp only [hbad, and_self, if_true, Bool.false_eq_true, if_false]
    rw [hrun]
    obtain ⟨h8, hc, -, hm, ht, -⟩ := bootFail_shown (putBit s .mgt 0x090 5 true) (code := 1) (by decide)
    exact ⟨h8, hc, hm, ht⟩
  · refine ⟨_, show execRailTimeout s = _ from rfl, ?_⟩
    rw [railTimeout, if_pos ⟨h2, htrip, hvst⟩]
    obtain ⟨h8, hc, hmgt, hm, ht, hr⟩ := bootFail_shown (modMgt s (fun m => { m with rails := false })) (code := 2) (by decide)
    exact ⟨h8, hc, by rw [hmgt]; rfl, hm, ht, hr⟩
  · refine ⟨_, show execPerstNDeassert s = _ from rfl, ?_⟩
    rw [perstUp, if_neg (by rw [hp]; decide)]
    exact ⟨rfl, fun p o hk => rawReg_putReg_ne _ _ _ _ _ _ (by simpa using hk), rfl⟩

end Sys2Proof.Machine
end

section
/-! PROOFS. Temperatures, throttling, VCORE, refresh and patrol scrub (sections 14.1 and 19.5). -/

namespace Sys2Proof.Machine

/-! ## Folds of which one step makes the fact -/

/-- What the k-th step of a fold over 0 to n - 1 makes of what held until it, and later steps leave. -/
theorem foldl_range_at {n k : Nat} (hk : k < n) {f : State → Nat → State} {Q P : State → Prop}
    (before : ∀ z j, j < n → j ≠ k → Q z → Q (f z j)) (here : ∀ z, Q z → P (f z k))
    (after : ∀ z j, j < n → j ≠ k → P z → P (f z j)) {s : State} (h : Q s) : P ((List.range n).foldl f s) := by
  have hpre : ∀ m, m ≤ k → Q ((List.range m).foldl f s) := by
    intro m hm
    induction m with
    | zero => exact h
    | succ m ih => rw [List.range_succ, List.foldl_append]; exact before _ m (by omega) (by omega) (ih (by omega))
  have hpost : ∀ m, P ((List.range (k + 1 + m)).foldl f s) ∨ n < k + 1 + m := by
    intro m
    induction m with
    | zero =>
      left; rw [Nat.add_zero, List.range_succ, List.foldl_append]; exact here _ (hpre k le_rfl)
    | succ m ih =>
      by_cases hn : n < k + 1 + (m + 1)
      · exact .inr hn
      · left
        rw [← Nat.add_assoc, List.range_succ, List.foldl_append]
        exact after _ (k + 1 + m) (by omega) (by omega) (ih.resolve_right (by omega))
  obtain ⟨m, rfl⟩ : ∃ m, n = k + 1 + m := ⟨n - (k + 1), by omega⟩
  exact (hpost m).resolve_right (by omega)

/-- What every step of a fold keeps. -/
theorem foldl_keeps {α : Type} {P : State → Prop} {f : State → α → State} (hf : ∀ z x, P z → P (f z x)) (l : List α) {s : State}
    (h : P s) : P (l.foldl f s) := by
  induction l generalizing s with
  | nil => exact h
  | cons x l ih => exact ih (hf s x h)

/-! ## Temperatures of the dies (R813) -/

theorem tempReport_shown {s : State} (cd : List Nat) (iow ioe : Nat) (hb : 3 ≤ bootStage s) (hr : s.mgt.rails = true) :
    let u := tempReport s cd iow ioe
    (∀ q c, q < 4 → cd[q]? = some c → rfld u .mgt 0x0A0 (8 * q + 7) (8 * q) = Nat.min 255 c)
      ∧ rfld u .mgt 0x0A4 7 0 = Nat.min 255 iow ∧ RegsBut s u [regKey .mgt 0x0A0, regKey .mgt 0x0A4] ∧ OnlyRegs s u := by
  let f (s : State) (q : Nat) : State := putFld s .mgt 0x0A0 (8 * q + 7) (8 * q) (min 255 ((cd[q]?).getD 0))
  let s1 := (List.range 4).foldl f s
  have hu : tempReport s cd iow ioe
      = putFld (putFld s1 .mgt 0x0A4 7 0 (min 255 iow)) .mgt 0x0A4 15 8 (if dieFitted s 1 then min 255 ioe else 0) := by
    rw [tempReport, if_neg (by simp [hr]; omega)]
  have h1 : RegsBut s s1 [regKey .mgt 0x0A0, regKey .mgt 0x0A4] ∧ OnlyRegs s s1 :=
    foldl_keeps (P := fun z => RegsBut s z [regKey .mgt 0x0A0, regKey .mgt 0x0A4] ∧ OnlyRegs s z)
      (fun z q hz => ⟨hz.1.trans (regsBut_putFld _ _ _ _ _ _ _ (by simp)), hz.2.trans (onlyRegs_putFld _ _ _ _ _ _)⟩) _
      ⟨.refl _ _, .refl s⟩
  have hq : ∀ q, q < 4 → rfld s1 .mgt 0x0A0 (8 * q + 7) (8 * q) = min 255 ((cd[q]?).getD 0) := fun q hq =>
    foldl_range_at (Q := fun _ => True) (P := fun z => rfld z .mgt 0x0A0 (8 * q + 7) (8 * q) = min 255 ((cd[q]?).getD 0)) hq
      (fun _ _ _ _ _ => trivial)
      (fun z _ => by
        rw [rfld_putFld_same _ _ _ _ _ _ (by omega) (by omega), show 8 * q + 7 + 1 - 8 * q = 8 by omega]
        exact Nat.mod_eq_of_lt (by omega))
      (fun z j hj hn hz => by rw [← hz]; exact rfld_putFld_ne _ _ _ _ _ _ _ _ (by omega) (by omega) (by omega) (by omega))
      trivial
  intro u
  simp only [u, hu]
  refine ⟨fun q c hlt hc => ?_, ?_, ?_, ?_⟩
  · rw [rfld_putFld_off _ _ _ _ _ _ _ _ _ (by decide), rfld_putFld_off _ _ _ _ _ _ _ _ _ (by decide), hq q hlt, hc]; rfl
  · rw [rfld_putFld_ne _ _ _ _ _ _ _ _ (by decide) (by decide) (by decide) (by decide),
      rfld_putFld_same _ _ _ _ _ _ (by decide) (by decide)]
    exact Nat.mod_eq_of_lt (by omega)
  · exact (h1.1.trans (regsBut_putFld _ _ _ _ _ _ _ (by simp))).trans (regsBut_putFld _ _ _ _ _ _ _ (by simp))
  · exact (h1.2.trans (onlyRegs_putFld _ _ _ _ _ _)).trans (onlyRegs_putFld _ _ _ _ _ _)

/-! ## The effective VCORE (R814, R815) -/

/-- Setting the VCORE of a die changes that of no other, and no register but the one that shows them. -/
structure VcoreFrame (s u : State) : Prop where
  len : s.mgt.vmv.length = 4 → u.mgt.vmv.length = 4
  regs : RegsEvents s u [regKey .mgt 0x0B0]
  mem : u.mem = s.mem
  tiles : u.tiles = s.tiles

theorem VcoreFrame.refl (s : State) : VcoreFrame s s := ⟨id, fun _ _ _ _ => rfl, rfl, rfl⟩

theorem VcoreFrame.trans {s u v : State} (h : VcoreFrame s u) (k : VcoreFrame u v) : VcoreFrame s v where
  len := k.len ∘ h.len
  regs p o hk he := (k.regs p o hk he).trans (h.regs p o hk he)
  mem := k.mem.trans h.mem
  tiles := k.tiles.trans h.tiles

theorem VcoreFrame.mgt {s u : State} (h : VcoreFrame s u) {o : Nat} (h60 : 0x060 ≤ o) (hE : o < 0xE00) (hn : o ≠ 0x0B0) :
    rawReg u .mgt o = rawReg s .mgt o :=
  h.regs _ _ (by simp only [List.mem_singleton, regKey]; omega) (evKey_mgt h60 hE)

theorem effPut_shown (s : State) (q mv : Nat) :
    VcoreFrame s (effPut s q mv) ∧ (q < s.mgt.vmv.length → effMv (effPut s q mv) q = mv)
      ∧ (∀ k, k ≠ q → effMv (effPut s q mv) k = effMv s k) ∧ RegsBut s (effPut s q mv) [regKey .mgt 0x0B0] := by
  have hbut : RegsBut s (effPut s q mv) [regKey .mgt 0x0B0] := fun p o hk =>
    (regsBut_putFld _ .mgt 0x0B0 _ _ _ _ (by simp) p o hk).trans rfl
  refine ⟨⟨fun h => ?_, fun p o hk _ => hbut p o hk, rfl, rfl⟩, fun h => ?_, fun k hk => ?_, hbut⟩
  · show (listMod s.mgt.vmv q _).length = 4
    rw [listMod, List.length_modify, h]
  · show ((listMod s.mgt.vmv q (fun _ => mv))[q]?).getD 0 = mv
    rw [listMod, List.getElem?_modify_eq, List.getElem?_eq_getElem h]; rfl
  · show ((listMod s.mgt.vmv q (fun _ => mv))[k]?).getD 0 = effMv s k
    rw [listMod, List.getElem?_modify_ne _ _ (Ne.symm hk)]; rfl

/-- What a review leaves of the VCORE of a die. -/
def reviewMv (s : State) (q : Nat) : Nat :=
  let t := rfld s .mgt 0x0A0 (8 * q + 7) (8 * q)
  let lim := rfld s .mgt 0x0A8 7 0
  let step := rfld s .mgt 0x0A8 23 16
  if lim ≤ t then Nat.min (effMv s q) (Nat.max 620 (effMv s q - step))
  else if t + rfld s .mgt 0x0A8 15 8 ≤ lim then Nat.max (effMv s q) (Nat.min (setMv s q) (effMv s q + step))
  else effMv s q

theorem reviewMv_congr {s u : State} {q : Nat} (h : VcoreFrame s u) (hq : effMv u q = effMv s q) : reviewMv u q = reviewMv s q := by
  have hA : ∀ o hi lo, 0x060 ≤ o → o < 0xE00 → o ≠ 0x0B0 → rfld u .mgt o hi lo = rfld s .mgt o hi lo := fun o hi lo h1 h2 h3 =>
    rfld_of_raw _ _ (h.mgt h1 h2 h3)
  simp only [reviewMv, setMv, hq, hA 0x0A0 _ _ (by decide) (by decide) (by decide), hA 0x0A8 _ _ (by decide) (by decide) (by decide),
    hA 0x0AC _ _ (by decide) (by decide) (by decide)]

theorem vcoreFrame_mgt (s : State) (l : List Nat) : VcoreFrame s (modMgt s (fun m => { m with throttled := l })) :=
  ⟨id, fun _ _ _ _ => rfl, rfl, rfl⟩

theorem vcoreFrame_isrBit (s : State) (n : Nat) : VcoreFrame s (isrBit s .mgt n) ∧ (isrBit s .mgt n).mgt = s.mgt := by
  have h := events_isrBit s .mgt n (0, 0) []
  have hm : (isrBit s .mgt n).mgt = s.mgt := by rw [h.1]
  exact ⟨⟨fun hl => by rw [hm, hl], fun p o _ he => h.rawReg_eq List.not_mem_nil he, h.mem, by rw [h.1]⟩, hm⟩

theorem effMv_of_mgt {s u : State} (h : u.mgt = s.mgt) (q : Nat) : effMv u q = effMv s q := by rw [effMv, h]; rfl

/-- A review of one die. -/
theorem throttleDie_shown {s : State} {q : Nat} (hq : q < s.mgt.vmv.length) :
    VcoreFrame s (throttleDie s q) ∧ effMv (throttleDie s q) q = reviewMv s q ∧ ∀ k, k ≠ q → effMv (throttleDie s q) k = effMv s k := by
  have hput : ∀ v, VcoreFrame s (effPut s q v) ∧ effMv (effPut s q v) q = v ∧ ∀ k, k ≠ q → effMv (effPut s q v) k = effMv s k :=
    fun v => by
      obtain ⟨h1, h2, h3, -⟩ := effPut_shown s q v
      exact ⟨h1, h2 hq, h3⟩
  unfold throttleDie reviewMv
  extract_lets t lim hyst step v low s1 high s2
  split
  · obtain ⟨h1, h2, h3⟩ := hput low
    split
    · next hv => exact ⟨.refl s, (Nat.min_eq_left hv).symm, fun _ _ => rfl⟩
    · next hv =>
      have hmin : low = Nat.min v low := (Nat.min_eq_right (by omega)).symm
      split
      · exact ⟨h1, h2.trans hmin, h3⟩
      · obtain ⟨hi, him⟩ := vcoreFrame_isrBit (modMgt s1 (fun m => { m with throttled := q :: m.throttled })) 3
        exact ⟨(h1.trans (vcoreFrame_mgt s1 _)).trans hi, (effMv_of_mgt him q).trans (h2.trans hmin),
          fun k hk => (effMv_of_mgt him k).trans (h3 k hk)⟩
  · split
    · next hc =>
      obtain ⟨h1, h2, h3⟩ := hput high
      have hmax : high = Nat.max v (Nat.min (setMv s q) (v + step)) := by
        have hle : v ≤ Nat.min (setMv s q) (v + step) := Nat.le_min.2 ⟨by omega, by omega⟩
        exact (Nat.max_eq_right hle).symm
      rw [if_pos hc.1]
      split
      · exact ⟨h1.trans (vcoreFrame_mgt s2 _), h2.trans hmax, h3⟩
      · exact ⟨h1, h2.trans hmax, h3⟩
    · next hc =>
      refine ⟨.refl s, ?_, fun _ _ => rfl⟩
      split
      · next hl =>
        have hle : Nat.min (setMv s q) (v + step) ≤ v := (Nat.min_le_left _ _).trans (by by_contra hv; exact hc ⟨hl, by omega⟩)
        exact (Nat.max_eq_left hle).symm
      · rfl

theorem throttleReview_shown {s : State} (hl : s.mgt.vmv.length = 4) (hon : rbit s .mgt 0x0A8 24 = true) :
    VcoreFrame s (throttleReview s) ∧ ∀ q, q < 4 → effMv (throttleReview s) q = reviewMv s q := by
  have hfr : ∀ z j, j < 4 → VcoreFrame s z → VcoreFrame s (throttleDie z j) := fun z j hj hz =>
    hz.trans (throttleDie_shown (by rw [hz.len hl]; exact hj)).1
  rw [throttleReview, if_pos hon]
  refine ⟨?_, fun q hq => ?_⟩
  · exact foldl_range_at (n := 4) (k := 0) (by decide) (fun z j hj _ => hfr z j hj) (fun z => hfr z 0 (by decide))
      (fun z j hj _ => hfr z j hj) (.refl s)
  · refine (foldl_range_at (Q := fun z => VcoreFrame s z ∧ effMv z q = effMv s q)
      (P := fun z => VcoreFrame s z ∧ effMv z q = reviewMv s q) hq ?_ ?_ ?_ ⟨.refl s, rfl⟩).2
    · rintro z j hj hn ⟨hz, he⟩
      exact ⟨hfr z j hj hz, ((throttleDie_shown (by rw [hz.len hl]; exact hj)).2.2 q (Ne.symm hn)).trans he⟩
    · rintro z ⟨hz, he⟩
      exact ⟨hfr z q hq hz, (throttleDie_shown (by rw [hz.len hl]; exact hq)).2.1.trans (reviewMv_congr hz he)⟩
    · rintro z j hj hn ⟨hz, he⟩
      exact ⟨hfr z j hj hz, ((throttleDie_shown (by rw [hz.len hl]; exact hj)).2.2 q (Ne.symm hn)).trans he⟩

/-- A setting below the effective VCORE takes hold at once (R815). -/
theorem vsetWritten_shown {s : State} (hl : s.mgt.vmv.length = 4) :
    (∀ q, q < 4 → effMv (vsetWritten s) q = Nat.min (effMv s q) (setMv s q))
      ∧ RegsBut s (vsetWritten s) [regKey .mgt 0x0B0] ∧ (vsetWritten s).tiles = s.tiles := by
  let f (s : State) (q : Nat) : State := if setMv s q < effMv s q then effPut s q (setMv s q) else s
  have hstep : ∀ z q, VcoreFrame z (f z q) ∧ (q < z.mgt.vmv.length → effMv (f z q) q = Nat.min (effMv z q) (setMv z q))
      ∧ (∀ k, k ≠ q → effMv (f z q) k = effMv z k) ∧ RegsBut z (f z q) [regKey .mgt 0x0B0] := fun z q => by
    obtain ⟨h1, h2, h3, h4⟩ := effPut_shown z q (setMv z q)
    simp only [f]
    split
    · next h => exact ⟨h1, fun hq => (h2 hq).trans (Nat.min_eq_right h.le).symm, h3, h4⟩
    · next h => exact ⟨.refl z, fun _ => (Nat.min_eq_left (by omega)).symm, fun _ _ => rfl, .refl _ _⟩
  have hset : ∀ z, VcoreFrame s z → ∀ q, setMv z q = setMv s q := fun z hz q => by
    rw [setMv, setMv, rfld_of_raw _ _ (hz.mgt (o := 0x0AC) (by decide) (by decide) (by decide))]
  have hall : VcoreFrame s (vsetWritten s) ∧ RegsBut s (vsetWritten s) [regKey .mgt 0x0B0] :=
    foldl_keeps (P := fun z => VcoreFrame s z ∧ RegsBut s z [regKey .mgt 0x0B0])
      (fun z q hz => ⟨hz.1.trans (hstep z q).1, hz.2.trans (hstep z q).2.2.2⟩) _ ⟨.refl s, .refl _ _⟩
  refine ⟨fun q hq => ?_, hall.2, hall.1.tiles⟩
  refine (foldl_range_at (f := f) (Q := fun z => VcoreFrame s z ∧ effMv z q = effMv s q)
    (P := fun z => VcoreFrame s z ∧ effMv z q = Nat.min (effMv s q) (setMv s q)) hq ?_ ?_ ?_ ⟨.refl s, rfl⟩).2
  · rintro z j - hn ⟨hz, he⟩
    exact ⟨hz.trans (hstep z j).1, ((hstep z j).2.2.1 q (Ne.symm hn)).trans he⟩
  · rintro z ⟨hz, he⟩
    refine ⟨hz.trans (hstep z q).1, ?_⟩
    rw [(hstep z q).2.1 (by rw [hz.len hl]; exact hq), he, hset z hz]
  · rintro z j - hn ⟨hz, he⟩
    exact ⟨hz.trans (hstep z j).1, ((hstep z j).2.2.1 q (Ne.symm hn)).trans he⟩

/-- MGT_VSET holds what was written: its four fields fill it. -/
theorem stored_vset {s : State} {v w : Word} (h : Stored s .mgt 0x0AC v w) : w = v := by
  have h0 := h ⟨7, 0, .rw, .num 50, .s⟩ rfl
  have h1 := h ⟨15, 8, .rw, .num 50, .s⟩ rfl
  have h2 := h ⟨23, 16, .rw, .num 50, .s⟩ rfl
  have h3 := h ⟨31, 24, .rw, .num 50, .s⟩ rfl
  apply BitVec.eq_of_toNat_eq
  have hw := w.isLt
  have hv := v.isLt
  simp only [Fld.taken, fld, bitsOf] at h0 h1 h2 h3
  omega

theorem mgtVset_shown {s : State} {v : Word} (hl : s.mgt.vmv.length = 4) (hw : writeTaken s .mgt 0x0AC v = true) (src : Src) :
    let u := regPut s src .mgt 0x0AC v
    rawReg u .mgt 0x0AC = v ∧ (∀ q, q < 4 → effMv u q = Nat.min (effMv s q) (500 + 5 * fld v (8 * q + 7) (8 * q)))
      ∧ RegsBut s u [regKey .mgt 0x0AC, regKey .mgt 0x0B0] ∧ u.mem = s.mem ∧ u.tiles = s.tiles := by
  obtain ⟨w, hst, hput⟩ := regPut_taken hw (by decide) rfl src
  obtain rfl := stored_vset hst
  have hput : regPut s src .mgt 0x0AC w = vsetWritten (storeReg s .mgt 0x0AC w) := hput
  have hraw : rawReg (storeReg s .mgt 0x0AC w) .mgt 0x0AC = w := rawReg_storeReg_same _ _ _ _
  have hmgt : (storeReg s .mgt 0x0AC w).mgt = s.mgt := by rw [onlyRegs_storeReg s .mgt 0x0AC w]
  have hmem : (storeReg s .mgt 0x0AC w).mem = s.mem := storeReg_mem _ _ _ _
  have htil : (storeReg s .mgt 0x0AC w).tiles = s.tiles := by rw [onlyRegs_storeReg s .mgt 0x0AC w]
  have hbut := regsBut_storeReg s .mgt 0x0AC w [regKey .mgt 0x0AC, regKey .mgt 0x0B0] (by simp)
  intro u
  have hu : u = _ := hput
  generalize storeReg s .mgt 0x0AC w = z at hu hraw hmgt hmem htil hbut
  obtain ⟨heff, hb, ht⟩ := vsetWritten_shown (s := z) (by rw [hmgt, hl])
  rw [hu]
  refine ⟨(rawReg_vsetWritten_off z _ (by decide)).trans hraw, fun q hq => ?_, hbut.trans (hb.weaken (by simp)),
    (vsetWritten_mem z).trans hmem, ht.trans htil⟩
  rw [heff q hq, effMv_of_mgt hmgt, setMv, rfld, hraw]

/-! ## The stacks (R600 to R602) -/

theorem evKey_mem {x e o : Nat} (hx : x < 128) (he : e < 2) (h60 : 0x060 ≤ o) (h : o < 0xE00) : EvKey (regKey (.mem x e) o) = false :=
  evKey_eq_false (by simp only [pageBase]; omega) h (by simp; omega)

/-- A page of a stack takes its temperature: beside the page's status only events happen. -/
theorem tempPage_shown (s : State) (x e c : Nat) :
    Events s (tempPage s x e c) [regKey (.mem x e) 0x084] ∧ (c < 256 → x < 128 → e < 2 → pagePresent s (.mem x e) = true →
      rfld (tempPage s x e c) (.mem x e) 0x084 15 8 = c ∧ rbit (tempPage s x e c) (.mem x e) 0x084 1 = decide (85 < c)) := by
  unfold tempPage
  extract_lets p s1
  have h1 : Events s s1 [regKey (.mem x e) 0x084] :=
    (events_putFld _ _ _ _ _ _ _ (.inl (by simp [p]))).trans (events_putBit _ _ _ _ _ _ (.inl (by simp [p])))
  refine ⟨events_ite (.refl _ _) (events_ite (h1.trans (events_isrBit _ _ _ _ _)) h1), fun hc hx he hp => ?_⟩
  rw [if_neg (by rw [hp]; decide)]
  have hf : rfld s1 p 0x084 15 8 = c ∧ rbit s1 p 0x084 1 = decide (85 < c) := by
    refine ⟨?_, rbit_putBit_same _ _ _ _ _ (by decide)⟩
    refine (rfld_putFld_ne _ _ _ _ _ _ _ _ (by decide) (by decide) (by decide) (by decide)).trans ?_
    exact (rfld_putFld_same _ _ _ _ _ _ (by decide) (by decide)).trans (Nat.mod_eq_of_lt hc)
  split
  · have hraw := (events_isrBit s1 p 2 (0, 0) []).rawReg_eq List.not_mem_nil (evKey_mem hx he (o := 0x084) (by decide) (by decide))
    exact ⟨(rfld_of_raw _ _ hraw).trans hf.1, by rw [rbit, rfld_of_raw _ _ hraw]; exact hf.2⟩
  · exact hf

theorem pagePresent_mem_congr {s u : State} {x e : Nat} (hf : u.fuses = s.fuses)
    (hr : rawReg u .mgt 0x084 = rawReg s .mgt 0x084) : pagePresent u (.mem x e) = pagePresent s (.mem x e) := by
  have hb : rbit u .mgt 0x084 0 = rbit s .mgt 0x084 0 := congrArg (· == 1) (rfld_of_raw 0 0 hr)
  have hg : gridX u = gridX s := by rw [gridX, hb]; rfl
  have he : edgePop u x e = edgePop s x e := by simp only [edgePop, sitePop, hf]
  show (decide (x < gridX u) && edgePop u x e) = _
  rw [hg, he]; rfl

theorem stackTemp_shown (s : State) {site : Nat} (c : Nat) (hs : site < 8) :
    ((stackTemp s site c).mem = s.mem ∧ (stackTemp s site c).tiles = s.tiles) ∧ ∀ k, k < 32 →
      pagePresent s (.mem (32 * (site % 4) + k) (site / 4)) = true →
      rfld (stackTemp s site c) (.mem (32 * (site % 4) + k) (site / 4)) 0x084 15 8 = Nat.min c 255
        ∧ rbit (stackTemp s site c) (.mem (32 * (site % 4) + k) (site / 4)) 0x084 1 = decide (85 < c) := by
  refine ⟨?_, fun k hk hp => ?_⟩
  · exact foldl_keeps (P := fun z => z.mem = s.mem ∧ z.tiles = s.tiles) (fun z j hz => by
      have h := (tempPage_shown z (32 * (site % 4) + j) (site / 4) (min c 255)).1
      exact ⟨h.mem.trans hz.1, by rw [h.1]; exact hz.2⟩) _ ⟨rfl, rfl⟩
  · have hpres : ∀ z j, j < 32 → pagePresent z (.mem (32 * (site % 4) + k) (site / 4)) = true →
        pagePresent (tempPage z (32 * (site % 4) + j) (site / 4) (min c 255)) (.mem (32 * (site % 4) + k) (site / 4)) = true :=
      fun z j hj hz => by
        have h := (tempPage_shown z (32 * (site % 4) + j) (site / 4) (min c 255)).1
        rw [pagePresent_mem_congr h.fuses (h.rawReg_eq (by simp only [List.mem_singleton, regKey, pageBase]; omega)
          (evKey_mgt (by decide) (by decide)))]
        exact hz
    refine foldl_range_at (Q := fun z => pagePresent z (.mem (32 * (site % 4) + k) (site / 4)) = true)
      (P := fun z => rfld z (.mem (32 * (site % 4) + k) (site / 4)) 0x084 15 8 = Nat.min c 255
        ∧ rbit z (.mem (32 * (site % 4) + k) (site / 4)) 0x084 1 = decide (85 < c)) hk
      (fun z j hj _ hz => hpres z j hj hz) (fun z hz => ?_) (fun z j hj hn hz => ?_) hp
    · have hc : decide (85 < min c 255) = decide (85 < c) := by rw [decide_eq_decide]; omega
      rw [← hc]
      exact (tempPage_shown z _ _ (min c 255)).2 (by omega) (by omega) (by omega) hz
    · have hraw := (tempPage_shown z (32 * (site % 4) + j) (site / 4) (min c 255)).1.rawReg_eq
        (p := .mem (32 * (site % 4) + k) (site / 4)) (o := 0x084)
        (by simp only [List.mem_singleton, regKey, pageBase]; omega) (evKey_mem (by omega) (by omega) (by decide) (by decide))
      exact ⟨(rfld_of_raw _ _ hraw).trans hz.1, by rw [rbit, rfld_of_raw _ _ hraw]; exact hz.2⟩

theorem pcUnits_bounds (a : Assembly) : 0 < pcBytes a / 32 ∧ pcBytes a / 32 < 2 ^ 26 := by cases a <;> decide

/-- Settles O48. -/
theorem temperatureAndScrub : Obligations.TemperatureAndScrub := by
  intro s src v x e
  refine ⟨fun cd iow ioe hb hr => ⟨_, show execTempReport cd iow ioe s = _ from rfl, tempReport_shown cd iow ioe hb hr⟩,
    fun hl => ⟨fun hon => ?_, fun hw => ⟨_, show execMgtVset src v s = _ from rfl, mgtVset_shown hl hw src⟩⟩,
    ?_, fun hlive => ?_, ?_⟩
  · obtain ⟨hf, heff⟩ := throttleReview_shown hl hon
    exact ⟨_, show execThrottleReview s = _ from rfl, heff, hf.regs, hf.mem, hf.tiles⟩
  · intro site c k hs hk p hp
    obtain ⟨⟨hm, ht⟩, hall⟩ := stackTemp_shown s c hs
    obtain ⟨h1, h2⟩ := hall k hk hp
    exact ⟨_, show execStackTemperature site c s = _ from rfl, h1, h2, hm, ht⟩
  · refine ⟨_, show execRefresh x e s = _ from rfl, ?_⟩
    rw [refreshOne, if_pos hlive]
    have hg : getEdge (modEdge s x e (fun g => { g with refreshes := g.refreshes + 1 })) x e
        = { getEdge s x e with refreshes := (getEdge s x e).refreshes + 1 } := getEdge_modEdge_same _ _ _ _
    rw [hg]
    exact ⟨rfl, rfl, rfl⟩
  · intro hlive hrate i unit_ goesOn
    have hrun : scrubVisit s x e [] = putFld (scrubUnit s x e unit_) (.mem x e) 0x094 25 0 ((i + 1) % (pcBytes s.fuses.asm / 32)) := by
      rw [scrubVisit, if_neg (by simp [hlive, hrate])]; rfl
    have hgo : ∀ z, z.mem = s.mem → goesOn (putFld z (.mem x e) 0x094 25 0 ((i + 1) % (pcBytes s.fuses.asm / 32))) := fun z hz => by
      obtain ⟨h0, h26⟩ := pcUnits_bounds s.fuses.asm
      refine ⟨?_, hz⟩
      rw [rfld_putFld_same _ _ _ _ _ _ (by decide) (by decide)]
      exact Nat.mod_eq_of_lt ((Nat.mod_lt _ h0).trans h26)
    refine ⟨fun hnone => ⟨_, show execScrubVisit x e [] s = _ from rfl, ?_⟩,
      fun f hf hue => ⟨_, show execScrubVisit x e [] s = _ from rfl, ?_⟩⟩
    · have hu : scrubUnit s x e unit_ = s := by rw [scrubUnit, hnone]
      rw [hrun, hu]
      exact ⟨hgo s rfl, regsBut_putFld _ _ _ _ _ _ _ (by simp), onlyRegs_putFld _ _ _ _ _ _⟩
    · have hu : scrubUnit s x e unit_ = addFld (clearUnit s unit_) (.mem x e) 0x040 15 0 1 := by
        rw [scrubUnit, hf]; simp only [hue]; rfl
      rw [hrun, hu]
      refine ⟨hgo _ rfl, ?_, ?_, ?_⟩
      · show (((tabDel s.ecc unit_).find? (fun e => e.1 == unit_)).map (·.2)) = none
        rw [find?_tabDel_same]; rfl
      · rw [rfld_putFld_off _ _ _ _ _ _ _ _ _ (by decide), rfld_addFld_one]; rfl
      · have h1 : RegsBut s (addFld (clearUnit s unit_) (.mem x e) 0x040 15 0 1)
            [regKey (.mem x e) 0x094, regKey (.mem x e) 0x040] := fun p o hk =>
          (regsBut_putFld _ (.mem x e) 0x040 _ _ _ _ (by simp) p o hk).trans rfl
        exact h1.trans (regsBut_putFld _ _ _ _ _ _ _ (by simp))

end Sys2Proof.Machine
end

section
/-! PROOFS. Resets by MGT_RST, by PERST_N and by the rails (Table 19.4). -/

namespace Sys2Proof.Machine

/-- A write of MGT_RST that takes effect only asks for resets. -/
theorem regWrite_mgtRst {s : State} {v : Word} (h : writeTaken s .mgt 0x088 v = true) (a : RegAcc) (hbe : a.be = 0xF)
    (hhw : a.hw = none) : (regWrite s a .mgt 0x088 v).2 = rstWritten s v a.env := by
  have hd : regAt .mgt 0x088 = some ⟨0x088, [], [⟨0, 0, .wo, .num 0, .s⟩, ⟨1, 1, .wo, .num 0, .s⟩, ⟨2, 2, .wo, .num 0, .s⟩,
      ⟨29, 16, .wo, .num 0, .s⟩]⟩ := rfl
  have hnew : newFields s .mgt 0x088 ⟨0x088, [], [⟨0, 0, .wo, .num 0, .s⟩, ⟨1, 1, .wo, .num 0, .s⟩, ⟨2, 2, .wo, .num 0, .s⟩,
      ⟨29, 16, .wo, .num 0, .s⟩]⟩ v = rawReg s .mgt 0x088 :=
    applyAll_same (fun f hf => by
      simp only [List.mem_cons, List.not_mem_nil, or_false] at hf
      rcases hf with rfl | rfl | rfl | rfl <;> exact .inl rfl)
  rw [regWrite_of_taken h hd a hbe, hnew]
  simp only [regEffect, hhw, hwMaybe, if_true]
  rfl

/-! ## Cold and warm resets -/

/-- What a cold or warm reset leaves: of the old state only the clock, the calendar and the fuses. -/
def Fresh (s u : State) : Prop :=
  u.mem = [] ∧ u.tiles = [] ∧ u.links = [] ∧ u.rlog = [] ∧ u.time = s.time ∧ u.rtc = s.rtc ∧ u.fuses = s.fuses

theorem fresh_baseReset (s : State) (sc : Scope) : Fresh s (baseReset s sc) := ⟨rfl, rfl, rfl, rfl, rfl, rfl, rfl⟩

theorem rawReg_baseReset (s : State) (sc : Scope) {p : Page} {o : Nat} (h : regKey p o ≠ regKey (.tkp 0) 0x0F8) :
    rawReg (baseReset s sc) p o = regDefault s.fuses p o := (rawReg_putReg_ne _ _ _ _ _ _ h).trans rfl

/-- Tiles that all have power stay as a reset left them (R388). -/
theorem keepUnpowered_of_powered {s : State} (h : ∀ e ∈ s.tiles, e.2.powered = true) (u : State) : keepUnpowered s u = u := by
  have hnone : unpowered s = [] := by
    rw [unpowered, List.filterMap_eq_nil_iff]
    exact fun e he => by rw [if_pos (h e he)]
  rw [keepUnpowered, hnone]; rfl

theorem warmReset_shown {s : State} (h : ∀ e ∈ s.tiles, e.2.powered = true) :
    let u := warmReset s
    Fresh s u ∧ u.mgt.running = some .warm ∧ bootStage u = 3 ∧ u.hif.perst = s.hif.perst := by
  obtain ⟨z, hz⟩ : ∃ z, z = putReg (putReg (putReg (baseReset s .warm) .mgt 0x0AC (rawReg s .mgt 0x0AC)) .mgt 0x0B0
    (rawReg s .mgt 0x0B0)) .mgt 0x090 (rawReg s .mgt 0x090) := ⟨_, rfl⟩
  have hfresh : Fresh s z := by rw [hz]; exact ⟨rfl, rfl, rfl, rfl, rfl, rfl, rfl⟩
  have hrun : z.mgt.running = some .warm := by rw [hz]; rfl
  have hperst : z.hif.perst = s.hif.perst := by rw [hz]; rfl
  have hu : warmReset s = modMgt (putFld z .mgt 0x090 3 0 3) (fun m => { m with vmv := s.mgt.vmv, rails := s.mgt.rails }) := by
    rw [warmReset]; simp only [keepUnpowered_of_powered h, hz]
  intro u
  simp only [u, hu]
  exact ⟨hfresh, hrun, rfld_putFld_same _ _ _ _ _ _ (by decide) (by decide), hperst⟩

/-! ## Fabric and tile resets -/

theorem mem_isoAgain (s : State) (t : Nat) : (isoAgain s t).mem = s.mem := rfl

theorem mem_keepUnpowered (s u : State) : (keepUnpowered s u).mem = u.mem := by
  unfold keepUnpowered
  exact foldl_mem (fun z t => mem_isoAgain (modTile z t (fun x => { x with powered := false })) t) _ u

/-- Every byte of the memories of the tiles reads 0 and every other one as before. -/
def TilesZero (s u : State) : Prop :=
  (∀ k, 2 ^ 48 ≤ k → k < 2 ^ 48 + 2 ^ 34 → getByte u.mem k = 0) ∧ ∀ k, k < 2 ^ 48 → getByte u.mem k = getByte s.mem k

theorem tilesZero_of_mem {s u : State} (h : u.mem = zeroRange s.mem (2 ^ 48) (2 ^ 48 + 2 ^ 34)) : TilesZero s u := by
  unfold TilesZero
  rw [h]
  exact ⟨fun k hlo hhi => getByte_zeroRange_in _ _ _ _ hlo hhi, fun k hk => getByte_zeroRange_out _ _ _ _ (.inl hk)⟩

theorem tilesZero_fabricClear (s : State) : TilesZero s (fabricClear s) := tilesZero_of_mem (mem_keepUnpowered _ _)

theorem fabricClear_shown {s : State} (h : ∀ e ∈ s.tiles, e.2.powered = true) :
    (fabricClear s).tiles = [] ∧ (fabricClear s).time = s.time ∧ (fabricClear s).links = s.links := by
  rw [fabricClear, keepUnpowered_of_powered h]
  exact ⟨rfl, rfl, rfl⟩

/-- Restored buckets leave memory, time and tiles as they were. -/
theorem foldl_bucketRestore (k : Nat → Nat) (l : List Nat) (s : State) :
    let u := l.foldl (fun s n => bucketRestore s 3 (k n)) s
    u.mem = s.mem ∧ u.time = s.time ∧ u.tiles = s.tiles :=
  foldl_keeps (P := fun z => z.mem = s.mem ∧ z.time = s.time ∧ z.tiles = s.tiles)
    (f := fun s n => bucketRestore s 3 (k n)) (fun _ _ h => h) l ⟨rfl, rfl, rfl⟩

/-- The tile of a reset and what its pages and memories hold, cleared; its router stays. -/
def tileWiped (s : State) (t : Nat) : State :=
  setTile { s with
    regs := tabClear s.regs (t * 0x8000) (t * 0x8000 + 0x8000),
    latches := tabClear s.latches (t * 0x8000) (t * 0x8000 + 0x8000),
    mem := zeroRange s.mem (tmKey t 0) (tmKey t 0x100000),
    ecc := tabClear s.ecc (unitOf (tmKey t 0)) (unitOf (tmKey t 0x100000)) } t { ({} : Tile) with
    rin := (getTile s t).rin, rout := (getTile s t).rout, asm := (getTile s t).asm, rrVc := (getTile s t).rrVc,
    fork := (getTile s t).fork, powered := (getTile s t).powered, lreq := (getTile s t).lreq, reqAt := (getTile s t).reqAt,
    wdog := (getTile s t).wdog, ntOff := (getTile s t).ntOff, kaSent := (getTile s t).kaSent, kaSeen := (getTile s t).kaSeen }

theorem tileWiped_shown (s : State) (t : Nat) :
    (tileWiped s t).mem = zeroRange s.mem (tmKey t 0) (tmKey t 0x100000) ∧ (tileWiped s t).time = s.time
      ∧ (getTile (tileWiped s t) t).ctx = [{}, {}, {}, {}] ∧ ∀ k, k ≠ t → getTile (tileWiped s t) k = getTile s k :=
  ⟨rfl, rfl, congrArg Tile.ctx (tabGet_tabPut_same ({} : Tile) _ t _), fun _ hk => tabGet_tabPut_ne _ _ _ _ _ hk⟩

/-- What a tile reset restores beside the tile: the registers that stay, and the buckets of the tile. -/
def tileRestored (z : State) (t : Nat) (iso time : Word) : State :=
  (List.range 16).foldl (fun s n => bucketRestore s 3 (t * 16 + n))
    (bucketRestore (putReg (putReg z (.til t) 0x084 iso) (.til t) 0x0C0 time) 4 t)

theorem tileResetStart_eq (s : State) (t : Nat) : tileResetStart s t
    = modMgt (tileRestored (tileWiped s t) t (rawReg s (.til t) 0x084) (rawReg s (.til t) 0x0C0)) (fun m => { m with running := some (.tile t) }) :=
  rfl

theorem tileRestored_shown (z : State) (t : Nat) (iso time : Word) :
    (tileRestored z t iso time).mem = z.mem ∧ (tileRestored z t iso time).time = z.time
      ∧ (tileRestored z t iso time).tiles = z.tiles := foldl_bucketRestore (fun n => t * 16 + n) (List.range 16) _

/-- A tile reset starts: the tile and its memories are clear, and it counts as isolated. -/
theorem tileResetStart_shown (s : State) (t : Nat) :
    let u := tileResetStart s t
    u.mgt.running = some (.tile t) ∧ u.mem = zeroRange s.mem (tmKey t 0) (tmKey t 0x100000) ∧ (getTile u t).ctx = [{}, {}, {}, {}]
      ∧ (∀ k, k ≠ t → getTile u k = getTile s k) ∧ u.time = s.time := by
  obtain ⟨hm2, ht2, hc2, ho2⟩ := tileWiped_shown s t
  obtain ⟨hmem, htime, htiles⟩ := tileRestored_shown (tileWiped s t) t (rawReg s (.til t) 0x084) (rawReg s (.til t) 0x0C0)
  rw [tileResetStart_eq]
  generalize tileRestored (tileWiped s t) t _ _ = w at hmem htime htiles
  have ht : ∀ k, getTile (modMgt w (fun m => { m with running := some (.tile t) })) k = getTile (tileWiped s t) k := fun k => by
    show tabGet {} w.tiles k = tabGet {} (tileWiped s t).tiles k
    rw [htiles]
  exact ⟨rfl, hmem.trans hm2, by rw [ht, hc2], fun k hk => (ht k).trans (ho2 k hk), htime.trans ht2⟩

/-! ## The end of a reset -/

/-- What the end of a reset writes before its interrupt. -/
def rstEnded (s : State) (last : Nat) : State :=
  modMgt (addFld (putFld s .mgt 0x08C 3 1 last) .mgt 0x08C 31 16 1) (fun m => { m with running := none })

theorem rstEnded_shown (s : State) {last : Nat} (h : last < 8) :
    let u := rstEnded s last
    u.mgt = { s.mgt with running := none } ∧ rfld u .mgt 0x08C 3 1 = last ∧ u.tiles = s.tiles ∧ u.mem = s.mem
      ∧ ∀ k, rawReg u (.til k) 0x084 = rawReg s (.til k) 0x084 := by
  refine ⟨rfl, ?_, rfl, rfl, fun k => ?_⟩
  · refine (rfld_putFld_ne (putFld s .mgt 0x08C 3 1 last) _ _ 31 16 _ 3 1 (by decide) (by decide) (by decide) (by decide)).trans ?_
    exact (rfld_putFld_same _ _ _ _ _ _ (by decide) (by decide)).trans (Nat.mod_eq_of_lt h)
  · have hk : regKey (.til k) 0x084 ≠ regKey .mgt 0x08C := by simp only [regKey, pageBase]; omega
    exact (rawReg_putReg_ne (putFld s .mgt 0x08C 3 1 last) _ _ _ _ _ hk).trans (rawReg_putReg_ne s _ _ _ _ _ hk)

theorem rstDone_eq (s : State) (last : Nat) : rstDone s last = isrBit (rstEnded s last) .mgt 1 := by
  unfold rstDone rstEnded; rfl

theorem rstDone_shown (s : State) {last : Nat} (h : last < 8) :
    let u := rstDone s last
    u.mgt = { s.mgt with running := none } ∧ rfld u .mgt 0x08C 3 1 = last ∧ rbit u .mgt 0x020 1 = true ∧ u.tiles = s.tiles
      ∧ u.mem = s.mem ∧ ∀ k, rawReg u (.til k) 0x084 = rawReg s (.til k) 0x084 := by
  obtain ⟨hmgt, h8c, htiles, hmem, htil⟩ := rstEnded_shown s h
  rw [rstDone_eq]
  generalize rstEnded s last = z at hmgt h8c htiles hmem htil
  have hev := events_isrBit z .mgt 1 (0, 0) []
  refine ⟨by rw [← hmgt, hev.1], ?_, rbit_isrBit z .mgt (by decide) _, by rw [← htiles, hev.1], hev.mem.trans hmem, fun k => ?_⟩
  · rw [← h8c]; exact rfld_of_raw _ _ (hev.rawReg_eq List.not_mem_nil (evKey_mgt (by decide) (by decide)))
  · rw [← htil k]
    exact hev.rawReg_eq List.not_mem_nil (evKey_eq_false (by simp only [pageBase]; omega) (by decide) (by decide))

/-- A tile with power that is not OFF leaves isolation (R388). -/
theorem isoAgain_off {s : State} {t : Nat} (h : rbit s (.til t) 0x084 0 = false) (hp : (getTile s t).powered = true) :
    OnlyRegs s (isoAgain s t) ∧ isoBit (isoAgain s t) t = false := by
  have hc : isoAgain s t = putFld (putBit s (.til t) 0x084 1 false) (.til t) 0x084 4 2 0 := by
    simp only [isoAgain, h, hp, Bool.false_eq_true, if_false, if_true]; rfl
  rw [hc]
  refine ⟨rfl, ?_⟩
  rw [isoBit, rbit, rfld_putFld_ne _ _ _ _ _ _ _ _ (by decide) (by decide) (by decide) (by decide)]
  exact rbit_putBit_same _ _ _ _ _ (by decide)

theorem fld_tileReset {t : Nat} (h : t < 16384) :
    let v := BitVec.ofNat 32 (4 + t * 65536)
    fld v 0 0 = 0 ∧ fld v 1 1 = 0 ∧ fld v 2 2 = 1 ∧ fld v 29 16 = t := by
  have hv : (BitVec.ofNat 32 (4 + t * 65536)).toNat = 4 + t * 65536 := by
    rw [BitVec.toNat_ofNat]; exact Nat.mod_eq_of_lt (by omega)
  simp only [fld, bitsOf, hv]
  omega

/-! ## The requests -/

theorem coldWritten {s : State} (h : s.mgt.thermtrip = false) (hr : s.mgt.running ≠ some .cold) (failed : List Nat) :
    rstWritten s 1 failed = baseReset s .cold := by
  have f : fld (1 : Word) 0 0 = 1 ∧ fld (1 : Word) 1 1 = 0 ∧ fld (1 : Word) 2 2 = 0 := by decide
  simp only [rstWritten, f.1, f.2.1, f.2.2, Nat.zero_ne_one, if_false, if_true]
  rw [rstCold, h, if_neg (by decide), if_neg hr, coldReset]

theorem fabricWritten {s : State} (h : s.mgt.thermtrip = false)
    (hr : s.mgt.running = none ∨ ∃ k, s.mgt.running = some (.tile k)) (failed : List Nat) :
    rstWritten s 2 failed = modMgt (bist (fabricClear s) failed) (fun m => { m with running := some .fabric, waiting := [] }) := by
  have f : fld (2 : Word) 0 0 = 0 ∧ fld (2 : Word) 1 1 = 1 ∧ fld (2 : Word) 2 2 = 0 := by decide
  simp only [rstWritten, f.1, f.2.1, f.2.2, Nat.zero_ne_one, if_false, if_true]
  rw [rstFabric, h, if_neg (by decide)]
  rcases hr with h | ⟨k, h⟩ <;> simp only [h]

theorem tileWritten (s : State) {t : Nat} (h : t < 16384) (failed : List Nat) :
    rstWritten s (BitVec.ofNat 32 (4 + t * 65536)) failed = rstTile s t := by
  obtain ⟨f0, f1, f2, f16⟩ := fld_tileReset h
  simp only [rstWritten, f0, f1, f2, f16, Nat.zero_ne_one, if_false, if_true]

theorem fabricReset_shown {s : State} (h : ∀ e ∈ s.tiles, e.2.powered = true) (failed : List Nat) :
    let u := modMgt (bist (fabricClear s) failed) (fun m => { m with running := some .fabric, waiting := [] })
    u.mgt.running = some .fabric ∧ u.mgt.waiting = [] ∧ u.mgt.failedRtrs = [] ∧ u.tiles = [] ∧ TilesZero s u
      ∧ rawReg u .mgt 0x084 = degrWord (failed.foldl spareOne {}) ∧ u.time = s.time ∧ u.links = s.links := by
  obtain ⟨h1, h2, h3⟩ := fabricClear_shown h
  have h0 := tilesZero_fabricClear s
  generalize fabricClear s = z at h0 h1 h2 h3
  exact ⟨rfl, rfl, rfl, h1, h0, rawReg_putReg_same _ _ _ _, h2, h3⟩

theorem tmKey_add (t o : Nat) : tmKey t o = tmKey t 0 + o := by rw [tmKey, tmKey, Nat.add_zero]

theorem tileReset_shown (s : State) (t : Nat) :
    let u := tileResetStart s t
    u.mgt.running = some (.tile t) ∧ isolated u t = true ∧ MemBut s u (tmKey t 0) 0x100000
      ∧ (∀ o, o < 0x100000 → getByte u.mem (tmKey t o) = 0) ∧ (getTile u t).ctx = [{}, {}, {}, {}]
      ∧ (∀ k, k ≠ t → getTile u k = getTile s k) ∧ u.time = s.time := by
  obtain ⟨hr, hm, hc, ho, htm⟩ := tileResetStart_shown s t
  generalize tileResetStart s t = u at hr hm hc ho htm
  rw [tmKey_add t 0x100000] at hm
  refine ⟨hr, ?_, fun k hk => ?_, fun o ho => ?_, hc, ho, htm⟩
  · rw [isolated, hr, beq_self_eq_true, Bool.or_true]
  · rw [hm]
    exact getByte_zeroRange_out _ _ _ _ hk
  · rw [hm, tmKey_add t o]
    exact getByte_zeroRange_in _ _ _ _ (Nat.le_add_right _ _) (Nat.add_lt_add_left ho _)

theorem tileWaits {s : State} {t k : Nat} (h : s.mgt.thermtrip = false) (hr : s.mgt.running = some (.tile k)) (hk : k ≠ t)
    (hw : t ∉ s.mgt.waiting) : rstTile s t = modMgt s (fun m => { m with waiting := m.waiting ++ [t] }) := by
  rw [rstTile, h, if_neg (by decide), hr]
  exact if_neg (by rintro (h | h); exacts [hk h, hw h])

theorem rstWarm_shown {s : State} (h : s.mgt.thermtrip = false) (hc : s.mgt.running ≠ some .cold)
    (hw : s.mgt.running ≠ some .warm) (hp : ∀ e ∈ s.tiles, e.2.powered = true) :
    let u := rstWarm s
    Fresh s u ∧ u.mgt.running = some .warm ∧ bootStage u = 3 ∧ u.hif.perst = false := by
  have hu : rstWarm s = warmReset { s with hif := { s.hif with perst := false } } := by
    rw [rstWarm]
    simp only [h, Bool.false_eq_true, if_false, hc, hw, or_self]
  rw [hu]
  exact warmReset_shown (s := { s with hif := { s.hif with perst := false } }) hp

theorem thermTrip_shown {s : State} (h : s.mgt.thermtrip = false) :
    let u := thermTrip s
    u.mgt.thermtrip = true ∧ u.mgt.rails = false ∧ OutMsg.thermtrip ∈ u.out ∧ TilesZero s u := by
  rw [thermTrip, h, if_neg (by decide)]
  have h0 := tilesZero_fabricClear s
  generalize fabricClear s = z at h0
  exact ⟨rfl, rfl, List.mem_append_right _ (List.mem_singleton_self _), h0⟩

theorem fabricComplete_shown {s : State} (h : s.mgt.running = some .fabric) (hd : rbit s .mgt 0x084 2 = false) :
    let u := rstComplete s
    u.mgt.running = none ∧ rfld u .mgt 0x08C 3 1 = 3 ∧ rbit u .mgt 0x020 1 = true ∧ u.tiles = s.tiles ∧ u.mem = s.mem := by
  obtain ⟨z, hz, hu⟩ : ∃ z, (z.tiles = s.tiles ∧ z.mem = s.mem) ∧ rstComplete s = rstDone z 3 :=
    ⟨measure (modMgt s (fun m => { m with fabUp := eTime s })), ⟨rfl, rfl⟩, by
      rw [rstComplete, h]; simp only [hd, Bool.false_eq_true, if_false]⟩
  obtain ⟨hm, h8c, h20, ht, hmem, -⟩ := rstDone_shown z (last := 3) (by decide)
  rw [hu]
  exact ⟨by rw [hm], h8c, h20, ht.trans hz.1, hmem.trans hz.2⟩

theorem tileComplete_shown {s : State} {k : Nat} (h : s.mgt.running = some (.tile k)) (hw : s.mgt.waiting = [])
    (hoff : rbit s (.til k) 0x084 0 = false) (hp : (getTile s k).powered = true) :
    let u := rstComplete s
    u.mgt.running = none ∧ isolated u k = false ∧ rfld u .mgt 0x08C 3 1 = 4 ∧ u.tiles = s.tiles ∧ u.mem = s.mem := by
  obtain ⟨honly, hiso⟩ := isoAgain_off hoff hp
  obtain ⟨hm, h8c, -, ht, hmem, hreg⟩ := rstDone_shown (isoAgain s k) (last := 4) (by decide)
  have hw' : (rstDone (isoAgain s k) 4).mgt.waiting = [] := by rw [hm, honly]; exact hw
  have hu : rstComplete s = rstDone (isoAgain s k) 4 := by rw [rstComplete, h]; simp only [hw']
  have hiso' : isoBit (rstDone (isoAgain s k) 4) k = false := by rw [isoBit, rbit, rfld_of_raw _ _ (hreg k)]; exact hiso
  rw [hu]
  refine ⟨by rw [hm], ?_, h8c, ht.trans (by rw [honly]), hmem.trans honly.mem⟩
  rw [isolated, hiso', hm]; rfl

/-- Settles O46. -/
theorem resetsReturnState : Obligations.ResetsReturnState := by
  intro s src failed idx t fresh tilesZero
  have ht : t < 16384 := Nat.mod_lt _ (by decide)
  refine ⟨fun htrip => ⟨fun hw hrun => ?_, fun hw hrun hpow => ?_, fun hw => ⟨fun hrun => ?_, fun k hrun hk hmem => ?_⟩,
    fun hc hwm hpow => ⟨_, show execPerstN s = _ from rfl, rstWarm_shown htrip hc hwm hpow⟩,
    ⟨_, show execThermtrip s = _ from rfl, thermTrip_shown htrip⟩⟩,
    ⟨_, show execVstbyValid s = _ from rfl, fresh_baseReset _ .cold, rfl, rfl, rfl⟩,
    ⟨_, show execVstbyLoss s = _ from rfl, fresh_baseReset s .cold, rfl, rfl⟩,
    fun hrun hdeg => ⟨_, show execResetComplete s = _ from rfl, fabricComplete_shown hrun hdeg⟩, fun hrun hdeg => ?_,
    fun k hrun hwait hoff hpow => ⟨_, show execResetComplete s = _ from rfl, tileComplete_shown hrun hwait hoff hpow⟩⟩
  · have hu : regPut s src .mgt 0x088 1 = baseReset s .cold := (regWrite_mgtRst hw _ rfl rfl).trans (coldWritten htrip hrun _)
    refine ⟨_, show execCold src s = _ from rfl, ?_⟩
    rw [hu]
    exact ⟨fresh_baseReset s .cold, rfl, fun p o h => rawReg_baseReset s .cold h⟩
  · refine ⟨_, show execFabric src failed s = _ from rfl, ?_⟩
    rw [regWrite_mgtRst hw _ rfl rfl, fabricWritten htrip hrun]
    exact fabricReset_shown hpow failed
  · have hu : regPut s src .mgt 0x088 (BitVec.ofNat 32 (4 + t * 65536)) = tileResetStart s t := by
      refine ((regWrite_mgtRst hw _ rfl rfl).trans (tileWritten s ht _)).trans ?_
      rw [rstTile, htrip, if_neg (by decide), hrun]
    exact ⟨tileResetStart s t, congrArg Host.Outcome.next hu, tileReset_shown s t⟩
  · have hu : regPut s src .mgt 0x088 (BitVec.ofNat 32 (4 + t * 65536)) = modMgt s (fun m => { m with waiting := m.waiting ++ [t] }) :=
      ((regWrite_mgtRst hw _ rfl rfl).trans (tileWritten s ht _)).trans (tileWaits htrip hrun hk hmem)
    exact ⟨_, congrArg Host.Outcome.next hu, rfl, rfl, rfl⟩
  · show Host.Outcome.next (rstComplete s) = _
    rw [rstComplete, hrun]; simp only [hdeg, if_true]

end Sys2Proof.Machine
end

section
/-! PROOFS. Frames that arrive on an active link, and the timers of a link (section 13.2). -/

namespace Sys2Proof.Machine

/-! ## What the operations of a link change of it -/

theorem getLink_progress (s : State) (n : Nat) : getLink (progress s n) n
    = { getLink s n with progressAt := eTime s, ackTo := rfld s (.llk n) 0x08C 15 0 } := getLink_modLink_same _ _ _

/-- An acknowledgement changes what waits for it, and the credits. -/
theorem headTake_shown (s : State) (n : Nat) (f : LFrame) :
    OnlyLinks s (headTake s n f) ∧ (headTake s n f).out = s.out ∧ ∃ c u r pa ta, getLink (headTake s n f) n
      = { getLink s n with credits := c, unacked := u, rpl := r, progressAt := pa, ackTo := ta } := by
  unfold headTake
  extract_lets s1 held
  have h1 : getLink s1 n = { getLink s n with
    credits := listMod (getLink s n).credits f.cvc.toNat (fun c => min 512 (c + f.ccnt.toNat)) } := getLink_modLink_same _ _ _
  split
  · split
    · refine ⟨rfl, rfl, ?_⟩
      rw [getLink_progress, getLink_modLink_same, h1]
      exact ⟨_, _, _, _, _, rfl⟩
    · exact ⟨rfl, rfl, _, _, _, _, _, h1⟩
  · exact ⟨rfl, rfl, _, _, _, _, _, h1⟩

/-- A header that acknowledges frames up to the i-th frees them, and starts the replay timer anew. -/
theorem headTake_acks {s : State} {n i : Nat} {f : LFrame} (hv : f.ackv = true)
    (hi : (getLink s n).unacked.findIdx? (fun x => x.seq == f.ackseq.toNat) = some i) :
    (getLink (headTake s n f) n).unacked = (getLink s n).unacked.drop (i + 1) ∧ (getLink (headTake s n f) n).rpl = 0
      ∧ (getLink (headTake s n f) n).progressAt = eTime s := by
  unfold headTake
  extract_lets s1 held
  have h1 : getLink s1 n = { getLink s n with
    credits := listMod (getLink s n).credits f.cvc.toNat (fun c => min 512 (c + f.ccnt.toNat)) } := getLink_modLink_same _ _ _
  have hheld : held = (getLink s n).unacked := by rw [show held = (getLink s1 n).unacked from rfl, h1]
  rw [hheld, hi]
  simp only [hv, if_true]
  rw [getLink_progress, getLink_modLink_same, h1]
  exact ⟨rfl, rfl, rfl⟩

/-- A CTRL frame leaves with what has been received and the credits owed. -/
theorem sendCtrl_shown (s : State) (n : Nat) (rpl : Bool) :
    OnlyLinks s (sendCtrl s n rpl) ∧ ∃ c o x, (sendCtrl s n rpl).out = s.out ++ [.ctrl n c] ∧ c.rpl = rpl
      ∧ c.ackseq = BitVec.ofNat 12 (ackSeq (getLink s n))
      ∧ getLink (sendCtrl s n rpl) n = { getLink s n with owed := o, toAck := 0, txs := x } := by
  have hl := takeOwed_link (getLink s n)
  obtain ⟨v, c, l, ht⟩ : ∃ v c l, takeOwed (getLink s n) = (v, c, l) := ⟨_, _, _, rfl⟩
  rw [ht] at hl
  have hl : l = { getLink s n with owed := l.owed } := hl
  have hrun : sendCtrl s n rpl = emit (streamPush (modLink s n (fun _ => { l with toAck := 0 })) n (frameWire (ctrlOf l rpl v c) none))
      (.ctrl n (ctrlOf l rpl v c)) := by simp only [sendCtrl, ht]
  rw [hrun]
  refine ⟨rfl, ctrlOf l rpl v c, l.owed, (getLink s n).txs ++ frameWire (ctrlOf l rpl v c) none, rfl, rfl, ?_, ?_⟩
  · show BitVec.ofNat 12 (ackSeq l) = _
    rw [hl]; rfl
  · show getLink (streamPush (modLink s n (fun _ => { l with toAck := 0 })) n (frameWire (ctrlOf l rpl v c) none)) n = _
    rw [streamPush, getLink_modLink_same, getLink_modLink_same, hl]

/-- A packet without a meter goes on to OSW (R539). -/
theorem linkIn_unmetered {s : State} {n vc : Nat} {p : Packet} (h : (getMtr s (.llk n) (llkMeter s n p)).mode = 0) :
    linkIn s n vc p = modDie s (n / 12) (fun d => { d with osw := d.osw ++ [{ pkt := p, from_ := some (n, vc), held := true }] }) := by
  unfold linkIn
  extract_lets pass i
  have h : (getMtr s (.llk n) i).mode = 0 := h
  split
  · rfl
  · rfl

/-! ## Resends (R562, R563) -/

theorem getLink_of_onlyRegs {s u : State} (h : OnlyRegs s u) (n : Nat) : getLink u n = getLink s n := by rw [h]; rfl

/-- A frame sent again. -/
def frameAgain (n : Nat) (l : Link) (s : State) (x : TxFrame) : State :=
  emit (streamPush s n (frameWire (dataOf l x) (some x.pkt))) (.data n (dataOf l x) x.pkt)

theorem foldl_frameAgain (n : Nat) (l : Link) (xs : List TxFrame) (s : State) :
    let u := xs.foldl (frameAgain n l) s
    (∃ t, getLink u n = { getLink s n with txs := t }) ∧ (∀ m ∈ s.out, m ∈ u.out) ∧ ∀ x ∈ xs, OutMsg.data n (dataOf l x) x.pkt ∈ u.out := by
  induction xs generalizing s with
  | nil => exact ⟨⟨_, rfl⟩, fun _ h => h, fun x hx => by cases hx⟩
  | cons x xs ih =>
    obtain ⟨⟨t, hl⟩, hout, hall⟩ := ih (frameAgain n l s x)
    have hx : getLink (frameAgain n l s x) n = { getLink s n with txs := (getLink s n).txs ++ frameWire (dataOf l x) (some x.pkt) } :=
      (show getLink (streamPush s n _) n = _ by rw [streamPush, getLink_modLink_same])
    have hin : OutMsg.data n (dataOf l x) x.pkt ∈ (frameAgain n l s x).out := List.mem_append_right _ (List.mem_singleton_self _)
    refine ⟨⟨t, by rw [List.foldl_cons, hl, hx]⟩, fun m hm => hout m (List.mem_append_left _ hm), fun y hy => ?_⟩
    rcases List.mem_cons.1 hy with rfl | hy
    · exact hout _ hin
    · exact hall y hy

/-- Every frame not acknowledged is sent again with its sequence number and VC. -/
theorem resendAll_shown {s : State} {n : Nat} (h : stopped s (.llk n) = false) :
    let u := resendAll s n
    (getLink u n).unacked = (getLink s n).unacked ∧ (getLink u n).rpl = (getLink s n).rpl
      ∧ ∀ x ∈ (getLink s n).unacked, ∃ f, OutMsg.data n f x.pkt ∈ u.out ∧ f.seq = BitVec.ofNat 12 x.seq ∧ f.vc = BitVec.ofNat 2 x.vc := by
  obtain ⟨z, hz, hu⟩ : ∃ z, ((getLink z n).unacked = (getLink s n).unacked ∧ (getLink z n).rpl = (getLink s n).rpl)
      ∧ resendAll s n = (getLink s n).unacked.foldl (frameAgain n (getLink s n)) z := by
    refine ⟨progress (modLink s n (fun l => { l with resend := false, toAck := 0 })) n, ?_, ?_⟩
    · rw [progress, getLink_modLink_same, getLink_modLink_same]; exact ⟨rfl, rfl⟩
    · rw [resendAll, h, if_neg (by decide)]; rfl
  obtain ⟨⟨t, hl⟩, -, hall⟩ := foldl_frameAgain n (getLink s n) (getLink s n).unacked z
  intro u
  have hu : u = _ := hu
  rw [← hu] at hl hall
  exact ⟨by rw [hl]; exact hz.1, by rw [hl]; exact hz.2, fun x hx => ⟨_, hall x hx, rfl, rfl⟩⟩

/-- A bucket that is off counts the error and nothing else (R694). -/
theorem bucketErr_off {s : State} {kind : Nat} (h : bktThr s kind = 0) (inst : Nat) :
    bucketErr s kind inst = setBkt s kind inst { getBkt s kind inst with errs := satAdd 16 (getBkt s kind inst).errs 1 } := by
  unfold bucketErr
  extract_lets b thr b1
  exact if_pos h

theorem rfld_addFld_hi (s : State) (p : Page) (off : Nat) :
    rfld (addFld s p off 31 16 1) p off 31 16 = Nat.min (rfld s p off 31 16 + 1) 0xFFFF := by
  rw [addFld, rfld_putFld_same _ _ _ _ _ _ (by decide) (by decide)]
  simp only [satAdd]
  exact Nat.mod_eq_of_lt (Nat.lt_of_le_of_lt (Nat.min_le_right _ _) (by decide))

/-- A replay below its limit, with the link's bucket off. -/
theorem replay_shown {s : State} {n : Nat} (h5 : llkState s n = 5) (hoff : bktThr s 1 = 0) (hrun : stopped s (.llk n) = false)
    (hne : (getLink s n).unacked ≠ [])
    (hmost : (getLink s n).rpl + 1 < (if (getLink s n).rpl = 0 then rfld s (.llk n) 0x090 3 0 else (getLink s n).rplMax)) :
    let u := replay s n
    (getLink u n).rpl = (getLink s n).rpl + 1 ∧ (getLink u n).unacked = (getLink s n).unacked
      ∧ (∀ x ∈ (getLink s n).unacked, ∃ f, OutMsg.data n f x.pkt ∈ u.out ∧ f.seq = BitVec.ofNat 12 x.seq ∧ f.vc = BitVec.ofNat 2 x.vc)
      ∧ rfld u (.llk n) 0x0A4 31 16 = Nat.min (rfld s (.llk n) 0x0A4 31 16 + 1) 0xFFFF
      ∧ RegsEvents s u [regKey (.llk n) 0x0A4] ∧ u.mem = s.mem := by
  obtain ⟨x, xs, hx⟩ := List.exists_cons_of_ne_nil hne
  obtain ⟨most, hm⟩ : ∃ most, (if (getLink s n).rpl = 0 then rfld s (.llk n) 0x090 3 0 else (getLink s n).rplMax) = most := ⟨_, rfl⟩
  rw [hm] at hmost
  obtain ⟨s1, hs1⟩ : ∃ s1, addFld (modLink s n (fun l => { l with rpl := l.rpl + 1, rplMax := most })) (.llk n) 0x0A4 31 16 1 = s1 := ⟨_, rfl⟩
  obtain ⟨s2, hs2⟩ : ∃ s2, sillage s1 (.llk n) 0x62 false 0 0 (BitVec.ofNat 32 ((x.seq + 4095) % 4096)) = s2 := ⟨_, rfl⟩
  have hev : Events s1 s2 [] := hs2 ▸ events_sillage s1 _ _ _ _ _ _ _
  have hfr : EventFrame s1 s2 := hs2 ▸ eventFrame_sillage s1 _ _ _ _ _ _
  have hl1 : getLink s1 n = { getLink s n with rpl := (getLink s n).rpl + 1, rplMax := most } := by
    rw [← hs1]
    exact (getLink_of_onlyRegs (onlyRegs_putFld _ _ _ _ _ _) n).trans (getLink_modLink_same s n _)
  have hl2 : (getLink s2 n).rpl = (getLink s n).rpl + 1 ∧ (getLink s2 n).unacked = (getLink s n).unacked := by
    rw [hev.2.1 n, hl1]; exact ⟨rfl, rfl⟩
  have hregs1 : RegsBut s s1 [regKey (.llk n) 0x0A4] := by
    rw [← hs1]
    exact fun p o hk => (regsBut_putFld _ (.llk n) 0x0A4 _ _ _ _ (by simp) p o hk).trans rfl
  have hcnt1 : rfld s1 (.llk n) 0x0A4 31 16 = Nat.min (rfld s (.llk n) 0x0A4 31 16 + 1) 0xFFFF := by
    rw [← hs1, rfld_addFld_hi]; rfl
  have hmem1 : s1.mem = s.mem := by rw [← hs1]; rfl
  have hthr : bktThr s2 1 = 0 := by
    have h1 : rawReg s1 .scr 0x108 = rawReg s .scr 0x108 := hregs1 _ _ (by simp only [List.mem_singleton, regKey, pageBase]; omega)
    rw [← hoff]
    exact rfld_of_raw _ _ ((hev.rawReg_eq List.not_mem_nil (evKey_eq_false (by decide) (by decide) (by decide))).trans h1)
  have h14 : ∀ o, QuietOff o → o ≠ 0x0A4 → rawReg s2 (.llk n) o = rawReg s (.llk n) o := fun o ho hn =>
    (hfr.quiet _ _ ho).trans (hregs1 _ _ (by simp only [List.mem_singleton, regKey]; omega))
  have h52 : llkState s2 n = 5 := by
    rw [← h5]
    exact rfld_of_raw _ _ ((hev.rawReg_eq List.not_mem_nil (evKey_llk (by decide) (by decide))).trans
      (hregs1 _ _ (by simp only [List.mem_singleton, regKey]; omega)))
  obtain ⟨s3, hs3⟩ : ∃ s3, setBkt s2 1 n { getBkt s2 1 n with errs := satAdd 16 (getBkt s2 1 n).errs 1 } = s3 := ⟨_, rfl⟩
  have hrep : replay s n = resendAll s3 n := by
    simp only [replay, hx]
    rw [hm, hs1, hs2, bucketErr_off hthr, hs3, if_neg (by rw [← hs3]; exact not_not.2 h52), if_neg (by omega)]
  have hl3 : ∀ k, getLink s3 k = getLink s2 k := fun k => by rw [← hs3]; rfl
  have hr3 : ∀ p o, rawReg s3 p o = rawReg s2 p o := fun p o => by rw [← hs3]; rfl
  have hm3 : s3.mem = s2.mem := by rw [← hs3]; rfl
  have hst3 : stopped s3 (.llk n) = false := by
    rw [← hrun, stopped, rbit, rfld_of_raw _ _ (hr3 _ _), rfld_of_raw _ _ (h14 0x014 ⟨by decide, by decide⟩ (by decide))]; rfl
  obtain ⟨hun, hrpl, hall⟩ := resendAll_shown hst3
  have honly := onlyLinks_resendAll s3 n
  rw [hrep]
  rw [hl3] at hun hrpl hall
  refine ⟨hrpl.trans hl2.1, hun.trans hl2.2, by rw [← hl2.2]; exact hall, ?_, fun p o hk he => ?_, ?_⟩
  · rw [← hcnt1]
    exact rfld_of_raw _ _ (((honly.rawReg _ _).trans (hr3 _ _)).trans (hev.rawReg_eq List.not_mem_nil (evKey_llk (by decide) (by decide))))
  · exact (((honly.rawReg _ _).trans (hr3 _ _)).trans (hev.rawReg_eq List.not_mem_nil he)).trans (hregs1 p o hk)
  · exact ((honly.mem.trans hm3).trans hev.mem).trans hmem1

/-! ## Frames that arrive -/

/-- The packet of a frame: the frame marks its data and its end (Table 13.1). -/
def framed (f : LFrame) (p : Packet) : Packet :=
  { p with data := p.data.map (fun y => { y with poi := f.poi }), endb := f.endb.toNat }

theorem getMtr_of_link {s u : State} {n : Nat} (h : (getLink u n).mtr = (getLink s n).mtr) (i : Nat) :
    getMtr u (.llk n) i = getMtr s (.llk n) i := congrArg (tabGet ({} : Meter) · i) h

theorem llkMeter_framed {s u : State} (hr : ∀ p o, rawReg u p o = rawReg s p o) (n : Nat) (f : LFrame) (p : Packet) :
    llkMeter u n (framed f p) = llkMeter s n p := by
  have hg : gReg u (.llk n) 0x184 1 0 = gReg s (.llk n) 0x184 1 0 := rfld_of_raw _ _ (hr _ _)
  simp only [llkMeter, hg, framed]

/-- What a good frame in order leaves of its link before its packet goes on. -/
def frameTaken (s : State) (n : Nat) (f : LFrame) : State :=
  modLink (headTake s n f) n (fun l => { l with
    rxSeq := (l.rxSeq + 1) % 4096, rxAny := true, disc := false, toAck := l.toAck + 1,
    ackSince := if l.toAck = 0 then eTime s else l.ackSince })

theorem frameTaken_shown (s : State) (n : Nat) (f : LFrame) :
    OnlyLinks s (frameTaken s n f) ∧ (getLink (frameTaken s n f) n).rxSeq = ((getLink s n).rxSeq + 1) % 4096
      ∧ (getLink (frameTaken s n f) n).disc = false ∧ (getLink (frameTaken s n f) n).mtr = (getLink s n).mtr := by
  obtain ⟨h1, -, c, u, r, pa, ta, hl⟩ := headTake_shown s n f
  have h2 : OnlyLinks (headTake s n f) (frameTaken s n f) := rfl
  refine ⟨h1.trans h2, ?_⟩
  rw [frameTaken, getLink_modLink_same, hl]
  exact ⟨rfl, rfl, rfl⟩

theorem dataFrame_good {s : State} {n : Nat} {f : LFrame} {p : Packet} (h5 : llkState s n = 5) (hok : frameOk f (some p) = true)
    (hseq : f.seq.toNat = (getLink s n).rxSeq) (hrpl : f.rpl = false) :
    let z := linkIn (frameTaken s n f) n f.vc.toNat (framed f p)
    dataFrame s n f p = if 16 ≤ (getLink z n).toAck then sendCtrl z n false else z := by
  simp only [dataFrame, h5, hok, hseq, hrpl, ne_eq, not_true_eq_false, if_false, Bool.true_eq_false, Bool.false_eq_true]
  rfl

theorem dataFrame_ahead {s : State} {n : Nat} {f : LFrame} {p : Packet} (h5 : llkState s n = 5) (hok : frameOk f (some p) = true)
    (hseq : f.seq.toNat ≠ (getLink s n).rxSeq) (hd : (getLink s n).disc = false) :
    dataFrame s n f p = sendCtrl (modLink s n (fun l => { l with disc := true })) n true := by
  simp only [dataFrame, h5, hok, hseq, ne_eq, not_true_eq_false, not_false_eq_true, if_false, if_true, Bool.true_eq_false,
    frameRefuse, hd, Bool.false_eq_true]

theorem ctrlFrame_plain {s : State} {n : Nat} {f : LFrame} (h5 : llkState s n = 5) (hok : frameOk f none = true)
    (hrpl : f.rpl = false) : ctrlFrame s n f = headTake s n f := by
  simp only [ctrlFrame, h5, hok, hrpl, ne_eq, not_true_eq_false, if_false, Bool.true_eq_false, Bool.false_eq_true]

theorem OnlyLinks.regsBut {s u : State} (h : OnlyLinks s u) : RegsBut s u [] := fun p o _ => h.rawReg p o

theorem OnlyLinks.getDie {s u : State} (h : OnlyLinks s u) (d : Nat) : getDie u d = Machine.getDie s d := by rw [h]; rfl

/-- Settles O44. -/
theorem linkFramesAct : Obligations.LinkFramesAct := by
  constructor
  · intro s n f p h5 l
    refine ⟨fun hok hseq hrpl hmtr => ?_, fun hok hseq hd => ?_, fun i hok hrpl hv hi => ?_⟩
    · obtain ⟨ht, hrx, hdisc, hm⟩ := frameTaken_shown s n f
      have hrun := dataFrame_good h5 hok hseq hrpl
      have hin : linkIn (frameTaken s n f) n f.vc.toNat (framed f p) = modDie (frameTaken s n f) (n / 12) (fun d => { d with
          osw := d.osw ++ [{ pkt := framed f p, from_ := some (n, f.vc.toNat), held := true }] }) :=
        linkIn_unmetered (by rw [getMtr_of_link hm, llkMeter_framed ht.rawReg]; exact hmtr)
      rw [hin] at hrun
      generalize frameTaken s n f = y at ht hrx hdisc hm hrun hin
      obtain ⟨z, hz⟩ : ∃ z, modDie y (n / 12) (fun d => { d with
          osw := d.osw ++ [{ pkt := framed f p, from_ := some (n, f.vc.toNat), held := true }] }) = z := ⟨_, rfl⟩
      have hdie : (getDie z (n / 12)).osw = (getDie s (n / 12)).osw
          ++ [{ pkt := framed f p, from_ := some (n, f.vc.toNat), held := true }] := by
        rw [← hz, getDie_modDie_same, ht.getDie]
      have hlz : getLink z n = getLink y n := by rw [← hz]; rfl
      have hrz : RegsBut s z [] := fun q o _ => by rw [← hz]; exact ht.rawReg q o
      have hmz : z.mem = s.mem := by rw [← hz]; exact ht.mem
      rw [hz] at hrun
      refine ⟨_, { pkt := framed f p, from_ := some (n, f.vc.toNat), held := true },
        show execDataFrame n f p s = _ from congrArg Host.Outcome.next hrun, ?_⟩
      split
      · obtain ⟨hc, c, o, x, -, -, -, hlc⟩ := sendCtrl_shown z n false
        refine ⟨?_, ?_, (congrArg Die.osw (hc.getDie _)).trans hdie, rfl, rfl, rfl, hrz.trans hc.regsBut, hc.mem.trans hmz⟩
        · rw [hlc, hlz]; exact hrx
        · rw [hlc, hlz]; exact hdisc
      · exact ⟨by rw [hlz, hrx], by rw [hlz, hdisc], hdie, rfl, rfl, rfl, hrz, hmz⟩
    · obtain ⟨z, hz⟩ : ∃ z, modLink s n (fun l => { l with disc := true }) = z := ⟨_, rfl⟩
      have hlz : getLink z n = { getLink s n with disc := true } := by rw [← hz, getLink_modLink_same]
      have hsz : OnlyLinks s z := by rw [← hz]; rfl
      have hoz : z.out = s.out := by rw [← hz]; rfl
      obtain ⟨hc, c, o, x, hout, hr, ha, hlc⟩ := sendCtrl_shown z n true
      have hrun := dataFrame_ahead h5 hok hseq hd
      rw [hz] at hrun
      refine ⟨_, c, show execDataFrame n f p s = _ from congrArg Host.Outcome.next hrun, by rw [hout, hoz], hr, ?_, ?_, ?_,
        congrArg Die.osw ((hsz.trans hc).getDie _), (hsz.trans hc).regsBut, (hsz.trans hc).mem⟩
      · rw [ha, hlz]; rfl
      · rw [hlc, hlz]
      · rw [hlc, hlz]
    · obtain ⟨h1, h2, h3⟩ := headTake_acks hv hi
      obtain ⟨ho, hout, -⟩ := headTake_shown s n f
      exact ⟨_, show execCtrlFrame n f s = _ from congrArg Host.Outcome.next (ctrlFrame_plain h5 hok hrpl), h1, h2, h3, ho.regsBut, hout, ho.mem⟩
  · intro s n h5 hoff l
    refine ⟨fun hack hdue => ?_, fun hrun hto hne hdue hmost => ?_⟩
    · obtain ⟨hc, c, o, x, hout, hr, ha, hlc⟩ := sendCtrl_shown s n false
      have hnow : atLeast s (l.ackSince + ticks 200) = s := atLeast_of_due (by simp only [ticks]; omega) hdue
      refine ⟨sendCtrl s n false, c, ?_, hout, hr, ha, by rw [hlc], hc.regsBut, hc.mem⟩
      show execAckTimer n s = _
      rw [execAckTimer]
      simp only [h5, hack, hnow, l, ne_eq, not_false_eq_true, and_self, if_true]
    · have hnow : atLeast s (l.progressAt + ticks l.ackTo) = s := atLeast_of_due (by simp only [ticks]; omega) hdue
      refine ⟨replay s n, ?_, replay_shown h5 hoff hrun hne hmost⟩
      show execReplayTimeout n s = _
      rw [execReplayTimeout]
      simp only [h5, hrun, hto, hne, hnow, l, ne_eq, not_false_eq_true, and_self, if_true]

end Sys2Proof.Machine
end

section
/-! PROOFS. LF-128 blocks, failed words of a clock crossing, and packets in OSW (sections 13.1, 13.5 and 2.6). -/

namespace Sys2Proof.Machine

/-! ## Blocks (R551, R552, R555) -/

theorem laneMask_active {s : State} {n : Nat} (h5 : llkState s n = 5) : laneMask s n = llkLanes s n := by
  rw [laneMask, if_neg (by omega)]

/-- A block leaves an active link. -/
theorem blockSend_shown {s : State} {n : Nat} (h5 : llkState s n = 5) :
    let u := blockSend s n
    OnlyLinks s u ∧ getLink u n = { getLink s n with txs := (getLink s n).txs.drop 128, sbq := (getLink s n).sbq.tail }
      ∧ u.out = s.out ++ [.block n (lfShares (lanesOf (llkLanes s n)) (sbLane s n true) ((getLink s n).sbq.headD 0)
          (nextStream (getLink s n)))] := by
  have hu : blockSend s n = emit (modLink s n (fun l => { l with txs := l.txs.drop 128, sbq := l.sbq.tail }))
      (.block n (lfShares (lanesOf (llkLanes s n)) (sbLane s n true) ((getLink s n).sbq.headD 0) (nextStream (getLink s n)))) := by
    rw [blockSend, if_neg (by omega), laneMask_active h5]
  refine ⟨by rw [hu]; rfl, ?_, by rw [hu]; rfl⟩
  rw [hu]
  exact getLink_modLink_same s n (fun l => { l with txs := l.txs.drop 128, sbq := l.sbq.tail })

/-- A block whose lanes keep alignment, within the reach of the spec. -/
theorem blockTake_plain {s : State} {n : Nat} {b : LfBlock} {f : Fec} (h5 : llkState s n = 5)
    (hf : fecOf (b.errs.filter (fun e => (lanesOf (llkLanes s n)).contains e.1)) = f) (hne : f ≠ .beyond) :
    blockTake s n b [] [] = blockCount (modLink s n (fun l => { l with blk := blockGive s n f b.shares 0 })) n f := by
  have hnone : ∀ l : List Nat, l.filter ([] : List Nat).contains = [] := fun l => List.filter_eq_nil_iff.2 (by simp)
  unfold blockTake
  rw [if_neg (by omega), laneMask_active h5]
  extract_lets act f0
  have hf0 : f0 = f := hf
  rw [if_neg (by rw [hf0]; exact hne)]
  dsimp only
  rw [if_neg (fun h => hne (hf0 ▸ h.1)), hf0, hnone]
  rfl

theorem blockGive_good {s : State} {n : Nat} {f : Fec} (h5 : llkState s n = 5) (hf : f = .clean ∨ ∃ k c, f = .fixed k c)
    (shares : List (List Byte)) (v : Nat) :
    blockGive s n f shares v = some (lfBytes (lanesOf (llkLanes s n)) (sbLane s n false) shares) := by
  rcases hf with rfl | ⟨k, c, rfl⟩ <;> exact congrArg (fun m => some (lfBytes (lanesOf m) _ shares)) (laneMask_active h5)

/-- A block without a wave code in its sideband. -/
theorem execLf128Block_quiet {s : State} {n : Nat} {b : LfBlock} (h : ∀ x, (getLink (blockTake s n b [] []) n).blk = some x → x.1.toNat < 128) :
    execLf128Block n b [] [] s = .next (blockSend (blockTake s n b [] []) n) := by
  rw [execLf128Block]
  generalize blockTake s n b [] [] = z at h ⊢
  cases hb : (getLink z n).blk with
  | none => rfl
  | some x =>
    have hx := h x hb
    dsimp only
    rw [if_neg (by omega)]

theorem OnlyLinks.sbLane {s u : State} (h : OnlyLinks s u) {n : Nat} (hsel : (getLink u n).lanesel = (getLink s n).lanesel)
    (hdet : (getLink u n).det = (getLink s n).det) (out : Bool) : sbLane u n out = Machine.sbLane s n out := by
  have hrole : accRole u n = accRole s n := rfld_of_raw _ _ (h.rawReg _ _)
  have hlane : accLane u n = accLane s n := by
    have hst : accState u n = accState s n := rfld_of_raw _ _ (h.rawReg _ _)
    rw [accLane, accLane, hst, getAcc, getAcc, h]
  have hst : llkState u n = llkState s n := rfld_of_raw _ _ (h.rawReg _ _)
  have hl : llkLanes u n = llkLanes s n := rfld_of_raw _ _ (h.rawReg _ _)
  have hmask : laneMask u n = laneMask s n := by rw [laneMask, laneMask, hst, hl, hdet]
  rw [Machine.sbLane, Machine.sbLane, hrole, hlane, hsel, hmask]

/-! ## Failed words (R86) -/

theorem getBkt_setBkt (s : State) (kind inst : Nat) (b : Bucket) : getBkt (setBkt s kind inst b) kind inst = b :=
  tabGet_tabPut_same _ _ _ _

/-- An error in a bucket that is off. -/
theorem bucketErr_shown {s : State} {kind : Nat} (h : bktThr s kind = 0) (inst : Nat) :
    let u := bucketErr s kind inst
    (getBkt u kind inst).errs = Nat.min ((getBkt s kind inst).errs + 1) 0xFFFF
      ∧ (getBkt u kind inst).level = (getBkt s kind inst).level ∧ RegsBut s u [] ∧ u.mem = s.mem ∧ getLink u = getLink s := by
  intro u
  have hu : u = _ := bucketErr_off h inst
  have hb := getBkt_setBkt s kind inst { getBkt s kind inst with errs := satAdd 16 (getBkt s kind inst).errs 1 }
  rw [← hu] at hb
  exact ⟨by rw [hb]; rfl, by rw [hb], by rw [hu]; exact fun _ _ _ => rfl, by rw [hu]; rfl, by rw [hu]; rfl⟩

theorem linkErr_off {s : State} {n : Nat} (h : bktThr s 1 = 0) (code : Nat) : linkErr s n code = bucketErr s 1 n := by
  have hst : llkState (bucketErr s 1 n) n = llkState s n :=
    rfld_of_raw _ _ ((bucketErr_shown h n).2.2.1 _ _ (by simp))
  rw [linkErr, hst]
  exact if_neg (fun h => h.2 h.1)

/-! ## Packets in OSW (R579 to R580, R559) -/

/-- The oldest packet taken out of OSW, and its place in an ingress buffer owed. -/
def oswTaken (s : State) (d : Nat) (x : Transit) (rest : List Transit) : State :=
  let s1 := modDie s d (fun g => { g with osw := rest })
  match x.from_ with
  | some f => if x.held then owe s1 f.1 f.2 (x.pkt.data.length + 1) else s1
  | none => s1

theorem oswPacket_eq {s : State} {d : Nat} {x : Transit} {rest : List Transit} (hq : (getDie s d).osw = x :: rest)
    (hs : stopped s (.osw d) = false) (hd : dieFitted s d) : oswPacket s d = oswRoute (oswTaken s d x rest) d x := by
  unfold oswPacket oswTaken
  rw [hq]
  dsimp only
  exact if_neg (by simp [hs, hd])

theorem getLink_owe_eg (s : State) (n vc flits m : Nat) : (getLink (owe s n vc flits) m).eg = (getLink s m).eg := by
  rw [owe]
  by_cases h : m = n
  · subst h
    rw [getLink_modLink_same]
  · rw [getLink_modLink_ne _ _ _ _ h]

theorem oswTaken_shown (s : State) (d : Nat) (x : Transit) (rest : List Transit) :
    let u := oswTaken s d x rest
    (∃ l t, u = { s with links := l, dies := t }) ∧ getDie u d = { getDie s d with osw := rest }
      ∧ ∀ m, (getLink u m).eg = (getLink s m).eg := by
  have hdie := getDie_modDie_same s d (fun g => { g with osw := rest })
  intro u
  have hu : u = oswTaken s d x rest := rfl
  unfold oswTaken at hu
  dsimp only at hu
  split at hu
  · split at hu
    · rw [hu]
      exact ⟨⟨_, _, rfl⟩, hdie, fun m => getLink_owe_eg _ _ _ _ m⟩
    · rw [hu]
      exact ⟨⟨_, _, rfl⟩, hdie, fun m => rfl⟩
  · rw [hu]
    exact ⟨⟨_, _, rfl⟩, hdie, fun m => rfl⟩

theorem podSize_congr {s u : State} (h : ∀ o, rawReg u (.osw 0) o = rawReg s (.osw 0) o) (d : Nat) : podSize u d = podSize s d := by
  unfold podSize rfld
  rw [h]

theorem offPod_congr {s u : State} (h : ∀ o, rawReg u (.osw 0) o = rawReg s (.osw 0) o) (pkg : Nat) : offPod u pkg = offPod s pkg := by
  unfold offPod
  simp only [podSize_congr h]

theorem podDir_congr {s u : State} (h : ∀ o, rawReg u (.osw 0) o = rawReg s (.osw 0) o) (pkg : Nat) : podDir u pkg = podDir s pkg := by
  unfold podDir
  simp only [podSize_congr h, show ownPkg u = ownPkg s from rfld_of_raw _ _ (h _)]

theorem podLink_congr {s u : State} (h : ∀ p o, rawReg u p o = rawReg s p o) (d dir : Nat) (p : Packet) :
    podLink u d dir p = podLink s d dir p := by
  have hup : linkUp u = linkUp s := funext fun n => by rw [linkUp, linkUp, rfld_of_raw 3 0 (h (.llk n) 0x084)]
  rw [podLink, podLink, hup]

/-- A packet for another package joins its class at the link on its way (R579, R580). -/
theorem oswRoute_away {s : State} {d dir m : Nat} {x : Transit} (hown : nodePkg x.pkt.dst ≠ ownPkg s) (hon : rbit s (.osw 0) 0x088 0 = true)
    (hoff : offPod s (nodePkg x.pkt.dst) = false) (hdir : podDir s (nodePkg x.pkt.dst) = some dir)
    (hlink : podLink s d dir x.pkt = some m) :
    oswRoute s d x = llkFix (modLink s m (fun l => { l with
      eg := tabPut l.eg x.pkt.tc.toNat (tabGet [] l.eg x.pkt.tc.toNat ++ [{ x with held := false }]) })) m := by
  unfold oswRoute
  dsimp only
  rw [if_neg hown, if_neg (by simp [hon, hoff]), hdir]
  dsimp only
  rw [hlink]

theorem llkFix_shown (s : State) (n : Nat) : let u := llkFix s n
    OnlyLinks s u ∧ (getLink u n).eg = (getLink s n).eg := by
  obtain ⟨g, sh, sc, hl⟩ := (egressKept_llkFix s n).link
  refine ⟨?_, by rw [hl]⟩
  unfold llkFix schFix
  dsimp only
  split <;> rfl

/-- Settles O45: a block, a failed word and a packet in OSW. -/
theorem linkErrorsCounted : Obligations.LinkErrorsCounted := by
  unfold Obligations.LinkErrorsCounted
  intro s n
  refine ⟨fun h5 b => ?_, ?_, rfl, fun d x rest hq hs hd => ?_⟩
  · extract_lets act fec got count
    have htake (f : Fec) (hf : fec = f) (hne : f ≠ .beyond) : blockTake s n b [] [] = _ := blockTake_plain h5 hf hne
    refine ⟨fun hf hlow => ?_, fun k c hf hc hlow => ?_, fun hf hoff => ?_⟩
    · obtain ⟨z, hz⟩ : ∃ z, blockTake s n b [] [] = z := ⟨_, rfl⟩
      have hzt : z = modLink s n (fun l => { l with blk := some got }) := by
        rw [← hz, htake _ hf (by simp), blockGive_good h5 (.inl rfl)]; rfl
      have hl : getLink z n = { getLink s n with blk := some got } := by rw [hzt, getLink_modLink_same]
      have ho : OnlyLinks s z := by rw [hzt]; rfl
      have hz5 : llkState z n = 5 := (rfld_of_raw _ _ (ho.rawReg _ _)).trans h5
      have hlanes : llkLanes z n = llkLanes s n := rfld_of_raw _ _ (ho.rawReg _ _)
      obtain ⟨hu, hlu, hout⟩ := blockSend_shown hz5
      refine ⟨blockSend z n, ?_, by rw [hlu, hl], by rw [hlu, hl], ?_, (ho.trans hu).regsBut, (ho.trans hu).mem⟩
      · rw [← hz]
        exact execLf128Block_quiet (fun x hx => by rw [hz, hl] at hx; cases hx; exact hlow)
      · rw [hout, hlanes, ho.sbLane (by rw [hl]) (by rw [hl]), hl, hzt]
        rfl
    · obtain ⟨z, hz⟩ : ∃ z, blockTake s n b [] [] = z := ⟨_, rfl⟩
      obtain ⟨y, hy⟩ : ∃ y, modLink s n (fun l => { l with blk := some got }) = y := ⟨_, rfl⟩
      have hzt : z = addFld (addFld y (.llk n) 0x0A0 15 0 1) (.llk n) 0x040 15 0 1 := by
        rw [← hz, htake _ hf (by simp), blockGive_good h5 (.inr ⟨k, c, rfl⟩), hy, blockCount]
        exact if_neg (by omega)
      have hyr : ∀ p o, rawReg y p o = rawReg s p o := fun p o => by rw [← hy]; rfl
      have hym : y.mem = s.mem := by rw [← hy]; rfl
      have hzl : getLink z n = getLink y n := by rw [hzt]; rfl
      have hl : (getLink z n).blk = some got := by rw [hzl, ← hy, getLink_modLink_same]
      have hz5 : llkState z n = 5 := by
        rw [hzt, addFld, llkState, rfld_putFld_off (h := by decide), addFld, rfld_putFld_off (h := by decide)]
        exact (rfld_of_raw _ _ (hyr _ _)).trans h5
      obtain ⟨hu, hlu, -⟩ := blockSend_shown hz5
      refine ⟨blockSend z n, ?_, by rw [hlu, hl], ?_, ?_, ?_⟩
      · rw [← hz]
        exact execLf128Block_quiet (fun x hx => by rw [hz, hl] at hx; cases hx; exact hlow)
      · show rfld (blockSend z n) (.llk n) 0x0A0 15 0 = _
        rw [rfld_of_raw 15 0 (hu.rawReg _ _), hzt, addFld, rfld_putFld_off (h := by decide), rfld_addFld_one,
          rfld_of_raw 15 0 (hyr _ _)]
      · intro p o hp he
        have hc : rawReg z p o = rawReg (addFld y (.llk n) 0x0A0 15 0 1) p o := by
          rw [hzt]
          exact (events_corrected _ (.llk n) 1 []).rawReg_eq (by simp) he
        rw [hu.rawReg, hc, addFld, regsBut_putFld y (.llk n) 0x0A0 _ _ _ [regKey (.llk n) 0x0A0] (by simp) p o hp, hyr]
      · rw [hu.mem, hzt]
        exact hym
    · obtain ⟨z, hz⟩ : ∃ z, blockTake s n b [] [] = z := ⟨_, rfl⟩
      obtain ⟨y, hy⟩ : ∃ y, modLink s n (fun l => { l with blk := none }) = y := ⟨_, rfl⟩
      obtain ⟨x, hx⟩ : ∃ x, addFld y (.llk n) 0x0A0 31 16 1 = x := ⟨_, rfl⟩
      have hyr : ∀ p o, rawReg y p o = rawReg s p o := fun p o => by rw [← hy]; rfl
      have hxr : RegsBut s x [regKey (.llk n) 0x0A0] := fun p o hp => by
        rw [← hx, addFld, regsBut_putFld y (.llk n) 0x0A0 _ _ _ [regKey (.llk n) 0x0A0] (by simp) p o hp, hyr]
      have hxoff : bktThr x 1 = 0 := (rfld_of_raw _ _ (hxr _ _ (by
        simp only [List.mem_singleton]; exact regKey_ne_of_off (o := 0x108) (r := 0x0A0) (by decide) (by decide) (by decide)))).trans hoff
      have hzt : z = bucketErr x 1 n := by
        rw [← hz, htake _ hf (by simp), ← linkErr_off hxoff 0x10, ← hx, ← hy]
        rfl
      obtain ⟨-, -, hbr, hbm, hbl⟩ := bucketErr_shown hxoff n
      rw [← hzt] at hbr hbm hbl
      have hl : (getLink z n).blk = none := by
        rw [hbl, ← hx, show getLink (addFld y (.llk n) 0x0A0 31 16 1) n = getLink y n from rfl, ← hy, getLink_modLink_same]
      have hzr : RegsBut s z [regKey (.llk n) 0x0A0] := fun p o hp => (hbr p o (by simp)).trans (hxr p o hp)
      have hz5 : llkState z n = 5 := (rfld_of_raw _ _ (hzr _ _ (by
        simp only [List.mem_singleton]; exact regKey_ne_of_off (o := 0x084) (r := 0x0A0) (by decide) (by decide) (by decide)))).trans h5
      obtain ⟨hu, hlu, -⟩ := blockSend_shown hz5
      refine ⟨blockSend z n, ?_, by rw [hlu, hl], ?_, fun p o hp _ => (hu.rawReg p o).trans (hzr p o hp), ?_⟩
      · rw [← hz]
        exact execLf128Block_quiet (fun y hy => by rw [hz, hl] at hy; cases hy)
      · show rfld (blockSend z n) (.llk n) 0x0A0 31 16 = _
        rw [rfld_of_raw 31 16 (hu.rawReg _ _), rfld_of_raw 31 16 (hbr _ _ (by simp)), ← hx, rfld_addFld_hi,
          rfld_of_raw 31 16 (hyr _ _)]
      · rw [hu.mem, hbm, ← hx, ← hy]
        rfl
  · rintro g kind inst h hoff
    have hb := bucketErr_shown hoff inst
    obtain ⟨h1, h2, h3, h4, -⟩ := hb
    rcases h with ⟨rfl, rfl, hd⟩ | ⟨rfl, rfl, hd⟩ | ⟨x, e, rfl, rfl, rfl, hp⟩
    · exact ⟨_, congrArg Host.Outcome.next ((if_pos hd).trans (linkErr_off hoff _)), h1, h2, h3, h4⟩
    · exact ⟨_, congrArg Host.Outcome.next (if_pos hd), h1, h2, h3, h4⟩
    · exact ⟨_, congrArg Host.Outcome.next (if_pos hp), h1, h2, h3, h4⟩
  · obtain ⟨⟨l, t, hz⟩, hdie, heg⟩ := oswTaken_shown s d x rest
    have hrun : exec (.oswPacket d) s = .next (oswRoute (oswTaken s d x rest) d x) := congrArg Host.Outcome.next (oswPacket_eq hq hs hd)
    generalize oswTaken s d x rest = z at hz hdie heg hrun
    have hraw : ∀ p o, rawReg z p o = rawReg s p o := fun p o => by rw [hz]; rfl
    have hmem : z.mem = s.mem := by rw [hz]
    refine ⟨fun hown hbusy => ?_, fun dir m hown hon hoff hdir hlink => ?_⟩
    · refine ⟨modDie z d (fun g => { g with out := g.out ++ [x.pkt] }), ?_, ?_, ?_, fun p o _ => hraw p o, hmem⟩
      · rw [hrun, oswRoute]
        dsimp only
        rw [show ownPkg z = ownPkg s from rfld_of_raw _ _ (hraw _ _), if_pos hown,
          show fabricBusy z = false by rw [hz]; exact hbusy]
        rfl
      · rw [getDie_modDie_same, hdie]
      · rw [getDie_modDie_same, hdie]
    · obtain ⟨y, hy⟩ : ∃ y, modLink z m (fun l => { l with
          eg := tabPut l.eg x.pkt.tc.toNat (tabGet [] l.eg x.pkt.tc.toNat ++ [{ x with held := false }]) }) = y := ⟨_, rfl⟩
      have hye : (getLink y m).eg = tabPut (getLink s m).eg x.pkt.tc.toNat
          (tabGet [] (getLink s m).eg x.pkt.tc.toNat ++ [{ x with held := false }]) := by
        rw [← hy, getLink_modLink_same, heg]
      have hyz : OnlyLinks z y := by rw [← hy]; rfl
      obtain ⟨hu, hue⟩ := llkFix_shown y m
      have hzu := hyz.trans hu
      refine ⟨llkFix y m, ?_, by rw [hzu.getDie, hdie], by rw [hzu.getDie, hdie], ?_, ?_, hzu.mem.trans hmem⟩
      · rw [hrun, ← hy]
        exact congrArg Host.Outcome.next (oswRoute_away (s := z) (x := x)
          (by rw [show ownPkg z = ownPkg s from rfld_of_raw _ _ (hraw _ _)]; exact hown)
          ((congrArg (· == 1) (rfld_of_raw 0 0 (hraw _ _))).trans hon) (by rw [offPod_congr (hraw _)]; exact hoff)
          (by rw [podDir_congr (hraw _)]; exact hdir) (by rw [podLink_congr hraw]; exact hlink))
      · rw [hue, hye]; exact tabGet_tabPut_same _ _ _ _
      · exact fun p o hp => (hzu.rawReg p o).trans (hraw p o)

end Sys2Proof.Machine
end

section
/-! PROOFS. Network time moves: waves, wraps, steps, the calendar clock's load, PPS_OUT (sections 11.1 to 11.3, 11.7). -/

namespace Sys2Proof.Machine

/-! ## Instants that are due -/

theorem le_dueT (t : Int) (last : Option Int) {n : Nat} (hn : 0 < n) : t ≤ dueT t last n := by
  unfold dueT
  split
  · exact le_refl t
  · exact (Int.lt_ediv_add_one_mul_self t (by omega)).le

theorem lt_nextT (s : State) {n : Nat} (hn : 0 < n) : fullT s < nextT s n := Int.lt_ediv_add_one_mul_self _ (by omega)

/-- The end of the era reached by a move of time (R462). -/
theorem fullT_eraCheck_over {s : State} {k : Int} (h : fullT s = k * 2 ^ 64) (hk : 2 ^ 80 ≤ fullT s) :
    fullT (eraCheck s) = 2 ^ 80 - 2 ^ 64 ∧ rbit (eraCheck s) (.tkp 0) 0x084 7 = true := by
  have hd : fullT s / 2 ^ 64 = k := by rw [h]; exact Int.mul_ediv_cancel _ (by decide)
  unfold eraCheck
  rw [if_pos hk]
  extract_lets d
  refine ⟨?_, rbit_putBit_same _ _ _ _ _ (by decide)⟩
  have hd' : d = (k - 0xFFFF) * 2 ^ 64 := by simp only [d]; rw [hd]
  rw [(onlyRegs_putBit _ _ _ _ _).fullT, fullT]
  rw [fullT] at h
  dsimp only
  omega

/-- A wrap of NT at the end of the era. -/
theorem atT_over {s : State} {due k : Int} (h : fullT s < due) (hk : due = k * 2 ^ 64) (hd : 2 ^ 80 ≤ due) :
    fullT (atT s due) = 2 ^ 80 - 2 ^ 64 ∧ rbit (atT s due) (.tkp 0) 0x084 7 = true := by
  unfold atT
  extract_lets d dt
  rw [if_neg (by simp only [d]; omega), moveT_eq]
  have hs := fullT_slewed s dt (slewOf s dt) d
  have hp := fullT_passed (slewed s dt (slewOf s dt) d) dt d
  have hf : fullT (passed (slewed s dt (slewOf s dt) d) dt d) = due := by
    rw [hp.1, hs.1]; simp only [d]; omega
  exact fullT_eraCheck_over (hf.trans hk) (by rw [hf]; exact hd)

/-! ## Steps (R470, R520) -/

/-- What a step that gate lists treat keeps. -/
structure StepKept (s u : State) : Prop where
  mem : u.mem = s.mem
  tkp : u.tkp = s.tkp
  time : u.time = s.time
  stat : rawReg u (.tkp 0) 0x084 = rawReg s (.tkp 0) 0x084

theorem StepKept.refl (s : State) : StepKept s s := ⟨rfl, rfl, rfl, rfl⟩
theorem StepKept.trans {s u v : State} (h : StepKept s u) (k : StepKept u v) : StepKept s v :=
  ⟨k.mem.trans h.mem, k.tkp.trans h.tkp, k.time.trans h.time, k.stat.trans h.stat⟩

theorem StepKept.fullT {s u : State} (h : StepKept s u) : fullT u = Machine.fullT s := by
  rw [Machine.fullT, Machine.fullT, h.tkp, h.time]

theorem stepKept_events {s u : State} (h : Events s u []) : StepKept s u where
  mem := h.mem
  tkp := by rw [h.1]
  time := by rw [h.1]
  stat := h.rawReg_eq (by simp) (evKey_tkp (by decide) (by decide))

theorem stepKept_modGcl (s : State) (g : GPlace) (f : Gcl → Gcl) : StepKept s (modGcl s g f) := by
  cases g <;> exact ⟨rfl, rfl, rfl, rfl⟩

theorem stepKept_putReg (s : State) (g : GPlace) {o : Nat} (v : Word) (h : o < 0x200) : StepKept s (putReg s (gPage g) (gBase g + o) v) where
  mem := rfl
  tkp := rfl
  time := rfl
  stat := by
    have hb := gBase_bounds g
    exact rawReg_putReg_ne _ _ _ _ _ _ (regKey_ne_of_off (by decide) (by omega) (by omega))

theorem stepKept_gclSwitch (s : State) (g : GPlace) : StepKept s (gclSwitch s g) := by
  obtain ⟨f, f', -, -, hu⟩ := gclSwitch_eq s g
  have hpair (z : State) (o v : Nat) (ho : o + 4 < 0x200) : StepKept z (gPutPair z g o v) :=
    (stepKept_putReg z g _ (by omega)).trans (stepKept_putReg _ g (o := o + 4) _ ho)
  have hregs : StepKept s (switchRegs s g) :=
    ((hpair s 0x20 _ (by decide)).trans (hpair _ 0x28 _ (by decide))).trans (stepKept_putReg _ g _ (by decide))
  rw [hu]
  exact (((hregs.trans (stepKept_modGcl _ g f)).trans (stepKept_putReg _ g (o := 4) _ (by decide))).trans
    (stepKept_modGcl _ g f')).trans (stepKept_events (events_isrBit _ _ _ _ _))

theorem stepKept_gclStep (s0 s : State) (g : GPlace) : StepKept s (gclStep s0 s g) := by
  unfold gclStep
  split
  · exact .refl s
  · extract_lets s1 s2 s3
    have h1 : StepKept s s1 := stepKept_putReg s g (o := 4) _ (by decide)
    have h2 : StepKept s1 s2 := by
      simp only [s2]
      split
      · exact stepKept_gclSwitch s1 g
      · exact .refl s1
    have h3 : StepKept s2 s3 := stepKept_modGcl _ g _
    have h4 : StepKept s3 (gMark s0 s3 g) := by unfold gMark; exact stepKept_modGcl s3 g _
    exact ((h1.trans h2).trans h3).trans h4

/-- T moved to t1 before the gate lists treat it. -/
def steppedTo (s : State) (t1 : Int) : State :=
  { s with tkp := { s.tkp with
      off := t1 - s.time, steps := s.tkp.steps + (t1 - fullT s), ups := s.tkp.ups + (t1 - fullT s).toNat } }

/-- T at t1 as the gate lists find it. -/
def stepMarked (s : State) (t1 : Int) : State :=
  isrBit (putBit (eraCheck (steppedTo s t1)) (.tkp 0) 0x084 6 true) (.tkp 0) 2

theorem applyStep_eq (s : State) (t1 : Int) :
    applyStep s t1 = (gPlacesOn (stepMarked s t1)).foldl (fun a g => gclStep s a g) (stepMarked s t1) := rfl

theorem fullT_steppedTo (s : State) (t1 : Int) : fullT (steppedTo s t1) = t1 := by
  rw [fullT, steppedTo]
  dsimp only
  omega

/-- A step of T within the era. -/
theorem applyStep_shown {s : State} {t1 : Int} (h : t1 < 2 ^ 80) :
    let u := applyStep s t1
    fullT u = t1 ∧ u.tkp.step = s.tkp.step ∧ rbit u (.tkp 0) 0x084 6 = true ∧ u.mem = s.mem := by
  have hm : StepKept (putBit (steppedTo s t1) (.tkp 0) 0x084 6 true) (stepMarked s t1) := by
    rw [stepMarked, eraCheck_of_lt (by rw [fullT_steppedTo]; exact h)]
    exact stepKept_events (events_isrBit _ _ _ _ _)
  have hk : StepKept (stepMarked s t1) (applyStep s t1) := by
    rw [applyStep_eq]
    exact List.foldlRecOn (motive := StepKept (stepMarked s t1)) _ _ (.refl _) (fun z hz g _ => hz.trans (stepKept_gclStep _ z g))
  have hs := hm.trans hk
  refine ⟨?_, ?_, (congrArg (· == 1) (rfld_of_raw 6 6 hs.stat)).trans (rbit_putBit_same _ _ _ _ _ (by decide)), hs.mem⟩
  · rw [hs.fullT, (onlyRegs_putBit _ _ _ _ _).fullT, fullT_steppedTo]
  · rw [hs.tkp]
    rfl

/-! ## Waves (R472 to R475) -/

theorem tabGet_map {α : Type} (d : α) (f : α → α) (t : Tab α) (k : Nat) :
    tabGet (f d) (t.map (fun e => (e.1, f e.2))) k = f (tabGet d t k) := by
  induction t with
  | nil => rfl
  | cons e t ih =>
    simp only [List.map_cons, tabGet]
    split
    · rfl
    · exact ih

/-- A wave that every tile finds right, before the step it carries. -/
def waved (s : State) : State :=
  let s0 := atT s (waveDue s)
  let s1 := { s0 with tkp := { s0.tkp with lastWave := some (fullT s0) } }
  waveLoad (emit s1 (waveWord s1)) []

theorem timeWave_eq (s : State) : timeWave s [] = stepNow (waved s) := rfl

theorem waved_shown {s : State} (h : waveDue s < 2 ^ 80) :
    let u := waved s
    fullT u = waveDue s ∧ u.out = s.out ++ [.timeWave (ntOf u) (eraOf u) (Config.waveCheck (ntOf u) (eraOf u)) (s.tkp.step.getD 0)]
      ∧ (∀ t, (getTile u t).ntOff = 0) ∧ u.tkp.lastWave = some (waveDue s) ∧ u.mem = s.mem ∧ u.tkp.step = s.tkp.step
      ∧ u.tkp.copy = s.tkp.copy ∧ u.tkp.locked = s.tkp.locked := by
  obtain ⟨hT, -, hm⟩ := atT_shown (le_dueT (fullT s) s.tkp.lastWave (n := 2 ^ 20) (by decide)) h
  have hr := hm.rest
  unfold waved
  change fullT (atT s (waveDue s)) = waveDue s at hT
  change ClockMoved s (atT s (waveDue s)) at hm
  change atT s (waveDue s) = _ at hr
  generalize atT s (waveDue s) = z at hT hm hr ⊢
  intro u
  have hTu : fullT u = fullT z := rfl
  refine ⟨hTu.trans hT, ?_, fun t => ?_, congrArg some hT, by rw [← hm.moved.mem]; rfl, ?_, ?_, ?_⟩
  · show z.out ++ [OutMsg.timeWave (ntOf u) (eraOf u) (Config.waveCheck (ntOf u) (eraOf u)) (z.tkp.step.getD 0)] = _
    rw [hm.moved.out, show z.tkp.step = s.tkp.step by rw [hr]]
  · exact congrArg Tile.ntOff (tabGet_map {} (fun x : Tile => { x with ntOff := 0 }) z.tiles t)
  · show z.tkp.step = _
    rw [hr]
  · show z.tkp.copy = _
    rw [hr]
  · show z.tkp.locked = _
    rw [hr]

/-! ## The calendar clock (R493) -/

/-- An instant that has come. -/
theorem atLeast_due {s : State} {d : Nat} (h : Due s d) : atLeast s d = s := by
  obtain ⟨h1, h2⟩ := h
  refine atT_of_le ?_
  simp only [eTime] at h1
  omega

/-- The calendar clock just loaded. -/
theorem rtcNow_loaded {s : State} (hat : s.rtc.at_ = s.time) (h : s.rtc.frac < 32768) : rtcNow s = (s.rtc.sec % 2 ^ 48, s.rtc.frac) := by
  have hn : (if rbit s (.tkp 0) 0x0F8 1 then 0 else (s.time - s.rtc.at_) / 31250000) = 0 := by
    rw [hat, Nat.sub_self, Nat.zero_div, ite_self]
  rw [rtcNow, hn]
  simp only [Nat.add_zero, Nat.div_eq_of_lt h, Nat.mod_eq_of_lt h]

theorem rtcLoad_shown {s : State} (hT : fullT (atT s (rtcDue s)) = rtcDue s) (hm : ClockMoved s (atT s (rtcDue s))) :
    let u := rtcLoad s
    fullT u = rtcDue s ∧ rtcNow u = ((s.tkp.epoch + (rtcDue s / secTicks).toNat) % 2 ^ 48, 0)
      ∧ u.tkp.rtcsync = false ∧ u.mem = s.mem := by
  have hep : (atT s (rtcDue s)).tkp.epoch = s.tkp.epoch := by rw [hm.rest]
  have hmem := hm.moved.mem
  have hfrac : (rtcDue s % secTicks / 31250000).toNat = 0 := by
    rw [rtcDue, Int.mul_emod_left]
    rfl
  obtain ⟨y, hy, hu⟩ : ∃ y, OnlyRegs (rtcPut (atT s (rtcDue s)) (((atT s (rtcDue s)).tkp.epoch + (fullT (atT s (rtcDue s)) / secTicks).toNat)
      % 2 ^ 48) (fullT (atT s (rtcDue s)) % secTicks / 31250000).toNat) y ∧ rtcLoad s = { y with tkp := { y.tkp with rtcsync := false } } := by
    refine ⟨_, ?_, rfl⟩
    split
    · exact onlyRegs_putBit _ _ _ _ _
    · exact .refl _
  rw [hT, hep, hfrac] at hy
  generalize atT s (rtcDue s) = z at hT hmem hy
  intro u
  have hu : u = _ := hu
  have hrtc : u.rtc = { z.rtc with sec := (s.tkp.epoch + (rtcDue s / secTicks).toNat) % 2 ^ 48, frac := 0, at_ := z.time } := by
    rw [hu, hy]
    rfl
  refine ⟨?_, ?_, by rw [hu], ?_⟩
  · rw [hu, ← hT]
    exact hy.fullT
  · rw [rtcNow_loaded (by rw [hrtc, hu, hy]; rfl) (by rw [hrtc]; exact Nat.zero_lt_succ _), hrtc]
    dsimp only
    rw [Nat.mod_mod]
  · rw [hu, ← hmem]
    exact hy.mem

/-- Settles O37: time moves to the instant of each event, and each leaves what it says. -/
theorem networkTimeMoves : Obligations.NetworkTimeMoves := by
  unfold Obligations.NetworkTimeMoves
  intro s
  refine ⟨fun hn hd => ?_, fun d hs hc hd => ⟨fun hl h0 h80 => ?_, fun hl hneg => ?_⟩, ?_, fun hr hle hd => ?_, fun he hd => ?_, fun hp hdue => ?_⟩
  · obtain ⟨h1, h2, h3, h4, h5, h6, -, -⟩ := waved_shown hd
    refine ⟨waved s, ?_, h1, by rw [h2, hn]; rfl, h3, h4, h5⟩
    show Host.Outcome.next (timeWave s []) = _
    rw [timeWave_eq, stepNow, h6, hn]
  · obtain ⟨h1, -, -, -, h5, h6, h7, h8⟩ := waved_shown hd
    obtain ⟨k1, k2, k3, k4⟩ := applyStep_shown (s := { waved s with tkp := { (waved s).tkp with step := none, copy := none } })
      (t1 := waveDue s + d) h80
    refine ⟨_, ?_, k1, k2, k3, k4.trans h5⟩
    show Host.Outcome.next (timeWave s []) = _
    rw [timeWave_eq, stepNow, h6, hs, h7, hc, h8, h1]
    dsimp only
    rw [if_neg (by rcases hl with hl | hl <;> simp [hl]), if_neg (by omega)]
  · obtain ⟨h1, -, -, -, h5, h6, -, h8⟩ := waved_shown hd
    refine ⟨{ waved s with tkp := { (waved s).tkp with step := none, copy := none } }, ?_, h1, rfl, h5⟩
    show Host.Outcome.next (timeWave s []) = _
    rw [timeWave_eq, stepNow, h6, hs, h8]
    dsimp only
    rw [if_pos ⟨hl, hneg⟩]
  · have hlt : fullT s < nextT s (2 ^ 64) := lt_nextT s (by decide)
    have hmul : nextT s (2 ^ 64) = (fullT s / 2 ^ 64 + 1) * 2 ^ 64 := rfl
    refine ⟨atT s (nextT s (2 ^ 64)), rfl, ?_, fun hd => (atT_shown hlt.le hd).1, fun hd => ?_, (timeMoved_atT s _).mem⟩
    · rcases lt_or_ge (nextT s (2 ^ 64)) (2 ^ 80) with hd | hd
      · rw [ntOf, (atT_shown hlt.le hd).1, hmul, Int.mul_emod_left]
        rfl
      · rw [ntOf, (atT_over hlt hmul hd).1]
        rfl
    · exact (atT_over hlt hmul hd).symm
  · obtain ⟨hT, -, hm⟩ := atT_shown hle hd
    have hrun : execRtcLoadFromNt s = .next (rtcLoad s) := if_pos hr
    exact ⟨rtcLoad s, hrun, rtcLoad_shown hT hm⟩
  · have hle : fullT s ≤ ppsDue s - ppsComp s := by
      have := le_dueT (fullT s + ppsComp s) s.tkp.lastPps (n := secTicks) (by decide)
      rw [ppsDue]
      omega
    obtain ⟨hT, -, hm⟩ := atT_shown hle hd
    have hrun : execPpsOutRise s = .next (ppsRise s) := if_pos he
    refine ⟨ppsRise s, hrun, hT, congrArg (· ++ _) hm.moved.out, rfl, ?_, hm.moved.mem⟩
    have hw : rfld (atT s (ppsDue s - ppsComp s)) (.tkp 0) 0x0C0 15 8 = rfld s (.tkp 0) 0x0C0 15 8 :=
      rfld_of_raw 15 8 (hm.regs _ _ (by
        rintro (⟨h1, -⟩ | h1) <;> simp only [regKey, pageBase] at h1 <;> omega))
    rw [← hw]
    rfl
  · have hnow := atLeast_due hdue
    refine ⟨emit { s with tkp := { s.tkp with ppsOut := false } } (.ppsOut false), ?_, rfl, rfl, fun _ _ _ => rfl, rfl⟩
    show execPpsOutFall s = _
    rw [execPpsOutFall, if_pos hp, hnow]

end Sys2Proof.Machine
end

section
/-! PROOFS. PPS_IN, its loss, holdover, and the status of the calendar clock (sections 11.2, 11.7 and 11.8). -/

namespace Sys2Proof.Machine

/-! ## What a change of the timekeeper's state keeps of its record -/

/-- Beside the state's own record the timekeeper's is as before. -/
structure TkpKept (a b : Tkp) : Prop where
  acc : b.acc = a.acc
  off : b.off = a.off
  steps : b.steps = a.steps
  lastEdge : b.lastEdge = a.lastEdge

theorem TkpKept.refl (a : Tkp) : TkpKept a a := ⟨rfl, rfl, rfl, rfl⟩
theorem TkpKept.trans {a b c : Tkp} (h : TkpKept a b) (k : TkpKept b c) : TkpKept a c :=
  ⟨k.acc.trans h.acc, k.off.trans h.off, k.steps.trans h.steps, k.lastEdge.trans h.lastEdge⟩

theorem tkpKept_ite {a : Tkp} {s u : State} {c : Prop} [Decidable c] (h : TkpKept a s.tkp) (k : TkpKept a u.tkp) :
    TkpKept a (if c then s else u).tkp := by
  split
  · exact h
  · exact k

theorem tkp_of_events {s u : State} {ks : List Nat} (h : Events s u ks) : u.tkp = s.tkp := by rw [h.1]

theorem tkpKept_tkpEnter (s : State) (st : Nat) : TkpKept s.tkp (tkpEnter s st).tkp := by
  unfold tkpEnter
  extract_lets old s1 s2 b k3 s3 k4 s4 k5 s5
  have h2 : TkpKept s.tkp s2.tkp := tkpKept_ite ⟨rfl, rfl, rfl, rfl⟩ ⟨rfl, rfl, rfl, rfl⟩
  have h3 : TkpKept s.tkp s3.tkp := tkpKept_ite (h2.trans ⟨rfl, rfl, rfl, rfl⟩) h2
  have h4 : TkpKept s.tkp s4.tkp := tkpKept_ite (h3.trans ⟨rfl, rfl, rfl, rfl⟩) h3
  have h5 : TkpKept s.tkp s5.tkp := tkpKept_ite (h4.trans ⟨rfl, rfl, rfl, rfl⟩) h4
  refine tkpKept_ite h5 ?_
  rw [tkp_of_events (events_isrBit s5 _ _ _ [])]
  exact h5

theorem tkpKept_tkpSet (s : State) (st : Nat) : TkpKept s.tkp (tkpSet s st).tkp :=
  tkpKept_ite ((tkpKept_tkpEnter s st).trans (tkpKept_tkpEnter _ 0)) (tkpKept_tkpEnter s st)

theorem TkpKept.eTime {s u : State} (h : TkpKept s.tkp u.tkp) (ht : u.time = s.time) : eTime u = Machine.eTime s := by
  simp only [Machine.eTime, fullT, h.off, h.steps, ht]

/-- ACQUIRE entered from another state counts its edges afresh. -/
theorem edges_tkpEnter {s : State} (h : tkpState s ≠ 1) : (tkpEnter s 1).tkp.edges = 0 := by
  unfold tkpEnter
  extract_lets old s1 s2 b k3 s3 k4 s4 k5 s5
  have h5 : s5.tkp.edges = 0 := by
    simp only [s5, if_pos (show (1 : Nat) = 1 ∧ old ≠ 1 from ⟨rfl, h⟩), k5]
  split
  · exact h5
  · rw [tkp_of_events (events_isrBit s5 _ _ _ [])]
    exact h5

/-- RATE takes ADJ in FREE (Table 11.1). -/
theorem rate_tkpEnter_free (s : State) : rawReg (tkpEnter s 0) (.tkp 0) 0x09C = rawReg s (.tkp 0) 0x0A0 := by
  unfold tkpEnter
  extract_lets old s1 s2 b k3 s3 k4 s4 k5 s5
  have h2 : rawReg s2 (.tkp 0) 0x09C = rawReg s (.tkp 0) 0x0A0 := by
    simp only [s2, if_pos, rawReg_putReg_same]
    exact rawReg_putFld_off _ _ _ _ _ _ _ (by decide)
  have h5 : rawReg s5 (.tkp 0) 0x09C = rawReg s (.tkp 0) 0x0A0 := h2
  split
  · exact h5
  · exact ((events_isrBit s5 (.tkp 0) 0 (0, 0) []).rawReg_eq (by simp) (evKey_tkp (by decide) (by decide))).trans h5

/-! ## The servo (R468, R471) -/

/-- What the servo writes: RATE and the phase, and the step that waits. -/
def servoKeys : List Nat := [regKey (.tkp 0) 0x09C, regKey (.tkp 0) 0x0A4]

theorem servo_shown (s : State) (o : Int) (copy : Option (Nat × Nat)) :
    let u := servo s o copy
    u.mem = s.mem ∧ RegsBut s u servoKeys ∧ TkpKept s.tkp u.tkp
      ∧ u.tkp.edges = s.tkp.edges := by
  have hphase (x : Int) : RegsBut s (setPhase s x) servoKeys := fun p o hp => by
    unfold setPhase
    exact rawReg_putReg_ne _ _ _ _ _ _ (fun e => hp (by simp [servoKeys, e]))
  unfold servo
  split
  · exact ⟨rfl, fun p o hp => rawReg_putReg_ne _ _ _ _ _ _ (fun e => hp (by simp [servoKeys, e])), ⟨rfl, rfl, rfl, rfl⟩, rfl⟩
  · split
    · exact ⟨rfl, fun _ _ _ => rfl, .refl _, rfl⟩
    · split
      · split
        · exact ⟨rfl, fun _ _ _ => rfl, ⟨rfl, rfl, rfl, rfl⟩, rfl⟩
        · split
          · exact ⟨rfl, fun _ _ _ => rfl, .refl _, rfl⟩
          · exact ⟨rfl, hphase _, ⟨rfl, rfl, rfl, rfl⟩, rfl⟩
      · exact ⟨rfl, hphase _, ⟨rfl, rfl, rfl, rfl⟩, rfl⟩

/-! ## PPS_IN (R496, R467) -/

/-- The capture of an edge, and what it changes. -/
def captured (s : State) : State :=
  let s1 := if rbit s (.tkp 0) 0x0CC 0 then putBit s (.tkp 0) 0x0CC 1 true else s
  let s2 := putReg (putReg s1 (.tkp 0) 0x0C4 (BitVec.ofNat 32 (ntOf s))) (.tkp 0) 0x0C8 (BitVec.ofNat 32 (ntOf s / 2 ^ 32))
  isrBit (putBit s2 (.tkp 0) 0x0CC 0 true) (.tkp 0) 1

theorem ppsIn_eq (s : State) : ppsIn s = if tkpSrc (captured s) = 1 then ppsSource (captured s) else captured s := rfl

/-- The registers of a capture. -/
def captureKeys : List Nat := [0x0C4, 0x0C8, 0x0CC].map (regKey (.tkp 0))

theorem ntOf_lt (s : State) : ntOf s < 2 ^ 64 := by unfold ntOf; omega

theorem captured_shown (s : State) :
    let u := captured s
    Events s u captureKeys ∧ pairNat u (.tkp 0) 0x0C4 = ntOf s ∧ rbit u (.tkp 0) 0x0CC 0 = true
      ∧ rbit u (.tkp 0) 0x0CC 1 = (rbit s (.tkp 0) 0x0CC 1 || rbit s (.tkp 0) 0x0CC 0) := by
  unfold captured
  extract_lets s1 s2 u
  have h1 : Events s s1 captureKeys := by
    simp only [s1]
    split
    · exact events_putBit _ _ _ _ _ _ (.inl (by simp [captureKeys]))
    · exact .refl _ _
  have hov : rbit s1 (.tkp 0) 0x0CC 1 = (rbit s (.tkp 0) 0x0CC 1 || rbit s (.tkp 0) 0x0CC 0) := by
    simp only [s1]
    split
    · next h => rw [rbit_putBit_same _ _ _ _ _ (by decide), h, Bool.or_true]
    · next h => rw [Bool.eq_false_iff.2 h, Bool.or_false]
  have h2 : Events s1 s2 captureKeys := (events_putReg _ _ _ _ _ (.inl (by simp [captureKeys]))).trans
    (events_putReg _ _ _ _ _ (.inl (by simp [captureKeys])))
  obtain ⟨z, hz⟩ : ∃ z, putBit s2 (.tkp 0) 0x0CC 0 true = z := ⟨_, rfl⟩
  have h3 : Events s2 z captureKeys := hz ▸ events_putBit _ _ _ _ _ _ (.inl (by simp [captureKeys]))
  have hu : u = isrBit z (.tkp 0) 1 := by rw [← hz]
  have h4 : Events z u [] := hu ▸ events_isrBit z _ _ _ _
  have hreg : ∀ o, 0x060 ≤ o → o < 0xE00 → rawReg u (.tkp 0) o = rawReg z (.tkp 0) o := fun o ho ho' =>
    h4.rawReg_eq (by simp) (evKey_tkp ho ho')
  refine ⟨((h1.trans h2).trans h3).trans (h4.weaken (by simp)), ?_, ?_, ?_⟩
  · have hlo : rawReg u (.tkp 0) 0x0C4 = BitVec.ofNat 32 (ntOf s) := by
      rw [hreg _ (by decide) (by decide), ← hz, rawReg_putBit_off (h := by decide)]
      simp only [s2]
      rw [rawReg_putReg_off _ _ _ _ _ (by decide), rawReg_putReg_same]
    have hhi : rawReg u (.tkp 0) (0x0C4 + 4) = BitVec.ofNat 32 (ntOf s / 2 ^ 32) := by
      rw [hreg _ (by decide) (by decide), ← hz, rawReg_putBit_off (h := by decide)]
      exact rawReg_putReg_same _ _ _ _
    have hlt := ntOf_lt s
    rw [pairNat, hlo, hhi, BitVec.toNat_ofNat, BitVec.toNat_ofNat]
    omega
  · rw [show rbit u (.tkp 0) 0x0CC 0 = rbit z (.tkp 0) 0x0CC 0 from congrArg (· == 1) (rfld_of_raw 0 0 (hreg _ (by decide) (by decide))),
      ← hz, rbit_putBit_same _ _ _ _ _ (by decide)]
  · rw [show rbit u (.tkp 0) 0x0CC 1 = rbit z (.tkp 0) 0x0CC 1 from congrArg (· == 1) (rfld_of_raw 1 1 (hreg _ (by decide) (by decide))),
      ← hz, rbit_putBit_ne _ _ _ _ _ _ (by decide) (by decide), ← hov]
    refine congrArg (· == 1) (rfld_of_raw 1 1 ?_)
    simp only [s2]
    rw [rawReg_putReg_off _ _ _ _ _ (by decide), rawReg_putReg_off _ _ _ _ _ (by decide)]

/-- The number of edges in a row that lie close to a whole second, this one counted. -/
def nearEdges (s : State) : Nat := if (secOffset s).natAbs ≤ 1024 then s.tkp.edges + 1 else 0

/-- An edge noted, and the servo's part. -/
def ppsServed (s : State) : State :=
  servo { s with tkp := { s.tkp with edges := nearEdges s, lastEdge := some (eTime s) } } (secOffset s) none

theorem ppsSource_eq (s : State) : ppsSource s
    = let z := if tkpState s = 0 ∨ tkpState s = 3 then tkpSet s 1 else s
      if tkpState (ppsServed z) = 1 ∧ 8 ≤ nearEdges z then servoRate (tkpSet (ppsServed z) 2) else ppsServed z := rfl

theorem ppsServed_shown (s : State) :
    let u := ppsServed s
    RegsBut s u servoKeys ∧ u.tkp.lastEdge = some (eTime s) ∧ u.mem = s.mem := by
  obtain ⟨hmem, hregs, hkept, -⟩ := servo_shown { s with tkp := { s.tkp with edges := nearEdges s, lastEdge := some (eTime s) } }
    (secOffset s) none
  exact ⟨hregs, hkept.lastEdge, hmem⟩

/-- The first edge under SRC = PPS_IN, in FREE. -/
theorem ppsSource_free {s : State} (h : tkpState s = 0) :
    let u := ppsSource s
    tkpState u = 1 ∧ u.tkp.lastEdge = some (eTime s) ∧ u.mem = s.mem ∧ RegsEvents s u (tkpKeys ++ servoKeys) := by
  have h1 : tkpSet s 1 = tkpEnter s 1 := by
    rw [tkpSet]
    exact if_neg (fun h => absurd h.1 (by decide))
  have he := tkpEvents_tkpEnter s 1
  have hst := tkpState_tkpEnter s (st := 1) (by decide)
  have hk := tkpKept_tkpEnter s 1
  have hedge := edges_tkpEnter (s := s) (by omega)
  have htime := hk.eTime he.time
  intro u
  have hu : u = _ := ppsSource_eq s
  rw [if_pos (show tkpState s = 0 ∨ tkpState s = 3 from .inl h), h1] at hu
  generalize tkpEnter s 1 = z at he hst hk hedge htime hu
  have hn : nearEdges z < 8 := by
    unfold nearEdges
    split
    · rw [hedge]; decide
    · decide
  have hu2 : u = ppsServed z := hu.trans (if_neg (by omega))
  obtain ⟨hr, hedge2, hmem⟩ := ppsServed_shown z
  rw [← hu2] at hr hedge2 hmem
  refine ⟨(rfld_of_raw 1 0 (hr _ _ ?_)).trans hst, by rw [hedge2, htime], hmem.trans he.mem, fun p o hp hev => ?_⟩
  · simp only [servoKeys, List.mem_cons, List.not_mem_nil, or_false, not_or, regKey, pageBase]
    omega
  · rw [List.mem_append, not_or] at hp
    exact (hr p o hp.2).trans (he.2 p o hp.1 hev)

/-! ## Holdover (Table 11.1, Table 11.6) -/

/-- HOLDOVER of a reference: FREE at once with TKP_HOLD = 0. -/
theorem tkpSet_holdover {s : State} (h : tkpSrc s = 1 ∨ tkpSrc s = 3) :
    tkpState (tkpSet s 3) = if rfld s (.tkp 0) 0x0B0 15 0 = 0 then 0 else 3 := by
  rw [tkpSet]
  by_cases h0 : rfld s (.tkp 0) 0x0B0 15 0 = 0
  · rw [if_pos ⟨rfl, h, h0⟩, if_pos h0]
    exact tkpState_tkpEnter _ (by decide)
  · rw [if_neg (fun hc => h0 hc.2.2), if_neg h0]
    exact tkpState_tkpEnter _ (by decide)

theorem tkpSet_free (s : State) : tkpSet s 0 = tkpEnter s 0 := by
  rw [tkpSet]
  exact if_neg (fun h => absurd h.1 (by decide))

/-! ## The calendar clock's status (R489) -/

/-- The time of the clock, which its oscillator bit does not move. -/
theorem rtcNow_osc (s : State) (v : Bool) :
    rtcNow (putBit (rtcPut s (rtcNow s).1 (rtcNow s).2) (.tkp 0) 0x0F8 1 v) = rtcNow s := by
  have h2 : (rtcNow s).2 < 32768 := Nat.mod_lt _ (by decide)
  have h1 : (rtcNow s).1 % 2 ^ 48 = (rtcNow s).1 := Nat.mod_mod _ _
  rw [rtcNow_loaded (s := putBit (rtcPut s (rtcNow s).1 (rtcNow s).2) (.tkp 0) 0x0F8 1 v) rfl h2]
  exact Prod.ext h1 rfl

/-- Settles O38: each event of the timekeeper enters the state it names. -/
theorem timekeeperStatesChange : Obligations.TimekeeperStatesChange := by
  unfold Obligations.TimekeeperStatesChange
  intro s
  obtain ⟨hc, hpair, hv, hov⟩ := captured_shown s
  have hraw : ∀ o, 0x060 ≤ o → o < 0x0C0 → rawReg (captured s) (.tkp 0) o = rawReg s (.tkp 0) o := fun o ho h =>
    hc.rawReg_eq (by
      simp only [captureKeys, List.map_cons, List.map_nil, List.mem_cons, List.not_mem_nil, or_false, not_or, regKey, pageBase]
      omega) (evKey_tkp ho (by omega))
  have hsrc : tkpSrc (captured s) = tkpSrc s := rfld_of_raw _ _ (hraw _ (by decide) (by decide))
  have hst : tkpState (captured s) = tkpState s := rfld_of_raw _ _ (hraw _ (by decide) (by decide))
  have hsec : 0 < secTicks := by decide
  refine ⟨fun h => ?_, fun h h0 => ?_, fun h h2 hd => ?_, fun h h3 hn hd => ?_, fun h => ?_, ?_, ?_⟩
  · exact ⟨captured s, congrArg Host.Outcome.next ((ppsIn_eq s).trans (if_neg (by rw [hsrc]; exact h))), hpair, hv, hov, hc⟩
  · obtain ⟨k1, k2, k3, k4⟩ := ppsSource_free (hst.trans h0)
    refine ⟨ppsSource (captured s), congrArg Host.Outcome.next ((ppsIn_eq s).trans (if_pos (hsrc.trans h))), ?_, k1, ?_, k3.trans hc.mem⟩
    · have hkeep : ∀ o, 0x0C4 ≤ o → o < 0x0D0 → rawReg (ppsSource (captured s)) (.tkp 0) o = rawReg (captured s) (.tkp 0) o :=
        fun o ho h => k4 _ _ (by
          simp only [tkpKeys, servoKeys, List.mem_append, List.mem_cons, List.not_mem_nil, or_false, not_or, regKey, pageBase]
          omega) (evKey_tkp (by omega) (by omega))
      rw [← hpair, pairNat, hkeep _ (by decide) (by decide), hkeep _ (by decide) (by decide)]
      rfl
    · rw [k2, eTime, eTime, fullT, fullT, tkp_of_events hc, show (captured s).time = s.time by rw [hc.1]]
  · have hrun : execPpsLoss s = .next (tkpSet s 3) := by
      rw [execPpsLoss, if_pos ⟨h, h2⟩, atLeast_due hd]
    have he := tkpEvents_tkpSet s 3
    exact ⟨_, hrun, tkpSet_holdover (.inl h), he.time, he.mem⟩
  · have hrun : execHoldoverExpiry s = .next (tkpEnter s 0) := by
      rw [execHoldoverExpiry]
      rw [if_pos ⟨h, h3, hn⟩, atLeast_due hd, tkpSet_free]
    have he := tkpEvents_tkpEnter s 0
    exact ⟨_, hrun, tkpState_tkpEnter s (by decide), rate_tkpEnter_free s, he.time, he.mem⟩
  · have hrun : execVbatLow s = .next (putBit s (.tkp 0) 0x0F8 0 true) := by
      rw [execVbatLow, h]
      rfl
    exact ⟨_, hrun, rbit_putBit_same _ _ _ _ _ (by decide), regsBut_putBit _ _ _ _ _ _ (by simp), onlyRegs_putBit _ _ _ _ _⟩
  · exact ⟨_, rfl, rbit_putBit_same _ _ _ _ _ (by decide), rtcNow_osc s true,
      regsBut_putBit (rtcPut s (rtcNow s).1 (rtcNow s).2) _ _ _ _ _ (by simp), rfl⟩
  · exact ⟨_, rfl, rbit_putBit_same _ _ _ _ _ (by decide), rtcNow_osc s false,
      regsBut_putBit (rtcPut s (rtcNow s).1 (rtcNow s).2) _ _ _ _ _ (by simp), rfl⟩

end Sys2Proof.Machine
end

section
/-! PROOFS. The Accord exchange, and ports that lose exchanges or time out (sections 11.4 and 13.4). -/

namespace Sys2Proof.Machine

/-! ## What a change of a port's state keeps -/

theorem tkpKept_tkpFollow (s : State) (n : Nat) : TkpKept s.tkp (tkpFollow s n).tkp := by
  have hs (x : State) (st : Nat) := tkpKept_tkpSet x st
  unfold tkpFollow
  dsimp only
  split
  · exact .refl _
  · split
    · exact tkpKept_ite (.refl _) (hs _ _)
    · exact tkpKept_ite (hs _ _) (.refl _)
    · exact tkpKept_ite ((hs _ _).trans (hs _ _)) (tkpKept_ite (hs _ _) (.refl _))

theorem getAcc_of_tkp {s u : State} (h : u.tkp.acc = s.tkp.acc) (n : Nat) : getAcc u n = getAcc s n := by
  rw [getAcc, getAcc, h]

/-- A port that enters a state has no exchange open and none counted. -/
theorem getAcc_accSet (s : State) (n st : Nat) :
    (getAcc (accSet s n st) n).good = 0 ∧ (getAcc (accSet s n st) n).open_ = false := by
  unfold accSet
  extract_lets old s1 s2 s3
  have h2 : (getAcc s2 n).good = 0 ∧ (getAcc s2 n).open_ = false := by
    simp only [s2, getAcc_modAcc_same]
    exact ⟨trivial, trivial⟩
  have h3 : s3.tkp = s2.tkp := by
    simp only [s3]
    split
    · rfl
    · split
      · exact tkp_of_events (events_captureOpen _ _ _ _ _ _ _ _ _ [])
      · exact tkp_of_events (events_isrBit _ _ _ _ [])
  rw [getAcc_of_tkp (tkpKept_tkpFollow s3 n).acc, getAcc_of_tkp (congrArg Tkp.acc h3)]
  exact h2

/-- The registers of a port lie apart from those of time, events and the timekeeper's state. -/
theorem accReg_apart (n : Nat) {o : Nat} (ho : o < 0x20) :
    ¬ ClockKey (regKey (accPage n) (accOff n + o)) ∧ regKey (accPage n) (accOff n + o) ∉ tkpKeys
      ∧ regKey (accPage n) (accOff n + o) ∉ servoKeys ∧ EvKey (regKey (accPage n) (accOff n + o)) = false := by
  have hr := accOff_range n
  refine ⟨?_, ?_, ?_, evKey_tkp (by omega) (by omega)⟩
  · rintro (⟨h1, -⟩ | h1) <;> simp only [accPage, regKey, pageBase] at h1 <;> omega
  · simp only [tkpKeys, List.mem_cons, List.not_mem_nil, or_false, not_or, accPage, regKey, pageBase]
    omega
  · simp only [servoKeys, List.mem_cons, List.not_mem_nil, or_false, not_or, accPage, regKey, pageBase]
    omega

/-- A register of a port other than its status, where a state is entered. -/
theorem accReg_accSet (s : State) (n : Nat) {st o : Nat} (h : st < 8) (ho : o < 0x20) (hne : o ≠ 4) :
    rawReg (accSet s n st) (accPage n) (accOff n + o) = rawReg s (accPage n) (accOff n + o) := by
  obtain ⟨-, hk, -, he⟩ := accReg_apart n ho
  refine (accSet_shown s n h).1.rawReg_eq ?_ he
  have hr := accOff_range n
  rw [accKeys, List.mem_cons, not_or]
  exact ⟨regKey_ne_of_off (by omega) (by omega) (by omega), hk⟩

/-! ## SYNC at a slave (R477, R478, R481) -/

/-- HOPS noted, and FAULT entered above 31. -/
def hopsNoted (s : State) (n : Nat) (m : SyncMsg) : State :=
  let s0 := putFld s (accPage n) (accOff n + 4) 12 8 (min 31 (m.hops + 1))
  if 31 < m.hops + 1 then accSet s0 n 5 else s0

theorem hopsNoted_shown (s : State) (n : Nat) (m : SyncMsg) :
    let u := hopsNoted s n m
    accState u n = (if 31 < m.hops + 1 then 5 else accState s n) ∧ u.mem = s.mem
      ∧ (m.hops + 1 ≤ 31 → rfld u (accPage n) (accOff n + 4) 12 8 = m.hops + 1) := by
  unfold hopsNoted
  extract_lets s0 u
  have h0 : accState s0 n = accState s n := rfld_putFld_ne _ _ _ _ _ _ _ _ (by decide) (by decide) (by decide) (by decide)
  by_cases h : 31 < m.hops + 1
  · rw [show u = accSet s0 n 5 from if_pos h, if_pos h]
    obtain ⟨hk, hst, -⟩ := accSet_shown s0 n (st := 5) (by decide)
    exact ⟨hst, hk.mem, fun hle => absurd h (by omega)⟩
  · rw [show u = s0 from if_neg h, if_neg h]
    refine ⟨h0, rfl, fun hle => ?_⟩
    rw [rfld_putFld_same _ _ _ _ _ _ (by decide) (by decide), Nat.min_eq_right hle]
    exact Nat.mod_eq_of_lt (by omega)

/-- What the port records of a SYNC. -/
def syncNoted (s : State) (n : Nat) (m : SyncMsg) (t2 : Int) (sn : Nat) : State :=
  modAcc s n (fun a => { a with
    t1 := m.t1, t2 := t2, t3 := ntOf s, seq := sn, open_ := true, trace := m.trace, mhops := m.hops,
    mera := m.era, mepoch := m.epoch })

/-- A DREQ leaves. -/
def dreqSent (s : State) (n sn : Nat) : State :=
  emit (sbPush s n (sbDreq sn (accLane s n))) (.dreq n sn (accLane s n))

theorem syncTake_eq (s : State) (n : Nat) (m : SyncMsg) (turn : Nat) : syncTake s n m turn
    = dreqSent (syncNoted (atLeast (hopsNoted s n m) (eTime s + turn)) n m (ntOf s) (((getAcc s n).seq + 1) % 65536)) n
        (((getAcc s n).seq + 1) % 65536) := rfl

theorem dreqSent_shown (s : State) (n sn : Nat) :
    let u := dreqSent s n sn
    getAcc u n = getAcc s n ∧ OutMsg.dreq n sn (accLane s n) ∈ u.out ∧ u.mem = s.mem ∧ ∀ p o, rawReg u p o = rawReg s p o :=
  ⟨rfl, List.mem_append_right _ (List.mem_singleton_self _), rfl, fun _ _ => rfl⟩

theorem getAcc_syncNoted (s : State) (n : Nat) (m : SyncMsg) (t2 : Int) (sn : Nat) :
    getAcc (syncNoted s n m t2 sn) n = { getAcc s n with
      t1 := m.t1, t2 := t2, t3 := ntOf s, seq := sn, open_ := true, trace := m.trace, mhops := m.hops,
      mera := m.era, mepoch := m.epoch } := getAcc_modAcc_same _ _ _

theorem syncTake_shown (s : State) (n : Nat) (m : SyncMsg) (turn : Nat) :
    let u := syncTake s n m turn
    let sn := ((getAcc s n).seq + 1) % 65536
    (getAcc u n).t1 = m.t1 ∧ (getAcc u n).t2 = ntOf s ∧ (getAcc u n).seq = sn ∧ (getAcc u n).open_ = true
      ∧ (∃ b, OutMsg.dreq n sn b ∈ u.out) ∧ accState u n = (if 31 < m.hops + 1 then 5 else accState s n)
      ∧ (m.hops + 1 ≤ 31 → rfld u (accPage n) (accOff n + 4) 12 8 = m.hops + 1) ∧ u.mem = s.mem := by
  intro u sn
  obtain ⟨hst, hmem, hhops⟩ := hopsNoted_shown s n m
  have ht := timeMoved_atLeast (hopsNoted s n m) (eTime s + turn)
  have hu : u = _ := syncTake_eq s n m turn
  obtain ⟨hck, hk, -, -⟩ := accReg_apart n (o := 4) (by decide)
  have hreg := ht.regs _ _ hck (fun e => hk (by rw [e]; simp [tkpKeys]))
  have htm := ht.mem
  generalize atLeast (hopsNoted s n m) (eTime s + turn) = z at hu hreg htm
  obtain ⟨y, hy⟩ : ∃ y, syncNoted z n m (ntOf s) sn = y := ⟨_, rfl⟩
  have hay : getAcc y n = _ := hy ▸ getAcc_syncNoted z n m (ntOf s) sn
  have hym : y.mem = z.mem := by rw [← hy]; rfl
  have hyr : rawReg y (accPage n) (accOff n + 4) = rawReg z (accPage n) (accOff n + 4) := by rw [← hy]; rfl
  obtain ⟨h1, h2, h3, h4⟩ := dreqSent_shown y n sn
  rw [← show u = dreqSent y n sn by rw [hu, ← hy]] at h1 h2 h3 h4
  rw [hay] at h1
  have hr := (h4 _ _).trans (hyr.trans hreg)
  exact ⟨by rw [h1], by rw [h1], by rw [h1], by rw [h1], ⟨_, h2⟩, (rfld_of_raw 2 0 hr).trans hst,
    fun h => (rfld_of_raw 12 8 hr).trans (hhops h), h3.trans (hym.trans (htm.trans hmem))⟩

/-! ## Losses (Table 11.3, R574) -/

theorem accMiss_shown (s : State) (n : Nat) :
    let u := accMiss s n
    accState u n = (if accState s n = 3 ∧ 4 ≤ (getAcc s n).miss + 1 then 4 else accState s n)
      ∧ (getAcc u n).good = 0 ∧ (getAcc u n).open_ = false ∧ TkpEvents s u (accKeys n) := by
  unfold accMiss
  extract_lets m s1 u
  have h1 : TkpEvents s s1 (accKeys n) := tkpEvents_of_tkp _ _ _
  by_cases h : accState s n = 3 ∧ 4 ≤ m
  · rw [show u = accSet s1 n 4 from if_pos h, if_pos h]
    obtain ⟨hk, hst, -⟩ := accSet_shown s1 n (st := 4) (by decide)
    obtain ⟨hg, ho⟩ := getAcc_accSet s1 n 4
    exact ⟨hst, hg, ho, h1.trans hk⟩
  · rw [show u = s1 from if_neg h, if_neg h]
    have ha : getAcc s1 n = { getAcc s n with miss := m, good := 0, open_ := false } := getAcc_modAcc_same _ _ _
    exact ⟨rfl, by rw [ha], by rw [ha], h1⟩

/-- A message with a bad CRC is counted (R574). -/
theorem sbErr_shown (s : State) (n : Nat) :
    let u := sbErr s n
    rfld u (.llk n) 0x0A8 15 0 = Nat.min (rfld s (.llk n) 0x0A8 15 0 + 1) 0xFFFF ∧ u.time = s.time ∧ u.mem = s.mem := by
  unfold sbErr
  extract_lets s1 u
  have h1 : rfld s1 (.llk n) 0x0A8 15 0 = Nat.min (rfld s (.llk n) 0x0A8 15 0 + 1) 0xFFFF := rfld_addFld_one s _ _
  by_cases hs : accSlave s n = true
  · rw [show u = accMiss s1 n from if_pos hs]
    obtain ⟨-, -, -, hk⟩ := accMiss_shown s1 n
    refine ⟨(rfld_of_raw 15 0 (hk.rawReg_eq ?_ (evKey_llk (by decide) (by decide)))).trans h1, hk.time, hk.mem⟩
    have hr := accOff_range n
    simp only [accKeys, tkpKeys, List.mem_cons, List.not_mem_nil, or_false, not_or]
    exact ⟨regKey_ne_of_off (by decide) (by omega) (by omega), regKey_ne_of_off (by decide) (by decide) (by decide),
      regKey_ne_of_off (by decide) (by decide) (by decide)⟩
  · rw [show u = s1 from if_neg hs]
    exact ⟨h1, rfl, rfl⟩

/-! ## DRSP (R479, R480) -/

/-- What an exchange that has been taken keeps of its port. -/
structure ExchangeKept (s u : State) (n : Nat) : Prop where
  open_ : (getAcc s n).open_ = false → (getAcc u n).open_ = false
  regs : ∀ o, o < 0x20 → o ≠ 4 → o ≠ 0x10 → rawReg u (accPage n) (accOff n + o) = rawReg s (accPage n) (accOff n + o)
  mem : u.mem = s.mem

theorem ExchangeKept.refl (s : State) (n : Nat) : ExchangeKept s s n := ⟨id, fun _ _ _ _ => rfl, rfl⟩
theorem ExchangeKept.trans {s u v : State} {n : Nat} (h : ExchangeKept s u n) (k : ExchangeKept u v n) : ExchangeKept s v n :=
  ⟨fun h0 => k.open_ (h.open_ h0), fun o ho h4 h10 => (k.regs o ho h4 h10).trans (h.regs o ho h4 h10), k.mem.trans h.mem⟩

theorem exchangeKept_ite {s u v : State} {n : Nat} {c : Prop} [Decidable c] (h : ExchangeKept s u n) (k : ExchangeKept s v n) :
    ExchangeKept s (if c then u else v) n := by
  split
  · exact h
  · exact k

theorem exchangeKept_modAcc (s : State) (n : Nat) (f : Acc → Acc) (h : (f (getAcc s n)).open_ = (getAcc s n).open_) :
    ExchangeKept s (modAcc s n f) n :=
  ⟨fun h0 => by rw [getAcc_modAcc_same, h, h0], fun _ _ _ _ => rfl, rfl⟩

theorem exchangeKept_accSet (s : State) (n : Nat) {st : Nat} (h : st < 8) : ExchangeKept s (accSet s n st) n :=
  ⟨fun _ => (getAcc_accSet s n st).2, fun _ ho h4 _ => accReg_accSet s n h ho h4, (accSet_shown s n h).1.mem⟩

theorem exchangeKept_accCalib (s : State) (n : Nat) (raw : Int) : ExchangeKept s (accCalib s n raw) n := by
  unfold accCalib
  extract_lets a b s1
  have h1 : ExchangeKept s s1 n := exchangeKept_modAcc s n _ (by
    simp only [b]
    split <;> rfl)
  have h2 : ExchangeKept s1 (putReg s1 (accPage n) (accOff n + 0x10) (satWord (tickQuot (b.sum0 - b.sum1) 32))) n :=
    ⟨id, fun o _ _ h10 => rawReg_putReg_off _ _ _ _ _ (by omega), rfl⟩
  exact exchangeKept_ite h1 ((h1.trans h2).trans (exchangeKept_accSet _ n (by decide)))

theorem exchangeKept_accJudge (s : State) (n : Nat) (o : Int) : ExchangeKept s (accJudge s n o) n := by
  unfold accJudge
  extract_lets near g s1
  have h1 : ExchangeKept s s1 n := exchangeKept_modAcc s n _ rfl
  have hset {st : Nat} (h : st < 8) : ExchangeKept s (accSet s1 n st) n := h1.trans (exchangeKept_accSet s1 n h)
  split
  · exact exchangeKept_ite (hset (by decide)) h1
  · exact exchangeKept_ite (hset (by decide)) h1
  · exact exchangeKept_ite (hset (by decide)) h1
  · exact h1

theorem exchangeKept_servo (s : State) (n : Nat) (o : Int) (copy : Option (Nat × Nat)) : ExchangeKept s (servo s o copy) n := by
  obtain ⟨hm, hr, hk, -⟩ := servo_shown s o copy
  exact ⟨fun h => by rw [getAcc_of_tkp hk.acc, h], fun o ho _ _ => hr _ _ (accReg_apart n ho).2.2.1, hm⟩

theorem drspTake_shown (s : State) (n t4 : Nat) :
    let a := getAcc s n
    let off := tickQuot (ntDiff a.t2 a.t1 - ntDiff t4 a.t3) 2 - sgn 32 (rawReg s (accPage n) (accOff n + 0x10)).toNat
    let delay := tickQuot (ntDiff a.t2 a.t1 + ntDiff t4 a.t3) 2
    let u := drspTake s n t4
    (getAcc u n).open_ = false ∧ rawReg u (accPage n) (accOff n + 8) = satWord off
      ∧ rawReg u (accPage n) (accOff n + 0xC) = satWord delay ∧ u.mem = s.mem := by
  unfold drspTake
  extract_lets a off' delay p o x y raw off s1 s2 s3 u
  have ha : (getAcc s2 n).open_ = false := by
    show (getAcc s1 n).open_ = false
    simp only [s1, getAcc_modAcc_same]
  have h8 : rawReg s2 p (o + 8) = satWord off := by
    simp only [s2]
    rw [rawReg_putReg_off _ _ _ _ _ (by omega), rawReg_putReg_same]
  have hC : rawReg s2 p (o + 0xC) = satWord (tickQuot (x + y) 2) := rawReg_putReg_same _ _ _ _
  have hk : ExchangeKept s2 (if accState s n = 1 then accCalib s2 n raw
      else if tkpSrc s3 = 3 ∧ tkpPort s3 = n then servo s3 off (some (a.mera, a.mepoch)) else s3) n :=
    exchangeKept_ite (exchangeKept_accCalib s2 n raw)
      (exchangeKept_ite ((exchangeKept_accJudge s2 n off).trans (exchangeKept_servo _ n _ _)) (exchangeKept_accJudge s2 n off))
  exact ⟨hk.open_ ha, (hk.regs 8 (by decide) (by decide) (by decide)).trans h8,
    (hk.regs 0xC (by decide) (by decide) (by decide)).trans hC, hk.mem⟩

/-! ## SYNC of a master (R477, R484) -/

/-- The time of a port's last SYNC. -/
def sinceNow (s : State) (n : Nat) : State := modAcc s n (fun a => { a with since := eTime s })

theorem tkpTrace_sinceNow (s : State) (n : Nat) : tkpTrace (sinceNow s n) = tkpTrace s := by
  have h : (getAcc (sinceNow s n) (tkpPort s)).trace = (getAcc s (tkpPort s)).trace := by
    by_cases hp : tkpPort s = n
    · rw [hp, sinceNow, getAcc_modAcc_same]
    · rw [sinceNow, getAcc, modAcc, tabGet_tabPut_ne _ _ _ _ _ hp]
      rfl
  unfold tkpTrace
  rw [show tkpSrc (sinceNow s n) = tkpSrc s from rfl, show tkpState (sinceNow s n) = tkpState s from rfl,
    show tkpPort (sinceNow s n) = tkpPort s from rfl, h]

theorem syncSend_shown {s : State} {n : Nat} (hd : Due s ((getAcc s n).since + ticks 1000000)) :
    let u := syncSend s n
    u.out = s.out ++ [.sync n ⟨ntOf s, eraOf s, s.tkp.epoch, tkpHops s, tkpTrace s, (getLink s n).lanesel⟩]
      ∧ RegsBut s u [] ∧ u.mem = s.mem := by
  unfold syncSend
  extract_lets s1 s2 m u
  have h1 : s1 = s := atLeast_due hd
  have h2 : s2 = sinceNow s n := by
    rw [← h1]
    rfl
  have hm : m = ⟨ntOf s, eraOf s, s.tkp.epoch, tkpHops s, tkpTrace s, (getLink s n).lanesel⟩ := by
    rw [← tkpTrace_sinceNow s n]
    simp only [m, h2]
    rfl
  have hu : u = emit (sbPush (sinceNow s n) n (sbSync m)) (.sync n m) := by rw [← h2]
  rw [hu, ← hm]
  exact ⟨rfl, fun _ _ _ => rfl, rfl⟩

theorem execSync_slave {s : State} {n : Nat} (hup : linkUp s n = true) (hr : accRole s n = 2) (h0 : accState s n ≠ 0)
    (m : SyncMsg) (turn : Nat) : exec (.sync n m true turn) s = .next (syncTake s n m turn) := by
  show execSync n m true turn s = _
  rw [execSync, if_neg (fun h => by omega), if_neg (by rw [hup]; decide), if_neg (by decide), if_pos]
  simp [accHears, hup, hr, h0]

/-- Settles O39: each message of the exchange, and each loss of it. -/
theorem accordExchanges : Obligations.AccordExchanges := by
  unfold Obligations.AccordExchanges
  refine ⟨fun s n m turn sn lane hup h24 => ?_, fun s n h24 => ?_⟩
  · extract_lets a bad
    have hbad (c : Instr) (h : exec c s = .next (sbErr s n)) : bad c := ⟨_, h, sbErr_shown s n⟩
    refine ⟨fun hr hd => ?_, fun hs hm => ?_, fun hr => ?_, fun t4 hs ho hq => ?_, fun hr => ?_, ?_, ?_⟩
    · have hrun : execSync n m true turn s = .next (syncSend s n) := by
        rw [execSync, if_pos ⟨hup, hr⟩]
      exact ⟨_, hrun, syncSend_shown hd⟩
    · obtain ⟨hl, hrole, h0⟩ : linkUp s n = true ∧ accRole s n = 2 ∧ accState s n ≠ 0 := by
        simp only [accSlave, Bool.and_eq_true, beq_iff_eq, bne_iff_ne] at hs
        exact ⟨hup, hs.1.1.2, hs.1.2⟩
      obtain ⟨h1, h2, h3, h4, h5, -, h7, h8⟩ := syncTake_shown s n m turn
      exact ⟨_, execSync_slave hl hrole h0 m turn, h1, h2, h3, h4, h5, h7 hm, h8⟩
    · refine ⟨emit (sbPush (modLink s n (fun l => { l with lanesel := lane })) n (sbDrsp (ntOf s) sn.toNat)) (.drsp n (ntOf s) sn.toNat),
        ?_, rfl, ?_, fun _ _ _ => rfl, rfl⟩
      · show execDreq n sn lane true s = _
        rw [execDreq, if_neg (by rw [hup]; decide), if_neg (by decide), if_pos hr]
      · show (getLink (sbPush (modLink s n (fun l => { l with lanesel := lane })) n (sbDrsp (ntOf s) sn.toNat)) n).lanesel = lane
        rw [sbPush, getLink_modLink_same, getLink_modLink_same]
    · intro off delay
      refine ⟨_, ?_, drspTake_shown s n t4⟩
      show execDrsp n t4 sn true s = _
      rw [execDrsp, if_neg (by rw [hup]; decide), if_neg (by decide), if_pos ⟨hs, ho, hq⟩]
    · refine hbad _ ?_
      show execSync n m false turn s = _
      rw [execSync, if_neg (fun h => hr h.2), if_neg (by rw [hup]; decide), if_pos rfl]
    · refine hbad _ ?_
      show execDreq n sn lane false s = _
      rw [execDreq, if_neg (by rw [hup]; decide), if_pos rfl]
    · refine hbad _ ?_
      show execDrsp n 0 sn false s = _
      rw [execDrsp, if_neg (by rw [hup]; decide), if_pos rfl]
  · extract_lets a
    refine ⟨fun hr h0 h5 => ?_, fun h4 hd => ?_, fun h5 hr hup m turn => ?_, fun h12 hd => ?_⟩
    · obtain ⟨h1, h2, h3, h4⟩ := accMiss_shown s n
      refine ⟨_, ?_, h1, h2, h3, h4.time, h4.mem⟩
      show execAccordExchangeMiss n s = _
      rw [execAccordExchangeMiss, if_pos ⟨hr, h0, h5⟩]
    · obtain ⟨hk, hst, -⟩ := accSet_shown s n (st := 2) (by decide)
      refine ⟨_, ?_, hst, hk.time, hk.mem⟩
      show execAccordHoldoverTimeout n s = _
      rw [execAccordHoldoverTimeout, if_pos h4, atLeast_due hd]
    · obtain ⟨-, -, -, -, ⟨b, hb⟩, hst, -, hmem⟩ := syncTake_shown s n m turn
      exact ⟨_, b, execSync_slave hup hr (by omega) m turn, hb, by rw [hst, h5, ite_self], hmem⟩
    · obtain ⟨hk, hst, -⟩ := accSet_shown s n (st := 5) (by decide)
      refine ⟨_, ?_, hst, hk.time, hk.mem⟩
      show execAccordAcquireTimeout n s = _
      rw [execAccordAcquireTimeout, if_pos h12, atLeast_due hd]

end Sys2Proof.Machine
end

section
/-! PROOFS. MADDR and MNODE, the completion of a MOV command, and a resend (sections 6.5, 6.7, 6.8 and 6.11). -/

namespace Sys2Proof.Machine

/-! ## What the start of a MOV command finds (R268) -/

/-- A command at the head may start: MOV has no other in hand, and none waits for a queue. -/
theorem movHead_facts {s : State} {t opc : Nat} {q : QCmd} (h : movHead s t opc = some q) :
    movMayStart s t = true ∧ (getTile s t).movCur = none ∧ (getTile s t).stageQ = [] ∧ rbit s (.mov t) 0x010 1 = false
      ∧ cwEng q.word = 2 ∧ cwOpc q.word = opc := by
  unfold movHead at h
  split at h
  · next hq =>
    split at h
    · next hc =>
      cases h
      obtain ⟨hm, he, ho⟩ := hc
      refine ⟨hm, ?_, ?_, ?_, he, ho⟩ <;> simp only [movMayStart, movIdle, Bool.and_eq_true, Bool.not_eq_true'] at hm
      · exact Option.isNone_iff_eq_none.1 hm.2.1.1.1
      · exact List.isEmpty_iff.1 hm.2.1.1.2
      · exact hm.1.2
    · cases h
  · cases h

theorem events_movNote (s : State) (t code : Nat) (w : CmdWord) (tent : Bool) (ks : List Nat) : Events s (movNote s t code w tent) ks :=
  events_ite (.refl s ks) (events_sillage _ _ _ _ _ _ _ ks)

theorem eventFrame_movNote (s : State) (t code : Nat) (w : CmdWord) (tent : Bool) : EventFrame s (movNote s t code w tent) :=
  eventFrame_ite (.refl s) (eventFrame_sillage _ _ _ _ _ _ _)

theorem getTile_movNote (s : State) (t code : Nat) (w : CmdWord) (tent : Bool) (k : Nat) : getTile (movNote s t code w tent) k = getTile s k :=
  (events_movNote s t code w tent []).getTile k

/-! ## Descriptors (Table 6.5) -/

theorem madOff_bounds {lc k : Nat} (hlc : lc < 4) (hk : k < 8) : 0x400 ≤ madOff lc k ∧ madOff lc k ≤ 0x7E0 := by
  unfold madOff; omega

theorem quietOff_mad {lc k j : Nat} (hlc : lc < 4) (hk : k < 8) (hj : j < 0x20) : QuietOff (madOff lc k + j) := by
  obtain ⟨h1, h2⟩ := madOff_bounds hlc hk
  exact quietOff_of_le (by omega) (by omega)

/-- A descriptor by the words that hold it. -/
theorem getMad_of_words {s : State} {t lc k : Nat} {w0 w1 w2 w3 w4 : Word} (h0 : rawReg s (.mov t) (madOff lc k) = w0)
    (h1 : rawReg s (.mov t) (madOff lc k + 4) = w1) (h2 : rawReg s (.mov t) (madOff lc k + 8) = w2)
    (h3 : rawReg s (.mov t) (madOff lc k + 0xC) = w3) (h4 : rawReg s (.mov t) (madOff lc k + 0x10) = w4) :
    getMad s t lc k = ⟨fld w0 1 0, fld w0 2 2 == 1, w1.toNat + 2 ^ 32 * w2.toNat, w3, w4⟩ := by
  rw [← h0, ← h1, ← h2, ← h3, ← h4]
  rfl

theorem pair_toNat {a : Nat} (h : a < 2 ^ 48) :
    (BitVec.ofNat 32 a).toNat + 2 ^ 32 * (BitVec.ofNat 32 (a / 2 ^ 32 % 65536)).toNat = a := by
  rw [BitVec.toNat_ofNat, BitVec.toNat_ofNat]
  omega

/-- SPACE and AINC as one word holds them. -/
theorem fld_spaceWord {sp : Nat} (h : sp < 4) (inc : Bool) :
    fld (BitVec.ofNat 32 (sp + if inc then 4 else 0)) 1 0 = sp ∧ (fld (BitVec.ofNat 32 (sp + if inc then 4 else 0)) 2 2 == 1) = inc := by
  cases inc <;> interval_cases sp <;> decide

/-- A command that writes descriptors leaves the queue, and notes its start and its end. -/
def movNoted (s : State) (t : Nat) (w : CmdWord) (f : State → State) : State :=
  movNote (f (movNote (popMov s t) t 0x30 w false)) t 0x31 w false

theorem movNoted_shown {s : State} {t opc : Nat} {q : QCmd} (hq : (getTile s t).movQ = [q]) (h : movHead s t opc = some q)
    {f : State → State} {ks : List Nat} (hf : ∀ z, OnlyRegs z (f z) ∧ RegsBut z (f z) ks)
    (hc : ∀ z, rbit (f z) (.mov t) 0x010 1 = rbit z (.mov t) 0x010 1) :
    let z := movNote (popMov s t) t 0x30 q.word false
    let u := movPump (movNoted s t q.word f) t
    (∀ o, QuietOff o → rawReg u (.mov t) o = rawReg (f z) (.mov t) o) ∧ (∀ o, QuietOff o → rawReg z (.mov t) o = rawReg s (.mov t) o)
      ∧ (getTile u t).movQ = [] ∧ TileEvents s u ks t := by
  obtain ⟨-, hcur, hstage, hrst, -, -⟩ := movHead_facts h
  intro z u
  have hz : EventFrame (popMov s t) z := eventFrame_movNote _ _ _ _ _
  have hy : EventFrame (f z) (movNoted s t q.word f) := eventFrame_movNote _ _ _ _ _
  have htile : getTile (movNoted s t q.word f) t = { getTile s t with movQ := [] } := by
    rw [movNoted, getTile_movNote, (hf _).1, show ∀ (a b : State), getTile { a with regs := b.regs } t = getTile a t from fun _ _ => rfl,
      getTile_movNote, popMov, getTile_modTile_same, hq]
    rfl
  have hctl : rbit (movNoted s t q.word f) (.mov t) 0x010 1 = false := by
    rw [hy.rbit _ quietOff_ctl, hc, hz.rbit _ quietOff_ctl]
    exact hrst
  have hu : u = modTile (movNoted s t q.word f) t stageNone :=
    movPump_of_quiet ⟨by rw [htile], by rw [htile]; exact hcur, by rw [htile]; exact hstage⟩ hctl
  have hpop : TileEvents s (popMov s t) ks t := tileEvents_of (onlyTile_modTile s t _) (fun _ _ _ => rfl)
  have hnote : TileEvents (popMov s t) z ks t := (events_movNote _ _ _ _ _ ks).tile t
  have hset : TileEvents z (f z) ks t := tileEvents_of (by
    have ho := (hf z).1
    exact ⟨by rw [ho], fun k _ => by rw [ho]; rfl⟩) (hf z).2
  have hend : TileEvents (f z) (movNoted s t q.word f) ks t := (events_movNote _ _ _ _ _ ks).tile t
  have hlast : TileEvents (movNoted s t q.word f) u ks t := by
    rw [hu]
    exact tileEvents_of (onlyTile_modTile _ t _) (fun _ _ _ => rfl)
  refine ⟨fun o ho => ?_, fun o ho => hz.quiet _ _ ho, ?_, (((hpop.trans hnote).trans hset).trans hend).trans hlast⟩
  · rw [hu]
    exact hy.quiet _ _ ho
  · rw [hu, getTile_modTile_same, htile]
    rfl

/-- The writes of MADDR. -/
def maddrSet (t : Nat) (q : QCmd) (s : State) : State :=
  let k := cwBits q.word 79 77
  putMadAddr (putReg s (.mov t) (madOff q.lc k) (BitVec.ofNat 32 (cwBits q.word 76 75 + (if cwBit q.word 74 then 4 else 0)))) t q.lc k
    (cwBits q.word 47 0)

/-- The writes of MNODE. -/
def mnodeSet (t : Nat) (q : QCmd) (s : State) : State :=
  let o := madOff q.lc (cwBits q.word 79 77)
  putReg (putReg s (.mov t) (o + 0xC) (BitVec.ofNat 32 (cwBits q.word 63 32))) (.mov t) (o + 0x10) (BitVec.ofNat 32 (cwBits q.word 31 0))

theorem rawReg_maddrSet_off (s : State) (t : Nat) (q : QCmd) {r : Nat}
    (h : ∀ j ∈ [0, 4, 8], r ≠ madOff q.lc (cwBits q.word 79 77) + j) : rawReg (maddrSet t q s) (.mov t) r = rawReg s (.mov t) r := by
  simp only [maddrSet, putMadAddr]
  rw [rawReg_putReg_off _ _ _ _ _ (h 8 (by simp)), rawReg_putReg_off _ _ _ _ _ (h 4 (by simp))]
  exact rawReg_putReg_off s _ _ _ _ (h 0 (by simp))

/-- The words that MADDR writes. -/
theorem maddrSet_words (s : State) (t : Nat) (q : QCmd) :
    let o := madOff q.lc (cwBits q.word 79 77)
    let u := maddrSet t q s
    rawReg u (.mov t) o = BitVec.ofNat 32 (cwBits q.word 76 75 + (if cwBit q.word 74 then 4 else 0))
      ∧ rawReg u (.mov t) (o + 4) = BitVec.ofNat 32 (cwBits q.word 47 0)
      ∧ rawReg u (.mov t) (o + 8) = BitVec.ofNat 32 (cwBits q.word 47 0 / 2 ^ 32 % 65536) := by
  simp only [maddrSet, putMadAddr]
  generalize madOff q.lc (cwBits q.word 79 77) = o
  refine ⟨?_, ?_, rawReg_putReg_same _ _ _ _⟩
  · rw [rawReg_putReg_off _ _ _ _ _ (by omega), rawReg_putReg_off _ _ _ _ _ (by omega), rawReg_putReg_same]
  · rw [rawReg_putReg_off _ _ _ _ _ (by omega), rawReg_putReg_same]

/-- The words that MNODE writes. -/
theorem mnodeSet_words (s : State) (t : Nat) (q : QCmd) :
    let o := madOff q.lc (cwBits q.word 79 77)
    let u := mnodeSet t q s
    rawReg u (.mov t) (o + 0xC) = BitVec.ofNat 32 (cwBits q.word 63 32)
      ∧ rawReg u (.mov t) (o + 0x10) = BitVec.ofNat 32 (cwBits q.word 31 0) := by
  simp only [mnodeSet]
  generalize madOff q.lc (cwBits q.word 79 77) = o
  refine ⟨?_, rawReg_putReg_same _ _ _ _⟩
  rw [rawReg_putReg_off _ _ _ _ _ (by omega), rawReg_putReg_same]

theorem rawReg_mnodeSet_off (s : State) (t : Nat) (q : QCmd) {r : Nat}
    (h : ∀ j ∈ [0xC, 0x10], r ≠ madOff q.lc (cwBits q.word 79 77) + j) : rawReg (mnodeSet t q s) (.mov t) r = rawReg s (.mov t) r := by
  simp only [mnodeSet]
  rw [rawReg_putReg_off _ _ _ _ _ (h 0x10 (by simp)), rawReg_putReg_off _ _ _ _ _ (h 0xC (by simp))]

theorem exec_maddr {s : State} {t : Nat} {q : QCmd} (h : movHead s t 0x01 = some q) :
    exec (.maddr t) s = .next (movPump (movNoted s t q.word (maddrSet t q)) t) := by
  show execMaddr t s = _
  rw [execMaddr, h]
  rfl

theorem exec_mnode {s : State} {t : Nat} {q : QCmd} (h : movHead s t 0x02 = some q) :
    exec (.mnode t) s = .next (movPump (movNoted s t q.word (mnodeSet t q)) t) := by
  show execMnode t s = _
  rw [execMnode, h]
  rfl

/-! ## Completion (R278, R286) -/

/-- The command taken out of what MOV has outstanding. -/
def movRetired (s : State) (t : Nat) (c : MovCmd) : State :=
  modTile s t (fun x => { x with
    movOut := x.movOut.filter (fun d => d.id != c.id), srcResvs := x.srcResvs.filter (fun v => !(v.cmd == c.id && v.spent)) })

/-- Its semaphore. -/
def movSignalled (s : State) (t : Nat) (c : MovCmd) : State :=
  if !isSig c.cmd.word ∧ movCse c.cmd.word ∧ !c.failed then semOp s t c.cmd.lc (movCsem c.cmd.word) 1 1 else s

theorem movFinish_eq {s : State} {t : Nat} {m : MovCmd} (h : (getTile s t).movOut.find? (cmdOver (getTile s t)) = some m) :
    movFinish s t = if isSig m.cmd.word then movSignalled (movRetired s t m) t m
      else movNote (movSignalled (movRetired s t m) t m) t 0x31 m.cmd.word false := by
  unfold movFinish
  dsimp only
  rw [h]
  rfl

theorem movSignalled_shown (s : State) (t : Nat) {m : MovCmd} (hlc : m.cmd.lc < 4) :
    let u := movSignalled s t m
    (getSem u t (movCsem m.cmd.word)).toNat = (if isSig m.cmd.word = false ∧ movCse m.cmd.word ∧ m.failed = false then
        Nat.min ((getSem s t (movCsem m.cmd.word)).toNat + 1) 0xFFFFFFFF else (getSem s t (movCsem m.cmd.word)).toNat)
      ∧ OnlyRegs s u ∧ RegsBut s u [regKey (.seq t) (semOff (movCsem m.cmd.word)), regKey (.seq t) (lcStat m.cmd.lc)] := by
  unfold movSignalled
  extract_lets u
  by_cases h : isSig m.cmd.word = false ∧ movCse m.cmd.word ∧ m.failed = false
  · rw [if_pos h, show u = semOp s t m.cmd.lc (movCsem m.cmd.word) 1 1 from if_pos (by simpa using h)]
    exact semOp_add_shown s t hlc _ 1
  · rw [if_neg h, show u = s from if_neg (by simpa using h)]
    exact ⟨rfl, .refl s, .refl s _⟩

theorem movFinish_shown {s : State} {t : Nat} {m : MovCmd} (h : (getTile s t).movOut.find? (cmdOver (getTile s t)) = some m) (hlc : m.cmd.lc < 4) :
    let w := m.cmd.word
    let sem := movCsem w
    let u := movFinish s t
    (∀ d ∈ (getTile u t).movOut, d.id ≠ m.id)
      ∧ (getSem u t sem).toNat = (if isSig w = false ∧ movCse w ∧ m.failed = false then
          Nat.min ((getSem s t sem).toNat + 1) 0xFFFFFFFF else (getSem s t sem).toNat)
      ∧ TileEvents s u [regKey (.seq t) (semOff sem), regKey (.seq t) (lcStat m.cmd.lc)] t := by
  intro w sem u
  obtain ⟨hsem, ho, hr⟩ := movSignalled_shown (movRetired s t m) t hlc
  have hsem0 : getSem (movRetired s t m) t sem = getSem s t sem := rfl
  rw [hsem0] at hsem
  have htile : (getTile (movSignalled (movRetired s t m) t m) t).movOut = (getTile s t).movOut.filter (fun d => d.id != m.id) := by
    rw [ho, show ∀ (a b : State), getTile { a with regs := b.regs } t = getTile a t from fun _ _ => rfl, movRetired, getTile_modTile_same]
  have hgone : ∀ d ∈ (getTile s t).movOut.filter (fun d => d.id != m.id), d.id ≠ m.id := fun d hd => by
    simpa using (List.mem_filter.1 hd).2
  have h1 : TileEvents s (movRetired s t m) [regKey (.seq t) (semOff sem), regKey (.seq t) (lcStat m.cmd.lc)] t :=
    tileEvents_of (onlyTile_modTile s t _) (fun _ _ _ => rfl)
  have h2 : TileEvents (movRetired s t m) (movSignalled (movRetired s t m) t m) _ t :=
    tileEvents_of ⟨by rw [ho], fun k _ => by rw [ho]; rfl⟩ hr
  have hu : u = _ := movFinish_eq h
  have hsig : movCsem w < 64 := cwBits_lt w 67 62
  split at hu
  · exact ⟨by rw [hu, htile]; exact hgone, by rw [hu]; exact hsem, by rw [hu]; exact h1.trans h2⟩
  · refine ⟨by rw [hu, getTile_movNote, htile]; exact hgone, ?_, ?_⟩
    · rw [hu, getSem, (eventFrame_movNote _ _ _ _ _).quiet _ _ (quietOff_of_le (by unfold semOff; omega) (by unfold semOff; omega))]
      exact hsem
    · rw [hu]
      exact (h1.trans h2).trans ((events_movNote _ _ _ _ _ _).tile t)

/-! ## A resend (R289, R290) -/

/-- The request as it is sent again. -/
def resent (s : State) (t : Nat) (tag : Half) : State :=
  modTile s t (fun x => { x with
    movReqs := modFirst (fun q => q.tag == tag) (fun q => { q with due := none, inj := none, tries := q.tries + 1, pkt := { q.pkt with tent := false } }) x.movReqs })

/-- The event of a resend; none for a MSG (R422). -/
def resentNoted (s : State) (t : Nat) (r : MovReq) (tag : Half) : State :=
  if reqDark r then s else sillage s (.mov t) 0x33 false r.pkt.layer r.pkt.oper (BitVec.ofNat 32 tag.toNat)

theorem exec_movResend {s : State} {t d : Nat} {tag : Half} {r : MovReq} (hrun : movRuns s t)
    (hr : (getTile s t).movReqs.find? (fun r => r.tag == tag && r.due.isSome) = some r) (hd : r.due = some d) (h0 : 0 < d) (hle : d ≤ eTime s)
    (hroom : iqRoom s t r.iq) :
    exec (.movResend t tag) s = .next (iqPush (resentNoted (resent s t tag) t r tag) t r.iq { r.pkt with tent := false }) := by
  show execMovResend t tag s = _
  rw [execMovResend, hr]
  dsimp only
  rw [if_pos ⟨hrun, hroom⟩, hd, Option.getD_some, atLeast_of_le h0 hle]
  rfl

theorem iqOf_iqPush (s : State) (t q : Nat) (p : Packet) (h : q < (getTile s t).iq.length) :
    iqOf (getTile (iqPush s t q p) t) q = iqOf (getTile s t) q ++ [p] := by
  rw [iqPush, getTile_modTile_same, iqOf, iqOf, listMod]
  simp [h]

/-- Settles O22: the descriptors written, the command completed, the packet sent again. -/
theorem movDescriptorsAndEnds : Obligations.MovDescriptorsAndEnds := by
  unfold Obligations.MovDescriptorsAndEnds
  refine ⟨fun s t q hq hlc => ?_, fun s t hrun => ⟨fun m hm hlc => ?_, fun tag r d hr hd h0 hle hroom hiq => ?_⟩⟩
  · extract_lets k o old
    have hk : k < 8 := cwBits_lt q.word 79 77
    have hb : 0x400 ≤ madOff q.lc (cwBits q.word 79 77) ∧ madOff q.lc (cwBits q.word 79 77) ≤ 0x7E0 := madOff_bounds hlc hk
    have hquiet (j : Nat) (hj : j < 0x20) : QuietOff (o + j) := quietOff_mad hlc hk hj
    refine ⟨fun h => ?_, fun h => ?_⟩
    · obtain ⟨hset, hold, hgone, hev⟩ := movNoted_shown hq h (f := maddrSet t q) (ks := [o, o + 4, o + 8].map (regKey (.mov t)))
        (fun z => ⟨rfl, ((regsBut_putReg _ _ _ _ _ (by simp [o, k])).trans (regsBut_putReg _ _ _ _ _ (by simp [o, k]))).trans
          (regsBut_putReg _ _ _ _ _ (by simp [o, k]))⟩)
        (fun z => congrArg (· == 1) (rfld_of_raw 1 1 (rawReg_maddrSet_off z t q (by
          simp only [List.mem_cons, List.not_mem_nil, or_false]; omega))))
      refine ⟨_, exec_maddr h, ?_, hgone, hev⟩
      generalize hz : movNote (popMov s t) t 0x30 q.word false = z at hset hold
      generalize movPump (movNoted s t q.word (maddrSet t q)) t = u at hset
      obtain ⟨h0, h4, h8⟩ := maddrSet_words z t q
      rw [← hset o (hquiet 0 (by decide))] at h0
      rw [← hset _ (hquiet 4 (by decide))] at h4
      rw [← hset _ (hquiet 8 (by decide))] at h8
      have hrest (j : Nat) (hj : j < 0x20) (hj' : 0xC ≤ j) : rawReg u (.mov t) (o + j) = rawReg s (.mov t) (o + j) := by
        rw [hset _ (hquiet j hj), ← hold _ (hquiet j hj), rawReg_maddrSet_off z t q (by
          simp only [List.mem_cons, List.not_mem_nil, or_false, o, k]; omega)]
      rw [getMad_of_words h0 h4 h8 (hrest 0xC (by decide) (by decide)) (hrest 0x10 (by decide) (by decide))]
      obtain ⟨hsp, hinc⟩ := fld_spaceWord (cwBits_lt q.word 76 75) (cwBit q.word 74)
      rw [hsp, hinc, pair_toNat (cwBits_lt q.word 47 0)]
      rfl
    · obtain ⟨hset, hold, hgone, hev⟩ := movNoted_shown hq h (f := mnodeSet t q) (ks := [o + 0xC, o + 0x10].map (regKey (.mov t)))
        (fun z => ⟨rfl, (regsBut_putReg _ _ _ _ _ (by simp [o, k])).trans (regsBut_putReg _ _ _ _ _ (by simp [o, k]))⟩)
        (fun z => congrArg (· == 1) (rfld_of_raw 1 1 (rawReg_mnodeSet_off z t q (by
          simp only [List.mem_cons, List.not_mem_nil, or_false]; omega))))
      refine ⟨_, exec_mnode h, ?_, hgone, hev⟩
      generalize hz : movNote (popMov s t) t 0x30 q.word false = z at hset hold
      generalize movPump (movNoted s t q.word (mnodeSet t q)) t = u at hset
      obtain ⟨hC, h10⟩ := mnodeSet_words z t q
      rw [← hset _ (hquiet 0xC (by decide))] at hC
      rw [← hset _ (hquiet 0x10 (by decide))] at h10
      have hrest (j : Nat) (hj : j < 0xC) : rawReg u (.mov t) (o + j) = rawReg s (.mov t) (o + j) := by
        rw [hset _ (hquiet j (by omega)), ← hold _ (hquiet j (by omega)), rawReg_mnodeSet_off z t q (by
          simp only [List.mem_cons, List.not_mem_nil, or_false, o, k]; omega)]
      rw [getMad_of_words (hrest 0 (by decide)) (hrest 4 (by decide)) (hrest 8 (by decide)) hC h10]
      rfl
  · obtain ⟨h1, h2, h3⟩ := movFinish_shown hm hlc
    exact ⟨_, if_pos hrun, h1, h2, h3⟩
  · have htile : (getTile (resentNoted (resent s t tag) t r tag) t).iq = (getTile s t).iq := by
      have he : Events (resent s t tag) (resentNoted (resent s t tag) t r tag) [] :=
        events_ite (.refl _ _) (events_sillage _ _ _ _ _ _ _ _)
      rw [he.getTile, resent, getTile_modTile_same]
    have h1 : TileEvents s (resent s t tag) [] t := tileEvents_of (onlyTile_modTile s t _) (fun _ _ _ => rfl)
    have h2 : TileEvents (resent s t tag) (resentNoted (resent s t tag) t r tag) [] t :=
      Events.tile (events_ite (.refl _ _) (events_sillage _ _ _ _ _ _ _ _)) t
    refine ⟨_, exec_movResend hrun hr hd h0 hle hroom, ?_, (h1.trans h2).trans (tileEvents_of (onlyTile_modTile _ t _) (fun _ _ _ => rfl))⟩
    rw [iqOf_iqPush _ _ _ _ (by rw [htile]; exact hiq), iqOf, htile]
    rfl

end Sys2Proof.Machine
end

section
/-! PROOFS. A COPY within the tile (sections 6.5 and 6.6). -/

namespace Sys2Proof.Machine

/-! ## ADDR advances (R276) -/

/-- The registers of ADDR of descriptors of a context. -/
def addrKeys (t lc : Nat) (ks : List Nat) : List Nat := ks.flatMap (fun k => [madOff lc k + 4, madOff lc k + 8].map (regKey (.mov t)))

/-- A register that no descriptor of a context holds its ADDR in. -/
theorem not_mem_addrKeys {t lc o : Nat} {p : Page} {ks : List Nat} (hlc : lc < 4) (hks : ∀ k ∈ ks, k < 8) (ho : o < 0x1000)
    (h : ∀ k ∈ ks, o ≠ madOff lc k + 4 ∧ o ≠ madOff lc k + 8) : regKey p o ∉ addrKeys t lc ks := by
  intro hm
  obtain ⟨k, hk, hm⟩ := List.mem_flatMap.1 hm
  obtain ⟨h4, h8⟩ := h k hk
  obtain ⟨h1, h2⟩ := madOff_bounds hlc (hks k hk)
  simp only [List.map_cons, List.map_nil, List.mem_cons, List.not_mem_nil, or_false] at hm
  rcases hm with hm | hm
  · exact regKey_ne_of_off ho (by omega) h4 hm
  · exact regKey_ne_of_off ho (by omega) h8 hm

theorem putMadAddr_shown (s : State) (t lc k a : Nat) :
    let u := putMadAddr s t lc k a
    OnlyRegs s u ∧ RegsBut s u (addrKeys t lc [k]) ∧ (a < 2 ^ 48 → (getMad u t lc k).addr = a) := by
  refine ⟨rfl, (regsBut_putReg _ _ _ _ _ (by simp [addrKeys])).trans (regsBut_putReg _ _ _ _ _ (by simp [addrKeys])), fun ha => ?_⟩
  have h4 : rawReg (putMadAddr s t lc k a) (.mov t) (madOff lc k + 4) = BitVec.ofNat 32 a := by
    rw [putMadAddr, rawReg_putReg_off _ _ _ _ _ (by omega), rawReg_putReg_same]
  have h8 : rawReg (putMadAddr s t lc k a) (.mov t) (madOff lc k + 8) = BitVec.ofNat 32 (a / 2 ^ 32 % 65536) :=
    rawReg_putReg_same _ _ _ _
  rw [getMad_of_words rfl h4 h8 rfl rfl, pair_toNat ha]

/-- Other registers of descriptors, where some advance. -/
theorem getMad_addr_of_regsBut {s u : State} {t lc k : Nat} {ks : List Nat} (h : RegsBut s u (addrKeys t lc ks)) (hlc : lc < 4)
    (hk : k < 8) (hks : ∀ j ∈ ks, j < 8) (hn : k ∉ ks) : (getMad u t lc k).addr = (getMad s t lc k).addr := by
  obtain ⟨h1, h2⟩ := madOff_bounds hlc hk
  have hr (d : Nat) (hd : d = 4 ∨ d = 8) : rawReg u (.mov t) (madOff lc k + d) = rawReg s (.mov t) (madOff lc k + d) :=
    h _ _ (not_mem_addrKeys hlc hks (by omega) (fun j hj => by
      have hjk : j ≠ k := fun e => hn (e ▸ hj)
      unfold madOff
      omega))
  rw [getMad_of_words rfl (hr 4 (.inl rfl)) (hr 8 (.inr rfl)) rfl rfl]
  rfl

theorem aincAll_shown (s : State) (t n : Nat) {lc : Nat} (hlc : lc < 4) {ks : List Nat} (hks : ∀ k ∈ ks, k < 8) (hnd : ks.Nodup) :
    let u := aincAll s t lc n ks
    OnlyRegs s u ∧ RegsBut s u (addrKeys t lc ks)
      ∧ ∀ k, k < 8 → (getMad u t lc k).addr = if k ∈ ks then ((getMad s t lc k).addr + n) % 2 ^ 48 else (getMad s t lc k).addr := by
  induction ks generalizing s with
  | nil => exact ⟨.refl s, .refl s _, fun k _ => rfl⟩
  | cons j ks ih =>
    obtain ⟨hj, hnd⟩ := List.nodup_cons.1 hnd
    obtain ⟨h1, h2, h3⟩ := putMadAddr_shown s t lc j (((getMad s t lc j).addr + n) % 2 ^ 48)
    obtain ⟨k1, k2, k3⟩ := ih (putMadAddr s t lc j (((getMad s t lc j).addr + n) % 2 ^ 48)) (fun k hk => hks k (by simp [hk])) hnd
    intro u
    have hu : u = aincAll (putMadAddr s t lc j (((getMad s t lc j).addr + n) % 2 ^ 48)) t lc n ks := rfl
    generalize putMadAddr s t lc j (((getMad s t lc j).addr + n) % 2 ^ 48) = z at h1 h2 h3 k1 k2 k3 hu
    rw [← hu] at k1 k2 k3
    refine ⟨h1.trans k1, (h2.weaken ?_).trans (k2.weaken ?_), fun k hk => ?_⟩
    · intro x hx
      simp only [addrKeys, List.flatMap_cons, List.flatMap_nil, List.append_nil] at hx ⊢
      exact List.mem_append_left _ hx
    · intro x hx
      simp only [addrKeys, List.flatMap_cons]
      exact List.mem_append_right _ hx
    · have hz (hkj : k ≠ j) : (getMad z t lc k).addr = (getMad s t lc k).addr :=
        getMad_addr_of_regsBut h2 hlc hk (by simpa using hks j (by simp)) (by simpa using hkj)
      rw [k3 k hk]
      by_cases hkj : k = j
      · subst hkj
        rw [if_neg hj, if_pos (by simp), h3 (Nat.mod_lt _ (by decide))]
      · simp only [hz hkj, List.mem_cons, hkj, false_or]

theorem addFaults_nil (s : State) : addFaults s [] = s := rfl

/-- The descriptors of a command that have AINC, each once. -/
theorem incOf_shown (s : State) (t lc : Nat) (w : CmdWord) :
    (incOf s t lc w).Nodup ∧ (∀ k ∈ incOf s t lc w, k < 8)
      ∧ ∀ k, k = movSmad w ∨ k = movDmad w → (k ∈ incOf s t lc w ↔ (getMad s t lc k).ainc = true) := by
  have hs : movSmad w < 8 := cwBits_lt w _ _
  have hd : movDmad w < 8 := cwBits_lt w _ _
  refine ⟨(List.nodup_dedup _).filter _, fun k hk => ?_, fun k hk => ?_⟩
  · have hk := List.mem_dedup.1 (List.mem_filter.1 hk).1
    simp only [List.mem_cons, List.not_mem_nil, or_false] at hk
    omega
  · rw [incOf, List.mem_filter, List.mem_dedup]
    have hm : k ∈ [movSmad w, movDmad w] := by simpa using hk
    exact ⟨fun h => h.2, fun h => ⟨hm, h⟩⟩

theorem getMad_of_frame {s u : State} (h : EventFrame s u) (t : Nat) {lc k : Nat} (hlc : lc < 4) (hk : k < 8) :
    getMad u t lc k = getMad s t lc k := by
  have hr (j : Nat) (hj : j < 0x20) : rawReg u (.mov t) (madOff lc k + j) = rawReg s (.mov t) (madOff lc k + j) :=
    h.quiet _ _ (quietOff_mad hlc hk hj)
  rw [getMad_of_words (hr 0 (by decide)) (hr 4 (by decide)) (hr 8 (by decide)) (hr 0xC (by decide)) (hr 0x10 (by decide))]
  rfl

/-! ## The start of a command (R266 to R271) -/

/-- A COPY, MSG or CONTRIB taken from the queue. -/
def movTaken (s : State) (t : Nat) (q : QCmd) : State := movNote (popMov s t) t 0x30 q.word false

theorem movTaken_shown {s : State} {t opc : Nat} {q : QCmd} (hq : (getTile s t).movQ = [q]) (h : movHead s t opc = some q) (ks : List Nat) :
    let u := movTaken s t q
    EventFrame s u ∧ TileEvents s u ks t ∧ getTile u t = { getTile s t with movQ := [] } ∧ u.mem = s.mem ∧ u.ecc = s.ecc
      ∧ rbit u (.mov t) 0x010 1 = false := by
  have he := events_movNote (popMov s t) t 0x30 q.word false []
  have hp : EventFrame s (popMov s t) := eventFrame_of_regs rfl rfl
  have hf : EventFrame s (movTaken s t q) := hp.trans (eventFrame_movNote (popMov s t) t 0x30 q.word false)
  refine ⟨hf, (tileEvents_of (onlyTile_modTile s t _) (fun _ _ _ => rfl)).trans ((events_movNote _ _ _ _ _ ks).tile t), ?_, he.mem,
    by rw [movTaken, he.1]; rfl, ?_⟩
  · rw [movTaken, getTile_movNote, popMov, getTile_modTile_same, hq]
    rfl
  · rw [hf.rbit _ quietOff_ctl]
    exact (movHead_facts h).2.2.2.1

/-- An accepted command that is not tentative. -/
theorem movBegin_go {s : State} {t : Nat} {q : QCmd} (hten : isTent (getCtx s t q.lc) q.sn q.ds = false)
    (htot : movTotal q.word = 0 → cwOpc q.word = 0x11) {k : MovKind} {src dst : Side} (hplan : movPlan s t q.lc q.word = .go k src dst) :
    movBegin s t q = movPump (movGo (movTaken s t q) t q false k src dst) t := by
  unfold movBegin
  extract_lets w tent leave
  have htent : tent = false := hten
  rw [if_neg (fun h => by rw [htent] at h; exact absurd h.1 (by decide)), if_neg (fun h => h.2 (htot h.1)), htent, hplan]
  rfl

/-- A COPY of clean units within the tile. -/
theorem localCopy_clean {s : State} {t : Nat} {c : MovCmd} (hue : anyUE s (tmKey t c.src) c.total = false)
    (hce : countCE s (tmKey t c.src) c.total = 0) :
    localCopy s t c = modTile (memStore s (tmKey t c.dst) (readMem s (tmKey t c.src) c.total)) t
      (fun x => { x with movOut := x.movOut ++ [{ c with sent := true, cut := c.total }] }) := by
  unfold localCopy tileRead
  simp only [hue, hce, if_true, Bool.false_eq_true, if_false]

/-- What is held of a COPY within the tile when it starts. -/
structure LocalCmd (c : MovCmd) (q : QCmd) (src dst : Side) : Prop where
  cmd : c.cmd = q
  from_ : c.src = src.addr
  to_ : c.dst = dst.addr
  total : c.total = movTotal q.word
  good : c.failed = false

theorem movGo_local (s : State) (t : Nat) (q : QCmd) (src dst : Side) (hd : dst.space = 0) :
    ∃ c, LocalCmd c q src dst ∧ movGo s t q false .write src dst
      = localCopy (modTile (aincAll s t q.lc (movLen q.word) (incOf s t q.lc q.word)) t (fun x => { x with nextCmd := x.nextCmd + 1 })) t c := by
  unfold movGo
  extract_lets lc w remote pair fin s2 id c s3
  refine ⟨c, ⟨rfl, rfl, rfl, rfl, rfl⟩, ?_⟩
  rw [if_pos ⟨rfl, hd⟩]
  rfl

/-- Settles O23: the bytes move, and the descriptors advance. -/
theorem localCopyMovesBytes : Obligations.LocalCopyMovesBytes := by
  unfold Obligations.LocalCopyMovesBytes
  intro s t q src dst hq hh hten hlc hwf hplan hds hlen n hue hce inc
  obtain ⟨hfr, hev, htile, hmem, hecc, hctl⟩ := movTaken_shown hq hh (addrKeys t q.lc [movSmad q.word, movDmad q.word])
  obtain ⟨-, hcur, hstage, -, -, hopc⟩ := movHead_facts hh
  have htot : movTotal q.word = movLen q.word := by rw [movTotal, hopc]; rfl
  have hrun : exec (.copy t []) s = .next (movPump (movGo (movTaken s t q) t q false .write src dst) t) := by
    show execCopy t [] s = _
    rw [execCopy, hh]
    exact congrArg Host.Outcome.next (movBegin_go hten (fun h => absurd (htot ▸ h) hlen) hplan)
  generalize movTaken s t q = z at hfr hev htile hmem hecc hctl hrun
  obtain ⟨hnd, h8, hmemInc⟩ := incOf_shown z t q.lc q.word
  obtain ⟨ha, hr, haddr⟩ := aincAll_shown z t (movLen q.word) hlc h8 hnd
  obtain ⟨c, hc, hgo⟩ := movGo_local z t q src dst hds
  obtain ⟨y, hy⟩ : ∃ y, aincAll z t q.lc (movLen q.word) (incOf z t q.lc q.word) = y := ⟨_, rfl⟩
  rw [hy] at ha hr haddr hgo
  obtain ⟨x, hx⟩ : ∃ x, modTile y t (fun x => { x with nextCmd := x.nextCmd + 1 }) = x := ⟨_, rfl⟩
  have hxt : getTile x t = { getTile s t with movQ := [], nextCmd := (getTile s t).nextCmd + 1 } := by
    rw [← hx, getTile_modTile_same, ha, show ∀ (a b : State), getTile { a with regs := b.regs } t = getTile a t from fun _ _ => rfl, htile]
  have hxm : x.mem = s.mem := by rw [← hx, ← hmem, ← ha.mem]; rfl
  have hxe : x.ecc = s.ecc := by rw [← hx]; exact (congrArg State.ecc ha).trans hecc
  have hxr : ∀ p o, rawReg x p o = rawReg y p o := fun p o => by rw [← hx]; rfl
  have htotal : c.total = n := hc.total.trans htot
  rw [hx, localCopy_clean (by rw [hc.from_, htotal, anyUE, hxe]; exact hue) (by rw [hc.from_, htotal, countCE, hxe]; exact hce)] at hgo
  obtain ⟨e, he⟩ := memStore_shown x (tmKey t c.dst) (readMem x (tmKey t c.src) c.total)
  obtain ⟨v, hv⟩ : ∃ v, memStore x (tmKey t c.dst) (readMem x (tmKey t c.src) c.total) = v := ⟨_, rfl⟩
  have hbytes : readMem x (tmKey t c.src) c.total = readMem s (tmKey t src.addr) n := by rw [readMem, readMem, hxm, hc.from_, htotal]
  rw [hv] at hgo he
  have hvm : v.mem = putBytes s.mem (tmKey t dst.addr) (readMem s (tmKey t src.addr) n) := by rw [he, ← hbytes, ← hxm, ← hc.to_]
  have hvr : ∀ p o, rawReg v p o = rawReg y p o := fun p o => by rw [← hxr, he]; rfl
  have hvt : getTile v t = getTile x t := by rw [he]; rfl
  obtain ⟨w, hw⟩ : ∃ w, modTile v t (fun x => { x with movOut := x.movOut ++ [{ c with sent := true, cut := c.total }] }) = w := ⟨_, rfl⟩
  have hwt : getTile w t = { getTile x t with movOut := (getTile x t).movOut ++ [{ c with sent := true, cut := c.total }] } := by
    rw [← hw, getTile_modTile_same, hvt]
  have hwr : ∀ p o, rawReg w p o = rawReg y p o := fun p o => by rw [← hvr, ← hw]; rfl
  have hctlw : rbit w (.mov t) 0x010 1 = false := by
    refine (congrArg (· == 1) (rfld_of_raw 1 1 ?_)).trans hctl
    rw [hwr]
    refine hr _ _ (not_mem_addrKeys hlc h8 (by decide) (fun k hk => ?_))
    obtain ⟨hb, -⟩ := madOff_bounds hlc (h8 k hk)
    omega
  have hpump : movPump w t = modTile w t stageNone :=
    movPump_of_quiet ⟨by rw [hwt, hxt], by rw [hwt, hxt]; exact hcur, by rw [hwt, hxt]; exact hstage⟩ hctlw
  rw [hgo, hw, hpump] at hrun
  have hmemu : (modTile w t stageNone).mem = putBytes s.mem (tmKey t dst.addr) (readMem s (tmKey t src.addr) n) := by
    rw [← hvm, ← hw]; rfl
  have hlenb : (readMem s (tmKey t src.addr) n).length = n := length_getBytes _ _ _
  refine ⟨_, hrun, readMem_putBytes hwf hmemu hlenb, memBut_putBytes hmemu le_rfl (by rw [hlenb]), ?_, ?_, fun k hk => ?_, fun p o hp hevk => ?_⟩
  · rw [getTile_modTile_same, hwt, hxt]
    rfl
  · refine ⟨{ c with sent := true, cut := c.total }, ?_, hc.cmd, rfl, hc.good⟩
    rw [getTile_modTile_same, hwt]
    exact List.mem_append_right _ (List.mem_singleton_self _)
  · have hk8 : k < 8 := by
      rcases hk with rfl | rfl <;> exact cwBits_lt _ _ _
    have hmad : getMad (modTile w t stageNone) t q.lc k = getMad y t q.lc k :=
      getMad_of_words (hwr _ _) (hwr _ _) (hwr _ _) (hwr _ _) (hwr _ _)
    rw [hmad, haddr k hk8, getMad_of_frame hfr t hlc hk8]
    simp only [inc, hmemInc k hk, getMad_of_frame hfr t hlc hk8]
    rfl
  · have hp' : regKey p o ∉ addrKeys t q.lc (incOf z t q.lc q.word) := fun hm => hp (by
      obtain ⟨k, hk, hm⟩ := List.mem_flatMap.1 hm
      exact List.mem_flatMap.2 ⟨k, List.mem_dedup.1 (List.mem_filter.1 hk).1, hm⟩)
    exact ((hwr p o).trans (hr p o hp')).trans (hev.rawReg_eq hp hevk)

end Sys2Proof.Machine
end

section
/-! PROOFS. COPY to or from elsewhere, MSG and CONTRIB start (sections 6.5 to 6.7 and 6.9). -/

namespace Sys2Proof.Machine

/-! ## Reading the source of a packet (R708, R772) -/

/-- What reading a source keeps: memory, PG_CTL and the configuration word of every page, an empty queue of commands, and the number of
injection queues. An uncorrectable error may isolate the tile. -/
structure SourceKept (s u : State) (t : Nat) : Prop where
  mem : u.mem = s.mem
  regs : ∀ p o, o = 0x010 ∨ o = 0x080 → rawReg u p o = rawReg s p o
  movQ : (getTile s t).movQ = [] → (getTile u t).movQ = []
  iq : (getTile s t).iq.length = 4 → (getTile u t).iq.length = 4

theorem SourceKept.refl (s : State) (t : Nat) : SourceKept s s t := ⟨rfl, fun _ _ _ => rfl, id, id⟩
theorem SourceKept.trans {s u v : State} {t : Nat} (h : SourceKept s u t) (k : SourceKept u v t) : SourceKept s v t :=
  ⟨k.mem.trans h.mem, fun p o ho => (k.regs p o ho).trans (h.regs p o ho), k.movQ ∘ h.movQ, k.iq ∘ h.iq⟩

theorem sourceKept_ite {s u v : State} {t : Nat} {c : Prop} [Decidable c] (h : SourceKept s u t) (k : SourceKept s v t) :
    SourceKept s (if c then u else v) t := by
  split
  · exact h
  · exact k

theorem sourceKept_of_event {s u : State} {ks : List Nat} (h : Events s u ks) (hf : EventFrame s u) (t : Nat) : SourceKept s u t where
  mem := h.mem
  regs p o ho := hf.quiet _ _ (by rcases ho with rfl | rfl <;> exact ⟨by decide, by decide⟩)
  movQ hq := by rw [h.getTile]; exact hq
  iq hq := by rw [h.getTile]; exact hq

theorem sourceKept_putReg (s : State) (p : Page) {o : Nat} (v : Word) (t : Nat) (ho : o < 0x1000) (h10 : o ≠ 0x010) (h80 : o ≠ 0x080) :
    SourceKept s (putReg s p o v) t where
  mem := rfl
  regs q r hr := rawReg_putReg_ne _ _ _ _ _ _ (regKey_ne_of_off (by omega) ho (by omega))
  movQ := id
  iq := id

theorem sourceKept_setBkt (s : State) (kind inst : Nat) (b : Bucket) (t : Nat) : SourceKept s (setBkt s kind inst b) t :=
  ⟨rfl, fun _ _ _ => rfl, id, id⟩

theorem sourceKept_isrBit (s : State) (p : Page) (n t : Nat) : SourceKept s (isrBit s p n) t :=
  sourceKept_of_event (events_isrBit s p n _ []) (eventFrame_isrBit _ _ _ _) t

theorem sourceKept_isolate (s : State) (t cause : Nat) : SourceKept s (isolate s t cause) t := by
  unfold isolate
  refine sourceKept_ite (.refl s t) ?_
  extract_lets s1 s2
  have h1 : SourceKept s s1 t := (sourceKept_putReg s (.til t) (o := 0x084) _ t (by decide) (by decide) (by decide)).trans
    (sourceKept_putReg _ (.til t) (o := 0x084) _ t (by decide) (by decide) (by decide))
  have h2 : SourceKept s1 s2 t :=
    ⟨rfl, fun _ _ _ => rfl, fun _ => by rw [getTile_modTile_same], fun _ => by rw [getTile_modTile_same]; rfl⟩
  exact (h1.trans h2).trans (sourceKept_isrBit s2 _ _ t)

theorem sourceKept_rlogAdd (s : State) (kind inst cause errs t : Nat) : SourceKept s (rlogAdd s kind inst cause errs) t := by
  unfold rlogAdd
  extract_lets s1
  have h1 : SourceKept s s1 t := sourceKept_ite ⟨rfl, fun _ _ _ => rfl, id, id⟩
    ((sourceKept_putReg s .scr (o := 0x0A0) _ t (by decide) (by decide) (by decide)).trans (sourceKept_isrBit _ _ _ t))
  exact h1.trans (sourceKept_isrBit s1 _ _ t)

theorem sourceKept_retire (s : State) (t cause : Nat) : SourceKept s (retire s 4 t cause) t := by
  unfold retire
  extract_lets b s1 s2 s3
  have h2 : SourceKept s s2 t := (sourceKept_setBkt s 4 t _ t).trans (sourceKept_rlogAdd s1 4 t cause b.errs t)
  have h3 : SourceKept s2 s3 t := sourceKept_of_event (events_sillage _ _ _ _ _ _ _ []) (eventFrame_sillage _ _ _ _ _ _ _) t
  have h4 : SourceKept s3 (retireEffect s3 4 t) t := sourceKept_isolate s3 t 4
  exact ((h2.trans h3).trans h4).trans (sourceKept_of_event (events_errStop _ _ _ []) (eventFrame_errStop _ _ _) t)

theorem sourceKept_bucketErr (s : State) (t : Nat) : SourceKept s (bucketErr s 4 t) t := by
  unfold bucketErr
  extract_lets b thr b1 lv s1
  exact sourceKept_ite (sourceKept_setBkt s 4 t _ t)
    (sourceKept_ite ((sourceKept_setBkt s 4 t _ t).trans (sourceKept_retire s1 t 0)) (sourceKept_setBkt s 4 t _ t))

theorem sourceKept_uncorrected (s : State) (p : Page) (code : Nat) (tag layer oper : Half) (bits : Word) (quiet : Bool) (t : Nat) :
    SourceKept s (uncorrected s p code tag layer oper bits quiet) t :=
  (sourceKept_putReg s p (o := 0x040) _ t (by decide) (by decide) (by decide)).trans
    (sourceKept_of_event (events_captureOpen _ _ _ _ _ _ _ _ _ []) (eventFrame_captureOpen _ _ _ _ _ _ _ _ _) t)

theorem sourceKept_tileRead (s : State) (t k n : Nat) (lo : Half × Half) (dark : Bool) : SourceKept s (tileRead s t k n lo dark).2 t := by
  have h1 : SourceKept s (if countCE s k n = 0 then s else tileCE s t (countCE s k n)) t :=
    sourceKept_ite (.refl s t) (sourceKept_ite (.refl s t)
      (sourceKept_putReg s (.til t) (o := 0x040) _ t (by decide) (by decide) (by decide)))
  unfold tileRead
  dsimp only
  split
  · exact h1.trans ((sourceKept_uncorrected _ _ _ _ _ _ _ _ t).trans (sourceKept_bucketErr _ t))
  · exact h1

theorem sourceKept_readSource (s : State) (t : Nat) (c : MovCmd) : SourceKept s (readSource s t c) t := by
  unfold readSource
  split
  · exact sourceKept_tileRead s t _ _ _ _
  · exact .refl s t

/-! ## The packet that a command makes (Tables 6.7 and 8.5) -/

/-- The opcode of the packets of a command by its kind. -/
def kindOpc : MovKind → BitVec 8
  | .write | .multicast => opWR
  | .wra => opWRA
  | .regRead => opREGRD
  | .regWrite => opREGWR
  | .msg => opMSG
  | .contrib => opCONTRIB
  | .signal => opSIGNAL
  | .read | .staged => opRD

/-- The destination that a register access, a message or a contribution is sent to. -/
def fixedDst (c : MovCmd) : Word := if c.kind = .msg ∧ c.mc then mcNode c.node (rectOf c.rect) else c.node

theorem fixedDst_node {c : MovCmd} (h : c.kind ≠ .msg ∨ c.mc = false) : fixedDst c = c.node :=
  if_neg (fun hc => by rcases h with h | h <;> simp [hc] at h)

theorem fixedDst_rect {c : MovCmd} (h : c.kind = .msg) (hm : c.mc = true) : fixedDst c = mcNode c.node (rectOf c.rect) := if_pos ⟨h, hm⟩

/-- A packet as a command not staged makes it. -/
structure CutPacket (s : State) (t : Nat) (c : MovCmd) (p : Packet) : Prop where
  src : p.src = tileNode s t 0
  layer : p.layer = cwLayer c.cmd.word
  oper : p.oper = cwOper c.cmd.word
  opc : p.opc = kindOpc c.kind
  dst : c.kind = .regRead ∨ c.kind = .regWrite ∨ c.kind = .msg ∨ c.kind = .contrib → p.dst = fixedDst c

/-- What the header of a packet is but for its payload. -/
structure SameHdr (p q : Packet) : Prop where
  src : p.src = q.src
  layer : p.layer = q.layer
  oper : p.oper = q.oper
  opc : p.opc = q.opc
  dst : p.dst = q.dst
  tent : p.tent = q.tent

theorem sameHdr_loadPayload (s : State) (p : Packet) (k n : Nat) : SameHdr (loadPayload s p k n) p := ⟨rfl, rfl, rfl, rfl, rfl, rfl⟩

theorem CutPacket.same {s : State} {t : Nat} {c : MovCmd} {p q : Packet} (h : CutPacket s t c q) (e : SameHdr p q) : CutPacket s t c p where
  src := e.src.trans h.src
  layer := e.layer.trans h.layer
  oper := e.oper.trans h.oper
  opc := e.opc.trans h.opc
  dst hk := e.dst.trans (h.dst hk)

/-- The header of what a command sends of its own memory. -/
theorem sendHdr_shown (s : State) (t q : Nat) {c : MovCmd} (tag : Half) (o n : Nat)
    (hk : c.kind = .write ∨ c.kind = .wra ∨ c.kind = .multicast ∨ c.kind = .regWrite ∨ c.kind = .msg ∨ c.kind = .contrib) :
    let p := sendHdr s (cmdHdr s t q c.cmd.word tag) c o n
    CutPacket s t c p ∧ p.tent = false := by
  have hs : c.kind ≠ .staged := by rcases hk with h | h | h | h | h | h <;> simp [h]
  have hto : c.toNode = c.node := by rw [MovCmd.toNode, if_neg hs]
  have hsend : c.sends = c.kind := by rw [MovCmd.sends, if_neg hs]
  unfold sendHdr
  rw [hsend]
  rcases hk with h | h | h | h | h | h <;> rw [h]
  case inl | inr.inl | inr.inr.inl =>
    exact ⟨⟨rfl, rfl, rfl, by rw [h]; rfl, fun hd => by simp [h] at hd⟩, rfl⟩
  case inr.inr.inr.inl =>
    exact ⟨⟨rfl, rfl, rfl, by rw [h]; rfl, fun _ => hto.trans (fixedDst_node (.inl (by simp [h]))).symm⟩, rfl⟩
  case inr.inr.inr.inr.inl =>
    cases hm : c.mc
    · exact ⟨⟨rfl, rfl, rfl, by rw [h]; rfl, fun _ => hto.trans (fixedDst_node (.inr hm)).symm⟩, rfl⟩
    · exact ⟨⟨rfl, rfl, rfl, by rw [h]; rfl,
        fun _ => (congrArg (fun n => mcNode n (rectOf c.rect)) hto).trans (fixedDst_rect h hm).symm⟩, rfl⟩
  case inr.inr.inr.inr.inr =>
    exact ⟨⟨rfl, rfl, rfl, by rw [h]; rfl, fun _ => hto.trans (fixedDst_node (.inl (by simp [h]))).symm⟩, rfl⟩

theorem sendKind_ne_note (c : MovCmd) : sendKind c ≠ .note := by
  unfold sendKind
  split <;> simp

theorem mkReq_shown (s : State) (t : Nat) {c : MovCmd} (tag : Half) (hs : c.kind ≠ .staged) (hg : c.kind ≠ .signal) (ht : c.tent = false) :
    let r := mkReq s t c tag
    CutPacket s t c r.pkt ∧ r.iq = movIq c.cmd.word ∧ r.kind ≠ .note ∧ r.pkt.tent = false := by
  unfold mkReq
  simp only [if_neg hg]
  cases hk : c.kind
  case staged => exact absurd hk hs
  case signal => exact absurd hk hg
  case read =>
    exact ⟨⟨rfl, rfl, rfl, by rw [hk]; rfl, fun hd => by simp [hk] at hd⟩, rfl, by simp, ht⟩
  case regRead =>
    exact ⟨⟨rfl, rfl, rfl, by rw [hk]; rfl, fun _ => (fixedDst_node (.inl (by simp [hk]))).symm⟩, rfl, by simp, rfl⟩
  case regWrite =>
    obtain ⟨h1, h2⟩ := sendHdr_shown s t (movIq c.cmd.word) (c := c) tag 0 4 (by simp [hk])
    exact ⟨h1.same (sameHdr_loadPayload _ _ _ _), rfl, by simp, h2⟩
  case contrib =>
    obtain ⟨h1, h2⟩ := sendHdr_shown s t (movIq c.cmd.word) (c := c) tag (c.cut * tySize (cwBits c.cmd.word 15 13))
      (nextChunk c * tySize (cwBits c.cmd.word 15 13)) (by simp [hk])
    exact ⟨h1.same (sameHdr_loadPayload _ _ _ _), rfl, by simp, h2⟩
  case msg =>
    dsimp only
    split
    · obtain ⟨h1, h2⟩ := sendHdr_shown s t (movIq c.cmd.word) (c := c) tag 0 0 (by simp [hk])
      exact ⟨h1, rfl, by simp, h2⟩
    · obtain ⟨h1, h2⟩ := sendHdr_shown s t (movIq c.cmd.word) (c := c) tag 0 (nextChunk c) (by simp [hk])
      exact ⟨h1.same (sameHdr_loadPayload _ _ _ _), rfl, by simp, h2⟩
  case write | wra | multicast =>
    obtain ⟨h1, h2⟩ := sendHdr_shown s t (movIq c.cmd.word) (c := c) tag c.cut (nextChunk c) (by simp [hk])
    exact ⟨h1.same (sameHdr_loadPayload _ _ _ _), rfl, sendKind_ne_note c, h2⟩

/-- A packet of a command that is not tentative is not. -/
theorem mkReq_tent (s : State) (t : Nat) {c : MovCmd} (tag : Half) (h : c.tent = false) : (mkReq s t c tag).pkt.tent = false := by
  by_cases hs : c.kind = .staged
  · simp only [mkReq, hs]
    split <;> rfl
  · by_cases hg : c.kind = .signal
    · simp only [mkReq, hg]
      rfl
    · obtain ⟨-, -, -, ht⟩ := mkReq_shown s t tag hs hg h
      exact ht

/-! ## A step of the packet maker (R275) -/

/-- A command with its next packet made. -/
def cutNext (c : MovCmd) : MovCmd := { c with cut := c.cut + nextChunk c, sent := c.total ≤ c.cut + nextChunk c }

/-- The state in which the next packet is made, and what reading its source leaves. -/
def cutFrom (s : State) (t : Nat) (c : MovCmd) : State := (newTag s t c.cmd.lc).2
def cutAt (s : State) (t : Nat) (c : MovCmd) : State := modTile (readSource (cutFrom s t c) t c) t (fun x => { x with movCur := some (cutNext c) })

theorem cutStep_made {s : State} {t : Nat} {c : MovCmd} (hc : (getTile s t).movCur = some c) (hd : cutDone (getTile s t) c = false)
    (hcan : canCut s t c = true) (ht : c.tent = false) :
    cutStep s t = reqEnter (cutAt s t c) t (mkReq (cutFrom s t c) t c (newTag s t c.cmd.lc).1) := by
  have hr : ¬ ((cutReq s t c).1.kind = .rd ∧ (cutReq s t c).1.pkt.tent = true) := fun h => by
    have h0 : (cutReq s t c).1.pkt.tent = false := mkReq_tent (cutFrom s t c) t (newTag s t c.cmd.lc).1 ht
    rw [h0] at h
    exact absurd h.2 (by decide)
  unfold cutStep
  rw [hc]
  refine (if_neg (by rw [hd]; decide)).trans ((if_pos hcan).trans ?_)
  exact congrArg (fun z => reqEnter (modTile z t (fun x => { x with movCur := some (cutNext c) })) t
    (mkReq (cutFrom s t c) t c (newTag s t c.cmd.lc).1)) (if_neg hr)

theorem cutStep_other {s : State} {t : Nat} {c : MovCmd} (hc : (getTile s t).movCur = some c) :
    (cutDone (getTile s t) c = true → cutStep s t = modTile s t (fun x => { x with movCur := none, movOut := x.movOut ++ [c] }))
      ∧ (cutDone (getTile s t) c = false → canCut s t c = false → cutStep s t = s) := by
  unfold cutStep
  rw [hc]
  refine ⟨fun h => if_pos h, fun h h' => ?_⟩
  dsimp only
  rw [if_neg (by simp [h]), if_neg (by simp [h'])]

/-- The tile after a packet has entered its injection queue. -/
theorem reqEnter_shown (s : State) (t : Nat) (r : MovReq) :
    (∃ rq, getTile (reqEnter s t r) t = { getTile s t with iq := listMod (getTile s t).iq r.iq (· ++ [r.pkt]), movReqs := rq })
      ∧ ∃ l, reqEnter s t r = { s with tiles := l } := by
  unfold reqEnter
  dsimp only
  split
  · exact ⟨⟨_, by rw [iqPush, getTile_modTile_same]⟩, ⟨_, rfl⟩⟩
  · exact ⟨⟨_, by rw [getTile_modTile_same, iqPush, getTile_modTile_same]⟩, ⟨_, rfl⟩⟩

/-- The command of a MOV that makes packets, whatever it has made. -/
def SameCmd (c0 c : MovCmd) : Prop := c = { c0 with cut := c.cut, sent := c.sent }

/-- What the packet maker keeps while it works on a command. -/
structure Cutting (s u : State) (t : Nat) (c0 : MovCmd) : Prop where
  mem : u.mem = s.mem
  ctl : rbit u (.mov t) 0x010 1 = false
  own : ownPkg u = ownPkg s
  movQ : (getTile u t).movQ = []
  cur : ∀ c, (getTile u t).movCur = some c → SameCmd c0 c
  cmd : ∃ m ∈ (getTile u t).movOut ++ (getTile u t).movCur.toList, SameCmd c0 m

theorem cutAt_shown (s : State) (t : Nat) (c : MovCmd) :
    SourceKept s (cutAt s t c) t ∧ (getTile (cutAt s t c) t).movCur = some (cutNext c) := by
  have h1 : SourceKept s (cutFrom s t c) t :=
    ⟨rfl, fun _ _ _ => rfl, fun h => by rw [cutFrom, newTag, getTile_modTile_same]; exact h,
      fun h => by rw [cutFrom, newTag, getTile_modTile_same]; exact h⟩
  have h2 := sourceKept_readSource (cutFrom s t c) t c
  have h3 : SourceKept (readSource (cutFrom s t c) t c) (cutAt s t c) t :=
    ⟨rfl, fun _ _ _ => rfl, fun h => by rw [cutAt, getTile_modTile_same]; exact h, fun h => by rw [cutAt, getTile_modTile_same]; exact h⟩
  exact ⟨(h1.trans h2).trans h3, by rw [cutAt, getTile_modTile_same]⟩

theorem SameCmd.next {c0 c : MovCmd} (h : SameCmd c0 c) : SameCmd c0 (cutNext c) := by
  rw [SameCmd] at h ⊢
  rw [cutNext, h]

theorem SameCmd.tent {c0 c : MovCmd} (h : SameCmd c0 c) : c.tent = c0.tent := by rw [h]
theorem SameCmd.kind {c0 c : MovCmd} (h : SameCmd c0 c) : c.kind = c0.kind := by rw [h]
theorem SameCmd.cmd {c0 c : MovCmd} (h : SameCmd c0 c) : c.cmd = c0.cmd := by rw [h]

theorem CutPacket.ofCmd {s u : State} {t : Nat} {c0 c : MovCmd} {p : Packet} (h : CutPacket u t c p) (e : SameCmd c0 c)
    (ho : ownPkg u = ownPkg s) : CutPacket s t c0 p where
  src := by rw [h.src, tileNode, tileNode, ho]
  layer := by rw [h.layer, e.cmd]
  oper := by rw [h.oper, e.cmd]
  opc := by rw [h.opc, e.kind]
  dst hk := by
    rw [h.dst (by rw [e.kind]; exact hk), e]
    rfl

/-- A packet of the command waits in its injection queue. -/
def PacketOut (s u : State) (t : Nat) (c0 : MovCmd) : Prop :=
  (getTile u t).iq.length = 4 ∧ ∃ p ∈ iqOf (getTile u t) (movIq c0.cmd.word), CutPacket s t c0 p

theorem mem_iqOf_listMod (x : Tile) {k : Nat} (h : k < x.iq.length) (p : Packet) :
    p ∈ iqOf { x with iq := listMod x.iq k (· ++ [p]) } k := by
  simp [iqOf, listMod, h]

theorem Cutting.made {s u : State} {t : Nat} {c0 c : MovCmd} (h : Cutting s u t c0) (ht : c0.tent = false)
    (hc : (getTile u t).movCur = some c) (hd : cutDone (getTile u t) c = false) (hcan : canCut u t c = true) :
    Cutting s (cutStep u t) t c0
      ∧ (c0.kind ≠ .staged → c0.kind ≠ .signal → (getTile u t).iq.length = 4 → PacketOut s (cutStep u t) t c0) := by
  have hsame := h.cur c hc
  have htc : c.tent = false := hsame.tent.trans ht
  obtain ⟨hk, hcur⟩ := cutAt_shown u t c
  have hstep := cutStep_made hc hd hcan htc
  generalize hr : mkReq (cutFrom u t c) t c (newTag u t c.cmd.lc).1 = r at hstep
  obtain ⟨⟨rq, htile⟩, ⟨l, hrest⟩⟩ := reqEnter_shown (cutAt u t c) t r
  rw [← hstep] at htile hrest
  generalize cutStep u t = v at htile hrest
  have hreg : ∀ p o, o = 0x010 ∨ o = 0x080 → rawReg v p o = rawReg u p o := fun p o ho => by
    rw [hrest]
    exact hk.regs p o ho
  refine ⟨⟨?_, ?_, ?_, ?_, ?_, ?_⟩, fun hs hg hiq => ⟨?_, r.pkt, ?_, ?_⟩⟩
  · rw [hrest]
    exact hk.mem.trans h.mem
  · exact (congrArg (· == 1) (rfld_of_raw 1 1 (hreg _ _ (.inl rfl)))).trans h.ctl
  · exact (rfld_of_raw 9 0 (hreg _ _ (.inr rfl))).trans h.own
  · rw [htile]
    exact hk.movQ h.movQ
  · intro d hdd
    rw [htile] at hdd
    have : some (cutNext c) = some d := hcur.symm.trans hdd
    cases this
    exact hsame.next
  · refine ⟨cutNext c, ?_, hsame.next⟩
    rw [htile]
    dsimp only
    rw [hcur]
    exact List.mem_append_right _ (by simp)
  · rw [htile]
    simp only [listMod, List.length_modify]
    exact hk.iq hiq
  · have hq : r.iq = movIq c0.cmd.word := by
      rw [← hr, ← hsame.cmd]
      exact (mkReq_shown _ t _ (by rw [hsame.kind]; exact hs) (by rw [hsame.kind]; exact hg) htc).2.1
    have hlt : movIq c0.cmd.word < 4 := cwBits_lt _ _ _
    have hm := mem_iqOf_listMod (getTile (cutAt u t c) t) (k := r.iq) (by rw [hk.iq hiq, hq]; exact hlt) r.pkt
    rw [htile, ← hq]
    exact hm
  · rw [← hr]
    exact (mkReq_shown _ t _ (by rw [hsame.kind]; exact hs) (by rw [hsame.kind]; exact hg) htc).1.ofCmd hsame h.own

/-- A step of the packet maker on the command. -/
theorem Cutting.step {s u : State} {t : Nat} {c0 : MovCmd} (h : Cutting s u t c0) (ht : c0.tent = false) :
    Cutting s (cutStep u t) t c0
      ∧ (c0.kind ≠ .staged → c0.kind ≠ .signal → PacketOut s u t c0 → PacketOut s (cutStep u t) t c0) := by
  cases hc : (getTile u t).movCur with
  | none =>
    have hs : cutStep u t = u := by unfold cutStep; rw [hc]
    rw [hs]
    exact ⟨h, fun _ _ hp => hp⟩
  | some c =>
    obtain ⟨hdone, hwait⟩ := cutStep_other hc
    cases hd : cutDone (getTile u t) c with
    | true =>
      rw [hdone hd]
      refine ⟨⟨h.mem, h.ctl, h.own, ?_, ?_, ?_⟩, fun _ _ hp => ?_⟩
      · rw [getTile_modTile_same]
        exact h.movQ
      · intro d hdd
        rw [getTile_modTile_same] at hdd
        cases hdd
      · refine ⟨c, ?_, h.cur c hc⟩
        rw [getTile_modTile_same]
        simp
      · rw [PacketOut, getTile_modTile_same]
        exact hp
    | false =>
      cases hcan : canCut u t c with
      | false =>
        rw [hwait hd hcan]
        exact ⟨h, fun _ _ hp => hp⟩
      | true =>
        obtain ⟨h1, h2⟩ := h.made ht hc hd hcan
        exact ⟨h1, fun hs hg hp => h2 hs hg hp.1⟩

theorem Cutting.steps {s u : State} {t : Nat} {c0 : MovCmd} (ht : c0.tent = false) (n : Nat) (h : Cutting s u t c0) :
    let v := iter (fun s => cutStep s t) n u
    Cutting s v t c0 ∧ (c0.kind ≠ .staged → c0.kind ≠ .signal → PacketOut s u t c0 → PacketOut s v t c0) := by
  induction n generalizing u with
  | zero => exact ⟨h, fun _ _ hp => hp⟩
  | succ n ih =>
    obtain ⟨h1, h2⟩ := h.step ht
    obtain ⟨k1, k2⟩ := ih h1
    exact ⟨k1, fun hs hg hp => k2 hs hg (h2 hs hg hp)⟩

/-- The first of several steps makes a packet. -/
theorem Cutting.first {s u : State} {t : Nat} {c0 : MovCmd} (ht : c0.tent = false) (n : Nat) (h : Cutting s u t c0)
    (hs : c0.kind ≠ .staged) (hg : c0.kind ≠ .signal) (hc : (getTile u t).movCur = some c0) (hd : cutDone (getTile u t) c0 = false)
    (hcan : canCut u t c0 = true) (hiq : (getTile u t).iq.length = 4) : PacketOut s (iter (fun s => cutStep s t) (n + 1) u) t c0 := by
  obtain ⟨k1, k2⟩ := h.made ht hc hd hcan
  obtain ⟨-, k4⟩ := k1.steps ht n
  rw [iter]
  exact k4 hs hg (k2 hs hg hiq)

/-- MOV's work where no packet waits and no other command does. -/
theorem movPump_steps {u z y v : State} {t : Nat} (hz : stagePump u t = z) (hy : iter (fun s => cutStep s t) 12 z = y)
    (hv : iter (fun s => cutStep s t) 12 y = v) (hq : (getTile y t).movQ = []) (hctl : rbit v (.mov t) 0x010 1 = false) : movPump u t = v := by
  have hsig : sigStart y t = y := by unfold sigStart; rw [hq]
  rw [movPump, hz, hy, hsig, hv, movSrst, if_neg (by rw [hctl]; simp)]

/-- MOV works on a command: what it keeps, and the first packet where one can be made at once. -/
theorem movPump_cutting {s u : State} {t : Nat} {c0 : MovCmd} (h : Cutting s u t c0) (ht : c0.tent = false)
    (hstage : (getTile u t).stageQ = []) :
    let v := movPump u t
    Cutting s v t c0 ∧ (c0.kind ≠ .staged → c0.kind ≠ .signal → (getTile u t).movCur = some c0 → cutDone (getTile u t) c0 = false →
      canCut u t c0 = true → (getTile u t).iq.length = 4 → PacketOut s v t c0) := by
  have hstep : stagePump u t = modTile u t stageNone := by simp only [stagePump, hstage, List.foldl_nil]; rfl
  have htile : getTile (modTile u t stageNone) t = getTile u t := by
    rw [getTile_modTile_same, stageNone, ← hstage]
  have hcan' (hcan : canCut u t c0 = true) : canCut (modTile u t stageNone) t c0 = true := by
    rw [← hcan, canCut, canCut, iqRoom, iqRoom, htile]
  have h0 : Cutting s (modTile u t stageNone) t c0 :=
    ⟨h.mem, h.ctl, h.own, by rw [htile]; exact h.movQ, by rw [htile]; exact h.cur, by rw [htile]; exact h.cmd⟩
  obtain ⟨h1, -⟩ := h0.steps ht 12
  have hfirst := fun hs hg hc hd hcan hiq => h0.first ht 11 hs hg (by rw [htile]; exact hc) (by rw [htile]; exact hd) (hcan' hcan)
    (by rw [htile]; exact hiq)
  obtain ⟨h2, hp2⟩ := h1.steps ht 12
  have hv := movPump_steps hstep rfl rfl h1.movQ h2.ctl
  intro v
  rw [show v = _ from hv]
  exact ⟨h2, fun hs hg hc hd hcan hiq => hp2 hs hg (hfirst hs hg hc hd hcan hiq)⟩

/-! ## The plan of a command (Table 6.7, R306) -/

theorem copyKind_ne_signal {a b : Nat} {ack : Bool} {k : MovKind} (h : copyKind a b ack = some k) : k ≠ .signal := by
  unfold copyKind at h
  split at h <;> cases ack <;> cases h <;> simp

theorem movPair_ne_signal {s : State} {t lc : Nat} {w : CmdWord} {k : MovKind} (h : (movPair s t lc w).2.2 = some k) : k ≠ .signal := by
  unfold movPair at h
  extract_lets src dm queue at h
  have hqueue (d : Side) (j : MovKind) (hj : (queue d j).2.2 = some k) : k = j := by
    simp only [queue] at hj
    split at hj <;> cases hj
    rfl
  split at h
  · exact copyKind_ne_signal h
  · rw [hqueue _ _ h]; simp
  · rw [hqueue _ _ h]; simp

theorem viaLease_ne_signal {src dst : Side} {k : MovKind} (ack : Bool) (n : Nat) (h : k ≠ .signal) : (viaLease src dst k ack n).1 ≠ .signal := by
  unfold viaLease
  extract_lets out
  have hout : out ≠ .signal := by
    simp only [out]
    split
    · split <;> simp
    · exact h
  split
  · exact h
  · split
    · split <;> simp
    · split
      · split
        · exact hout
        · simp
      · exact h

/-- No command that the checks accept is a SIG. -/
theorem movPlan_ne_signal {s : State} {t lc : Nat} {w : CmdWord} {k : MovKind} {src dst : Side} (h : movPlan s t lc w = .go k src dst) :
    k ≠ .signal := by
  have hp := @movPair_ne_signal s t lc w
  unfold movPlan at h
  generalize movPair s t lc w = p at h hp
  obtain ⟨a, b, kind⟩ := p
  dsimp only at h hp
  cases kind with
  | none => cases h
  | some j =>
    dsimp only at h
    split_ifs at h
    cases h
    exact viaLease_ne_signal _ _ (hp rfl)

/-! ## A command starts (R268 to R271) -/

/-- A command that sends or fetches, as it starts. -/
structure RemoteCmd (c : MovCmd) (q : QCmd) (k : MovKind) (src dst : Side) : Prop where
  cmd : c.cmd = q
  kind : c.kind = k
  tent : c.tent = false
  sent : c.sent = false
  node : c.node = (if k = .read ∨ k = .regRead ∨ k = .staged then src else dst).node
  rect : c.rect = dst.rect
  mc : c.mc = match dst with
    | .queue _ _ m _ => m
    | _ => false

theorem movGo_remote (s : State) (t : Nat) (q : QCmd) {k : MovKind} (src : Side) {dst : Side} (h : k = .write → dst.space ≠ 0) :
    ∃ c, RemoteCmd c q k src dst ∧ movGo s t q false k src dst
      = modTile (modTile (aincAll s t q.lc (movLen q.word) (incOf s t q.lc q.word)) t (fun x => { x with nextCmd := x.nextCmd + 1 })) t
          (fun x => { x with movCur := some c }) := by
  unfold movGo
  extract_lets lc w remote pair fin s2 id c s3
  refine ⟨c, ⟨rfl, rfl, rfl, rfl, rfl, rfl, ?_⟩, ?_⟩
  · cases dst <;> rfl
  · rw [if_neg (fun hc => h hc.1 hc.2), if_neg (by simp)]
    rfl

/-- A command that the checks refuse. -/
def planRefused (s : State) (t : Nat) (q : QCmd) (r : Nat) : State :=
  modTile (pelAdd (movTaken s t q) t q.lc 0 (cwLayer q.word) (cwOper q.word) r 0 (movDark q.word)) t
    (fun x => { x with nextCmd := x.nextCmd + 1, movOut := x.movOut ++
      [{ id := x.nextCmd, cmd := q, kind := .write, sent := true, failed := true }] })

theorem movBegin_refuse {s : State} {t : Nat} {q : QCmd} (hten : isTent (getCtx s t q.lc) q.sn q.ds = false)
    (htot : movTotal q.word = 0 → cwOpc q.word = 0x11) {r : Nat} (hplan : movPlan s t q.lc q.word = .refuse r) :
    movBegin s t q = planRefused s t q r := by
  unfold movBegin
  extract_lets w tent leave s1
  have htent : tent = false := hten
  have h1 : s1 = movTaken s t q := by simp only [s1, htent]; rfl
  rw [if_neg (fun h => by rw [htent] at h; exact absurd h.1 (by decide)), if_neg (fun h => h.2 (htot h.1)), hplan, htent, h1]
  rfl

theorem exec_begin {s : State} {t opc : Nat} {c : Instr} {q : QCmd}
    (hc : (c, opc) ∈ [(Instr.copy t [], 0x10), (.movMsg t [], 0x11), (.movContrib t [], 0x12)]) (hh : movHead s t opc = some q) :
    exec c s = .next (movBegin s t q) := by
  simp only [List.mem_cons, Prod.mk.injEq, List.not_mem_nil, or_false] at hc
  rcases hc with ⟨rfl, rfl⟩ | ⟨rfl, rfl⟩ | ⟨rfl, rfl⟩
  · show execCopy t [] s = _
    rw [execCopy, hh]; rfl
  · show execMovMsg t [] s = _
    rw [execMovMsg, hh]; rfl
  · show execMovContrib t [] s = _
    rw [execMovContrib, hh]; rfl

/-- Settles O24: the first packet of an accepted command, and the refusal. -/
theorem movCommandsStart : Obligations.MovCommandsStart := by
  unfold Obligations.MovCommandsStart
  intro s t opc c hc q hq hh hten hlc htot
  have hopc := (movHead_facts hh).2.2.2.2.2
  have htot' : movTotal q.word = 0 → cwOpc q.word = 0x11 := fun h0 => by
    by_contra hne
    exact htot (hopc ▸ hne) h0
  refine ⟨fun k src dst hplan hk => ?_, fun r hplan => ?_⟩
  · obtain ⟨hfr, -, htile, hmem, -, hctl⟩ := movTaken_shown hq hh []
    obtain ⟨-, hcur, hstage, -, -, -⟩ := movHead_facts hh
    have hrun : exec c s = .next (movPump (movGo (movTaken s t q) t q false k src dst) t) :=
      (exec_begin hc hh).trans (congrArg Host.Outcome.next (movBegin_go hten htot' hplan))
    obtain ⟨c0, h0, hgo⟩ := movGo_remote (movTaken s t q) t q src hk
    rw [hgo] at hrun
    generalize movTaken s t q = z at hfr htile hmem hctl hrun hgo
    obtain ⟨hnd, h8, -⟩ := incOf_shown z t q.lc q.word
    obtain ⟨ha, hr, -⟩ := aincAll_shown z t (movLen q.word) hlc h8 hnd
    generalize aincAll z t q.lc (movLen q.word) (incOf z t q.lc q.word) = y at ha hr hrun
    obtain ⟨x, hx⟩ : ∃ x, modTile (modTile y t (fun x => { x with nextCmd := x.nextCmd + 1 })) t (fun x => { x with movCur := some c0 }) = x :=
      ⟨_, rfl⟩
    have hyt : getTile y t = { getTile s t with movQ := [] } :=
      (show getTile y t = getTile z t by rw [ha]; rfl).trans htile
    have hxt : getTile x t = { getTile s t with movQ := [], nextCmd := (getTile s t).nextCmd + 1, movCur := some c0 } := by
      rw [← hx, getTile_modTile_same, getTile_modTile_same, hyt]
    have hxr : ∀ p o, o < 0x400 → rawReg x p o = rawReg z p o := fun p o ho => by
      rw [← hx]
      refine hr _ _ (not_mem_addrKeys hlc h8 (by omega) (fun j hj => ?_))
      obtain ⟨hb, -⟩ := madOff_bounds hlc (h8 j hj)
      omega
    rw [hx] at hrun
    have hcutting : Cutting s x t c0 := by
      refine ⟨?_, ?_, ?_, ?_, ?_, ?_⟩
      · rw [← hx, ← hmem, ← ha.mem]; rfl
      · exact (congrArg (· == 1) (rfld_of_raw 1 1 (hxr _ _ (by decide)))).trans hctl
      · exact (rfld_of_raw 9 0 (hxr _ _ (by decide))).trans (rfld_of_raw 9 0 (hfr.quiet _ _ ⟨by decide, by decide⟩))
      · rw [hxt]
      · intro c hcc
        rw [hxt] at hcc
        cases hcc
        rfl
      · exact ⟨c0, by rw [hxt]; simp, rfl⟩
    obtain ⟨hv, hfirst⟩ := movPump_cutting hcutting h0.tent (by rw [hxt]; exact hstage)
    refine ⟨_, hrun, hv.movQ, hv.mem, ?_, fun hiq hroom hspare hks => ?_⟩
    · obtain ⟨m, hm, hs⟩ := hv.cmd
      exact ⟨m, hm, hs.cmd.trans h0.cmd, hs.kind.trans h0.kind⟩
    · have hg := movPlan_ne_signal hplan
      have hcan : canCut x t c0 = true := by
        have hspare' : tagSpare (getTile x t) c0.cmd.lc 1 = true := by rw [hxt, h0.cmd]; exact hspare
        have hroom' : iqRoom x t (movIq q.word) = true := by rw [iqRoom, hxt]; exact hroom
        simp only [canCut, h0.sent, h0.kind, h0.tent, h0.cmd, if_neg hks, if_neg hg] at hspare' ⊢
        simp [hspare', hroom', hks]
      obtain ⟨-, p, hp, hpk⟩ := hfirst (by rw [h0.kind]; exact hks) (by rw [h0.kind]; exact hg) (by rw [hxt]) (by rw [cutDone, h0.sent]; rfl) hcan
        (by rw [hxt]; exact hiq)
      rw [h0.cmd] at hp
      refine ⟨p, hp, hpk.src, by rw [hpk.layer, h0.cmd], by rw [hpk.oper, h0.cmd], ?_⟩
      have ho := hpk.opc
      have hd := hpk.dst
      have hnode := h0.node
      rw [h0.kind] at ho hd
      cases k <;> simp only [kindOpc] at ho <;> simp only [List.mem_singleton, Prod.mk.injEq, ho, and_true, true_and]
      case signal => exact absurd rfl hg
      case regRead | regWrite | contrib =>
        rw [hd (by simp), fixedDst_node (.inl (by simp [h0.kind])), hnode]
        rfl
      case msg =>
        rw [hd (by simp)]
        cases dst with
        | queue n rect m a =>
          cases m with
          | true => rw [fixedDst_rect h0.kind h0.mc, hnode, h0.rect]; rfl
          | false => rw [fixedDst_node (.inr h0.mc), hnode]; rfl
        | _ => rw [fixedDst_node (.inr h0.mc), hnode]; rfl
  · obtain ⟨hfr, hev, htile, hmem, -, -⟩ := movTaken_shown hq hh []
    have hrun : exec c s = .next (planRefused s t q r) :=
      (exec_begin hc hh).trans (congrArg Host.Outcome.next (movBegin_refuse hten htot' hplan))
    have hpel := events_pelAdd (movTaken s t q) t q.lc 0 (cwLayer q.word) (cwOper q.word) r 0 (movDark q.word)
    have hfail : rbit (planRefused s t q r) (.mov t) (0x0A0 + 4 * q.lc) 0 = true := by
      refine (congrArg (· == 1) (rfld_of_raw 0 0 (rawReg_pelAdd (movTaken s t q) t q.lc 0 (cwLayer q.word) (cwOper q.word) r 0 (movDark q.word)
        (o := 0x0A0 + 4 * q.lc) (quietOff_of_le (by omega) (by omega)) (by omega)))).trans ?_
      exact rbit_putBit_same _ _ _ _ _ (by decide)
    have hut : getTile (planRefused s t q r) t = { getTile s t with
        movQ := [], nextCmd := (getTile s t).nextCmd + 1, movOut := (getTile s t).movOut ++
          [{ id := (getTile s t).nextCmd, cmd := q, kind := .write, sent := true, failed := true }] } := by
      rw [planRefused, getTile_modTile_same, hpel.getTile, htile]
    refine ⟨_, hrun, by rw [hut], hfail, hpel.mem.trans hmem,
      ⟨{ id := (getTile s t).nextCmd, cmd := q, kind := .write, sent := true, failed := true }, ?_, rfl, rfl⟩, by rw [hut]⟩
    rw [hut]
    exact List.mem_append_right _ (List.mem_singleton_self _)

end Sys2Proof.Machine
end

section
/-! PROOFS. What events leave of the host interface and of the output record, and host reads and writes, their resends and
timeouts (sections 14.3, 14.4 and 14.8). -/

namespace Sys2Proof.Machine

/-! ## The host interface under events (R621 to R624) -/

/-- Of the host interface only the message table may differ, and what was put out before stands first. -/
structure HifKept (s u : State) : Prop where
  hif : u.hif = { s.hif with vecs := u.hif.vecs }
  out : s.out <+: u.out

theorem HifKept.refl (s : State) : HifKept s s := ⟨rfl, List.prefix_rfl⟩

theorem HifKept.trans {s u v : State} (h : HifKept s u) (k : HifKept u v) : HifKept s v :=
  ⟨by rw [k.hif, h.hif], h.out.trans k.out⟩

theorem HifKept.accs {s u : State} (h : HifKept s u) : u.hif.accs = s.hif.accs := by rw [h.hif]
theorem HifKept.rds {s u : State} (h : HifKept s u) : u.hif.rds = s.hif.rds := by rw [h.hif]

theorem hifKept_ite {s u v : State} {c : Prop} [Decidable c] (h : HifKept s u) (k : HifKept s v) :
    HifKept s (if c then u else v) := by
  split
  · exact h
  · exact k

theorem hifKept_of {s u : State} (h : u.hif = s.hif) (ho : u.out = s.out) : HifKept s u := ⟨by rw [h], by rw [ho]⟩

theorem hifKept_emit (s : State) (o : OutMsg) : HifKept s (emit s o) := ⟨rfl, List.prefix_append _ _⟩

theorem hifKept_putReg (s : State) (p : Page) (o : Nat) (v : Word) : HifKept s (putReg s p o v) := hifKept_of rfl rfl

theorem hifKept_msixSend (s : State) (v : Nat) : HifKept s (msixSend s v) :=
  HifKept.trans (u := setVec s v _) ⟨rfl, List.prefix_rfl⟩ (hifKept_emit _ _)

theorem hifKept_setVec (s : State) (v : Nat) (x : MsixVec) : HifKept s (setVec s v x) := ⟨rfl, List.prefix_rfl⟩

theorem hifKept_msixRequest (s : State) (v : Nat) : HifKept s (msixRequest s v) := by
  unfold msixRequest
  extract_lets x
  refine hifKept_ite (hifKept_setVec _ _ _) ?_
  split
  · exact hifKept_ite (hifKept_setVec _ _ _) (hifKept_msixSend _ _)
  · exact hifKept_msixSend _ _

theorem hifKept_irqMessage (s : State) (p : Page) : HifKept s (irqMessage s p) := by
  unfold irqMessage
  extract_lets s1
  have h1 : HifKept s s1 := hifKept_ite (hifKept_msixRequest _ _) (.refl _)
  exact hifKept_ite (h1.trans (hifKept_emit _ _)) h1

theorem hifKept_record (s : State) (p : Page) (code : Nat) (tent : Bool) (layer oper : Half) (detail : Word) :
    HifKept s (record s p code tent layer oper detail) := by
  unfold record
  dsimp only
  exact hifKept_ite (.refl _) (hifKept_of rfl rfl)

theorem hifKept_isrCore (s : State) (p : Page) (mask : Word) (lo : Half × Half) : HifKept s (isrCore s p mask lo) := by
  have k := hifKept_putReg s p 0x020 (rawReg s p 0x020 ||| mask)
  unfold isrCore
  dsimp only
  exact hifKept_ite ((k.trans (hifKept_irqMessage _ _)).trans (hifKept_record _ _ _ _ _ _ _)) k

theorem hifKept_sendWave (s : State) (fr : Option Nat) (code : BitVec 7) : HifKept s (sendWave s fr code) :=
  List.foldlRecOn (motive := HifKept s) _ _ (.refl _) fun z hz n _ =>
    hz.trans (hifKept_ite ((hifKept_of rfl rfl : HifKept z (sbWave z n code)).trans (hifKept_emit _ _)) (.refl _))

theorem hifKept_stopTrigger (s : State) (cause : Nat) (src : Word) (fr : Option Nat) :
    HifKept s (stopTrigger s cause src fr) := by
  unfold stopTrigger
  extract_lets s1 a b s2 dbg s3 s4
  have k2 : HifKept s s2 := hifKept_ite (hifKept_of rfl rfl) (hifKept_of rfl rfl)
  have k3 : HifKept s2 s3 := hifKept_of rfl rfl
  have k4 : HifKept s3 s4 := hifKept_ite (hifKept_emit _ _) (.refl _)
  exact hifKept_ite k2 ((((k2.trans k3).trans k4).trans (hifKept_sendWave s4 fr 1)).trans (hifKept_isrCore _ _ _ _))

theorem hifKept_silMatch (s : State) (p : Page) (code : Nat) (layer oper : Half) :
    HifKept s (silMatch s p code layer oper) := by
  unfold silMatch
  split
  · exact .refl _
  · rename_i t u _
    have k := hifKept_isrCore s (.dbg t) 8 (0, 0)
    exact hifKept_ite (hifKept_ite (k.trans (hifKept_stopTrigger _ _ _ _)) k) (.refl _)

theorem hifKept_sillage (s : State) (p : Page) (code : Nat) (tent : Bool) (layer oper : Half) (detail : Word) :
    HifKept s (sillage s p code tent layer oper detail) :=
  hifKept_ite ((hifKept_record _ _ _ _ _ _ _).trans (hifKept_silMatch _ _ _ _ _)) (.refl _)

theorem hifKept_isrSet (s : State) (p : Page) (mask : Word) (lo : Half × Half) : HifKept s (isrSet s p mask lo) := by
  have k := hifKept_isrCore s p mask lo
  exact hifKept_ite (k.trans (hifKept_silMatch _ _ _ _ _)) k

theorem hifKept_errStop (s : State) (p : Page) (cls : Option Nat) : HifKept s (errStop s p cls) := by
  unfold errStop
  split
  · exact hifKept_ite (hifKept_stopTrigger _ _ _ _) (.refl _)
  · exact .refl _

theorem hifKept_captureCore (quiet : Bool) (s : State) (p : Page) (code : Nat) (tag layer oper : Half) (detail : Word)
    (cls : Option Nat) (bits : Word) : HifKept s (captureCore quiet s p code tag layer oper detail cls bits) := by
  unfold captureCore
  extract_lets s1 s2 s3 s4 s5 s6
  have k : HifKept s s1 := hifKept_of rfl rfl
  have k5 : HifKept s s5 := hifKept_of rfl rfl
  have k6 : HifKept s5 s6 := hifKept_ite (.refl _) (hifKept_sillage _ _ _ _ _ _ _)
  exact hifKept_ite (hifKept_ite k (k.trans (hifKept_isrSet _ _ _ _)))
    (((k5.trans k6).trans (hifKept_isrSet _ _ _ _)).trans (hifKept_errStop _ _ _))

theorem hifKept_captureOpen (quiet : Bool) (s : State) (p : Page) (code : Nat) (tag layer oper : Half)
    (cls : Option Nat) (bits : Word) : HifKept s (captureOpen quiet s p code tag layer oper cls bits) :=
  HifKept.trans (u := (takeFree s).2) (hifKept_of rfl rfl) (hifKept_captureCore _ _ _ _ _ _ _ _ _ _)

/-! ## Completion of a read that stands alone (R618) -/

/-- Every part of a read is answered or has its request under way: none awaits earlier writes (R133). -/
def PartsSent (l : List HostPart) : Prop := ∀ p ∈ l, ¬(p.tag = none ∧ p.res = none)

theorem syncPump_sent {s : State} {id : Nat} {l : List HostPart} (hr : s.hif.rds = [⟨id, l⟩]) (hl : PartsSent l) :
    syncPump s = rdPump s := by
  have hmap : l.map (fun p => if p.tag = none ∧ p.res = none then { p with res := some (.sc, [0, 0, 0, 0]) } else p) = l := by
    conv_rhs => rw [← List.map_id l]
    exact List.map_congr_left fun p hp => if_neg (hl p hp)
  unfold syncPump
  simp only [hr, List.map_cons, List.map_nil, hmap, ite_self, modHif]
  rw [← hr]

theorem syncPump_none {s : State} (hr : s.hif.rds = []) : syncPump s = s := by
  unfold syncPump
  simp only [rdPump, modHif, hr, List.map_nil, List.foldl_nil]
  rw [← hr]

theorem rdPump_open {s : State} {r : HostRd} (hr : s.hif.rds = [r]) (h : rdResult r = none) : rdPump s = s := by
  simp [rdPump, hr, h]

theorem rdPump_whole {s : State} {r : HostRd} {c : Cpl} {bs : List Byte} (hr : s.hif.rds = [r])
    (h : rdResult r = some (c, bs)) :
    rdPump s = emit (modHif s (fun h => { h with rds := [] })) (.host r.id c bs) := by
  simp [rdPump, hr, h, modHif]

/-! ## Requests of the host interface (R615 to R617) -/

/-- The packet of a request. -/
def hostPacket (s : State) (dst : Word) (op : BitVec 8) (addr aux : Nat) (bs : List Byte) (be : BitVec 4) : Packet :=
  let p0 : Packet := { dst := dst, src := hifSrc s dst op, opc := op, tag := BitVec.ofNat 16 s.hif.nextTag,
                       addr := BitVec.ofNat 48 addr, aux := BitVec.ofNat 32 aux,
                       spart := BitVec.ofNat 4 (rfld s .hif 0x080 3 0), be := be }
  if bs = [] then p0 else withPayload p0 bs

/-- The packet names its operation, its destination and its address, and carries its bytes. -/
theorem hostPacket_shown (s : State) (dst : Word) (op : BitVec 8) (addr aux : Nat) (bs : List Byte) (be : BitVec 4) :
    (hostPacket s dst op addr aux bs be).opc = op ∧ (hostPacket s dst op addr aux bs be).dst = dst
    ∧ (hostPacket s dst op addr aux bs be).addr = BitVec.ofNat 48 addr
    ∧ (hostPacket s dst op addr aux bs be).aux = BitVec.ofNat 32 aux
    ∧ (bs ≠ [] → payload (hostPacket s dst op addr aux bs be) = bs) := by
  unfold hostPacket
  extract_lets p0
  by_cases h : bs = []
  · rw [if_pos h]; exact ⟨rfl, rfl, rfl, rfl, fun hn => absurd h hn⟩
  · rw [if_neg h]; exact ⟨rfl, rfl, rfl, rfl, fun _ => payload_withPayload p0 h⟩

/-- One more request of access id with this packet is outstanding, and the packet is on its way at die 0; of the rest only
the reads that are being put together and the next number may differ. -/
structure HostSent (s u : State) (id : Nat) (q : Packet) : Prop where
  die : (getDie u 0).out = (getDie s 0).out ++ [q]
  regs : RegsBut s u []
  mem : u.mem = s.mem
  tiles : u.tiles = s.tiles
  accs : ∃ r, u.hif.accs = s.hif.accs ++ [r] ∧ r.id = id ∧ r.pkt = q
  out : u.out = s.out

theorem hifRequest_sent (s : State) (id bar : Nat) (write : Bool) (dst : Word) (op : BitVec 8) (addr aux : Nat)
    (bs : List Byte) (be : BitVec 4) :
    HostSent s (hifRequest s id bar write dst op addr aux bs be).2 id (hostPacket s dst op addr aux bs be) where
  die := congrArg Die.out (getDie_modDie_same _ 0 _)
  regs := .refl _ _
  mem := rfl
  tiles := rfl
  accs := ⟨_, rfl, rfl, rfl⟩
  out := rfl

theorem hifRequest_rds (s : State) (id bar : Nat) (write : Bool) (dst : Word) (op : BitVec 8) (addr aux : Nat)
    (bs : List Byte) (be : BitVec 4) : (hifRequest s id bar write dst op addr aux bs be).2.hif.rds = s.hif.rds := rfl

/-! ## One register, and one span -/

theorem regSpan_one {a : Nat} (h : a % 4 = 0) : regSpan a 4 = [a] := by
  have h1 : (a + 4 - 1) / 4 - a / 4 + 1 = 1 := by omega
  have h2 : (a / 4 + 0) * 4 = a := by omega
  rw [regSpan, if_neg (by decide), h1]
  exact congrArg (fun x => [x]) h2

theorem spansOf_one {a n : Nat} (hn : 0 < n) (h : a % 2048 + n ≤ 2048) : spansOf a n = [(a, n)] := by
  have hk : min n (2048 - a % 2048) = n := by omega
  simp [spansOf, spans, hk, Nat.ne_of_gt hn]

theorem readParts_one (f : State → Nat → HostPart × State) (a : Nat) (s : State) :
    readParts f [a] s = ([(f s a).1], (f s a).2) := rfl

/-- What a register write of four bytes carries. -/
theorem writeWord_whole (a : Nat) {bytes : List Byte} (h : bytes.length = 4) :
    leBytes 4 (writeWord a bytes [true, true, true, true] a).1.toNat = bytes
    ∧ (writeWord a bytes [true, true, true, true] a).2 = 15 := by
  obtain ⟨b0, b1, b2, b3, rfl⟩ : ∃ b0 b1 b2 b3, bytes = [b0, b1, b2, b3] := by
    match bytes, h with
    | [b0, b1, b2, b3], _ => exact ⟨_, _, _, _, rfl⟩
  have hval : (writeWord a [b0, b1, b2, b3] [true, true, true, true] a)
      = (BitVec.ofNat 32 (leNat [b0, b1, b2, b3]), 15) := by
    simp [writeWord, List.range_succ, bitNat]
  have hlt : leNat [b0, b1, b2, b3] < 2 ^ 32 := by
    have := b0.isLt; have := b1.isLt; have := b2.isLt; have := b3.isLt
    simp only [leNat]; omega
  rw [hval]
  refine ⟨?_, rfl⟩
  rw [BitVec.toNat_ofNat, Nat.mod_eq_of_lt hlt]
  exact (leBytes_leNat [b0, b1, b2, b3] (le_refl 4)).trans (List.append_nil _)

theorem enabledRun_all {n : Nat} (h : n ≠ 0) : enabledRun (List.replicate n true) = some (0, n) := by
  obtain ⟨m, rfl⟩ := Nat.exists_eq_succ_of_ne_zero h
  simp [enabledRun]

/-! ## Reads -/

theorem exec_hostRead {s : State} (hup : hostUp s = true) (bar a n : Nat) (h : ¬(barShut s bar = true ∧ (bar = 4 ∨ bar = 0))) :
    exec (.hostRead bar a n) s = .next (if bar = 4 then
        let x := readParts (fun z i => readMemPart z s.hif.nextId (((spansOf (bar4Addr s a) n)[i]?).getD (0, 0)))
          (List.range (spansOf (bar4Addr s a) n).length) (hostId s).2
        readEnter x.2 s.hif.nextId x.1
      else
        let x := readParts (fun z r => readReg z s.hif.nextId bar r) (regSpan a n) (hostId s).2
        readEnter x.2 s.hif.nextId x.1) := by
  show Host.Outcome.next (hostReadOp s bar a n) = _
  rw [hostReadOp, if_neg (by simp [hup])]
  exact congrArg Host.Outcome.next (if_neg h)

/-- A read whose one part awaits its answer stays open. -/
theorem readEnter_open {s : State} (hr : s.hif.rds = []) (id : Nat) (tag : Half) :
    readEnter s id [{ tag := some tag }] = modHif s (fun h => { h with rds := [⟨id, [{ tag := some tag }]⟩] }) := by
  unfold readEnter
  have hz : modHif s (fun h => { h with rds := h.rds ++ [⟨id, [{ tag := some tag }]⟩] })
      = modHif s (fun h => { h with rds := [⟨id, [{ tag := some tag }]⟩] }) := by simp [modHif, hr]
  rw [hz, syncPump_sent rfl (by simp [PartsSent]), rdPump_open rfl rfl]

/-- A read whose one part is known completes at once. -/
theorem readEnter_known {s : State} (hr : s.hif.rds = []) (id : Nat) (v : Word) :
    readEnter s id [partNow .sc v] = emit (modHif s (fun h => { h with rds := [] })) (.host id .sc (leBytes 4 v.toNat)) := by
  unfold readEnter
  have hz : modHif s (fun h => { h with rds := h.rds ++ [⟨id, [partNow .sc v]⟩] })
      = modHif s (fun h => { h with rds := [⟨id, [partNow .sc v]⟩] }) := by simp [modHif, hr]
  rw [hz, syncPump_sent rfl (by simp [PartsSent, partNow])]
  refine (rdPump_whole (r := ⟨id, [partNow .sc v]⟩) (c := .sc) (bs := leBytes 4 v.toNat) rfl ?_)
  simp [rdResult, partNow]

theorem readReg_page {s : State} {bar a : Nat} {p : Page} {off : Nat} (hf : pkgFailed s = false)
    (hat : barAt s bar a = .page p off) (hs : ¬(p = .hif ∧ off = 0x08C)) (id : Nat) :
    readReg s id bar a = ({ tag := some (BitVec.ofNat 16 s.hif.nextTag) },
      (hifRequest s id bar false (pageNode s p off).1 opREGRD (pageNode s p off).2 0 [] 0xF).2) := by
  have hfa : failedAt s (.page p off) = .page p off := by simp [failedAt, hf]
  unfold readReg
  rw [hat, hfa]
  dsimp only
  rw [hf, if_neg (by decide), if_neg hs]
  rfl

/-- What is asked of an outstanding read. -/
theorem readEnter_sent {s z u : State} {id : Nat} {q : Packet} (tag : Half) (hz : z.hif.rds = []) (h : HostSent s z id q)
    (hu : u = readEnter z id [{ tag := some tag }]) : HostSent s u id q ∧ u.hif.rds.length = 1 := by
  rw [readEnter_open hz] at hu
  rw [hu]
  exact ⟨⟨h.die, h.regs, h.mem, h.tiles, h.accs, h.out⟩, rfl⟩

theorem pageNode_hostId (s : State) (p : Page) (off : Nat) : pageNode (hostId s).2 p off = pageNode s p off := by
  cases p <;> rfl

theorem HostSent.of_hostId {s u : State} {id : Nat} {dst : Word} {op : BitVec 8} {addr aux : Nat} {bs : List Byte} {be : BitVec 4}
    (h : HostSent (hostId s).2 u id (hostPacket (hostId s).2 dst op addr aux bs be)) :
    HostSent s u id (hostPacket s dst op addr aux bs be) :=
  ⟨h.die, h.regs, h.mem, h.tiles, h.accs, h.out⟩

/-- Reads of the host (R615 to R618, R396, R792). -/
theorem hostRead_shown {s : State} (hup : hostUp s = true) (hr : s.hif.rds = []) (bar a : Nat) :
    (barShut s bar = false → a % 4 = 0 → bar ≠ 4 → barAt s bar a = .empty → ∃ u, exec (.hostRead bar a 4) s = .next u
      ∧ u.out = s.out ++ [.host s.hif.nextId .sc [0, 0, 0, 0]] ∧ u.hif.rds = [] ∧ u.hif.accs = s.hif.accs
      ∧ RegsBut s u [] ∧ u.mem = s.mem)
    ∧ (∀ p off, barShut s bar = false → a % 4 = 0 → bar ≠ 4 → barAt s bar a = .page p off → ¬(p = .hif ∧ off = 0x08C) →
      ∃ u, exec (.hostRead bar a 4) s = .next u
        ∧ HostSent s u s.hif.nextId (hostPacket s (pageNode s p off).1 opREGRD (pageNode s p off).2 0 [] 0xF)
        ∧ u.hif.rds.length = 1)
    ∧ (∀ n, barShut s 4 = false → 0 < n → bar4Addr s a % 2048 + n ≤ 2048 → ∃ u, exec (.hostRead 4 a n) s = .next u
        ∧ HostSent s u s.hif.nextId (hostPacket s (memNodeOf s (bar4Pkg s) (bar4Addr s a)) opRD (bar4Addr s a) n [] 0xF))
    ∧ (barShut s 4 = true → ∃ u, exec (.hostRead 4 a 4) s = .next u ∧ u.out = s.out ++ [.host s.hif.nextId .ur []]
      ∧ RegsBut s u [] ∧ u.mem = s.mem) := by
  have hf {b : Nat} (h : barShut s b = false) : pkgFailed (hostId s).2 = false := by
    simp only [barShut, Bool.or_eq_false_iff] at h
    exact h.1
  refine ⟨fun hs h4 hb hat => ?_, fun p off hs h4 hb hat hno => ?_, fun n hs hn hspan => ?_, fun hs => ?_⟩
  · have hreg : readReg (hostId s).2 s.hif.nextId bar a = (partNow .sc 0, (hostId s).2) := by
      have hat' : barAt (hostId s).2 bar a = .empty := hat
      have hfa : failedAt (hostId s).2 .empty = .empty := by simp [failedAt, hf hs]
      rw [readReg, hat', hfa]
    refine ⟨_, exec_hostRead hup bar a 4 (by simp [hs]), ?_⟩
    rw [if_neg hb, regSpan_one h4, readParts_one, hreg]
    dsimp only
    rw [readEnter_known (s := (hostId s).2) hr]
    exact ⟨rfl, rfl, rfl, .refl _ _, rfl⟩
  · have hreg := readReg_page (s := (hostId s).2) (hf hs) (show barAt (hostId s).2 bar a = .page p off from hat) hno
      s.hif.nextId
    refine ⟨_, exec_hostRead hup bar a 4 (by simp [hs]), ?_⟩
    rw [if_neg hb, regSpan_one h4, readParts_one, hreg, pageNode_hostId]
    exact readEnter_sent _ (by exact hr) (hifRequest_sent (hostId s).2 s.hif.nextId bar false _ _ _ _ _ _).of_hostId rfl
  · refine ⟨_, exec_hostRead hup 4 a n (by simp [hs]), ?_⟩
    rw [if_pos rfl, spansOf_one hn hspan]
    exact (readEnter_sent _ (by exact hr) (hifRequest_sent (hostId s).2 s.hif.nextId 4 false _ _ _ _ _ _).of_hostId rfl).1
  · refine ⟨emit (hostId s).2 (.host s.hif.nextId .ur []), ?_, rfl, .refl _ _, rfl⟩
    show Host.Outcome.next (hostReadOp s 4 a 4) = _
    rw [hostReadOp, if_neg (by simp [hup])]
    exact congrArg Host.Outcome.next (if_pos ⟨hs, .inl rfl⟩)

/-! ## Writes -/

theorem exec_hostWrite {s : State} (hup : hostUp s = true) (bar a : Nat) (bytes : List Byte) (be : List Bool)
    (h : ¬(barShut s bar = true ∧ bar ≠ 2)) :
    exec (.hostWrite bar a bytes be) s = .next (if bar = 4 then writeMemHost (hostId s).2 s.hif.nextId a bytes be
      else (regSpan a bytes.length).foldl (fun z r =>
        let w := writeWord a bytes be r
        writeReg z s.hif.nextId bar r w.1 w.2) (hostId s).2) := by
  show Host.Outcome.next (hostWriteOp s bar a bytes be) = _
  rw [hostWriteOp, if_neg (by simpa [hup] using h)]
  rfl

theorem writeReg_page {s : State} {bar a : Nat} {p : Page} {off : Nat} (hf : pkgFailed s = false)
    (hat : barAt s bar a = .page p off) (id : Nat) (v : Word) :
    writeReg s id bar a v 15 = (hifRequest s id bar true (pageNode s p off).1 opREGWR (pageNode s p off).2 0
      (leBytes 4 v.toNat) 15).2 := by
  have hfa : failedAt s (.page p off) = .page p off := by simp [failedAt, hf]
  unfold writeReg
  rw [if_neg (by decide), hat, hfa]
  dsimp only
  rw [hf, if_neg (by decide)]

/-- Writes of the host (R615, R617). -/
theorem hostWrite_shown {s : State} (hup : hostUp s = true) (bar a : Nat) :
    (∀ p off bytes, barShut s bar = false → a % 4 = 0 → bar ≠ 4 → barAt s bar a = .page p off → bytes.length = 4 →
      ∃ u, exec (.hostWrite bar a bytes [true, true, true, true]) s = .next u
        ∧ HostSent s u s.hif.nextId (hostPacket s (pageNode s p off).1 opREGWR (pageNode s p off).2 0 bytes 15))
    ∧ (∀ bytes : List Byte, barShut s 4 = false → bytes ≠ [] → bar4Addr s a % 2048 + bytes.length ≤ 2048 →
      ∃ u, exec (.hostWrite 4 a bytes (List.replicate bytes.length true)) s = .next u
        ∧ HostSent s u s.hif.nextId (hostPacket s (memNodeOf s (bar4Pkg s) (bar4Addr s a)) opWR (bar4Addr s a) 0 bytes 0xF)) := by
  refine ⟨fun p off bytes hs h4 hb hat hlen => ?_, fun bytes hs hne hspan => ?_⟩
  · have hf : pkgFailed (hostId s).2 = false := by
      simp only [barShut, Bool.or_eq_false_iff] at hs
      exact hs.1
    obtain ⟨hbytes, hbe⟩ := writeWord_whole a hlen
    refine ⟨_, exec_hostWrite hup bar a bytes _ (by simp [hs]), ?_⟩
    rw [if_neg hb, hlen, regSpan_one h4]
    dsimp only [List.foldl_cons, List.foldl_nil]
    rw [hbe, writeReg_page hf (show barAt (hostId s).2 bar a = .page p off from hat), hbytes, pageNode_hostId]
    exact (hifRequest_sent (hostId s).2 s.hif.nextId bar true _ _ _ _ _ _).of_hostId
  · have hlen : bytes.length ≠ 0 := fun h => hne (List.length_eq_zero_iff.1 h)
    refine ⟨_, exec_hostWrite hup 4 a bytes _ (by simp [hs]), ?_⟩
    have hrun : writeMemHost (hostId s).2 s.hif.nextId a bytes (List.replicate bytes.length true)
        = (hifRequest (hostId s).2 s.hif.nextId 4 true (memNodeOf s (bar4Pkg s) (bar4Addr s a)) opWR (bar4Addr s a) 0 bytes 0xF).2 := by
      have htake : (List.replicate bytes.length true).take bytes.length = List.replicate bytes.length true := by simp
      rw [writeMemHost, htake, enabledRun_all hlen]
      dsimp only
      have haddr : bar4Addr (hostId s).2 a + 0 = bar4Addr s a := Nat.add_zero (bar4Addr s a)
      rw [haddr, spansOf_one (Nat.pos_of_ne_zero hlen) hspan]
      have hall : (bytes.drop (0 + (bar4Addr s a - bar4Addr s a))).take bytes.length = bytes := by simp
      dsimp only [List.foldl_cons, List.foldl_nil]
      rw [hall]
      rfl
    rw [if_pos rfl, hrun]
    exact (hifRequest_sent (hostId s).2 s.hif.nextId 4 true _ _ _ _ _ _).of_hostId

/-! ## Resends and timeouts -/

/-- The one request that is refused is sent again at its time (R618). -/
theorem hifResend_shown {s : State} {r : HostAcc} {d : Nat} (hst : stopped s .hif = false) (ha : s.hif.accs = [r])
    (hd : r.due = some d) (h : Due s d) : exec (.hifResend r.tag) s = .next (hifResend s r) := by
  have hfind : s.hif.accs.find? (fun a => a.tag == r.tag && a.due.isSome) = some r := by simp [ha, hd]
  have hat : atLeast s (r.due.getD 0) = s := by rw [hd]; exact atLeast_due h
  show Host.Outcome.next (hifResendDue s r.tag) = _
  rw [hifResendDue, hfind]
  dsimp only
  rw [hst, hat]
  rfl

theorem hifCto_shown {s : State} {r : HostAcc} (hst : stopped s .hif = false) (ha : s.hif.accs = [r])
    (hd : r.due = none) (h : Due s r.till) : exec (.hifCto r.tag) s = .next (hifTimeout s r) := by
  have hfind : s.hif.accs.find? (fun a => a.tag == r.tag && a.due.isNone) = some r := by simp [ha, hd]
  show Host.Outcome.next (hifCtoDue s r.tag) = _
  rw [hifCtoDue, hfind]
  dsimp only
  rw [hst, atLeast_due h]
  rfl

/-- The one read with one part fails (R618). -/
theorem accFail_read {s : State} {r : HostAcc} (hw : r.write = false) (ha : s.hif.accs = [r])
    (hr : s.hif.rds = [⟨r.id, [⟨some r.tag, none⟩]⟩]) (c : Cpl) (hc : c ≠ .sc) (hp : c ≠ .poisoned) :
    accFail s r c = emit (modHif s (fun h => { h with accs := [], rds := [] })) (.host r.id c []) := by
  have hdrop : accDrop s r = modHif s (fun h => { h with accs := [] }) := by simp [accDrop, modHif, ha]
  have hpart : rdPart (accDrop s r) r.id r.tag c []
      = emit (modHif s (fun h => { h with accs := [], rds := [] })) (.host r.id c []) := by
    rw [hdrop]
    have hz : modHif (modHif s (fun h => { h with accs := [] })) (fun h => { h with
        rds := h.rds.map (fun x => if x.id = r.id then { x with
          parts := modFirst (fun p => p.tag == some r.tag && p.res.isNone) (fun p => { p with res := some (c, []) }) x.parts } else x) })
        = modHif s (fun h => { h with accs := [], rds := [⟨r.id, [⟨some r.tag, some (c, [])⟩]⟩] }) := by
      simp [modHif, hr, modFirst]
    refine (congrArg rdPump hz).trans
      ((rdPump_whole (r := ⟨r.id, [⟨some r.tag, some (c, [])⟩]⟩) (c := c) (bs := []) rfl ?_).trans rfl)
    simp [rdResult, hc, hp]
  rw [accFail, if_neg (by simp [hw]), hpart]
  exact syncPump_none rfl

/-- A counter of HIF_ECNT counts, and an event follows. -/
theorem hifCounted {s : State} (lo : Nat) (hlo : lo = 0 ∨ lo = 16) (code : Nat) (tag : Half) (bits : Word) :
    let u := captureOpen false (addFld s .hif 0x094 (lo + 15) lo 1) .hif code tag 0 0 (some 1) bits
    RegsEvents s u [regKey .hif 0x094] ∧ u.mem = s.mem ∧ u.hif.accs = s.hif.accs ∧ u.hif.rds = s.hif.rds
      ∧ rfld u .hif 0x094 (lo + 15) lo = Nat.min (rfld s .hif 0x094 (lo + 15) lo + 1) 0xFFFF := by
  intro u
  have he : Events (addFld s .hif 0x094 (lo + 15) lo 1) u [] := events_captureOpen _ _ _ _ _ _ _ _ _ _
  have hk := hifKept_captureOpen false (addFld s .hif 0x094 (lo + 15) lo 1) .hif code tag 0 0 (some 1) bits
  have hraw : rawReg u .hif 0x094 = rawReg (addFld s .hif 0x094 (lo + 15) lo 1) .hif 0x094 :=
    he.rawReg_eq (by simp) (evKey_eq_false (by decide) (by decide) (by decide))
  refine ⟨fun p o hp hv => (he.rawReg_eq (by simp) hv).trans ((regsBut_putFld s .hif 0x094 _ _ _ _ (by simp)) p o hp),
    he.mem, hk.accs, hk.rds, ?_⟩
  rw [rfld_of_raw (lo + 15) lo hraw]
  rcases hlo with rfl | rfl
  · exact rfld_addFld_one s .hif 0x094
  · exact rfld_addFld_hi s .hif 0x094

/-- Settles O49: reads and writes of the host become requests, which are sent again or end at their times (R615 to R619). -/
theorem hostAccessesServed : Obligations.HostAccessesServed := by
  unfold Obligations.HostAccessesServed
  intro s bar a hup
  have hst : stopped s .hif = false := by
    simp only [hostUp, Bool.and_eq_true, Bool.not_eq_true'] at hup
    exact hup.2
  refine ⟨fun hr => ?_, fun p off bytes ⟨_, hs, h4, hb, hat, _⟩ hlen => ?_, fun bytes hs hne hspan => ?_,
    fun r d ha hd h => ?_, fun r ha hd h => ⟨fun hw hr => ?_, fun hw hr => ?_⟩⟩
  · obtain ⟨hempty, hpage, hmem, hshut⟩ := hostRead_shown hup hr bar a
    refine ⟨hempty, fun p off ⟨_, hs, h4, hb, hat, hno⟩ => ?_, fun n hs hn hspan => ?_, hshut⟩
    · obtain ⟨u, hu, hsent, hrds⟩ := hpage p off hs h4 hb hat hno
      obtain ⟨hopc, hdst, haddr, -, -⟩ := hostPacket_shown s (pageNode s p off).1 opREGRD (pageNode s p off).2 0 [] 0xF
      exact ⟨u, _, hu, ⟨hsent.die, hsent.regs, hsent.mem, hsent.tiles, hsent.accs⟩, hopc, hdst, haddr, hsent.out, hrds⟩
    · obtain ⟨u, hu, hsent⟩ := hmem n hs hn hspan
      obtain ⟨hopc, hdst, haddr, haux, -⟩ := hostPacket_shown s (memNodeOf s (bar4Pkg s) (bar4Addr s a)) opRD
        (bar4Addr s a) n [] 0xF
      exact ⟨u, _, hu, ⟨hsent.die, hsent.regs, hsent.mem, hsent.tiles, hsent.accs⟩, hopc, hdst, haddr, haux, hsent.out⟩
  · obtain ⟨u, hu, hsent⟩ := (hostWrite_shown hup bar a).1 p off bytes hs h4 hb hat hlen
    obtain ⟨hopc, hdst, haddr, -, hpay⟩ := hostPacket_shown s (pageNode s p off).1 opREGWR (pageNode s p off).2 0 bytes 15
    exact ⟨u, _, hu, ⟨hsent.die, hsent.regs, hsent.mem, hsent.tiles, hsent.accs⟩, hopc, hdst, haddr,
      hpay (fun h0 => by simp [h0] at hlen), hsent.out⟩
  · obtain ⟨u, hu, hsent⟩ := (hostWrite_shown hup bar a).2 bytes hs hne hspan
    obtain ⟨hopc, hdst, haddr, -, -⟩ := hostPacket_shown s (memNodeOf s (bar4Pkg s) (bar4Addr s a)) opWR
      (bar4Addr s a) 0 bytes 0xF
    exact ⟨u, _, hu, ⟨hsent.die, hsent.regs, hsent.mem, hsent.tiles, hsent.accs⟩, hopc, hdst, haddr, hsent.out⟩
  · refine ⟨_, hifResend_shown hst ha hd h, congrArg Die.out (getDie_modDie_same _ 0 _), ?_, .refl _ _, rfl⟩
    show s.hif.accs.filter (· != r) ++ [_] = _
    simp [ha]
  · obtain ⟨hregs, hmem, haccs, hrds, hcnt⟩ := hifCounted (s := s) 0 (.inl rfl) 0x10 r.tag (isrMask 0)
    refine ⟨_, hifCto_shown hst ha hd h, ?_⟩
    rw [hifTimeout, if_neg (by simp [hw])]
    generalize captureOpen false (addFld s .hif 0x094 15 0 1) .hif 0x10 r.tag 0 0 (some 1) (isrMask 0) = z at hregs hmem haccs hrds hcnt
    rw [accFail_read hw (haccs.trans ha) (hrds.trans hr) .ca (by decide) (by decide)]
    exact ⟨rfl, List.mem_append_right _ (List.mem_singleton.2 rfl), hcnt, hregs, hmem⟩
  · obtain ⟨hregs, hmem, haccs, hrds, hcnt⟩ := hifCounted (s := accDrop s r) 16 (.inr rfl) 0x11 r.tag (isrMask 1)
    refine ⟨_, hifCto_shown hst ha hd h, ?_⟩
    have hrun : hifTimeout s r = hifWfail (accDrop s r) r.tag := by
      rw [hifTimeout, if_pos hw, accFail, if_pos hw]
      exact syncPump_none (hrds.trans hr)
    rw [hrun]
    refine ⟨haccs.trans ?_, hcnt, hregs, hmem⟩
    show s.hif.accs.filter (· != r) = _
    simp [ha]

end Sys2Proof.Machine
end

section
/-! PROOFS. Configuration requests, function resets, MSI-X and the SMBus target (sections 14.3, 14.5, 14.6 and 14.8). -/

namespace Sys2Proof.Machine

/-! ## Pending messages are sent (R623) -/

theorem getVec_setVec_same (s : State) (v : Nat) (x : MsixVec) : getVec (setVec s v x) v = x := tabGet_tabPut_same _ _ _ _

theorem getVec_setVec_ne (s : State) {v k : Nat} (x : MsixVec) (h : k ≠ v) : getVec (setVec s v x) k = getVec s k :=
  tabGet_tabPut_ne _ _ _ _ _ h

/-- Only the host interface and the output record differ. -/
def OnlyHost (s u : State) : Prop := u = { s with hif := u.hif, out := u.out }

theorem OnlyHost.trans {s u v : State} (h : OnlyHost s u) (k : OnlyHost u v) : OnlyHost s v := by
  unfold OnlyHost at *; rw [k, h]

theorem onlyHost_msixSend (s : State) (v : Nat) : OnlyHost s (msixSend s v) := rfl

/-- The message that a vector of s awaits has gone out, and it awaits none. -/
def VecSent (s u : State) (v : Nat) : Prop :=
  (getVec u v).pend = false ∧ ((getVec s v).pend = true → OutMsg.msix v (getVec s v).addr (getVec s v).data ∈ u.out)

/-- How far the pending messages of s have been sent in u. -/
structure VecFlush (s u : State) (v : Nat) : Prop where
  only : OnlyHost s u
  kept : HifKept s u
  masked : (getVec u v).masked = (getVec s v).masked
  vec : getVec u v = getVec s v ∨ VecSent s u v

theorem VecFlush.refl (s : State) (v : Nat) : VecFlush s s v := ⟨rfl, .refl s, rfl, .inl rfl⟩

theorem vecFlush_msixSend {s u : State} {v : Nat} (h : VecFlush s u v) (k : Nat) :
    VecFlush s (msixSend u k) v ∧ (k = v → VecSent s (msixSend u k) v) := by
  have honly := h.only.trans (onlyHost_msixSend u k)
  have hkept := h.kept.trans (hifKept_msixSend u k)
  have hout : ∀ m, m ∈ u.out → m ∈ (msixSend u k).out := fun m hm => (hifKept_msixSend u k).out.subset hm
  by_cases hk : k = v
  · subst hk
    have hnow : getVec (msixSend u k) k = { getVec u k with pend := false, deferred := false, lastAt := some (eTime u), win := rfld u .hif 0x090 19 0 } :=
      getVec_setVec_same u k _
    have hsent : VecSent s (msixSend u k) k := by
      refine ⟨by rw [hnow], fun hp => ?_⟩
      rcases h.vec with he | hs
      · rw [← he]; exact List.mem_append_right _ (List.mem_singleton.2 rfl)
      · exact hout _ (hs.2 hp)
    exact ⟨⟨honly, hkept, by rw [hnow]; exact h.masked, .inr hsent⟩, fun _ => hsent⟩
  · have hnow : getVec (msixSend u k) v = getVec u v := getVec_setVec_ne u _ (fun e => hk e.symm)
    refine ⟨⟨honly, hkept, by rw [hnow]; exact h.masked, ?_⟩, fun e => absurd e hk⟩
    rcases h.vec with he | ⟨hp, hs⟩
    · exact .inl (hnow.trans he)
    · exact .inr ⟨by rw [hnow]; exact hp, fun h0 => hout _ (hs h0)⟩

/-- One vector of the table is looked at. -/
def flushOne (s : State) (e : Nat × MsixVec) : State :=
  if (getVec s e.1).pend && vecOpen s e.1 then msixSend s e.1 else s

theorem msixFlush_eq (s : State) : msixFlush s = s.hif.vecs.foldl flushOne s := rfl

theorem vecOpen_of_flush {s u : State} {v : Nat} (h : VecFlush s u v) : vecOpen u v = vecOpen s v := by
  rw [vecOpen, h.masked, h.kept.hif]; rfl

theorem vecFlush_one {s u : State} {v : Nat} (h : VecFlush s u v) (e : Nat × MsixVec) :
    VecFlush s (flushOne u e) v ∧ (vecOpen s v = true → e.1 = v → VecSent s (flushOne u e) v) := by
  unfold flushOne
  split
  · exact ⟨(vecFlush_msixSend h e.1).1, fun _ => (vecFlush_msixSend h e.1).2⟩
  · next hno =>
    refine ⟨h, fun ho he => ?_⟩
    have hp : (getVec u v).pend = false := by
      rw [he, vecOpen_of_flush h, ho] at hno
      simpa using hno
    rcases h.vec with hv | hs
    · exact ⟨hp, fun h1 => absurd (hv ▸ hp) (by simp [h1])⟩
    · exact hs

theorem vecSent_one {s u : State} {v : Nat} (h : VecFlush s u v) (hs : VecSent s u v) (e : Nat × MsixVec) :
    VecSent s (flushOne u e) v := by
  unfold flushOne
  split
  · by_cases hk : e.1 = v
    · exact (vecFlush_msixSend h e.1).2 hk
    · have hnow : getVec (msixSend u e.1) v = getVec u v := getVec_setVec_ne u _ (fun h => hk h.symm)
      exact ⟨by rw [hnow]; exact hs.1, fun hp => (hifKept_msixSend u e.1).out.subset (hs.2 hp)⟩
  · exact hs

theorem vecFlush_foldl (s : State) (v : Nat) (l : List (Nat × MsixVec)) : ∀ u, VecFlush s u v →
    VecFlush s (l.foldl flushOne u) v
      ∧ (vecOpen s v = true → (VecSent s u v ∨ ∃ e ∈ l, e.1 = v) → VecSent s (l.foldl flushOne u) v) := by
  induction l with
  | nil => exact fun u h => ⟨h, fun _ hs => hs.elim id (by simp)⟩
  | cons e l ih =>
    intro u h
    obtain ⟨h1, hs1⟩ := vecFlush_one h e
    obtain ⟨h2, hs2⟩ := ih _ h1
    refine ⟨h2, fun ho hs => hs2 ho ?_⟩
    rcases hs with hs | ⟨x, hx, hv⟩
    · exact .inl (vecSent_one h hs e)
    · rcases List.mem_cons.1 hx with rfl | hx
      · exact .inl (hs1 ho hv)
      · exact .inr ⟨x, hx, hv⟩

theorem msixFlush_kept (s : State) : OnlyHost s (msixFlush s) ∧ HifKept s (msixFlush s) := by
  have h := (vecFlush_foldl s 0 s.hif.vecs s (.refl s 0)).1
  exact ⟨h.only, h.kept⟩

theorem mem_tabPut {α : Type} (t : Tab α) (k : Nat) (x : α) : ∃ e ∈ tabPut t k x, e.1 = k := by
  induction t with
  | nil => exact ⟨(k, x), by simp [tabPut], rfl⟩
  | cons a r ih =>
    obtain ⟨k', v'⟩ := a
    unfold tabPut
    split_ifs with h1 h2
    · exact ⟨(k, x), by simp, rfl⟩
    · exact ⟨(k, x), by simp, rfl⟩
    · obtain ⟨e, he, hk⟩ := ih
      exact ⟨e, List.mem_cons_of_mem _ he, hk⟩

/-! ## A function reset (R614) -/

theorem flr_regs (s : State) :
    let u := keepReg s (keepReg s (keepReg s (resetRegs s .hif 0 0x1000) .hif 0x018) .hif 0x014) .hif 0x098
    (∀ o, o < 0x1000 → o ∉ [0x014, 0x018, 0x098] → rawReg u .hif o = regDefault s.fuses .hif o)
      ∧ (∀ o ∈ [0x014, 0x018, 0x098], rawReg u .hif o = rawReg s .hif o)
      ∧ RegsBut s u ((List.range 0x1000).map (fun o => regKey .hif o)) := by
  intro u
  have hne {o r : Nat} (ho : o < 0x1000) (hr : r < 0x1000) (h : o ≠ r) : regKey .hif o ≠ regKey .hif r :=
    regKey_ne_of_off ho hr h
  refine ⟨fun o ho hn => ?_, fun o hm => ?_, fun p o hk => ?_⟩
  · simp only [List.mem_cons, List.not_mem_nil, or_false, not_or] at hn
    obtain ⟨h14, h18, h98⟩ := hn
    exact (rawReg_putReg_ne _ _ _ _ _ _ (hne ho (by decide) h98)).trans ((rawReg_putReg_ne _ _ _ _ _ _ (hne ho (by decide) h14)).trans
      ((rawReg_putReg_ne _ _ _ _ _ _ (hne ho (by decide) h18)).trans
        (rawReg_resetRegs_in s .hif 0 0x1000 o (Nat.zero_le _) ho)))
  · simp only [List.mem_cons, List.not_mem_nil, or_false] at hm
    rcases hm with rfl | rfl | rfl
    · exact (rawReg_putReg_ne _ _ _ _ _ _ (hne (by decide) (by decide) (by decide))).trans (rawReg_putReg_same _ _ _ _)
    · exact (rawReg_putReg_ne _ _ _ _ _ _ (hne (by decide) (by decide) (by decide))).trans
        ((rawReg_putReg_ne _ _ _ _ _ _ (hne (by decide) (by decide) (by decide))).trans (rawReg_putReg_same _ _ _ _))
    · exact rawReg_putReg_same _ _ _ _
  · have hin {r : Nat} (hr : r < 0x1000) : regKey p o ≠ regKey .hif r :=
      fun e => hk (List.mem_map.2 ⟨r, List.mem_range.2 hr, e.symm⟩)
    have hout : regKey p o < pageBase .hif + 0 ∨ pageBase .hif + 0x1000 ≤ regKey p o := by
      by_contra hc
      refine hk (List.mem_map.2 ⟨regKey p o - pageBase .hif, List.mem_range.2 (by omega), ?_⟩)
      show pageBase .hif + (regKey p o - pageBase .hif) = regKey p o
      omega
    exact (rawReg_putReg_ne _ _ _ _ _ _ (hin (by decide))).trans ((rawReg_putReg_ne _ _ _ _ _ _ (hin (by decide))).trans
      ((rawReg_putReg_ne _ _ _ _ _ _ (hin (by decide))).trans (rawReg_resetRegs_out s .hif p 0 0x1000 o hout)))

/-! ## MSI-X (R623, R624) -/

/-- A vector that becomes unmasked sends the message it awaits. -/
theorem msixUnmask_shown {s : State} {v : Nat} (hb : s.hif.bme = true) (hf : s.hif.fmask = false) :
    let u := msixFlush (setVec s v { getVec s v with masked := false })
    (getVec u v).masked = false ∧ (getVec u v).pend = false
      ∧ ((getVec s v).pend = true → OutMsg.msix v (getVec s v).addr (getVec s v).data ∈ u.out) ∧ OnlyHost s u := by
  intro u
  obtain ⟨z, hz⟩ : ∃ z, setVec s v { getVec s v with masked := false } = z := ⟨_, rfl⟩
  have hnow : getVec z v = { getVec s v with masked := false } := by rw [← hz]; exact getVec_setVec_same s v _
  have hmem : ∃ e ∈ z.hif.vecs, e.1 = v := by rw [← hz]; exact mem_tabPut _ _ _
  have hopen : vecOpen z v = true := by
    have h1 : z.hif.bme = true := by rw [← hz]; exact hb
    have h2 : z.hif.fmask = false := by rw [← hz]; exact hf
    simp [vecOpen, h1, h2, hnow]
  have honly : OnlyHost s z := by rw [← hz]; rfl
  obtain ⟨h, hs⟩ := vecFlush_foldl z v z.hif.vecs z (.refl z v)
  have hsent := hs hopen (.inr hmem)
  have hu : u = z.hif.vecs.foldl flushOne z := by rw [← msixFlush_eq, ← hz]
  rw [hu]
  refine ⟨by rw [h.masked, hnow], hsent.1, fun hp => ?_, honly.trans h.only⟩
  have := hsent.2 (by rw [hnow]; exact hp)
  rwa [hnow] at this

/-- A coalescing window that has a message ends: it is sent. -/
theorem msixWindow_shown {s : State} {v k : Nat} (hb : s.hif.bme = true) (hf : s.hif.fmask = false)
    (hl : (getVec s v).lastAt = some k) (hd : (getVec s v).deferred = true) (hm : (getVec s v).masked = false)
    (h : Due s (k + ticks (getVec s v).win)) : msixWindow s v = msixSend s v := by
  have hopen : vecOpen s v = true := by simp [vecOpen, hb, hf, hm]
  unfold msixWindow
  simp only [hl, hd, atLeast_due h, hopen, if_true]

/-! ## The SMBus target (R626, R627) -/

/-- The register of the SMBus address is reached: the error of the last access is gone. -/
def smbGood (s : State) : State := modHif s (fun h => { h with smbErr := false })

theorem smbRead_eq {s : State} {p : Page} {off : Nat} (hr : smbRdy s = true) (ha : smbAt s = some (p, off))
    (hb : smbFails s p = false) :
    exec (.smbData none true) s
      = .next (emit (regRead (smbGood s) p off).2 (.smb false (some (regRead (smbGood s) p off).1))) := by
  show Host.Outcome.next (smbDataOp s none true) = _
  rw [smbDataOp, if_neg (by simp [hr]), ha]
  dsimp only
  rw [hb]
  exact congrArg Host.Outcome.next (if_neg (by decide))

theorem smbWrite_eq {s : State} {p : Page} {off : Nat} (hr : smbRdy s = true) (ha : smbAt s = some (p, off))
    (hb : smbFails s p = false) (v : Word) :
    exec (.smbData (some v) true) s = .next (emit (regPut (smbGood s) .mgt p off v) (.smb false none)) := by
  show Host.Outcome.next (smbDataOp s (some v) true) = _
  rw [smbDataOp, if_neg (by simp [hr]), ha]
  dsimp only
  rw [hb]
  exact congrArg Host.Outcome.next (if_neg (by decide))

/-- Settles O50: the host interface as the host and the SMBus see it (R613, R614, R621 to R627). -/
theorem hostControlsAct : Obligations.HostControlsAct := by
  unfold Obligations.HostControlsAct
  intro s b v w
  have hset (op : CfgOp) (f : Hif → Hif) (hc : cfgStatus s = .sc)
      (hop : configOp s op = if cfgStatus s ≠ .sc then emit s (.cfg (cfgStatus s)) else msixFlush (modHif (emit s (.cfg (cfgStatus s))) f)) :
      ∃ u, exec (.configRequest op) s = .next u ∧ u.hif = { f s.hif with vecs := u.hif.vecs } ∧ OutMsg.cfg .sc ∈ u.out
        ∧ OnlyHost s u := by
    refine ⟨msixFlush (modHif (emit s (.cfg (cfgStatus s))) f),
      congrArg Host.Outcome.next (hop.trans (if_neg (by simp [hc]))), ?_⟩
    obtain ⟨z, hz⟩ : ∃ z, modHif (emit s (.cfg (cfgStatus s))) f = z := ⟨_, rfl⟩
    have hh : z.hif = f s.hif := by rw [← hz]; rfl
    have ho : OutMsg.cfg .sc ∈ z.out := by
      rw [← hz, ← hc]; exact List.mem_append_right _ (List.mem_singleton.2 rfl)
    have honly : OnlyHost s z := by rw [← hz]; rfl
    obtain ⟨hfl, hk⟩ := msixFlush_kept z
    rw [hz]
    exact ⟨by rw [hk.hif, hh], hk.out.subset ho, honly.trans hfl⟩
  refine ⟨⟨_, congrArg Host.Outcome.next (ite_self _), rfl⟩, fun hc => ⟨?_, ?_⟩, fun hp => ?_, fun hb hf hv => ⟨?_, ?_⟩, ?_,
    fun hvs => ?_, ?_, fun p off hr ha hb => ⟨?_, fun ht hoff => ?_⟩, ⟨_, rfl, rfl⟩⟩
  · obtain ⟨u, hu, hh, ho, hon⟩ := hset (.setBme b) (fun h => { h with bme := b }) hc rfl
    exact ⟨u, hu, by rw [hh], by rw [hh], ho, hon⟩
  · obtain ⟨u, hu, hh, ho, hon⟩ := hset (.setFmask b) (fun h => { h with fmask := b }) hc rfl
    exact ⟨u, hu, by rw [hh], by rw [hh], ho, hon⟩
  · obtain ⟨h1, h2, h3⟩ := flr_regs s
    exact ⟨_, congrArg Host.Outcome.next (if_neg (by simp [hp])), rfl, h1, h2, h3, rfl⟩
  · obtain ⟨h1, h2, h3, h4⟩ := msixUnmask_shown (v := v) hb hf
    have hrun : msixOpen s (some v) = msixFlush (setVec s v { getVec s v with masked := false }) := by
      rw [msixOpen, Nat.mod_eq_of_lt hv]
    exact ⟨_, congrArg Host.Outcome.next hrun, h1, h2, h3, h4⟩
  · intro k hl hd hm h
    refine ⟨_, congrArg Host.Outcome.next (msixWindow_shown hb hf hl hd hm h), rfl, ?_, ?_, rfl⟩
    · exact congrArg MsixVec.deferred (getVec_setVec_same s v _)
    · exact congrArg MsixVec.lastAt (getVec_setVec_same s v _)
  · obtain ⟨hfl, hk⟩ := msixFlush_kept (modHif s (fun h => { h with fmask := false }))
    exact ⟨msixFlush (modHif s (fun h => { h with fmask := false })), rfl, by rw [hk.hif]; rfl,
      OnlyHost.trans (u := modHif s _) rfl hfl⟩
  · exact ⟨_, congrArg Host.Outcome.next (if_pos ⟨rfl, hvs⟩), rfl, rfl, rfl⟩
  · exact congrArg Host.Outcome.next (if_neg (by simp))
  · obtain ⟨r, l, hfr⟩ := regRead_frame (smbGood s) p off
    refine ⟨_, smbRead_eq hr ha hb, ?_, ?_, ?_⟩
    · show (regRead _ p off).2.out ++ _ = _
      rw [hfr]; rfl
    · show (regRead _ p off).2.mem = _
      rw [hfr]; rfl
    · show (regRead _ p off).2.tiles = _
      rw [hfr]; rfl
  · subst hoff
    have hput : regPut (smbGood s) .mgt p 0x070 w
        = storeReg (smbGood s) p 0x070 w := by
      rw [regPut, regWrite_scratch (s := smbGood s) ht rfl rfl]
    refine ⟨_, (smbWrite_eq hr ha hb w).trans (congrArg (fun z => Host.Outcome.next (emit z _)) hput), ?_, ?_, ?_, ?_⟩
    · exact congrArg (· ++ [OutMsg.smb false none]) (show (storeReg (smbGood s) p 0x070 w).out = s.out by rw [onlyRegs_storeReg (smbGood s)]; rfl)
    · exact rawReg_storeReg_same _ _ _ _
    · exact regsBut_storeReg (smbGood s) _ _ _ _ (by simp)
    · exact (storeReg_mem (smbGood s) _ _ _).trans rfl

end Sys2Proof.Machine
end

section
/-! PROOFS. Error buckets, retirement by software, its log, and Fuller passes (sections 17.1, 17.3, 17.5 and 17.7). -/

namespace Sys2Proof.Machine

/-! ## What a retirement keeps (R704, R707) -/

/-- Memory, time and the bucket at key k are as before, and the retirement log has lost nothing. -/
structure RetireKept (s u : State) (k : Nat) : Prop where
  mem : u.mem = s.mem
  time : u.time = s.time
  bkt : tabGet {} u.buckets k = tabGet {} s.buckets k
  rlog : s.rlog <+: u.rlog

theorem RetireKept.refl (s : State) (k : Nat) : RetireKept s s k := ⟨rfl, rfl, rfl, List.prefix_rfl⟩

theorem RetireKept.trans {s u v : State} {k : Nat} (h : RetireKept s u k) (j : RetireKept u v k) : RetireKept s v k :=
  ⟨j.mem.trans h.mem, j.time.trans h.time, j.bkt.trans h.bkt, h.rlog.trans j.rlog⟩

theorem retireKept_ite {s u v : State} {k : Nat} {c : Prop} [Decidable c] (h : RetireKept s u k) (j : RetireKept s v k) :
    RetireKept s (if c then u else v) k := by
  split
  · exact h
  · exact j

theorem retireKept_events {s u : State} {ks : List Nat} (h : Events s u ks) (k : Nat) : RetireKept s u k := by
  rw [h.1]; exact ⟨rfl, rfl, rfl, List.prefix_rfl⟩

theorem retireKept_tkp {s u : State} {ks : List Nat} (h : TkpEvents s u ks) (k : Nat) : RetireKept s u k := by
  rw [h.1]; exact ⟨rfl, rfl, rfl, List.prefix_rfl⟩

theorem retireKept_putReg (s : State) (p : Page) (o : Nat) (v : Word) (k : Nat) : RetireKept s (putReg s p o v) k :=
  ⟨rfl, rfl, rfl, List.prefix_rfl⟩

theorem retireKept_modTile (s : State) (t : Nat) (f : Tile → Tile) (k : Nat) : RetireKept s (modTile s t f) k :=
  ⟨rfl, rfl, rfl, List.prefix_rfl⟩

theorem retireKept_modLink (s : State) (n : Nat) (f : Link → Link) (k : Nat) : RetireKept s (modLink s n f) k :=
  ⟨rfl, rfl, rfl, List.prefix_rfl⟩

theorem retireKept_emit (s : State) (o : OutMsg) (k : Nat) : RetireKept s (emit s o) k := ⟨rfl, rfl, rfl, List.prefix_rfl⟩

theorem retireKept_isrBit (s : State) (p : Page) (n k : Nat) : RetireKept s (isrBit s p n) k :=
  retireKept_events (events_isrBit s p n _ []) k

theorem retireKept_sillage (s : State) (p : Page) (code : Nat) (detail : Word) (k : Nat) :
    RetireKept s (sillage s p code false 0 0 detail) k := retireKept_events (events_sillage _ _ _ _ _ _ _ []) k

theorem retireKept_modGcl (s : State) (g : GPlace) (f : Gcl → Gcl) (k : Nat) : RetireKept s (modGcl s g f) k := by
  cases g <;> exact ⟨rfl, rfl, rfl, List.prefix_rfl⟩

theorem retireKept_setBkt (s : State) (kind inst : Nat) (b : Bucket) {k : Nat} (h : k ≠ bktKey kind inst) :
    RetireKept s (setBkt s kind inst b) k := ⟨rfl, rfl, tabGet_tabPut_ne _ _ _ _ _ h, List.prefix_rfl⟩

theorem retireKept_rlogAdd (s : State) (kind inst cause errs k : Nat) : RetireKept s (rlogAdd s kind inst cause errs) k := by
  unfold rlogAdd
  extract_lets s1
  have h1 : RetireKept s s1 k := retireKept_ite ⟨rfl, rfl, rfl, List.prefix_append _ _⟩
    ((retireKept_putReg s .scr 0x0A0 _ k).trans (retireKept_isrBit _ _ _ k))
  exact h1.trans (retireKept_isrBit s1 _ _ k)

theorem retireKept_isolate (s : State) (t cause k : Nat) : RetireKept s (isolate s t cause) k := by
  unfold isolate
  extract_lets s1 s2
  have h1 : RetireKept s s1 k := ⟨rfl, rfl, rfl, List.prefix_rfl⟩
  exact retireKept_ite (.refl s k) ((h1.trans (retireKept_modTile s1 t _ k)).trans (retireKept_isrBit s2 _ _ k))

theorem retireKept_gclHalt (s : State) (g : GPlace) (k : Nat) : RetireKept s (gclHalt s g) k := by
  unfold gclHalt gMark
  extract_lets s1 note
  have h1 : RetireKept s s1 k := ⟨rfl, rfl, rfl, List.prefix_rfl⟩
  exact (h1.trans (retireKept_modGcl s1 g _ k)).trans (retireKept_modGcl _ g _ k)

theorem retireKept_accSet (s : State) (n st k : Nat) : RetireKept s (accSet s n st) k := by
  unfold accSet
  extract_lets old s1 s2 s3
  have h2 : RetireKept s s2 k := ⟨rfl, rfl, rfl, List.prefix_rfl⟩
  have h3 : RetireKept s2 s3 k := retireKept_ite (.refl s2 k)
    (retireKept_ite (retireKept_events (events_captureOpen _ _ _ _ _ _ _ _ _ []) k) (retireKept_isrBit _ _ _ k))
  exact (h2.trans h3).trans (retireKept_tkp (tkpEvents_tkpFollow s3 n) k)

theorem retireKept_accDown (s : State) (n k : Nat) : RetireKept s (accDown s n) k :=
  retireKept_ite (.refl s k) (retireKept_accSet s n 0 k)

theorem retireKept_llkSet (s : State) (n st lanes k : Nat) : RetireKept s (llkSet s n st lanes) k :=
  retireKept_events (events_llkSet s n st lanes) k

theorem retireKept_llkDrop (s : State) (n k : Nat) : RetireKept s (llkDrop s n) k := ⟨rfl, rfl, rfl, List.prefix_rfl⟩

theorem retireKept_llkRetire (s : State) (n k : Nat) : RetireKept s (llkRetire s n) k := by
  unfold llkRetire
  extract_lets s1
  have h1 : RetireKept s s1 k := (retireKept_putReg s (.llk n) 0x014 _ k).trans (retireKept_isrBit _ _ _ k)
  exact ((h1.trans (retireKept_llkSet s1 n 7 0 k)).trans (retireKept_llkDrop _ n k)).trans (retireKept_accDown _ n k)

theorem retireKept_laneRetire (s : State) (n j : Nat) {k : Nat} (hk : k ≠ bktKey 1 n) : RetireKept s (laneRetire s n j) k := by
  unfold laneRetire
  extract_lets lane s0 s1 m m' b s2 s3
  have hlane (z : State) : RetireKept z (lane z) k := retireKept_sillage z _ _ _ k
  have h1 : RetireKept s s1 k := (retireKept_modLink s n _ k).trans (retireKept_putReg s0 (.llk n) _ _ k)
  refine retireKept_ite (retireKept_ite ((h1.trans (hlane s1)).trans (retireKept_llkSet _ n 8 0 k)) (h1.trans (hlane _)))
    (retireKept_ite ?_ ?_)
  · have h2 : RetireKept s1 s2 k := (retireKept_setBkt s1 1 n _ hk).trans (retireKept_rlogAdd _ _ _ _ _ k)
    exact (((h1.trans h2).trans (retireKept_sillage s2 _ _ _ k)).trans (retireKept_llkRetire _ n k)).trans (hlane _)
  · have h3 : RetireKept s1 s3 k := ((retireKept_modLink s1 n _ k).trans (retireKept_llkSet _ n 6 m' k)).trans (retireKept_emit _ _ k)
    have hacc : RetireKept s3 (modAcc (accDown s3 n) n (fun a => { a with narrowed := true })) k :=
      (retireKept_accDown s3 n k).trans ⟨rfl, rfl, rfl, List.prefix_rfl⟩
    exact ((h1.trans h3).trans (retireKept_ite hacc (.refl s3 k))).trans (hlane _)

theorem retireKept_fabFail (s : State) (t k : Nat) : RetireKept s (fabFail s t) k := by
  unfold fabFail
  extract_lets m s1
  have h1 : RetireKept s s1 k := ⟨rfl, rfl, rfl, List.prefix_rfl⟩
  exact (h1.trans (retireKept_isrBit s1 _ _ k)).trans (retireKept_events (events_errStop _ _ _ []) k)

/-- The effect of a retirement touches the bucket of a link alone, where a lane of it retires. -/
theorem retireKept_effect (s : State) (kind inst : Nat) {k : Nat} (hk : kind = 0 → k ≠ bktKey 1 (inst / 8)) :
    RetireKept s (retireEffect s kind inst) k := by
  unfold retireEffect
  split
  · exact retireKept_laneRetire s _ _ (hk rfl)
  · exact retireKept_llkRetire s inst k
  · exact (retireKept_putReg s _ _ _ k).trans (retireKept_isrBit _ _ _ k)
  · exact retireKept_modTile s _ _ k
  · exact retireKept_isolate s inst 4 k
  · extract_lets s1 s2
    have h2 : RetireKept s s2 k := ⟨rfl, rfl, rfl, List.prefix_rfl⟩
    exact retireKept_ite (h2.trans ((retireKept_putReg s2 (.eth inst) _ _ k).trans (retireKept_isrBit _ _ _ k))) h2
  · split
    · exact retireKept_fabFail s _ k
    · exact retireKept_putReg s _ _ _ k
    · exact retireKept_gclHalt s _ k
    · exact retireKept_gclHalt s _ k
    · exact retireKept_gclHalt s _ k
    · exact .refl s k
  · exact retireKept_putReg s _ _ _ k

/-- A resource is retired: its bucket is held at THR, and the log shows it where it had room. -/
theorem retire_shown (s : State) {kind inst : Nat} (hi : inst < 2 ^ 24) (cause : Nat) :
    let u := retire s kind inst cause
    getBkt u kind inst = { getBkt s kind inst with level := bktThr s kind, retired := true }
      ∧ (s.rlog.length < 32 → ∃ e ∈ u.rlog, e.w0 = rlogW0 kind cause inst ∧ e.w1 = BitVec.ofNat 32 (nsOf s))
      ∧ u.mem = s.mem ∧ u.time = s.time := by
  unfold retire
  extract_lets b s1 s2 s3 u
  have hk : kind = 0 → bktKey kind inst ≠ bktKey 1 (inst / 8) := fun h => by
    simp only [bktKey, h]; omega
  have h3 : RetireKept s2 s3 (bktKey kind inst) := retireKept_sillage s2 _ _ _ _
  have hu : RetireKept s2 u (bktKey kind inst) := (h3.trans (retireKept_effect s3 kind inst hk)).trans
    (retireKept_events (events_errStop _ _ _ []) _)
  have h2 : RetireKept s1 s2 (bktKey kind inst) := retireKept_rlogAdd s1 kind inst cause b.errs _
  have h12 := h2.trans hu
  refine ⟨h12.bkt.trans (getBkt_setBkt s kind inst _), fun hl => ?_, h12.mem, h12.time⟩
  have hin : (⟨rlogW0 kind cause inst, BitVec.ofNat 32 (nsOf s), BitVec.ofNat 32 b.errs⟩ : RlogE) ∈ s2.rlog := by
    have hs2 : s2 = isrBit { s1 with rlog := s1.rlog ++ [⟨rlogW0 kind cause inst, BitVec.ofNat 32 (nsOf s), BitVec.ofNat 32 b.errs⟩] } .scr 0 :=
      congrArg (fun z => isrBit z .scr 0) (if_pos hl)
    have hlog := (retireKept_isrBit { s1 with rlog := s1.rlog ++ [⟨rlogW0 kind cause inst, BitVec.ofNat 32 (nsOf s), BitVec.ofNat 32 b.errs⟩] } .scr 0 0).rlog
    rw [hs2]
    exact hlog.subset (List.mem_append_right _ (List.mem_singleton.2 rfl))
  exact ⟨_, hu.rlog.subset hin, rfl, rfl⟩

/-! ## Software retires, and writes thresholds (R698, R707, R721) -/

theorem scrRetire_open {s : State} {kind inst : Nat} (h : (getBkt s kind inst).retired = false) :
    scrRetire s kind inst = retire s kind inst 2 := if_neg (by simp [h])

theorem pageHook_scr (s : State) (a : RegAcc) (off : Nat) (old v : Word) : pageHook s a .scr off old v = scrHook s off v := rfl

theorem scrHook_bucket (s : State) {o : Nat} (h : 0x100 ≤ o ∧ o < 0x140) (v : Word) :
    scrHook s o v = bucketsWritten s ((o - 0x100) / 8) := by
  rw [scrHook, if_neg (by omega), if_neg (by omega), if_pos h]

/-- The offset of a threshold or of a window. -/
def bktOff (k : Nat) (win : Bool) : Nat := 0x100 + 8 * k + (if win then 4 else 0)

theorem bktOff_range {k : Nat} (h : k < 8) (win : Bool) :
    0x100 ≤ bktOff k win ∧ bktOff k win < 0x140 ∧ (bktOff k win - 0x100) / 8 = k := by
  cases win <;> simp only [bktOff, Bool.false_eq_true, if_true, if_false] <;> omega

theorem hasFld_bucket {k : Nat} (h : k < 8) (win : Bool) :
    hasFld .scr (bktOff k win) ⟨if win then 31 else 15, 0, .rw, .fixed, .s⟩ = true := by
  have hall : ∀ w : Bool, ∀ j < 8, hasFld .scr (bktOff j w) ⟨if w then 31 else 15, 0, .rw, .fixed, .s⟩ = true := by decide
  exact hall win k h

theorem exec_bucketThrWrite {s : State} {kind : Nat} {win : Bool} {v : Word} (h : writeTaken s .scr (bktOff (kind % 8) win) v = true)
    (src : Src) : ∃ w, Stored s .scr (bktOff (kind % 8) win) v w
      ∧ exec (.bucketThrWrite src kind win v) s = .next (bucketsWritten (storeReg s .scr (bktOff (kind % 8) win) w) (kind % 8)) := by
  obtain ⟨h1, h2, h3⟩ := bktOff_range (Nat.mod_lt kind (by decide)) win
  obtain ⟨w, hw, hput⟩ := regPut_taken h (by omega) rfl src
  refine ⟨w, hw, ?_⟩
  rw [pageHook_scr, scrHook_bucket _ ⟨h1, h2⟩, h3] at hput
  exact congrArg Host.Outcome.next hput

theorem bucketsWritten_none {s : State} (h : s.buckets = []) (kind : Nat) : bucketsWritten s kind = s := by
  simp [bucketsWritten, bktInsts, h]

theorem bktKey_parts {kind inst : Nat} (hi : inst < 2 ^ 24) :
    bktKey kind inst / 2 ^ 24 = kind ∧ bktKey kind inst % 2 ^ 24 = inst := by
  unfold bktKey
  omega

theorem bktInsts_one {s : State} {kind inst : Nat} {b : Bucket} (h : s.buckets = [(bktKey kind inst, b)]) (hi : inst < 2 ^ 24) :
    bktInsts s kind = [inst] := by
  obtain ⟨hdiv, hmod⟩ := bktKey_parts (kind := kind) hi
  unfold bktInsts
  rw [h]
  exact List.filterMap_cons_some (by rw [hdiv, hmod, if_pos rfl])

/-- The one bucket of the kind reaches the new threshold (R698). -/
theorem bucketsWritten_one {s : State} {kind inst : Nat} {b : Bucket} (h : s.buckets = [(bktKey kind inst, b)]) (hi : inst < 2 ^ 24)
    (h0 : bktThr s kind ≠ 0) (hl : bktThr s kind ≤ b.level) (hr : b.retired = false) :
    bucketsWritten s kind = retire s kind inst 0 := by
  have hb : getBkt s kind inst = b := by rw [getBkt, h]; exact if_pos rfl
  unfold bucketsWritten
  dsimp only
  rw [if_neg h0, bktInsts_one h hi, List.foldl_cons, List.foldl_nil, hb, if_neg (Nat.not_lt.2 hl), hr]
  exact if_neg (by decide)

/-! ## Fuller (R712 to R714) -/

/-- A pass notes when it was and what its period now is (R712). -/
def passMarked (s : State) : State :=
  { s with mgt := { s.mgt with passAt := eTime s, passMs := rfld s .scr 0x080 15 8 } }

theorem exec_fullerPass {s : State} (h : rbit s .scr 0x080 0 = true)
    (hd : Due s (s.mgt.passAt + usTicks (1000 * s.mgt.passMs))) (ds : List CopyDiff) :
    exec (.fullerPass ds) s = .next (addFld (ds.foldl fullerOne (passMarked s)) .scr 0x08C 31 0 1) := by
  show Host.Outcome.next (fullerPass s ds) = _
  unfold fullerPass
  rw [if_neg (by simp [h]), atLeast_due hd]
  rfl

theorem rfld_addFld (s : State) (p : Page) (off : Nat) {hi lo : Nat} (hle : lo ≤ hi) (h32 : hi < 32) (n : Nat) :
    rfld (addFld s p off hi lo n) p off hi lo = Nat.min (rfld s p off hi lo + n) (2 ^ (hi + 1 - lo) - 1) := by
  rw [addFld, rfld_putFld_same _ _ _ _ _ _ hle h32]
  exact Nat.mod_eq_of_lt (Nat.lt_of_le_of_lt (Nat.min_le_right _ _) (Nat.sub_lt (Nat.two_pow_pos _) Nat.one_pos))

theorem diffSeen_passMarked (s : State) (d : CopyDiff) : diffSeen (passMarked s) d = diffSeen s d := by
  cases d <;> rfl

theorem diffUnused_passMarked (s : State) (d : CopyDiff) : diffUnused (passMarked s) d = diffUnused s d := by
  cases d <;> rfl

theorem regsBut_addFld (s : State) (p : Page) (off hi lo n : Nat) {ks : List Nat} (h : regKey p off ∈ ks) :
    RegsBut s (addFld s p off hi lo n) ks := regsBut_putFld s p off _ _ _ ks h

/-- The difference of a pass in used bits is repaired and counted (R713, R714). -/
theorem fullerOne_used {s : State} {d : CopyDiff} (hs : diffSeen s d = true) (hu : diffUnused s d = false)
    (hr : diffUnrep d = false) (h0 : bktThr s 6 = 0) :
    let u := fullerOne s d
    rfld u .scr 0x088 23 16 = Nat.min (rfld s .scr 0x088 23 16 + 1) 0xFF
      ∧ (getBkt u 6 (diffInst d)).errs = Nat.min ((getBkt s 6 (diffInst d)).errs + 1) 0xFFFF
      ∧ RegsEvents s u [regKey .scr 0x088] ∧ u.mgt = s.mgt ∧ u.mem = s.mem ∧ u.tiles = s.tiles := by
  intro u
  obtain ⟨z, hz⟩ : ∃ z, addFld s .scr 0x088 23 16 1 = z := ⟨_, rfl⟩
  obtain ⟨y, hy⟩ : ∃ y, capture z .scr 0x10 0 0 0 (BitVec.ofNat 32 (diffInst d)) none (isrMask 1) = y := ⟨_, rfl⟩
  have hu' : u = bucketErr y 6 (diffInst d) := by
    have h1 : u = bucketErr (capture (addFld s .scr 0x088 23 16 1) .scr 0x10 0 0 0 (BitVec.ofNat 32 (diffInst d)) none (isrMask 1))
        6 (diffInst d) := by
      show fullerOne s d = _
      unfold fullerOne
      dsimp only
      rw [if_neg (by simp [hs]), hu, hr]
      rfl
    rw [h1, hz, hy]
  have he : Events z y [] := by rw [← hy]; exact events_capture _ _ _ _ _ _ _ _ _ _
  have hev {o : Nat} (h60 : 0x060 ≤ o) (hlt : o < 0xE00) : rawReg y .scr o = rawReg z .scr o :=
    he.rawReg_eq (by simp) (evKey_eq_false (by decide) hlt (by simp; omega))
  have hzraw (p : Page) (o : Nat) (h : regKey p o ≠ regKey .scr 0x088) : rawReg z p o = rawReg s p o := by
    rw [← hz]; exact rawReg_putReg_ne _ _ _ _ _ _ h
  have hy0 : bktThr y 6 = 0 := by
    refine Eq.trans ?_ h0
    rw [bktThr, rfld_of_raw 15 0 (hev (o := 0x100 + 8 * 6) (by decide) (by decide)),
      rfld_of_raw 15 0 (hzraw .scr (0x100 + 8 * 6) (regKey_ne_of_off (by decide) (by decide) (by decide)))]
    rfl
  have hbk : getBkt y 6 (diffInst d) = getBkt s 6 (diffInst d) := by
    have h1 : y.buckets = z.buckets := by rw [he.1]
    have h2 : z.buckets = s.buckets := by rw [← hz]; rfl
    rw [getBkt, h1, h2]; rfl
  obtain ⟨herrs, -, hregs, hmem, -⟩ := bucketErr_shown hy0 (diffInst d)
  have hb2 := bucketErr_off hy0 (diffInst d)
  rw [hu']
  refine ⟨?_, by rw [herrs, hbk], fun p o hk hv => ?_, ?_, ?_, ?_⟩
  · rw [rfld_of_raw 23 16 (hregs .scr 0x088 (by simp)), rfld_of_raw 23 16 (hev (o := 0x088) (by decide) (by decide)), ← hz]
    exact rfld_addFld s .scr 0x088 (by decide) (by decide) 1
  · rw [hregs p o (by simp), he.rawReg_eq (by simp) hv, hzraw p o (by simpa using hk)]
  · rw [hb2]
    show y.mgt = s.mgt
    rw [he.1, ← hz]; rfl
  · rw [hmem, he.mem, ← hz]; rfl
  · rw [hb2]
    show y.tiles = s.tiles
    rw [he.1, ← hz]; rfl

/-- Settles O57: buckets, their thresholds and leaks, retirement by software and its log, and Fuller passes. -/
theorem bucketsAndRetirement : Obligations.BucketsAndRetirement := by
  unfold Obligations.BucketsAndRetirement
  intro s src v kind inst
  have hk8 : kind % 8 < 8 := Nat.mod_lt _ (by decide)
  refine ⟨fun h hr => ?_, fun h => ?_, fun win h hb => ?_, fun b h hb hi h0 hl hr => ?_, fun hx hn hr => ?_, fun h hd => ?_⟩
  · obtain ⟨w, -, hput⟩ := regPut_taken h (by decide) rfl src
    obtain ⟨z, hz⟩ : ∃ z, storeReg s .scr 0x094 w = z := ⟨_, rfl⟩
    have honly : OnlyRegs s z := by rw [← hz]; exact onlyRegs_storeReg _ _ _ _
    have hbk : getBkt z (fld v 2 0) (fld v 31 8) = getBkt s (fld v 2 0) (fld v 31 8) := by rw [honly]; rfl
    have hi : fld v 31 8 < 2 ^ 24 := fld_lt v 31 8
    obtain ⟨h1, h2, h3, h4⟩ := retire_shown z (kind := fld v 2 0) hi 2
    have hthr : bktThr z (fld v 2 0) = bktThr s (fld v 2 0) := by
      rw [← hz]; exact rfld_storeReg_off s .scr _ _ _ _ w (by omega)
    have hns : nsOf z = nsOf s := by rw [honly]; rfl
    rw [pageHook_scr, hz, scrHook, if_pos rfl, scrRetire_open (hbk ▸ hr)] at hput
    refine ⟨_, congrArg Host.Outcome.next hput, by rw [h1], by rw [h1]; exact hthr, fun hlen => ?_, h3.trans honly.mem, ?_⟩
    · rw [← hns]; exact h2 (by rw [honly]; exact hlen)
    · rw [h4, honly]
  · obtain ⟨w, -, hput⟩ := regPut_taken h (by decide) rfl src
    have hpop : regPut s src .scr 0x0A4 1 = rlogPop (storeReg s .scr 0x0A4 w) := hput
    refine ⟨_, congrArg Host.Outcome.next hpop, ?_, ?_, regsBut_storeReg s .scr 0x0A4 _ _ (by simp)⟩
    · show (storeReg s .scr 0x0A4 w).rlog.tail = _
      rw [onlyRegs_storeReg s .scr 0x0A4 w]
    · rw [onlyRegs_storeReg s .scr 0x0A4 w]; rfl
  · obtain ⟨w, hw, hrun⟩ := exec_bucketThrWrite h src
    have hfld := hw _ (hasFld_bucket hk8 win)
    obtain ⟨z, hz⟩ : ∃ z, storeReg s .scr (bktOff (kind % 8) win) w = z := ⟨_, rfl⟩
    have honly : OnlyRegs s z := by rw [← hz]; exact onlyRegs_storeReg _ _ _ _
    rw [hz, bucketsWritten_none (by rw [honly]; exact hb)] at hrun
    refine ⟨z, hrun, ?_, by rw [← hz]; exact regsBut_storeReg s .scr _ _ _ (by simp [bktOff]), honly⟩
    rw [← hz]
    cases win with
    | true =>
      have hv : w = v := hw.word (hasFld_bucket hk8 true)
      show bktWin (storeReg s .scr (bktOff (kind % 8) true) w) (kind % 8) = v.toNat
      rw [bktWin, show 0x104 + 8 * (kind % 8) = bktOff (kind % 8) true by simp only [bktOff, if_true]; omega,
        rawReg_storeReg_same, hv]
    | false =>
      show rfld (storeReg s .scr (0x100 + 8 * (kind % 8)) w) .scr (0x100 + 8 * (kind % 8)) 15 0 = _
      rw [rfld_storeReg_same]
      exact hfld
  · obtain ⟨w, hw, hrun⟩ := exec_bucketThrWrite (win := false) h src
    have hfld : fld w 15 0 = fld v 15 0 := hw _ (hasFld_bucket hk8 false)
    obtain ⟨z, hz⟩ : ∃ z, storeReg s .scr (bktOff (kind % 8) false) w = z := ⟨_, rfl⟩
    have honly : OnlyRegs s z := by rw [← hz]; exact onlyRegs_storeReg _ _ _ _
    have hthr : bktThr z (kind % 8) = fld v 15 0 := by
      rw [← hz]; exact (rfld_storeReg_same s .scr (0x100 + 8 * (kind % 8)) 15 0 w).trans hfld
    have hbz : z.buckets = [(bktKey (kind % 8) inst, b)] := by rw [honly]; exact hb
    rw [hz, bucketsWritten_one hbz hi (by rw [hthr]; exact h0) (by rw [hthr]; exact hl) hr] at hrun
    obtain ⟨h1, -, h3, -⟩ := retire_shown z (kind := kind % 8) hi 0
    exact ⟨_, hrun, by rw [h1], by rw [h1]; exact hthr, h3.trans honly.mem⟩
  · obtain ⟨z, hz⟩ : ∃ z, atLeast s (nextLeak s (getBkt s kind inst) (leakNs (bktThr s kind) (bktWin s kind))) = z := ⟨_, rfl⟩
    have hm : TimeMoved s z := by rw [← hz]; exact timeMoved_atLeast _ _
    have hbk : getBkt z kind inst = getBkt s kind inst := by rw [hm.rest]; rfl
    have hlog : z.rlog = s.rlog := by rw [hm.rest]
    have hrun : exec (.bucketLeak kind inst) s = .next (if (getBkt s kind inst).level = 0 then z
        else setBkt z kind inst { getBkt s kind inst with level := (getBkt s kind inst).level - 1, leakAt := some (eTime z) }) := by
      show Host.Outcome.next (if resourceExists s kind inst then bucketLeak s kind inst else s) = _
      rw [if_pos hx, bucketLeak]
      dsimp only
      rw [if_neg hn, hz, hbk, hr]
      by_cases h0 : (getBkt s kind inst).level = 0
      · rw [if_pos (.inr h0), if_pos h0]
      · rw [if_neg (by simp [h0]), if_neg h0]
    refine ⟨_, hrun, ?_⟩
    by_cases h0 : (getBkt s kind inst).level = 0
    · rw [if_pos h0, hbk]
      exact ⟨by omega, rfl, hm.mem, hm.tiles, hlog⟩
    · rw [if_neg h0, getBkt_setBkt]
      exact ⟨rfl, rfl, hm.mem, hm.tiles, hlog⟩
  · have hrun := exec_fullerPass h hd
    refine ⟨⟨_, hrun [], rfld_addFld (passMarked s) .scr 0x08C (by decide) (by decide) 1,
      regsBut_addFld (passMarked s) .scr 0x08C 31 0 1 (by simp), rfl, rfl⟩, fun d hs hu => ?_, fun d hs hu hr h0 => ?_⟩
    · have hone : fullerOne (passMarked s) d = addFld (passMarked s) .scr 0x088 15 0 1 := by
        unfold fullerOne
        dsimp only
        rw [diffSeen_passMarked, diffUnused_passMarked, if_neg (by simp [hs]), if_pos hu]
      have h1 := hrun [d]
      rw [List.foldl_cons, List.foldl_nil, hone] at h1
      refine ⟨_, h1, ?_, ?_, rfl, rfl⟩
      · exact (rfld_of_raw 15 0 (rawReg_putReg_ne (addFld (passMarked s) .scr 0x088 15 0 1) .scr .scr 0x08C 0x088 _ (by decide))).trans
          (rfld_addFld (passMarked s) .scr 0x088 (by decide) (by decide) 1)
      · exact (regsBut_addFld (passMarked s) .scr 0x088 15 0 1 (by simp)).trans (regsBut_addFld _ .scr 0x08C 31 0 1 (by simp))
    · obtain ⟨hcnt, herrs, hregs, hmgt, hmem, htiles⟩ := fullerOne_used (s := passMarked s)
        ((diffSeen_passMarked s d).trans hs) ((diffUnused_passMarked s d).trans hu) hr h0
      have h1 := hrun [d]
      rw [List.foldl_cons, List.foldl_nil] at h1
      generalize fullerOne (passMarked s) d = z at hcnt herrs hregs hmgt hmem htiles h1
      refine ⟨_, h1, ?_, herrs, fun p o hk hv => ?_, hmgt, hmem, htiles⟩
      · exact (rfld_of_raw 23 16 (rawReg_putReg_ne z .scr .scr 0x08C 0x088 _ (by decide))).trans hcnt
      · have hk1 : regKey p o ∉ [regKey .scr 0x088] := fun hm => hk (by simp at hm; simp [hm])
        have hk2 : regKey p o ∉ [regKey .scr 0x08C] := fun hm => hk (by simp at hm; simp [hm])
        exact (regsBut_addFld z .scr 0x08C 31 0 1 (List.mem_singleton.2 rfl) p o hk2).trans (hregs p o hk1 hv)

end Sys2Proof.Machine
end

section
/-! PROOFS. Response timeouts, the release of a TAG, the tile watchdog, and the loss of VCORE (sections 7.3, 9.4 and 17.2). -/

namespace Sys2Proof.Machine

/-! ## Requests (R700 to R702) -/

/-- A request in hand that is marked as timed out: its TAG is withheld until free. -/
def reqDead (tag : Half) (free : Nat) (x : Tile) : Tile :=
  { x with movReqs := modFirst (fun q => q.tag == tag && q.live) (fun q => { q with dead := some free }) x.movReqs }

theorem movTimeout_posted {s : State} {t d : Nat} {r : MovReq} (hr : (getTile s t).movReqs = [r]) (hl : r.live = true)
    (ht : r.till = some d) (hd : Due s d) (htrb : (getTile s t).trb = []) (hheld : (getTile s t).leaseHeld = [])
    (hsink : r.sink = false) (hk : r.kind ≠ .rd) :
    movTimeout s t r.tag = movPump (reqFail (modTile s t (reqDead r.tag (eTime s + usTicks (rtoUs s)))) t r rsTIMEOUT) t := by
  have hfind : (getTile s t).movReqs.find? (fun q => q.tag == r.tag && q.live) = some r := by simp [hr, hl]
  unfold movTimeout
  dsimp only
  rw [hfind]
  dsimp only
  rw [ht]
  dsimp only
  rw [atLeast_due hd, htrb, hheld, hsink, if_neg (by simp), if_neg (by decide), if_neg (fun h => hk h.1)]
  rfl

/-- A TAG is withheld for the time of another answer, and the failure is noted (R283, R701, R702). -/
theorem movTimeout_shown {s : State} {t d : Nat} {r : MovReq} (hr : (getTile s t).movReqs = [r]) (hl : r.live = true)
    (ht : r.till = some d) (hd : Due s d) (htrb : (getTile s t).trb = []) (hheld : (getTile s t).leaseHeld = [])
    (hrst : rbit s (.mov t) 0x010 1 = false) (hsink : r.sink = false) (hk : r.kind ≠ .rd) (hq : movQuiet (getTile s t))
    (hlc : r.lc < 4) :
    (getTile (movTimeout s t r.tag) t).movReqs = [{ r with dead := some (eTime s + usTicks (rtoUs s)) }]
      ∧ rbit (movTimeout s t r.tag) (.mov t) (0x0A0 + 4 * r.lc) 0 = true ∧ (movTimeout s t r.tag).mem = s.mem := by
  rw [movTimeout_posted hr hl ht hd htrb hheld hsink hk]
  obtain ⟨z, hz⟩ : ∃ z, modTile s t (reqDead r.tag (eTime s + usTicks (rtoUs s))) = z := ⟨_, rfl⟩
  have hzt : getTile z t = reqDead r.tag (eTime s + usTicks (rtoUs s)) (getTile s t) := by rw [← hz, getTile_modTile_same]
  have hzrst : rbit z (.mov t) 0x010 1 = false := by rw [← hz]; exact hrst
  have hzmem : z.mem = s.mem := by rw [← hz]; rfl
  rw [hz]
  obtain ⟨hfail, hctl, htile, hmem⟩ := reqFail_shown z t hlc rsTIMEOUT
  obtain ⟨h1, h2, h3⟩ := hq
  have hquiet : movQuiet (getTile (reqFail z t r rsTIMEOUT) t) := by
    rw [htile, hzt]
    exact ⟨h1, by simp [cmdFailed, reqDead, h2], h3⟩
  rw [movPump_of_quiet hquiet (hctl.trans hzrst)]
  refine ⟨?_, hfail, hmem.trans hzmem⟩
  rw [getTile_modTile_same, htile, hzt]
  show modFirst _ _ (getTile s t).movReqs = _
  rw [hr]
  simp [modFirst, hl]

/-! ## Leases (R302) -/

theorem evKey_til {t o : Nat} (h60 : 0x060 ≤ o) (h : o < 0xE00) : EvKey (regKey (.til t) o) = false :=
  evKey_eq_false (by simp only [pageBase]; omega) h (by simp; omega)

/-- A lease that is refused. -/
theorem leaseSet_refused (s : State) (t : Nat) {i : Nat} (hi : i < 3) :
    leaseState (leaseSet s t i 3) t i = 3 ∧ TileEvents s (leaseSet s t i 3) [regKey (.til t) (0x100 + 4 * i)] t := by
  unfold leaseSet
  extract_lets s1 s2
  rw [if_pos rfl]
  have he : Events s2 (isrBit s2 (.til t) i) [regKey (.til t) (0x100 + 4 * i)] := events_isrBit _ _ _ _ _
  have h1 : TileEvents s s1 [regKey (.til t) (0x100 + 4 * i)] t :=
    (events_putFld _ _ _ _ _ _ _ (.inl (List.mem_singleton.2 rfl))).tile t
  have h2 : TileEvents s1 s2 [regKey (.til t) (0x100 + 4 * i)] t :=
    tileEvents_of (onlyTile_modTile s1 t _) (.refl _ _)
  refine ⟨?_, (h1.trans h2).trans (he.tile t)⟩
  have hraw : rawReg (isrBit s2 (.til t) i) (.til t) (0x100 + 4 * i) = rawReg s2 (.til t) (0x100 + 4 * i) :=
    (events_isrBit s2 (.til t) i (0, 0) []).rawReg_eq (by simp) (evKey_til (by omega) (by omega))
  rw [leaseState, rfld_of_raw 2 1 hraw]
  exact rfld_putFld_same s _ _ 2 1 3 (by decide) (by decide)

/-! ## Isolation (R383 to R385) -/

/-- A tile is isolated, with its cause, and its engines lose their queues. -/
theorem isolate_shown {s : State} {t : Nat} (h : isoBit s t = false) {cause : Nat} (hc : cause < 8) :
    isolated (isolate s t cause) t = true ∧ rfld (isolate s t cause) (.til t) 0x084 4 2 = cause
      ∧ (getTile (isolate s t cause) t).movQ = [] ∧ (getTile (isolate s t cause) t).cmpQ = []
      ∧ (getTile (isolate s t cause) t).cmbQ = [] ∧ (getTile (isolate s t cause) t).powered = (getTile s t).powered
      ∧ TileEvents s (isolate s t cause) [regKey (.til t) 0x084] t := by
  unfold isolate
  rw [if_neg (by simp [h])]
  extract_lets s1 s2
  have hkey : regKey (.til t) 0x084 ∈ [regKey (.til t) 0x084] := List.mem_singleton.2 rfl
  have h1 : TileEvents s s1 [regKey (.til t) 0x084] t :=
    ((events_putBit _ _ _ _ _ _ (.inl hkey)).trans (events_putFld _ _ _ _ _ _ _ (.inl hkey))).tile t
  have h2 : TileEvents s1 s2 [regKey (.til t) 0x084] t := tileEvents_of (onlyTile_modTile s1 t _) (.refl _ _)
  have he : Events s2 (isrBit s2 (.til t) 3) [regKey (.til t) 0x084] := events_isrBit _ _ _ _ _
  have hraw : rawReg (isrBit s2 (.til t) 3) (.til t) 0x084 = rawReg s1 (.til t) 0x084 :=
    (events_isrBit s2 (.til t) 3 (0, 0) []).rawReg_eq (by simp) (evKey_til (by decide) (by decide))
  have htile : getTile (isrBit s2 (.til t) 3) t = getTile s2 t := he.getTile t
  have hs2 : getTile s2 t = _ := getTile_modTile_same s1 t _
  have hx : getTile (isrBit s2 (.til t) 3) t = _ := htile.trans hs2
  refine ⟨?_, ?_, by rw [hx], by rw [hx], by rw [hx], by rw [hx]; rfl, (h1.trans h2).trans (he.tile t)⟩
  · have hiso : isoBit (isrBit s2 (.til t) 3) t = true := by
      rw [isoBit, rbit, rfld_of_raw 1 1 hraw, rfld_putFld_ne _ _ _ _ _ _ _ _ (by decide) (by decide) (by decide) (by decide)]
      exact rbit_putBit_same s (.til t) 0x084 1 true (by decide)
    rw [isolated, hiso, Bool.true_or]
  · rw [rfld_of_raw 4 2 hraw]
    exact (rfld_putFld_same _ _ _ 4 2 cause (by decide) (by decide)).trans (Nat.mod_eq_of_lt hc)

/-- Settles O58: requests and leases that time out, TAGs that become free, and tiles that are isolated. -/
theorem timeoutsAndIsolation : Obligations.TimeoutsAndIsolation := by
  unfold Obligations.TimeoutsAndIsolation
  intro s t
  refine ⟨fun tag r d hst hr htag hl ht hd htrb hheld hrst hsink hk hq hlc => ?_, fun i x d hst hf hi hls hd => ?_,
    fun tag r rest d hr htag hdead hd htrb => ?_, fun hw hl hstall hst hiso hd => ?_, fun hiso => ?_⟩
  · subst htag
    have hkind : r.kind ≠ .rd := fun h => by rcases hk with h' | h' <;> simp [h'] at h
    have hrun : exec (.responseTimeout (.mov t r.tag)) s = .next (movTimeout s t r.tag) :=
      congrArg Host.Outcome.next (if_neg (by simp [hst]))
    exact ⟨_, hrun, movTimeout_shown hr hl ht hd htrb hheld hrst hsink hkind hq hlc⟩
  · have hrun : exec (.responseTimeout (.til t i)) s = .next (leaseSet (tagLate s t 1 x) t i 3) := by
      show Host.Outcome.next (respTimeout s (.til t i)) = _
      unfold respTimeout
      dsimp only
      rw [hst, tilTimeout, hf]
      dsimp only
      rw [hls, atLeast_due hd]
      rfl
    obtain ⟨h1, h2⟩ := leaseSet_refused (tagLate s t 1 x) t hi
    exact ⟨_, hrun, h1, TileEvents.trans (tileEvents_of (onlyTile_modTile s t _) (.refl _ _)) h2⟩
  · subst htag
    have hfind : (getTile s t).movReqs.find? (fun q => q.tag == r.tag && q.dead.isSome && !(getTile s t).trb.any (fun e => e.tag == r.tag)) = some r := by
      simp [hr, hdead, htrb]
    have hrun : exec (.tagRelease t r.tag) s = .next (modTile s t (fun x => { x with
        movReqs := dropFirst (fun q => q.tag == r.tag && q.dead.isSome) x.movReqs })) := by
      show Host.Outcome.next (tagFree s t r.tag) = _
      rw [tagFree, hfind]
      dsimp only
      rw [hdead]
      exact congrArg (fun z => Host.Outcome.next (modTile z t _)) (atLeast_due hd)
    refine ⟨_, hrun, ?_, onlyTile_modTile s t _, .refl _ _⟩
    rw [getTile_modTile_same]
    show dropFirst _ (getTile s t).movReqs = rest
    rw [hr]
    simp [dropFirst, hdead]
  · obtain ⟨z, hz⟩ : ∃ z, captureOpen false s (.til t) 0x10 0 0 0 none (isrMask 3) = z := ⟨_, rfl⟩
    have he : Events s z [regKey (.til t) 0x084] := by rw [← hz]; exact events_captureOpen _ _ _ _ _ _ _ _ _ _
    have hbit : isoBit z t = false := by
      have hraw : rawReg z (.til t) 0x084 = rawReg s (.til t) 0x084 := by
        rw [← hz]; exact (events_captureOpen _ _ _ _ _ _ _ _ _ []).rawReg_eq (by simp) (evKey_til (by decide) (by decide))
      rw [isoBit, rbit, rfld, hraw]
      simp only [isolated, Bool.or_eq_false_iff] at hiso
      exact hiso.1
    have hrun : exec (.watchdogExpiry t) s = .next (isolate z t 2) := by
      show Host.Outcome.next (watchdog s t) = _
      unfold watchdog
      dsimp only
      rw [if_neg (by simp [hw, hl, hstall, hst, hiso]), atLeast_due hd, hiso]
      exact congrArg (fun y => Host.Outcome.next (isolate y t 2)) hz
    obtain ⟨h1, h2, h3, h4, h5, -, h7⟩ := isolate_shown hbit (cause := 2) (by decide)
    exact ⟨_, hrun, h1, h2, h3, h4, h5, (he.tile t).trans h7⟩
  · have hbit : isoBit (modTile s t (fun x => { x with powered := false })) t = false := by
      simp only [isolated, Bool.or_eq_false_iff] at hiso
      exact hiso.1
    obtain ⟨h1, h2, h3, -, -, h6, h7⟩ := isolate_shown hbit (cause := 3) (by decide)
    refine ⟨_, rfl, h1, h2, h6.trans ?_, h3, TileEvents.trans (tileEvents_of (onlyTile_modTile s t _) (.refl _ _)) h7⟩
    rw [getTile_modTile_same]

end Sys2Proof.Machine
end

section
/-! PROOFS. Stop, resume, freeze and unfreeze waves, and the halt of a block (sections 18.2, 18.3 and 18.11). -/

namespace Sys2Proof.Machine

/-! ## What events leave of the debug state -/

/-- The freeze and the halted pages are as before. -/
structure DbgKept (s u : State) : Prop where
  frozen : u.dbg.frozen = s.dbg.frozen
  haltAt : u.dbg.haltAt = s.dbg.haltAt

theorem DbgKept.refl (s : State) : DbgKept s s := ⟨rfl, rfl⟩

theorem DbgKept.trans {s u v : State} (h : DbgKept s u) (k : DbgKept u v) : DbgKept s v :=
  ⟨k.frozen.trans h.frozen, k.haltAt.trans h.haltAt⟩

theorem dbgKept_ite {s u v : State} {c : Prop} [Decidable c] (h : DbgKept s u) (k : DbgKept s v) :
    DbgKept s (if c then u else v) := by
  split
  · exact h
  · exact k

theorem dbgKept_of {s u : State} (h : u.dbg = s.dbg) : DbgKept s u := ⟨by rw [h], by rw [h]⟩

theorem dbg_ite {s u v : State} {c : Prop} [Decidable c] (h : u.dbg = s.dbg) (k : v.dbg = s.dbg) :
    (if c then u else v).dbg = s.dbg := by
  split
  · exact h
  · exact k

theorem dbg_irqMessage (s : State) (p : Page) : (irqMessage s p).dbg = s.dbg := by
  have hreq (v : Nat) : (msixRequest s v).dbg = s.dbg := by
    unfold msixRequest
    extract_lets x
    refine dbg_ite rfl ?_
    split
    · exact dbg_ite rfl rfl
    · rfl
  unfold irqMessage
  extract_lets s1
  have h1 : s1.dbg = s.dbg := dbg_ite (hreq _) rfl
  exact dbg_ite (show (emit s1 _).dbg = s.dbg from h1) h1

theorem dbg_record (s : State) (p : Page) (code : Nat) (tent : Bool) (layer oper : Half) (detail : Word) :
    (record s p code tent layer oper detail).dbg = s.dbg := by
  unfold record
  dsimp only
  exact dbg_ite rfl rfl

theorem dbg_isrCore (s : State) (p : Page) (mask : Word) (lo : Half × Half) : (isrCore s p mask lo).dbg = s.dbg := by
  unfold isrCore
  dsimp only
  exact dbg_ite ((dbg_record _ _ _ _ _ _ _).trans (dbg_irqMessage _ _)) rfl

theorem dbg_sendWave (s : State) (fr : Option Nat) (code : BitVec 7) : (sendWave s fr code).dbg = s.dbg :=
  List.foldlRecOn (motive := fun z : State => z.dbg = s.dbg) _ _ rfl fun _ hz _ _ => dbg_ite hz hz

theorem dbgKept_stopTrigger (s : State) (cause : Nat) (src : Word) (fr : Option Nat) :
    DbgKept s (stopTrigger s cause src fr) := by
  unfold stopTrigger
  extract_lets s1 a b s2 dbg s3 s4
  have k2 : s2.dbg = s.dbg := dbg_ite rfl rfl
  have k3 : DbgKept s s3 := ⟨show s2.dbg.frozen = _ by rw [k2], show s2.dbg.haltAt = _ by rw [k2]⟩
  have k4 : s4.dbg = s3.dbg := dbg_ite rfl rfl
  exact dbgKept_ite (dbgKept_of k2) (k3.trans (dbgKept_of ((dbg_isrCore _ _ _ _).trans ((dbg_sendWave s4 fr 1).trans k4))))

theorem dbgKept_sillage (s : State) (p : Page) (code : Nat) (tent : Bool) (layer oper : Half) (detail : Word) :
    DbgKept s (sillage s p code tent layer oper detail) := by
  have hmatch (z : State) : DbgKept z (silMatch z p code layer oper) := by
    unfold silMatch
    split
    · exact .refl _
    · rename_i t u _
      have k : DbgKept z (isrCore z (.dbg t) 8 (0, 0)) := dbgKept_of (dbg_isrCore _ _ _ _)
      exact dbgKept_ite (dbgKept_ite (k.trans (dbgKept_stopTrigger _ _ _ _)) k) (.refl _)
  exact dbgKept_ite ((dbgKept_of (dbg_record _ _ _ _ _ _ _)).trans (hmatch _)) (.refl _)

/-- An event of the package's DBG page triggers no unit. -/
theorem dbg_isrBit_dbgp (s : State) (n : Nat) : (isrBit s .dbgp n).dbg = s.dbg :=
  dbg_ite (dbg_isrCore _ _ _ _) (dbg_isrCore _ _ _ _)

/-! ## Waves (R575, R725) -/

/-- A link that forwards waves. -/
def Forwards (s : State) (k : Nat) : Prop := linkUp s k = true ∧ rbit s (.llk k) 0x080 2 = true

theorem Forwards.events {s u : State} {ks : List Nat} {k : Nat} (h : Forwards s k) (he : Events s u ks)
    (hk : ∀ o ∈ [0x080, 0x084], regKey (.llk k) o ∉ ks) : Forwards u k := by
  have hraw (o : Nat) (ho : o ∈ [0x080, 0x084]) : rawReg u (.llk k) o = rawReg s (.llk k) o :=
    he.rawReg_eq (hk o ho) (by
      simp only [List.mem_cons, List.not_mem_nil, or_false] at ho
      exact evKey_llk (by omega) (by omega))
  obtain ⟨h1, h2⟩ := h
  refine ⟨?_, ?_⟩
  · rw [linkUp, rfld_of_raw 3 0 (hraw 0x084 (by simp))]; exact h1
  · rw [rbit, rfld_of_raw 2 2 (hraw 0x080 (by simp))]; exact h2

/-- One link is given a wave. -/
def waveOne (fr : Option Nat) (code : BitVec 7) (s : State) (n : Nat) : State :=
  if linkUp s n && rbit s (.llk n) 0x080 2 && (some n != fr) then emit (sbWave s n code) (.wave n code) else s

theorem events_waveOne (fr : Option Nat) (code : BitVec 7) (s : State) (n : Nat) : Events s (waveOne fr code s n) [] :=
  events_ite ((events_sbWave s n code []).trans (events_emit _ _ _)) (.refl _ _)

theorem waves_foldl (fr : Option Nat) (code : BitVec 7) {k : Nat} (hfr : some k ≠ fr) (l : List Nat) : ∀ z : State,
    Forwards z k → (k ∈ l ∨ OutMsg.wave k code ∈ z.out) → OutMsg.wave k code ∈ (l.foldl (waveOne fr code) z).out := by
  induction l with
  | nil => exact fun z _ h => h.elim (by simp) id
  | cons n l ih =>
    intro z hz h
    have hout : z.out <+: (waveOne fr code z n).out := by
      unfold waveOne
      split
      · exact List.prefix_append _ _
      · exact List.prefix_rfl
    refine ih _ (hz.events (events_waveOne fr code z n) (by simp)) ?_
    rcases h with h | h
    · rcases List.mem_cons.1 h with rfl | h
      · refine .inr ?_
        rw [waveOne, if_pos (by simp [hz.1, hz.2, hfr])]
        exact List.mem_append_right _ (List.mem_singleton.2 rfl)
      · exact .inl h
    · exact .inr (hout.subset h)

/-- A wave leaves on every forwarding link but the one it came from. -/
theorem sendWave_waves {s : State} {k : Nat} (hk : k < 24) (h : Forwards s k) {fr : Option Nat} (hfr : some k ≠ fr)
    (code : BitVec 7) : OutMsg.wave k code ∈ (sendWave s fr code).out :=
  waves_foldl fr code hfr (List.range 24) s h (.inl (List.mem_range.2 hk))

theorem out_isrBit {s : State} {p : Page} {n : Nat} {m : OutMsg} (h : m ∈ s.out) : m ∈ (isrBit s p n).out :=
  (hifKept_isrSet s p _ _).out.subset h

/-! ## The stop wave -/

/-- What a trigger writes in the package's DBG page before the stop. -/
theorem stopTrigger_runs {s : State} (hs : s.dbg.stopped = false) {cause : Nat} (hc : cause < 32) (src : Word) (fr : Option Nat) :
    ∃ z, stopTrigger s cause src fr = isrCore (sendWave z fr 1) .dbgp 1 ∧ z.dbg.stopped = true ∧ z.dbg.cause = cause
      ∧ rbit z .dbgp 0x094 cause = true ∧ Events s z [] := by
  unfold stopTrigger
  extract_lets s1 a b s2 dbg s3 s4
  have hput (x : State) (o : Nat) (w : Word) (ho : o < 0x1000) : Events x (putReg x .dbgp o w) [] :=
    events_putReg x .dbgp o w [] (.inr (evKey_dbgp o ho))
  have k1 : Events s s1 [] := hput s 0x094 _ (by decide)
  have hbit1 : rbit s1 .dbgp 0x094 cause = true := rbit_putBit_same s .dbgp 0x094 cause true hc
  have k2 : Events s s2 [] := events_ite k1 (k1.trans (((((hput s1 0x084 _ (by decide)).trans (hput _ 0x084 _ (by decide))).trans
    (hput _ 0x088 _ (by decide))).trans (hput _ 0x08C _ (by decide))).trans (hput _ 0x090 _ (by decide))))
  have hraw2 : rawReg s2 .dbgp 0x094 = rawReg s1 .dbgp 0x094 := by
    have hoff (x : State) {o : Nat} (w : Word) (ho : (0x094 : Nat) ≠ o) : rawReg (putReg x .dbgp o w) .dbgp 0x094 = rawReg x .dbgp 0x094 :=
      rawReg_putReg_off _ _ _ _ _ ho
    show rawReg (if _ then s1 else _) .dbgp 0x094 = _
    split
    · rfl
    · exact (hoff _ _ (by decide)).trans ((hoff _ _ (by decide)).trans ((hoff _ _ (by decide)).trans
        ((hoff _ _ (by decide)).trans (hoff _ _ (by decide)))))
  have hd2 : s2.dbg = s.dbg := dbg_ite rfl rfl
  have k3 : Events s2 s3 [] := ⟨rfl, LinksSb.refl _, fun _ _ _ _ => rfl⟩
  have k4 : Events s3 s4 [] := events_ite (events_emit _ _ _) (.refl _ _)
  have hd4 : s4.dbg = s3.dbg := dbg_ite rfl rfl
  have hraw4 : rawReg s4 .dbgp 0x094 = rawReg s1 .dbgp 0x094 := by
    refine Eq.trans ?_ hraw2
    show rawReg (if _ then _ else s3) .dbgp 0x094 = _
    split <;> rfl
  refine ⟨s4, if_neg (by rw [hd2, hs]; decide), by rw [hd4], by rw [hd4], ?_, (k2.trans k3).trans k4⟩
  rw [rbit, rfld_of_raw cause cause hraw4]
  exact hbit1

/-- A stop of a package that runs (R725, R731). -/
theorem stopTrigger_shown {s : State} (hs : s.dbg.stopped = false) {cause : Nat} (hc : cause < 32) (src : Word) (fr : Option Nat) :
    let u := stopTrigger s cause src fr
    u.dbg.stopped = true ∧ u.dbg.cause = cause ∧ rbit u .dbgp 0x094 cause = true
      ∧ (∀ k, k < 24 → Forwards s k → some k ≠ fr → OutMsg.wave k 1 ∈ u.out) := by
  intro u
  obtain ⟨z, hu, h1, h2, h3, he⟩ := stopTrigger_runs hs hc src fr
  have hdbg : u.dbg = z.dbg := by
    show (stopTrigger s cause src fr).dbg = _
    rw [hu, dbg_isrCore, dbg_sendWave]
  refine ⟨by rw [hdbg, h1], by rw [hdbg, h2], ?_, fun k hk hf hfr => ?_⟩
  · show rbit (stopTrigger s cause src fr) .dbgp 0x094 cause = true
    rw [hu, rbit, rfld, rawReg_isrCore _ _ _ _ _ (by decide) (by decide) (by decide), rawReg_sendWave]
    exact h3
  · show _ ∈ (stopTrigger s cause src fr).out
    rw [hu]
    exact (hifKept_isrCore _ _ _ _).out.subset (sendWave_waves hk (hf.events he (by simp)) hfr 1)

/-! ## The freeze wave (R736 to R738) -/

theorem freezeNote_shown (s : State) (code : Nat) : Events s (freezeNote s code) [] ∧ DbgKept s (freezeNote s code) :=
  List.foldlRecOn (motive := fun z : State => Events s z [] ∧ DbgKept s z) _ _ ⟨.refl _ _, .refl _⟩ fun _ hz _ _ =>
    ⟨hz.1.trans (events_sillage _ _ _ _ _ _ _ []), hz.2.trans (dbgKept_sillage _ _ _ _ _ _ _)⟩

theorem events_dbg (s : State) (d : Dbg) : Events s { s with dbg := d } [] := ⟨rfl, LinksSb.refl _, fun _ _ _ _ => rfl⟩

theorem dbgFreeze_shown {s : State} (h : s.dbg.frozen = false) (fr : Option Nat) :
    let u := dbgFreeze s fr
    u.dbg.frozen = true ∧ (∀ k, k < 24 → Forwards s k → some k ≠ fr → OutMsg.wave k 3 ∈ u.out) ∧ Events s u [] := by
  intro u
  obtain ⟨he, hd⟩ := freezeNote_shown { s with dbg := { s.dbg with frozen := true } } 0x04
  have hu : u = isrBit (sendWave (freezeNote { s with dbg := { s.dbg with frozen := true } } 0x04) fr 3) .dbgp 2 :=
    if_neg (by rw [h]; decide)
  have he := (events_dbg s { s.dbg with frozen := true }).trans he
  generalize freezeNote { s with dbg := { s.dbg with frozen := true } } 0x04 = z at he hd hu
  rw [hu]
  refine ⟨?_, fun k hk hf hfr => out_isrBit (sendWave_waves hk (hf.events he (by simp)) hfr 3),
    (he.trans (events_sendWave _ _ _ _)).trans (events_isrBit _ _ _ _ _)⟩
  rw [dbg_isrBit_dbgp, dbg_sendWave, hd.frozen]

theorem dbgUnfreeze_shown {s : State} (h : s.dbg.frozen = true) (fr : Option Nat) :
    let u := dbgUnfreeze s fr
    u.dbg.frozen = false ∧ (∀ k, k < 24 → Forwards s k → some k ≠ fr → OutMsg.wave k 4 ∈ u.out) ∧ Events s u [] := by
  intro u
  obtain ⟨he, hd⟩ := freezeNote_shown { s with dbg := { s.dbg with frozen := false } } 0x05
  have hu : u = sendWave (freezeNote { s with dbg := { s.dbg with frozen := false } } 0x05) fr 4 := if_pos h
  have he := (events_dbg s { s.dbg with frozen := false }).trans he
  generalize freezeNote { s with dbg := { s.dbg with frozen := false } } 0x05 = z at he hd hu
  rw [hu]
  refine ⟨?_, fun k hk hf hfr => sendWave_waves hk (hf.events he (by simp)) hfr 4, he.trans (events_sendWave _ _ _ _)⟩
  rw [dbg_sendWave, hd.frozen]

/-! ## RESUME (R733, R734) -/

/-- What of RESUME comes after the release of the blocks. -/
def resumeWave (s : State) (fr : Option Nat) : State :=
  isrBit (sendWave (if rbit s .dbgp 0x080 10 then emit s (.stopOut false) else s) fr 2) .dbgp 1

theorem dbgResume_eq {s : State} (h : s.dbg.stopped = true) (fr : Option Nat) :
    dbgResume s fr = resumeWave (s.dbg.haltAt.foldl blockRelease
      { s with dbg := { s.dbg with stopped := false, haltAt := [], resumeAt := eTime s } }) fr := if_neg (by rw [h]; decide)

theorem resumeWave_shown (s : State) (fr : Option Nat) :
    let u := resumeWave s fr
    u.dbg = s.dbg ∧ (∀ k, k < 24 → Forwards s k → some k ≠ fr → OutMsg.wave k 2 ∈ u.out) ∧ Events s u [] ∧ EventFrame s u := by
  intro u
  obtain ⟨z, hz⟩ : ∃ z, (if rbit s .dbgp 0x080 10 then emit s (.stopOut false) else s) = z := ⟨_, rfl⟩
  have he : Events s z [] := by rw [← hz]; exact events_ite (events_emit _ _ _) (.refl _ _)
  have hfr : EventFrame s z := by rw [← hz]; exact eventFrame_ite (eventFrame_of_regs rfl rfl) (.refl _)
  have hd : z.dbg = s.dbg := by rw [← hz]; exact dbg_ite rfl rfl
  have hu : u = isrBit (sendWave z fr 2) .dbgp 1 := by rw [← hz]; rfl
  rw [hu]
  exact ⟨by rw [dbg_isrBit_dbgp, dbg_sendWave, hd],
    fun k hk hf hn => out_isrBit (sendWave_waves hk (hf.events he (by simp)) hn 2),
    (he.trans (events_sendWave _ _ _ _)).trans (events_isrBit _ _ _ _ _),
    (hfr.trans (eventFrame_sendWave _ _ _)).trans (eventFrame_isrBit _ _ _ _)⟩

/-- Timers that are moved lie outside registers, memory and the debug state. -/
theorem shiftTimers_frame (s : State) (p : Page) (d : Nat) :
    (shiftTimers s p d).regs = s.regs ∧ (shiftTimers s p d).fuses = s.fuses ∧ (shiftTimers s p d).mem = s.mem
      ∧ (shiftTimers s p d).dbg = s.dbg := by
  cases p <;> exact ⟨rfl, rfl, rfl, rfl⟩

theorem blockGo_plain {p : Page} (h : ∀ k, p ≠ .mov k ∧ p ≠ .cmb k ∧ p ≠ .llk k) (s : State) : blockGo s p = s := by
  unfold blockGo
  split
  · next t => exact absurd rfl (h t).1
  · next t => exact absurd rfl (h t).2.1
  · next n => exact absurd rfl (h n).2.2
  · rfl

/-- A block that has nothing to go on with is released. -/
theorem blockRelease_shown {s : State} {p : Page} {h : Nat} (hp : pageAt (pageBase p) = some p)
    (hno : ∀ k, p ≠ .mov k ∧ p ≠ .cmb k ∧ p ≠ .llk k) :
    let u := blockRelease s (pageBase p, h)
    stopped u p = false ∧ u.mem = s.mem ∧ RegsEvents s u [regKey p 0x014] ∧ DbgKept s u := by
  intro u
  obtain ⟨hregs, hfuses, hmem, hdbg⟩ := shiftTimers_frame s p (eTime s - h)
  have hu : u = sillage (putBit (shiftTimers s p (eTime s - h)) p 0x014 2 false) p 0x03 false 0 0 (BitVec.ofNat 32 s.dbg.cause) := by
    show blockRelease s (pageBase p, h) = _
    unfold blockRelease
    rw [hp]
    exact blockGo_plain hno _
  generalize shiftTimers s p (eTime s - h) = y at hregs hfuses hmem hdbg hu
  obtain ⟨z, hz⟩ : ∃ z, putBit y p 0x014 2 false = z := ⟨_, rfl⟩
  rw [hz] at hu
  have he : Events z u [] := by rw [hu]; exact events_sillage _ _ _ _ _ _ _ _
  have hfr : EventFrame z u := by rw [hu]; exact eventFrame_sillage _ _ _ _ _ _ _
  have hzmem : z.mem = s.mem := by rw [← hz]; exact hmem
  have hzdbg : z.dbg = s.dbg := by rw [← hz]; exact hdbg
  refine ⟨?_, he.mem.trans hzmem, fun q o hk hv => ?_, ?_⟩
  · rw [stopped, hfr.rbit p (o := 0x014) ⟨by decide, by decide⟩, ← hz]
    exact rbit_putBit_same y p 0x014 2 false (by decide)
  · rw [he.rawReg_eq (by simp) hv, ← hz]
    exact (rawReg_putReg_ne _ _ _ _ _ _ (by simpa using hk)).trans (rawReg_congr hregs hfuses q o)
  · rw [hu]
    exact (dbgKept_of hzdbg).trans (dbgKept_sillage _ _ _ _ _ _ _)

/-! ## DBG_PKG_CTL (R734, R738) -/

theorem mem_tabPut_pair {α : Type} (t : Tab α) (k : Nat) (x : α) : (k, x) ∈ tabPut t k x := by
  induction t with
  | nil => exact List.mem_singleton.2 rfl
  | cons a r ih =>
    obtain ⟨k', v'⟩ := a
    unfold tabPut
    split_ifs
    · exact List.mem_cons_self
    · exact List.mem_cons_self
    · exact List.mem_cons_of_mem _ ih

/-- A write of DBG_PKG_CTL that takes effect: what comes before the waves changes registers of events alone. -/
theorem pkgBit_runs {s : State} {b : Word} (h : writeTaken s .dbgp 0x080 (rawReg s .dbgp 0x080 ||| b) = true) (src : Src) :
    ∃ z, pkgBit s src b = pkgCtlWritten z (rawReg s .dbgp 0x080 ||| b) ∧ z.dbg = s.dbg ∧ Events s z [] := by
  obtain ⟨w, -, hput⟩ := regPut_taken h (by decide) rfl src
  have ho := onlyRegs_storeReg s .dbgp 0x080 w
  have hr := regsBut_storeReg s .dbgp 0x080 w [regKey .dbgp 0x080] (by simp)
  refine ⟨_, hput, by rw [ho], by rw [ho], fun n => by rw [ho]; rfl, fun p o _ hv => hr p o fun hm => ?_⟩
  rw [List.mem_singleton.1 hm, evKey_dbgp _ (by decide)] at hv
  cases hv

/-- Of the four lowest bits, the one that is set. -/
theorem fld_ctl_bit {ctl : Word} (h : fld ctl 3 0 = 0) {i j : Nat} (hi : i < 4) (hj : j < 4) :
    fld (ctl ||| BitVec.ofNat 32 (2 ^ i)) j j = if i = j then 1 else 0 := by
  have hc : fld ctl j j = 0 := by
    have h' : ctl.toNat % 16 = 0 := by simpa [fld, bitsOf] using h
    have hd : (2 : Nat) ^ j * 2 ∣ 16 := by
      have : ∀ j < 4, (2 : Nat) ^ j * 2 ∣ 16 := by decide
      exact this j hj
    obtain ⟨q, hq⟩ := hd.trans (Nat.dvd_of_mod_eq_zero h')
    show ctl.toNat / 2 ^ j % 2 ^ (j + 1 - j) = 0
    rw [hq, mul_assoc, Nat.mul_div_cancel_left _ (Nat.two_pow_pos j)]
    simp
  have hb : ∀ i < 4, ∀ j < 4, fld (BitVec.ofNat 32 (2 ^ i)) j j = if i = j then 1 else 0 := by decide
  rw [fld_or, hc, hb i hi j hj, Nat.zero_or]

theorem pkgCtl_stop (s : State) {v : Word} (h0 : fld v 0 0 = 1) (h1 : fld v 1 1 = 0) (h2 : fld v 2 2 = 0) (h3 : fld v 3 3 = 0) :
    pkgCtlWritten s v = stopTrigger s 1 0 none := by simp [pkgCtlWritten, h0, h1, h2, h3]

theorem pkgCtl_resume (s : State) {v : Word} (h0 : fld v 0 0 = 0) (h1 : fld v 1 1 = 1) (h2 : fld v 2 2 = 0) (h3 : fld v 3 3 = 0) :
    pkgCtlWritten s v = dbgResume s none := by simp [pkgCtlWritten, h0, h1, h2, h3]

theorem pkgCtl_freeze (s : State) {v : Word} (h0 : fld v 0 0 = 0) (h1 : fld v 1 1 = 0) (h2 : fld v 2 2 = 1) (h3 : fld v 3 3 = 0) :
    pkgCtlWritten s v = dbgFreeze s none := by simp [pkgCtlWritten, h0, h1, h2, h3]

theorem pkgCtl_unfreeze (s : State) {v : Word} (h0 : fld v 0 0 = 0) (h1 : fld v 1 1 = 0) (h2 : fld v 2 2 = 0) (h3 : fld v 3 3 = 1) :
    pkgCtlWritten s v = dbgUnfreeze s none := by simp [pkgCtlWritten, h0, h1, h2, h3]

/-- Settles O59: waves by DBG_PKG_CTL, by the pin and from a link, and the halt and release of a block. -/
theorem stopAndFreezeWaves : Obligations.StopAndFreezeWaves := by
  unfold Obligations.StopAndFreezeWaves
  intro s src p n ctl forwards
  have hto {k : Nat} (hf : forwards k) : k < 24 ∧ Forwards s k := ⟨hf.1, hf.2.1, hf.2.2⟩
  have hev {z : State} (he : Events s z []) : z.mem = s.mem ∧ z.tiles = s.tiles ∧ RegsEvents s z [] :=
    ⟨he.mem, by rw [he.1], he.2.2⟩
  refine ⟨fun hctl => ⟨fun ht hs => ?_, fun ht hs hh => ?_, fun h ht hs hh hp hno => ?_, fun ht hf => ?_, fun ht hf => ?_⟩,
    fun hin hs => ?_, fun hin => ?_, fun hs hc hst hp => ?_, fun hn hs => ?_, fun hn hf => ?_⟩
  · obtain ⟨z, hz, hd, he⟩ := pkgBit_runs ht src
    have hb (j : Nat) (hj : j < 4) : fld (rawReg s .dbgp 0x080 ||| 1) j j = if 0 = j then 1 else 0 :=
      fld_ctl_bit hctl (i := 0) (by decide) hj
    rw [pkgCtl_stop z (hb 0 (by decide)) (hb 1 (by decide)) (hb 2 (by decide)) (hb 3 (by decide))] at hz
    obtain ⟨h1, h2, h3, h4⟩ := stopTrigger_shown (by rw [hd]; exact hs) (cause := 1) (by decide) 0 none
    exact ⟨_, congrArg Host.Outcome.next hz, h1, h2, h3,
      fun k hk => h4 k (hto hk).1 ((hto hk).2.events he (by simp)) (by simp), hev (he.trans (events_stopTrigger _ _ _ _ _))⟩
  · obtain ⟨z, hz, hd, he⟩ := pkgBit_runs ht src
    have hb (j : Nat) (hj : j < 4) : fld (rawReg s .dbgp 0x080 ||| 2) j j = if 1 = j then 1 else 0 :=
      fld_ctl_bit hctl (i := 1) (by decide) hj
    rw [pkgCtl_resume z (hb 0 (by decide)) (hb 1 (by decide)) (hb 2 (by decide)) (hb 3 (by decide)),
      dbgResume_eq (by rw [hd]; exact hs), hd, hh, List.foldl_nil] at hz
    have he := he.trans (events_dbg z { z.dbg with stopped := false, haltAt := [], resumeAt := eTime z })
    obtain ⟨h1, h2, h3, -⟩ := resumeWave_shown { z with dbg := { z.dbg with stopped := false, haltAt := [], resumeAt := eTime z } } none
    rw [← hd] at hz
    exact ⟨_, congrArg Host.Outcome.next hz, by rw [h1],
      fun k hk => h2 k (hto hk).1 ((hto hk).2.events he (by simp)) (by simp), hev (he.trans h3)⟩
  · obtain ⟨z, hz, hd, he⟩ := pkgBit_runs ht src
    have hb (j : Nat) (hj : j < 4) : fld (rawReg s .dbgp 0x080 ||| 2) j j = if 1 = j then 1 else 0 :=
      fld_ctl_bit hctl (i := 1) (by decide) hj
    rw [pkgCtl_resume z (hb 0 (by decide)) (hb 1 (by decide)) (hb 2 (by decide)) (hb 3 (by decide)),
      dbgResume_eq (by rw [hd]; exact hs), show z.dbg.haltAt = [(pageBase p, h)] by rw [hd]; exact hh, List.foldl_cons, List.foldl_nil] at hz
    have he := he.trans (events_dbg z { z.dbg with stopped := false, haltAt := [], resumeAt := eTime z })
    obtain ⟨y, hy⟩ : ∃ y : State, { z with dbg := { z.dbg with stopped := false, haltAt := [], resumeAt := eTime z } } = y := ⟨_, rfl⟩
    have hyh : y.dbg.haltAt = [] := by rw [← hy]
    rw [hy] at hz he
    obtain ⟨r1, r2, r3, r4⟩ := blockRelease_shown (s := y) (h := h) hp hno
    obtain ⟨h1, -, h3, h4⟩ := resumeWave_shown (blockRelease y (pageBase p, h)) none
    refine ⟨_, congrArg Host.Outcome.next hz, by rw [h1, r4.haltAt, hyh], ?_, (h3.mem.trans r2).trans he.mem, fun q o hk hv => ?_⟩
    · rw [stopped, h4.rbit p (o := 0x014) ⟨by decide, by decide⟩]; exact r1
    · exact (h3.rawReg_eq (by simp) hv).trans ((r3 q o hk hv).trans (he.rawReg_eq (by simp) hv))
  · obtain ⟨z, hz, hd, he⟩ := pkgBit_runs ht src
    have hb (j : Nat) (hj : j < 4) : fld (rawReg s .dbgp 0x080 ||| 4) j j = if 2 = j then 1 else 0 :=
      fld_ctl_bit hctl (i := 2) (by decide) hj
    rw [pkgCtl_freeze z (hb 0 (by decide)) (hb 1 (by decide)) (hb 2 (by decide)) (hb 3 (by decide))] at hz
    obtain ⟨h1, h2, h3⟩ := dbgFreeze_shown (s := z) (by rw [hd]; exact hf) none
    exact ⟨_, congrArg Host.Outcome.next hz, h1, fun k hk => h2 k (hto hk).1 ((hto hk).2.events he (by simp)) (by simp),
      hev (he.trans h3)⟩
  · obtain ⟨z, hz, hd, he⟩ := pkgBit_runs ht src
    have hb (j : Nat) (hj : j < 4) : fld (rawReg s .dbgp 0x080 ||| 8) j j = if 3 = j then 1 else 0 :=
      fld_ctl_bit hctl (i := 3) (by decide) hj
    rw [pkgCtl_unfreeze z (hb 0 (by decide)) (hb 1 (by decide)) (hb 2 (by decide)) (hb 3 (by decide))] at hz
    obtain ⟨h1, h2, h3⟩ := dbgUnfreeze_shown (s := z) (by rw [hd]; exact hf) none
    exact ⟨_, congrArg Host.Outcome.next hz, h1, fun k hk => h2 k (hto hk).1 ((hto hk).2.events he (by simp)) (by simp),
      hev (he.trans h3)⟩
  · obtain ⟨h1, h2, -, -⟩ := stopTrigger_shown hs (cause := 2) (by decide) 0 none
    have hrun : exec .stopInEdge s = .next (stopTrigger s 2 0 none) := congrArg Host.Outcome.next (if_pos (by
      rw [rbit]; exact beq_iff_eq.2 hin))
    exact ⟨_, hrun, h1, h2, hev (events_stopTrigger _ _ _ _ _)⟩
  · refine congrArg Host.Outcome.next (if_neg ?_)
    rw [rbit, show rfld s .dbgp 0x080 8 8 = 0 from hin]
    decide
  · have hrun : exec (.blockHalt p) s = .next _ := congrArg Host.Outcome.next (if_pos ⟨hs, hc, hst, hp⟩)
    obtain ⟨z, hz⟩ : ∃ z, sillage s p 0x02 false 0 0 (BitVec.ofNat 32 s.dbg.cause) = z := ⟨_, rfl⟩
    have he : Events s z [] := by rw [← hz]; exact events_sillage _ _ _ _ _ _ _ _
    rw [hz] at hrun
    obtain ⟨hm, htl, hr⟩ := hev he
    refine ⟨_, hrun, rbit_putBit_same _ p 0x014 2 true (by decide), ?_, hm, htl, fun q o hk hv => ?_⟩
    · exact mem_tabPut_pair _ _ _
    · exact (rawReg_putReg_ne _ _ _ _ _ _ (by simpa using hk)).trans (hr q o (by simp) hv)
  · have hrun : exec (.waveCode n 1) s = .next (stopTrigger s 7 (rawReg s (.llk n) 0x000) (some n)) :=
      congrArg Host.Outcome.next (if_pos (by simp [hn.2.1, hn.2.2]))
    obtain ⟨h1, h2, -, h4⟩ := stopTrigger_shown hs (cause := 7) (by decide) (rawReg s (.llk n) 0x000) (some n)
    exact ⟨_, hrun, h1, h2, fun k hk hf => h4 k (hto hf).1 (hto hf).2 (by simpa using hk), hev (events_stopTrigger _ _ _ _ _)⟩
  · have hrun : exec (.waveCode n 3) s = .next (dbgFreeze s (some n)) :=
      congrArg Host.Outcome.next (if_pos (by simp [hn.2.1, hn.2.2]))
    obtain ⟨h1, h2, h3⟩ := dbgFreeze_shown hf (some n)
    exact ⟨_, hrun, h1, fun k hk hf => h2 k (hto hf).1 (hto hf).2 (by simpa using hk), hev h3⟩

end Sys2Proof.Machine
end

section
/-! PROOFS. Writes of the scan window in a failed package (sections 9.5 and 18.4). -/

namespace Sys2Proof.Machine

/-- A package whose boot has ended in FAILED, with the host's link up. -/
def failedHost : State :=
  { State.reset with
    regs := [(regKey .mgt 0x090, 8)]
    hif := { perst := true } }

/-- The failed package takes no notice of a host write at the start of the scan window (R396). -/
theorem failedHost_writes :
    readNext (fun u => rbit u .dbgp 0x0A4 1) (exec (.hostWrite 2 0x2000000 [0, 0, 0, 0] [true, true, true, true]) failedHost)
      = some false := by decide

/-- Refutes O60: the statement does not ask that the package has not failed. The host interface takes accesses once boot has
ended in FAILED (R613), but of a failed package only the MGT and HIF pages answer (R396): a host write to the scan window
is lost there, and WRITE stays 0. -/
theorem not_samplesAndScans : ¬ Obligations.SamplesAndScans := by
  intro h
  obtain ⟨-, -, -, hwrite⟩ := h failedHost 0 0 0
  obtain ⟨u, hu, hbit, -⟩ := hwrite 0x2000000 [0, 0, 0, 0] 0 (by decide) rfl rfl (by decide)
  have hread := (readNext_of_next hu (fun u => rbit u .dbgp 0x0A4 1)).symm.trans failedHost_writes
  rw [hbit] at hread
  exact absurd hread (by decide)

end Sys2Proof.Machine
end

section
/-! PROOFS. A frame whose buffer lies behind a stalled message: its timestamp (sections 10.2, 15.3 and 15.4). -/

namespace Sys2Proof.Machine

/-- Port 0 stamps every frame and has one receive descriptor, at address 0 of HBM, whose buffer is TM of tile 1. A message at
the L port of that tile is stalled until tick 10,240 (R411). -/
def stampedPort : State :=
  { State.reset with
    regs := [(regKey (.rtr 1) 0x084, 0xFFFF), (regKey (.mem 0 0) 0x010, 1), (regKey (.mem 0 0) 0x088, 0xFFFF),
      (regKey (.eth 0) 0x010, 1), (regKey (.eth 0) 0x080, 0x1001), (regKey (.eth 0) 0x084, 1518),
      (regKey (.eth 0) 0x090, 0x200), (regKey (.eth 0) 0x0A0, 1), (regKey (.eth 0) 0x404, 0x10000),
      (regKey (.eth 0) 0x408, 0x20000), (regKey (.eth 0) 0x40C, 1)]
    tiles := [(1, { stalled := some (0, 10240) })]
    mem := putBytes [] 0 (leBytes 8 0 ++ leBytes 4 0x100 ++ leBytes 2 64) }

/-- What the claims of a frame of one byte leave. -/
def stampedFill : Option RxBad × List Nat × State :=
  rxFill 0 0 (ringSize stampedPort 0 false 0) stampedPort [1] (ringHead stampedPort 0 false 0)

/-- The metadata that the statement forms after the claims. -/
def stampedMeta : RxMeta :=
  ⟨ethColor stampedFill.2.2 0 [1], none, 1, some (stampField stampedFill.2.2 0 (stampT stampedFill.2.2 0 false))⟩

/-- The writeback of that metadata. -/
def stampedBack : Nat × State := rxBack stampedFill.2.2 0 0 stampedMeta stampedFill.2.1

theorem stampedFill_claims : stampedFill.1 = none ∧ (getMtr stampedFill.2.2 (.eth 0) (ethMeter stampedFill.2.2 0 [1] 0)).mode = 0 := by
  decide +kernel

/-- The stalled message was waited for while the buffer was written, so the stamp formed afterwards shows 10 ns. -/
theorem stampedBack_stamp : stampedBack.1 = 0 ∧ ringSize stampedBack.2 0 false 0 = 2 ∧ getByte stampedBack.2.mem 24 = 10 := by
  decide +kernel

/-- The frame is stamped with the time at which it arrived. -/
theorem stampedPort_stamps :
    readNext (fun u => getByte u.mem 24) (exec (.rxFrame 0 [1] true []) stampedPort) = some 0 := by decide +kernel

/-- Refutes O51: the statement forms the timestamp from the state after the buffers are written, and a write to TM ends a
stalled message of the tile first, which moves time (R411). The frame is stamped with the time at which it arrived (R653). -/
theorem not_framesReceived : ¬ Obligations.FramesReceived := by
  intro h
  obtain ⟨-, -, hring⟩ := h stampedPort 0 [1] (by decide) (by decide) (by decide) (by decide) (by decide) (by decide) rfl
    (by decide) (by decide)
  obtain ⟨hnone, hmode⟩ := stampedFill_claims
  obtain ⟨hback, hsize, hstamp⟩ := stampedBack_stamp
  obtain ⟨-, hfull⟩ := hring (by decide) (by decide) (by decide) (by decide) (by decide) hnone
  obtain ⟨u, hu, -, hmem⟩ := hfull hmode hback (by
    show 0 < ringSize stampedBack.2 0 false 0
    omega)
  have hread := (readNext_of_next hu (fun u => getByte u.mem 24)).symm.trans stampedPort_stamps
  have hbyte : getByte u.mem 24 = 10 := (congrArg (fun m => getByte m 24) hmem).trans hstamp
  rw [hbyte] at hread
  exact absurd hread (by decide)

end Sys2Proof.Machine
end

section
/-! PROOFS. Priority flow control, transmit frames, and the state of a port's link (sections 15.2 and 15.4 to 15.6). -/

namespace Sys2Proof.Machine

/-! ## Priority flow control (R649) -/

/-- The end of a pause is noted. -/
def pauseNoted (s : State) (n p q : Nat) : State :=
  modEth s n (fun e => { e with pauseTill := tabPut e.pauseTill p (eTime s + quantaTicks q) })

theorem pauseNoted_till (s : State) (n p q : Nat) :
    (getEth (pauseNoted s n p q) n).pauseTill = tabPut (getEth s n).pauseTill p (eTime s + quantaTicks q) :=
  congrArg Eth.pauseTill (getEth_modEth_same s n _)

/-- The pause of one priority. -/
def pauseOne (n : Nat) (quanta : List (Option Nat)) (s : State) (p : Nat) : State :=
  match (quanta[p]?).getD none with
  | none => s
  | some q => putBit (pauseNoted s n p q) (.eth n) 0x09C p (q != 0)

theorem pfcTake_eq {s : State} {n : Nat} (h : ethLive s n = true) (hc : rbit s (.eth n) 0x080 0 = true) (quanta : List (Option Nat)) :
    pfcTake s n quanta = (List.range 8).foldl (pauseOne n quanta) s := if_neg (by simp [h, hc])

theorem pauseOne_none {quanta : List (Option Nat)} {p : Nat} (h : (quanta[p]?).getD none = none) (n : Nat) (s : State) :
    pauseOne n quanta s p = s := by
  unfold pauseOne
  rw [h]

theorem pauseOne_some {quanta : List (Option Nat)} {p q : Nat} (h : (quanta[p]?).getD none = some q) (n : Nat) (s : State) :
    pauseOne n quanta s p = putBit (pauseNoted s n p q) (.eth n) 0x09C p (q != 0) := by
  unfold pauseOne
  rw [h]

/-- What pauses change. -/
structure Paused (s u : State) (n : Nat) : Prop where
  rest : u = { s with regs := u.regs, eths := u.eths }
  regs : RegsBut s u [regKey (.eth n) 0x09C]

theorem paused_one (n : Nat) (quanta : List (Option Nat)) (s : State) (p : Nat) : Paused s (pauseOne n quanta s p) n := by
  cases h : (quanta[p]?).getD none with
  | none => rw [pauseOne_none h]; exact ⟨rfl, .refl _ _⟩
  | some q =>
    rw [pauseOne_some h]
    exact ⟨rfl, regsBut_putBit (pauseNoted s n p q) _ _ _ _ _ (by simp)⟩

theorem Paused.trans {s u v : State} {n : Nat} (h : Paused s u n) (k : Paused u v n) : Paused s v n :=
  ⟨by rw [k.rest, h.rest], h.regs.trans k.regs⟩

theorem Paused.eTime {s u : State} {n : Nat} (h : Paused s u n) : eTime u = Machine.eTime s := by rw [h.rest]; rfl

/-- A pause leaves the bits and the times of other priorities. -/
theorem pauseOne_other (n : Nat) (quanta : List (Option Nat)) (s : State) {p k : Nat} (hk : k ≠ p) (hp : p < 32) :
    rbit (pauseOne n quanta s p) (.eth n) 0x09C k = rbit s (.eth n) 0x09C k
      ∧ tabGet 0 (getEth (pauseOne n quanta s p) n).pauseTill k = tabGet 0 (getEth s n).pauseTill k := by
  cases h : (quanta[p]?).getD none with
  | none => rw [pauseOne_none h]; exact ⟨rfl, rfl⟩
  | some q =>
    rw [pauseOne_some h]
    refine ⟨rbit_putBit_ne (pauseNoted s n p q) _ _ _ _ _ hp hk, ?_⟩
    show tabGet 0 (getEth (pauseNoted s n p q) n).pauseTill k = _
    rw [pauseNoted_till]
    exact tabGet_tabPut_ne _ _ _ _ _ hk

/-- Once the priority has had its turn, its pause stands. -/
theorem pauses_foldl (n : Nat) (quanta : List (Option Nat)) {p q : Nat} (hq : (quanta[p]?).getD none = some q) (hp : p < 32)
    (l : List Nat) (hl : ∀ k ∈ l, k < 32) : ∀ s : State,
      Paused s (l.foldl (pauseOne n quanta) s) n
      ∧ ((p ∈ l ∨ (rbit s (.eth n) 0x09C p = (q != 0) ∧ tabGet 0 (getEth s n).pauseTill p = eTime s + quantaTicks q)) →
        rbit (l.foldl (pauseOne n quanta) s) (.eth n) 0x09C p = (q != 0)
          ∧ tabGet 0 (getEth (l.foldl (pauseOne n quanta) s) n).pauseTill p = eTime s + quantaTicks q) := by
  induction l with
  | nil => exact fun s => ⟨⟨rfl, .refl _ _⟩, fun h => h.elim (by simp) id⟩
  | cons k l ih =>
    intro s
    have hone := paused_one n quanta s k
    obtain ⟨h1, h2⟩ := ih (fun j hj => hl j (List.mem_cons_of_mem _ hj)) (pauseOne n quanta s k)
    refine ⟨hone.trans h1, fun h => ?_⟩
    rw [← hone.eTime]
    refine h2 ?_
    rw [hone.eTime]
    by_cases hk : p = k
    · subst hk
      rw [pauseOne_some hq]
      refine .inr ⟨rbit_putBit_same _ _ _ _ _ hp, ?_⟩
      show tabGet 0 (getEth (pauseNoted s n p q) n).pauseTill p = _
      rw [pauseNoted_till]
      exact tabGet_tabPut_same _ _ _ _
    · obtain ⟨ho1, ho2⟩ := pauseOne_other n quanta s hk (hl k List.mem_cons_self)
      rw [ho1, ho2]
      exact h.imp (fun h => (List.mem_cons.1 h).resolve_left hk) id

theorem rbit_lt {s : State} {p : Page} {o b : Nat} (h : rbit s p o b = true) : b < 32 := by
  by_contra hb
  have hz : rfld s p o b b = 0 := by
    have hlt := (rawReg s p o).isLt
    have hdiv : (rawReg s p o).toNat / 2 ^ b = 0 :=
      Nat.div_eq_of_lt (Nat.lt_of_lt_of_le hlt (Nat.pow_le_pow_right (by decide) (by omega)))
    simp [rfld, fld, bitsOf, hdiv]
  rw [rbit, hz] at h
  cases h

/-! ## Transmit frames (R651, R652) -/

/-- The ring of a port that transmits, with nothing in the transmit buffer. -/
structure TxReady (s : State) (n r : Nat) : Prop where
  fitted : dieFitted s (n / 2) = true
  runs : stopped s (.eth n) = false
  enabled : enabled s (.eth n) = true
  whole : rbit s (.eth n) 0x014 6 = false
  transmits : rbit s (.eth n) 0x080 1 = true
  ringOn : ringEn s n true r = true
  ringRuns : ringHalt s n true r = false
  empty : (getEth s n).tx = []

theorem TxReady.runs_on {s : State} {n r : Nat} (h : TxReady s n r) :
    ¬(dieFitted s (n / 2) = false ∨ stopped s (.eth n) = true ∨ Machine.enabled s (.eth n) = false ∨ rbit s (.eth n) 0x014 6 = true
      ∨ rbit s (.eth n) 0x080 1 = false ∨ ringEn s n true r = false ∨ ringHalt s n true r = true
      ∨ (txOf s n r).any (·.halt) = true) := by
  simp [h.fitted, h.runs, h.enabled, h.whole, h.transmits, h.ringOn, h.ringRuns, txOf, h.empty]

/-- No frame lies before TAIL. -/
theorem txFetch_none {s : State} {n r : Nat} (h : TxReady s n r)
    (hd : txDescs n r (ringSize s n true r) s (ringHead s n true r % ringSize s n true r) = none) : txFetch s n r = s := by
  have hof : txOf s n r = [] := by simp [txOf, h.empty]
  unfold txFetch
  rw [if_neg h.runs_on, hof, List.map_nil, List.sum_nil, Nat.add_zero]
  dsimp only
  rw [hd]

/-- The next frame enters the transmit buffer. -/
theorem txFetch_some {s s1 : State} {n r e : Nat} {ds : List (List Byte)} (h : TxReady s n r)
    (hd : txDescs n r (ringSize s n true r) s (ringHead s n true r % ringSize s n true r) = some (e, ds, s1))
    (hl : (txBuild s1 n r e ds).1.bytes.length ≤ 65536) :
    txFetch s n r = ethFix (modEth (txBuild s1 n r e ds).2 n (fun x => { x with tx := x.tx ++ [(txBuild s1 n r e ds).1] })) n := by
  have hof : txOf s n r = [] := by simp [txOf, h.empty]
  unfold txFetch
  rw [if_neg h.runs_on, hof, List.map_nil, List.sum_nil, Nat.add_zero]
  dsimp only
  rw [hd, h.empty, List.map_nil, List.sum_nil]
  exact if_neg (by omega)

theorem txDescs_none {s : State} {n r i : Nat} (k : Nat) (h : ringLeft (ringSize s n true r) i (ringTail s n true r) = 0) :
    txDescs n r k s i = none := by
  cases k with
  | zero => rfl
  | succ k => exact if_pos h

theorem ethFix_shown (s : State) (n : Nat) : (getEth (ethFix s n) n).tx = (getEth s n).tx ∧ (ethFix s n).mem = s.mem := by
  have hsched (f : Sched → Sched) : (getEth (modSched s (.eth n) f) n).tx = (getEth s n).tx := by
    show (getEth (modEth s n (fun x => { x with sched := f x.sched })) n).tx = _
    rw [getEth_modEth_same]
  unfold ethFix schFix
  dsimp only
  split
  · exact ⟨hsched _, rfl⟩
  · exact ⟨hsched _, rfl⟩

/-- The frame at the head has been sent, and its descriptors are written back. -/
theorem txDone_sent {s : State} {n r : Nat} {f : TxFrm} (ht : (getEth s n).tx = [f]) (hr : f.ring = r)
    (hs : stopped s (.eth n) = false) (hok : f.status = 0) (hst : f.started = true) (hh : f.halt = false)
    (hy : (txBack (modEth s n (fun x => { x with tx := [] })) n r f).1 = 0) {y : State}
    (hz : (txBack (modEth s n (fun x => { x with tx := [] })) n r f).2 = y) :
    let v := workCount (putFld y (.eth n) (ringOff true r + 8) 15 0 ((ringHead y n true r + f.descs) % ringSize y n true r))
      (.eth n) 0x0B4 31 0 1
    txDone s n r = if ringIrq v n true r ∧ f.descs ≠ 0 then doneSet v n 0x0D8 5 r else v := by
  have hof : txOf s n r = [f] := by simp [txOf, ht, hr]
  have hmod : modEth s n (fun x => { x with tx := dropFirst (· == f) x.tx }) = modEth s n (fun x => { x with tx := [] }) := by
    simp [modEth, ht, dropFirst]
  unfold txDone
  rw [hof]
  dsimp only
  rw [if_neg (by simp [hs, hst]), hmod, hy, hz, if_neg (by decide), hok, hh]
  rfl

theorem workCount_off (s : State) (p : Page) (off hi lo n : Nat) {o : Nat} (h : o ≠ off) :
    rawReg (workCount s p off hi lo n) p o = rawReg s p o := by
  unfold workCount
  split
  · rfl
  · exact rawReg_putReg_off _ _ _ _ _ h

theorem workCount_mem (s : State) (p : Page) (off hi lo n : Nat) : (workCount s p off hi lo n).mem = s.mem := by
  unfold workCount
  split <;> rfl

/-! ## The link of a port (R657) -/

theorem ethLink_shown {s : State} {n : Nat} (hd : dieFitted s (n / 2) = true) (hr : rbit s (.eth n) 0x014 6 = false) (up an : Bool) :
    rbit (ethLink s n up an) (.eth n) 0x0A0 0 = up ∧ rbit (ethLink s n up an) (.eth n) 0x0A0 1 = an
      ∧ (rbit s (.eth n) 0x0A0 0 ≠ up → rbit (ethLink s n up an) (.eth n) 0x020 3 = true)
      ∧ Events s (ethLink s n up an) [regKey (.eth n) 0x0A0] := by
  obtain ⟨z, hz⟩ : ∃ z, putBit (putBit s (.eth n) 0x0A0 0 up) (.eth n) 0x0A0 1 an = z := ⟨_, rfl⟩
  have h0 : rbit z (.eth n) 0x0A0 0 = up := by
    rw [← hz, rbit_putBit_ne _ _ _ _ _ _ (by decide) (by decide)]; exact rbit_putBit_same s _ _ _ _ (by decide)
  have h1 : rbit z (.eth n) 0x0A0 1 = an := by rw [← hz]; exact rbit_putBit_same _ _ _ _ _ (by decide)
  have hkey : regKey (.eth n) 0x0A0 ∈ [regKey (.eth n) 0x0A0] := List.mem_singleton.2 rfl
  have he : Events s z [regKey (.eth n) 0x0A0] := by
    rw [← hz]; exact (events_putBit _ _ _ _ _ _ (.inl hkey)).trans (events_putBit _ _ _ _ _ _ (.inl hkey))
  have hrun : ethLink s n up an = if rbit s (.eth n) 0x0A0 0 = up then z else isrBit z (.eth n) 3 := by
    unfold ethLink
    rw [if_neg (by simp [hd]), hr]
    dsimp only
    rw [Bool.not_false, Bool.and_true, hz]
  rw [hrun]
  by_cases hup : rbit s (.eth n) 0x0A0 0 = up
  · rw [if_pos hup]
    exact ⟨h0, h1, fun h => absurd hup h, he⟩
  · rw [if_neg hup]
    have hq : QuietOff 0x0A0 := ⟨by decide, by decide⟩
    have hfr := eventFrame_isrBit z (.eth n) 3 (0, 0)
    exact ⟨(hfr.rbit _ hq 0).trans h0, (hfr.rbit _ hq 1).trans h1, fun _ => rbit_isrBit z (.eth n) (by decide) _,
      he.trans (events_isrBit _ _ _ _ _)⟩

/-- Settles O52: pauses, frames that a port sends, and its link (R649 to R652, R657). -/
theorem portsTransmit : Obligations.PortsTransmit := by
  unfold Obligations.PortsTransmit
  intro s n prio quanta up an
  refine ⟨fun hl hc p q hp hq => ?_, ?_, fun hb hd => ?_,
    fun r hd hs he hr hx hen hh ht => ?_, fun r f ht hr hs hok hst hone hh => ?_, fun hd hr => ?_⟩
  · obtain ⟨h1, h2⟩ := pauses_foldl n quanta (p := p) (q := q) (by rw [hq]; rfl) (by omega) (List.range 8)
      (fun k hk => by have := List.mem_range.1 hk; omega) s
    obtain ⟨hbit, htill⟩ := h2 (.inl (List.mem_range.2 hp))
    exact ⟨_, congrArg Host.Outcome.next (pfcTake_eq hl hc quanta), hbit, htill, h1.regs, h1.rest⟩
  · intro e hf q hd
    have hrun : pfcRepeat s n prio = emit (modEth s n (fun x => { x with pausing := tabPut x.pausing prio (eTime s, q) })) (.pfc n prio q) := by
      unfold pfcRepeat
      rw [hf]
      dsimp only
      rw [atLeast_due hd]
    refine ⟨_, congrArg Host.Outcome.next hrun, rfl, ?_, rfl⟩
    have hp := congrArg Eth.pausing (getEth_modEth_same s n (fun x => { x with pausing := tabPut x.pausing prio (eTime s, q) }))
    exact (congrArg (fun t => tabGet (0, 0) t prio) hp).trans (tabGet_tabPut_same _ _ _ _)
  · have hrun : pauseEnd s n prio = putBit s (.eth n) 0x09C prio false := by
      rw [pauseEnd, if_pos hb, atLeast_due hd]
    exact ⟨_, congrArg Host.Outcome.next hrun, rbit_putBit_same _ _ _ _ _ (rbit_lt hb), regsBut_putBit s _ _ _ _ _ (by simp),
      onlyRegs_putBit _ _ _ _ _⟩
  · have hready : TxReady s n r := ⟨hd, hs, he, hr, hx, hen, hh, ht⟩
    refine ⟨fun hleft => congrArg Host.Outcome.next (txFetch_none hready (txDescs_none _ hleft)), ?_⟩
    intro e ds s1 hds b hl
    have hrun := txFetch_some hready hds hl
    obtain ⟨htx, hmem⟩ := ethFix_shown (modEth b.2 n (fun x => { x with tx := x.tx ++ [b.1] })) n
    exact ⟨_, congrArg Host.Outcome.next hrun, htx.trans (congrArg Eth.tx (getEth_modEth_same b.2 n _)), hmem⟩
  · intro y hy hirq hsz
    obtain ⟨v, hv⟩ : ∃ v, workCount (putFld y.2 (.eth n) (ringOff true r + 8) 15 0 ((ringHead y.2 n true r + f.descs) % ringSize y.2 n true r))
      (.eth n) 0x0B4 31 0 1 = v := ⟨_, rfl⟩
    have hrun := txDone_sent ht hr hs hok hst hh hy (y := y.2) rfl
    rw [hv] at hrun
    dsimp only at hrun
    have hoff : 0x800 ≤ ringOff true r := by simp [ringOff]
    have hraw4 : rawReg v (.eth n) (ringOff true r + 4) = rawReg y.2 (.eth n) (ringOff true r + 4) := by
      rw [← hv, workCount_off _ _ _ _ _ _ (by omega)]
      exact rawReg_putReg_off _ _ _ _ _ (by omega)
    have hirq' : ringIrq v n true r = false := by
      rw [ringIrq, rbit, rfld_of_raw 17 17 hraw4]; exact hirq
    rw [hirq'] at hrun
    refine ⟨v, congrArg Host.Outcome.next (hrun.trans (if_neg (by simp))), ?_, ?_⟩
    · have hlt : (ringHead y.2 n true r + 1) % ringSize y.2 n true r < 2 ^ 16 :=
        Nat.lt_trans (Nat.mod_lt _ hsz) (fld_lt _ 31 16)
      rw [ringHead, ← hv, rfld_of_raw 15 0 (workCount_off _ _ _ _ _ _ (by omega)), rfld_putFld_same _ _ _ _ _ _ (by decide) (by decide),
        hone]
      exact Nat.mod_eq_of_lt hlt
    · rw [← hv, workCount_mem]; rfl
  · obtain ⟨h1, h2, h3, h4⟩ := ethLink_shown hd hr up an
    exact ⟨_, rfl, h1, h2, h3, h4⟩

end Sys2Proof.Machine
end

section
/-! PROOFS. Records that set what a Glazier holds, and the end of a pause (sections 16.1 to 16.4). -/

namespace Sys2Proof.Machine

/-! ## One Glazier alone changes -/

theorem OnlyGlz.refl (s : State) (n : Nat) : OnlyGlz s s n := ⟨rfl, fun _ _ => rfl, .refl _ _⟩

theorem OnlyGlz.trans {s u v : State} {n : Nat} (h : OnlyGlz s u n) (k : OnlyGlz u v n) : OnlyGlz s v n := by
  obtain ⟨h1, h2, h3⟩ := h
  obtain ⟨k1, k2, k3⟩ := k
  exact ⟨by rw [k1, h1], fun j hj => (k2 j hj).trans (h2 j hj), h3.trans k3⟩

theorem OnlyGlz.mem {s u : State} {n : Nat} (h : OnlyGlz s u n) : u.mem = s.mem := by rw [h.1]

theorem getGlz_modGlz_ne (s : State) {n k : Nat} (f : Glz → Glz) (h : k ≠ n) : getGlz (modGlz s n f) k = getGlz s k := by
  simp [getGlz, modGlz, h]

theorem onlyGlz_modGlz (s : State) (n : Nat) (f : Glz → Glz) : OnlyGlz s (modGlz s n f) n :=
  ⟨rfl, fun _ hk => getGlz_modGlz_ne s f hk, .refl _ _⟩

theorem onlyGlz_putFld (s : State) (n hi lo v : Nat) : OnlyGlz s (putFld s (.glz n) 0x084 hi lo v) n :=
  ⟨rfl, fun _ _ => rfl, regsBut_putFld s _ _ _ _ _ _ (by simp)⟩

theorem onlyGlz_takeFree (s : State) (n : Nat) : OnlyGlz s (takeFree s).2 n := ⟨rfl, fun _ _ => rfl, .refl _ _⟩

/-! ## The record at the head (R658, R664) -/

/-- The record leaves the queue. -/
def recordGone (g : Glz) : Glz := { g with q := g.q.tail, done := 0 }

theorem glzPop_shown (s : State) (n : Nat) :
    OnlyGlz s (glzPop s n) n ∧ getGlz (glzPop s n) n = recordGone (getGlz s n) ∧ (glzPop s n).free = s.free
      ∧ ∀ p o, regKey p o ≠ regKey (.glz n) 0x084 → rawReg (glzPop s n) p o = rawReg s p o := by
  obtain ⟨z, hz⟩ : ∃ z, modGlz s n recordGone = z := ⟨_, rfl⟩
  have hg : getGlz z n = recordGone (getGlz s n) := by rw [← hz, getGlz_modGlz_same]
  have ho : OnlyGlz s z n := by rw [← hz]; exact onlyGlz_modGlz s n _
  have hfree : z.free = s.free := by rw [← hz]; rfl
  have hreg (p : Page) (o : Nat) : rawReg z p o = rawReg s p o := by rw [← hz]; rfl
  have hrun : glzPop s n = glzIdle z n := congrArg (fun x => glzIdle x n) hz
  rw [hrun]
  unfold glzIdle
  split
  · exact ⟨ho.trans (onlyGlz_putFld z n 1 0 0), hg, hfree, fun p o hk => (rawReg_putReg_ne _ _ _ _ _ _ hk).trans (hreg p o)⟩
  · exact ⟨ho, hg, hfree, fun p o _ => hreg p o⟩

theorem recNamed_of_ok {s : State} {r : List Byte} (h : recOk s r = true) : (recNamed (recOpc r)).isNone = false := by
  unfold recOk at h
  cases hn : recNamed (recOpc r) with
  | none => rw [hn] at h; cases h
  | some l => rfl

/-- A record that may start is carried out. -/
theorem glzRecord_takes {s : State} {n opc : Nat} {r : List Byte} (h : GlzTakes s n opc r) (act : State → List Byte → State) :
    glzRecord s n opc act = act s r := by
  obtain ⟨hrun, hhead, hopc, hok⟩ := h
  obtain ⟨rest, hq⟩ : ∃ rest, (getGlz s n).q = r :: rest := by
    cases hl : (getGlz s n).q with
    | nil => rw [hl] at hhead; cases hhead
    | cons a rest =>
      rw [hl] at hhead
      exact ⟨rest, by rw [show a = r from Option.some.inj hhead]⟩
  have hskip : glzSkip 1024 s n = s := by
    show (match (getGlz s n).q with
      | r :: _ => if (recNamed (recOpc r)).isNone then glzSkip 1023 (glzPop (glzBadCmd s n) n) n else s
      | [] => s) = s
    rw [hq]
    exact if_neg (by rw [recNamed_of_ok hok]; decide)
  unfold glzRecord
  rw [if_neg (by rw [hrun]; decide), hskip]
  dsimp only
  rw [hq]
  dsimp only
  rw [if_neg (fun hne => hne hopc), if_neg (by rw [hok]; decide)]

theorem glzSimple_takes {s : State} {n opc : Nat} {r : List Byte} (h : GlzTakes s n opc r) (f : State → List Byte → State) :
    glzSimple s n opc f = glzPop (f s r) n := glzRecord_takes h _

/-- A record that only changes its Glazier. -/
theorem glzSimple_shown {s : State} {n opc : Nat} {r : List Byte} (h : GlzTakes s n opc r) (f : State → List Byte → State)
    (ho : OnlyGlz s (f s r) n) (hq : (getGlz (f s r) n).q = (getGlz s n).q) :
    let u := glzSimple s n opc f
    getGlz u n = recordGone (getGlz (f s r) n) ∧ (getGlz u n).q = (getGlz s n).q.tail ∧ OnlyGlz s u n := by
  intro u
  obtain ⟨h1, h2, -, -⟩ := glzPop_shown (f s r) n
  have hu : u = glzPop (f s r) n := glzSimple_takes h f
  rw [hu]
  exact ⟨h2, by rw [h2]; exact congrArg List.tail hq, ho.trans h1⟩

/-- A record that only sets fields of its Glazier. -/
theorem glzSimple_sets {s : State} {n opc : Nat} {r : List Byte} (h : GlzTakes s n opc r) (act : State → List Byte → State) (f : Glz → Glz)
    (ha : act s r = modGlz s n f) (hq : (f (getGlz s n)).q = (getGlz s n).q) :
    let u := glzSimple s n opc act
    getGlz u n = recordGone (f (getGlz s n)) ∧ (getGlz u n).q = (getGlz s n).q.tail ∧ OnlyGlz s u n := by
  have hg : getGlz (act s r) n = f (getGlz s n) := by rw [ha, getGlz_modGlz_same]
  obtain ⟨h1, h2, h3⟩ := glzSimple_shown h act (by rw [ha]; exact onlyGlz_modGlz s n f) (by rw [hg]; exact hq)
  exact ⟨by rw [h1, hg], h2, h3⟩

/-! ## What each record sets (R662 to R667) -/

theorem depthLost_shown (s : State) (n : Nat) :
    OnlyGlz s (depthLost s n) n
      ∧ getGlz (depthLost s n) n = { getGlz s n with depth := [], sten := [], clr := none, undef := (takeFree s).1 } :=
  have hrun : depthLost s n = modGlz (takeFree s).2 n (fun g => { g with depth := [], sten := [], clr := none, undef := (takeFree s).1 }) := rfl
  ⟨hrun ▸ (onlyGlz_takeFree s n).trans (onlyGlz_modGlz _ n _), hrun ▸ getGlz_modGlz_same _ n _⟩

theorem glzTarget_shown (s : State) (n : Nat) (r : List Byte) :
    OnlyGlz s (glzTarget s n r) n
      ∧ getGlz (glzTarget s n r) n = { getGlz (depthLost s n) n with
          tw := byteField r 4 2, th := byteField r 6 2, spp := byteField r 8 1, dfmt := byteField r 9 1, groups := [{}, {}, {}, {}] } :=
  ⟨(depthLost_shown s n).1.trans (onlyGlz_modGlz _ n _), getGlz_modGlz_same _ n _⟩

theorem glzRegion_shown {s : State} {n : Nat} {r : List Byte} (hx : byteField r 4 2 + byteField r 8 2 ≤ (getGlz s n).tw)
    (hy : byteField r 6 2 + byteField r 10 2 ≤ (getGlz s n).th) (hw : 1 ≤ byteField r 8 2) (hh : 1 ≤ byteField r 10 2)
    (hs : byteField r 8 2 * byteField r 10 2 * (getGlz s n).spp ≤ 4194304) :
    OnlyGlz s (glzRegion s n r) n
      ∧ getGlz (glzRegion s n r) n = { getGlz (depthLost s n) n with
          rx := byteField r 4 2, ry := byteField r 6 2, rw := byteField r 8 2, rh := byteField r 10 2 } := by
  have hrun : glzRegion s n r = modGlz (depthLost s n) n (fun g => { g with
      rx := byteField r 4 2, ry := byteField r 6 2, rw := byteField r 8 2, rh := byteField r 10 2 }) := if_pos ⟨hx, hy, hw, hh, hs⟩
  rw [hrun]
  exact ⟨(depthLost_shown s n).1.trans (onlyGlz_modGlz _ n _), getGlz_modGlz_same _ n _⟩

/-- The colour group that a CGROUP record describes. -/
def recGroup (r : List Byte) : CGroup :=
  ⟨byteField r 5 1, byteField r 6 1, byteField r 7 1, byteField r 8 1, byteField r 9 1, byteField r 10 1, wordAt r 12,
    byteField r 16 6, byteField r 24 4⟩

theorem glzCgroup_shown {s : State} {n : Nat} {r : List Byte} (hm : byteField r 5 1 = 1) (h32 : byteField r 24 4 % 32 = 0)
    (hp : (getGlz s n).tw * (getGlz s n).spp * byteField r 7 1 * chanSize (byteField r 6 1) ≤ byteField r 24 4)
    (ht : tnodeOk s (wordAt r 12) = true)
    (hr : inRegion s (wordAt r 12) (byteField r 16 6) ((getGlz s n).th * byteField r 24 4) = true)
    (hb : byteField r 8 1 = 3 → byteField r 7 1 = 4) :
    glzCgroup s n r = modGlz s n (fun g => { g with groups := listMod g.groups (byteField r 4 1) (fun _ => recGroup r) }) := by
  refine if_neg ?_
  rintro (h | h | h | h | ⟨h, -⟩ | ⟨h, h'⟩)
  · exact h h32
  · exact absurd h (Nat.not_lt.2 hp)
  · rw [show tnodeOk s (wordAt r 12) = false from h] at ht; cases ht
  · rw [show inRegion s (wordAt r 12) (byteField r 16 6) ((getGlz s n).th * byteField r 24 4) = false from h] at hr; cases hr
  · exact absurd (hm.symm.trans h) (by decide)
  · exact h' (hb h)

theorem cgroup_index {s : State} {r : List Byte} (ho : recOpc r = 0x03) (h : recOk s r = true) : byteField r 4 1 ≤ 3 := by
  unfold recOk at h
  simp only [ho, recNamed, recRange, Bool.and_eq_true, decide_eq_true_eq] at h
  omega

/-! ## The pixel program (R678) -/

theorem prog_index {s : State} {r : List Byte} (ho : recOpc r = 0x05) (h : recOk s r = true) :
    byteField r 4 1 + byteField r 5 1 ≤ 64 := by
  unfold recOk at h
  simp only [ho, recNamed, recRange, Bool.and_eq_true, decide_eq_true_eq] at h
  omega

/-- Words of the program are loaded from a start on. -/
def progPut (n start : Nat) (w : Nat → Word) (s : State) (i : Nat) : State := putReg s (.glz n) (0x200 + 4 * (start + i)) (w i)

theorem glzProg_loads {s : State} {n : Nat} {r : List Byte} (h : ∀ i, i < byteField r 5 1 → progBad (wordAt r (8 + 4 * i)) = false) :
    glzProg s n r = (List.range (byteField r 5 1)).foldl (progPut n (byteField r 4 1) (fun i => wordAt r (8 + 4 * i))) s := by
  have hbad : ((List.range (byteField r 5 1)).map (fun i => wordAt r (8 + 4 * i))).any progBad = false := by
    simpa using h
  have hidx : ((List.range (byteField r 5 1)).map (fun i => wordAt r (8 + 4 * i))).mapIdx (fun i w => (i, w))
      = (List.range (byteField r 5 1)).map (fun i => (i, wordAt r (8 + 4 * i))) := by
    apply List.ext_getElem
    · simp
    · intro i h1 h2
      simp
  unfold glzProg
  dsimp only
  rw [hbad, if_neg (by decide), hidx, List.foldl_map]
  rfl

theorem progPut_foldl (n start : Nat) (w : Nat → Word) (k : Nat) (s : State) :
    let u := (List.range k).foldl (progPut n start w) s
    OnlyRegs s u ∧ RegsBut s u ((List.range k).map (fun i => regKey (.glz n) (0x200 + 4 * (start + i))))
      ∧ ∀ i, i < k → rawReg u (.glz n) (0x200 + 4 * (start + i)) = w i := by
  induction k with
  | zero => exact ⟨rfl, .refl _ _, fun i h => absurd h (Nat.not_lt_zero i)⟩
  | succ k ih =>
    rw [List.range_succ, List.foldl_append, List.foldl_cons, List.foldl_nil]
    obtain ⟨h1, h2, h3⟩ := ih
    generalize (List.range k).foldl (progPut n start w) s = z at h1 h2 h3
    refine ⟨by show progPut n start w z k = _; rw [h1]; rfl, fun p o hk => ?_, fun i hi => ?_⟩
    · simp only [List.map_append, List.map_cons, List.map_nil, List.mem_append, List.mem_singleton, not_or] at hk
      exact (rawReg_putReg_ne _ _ _ _ _ _ hk.2).trans (h2 p o hk.1)
    · by_cases he : i = k
      · subst he
        exact rawReg_putReg_same _ _ _ _
      · exact (rawReg_putReg_off _ _ _ _ _ (by omega)).trans (h3 i (by omega))

/-! ## The end of a pause (R683, R685) -/

theorem glzPaused_shown {s : State} {n : Nat} (h : glzState s n = 2) (hf : (getGlz s n).frags = []) (hl : glzLive s n = true)
    (hr : rbit s (.glz n) 0x084 13 = false) : glzPaused s n = glzPut s n 3 := by
  unfold glzPaused
  rw [if_pos ⟨h, hf, hl⟩, hr]
  rfl

/-- Settles O53: the records that set a Glazier's state, and the pause (R662 to R667, R678, R683). -/
theorem glazierStateSet : Obligations.GlazierStateSet := by
  unfold Obligations.GlazierStateSet
  intro s n r g b h popped
  refine ⟨fun ht => ?_, fun ht hx hy hw hh hs => ?_, fun ht hlen hm h32 hp htn hrg hb => ?_, fun ht => ?_, fun ht hb hw => ?_,
    fun ht => ?_, fun ht => ?_, fun ht => ?_, fun hst hf hl hr => ?_⟩
  · obtain ⟨h1, h2⟩ := glzTarget_shown s n r
    have hd := (depthLost_shown s n).2
    obtain ⟨k1, k2, k3⟩ := glzSimple_shown ht (fun s r => glzTarget s n r) h1 (by rw [h2, hd])
    rw [h2, hd] at k1
    exact ⟨_, rfl, ⟨k2, k3⟩, by rw [k1]; rfl, by rw [k1]; rfl, by rw [k1]; rfl, by rw [k1]; rfl, by rw [k1]; rfl, by rw [k1]; rfl⟩
  · obtain ⟨h1, h2⟩ := glzRegion_shown (r := r) hx hy hw hh hs
    have hd := (depthLost_shown s n).2
    obtain ⟨k1, k2, k3⟩ := glzSimple_shown ht (fun s r => glzRegion s n r) h1 (by rw [h2, hd])
    rw [h2, hd] at k1
    exact ⟨_, rfl, ⟨k2, k3⟩, by rw [k1]; rfl⟩
  · obtain ⟨k1, k2, k3⟩ := glzSimple_sets ht (fun s r => glzCgroup s n r) _ (glzCgroup_shown hm h32 hp htn hrg hb) rfl
    have hi : byteField r 4 1 ≤ 3 := cgroup_index ht.2.2.1 ht.2.2.2
    refine ⟨_, rfl, ⟨k2, k3⟩, ?_⟩
    rw [k1]
    show (g.groups.modify (byteField r 4 1) (fun _ => recGroup r))[byteField r 4 1]? = _
    have hlt : byteField r 4 1 < g.groups.length := by omega
    simp [hlt, recGroup, b]
  · obtain ⟨k1, k2, k3⟩ := glzSimple_sets ht (fun s r => glzDstate s n r) (fun g => { g with
      dfunc := b 4, dwrite := b 5 == 1, sfunc := b 6, sref := b 7, smask := b 8, spass := b 9, sfail := b 10, sdfail := b 11 }) rfl rfl
    exact ⟨_, rfl, ⟨k2, k3⟩, by rw [k1]; rfl, by rw [k1]; rfl⟩
  · have hrun := glzProg_loads (s := s) (n := n) hw
    obtain ⟨h1, h2, h3⟩ := progPut_foldl n (byteField r 4 1) (fun i => wordAt r (8 + 4 * i)) (byteField r 5 1) s
    rw [← hrun] at h1 h2 h3
    have hi : byteField r 4 1 + byteField r 5 1 ≤ 64 := prog_index ht.2.2.1 ht.2.2.2
    obtain ⟨p1, p2, -, p4⟩ := glzPop_shown (glzProg s n r) n
    have hexec : exec (.prog n) s = .next (glzPop (glzProg s n r) n) :=
      (if_neg (by rw [hb]; decide)).trans (congrArg Host.Outcome.next (glzSimple_takes ht _))
    refine ⟨_, hexec, ?_, fun i hi' => ?_, fun p o hk => ?_⟩
    · rw [p2, h1]; rfl
    · have hlt : b 4 + i < 64 := by
        simp only [b] at hi' ⊢
        omega
      rw [progWord, if_pos hlt, p4 _ _ (regKey_ne_of_off (by omega) (by decide) (by omega))]
      exact h3 i hi'
    · simp only [List.mem_cons, not_or] at hk
      refine (p4 p o hk.1).trans (h2 p o fun hm => hk.2 ?_)
      obtain ⟨i, hil, hie⟩ := List.mem_map.1 hm
      have := List.mem_range.1 hil
      exact List.mem_map.2 ⟨byteField r 4 1 + i, List.mem_range.2 (by omega), hie⟩
  · obtain ⟨k1, k2, k3⟩ := glzSimple_sets ht (fun s r => glzLoper s n r) _ rfl rfl
    exact ⟨_, rfl, ⟨k2, k3⟩, by rw [k1]; rfl, by rw [k1]; rfl⟩
  · obtain ⟨k1, k2, k3⟩ := glzSimple_sets ht (fun s r => glzClear s n r) _ rfl rfl
    exact ⟨_, rfl, ⟨k2, k3⟩, fun i => ⟨by rw [k1]; rfl, by rw [k1]; rfl⟩⟩
  · obtain ⟨k1, k2, k3⟩ := glzSimple_sets ht (fun s r => glzBvh s n r) _ rfl rfl
    exact ⟨_, rfl, ⟨k2, k3⟩, by rw [k1]; rfl, by rw [k1]; rfl, by rw [k1]; rfl⟩
  · have hrun : exec (.glzPaused n) s = .next (glzPut s n 3) := congrArg Host.Outcome.next (glzPaused_shown hst hf hl hr)
    exact ⟨_, hrun, rfld_putFld_same s _ _ 1 0 3 (by decide) (by decide), regsBut_putFld s _ _ _ _ _ _ (by simp),
      onlyRegs_putFld _ _ _ _ _ _⟩

end Sys2Proof.Machine
end

section
/-! PROOFS. Memory accesses leave what a Glazier holds (sections 14.1 and 16.1). -/

namespace Sys2Proof.Machine

/-! ## What leaves every Glazier as it was -/

/-- Every Glazier holds, beside its registers, what it held. -/
def GlzsKept (s u : State) : Prop := u.glzs = s.glzs

theorem GlzsKept.refl (s : State) : GlzsKept s s := rfl

theorem GlzsKept.trans {s u v : State} (h : GlzsKept s u) (j : GlzsKept u v) : GlzsKept s v := Eq.trans j h

theorem GlzsKept.getGlz {s u : State} (h : GlzsKept s u) (n : Nat) : getGlz u n = getGlz s n := by
  show tabGet _ u.glzs n = _
  rw [show u.glzs = s.glzs from h]
  rfl

theorem glzsKept_ite {s u v : State} {c : Prop} [Decidable c] (h : GlzsKept s u) (j : GlzsKept s v) :
    GlzsKept s (if c then u else v) := by
  split
  · exact h
  · exact j

theorem glzsKept_foldl {α : Type} {s : State} {l : List α} {f : State → α → State} (hf : ∀ e ∈ l, ∀ x, GlzsKept x (f x e)) :
    GlzsKept s (l.foldl f s) :=
  List.foldlRecOn (motive := fun z : State => GlzsKept s z) _ _ (.refl s) fun z hz e he => hz.trans (hf e he z)

theorem glzsKept_events {s u : State} {ks : List Nat} (h : Events s u ks) : GlzsKept s u := by
  rw [h.1]; rfl

theorem glzsKept_isrBit (s : State) (p : Page) (b : Nat) : GlzsKept s (isrBit s p b) := glzsKept_events (events_isrBit s p b _ [])

theorem glzsKept_sillage (s : State) (p : Page) (code : Nat) (tent : Bool) (layer oper : Half) (detail : Word) :
    GlzsKept s (sillage s p code tent layer oper detail) := glzsKept_events (events_sillage _ _ _ _ _ _ _ [])

theorem glzsKept_uncorrected (s : State) (p : Page) (code : Nat) (tag layer oper : Half) (bits : Word) (quiet : Bool) :
    GlzsKept s (uncorrected s p code tag layer oper bits quiet) :=
  have h : GlzsKept (addFld s p 0x040 31 16 1) (uncorrected s p code tag layer oper bits quiet) :=
    glzsKept_events (events_captureOpen _ _ _ _ _ _ _ _ _ [])
  h

theorem glzsKept_atLeast (s : State) (due : Nat) : GlzsKept s (atLeast s due) := by
  rw [(timeMoved_atLeast s due).rest]; rfl

/-! ## Retirements (R704, R707) -/

theorem glzsKept_modGcl (s : State) (g : GPlace) (f : Gcl → Gcl) : GlzsKept s (modGcl s g f) := by
  cases g <;> rfl

theorem glzsKept_gclHalt (s : State) (g : GPlace) : GlzsKept s (gclHalt s g) := by
  unfold gclHalt gMark
  extract_lets s1 note
  have h1 : GlzsKept s s1 := rfl
  exact (h1.trans (glzsKept_modGcl s1 g _)).trans (glzsKept_modGcl _ g _)

theorem glzsKept_rlogAdd (s : State) (kind inst cause errs : Nat) : GlzsKept s (rlogAdd s kind inst cause errs) := by
  unfold rlogAdd
  extract_lets s1
  have h1 : GlzsKept s s1 := glzsKept_ite rfl (glzsKept_isrBit (putReg s .scr 0x0A0 _) _ _)
  exact h1.trans (glzsKept_isrBit s1 _ _)

theorem glzsKept_isolate (s : State) (t cause : Nat) : GlzsKept s (isolate s t cause) := by
  unfold isolate
  extract_lets s1 s2
  have h2 : GlzsKept s s2 := rfl
  exact glzsKept_ite (.refl s) (h2.trans (glzsKept_isrBit s2 _ _))

theorem glzsKept_accSet (s : State) (n st : Nat) : GlzsKept s (accSet s n st) := by
  unfold accSet
  extract_lets old s1 s2 s3
  have h2 : GlzsKept s s2 := rfl
  have h3 : GlzsKept s2 s3 := glzsKept_ite (.refl s2)
    (glzsKept_ite (glzsKept_events (events_captureOpen _ _ _ _ _ _ _ _ _ [])) (glzsKept_isrBit _ _ _))
  have h4 : GlzsKept s3 (tkpFollow s3 n) := by
    rw [(tkpEvents_tkpFollow s3 n).1]; rfl
  exact (h2.trans h3).trans h4

theorem glzsKept_accDown (s : State) (n : Nat) : GlzsKept s (accDown s n) := glzsKept_ite (.refl s) (glzsKept_accSet s n 0)

theorem glzsKept_llkSet (s : State) (n st lanes : Nat) : GlzsKept s (llkSet s n st lanes) := glzsKept_events (events_llkSet s n st lanes)

theorem glzsKept_llkRetire (s : State) (n : Nat) : GlzsKept s (llkRetire s n) := by
  unfold llkRetire
  extract_lets s1
  have h1 : GlzsKept s s1 := glzsKept_isrBit (putBit s (.llk n) 0x014 6 true) _ _
  have h2 : GlzsKept (llkSet s1 n 7 0) (llkDrop (llkSet s1 n 7 0) n) := rfl
  exact ((h1.trans (glzsKept_llkSet s1 n 7 0)).trans h2).trans (glzsKept_accDown _ n)

theorem glzsKept_laneRetire (s : State) (n j : Nat) : GlzsKept s (laneRetire s n j) := by
  unfold laneRetire
  extract_lets lane s0 s1 m m' b s2 s3
  have hlane (z : State) : GlzsKept z (lane z) := glzsKept_sillage z _ _ _ _ _ _
  have h1 : GlzsKept s s1 := rfl
  refine glzsKept_ite (glzsKept_ite ((h1.trans (hlane s1)).trans (glzsKept_llkSet _ n 8 0)) (h1.trans (hlane _)))
    (glzsKept_ite ?_ ?_)
  · have h2 : GlzsKept s1 s2 := glzsKept_rlogAdd (setBkt s1 1 n _) _ _ _ _
    exact (((h1.trans h2).trans (glzsKept_sillage s2 _ _ _ _ _ _)).trans (glzsKept_llkRetire _ n)).trans (hlane _)
  · have h3 : GlzsKept s1 s3 := glzsKept_llkSet (modLink s1 n _) n 6 m'
    have hacc : GlzsKept s3 (modAcc (accDown s3 n) n (fun a => { a with narrowed := true })) := glzsKept_accDown s3 n
    exact ((h1.trans h3).trans (glzsKept_ite hacc (.refl s3))).trans (hlane _)

theorem glzsKept_fabFail (s : State) (t : Nat) : GlzsKept s (fabFail s t) := by
  unfold fabFail
  extract_lets m s1
  have h1 : GlzsKept s s1 := rfl
  exact (h1.trans (glzsKept_isrBit s1 _ _)).trans (glzsKept_events (events_errStop _ _ _ []))

theorem glzsKept_retireEffect (s : State) (kind inst : Nat) : GlzsKept s (retireEffect s kind inst) := by
  unfold retireEffect
  split
  · exact glzsKept_laneRetire s _ _
  · exact glzsKept_llkRetire s inst
  · exact glzsKept_isrBit (putBit s _ 0x014 6 true) _ _
  · rfl
  · exact glzsKept_isolate s inst 4
  · extract_lets s1 s2
    have h2 : GlzsKept s s2 := rfl
    exact glzsKept_ite (h2.trans (glzsKept_isrBit (putBit s2 _ 0x0A0 0 false) _ _)) h2
  · split
    · exact glzsKept_fabFail s _
    · rfl
    · exact glzsKept_gclHalt s _
    · exact glzsKept_gclHalt s _
    · exact glzsKept_gclHalt s _
    · rfl
  · rfl

theorem glzsKept_bucketErr (s : State) (kind inst : Nat) : GlzsKept s (bucketErr s kind inst) := by
  have hretire (z : State) : GlzsKept z (retire z kind inst 0) := by
    unfold retire
    extract_lets b s1 s2 s3
    have h2 : GlzsKept z s2 := glzsKept_rlogAdd s1 _ _ _ _
    exact ((h2.trans (glzsKept_sillage s2 _ _ _ _ _ _)).trans (glzsKept_retireEffect s3 kind inst)).trans
      (glzsKept_events (events_errStop _ _ _ []))
  unfold bucketErr
  extract_lets b thr b1 lv s1
  have h1 : GlzsKept s s1 := rfl
  exact glzsKept_ite rfl (glzsKept_ite (h1.trans (hretire s1)) h1)

/-! ## Units read and written (R602, R612) -/

theorem glzsKept_corrected (s : State) (p : Page) (n : Nat) : GlzsKept s (corrected s p n) := glzsKept_ite rfl rfl

theorem glzsKept_tileRead (s : State) (t k n : Nat) (lo : Half × Half) (dark : Bool) :
    GlzsKept s (tileRead s t k n lo dark).2 := by
  have h1 : GlzsKept s (if countCE s k n = 0 then s else tileCE s t (countCE s k n)) :=
    glzsKept_ite (.refl s) (glzsKept_corrected s _ _)
  unfold tileRead
  extract_lets s1
  split
  · exact (h1.trans (glzsKept_uncorrected s1 _ _ _ _ _ _ _)).trans (glzsKept_bucketErr _ _ _)
  · exact h1

theorem glzsKept_memReadUnit (s : State) (x e : Nat) (q : Packet) (u : Nat) : GlzsKept s (memReadUnit x e q s u) := by
  unfold memReadUnit
  split
  · rfl
  · refine glzsKept_ite (glzsKept_corrected s _ _) (glzsKept_ite (glzsKept_corrected (clearUnit s u) _ _) ?_)
    unfold memUE
    extract_lets p a s1
    have h1 : GlzsKept s s1 := glzsKept_ite (.refl s) rfl
    exact (h1.trans (glzsKept_uncorrected s1 _ _ _ _ _ _ _)).trans (glzsKept_bucketErr _ _ _)

theorem glzsKept_memStore (s : State) (k : Nat) (bs : List Byte) : GlzsKept s (memStore s k bs) :=
  glzsKept_foldl (s := writeMem s k bs) fun _ _ _ => rfl

theorem glzsKept_memWrite (s : State) (a : Nat) (bs : List Byte) : GlzsKept s (memWrite s a bs).2 := by
  refine List.foldlRecOn (motive := fun r : Bool × State => GlzsKept s r.2) _ _ (.refl s) fun r hr u _ => ?_
  dsimp only
  split
  · exact hr
  · exact hr.trans (glzsKept_memStore r.2 _ _)

/-! ## The port of a tile (R409, R454) -/

theorem glzsKept_popReq (s : State) (t : Nat) : GlzsKept s (popReq s (.tile t)) := rfl

theorem glzsKept_ackAt (s : State) (t : Nat) (q : Packet) : GlzsKept s (ackAt s (.tile t) q) := rfl

theorem glzsKept_rqAccept (s : State) (t n : Nat) (q : Packet) : GlzsKept s (rqAccept s t n q) := by
  unfold rqAccept
  extract_lets e s1 s2 s3 s4
  have h1 : GlzsKept s s1 := (glzsKept_memStore s _ _).trans (glzsKept_memStore _ _ _)
  exact h1

theorem glzsKept_rqUnstall (s : State) (t : Nat) : GlzsKept s (rqUnstall s t) := by
  unfold rqUnstall
  split
  · exact glzsKept_ite (glzsKept_rqAccept (popReq (modTile s t (fun x => { x with stalled := none })) (.tile t)) _ _ _) (.refl s)
  · rfl

theorem glzsKept_rqRefuse (s : State) (t n : Nat) (q : Packet) (reason : Nat) : GlzsKept s (rqRefuse s t n q reason) := by
  unfold rqRefuse
  extract_lets x to_ s1
  have h1 : GlzsKept s s1 := glzsKept_ite (.refl s) (glzsKept_ite (glzsKept_isrBit s _ _) rfl)
  exact h1

theorem glzsKept_stallOver (s : State) (t : Nat) : GlzsKept s (stallOver s t) := by
  unfold stallOver
  split
  · next n due _ =>
    have h1 : GlzsKept s (rqUnstall (atLeast s due) t) := (glzsKept_atLeast s due).trans (glzsKept_rqUnstall _ t)
    extract_lets s1
    refine glzsKept_ite (glzsKept_ite h1 (h1.trans ?_)) (.refl s)
    unfold stallEnd
    split
    · exact glzsKept_rqRefuse (popReq (modTile s1 t (fun x => { x with stalled := none })) (.tile t)) _ _ _ _
    · rfl
  · rfl

theorem glzsKept_rtrEvent (s : State) (t off hi lo isr code sil : Nat) (p : Packet) :
    GlzsKept s (rtrEvent s t off hi lo isr code sil p) := by
  unfold rtrEvent
  extract_lets s1 s2
  have h1 : GlzsKept s s1 := by
    have hcapKept (z : State) : GlzsKept z (hcap z t p) := by
      unfold hcap
      exact glzsKept_ite (.refl z) (glzsKept_foldl fun _ _ _ => rfl)
    exact hcapKept (addFld s (.rtr t) off hi lo 1)
  have h2 : GlzsKept s1 s2 := glzsKept_ite (glzsKept_events (events_captureCore _ _ _ _ _ _ _ _ _ _ []))
    (glzsKept_events (events_captureOpen _ _ _ _ _ _ _ _ _ []))
  exact glzsKept_ite (h1.trans h2) ((h1.trans h2).trans (glzsKept_sillage s2 _ _ _ _ _ _))

/-! ## Reads and writes of memory by a DMA -/

theorem glzsKept_dmaPort (s : State) (q : Packet) : GlzsKept s (dmaPort s q) :=
  glzsKept_ite (.refl s) (glzsKept_ite (glzsKept_rtrEvent s _ _ _ _ _ _ _ q) (glzsKept_ite (.refl s) (glzsKept_stallOver s _)))

theorem glzsKept_dmaReadOne (s : State) (q : Packet) : GlzsKept s (dmaReadOne s q).2.2 := by
  unfold dmaReadOne
  extract_lets z a n bad
  have h1 : GlzsKept s z := glzsKept_dmaPort s q
  clear_value z
  by_cases hb : bad ≠ 0
  · rw [if_pos hb]; exact h1
  · rw [if_neg hb]
    split
    · exact h1.trans (glzsKept_tileRead z _ _ _ _ _)
    · exact h1.trans (glzsKept_foldl fun u _ y => glzsKept_memReadUnit y _ _ q u)

theorem glzsKept_dmaWriteOne (s : State) (q : Packet) : GlzsKept s (dmaWriteOne s q).2 := by
  unfold dmaWriteOne
  extract_lets z a bad
  have h1 : GlzsKept s z := glzsKept_dmaPort s q
  clear_value z
  by_cases hb : bad ≠ 0
  · rw [if_pos hb]; exact h1
  · rw [if_neg hb]
    split
    · exact h1.trans (glzsKept_memStore z _ _)
    · exact h1.trans (glzsKept_memWrite z _ _)

theorem glzsKept_dmaRead (s : State) (by_ : DmaBy) (tn : Word) (a k : Nat) : GlzsKept s (dmaRead s by_ tn a k).2.2 :=
  List.foldlRecOn (motive := fun r : Nat × List Byte × State => GlzsKept s r.2.2) _ _ (.refl s)
    fun _ hr _ _ => hr.trans (glzsKept_dmaReadOne _ _)

theorem glzsKept_dmaWrite (s : State) (by_ : DmaBy) (tn : Word) (a : Nat) (bs : List Byte) : GlzsKept s (dmaWrite s by_ tn a bs).2 :=
  List.foldlRecOn (motive := fun r : Nat × State => GlzsKept s r.2) _ _ (.refl s)
    fun _ hr _ _ => hr.trans (glzsKept_dmaWriteOne _ _)

/-! ## Accesses of a Glazier itself (R674, R680) -/

/-- A Glazier holds what it held, but for the note of a failure since the last fence. -/
def GlzHeld (s u : State) (n : Nat) : Prop := getGlz u n = { getGlz s n with bad := (getGlz u n).bad }

theorem GlzHeld.refl (s : State) (n : Nat) : GlzHeld s s n := rfl

theorem GlzHeld.trans {s u v : State} {n : Nat} (h : GlzHeld s u n) (j : GlzHeld u v n) : GlzHeld s v n := by
  rw [GlzHeld, j, h]

theorem GlzsKept.held {s u : State} (h : GlzsKept s u) (n : Nat) : GlzHeld s u n := by
  rw [GlzHeld, h.getGlz n]

theorem glzHeld_foldl {α : Type} {s : State} {n : Nat} {l : List α} {f : State → α → State} (hf : ∀ e ∈ l, ∀ x, GlzHeld x (f x e) n) :
    GlzHeld s (l.foldl f s) n :=
  List.foldlRecOn (motive := fun z : State => GlzHeld s z n) _ _ (.refl s n) fun z hz e he => hz.trans (hf e he z)

theorem glzHeld_glzFail (s : State) (n reason : Nat) : GlzHeld s (glzFail s n reason) n := by
  have hk : GlzsKept (modGlz (addFld s (.glz n) 0x0CC 31 16 1) n (fun g => { g with bad := true })) (glzFail s n reason) :=
    glzsKept_events (events_capture _ _ _ _ _ _ _ _ _ [])
  have hg := getGlz_modGlz_same (addFld s (.glz n) 0x0CC 31 16 1) n (fun g => { g with bad := true })
  rw [GlzHeld, hk.getGlz n, hg]
  rfl

theorem glzHeld_glzRead (s : State) (n : Nat) (tn : Word) (a k : Nat) : GlzHeld s (glzRead s n tn a k).2.2 n := by
  have h := (glzsKept_dmaRead s (glzBy s n) tn a k).held n
  obtain ⟨r, hr⟩ : ∃ r, dmaRead s (glzBy s n) tn a k = r := ⟨_, rfl⟩
  unfold glzRead
  rw [hr] at h ⊢
  dsimp only
  split
  · exact h
  · exact h.trans (glzHeld_glzFail _ _ _)

theorem glzHeld_glzWrite (s : State) (n : Nat) (tn : Word) (a : Nat) (bs : List Byte) : GlzHeld s (glzWrite s n tn a bs) n := by
  have h := (glzsKept_dmaWrite s (glzBy s n) tn a bs).held n
  obtain ⟨r, hr⟩ : ∃ r, dmaWrite s (glzBy s n) tn a bs = r := ⟨_, rfl⟩
  unfold glzWrite
  rw [hr] at h ⊢
  dsimp only
  split
  · exact h
  · exact h.trans (glzHeld_glzFail _ _ _)

end Sys2Proof.Machine
end

section
/-! PROOFS. Records that read and write memory, fences, and submission (sections 16.1 to 16.4 and 16.6). -/

namespace Sys2Proof.Machine

/-! ## Fences (R674) -/

/-- The signal of a fence. -/
def fenceSignal (s : State) (n : Nat) (r : List Byte) : Packet :=
  let p : Packet := {
    dst := wordAt r 4, opc := opSIGNAL, tc := BitVec.ofNat 3 (rfld s (.glz n) 0x080 6 4), layer := (getGlz s n).layer,
    oper := (getGlz s n).oper, addr := BitVec.ofNat 48 (byteField r 8 1),
    aux := wordAt r (if (getGlz s n).bad then 16 else 12), spart := BitVec.ofNat 4 (glzBy s n).spart }
  { p with src := ioNode s (dieRow p) (n / 4) (8 + n % 4) }

/-- The signal is on its way, and failures count anew. -/
def fenceSent (s : State) (n : Nat) (r : List Byte) : State :=
  modGlz (modDie s (n / 4) (fun d => { d with out := d.out ++ [fenceSignal s n r] })) n (fun g => { g with bad := false })

theorem glzFence_sends {s : State} {n : Nat} {r : List Byte} (hk : nodeKind (wordAt r 4) = 0) (he : nodeEp (wordAt r 4) = 2)
    (h0 : wordAt r 4 ≠ 0) : glzFence s n r = isrBit (fenceSent s n r) (.glz n) 3 := by
  unfold glzFence
  dsimp only
  rw [if_neg (fun h => h.2.elim (fun h => h hk) (fun h => h he)), if_neg h0]
  rfl

/-! ## Bin entries in the extension (R682, R686) -/

theorem glzHeld_binSpill (s : State) (n : Nat) (fs : List Frag) : GlzHeld s (binSpill s n fs) n :=
  glzHeld_foldl fun f _ z => by
    dsimp only
    split
    · exact .refl z n
    · next a _ =>
      have h1 : GlzsKept z (takeFree z).2 := rfl
      exact (h1.held n).trans (glzHeld_glzWrite (takeFree z).2 n 0 a ((List.range 64).map (Config.binByte (takeFree z).1)))

theorem binAddr_onChip {f : Frag} (h : onChip f) (s : State) (n : Nat) : f.bin.bind (binAddr s n) = none := by
  cases hb : f.bin with
  | none => rfl
  | some i => exact if_pos (h i hb)

theorem binSpill_onChip (s : State) (n : Nat) {fs : List Frag} (h : ∀ f ∈ fs, onChip f) : binSpill s n fs = s :=
  List.foldlRecOn (motive := fun z : State => z = s) _ _ rfl fun z hz f hf => by
    subst hz
    rw [binAddr_onChip (h f hf)]

/-! ## A record of one primitive (R669 to R673) -/

theorem addFaults_none (s : State) : addFaults s [] = s := rfl

/-- Counts and the peak of the bins change no Glazier. -/
theorem glzCount_frame (s : State) (n off k : Nat) : (glzCount s n off k).glzs = s.glzs ∧ (glzCount s n off k).mem = s.mem := by
  unfold glzCount workCount
  split_ifs <;> exact ⟨rfl, rfl⟩

theorem binPeak_frame (s : State) (n : Nat) : (binPeak s n).glzs = s.glzs ∧ (binPeak s n).mem = s.mem := by
  unfold binPeak
  dsimp only
  split <;> exact ⟨rfl, rfl⟩

/-- A Glazier with new fragments, and what is counted of them. -/
def rastered (s : State) (n : Nat) (sh : Shape) : State :=
  binPeak (glzCount (modGlz s n (fun _ => (raster (getGlz s n) sh).1)) n 0x0C4 (raster (getGlz s n) sh).2) n

theorem rastered_shown (s : State) (n : Nat) (sh : Shape) :
    getGlz (rastered s n sh) n = (raster (getGlz s n) sh).1 ∧ (rastered s n sh).mem = s.mem := by
  obtain ⟨h1, h2⟩ := binPeak_frame (glzCount (modGlz s n (fun _ => (raster (getGlz s n) sh).1)) n 0x0C4 (raster (getGlz s n) sh).2) n
  obtain ⟨k1, k2⟩ := glzCount_frame (modGlz s n (fun _ => (raster (getGlz s n) sh).1)) n 0x0C4 (raster (getGlz s n) sh).2
  have hg := getGlz_modGlz_same s n (fun _ => (raster (getGlz s n) sh).1)
  refine ⟨?_, h2.trans k2⟩
  rw [getGlz, show (rastered s n sh).glzs = _ from h1.trans k1]
  exact hg

theorem primOne_rasters {s : State} {n a len : Nat} {tn : Word} {shape : Glz → List Byte → Option Shape}
    {x : Bool × List Byte × State} (hx : glzRead (glzCount s n 0x0C0 1) n tn a len = x) (hok : x.1 = true) {sh : Shape}
    (hs : shape (getGlz x.2.2 n) x.2.1 = some sh) :
    primOne s n tn a len shape
      = binSpill (rastered x.2.2 n sh) n ((raster (getGlz x.2.2 n) sh).1.frags.drop (getGlz x.2.2 n).frags.length) := by
  obtain ⟨ok, bs, z⟩ := x
  have hok : ok = true := hok
  have hs : shape (getGlz z n) bs = some sh := hs
  unfold primOne
  rw [hx]
  dsimp only
  rw [hok, hs]
  exact if_neg (by decide)

theorem primGo_done {s : State} {n count len a : Nat} {tn : Word} {shape : Glz → List Byte → Option Shape} (k : Nat)
    (h : count ≤ (getGlz s n).done) : primGo n count len tn a shape (k + 1) s = glzPop s n := if_pos h

/-- One primitive is started, and the record is done. -/
theorem primGo_one {s : State} {n len a : Nat} {tn : Word} {shape : Glz → List Byte → Option Shape}
    (hd : (getGlz s n).done = 0) (hb : binLow s n = false) :
    primGo n 1 len tn a shape 2 s
      = glzPop (modGlz (primOne s n tn a len shape) n (fun g => { g with done := 1 })) n := by
  have hstep : primGo n 1 len tn a shape 2 s
      = primGo n 1 len tn a shape 1 (modGlz (primOne s n tn a len shape) n (fun g => { g with done := 1 })) := by
    rw [primGo, hd, if_neg (by decide), hb, if_neg (by decide), Nat.zero_mul, Nat.add_zero]
  rw [hstep]
  exact primGo_done 0 (le_of_eq (congrArg Glz.done (getGlz_modGlz_same (primOne s n tn a len shape) n (fun g => { g with done := 1 }))).symm)

/-- What a record of one primitive leaves. -/
theorem primGo_shown {s : State} {n len a : Nat} {tn : Word} {shape : Glz → List Byte → Option Shape}
    (hd : (getGlz s n).done = 0) (hb : binLow s n = false) {x : Bool × List Byte × State}
    (hx : glzRead (glzCount s n 0x0C0 1) n tn a len = x) (hok : x.1 = true) {sh : Shape}
    (hs : shape (getGlz x.2.2 n) x.2.1 = some sh) :
    let u := primGo n 1 len tn a shape 2 s
    (getGlz u n).frags = (raster (getGlz x.2.2 n) sh).1.frags ∧ (getGlz u n).depth = (raster (getGlz x.2.2 n) sh).1.depth
      ∧ ((∀ f ∈ (raster (getGlz x.2.2 n) sh).1.frags.drop (getGlz x.2.2 n).frags.length, onChip f) → u.mem = x.2.2.mem) := by
  intro u
  have hu : u = _ := primGo_one hd hb
  have hone := primOne_rasters hx hok hs
  obtain ⟨r1, r2⟩ := rastered_shown x.2.2 n sh
  have hheld := glzHeld_binSpill (rastered x.2.2 n sh) n ((raster (getGlz x.2.2 n) sh).1.frags.drop (getGlz x.2.2 n).frags.length)
  have hchip := binSpill_onChip (rastered x.2.2 n sh) n (fs := (raster (getGlz x.2.2 n) sh).1.frags.drop (getGlz x.2.2 n).frags.length)
  rw [← hone] at hheld hchip
  generalize primOne s n tn a len shape = z at hu hheld hchip
  have hz : (getGlz z n).frags = (raster (getGlz x.2.2 n) sh).1.frags ∧ (getGlz z n).depth = (raster (getGlz x.2.2 n) sh).1.depth := by
    rw [hheld, r1]; exact ⟨rfl, rfl⟩
  obtain ⟨p1, p2, -, -⟩ := glzPop_shown (modGlz z n (fun g => { g with done := 1 })) n
  rw [getGlz_modGlz_same] at p2
  rw [hu, p2]
  refine ⟨hz.1, hz.2, fun h => ?_⟩
  rw [p1.mem]
  show z.mem = _
  rw [hchip h, r2]

/-- A record of primitives: of none it leaves its queue, of one it starts the fragments of its shape. -/
theorem primRecord_shown {s : State} {n : Nat} {r : List Byte} {len : Nat} {shape : Glz → List Byte → Option Shape} {c : Instr}
    (hrun : exec c s = .next (primGo n (byteField r 20 4) len (wordAt r 8) (byteField r 12 6) shape (byteField r 20 4 + 1) s)) :
    (byteField r 20 4 = 0 → ∃ u, exec c s = .next u ∧ (getGlz u n).q = (getGlz s n).q.tail ∧ OnlyGlz s u n)
    ∧ (byteField r 20 4 = 1 → (getGlz s n).done = 0 → binLow s n = false →
      ∀ x, glzRead (glzCount s n 0x0C0 1) n (wordAt r 8) (byteField r 12 6) len = x → x.1 = true →
      ∀ sh, shape (getGlz x.2.2 n) x.2.1 = some sh → ∃ u, exec c s = .next u
        ∧ (getGlz u n).frags = (raster (getGlz x.2.2 n) sh).1.frags
        ∧ (getGlz u n).depth = (raster (getGlz x.2.2 n) sh).1.depth
        ∧ ((∀ f ∈ (raster (getGlz x.2.2 n) sh).1.frags.drop (getGlz x.2.2 n).frags.length, onChip f) → u.mem = x.2.2.mem)) := by
  constructor
  · intro h0
    obtain ⟨p1, p2, -, -⟩ := glzPop_shown s n
    rw [h0, primGo_done 0 (Nat.zero_le _)] at hrun
    exact ⟨_, hrun, congrArg Glz.q p2, p1⟩
  · intro h1 hd hb x hx hok sh hs
    rw [h1] at hrun
    exact ⟨_, hrun, primGo_shown hd hb hx hok hs⟩

/-! ## Rays (R687) -/

/-- What a ray finds, of what was read of it. -/
def rayFound (n : Nat) (any_ : Bool) (x : Bool × List Byte × State) : List Byte × State :=
  hitOf ⟨n, any_, wordsAt x.2.1 0 8⟩
    (if rayDead (wordsAt x.2.1 0 8) then { st := x.2.2 } else visit ⟨n, any_, wordsAt x.2.1 0 8⟩ 65 0x40000000 { st := x.2.2 })

theorem rayOne_hits {s : State} {n : Nat} {any_ : Bool} {tn : Word} {ra ha : Nat} {x : Bool × List Byte × State}
    (hx : glzRead (glzCount s n 0x0C8 1) n tn ra 32 = x) (hok : x.1 = true) :
    rayOne n any_ tn ra ha 0 s = glzWrite (rayFound n any_ x).2 n tn ha (rayFound n any_ x).1 := by
  obtain ⟨ok, bs, z⟩ := x
  have hok : ok = true := hok
  unfold rayOne
  rw [Nat.mul_zero, Nat.add_zero, hx]
  dsimp only
  subst hok
  rw [if_neg (by decide)]
  obtain ⟨e, he⟩ : ∃ e, rayFound n any_ (true, bs, z) = e := ⟨_, rfl⟩
  rw [he]
  by_cases hd : rayDead (wordsAt bs 0 8) = true
  · have hrun : rayFound n any_ (true, bs, z) = hitOf ⟨n, any_, wordsAt bs 0 8⟩ { st := z } :=
      congrArg (hitOf ⟨n, any_, wordsAt bs 0 8⟩) (if_pos hd)
    rw [if_pos hd, ← hrun, he, Nat.add_zero]
  · have hrun : rayFound n any_ (true, bs, z)
        = hitOf ⟨n, any_, wordsAt bs 0 8⟩ (visit ⟨n, any_, wordsAt bs 0 8⟩ 65 0x40000000 { st := z }) :=
      congrArg (hitOf ⟨n, any_, wordsAt bs 0 8⟩) (if_neg hd)
    rw [if_neg hd, ← hrun, he, Nat.add_zero]

/-! ## Submission (R659, R660) -/

/-- Records enter the queue. -/
theorem glzEnter_shown (s : State) (n : Nat) (rs : List (List Byte)) :
    (getGlz (glzEnter s n rs) n).q = (getGlz s n).q ++ rs ∧ (glzEnter s n rs).mem = s.mem ∧ (glzEnter s n rs).dies = s.dies := by
  unfold glzEnter
  by_cases h : rs = []
  · rw [if_pos h, h, List.append_nil]; exact ⟨rfl, rfl, rfl⟩
  · rw [if_neg h]
    have hq := congrArg Glz.q (getGlz_modGlz_same s n (fun g => { g with q := g.q ++ rs }))
    dsimp only
    split
    · exact ⟨hq, rfl, rfl⟩
    · exact ⟨hq, rfl, rfl⟩

theorem glzFetchOne_reads {s : State} {n : Nat} {x : Bool × List Byte × State}
    (hx : glzRead s n (rawReg s (.glz n) 0x08C) (glzAddr s n + 32 * glzHead s n) 32 = x) (hok : x.1 = true) :
    glzFetchOne n s = glzEnter (putFld x.2.2 (.glz n) 0x09C 15 0 ((glzHead s n + 1) % glzSize s n)) n [x.2.1] := by
  obtain ⟨ok, bs, z⟩ := x
  have hok : ok = true := hok
  unfold glzFetchOne
  dsimp only
  rw [hx]
  dsimp only
  rw [hok]
  exact if_pos rfl

theorem glzFetch_runs {s : State} {n : Nat} (hl : glzLive s n = true) (hs : 2 ≤ glzSize s n)
    (ht : tnodeOk s (rawReg s (.glz n) 0x08C) = true) :
    glzFetch s n = iter (glzFetchOne n) (min ((glzTail s n + glzSize s n - glzHead s n) % glzSize s n) (1024 - (getGlz s n).q.length)) s :=
  if_neg (by rw [hl, ht]; simp; omega)

/-- What a record that was read from the ring leaves. -/
theorem glzFetchOne_shown {s : State} {n : Nat} {x : Bool × List Byte × State}
    (hx : glzRead s n (rawReg s (.glz n) 0x08C) (glzAddr s n + 32 * glzHead s n) 32 = x) (hok : x.1 = true) :
    (getGlz (glzFetchOne n s) n).q = (getGlz x.2.2 n).q ++ [x.2.1] ∧ (glzFetchOne n s).mem = x.2.2.mem := by
  obtain ⟨e1, e2, -⟩ := glzEnter_shown (putFld x.2.2 (.glz n) 0x09C 15 0 ((glzHead s n + 1) % glzSize s n)) n [x.2.1]
  rw [glzFetchOne_reads hx hok]
  exact ⟨e1, e2⟩

theorem glzMsg_serves {s : State} {n : Nat} {q : Packet} (hq : reqHead s (.io (n / 4)) opMSG = some q)
    (hd : dieFitted s (n / 4) = true) (he : epKind q.dst = .glz) (hg : dieGlz (n / 4) q = n) (hst : stopped s (.glz n) = false)
    (hc : edgeCheck s (.io (n / 4)) q = none) (hl : q.len ≠ 0) (h32 : (payload q).length % 32 = 0) :
    glzMsg s n = if enabled s (.glz n) = false then answerAt (popReq s (.io (n / 4))) (.io (n / 4)) (nakPkt q.dst q nkOFF)
      else if 1024 < (getGlz s n).q.length + (payload q).length / 32 then
        answerAt (popReq s (.io (n / 4))) (.io (n / 4)) (nakPkt q.dst q nkFULL)
      else ackAt (glzEnter (popReq s (.io (n / 4))) n (records ((payload q).length / 32) (payload q))) (.io (n / 4)) q := by
  unfold glzMsg
  dsimp only
  rw [hq]
  dsimp only
  rw [if_neg (by simp [hd, he, hg, hst]), serveEdge, hc]
  dsimp only
  rw [if_neg (fun h => h.elim (fun h => hl h) (fun h => h h32))]
  rfl

theorem getDie_popReq (s : State) (d : Nat) : getDie (popReq s (.io d)) d = { getDie s d with req := (getDie s d).req.tail } :=
  getDie_modDie_same s d _

theorem getDie_answerAt (s : State) (d : Nat) (a : Packet) :
    getDie (answerAt s (.io d) a) d = { getDie s d with out := (getDie s d).out ++ [a] } := getDie_modDie_same s d _

theorem getDie_ackAt (s : State) (d : Nat) (q : Packet) : (getDie (ackAt s (.io d) q) d).req = (getDie s d).req := by
  obtain ⟨r, hr⟩ : ∃ r, ackNote (meAt s (.io d) q) q (eTime s) (getDie s d).acks = r := ⟨_, rfl⟩
  have hrun : ackAt s (.io d) q = modDie s d (fun g => { g with acks := r.1, out := g.out ++ r.2 }) := by rw [← hr]; rfl
  rw [hrun, getDie_modDie_same]

/-- Settles O54: fences, depth blocks, records of none and of one primitive, rays, and submission (R659 to R689). -/
theorem glazierRecordsRun : Obligations.GlazierRecordsRun := by
  unfold Obligations.GlazierRecordsRun
  intro s n r g
  refine ⟨?_, ?_, ?_, ?_, ?_, ?_⟩
  · intro ht hf hk he h0
    have hrun : exec (.glzFence n) s = .next (glzPop (isrBit (fenceSent s n r) (.glz n) 3) n) := by
      refine (if_pos hf).trans (congrArg Host.Outcome.next ((glzSimple_takes ht _).trans ?_))
      rw [glzFence_sends hk he h0]
    have hev := events_isrBit (fenceSent s n r) (.glz n) 3 (0, 0) []
    have hset := rbit_isrBit (fenceSent s n r) (.glz n) (b := 3) (by decide) (0, 0)
    have hglz : getGlz (fenceSent s n r) n = { getGlz s n with bad := false } := getGlz_modGlz_same _ n _
    have hdie : (getDie (fenceSent s n r) (n / 4)).out = (getDie s (n / 4)).out ++ [fenceSignal s n r] :=
      congrArg Die.out (getDie_modDie_same s (n / 4) (fun d => { d with out := d.out ++ [fenceSignal s n r] }))
    have hmem : (fenceSent s n r).mem = s.mem := rfl
    generalize fenceSent s n r = y at hrun hev hset hglz hdie hmem
    generalize isrBit y (.glz n) 3 = z at hrun hev hset
    obtain ⟨p1, p2, -, p4⟩ := glzPop_shown z n
    have hz : getGlz z n = getGlz y n := by rw [hev.1]; rfl
    rw [hz, hglz] at p2
    refine ⟨_, fenceSignal s n r, hrun, ?_, rfl, rfl, rfl, rfl, rfl, rfl, by rw [p2]; rfl, by rw [p2]; rfl, ?_,
      p1.mem.trans (hev.mem.trans hmem)⟩
    · have hout : (getDie (glzPop z n) (n / 4)).out = (getDie y (n / 4)).out := by rw [p1.1, hev.1]; rfl
      exact hout.trans hdie
    · rw [rbit, rfld_of_raw 3 3 (p4 (.glz n) 0x020 (regKey_ne_of_off (by decide) (by decide) (by decide)))]
      exact hset
  · intro ht htn hn0 h8 bw bh bs hsz hbs
    have hrun : glzDresolve s n r = glzWrite s n (wordAt r 8) (byteField r 12 6) bs := by
      refine (if_neg ?_).trans (if_neg hbs)
      rintro (h | h | h | h)
      · exact hn0 h
      · rw [htn] at h; cases h
      · exact h h8
      · exact absurd h (Nat.not_lt.2 hsz)
    have hexec : exec (.dresolve n) s = .next (glzPop (glzWrite s n (wordAt r 8) (byteField r 12 6) bs) n) :=
      congrArg Host.Outcome.next ((glzSimple_takes ht _).trans (congrArg (fun z => glzPop z n) hrun))
    exact ⟨_, hexec, (glzPop_shown _ n).1.mem⟩
  · intro opc c hc ht k len shape
    refine primRecord_shown (len := len) (shape := shape) ?_ |>.imp_right fun h h1 hd hb => h h1 hd hb _ rfl
    rcases List.mem_cons.1 hc with hd | hr
    · obtain ⟨rfl, rfl⟩ := Prod.mk.inj hd
      exact congrArg Host.Outcome.next (glzRecord_takes ht (fun s r => glzDraw (addFaults s []) n r))
    · obtain ⟨rfl, rfl⟩ := Prod.mk.inj (List.mem_singleton.1 hr)
      exact congrArg Host.Outcome.next (glzRecord_takes ht (fun s r => glzSplat (addFaults s []) n r))
  · intro ht hcnt x c e hok
    have hone : glzRayq s n r = rayOne n (byteField r 4 1 == 1) (wordAt r 8) (byteField r 12 6) (byteField r 18 6) 0 s := by
      unfold glzRayq
      rw [hcnt, List.range_one, List.foldl_cons, List.foldl_nil]
    have he : e = rayFound n (byteField r 4 1 == 1) x := rfl
    obtain ⟨y, hy⟩ : ∃ y, glzWrite e.2 n (wordAt r 8) (byteField r 18 6) e.1 = y := ⟨_, rfl⟩
    have hray : glzRayq s n r = y := by rw [hone, rayOne_hits rfl hok, ← he, hy]
    have hrun : exec (.rayq n []) s = .next (glzPop y n) :=
      congrArg Host.Outcome.next ((glzSimple_takes ht (fun s r => glzRayq (addFaults s []) n r)).trans
        (congrArg (fun z => glzPop z n) hray))
    exact ⟨_, hrun, (glzPop_shown y n).1.mem.trans (congrArg State.mem hy.symm)⟩
  · intro hl hs htn hq left x
    have hrun : exec (.glzRingFetch n) s = .next (iter (glzFetchOne n) (min left (1024 - (getGlz s n).q.length)) s) :=
      congrArg Host.Outcome.next (glzFetch_runs hl hs htn)
    refine ⟨fun h0 => ?_, fun h1 hok => ?_⟩
    · rw [h0, Nat.zero_min] at hrun
      exact hrun
    · rw [h1, Nat.min_eq_left (Nat.sub_pos_of_lt hq)] at hrun
      exact ⟨glzFetchOne n s, hrun, glzFetchOne_shown rfl hok⟩
  · intro q hq hd he hg hst hc hl h32 k left
    have hrun : exec (.glzQueueMsg n) s = .next (glzMsg s n) := rfl
    rw [glzMsg_serves hq hd he hg hst hc hl h32] at hrun
    have hpop := getDie_popReq s (n / 4)
    refine ⟨fun hen hroom => ?_, fun hen => ?_, fun hen hfull => ?_⟩
    · rw [if_neg (by rw [hen]; decide), if_neg (Nat.not_lt.2 hroom)] at hrun
      obtain ⟨e1, e2, e3⟩ := glzEnter_shown (popReq s (.io (n / 4))) n (records k (payload q))
      refine ⟨_, hrun, e1, ?_, e2⟩
      rw [getDie_ackAt, getDie, e3]
      exact congrArg Die.req hpop
    · rw [if_pos hen] at hrun
      have ha := getDie_answerAt (popReq s (.io (n / 4))) (n / 4) (nakPkt q.dst q nkOFF)
      rw [hpop] at ha
      exact ⟨_, hrun, congrArg Die.out ha, rfl, congrArg Die.req ha, rfl⟩
    · rw [if_neg (by rw [hen]; decide), if_pos hfull] at hrun
      have ha := getDie_answerAt (popReq s (.io (n / 4))) (n / 4) (nakPkt q.dst q nkFULL)
      rw [hpop] at ha
      exact ⟨_, hrun, congrArg Die.out ha, rfl, congrArg Die.req ha, rfl⟩

end Sys2Proof.Machine
end

section
/-! PROOFS. Pixel programs, and the fragments that retire (sections 16.4 and 16.5). -/

namespace Sys2Proof.Machine

/-! ## The oldest fragment is gone (R675, R682) -/

theorem modFirst_of_none {α : Type} {f : α → Bool} {g : α → α} {l : List α} (h : l.find? f = none) : modFirst f g l = l := by
  induction l with
  | nil => rfl
  | cons a l ih =>
    cases ha : f a with
    | false =>
      rw [List.find?_cons, ha] at h
      simp [modFirst, ha, ih h]
    | true =>
      rw [List.find?_cons, ha] at h
      cases h

theorem glzIdle_shown (s : State) (n : Nat) : OnlyGlz s (glzIdle s n) n ∧ getGlz (glzIdle s n) n = getGlz s n := by
  unfold glzIdle
  split
  · exact ⟨onlyGlz_putFld s n 1 0 0, rfl⟩
  · exact ⟨.refl s n, rfl⟩

/-- The bin entry of the next fragment of a sample is left. -/
theorem binLeave_shown (s : State) (n : Nat) (f : Frag) :
    (getGlz (binLeave s n f) n).frags = fragsAfter f (getGlz s n).frags ∧ (getGlz (binLeave s n f) n).pp = (getGlz s n).pp
      ∧ (nextOnChip f (getGlz s n).frags → OnlyGlz s (binLeave s n f) n) := by
  unfold binLeave
  cases hh : (getGlz s n).frags.find? (sameSmp f) with
  | none => exact ⟨(modFirst_of_none hh).symm, rfl, fun _ => .refl s n⟩
  | some h =>
    have hone := onlyGlz_modGlz s n (fun g => { g with frags := modFirst (sameSmp f) (fun x => { x with bin := none }) g.frags })
    have hglz := getGlz_modGlz_same s n (fun g => { g with frags := modFirst (sameSmp f) (fun x => { x with bin := none }) g.frags })
    dsimp only
    generalize modGlz s n (fun g => { g with frags := modFirst (sameSmp f) (fun x => { x with bin := none }) g.frags }) = z at hone hglz
    cases ha : h.bin.bind (binAddr s n) with
    | none => exact ⟨by rw [hglz]; rfl, by rw [hglz], fun _ => hone⟩
    | some a =>
      have hheld := glzHeld_glzRead z n 0 a 64
      refine ⟨?_, ?_, fun hc => ?_⟩
      · rw [hheld, hglz]; rfl
      · rw [hheld, hglz]
      · rw [binAddr_onChip (hc h hh)] at ha
        cases ha

theorem fragDrop_shown {s : State} {n : Nat} {f : Frag} {rest : List Frag} (hf : (getGlz s n).frags = f :: rest) :
    (getGlz (fragDrop s n) n).frags = fragsAfter f rest ∧ (getGlz (fragDrop s n) n).pp = none
      ∧ (nextOnChip f rest → OnlyGlz s (fragDrop s n) n) := by
  obtain ⟨z, hz⟩ : ∃ z, modGlz s n (fun g => { g with frags := g.frags.tail, pp := none }) = z := ⟨_, rfl⟩
  have hone : OnlyGlz s z n := by rw [← hz]; exact onlyGlz_modGlz s n _
  have hglz : getGlz z n = { getGlz s n with frags := rest, pp := none } := by rw [← hz, getGlz_modGlz_same, hf]; rfl
  have hhead : headFrag s n = some f := by rw [headFrag, hf]; rfl
  have hrun : fragDrop s n = glzIdle (binLeave z n f) n := by rw [fragDrop, hhead, hz]
  obtain ⟨b1, b2, b3⟩ := binLeave_shown z n f
  obtain ⟨i1, i2⟩ := glzIdle_shown (binLeave z n f) n
  rw [hglz] at b1 b2 b3
  rw [hrun, i2]
  exact ⟨b1, b2, fun hc => (hone.trans (b3 hc)).trans i1⟩

theorem retireGo_ended {s : State} {n : Nat} {f : Frag} {rest : List Frag} (hf : (getGlz s n).frags = f :: rest)
    (h : f.groups[f.next]? = none) (k : Nat) : retireGo n (k + 1) s = fragDrop s n := by
  have hhead : headFrag s n = some f := by rw [headFrag, hf]; rfl
  rw [retireGo, hhead]
  dsimp only
  rw [h]

/-- The fragment turns to its next group. -/
def groupDone (s : State) (n : Nat) : State := fragMod s n (fun f => { f with next := f.next + 1 })

theorem getGlz_groupDone {s : State} {n : Nat} {f : Frag} {rest : List Frag} (hf : (getGlz s n).frags = f :: rest) :
    getGlz (groupDone s n) n = { getGlz s n with frags := { f with next := f.next + 1 } :: rest } := by
  rw [groupDone, fragMod, getGlz_modGlz_same, hf]

/-- The program of the last group ends. -/
theorem ppLeave_shown {s : State} {n : Nat} {f : Frag} {rest : List Frag} (hf : (getGlz s n).frags = f :: rest)
    (h : f.groups[f.next + 1]? = none) :
    (getGlz (ppLeave s n) n).frags = fragsAfter f rest ∧ (getGlz (ppLeave s n) n).pp = none
      ∧ (nextOnChip f rest → OnlyGlz s (ppLeave s n) n) := by
  obtain ⟨z, hz⟩ : ∃ z, modGlz (groupDone s n) n (fun g => { g with pp := none }) = z := ⟨_, rfl⟩
  have hone : OnlyGlz s z n := by
    rw [← hz]; exact (onlyGlz_modGlz s n _).trans (onlyGlz_modGlz _ n _)
  have hglz : (getGlz z n).frags = { f with next := f.next + 1 } :: rest := by
    rw [← hz, getGlz_modGlz_same, getGlz_groupDone hf]
  have hrun : ppLeave s n = fragDrop z n := by
    show retireGo n 5 (modGlz (groupDone s n) n (fun g => { g with pp := none })) = _
    rw [hz]
    exact retireGo_ended hglz h 4
  obtain ⟨d1, d2, d3⟩ := fragDrop_shown hglz
  rw [hrun]
  exact ⟨d1, d2, fun hc => hone.trans (d3 hc)⟩

/-! ## The colour update of an ORDERED group (R676) -/

theorem glzHeld_smpRead (s : State) (n : Nat) (f : Frag) (g : CGroup) : GlzHeld s (smpRead s n f g).2 n :=
  glzHeld_glzRead s n g.tnode (chanAddr f g 0) (g.ch * chanSize g.fmt)

theorem glzHeld_smpWrite (s : State) (n : Nat) (f : Frag) (g : CGroup) (cs : List (Nat × Word)) : GlzHeld s (smpWrite s n f g cs) n :=
  glzHeld_foldl fun x _ z => glzHeld_glzWrite z n g.tnode (chanAddr f g x.1) _

theorem glzHeld_blendOne (s : State) (n : Nat) (f : Frag) (g : CGroup) : GlzHeld s (blendOne s n f g) n := by
  obtain ⟨r, hr⟩ : ∃ r, (if g.blend = 0 then (some [], s) else smpRead s n f g) = r := ⟨_, rfl⟩
  have hread : GlzHeld s r.2 n := by
    rw [← hr]
    split
    · exact .refl s n
    · exact glzHeld_smpRead s n f g
  unfold blendOne
  rw [hr]
  obtain ⟨d, z⟩ := r
  cases d with
  | none => exact hread
  | some d => exact hread.trans (glzHeld_smpWrite z n f g _)

/-! ## The instruction of a program that runs (R677, R678) -/

theorem ppNow_holds {s : State} {n op : Nat} {p : PPRun} {w : Word} {f : Frag} {gr : CGroup}
    (h : ppNow s n op = some (p, w, f, gr)) : (getGlz s n).frags = f :: (getGlz s n).frags.tail := by
  unfold ppNow at h
  split at h
  · next p' f' _ hf =>
    dsimp only at h
    split at h
    · obtain ⟨-, h⟩ := Prod.mk.inj (Option.some.inj h)
      obtain ⟨-, h⟩ := Prod.mk.inj h
      obtain ⟨rfl, -⟩ := Prod.mk.inj h
      unfold headFrag at hf
      cases hl : (getGlz s n).frags with
      | nil => rw [hl] at hf; cases hf
      | cons a l => rw [hl] at hf; rw [Option.some.inj hf]; rfl
    · cases h
  · cases h

/-- The run goes on, and beside it the Glazier is as before. -/
theorem ppPut_shown (s : State) (n : Nat) (p : PPRun) :
    (getGlz (ppPut s n p) n).pp = some { p with pc := p.pc + 1 } ∧ (getGlz (ppPut s n p) n).frags = (getGlz s n).frags
      ∧ ppPut s n p = { s with glzs := (ppPut s n p).glzs } := by
  have h := getGlz_modGlz_same s n (fun g => { g with pp := some { p with pc := p.pc + 1 } })
  have hfrags : (getGlz (modGlz s n (fun g => { g with pp := some { p with pc := p.pc + 1 } })) n).frags = (getGlz s n).frags := by
    rw [h]
  exact ⟨congrArg Glz.pp h, hfrags, rfl⟩

theorem ppSet_shown (s : State) (n : Nat) (p : PPRun) (w v : Word) :
    (getGlz (ppSet s n p w v) n).pp = some (ppNext p w v) ∧ (getGlz (ppSet s n p w v) n).frags = (getGlz s n).frags
      ∧ ppSet s n p w v = { s with glzs := (ppSet s n p w v).glzs } := ppPut_shown s n _

section
variable {s : State} {n op : Nat} {p : PPRun} {w : Word} {f : Frag} {gr : CGroup} (hnow : ppNow s n op = some (p, w, f, gr))
include hnow

theorem exec_ppRow {c : Instr} {v : Word → Word → Word → Word} (hc : (c, op, v) ∈ ppRows n) :
    exec c s = .next (ppSet s n p w (v (ppReg p (fld w 26 24)) (ppReg p (fld w 23 21)) (ppReg p (fld w 20 18)))) := by
  have halu : ppAlu s n op v = ppSet s n p w (v (ppReg p (fld w 26 24)) (ppReg p (fld w 23 21)) (ppReg p (fld w 20 18))) := by
    rw [ppAlu, hnow]
  rw [← halu]
  simp only [ppRows, List.mem_cons, Prod.mk.injEq, List.not_mem_nil, or_false] at hc
  rcases hc with ⟨rfl, rfl, rfl⟩ | ⟨rfl, rfl, rfl⟩ | ⟨rfl, rfl, rfl⟩ | ⟨rfl, rfl, rfl⟩ | ⟨rfl, rfl, rfl⟩ | ⟨rfl, rfl, rfl⟩
    | ⟨rfl, rfl, rfl⟩ | ⟨rfl, rfl, rfl⟩ | ⟨rfl, rfl, rfl⟩ | ⟨rfl, rfl, rfl⟩ | ⟨rfl, rfl, rfl⟩ <;> rfl

theorem exec_ppLdi (ho : op = 0x0C) : exec (.ppLdi n) s = .next (ppSet s n p w (BitVec.ofNat 32 (fld w 15 0 * 65536))) := by
  subst ho
  show execPpLdi n s = _
  rw [execPpLdi, hnow]

theorem exec_ppLdf (ho : op = 0x0D) (hi : fld w 15 0 < 10) :
    exec (.ppLdf n) s = .next (ppSet s n p w
      (if fld w 15 0 < 8 then (f.attrs[fld w 15 0]?).getD 0 else if fld w 15 0 = 8 then f.alpha else f.z)) := by
  subst ho
  refine congrArg Host.Outcome.next ?_
  rw [ppField, hnow]
  dsimp only
  by_cases h8 : fld w 15 0 < 8
  · rw [if_pos h8, if_pos h8]
  · by_cases he : fld w 15 0 = 8
    · rw [if_neg h8, if_neg h8, if_pos he, if_pos he]
    · rw [if_neg h8, if_neg h8, if_neg he, if_neg he, if_pos (by omega)]

theorem exec_ppLdp (ho : op = 0x0E) {d : List Word} {v : Word} (hd : (smpRead s n f gr).1 = some d) (hv : d[fld w 1 0]? = some v) :
    exec (.ppLdp n) s = .next (ppSet (smpRead s n f gr).2 n p w v) := by
  subst ho
  refine congrArg Host.Outcome.next ?_
  rw [ppPixel, hnow]
  dsimp only
  rw [hd]
  dsimp only
  rw [hv]

theorem exec_ppStp (ho : op = 0x0F) :
    exec (.ppStp n) s = .next (ppPut s n { p with staged := tabPut p.staged (fld w 1 0) (ppReg p (fld w 23 21)) }) := by
  subst ho
  refine congrArg Host.Outcome.next ?_
  rw [ppStage, hnow]

theorem exec_ppKill (ho : op = 0x10) :
    exec (.ppKill n) s = .next (if Fv.lt (f32 (ppReg p (fld w 23 21))) (.fin false 0 0) then ppLeave s n else ppPut s n p) := by
  subst ho
  refine congrArg Host.Outcome.next ?_
  rw [ppKillIf, hnow]

theorem exec_ppEnd (ho : op = 0) :
    exec (.ppEnd n) s = .next (ppLeave
      (if p.bad then s else smpWrite s n f gr (p.staged.filter (fun x => decide (x.1 < gr.ch)))) n) := by
  subst ho
  refine congrArg Host.Outcome.next ?_
  rw [ppCommit, hnow]

end

/-- Settles O55: every instruction of Table 16.4. -/
theorem pixelProgramsRun : Obligations.PixelProgramsRun := by
  unfold Obligations.PixelProgramsRun
  intro s n op p w f gr hnow only reg a i rest gone
  have hf := ppNow_holds hnow
  refine ⟨fun c v hc => ?_, fun ho => ?_, fun ho hi => ?_, fun ho d v hd hv => ?_, fun ho => ?_, fun ho => ⟨fun hlt => ?_, fun hlt hl => ?_⟩,
    fun ho hst hl => ?_⟩
  · exact ⟨_, exec_ppRow hnow hc, ppSet_shown s n p w _⟩
  · exact ⟨_, exec_ppLdi hnow ho, ppSet_shown s n p w _⟩
  · exact ⟨_, exec_ppLdf hnow ho hi, ppSet_shown s n p w _⟩
  · obtain ⟨s1, s2, s3⟩ := ppSet_shown (smpRead s n f gr).2 n p w v
    have hheld := glzHeld_smpRead s n f gr
    exact ⟨_, exec_ppLdp hnow ho hd hv, s1, s2.trans (by rw [hheld]), by rw [s3]⟩
  · obtain ⟨s1, s2, s3⟩ := ppPut_shown s n { p with staged := tabPut p.staged (fld w 1 0) (ppReg p (fld w 23 21)) }
    exact ⟨_, _, exec_ppStp hnow ho, s1, rfl, rfl, tabGet_tabPut_same _ _ _ _, fun k hk => tabGet_tabPut_ne _ _ _ _ _ hk, s2, s3⟩
  · have hrun := exec_ppKill hnow ho
    rw [if_neg (fun h => by rw [show Fv.lt (f32 (ppReg p (fld w 23 21))) (.fin false 0 0) = false from hlt] at h; cases h)] at hrun
    exact ⟨_, hrun, ppPut_shown s n p⟩
  · have hrun := exec_ppKill hnow ho
    rw [if_pos (show Fv.lt (f32 (ppReg p (fld w 23 21))) (.fin false 0 0) = true from hlt)] at hrun
    obtain ⟨l1, l2, l3⟩ := ppLeave_shown hf hl
    exact ⟨_, hrun, l2, l1, l3⟩
  · have hrun := exec_ppEnd hnow ho
    have hno : (if p.bad then s else smpWrite s n f gr (p.staged.filter (fun x => decide (x.1 < gr.ch)))) = s := by
      split
      · rfl
      · next hb => rw [hst.resolve_left hb]; rfl
    rw [hno] at hrun
    obtain ⟨l1, l2, l3⟩ := ppLeave_shown hf hl
    exact ⟨_, hrun, l2, l1, l3⟩

/-! ## The fragment whose turn it is (R675, R676) -/

theorem exec_fragmentRetire {s : State} {n : Nat} (hl : glzLive s n = true) (hp : (getGlz s n).pp = none) :
    exec (.fragmentRetire n []) s = .next (retireGo n 5 s) := by
  refine congrArg Host.Outcome.next (if_neg ?_)
  rintro (h | h)
  · exact absurd ((show glzLive s n = false from h).symm.trans hl) (by decide)
  · have hnone : (getGlz (addFaults s []) n).pp = none := hp
    rw [hnone] at h
    cases h

theorem retireGo_interlock {s : State} {n : Nat} {f : Frag} {rest : List Frag} (hf : (getGlz s n).frags = f :: rest) {g : CGroup}
    (hg : f.groups[f.next]? = some g) (hm : g.mode = 2) (k : Nat) :
    retireGo n (k + 1) s
      = modGlz s n (fun x => { x with pp := some { pc := g.pstart, regs := List.replicate 8 0, staged := [] } }) := by
  have hhead : headFrag s n = some f := by rw [headFrag, hf]; rfl
  rw [retireGo, hhead]
  dsimp only
  rw [hg]
  exact if_pos hm

theorem retireGo_ordered {s : State} {n : Nat} {f : Frag} {rest : List Frag} (hf : (getGlz s n).frags = f :: rest) {g : CGroup}
    (hg : f.groups[f.next]? = some g) (hm : g.mode = 1) (k : Nat) :
    retireGo n (k + 1) s = retireGo n k (groupDone (blendOne s n f g) n) := by
  have hhead : headFrag s n = some f := by rw [headFrag, hf]; rfl
  rw [retireGo, hhead]
  dsimp only
  rw [hg]
  dsimp only
  rw [hm, if_neg (by decide), if_pos rfl]
  rfl

/-- Settles O56: a fragment is blended, given to its program, or gone, and a program's stores are written. -/
theorem fragmentsRetire : Obligations.FragmentsRetire := by
  unfold Obligations.FragmentsRetire
  intro s n f rest hl hf gone
  refine ⟨fun hp => ⟨fun hg => ?_, fun g hg hm => ?_, fun g hg hm hlast => ?_⟩, fun p w g hnow hb hlast => ?_⟩
  · have hrun := exec_fragmentRetire hl hp
    rw [retireGo_ended hf hg 4] at hrun
    obtain ⟨d1, d2, d3⟩ := fragDrop_shown hf
    exact ⟨_, hrun, ⟨d1, d2⟩, d3⟩
  · have hrun := exec_fragmentRetire hl hp
    rw [retireGo_interlock hf hg hm 4] at hrun
    have hglz := getGlz_modGlz_same s n (fun x => { x with pp := some { pc := g.pstart, regs := List.replicate 8 0, staged := [] } })
    exact ⟨_, hrun, congrArg Glz.pp hglz, (congrArg Glz.frags hglz).trans hf, onlyGlz_modGlz s n _⟩
  · have hrun := exec_fragmentRetire hl hp
    rw [retireGo_ordered hf hg hm 4] at hrun
    have hb : (getGlz (blendOne s n f g) n).frags = f :: rest := by rw [glzHeld_blendOne s n f g, ← hf]
    have hnext := congrArg Glz.frags (getGlz_groupDone hb)
    obtain ⟨d1, d2, d3⟩ := fragDrop_shown hnext
    rw [retireGo_ended hnext hlast 3] at hrun
    exact ⟨_, hrun, ⟨d1, d2⟩, fun hc => (d3 hc).mem⟩
  · have hrun := exec_ppEnd hnow rfl
    rw [hb, if_neg (by decide)] at hrun
    have hw : (getGlz (smpWrite s n f g (p.staged.filter (fun x => decide (x.1 < g.ch)))) n).frags = f :: rest := by
      rw [glzHeld_smpWrite s n f g _, ← hf]
    obtain ⟨l1, l2, l3⟩ := ppLeave_shown hw hlast
    exact ⟨_, hrun, ⟨l1, l2⟩, fun hc => (l3 hc).mem⟩

end Sys2Proof.Machine
end
